-- ==== Sys2Proof/Word.lean ====
section
/-!
DEFINITION. The words of the module and their plainest arithmetic: 64-bit registers, bytes, byte strings, and the
saturating and wrapping counters that the register tables speak of.
-/
namespace Sys2Proof

abbrev Word := BitVec 64
abbrev Byte := BitVec 8
/-- A byte string, first byte first. -/
abbrev Bytes := List Byte

/-- The largest value a counter of `w` bits holds. -/
def maxOf (w : Nat) : Nat := 2 ^ w - 1

/-- A saturating counter of `w` bits ("saturating" in a register table). -/
def satAdd (w a b : Nat) : Nat := min (a + b) (maxOf w)

/-- A wrapping counter of `w` bits ("wrapping" in a register table). -/
def wrapAdd (w a b : Nat) : Nat := (a + b) % 2 ^ w

/-- The value of a Boolean as a bit. -/
def bit (b : Bool) : Nat := if b then 1 else 0

/-- Bits [hi:lo] of a number. -/
def bitsOf (n hi lo : Nat) : Nat := (n / 2 ^ lo) % 2 ^ (hi + 1 - lo)

/-- One bit of a number, as a Boolean. -/
def tst (n i : Nat) : Bool := n.testBit i

theorem maxOf_lt (w : Nat) : maxOf w < 2 ^ w := by
  unfold maxOf
  have : 0 < 2 ^ w := Nat.two_pow_pos w
  omega

theorem satAdd_le (w a b : Nat) : satAdd w a b ≤ maxOf w := Nat.min_le_right _ _

theorem wrapAdd_lt (w a b : Nat) : wrapAdd w a b < 2 ^ w := Nat.mod_lt _ (Nat.two_pow_pos w)

theorem bitsOf_lt (n hi lo : Nat) : bitsOf n hi lo < 2 ^ (hi + 1 - lo) := Nat.mod_lt _ (Nat.two_pow_pos _)

end Sys2Proof
end

