-- ==== Sys2Proof/Syntax.lean ====
section
/-!
DEFINITION. The commands of the module: one constructor for each row of spec/opcode_table.json, with the row's operands.
A row is a command of the control host, a packet or a flit that arrives, an instruction that a core's sequencer issues,
or an event that the module's own hardware brings about.
-/
namespace Sys2Proof

/-- A core, 0 to 191; core n sits on die n / 48 (the headline table of 00_scope.md). -/
abbrev Core := Fin 192
abbrev ArrId := Fin 8
/-- A SerDes port, numbered by R400. -/
abbrev Port := Fin 48
/-- A control port, CP0 or CP1. -/
abbrev Cp := Fin 2
abbrev Die := Fin 4
/-- A function FN0 to FN8. -/
abbrev Fn := Fin 9

/-- The two job slots of a core (R137, R338). -/
inductive Slot where
  | prim | fill
  deriving DecidableEq, Repr

/-- Where a control frame comes from, and where its response goes (R66): an IPv6 or an IPv4 address, and a UDP port. -/
structure NetAddr where
  v6   : Bool
  addr : BitVec 128
  port : BitVec 16
  deriving DecidableEq, Repr

/-- The control port that a frame arrives on, the fields of its header that the sender chooses (R62), and the sender. -/
structure CtlHdr where
  port    : Cp
  seq     : BitVec 32
  job     : BitVec 12
  release : BitVec 64
  src     : NetAddr
  deriving DecidableEq, Repr

/-- The register form of an instruction word, bits [127:8] (R146). Bits [7:0] are the row's own opcode. -/
structure RegForm where
  pred  : BitVec 3
  pneg  : Bool
  rsv0  : BitVec 4
  rd    : BitVec 6
  ra    : BitVec 6
  rb    : BitVec 6
  rc    : BitVec 6
  fmt   : BitVec 4
  smode : BitVec 2
  rnd   : BitVec 2
  sub   : BitVec 4
  rsv1  : BitVec 12
  imm   : BitVec 64
  deriving DecidableEq, Repr

/-- The tensor form of an instruction word (R146, R149). A field that the row does not have is a reserved field of it. -/
structure TensorForm where
  pred   : BitVec 3
  pneg   : Bool
  rsv0   : BitVec 4
  array  : BitVec 3
  fmt    : BitVec 4
  smode  : BitVec 2
  rnd    : BitVec 2
  first  : Bool
  bank   : Bool
  tcEn   : Bool
  tc     : BitVec 8
  moon   : BitVec 12
  sreg   : BitVec 5
  rsv1   : BitVec 9
  addr   : BitVec 22
  bsaddr : BitVec 22
  rows   : BitVec 9
  stride : BitVec 9
  rsv2   : BitVec 2
  deriving DecidableEq, Repr

/-- A region record (R325). -/
structure RegionRec where
  region : BitVec 14
  job    : BitVec 12
  write  : Bool
  read   : Bool
  ports  : BitVec 4
  base   : BitVec 55
  length : BitVec 43
  tc     : BitVec 8
  core   : BitVec 8
  tcEn   : Bool
  deriving DecidableEq, Repr

/-- The 32-byte header of a Molind transport packet (R418), without its opcode, which the row names. -/
structure MolHdr where
  version : BitVec 2
  desc    : Bool
  hops    : BitVec 2
  dst     : BitVec 12
  src     : BitVec 12
  job     : BitVec 12
  srcCtx  : BitVec 16
  psn     : BitVec 24
  length  : BitVec 13
  key     : BitVec 32
  addr    : BitVec 64
  deriving DecidableEq, Repr

/-- The 32-byte collective header (R361). -/
structure ColHdr where
  kind   : BitVec 4
  job    : BitVec 12
  layout : BitVec 8
  coll   : BitVec 10
  dcore  : BitVec 8
  dtc    : BitVec 8
  dadd   : BitVec 8
  dstVa  : Bool
  ledger : Bool
  step   : BitVec 32
  srcMod : BitVec 12
  srcCore : BitVec 8
  dst    : BitVec 55
  offset : BitVec 32
  mlen   : BitVec 32
  msg    : BitVec 32
  deriving DecidableEq, Repr

/-- What a RoCEv2 packet on a front port carries (R323); an IPv4 source is written ::ffff:a.b.c.d. -/
structure RoceHdr where
  src   : BitVec 128
  qpn   : BitVec 24
  psn   : BitVec 24
  ce    : Bool          -- the packet is CE-marked
  icrcOk : Bool
  key   : BitVec 32
  va    : BitVec 64
  len   : BitVec 31
  deriving DecidableEq, Repr

/-- The kinds of NAK a RoCEv2 responder sends (R323). -/
inductive RoceNak where
  | sequence | rnr | remoteAccess | invalidRequest
  deriving DecidableEq, Repr

/-- What makes an arriving RoCEv2 packet unsupported (R323). -/
inductive RoceOdd where
  | send | atomic | otherService
  deriving DecidableEq, Repr

/-- A capability flit's payload (R405). -/
structure CapFlit where
  linkVersions      : BitVec 8
  transportVersions : BitVec 8
  rates   : BitVec 2
  lanesOk : BitVec 8
  hitless : Bool
  placed  : Bool
  group   : BitVec 7
  tray    : BitVec 3
  slot    : BitVec 2
  groupsM1 : BitVec 7
  numericGen : BitVec 8
  serial  : BitVec 64
  sport   : BitVec 6
  deriving DecidableEq, Repr

/-- A timestamp flit's payload (R417). -/
structure TsFlit where
  response : Bool
  depth : BitVec 4
  state : BitVec 2
  id    : BitVec 16
  t1    : BitVec 64
  t2    : BitVec 64
  t3    : BitVec 64
  deriving DecidableEq, Repr

/-- The PTP messages that a delay request-response client acts on (R34); every other message is one of the rest. -/
inductive PtpKind where
  | sync | followUp | delayResp | other
  deriving DecidableEq, Repr

/-- A PTP message that arrives over UDP on a control port (R34): over IPv6 or IPv4, its sequence number, whether
a Sync has a Follow_Up (a two-step master), and its timestamp and correction in quarters of a ns. -/
structure PtpMsg where
  v6      : Bool
  kind    : PtpKind
  seq     : BitVec 16
  twoStep : Bool
  time    : BitVec 66
  corr    : Int
  deriving DecidableEq, Repr

/-- A datagram that arrives on a control port: where it comes from, and its bytes (R62, R66). -/
structure Datagram where
  src   : NetAddr
  bytes : Bytes
  deriving DecidableEq, Repr

/-- Which message of its sender a put's packet belongs to, how many bytes of it go before this packet, and whether it is the last
one (R327, R328; log entry 165). -/
structure PutMark where
  msg  : BitVec 32
  at_  : BitVec 48
  last : Bool
  deriving DecidableEq, Repr

/-- Whether an RDMA WRITE packet begins and ends its message (R323; log entry 46). -/
structure WriteEnds where
  first : Bool
  last  : Bool
  deriving DecidableEq, Repr

/-- A flit that arrives on a port (R401). -/
structure PortFlit where
  port : Port
  flit : BitVec 2048
  deriving DecidableEq, Repr

/-- What the end of a 1 ms window reports of a link's lanes: those that lost lock, and each lane's symbol errors and uncorrectable
codewords (R408). -/
structure LaneReport where
  lost      : BitVec 8
  symbols   : List (BitVec 32)
  codewords : List (BitVec 16)
  deriving DecidableEq, Repr

/-- What a training ends with beside its clean lanes: whether they trained at 112 Gb/s, and the peer's MAC address (R406, R415). -/
structure Trained where
  half : Bool
  mac  : BitVec 48
  deriving DecidableEq, Repr

/-- An ARP or neighbour discovery packet: whether it is an answer, the address that it is about, and a MAC address (R416). -/
structure NeighMsg where
  reply  : Bool
  target : BitVec 128
  mac    : BitVec 48
  deriving DecidableEq, Repr

/-- A temperature sensor that can trip (R459). -/
inductive Sensor where
  | die (d : Die) | hbm (stack : Fin 20) | io
  deriving DecidableEq, Repr

/-- One constructor for each row of spec/opcode_table.json. -/
inductive Instr where
  -- power, resets and pins
  | powerOn
  | holdNAssert
  | holdNRelease
  | modResetTakesEffect
  | resetSequenceStage
  | thermalTrip (sensor : Sensor) (temp : BitVec 8)
  | thermalTripCleared
  | inputFault (volts : BitVec 13)
  | refclkLoss
  | inputRecovered
  -- control frames
  | controlFrameMalformed (p : Cp) (d : Datagram)
  | runtDatagramRx (p : Cp)
  | ipFragmentRx (p : Cp)
  | oversizeFrameRx (p : Cp)
  | controlFrameOnDataPort (p : Port)
  | dataPacketOnControlPort (p : Cp)
  | unknownOpcode (p : Cp) (d : Datagram)
  | releasedCommandStart (p : Cp)
  | csrRead (h : CtlHdr) (offs : List (BitVec 26))
  | csrWrite (h : CtlHdr) (pairs : List (BitVec 26 × BitVec 64))
  | imageBegin (h : CtlHdr) (length : BitVec 32) (mask : BitVec 9)
  | imageData (h : CtlHdr) (offset : BitVec 32) (words : List (BitVec 64))
  | imageEnd (h : CtlHdr)
  | imageAbort (h : CtlHdr)
  | modReset (h : CtlHdr)
  | rstFn (h : CtlHdr) (mask : BitVec 9)
  | functionResetComplete (fn : Fn)
  | powerState (h : CtlHdr) (target : BitVec 2) (epoch : BitVec 48)
  | powerTransitionDone
  | nonce (h : CtlHdr)
  | quote (h : CtlHdr) (nonce : BitVec 256)
  | certRead (h : CtlHdr)
  | ownerEnroll (h : CtlHdr) (nonce : BitVec 256) (modulus : BitVec 3072) (signed : Bool) (sig : BitVec 3072)
  | ownerClear (h : CtlHdr) (nonce : BitVec 256) (signer : Bool) (slot : BitVec 2) (modulus : BitVec 3072)
      (sig : BitVec 3072)
  | regionReg (h : CtlHdr) (r : RegionRec)
  | regionDereg (h : CtlHdr) (region : BitVec 14) (job : BitVec 12)
  | regionDeregComplete (region : BitVec 14)
  | doorbell (h : CtlHdr) (records : BitVec 46) (count : BitVec 9)
  | commit (h : CtlHdr) (step : BitVec 32) (ctc : BitVec 8) (ctcEn : Bool) (epoch : BitVec 48)
  | rollback (h : CtlHdr) (step : BitVec 32) (ctc : BitVec 8) (ctcEn : Bool) (epoch : BitVec 48)
  -- the tide
  | tideTick
  | epochBoundary
  | tideApplyArm (epoch : BitVec 48) (job : BitVec 12) (scope : Bool)
  | tideApplyCancel (epoch : BitVec 48) (job : BitVec 12) (scope : Bool)
  | tideSet (tide : BitVec 64)
  | tideSyncSrcWrite (v : BitVec 64)
  | ptpMessageRx (p : Cp) (domain : BitVec 8) (m : PtpMsg)
  | tidePpsInEdge
  | syncMeasurementTimeout
  | tidePpsOutStart
  | tidePpsOutEnd
  | timestampExchangeSend (p : Port)
  | timestampFlitRx (p : Port) (flit : BitVec 2048) (arrival : BitVec 64)
  | slotBoundary (k : Fin 8)
  -- launches, tasks and fetch
  | launchStart (c : Core) (sl : Slot)
  | taskEnd (c : Core) (sl : Slot)
  | instructionFetchWalkDone (c : Core) (sl : Slot)
  -- control instructions
  | nop (c : Core) (sl : Slot) (f : RegForm)
  | endInstr (c : Core) (sl : Slot) (f : RegForm)
  | br (c : Core) (sl : Slot) (f : RegForm)
  | loop (c : Core) (sl : Slot) (f : RegForm)
  | event (c : Core) (sl : Slot) (f : RegForm)
  -- scalar instructions
  | smovi (c : Core) (sl : Slot) (f : RegForm)
  | sadd (c : Core) (sl : Slot) (f : RegForm)
  | ssub (c : Core) (sl : Slot) (f : RegForm)
  | smul (c : Core) (sl : Slot) (f : RegForm)
  | sand (c : Core) (sl : Slot) (f : RegForm)
  | sor (c : Core) (sl : Slot) (f : RegForm)
  | sxor (c : Core) (sl : Slot) (f : RegForm)
  | sshl (c : Core) (sl : Slot) (f : RegForm)
  | sshr (c : Core) (sl : Slot) (f : RegForm)
  | ssra (c : Core) (sl : Slot) (f : RegForm)
  | scmp (c : Core) (sl : Slot) (f : RegForm)
  | plog (c : Core) (sl : Slot) (f : RegForm)
  | sld (c : Core) (sl : Slot) (f : RegForm)
  | sst (c : Core) (sl : Slot) (f : RegForm)
  | sinfo (c : Core) (sl : Slot) (f : RegForm)
  -- tensor instructions and the arrays
  | tload (c : Core) (sl : Slot) (f : TensorForm)
  | tstream (c : Core) (sl : Slot) (f : TensorForm)
  | tdrain (c : Core) (sl : Slot) (f : TensorForm)
  | arrayCommandStart (c : Core) (a : ArrId)
  | tloadDone (c : Core) (a : ArrId)
  | tstreamRowsRead (c : Core) (a : ArrId)
  | tstreamPassDone (c : Core) (a : ArrId)
  | tdrainDone (c : Core) (a : ArrId)
  -- vector instructions
  | vld (c : Core) (sl : Slot) (f : RegForm)
  | vst (c : Core) (sl : Slot) (f : RegForm)
  | vadd (c : Core) (sl : Slot) (f : RegForm)
  | vsub (c : Core) (sl : Slot) (f : RegForm)
  | vmul (c : Core) (sl : Slot) (f : RegForm)
  | vfma (c : Core) (sl : Slot) (f : RegForm)
  | vmax (c : Core) (sl : Slot) (f : RegForm)
  | vmin (c : Core) (sl : Slot) (f : RegForm)
  | vabs (c : Core) (sl : Slot) (f : RegForm)
  | vneg (c : Core) (sl : Slot) (f : RegForm)
  | vmov (c : Core) (sl : Slot) (f : RegForm)
  | vcmp (c : Core) (sl : Slot) (f : RegForm)
  | vbcast (c : Core) (sl : Slot) (f : RegForm)
  | vshuf (c : Core) (sl : Slot) (f : RegForm)
  | vred (c : Core) (sl : Slot) (f : RegForm)
  | vdiv (c : Core) (sl : Slot) (f : RegForm)
  | vsqrt (c : Core) (sl : Slot) (f : RegForm)
  | vexp (c : Core) (sl : Slot) (f : RegForm)
  | vlog (c : Core) (sl : Slot) (f : RegForm)
  | vrcp (c : Core) (sl : Slot) (f : RegForm)
  | vrsq (c : Core) (sl : Slot) (f : RegForm)
  -- DMA, trigger, sync and numeric instructions
  | dmaq (c : Core) (sl : Slot) (f : RegForm)
  | dmaf (c : Core) (sl : Slot) (f : RegForm)
  | tcset (c : Core) (sl : Slot) (f : RegForm)
  | tcadd (c : Core) (sl : Slot) (f : RegForm)
  | tcrd (c : Core) (sl : Slot) (f : RegForm)
  | waittc (c : Core) (sl : Slot) (f : RegForm)
  | waitdma (c : Core) (sl : Slot) (f : RegForm)
  | waitarr (c : Core) (sl : Slot) (f : RegForm)
  | waittide (c : Core) (sl : Slot) (f : RegForm)
  | waitslot (c : Core) (sl : Slot) (f : RegForm)
  | waitConditionMet (c : Core) (sl : Slot)
  | waitLimitExpired (c : Core) (sl : Slot)
  | vcvt (c : Core) (sl : Slot) (f : RegForm)
  | vseed (c : Core) (sl : Slot) (f : RegForm)
  | vrng (c : Core) (sl : Slot) (f : RegForm)
  | ntag (c : Core) (sl : Slot) (f : RegForm)
  | nmaxr (c : Core) (sl : Slot) (f : RegForm)
  -- the operation table
  | numEventRecord (index : Nat)
  | numOpclrEntry (entry : BitVec 12)
  | numOpclrAll
  | numSilWrite (v : BitVec 64)
  | numOpseedWrite (max : BitVec 32) (step : BitVec 32)
  | tcValueWrite (c : Core) (tc : BitVec 8) (value : BitVec 32)
  -- DMA queues
  | dmaDescriptorStart (c : Core) (q : Fin 16)
  | dmaCopy (c : Core) (id : Nat)
  | dmaPut (c : Core) (id : Nat)
  | dmaGet (c : Core) (id : Nat)
  | dmaFlagWrite (c : Core) (id : Nat)
  | dmaDescriptorComplete (c : Core) (id : Nat)
  | fenceRelease (c : Core) (q : Fin 16)
  | fenceTimeout (c : Core) (q : Fin 16)
  -- KV reader and KV stream unit
  | kvRead (c : Core) (id : Nat)
  | kvReadPageDone (c : Core) (id : Nat)
  | kvPageOpen (c : Core) (id : Nat)
  | kvPageSeal (c : Core) (id : Nat)
  | kvPageHint (c : Core) (id : Nat)
  | kvPageClose (c : Core) (id : Nat)
  | kvPageOpPageDone (c : Core) (id : Nat)
  | kvSpillStart (pool : Fin 64)
  | kvSpillDone (window : BitVec 14) (page : BitVec 22)
  | kvReturnStart (pool : Fin 64)
  | kvReturnDone (window : BitVec 14) (page : BitVec 22)
  -- MMU and HBM
  | mmuInvalPages (job : BitVec 12) (va : BitVec 39) (count : BitVec 32)
  | mmuInvalJob (job : BitVec 12)
  | mmuInvalAll
  | mmuInvalWindows
  | mmuInvalDone
  | mmuPoolEnable (pool : Fin 64) (listBase : BitVec 46) (job : BitVec 12)
  | mmuPoolFaultClear (pool : Fin 64)
  | hbmPatrolScrub (unit : BitVec 40)
  | hbmTempThreshold (stack : Fin 20) (temp : BitVec 8)
  -- power management
  | pwrSample (watts : BitVec 13) (volts : BitVec 13)
  | pwrCompare
  | thermalStepDown (d : Die) (temp : BitVec 8)
  | currentStepDown (d : Die)
  -- collectives
  | colArm (slot : BitVec 16) (count : BitVec 16)
  | armedFireIssue (slot : BitVec 16)
  | fireSend (slot : BitVec 16)
  | fireCounterAdd (slot : BitVec 16)
  | fireFlagWrite (slot : BitVec 16)
  | fireDone (slot : BitVec 16)
  | colWatchdogExpiry (slot : BitVec 16)
  | colAbortOne (job : BitVec 12) (coll : BitVec 10)
  | colAbortAll (job : BitVec 12)
  | collectiveSendRx (p : Port) (h : MolHdr) (ch : ColHdr) (data : Bytes)
  | collectiveCounterAddRx (p : Port) (h : MolHdr) (ch : ColHdr)
  -- the transport
  | molindPutRx (p : Port) (h : MolHdr) (m : PutMark) (data : Bytes)
  | molindGetRequestRx (p : Port) (h : MolHdr) (len : BitVec 31)
  | molindGetResponseRx (p : Port) (h : MolHdr) (last : Bool) (data : Bytes)
  | molindFlagWriteRx (p : Port) (h : MolHdr) (value : BitVec 64)
  | boardWriteRx (p : Port) (h : MolHdr) (data : Bytes)
  | boardReadRx (p : Port) (h : MolHdr) (len : BitVec 13)
  | boardReadResponseRx (p : Port) (h : MolHdr) (data : Bytes)
  | molindAckRx (p : Port) (h : MolHdr)
  | molindNakRemoteRx (p : Port) (h : MolHdr) (code : BitVec 8)
  | molindNakSequenceRx (p : Port) (h : MolHdr)
  | molindSelectiveAckRx (p : Port) (h : MolHdr) (bitmap : BitVec 64)
  | molindPacketForward (p : Port) (op : BitVec 4) (h : MolHdr) (data : Bytes)
  | transportAckTimeout (ctx : BitVec 16)
  | roceRdmaWriteRx (p : Port) (h : RoceHdr) (imm : Bool) (ends : WriteEnds) (data : Bytes)
  | roceRdmaReadRx (p : Port) (h : RoceHdr)
  | roceUnsupportedRx (p : Port) (h : RoceHdr) (what : RoceOdd)
  | roceReadResponseRx (p : Port) (h : RoceHdr) (last : Bool) (data : Bytes)
  | roceAckRx (p : Port) (h : RoceHdr)
  | roceNakRx (p : Port) (h : RoceHdr) (what : RoceNak)
  | roceCnpRx (p : Port) (h : RoceHdr)
  | roceRateIncrease (ctx : BitVec 16)
  | xptCtxInvalidate (ctx : BitVec 16)
  | xptCtxValidate (ctx : BitVec 16)
  -- links
  | linkDataFlitRx (p : Port) (flit : BitVec 2048)
  | linkIdleFlitRx (p : Port) (flit : BitVec 2048)
  | linkRetryRequestRx (p : Port) (head : BitVec 32) (rest : BitVec 2016)
  | linkCapabilityRx (p : Port) (flit : BitVec 2048)
  | linkCapabilityAckRx (f : PortFlit)
  | capabilityResend (p : Port)
  | linkLaneDropRx (p : Port) (flit : BitVec 2048)
  | laneFailureDetected (p : Port) (r : LaneReport)
  | linkRetryTimeout (p : Port)
  | linkTrained (p : Port) (lanes : BitVec 8) (x : Trained)
  | linkTrainRetry (p : Port)
  | linkLpiEnter (p : Port)
  | linkLpiWake (p : Port)
  | ethNegotiationDone (p : Port) (peerModes : BitVec 3)
  | linkRetrain (p : Port)
  | linkPrbs (p : Port)
  | ethArpNdRx (e : Fin 7) (v6 : Bool) (m : NeighMsg)
  -- register writes with behaviour of their own
  | ctlPlaceWrite (v : BitVec 64)
  | cpEnableWrite (p : Cp) (v : BitVec 64)
  | grdCommittedWrite (j : Fin 64) (v : BitVec 32)
  | mediaTailWrite (e : Fin 2) (tail : BitVec 16)
  -- the media front
  | mediaDecodeTask (e : Fin 2)
  | mediaEncodeTask (e : Fin 2)
  | mediaTaskComplete (e : Fin 2)
  -- event log, SMBus and power application
  | evtTailWrite (tail : BitVec 10)
  | evtAlertClear
  | smbStatusRead
  | smbVoltageRead
  | smbPowerRead
  | smbPowerIntervalRead
  | smbEnergyRead
  | smbTemperatureRead
  | smbIdentityRead
  | smbUnknownRead (cmd : BitVec 8) (len : BitVec 8)
  | smbWriteRefused (cmd : BitVec 8)
  | powerAppliedAtJ3 (volts : BitVec 13) (addr1 : Bool) (addr0 : Bool)
  | railsInRegulation
  | arithmeticClockTick (c : Core)
  deriving DecidableEq, Repr

end Sys2Proof
end

