-- ==== Sys2Proof/Decode.lean ====
section
/-!
DEFINITION. The command that a word spells by the bits of spec/opcode_table.json. No row of the table gives bits: a row is
a control frame, a packet, an issue of a core's sequencer or an event of the module's own, so no word spells one.
-/
namespace Sys2Proof

/-- The command that a word of `nbits` bits spells: none, since no row gives bits. -/
def decodeTableWord (_nbits _w : Nat) : Option Instr := none

end Sys2Proof
end

