-- ==== Sys2Proof/Machine/Crypto.lean ====
section
/-!
DEFINITION. SHA-256 and RSASSA-PSS verification, which the image and key rules name (R73, R81, R82, R96, R97).
-/
namespace Sys2Proof.Machine

abbrev W32 := BitVec 32

/-- The first 32 fractional bits of the cube roots of the first 64 primes. -/
def shaK : List W32 :=
  [0x428a2f98, 0x71374491, 0xb5c0fbcf, 0xe9b5dba5, 0x3956c25b, 0x59f111f1, 0x923f82a4, 0xab1c5ed5] ++
  [0xd807aa98, 0x12835b01, 0x243185be, 0x550c7dc3, 0x72be5d74, 0x80deb1fe, 0x9bdc06a7, 0xc19bf174] ++
  [0xe49b69c1, 0xefbe4786, 0x0fc19dc6, 0x240ca1cc, 0x2de92c6f, 0x4a7484aa, 0x5cb0a9dc, 0x76f988da] ++
  [0x983e5152, 0xa831c66d, 0xb00327c8, 0xbf597fc7, 0xc6e00bf3, 0xd5a79147, 0x06ca6351, 0x14292967] ++
  [0x27b70a85, 0x2e1b2138, 0x4d2c6dfc, 0x53380d13, 0x650a7354, 0x766a0abb, 0x81c2c92e, 0x92722c85] ++
  [0xa2bfe8a1, 0xa81a664b, 0xc24b8b70, 0xc76c51a3, 0xd192e819, 0xd6990624, 0xf40e3585, 0x106aa070] ++
  [0x19a4c116, 0x1e376c08, 0x2748774c, 0x34b0bcb5, 0x391c0cb3, 0x4ed8aa4a, 0x5b9cca4f, 0x682e6ff3] ++
  [0x748f82ee, 0x78a5636f, 0x84c87814, 0x8cc70208, 0x90befffa, 0xa4506ceb, 0xbef9a3f7, 0xc67178f2]

/-- The first 32 fractional bits of the square roots of the first 8 primes. -/
def shaInit : List W32 :=
  [0x6a09e667, 0xbb67ae85, 0x3c6ef372, 0xa54ff53a, 0x510e527f, 0x9b05688c, 0x1f83d9ab, 0x5be0cd19]

/-- A byte string as a number, most significant byte first. -/
def beNat (b : Bytes) : Nat := b.foldl (fun n x => n * 256 + x.toNat) 0

/-- A number as `n` bytes, most significant byte first. -/
def toBe (n v : Nat) : Bytes := (List.range n).map (fun i => BitVec.ofNat 8 (v / 256 ^ (n - 1 - i)))

/-- A byte string as a number, least significant byte first. -/
def leNat (b : Bytes) : Nat := b.foldr (fun x n => n * 256 + x.toNat) 0

/-- A number as `n` bytes, least significant byte first. -/
def toLe (n v : Nat) : Bytes := (List.range n).map (fun i => BitVec.ofNat 8 (v / 256 ^ i))

/-- The padded message of SHA-256. -/
def shaPad (m : Bytes) : Bytes :=
  m ++ [0x80] ++ List.replicate ((119 - m.length % 64) % 64) 0 ++ toBe 8 (8 * m.length)

/-- The 16 words of a block. -/
def shaWords : Nat → Bytes → List W32
  | 0, _ => []
  | k + 1, b => BitVec.ofNat 32 (beNat (b.take 4)) :: shaWords k (b.drop 4)

def shaS0 (x : W32) : W32 := x.rotateRight 7 ^^^ x.rotateRight 18 ^^^ (x >>> 3)
def shaS1 (x : W32) : W32 := x.rotateRight 17 ^^^ x.rotateRight 19 ^^^ (x >>> 10)

/-- The message schedule extended by `k` words; the list is newest first. -/
def shaSched : Nat → List W32 → List W32
  | 0, w => w
  | k + 1, w =>
    shaSched k ((shaS1 (w.getD 1 0) + w.getD 6 0 + shaS0 (w.getD 14 0) + w.getD 15 0) :: w)

/-- One round on the eight working variables. -/
def shaRound (v : List W32) (kw : W32 × W32) : List W32 :=
  match v with
  | [a, b, c, d, e, f, g, h] =>
    let t1 := h + (e.rotateRight 6 ^^^ e.rotateRight 11 ^^^ e.rotateRight 25) + ((e &&& f) ^^^ (~~~e &&& g))
      + kw.1 + kw.2
    let t2 := (a.rotateRight 2 ^^^ a.rotateRight 13 ^^^ a.rotateRight 22) + ((a &&& b) ^^^ (a &&& c) ^^^ (b &&& c))
    [t1 + t2, a, b, c, d + t1, e, f, g]
  | _ => v

def shaBlock (h : List W32) (b : Bytes) : List W32 :=
  let w := (shaSched 48 (shaWords 16 b).reverse).reverse
  List.zipWith (· + ·) h ((shaK.zip w).foldl shaRound h)

def shaBlocks : Nat → List W32 → Bytes → List W32
  | 0, h, _ => h
  | k + 1, h, b => shaBlocks k (shaBlock h (b.take 64)) (b.drop 64)

/-- The SHA-256 digest of a byte string, 32 bytes. -/
def sha256 (m : Bytes) : Bytes :=
  let p := shaPad m
  (shaBlocks (p.length / 64) shaInit p).flatMap (fun x => toBe 4 x.toNat)

/-- A digest as a number whose byte i is byte i of the digest, as the digest registers pack it (R69). -/
def digestNum (d : Bytes) : Nat := leNat d

/-- MGF1 with SHA-256. -/
def mgf1 (seed : Bytes) (len : Nat) : Bytes :=
  ((List.range ((len + 31) / 32)).flatMap (fun i => sha256 (seed ++ toBe 4 i))).take len

/-- `b ^ e mod n` by squaring, `k` bits of the exponent. -/
def powMod (n : Nat) : Nat → Nat → Nat → Nat
  | 0, _, _ => 1 % n
  | k + 1, b, e =>
    let r := powMod n k (b * b % n) (e / 2)
    if e % 2 = 1 then b * r % n else r

/-- RSASSA-PSS verification with SHA-256, MGF1 with SHA-256, a 32-byte salt and exponent 65537 (R81), for a 384-byte
modulus and signature, both numbers, over message `m`. -/
def pssVerify (modulus sig : Nat) (m : Bytes) : Bool :=
  if modulus = 0 || sig ≥ modulus then false
  else
    let emBits := Nat.log2 modulus
    let emLen := (emBits + 7) / 8
    let em := toBe emLen (powMod modulus 17 sig 65537)
    let masked := em.take (emLen - 33)
    let h := (em.drop (emLen - 33)).take 32
    let db0 := List.zipWith (· ^^^ ·) masked (mgf1 h (emLen - 33))
    let top := 8 * emLen - emBits
    let keep : Byte := BitVec.ofNat 8 (2 ^ (8 - top) - 1)
    let db := match db0 with
      | [] => []
      | x :: r => (x &&& keep) :: r
    let salt := db.drop (emLen - 65)
    decide (65 ≤ emLen) && decide (em.getLast? = some 0xBC) &&
      (match masked with | [] => false | x :: _ => decide (x &&& ~~~keep = 0)) &&
      decide (db.take (emLen - 66) = List.replicate (emLen - 66) 0) &&
      decide (db.getD (emLen - 66) 0 = 1) &&
      decide (h = sha256 (List.replicate 8 0 ++ sha256 m ++ salt)) &&
      decide (Nat.log2 (powMod modulus 17 sig 65537) < emBits ∨ powMod modulus 17 sig 65537 = 0)

end Sys2Proof.Machine
end

