-- ==== Sys2Proof/Config.lean ====
section
/-!
DEFINITION. What the spec fixes for one module by fuses and key material, and the values it leaves open. A constant
with no body is a free value: no proof can see what it is.
-/
namespace Sys2Proof

/-- The ordering variants (R1, 00_scope.md). -/
inductive Variant where
  | m20x6 | m20x4 | m16x4 | m12x2
  deriving DecidableEq, Repr

namespace Config

/-- A fresh free value for each number: DESIGN CHOICE, log entry 6. Every value the spec calls undefined, or leaves open
after an operation that goes on, is one of these. -/
opaque freeValue : Nat → Nat

/-- The sensors at the inlet and in the I/O dies at a time in ns: no command brings what they read (R489; log entry 175). -/
opaque inletTemp : Nat → BitVec 8
opaque ioTemp : Nat → BitVec 8

/-- The generation a region number starts with at power-on: random and not 0 (R326); only its value modulo 65,535 is
used. Log entry 3. -/
opaque regionStart : Nat → Nat

/-- The first packet number that a context gives on a port, by how many such starts came before (R418 gives none). Only its
value modulo 2^24 is used. Log entry 159. -/
opaque psnStart : Nat → Nat

/-- The nonce that the n-th NONCE returns (R94). Log entry 7. -/
opaque nonceDraw : Nat → BitVec 256

/-- The signature by the identity key over a 512-byte body (R95); the private key never leaves the module, and the salt
is drawn. Log entry 7. -/
opaque identitySign : Bytes → Nat → BitVec 3072

/-- The module's DER identity certificate (R69, 1 to 8,192 bytes). Log entry 7. -/
opaque certificate : Word → Bytes

/-- The hash in the fused key slot (R73). Log entry 1. -/
opaque slotHash : Nat → BitVec 256

/-- The frequency correction, in 2^-32 ns per ns, that the discipline loop sets after a measurement (R30: inside its
range the loop sets it freely). Its argument counts the measurements. Log entry 8. -/
opaque loopFreq : Nat → Int

/-- Where the master weights and moments of a gradient shard lie, by its job, the shard's address in the gradient view and its
length: bank range records of kind 0, each with an offset in the range and a length. R229 names them, and no rule says where
they lie. Log entry 151. -/
opaque shardState : Nat → Nat → Nat → List (Nat × Nat × Nat)

/-- The profiles that R425 names; every other is the last. -/
inductive Profile where
  | hevcMain | hevcMain10 | av1Main | other
  deriving DecidableEq, Repr, Inhabited

/-- The chroma formats: R425 names the first two. -/
inductive Chroma where
  | c420 | mono | c422 | c444
  deriving DecidableEq, Repr, Inhabited

/-- One output frame of a bitstream under H.265 or AV1, and what R425 judges it by. The samples are those of the reconstructed
frame; film grain parameters go with it, and are ignored. -/
structure Frame where
  /-- the byte offset in the stream of what the frame is coded in -/
  at_     : Nat
  profile : Profile
  /-- ten times the level: 61 is level 6.1 -/
  level   : Nat
  chroma  : Chroma
  bits    : Nat
  /-- a tool outside the profile is used -/
  odd     : Bool
  /-- an RASL picture after a starting CRA -/
  rasl    : Bool
  grain   : List Nat
  width   : Nat
  height  : Nat
  /-- luma, then Cb, then Cr, in raster order, in code values of `bits` bits -/
  luma    : List Nat
  cb      : List Nat
  cr      : List Nat
  deriving DecidableEq, Repr, Inhabited

/-- How decoding ends (R425, R445): the frames in output order, or a reason of R445 with the byte offset and the frame
index at fault. -/
inductive Decoded where
  | frames (fs : List Frame)
  | fault (reason offset frame : Nat)
  deriving DecidableEq, Repr, Inhabited

/-- The decoder of R425 as a function of the codec (true: AV1), the bitstream and the frames wanted. The reconstruction
is that of the two standards, which the spec names and does not restate. Log entry 9. -/
opaque mediaDecode : Bool → Bytes → Nat → Decoded

/-- A coded picture: its bytes, and the planes that it reconstructs to. -/
structure Coded where
  bytes  : Bytes
  planes : List Bytes
  deriving DecidableEq, Repr, Inhabited

/-- What a picture is coded from (R443): its three planes, the reconstruction of the picture before it (none for an IDR), the CTU columns
that are coded intra and those already swept in the sweep, its width, height and quantiser, and its index. -/
structure ToCode where
  planes : List Bytes
  ref    : Option (List Bytes)
  intra  : List Nat
  swept  : List Nat
  width  : Nat
  height : Nat
  qp     : Nat
  index  : Nat
  deriving DecidableEq, Repr

/-- The coded bytes of a picture and its reconstruction (R426, R443). They are bit-identical on every module and not restated. Log
entry 9. -/
opaque codePicture : ToCode → Coded

/-- The parameter sets VPS, SPS and PPS of a stream, by width, height, quantiser and period (R443). Log entry 9. -/
opaque paramSets : Nat → Nat → Nat → Nat → List Bytes

/-- A recovery point SEI with a recovery_poc_cnt (R443). Log entry 9. -/
opaque recoverySei : Nat → Bytes

/-- The CTU columns of a picture of a width (R443 does not give their size). Log entry 9. -/
opaque ctuColumns : Nat → Nat

end Config
end Sys2Proof
end

