-- ==== Sys2Proof/Machine/Map.lean ====
section
/-!
DEFINITION. Sparse maps from numbers: lists of (key, value) pairs in one canonical form, keys strictly rising and no
entry equal to what an unlisted key reads as. Registers, memory and the arrays of records all use them.
-/
namespace Sys2Proof.Machine

abbrev SMap (α : Type) := List (Nat × α)

/-- What key `k` reads as; `d` where no entry lists it. -/
def mget {α : Type} (d : α) : List (Nat × α) → Nat → α
  | [], _ => d
  | (k', v) :: m, k => if k = k' then v else mget d m k

/-- The map with an entry for `k`. -/
def mput {α : Type} : List (Nat × α) → Nat → α → List (Nat × α)
  | [], k, v => [(k, v)]
  | (k', v') :: m, k, v =>
    if k < k' then (k, v) :: (k', v') :: m
    else if k = k' then (k, v) :: m
    else (k', v') :: mput m k v

/-- The map with no entry for `k`. -/
def mdel {α : Type} (m : List (Nat × α)) (k : Nat) : List (Nat × α) := m.filter (fun p => p.1 != k)

/-- The map in which `k` reads as `v`: the default removes the entry. -/
def mset {α : Type} [DecidableEq α] (d : α) (m : List (Nat × α)) (k : Nat) (v : α) : List (Nat × α) :=
  if v = d then mdel m k else mput m k v

/-- The map with each value changed. -/
def mmap {α : Type} [DecidableEq α] (d : α) (f : α → α) (m : List (Nat × α)) : List (Nat × α) :=
  m.foldl (fun a p => mset d a p.1 (f p.2)) []

/-- Keys strictly rising. -/
def msorted {α : Type} : List (Nat × α) → Bool
  | [] => true
  | [_] => true
  | (k, _) :: (k', v') :: m => decide (k < k') && msorted ((k', v') :: m)

/-- The canonical form. -/
def mwf {α : Type} [DecidableEq α] (d : α) (m : List (Nat × α)) : Bool :=
  msorted m && m.all (fun p => decide (p.2 ≠ d))

end Sys2Proof.Machine
end

