-- ==== Sys2Proof/Machine/Regs.lean ====
section
/-!
DEFINITION. Every register field of the manual's register tables, with its place, access, reset value and the events it
survives. The rows follow the tables of spec/ file by file ("Bits | Field | Access | Reset | Kept through"); reserved
fields have no row (R8). A register array is one row with a stride and a count; a register of a core's block has one
instance per core.
-/
namespace Sys2Proof.Machine

/-- The fields, named register_field. -/
inductive Fld where
  | idnVariant_hbm_stacks
  | idnVariant_io_dies
  | idnVariant_port_groups
  | idnVariant_numeric_gen
  | idnVersions_link_versions
  | idnVersions_transport_versions
  | idnVersions_image_version
  | idnVersions_launch_version
  | ctlPlace_slot
  | ctlPlace_tray
  | ctlPlace_group
  | ctlPlace_groups_m1
  | ctlPlace_placed
  | tideCtl_sync_src
  | tideCtl_guard
  | tideCtl_late_window
  | tideCtl_max_ahead_log2
  | tideNow_tide
  | tideStat_state
  | tideStat_depth
  | tideStat_offset
  | tideStat_freq
  | tideSync_parent_port
  | tideSync_asym
  | tideSync_ptp_domain
  | tideSync_offset
  | tidePps_in_phase
  | tidePps_out_en
  | tidePps_out_phase
  | tideSet_tide
  | tideApply_epoch
  | tideApply_job
  | tideApply_scope
  | tideApply_arm
  | tideEclipse_missed_epoch
  | tideEclipse_job
  | tideEclipse_module_wide
  | tideEclipse_active
  | tideCnt_late_apply
  | tideCnt_late_release
  | tideCnt_release_refused
  | tideCnt_sync_lost
  | tideSlot_period_log2
  | tideSlot_phase
  | tideSlot_en
  | ctlPort_udp_port
  | ctlPort_cp0_en
  | ctlPort_cp1_en
  | ctlCpIpv4_addr
  | ctlCpIpv4_prefix
  | ctlCpIpv4_valid
  | ctlCmdCnt_executed
  | ctlCmdCnt_refused
  | ctlCmdCnt_duplicate
  | ctlDrop_ctl_on_data
  | ctlDrop_data_on_cp
  | ctlDrop_board_off_tray
  | ctlDrop_unplaced
  | ctlRxerr_fragments
  | ctlRxerr_oversize
  | ctlRxerr_runt
  | secStat_found_active
  | secStat_found_staged
  | secStat_found_slot
  | secStat_owner
  | secStat_nonce_valid
  | secStat_found_svn
  | secStat_min_svn
  | secStat_slot_revoked
  | secStat_writes_left
  | secFmeas_digest
  | secOwner_digest
  | secNonce_nonce
  | shpStat_load_state
  | shpStat_pending
  | shpStat_restore_open
  | shpStat_stale_fn
  | shpStat_jobs
  | shpStat_reject_reason
  | shpStat_not_quiescent
  | shpLoad_next_offset
  | shpLoad_length
  | shpReject_reason
  | shpReject_section
  | shpReject_offset
  | shpAmeas_digest
  | shpChain_digest
  | shpPmeas_digest
  | shpRchain_digest
  | coreId_local
  | coreId_die
  | coreId_core
  | coreStat_arr_busy
  | coreStat_arr_moonlet
  | coreStat_last_abort
  | coreStat_last_abort_job
  | coreFeed_arrays
  | coreFeed_arrays_filler
  | coreArrIssued_slots
  | coreArrGated_slots
  | coreSnapIssued_slots
  | coreSnapGated_slots
  | coreSnapEpoch_epoch
  | coreIntSat_count
  | coreTest_gate_dis
  | coreErr_bank_corrected
  | coreErr_bank_uncorrected
  | coreErr_weight_parity
  | coreSeqP_state
  | coreSeqP_cause
  | coreSeqP_job
  | coreSeqP_queued
  | coreSeqP_index
  | coreSeqF_state
  | coreSeqF_cause
  | coreSeqF_job
  | coreSeqF_queued
  | coreSeqF_index
  | vecFma_lanes
  | vecExp_elements
  | vecErr_vreg_corrected
  | vecErr_vreg_uncorrected
  | vecErr_ibuf_parity
  | tc_value
  | tc_owner
  | tc_overflow
  | numCtl_count_en
  | numStat_late_capture
  | numStat_step_jump
  | numStat_bad_tag
  | numOpsel_entry
  | numOpclr_entry
  | numOpclr_all
  | numOp_step
  | numOp_valid
  | numOp_elements
  | numOp_zeros
  | numOp_flushed
  | numOp_saturated
  | numOp_nan
  | numOp_inf
  | numOp_max
  | numOp_seen
  | numTotElem_count
  | numTotZero_count
  | numTotFlush_count
  | numTotSat_count
  | numTotNan_count
  | numTotInf_count
  | numPol_word0
  | numPol_present
  | numSil_watch
  | numSil_run
  | numSil_boost
  | numSil_evented
  | numSil_alarmed
  | numSilcnt_events
  | numSilcnt_alarms
  | numSilcnt_boosts
  | numSilcnt_unboosts
  | numNancnt_skipped
  | numNancnt_applied
  | numOpseed_max
  | numOpseed_step
  | numShdSeed_seed
  | numShdTiles_compared
  | numShdTiles_discarded
  | numShdHist_elements
  | numShdEvt_events
  | numShdEvt_logged
  | numShdWorst0_bucket
  | numShdWorst0_core
  | numShdWorst0_array
  | numShdWorst0_entry
  | numShdWorst0_step
  | numShdWorst0_column
  | numShdWorst0_valid
  | numShdWorst1_stored
  | numShdWorst1_reference
  | numPol1_word1
  | numPol1_present
  | attCtl_read_ahead
  | attPages_read
  | attPages_tail
  | attFmt_w16
  | attFmt_w8
  | attFmt_w4
  | attFmt_narrowed
  | attErr_count
  | attErr_reason
  | attErr_window
  | attErr_page
  | attWait_clk
  | mmuCtl_walkers
  | mmuCtl_kv_en
  | mmuWinbase_base
  | mmuWinbase_valid
  | mmuInval_kind
  | mmuInval_job
  | mmuInval_go
  | mmuInval_done
  | mmuInval_count
  | mmuInvalVa_va
  | mmuFault0_va
  | mmuFault0_reason
  | mmuFault1_job
  | mmuFault1_core
  | mmuFault1_unit
  | mmuFault1_code
  | mmuFault1_valid
  | mmuTlbcnt_walks
  | mmuTlbcnt_faults
  | mmuKvcnt0_spills
  | mmuKvcnt0_returns
  | mmuKvcnt1_rescued
  | mmuKvcnt1_spill_failed
  | mmuKvcnt1_return_failed
  | mmuKvcnt1_frame_waits
  | mmuRoot_job
  | mmuRoot_valid
  | mmuRoot_root
  | mmuPoola_list_base
  | mmuPoola_en
  | mmuPoola_job
  | mmuPoolb_size
  | mmuPoolb_free
  | mmuPoolb_credits
  | mmuPoolc_hwm
  | mmuPoolc_lwm
  | mmuPoold_in_flight
  | mmuPoold_waiting
  | mmuPoold_tail_fault
  | mmuTaila_ctx
  | mmuTaila_rkey
  | mmuTaila_valid
  | mmuTailb_remote_va
  | hbmCtl_scrub_hours
  | hbmCtl_ue_alert
  | hbmUe0_offset
  | hbmUe0_stack
  | hbmUe0_valid
  | hbmUe0_by_scrub
  | hbmUe1_job
  | hbmUe1_core
  | hbmRd_bytes
  | hbmWr_bytes
  | hbmStack_corrected
  | hbmStack_uncorrected
  | hbmStack_ondie
  | hbmStack_temp
  | hbmStack_present
  | hbmStack_hot
  | dmaQ_depth
  | dmaQ_max_out
  | dmaQ_max_bytes
  | dmaQ_credit_tc
  | dmaQ_credit_en
  | dmaQstat_queued
  | dmaQstat_in_flight
  | dmaQstat_started
  | dmaQstat_fence_wait
  | dmaCtl_fence_limit
  | dmaCtl_cfg_refused
  | dmaErr0_queue
  | dmaErr0_kind
  | dmaErr0_code
  | dmaErr0_job
  | dmaErr0_filler
  | dmaErr0_valid
  | dmaErr1_addr
  | dmaBytes_bytes
  | dmaTailwr_bytes
  | dmaTailrd_bytes
  | xptCtxsel_ctx
  | xptCtx0_valid
  | xptCtx0_type
  | xptCtx0_job
  | xptCtx0_port
  | xptCtx0_ports_m1
  | xptCtx0_state
  | xptCtx0_code
  | xptCtx0_epsn
  | xptCtx0_dscp
  | xptCtx1_spsn
  | xptCtx1_rqpn
  | xptCtx1_retry_cnt
  | xptCtx1_timeout
  | xptCtx1_window
  | xptCtx2_dest_lo
  | xptCtx3_dest_hi
  | xptRetx_seq_nak
  | xptRetx_timeouts
  | xptRetx_rnr
  | xptRetx_cnp
  | xptDrop_qpn
  | xptDrop_icrc
  | xptDrop_service
  | xptRegsel_region
  | xptReg0_word0
  | xptReg0_gen
  | xptReg0_valid
  | xptRegcnt_registered
  | xptRegcnt_refused
  | xptRefuse0_region
  | xptRefuse0_gen
  | xptRefuse0_reason
  | xptRefuse0_port
  | xptRefuse0_job
  | xptRefuse0_valid
  | xptRefuse1_offset
  | shpJob_job
  | shpJob_valid
  | shpJob_eclipse
  | shpJob_groups
  | shpJob_cores
  | shpJob_filler
  | shpGrp_job
  | shpGrp_present
  | shpGrp_cores
  | shpGrp_policy
  | shpGrp_split
  | shpGrp_role
  | shpGrp_gate
  | coreIdleP_clk
  | coreIdlePj_job
  | coreIdlePj_valid
  | coreIdleF_clk
  | coreIdleFj_job
  | coreIdleFj_valid
  | coreIdleClk_clk
  | coreFillGated_clk
  | coreFillYield_clk
  | coreIsnapP_clk
  | coreIsnapPj_both
  | coreIsnapF_clk
  | coreIsnapFj_both
  | coreIsnapClk_clk
  | coreIsnapEpoch_epoch
  | colArm0_slot
  | colArm0_count
  | colArm0_go
  | colArm1_step
  | colArm1_job
  | colArm2_tbias
  | colArm2_gbias
  | colAbort_job
  | colAbort_coll
  | colAbort_all
  | colAbort_go
  | colStat_armed
  | colStat_arm_refused
  | colStat_expiries
  | colStat_slips
  | colFires_fires
  | colDrop_listed
  | colDrop_epoch
  | colDrop_refused
  | colDrop_unresident
  | colFail0_slot
  | colFail0_job
  | colFail0_coll
  | colFail0_code
  | colFail0_cause
  | colFail0_valid
  | colFail1_step
  | colFail1_fires_done
  | colDl_job
  | colDl_coll
  | colDl_step
  | colDl_auto
  | colDl_valid
  | colTsel_slot
  | colTword_word
  | colTlive0_state
  | colTlive0_issued
  | colTlive0_done
  | colTlive0_wd_left
  | colTlive1_step
  | colTlive2_tbias
  | colTlive2_gbias
  | grdJoba_job
  | grdJoba_valid
  | grdJoba_layout
  | grdJobb_committed
  | grdJobb_state
  | grdJobb_undo_ok
  | grdJobb_layout_wait
  | grdJobb_alt_written
  | grdJobc_gcoll_base
  | grdJobc_gcoll_count
  | grdJobd_commits
  | grdJobd_rollbacks
  | grdJobd_failed
  | grdJobd_tag_mismatch
  | grdBra_job
  | grdBra_valid
  | grdBra_kind
  | grdBra_view
  | grdBrb_length
  | grdBrc_bank0
  | grdBrd_bank1
  | grdChk_checks
  | grdChk_mismatches
  | grdChk_zero_msgs
  | grdLedg0_sum
  | grdLedg1_s
  | grdLedg2_bound
  | grdLedg3_job
  | grdLedg3_coll
  | grdLedg3_slot
  | grdLedg3_h
  | grdLedg3_cause
  | grdLedg3_valid
  | grdLedg4_step
  | grdNanlog0_nan_rank
  | grdNanlog0_nan_index
  | grdNanlog0_job
  | grdNanlog0_valid
  | grdNanlog1_step
  | grdNanlog1_coll
  | grdZlast_job
  | grdZlast_coll
  | grdZlast_step
  | grdTag0_job
  | grdTag0_coll
  | grdTag0_src_module
  | grdTag0_valid
  | grdTag1_presented
  | grdTag1_committed
  | grdEpoch0_job
  | grdEpoch0_presented
  | grdEpoch0_current
  | grdEpoch0_src_module
  | grdEpoch0_valid
  | grdEpoch1_step
  | grdEpoch1_coll
  | lnkCtl_retry_us
  | lnkCtl_ser_log2
  | lnkCtl_fec_ue
  | lnkCtl_lpi_us
  | lnkDrop_shape
  | lnkDrop_unreachable
  | lnkDrop_version
  | lnkPctl_en
  | lnkPctl_allow_half
  | lnkPctl_retrain
  | lnkPctl_eth_modes
  | lnkPctl_tx_swing
  | lnkPctl_lpi_dis
  | lnkPctl_adapt_hold
  | lnkPctl_prbs
  | lnkPstat_state
  | lnkPstat_width
  | lnkPstat_rate
  | lnkPstat_link_version
  | lnkPstat_eth_mode
  | lnkPstat_lanes_ok
  | lnkPerr_crc
  | lnkPerr_retries
  | lnkPerr_fec_uncorr
  | lnkPerr_degrades
  | lnkPerr_trainings
  | lnkPpeer_slot
  | lnkPpeer_tray
  | lnkPpeer_group
  | lnkPpeer_mismatch
  | lnkPpeer_transport
  | lnkPpeer_numeric_gen
  | lnkEv4_addr
  | lnkEv4_prefix
  | lnkEv4_valid
  | lnkEv6l_addr_lo
  | lnkEv6h_addr_hi
  | lnkEgw_gw_mac
  | lnkEgw_v6_prefix
  | lnkEgw_v6_valid
  | medRing_base
  | medRing_size_log2
  | medRing_en
  | medTail_tail
  | medHead_head
  | medHead_state
  | medErr0_code
  | medErr0_reason
  | medErr0_job
  | medErr0_record
  | medErr0_valid
  | medErr1_offset
  | medErr1_frame
  | medCnt0_frames
  | medCnt0_tasks
  | medCnt1_kept
  | medCnt1_aborted
  | medCnt2_dropped
  | rstStat_in_reset
  | rstStat_ready
  | rstStat_cause
  | rstCnt_module_resets
  | rstCnt_thermal_trips
  | rstCnt_fn_resets
  | pwrCtl_mode
  | pwrCtl_want_frac
  | pwrCap_cap
  | pwrClk_max
  | pwrClk_set
  | pwrStat_state
  | pwrStat_target
  | pwrStat_die_clk
  | pwrStat_hold
  | pwrStat_want_lower
  | pwrStat_thermal
  | pwrMeas_power
  | pwrMeas_interval
  | pwrMeas_volts
  | pwrEnergy_mj
  | pwrTemp_die
  | pwrTemp_io
  | pwrTemp_hbm
  | pwrTemp_inlet
  | pwrThr_cap_steps
  | pwrThr_guard_holds
  | pwrThr_thermal_steps
  | pwrThr_want_events
  | evtStat_unread
  | evtStat_full
  | evtStat_alert
  | evtStat_lost
  | evtHead_head
  | evtHead_total
  | evtTail_tail
  | evtSel_index
  | evtData_word
  | xptReg1_word
  | xptReg2_word
  | xptReg3_word
  deriving DecidableEq, Repr

/-- The Access column (00_scope.md, "Registers"). -/
inductive Acc where
  | rw | ro | w1c | wo | rwe
  deriving DecidableEq, Repr

/-- The "Kept through" column: `all` is FR, MR, DZ, PK; `fn0` is FR, DZ, PK; `doze` is DZ; `none` is none. -/
inductive Keep where
  | all | fn0 | doze | none
  deriving DecidableEq, Repr

/-- What selects the instance that a windowed register shows: nothing, `XPT_CTXSEL`, `XPT_REGSEL`, `NUM_OPSEL` or
`COL_TSEL`. -/
inductive Win where
  | plain | ctx | region | op | slot
  deriving DecidableEq, Repr

/-- One field of a register. -/
structure FldRow where
  fld   : Fld
  hi    : Nat
  lo    : Nat
  acc   : Acc
  reset : Nat
  keep  : Keep
  deriving DecidableEq, Repr

/-- One register (or array of registers): its place, the function that holds it, and its fields. For a register of a
core's block `off` counts from the start of the block and `fn` stands for the function of the core's die. -/
structure RegRow where
  core   : Bool
  off    : Nat
  stride : Nat
  cnt    : Nat
  win    : Win
  fn     : Nat
  flds   : List FldRow
  deriving DecidableEq, Repr

/-- The IDN_ registers of spec/00_scope.md. -/
def regsIdn00 : List RegRow :=
  [⟨false, 0x8, 0, 1, .plain, 0, [⟨.idnVariant_hbm_stacks, 4, 0, .ro, 0, .all⟩, ⟨.idnVariant_io_dies, 7, 5, .ro, 0, .all⟩, ⟨.idnVariant_port_groups, 11, 8, .ro, 0, .all⟩, ⟨.idnVariant_numeric_gen, 19, 12, .ro, 1, .all⟩]⟩,
   ⟨false, 0x10, 0, 1, .plain, 0, [⟨.idnVersions_link_versions, 7, 0, .ro, 3, .all⟩, ⟨.idnVersions_transport_versions, 15, 8, .ro, 3, .all⟩, ⟨.idnVersions_image_version, 23, 16, .ro, 3, .all⟩, ⟨.idnVersions_launch_version, 31, 24, .ro, 2, .all⟩]⟩]

/-- The CTL_ registers of spec/01_machine_levels.md. -/
def regsCtl01 : List RegRow :=
  [⟨false, 0x10100, 0, 1, .plain, 0, [⟨.ctlPlace_slot, 1, 0, .rw, 0, .fn0⟩, ⟨.ctlPlace_tray, 4, 2, .rw, 0, .fn0⟩, ⟨.ctlPlace_group, 11, 5, .rw, 0, .fn0⟩, ⟨.ctlPlace_groups_m1, 18, 12, .rw, 0, .fn0⟩, ⟨.ctlPlace_placed, 19, 19, .rw, 0, .fn0⟩]⟩]

/-- The TIDE_ registers of spec/02_tide.md. -/
def regsTide02 : List RegRow :=
  [⟨false, 0x20000, 0, 1, .plain, 0, [⟨.tideCtl_sync_src, 2, 0, .rw, 0, .fn0⟩, ⟨.tideCtl_guard, 10, 3, .rw, 8, .fn0⟩, ⟨.tideCtl_late_window, 18, 11, .rw, 4, .fn0⟩, ⟨.tideCtl_max_ahead_log2, 24, 19, .rw, 34, .fn0⟩]⟩,
   ⟨false, 0x20008, 0, 1, .plain, 0, [⟨.tideNow_tide, 63, 0, .ro, 0, .all⟩]⟩,
   ⟨false, 0x20010, 0, 1, .plain, 0, [⟨.tideStat_state, 1, 0, .ro, 0, .fn0⟩, ⟨.tideStat_depth, 5, 2, .ro, 0, .fn0⟩, ⟨.tideStat_offset, 31, 16, .ro, 0, .fn0⟩, ⟨.tideStat_freq, 55, 32, .ro, 0, .all⟩]⟩,
   ⟨false, 0x20018, 0, 1, .plain, 0, [⟨.tideSync_parent_port, 5, 0, .rw, 63, .fn0⟩, ⟨.tideSync_asym, 13, 6, .rw, 0, .fn0⟩, ⟨.tideSync_ptp_domain, 21, 14, .rw, 0, .fn0⟩, ⟨.tideSync_offset, 63, 22, .rw, 0, .fn0⟩]⟩,
   ⟨false, 0x20020, 0, 1, .plain, 0, [⟨.tidePps_in_phase, 29, 0, .rw, 0, .fn0⟩, ⟨.tidePps_out_en, 30, 30, .rw, 0, .fn0⟩, ⟨.tidePps_out_phase, 61, 32, .rw, 0, .fn0⟩]⟩,
   ⟨false, 0x20028, 0, 1, .plain, 0, [⟨.tideSet_tide, 63, 0, .wo, 0, .none⟩]⟩,
   ⟨false, 0x20040, 0, 1, .plain, 0, [⟨.tideApply_epoch, 47, 0, .rw, 0, .fn0⟩, ⟨.tideApply_job, 59, 48, .rw, 0, .fn0⟩, ⟨.tideApply_scope, 60, 60, .rw, 0, .fn0⟩, ⟨.tideApply_arm, 61, 61, .rw, 0, .fn0⟩]⟩,
   ⟨false, 0x20050, 0, 1, .plain, 0, [⟨.tideEclipse_missed_epoch, 47, 0, .ro, 0, .fn0⟩, ⟨.tideEclipse_job, 59, 48, .ro, 0, .fn0⟩, ⟨.tideEclipse_module_wide, 60, 60, .ro, 0, .fn0⟩, ⟨.tideEclipse_active, 61, 61, .w1c, 0, .fn0⟩]⟩,
   ⟨false, 0x20058, 0, 1, .plain, 0, [⟨.tideCnt_late_apply, 15, 0, .ro, 0, .fn0⟩, ⟨.tideCnt_late_release, 31, 16, .ro, 0, .fn0⟩, ⟨.tideCnt_release_refused, 47, 32, .ro, 0, .fn0⟩, ⟨.tideCnt_sync_lost, 63, 48, .ro, 0, .fn0⟩]⟩,
   ⟨false, 0x20080, 8, 8, .plain, 0, [⟨.tideSlot_period_log2, 4, 0, .rwe, 16, .fn0⟩, ⟨.tideSlot_phase, 28, 5, .rwe, 0, .fn0⟩, ⟨.tideSlot_en, 29, 29, .rwe, 0, .fn0⟩]⟩]

/-- The CTL_ registers of spec/03_control_and_shape_images.md. -/
def regsCtl03 : List RegRow :=
  [⟨false, 0x10000, 0, 1, .plain, 0, [⟨.ctlPort_udp_port, 15, 0, .rw, 47810, .fn0⟩, ⟨.ctlPort_cp0_en, 16, 16, .rw, 1, .fn0⟩, ⟨.ctlPort_cp1_en, 17, 17, .rw, 1, .fn0⟩]⟩,
   ⟨false, 0x10008, 8, 2, .plain, 0, [⟨.ctlCpIpv4_addr, 31, 0, .rw, 0, .fn0⟩, ⟨.ctlCpIpv4_prefix, 37, 32, .rw, 0, .fn0⟩, ⟨.ctlCpIpv4_valid, 38, 38, .rw, 0, .fn0⟩]⟩,
   ⟨false, 0x10020, 0, 1, .plain, 0, [⟨.ctlCmdCnt_executed, 31, 0, .ro, 0, .fn0⟩, ⟨.ctlCmdCnt_refused, 47, 32, .ro, 0, .fn0⟩, ⟨.ctlCmdCnt_duplicate, 63, 48, .ro, 0, .fn0⟩]⟩,
   ⟨false, 0x10028, 0, 1, .plain, 0, [⟨.ctlDrop_ctl_on_data, 15, 0, .ro, 0, .fn0⟩, ⟨.ctlDrop_data_on_cp, 31, 16, .ro, 0, .fn0⟩, ⟨.ctlDrop_board_off_tray, 47, 32, .ro, 0, .fn0⟩, ⟨.ctlDrop_unplaced, 63, 48, .ro, 0, .fn0⟩]⟩,
   ⟨false, 0x10030, 0, 1, .plain, 0, [⟨.ctlRxerr_fragments, 15, 0, .ro, 0, .fn0⟩, ⟨.ctlRxerr_oversize, 31, 16, .ro, 0, .fn0⟩, ⟨.ctlRxerr_runt, 47, 32, .ro, 0, .fn0⟩]⟩]

/-- The SEC_ registers of spec/03_control_and_shape_images.md. -/
def regsSec03 : List RegRow :=
  [⟨false, 0x10800, 0, 1, .plain, 0, [⟨.secStat_found_active, 0, 0, .ro, 0, .all⟩, ⟨.secStat_found_staged, 1, 1, .ro, 0, .all⟩, ⟨.secStat_found_slot, 3, 2, .ro, 0, .all⟩, ⟨.secStat_owner, 4, 4, .ro, 0, .all⟩, ⟨.secStat_nonce_valid, 5, 5, .ro, 0, .fn0⟩, ⟨.secStat_found_svn, 21, 6, .ro, 0, .all⟩, ⟨.secStat_min_svn, 37, 22, .ro, 0, .all⟩, ⟨.secStat_slot_revoked, 41, 38, .ro, 0, .all⟩, ⟨.secStat_writes_left, 50, 42, .ro, 0, .all⟩]⟩,
   ⟨false, 0x10810, 8, 4, .plain, 0, [⟨.secFmeas_digest, 63, 0, .ro, 0, .all⟩]⟩,
   ⟨false, 0x10830, 8, 4, .plain, 0, [⟨.secOwner_digest, 63, 0, .ro, 0, .all⟩]⟩,
   ⟨false, 0x10850, 8, 4, .plain, 0, [⟨.secNonce_nonce, 63, 0, .ro, 0, .fn0⟩]⟩]

/-- The SHP_ registers of spec/03_control_and_shape_images.md. -/
def regsShp03 : List RegRow :=
  [⟨false, 0x30000, 0, 1, .plain, 0, [⟨.shpStat_load_state, 1, 0, .ro, 0, .fn0⟩, ⟨.shpStat_pending, 2, 2, .ro, 0, .fn0⟩, ⟨.shpStat_restore_open, 3, 3, .ro, 0, .fn0⟩, ⟨.shpStat_stale_fn, 12, 4, .ro, 0, .fn0⟩, ⟨.shpStat_jobs, 19, 13, .ro, 0, .fn0⟩, ⟨.shpStat_reject_reason, 27, 20, .ro, 0, .fn0⟩, ⟨.shpStat_not_quiescent, 28, 28, .w1c, 0, .fn0⟩]⟩,
   ⟨false, 0x30008, 0, 1, .plain, 0, [⟨.shpLoad_next_offset, 31, 0, .ro, 0, .none⟩, ⟨.shpLoad_length, 63, 32, .ro, 0, .none⟩]⟩,
   ⟨false, 0x30010, 0, 1, .plain, 0, [⟨.shpReject_reason, 7, 0, .ro, 0, .fn0⟩, ⟨.shpReject_section, 18, 8, .ro, 0, .fn0⟩, ⟨.shpReject_offset, 50, 19, .ro, 0, .fn0⟩]⟩,
   ⟨false, 0x30020, 8, 4, .plain, 0, [⟨.shpAmeas_digest, 63, 0, .ro, 0, .fn0⟩]⟩,
   ⟨false, 0x30040, 8, 4, .plain, 0, [⟨.shpChain_digest, 63, 0, .ro, 0, .fn0⟩]⟩,
   ⟨false, 0x30060, 8, 4, .plain, 0, [⟨.shpPmeas_digest, 63, 0, .ro, 0, .fn0⟩]⟩,
   ⟨false, 0x30080, 8, 4, .plain, 0, [⟨.shpRchain_digest, 63, 0, .ro, 0, .fn0⟩]⟩]

/-- The CORE_ registers of spec/04_cores_and_arrays.md. -/
def regsCore04 : List RegRow :=
  [⟨true, 0x0, 0, 1, .plain, 1, [⟨.coreId_local, 5, 0, .ro, 0, .all⟩, ⟨.coreId_die, 7, 6, .ro, 0, .all⟩, ⟨.coreId_core, 15, 8, .ro, 0, .all⟩]⟩,
   ⟨true, 0x8, 0, 1, .plain, 1, [⟨.coreStat_arr_busy, 7, 0, .ro, 0, .none⟩, ⟨.coreStat_arr_moonlet, 15, 8, .ro, 0, .doze⟩, ⟨.coreStat_last_abort, 23, 16, .ro, 0, .doze⟩, ⟨.coreStat_last_abort_job, 35, 24, .ro, 0, .doze⟩]⟩,
   ⟨true, 0x10, 0, 1, .plain, 1, [⟨.coreFeed_arrays, 31, 0, .ro, 0, .doze⟩, ⟨.coreFeed_arrays_filler, 63, 32, .ro, 0, .doze⟩]⟩,
   ⟨true, 0x40, 16, 8, .plain, 1, [⟨.coreArrIssued_slots, 63, 0, .ro, 0, .doze⟩]⟩,
   ⟨true, 0x48, 16, 8, .plain, 1, [⟨.coreArrGated_slots, 63, 0, .ro, 0, .doze⟩]⟩,
   ⟨true, 0xC0, 0, 1, .plain, 1, [⟨.coreSnapIssued_slots, 63, 0, .ro, 0, .doze⟩]⟩,
   ⟨true, 0xC8, 0, 1, .plain, 1, [⟨.coreSnapGated_slots, 63, 0, .ro, 0, .doze⟩]⟩,
   ⟨true, 0xD0, 0, 1, .plain, 1, [⟨.coreSnapEpoch_epoch, 47, 0, .ro, 0, .doze⟩]⟩,
   ⟨true, 0xD8, 0, 1, .plain, 1, [⟨.coreIntSat_count, 31, 0, .ro, 0, .doze⟩]⟩,
   ⟨true, 0xE0, 0, 1, .plain, 1, [⟨.coreTest_gate_dis, 0, 0, .rw, 0, .none⟩]⟩] ++
  [⟨true, 0xE8, 0, 1, .plain, 1, [⟨.coreErr_bank_corrected, 15, 0, .ro, 0, .doze⟩, ⟨.coreErr_bank_uncorrected, 31, 16, .ro, 0, .doze⟩, ⟨.coreErr_weight_parity, 47, 32, .ro, 0, .doze⟩]⟩]

/-- The CORE_ registers of spec/05_core_programs_and_vector_engine.md. -/
def regsCore05 : List RegRow :=
  [⟨true, 0xF0, 0, 1, .plain, 1, [⟨.coreSeqP_state, 2, 0, .ro, 0, .doze⟩, ⟨.coreSeqP_cause, 6, 3, .ro, 0, .doze⟩, ⟨.coreSeqP_job, 18, 7, .ro, 0, .doze⟩, ⟨.coreSeqP_queued, 23, 19, .ro, 0, .doze⟩, ⟨.coreSeqP_index, 63, 24, .ro, 0, .doze⟩]⟩,
   ⟨true, 0xF8, 0, 1, .plain, 1, [⟨.coreSeqF_state, 2, 0, .ro, 0, .doze⟩, ⟨.coreSeqF_cause, 6, 3, .ro, 0, .doze⟩, ⟨.coreSeqF_job, 18, 7, .ro, 0, .doze⟩, ⟨.coreSeqF_queued, 23, 19, .ro, 0, .doze⟩, ⟨.coreSeqF_index, 63, 24, .ro, 0, .doze⟩]⟩]

/-- The VEC_ registers of spec/05_core_programs_and_vector_engine.md. -/
def regsVec05 : List RegRow :=
  [⟨true, 0x100, 0, 1, .plain, 1, [⟨.vecFma_lanes, 63, 0, .ro, 0, .doze⟩]⟩,
   ⟨true, 0x108, 0, 1, .plain, 1, [⟨.vecExp_elements, 63, 0, .ro, 0, .doze⟩]⟩,
   ⟨true, 0x110, 0, 1, .plain, 1, [⟨.vecErr_vreg_corrected, 15, 0, .ro, 0, .doze⟩, ⟨.vecErr_vreg_uncorrected, 31, 16, .ro, 0, .doze⟩, ⟨.vecErr_ibuf_parity, 47, 32, .ro, 0, .doze⟩]⟩]

/-- The TC_ registers of spec/05_core_programs_and_vector_engine.md. -/
def regsTc05 : List RegRow :=
  [⟨true, 0x800, 8, 256, .plain, 1, [⟨.tc_value, 31, 0, .rw, 0, .doze⟩, ⟨.tc_owner, 43, 32, .ro, 0, .doze⟩, ⟨.tc_overflow, 44, 44, .w1c, 0, .doze⟩]⟩]

/-- The NUM_ registers of spec/06_number_formats_and_rounding.md. -/
def regsNum06 : List RegRow :=
  [⟨false, 0x50000, 0, 1, .plain, 0, [⟨.numCtl_count_en, 0, 0, .rw, 1, .fn0⟩]⟩,
   ⟨false, 0x50008, 0, 1, .plain, 0, [⟨.numStat_late_capture, 15, 0, .ro, 0, .fn0⟩, ⟨.numStat_step_jump, 31, 16, .ro, 0, .fn0⟩, ⟨.numStat_bad_tag, 47, 32, .ro, 0, .fn0⟩]⟩,
   ⟨false, 0x50010, 0, 1, .plain, 0, [⟨.numOpsel_entry, 11, 0, .rw, 0, .fn0⟩]⟩,
   ⟨false, 0x50018, 0, 1, .plain, 0, [⟨.numOpclr_entry, 11, 0, .wo, 0, .none⟩, ⟨.numOpclr_all, 12, 12, .wo, 0, .none⟩]⟩,
   ⟨false, 0x50040, 64, 2, .op, 0, [⟨.numOp_step, 31, 0, .ro, 0, .fn0⟩, ⟨.numOp_valid, 32, 32, .ro, 0, .fn0⟩]⟩,
   ⟨false, 0x50048, 64, 2, .op, 0, [⟨.numOp_elements, 47, 0, .ro, 0, .fn0⟩]⟩,
   ⟨false, 0x50050, 64, 2, .op, 0, [⟨.numOp_zeros, 47, 0, .ro, 0, .fn0⟩]⟩,
   ⟨false, 0x50058, 64, 2, .op, 0, [⟨.numOp_flushed, 47, 0, .ro, 0, .fn0⟩]⟩,
   ⟨false, 0x50060, 64, 2, .op, 0, [⟨.numOp_saturated, 47, 0, .ro, 0, .fn0⟩]⟩,
   ⟨false, 0x50068, 64, 2, .op, 0, [⟨.numOp_nan, 47, 0, .ro, 0, .fn0⟩]⟩] ++
  [⟨false, 0x50070, 64, 2, .op, 0, [⟨.numOp_inf, 47, 0, .ro, 0, .fn0⟩]⟩,
   ⟨false, 0x50078, 64, 2, .op, 0, [⟨.numOp_max, 31, 0, .ro, 0, .fn0⟩, ⟨.numOp_seen, 32, 32, .ro, 0, .fn0⟩]⟩,
   ⟨false, 0x50100, 0, 1, .plain, 0, [⟨.numTotElem_count, 63, 0, .ro, 0, .fn0⟩]⟩,
   ⟨false, 0x50108, 0, 1, .plain, 0, [⟨.numTotZero_count, 63, 0, .ro, 0, .fn0⟩]⟩,
   ⟨false, 0x50110, 0, 1, .plain, 0, [⟨.numTotFlush_count, 63, 0, .ro, 0, .fn0⟩]⟩,
   ⟨false, 0x50118, 0, 1, .plain, 0, [⟨.numTotSat_count, 63, 0, .ro, 0, .fn0⟩]⟩,
   ⟨false, 0x50120, 0, 1, .plain, 0, [⟨.numTotNan_count, 63, 0, .ro, 0, .fn0⟩]⟩,
   ⟨false, 0x50128, 0, 1, .plain, 0, [⟨.numTotInf_count, 63, 0, .ro, 0, .fn0⟩]⟩,
   ⟨false, 0x50800, 8, 64, .plain, 0, [⟨.numPol_word0, 62, 0, .ro, 0, .doze⟩, ⟨.numPol_present, 63, 63, .ro, 0, .doze⟩]⟩]

/-- The NUM_ registers of spec/07_training_numerics.md. -/
def regsNum07 : List RegRow :=
  [⟨false, 0x50180, 0, 1, .op, 0, [⟨.numSil_watch, 0, 0, .rw, 0, .fn0⟩, ⟨.numSil_run, 12, 1, .rw, 0, .fn0⟩, ⟨.numSil_boost, 15, 13, .rw, 0, .fn0⟩, ⟨.numSil_evented, 16, 16, .ro, 0, .fn0⟩, ⟨.numSil_alarmed, 17, 17, .ro, 0, .fn0⟩]⟩,
   ⟨false, 0x50188, 0, 1, .plain, 0, [⟨.numSilcnt_events, 15, 0, .ro, 0, .fn0⟩, ⟨.numSilcnt_alarms, 31, 16, .ro, 0, .fn0⟩, ⟨.numSilcnt_boosts, 47, 32, .ro, 0, .fn0⟩, ⟨.numSilcnt_unboosts, 63, 48, .ro, 0, .fn0⟩]⟩,
   ⟨false, 0x50190, 0, 1, .plain, 0, [⟨.numNancnt_skipped, 31, 0, .ro, 0, .fn0⟩, ⟨.numNancnt_applied, 63, 32, .ro, 0, .fn0⟩]⟩,
   ⟨false, 0x50198, 0, 1, .plain, 0, [⟨.numOpseed_max, 31, 0, .wo, 0, .none⟩, ⟨.numOpseed_step, 63, 32, .wo, 0, .none⟩]⟩,
   ⟨false, 0x50200, 0, 1, .plain, 0, [⟨.numShdSeed_seed, 63, 0, .rw, 0, .fn0⟩]⟩,
   ⟨false, 0x50208, 0, 1, .plain, 0, [⟨.numShdTiles_compared, 47, 0, .ro, 0, .fn0⟩, ⟨.numShdTiles_discarded, 63, 48, .ro, 0, .fn0⟩]⟩,
   ⟨false, 0x50210, 8, 7, .plain, 0, [⟨.numShdHist_elements, 63, 0, .ro, 0, .fn0⟩]⟩,
   ⟨false, 0x50248, 0, 1, .plain, 0, [⟨.numShdEvt_events, 15, 0, .ro, 0, .fn0⟩, ⟨.numShdEvt_logged, 31, 16, .ro, 0, .fn0⟩]⟩,
   ⟨false, 0x50250, 0, 1, .plain, 0, [⟨.numShdWorst0_bucket, 2, 0, .ro, 0, .fn0⟩, ⟨.numShdWorst0_core, 10, 3, .ro, 0, .fn0⟩, ⟨.numShdWorst0_array, 13, 11, .ro, 0, .fn0⟩, ⟨.numShdWorst0_entry, 25, 14, .ro, 0, .fn0⟩, ⟨.numShdWorst0_step, 57, 26, .ro, 0, .fn0⟩, ⟨.numShdWorst0_column, 62, 58, .ro, 0, .fn0⟩, ⟨.numShdWorst0_valid, 63, 63, .w1c, 0, .fn0⟩]⟩,
   ⟨false, 0x50258, 0, 1, .plain, 0, [⟨.numShdWorst1_stored, 31, 0, .ro, 0, .fn0⟩, ⟨.numShdWorst1_reference, 63, 32, .ro, 0, .fn0⟩]⟩] ++
  [⟨false, 0x50A00, 8, 64, .plain, 0, [⟨.numPol1_word1, 29, 0, .ro, 0, .doze⟩, ⟨.numPol1_present, 63, 63, .ro, 0, .doze⟩]⟩]

/-- The ATT_ registers of spec/08_attention_engine.md. -/
def regsAtt08 : List RegRow :=
  [⟨true, 0x400, 0, 1, .plain, 1, [⟨.attCtl_read_ahead, 3, 0, .rw, 2, .doze⟩]⟩,
   ⟨true, 0x408, 0, 1, .plain, 1, [⟨.attPages_read, 39, 0, .ro, 0, .doze⟩, ⟨.attPages_tail, 63, 40, .ro, 0, .doze⟩]⟩,
   ⟨true, 0x410, 0, 1, .plain, 1, [⟨.attFmt_w16, 15, 0, .ro, 0, .doze⟩, ⟨.attFmt_w8, 31, 16, .ro, 0, .doze⟩, ⟨.attFmt_w4, 47, 32, .ro, 0, .doze⟩, ⟨.attFmt_narrowed, 63, 48, .ro, 0, .doze⟩]⟩,
   ⟨true, 0x418, 0, 1, .plain, 1, [⟨.attErr_count, 15, 0, .ro, 0, .doze⟩, ⟨.attErr_reason, 19, 16, .ro, 0, .doze⟩, ⟨.attErr_window, 33, 20, .ro, 0, .doze⟩, ⟨.attErr_page, 55, 34, .ro, 0, .doze⟩]⟩,
   ⟨true, 0x420, 0, 1, .plain, 1, [⟨.attWait_clk, 63, 0, .ro, 0, .doze⟩]⟩]

/-- The MMU_ registers of spec/09_memory_translation_kv_tiers.md. -/
def regsMmu09 : List RegRow :=
  [⟨false, 0x60000, 0, 1, .plain, 7, [⟨.mmuCtl_walkers, 4, 0, .rw, 16, .doze⟩, ⟨.mmuCtl_kv_en, 5, 5, .rw, 0, .doze⟩]⟩,
   ⟨false, 0x60008, 0, 1, .plain, 7, [⟨.mmuWinbase_base, 45, 0, .rw, 0, .doze⟩, ⟨.mmuWinbase_valid, 46, 46, .rw, 0, .doze⟩]⟩,
   ⟨false, 0x60010, 0, 1, .plain, 7, [⟨.mmuInval_kind, 1, 0, .rw, 0, .doze⟩, ⟨.mmuInval_job, 13, 2, .rw, 0, .doze⟩, ⟨.mmuInval_go, 14, 14, .wo, 0, .none⟩, ⟨.mmuInval_done, 15, 15, .ro, 1, .doze⟩, ⟨.mmuInval_count, 47, 16, .rw, 0, .doze⟩]⟩,
   ⟨false, 0x60018, 0, 1, .plain, 7, [⟨.mmuInvalVa_va, 54, 16, .rw, 0, .doze⟩]⟩,
   ⟨false, 0x60020, 0, 1, .plain, 7, [⟨.mmuFault0_va, 54, 0, .ro, 0, .doze⟩, ⟨.mmuFault0_reason, 59, 55, .ro, 0, .doze⟩]⟩,
   ⟨false, 0x60028, 0, 1, .plain, 7, [⟨.mmuFault1_job, 11, 0, .ro, 0, .doze⟩, ⟨.mmuFault1_core, 19, 12, .ro, 0, .doze⟩, ⟨.mmuFault1_unit, 22, 20, .ro, 0, .doze⟩, ⟨.mmuFault1_code, 30, 23, .ro, 0, .doze⟩, ⟨.mmuFault1_valid, 31, 31, .w1c, 0, .doze⟩]⟩,
   ⟨false, 0x60030, 0, 1, .plain, 7, [⟨.mmuTlbcnt_walks, 31, 0, .ro, 0, .doze⟩, ⟨.mmuTlbcnt_faults, 63, 32, .ro, 0, .doze⟩]⟩,
   ⟨false, 0x60038, 0, 1, .plain, 7, [⟨.mmuKvcnt0_spills, 31, 0, .ro, 0, .doze⟩, ⟨.mmuKvcnt0_returns, 63, 32, .ro, 0, .doze⟩]⟩,
   ⟨false, 0x60040, 0, 1, .plain, 7, [⟨.mmuKvcnt1_rescued, 15, 0, .ro, 0, .doze⟩, ⟨.mmuKvcnt1_spill_failed, 31, 16, .ro, 0, .doze⟩, ⟨.mmuKvcnt1_return_failed, 47, 32, .ro, 0, .doze⟩, ⟨.mmuKvcnt1_frame_waits, 63, 48, .ro, 0, .doze⟩]⟩,
   ⟨false, 0x60100, 8, 64, .plain, 7, [⟨.mmuRoot_job, 11, 0, .rw, 0, .doze⟩, ⟨.mmuRoot_valid, 12, 12, .rw, 0, .doze⟩, ⟨.mmuRoot_root, 45, 16, .rw, 0, .doze⟩]⟩] ++
  [⟨false, 0x60400, 32, 64, .plain, 7, [⟨.mmuPoola_list_base, 45, 0, .rw, 0, .doze⟩, ⟨.mmuPoola_en, 46, 46, .rw, 0, .doze⟩, ⟨.mmuPoola_job, 58, 47, .rw, 0, .doze⟩]⟩,
   ⟨false, 0x60408, 32, 64, .plain, 7, [⟨.mmuPoolb_size, 23, 0, .rw, 0, .doze⟩, ⟨.mmuPoolb_free, 47, 24, .rw, 0, .doze⟩, ⟨.mmuPoolb_credits, 55, 48, .rw, 4, .doze⟩]⟩,
   ⟨false, 0x60410, 32, 64, .plain, 7, [⟨.mmuPoolc_hwm, 23, 0, .rw, 0, .doze⟩, ⟨.mmuPoolc_lwm, 47, 24, .rw, 0, .doze⟩]⟩,
   ⟨false, 0x60418, 32, 64, .plain, 7, [⟨.mmuPoold_in_flight, 15, 0, .ro, 0, .doze⟩, ⟨.mmuPoold_waiting, 31, 16, .ro, 0, .doze⟩, ⟨.mmuPoold_tail_fault, 32, 32, .w1c, 0, .doze⟩]⟩,
   ⟨false, 0x61000, 16, 256, .plain, 7, [⟨.mmuTaila_ctx, 15, 0, .rw, 0, .doze⟩, ⟨.mmuTaila_rkey, 47, 16, .rw, 0, .doze⟩, ⟨.mmuTaila_valid, 63, 63, .rw, 0, .doze⟩]⟩,
   ⟨false, 0x61008, 16, 256, .plain, 7, [⟨.mmuTailb_remote_va, 63, 0, .rw, 0, .doze⟩]⟩]

/-- The HBM_ registers of spec/09_memory_translation_kv_tiers.md. -/
def regsHbm09 : List RegRow :=
  [⟨false, 0x70000, 0, 1, .plain, 7, [⟨.hbmCtl_scrub_hours, 15, 0, .rw, 24, .doze⟩, ⟨.hbmCtl_ue_alert, 16, 16, .rw, 1, .doze⟩]⟩,
   ⟨false, 0x70010, 0, 1, .plain, 7, [⟨.hbmUe0_offset, 45, 0, .ro, 0, .doze⟩, ⟨.hbmUe0_stack, 50, 46, .ro, 0, .doze⟩, ⟨.hbmUe0_valid, 51, 51, .w1c, 0, .doze⟩, ⟨.hbmUe0_by_scrub, 52, 52, .ro, 0, .doze⟩]⟩,
   ⟨false, 0x70018, 0, 1, .plain, 7, [⟨.hbmUe1_job, 11, 0, .ro, 0, .doze⟩, ⟨.hbmUe1_core, 19, 12, .ro, 0, .doze⟩]⟩,
   ⟨false, 0x70020, 0, 1, .plain, 7, [⟨.hbmRd_bytes, 63, 0, .ro, 0, .doze⟩]⟩,
   ⟨false, 0x70028, 0, 1, .plain, 7, [⟨.hbmWr_bytes, 63, 0, .ro, 0, .doze⟩]⟩,
   ⟨false, 0x70100, 8, 20, .plain, 7, [⟨.hbmStack_corrected, 15, 0, .ro, 0, .doze⟩, ⟨.hbmStack_uncorrected, 31, 16, .ro, 0, .doze⟩, ⟨.hbmStack_ondie, 47, 32, .ro, 0, .doze⟩, ⟨.hbmStack_temp, 55, 48, .ro, 0, .doze⟩, ⟨.hbmStack_present, 56, 56, .ro, 0, .all⟩, ⟨.hbmStack_hot, 57, 57, .ro, 0, .doze⟩]⟩]

/-- The DMA_ registers of spec/10_streams_offload_ordering.md. -/
def regsDma10 : List RegRow :=
  [⟨true, 0x200, 8, 16, .plain, 1, [⟨.dmaQ_depth, 6, 0, .rw, 16, .doze⟩, ⟨.dmaQ_max_out, 11, 7, .rw, 4, .doze⟩, ⟨.dmaQ_max_bytes, 19, 12, .rw, 0, .doze⟩, ⟨.dmaQ_credit_tc, 27, 20, .rw, 0, .doze⟩, ⟨.dmaQ_credit_en, 28, 28, .rw, 0, .doze⟩]⟩,
   ⟨true, 0x280, 8, 16, .plain, 1, [⟨.dmaQstat_queued, 6, 0, .ro, 0, .doze⟩, ⟨.dmaQstat_in_flight, 11, 7, .ro, 0, .doze⟩, ⟨.dmaQstat_started, 43, 12, .ro, 0, .doze⟩, ⟨.dmaQstat_fence_wait, 44, 44, .ro, 0, .doze⟩]⟩,
   ⟨true, 0x300, 0, 1, .plain, 1, [⟨.dmaCtl_fence_limit, 15, 0, .rw, 625, .doze⟩, ⟨.dmaCtl_cfg_refused, 31, 16, .ro, 0, .doze⟩]⟩,
   ⟨true, 0x308, 0, 1, .plain, 1, [⟨.dmaErr0_queue, 3, 0, .ro, 0, .doze⟩, ⟨.dmaErr0_kind, 7, 4, .ro, 0, .doze⟩, ⟨.dmaErr0_code, 15, 8, .ro, 0, .doze⟩, ⟨.dmaErr0_job, 27, 16, .ro, 0, .doze⟩, ⟨.dmaErr0_filler, 28, 28, .ro, 0, .doze⟩, ⟨.dmaErr0_valid, 29, 29, .w1c, 0, .doze⟩]⟩,
   ⟨true, 0x310, 0, 1, .plain, 1, [⟨.dmaErr1_addr, 63, 0, .ro, 0, .doze⟩]⟩,
   ⟨true, 0x318, 0, 1, .plain, 1, [⟨.dmaBytes_bytes, 63, 0, .ro, 0, .doze⟩]⟩,
   ⟨true, 0x320, 0, 1, .plain, 1, [⟨.dmaTailwr_bytes, 63, 0, .ro, 0, .doze⟩]⟩,
   ⟨true, 0x328, 0, 1, .plain, 1, [⟨.dmaTailrd_bytes, 63, 0, .ro, 0, .doze⟩]⟩]

/-- The XPT_ registers of spec/10_streams_offload_ordering.md. -/
def regsXpt10 : List RegRow :=
  [⟨false, 0x80000, 0, 1, .plain, 5, [⟨.xptCtxsel_ctx, 15, 0, .rw, 0, .doze⟩]⟩,
   ⟨false, 0x80008, 0, 1, .ctx, 5, [⟨.xptCtx0_valid, 0, 0, .rw, 0, .doze⟩, ⟨.xptCtx0_type, 1, 1, .rw, 0, .doze⟩, ⟨.xptCtx0_job, 13, 2, .rw, 0, .doze⟩, ⟨.xptCtx0_port, 19, 14, .rw, 63, .doze⟩, ⟨.xptCtx0_ports_m1, 21, 20, .rw, 0, .doze⟩, ⟨.xptCtx0_state, 25, 22, .ro, 0, .doze⟩, ⟨.xptCtx0_code, 33, 26, .ro, 0, .doze⟩, ⟨.xptCtx0_epsn, 57, 34, .rw, 0, .doze⟩, ⟨.xptCtx0_dscp, 63, 58, .rw, 0, .doze⟩]⟩,
   ⟨false, 0x80010, 0, 1, .ctx, 5, [⟨.xptCtx1_spsn, 23, 0, .rw, 0, .doze⟩, ⟨.xptCtx1_rqpn, 47, 24, .rw, 0, .doze⟩, ⟨.xptCtx1_retry_cnt, 50, 48, .rw, 7, .doze⟩, ⟨.xptCtx1_timeout, 55, 51, .rw, 4, .doze⟩, ⟨.xptCtx1_window, 63, 56, .rw, 8, .doze⟩]⟩,
   ⟨false, 0x80018, 0, 1, .ctx, 5, [⟨.xptCtx2_dest_lo, 63, 0, .rw, 0, .doze⟩]⟩,
   ⟨false, 0x80020, 0, 1, .ctx, 5, [⟨.xptCtx3_dest_hi, 63, 0, .rw, 0, .doze⟩]⟩,
   ⟨false, 0x80040, 0, 1, .plain, 5, [⟨.xptRetx_seq_nak, 15, 0, .ro, 0, .doze⟩, ⟨.xptRetx_timeouts, 31, 16, .ro, 0, .doze⟩, ⟨.xptRetx_rnr, 47, 32, .ro, 0, .doze⟩, ⟨.xptRetx_cnp, 63, 48, .ro, 0, .doze⟩]⟩,
   ⟨false, 0x80048, 0, 1, .plain, 5, [⟨.xptDrop_qpn, 15, 0, .ro, 0, .doze⟩, ⟨.xptDrop_icrc, 31, 16, .ro, 0, .doze⟩, ⟨.xptDrop_service, 47, 32, .ro, 0, .doze⟩]⟩,
   ⟨false, 0x80100, 0, 1, .plain, 5, [⟨.xptRegsel_region, 13, 0, .rw, 0, .doze⟩]⟩,
   ⟨false, 0x80108, 0, 1, .region, 5, [⟨.xptReg0_word0, 31, 0, .ro, 0, .doze⟩, ⟨.xptReg0_gen, 47, 32, .ro, 0, .all⟩, ⟨.xptReg0_valid, 48, 48, .ro, 0, .doze⟩]⟩,
   ⟨false, 0x80128, 0, 1, .plain, 5, [⟨.xptRegcnt_registered, 14, 0, .ro, 0, .doze⟩, ⟨.xptRegcnt_refused, 47, 16, .ro, 0, .doze⟩]⟩] ++
  [⟨false, 0x80130, 0, 1, .plain, 5, [⟨.xptRefuse0_region, 13, 0, .ro, 0, .doze⟩, ⟨.xptRefuse0_gen, 29, 14, .ro, 0, .doze⟩, ⟨.xptRefuse0_reason, 33, 30, .ro, 0, .doze⟩, ⟨.xptRefuse0_port, 39, 34, .ro, 0, .doze⟩, ⟨.xptRefuse0_job, 51, 40, .ro, 0, .doze⟩, ⟨.xptRefuse0_valid, 52, 52, .w1c, 0, .doze⟩]⟩,
   ⟨false, 0x80138, 0, 1, .plain, 5, [⟨.xptRefuse1_offset, 63, 0, .ro, 0, .doze⟩]⟩,
   ⟨false, 0x80110, 0, 1, .region, 5, [⟨.xptReg1_word, 63, 0, .ro, 0, .doze⟩]⟩,
   ⟨false, 0x80118, 0, 1, .region, 5, [⟨.xptReg2_word, 63, 0, .ro, 0, .doze⟩]⟩,
   ⟨false, 0x80120, 0, 1, .region, 5, [⟨.xptReg3_word, 63, 0, .ro, 0, .doze⟩]⟩]

/-- The SHP_ registers of spec/11_jobs_stages_idle.md. -/
def regsShp11 : List RegRow :=
  [⟨false, 0x30100, 8, 64, .plain, 0, [⟨.shpJob_job, 11, 0, .ro, 0, .fn0⟩, ⟨.shpJob_valid, 12, 12, .ro, 0, .fn0⟩, ⟨.shpJob_eclipse, 13, 13, .ro, 0, .fn0⟩, ⟨.shpJob_groups, 20, 14, .ro, 0, .fn0⟩, ⟨.shpJob_cores, 28, 21, .ro, 0, .fn0⟩, ⟨.shpJob_filler, 29, 29, .ro, 0, .fn0⟩]⟩,
   ⟨false, 0x30400, 8, 64, .plain, 0, [⟨.shpGrp_job, 11, 0, .ro, 0, .doze⟩, ⟨.shpGrp_present, 12, 12, .ro, 0, .doze⟩, ⟨.shpGrp_cores, 20, 13, .ro, 0, .doze⟩, ⟨.shpGrp_policy, 26, 21, .ro, 0, .doze⟩, ⟨.shpGrp_split, 32, 27, .ro, 0, .doze⟩, ⟨.shpGrp_role, 34, 33, .ro, 0, .doze⟩, ⟨.shpGrp_gate, 47, 35, .ro, 0, .doze⟩]⟩]

/-- The CORE_ registers of spec/11_jobs_stages_idle.md. -/
def regsCore11 : List RegRow :=
  [⟨true, 0x500, 8, 13, .plain, 1, [⟨.coreIdleP_clk, 63, 0, .ro, 0, .doze⟩]⟩,
   ⟨true, 0x568, 0, 1, .plain, 1, [⟨.coreIdlePj_job, 11, 0, .ro, 0, .doze⟩, ⟨.coreIdlePj_valid, 12, 12, .ro, 0, .doze⟩]⟩,
   ⟨true, 0x580, 8, 13, .plain, 1, [⟨.coreIdleF_clk, 63, 0, .ro, 0, .doze⟩]⟩,
   ⟨true, 0x5E8, 0, 1, .plain, 1, [⟨.coreIdleFj_job, 11, 0, .ro, 0, .doze⟩, ⟨.coreIdleFj_valid, 12, 12, .ro, 0, .doze⟩]⟩,
   ⟨true, 0x600, 0, 1, .plain, 1, [⟨.coreIdleClk_clk, 63, 0, .ro, 0, .doze⟩]⟩,
   ⟨true, 0x608, 0, 1, .plain, 1, [⟨.coreFillGated_clk, 63, 0, .ro, 0, .doze⟩]⟩,
   ⟨true, 0x610, 0, 1, .plain, 1, [⟨.coreFillYield_clk, 63, 0, .ro, 0, .doze⟩]⟩,
   ⟨true, 0x700, 8, 13, .plain, 1, [⟨.coreIsnapP_clk, 63, 0, .ro, 0, .doze⟩]⟩,
   ⟨true, 0x768, 0, 1, .plain, 1, [⟨.coreIsnapPj_both, 12, 0, .ro, 0, .doze⟩]⟩,
   ⟨true, 0x780, 8, 13, .plain, 1, [⟨.coreIsnapF_clk, 63, 0, .ro, 0, .doze⟩]⟩] ++
  [⟨true, 0x7E8, 0, 1, .plain, 1, [⟨.coreIsnapFj_both, 12, 0, .ro, 0, .doze⟩]⟩,
   ⟨true, 0x7F0, 0, 1, .plain, 1, [⟨.coreIsnapClk_clk, 63, 0, .ro, 0, .doze⟩]⟩,
   ⟨true, 0x7F8, 0, 1, .plain, 1, [⟨.coreIsnapEpoch_epoch, 47, 0, .ro, 0, .doze⟩]⟩]

/-- The COL_ registers of spec/12_collectives.md. -/
def regsCol12 : List RegRow :=
  [⟨false, 0xA0000, 0, 1, .plain, 5, [⟨.colArm0_slot, 15, 0, .rw, 0, .doze⟩, ⟨.colArm0_count, 31, 16, .rw, 1, .doze⟩, ⟨.colArm0_go, 32, 32, .wo, 0, .none⟩]⟩,
   ⟨false, 0xA0008, 0, 1, .plain, 5, [⟨.colArm1_step, 31, 0, .rw, 0, .doze⟩, ⟨.colArm1_job, 43, 32, .rw, 0, .doze⟩]⟩,
   ⟨false, 0xA0010, 0, 1, .plain, 5, [⟨.colArm2_tbias, 31, 0, .rw, 0, .doze⟩, ⟨.colArm2_gbias, 63, 32, .rw, 0, .doze⟩]⟩,
   ⟨false, 0xA0018, 0, 1, .plain, 5, [⟨.colAbort_job, 11, 0, .rw, 0, .doze⟩, ⟨.colAbort_coll, 21, 12, .rw, 0, .doze⟩, ⟨.colAbort_all, 22, 22, .rw, 0, .doze⟩, ⟨.colAbort_go, 23, 23, .wo, 0, .none⟩]⟩,
   ⟨false, 0xA0020, 0, 1, .plain, 5, [⟨.colStat_armed, 15, 0, .ro, 0, .doze⟩, ⟨.colStat_arm_refused, 31, 16, .ro, 0, .doze⟩, ⟨.colStat_expiries, 47, 32, .ro, 0, .doze⟩, ⟨.colStat_slips, 63, 48, .ro, 0, .doze⟩]⟩,
   ⟨false, 0xA0028, 0, 1, .plain, 5, [⟨.colFires_fires, 63, 0, .ro, 0, .doze⟩]⟩,
   ⟨false, 0xA0030, 0, 1, .plain, 5, [⟨.colDrop_listed, 15, 0, .ro, 0, .doze⟩, ⟨.colDrop_epoch, 31, 16, .ro, 0, .doze⟩, ⟨.colDrop_refused, 47, 32, .ro, 0, .doze⟩, ⟨.colDrop_unresident, 63, 48, .ro, 0, .doze⟩]⟩,
   ⟨false, 0xA0038, 0, 1, .plain, 5, [⟨.colFail0_slot, 15, 0, .ro, 0, .doze⟩, ⟨.colFail0_job, 27, 16, .ro, 0, .doze⟩, ⟨.colFail0_coll, 37, 28, .ro, 0, .doze⟩, ⟨.colFail0_code, 45, 38, .ro, 0, .doze⟩, ⟨.colFail0_cause, 47, 46, .ro, 0, .doze⟩, ⟨.colFail0_valid, 48, 48, .w1c, 0, .doze⟩]⟩,
   ⟨false, 0xA0040, 0, 1, .plain, 5, [⟨.colFail1_step, 31, 0, .ro, 0, .doze⟩, ⟨.colFail1_fires_done, 47, 32, .ro, 0, .doze⟩]⟩,
   ⟨false, 0xA0080, 8, 16, .plain, 5, [⟨.colDl_job, 11, 0, .rw, 0, .doze⟩, ⟨.colDl_coll, 21, 12, .rw, 0, .doze⟩, ⟨.colDl_step, 53, 22, .rw, 0, .doze⟩, ⟨.colDl_auto, 54, 54, .ro, 0, .doze⟩, ⟨.colDl_valid, 55, 55, .rw, 0, .doze⟩]⟩] ++
  [⟨false, 0xA0100, 0, 1, .plain, 5, [⟨.colTsel_slot, 15, 0, .rw, 0, .doze⟩]⟩,
   ⟨false, 0xA0108, 8, 8, .slot, 5, [⟨.colTword_word, 63, 0, .ro, 0, .doze⟩]⟩,
   ⟨false, 0xA0148, 0, 1, .slot, 5, [⟨.colTlive0_state, 1, 0, .ro, 0, .doze⟩, ⟨.colTlive0_issued, 17, 2, .ro, 0, .doze⟩, ⟨.colTlive0_done, 33, 18, .ro, 0, .doze⟩, ⟨.colTlive0_wd_left, 57, 34, .ro, 0, .doze⟩]⟩,
   ⟨false, 0xA0150, 0, 1, .slot, 5, [⟨.colTlive1_step, 31, 0, .ro, 0, .doze⟩]⟩,
   ⟨false, 0xA0158, 0, 1, .slot, 5, [⟨.colTlive2_tbias, 31, 0, .ro, 0, .doze⟩, ⟨.colTlive2_gbias, 63, 32, .ro, 0, .doze⟩]⟩]

/-- The GRD_ registers of spec/13_gradients_and_step_commit.md. -/
def regsGrd13 : List RegRow :=
  [⟨false, 0xA1000, 32, 64, .plain, 0, [⟨.grdJoba_job, 11, 0, .rw, 0, .fn0⟩, ⟨.grdJoba_valid, 12, 12, .rw, 0, .fn0⟩, ⟨.grdJoba_layout, 20, 13, .rwe, 0, .fn0⟩]⟩,
   ⟨false, 0xA1008, 32, 64, .plain, 0, [⟨.grdJobb_committed, 31, 0, .rw, 0, .fn0⟩, ⟨.grdJobb_state, 33, 32, .ro, 0, .fn0⟩, ⟨.grdJobb_undo_ok, 34, 34, .ro, 0, .fn0⟩, ⟨.grdJobb_layout_wait, 35, 35, .ro, 0, .fn0⟩, ⟨.grdJobb_alt_written, 36, 36, .ro, 0, .fn0⟩]⟩,
   ⟨false, 0xA1010, 32, 64, .plain, 0, [⟨.grdJobc_gcoll_base, 9, 0, .rw, 0, .fn0⟩, ⟨.grdJobc_gcoll_count, 20, 10, .rw, 0, .fn0⟩]⟩,
   ⟨false, 0xA1018, 32, 64, .plain, 0, [⟨.grdJobd_commits, 15, 0, .ro, 0, .fn0⟩, ⟨.grdJobd_rollbacks, 31, 16, .ro, 0, .fn0⟩, ⟨.grdJobd_failed, 47, 32, .ro, 0, .fn0⟩, ⟨.grdJobd_tag_mismatch, 63, 48, .ro, 0, .fn0⟩]⟩,
   ⟨false, 0xA2000, 32, 64, .plain, 0, [⟨.grdBra_job, 11, 0, .rw, 0, .fn0⟩, ⟨.grdBra_valid, 12, 12, .rw, 0, .fn0⟩, ⟨.grdBra_kind, 13, 13, .rw, 0, .fn0⟩, ⟨.grdBra_view, 54, 16, .rw, 0, .fn0⟩]⟩,
   ⟨false, 0xA2008, 32, 64, .plain, 0, [⟨.grdBrb_length, 25, 0, .rw, 0, .fn0⟩]⟩,
   ⟨false, 0xA2010, 32, 64, .plain, 0, [⟨.grdBrc_bank0, 54, 16, .rw, 0, .fn0⟩]⟩,
   ⟨false, 0xA2018, 32, 64, .plain, 0, [⟨.grdBrd_bank1, 54, 16, .rw, 0, .fn0⟩]⟩,
   ⟨false, 0xA3000, 0, 1, .plain, 0, [⟨.grdChk_checks, 31, 0, .ro, 0, .fn0⟩, ⟨.grdChk_mismatches, 47, 32, .ro, 0, .fn0⟩, ⟨.grdChk_zero_msgs, 63, 48, .ro, 0, .fn0⟩]⟩,
   ⟨false, 0xA3008, 0, 1, .plain, 0, [⟨.grdLedg0_sum, 63, 0, .ro, 0, .fn0⟩]⟩] ++
  [⟨false, 0xA3010, 0, 1, .plain, 0, [⟨.grdLedg1_s, 63, 0, .ro, 0, .fn0⟩]⟩,
   ⟨false, 0xA3018, 0, 1, .plain, 0, [⟨.grdLedg2_bound, 63, 0, .ro, 0, .fn0⟩]⟩,
   ⟨false, 0xA3020, 0, 1, .plain, 0, [⟨.grdLedg3_job, 11, 0, .ro, 0, .fn0⟩, ⟨.grdLedg3_coll, 21, 12, .ro, 0, .fn0⟩, ⟨.grdLedg3_slot, 37, 22, .ro, 0, .fn0⟩, ⟨.grdLedg3_h, 45, 38, .ro, 0, .fn0⟩, ⟨.grdLedg3_cause, 47, 46, .ro, 0, .fn0⟩, ⟨.grdLedg3_valid, 48, 48, .w1c, 0, .fn0⟩]⟩,
   ⟨false, 0xA3028, 0, 1, .plain, 0, [⟨.grdLedg4_step, 31, 0, .ro, 0, .fn0⟩]⟩,
   ⟨false, 0xA3030, 0, 1, .plain, 0, [⟨.grdNanlog0_nan_rank, 19, 0, .ro, 0, .fn0⟩, ⟨.grdNanlog0_nan_index, 43, 20, .ro, 0, .fn0⟩, ⟨.grdNanlog0_job, 55, 44, .ro, 0, .fn0⟩, ⟨.grdNanlog0_valid, 56, 56, .w1c, 0, .fn0⟩]⟩,
   ⟨false, 0xA3038, 0, 1, .plain, 0, [⟨.grdNanlog1_step, 31, 0, .ro, 0, .fn0⟩, ⟨.grdNanlog1_coll, 41, 32, .ro, 0, .fn0⟩]⟩,
   ⟨false, 0xA3040, 0, 1, .plain, 0, [⟨.grdZlast_job, 11, 0, .ro, 0, .fn0⟩, ⟨.grdZlast_coll, 21, 12, .ro, 0, .fn0⟩, ⟨.grdZlast_step, 63, 32, .ro, 0, .fn0⟩]⟩,
   ⟨false, 0xA3048, 0, 1, .plain, 0, [⟨.grdTag0_job, 11, 0, .ro, 0, .fn0⟩, ⟨.grdTag0_coll, 21, 12, .ro, 0, .fn0⟩, ⟨.grdTag0_src_module, 33, 22, .ro, 0, .fn0⟩, ⟨.grdTag0_valid, 34, 34, .w1c, 0, .fn0⟩]⟩,
   ⟨false, 0xA3050, 0, 1, .plain, 0, [⟨.grdTag1_presented, 31, 0, .ro, 0, .fn0⟩, ⟨.grdTag1_committed, 63, 32, .ro, 0, .fn0⟩]⟩,
   ⟨false, 0xA3058, 0, 1, .plain, 0, [⟨.grdEpoch0_job, 11, 0, .ro, 0, .fn0⟩, ⟨.grdEpoch0_presented, 19, 12, .ro, 0, .fn0⟩, ⟨.grdEpoch0_current, 27, 20, .ro, 0, .fn0⟩, ⟨.grdEpoch0_src_module, 39, 28, .ro, 0, .fn0⟩, ⟨.grdEpoch0_valid, 40, 40, .w1c, 0, .fn0⟩]⟩] ++
  [⟨false, 0xA3060, 0, 1, .plain, 0, [⟨.grdEpoch1_step, 31, 0, .ro, 0, .fn0⟩, ⟨.grdEpoch1_coll, 41, 32, .ro, 0, .fn0⟩]⟩]

/-- The LNK_ registers of spec/14_links_and_negotiation.md. -/
def regsLnk14 : List RegRow :=
  [⟨false, 0xC0000, 0, 1, .plain, 8, [⟨.lnkCtl_retry_us, 15, 0, .rw, 2000, .doze⟩, ⟨.lnkCtl_ser_log2, 20, 16, .rw, 12, .doze⟩, ⟨.lnkCtl_fec_ue, 24, 21, .rw, 4, .doze⟩, ⟨.lnkCtl_lpi_us, 32, 25, .rw, 16, .doze⟩]⟩,
   ⟨false, 0xC0008, 0, 1, .plain, 8, [⟨.lnkDrop_shape, 15, 0, .ro, 0, .doze⟩, ⟨.lnkDrop_unreachable, 31, 16, .ro, 0, .doze⟩, ⟨.lnkDrop_version, 47, 32, .ro, 0, .doze⟩]⟩,
   ⟨false, 0xC0100, 32, 48, .plain, 8, [⟨.lnkPctl_en, 0, 0, .rw, 1, .doze⟩, ⟨.lnkPctl_allow_half, 1, 1, .rw, 1, .doze⟩, ⟨.lnkPctl_retrain, 2, 2, .wo, 0, .none⟩, ⟨.lnkPctl_eth_modes, 5, 3, .rw, 7, .doze⟩, ⟨.lnkPctl_tx_swing, 7, 6, .rw, 0, .doze⟩, ⟨.lnkPctl_lpi_dis, 8, 8, .rw, 0, .doze⟩, ⟨.lnkPctl_adapt_hold, 9, 9, .rw, 0, .doze⟩, ⟨.lnkPctl_prbs, 10, 10, .rw, 0, .doze⟩]⟩,
   ⟨false, 0xC0108, 32, 48, .plain, 8, [⟨.lnkPstat_state, 2, 0, .ro, 0, .doze⟩, ⟨.lnkPstat_width, 6, 3, .ro, 0, .doze⟩, ⟨.lnkPstat_rate, 8, 7, .ro, 0, .doze⟩, ⟨.lnkPstat_link_version, 10, 9, .ro, 0, .doze⟩, ⟨.lnkPstat_eth_mode, 12, 11, .ro, 0, .doze⟩, ⟨.lnkPstat_lanes_ok, 20, 13, .ro, 0, .doze⟩]⟩,
   ⟨false, 0xC0110, 32, 48, .plain, 8, [⟨.lnkPerr_crc, 15, 0, .ro, 0, .doze⟩, ⟨.lnkPerr_retries, 31, 16, .ro, 0, .doze⟩, ⟨.lnkPerr_fec_uncorr, 47, 32, .ro, 0, .doze⟩, ⟨.lnkPerr_degrades, 55, 48, .ro, 0, .doze⟩, ⟨.lnkPerr_trainings, 63, 56, .ro, 0, .doze⟩]⟩,
   ⟨false, 0xC0118, 32, 48, .plain, 8, [⟨.lnkPpeer_slot, 1, 0, .ro, 0, .doze⟩, ⟨.lnkPpeer_tray, 4, 2, .ro, 0, .doze⟩, ⟨.lnkPpeer_group, 11, 5, .ro, 0, .doze⟩, ⟨.lnkPpeer_mismatch, 12, 12, .ro, 0, .doze⟩, ⟨.lnkPpeer_transport, 20, 13, .ro, 0, .doze⟩, ⟨.lnkPpeer_numeric_gen, 28, 21, .ro, 0, .doze⟩]⟩,
   ⟨false, 0xC1000, 32, 7, .plain, 8, [⟨.lnkEv4_addr, 31, 0, .rw, 0, .doze⟩, ⟨.lnkEv4_prefix, 37, 32, .rw, 0, .doze⟩, ⟨.lnkEv4_valid, 38, 38, .rw, 0, .doze⟩]⟩,
   ⟨false, 0xC1008, 32, 7, .plain, 8, [⟨.lnkEv6l_addr_lo, 63, 0, .rw, 0, .doze⟩]⟩,
   ⟨false, 0xC1010, 32, 7, .plain, 8, [⟨.lnkEv6h_addr_hi, 63, 0, .rw, 0, .doze⟩]⟩,
   ⟨false, 0xC1018, 32, 7, .plain, 8, [⟨.lnkEgw_gw_mac, 47, 0, .rw, 0, .doze⟩, ⟨.lnkEgw_v6_prefix, 55, 48, .rw, 0, .doze⟩, ⟨.lnkEgw_v6_valid, 56, 56, .rw, 0, .doze⟩]⟩]

/-- The MED_ registers of spec/15_media_front.md. -/
def regsMed15 : List RegRow :=
  [⟨false, 0xE0000, 256, 2, .plain, 6, [⟨.medRing_base, 45, 0, .rw, 0, .doze⟩, ⟨.medRing_size_log2, 50, 46, .rw, 4, .doze⟩, ⟨.medRing_en, 51, 51, .rw, 0, .doze⟩]⟩,
   ⟨false, 0xE0008, 256, 2, .plain, 6, [⟨.medTail_tail, 15, 0, .rw, 0, .doze⟩]⟩,
   ⟨false, 0xE0010, 256, 2, .plain, 6, [⟨.medHead_head, 15, 0, .ro, 0, .doze⟩, ⟨.medHead_state, 17, 16, .ro, 0, .doze⟩]⟩,
   ⟨false, 0xE0018, 256, 2, .plain, 6, [⟨.medErr0_code, 7, 0, .ro, 0, .doze⟩, ⟨.medErr0_reason, 15, 8, .ro, 0, .doze⟩, ⟨.medErr0_job, 27, 16, .ro, 0, .doze⟩, ⟨.medErr0_record, 43, 28, .ro, 0, .doze⟩, ⟨.medErr0_valid, 44, 44, .w1c, 0, .doze⟩]⟩,
   ⟨false, 0xE0020, 256, 2, .plain, 6, [⟨.medErr1_offset, 31, 0, .ro, 0, .doze⟩, ⟨.medErr1_frame, 47, 32, .ro, 0, .doze⟩]⟩,
   ⟨false, 0xE0028, 256, 2, .plain, 6, [⟨.medCnt0_frames, 39, 0, .ro, 0, .doze⟩, ⟨.medCnt0_tasks, 63, 40, .ro, 0, .doze⟩]⟩,
   ⟨false, 0xE0030, 256, 2, .plain, 6, [⟨.medCnt1_kept, 39, 0, .ro, 0, .doze⟩, ⟨.medCnt1_aborted, 63, 40, .ro, 0, .doze⟩]⟩,
   ⟨false, 0xE0038, 256, 2, .plain, 6, [⟨.medCnt2_dropped, 63, 0, .ro, 0, .doze⟩]⟩]

/-- The RST_ registers of spec/16_power_reset_retention.md. -/
def regsRst16 : List RegRow :=
  [⟨false, 0x40000, 0, 1, .plain, 0, [⟨.rstStat_in_reset, 8, 0, .ro, 510, .all⟩, ⟨.rstStat_ready, 17, 9, .ro, 1, .all⟩, ⟨.rstStat_cause, 20, 18, .ro, 0, .all⟩]⟩,
   ⟨false, 0x40008, 0, 1, .plain, 0, [⟨.rstCnt_module_resets, 15, 0, .ro, 0, .all⟩, ⟨.rstCnt_thermal_trips, 31, 16, .ro, 0, .all⟩, ⟨.rstCnt_fn_resets, 63, 32, .ro, 0, .all⟩]⟩]

/-- The PWR_ registers of spec/16_power_reset_retention.md. -/
def regsPwr16 : List RegRow :=
  [⟨false, 0x40800, 0, 1, .plain, 0, [⟨.pwrCtl_mode, 0, 0, .rwe, 0, .fn0⟩, ⟨.pwrCtl_want_frac, 4, 1, .rw, 2, .fn0⟩]⟩,
   ⟨false, 0x40808, 0, 1, .plain, 0, [⟨.pwrCap_cap, 12, 0, .rwe, 0, .fn0⟩]⟩,
   ⟨false, 0x40810, 0, 1, .plain, 0, [⟨.pwrClk_max, 5, 0, .rwe, 60, .fn0⟩, ⟨.pwrClk_set, 11, 6, .rwe, 60, .fn0⟩]⟩,
   ⟨false, 0x40818, 0, 1, .plain, 0, [⟨.pwrStat_state, 1, 0, .ro, 0, .fn0⟩, ⟨.pwrStat_target, 7, 2, .ro, 60, .fn0⟩, ⟨.pwrStat_die_clk, 31, 8, .ro, 15978300, .fn0⟩, ⟨.pwrStat_hold, 35, 32, .ro, 0, .fn0⟩, ⟨.pwrStat_want_lower, 36, 36, .ro, 0, .fn0⟩, ⟨.pwrStat_thermal, 37, 37, .ro, 0, .fn0⟩]⟩,
   ⟨false, 0x40820, 0, 1, .plain, 0, [⟨.pwrMeas_power, 12, 0, .ro, 0, .fn0⟩, ⟨.pwrMeas_interval, 25, 13, .ro, 0, .fn0⟩, ⟨.pwrMeas_volts, 38, 26, .ro, 0, .fn0⟩]⟩,
   ⟨false, 0x40828, 0, 1, .plain, 0, [⟨.pwrEnergy_mj, 63, 0, .ro, 0, .fn0⟩]⟩,
   ⟨false, 0x40830, 0, 1, .plain, 0, [⟨.pwrTemp_die, 31, 0, .ro, 0, .fn0⟩, ⟨.pwrTemp_io, 39, 32, .ro, 0, .fn0⟩, ⟨.pwrTemp_hbm, 47, 40, .ro, 0, .fn0⟩, ⟨.pwrTemp_inlet, 55, 48, .ro, 0, .fn0⟩]⟩,
   ⟨false, 0x40838, 0, 1, .plain, 0, [⟨.pwrThr_cap_steps, 15, 0, .ro, 0, .fn0⟩, ⟨.pwrThr_guard_holds, 31, 16, .ro, 0, .fn0⟩, ⟨.pwrThr_thermal_steps, 47, 32, .ro, 0, .fn0⟩, ⟨.pwrThr_want_events, 63, 48, .ro, 0, .fn0⟩]⟩]

/-- The EVT_ registers of spec/16_power_reset_retention.md. -/
def regsEvt16 : List RegRow :=
  [⟨false, 0x100000, 0, 1, .plain, 0, [⟨.evtStat_unread, 10, 0, .ro, 0, .all⟩, ⟨.evtStat_full, 11, 11, .ro, 0, .all⟩, ⟨.evtStat_alert, 12, 12, .w1c, 0, .all⟩, ⟨.evtStat_lost, 31, 16, .ro, 0, .all⟩]⟩,
   ⟨false, 0x100008, 0, 1, .plain, 0, [⟨.evtHead_head, 9, 0, .ro, 0, .all⟩, ⟨.evtHead_total, 41, 10, .ro, 0, .all⟩]⟩,
   ⟨false, 0x100010, 0, 1, .plain, 0, [⟨.evtTail_tail, 9, 0, .rw, 0, .all⟩]⟩,
   ⟨false, 0x100018, 0, 1, .plain, 0, [⟨.evtSel_index, 9, 0, .rw, 0, .all⟩]⟩,
   ⟨false, 0x100020, 8, 4, .plain, 0, [⟨.evtData_word, 63, 0, .ro, 0, .all⟩]⟩]

/-- Every register of the CSR space. -/
def regTable : List RegRow :=
  regsIdn00 ++ regsCtl01 ++ regsTide02 ++ regsCtl03 ++ regsSec03 ++ regsShp03 ++ regsCore04 ++ regsCore05 ++ regsVec05 ++ regsTc05 ++ regsNum06 ++ regsNum07 ++ regsAtt08 ++ regsMmu09 ++ regsHbm09 ++ regsDma10 ++ regsXpt10 ++ regsShp11 ++ regsCore11 ++ regsCol12 ++ regsGrd13 ++ regsLnk14 ++ regsMed15 ++ regsRst16 ++ regsPwr16 ++ regsEvt16

/-- The Reset column, where it states a number other than 0. -/
def Fld.resetNum : Fld → Nat
  | .idnVariant_numeric_gen => 1
  | .idnVersions_link_versions => 3
  | .idnVersions_transport_versions => 3
  | .idnVersions_image_version => 3
  | .idnVersions_launch_version => 2
  | .tideCtl_guard => 8
  | .tideCtl_late_window => 4
  | .tideCtl_max_ahead_log2 => 34
  | .tideSync_parent_port => 63
  | .tideSlot_period_log2 => 16
  | .ctlPort_udp_port => 47810
  | .ctlPort_cp0_en => 1
  | .ctlPort_cp1_en => 1
  | .numCtl_count_en => 1
  | .attCtl_read_ahead => 2
  | .mmuCtl_walkers => 16
  | .mmuInval_done => 1
  | .mmuPoolb_credits => 4
  | .hbmCtl_scrub_hours => 24
  | .hbmCtl_ue_alert => 1
  | .dmaQ_depth => 16
  | .dmaQ_max_out => 4
  | .dmaCtl_fence_limit => 625
  | .xptCtx0_port => 63
  | .xptCtx1_retry_cnt => 7
  | .xptCtx1_timeout => 4
  | .xptCtx1_window => 8
  | .colArm0_count => 1
  | .lnkCtl_retry_us => 2000
  | .lnkCtl_ser_log2 => 12
  | .lnkCtl_fec_ue => 4
  | .lnkCtl_lpi_us => 16
  | .lnkPctl_en => 1
  | .lnkPctl_allow_half => 1
  | .lnkPctl_eth_modes => 7
  | .medRing_size_log2 => 4
  | .rstStat_in_reset => 510
  | .rstStat_ready => 1
  | .pwrCtl_want_frac => 2
  | .pwrClk_max => 60
  | .pwrClk_set => 60
  | .pwrStat_target => 60
  | .pwrStat_die_clk => 15978300
  | _ => 0

/-- The width of a field, in bits. -/
def Fld.width : Fld → Nat
  | .ctlPlace_slot => 2
  | .tideStat_state => 2
  | .secStat_found_slot => 2
  | .shpStat_load_state => 2
  | .coreId_die => 2
  | .mmuInval_kind => 2
  | .xptCtx0_ports_m1 => 2
  | .shpGrp_role => 2
  | .colFail0_cause => 2
  | .colTlive0_state => 2
  | .grdJobb_state => 2
  | .grdLedg3_cause => 2
  | .lnkPctl_tx_swing => 2
  | .lnkPstat_rate => 2
  | .lnkPstat_link_version => 2
  | .lnkPstat_eth_mode => 2
  | .lnkPpeer_slot => 2
  | .medHead_state => 2
  | .pwrStat_state => 2
  | .idnVariant_io_dies => 3
  | .ctlPlace_tray => 3
  | .tideCtl_sync_src => 3
  | .coreSeqP_state => 3
  | .coreSeqF_state => 3
  | .numSil_boost => 3
  | .numShdWorst0_bucket => 3
  | .numShdWorst0_array => 3
  | .mmuFault1_unit => 3
  | .xptCtx1_retry_cnt => 3
  | .lnkPctl_eth_modes => 3
  | .lnkPstat_state => 3
  | .lnkPpeer_tray => 3
  | .rstStat_cause => 3
  | .idnVariant_port_groups => 4
  | .tideStat_depth => 4
  | .secStat_slot_revoked => 4
  | .coreSeqP_cause => 4
  | .coreSeqF_cause => 4
  | .attCtl_read_ahead => 4
  | .attErr_reason => 4
  | .dmaErr0_queue => 4
  | .dmaErr0_kind => 4
  | .xptCtx0_state => 4
  | .xptRefuse0_reason => 4
  | .lnkCtl_fec_ue => 4
  | .lnkPstat_width => 4
  | .pwrCtl_want_frac => 4
  | .pwrStat_hold => 4
  | .idnVariant_hbm_stacks => 5
  | .tideSlot_period_log2 => 5
  | .coreSeqP_queued => 5
  | .coreSeqF_queued => 5
  | .numShdWorst0_column => 5
  | .mmuCtl_walkers => 5
  | .mmuFault0_reason => 5
  | .hbmUe0_stack => 5
  | .dmaQ_max_out => 5
  | .dmaQstat_in_flight => 5
  | .xptCtx1_timeout => 5
  | .lnkCtl_ser_log2 => 5
  | .medRing_size_log2 => 5
  | .tideCtl_max_ahead_log2 => 6
  | .tideSync_parent_port => 6
  | .ctlCpIpv4_prefix => 6
  | .coreId_local => 6
  | .xptCtx0_port => 6
  | .xptCtx0_dscp => 6
  | .xptRefuse0_port => 6
  | .shpGrp_policy => 6
  | .shpGrp_split => 6
  | .lnkEv4_prefix => 6
  | .pwrClk_max => 6
  | .pwrClk_set => 6
  | .pwrStat_target => 6
  | .ctlPlace_group => 7
  | .ctlPlace_groups_m1 => 7
  | .shpStat_jobs => 7
  | .dmaQ_depth => 7
  | .dmaQstat_queued => 7
  | .shpJob_groups => 7
  | .lnkPpeer_group => 7
  | .idnVariant_numeric_gen => 8
  | .idnVersions_link_versions => 8
  | .idnVersions_transport_versions => 8
  | .idnVersions_image_version => 8
  | .idnVersions_launch_version => 8
  | .tideCtl_guard => 8
  | .tideCtl_late_window => 8
  | .tideSync_asym => 8
  | .tideSync_ptp_domain => 8
  | .shpStat_reject_reason => 8
  | .shpReject_reason => 8
  | .coreId_core => 8
  | .coreStat_arr_busy => 8
  | .coreStat_arr_moonlet => 8
  | .coreStat_last_abort => 8
  | .numShdWorst0_core => 8
  | .mmuFault1_core => 8
  | .mmuFault1_code => 8
  | .mmuPoolb_credits => 8
  | .hbmUe1_core => 8
  | .hbmStack_temp => 8
  | .dmaQ_max_bytes => 8
  | .dmaQ_credit_tc => 8
  | .dmaErr0_code => 8
  | .xptCtx0_code => 8
  | .xptCtx1_window => 8
  | .shpJob_cores => 8
  | .shpGrp_cores => 8
  | .colFail0_code => 8
  | .grdJoba_layout => 8
  | .grdLedg3_h => 8
  | .grdEpoch0_presented => 8
  | .grdEpoch0_current => 8
  | .lnkCtl_lpi_us => 8
  | .lnkPstat_lanes_ok => 8
  | .lnkPerr_degrades => 8
  | .lnkPerr_trainings => 8
  | .lnkPpeer_transport => 8
  | .lnkPpeer_numeric_gen => 8
  | .lnkEgw_v6_prefix => 8
  | .medErr0_code => 8
  | .medErr0_reason => 8
  | .pwrTemp_io => 8
  | .pwrTemp_hbm => 8
  | .pwrTemp_inlet => 8
  | .secStat_writes_left => 9
  | .shpStat_stale_fn => 9
  | .rstStat_in_reset => 9
  | .rstStat_ready => 9
  | .colAbort_coll => 10
  | .colFail0_coll => 10
  | .colDl_coll => 10
  | .grdJobc_gcoll_base => 10
  | .grdLedg3_coll => 10
  | .grdNanlog1_coll => 10
  | .grdZlast_coll => 10
  | .grdTag0_coll => 10
  | .grdEpoch1_coll => 10
  | .evtHead_head => 10
  | .evtTail_tail => 10
  | .evtSel_index => 10
  | .shpReject_section => 11
  | .grdJobc_gcoll_count => 11
  | .evtStat_unread => 11
  | .tideApply_job => 12
  | .tideEclipse_job => 12
  | .coreStat_last_abort_job => 12
  | .coreSeqP_job => 12
  | .coreSeqF_job => 12
  | .tc_owner => 12
  | .numOpsel_entry => 12
  | .numOpclr_entry => 12
  | .numSil_run => 12
  | .numShdWorst0_entry => 12
  | .mmuInval_job => 12
  | .mmuFault1_job => 12
  | .mmuRoot_job => 12
  | .mmuPoola_job => 12
  | .hbmUe1_job => 12
  | .dmaErr0_job => 12
  | .xptCtx0_job => 12
  | .xptRefuse0_job => 12
  | .shpJob_job => 12
  | .shpGrp_job => 12
  | .coreIdlePj_job => 12
  | .coreIdleFj_job => 12
  | .colArm1_job => 12
  | .colAbort_job => 12
  | .colFail0_job => 12
  | .colDl_job => 12
  | .grdJoba_job => 12
  | .grdBra_job => 12
  | .grdLedg3_job => 12
  | .grdNanlog0_job => 12
  | .grdZlast_job => 12
  | .grdTag0_job => 12
  | .grdTag0_src_module => 12
  | .grdEpoch0_job => 12
  | .grdEpoch0_src_module => 12
  | .medErr0_job => 12
  | .shpGrp_gate => 13
  | .coreIsnapPj_both => 13
  | .coreIsnapFj_both => 13
  | .pwrCap_cap => 13
  | .pwrMeas_power => 13
  | .pwrMeas_interval => 13
  | .pwrMeas_volts => 13
  | .attErr_window => 14
  | .xptRegsel_region => 14
  | .xptRefuse0_region => 14
  | .xptRegcnt_registered => 15
  | .tideStat_offset => 16
  | .tideCnt_late_apply => 16
  | .tideCnt_late_release => 16
  | .tideCnt_release_refused => 16
  | .tideCnt_sync_lost => 16
  | .ctlPort_udp_port => 16
  | .ctlCmdCnt_refused => 16
  | .ctlCmdCnt_duplicate => 16
  | .ctlDrop_ctl_on_data => 16
  | .ctlDrop_data_on_cp => 16
  | .ctlDrop_board_off_tray => 16
  | .ctlDrop_unplaced => 16
  | .ctlRxerr_fragments => 16
  | .ctlRxerr_oversize => 16
  | .ctlRxerr_runt => 16
  | .secStat_found_svn => 16
  | .secStat_min_svn => 16
  | .coreErr_bank_corrected => 16
  | .coreErr_bank_uncorrected => 16
  | .coreErr_weight_parity => 16
  | .vecErr_vreg_corrected => 16
  | .vecErr_vreg_uncorrected => 16
  | .vecErr_ibuf_parity => 16
  | .numStat_late_capture => 16
  | .numStat_step_jump => 16
  | .numStat_bad_tag => 16
  | .numSilcnt_events => 16
  | .numSilcnt_alarms => 16
  | .numSilcnt_boosts => 16
  | .numSilcnt_unboosts => 16
  | .numShdTiles_discarded => 16
  | .numShdEvt_events => 16
  | .numShdEvt_logged => 16
  | .attFmt_w16 => 16
  | .attFmt_w8 => 16
  | .attFmt_w4 => 16
  | .attFmt_narrowed => 16
  | .attErr_count => 16
  | .mmuKvcnt1_rescued => 16
  | .mmuKvcnt1_spill_failed => 16
  | .mmuKvcnt1_return_failed => 16
  | .mmuKvcnt1_frame_waits => 16
  | .mmuPoold_in_flight => 16
  | .mmuPoold_waiting => 16
  | .mmuTaila_ctx => 16
  | .hbmCtl_scrub_hours => 16
  | .hbmStack_corrected => 16
  | .hbmStack_uncorrected => 16
  | .hbmStack_ondie => 16
  | .dmaCtl_fence_limit => 16
  | .dmaCtl_cfg_refused => 16
  | .xptCtxsel_ctx => 16
  | .xptRetx_seq_nak => 16
  | .xptRetx_timeouts => 16
  | .xptRetx_rnr => 16
  | .xptRetx_cnp => 16
  | .xptDrop_qpn => 16
  | .xptDrop_icrc => 16
  | .xptDrop_service => 16
  | .xptReg0_gen => 16
  | .xptRefuse0_gen => 16
  | .colArm0_slot => 16
  | .colArm0_count => 16
  | .colStat_armed => 16
  | .colStat_arm_refused => 16
  | .colStat_expiries => 16
  | .colStat_slips => 16
  | .colDrop_listed => 16
  | .colDrop_epoch => 16
  | .colDrop_refused => 16
  | .colDrop_unresident => 16
  | .colFail0_slot => 16
  | .colFail1_fires_done => 16
  | .colTsel_slot => 16
  | .colTlive0_issued => 16
  | .colTlive0_done => 16
  | .grdJobd_commits => 16
  | .grdJobd_rollbacks => 16
  | .grdJobd_failed => 16
  | .grdJobd_tag_mismatch => 16
  | .grdChk_mismatches => 16
  | .grdChk_zero_msgs => 16
  | .grdLedg3_slot => 16
  | .lnkCtl_retry_us => 16
  | .lnkDrop_shape => 16
  | .lnkDrop_unreachable => 16
  | .lnkDrop_version => 16
  | .lnkPerr_crc => 16
  | .lnkPerr_retries => 16
  | .lnkPerr_fec_uncorr => 16
  | .medTail_tail => 16
  | .medHead_head => 16
  | .medErr0_record => 16
  | .medErr1_frame => 16
  | .rstCnt_module_resets => 16
  | .rstCnt_thermal_trips => 16
  | .pwrThr_cap_steps => 16
  | .pwrThr_guard_holds => 16
  | .pwrThr_thermal_steps => 16
  | .pwrThr_want_events => 16
  | .evtStat_lost => 16
  | .grdNanlog0_nan_rank => 20
  | .attErr_page => 22
  | .tideStat_freq => 24
  | .tideSlot_phase => 24
  | .attPages_tail => 24
  | .mmuPoolb_size => 24
  | .mmuPoolb_free => 24
  | .mmuPoolc_hwm => 24
  | .mmuPoolc_lwm => 24
  | .xptCtx0_epsn => 24
  | .xptCtx1_spsn => 24
  | .xptCtx1_rqpn => 24
  | .colTlive0_wd_left => 24
  | .grdNanlog0_nan_index => 24
  | .medCnt0_tasks => 24
  | .medCnt1_aborted => 24
  | .pwrStat_die_clk => 24
  | .grdBrb_length => 26
  | .tidePps_in_phase => 30
  | .tidePps_out_phase => 30
  | .numPol1_word1 => 30
  | .mmuRoot_root => 30
  | .ctlCpIpv4_addr => 32
  | .ctlCmdCnt_executed => 32
  | .shpLoad_next_offset => 32
  | .shpLoad_length => 32
  | .shpReject_offset => 32
  | .coreFeed_arrays => 32
  | .coreFeed_arrays_filler => 32
  | .coreIntSat_count => 32
  | .tc_value => 32
  | .numOp_step => 32
  | .numOp_max => 32
  | .numNancnt_skipped => 32
  | .numNancnt_applied => 32
  | .numOpseed_max => 32
  | .numOpseed_step => 32
  | .numShdWorst0_step => 32
  | .numShdWorst1_stored => 32
  | .numShdWorst1_reference => 32
  | .mmuInval_count => 32
  | .mmuTlbcnt_walks => 32
  | .mmuTlbcnt_faults => 32
  | .mmuKvcnt0_spills => 32
  | .mmuKvcnt0_returns => 32
  | .mmuTaila_rkey => 32
  | .dmaQstat_started => 32
  | .xptReg0_word0 => 32
  | .xptRegcnt_refused => 32
  | .colArm1_step => 32
  | .colArm2_tbias => 32
  | .colArm2_gbias => 32
  | .colFail1_step => 32
  | .colDl_step => 32
  | .colTlive1_step => 32
  | .colTlive2_tbias => 32
  | .colTlive2_gbias => 32
  | .grdJobb_committed => 32
  | .grdChk_checks => 32
  | .grdLedg4_step => 32
  | .grdNanlog1_step => 32
  | .grdZlast_step => 32
  | .grdTag1_presented => 32
  | .grdTag1_committed => 32
  | .grdEpoch1_step => 32
  | .lnkEv4_addr => 32
  | .medErr1_offset => 32
  | .rstCnt_fn_resets => 32
  | .pwrTemp_die => 32
  | .evtHead_total => 32
  | .mmuInvalVa_va => 39
  | .grdBra_view => 39
  | .grdBrc_bank0 => 39
  | .grdBrd_bank1 => 39
  | .coreSeqP_index => 40
  | .coreSeqF_index => 40
  | .attPages_read => 40
  | .medCnt0_frames => 40
  | .medCnt1_kept => 40
  | .tideSync_offset => 42
  | .mmuWinbase_base => 46
  | .mmuPoola_list_base => 46
  | .hbmUe0_offset => 46
  | .medRing_base => 46
  | .tideApply_epoch => 48
  | .tideEclipse_missed_epoch => 48
  | .coreSnapEpoch_epoch => 48
  | .numOp_elements => 48
  | .numOp_zeros => 48
  | .numOp_flushed => 48
  | .numOp_saturated => 48
  | .numOp_nan => 48
  | .numOp_inf => 48
  | .numShdTiles_compared => 48
  | .coreIsnapEpoch_epoch => 48
  | .lnkEgw_gw_mac => 48
  | .mmuFault0_va => 55
  | .numPol_word0 => 63
  | .tideNow_tide => 64
  | .tideSet_tide => 64
  | .secFmeas_digest => 64
  | .secOwner_digest => 64
  | .secNonce_nonce => 64
  | .shpAmeas_digest => 64
  | .shpChain_digest => 64
  | .shpPmeas_digest => 64
  | .shpRchain_digest => 64
  | .coreArrIssued_slots => 64
  | .coreArrGated_slots => 64
  | .coreSnapIssued_slots => 64
  | .coreSnapGated_slots => 64
  | .vecFma_lanes => 64
  | .vecExp_elements => 64
  | .numTotElem_count => 64
  | .numTotZero_count => 64
  | .numTotFlush_count => 64
  | .numTotSat_count => 64
  | .numTotNan_count => 64
  | .numTotInf_count => 64
  | .numShdSeed_seed => 64
  | .numShdHist_elements => 64
  | .attWait_clk => 64
  | .mmuTailb_remote_va => 64
  | .hbmRd_bytes => 64
  | .hbmWr_bytes => 64
  | .dmaErr1_addr => 64
  | .dmaBytes_bytes => 64
  | .dmaTailwr_bytes => 64
  | .dmaTailrd_bytes => 64
  | .xptCtx2_dest_lo => 64
  | .xptCtx3_dest_hi => 64
  | .xptRefuse1_offset => 64
  | .xptReg1_word => 64
  | .xptReg2_word => 64
  | .xptReg3_word => 64
  | .coreIdleP_clk => 64
  | .coreIdleF_clk => 64
  | .coreIdleClk_clk => 64
  | .coreFillGated_clk => 64
  | .coreFillYield_clk => 64
  | .coreIsnapP_clk => 64
  | .coreIsnapF_clk => 64
  | .coreIsnapClk_clk => 64
  | .colFires_fires => 64
  | .colTword_word => 64
  | .grdLedg0_sum => 64
  | .grdLedg1_s => 64
  | .grdLedg2_bound => 64
  | .lnkEv6l_addr_lo => 64
  | .lnkEv6h_addr_hi => 64
  | .medCnt2_dropped => 64
  | .pwrEnergy_mj => 64
  | .evtData_word => 64
  | _ => 1

end Sys2Proof.Machine
end

