-- ==== Sys2Proof/Machine/State.lean ====
section
/-!
DEFINITION. The state of the module as plain data: every register field, memory, and the state that the spec gives its
queues, engines and links; the reasons a step can stop; and the state after reset.
-/
namespace Sys2Proof.Machine

/-- What the fuses and the nonvolatile owner key store hold (R9, R73, R96; log entries 1 and 2). -/
structure Fuses where
  variant     : Variant
  serial      : Word
  minSvn      : BitVec 16
  slotRevoked : BitVec 4
  mac0        : BitVec 48
  mac1        : BitVec 48
  macs        : SMap (BitVec 48)   -- by port: the MAC addresses of the global and front ports (R415, R416)
  owner       : Option (BitVec 3072)
  writesLeft  : Nat
  deriving DecidableEq, Repr

/-- A unit that can hold a bad code or parity: a 64-byte unit of HBM (R265), an 8-byte unit of local SRAM or a stream
buffer (R271), an accumulator bank or the weight registers of an array (R131), a vector register (R161), a line of an
instruction buffer (R142). -/
inductive EccUnit where
  | hbm (unit : Nat)
  | sram (unit : Nat)
  | bank (c : Core) (a : ArrId) (b : Bool)
  | weight (c : Core) (a : ArrId)
  | vreg (c : Core) (r : Nat)
  | ibuf (c : Core) (job va : Nat)
  deriving DecidableEq, Repr

/-- A latent error: correctable or not; of a unit of HBM, one that the stack's own ECC corrects and reports (R265; log entry 132). -/
structure EccMark where
  unit   : EccUnit
  uncorr : Bool
  ondie  : Bool
  deriving DecidableEq, Repr

/-- The epoch named for a scope (R48), and whether the write that named it was late (R53). -/
structure NamedEpoch where
  epoch : Nat
  late  : Bool
  deriving DecidableEq, Repr

/-- The shadow of one RWE field (R47): its scope (a job, or 4,096 for the module), the value written last, whether that
write is still to apply, and whether the guard holds it for the epoch named now (R50). -/
structure Shadow where
  scope   : Nat
  fld     : Fld
  idx     : Nat
  val     : Nat
  held    : Bool
  deriving DecidableEq, Repr

/-- The PTP client (R34): the Sync that waits for its Follow_Up (its number, when it arrived, its correction), the delay
request not yet answered (its number, when the Sync left and arrived, when the request left), and the next request's number.
Times in quarters of a ns. -/
structure PtpSt where
  sync : Option (Nat × Int × Int)
  req  : Option (Nat × Int × Int × Int)
  next : Nat
  deriving DecidableEq, Repr

/-- The tide unit (02). -/
structure TimeSt where
  tide    : Nat                 -- 64-bit count of ns (R28)
  frac    : Nat                 -- 32-bit fractional accumulator (R30)
  freq    : Int                 -- frequency correction, 2^-32 ns per ns (R30)
  ticks   : Nat                 -- tide clocks so far: the time base of the module's own timers
  named   : SMap (Option NamedEpoch)  -- by scope (R49)
  shadows : List Shadow
  eclipse : List Nat            -- scopes in eclipse (R53, R89, R395)
  missed  : BitVec 9            -- functions that missed an apply in reset (R52)
  near    : Nat                 -- consecutive offsets within 4 ns (R39)
  far     : Nat                 -- consecutive offsets outside 64 ns (R39)
  meas    : Nat                 -- measurements so far
  lastMeas : Nat                -- ticks at the last measurement (R39)
  lastPps : Option Nat          -- ticks at the last accepted edge (R487)
  ppsHigh : Option Nat          -- ticks at which TIDE_PPS_OUT rose (R36)
  exch    : SMap (Option (Nat × Nat)) -- by port: the outstanding exchange and its t1 (R417)
  ptp     : PtpSt
  delay   : Int                 -- the path delay of the last exchange, in quarters of a ns (R37)
  slotAt  : SMap Nat            -- by slot clock: 1 + the tide of the last boundary seen (R46)
  slotFrom : SMap Nat           -- by slot clock: the tide from which its boundaries count (R40, R46)
  slotN   : SMap Nat            -- by slot clock: boundaries seen
  lastEpoch : Nat               -- the last epoch boundary taken (R51)
  deriving DecidableEq, Repr

/-- A response to a control command (R66): the port it leaves by, where it goes, and what its frame holds (R62, R69). -/
structure Resp where
  port   : Cp
  dst    : NetAddr
  seq    : BitVec 32
  op     : Nat
  job    : BitVec 12
  status : Nat
  code   : Nat
  words  : List Word
  deriving DecidableEq, Repr

/-- A command accepted for execution whose sequence number a port keeps (R67): its response once sent, and the senders of the
repeats that wait for it. -/
structure Hist where
  seq     : BitVec 32
  resp    : Option Resp
  repeats : List NetAddr
  deriving DecidableEq, Repr

/-- A control port: the command that holds it and whether it has still to start (R43, R54, R65), the commands queued
behind, each with whether its release failed R44 or R45 on arrival (R68), the history (R67). -/
structure CpSt where
  busy  : Option Instr
  held  : Bool
  queue : List (Instr × Bool)
  hist  : List Hist
  deriving DecidableEq, Repr

/-- An image load in progress (R83, R84): the bytes received so far as words. -/
structure Load where
  length  : Nat
  mask    : BitVec 9
  words   : List Word
  fnReset : BitVec 9      -- functions that entered reset during the load, or were in reset at IMAGE_END (R86, reason 17)
  check   : Option CtlHdr -- the IMAGE_END whose checks run (R83, R85)
  owner   : Option (BitVec 3072)  -- the owner key enrolled as its IMAGE_END came (R98)
  deriving DecidableEq, Repr

/-- A foundation image that is active or staged (R74). -/
structure Found where
  slot : Nat
  svn  : Nat
  meas : BitVec 256
  deriving DecidableEq, Repr

/-- A COMMIT or ROLLBACK that waits for its epoch (R389). -/
structure CommitCmd where
  isCommit : Bool
  step  : BitVec 32
  ctc   : BitVec 8
  ctcEn : Bool
  epoch : BitVec 48
  hdr   : CtlHdr
  deriving DecidableEq, Repr

/-- Control ports, images and key operations (03). -/
structure CtlSt where
  cps     : SMap CpSt
  load    : Option Load
  found   : Option Found
  staged  : Option Found
  nonces  : Nat                       -- nonces drawn so far (R94)
  commits : SMap (Option CommitCmd)   -- by job (R389)
  deriving DecidableEq, Repr

/-- A stage group record (R78). -/
structure GroupRec where
  index  : Nat
  job    : Nat
  policy : Nat
  split  : Nat
  cores  : BitVec 192
  deriving DecidableEq, Repr

/-- An SRAM split record (R79): eight sizes in 4 KiB units. -/
structure SplitRec where
  index : Nat
  sizes : List Nat
  deriving DecidableEq, Repr

/-- A feeder routing record (R121): one (feed, cascade, moonlet) for each array. -/
structure FeederRec where
  group  : Nat
  arrays : List (Nat × Bool × Bool)
  deriving DecidableEq, Repr

/-- A trigger chain record (R351), as its eight words. -/
structure ChainRec where
  slot  : Nat
  words : List Word
  deriving DecidableEq, Repr

/-- A routing record (R420): the ring, and the 16-bit entry of each module (0 where none is listed). -/
structure RouteRec where
  job     : Nat
  ring    : List Nat
  entries : SMap Nat
  deriving DecidableEq, Repr

/-- A numeric policy record (R187, R212), as its two words. -/
structure PolicyRec where
  index : Nat
  w0    : Word
  w1    : Word
  deriving DecidableEq, Repr

/-- A fill mode record (R339). -/
structure FillRec where
  group : Nat
  role  : Nat
  gate  : Nat
  deriving DecidableEq, Repr

/-- The structure that shape images load (R77). -/
structure Structure where
  groups   : List GroupRec
  splits   : List SplitRec
  feeders  : List FeederRec
  chains   : List ChainRec
  routes   : List RouteRec
  policies : List PolicyRec
  fills    : List FillRec
  deriving DecidableEq, Repr

/-- An accepted image that waits for its epoch (R85, R88). -/
structure PendImg where
  scope   : Nat            -- a job, or 4,096 for the module
  mask    : BitVec 9
  str     : Structure
  meas    : BitVec 256
  held    : Bool           -- inside the guard of the epoch named (R88)
  full    : Bool           -- loaded with the full mask 0x1FF (R83)
  restore : Bool           -- accepted as part of the restore now open (R93)
  deriving DecidableEq, Repr

/-- Shape structure (03): the copy in each function (key n is FNn; key 0 is FN0's record of the structure in force),
the images pending, and the mask of the restore now open (R93). -/
structure ShapeSt where
  act     : SMap Structure
  pend    : List PendImg
  restore : Option (BitVec 9)
  jobs    : List Nat        -- resident jobs, ascending (R335, R349)
  anyActive : Bool          -- a shape image is active (R92)
  deriving DecidableEq, Repr

/-- A launch queued on a core (R134, R137). -/
structure Launch where
  job       : Nat
  group     : Nat
  cores     : BitVec 192
  doneEn    : Bool
  doneTc    : Nat
  waitLimit : Nat
  program   : Nat
  release   : Nat
  arg0      : Word
  arg1      : Word
  failed    : Bool          -- its release failed R44 or R45 on arrival (R137)
  deriving DecidableEq, Repr

/-- What a held task waits for (R166). -/
inductive WaitKind where
  | tc (i : Nat) (v : Nat)
  | dma (q : Nat) (limit : Nat)
  | arr (mask : Nat)
  | tide (t : Nat)
  | slot (k : Nat) (since : Nat)
  | done                      -- END, holding for outstanding work (R139)
  deriving DecidableEq, Repr

structure WaitSt where
  kind  : WaitKind
  cause : Nat
  start : Nat                 -- ticks
  deriving DecidableEq, Repr

/-- A running task (R136, R138). -/
structure Task where
  launch : Launch
  rank   : Nat
  count  : Nat                -- cores that the launch reaches
  index  : Nat                -- instruction index (CORE_SEQ_P.index)
  wait   : Option WaitSt
  tag    : Option (Nat × Nat) -- operation table entry and step tag (R204)
  deriving DecidableEq, Repr

/-- One job slot of a core. -/
structure SlotSt where
  queue : List Launch
  task  : Option Task
  sreg  : SMap Word           -- S1 to S31 (R143)
  preg  : SMap (BitVec 512)   -- P1 to P7 (R143)
  key   : Word                -- R202
  next  : Word
  tiles : SMap Nat            -- first-chunk TSTREAMs per array since the task began (R223)
  issued : Bool               -- an instruction issued in this clk (R345)
  cause  : Nat                -- the cause counted in the last clk (R340)
  pipes  : SMap Nat           -- by vector engine pipe: clk for which its operations still occupy it (R157)
  deriving DecidableEq, Repr

/-- The three tensor commands (R100). -/
inductive TKind where
  | load | stream | drain
  deriving DecidableEq, Repr

/-- A tensor command with all it carries from its issue (R205): the slot and job, its form, the operation entry and step
tag, the tensor scales of R152, the generator index of R203, its place in issue order on the core, its number among the
TSTREAMs of each array it acts on (R123), what the row of its tile is taken from where it begins a sampled tile (R223),
and whether its task has stored into what it still reads (R155). -/
structure TCmd where
  kind  : TKind
  slot  : Slot
  job   : Nat
  form  : TensorForm
  tag   : Option (Nat × Nat)
  scales : Word
  key   : Word
  next  : Word
  seq   : Nat
  ords  : List Nat
  tile  : Option Nat
  torn  : Bool
  deriving DecidableEq, Repr

/-- A weight tile (R150): format, scale mode, raw elements in storage order (row by row, column by column, K ascending
within a cell), and the block scale bytes. -/
structure Tile where
  fmt    : Nat
  smode  : Nat
  elems  : List Nat
  scales : List Nat
  deriving DecidableEq, Repr

/-- What the weight registers hold where nothing has been loaded since reset: zeros, in the format of any command (R114). -/
def Tile.zero : Tile := ⟨15, 0, [], []⟩

/-- The activation rows of one stream: rows, format, scale mode, elements row by row, block scale bytes row by row. -/
structure RowData where
  m      : Nat
  fmt    : Nat
  smode  : Nat
  elems  : List Nat
  scales : List Nat
  deriving DecidableEq, Repr

/-- A command that an array has started: for a TSTREAM its rows once read and the weights it uses, each by member of the
run or by moonlet. -/
structure RunCmd where
  cmd      : TCmd
  rowsRead : Bool
  rows     : SMap (Option RowData)
  weights  : SMap (Option Tile)
  deriving DecidableEq, Repr

/-- An accumulator entry (R116): FP32 bits, a 48-bit sum, or undefined contents (R132). -/
inductive Entry where
  | fp (bits : Nat)
  | int (v : Int)
  | undef
  deriving DecidableEq, Repr

/-- An accumulator bank as one job left it: an entry that is not listed is undefined after an abort and else +0. -/
structure Bank where
  open_ : Bool
  vals  : SMap Entry
  deriving DecidableEq, Repr

/-- A sampled shadow tile (R222 to R224): the row followed and its reference sums as FP32 bits. -/
structure ShadowTile where
  row : Nat
  ref : List Nat
  deriving DecidableEq, Repr

/-- An array (R101, R102). Shadow and active weights are kept by 4 x job slot + moonlet, banks and shadow tiles by
2 x job slot + bank, rows kept for a forwarded array by 8 x TSTREAM number + 2 x part + job slot, TSTREAMs issued by job slot.
Weights are `none` where an abort left them undefined (R132). -/
structure ArrSt where
  queue  : List TCmd
  run    : List RunCmd
  shadow : SMap (Option Tile)
  active : SMap (Option Tile)
  banks  : SMap Bank
  shd    : SMap (Option ShadowTile)
  fed    : SMap (Option RowData)
  sent   : SMap Nat
  deriving DecidableEq, Repr

/-- An event record on its way to the operation table (R208). -/
structure NumRec where
  core  : Nat
  job   : Nat
  entry : Option Nat
  step  : Nat
  elements : Nat
  zeros    : Nat
  flushed  : Nat
  saturated : Nat
  nan   : Nat
  inf   : Nat
  max   : Option Nat          -- FP32 bits (R207)
  deriving DecidableEq, Repr

/-- An entry of a DMA queue: a descriptor's four words, or a fence with its scope (R304, R315). -/
structure Desc where
  id    : Nat
  q     : Nat
  slot  : Slot
  job   : Nat
  group : Nat
  fence : Option Nat
  words : List Word
  tag   : Option (Nat × Nat)
  read  : Bool                -- every source byte is read (R316)
  moved : Bool                -- its data has been moved or sent
  left  : Nat                 -- packets or responses still expected
  pages : Nat                 -- pages counted (R247, R290)
  ready : List Nat            -- page numbers of this descriptor that wait to be counted
  seen  : List Nat            -- a hint: its pages that have been resident since it started (R290)
  since : Nat                 -- ticks at which a fence came to the head (R317)
  torn  : Bool                -- its task has stored into what it still reads (R155)
  raw   : Option (List Byte)  -- a KV read: the page descriptor read for the page in progress (R241)
  part  : Option NumRec       -- a KV read: what its pages so far have counted (R208)
  buf   : List (Nat × Bytes)  -- data that wait: a put's, by offset, until all of them are there (R318); else bytes of destination
                              -- units not yet whole, by address (R314)
  deriving DecidableEq, Repr

structure DmaQ where
  entries : List Desc
  started : Nat
  deriving DecidableEq, Repr

/-- A trigger counter that changed in this clk (R163): the value seen at the last tick, the value after the last set with no
increment of this clk, the increments of this clk, and its overflow bit at the last tick. -/
structure TcClk where
  seen : Nat
  base : Nat
  adds : Nat
  oflow : Nat
  deriving DecidableEq, Repr

/-- A core (R100). -/
structure CoreSt where
  prim   : SlotSt
  fill   : SlotSt
  vreg   : SMap (BitVec 16384)
  arr    : SMap ArrSt
  dmaq   : SMap DmaQ
  flight : List Desc
  nextId : Nat
  gate   : Bool               -- the filler may issue in this clk (R340)
  shdLog : Nat                -- 1 + the epoch of the last logged shadow event (R226)
  ibuf   : List ((Nat × Nat) × BitVec 128)  -- the instruction buffer, by job and virtual address, oldest first (R140)
  tcClk  : SMap (Option TcClk)  -- the trigger counters that changed in this clk (R163)
  deriving DecidableEq, Repr

/-- A silence event or alarm that an evaluation has raised, and that the end of the clk logs (R219): its code, job, step tag, entry and
second datum. -/
structure SilEvt where
  code  : Nat
  job   : Nat
  step  : Nat
  entry : Nat
  data  : Nat
  deriving DecidableEq, Repr

/-- An entry of the operation table as it was before the records of this clk (R208, R211): the values of its two sets and of its watch,
whether each set was evaluated, and what its records of this clk have added to the module's counters. -/
structure EntBase where
  entry : Nat
  vals  : List Nat
  cur   : Bool
  prev  : Bool
  added : List Nat
  deriving DecidableEq, Repr

structure NumSt where
  recs  : List NumRec
  evald : SMap Bool           -- by entry: the set that an NMAXR already evaluated (R218); the previous set
  evaldCur : SMap Bool        -- by entry: the current set
  fresh : List NumRec         -- records that the table has taken in this clk, oldest first (R208, R211)
  base  : List EntBase        -- the entries of those records, as they were before this clk
  due   : List SilEvt         -- silence events and alarms of this clk, oldest first (R219)
  worst : Option Nat          -- the core whose row of this clk the worst record shows (R226)
  deriving DecidableEq, Repr

/-- The caches of translations (R279): a core's L1 TLB, a die's L2 TLB, and a die's walk cache; die 4 stands for the I/O dies (log
entry 26). -/
inductive XlatCache where
  | l1 (core : Nat)
  | l2 (die : Nat)
  | walks (die : Nat)
  deriving DecidableEq, Repr

/-- A cached translation (R279): the cache that holds it, its job, the first virtual address it covers, its level, and its page table
entry: a leaf, or in a walk cache an entry that leads to a table. -/
structure TlbEnt where
  home  : XlatCache
  job   : Nat
  base  : Nat
  level : Nat
  pte   : Word
  deriving DecidableEq, Repr

/-- A move of a KV page (R292, R293). -/
structure KvMove where
  ret    : Bool
  pool   : Nat
  window : Nat
  page   : Nat
  frame  : Nat
  demand : Bool
  begun  : Bool               -- its 64 KiB are being moved (R292, step 3)
  left   : Nat                -- packets or responses still expected
  fail   : Option Nat         -- the code with which its transfer failed (R297)
  deriving DecidableEq, Repr

/-- A return that is queued (R293, R294): demand, or look-ahead or hint. -/
structure KvReq where
  window : Nat
  page   : Nat
  pool   : Nat
  demand : Bool
  waits  : Bool               -- it found no free frame (R294)
  deriving DecidableEq, Repr

structure MmuSt where
  tlb     : List TlbEnt
  wins    : SMap (List Word)
  moves   : List KvMove
  reqs    : List KvReq
  holders : List (Nat × Nat × Nat × Nat)  -- window, page, core and descriptor of a reader that holds a page (R248)
  spilling : SMap Nat                     -- by pool: 1 while spilling runs down to lwm (R291)
  ring    : SMap Nat                      -- by pool: the ring's first index in use (R287)
  invalVa : Nat                           -- first address of the invalidation under way (R281)
  deriving DecidableEq, Repr

/-- Who waits for a message (R330): a descriptor, a fire, a page move, or nobody. -/
inductive Owner where
  | dma (c : Nat) (id : Nat)
  | fire (id : Nat)
  | move (window page : Nat)
  | none
  deriving DecidableEq, Repr

/-- A packet that left the module: its Molind opcode (or 0x10 for a RoCEv2 WRITE, 0x11 for a READ), header fields and
payload. -/
structure Packet where
  port : Nat
  op   : Nat
  hdr  : MolHdr
  data : Bytes
  deriving DecidableEq, Repr

/-- A packet not yet acknowledged; `at_` is the offset of its data in the descriptor, fire or page. -/
structure Unacked where
  psn   : Nat
  pkt   : Packet
  owner : Owner
  at_   : Nat
  last  : Bool                -- the last packet of its message (R328)
  deriving DecidableEq, Repr

/-- The live side of a transport context (R323, R324, R418). Key 65,536 holds that of sends without a context. -/
structure CtxSt where
  psn     : SMap (Option Nat) -- next packet number by port, once one has been sent
  unacked : List Unacked      -- sent and not acknowledged
  queue   : List Unacked      -- waiting for the context's window
  retries : Nat
  since   : Nat               -- ticks of the last progress
  rate    : Nat               -- rate in 1/2^16 of the port rate
  lastCnp : Option Nat        -- ticks of the last halving
  rateAt  : Option Nat        -- ticks of the last CNP received or the last rise of the rate
  sentCnp : Option Nat        -- ticks of the last CNP returned
  deriving DecidableEq, Repr

/-- A message of which some packets have arrived (R327, R328, R362, R363): what identifies it, the bytes that have come, the bytes
that it has where a packet has told, and whether it was refused. -/
structure PartMsg where
  key     : List Nat
  got     : Nat
  len     : Option Nat
  refused : Bool
  deriving DecidableEq, Repr

/-- The packets that ask for something, of one context of a module, as they arrive on one port (R318, R418): the number expected
next, whether the one missing has been asked for, packets that came after it, and the numbers of refused and dropped packets
with the code of the NAK (0: none was sent). -/
structure Flow where
  src  : Nat
  ctx  : Nat
  port : Nat
  next : Nat
  nak  : Bool
  wait : List (Nat × Instr)
  bad  : List (Nat × Nat)
  deriving DecidableEq, Repr

structure XptSt where
  raises : SMap Nat           -- by region: raises of its generation (R325)
  seed   : Nat                -- which power-on drew the starting generations (R326)
  ctxs   : SMap CtxSt
  parts  : List PartMsg
  deregs : List (Nat × CtlHdr) -- deregistrations not yet answered (R329)
  flows  : List Flow
  starts : Nat                -- how often a context has begun to number its packets on a port (R418)
  deriving DecidableEq, Repr

/-- A fire of an armed slot (R356 to R358), under its own serial number, from its issue until it is done and nothing of it
is unacknowledged: the step tag and layout epoch in force at its issue, and how far it has come. -/
structure Fire where
  id     : Nat
  slot   : Nat
  k      : Nat
  step   : Nat
  layout : Nat
  start  : Nat
  sent   : Bool
  read   : Bool
  done   : Bool
  left   : Nat
  deriving DecidableEq, Repr

/-- A shard whose ledger is flagged (R229): its job, step tag, address in the gradient view and length, and whether the owner's
policy skips its update. -/
structure Shard where
  job  : Nat
  step : Nat
  dst  : Nat
  len  : Nat
  skip : Bool
  deriving DecidableEq, Repr

/-- Armed operations (12). Templates and live fields are registers; this holds what those do not show. -/
structure ColSt where
  shards : List Shard         -- flagged shards of steps not yet committed (R229)
  nanJobs : List Nat          -- jobs whose first NaN ledger is recorded (R379)
  fires  : List Fire
  nextId : Nat
  armAt  : SMap Nat           -- by slot: ticks of the arming or the last issue (R368)
  grant  : SMap Nat           -- by slot: the boundary count at which fires may issue, 0 none (R356)
  upto   : SMap Nat           -- by slot: the fires below this number may issue at that boundary
  lastAt : SMap Nat           -- by slot: the boundary count at which the last fire issued (R366)
  held   : List Instr         -- arrivals held back by credits (R55, R394, R396)
  autoAt : SMap Nat           -- by drop list entry: order of automatic writing (R370)
  autoN  : Nat
  doneK  : SMap (List Nat)    -- by slot: fires done
  bound  : SMap Nat           -- by slot: the fires below this number met their conditions at the last boundary of its clock (R356)
  elig   : SMap Nat           -- by slot: 1 + the ticks at which its next fire met its conditions, 0 not yet (R356)
  deriving DecidableEq, Repr

/-- A RoCEv2 frame on a front port (R323, R416): the MAC address it goes to, IPv6 addresses with IPv4 as ::ffff:a.b.c.d, its
DSCP and UDP port, what it is (an opcode of this model), whether it ends its message, its fields (the queue pair is the far
end's, and the ICRC is generated), and its data. -/
structure RoceOut where
  mac  : BitVec 48
  src  : BitVec 128
  dst  : BitVec 128
  dscp : BitVec 6
  udp  : Nat
  op   : Nat
  last : Bool
  hdr  : RoceHdr
  data : Bytes
  deriving DecidableEq, Repr

/-- One link (14). -/
structure LinkSt where
  rxNext   : Nat              -- next data sequence number expected (R403)
  txNext   : Nat
  replay   : List (Nat × BitVec 1984)  -- data flits not acknowledged, oldest first
  unsent   : Nat              -- how many of them, at the end, have not been sent yet
  discard  : Bool             -- discarding until the expected number arrives (R403)
  episode  : Option Nat       -- ticks at which the retry episode began (R404)
  own      : BitVec 8         -- lanes that the last training received cleanly; 0 while none has ended
  half     : Bool             -- they trained at 112 Gb/s
  peer     : Option CapFlit   -- the peer's last capability flit (R405)
  capAcked : Bool
  capAt    : Nat              -- ticks of the last capability flit sent
  hitless  : Bool
  peerPlaced : Bool
  failed   : BitVec 8         -- lanes that failed since training
  lastData : Nat              -- ticks of the last data flit
  downAt   : Nat              -- ticks at which the link went down
  stampAt  : Option Nat       -- ticks of the last timestamp request (R37)
  stampId  : Nat
  rx       : Bytes            -- payload bytes received in order that make no whole packet yet (R402)
  pkts     : List Bytes       -- whole packets received, in order, that no row has taken yet (R402)
  txBuf    : Bytes            -- bytes of packets that do not fill a flit yet (R402)
  mac      : BitVec 48        -- the peer's MAC address, learned at training (R415)
  neigh    : List (BitVec 128 × BitVec 48)  -- on-link destinations resolved (R416)
  resolve  : List RoceOut     -- frames that wait for their destination to be resolved (R416)
  deriving DecidableEq, Repr

/-- A media task in progress: its record and parameter block, and what it will write at its end. -/
structure MedTask where
  rec_    : List Word
  params  : List Word
  err     : Option (Nat × Nat × Nat × Nat)   -- code, reason, offset, frame
  writes  : List (Nat × Bytes)                -- virtual address and bytes
  undef   : List (Nat × Nat)                  -- virtual ranges that it leaves undefined: address and bytes
  ranges  : List (Nat × Nat)                  -- virtual ranges of its job that it has translated for its writes
  frames  : Nat
  kept    : Nat
  dropped : Nat
  encoded : Nat
  num     : Option NumRec
  deriving DecidableEq, Repr

structure MedSt where
  task : Option MedTask
  deriving DecidableEq, Repr

/-- Why the module is held in reset (R460, R480, R486, R463). -/
structure Holds where
  thermal : Bool
  input   : Bool
  refclk  : Bool
  pin     : Bool
  deriving DecidableEq, Repr

/-- A power transition (R447, R448). -/
structure PowerTrans where
  target : Nat
  epoch  : Nat
  hdr    : CtlHdr
  deriving DecidableEq, Repr

/-- Power, resets and pins (16, 17). -/
structure PwrSt where
  input   : Bool             -- J3 above the start threshold (R479)
  rails   : Bool             -- internal rails in regulation (R490)
  straps  : BitVec 2         -- SMB_ADDR1, SMB_ADDR0 as sampled (R488)
  stage   : Nat              -- rows of R464 still to come: 6 before power-on, 5 until FN0 is ready, 4 until FN7 and FN8 leave reset, 3 until
                             -- FN7 is ready, 2 until FN5 leaves, 1 until FN6 leaves, 0 complete
  holds   : Holds
  resetAt : Option Nat       -- ticks at which an answered MOD_RESET takes effect (R462)
  rstWait : List (CtlHdr × BitVec 9)  -- each RST_FN not yet answered, with the functions it reset (R466)
  pend    : Option PowerTrans
  active  : Option PowerTrans
  prev    : Nat              -- the state a transition leaves
  samples : List Nat         -- the last ten samples, newest first (R453)
  total   : Nat              -- input power summed over the interval's samples
  count   : Nat
  volts   : Nat
  holdEnd : Nat              -- ticks until which issue is held (R455, R456)
  heldNs  : Nat              -- ns of held issue in the interval (R457)
  uj      : Nat              -- energy not yet counted in whole mJ, in µJ
  hotDie  : BitVec 4         -- dies in a thermal excursion (R459)
  overDie : BitVec 4         -- dies in a supply current excursion (R459)
  overAt  : List (Nat × Nat) -- per die, ticks of its last step down for its supply current
  snap    : List Nat         -- SMBus values held during a module reset (R490)
  waking  : Bool             -- FN0 has not been ready since power-on: TIDE_PPS_OUT stays high (R484)
  deriving DecidableEq, Repr

/-- What leaves the module. -/
inductive Out where
  | resp (r : Resp)
  | packet (p : Packet)
  | flit (port : Nat) (f : BitVec 2048)
  | dgram (port : Nat) (src dst : BitVec 128) (udp : Nat) (data : Bytes)   -- a UDP datagram over IPv6 on a global port (R415)
  | arp (port : Nat) (v6 reply : Bool) (target : BitVec 128)   -- ARP or neighbour discovery: a question or an answer (R416)
  | ptp (port : Cp) (v6 : Bool) (domain seq : Nat)   -- a Delay_Req (R34)
  | roce (port : Nat) (f : RoceOut)
  | pin (name : Nat) (level : Bool)      -- 0 ALERT_N, 1 TIDE_PPS_OUT
  | smb (addr cmd : Nat) (data : List Nat) (pec : Nat)   -- an answer of the SMBus target (R488, R489)
  | smbNak (addr cmd : Nat)
  deriving DecidableEq, Repr

/-- The state of the module. -/
structure State where
  pending : List Instr
  fuses   : Fuses
  regs    : SMap Nat
  mem     : List Host.Cell
  ecc     : List EccMark
  time    : TimeSt
  ctl     : CtlSt
  shp     : ShapeSt
  cores   : SMap CoreSt
  num     : NumSt
  mmu     : MmuSt
  xpt     : XptSt
  col     : ColSt
  lnk     : SMap LinkSt
  med     : SMap MedSt
  pwr     : PwrSt
  evt     : SMap (List Word)
  out     : List Out
  free    : Nat
  deriving DecidableEq, Repr

/-- The machine never stops with a fault: every error of this module is a state it goes on from (a task abort, a refused
command, a module reset). The one constructor is for a reader of the type; nothing raises it. Safe. -/
inductive Fault where
  /-- Raised by no step. -/
  | stopped
  deriving DecidableEq, Repr

/-- The reasons a command has no meaning. -/
inductive Refusal where
  /-- Raised by the dispatch arm of a command whose meaning is not written yet. Safe: the machine stops there. -/
  | notModelled (mnemonic : String)
  deriving DecidableEq, Repr

def SlotSt.init : SlotSt := ⟨[], none, [], [], 0, 0, [], false, 1, []⟩
def ArrSt.init : ArrSt := ⟨[], [], [], [], [], [], [], []⟩
def Bank.init : Bank := ⟨false, []⟩
def DmaQ.init : DmaQ := ⟨[], 0⟩
def CoreSt.init : CoreSt := ⟨SlotSt.init, SlotSt.init, [], [], [], [], 0, false, 0, [], []⟩
def Structure.init : Structure := ⟨[], [], [], [], [], [], []⟩
def CpSt.init : CpSt := ⟨none, false, [], []⟩
def CtxSt.init : CtxSt := ⟨[], [], [], 0, 0, 65536, none, none, none⟩
def LinkSt.init : LinkSt :=
  ⟨0, 0, [], 0, false, none, 0, false, none, false, 0, false, false, 0, 0, 0, none, 0, [], [], [], 0, [], []⟩
def MedSt.init : MedSt := ⟨none⟩
def PtpSt.init : PtpSt := ⟨none, none, 0⟩
def TimeSt.init : TimeSt := ⟨0, 0, 0, 0, [], [], [], 0, 0, 0, 0, 0, none, none, [], PtpSt.init, 0, [], [], [], 0⟩
def CtlSt.init : CtlSt := ⟨[], none, none, none, 0, []⟩
def ShapeSt.init : ShapeSt := ⟨[], [], none, [], false⟩
def NumSt.init : NumSt := ⟨[], [], [], [], [], [], none⟩
def MmuSt.init : MmuSt := ⟨[], [], [], [], [], [], [], 0⟩
def XptSt.init : XptSt := ⟨[], 0, [], [], [], [], 0⟩
def ColSt.init : ColSt := ⟨[], [], [], 0, [], [], [], [], [], [], 0, [], [], []⟩
def Holds.init : Holds := ⟨false, false, false, false⟩
def PwrSt.init : PwrSt :=
  ⟨true, true, 0, 4, Holds.init, none, [], none, none, 0, [], 0, 0, 0, 0, 0, 0, 0, 0, [], [], false⟩
def Fuses.init : Fuses := ⟨.m20x6, 0, 0, 0, 0, 0, [], none, 256⟩

/-- The module right after reset: power-on has run to the 2 ms row of R464, so FN0 is ready and FN1 to FN8 wait in reset
for a foundation image (R72), as the Reset column of `RST_STAT` gives (log entry 5). Every register holds the value of
its Reset column, memory reads zero (R465), and nothing is queued or in flight. -/
def State.reset : State :=
  { pending := [], fuses := Fuses.init, regs := [], mem := [], ecc := [], time := TimeSt.init, ctl := CtlSt.init,
    shp := ShapeSt.init, cores := [], num := NumSt.init, mmu := MmuSt.init, xpt := XptSt.init, col := ColSt.init,
    lnk := [], med := [], pwr := PwrSt.init, evt := [], out := [], free := 0 }

end Sys2Proof.Machine
end

