-- ==== Sys2Proof/Machine/Ops.lean ====
section
/-!
DEFINITION. The named operations that every command uses: register fields, memory, cores, the event log, what leaves the
module, and the facts of the variant.
-/
namespace Sys2Proof.Machine

/-! ### The variant (R1 to R4, R9) -/

def variantStacks : Variant → Nat
  | .m20x6 => 20 | .m20x4 => 20 | .m16x4 => 16 | .m12x2 => 12

def variantIoDies : Variant → Nat
  | .m20x6 => 6 | .m20x4 => 4 | .m16x4 => 4 | .m12x2 => 2

def variantPortGroups : Variant → Nat
  | .m20x6 => 0xF | .m20x4 => 0xB | .m16x4 => 0xB | .m12x2 => 0x9

/-- Thermal design power in watts. -/
def variantTdp : Variant → Nat
  | .m20x6 => 4400 | .m20x4 => 4150 | .m16x4 => 3900 | .m12x2 => 3350

/-- The number of the variant's bit in a shape image header (R75), from bit 56. -/
def variantIndex : Variant → Nat
  | .m20x6 => 0 | .m20x4 => 1 | .m16x4 => 2 | .m12x2 => 3

/-- The bytes of HBM; offsets below it exist (R3). -/
def variantHbmBytes : Variant → Nat
  | .m20x6 => 20 * 72 * 2 ^ 30
  | .m20x4 => 20 * 72 * 2 ^ 30
  | .m16x4 => 16 * 72 * 2 ^ 30
  | .m12x2 => 12 * 72 * 2 ^ 30

/-! ### Register fields -/

/-- The words of the owner key's hash, as `SEC_OWNERi` shows them. -/
def ownerDigest (u : Fuses) : Nat :=
  match u.owner with
  | none => 0
  | some m => digestNum (sha256 (toBe 384 m.toNat))

/-- The generation of region `r` at the power-on of a number: a non-zero value from the random source (R326; log entry 3). -/
def genStart (seed r : Nat) : Nat := (Config.regionStart (seed * 16384 + r) - 1) % 65535 + 1

/-- The value of a field in its Reset column; the fused and key store fields read what `Fuses` holds. -/
def fldReset (u : Fuses) (f : Fld) (i : Nat) : Nat :=
  match f with
  | .idnVariant_hbm_stacks => variantStacks u.variant
  | .idnVariant_io_dies => variantIoDies u.variant
  | .idnVariant_port_groups => variantPortGroups u.variant
  | .coreId_local => i % 48
  | .coreId_die => i / 48
  | .coreId_core => i
  | .hbmStack_present => bit (decide (i < variantStacks u.variant))
  | .secStat_owner => bit u.owner.isSome
  | .secStat_min_svn => u.minSvn.toNat
  | .secStat_slot_revoked => u.slotRevoked.toNat
  | .secStat_writes_left => u.writesLeft
  | .secOwner_digest => bitsOf (ownerDigest u) (64 * i + 63) (64 * i)
  | .pwrCap_cap => variantTdp u.variant
  | _ => f.resetNum

/-- The key of instance `i` of a field in the register map. -/
def rkey (f : Fld) (i : Nat) : Nat := 1024 * i + f.ctorIdx

/-- The value of instance `i` of a field. -/
def get (s : State) (f : Fld) (i : Nat := 0) : Nat := mget (fldReset s.fuses f i) s.regs (rkey f i)

/-- The state in which instance `i` of a field holds `v`, cut to the field's width. -/
def put (s : State) (f : Fld) (v : Nat) (i : Nat := 0) : State :=
  { s with regs := mset (fldReset s.fuses f i) s.regs (rkey f i) (v % 2 ^ f.width) }

/-- A saturating counter counts `n` more. -/
def bump (s : State) (f : Fld) (n : Nat := 1) (i : Nat := 0) : State :=
  put s f (satAdd f.width (get s f i) n) i

/-- A wrapping counter counts `n` more. -/
def bumpW (s : State) (f : Fld) (n : Nat := 1) (i : Nat := 0) : State :=
  put s f (get s f i + n) i

/-- One bit of a field. -/
def flag (s : State) (f : Fld) (i : Nat := 0) : Bool := decide (get s f i ≠ 0)

/-- Four digest words as one number. -/
def getDigest (s : State) (f : Fld) : Nat :=
  get s f 0 + 2 ^ 64 * get s f 1 + 2 ^ 128 * get s f 2 + 2 ^ 192 * get s f 3

def putDigest (s : State) (f : Fld) (d : Nat) : State :=
  put (put (put (put s f (bitsOf d 63 0) 0) f (bitsOf d 127 64) 1) f (bitsOf d 191 128) 2) f (bitsOf d 255 192) 3

/-! ### Functions and states -/

/-- Function `n` is in reset. -/
def inReset (s : State) (n : Nat) : Bool := tst (get s .rstStat_in_reset) n

/-- Function `n` is ready. -/
def fnReady (s : State) (n : Nat) : Bool := tst (get s .rstStat_ready) n

/-- FN0 answers commands (R464): it is ready and no pin or reset holds it. -/
def fn0Up (s : State) : Bool := fnReady s 0

/-- `PWR_STAT.state`: 0 Run, 1 Doze, 2 Park, 3 in transition. -/
def powerOf (s : State) : Nat := get s .pwrStat_state

/-- The module is in Doze, which lasts until the transition out of it has ended (R448, R449). -/
def dozing (s : State) : Bool := decide (powerOf s = 1) || (decide (powerOf s = 3) && decide (s.pwr.prev = 1))

/-- The module is in Run, with no transition under way. -/
def running (s : State) : Bool := decide (powerOf s = 0)

/-- The function of a core's die. -/
def coreFn (c : Nat) : Nat := 1 + c / 48

/-- A core works: its die is not in reset and the module is in Run (R449, R451, R467). -/
def coreUp (s : State) (c : Nat) : Bool := fnReady s (coreFn c) && running s

/-! ### What leaves the module -/

def emit (s : State) (o : Out) : State := { s with out := s.out ++ [o] }

/-- A fresh free value (log entry 6). -/
def freeNow (s : State) : Nat := Config.freeValue s.free

def freeTick (s : State) : State := { s with free := s.free + 1 }

/-! ### The event log (R471 to R473) -/

/-- The Alert column of the event table (R473). -/
def alertCode (s : State) (code : Nat) : Bool :=
  (code == 0x001) || (code == 0x004) || (code == 0x010) || (code == 0x012) || (code == 0x013) || (code == 0x022) ||
  (code == 0x030) || (code == 0x032) || (code == 0x041) || (code == 0x051) ||
  ((code == 0x040) && flag s .hbmCtl_ue_alert)

/-- ALERT_N is asserted: alert is set and, at power-on, only once FN0 is ready (R473, R484). -/
def setAlert (s : State) : State :=
  if flag s .evtStat_alert then s else emit (put s .evtStat_alert 1) (.pin 0 false)

/-- The four words of an entry (R471). -/
def evtWords (s : State) (code fn job step d0 d1 : Nat) : List Word :=
  [BitVec.ofNat 64 s.time.tide,
   BitVec.ofNat 64 (code % 2 ^ 16 + 2 ^ 16 * (fn % 16) + 2 ^ 20 * (job % 4096) + 2 ^ 32 * (step % 2 ^ 32)),
   BitVec.ofNat 64 d0, BitVec.ofNat 64 d1]

/-- The function and the code of an entry (R471). -/
def evtFn (w : List Word) : Nat := ((w.getD 1 0).toNat / 2 ^ 16) % 16
def evtCode (w : List Word) : Nat := (w.getD 1 0).toNat % 2 ^ 16

/-- The core that an entry is of: a program event has it in data 1, a shadow event beside its array (R473). -/
def evtCore (w : List Word) : Option Nat :=
  let d := (w.getD 3 0).toNat
  if evtCode w = 0x020 then some d else if evtCode w = 0x023 then some (d / 8) else none

/-- The first entry is of a lower core than the second, where each is of a core. -/
def coreBefore (w p : List Word) : Bool :=
  match evtCore w, evtCore p with
  | some a, some b => decide (a < b)
  | _, _ => false

/-- Entry `w` is written before entry `p`, which was logged before it: both are of one tide, and `w` is of a lower function, or of
a lower core of the same one (R472; log entry 190). -/
def evtBefore (w p : List Word) : Bool :=
  decide (w.getD 0 0 = p.getD 0 0) && (decide (evtFn w < evtFn p) || (decide (evtFn w = evtFn p) && coreBefore w p))

/-- An entry is written at index `i` of the ring, or before those of the `n` unread ones ahead of it that it precedes. -/
def placeEvt : Nat → List (Nat × List Word) → Nat → List Word → List (Nat × List Word)
  | 0, e, i, w => mset [0, 0, 0, 0] e i w
  | n + 1, e, i, w =>
    let p := mget [0, 0, 0, 0] e ((i + 1023) % 1024)
    if evtBefore w p then placeEvt n (mset [0, 0, 0, 0] e i p) ((i + 1023) % 1024) w else mset [0, 0, 0, 0] e i w

/-- An event is logged in its place, or dropped and counted while the ring is full (R472). -/
def logEvt (s : State) (code fn job step d0 d1 : Nat) : State :=
  if get s .evtStat_unread ≥ 1024 then put (bump s .evtStat_lost) .evtStat_full 1
  else
    let h := get s .evtHead_head
    let s1 := { s with evt := placeEvt (get s .evtStat_unread) s.evt h (evtWords s code fn job step d0 d1) }
    let s2 := bumpW (put s1 .evtHead_head (h + 1)) .evtHead_total
    let s3 := put s2 .evtStat_unread (get s .evtStat_unread + 1)
    let s4 := if alertCode s code then setAlert s3 else s3
    if get s .evtStat_unread + 1 ≥ 1024 then setAlert (put s4 .evtStat_full 1) else s4

/-! ### Memory: module offsets (R274) -/

/-- The offset of core `n`'s local SRAM. -/
def sramBase (n : Nat) : Nat := 0x200000000000 + 0x300000 * n

/-- The offset of die `c`'s stream buffer. -/
def streamBase (c : Nat) : Nat := 0x200024000000 + 0x3000000 * c

/-- An offset of HBM that the variant has (R3). -/
def inHbm (s : State) (a : Nat) : Bool := decide (a < variantHbmBytes s.fuses.variant)

/-- An offset of the SRAM window: a core's local SRAM or a stream buffer. -/
def inSram (a : Nat) : Bool := decide (0x200000000000 ≤ a ∧ a < 0x200030000000)

def inTail (a : Nat) : Bool := decide (0x380000000000 ≤ a ∧ a < 0x3C0000000000)

/-- The function that holds an offset: FN7 for HBM, the die's function for SRAM. -/
def memFn (a : Nat) : Nat :=
  if a < 0x200000000000 then 7
  else if a < 0x200024000000 then 1 + (a - 0x200000000000) / (48 * 0x300000)
  else 1 + (a - 0x200024000000) / 0x3000000

/-- The byte at a module offset. -/
def rdByte (s : State) (a : Nat) : Byte := mget (0 : Byte) s.mem a

/-- The state with one byte written. -/
def wrByte (s : State) (a : Nat) (b : Byte) : State := { s with mem := mset (0 : Byte) s.mem a b }

/-- `n` bytes from offset `a`. -/
def rdBytes (s : State) (a n : Nat) : Bytes := (List.range n).map (fun i => rdByte s (a + i))

/-- Bytes written from offset `a`. -/
def wrBytes : State → Nat → Bytes → State
  | s, _, [] => s
  | s, a, b :: r => wrBytes (wrByte s a b) (a + 1) r

/-- A little-endian number of `n` bytes. -/
def rdNat (s : State) (a n : Nat) : Nat := leNat (rdBytes s a n)

def wrNat (s : State) (a n v : Nat) : State := wrBytes s a (toLe n v)

/-- A 64-bit word. -/
def rdWord (s : State) (a : Nat) : Word := BitVec.ofNat 64 (rdNat s a 8)

def rdWords (s : State) (a n : Nat) : List Word := (List.range n).map (fun i => rdWord s (a + 8 * i))

/-- Memory without the bytes from `lo` to `hi - 1`, which then read as zero (R465). -/
def zeroMem (s : State) (lo hi : Nat) : State :=
  { s with mem := s.mem.filter (fun p => decide (p.1 < lo) || decide (hi ≤ p.1)) }

/-! ### Cores -/

def coreOf (s : State) (c : Nat) : CoreSt := mget CoreSt.init s.cores c

def setCore (s : State) (c : Nat) (k : CoreSt) : State := { s with cores := mset CoreSt.init s.cores c k }

def slotIdx : Slot → Nat
  | .prim => 0
  | .fill => 1

def CoreSt.slot (k : CoreSt) : Slot → SlotSt
  | .prim => k.prim
  | .fill => k.fill

def CoreSt.setSlot (k : CoreSt) (sl : Slot) (x : SlotSt) : CoreSt :=
  match sl with
  | .prim => { k with prim := x }
  | .fill => { k with fill := x }

def slotOf (s : State) (c : Nat) (sl : Slot) : SlotSt := (coreOf s c).slot sl

def setSlot (s : State) (c : Nat) (sl : Slot) (x : SlotSt) : State := setCore s c ((coreOf s c).setSlot sl x)

def arrOf (s : State) (c a : Nat) : ArrSt := mget ArrSt.init (coreOf s c).arr a

def setArr (s : State) (c a : Nat) (x : ArrSt) : State :=
  setCore s c { coreOf s c with arr := mset ArrSt.init (coreOf s c).arr a x }

/-- The job of the task that runs in a slot; none while no task runs. -/
def slotJob (s : State) (c : Nat) (sl : Slot) : Option Nat := (slotOf s c sl).task.map (·.launch.job)

/-! ### Eclipse (R53 to R56) -/

/-- The scope number of the whole module. -/
def modScope : Nat := 4096

/-- A job is in eclipse on the module: its scope or the module's is, or a function lacks its structure (R92). -/
def eclipsed (s : State) (job : Nat) : Bool :=
  s.time.eclipse.contains job || s.time.eclipse.contains modScope || decide (get s .shpStat_stale_fn ≠ 0) ||
  decide (s.time.missed ≠ 0)

/-- Some job is resident (R40). -/
def anyResident (s : State) : Bool := !s.shp.jobs.isEmpty

/-! ### Lists of states -/

/-- Apply `f` for each element in order. -/
def each {α : Type} (l : List α) (f : State → α → State) (s : State) : State := l.foldl f s

/-- Apply `f` to the state where the condition holds. -/
def onlyIf (b : Bool) (f : State → State) (s : State) : State := if b then f s else s

end Sys2Proof.Machine
end

