-- ==== Sys2Proof/Machine/Flags.lean ====
section
/-!
DEFINITION. Numbers and rounding (spec/06_number_formats_and_rounding.md): the formats and their encodings, exact
arithmetic, rounding and its counts (the flags of this hardware, R206), conversions, block scales, the generator and the
transcendental functions of R160.
-/
namespace Sys2Proof.Machine

/-! ### Formats (R171 to R175) -/

/-- How a floating-point format treats an exponent field of all ones (R172). -/
inductive Ones where
  | ieee | e4m3 | none
  deriving DecidableEq, Repr

/-- A floating-point format: exponent bits, mantissa bits, bias, the low bits of its container that are not used. -/
structure FmtInfo where
  eb   : Nat
  mb   : Nat
  bias : Nat
  pad  : Nat
  ones : Ones
  deriving DecidableEq, Repr

/-- The floating-point formats by code (R172). -/
def fmtInfo (f : Nat) : Option FmtInfo :=
  match f with
  | 0 => some ⟨11, 52, 1023, 0, .ieee⟩
  | 1 => some ⟨8, 23, 127, 0, .ieee⟩
  | 2 => some ⟨8, 10, 127, 13, .ieee⟩
  | 3 => some ⟨8, 7, 127, 0, .ieee⟩
  | 4 => some ⟨5, 10, 15, 0, .ieee⟩
  | 5 => some ⟨5, 2, 15, 0, .ieee⟩
  | 6 => some ⟨4, 3, 7, 0, .e4m3⟩
  | 7 => some ⟨3, 2, 3, 0, .none⟩
  | 8 => some ⟨2, 3, 1, 0, .none⟩
  | 9 => some ⟨2, 1, 1, 0, .none⟩
  | _ => none

def fp64 : Nat := 0
def fp32 : Nat := 1
def bf16 : Nat := 3
def fE8M0 : Nat := 10
def int32 : Nat := 11

/-- The bits of an integer format (R174). -/
def intBits (f : Nat) : Option Nat :=
  match f with
  | 11 => some 32
  | 12 => some 16
  | 13 => some 8
  | 14 => some 4
  | _ => none

/-- The storage width in bits (R171). -/
def fmtWidth (f : Nat) : Nat :=
  match f with
  | 0 => 64 | 1 => 32 | 2 => 32 | 3 => 16 | 4 => 16 | 5 => 8 | 6 => 8 | 7 => 6 | 8 => 6 | 9 => 4 | 10 => 8
  | 11 => 32 | 12 => 16 | 13 => 8 | 14 => 4
  | _ => 0

/-- The element formats that take block scales (R180). -/
def isBlockFmt (f : Nat) : Bool := decide (5 ≤ f ∧ f ≤ 9)

/-- A scale mode fits a format (R180). -/
def scaleModeOk (mode f : Nat) : Bool :=
  if mode = 0 then true else if mode = 1 then decide (f ≠ fE8M0) else isBlockFmt f

/-- The exponent of the smallest normal value. -/
def FmtInfo.emin (i : FmtInfo) : Int := 1 - (i.bias : Int)

/-- The exponent of the last place of the subnormals. -/
def FmtInfo.qmin (i : FmtInfo) : Int := i.emin - (i.mb : Int)

/-- The largest finite value as mantissa and exponent (R172). -/
def FmtInfo.top (i : FmtInfo) : Nat × Int :=
  match i.ones with
  | .ieee => (2 ^ (i.mb + 1) - 1, (i.bias : Int) - (i.mb : Int))
  | .e4m3 => (2 ^ (i.mb + 1) - 2, (2 ^ i.eb - 1 : Nat) - (i.bias : Int) - (i.mb : Int))
  | .none => (2 ^ (i.mb + 1) - 1, (2 ^ i.eb - 1 : Nat) - (i.bias : Int) - (i.mb : Int))

/-! ### Values -/

/-- A value: NaN with its sign, an infinity, or the exact m times 2^e with its sign. -/
inductive Num where
  | nan (neg : Bool)
  | inf (neg : Bool)
  | fin (neg : Bool) (m : Nat) (e : Int)
  deriving DecidableEq, Repr

def Num.neg : Num → Bool
  | .nan b => b
  | .inf b => b
  | .fin b _ _ => b

def Num.isNan : Num → Bool
  | .nan _ => true
  | _ => false

def Num.isFin : Num → Bool
  | .fin _ _ _ => true
  | _ => false

/-- The value is zero. -/
def Num.isZero : Num → Bool
  | .fin _ m _ => m == 0
  | _ => false

def Num.flip : Num → Num
  | .nan b => .nan !b
  | .inf b => .inf !b
  | .fin b m e => .fin (!b) m e

def Num.abs : Num → Num
  | .nan _ => .nan false
  | .inf _ => .inf false
  | .fin _ m e => .fin false m e

/-- `m` times 2^e in units of 2^q, toward zero. -/
def scaleTo (m : Nat) (e q : Int) : Nat :=
  if q ≤ e then m * 2 ^ (e - q).toNat else m / 2 ^ (q - e).toNat

/-- Order of two magnitudes. -/
def magLt (m1 : Nat) (e1 : Int) (m2 : Nat) (e2 : Int) : Bool :=
  let k := min e1 e2
  decide (scaleTo m1 e1 k < scaleTo m2 e2 k)

/-- The exponent of a non-zero magnitude: floor of its base-2 logarithm. -/
def magLog (m : Nat) (e : Int) : Int := (Nat.log2 m : Int) + e

/-- A signed value from an integer of units 2^e. -/
def numOfInt (v e : Int) : Num := .fin (decide (v < 0)) v.natAbs e

/-- The integer of a finite value in units of 2^k, for k no greater than its exponent. -/
def intAt (neg : Bool) (m : Nat) (e k : Int) : Int :=
  if neg then -((scaleTo m e k : Nat) : Int) else (scaleTo m e k : Nat)

/-- The value that a code of a format stands for (R172 to R175). -/
def decodeNum (f code : Nat) : Num :=
  match fmtInfo f with
  | some i =>
    let c := code / 2 ^ i.pad
    let neg := tst c (i.eb + i.mb)
    let x := bitsOf c (i.eb + i.mb - 1) i.mb
    let m := c % 2 ^ i.mb
    if i.ones = .ieee ∧ x = 2 ^ i.eb - 1 then (if m = 0 then .inf neg else .nan neg)
    else if i.ones = .e4m3 ∧ x = 2 ^ i.eb - 1 ∧ m = 2 ^ i.mb - 1 then .nan neg
    else if x = 0 then .fin neg m i.qmin
    else .fin neg (2 ^ i.mb + m) (i.qmin + (x : Int) - 1)
  | none => match intBits f with
    | some w =>
      let c := code % 2 ^ w
      if c < 2 ^ (w - 1) then .fin false c 0 else .fin true (2 ^ w - c) 0
    | none => if code % 256 = 255 then .nan false else .fin false 1 ((code % 256 : Nat) - 127)

/-- The code of a finite value that the format represents exactly. -/
def encFin (i : FmtInfo) (neg : Bool) (m : Nat) (e : Int) : Nat :=
  let sgn := bit neg * 2 ^ (i.eb + i.mb)
  let c :=
    if m = 0 then sgn
    else
      let x := magLog m e
      if x < i.emin then sgn + scaleTo m e i.qmin
      else sgn + (x + i.bias).toNat * 2 ^ i.mb + (scaleTo m e (x - i.mb) - 2 ^ i.mb)
  c * 2 ^ i.pad

def encInf (i : FmtInfo) (neg : Bool) : Nat :=
  (bit neg * 2 ^ (i.eb + i.mb) + (2 ^ i.eb - 1) * 2 ^ i.mb) * 2 ^ i.pad

/-- The default NaN with a sign; +0 where the format has none (R176, R196). -/
def encNan (i : FmtInfo) (neg : Bool) : Nat :=
  match i.ones with
  | .ieee => (bit neg * 2 ^ (i.eb + i.mb) + (2 ^ i.eb - 1) * 2 ^ i.mb + 2 ^ (i.mb - 1)) * 2 ^ i.pad
  | .e4m3 => bit neg * 2 ^ (i.eb + i.mb) + 2 ^ (i.eb + i.mb) - 1
  | .none => 0

def encTop (i : FmtInfo) (neg : Bool) : Nat := encFin i neg i.top.1 i.top.2

/-- Two's complement of a width. -/
def encInt (w : Nat) (v : Int) : Nat := (v % ((2 ^ w : Nat) : Int)).toNat

/-! ### Exact arithmetic (R177, R178) -/

/-- The exact sum; an exact zero of operands of opposite sign is +0 (R178). -/
def numAdd : Num → Num → Num
  | .nan _, _ => .nan false
  | _, .nan _ => .nan false
  | .inf a, .inf b => if a = b then .inf a else .nan false
  | .inf a, _ => .inf a
  | _, .inf b => .inf b
  | .fin a m e, .fin b n f =>
    let k := min e f
    let v := intAt a m e k + intAt b n f k
    if v = 0 then .fin (a && b) 0 k else numOfInt v k

def numMul : Num → Num → Num
  | .nan _, _ => .nan false
  | _, .nan _ => .nan false
  | .inf a, .inf b => .inf (a != b)
  | .inf a, .fin b n _ => if n = 0 then .nan false else .inf (a != b)
  | .fin a m _, .inf b => if m = 0 then .nan false else .inf (a != b)
  | .fin a m e, .fin b n f => .fin (a != b) (m * n) (e + f)

/-- A quotient to 128 bits and more, with every lower bit folded into a last one: it rounds as the exact quotient. -/
def divMag (m : Nat) (e : Int) (n : Nat) (f : Int) : Nat × Int :=
  let k := 130 + Nat.log2 n
  let q := m * 2 ^ k / n
  (2 * q + bit (decide (m * 2 ^ k % n ≠ 0)), e - f - k - 1)

def numDiv : Num → Num → Num
  | .nan _, _ => .nan false
  | _, .nan _ => .nan false
  | .inf _, .inf _ => .nan false
  | .inf a, .fin b _ _ => .inf (a != b)
  | .fin a _ _, .inf b => .fin (a != b) 0 0
  | .fin a m e, .fin b n f =>
    if n = 0 then (if m = 0 then .nan false else .inf (a != b))
    else let q := divMag m e n f; .fin (a != b) q.1 q.2

/-- The integer square root by binary digits, from bit `k - 1` down. -/
def isqrtFrom (n : Nat) : Nat → Nat → Nat
  | 0, r => r
  | k + 1, r => if (r + 2 ^ k) * (r + 2 ^ k) ≤ n then isqrtFrom n k (r + 2 ^ k) else isqrtFrom n k r

def isqrt (n : Nat) : Nat := isqrtFrom n (Nat.log2 n / 2 + 1) 0

/-- The square root of a non-zero magnitude, with every lower bit folded into a last one. -/
def sqrtMag (m : Nat) (e : Int) : Nat × Int :=
  let p := if e % 2 = 0 then (m, e) else (2 * m, e - 1)
  let n := p.1 * 2 ^ 260
  let r := isqrt n
  (2 * r + bit (decide (r * r ≠ n)), p.2 / 2 - 130 - 1)

def numSqrt : Num → Num
  | .nan _ => .nan false
  | .inf a => if a then .nan false else .inf false
  | .fin a m e => if m = 0 then .fin a 0 0 else if a then .nan false else let q := sqrtMag m e; .fin false q.1 q.2

/-- Order with −0 below +0, for numbers that are not NaN (R179). -/
def numBelow : Num → Num → Bool
  | .inf a, .inf b => a && !b
  | .inf a, _ => a
  | _, .inf b => !b
  | .fin a m e, .fin b n f =>
    let k := min e f
    let x := intAt a m e k
    let y := intAt b n f k
    decide (x < y) || (decide (x = y) && a && !b)
  | _, _ => false

def numMax (x y : Num) : Num := if x.isNan || y.isNan then .nan false else if numBelow x y then y else x
def numMin (x y : Num) : Num := if x.isNan || y.isNan then .nan false else if numBelow x y then x else y

/-- The quiet comparisons of VCMP (R179): 0 eq, 1 ne, 2 lt, 3 le, 4 unordered. -/
def numCmp (cond : Nat) (x y : Num) : Bool :=
  let un := x.isNan || y.isNan
  let eq := !un && ((x.isZero && y.isZero) || (!numBelow x y && !numBelow y x))
  let lt := !un && !(x.isZero && y.isZero) && numBelow x y
  match cond with
  | 0 => eq
  | 1 => !eq
  | 2 => lt
  | 3 => lt || eq
  | _ => un

/-! ### Rounding (R199, R200) -/

/-- `m` times 2^e in units of 2^q under a rounding code; `r` is the generator's 16 bits. -/
def roundAt (code r m : Nat) (e q : Int) : Nat :=
  if q ≤ e then m * 2 ^ (e - q).toNat
  else
    let k := 2 ^ (q - e).toNat
    let z := m / k
    let rem := m % k
    let up := match code with
      | 0 => decide (k < 2 * rem) || (decide (2 * rem = k) && decide (z % 2 = 1))
      | 2 => decide (65536 ≤ rem * 65536 / k + r)
      | _ => false
    z + bit up

/-- The last place of a format at a magnitude; with an unbounded exponent range it is never that of the subnormals. -/
def lastPlace (i : FmtInfo) (unbounded : Bool) (m : Nat) (e : Int) : Int :=
  let q := magLog m e - i.mb
  if unbounded then q else max q i.qmin

/-- A magnitude rounded to a format's precision. -/
def roundMag (i : FmtInfo) (unbounded : Bool) (code r m : Nat) (e : Int) : Nat × Int :=
  if m = 0 then (0, 0)
  else let q := lastPlace i unbounded m e; (roundAt code r m e q, q)

/-! ### Counts (R206) -/

/-- The six counts of R206, and the captured maximum of R207 as FP32 bits. -/
structure Counts where
  elements  : Nat
  zeros     : Nat
  flushed   : Nat
  saturated : Nat
  nan       : Nat
  inf       : Nat
  max       : Option Nat
  deriving DecidableEq, Repr

def Counts.zero : Counts := ⟨0, 0, 0, 0, 0, 0, none⟩

def maxOpt : Option Nat → Option Nat → Option Nat
  | none, y => y
  | some x, none => some x
  | some x, some y => some (Nat.max x y)

def Counts.add (a b : Counts) : Counts :=
  ⟨a.elements + b.elements, a.zeros + b.zeros, a.flushed + b.flushed, a.saturated + b.saturated, a.nan + b.nan,
    a.inf + b.inf, maxOpt a.max b.max⟩

def Counts.sum (l : List Counts) : Counts := l.foldl Counts.add Counts.zero

/-- The formats that fast mode flushes (R190): FP32, E8M10 and BF16. -/
def flushes (f : Nat) : Bool := decide (1 ≤ f ∧ f ≤ 3)

/-- The magnitude is below 2^-126 and not zero. -/
def tiny (m : Nat) (e : Int) : Bool := m != 0 && magLt m e 1 (-126)

/-! ### Rounding of arithmetic (R178, R190 to R192, R206) -/

/-- A result of arithmetic rounded into a format, with its counts. `allFin` and `noNan` say what the operands were. -/
def arithOut (f : Nat) (strict : Bool) (code : Nat) (allFin noNan : Bool) (x : Num) : Nat × Counts :=
  match intBits f, fmtInfo f with
  | some w, _ =>
    match x with
    | .fin a m e => (encInt w (intAt a m e 0), Counts.zero)
    | _ => (0, Counts.zero)
  | none, none => (0, Counts.zero)
  | none, some i =>
    match x with
    | .nan _ => (encNan i false, { Counts.zero with nan := bit noNan })
    | .inf a => (encInf i a, { Counts.zero with inf := bit allFin })
    | .fin a m e =>
      let fl := !strict && flushes f
      let r := roundMag i fl code 0 m e
      if magLt i.top.1 i.top.2 r.1 r.2 then
        (if code = 1 then (encTop i a, Counts.zero) else (encInf i a, { Counts.zero with inf := bit allFin }))
      else if (fl && tiny r.1 r.2) || (decide (r.1 = 0) && decide (m ≠ 0)) then
        (encFin i a 0 0, { Counts.zero with flushed := 1 })
      else (encFin i a r.1 r.2, Counts.zero)

/-! ### Conversions (R194 to R198) -/

/-- The captured maximum of a finite source: |x| rounded toward +∞ into FP32 (R207). -/
def captureOf (x : Num) : Option Nat :=
  match x, fmtInfo fp32 with
  | .fin _ m e, some i =>
    if m = 0 then some 0
    else
      let q := lastPlace i false m e
      let z := roundAt 1 0 m e q
      let z' := if magLt z q m e then z + 1 else z
      if magLt i.top.1 i.top.2 z' q then some (encInf i false) else some (encFin i false z' q)
  | _, _ => none

/-- Counts of one converted element: `wasZero` says that the source is a zero. -/
def convCounts (resultZero sourceNonZero sat nan inf : Bool) : Counts :=
  { Counts.zero with
    elements := 1, zeros := bit resultZero, flushed := bit (resultZero && sourceNonZero), saturated := bit sat,
    nan := bit nan, inf := bit inf }

/-- Into a floating-point format (R195, R196). `src` is the source element, `x` what is left of it after the scale. -/
def convFloat (f : Nat) (i : FmtInfo) (code : Nat) (sat fl : Bool) (r : Nat) (src x : Num) : Nat × Counts :=
  match x with
  | .nan a => (encNan i a, convCounts (decide (i.ones = .none)) false false true false)
  | .inf a =>
    match i.ones with
    | .ieee => (encInf i a, convCounts false false false false src.isFin)
    | .e4m3 => if sat then (encTop i a, convCounts false false true false false)
        else (encNan i a, convCounts false false false true false)
    | .none => (encTop i a, convCounts false false true false false)
  | .fin a m e =>
    let flush := fl && flushes f
    let v := roundMag i flush code r m e
    if magLt i.top.1 i.top.2 v.1 v.2 then
      if sat || decide (code = 1) || decide (i.ones = .none) then (encTop i a, convCounts false false true false false)
      else if i.ones = .ieee then (encInf i a, convCounts false false false false true)
      else (encNan i a, convCounts false false false true false)
    else if (flush && tiny v.1 v.2) || decide (v.1 = 0) then
      (encFin i a 0 0, convCounts true (!src.isZero) false false false)
    else (encFin i a v.1 v.2, convCounts false false false false false)

/-- Into an integer format (R197, R200). -/
def convInt (w code r : Nat) (src x : Num) : Nat × Counts :=
  let lo : Int := -((2 ^ (w - 1) : Nat) : Int)
  let hi : Int := ((2 ^ (w - 1) : Nat) : Int) - 1
  match x with
  | .nan _ => (0, convCounts true false false true false)
  | .inf a => (encInt w (if a then lo else hi), convCounts false false true false false)
  | .fin a m e =>
    let n := roundAt code r m e 0
    let v : Int := if a then -(n : Int) else n
    if v < lo then (encInt w lo, convCounts false false true false false)
    else if hi < v then (encInt w hi, convCounts false false true false false)
    else (encInt w v, convCounts (decide (v = 0)) (!src.isZero) false false false)

/-- Into E8M0 (R198). -/
def convE8M0 (code : Nat) (x : Num) : Nat × Counts :=
  match x with
  | .fin _ m e =>
    if m = 0 then (0, convCounts false false false false false)
    else if magLt 1 127 m e then (254, convCounts false false true false false)
    else if magLt m e 1 (-127) then (0, { convCounts false false false false false with flushed := 1 })
    else
      let k := magLog m e
      let up := decide (code = 0) &&
        (magLt 3 (k - 1) m e || (!magLt m e 3 (k - 1) && decide (k % 2 = 1)))
      ((k + 127 + bit up).toNat, convCounts false false false false false)
  | _ => (255, convCounts false false false true false)

/-- Every value of the source format is one of the destination's (R195, the widening class). -/
def widens (src dst : Nat) : Bool :=
  src == dst ||
  match fmtInfo src, fmtInfo dst with
  | some i, some j => decide (i.mb ≤ j.mb) && decide (i.eb ≤ j.eb) && decide (j.qmin ≤ i.qmin) &&
      decide (i.bias ≤ j.bias) && (decide (i.ones ≠ .ieee) || decide (j.ones = .ieee))
  | none, some j => match intBits src with
    | some w => decide (w ≤ j.mb + 1)
    | none => dst == fp32 || dst == fp64
  | none, none => match intBits src, intBits dst with
    | some w, some v => decide (w ≤ v)
    | _, _ => false
  | some _, none => false

/-- A value times a scale, exact; a NaN keeps its sign (R176). -/
def scaleNum (x t : Num) : Num := if x.isNan then x else numMul x t

/-- The tensor scale of R186 applied; a NaN keeps its sign (R176): for a floating-point destination rounded to the wider of FP32 and the destination
with the exponent range unbounded, for an integer kept exact. -/
def tensorQuot (dst : Nat) (t x : Num) : Num :=
  let q := if x.isNan then x else numDiv x t
  match q with
  | .fin a m e =>
    match intBits dst with
    | some _ => q
    | none =>
      match fmtInfo (if dst = fp64 then fp64 else fp32) with
      | none => q
      | some i => let v := roundMag i true 0 0 m e; .fin a v.1 v.2
  | _ => q

/-- The tensor scale is positive, finite and normal (R181). -/
def tensorScaleOk (bits : Nat) : Bool :=
  decide (0x00800000 ≤ bits % 2 ^ 32 ∧ bits % 2 ^ 32 < 0x7F800000)

/-- One element converted in scale mode 0 or 1 (R194): source format, destination, rounding code, saturation, fast mode,
the generator's bits, the tensor scale. -/
def convertOne (srcF dst code : Nat) (sat fast : Bool) (r : Nat) (t : Option Num) (src : Num) : Nat × Counts :=
  let w := widens srcF dst
  let x := match t with
    | none => src
    | some s => if w then src else tensorQuot dst s src
  let c := match intBits dst, fmtInfo dst with
    | some b, _ => convInt b code r src x
    | none, some i => convFloat dst i code sat (fast && !w) r src x
    | none, none => convE8M0 code x
  (c.1, { c.2 with max := captureOf src })

/-! ### Block scales (R182 to R186) -/

/-- The largest magnitude of a list of finite values; none where all are zero or there is none. -/
def amaxOf (l : List Num) : Option (Nat × Int) :=
  l.foldl (fun b x => match x with
    | .fin _ m e => if m = 0 then b else match b with
      | none => some (m, e)
      | some (n, f) => if magLt n f m e then some (m, e) else some (n, f)
    | _ => b) none

/-- A block's scale: the byte, and the value where elements are divided by it (R184). -/
def blockScale (mode : Nat) (i : FmtInfo) (amax : Nat × Int) : Nat × Num :=
  if mode = 2 then
    let e := magLog amax.1 amax.2 - magLog i.top.1 i.top.2
    let e := if e < -127 then -127 else if 127 < e then 127 else e
    ((e + 127).toNat, .fin false 1 e)
  else
    match fmtInfo 6 with
    | none => (0, .fin false 0 0)
    | some s =>
      let q := divMag amax.1 amax.2 i.top.1 i.top.2
      let v := roundMag s false 0 0 q.1 q.2
      let v := if magLt s.top.1 s.top.2 v.1 v.2 then s.top else v
      (encFin s false v.1 v.2, .fin false v.1 v.2)

/-- One element of a block by its scale (R184, R185). -/
def blockElem (mode code : Nat) (i : FmtInfo) (scale : Num) (r : Nat) (x : Num) : Nat × Counts :=
  match x, scale with
  | .fin a m e, .fin _ n f =>
    if n = 0 ∨ m = 0 then (encFin i a 0 0, convCounts true (decide (m ≠ 0)) false false false)
    else
      let q := if mode = 2 then (m, e - f)
        else match fmtInfo fp32 with
          | none => (m, e)
          | some g => let d := divMag m e n f; roundMag g false 0 0 d.1 d.2
      if magLt i.top.1 i.top.2 q.1 q.2 then (encTop i a, convCounts false false true false false)
      else
        let v := roundMag i false code r q.1 q.2
        if v.1 = 0 then (encFin i a 0 0, convCounts true true false false false)
        else (encFin i a v.1 v.2, convCounts false false false false false)
  | _, _ => (0, Counts.zero)

/-- A block converted: for each element its code where it is in use, the scale byte, and the counts. Each source carries
whether it is in use and the generator's bits. -/
def convertBlock (mode dst code : Nat) (xs : List (Num × Bool × Nat)) : List (Option Nat) × Nat × Counts :=
  let used := (xs.filter (fun x => x.2.1)).map (·.1)
  match fmtInfo dst with
  | none => ([], 0, Counts.zero)
  | some i =>
    let caps := used.foldl (fun b x => maxOpt b (captureOf x)) none
    if used.any (fun x => !x.isFin) then
      (xs.map (fun x => if x.2.1 then some 0 else none), (if mode = 2 then 0xFF else 0x7F),
        { Counts.zero with elements := used.length, nan := used.length, max := caps })
    else match amaxOf used with
      | none => (xs.map (fun x => if x.2.1 then some (encFin i x.1.neg 0 0) else none), 0,
          { Counts.zero with elements := used.length, zeros := used.length, max := caps })
      | some a =>
        let sc := blockScale mode i a
        let es := xs.map (fun x => if x.2.1 then some (blockElem mode code i sc.2 x.2.2 x.1) else none)
        (es.map (fun o => o.map (·.1)), sc.1,
          { Counts.sum (es.filterMap (fun o => o.map (·.2))) with max := caps })

/-! ### The generator (R201 to R203) -/

def m64 : Nat := 2 ^ 64

/-- mix of R201. -/
def genMix (z : Nat) : Nat :=
  let z1 := ((z ^^^ (z / 2 ^ 31)) * 0xD6E8FEB86659FD93) % m64
  let z2 := ((z1 ^^^ (z1 / 2 ^ 29)) * 0x9E6D62D06F6A9A9B) % m64
  z2 ^^^ (z2 / 2 ^ 32)

def genKey (seed tid : Nat) : Nat := genMix (seed % m64 ^^^ genMix (tid % m64))

/-- The 16 bits for element index `i`. -/
def genBits (key i : Nat) : Nat := genMix ((key + i % m64 * 0xA24BAED4963EE407) % m64) / 2 ^ 48

/-! ### Transcendental functions (R159, R160)

Fixed-point numbers of 256 fractional bits; the error of each function stays below 2^-240 of its result, and the results
are truncated. Log entry 30: no result of R160 at an operand of 24 significant bits lies so close to a representable
value without being one. -/

def fixP : Nat := 256

/-- The sum over `n` terms of z^(2k+1) / (2k+1) in fixed point, twice it the logarithm of (1 + z) / (1 - z). -/
def atanhSum (z2 : Nat) : Nat → Nat → Nat → Nat
  | 0, _, _ => 0
  | n + 1, k, p => p / (2 * k + 1) + atanhSum z2 n (k + 1) (p * z2 / 2 ^ fixP)

/-- ln of y / 2^P for y from 2^P to 2^(P+1). -/
def lnFix (y : Nat) : Nat :=
  let one := 2 ^ fixP
  let z := (y - one) * one / (y + one)
  2 * atanhSum (z * z / one) 100 0 z

def ln2Fix : Nat := lnFix (2 ^ (fixP + 1))

/-- The sum over `n` terms of r^k / k!. -/
def expSum (r : Nat) : Nat → Nat → Nat → Nat
  | 0, _, _ => 0
  | n + 1, k, t => t + expSum r n (k + 1) (t * r / 2 ^ fixP / (k + 1))

/-- e to the power r / 2^P for r below 2^P. -/
def expFix (r : Nat) : Nat := expSum r 90 0 (2 ^ fixP)

/-- A fixed-point number as an inexact value: a last bit stands for what is cut off. -/
def inexact (neg : Bool) (v : Nat) (e : Int) : Num := .fin neg (2 * v + 1) (e - 1)

/-- e^x or, with `two`, 2^x. -/
def numExp (two : Bool) : Num → Num
  | .nan _ => .nan false
  | .inf a => if a then .fin false 0 0 else .inf false
  | .fin a m e =>
    if m = 0 then .fin false 1 0
    else if magLt 4096 0 m e then (if a then .fin false 1 (-4096) else .fin false 1 4096)
    else
      let x := intAt a m e (-(fixP : Int))
      if two then
        let n := x / ((2 ^ fixP : Nat) : Int)
        let r := (x % ((2 ^ fixP : Nat) : Int)).toNat
        if r = 0 then .fin false 1 n
        else inexact false (expFix (r * ln2Fix / 2 ^ fixP)) (n - (fixP : Int))
      else
        let n := x / (ln2Fix : Int)
        inexact false (expFix (x % (ln2Fix : Int)).toNat) (n - (fixP : Int))

/-- ln x or, with `two`, the base-2 logarithm. -/
def numLog (two : Bool) : Num → Num
  | .nan _ => .nan false
  | .inf a => if a then .nan false else .inf false
  | .fin a m e =>
    if m = 0 then .inf true
    else if a then .nan false
    else
      let k := magLog m e
      let y := scaleTo m (e - k) (-(fixP : Int))
      if y = 2 ^ fixP then
        (if k = 0 then .fin false 0 0
         else if two then numOfInt k 0
         else let v := k * (ln2Fix : Int); inexact (decide (v < 0)) v.natAbs (-(fixP : Int)))
      else
        let l := lnFix y
        let v : Int := if two then k * ((2 ^ fixP : Nat) : Int) + ((l * 2 ^ fixP / ln2Fix : Nat) : Int)
          else k * (ln2Fix : Int) + (l : Int)
        inexact (decide (v < 0)) v.natAbs (-(fixP : Int))

/-- 1 / x. -/
def numRcp (x : Num) : Num := numDiv (.fin false 1 0) x

/-- 1 / √x. -/
def numRsq : Num → Num
  | .nan _ => .nan false
  | .inf a => if a then .nan false else .fin false 0 0
  | .fin a m e =>
    if m = 0 then .inf a
    else if a then .nan false
    else
      let p := if e % 2 = 0 then (m, e) else (2 * m, e - 1)
      let k := 2 * (Nat.log2 p.1 + 130)
      let n := 2 ^ k / p.1
      let r := isqrt n
      .fin false (2 * r + bit (decide (r * r * p.1 ≠ 2 ^ k))) (-(p.2 / 2) - (k / 2 : Nat) - 1)

/-- A transcendental result truncated into FP32 or BF16 with gradual underflow; beyond the largest finite it is an
infinity (R160). -/
def truncOut (f : Nat) (allFin noNan : Bool) (x : Num) : Nat × Counts :=
  match x, fmtInfo f with
  | .fin a m e, some i =>
    if magLt i.top.1 i.top.2 m e then (encInf i a, { Counts.zero with inf := bit allFin })
    else arithOut f true 1 allFin noNan (.fin a m e)
  | x, _ => arithOut f true 1 allFin noNan x

end Sys2Proof.Machine
end

