-- ==== Sys2Proof/Machine/Walk.lean ====
section
/-!
DEFINITION. Reaching memory: the redirection of banked state (R383 to R387), translation (R275 to R283), the codes of HBM
and SRAM (R265 to R267, R271), and reads and writes of memory with them.
-/
namespace Sys2Proof.Machine

/-! ### Commit state and banked views (R383 to R387) -/

/-- The `GRD_JOBj` entry of a job. -/
def jobEntry (s : State) (job : Nat) : Option Nat :=
  (List.range 64).find? (fun j => flag s .grdJoba_valid j && get s .grdJoba_job j == job)

/-- The committed step tag C of a job; none without an entry. -/
def committedOf (s : State) (job : Nat) : Option Nat := (jobEntry s job).map (fun j => get s .grdJobb_committed j)

def commitState (s : State) (job : Nat) : Nat :=
  match jobEntry s job with
  | none => 0
  | some j => get s .grdJobb_state j

/-- The bank range record whose view holds an address of a job, and the offset in the view (R383). -/
def viewAt (s : State) (job va : Nat) : Option (Nat × Nat) :=
  ((List.range 64).find? (fun r => flag s .grdBra_valid r && get s .grdBra_job r == job &&
    decide (65536 * get s .grdBra_view r ≤ va ∧ va < 65536 * (get s .grdBra_view r + get s .grdBrb_length r)))).map
    (fun r => (r, va - 65536 * get s .grdBra_view r))

/-- Where an access to a state view goes (R384); other addresses are as they are. -/
def redirect (s : State) (job va : Nat) (write : Bool) : Nat :=
  match viewAt s job va, committedOf s job with
  | some (r, x), some c =>
    if flag s .grdBra_kind r then va
    else if (c + bit write) % 2 = 0 then 65536 * get s .grdBrc_bank0 r + x
    else 65536 * get s .grdBrd_bank1 r + x
  | _, _ => va

/-- The address lies in a state view of the job. -/
def inStateView (s : State) (job va : Nat) : Bool :=
  match viewAt s job va with
  | some (r, _) => !flag s .grdBra_kind r
  | none => false

/-- A write into a gradient view is refused: states 1, 2 and 3 (R387). -/
def gradientClosed (s : State) (job va : Nat) : Bool :=
  match viewAt s job va with
  | some (r, _) => flag s .grdBra_kind r && decide (commitState s job ≠ 0)
  | none => false

/-- A write through a state view (STATE_VIEW_WRITE, R386). -/
def noteViewWrite (s : State) (job va : Nat) : State :=
  if inStateView s job va then
    match jobEntry s job with
    | none => s
    | some j =>
      let s1 := if get s .grdJobb_state j = 0 then put s .grdJobb_state 1 j else s
      if flag s1 .grdJobb_alt_written j then s1 else put (put s1 .grdJobb_alt_written 1 j) .grdJobb_undo_ok 0 j
  else s

/-! ### Translation (R275 to R283) -/

/-- What a translation finds: an offset of this module, of a tray peer, of the tail, or a fault with its reason and
code. -/
inductive Xlat where
  | here (off : Nat)
  | peer (slot off : Nat)
  | tail (off : Nat)
  | bad (reason code : Nat)
  deriving DecidableEq, Repr

/-- The lowest-numbered valid root slot of a job (R279). -/
def rootOf (s : State) (job : Nat) : Option Nat :=
  ((List.range 64).find? (fun j => flag s .mmuRoot_valid j && get s .mmuRoot_job j == job)).map
    (fun j => 65536 * get s .mmuRoot_root j)

/-- The fields of a page table entry (R276). -/
def pteValid (e : Nat) : Bool := tst e 0
def pteLeaf (e : Nat) : Bool := tst e 1
def pteTier (e : Nat) : Nat := bitsOf e 3 2
def pteWrite (e : Nat) : Bool := tst e 4
def pteExec (e : Nat) : Bool := tst e 5
def pteSlot (e : Nat) : Nat := bitsOf e 9 8
def pteFrame (e : Nat) : Nat := 65536 * bitsOf e 45 16
def pteClean (e : Nat) : Bool :=
  decide (bitsOf e 7 6 = 0) && decide (bitsOf e 15 10 = 0) && decide (bitsOf e 63 46 = 0)

/-- The bytes that a leaf at a level maps: 4 TiB, 512 MiB, 64 KiB. -/
def leafBytes (level : Nat) : Nat := if level = 1 then 2 ^ 42 else if level = 2 then 2 ^ 29 else 2 ^ 16

/-- The index of a virtual address in a table of a level (R275). -/
def vaIndex (level va : Nat) : Nat := (va / leafBytes level) % 8192

/-- How a walk ends: a leaf with its level, or a fault. -/
inductive Walk where
  | leaf (level : Nat) (e : Nat)
  | bad (reason code : Nat)
  deriving DecidableEq, Repr

/-- An uncorrectable unit of HBM under a page table entry (R282). -/
def pteUncorr (s : State) (a : Nat) : Bool := s.ecc.any (fun m => m.uncorr && m.unit == .hbm (a / 64))

/-- The walk from a table, with `n` levels to go (R275 to R277). -/
def walk (s : State) (va : Nat) : Nat → Nat → Walk
  | 0, _ => .bad 6 0x01
  | n + 1, table =>
    let level := 3 - n
    let a := table + 8 * vaIndex level va
    let e := rdNat s a 8
    if !inHbm s table then .bad 5 0x01
    else if pteUncorr s a then .bad 11 0x02
    else if !pteValid e then .bad 1 0x01
    else if !pteClean e then .bad 6 0x01
    else if pteLeaf e then .leaf level e
    else if n = 0 ∨ pteTier e ≠ 0 ∨ inHbm s (pteFrame e) = false then .bad 6 0x01
    else walk s va n (pteFrame e)

/-- The die whose L2 TLB and walk cache an access of a core uses, shared by the die's cores, DMA and KV readers; 4 for what no core
issues (R279; log entry 26). -/
def tlbDie (core : Nat) : Nat := if core < 192 then core / 48 else 4

/-- The entries that a set of a cache holds (R279): the 64 of an L1 TLB and the 1,024 of a walk cache are one set, the 8,192 of an L2
TLB are sets of 8. -/
def cacheWays : XlatCache → Nat
  | .l1 _ => 64
  | .l2 _ => 8
  | .walks _ => 1024

/-- The set of an L2 TLB that an entry belongs to: the number of its page, modulo the 1,024 sets (log entry 26). -/
def tlbSet (t : TlbEnt) : Nat := t.base / leafBytes t.level % 1024

/-- Two entries compete for the places of one set. -/
def sameSet (t x : TlbEnt) : Bool :=
  x.home == t.home && (match t.home with
    | .l2 _ => tlbSet x == tlbSet t
    | _ => true)

/-- An entry enters its cache, where it does not hold it yet; a full set lets its oldest go (log entry 26). -/
def addTlb (l : List TlbEnt) (t : TlbEnt) : List TlbEnt :=
  if l.any (fun x => x.home == t.home && x.job == t.job && x.base == t.base && x.level == t.level) then l
  else t :: ((l.filter (sameSet t)).take (cacheWays t.home - 1) ++ l.filter (fun x => !sameSet t x))

/-- What a cache holds for an address of a job. -/
def lookTlb (s : State) (home : XlatCache) (job va : Nat) : Option TlbEnt :=
  s.mmu.tlb.find? (fun t => t.home == home && t.job == job && decide (t.base ≤ va ∧ va < t.base + leafBytes t.level))

/-- The translation cached for an access of a core to an address of a job (R279, R280): an instruction fetch looks in the core's L1
TLB first. -/
def cached (s : State) (core job va : Nat) (fetch : Bool) : Option TlbEnt :=
  (if fetch then lookTlb s (.l1 core) job va else none).or (lookTlb s (.l2 (tlbDie core)) job va)

/-- Where a walk begins: the levels to go and the table, from the walk cache where it holds an upper level, else from the root
(R279). -/
def walkFrom (s : State) (core job va root : Nat) : Nat × Nat :=
  let here := s.mmu.tlb.filter (fun t => t.home == .walks (tlbDie core) && t.job == job &&
    decide (t.base ≤ va ∧ va < t.base + leafBytes t.level))
  match here.find? (fun t => t.level == 2), here.find? (fun t => t.level == 1) with
  | some t, _ => (1, pteFrame t.pte.toNat)
  | none, some t => (2, pteFrame t.pte.toNat)
  | none, none => (3, root)

/-- The leaf for an address of a job: cached, or by a walk; a job with no root has none (R279). -/
def leafFor (s : State) (core job va : Nat) (fetch : Bool) : Walk :=
  match rootOf s job with
  | none => .bad 7 0x01
  | some r => match cached s core job va fetch with
    | some t => .leaf t.level t.pte.toNat
    | none => walk s va (walkFrom s core job va r).1 (walkFrom s core job va r).2

/-- What a leaf gives an access (R276, R277, R282, R18). -/
def useLeaf (s : State) (va level e : Nat) (write exec_ : Bool) : Xlat :=
  let f := pteFrame e
  let o := f + va % leafBytes level
  if f % leafBytes level ≠ 0 then .bad 6 0x01
  else if pteTier e = 3 then .bad 2 0x01
  else if write && !pteWrite e then .bad 3 0x01
  else if exec_ && !pteExec e then .bad 4 0x01
  else if pteTier e = 2 then (if inTail o then (if exec_ then .bad 12 0x01 else .tail o) else .bad 5 0x01)
  else if pteTier e = 1 ∧ pteSlot e ≠ get s .ctlPlace_slot then
    (if exec_ then .bad 12 0x01
     else if decide (o < 0x016800000000) || inSram o then .peer (pteSlot e) o else .bad 5 0x01)
  else if pteTier e = 1 ∧ exec_ then .bad 12 0x01
  else if inHbm s o || inSram o then .here o
  else .bad 5 0x01

/-- The translation of an address of a job for an access of a core (R283); core 255 stands for what no core issues. -/
def xlat (s : State) (core job va : Nat) (write exec_ : Bool) : Xlat :=
  match leafFor s core job va exec_ with
  | .bad r c => .bad r c
  | .leaf l e => useLeaf s va l e write exec_

/-! ### The codes of memory (R265 to R267, R271) -/

/-- The stack that holds an HBM offset: 4 KiB units interleaved across the populated stacks (00_scope.md). -/
def stackOf (s : State) (a : Nat) : Nat := (a / 4096) % variantStacks s.fuses.variant

/-- The first byte and the length of a memory unit. -/
def unitRange : EccUnit → Option (Nat × Nat)
  | .hbm u => some (64 * u, 64)
  | .sram u => some (8 * u, 8)
  | _ => none

/-- The unit shares a byte with a range. -/
def touches (m : EccMark) (a n : Nat) : Bool :=
  match unitRange m.unit with
  | some (b, k) => decide (b < a + n ∧ a < b + k ∧ 0 < n)
  | none => false

/-- The range covers the whole unit. -/
def covers (m : EccMark) (a n : Nat) : Bool :=
  match unitRange m.unit with
  | some (b, k) => decide (a ≤ b ∧ b + k ≤ a + n)
  | none => false

/-- The abort code of an uncorrectable unit: 0x02 HBM, 0x03 SRAM. -/
def ueCode : EccUnit → Nat
  | .hbm _ => 0x02
  | _ => 0x03

/-- The first uncorrectable unit that a read of a range meets. -/
def readFault (s : State) (a n : Nat) : Option EccUnit :=
  (s.ecc.find? (fun m => m.uncorr && touches m a n)).map (·.unit)

/-- The first uncorrectable unit that a write of a range would write in part. -/
def writeFault (s : State) (a n : Nat) : Option EccUnit :=
  (s.ecc.find? (fun m => m.uncorr && touches m a n && !covers m a n)).map (·.unit)

/-- Corrected errors in a range are written back and, in HBM, counted; what the stack's own ECC reports is counted apart (R265,
R271). -/
def correct (s : State) (a n : Nat) : State :=
  let hit := s.ecc.filter (fun m => !m.uncorr && touches m a n)
  let s1 := { s with ecc := s.ecc.filter (fun m => m.uncorr || !touches m a n) }
  each hit (fun s m => match m.unit with
    | .hbm u => bump s (if m.ondie then .hbmStack_ondie else .hbmStack_corrected) 1 (stackOf s (64 * u))
    | _ => s) s1

/-- Units that a write covers in full are good again (R267, R271); corrected ones as in a read. -/
def clearUnits (s : State) (a n : Nat) : State :=
  let s1 := { s with ecc := s.ecc.filter (fun m => !covers m a n) }
  correct s1 a n

/-- The corrected errors that a walk meets are written back and counted (R265). -/
def walkFix (va : Nat) : Nat → Nat → State → State
  | 0, _, s => s
  | n + 1, table, s =>
    let a := table + 8 * vaIndex (3 - n) va
    let e := rdNat s a 8
    if !inHbm s table || pteUncorr s a then s
    else if pteValid e && pteClean e && !pteLeaf e && decide (pteTier e = 0) then walkFix va n (pteFrame e) (correct s a 8)
    else correct s a 8

/-- What a walk of an access corrects; a cached translation takes no walk. -/
def fixWalk (s : State) (core job va : Nat) (fetch : Bool) : State :=
  match cached s core job va fetch, rootOf s job with
  | none, some r => walkFix va (walkFrom s core job va r).1 (walkFrom s core job va r).2 s
  | _, _ => s

/-- The entries of the upper levels that a walk that ends at a leaf reads: level and entry. -/
def walkPath (s : State) (va : Nat) : Nat → Nat → List (Nat × Nat)
  | 0, _ => []
  | n + 1, table =>
    let e := rdNat s (table + 8 * vaIndex (3 - n) va) 8
    if pteLeaf e then [] else (3 - n, e) :: walkPath s va n (pteFrame e)

/-- An entry of a level for an address of a job, as a cache holds it. -/
def tlbEnt (home : XlatCache) (job va level e : Nat) : TlbEnt := ⟨home, job, va - va % leafBytes level, level, BitVec.ofNat 64 e⟩

/-- The caches that a translation enters: the die's L2 TLB, and for an instruction fetch the core's L1 TLB. -/
def leafHomes (core : Nat) (fetch : Bool) : List XlatCache := .l2 (tlbDie core) :: (if fetch then [.l1 core] else [])

/-- Entries put into the caches. -/
def fillTlb (s : State) (l : List TlbEnt) : State := { s with mmu := { s.mmu with tlb := l.foldl addTlb s.mmu.tlb } }

/-- A completed walk fills the caches and is counted; what the L2 TLB held for a fetch enters the L1 TLB (R279). -/
def noteWalk (s : State) (core job va : Nat) (fetch : Bool) : State :=
  match rootOf s job with
  | none => s
  | some r =>
    match cached s core job va fetch with
    | some t => if fetch then fillTlb s [{ t with home := .l1 core }] else s
    | none =>
      let p := walkFrom s core job va r
      match walk s va p.1 p.2 with
      | .bad _ _ => s
      | .leaf l e =>
        bumpW (fillTlb (walkFix va p.1 p.2 s)
          ((walkPath s va p.1 p.2).map (fun x => tlbEnt (.walks (tlbDie core)) job va x.1 x.2) ++
            (leafHomes core fetch).map (fun h => tlbEnt h job va l e))) .mmuTlbcnt_walks

/-- An uncorrectable unit of HBM is counted and logged, and the first is recorded (R266, R268). -/
def noteUe (s : State) (off job core : Nat) (scrub : Bool) : State :=
  let k := stackOf s off
  let s1 := bump s .hbmStack_uncorrected 1 k
  let s2 := if flag s1 .hbmUe0_valid then s1
    else
      let t := put (put (put (put s1 .hbmUe0_offset off) .hbmUe0_stack k) .hbmUe0_valid 1) .hbmUe0_by_scrub (bit scrub)
      put (put t .hbmUe1_job job) .hbmUe1_core core
  logEvt s2 0x040 7 job 0 off k

/-- The record of a unit that stopped an access; SRAM units have none. -/
def noteUnit (s : State) (u : EccUnit) (job core : Nat) : State :=
  match u with
  | .hbm n => noteUe s (64 * n) job core false
  | _ => s

/-- The uncorrectable page table entry that a walk meets. -/
def walkUe (s : State) (va : Nat) : Nat → Nat → Option Nat
  | 0, _ => none
  | n + 1, table =>
    let a := table + 8 * vaIndex (3 - n) va
    let e := rdNat s a 8
    if !inHbm s table then none
    else if pteUncorr s a then some (a - a % 64)
    else if pteValid e && pteClean e && !pteLeaf e && decide (pteTier e = 0) then walkUe s va n (pteFrame e)
    else none

/-- An uncorrectable page table entry is recorded as any other uncorrectable read (R266, R282); what else the walk met is corrected. -/
def noteWalkUe (s : State) (job core va reason : Nat) : State :=
  if reason = 11 then
    match (rootOf s job).bind (fun r => [va, redirect s job va false, redirect s job va true].findSome? (fun a =>
      walkUe s a (walkFrom s core job a r).1 (walkFrom s core job a r).2)) with
    | some a => noteUe s a job core false
    | none => s
  else fixWalk s core job va false

/-- A translation fault is counted, and the first one is recorded (R282). Units: 0 fetch, 1 DMA, 2 KV reader, 3 KV stream
unit; core 255 stands for the KV stream unit. -/
def noteFault (s : State) (job core unit va reason code : Nat) : State :=
  let s1 := bump (noteWalkUe s job core va reason) .mmuTlbcnt_faults
  if flag s1 .mmuFault1_valid then s1
  else
    let s2 := put (put s1 .mmuFault0_va va) .mmuFault0_reason reason
    put (put (put (put (put s2 .mmuFault1_job job) .mmuFault1_core core) .mmuFault1_unit unit) .mmuFault1_code code)
      .mmuFault1_valid 1

/-- Bytes counted in `HBM_RD` or `HBM_WR`. -/
def countHbm (s : State) (f : Fld) (a n : Nat) : State := if a < 0x200000000000 then bumpW s f n else s

/-- A read of `n` bytes at a module offset: the bytes, or the unit that stops it. -/
def readMem (s : State) (a n : Nat) : State × Option EccUnit × Bytes :=
  match readFault s a n with
  | some u => (s, some u, [])
  | none => (countHbm (correct s a n) .hbmRd_bytes a n, none, rdBytes s a n)

/-- A write of bytes at a module offset: the unit that stops it, if one does. -/
def writeMem (s : State) (a : Nat) (b : Bytes) : State × Option EccUnit :=
  match writeFault s a b.length with
  | some u => (s, some u)
  | none => (countHbm (wrBytes (clearUnits s a b.length) a b) .hbmWr_bytes a b.length, none)

/-! ### Undefined contents -/

/-- `n` bytes from `a` hold undefined contents: each becomes a free value (log entry 6). -/
def scribble : State → Nat → Nat → State
  | s, _, 0 => s
  | s, a, n + 1 => scribble (freeTick (wrByte s a (BitVec.ofNat 8 (freeNow s)))) (a + 1) n

/-- The bytes of a virtual range that a write of the job would reach in this module hold undefined contents: in a state view those
of the bank that writes go to (R384), and none in a gradient view that is closed (R387). -/
def scribbleVa (core job : Nat) : State → Nat → Nat → State
  | s, _, 0 => s
  | s, va, n + 1 =>
    let s1 := if gradientClosed s job va then s else match xlat s core job (redirect s job va true) true false with
      | .here o => scribble s o 1
      | _ => s
    scribbleVa core job s1 (va + 1) n

end Sys2Proof.Machine
end

