-- ==== Sys2Proof/Machine/Pages.lean ====
section
/-!
DEFINITION. Descriptors, sequence windows and KV pages as they lie in memory (R237 to R246, R284, R308), with the sizes of a pass
that the outputs of a KV read follow.
-/
namespace Sys2Proof.Machine

/-! ### Geometry (R104, R124, R150) -/

/-- The format group of an array operand: weights per cell; none where an array does not take the format (R105). -/
def perCell (f : Nat) : Option Nat :=
  match f with
  | 2 => some 1 | 3 => some 1 | 4 => some 1 | 12 => some 1
  | 5 => some 2 | 6 => some 2 | 13 => some 2
  | 7 => some 4 | 8 => some 4 | 9 => some 4 | 14 => some 4
  | _ => none

/-- Two formats that a pass may pair (R105). -/
def pairOk (a w : Nat) : Bool :=
  a == w || ((a == 5 || a == 6) && (w == 5 || w == 6)) ||
  (decide (7 ≤ a ∧ a ≤ 9) && decide (7 ≤ w ∧ w ≤ 9))

/-- Rows and columns of cells: an array, or a moonlet. -/
def dimOf (moon : Bool) : Nat := if moon then 16 else 32

/-- K of one pass. -/
def kPass (moon : Bool) (f : Nat) : Nat := dimOf moon * (perCell f).getD 0

/-! ### Descriptors (R308) -/

def Desc.w (d : Desc) (w hi lo : Nat) : Nat := bitsOf (d.words.getD w 0).toNat hi lo
def Desc.kind (d : Desc) : Nat := d.w 0 3 0
def Desc.tc (d : Desc) : Nat := d.w 0 11 4
def Desc.tcEn (d : Desc) : Bool := d.w 0 12 12 == 1

/-- The address of a descriptor for `DMA_ERR1`, where no other is at fault: remote, or the destination's. -/
def descAddr (d : Desc) : Nat := if d.kind = 1 then d.w 2 54 0 else if d.kind = 4 ∨ d.kind = 5 then 0 else d.w 2 63 0

/-! ### Window records (R284 to R286) -/

/-- The words of window `w`: as cached, or as memory holds them; none while `MMU_WINBASE.valid` is 0. -/
def winWords (s : State) (w : Nat) : List Word :=
  if !flag s .mmuWinbase_valid then []
  else match mget [] s.mmu.wins w with
    | [] => rdWords s (get s .mmuWinbase_base + 32 * w) 4
    | l => l

/-- Bits [hi:lo] of word `i` of a window record. -/
def wf (r : List Word) (i hi lo : Nat) : Nat := bitsOf (r.getD i 0).toNat hi lo

def wValid (r : List Word) : Bool := wf r 0 0 0 == 1
def wSpill (r : List Word) : Bool := wf r 0 1 1 == 1
def wJob (r : List Word) : Nat := wf r 0 13 2
def wPool (r : List Word) : Nat := wf r 0 19 14
def wLook (r : List Word) : Nat := wf r 0 23 20
def wVa (r : List Word) : Nat := wf r 0 40 24 * 2 ^ 38
def wDesc (r : List Word) : Nat := wf r 1 45 0
def wPages (r : List Word) : Nat := wf r 2 22 0
def wTail (r : List Word) : Nat := wf r 3 45 0

/-- Where the descriptor of a page lies (R239). -/
def pdAddr (r : List Word) (page : Nat) : Nat := wDesc r + 64 * page
/-! ### Pages (R237 to R239) -/

/-- The head dimension of a descriptor. -/
def headDim (code : Nat) : Nat := 64 * 2 ^ code

/-- The capacity of a page. -/
def pageCap (dcode fmt : Nat) : Nat := 2 ^ 18 / (headDim dcode * fmtWidth fmt)

/-- A page format (R238). -/
def pageFmt (f : Nat) : Bool := f == 3 || f == 4 || f == 5 || f == 6 || f == 9

/-- The fields of words 0 to 2 of a page descriptor, and whether their reserved bits are zero (R239). -/
structure PageDesc where
  fmt    : Nat
  smode  : Nat
  dcode  : Nat
  valid  : Bool
  tokens : Nat
  window : Nat
  kScale : Nat
  vScale : Nat
  pos    : Nat
  clean  : Bool
  deriving DecidableEq, Repr

/-- A page descriptor as the reader reads it, words 0 to 2 (R241). DEDUCED (log entry 201): the reserved fields of reason 8 are those
of these words. DESIGN CHOICE (log entry 197): kv_head, "reported in errors", has no field in any record or event, and is shown
nowhere. -/
def parsePage (b : Bytes) : PageDesc :=
  let w (i : Nat) : Nat := leNat ((b.drop (8 * i)).take 8)
  ⟨bitsOf (w 0) 3 0, bitsOf (w 0) 5 4, bitsOf (w 0) 7 6, tst (w 0) 8, bitsOf (w 0) 19 9, bitsOf (w 0) 41 28,
   bitsOf (w 1) 31 0, bitsOf (w 1) 63 32, bitsOf (w 2) 31 0,
   decide (bitsOf (w 0) 63 42 = 0) && decide (bitsOf (w 2) 63 32 = 0)⟩

/-! ### The outputs of a KV read (R242, R245, R246) -/

def kvWindow (d : Desc) : Nat := d.w 0 26 13
def kvPart (d : Desc) : Nat := d.w 0 55 54
def kvFmt (d : Desc) : Nat := d.w 0 59 56

/-- The K and V outputs and the position record of page `i`: offset and bytes of each that the descriptor asks for
(R245, R246). -/
def kvOutputs (d : Desc) (p : PageDesc) (i : Nat) : List (Nat × Nat) :=
  let dim := headDim p.dcode
  let cap := pageCap p.dcode p.fmt
  let kp := kPass false (kvFmt d)
  let step := i * d.w 1 51 44 * 4096
  (if tst (kvPart d) 0 then [(d.w 1 21 0 + step, (cap / 32) * (dim / kp) * 2048)] else []) ++
  (if tst (kvPart d) 1 then [(d.w 1 43 22 + step, (dim / 32) * (cap / kp) * 2048)] else []) ++
  (if d.w 2 22 22 = 1 then [(d.w 2 21 0 + i * d.w 2 30 23 * 64, 64 + 4 * cap)] else [])

end Sys2Proof.Machine
end

