-- ==== Sys2Proof/Machine/Work.lean ====
section
/-!
DEFINITION. What the rules of several chapters share: the structure that shape images give the cores (R77 to R80, R338),
trigger counters (R162 to R164), the abort of a task (R330) and the abnormal end of a collective (R369, R370).
-/
namespace Sys2Proof.Machine

/-! ### Structure (R77 to R80, R338) -/

/-- The structure that function `n` holds; key 0 is FN0's record of the structure in force. -/
def strOf (s : State) (n : Nat) : Structure := mget Structure.init s.shp.act n

/-- The stage groups of a structure that name a core. -/
def groupsAt (t : Structure) (c : Nat) : List GroupRec := t.groups.filter (fun g => g.cores.getLsbD c)

/-- The role of a stage group: 0 where no fill mode record names it (R339). -/
def roleOf (t : Structure) (g : Nat) : Nat :=
  match t.fills.find? (fun r => r.group == g) with
  | none => 0
  | some r => r.role

/-- The stage group in a job slot of a core under a structure (R338). -/
def groupIn (t : Structure) (c : Nat) (sl : Slot) : Option GroupRec :=
  (groupsAt t c).find? (fun g => decide (roleOf t g.index = 2) == decide (sl = .fill))

/-- The structure that core `c` runs under. -/
def coreStr (s : State) (c : Nat) : Structure := strOf s (coreFn c)

/-- The stage group in a job slot of core `c`. -/
def slotGroup (s : State) (c : Nat) (sl : Slot) : Option GroupRec := groupIn (coreStr s c) c sl

/-- The job in a job slot of core `c`; 0 where there is none. -/
def jobIn (s : State) (c : Nat) (sl : Slot) : Nat :=
  match slotGroup s c sl with
  | none => 0
  | some g => g.job

/-- The slot that a stage group of a job holds on core `c` (R137). -/
def slotOfGroup (s : State) (c g : Nat) : Option Slot :=
  match slotGroup s c .prim, slotGroup s c .fill with
  | some p, f => if p.index = g then some .prim else match f with
    | some q => if q.index = g then some .fill else none
    | none => none
  | none, some q => if q.index = g then some .fill else none
  | none, none => none

/-- The core is named by a filler stage group. -/
def hasFiller (s : State) (c : Nat) : Bool := (slotGroup s c .fill).isSome

/-- The window of vector registers of a job slot: the first physical register and their number (R144). -/
def vecWindow (s : State) (c : Nat) (sl : Slot) : Nat × Nat :=
  match sl with
  | .prim => (0, if hasFiller s c then 48 else 64)
  | .fill => (48, 16)

/-- The window of DMA queues of a job slot: the first physical queue and their number (R303). -/
def dmaWindow (s : State) (c : Nat) (sl : Slot) : Nat × Nat :=
  match sl with
  | .prim => (0, if hasFiller s c then 12 else 16)
  | .fill => (12, 4)

/-- The bytes of a split record (R79). -/
def splitBytes (t : Structure) (i : Nat) : Nat :=
  match t.splits.find? (fun r => r.index == i) with
  | none => 0
  | some r => 4096 * r.sizes.sum

/-- The local SRAM of a job slot: first offset and end (R79, R80). -/
def sramWindow (s : State) (c : Nat) (sl : Slot) : Nat × Nat :=
  let t := coreStr s c
  let p := match groupIn t c .prim with
    | none => 0
    | some g => splitBytes t g.split
  match sl with
  | .prim => (0, p)
  | .fill => match groupIn t c .fill with
    | none => (p, p)
    | some g => (p, p + splitBytes t g.split)

/-- A local range lies in the slot's own SRAM split, with every byte (R103). -/
def inSplit (s : State) (c : Nat) (sl : Slot) (a n : Nat) : Bool :=
  decide ((sramWindow s c sl).1 ≤ a ∧ a + n ≤ (sramWindow s c sl).2)

/-- The KV working region of a slot (R79): first local offset and end. -/
def kvRegion (s : State) (c : Nat) (sl : Slot) : Nat × Nat :=
  let t := coreStr s c
  let b := (sramWindow s c sl).1
  match groupIn t c sl with
  | none => (b, b)
  | some g => match t.splits.find? (fun r => r.index == g.split) with
    | none => (b, b)
    | some r => (b + 4096 * (r.sizes.take 6).sum, b + 4096 * (r.sizes.take 7).sum)

/-- Job `j` is resident (R335). -/
def resident (s : State) (j : Nat) : Bool := s.shp.jobs.contains j

/-- Core `c` is named by a stage group of job `j`. -/
def coreOfJob (t : Structure) (c j : Nat) : Bool := (groupsAt t c).any (fun g => g.job == j)

/-- The numeric policy record of a job slot's stage group (R78, R187). -/
def policyOf (s : State) (c : Nat) (sl : Slot) : Option PolicyRec :=
  match slotGroup s c sl with
  | none => none
  | some g => (coreStr s c).policies.find? (fun p => p.index == g.policy)

/-! ### The next instruction (R138, R146) -/

/-- Instruction indexes count modulo the 2^55 bytes of the address space. -/
def idxMod : Nat := 2 ^ 51

/-- The virtual address of the next instruction. -/
def pcOf (t : Task) : Nat := (t.launch.program + 16 * t.index) % 2 ^ 55

/-- The name of the next instruction's line in the instruction buffer: its job and virtual address. -/
def lineKey (t : Task) : Nat × Nat := (t.launch.job, pcOf t)

/-! ### Templates of armed operations (R351) -/

/-- Bits [hi:lo] of word `w` of a trigger chain record. -/
def tw (r : ChainRec) (w hi lo : Nat) : Nat := bitsOf (r.words.getD w 0).toNat hi lo

def tJob (r : ChainRec) : Nat := tw r 0 27 16
def tColl (r : ChainRec) : Nat := tw r 0 37 28
def tAction (r : ChainRec) : Nat := tw r 0 39 38
def tSrcVa (r : ChainRec) : Bool := tw r 0 40 40 == 1
def tDstVa (r : ChainRec) : Bool := tw r 0 41 41 == 1
def tLenInd (r : ChainRec) : Bool := tw r 0 42 42 == 1
def tLedger (r : ChainRec) : Bool := tw r 0 43 43 == 1
def tDoneWhen (r : ChainRec) : Bool := tw r 0 44 44 == 1
def tDoneEn (r : ChainRec) : Bool := tw r 0 45 45 == 1
def tGateEn (r : ChainRec) : Bool := tw r 0 46 46 == 1
def tSlotEn (r : ChainRec) : Bool := tw r 0 47 47 == 1
def tSclk (r : ChainRec) : Nat := tw r 0 50 48
def tNextCount (r : ChainRec) : Nat := tw r 0 57 51
def tTcore (r : ChainRec) : Nat := tw r 1 7 0
def tTtc (r : ChainRec) : Nat := tw r 1 15 8
def tThresh (r : ChainRec) : Nat := tw r 1 47 16
def tInc (r : ChainRec) : Nat := tw r 1 63 48
def tGcore (r : ChainRec) : Nat := tw r 2 7 0
def tGtc (r : ChainRec) : Nat := tw r 2 15 8
def tGthresh (r : ChainRec) : Nat := tw r 2 47 16
def tGinc (r : ChainRec) : Nat := tw r 2 63 48
def tFires (r : ChainRec) : Nat := tw r 3 15 0
def tCtx (r : ChainRec) : Nat := tw r 3 31 16
def tDcore (r : ChainRec) : Nat := tw r 3 39 32
def tDtc (r : ChainRec) : Nat := tw r 3 47 40
/-- dadd, where 0 is treated as 1. -/
def tDadd (r : ChainRec) : Nat := if tw r 3 55 48 = 0 then 1 else tw r 3 55 48
def tDoneTc (r : ChainRec) : Nat := tw r 3 63 56
def tSrc (r : ChainRec) : Nat := tw r 4 54 0
def tValue (r : ChainRec) : Nat := tw r 4 63 0
def tDst (r : ChainRec) : Nat := tw r 5 54 0
def tLength (r : ChainRec) : Nat := tw r 6 31 0
def tSrcStride (r : ChainRec) : Nat := tw r 6 55 32
/-- nslots, where 0 is treated as 1. -/
def tNslots (r : ChainRec) : Nat := if tw r 6 63 56 = 0 then 1 else tw r 6 63 56
def tDstStride (r : ChainRec) : Nat := tw r 7 23 0
/-- wd_us, where above 10,000,000 is treated as 10,000,000. -/
def tWdUs (r : ChainRec) : Nat := min (tw r 7 47 24) 10000000
def tNext (r : ChainRec) : Nat := tw r 7 63 48

/-- Source and destination of fire `k` (R357). -/
def fireSrc (r : ChainRec) (k : Nat) : Nat := tSrc r + (k % tNslots r) * tSrcStride r * 64
def fireDst (r : ChainRec) (k : Nat) : Nat := tDst r + (k % tNslots r) * tDstStride r * 64

/-- The template claims counter `i` of core `c` (R353). -/
def claims (r : ChainRec) (c i : Nat) : Bool :=
  (tTcore r == c && tTtc r == i) || (tGateEn r && tGcore r == c && tGtc r == i) ||
  (tDoneEn r && tTcore r == c && tDoneTc r == i)

/-- The template of a slot, as FN5 holds it. -/
def template (s : State) (slot : Nat) : Option ChainRec := (strOf s 5).chains.find? (fun r => r.slot == slot)

/-! ### Trigger counters (R162 to R164) -/

/-- The job that counter `i` of core `c` belongs to; 0 for none (R164, R353). -/
def tcOwner (s : State) (c i : Nat) : Nat :=
  match (coreStr s c).chains.find? (fun r => claims r c i) with
  | some r => tJob r
  | none => if (slotGroup s c .prim).isSome then jobIn s c .prim else jobIn s c .fill

def tcVal (s : State) (c i : Nat) : Nat := get s .tc_value (256 * c + i)

/-- How a counter has changed in this clk. -/
def tcClkOf (s : State) (c i : Nat) : TcClk :=
  (mget none (coreOf s c).tcClk i).getD ⟨tcVal s c i, tcVal s c i, 0, get s .tc_overflow (256 * c + i)⟩

/-- The value that the transport engines and WAITTC see: once per clk, as the last tick left it (R163; log entry 143). -/
def tcSeen (s : State) (c i : Nat) : Nat := (tcClkOf s c i).seen

/-- A counter holds a value for the rest of the clk. -/
def tcKeep (s : State) (c i v : Nat) (t : TcClk) : State :=
  setCore (put s .tc_value v (256 * c + i)) c
    { coreOf s c with tcClk := mset none (coreOf s c).tcClk i (some t) }

/-- A set: the increments of this clk are added after it (R163). -/
def tcSet (s : State) (c i v : Nat) : State :=
  let t := tcClkOf s c i
  let s1 := tcKeep s c i (min (v + t.adds) (maxOf 32)) { t with base := v }
  if maxOf 32 < v + t.adds then put s1 .tc_overflow 1 (256 * c + i)
  else if maxOf 32 < t.base + t.adds then put s1 .tc_overflow t.oflow (256 * c + i)
  else s1

/-- An increment: held at 2^32 - 1 with overflow set (R162). -/
def tcAdd (s : State) (c i n : Nat) : State :=
  let t := tcClkOf s c i
  let s1 := tcKeep s c i (min (tcVal s c i + n) (maxOf 32)) { t with adds := t.adds + n }
  if maxOf 32 < tcVal s c i + n then put s1 .tc_overflow 1 (256 * c + i) else s1

/-! ### Descriptors -/

/-- The local ranges that a descriptor of the queues writes: offset and bytes (R309, R310). -/
def descLocalDst (d : Desc) : List (Nat × Nat) :=
  if d.kind = 1 ∧ d.w 0 14 14 = 1 then
    (List.range (d.w 0 63 40)).map (fun r => (d.w 2 54 0 + r * d.w 3 63 32, d.w 0 39 16))
  else if d.kind = 3 ∧ d.w 0 13 13 = 1 then [(d.w 1 54 0, d.w 0 45 16 + 1)]
  else []

def dmaqOf (k : CoreSt) (q : Nat) : DmaQ := mget DmaQ.init k.dmaq q

def CoreSt.setQ (k : CoreSt) (q : Nat) (x : DmaQ) : CoreSt := { k with dmaq := mset DmaQ.init k.dmaq q x }

/-- Instance of a queue's registers. -/
def qIdx (c q : Nat) : Nat := 16 * c + q

/-- The entries of a queue, 1 to 64; 0: the queue is off. DESIGN CHOICE (log entry 203): a depth of 65 to 127 is 64 entries. -/
def qDepth (s : State) (c q : Nat) : Nat := min 64 (get s .dmaQ_depth (qIdx c q))

/-- The descriptors of a queue that are in flight. -/
def qFlight (s : State) (c q : Nat) : List Desc := (coreOf s c).flight.filter (fun d => d.q == q)

/-- The entries that a queue holds: those not started, and the descriptors in flight (log entry 42). -/
def qHeld (s : State) (c q : Nat) : Nat := (dmaqOf (coreOf s c) q).entries.length + (qFlight s c q).length

/-- The queues without the entries of a job slot. -/
def dropQueued (k : CoreSt) (sl : Slot) : CoreSt :=
  (List.range 16).foldl (fun k q =>
    k.setQ q ⟨(dmaqOf k q).entries.filter (fun d => decide (d.slot ≠ sl)), (dmaqOf k q).started⟩) k

/-! ### Moves of KV pages as other accesses see them (R294, R295) -/

/-- The virtual address of a page of a window. -/
def pageVa (r : List Word) (page : Nat) : Nat := wVa r + 65536 * page

/-- The job of a media task. -/
def medJob (t : MedTask) : Nat := bitsOf (t.rec_.getD 0 0).toNat 16 5

/-- The page of a move shares an address with a virtual range of a job. -/
def onPage (s : State) (m : KvMove) (job va n : Nat) : Bool :=
  let r := winWords s m.window
  wJob r == job && decide (pageVa r m.page < va + n ∧ va < pageVa r m.page + 65536)

/-- A move in progress holds accesses to a virtual range of a job (R295). -/
def rangeMoving (s : State) (job va n : Nat) : Bool := s.mmu.moves.any (fun m => onPage s m job va n)

/-- One waiter more or fewer for a frame of the pool. -/
def waitMore (s : State) (p : Nat) : State := bump (put s .mmuPoold_waiting (get s .mmuPoold_waiting p + 1) p) .mmuKvcnt1_frame_waits
def waitLess (s : State) (p : Nat) : State := put s .mmuPoold_waiting (get s .mmuPoold_waiting p - 1) p

/-- The virtual ranges that a descriptor of the queues reads in memory: address and bytes (R309, R310). -/
def descVaSrc (d : Desc) : List (Nat × Nat) :=
  if d.kind = 1 ∧ d.w 0 13 13 = 0 then
    (List.range (d.w 0 63 40)).map (fun r => (d.w 1 54 0 + r * d.w 3 31 0, d.w 0 39 16))
  else if d.kind = 2 ∧ d.w 0 13 13 = 0 then [(d.w 1 54 0, d.w 0 45 16 + 1)]
  else []

/-- The virtual ranges that a descriptor of the queues writes in memory: address and bytes (R309, R310). -/
def descVaDst (d : Desc) : List (Nat × Nat) :=
  if d.kind = 1 ∧ d.w 0 14 14 = 0 then
    (List.range (d.w 0 63 40)).map (fun r => (d.w 2 54 0 + r * d.w 3 63 32, d.w 0 39 16))
  else if d.kind = 3 ∧ d.w 0 13 13 = 0 then [(d.w 1 54 0, d.w 0 45 16 + 1)]
  else if d.kind = 6 ∧ d.w 0 13 13 = 0 then [(d.w 2 54 0, 8)]
  else []

/-- A descriptor of the queues reads or writes the page of a move. -/
def descOnPage (s : State) (d : Desc) (m : KvMove) : Bool :=
  (descVaSrc d ++ descVaDst d).any (fun r => onPage s m d.job r.1 r.2)

/-- A move in progress holds an access of the descriptor (R283, R295). -/
def descMoving (s : State) (d : Desc) : Bool := s.mmu.moves.any (descOnPage s d)

/-- The opens among stopped descriptors that wait for a frame wait no more (R294). -/
def dropWaits (s : State) (l : List Desc) : State :=
  each (l.filter (fun d => decide (d.kind = 5 ∧ d.w 0 56 54 = 0 ∧ d.left = 1))) (fun s d => waitLess s (wPool (winWords s (kvWindow d)))) s

/-! ### The abort of one task (R330, R132) -/

/-- A map without the entries of a job slot, where `n` keys belong to each slot. -/
def dropSlot {α : Type} (n : Nat) (sl : Slot) (m : SMap α) : SMap α := m.filter (fun p => p.1 / n != slotIdx sl)

/-- The sampled tiles of a job slot in an array that no TDRAIN has ended, those whose first TSTREAM waits or runs among them
(R222, R228). -/
def shdCount (a : ArrSt) (sl : Slot) : Nat :=
  (a.shd.filter (fun p => p.1 / 2 == slotIdx sl)).length +
  ((a.queue ++ a.run.map (·.cmd)).filter (fun q => decide (q.slot = sl) && q.tile.isSome)).length

/-- The sampled tiles of a job slot on a core. -/
def coreTiles (k : CoreSt) (sl : Slot) : Nat := ((List.range 8).map (fun a => shdCount (mget ArrSt.init k.arr a) sl)).sum

/-- The weights of a job slot are undefined. -/
def lostWeights (sl : Slot) (m : SMap (Option Tile)) : SMap (Option Tile) :=
  (List.range 4).foldl (fun m i => mset (some Tile.zero) m (4 * slotIdx sl + i) none) m

/-- An array after a task of slot `sl` aborts: its commands are gone, and its weights and banks are undefined (R132). -/
def abortArr (sl : Slot) (a : ArrSt) : ArrSt :=
  { queue := a.queue.filter (fun q => decide (q.slot ≠ sl))
    run := a.run.filter (fun r => decide (r.cmd.slot ≠ sl))
    shadow := lostWeights sl a.shadow
    active := lostWeights sl a.active
    banks := mset Bank.init (mset Bank.init a.banks (2 * slotIdx sl) ⟨true, []⟩) (2 * slotIdx sl + 1) ⟨true, []⟩
    shd := dropSlot 2 sl a.shd
    fed := a.fed.filter (fun p => p.1 % 2 != slotIdx sl)
    sent := mset 0 a.sent (slotIdx sl) 0 }

/-- An event record is on its way to the operation table (R208), where it holds anything. -/
def sendRec (s : State) (r : NumRec) : State :=
  if r.elements + r.zeros + r.flushed + r.saturated + r.nan + r.inf = 0 ∧ r.max = none then s
  else { s with num := { s.num with recs := s.num.recs ++ [r] } }

/-- What the pages of a stopped KV read have counted is filed as its one record (log entry 149). -/
def sendPart (s : State) (d : Desc) : State :=
  match d.part with
  | none => s
  | some r => sendRec s r

/-- The context that a descriptor in flight uses: puts, gets and remote flag writes (R310, R311). -/
def Desc.ctx (d : Desc) : Option Nat :=
  if d.kind = 2 ∨ d.kind = 3 then some (d.w 0 61 46)
  else if d.kind = 6 ∧ d.w 0 13 13 = 1 then some (d.w 0 31 16)
  else none

/-- The outputs of every page of a KV read, in the KV working region: local offset and bytes (R245, R246, R248). -/
def kvDst (s : State) (c : Nat) (d : Desc) : List (Nat × Nat) :=
  let reg := kvRegion s c d.slot
  if d.kind = 4 then
    (List.range (d.w 0 53 49)).flatMap (fun i =>
      let p := parsePage (rdBytes s (pdAddr (winWords s (kvWindow d)) (d.w 0 48 27 + i)) 64)
      if pageFmt p.fmt && decide (p.dcode ≠ 3) then
        (kvOutputs d p i).filter (fun o => decide (reg.1 ≤ o.1 ∧ o.1 + o.2 ≤ reg.2))
      else [])
  else []

/-- The destinations of a stopped descriptor that has started hold undefined bytes, a KV read's outputs among them (R248, R330,
item 4; log entry 21). -/
def scribbleDesc (c : Nat) (s : State) (d : Desc) : State :=
  each (descVaDst d) (fun s r => scribbleVa c d.job s r.1 r.2)
    (each (descLocalDst d ++ kvDst s c d) (fun s r => scribble s (sramBase c + r.1) r.2) s)

/-- A stopped owner sends no more: its packets that wait are gone, and those not acknowledged belong to nobody and are
never sent again (R330, items 2 and 3). -/
def orphan (s : State) (own : Owner → Bool) : State :=
  let f (k : CtxSt) : CtxSt := { k with
    queue := k.queue.filter (fun u => !own u.owner)
    unacked := k.unacked.map (fun u => if own u.owner then { u with owner := .none } else u) }
  { s with xpt := { s.xpt with ctxs := mmap CtxSt.init f s.xpt.ctxs } }

/-- A descriptor of a list owns the packet. -/
def ownedBy (c : Nat) (l : List Desc) : Owner → Bool
  | .dma c' id => c' == c && l.any (fun d => d.id == id)
  | _ => false

/-- The owner has packets of the context that are not acknowledged, or that wait to be sent. -/
def ownsPackets (k : CtxSt) (own : Owner → Bool) : Bool :=
  k.unacked.any (fun u => own u.owner) || k.queue.any (fun u => own u.owner)

/-- Each ready RoCEv2 context on which the owner has a message partly sent enters the error state with a code (R330, item 5;
log entry 20: a message is partly sent until it is acknowledged). -/
def errCtxs (s : State) (own : Owner → Bool) (code : Nat) : State :=
  each (s.xpt.ctxs.filter (fun p => ownsPackets p.2 own)) (fun s p =>
    if flag s .xptCtx0_type p.1 && flag s .xptCtx0_valid p.1 && decide (get s .xptCtx0_state p.1 = 1) then
      put (put s .xptCtx0_state 2 p.1) .xptCtx0_code code p.1
    else s) s

/-- The abort of the running task of a job slot, without what follows for its collectives. -/
def abortOne (s : State) (c : Nat) (sl : Slot) (code : Nat) : State :=
  match (slotOf s c sl).task with
  | none => s
  | some t =>
    let mine := (coreOf s c).flight.filter (fun d => decide (d.slot = sl))
    let s1 := errCtxs s (ownedBy c mine) code
    let s2 := each mine sendPart (each mine (scribbleDesc c) (orphan (dropWaits s1 mine) (ownedBy c mine)))
    let k := dropQueued (coreOf s2 c) sl
    let k1 := { k with
      flight := k.flight.filter (fun d => decide (d.slot ≠ sl))
      arr := (List.range 8).foldl
        (fun m a => mset ArrSt.init m a (abortArr sl (mget ArrSt.init m a))) k.arr }
    let lost := coreTiles k sl
    let s3 := setCore (bump s2 .numShdTiles_discarded lost) c (k1.setSlot sl { k1.slot sl with task := none })
    let hs := s3.mmu.holders.filter (fun h => !(decide (h.2.2.1 = c) && mine.any (fun d => d.id == h.2.2.2)))
    let s4 := { s3 with mmu := { s3.mmu with holders := hs } }
    put (put s4 .coreStat_last_abort code c) .coreStat_last_abort_job t.launch.job c

/-! ### Collectives (R369, R370) -/

def tState (s : State) (slot : Nat) : Nat := get s .colTlive0_state slot

def isArmed (s : State) (slot : Nat) : Bool := tState s slot == 1

/-- The templates whose slots are armed, in ascending slot order of the section. -/
def armedTemplates (s : State) : List ChainRec := (strOf s 5).chains.filter (fun r => isArmed s r.slot)

/-- The armed templates of one collective: a job, a collective number and a step tag (R369). -/
def ofColl (s : State) (job coll step : Nat) : List ChainRec :=
  (armedTemplates s).filter (fun r => tJob r == job && tColl r == coll && get s .colTlive1_step r.slot == step)

/-- The template holds a trigger or gate counter on core `c`. -/
def holdsOn (r : ChainRec) (c : Nat) : Bool := tTcore r == c || (tGateEn r && tGcore r == c)

/-- The cores that hold a trigger or gate counter of the templates. -/
def coresOf (l : List ChainRec) : List Nat :=
  (l.flatMap (fun r => if tGateEn r then [tTcore r, tGcore r] else [tTcore r])).eraseDups

/-- The slot returns to idle (R370). -/
def disarm (s : State) (slot : Nat) : State := put s .colTlive0_state 0 slot

/-- A drop list entry for the failed collective: the lowest free one, or the automatic one written longest ago
(R370). -/
def dropListIdx (s : State) : Option Nat :=
  match (List.range 16).find? (fun n => !flag s .colDl_valid n) with
  | some n => some n
  | none =>
    ((List.range 16).filter (fun n => flag s .colDl_auto n)).foldl
      (fun b n => match b with
        | none => some n
        | some m => if mget 0 s.col.autoAt n < mget 0 s.col.autoAt m then some n else some m) none

/-- What has come of a message; nothing where none of its packets has (R328, R363). -/
def msgPart (s : State) (key : List Nat) : PartMsg :=
  (s.xpt.parts.find? (fun m => decide (m.key = key))).getD ⟨key, 0, none, false⟩

def setPart (s : State) (m : Option PartMsg) (key : List Nat) : State :=
  let rest := s.xpt.parts.filter (fun m => decide (m.key ≠ key))
  { s with xpt := { s.xpt with parts := rest ++ m.toList } }

/-- A packet with `n` bytes of a message has come, and tells the message's length or not: the message is forgotten once all of it
has come. Answers whether it has (R328, R363). -/
def notePart (s : State) (key : List Nat) (len : Option Nat) (n : Nat) (refused : Bool) : State × Bool :=
  let m := msgPart s key
  let m1 : PartMsg := ⟨key, m.got + n, if len.isSome then len else m.len, m.refused || refused⟩
  let all := match m1.len with
    | none => false
    | some l => decide (l ≤ m1.got)
  (setPart s (if all then none else some m1) key, all)

/-- What has arrived of the messages of a collective that the drop list names is forgotten: they never complete (R364, R371). -/
def dropParts (s : State) (job coll step : Nat) : State :=
  { s with xpt := { s.xpt with parts := s.xpt.parts.filter (fun m => decide (m.key.take 4 ≠ [1, job, coll, step])) } }

def writeDropList (s0 : State) (job coll step : Nat) : State :=
  let s := dropParts s0 job coll step
  match dropListIdx s with
  | none => s
  | some n =>
    let s1 := put (put (put (put (put s .colDl_job job n) .colDl_coll coll n) .colDl_step step n) .colDl_auto 1 n)
      .colDl_valid 1 n
    { s1 with col := { s1.col with autoAt := mset 0 s1.col.autoAt n (s1.col.autoN + 1), autoN := s1.col.autoN + 1 } }

/-- The record of the first failure since clearing, and its event (R370). -/
def recordFail (s : State) (slot job coll step code cause : Nat) : State :=
  let s1 := if flag s .colFail0_valid then s else
    let s2 := put (put (put (put (put (put s .colFail0_slot slot) .colFail0_job job) .colFail0_coll coll)
      .colFail0_code code) .colFail0_cause cause) .colFail0_valid 1
    put (put s2 .colFail1_step step) .colFail1_fires_done
      (if slot = 0xFFFF then 0 else get s2 .colTlive0_done slot)
  logEvt s1 0x030 5 job step coll code

/-- The packet belongs to one of the fires. -/
def ownedByFire (l : List Fire) : Owner → Bool
  | .fire id => l.any (fun f => f.id == id)
  | _ => false

/-- The slot of a core that a job holds. -/
def slotOfJob (s : State) (c job : Nat) : Option Slot :=
  if (slotGroup s c .prim).isSome && jobIn s c .prim == job then some .prim
  else if (slotGroup s c .fill).isSome && jobIn s c .fill == job then some .fill
  else none

/-- The destination of collective data of a job may take it, translation apart: the job's core and counter, and a local range
inside the job's split of the core (R362, R467). -/
def dstOk (s : State) (job core dtc : Nat) (va : Bool) (dst n : Nat) : Bool :=
  decide (core < 192) && coreOfJob (coreStr s core) core job && tcOwner s core dtc == job && fnReady s (coreFn core) &&
  (n == 0 || va || (match slotOfJob s core job with
    | none => false
    | some sl => inSplit s core sl dst n))

/-- Where the source of a fire lies in this module's memory, where it is in it. -/
def fireAt (s : State) (r : ChainRec) (a : Nat) : Option Nat :=
  if !tSrcVa r then some (sramBase (tTcore r) + a)
  else match xlat s (tTcore r) (tJob r) (redirect s (tJob r) a false) false false with
    | .here o => some o
    | _ => none

/-- The length of the message of fire `k` (R357): that of its count where len_ind is 1, and none where the count is no good. -/
def fireLen (s : State) (r : ChainRec) (k : Nat) : Nat :=
  if !tLenInd r then tLength r
  else match fireAt s r (fireSrc r k) with
    | none => 0
    | some o =>
      let v := rdNat s o 8
      if v % 8 ≠ 0 ∨ 2 ^ 32 ≤ v ∨ tLength r < 8 + v then 0 else 8 + v

/-- The destination in this package of a stopped fire that is not done holds undefined bytes (R330, item 4; R370): one that R362
refuses takes nothing, and stays as it was. -/
def scribbleFire (s : State) (f : Fire) : State :=
  match template s f.slot with
  | none => s
  | some r =>
    let n := fireLen s r f.k
    if f.done || tCtx r != 0xFFFF || tAction r != 0 || !dstOk s (tJob r) (tDcore r) (tDtc r) (tDstVa r) (fireDst r f.k) n then s
    else if tDstVa r then scribbleVa (tDcore r) (tJob r) s (fireDst r f.k) n
    else scribble s (sramBase (tDcore r) + fireDst r f.k) n

/-- The abnormal end of one collective, without what its aborted tasks bring about: its slots idle, its fires stop, those of its step
tag, a drop list entry and a record are written, and its job's running tasks on the cores that hold its counters abort. Answers
those cores. -/
def endOne (s : State) (slot job coll step code cause : Nat) : State × List Nat :=
  let l := ofColl s job coll step
  let slots := l.map (·.slot)
  let s1 := recordFail s slot job coll step code cause
  let s2 := each slots disarm s1
  let ours (f : Fire) : Bool := slots.contains f.slot && f.step == step
  let mine := s2.col.fires.filter ours
  let s3 := orphan (errCtxs (each mine scribbleFire s2) (ownedByFire mine) code) (ownedByFire mine)
  let s4 := writeDropList { s3 with col := { s3.col with fires := s3.col.fires.filter (fun f => !ours f) } } job coll step
  let cs := coresOf l
  (each cs (fun s c => each [Slot.prim, Slot.fill]
    (fun s sl => if slotJob s c sl = some job then abortOne s c sl code else s) s) s4, cs)

/-- Every armed collective of a job with a counter on one of the cores ends with a task's code; their aborted tasks may
end more. `n` bounds the collectives still armed. -/
def endOnCores : Nat → State → Nat → Nat → List Nat → State
  | 0, s, _, _, _ => s
  | n + 1, s, job, code, cs =>
    match (armedTemplates s).find? (fun r => tJob r == job && cs.any (holdsOn r)) with
    | none => s
    | some r =>
      let e := endOne s 0xFFFF job (tColl r) (get s .colTlive1_step r.slot) code 2
      endOnCores n e.1 job code (cs ++ e.2)

/-- A transfer of a KV page's move fails with a code (R297). -/
def failMove (s : State) (w page code : Nat) : State :=
  { s with mmu := { s.mmu with moves := s.mmu.moves.map (fun m =>
      if m.window = w ∧ m.page = page ∧ m.fail = none then { m with fail := some code } else m) } }

/-- Ends a collective, and the collectives that its aborted tasks end. -/
def endColl (s : State) (slot job coll step code cause : Nat) : State :=
  let e := endOne s slot job coll step code cause
  endOnCores (armedTemplates e.1).length e.1 job code e.2

/-- Aborts a task, and ends its job's collectives with a counter on the core (R369). -/
def abortOnCore (s : State) (c : Nat) (sl : Slot) (code : Nat) : State :=
  match slotJob s c sl with
  | none => s
  | some job =>
    let s1 := abortOne s c sl code
    endOnCores (armedTemplates s1).length s1 job code [c]

/-- The first descriptor of a core that is in flight on a context in the error state, with the context's code (R324). -/
def strandedDesc (s : State) : Option (Nat × Desc × Nat) :=
  (s.xpt.ctxs.filter (fun p => get s .xptCtx0_state p.1 == 2 && decide (p.1 < 65536))).findSome? (fun p =>
    s.cores.findSome? (fun k => (k.2.flight.find? (fun d => decide (d.ctx = some p.1) ||
      ownsPackets p.2 (fun o => decide (o = .dma k.1 d.id)))).map (fun d => (k.1, d, get s .xptCtx0_code p.1))))

/-- The first owner, other than a descriptor, of packets of a context in the error state. -/
def strandedOther (s : State) : Option (Owner × Nat) :=
  (s.xpt.ctxs.filter (fun p => get s .xptCtx0_state p.1 == 2 && decide (p.1 < 65536))).findSome? (fun p =>
    ((p.2.unacked ++ p.2.queue).find? (fun u => match u.owner with
      | .fire _ => true
      | .move _ _ => true
      | _ => false)).map (fun u => (u.owner, get s .xptCtx0_code p.1)))

/-- The first failing descriptor is recorded in `DMA_ERR0` and `DMA_ERR1` (R330). -/
def recordDesc (s : State) (c : Nat) (d : Desc) (code addr : Nat) : State :=
  if flag s .dmaErr0_valid c then s
  else
    let s1 := put (put (put (put s .dmaErr0_queue d.q c) .dmaErr0_kind d.kind c) .dmaErr0_code code c)
      .dmaErr0_job d.job c
    put (put (put s1 .dmaErr0_filler (bit (decide (d.slot = .fill))) c) .dmaErr0_valid 1 c) .dmaErr1_addr addr c

/-- A fire that has failed is no more in flight. -/
def dropFire (s : State) (id : Nat) : State := { s with col := { s.col with fires := s.col.fires.filter (fun x => x.id != id) } }

/-- What R324 brings about while a context is in the error state: the task of each descriptor in flight on it aborts with
its code, and so do fires and moves on it. The first argument bounds the tasks, fires and moves. -/
def settle : Nat → State → State
  | 0, s => s
  | n + 1, s =>
    match strandedDesc s with
    | some (c, d, code) => settle n (abortOnCore (recordDesc s c d code (descAddr d)) c d.slot code)
    | none => match strandedOther s with
      | some (.fire id, code) =>
        let s1 := orphan s (fun o => decide (o = .fire id))
        match s.col.fires.find? (fun f => f.id == id) with
        | none => settle n s1
        | some f => match template s f.slot with
          | none => settle n s1
          | some r => settle n (dropFire (endColl s1 f.slot (tJob r) (tColl r) f.step code 1) id)
      | some (.move w p, code) => settle n (orphan (failMove s w p code) (fun o => decide (o = .move w p)))
      | _ => s

/-- The bound of `settle`: every task, fire and move ends once. -/
def settleBound (s : State) : Nat := 2 * s.cores.length + s.col.fires.length + s.mmu.moves.length + 1

/-- A collective ends abnormally with all that follows (R369, R370). -/
def endCollective (s : State) (slot job coll step code cause : Nat) : State :=
  settle (settleBound s) (endColl s slot job coll step code cause)

/-- The abort of a task with all that follows: its job's collectives with a counter on the core end (R369). -/
def abortTask (s : State) (c : Nat) (sl : Slot) (code : Nat) : State :=
  settle (settleBound s) (abortOnCore s c sl code)

/-- The running tasks of a job on core `c` abort. -/
def abortJobOn (s : State) (c job code : Nat) : State :=
  each [Slot.prim, Slot.fill] (fun s sl => if slotJob s c sl = some job then abortTask s c sl code else s) s

/-- A descriptor fails: it is recorded and its task aborts (R330). -/
def failDesc (s : State) (c : Nat) (d : Desc) (code addr : Nat) : State :=
  abortTask (recordDesc s c d code addr) c d.slot code

end Sys2Proof.Machine
end

