-- ==== Sys2Proof/Machine/Ports.lean ====
section
/-!
DEFINITION. Ports and places: the port numbers of R400, the variant's ports (R4), the wiring rules (R15, R19, R20) and the
place of a module (spec/01_machine_levels.md).
-/
namespace Sys2Proof.Machine

def isTray (p : Nat) : Bool := decide (p < 12)
def isRack (p : Nat) : Bool := decide (16 ≤ p ∧ p < 30)
def isGlobal (p : Nat) : Bool := decide (32 ≤ p ∧ p < 36)
def isFront (p : Nat) : Bool := decide (40 ≤ p ∧ p < 47)
/-- A Molind port: tray or rack. -/
def isMolind (p : Nat) : Bool := isTray p || isRack p
/-- A port that carries Molind transport packets between modules. -/
def isModulePort (p : Nat) : Bool := isTray p || isRack p || isGlobal p

/-- The I/O die that carries a port (R476). -/
def portDie (p : Nat) : Nat :=
  if p < 8 then 0 else if p < 12 then 1 else if p < 24 then 2 else if p < 30 then 3
  else if p < 36 then 4 else if p < 42 then 1 else if p = 42 then 3 else 5

/-- The port exists in the variant (R4, R400). -/
def portPresent (s : State) (p : Nat) : Bool :=
  (isTray p || isRack p || isGlobal p || isFront p) && decide (portDie p < variantIoDies s.fuses.variant)

/-- The connector lane of lane 0 of a port (R476): on J2 where the first is true. -/
def portBase (p : Nat) : Bool × Nat :=
  if p < 12 then (false, 4 * p)
  else if p < 24 then (false, 64 + 4 * (p - 16))
  else if p < 30 then (true, 4 * (p - 24))
  else if p < 36 then (true, 32 + 8 * (p - 32))
  else if p < 42 then (false, 48 + 8 * (p - 40))
  else if p = 42 then (true, 24)
  else (true, 64 + 8 * (p - 43))

/-- The lanes of a port: 4 on tray and rack ports, 8 on the others. -/
def portLanes (p : Nat) : Nat := if isMolind p then 4 else 8

/-- The port and its lane on a lane of J1, or of J2 where `j2` is true (R476). A lane of an absent I/O die is not connected (R475). -/
def laneAt (s : State) (j2 : Bool) (lane : Nat) : Option (Nat × Nat) :=
  ((List.range 48).find? (fun p => portPresent s p && (portBase p).1 == j2 &&
    decide ((portBase p).2 ≤ lane ∧ lane < (portBase p).2 + portLanes p))).map (fun p => (p, lane - (portBase p).2))

/-- The port group number of a region's ports field: 0 tray, 1 rack, 2 global, 3 front (R325). -/
def portGroup (p : Nat) : Nat := if isTray p then 0 else if isRack p then 1 else if isGlobal p then 2 else 3

/-- `LNK_PpSTAT.state`: 0 down, 1 training, 2 held, 3 in service, 4 low-power idle, 5 retraining. -/
def lnkState (s : State) (p : Nat) : Nat := get s .lnkPstat_state p

/-- The port carries traffic, or will when a lane retrain or a wake ends (R404, R412). -/
def inService (s : State) (p : Nat) : Bool := portPresent s p && decide (3 ≤ lnkState s p ∧ lnkState s p ≤ 5)

/-- The ports of the variant that are enabled and not in a pattern test start to train (14, "Training and negotiation"). -/
def trainAll (s : State) : State :=
  each (List.range 48) (fun s p => if portPresent s p && flag s .lnkPctl_en p && !flag s .lnkPctl_prbs p then
    put s .lnkPstat_state 1 p else s) s

/-! ### Places -/

/-- Group, tray and slot. -/
structure Place where
  group : Nat
  tray  : Nat
  slot  : Nat
  deriving DecidableEq, Repr

def Place.number (p : Place) : Nat := 32 * p.group + 4 * p.tray + p.slot
def Place.position (p : Place) : Nat := 4 * p.tray + p.slot
def placeOfNumber (m : Nat) : Place := ⟨m / 32, (m / 4) % 8, m % 4⟩

def ownPlace (s : State) : Place := ⟨get s .ctlPlace_group, get s .ctlPlace_tray, get s .ctlPlace_slot⟩
def placed (s : State) : Bool := flag s .ctlPlace_placed
/-- The number of groups of the machine. -/
def groupsN (s : State) : Nat := get s .ctlPlace_groups_m1 + 1
def ownModule (s : State) : Nat := (ownPlace s).number

/-- The place that the wiring rules give for the far end of a port (R15, R19, R20); none where the port is not wired. -/
def peerPlace (me : Place) (n p : Nat) : Option Place :=
  if isTray p then some ⟨me.group, me.tray, (me.slot + (p / 4 + 1)) % 4⟩
  else if isRack p then some ⟨me.group, (me.tray + ((p - 16) / 2 + 1)) % 8, me.slot⟩
  else if isGlobal p then
    if n < 2 then none
    else
      let l := 4 * me.position + (p - 32)
      let k := 128 / (n - 1)
      if l < k * (n - 1) then
        let g := (me.group + l % (n - 1) + 1) % n
        let far := (n - 2 - l % (n - 1)) + (n - 1) * (l / (n - 1))
        some ⟨g, far / 4 / 4, (far / 4) % 4⟩
      else none
  else none

/-- The port at the far end (R15, R19, R20). -/
def peerPort (me : Place) (n p : Nat) : Nat :=
  if isTray p then 4 * (2 - p / 4) + p % 4
  else if isRack p then 16 + 2 * (6 - (p - 16) / 2) + (p - 16) % 2
  else
    let l := 4 * me.position + (p - 32)
    32 + ((n - 2 - l % (n - 1)) + (n - 1) * (l / (n - 1))) % 4

/-- The ports of a striped entry: the first and its further consecutive ones. -/
def stripe (port more : Nat) : List Nat := (List.range (more + 1)).map (fun i => port + i)

end Sys2Proof.Machine
end

