-- ==== Sys2Proof/Machine/Tide.lean ====
section
/-!
DEFINITION. The tide unit (spec/02_tide.md): the counter and its discipline, release times, slot clocks, named epochs and
eclipse. What happens inside an epoch boundary stands in Epoch.lean.
-/
namespace Sys2Proof.Machine

/-! ### Numbers of fixed width -/

/-- A field of `w` bits read as signed. -/
def signedOf (w n : Nat) : Int := if n < 2 ^ (w - 1) then (n : Int) else (n : Int) - (2 ^ w : Nat)

/-- A signed number as a field of `w` bits. -/
def toField (w : Nat) (n : Int) : Nat := (n % ((2 ^ w : Nat) : Int)).toNat

/-- A number held between two bounds. -/
def clampInt (lo hi n : Int) : Int := if n < lo then lo else if hi < n then hi else n

/-! ### The counter (R28 to R30) -/

/-- One tide clock: the accumulator adds 1 ns plus the frequency correction. -/
def tickTime (t : TimeSt) : TimeSt :=
  let x : Int := (t.tide : Int) * 4294967296 + t.frac + 4294967296 + t.freq
  { t with tide := (x / 4294967296).toNat % 2 ^ 64, frac := (x % 4294967296).toNat, ticks := t.ticks + 1 }

/-- The watchdog timers of armed slots whose job is in eclipse stand still (R368): their starts move with the clock. -/
def pauseTimers (c : ColSt) (slots : List Nat) : ColSt :=
  { c with
    armAt := slots.foldl (fun m i => mset 0 m i (mget 0 m i + 1)) c.armAt
    fires := c.fires.map (fun f => if slots.contains f.slot then { f with start := f.start + 1 } else f) }

/-- The armed slots whose job is in eclipse. -/
def pausedSlots (s : State) : List Nat := ((armedTemplates s).filter (fun r => eclipsed s (tJob r))).map (·.slot)

/-- The correction's range of 200 ppm in units of 2^-32 ns per ns (R30). -/
def freqRange : Int := 858993

/-! ### Slot clocks (R46) -/

/-- The tide whose scheduled actions take effect by now: an action for tide T takes effect at T + 16 ns (R32). -/
def effTide (s : State) : Nat := s.time.tide - 16

def slotEn (s : State) (k : Nat) : Bool := flag s .tideSlot_en k

/-- The period: values outside 8 to 24 are treated as 16. -/
def slotPeriod (s : State) (k : Nat) : Nat :=
  let p := get s .tideSlot_period_log2 k
  if 8 ≤ p ∧ p ≤ 24 then 2 ^ p else 2 ^ 16

/-- The last boundary of slot clock `k` at or before tide `t`; none before the first that counts. -/
def lastSlot (s : State) (k t : Nat) : Option Nat :=
  let p := slotPeriod s k
  let f := get s .tideSlot_phase k % p
  let b := t - (t - f) % p
  if t < f ∨ b < mget 0 s.time.slotFrom k then none else some b

/-- The boundaries of slot clock `k` count from a tide on, and none of them has been seen. -/
def slotsFrom (s : State) (k t : Nat) : State :=
  { s with time := { s.time with slotFrom := mset 0 s.time.slotFrom k t, slotAt := mset 0 s.time.slotAt k 0 } }

/-- Boundaries that a step passes over are not seen: the first that counts is the first after the step (R40). -/
def stepSlots (s : State) : State := each (List.range 8) (fun s k => slotsFrom s k (s.time.tide + 1)) s

/-- A boundary that has been reached and not seen. -/
def slotDue (s : State) (k : Nat) : Option Nat :=
  if slotEn s k then
    match lastSlot s k (effTide s) with
    | none => none
    | some b => if mget 0 s.time.slotAt k < b + 1 then some b else none
  else none

/-! ### Guard and release (R43 to R45, R50) -/

def guardNs (s : State) : Nat := 256 * max 1 (get s .tideCtl_guard)

/-- What the test of a release tide answers. -/
inductive Release where
  | onTime | late | refused
  deriving DecidableEq, Repr

/-- A release tide tested at the tide of now (R44, R45); zero means none. -/
def releaseTest (s : State) (rel : Nat) : Release :=
  if rel = 0 then .onTime
  else if rel ≤ s.time.tide then
    if rel = s.time.tide then .onTime
    else if s.time.tide - rel ≤ 1000 * get s .tideCtl_late_window then .late
    else .refused
  else if rel - s.time.tide > 2 ^ max 16 (get s .tideCtl_max_ahead_log2) then .refused
  else .onTime

/-- The test counted (R44, R45). -/
def countRelease (s : State) (r : Release) : State :=
  match r with
  | .onTime => s
  | .late => bump s .tideCnt_late_release
  | .refused => bump s .tideCnt_release_refused

/-- The release tide has come (R32, R43), and every epoch boundary up to it has been taken, since what applies there
applies first (R51). -/
def released (s : State) (rel : Nat) : Bool := decide (rel ≤ effTide s) && decide (rel / 65536 ≤ s.time.lastEpoch)

/-! ### Named epochs and eclipse (R48 to R56) -/

/-- The scope's number: a job, or the module. -/
def scopeId (job : Nat) (modWide : Bool) : Nat := if modWide then modScope else job

def namedOf (s : State) (sc : Nat) : Option NamedEpoch := mget none s.time.named sc

def setNamed (s : State) (sc : Nat) (n : Option NamedEpoch) : State :=
  { s with time := { s.time with named := mset none s.time.named sc n } }

/-- `TIDE_APPLY.arm` clears where the register shows this scope. -/
def clearArm (s : State) (sc : Nat) : State :=
  if scopeId (get s .tideApply_job) (flag s .tideApply_scope) = sc then put s .tideApply_arm 0 else s

/-- Held marks are for one named epoch (R50): they go when that epoch is replaced, cancelled or applied. -/
def clearHeld (s : State) (sc : Nat) : State :=
  { s with
    time := { s.time with shadows := s.time.shadows.map (fun h => if h.scope = sc then { h with held := false } else h) }
    shp := { s.shp with pend := s.shp.pend.map (fun p => if p.scope = sc then { p with held := false } else p) } }

/-- The job field of a scope's registers and events; 0 for the module. -/
def scopeJob (sc : Nat) : Nat := if sc = modScope then 0 else sc

/-- Eclipse begins under R53: it is recorded and logged. -/
def beginEclipse (s : State) (sc epoch : Nat) : State :=
  let s1 := { s with time := { s.time with eclipse := (sc :: s.time.eclipse).eraseDups } }
  let s2 := put s1 .tideEclipse_active 1
  logEvt (clearArm s2 sc) 0x012 0 (scopeJob sc) 0 epoch (bit (decide (sc = modScope)))

/-- An epoch is named for a scope (R48, R49), late or not (R53). -/
def nameEpoch (s : State) (sc epoch : Nat) : State :=
  let s0 := clearHeld s sc
  if s.time.tide + guardNs s ≤ 65536 * epoch then setNamed s0 sc (some ⟨epoch, false⟩)
  else
    let s1 := bump s0 .tideCnt_late_apply
    let s2 := put (put (put s1 .tideEclipse_missed_epoch epoch) .tideEclipse_job (scopeJob sc))
      .tideEclipse_module_wide (bit (decide (sc = modScope)))
    if s.time.tide < 65536 * epoch then setNamed s2 sc (some ⟨epoch, true⟩)
    else beginEclipse (setNamed s2 sc none) sc epoch

/-- The epoch named for a scope is cancelled (R48). -/
def cancelEpoch (s : State) (sc : Nat) : State := setNamed (clearHeld s sc) sc none

/-- A write of `TIDE_APPLY`. -/
def applyWrite (s : State) (epoch job : Nat) (modWide arm : Bool) : State :=
  let s1 := put (put (put (put s .tideApply_epoch epoch) .tideApply_job job) .tideApply_scope (bit modWide))
    .tideApply_arm (bit arm)
  if arm then nameEpoch s1 (scopeId job modWide) epoch else cancelEpoch s1 (scopeId job modWide)

/-- TIDE_APPLY_ARM (R48, R49, R53). -/
def execTideApplyArm (epoch : BitVec 48) (job : BitVec 12) (scope : Bool) (s : State) :
    Host.Outcome State Fault Refusal :=
  .next (onlyIf (fn0Up s) (fun s => applyWrite s epoch.toNat job.toNat scope true) s)

/-- TIDE_APPLY_CANCEL (R48): a write with arm 0. -/
def execTideApplyCancel (epoch : BitVec 48) (job : BitVec 12) (scope : Bool) (s : State) :
    Host.Outcome State Fault Refusal :=
  .next (onlyIf (fn0Up s) (fun s => applyWrite s epoch.toNat job.toNat scope false) s)

/-- Whether a shadow written now is inside the guard of the epoch named for its scope (R50). R50 speaks of writes before the epoch; that
one which comes between the boundary and its apply 16 ns later (R32) is inside the guard too, and that a write of `TIDE_APPLY` still
replaces or cancels the epoch there, is the model's choice (log entry 178). -/
def insideGuard (s : State) (sc : Nat) : Bool :=
  match namedOf s sc with
  | none => false
  | some n => !n.late && decide (65536 * n.epoch < s.time.tide + guardNs s)

/-- A write of an RWE field goes into its shadow (R47, R50). -/
def shadowWrite (s : State) (sc : Nat) (f : Fld) (i v : Nat) : State :=
  let keep := s.time.shadows.filter (fun h => !(decide (h.fld = f) && h.idx == i))
  { s with time := { s.time with shadows := keep ++ [⟨sc, f, i, v % 2 ^ f.width, insideGuard s sc⟩] } }

/-- What an RWE field reads as: the value last written (R7). -/
def lastWritten (s : State) (f : Fld) (i : Nat) : Nat :=
  match s.time.shadows.find? (fun h => decide (h.fld = f) && h.idx == i) with
  | some h => h.val
  | none => get s f i

/-! ### Steps and the discipline loop (R33 to R41) -/

/-- `TIDE_STAT.offset`: whole ns of an offset given in quarters of a ns, saturating. -/
def showOffset (q : Int) : Nat := toField 16 (clampInt (-32767) 32767 (Int.tdiv q 4))

/-- The tide moved by a number of quarters of a ns, at once. -/
def shiftTide (t : TimeSt) (q : Int) : TimeSt :=
  let x : Int := (t.tide : Int) * 4294967296 + t.frac + q * 1073741824
  { t with tide := (x / 4294967296).toNat % 2 ^ 64, frac := (x % 4294967296).toNat }

/-- The tide set to a value. -/
def setTide (t : TimeSt) (v : Nat) : TimeSt := { t with tide := v % 2 ^ 64, frac := 0 }

/-- The states of `TIDE_STAT.state` (R39). -/
def tideState (s : State) : Nat := get s .tideStat_state

/-- A step may move the tide (R40). -/
def mayStep (s : State) : Bool := !anyResident s && decide (tideState s ≤ 1)

/-- Entry into holdover: counted in `TIDE_CNT.sync_lost` (R39). -/
def enterHoldover (s : State) : State :=
  let s1 := bump (put s .tideStat_state 3) .tideCnt_sync_lost
  { s1 with time := { s1.time with near := 0, far := 0 } }

/-- The sync lost event of R38. -/
def logSyncLost (s : State) : State :=
  logEvt s 0x010 0 0 0 (get s .tideStat_depth) (get s .tideSync_parent_port)

/-- The follower enters holdover and logs the loss of sync (R38; log entry 48: from acquiring as well). -/
def loseSync (s : State) : State :=
  if tideState s = 1 ∨ tideState s = 2 then logSyncLost (enterHoldover s) else s

/-- The ports that parent_port can name: T0 to T11, K0 to K13 and G0 to G3. Other values are treated as none (the table of
`TIDE_SYNC`). -/
def parentNames (p : Nat) : Bool := decide (p ≤ 11) || decide (16 ≤ p ∧ p ≤ 29) || decide (32 ≤ p ∧ p ≤ 35)

/-- The tide follows the link of this port (R33, R38). -/
def isParent (s : State) (p : Nat) : Bool :=
  decide (get s .tideCtl_sync_src = 4) && decide (get s .tideSync_parent_port = p) && parentNames p

/-- The frequency that the loop sets after a measurement, within its range (R30; log entry 8). -/
def loopFreqAt (n : Nat) : Int := clampInt (-freqRange) freqRange (Config.loopFreq n)

/-- A measured offset without the step it may bring (R39): the state moves, the loop sets its frequency, and the offset
is shown. -/
def measured (s : State) (q : Int) : State :=
  let s0 := put s .tideStat_offset (showOffset q)
  let s1 := if tideState s0 = 0 ∨ tideState s0 = 3 then
      { put s0 .tideStat_state 1 with time := { s0.time with near := 0, far := 0 } } else s0
  let near := if -16 ≤ q ∧ q ≤ 16 then s1.time.near + 1 else 0
  let far := if -256 ≤ q ∧ q ≤ 256 then 0 else s1.time.far + 1
  let t := { s1.time with near := near, far := far, meas := s1.time.meas + 1, lastMeas := s1.time.ticks }
  let s2 := { s1 with time := { t with freq := loopFreqAt t.meas } }
  if tideState s2 = 1 ∧ near ≥ 16 then
    { put s2 .tideStat_state 2 with time := { s2.time with near := 0, far := 0 } }
  else if tideState s2 = 2 ∧ far ≥ 16 then
    { put s2 .tideStat_state 1 with time := { s2.time with near := 0, far := 0 } }
  else s2

/-- The measurement steps the tide: acquiring, no job resident, and the offset exceeds 1 µs (R40). -/
def measureSteps (s : State) (q : Int) : Bool :=
  (decide (tideState s = 1) && !anyResident s) && (decide (q > 4000) || decide (q < -4000))

/-- SYNC_MEASUREMENT_TIMEOUT (R39): no measurement for 1 ms while locked. -/
def execSyncMeasurementTimeout (s : State) : Host.Outcome State Fault Refusal :=
  .next (onlyIf (fn0Up s && decide (tideState s = 2) && decide (s.time.lastMeas + 1000000 ≤ s.time.ticks))
    enterHoldover s)

/-- A write of `TIDE_CTL` (R33, R39): 5 to 7 leave sync_src unchanged, 0 makes the state free. R38 gives a depth to sources 1
to 3 and to followers; that the depth stays as it was while the source is 0, and while it is 4 and the parent has not reported,
is the model's choice (log entry 134), and so is that any write with a sync_src of 0 to 4 begins the measurements anew: the last
accepted edge of TIDE_PPS_IN and the PTP exchange under way are forgotten, even where the source stays (log entry 179). -/
def tideCtlWrite (s : State) (v : Nat) : State :=
  let s1 := put (put (put s .tideCtl_guard (bitsOf v 10 3)) .tideCtl_late_window (bitsOf v 18 11))
    .tideCtl_max_ahead_log2 (bitsOf v 24 19)
  let src := bitsOf v 2 0
  if src ≥ 5 then s1
  else
    let s2 := put s1 .tideCtl_sync_src src
    let s3 := { s2 with time := { s2.time with lastPps := none, ptp := { s2.time.ptp with sync := none, req := none } } }
    if src = 0 then { put s3 .tideStat_state 0 with time := { s3.time with near := 0, far := 0 } }
    else if src ≤ 3 then put s3 .tideStat_depth 0
    else s3

/-- TIDE_SYNC_SRC_WRITE (R33, R39): a write of `TIDE_CTL`. -/
def execTideSyncSrcWrite (v : BitVec 64) (s : State) : Host.Outcome State Fault Refusal :=
  .next (onlyIf (fn0Up s) (fun s => tideCtlWrite s v.toNat) s)

/-! ### TIDE_PPS_OUT (R36, R484, R487) -/

def secNs : Nat := 1000000000

/-- TIDE_PPS_OUT_START (R36): out_en is 1 and tide mod 10^9 equals out_phase, read modulo 10^9. -/
def execTidePpsOutStart (s : State) : Host.Outcome State Fault Refusal :=
  .next (onlyIf (fn0Up s && flag s .tidePps_out_en && s.time.ppsHigh.isNone &&
      decide (s.time.tide % secNs = get s .tidePps_out_phase % secNs))
    (fun s => emit { s with time := { s.time with ppsHigh := some s.time.ticks } } (.pin 1 true)) s)

/-- TIDE_PPS_OUT_END (R36): the pulse has been high for 100 µs. -/
def execTidePpsOutEnd (s : State) : Host.Outcome State Fault Refusal :=
  match s.time.ppsHigh with
  | none => .next s
  | some t =>
    .next (onlyIf (decide (t + 100000 ≤ s.time.ticks))
      (fun s => emit { s with time := { s.time with ppsHigh := none } } (.pin 1 false)) s)

end Sys2Proof.Machine
end

