-- ==== Sys2Proof/Machine/Image.lean ====
section
/-!
DEFINITION. Praeg images (spec/03_control_and_shape_images.md): the header, the section table, the records, the checks of
R86, and how an image lies over a structure.
-/
namespace Sys2Proof.Machine

/-! ### Reading an image -/

/-- Word `i` of an image. -/
def iw (ws : List Word) (i : Nat) : Nat := (ws.getD i 0).toNat

/-- The bytes of words. -/
def bytesOf (ws : List Word) : Bytes := ws.flatMap (fun w => toLe 8 w.toNat)

/-- A section table entry (R76). -/
structure Sect where
  idx     : Nat
  typ     : Nat
  mask    : Nat
  off     : Nat
  size    : Nat
  records : Nat
  recSize : Nat
  clean   : Bool     -- its reserved bits are zero
  deriving DecidableEq, Repr

def readSect (ws : List Word) (i : Nat) : Sect :=
  let b := 8 + 4 * i
  { idx := i, typ := bitsOf (iw ws b) 7 0, mask := bitsOf (iw ws b) 16 8, off := bitsOf (iw ws (b + 1)) 31 0,
    size := bitsOf (iw ws (b + 1)) 63 32, records := bitsOf (iw ws (b + 2)) 31 0,
    recSize := bitsOf (iw ws (b + 2)) 47 32,
    clean := decide (bitsOf (iw ws b) 63 17 = 0) && decide (bitsOf (iw ws (b + 2)) 63 48 = 0) &&
      decide (iw ws (b + 3) = 0) }

/-- The fields of the header (R75). -/
def hMagic (ws : List Word) : Nat := bitsOf (iw ws 0) 31 0
def hVersion (ws : List Word) : Nat := bitsOf (iw ws 0) 39 32
def hKind (ws : List Word) : Nat := bitsOf (iw ws 0) 43 40
def hScope (ws : List Word) : Nat := bitsOf (iw ws 0) 47 44
def hJob (ws : List Word) : Nat := bitsOf (iw ws 0) 59 48
def hLength (ws : List Word) : Nat := bitsOf (iw ws 1) 31 0
def hSections (ws : List Word) : Nat := bitsOf (iw ws 1) 47 32
def hNumericGen (ws : List Word) : Nat := bitsOf (iw ws 1) 55 48
def hVariants (ws : List Word) : Nat := bitsOf (iw ws 1) 59 56
def hSvn (ws : List Word) : Nat := bitsOf (iw ws 2) 15 0

/-- The section table's entries; no more than the image can hold. -/
def sections (ws : List Word) : List Sect := (List.range (min (hSections ws) (ws.length / 4))).map (readSect ws)

/-- The records of a section, each as its words. -/
def recordsOf (ws : List Word) (x : Sect) : List (List Word) :=
  (List.range x.records).map (fun i => ((ws.drop (x.off / 8 + i * (x.recSize / 8))).take (x.recSize / 8)))

/-! ### Section types (R77) -/

/-- The record size that a shape section type defines. -/
def typeRecSize (t : Nat) : Option Nat :=
  if t = 1 then some 32 else if t = 2 then some 16 else if t = 3 then some 16 else if t = 4 then some 64
  else if t = 5 then some 8320 else if t = 6 then some 16 else if t = 7 then some 8 else none

/-- The fn_mask of a shape section type. -/
def typeMask (t : Nat) : Nat := if t = 4 then 0x3E else if t = 5 then 0x120 else if t = 0x7E then 0 else 0x1E

/-! ### Records -/

def parseGroup (r : List Word) : GroupRec :=
  { index := bitsOf (iw r 3) 5 0, job := bitsOf (iw r 3) 17 6, policy := bitsOf (iw r 3) 23 18,
    split := bitsOf (iw r 3) 29 24,
    cores := BitVec.ofNat 192 (iw r 0 + 2 ^ 64 * iw r 1 + 2 ^ 128 * iw r 2) }

def parseSplit (r : List Word) : SplitRec :=
  let x := iw r 0 + 2 ^ 64 * iw r 1
  ⟨bitsOf x 5 0, (List.range 8).map (fun i => bitsOf x (6 + 10 * i + 9) (6 + 10 * i))⟩

def parseFeeder (r : List Word) : FeederRec :=
  ⟨bitsOf (iw r 0) 5 0, (List.range 8).map (fun a =>
    ((if bitsOf (iw r 0) (7 + 4 * a) (6 + 4 * a) = 1 then 1 else 0), tst (iw r 0) (8 + 4 * a), tst (iw r 0) (9 + 4 * a)))⟩

def parseChain (r : List Word) : ChainRec := ⟨bitsOf (iw r 0) 15 0, r⟩

/-- A 16-bit unit of a routing record, counted from its first byte. -/
def half (r : List Word) (i : Nat) : Nat := bitsOf (iw r (i / 4)) (16 * (i % 4) + 15) (16 * (i % 4))

def parseRoute (r : List Word) : RouteRec :=
  { job := bitsOf (iw r 0) 11 0,
    ring := (List.range (bitsOf (iw r 0) 17 12)).map (fun i => half r (4 + i) % 4096),
    entries := (List.range 4096).filterMap (fun m => if half r (64 + m) = 0 then none else some (m, half r (64 + m))) }

def parsePolicy (r : List Word) : PolicyRec := ⟨bitsOf (iw r 0) 5 0, r.getD 0 0, r.getD 1 0⟩

def parseFill (r : List Word) : FillRec :=
  ⟨bitsOf (iw r 0) 5 0, (if bitsOf (iw r 0) 7 6 = 3 then 0 else bitsOf (iw r 0) 7 6), bitsOf (iw r 0) 20 8⟩

/-- Chain records in ascending slot order. -/
def insertChain (r : ChainRec) : List ChainRec → List ChainRec
  | [] => [r]
  | x :: l => if r.slot < x.slot then r :: x :: l else x :: insertChain r l

def sortChains (l : List ChainRec) : List ChainRec := l.foldr insertChain []

/-- The structure that an image holds. -/
def parseStructure (ws : List Word) : Structure :=
  let recs (t : Nat) : List (List Word) :=
    ((sections ws).filter (fun x => x.typ == t)).flatMap (recordsOf ws)
  { groups := (recs 1).map parseGroup, splits := (recs 2).map parseSplit, feeders := (recs 3).map parseFeeder,
    chains := sortChains ((recs 4).map parseChain), routes := (recs 5).map parseRoute,
    policies := (recs 6).map parsePolicy, fills := (recs 7).map parseFill }

/-! ### An image over a structure (R87) -/

/-- The records of a job in a structure give way to those of its job-scope image. -/
def overlayJob (t : Structure) (job : Nat) (i : Structure) : Structure :=
  let mine := (t.groups.filter (fun g => g.job == job)).map (·.index)
  { groups := t.groups.filter (fun g => g.job != job) ++ i.groups,
    splits := t.splits.filter (fun x => !(i.splits.any (fun y => y.index == x.index))) ++ i.splits,
    feeders := t.feeders.filter (fun x => !mine.contains x.group) ++ i.feeders,
    chains := sortChains (t.chains.filter (fun x => tJob x != job) ++ i.chains),
    routes := t.routes.filter (fun x => x.job != job) ++ i.routes,
    policies := t.policies.filter (fun x => !(i.policies.any (fun y => y.index == x.index))) ++ i.policies,
    fills := t.fills.filter (fun x => !mine.contains x.group) ++ i.fills }

/-- The structure after an image of a scope applies. -/
def overlay (t : Structure) (scope : Nat) (i : Structure) : Structure :=
  if scope = modScope then i else overlayJob t scope i

/-- The part of a structure that function `n` holds (R77). -/
def partOf (n : Nat) (t : Structure) : Structure :=
  let die := decide (1 ≤ n ∧ n ≤ 4)
  { groups := if die then t.groups else [], splits := if die then t.splits else [],
    feeders := if die then t.feeders else [], chains := if die || n == 5 then t.chains else [],
    routes := if n == 5 || n == 8 then t.routes else [], policies := if die then t.policies else [],
    fills := if die then t.fills else [] }

/-- The jobs that a structure names in stage group records, ascending (R335). -/
def jobsOf (t : Structure) : List Nat := (List.range 4096).filter (fun j => t.groups.any (fun g => g.job == j))

/-- The pending job-scope images, ascending by job. -/
def pendingJobs (s : State) : List PendImg :=
  (List.range 4096).flatMap (fun j => s.shp.pend.filter (fun p => p.scope == j))

/-- The pending module-scope image. -/
def pendingModule (s : State) : Option PendImg := s.shp.pend.find? (fun p => p.scope == modScope)

/-- A base with the pending job-scope images of every other job laid over it. -/
def withPending (s : State) (base : Structure) (job : Nat) : Structure :=
  (pendingJobs s).foldl (fun t p => if p.scope = job then t else overlay t p.scope p.str) base

/-! ### The checks (R86) -/

/-- Why an image is rejected: the reason, the section table index (0x7FF for the header) and the byte offset. -/
structure Reject where
  reason : Nat
  sect   : Nat
  off    : Nat
  deriving DecidableEq, Repr

/-- The first section for which a test fails. -/
def badSect (l : List Sect) (f : Sect → Bool) : Option Sect := l.find? (fun x => !f x)

/-- A fault of a section: its number, and where its records begin, be the fault in its table entry or in its bytes (log entry 181). -/
def rejectAt (reason : Nat) : Option Sect → Option Reject
  | none => none
  | some x => some ⟨reason, x.idx, x.off⟩

/-- A fault of no section: section 0x7FF and offset 0, whichever byte of the header is at fault. R85 has `SHP_REJECT.offset` show the
image byte at fault and does not say which that is (log entry 181). -/
def rejectIf (b : Bool) (reason : Nat) : Option Reject := if b then some ⟨reason, 0x7FF, 0⟩ else none

/-- One record of an image, with where it lies. -/
structure ImgRec where
  typ   : Nat
  sect  : Nat
  off   : Nat
  words : List Word
  deriving DecidableEq, Repr

/-- Every record of an image, in the order of the image. -/
def imgRecs (ws : List Word) : List ImgRec :=
  (sections ws).flatMap (fun x => (recordsOf ws x).mapIdx (fun i r => ⟨x.typ, x.idx, x.off + i * x.recSize, r⟩))

/-- A test of one record: its type and its words. -/
abbrev RecTest := Nat → List Word → Bool

/-- A rejection at a record. -/
def rejectRec (reason : Nat) : Option ImgRec → Option Reject
  | none => none
  | some x => some ⟨reason, x.sect, x.off⟩

/-- A rejection at the first record that a test holds for. -/
def rejectWhere (ws : List Word) (reason : Nat) (f : RecTest) : Option Reject :=
  rejectRec reason ((imgRecs ws).find? (fun x => f x.typ x.words))

/-- A list of numbers holds no number twice. -/
def distinct (l : List Nat) : Bool := decide (l.eraseDups.length = l.length)

/-- Reason 1: the header; words that the image lacks read as zero. -/
def headerOk (ws : List Word) : Bool :=
  decide (hMagic ws = 0x47455250) && decide (hVersion ws = 3) && decide (bitsOf (iw ws 0) 63 60 = 0) &&
  decide (bitsOf (iw ws 1) 63 60 = 0) && ((List.range 5).all (fun i => iw ws (3 + i) == 0)) &&
  decide (1 ≤ hSections ws ∧ hSections ws ≤ 1024)

/-- Reason 1, in a shape image: scope and svn. -/
def shapeHeaderOk (ws : List Word) : Bool := decide (hScope ws ≤ 1) && decide (hSvn ws = 0)

/-- Reason 7 for one section after the end of the one before (R76). -/
def sectGeom (total tableEnd : Nat) (lastIdx : Nat) (prevEnd : Nat) (x : Sect) : Bool :=
  x.clean && decide (x.off % 8 = 0) && decide (x.size % 8 = 0) && decide (tableEnd ≤ x.off) && decide (prevEnd ≤ x.off) &&
  decide (x.off + x.size ≤ total) &&
  (if x.typ = 0x7E ∨ x.typ = 0x7F then decide (x.idx = lastIdx)
   else decide (x.size = x.records * x.recSize) &&
    (match typeRecSize x.typ with | none => true | some n => decide (x.recSize = n)))

/-- The first section that breaks R76. -/
def geomFault (total tableEnd lastIdx : Nat) : Nat → List Sect → Option Sect
  | _, [] => none
  | e, x :: l => if sectGeom total tableEnd lastIdx e x then geomFault total tableEnd lastIdx (x.off + x.size) l else some x

/-- The first signature section of a type (R76, R81). One that is not the last section has reason 7 in a shape image. -/
def sigSection (ws : List Word) (t : Nat) : Option Sect := (sections ws).find? (fun x => x.typ == t)

/-- The modulus of a signature section. -/
def sigModulus (ws : List Word) (x : Sect) : Nat := beNat (bytesOf ((ws.drop (x.off / 8)).take 48))

/-- A signature section verifies over every byte before it (R81). -/
def sigOk (ws : List Word) (x : Sect) : Bool :=
  decide (x.size = 776) && decide (x.off % 8 = 0) && decide (x.off + 776 ≤ 8 * ws.length) &&
  decide (iw ws (x.off / 8 + 48) = 0) &&
  pssVerify (sigModulus ws x) (beNat (bytesOf ((ws.drop (x.off / 8 + 49)).take 48))) (bytesOf (ws.take (x.off / 8)))

/-- The measurement of an image (R82). -/
def measurement (ws : List Word) : Bytes :=
  match (sections ws).find? (fun x => x.typ == 0x7E || x.typ == 0x7F) with
  | some x => sha256 (bytesOf (ws.take (x.off / 8)))
  | none => sha256 (bytesOf ws)

/-- An owner signature verifies under the enrolled key; with none enrolled, under the key it carries (R86, log entry 22). -/
def ownerSigOk (owner : Option (BitVec 3072)) (ws : List Word) (x : Sect) : Bool :=
  sigOk ws x && (match owner with | none => true | some m => decide (sigModulus ws x = m.toNat))

/-- Ranges of a chain record's fields, and its reserved fields (R351, R352). -/
def chainOk (dies : Nat) (r : ChainRec) : Bool :=
  decide (r.slot < 8192 * dies) && decide (bitsOf (iw r.words 0) 63 58 = 0) &&
  decide (tNext r + tNextCount r ≤ 8192 * dies) &&
  decide (1 ≤ tFires r) &&
  (tAction r != 0 || (decide (tw r 4 63 55 = 0) && decide (8 ≤ tLength r ∧ tLength r ≤ 2 ^ 30) && tLength r % 8 == 0 &&
    tSrc r % 8 == 0)) &&
  (!(decide (tAction r ≤ 1)) || decide (tw r 5 63 55 = 0)) && (tAction r == 3 || tDst r % 8 == 0)

/-- A policy record's reserved bits and ranges (R187, R212). -/
def policyOk (p : PolicyRec) : Bool :=
  decide (bitsOf p.w0.toNat 63 34 = 0) && decide (bitsOf p.w0.toNat 32 20 ≤ 4096) &&
  decide (bitsOf p.w1.toNat 7 7 = 0) && decide (bitsOf p.w1.toNat 63 30 = 0)

/-- A routing record's reserved bits and ranges (R420). -/
def routeOk (r : List Word) : Bool :=
  let n := bitsOf (iw r 0) 17 12
  decide (bitsOf (iw r 0) 63 18 = 0) && decide (n ≠ 1) && decide (n ≤ 32) &&
  ((List.range 32).all (fun i => decide (half r (4 + i) < 4096) && (decide (i < n) || half r (4 + i) == 0))) &&
  ((List.range 7).all (fun i => iw r (9 + i) == 0)) &&
  ((List.range 4096).all (fun m => decide (half r (64 + m) < 1024) && decide (bitsOf (half r (64 + m)) 9 8 ≠ 3)))

/-- The reserved fields and ranges of one record (R77, R86, reason 9). R79 does not say what bits [63:22] of word 1 of an SRAM split record
are: that they must be zero, like a reserved field, is the model's choice (log entry 192). -/
def imgRecordOk (dies : Nat) : RecTest := fun t r =>
  if t = 1 then decide (bitsOf (iw r 3) 63 30 = 0) && decide ((parseGroup r).job ≠ 0)
  else if t = 2 then decide (bitsOf (iw r 1) 63 22 = 0)
  else if t = 3 then decide (bitsOf (iw r 0) 63 38 = 0) && decide (iw r 1 = 0)
  else if t = 4 then chainOk dies (parseChain r)
  else if t = 5 then routeOk r
  else if t = 6 then policyOk (parsePolicy r)
  else if t = 7 then decide (bitsOf (iw r 0) 63 21 = 0)
  else true

/-- What a record is the record of: a group, a split, a slot, a job. -/
def imgRecordKey (t : Nat) (r : List Word) : Nat :=
  if t = 1 then (parseGroup r).index
  else if t = 4 then bitsOf (iw r 0) 15 0
  else if t = 5 then bitsOf (iw r 0) 11 0
  else bitsOf (iw r 0) 5 0

/-- The first record with reason 9 by itself: a reserved field, a range, or a second record of one thing. The limits of R77
follow, since no more than 64 groups, splits or policies and no more slots than the variant has can be told apart. -/
def firstBadRec (dies : Nat) : List (Nat × Nat) → List ImgRec → Option ImgRec
  | _, [] => none
  | seen, x :: l =>
    let k := (x.typ, imgRecordKey x.typ x.words)
    if !imgRecordOk dies x.typ x.words || seen.contains k then some x else firstBadRec dies (k :: seen) l

/-- The stage group indexes that another job's stage group holds, active or pending (R87). -/
def otherGroups (s : State) (job : Nat) : List GroupRec :=
  ((strOf s 0).groups ++ s.shp.pend.flatMap (fun p => p.str.groups)).filter (fun g => g.job != job)

/-- The entry of a routing record toward module `m`. -/
def routeEntry (r : RouteRec) (m : Nat) : Nat := mget 0 r.entries m
def entryPort (e : Nat) : Nat := e % 64
def entryMore (e : Nat) : Nat := bitsOf e 7 6
def entryVersion (e : Nat) : Nat := bitsOf e 9 8

/-- Reason 10: a reachable entry names an absent port (R421). -/
def routePortsOk (s : State) (r : RouteRec) : Bool :=
  r.entries.all (fun p => p.1 == ownModule s || entryVersion p.2 == 0 ||
    (stripe (entryPort p.2) (entryMore p.2)).all (portPresent s))

/-- Reason 11 for one reachable entry (R11, R421). -/
def entryOk (s : State) (m e : Nat) : Bool :=
  let me := ownPlace s
  let n := groupsN s
  let ps := stripe (entryPort e) (entryMore e)
  let peers := ps.map (fun p => peerPlace me n p)
  decide (m < 32 * n) && ps.all (fun p => !isFront p) && peers.all (·.isSome) &&
  peers.all (fun q => q == peers.headD none) &&
  (!(decide (m / 32 = me.group)) || ps.all (fun p => !isGlobal p)) &&
  ps.all (fun p => !isGlobal p || (match peerPlace me n p with | none => false | some q => decide (q.group = m / 32)))

/-- The ring rule of R421: the entry of the next member reaches it in one hop. -/
def ringOk (s : State) (r : RouteRec) : Bool :=
  match r.ring.findIdx? (fun m => m == ownModule s) with
  | none => true
  | some i =>
    let m := r.ring.getD ((i + 1) % r.ring.length) 0
    let e := routeEntry r m
    entryVersion e == 0 || (stripe (entryPort e) (entryMore e)).all
      (fun p => peerPlace (ownPlace s) (groupsN s) p == some (placeOfNumber m))

def routeShapeOk (s : State) (r : RouteRec) : Bool :=
  r.entries.all (fun p => p.1 == ownModule s || entryVersion p.2 == 0 || entryOk s p.1 p.2) && ringOk s r

/-- Reason 12 for one core of a structure (R80, R339). -/
def coreGroupsOk (t : Structure) (c : Nat) : Bool :=
  match groupsAt t c with
  | [] => true
  | [_] => true
  | [g, h] => decide (g.job ≠ h.job) &&
      ((roleOf t g.index == 1 && roleOf t h.index == 2) || (roleOf t g.index == 2 && roleOf t h.index == 1))
  | _ => false

/-- Reason 13 for one core. -/
def coreSplitOk (t : Structure) (c : Nat) : Bool :=
  decide (((groupsAt t c).map (fun g => splitBytes t g.split)).sum ≤ 768 * 4096)

def allCores : List Nat := List.range 192

/-- The cores that fail a test. -/
def badCores (f : Nat → Bool) : List Nat := allCores.filter (fun c => !f c)

/-- A stage group record that holds one of some cores. -/
def groupOn (cores : List Nat) : RecTest := fun t r =>
  t == 1 && cores.any (fun c => (parseGroup r).cores.getLsbD c)

/-- Reason 12 for a template of an image over a structure (R352); a template whose job names no stage group in the image has
reason 15. -/
def chainOffCores (t i : Structure) : RecTest := fun typ r =>
  let x := parseChain r
  typ == 4 && i.groups.any (fun g => g.job == tJob x) &&
    !(coreOfJob t (tTcore x) (tJob x) && (!tGateEn x || coreOfJob t (tGcore x) (tJob x)))

/-- The counters that a template claims: core times 256 plus counter (R353). -/
def claimsOf (r : ChainRec) : List Nat :=
  [256 * tTcore r + tTtc r] ++ (if tGateEn r then [256 * tGcore r + tGtc r] else []) ++
  (if tDoneEn r then [256 * tTcore r + tDoneTc r] else [])

/-- A template that names a counter of another job's template (R352). -/
def claimsClash (t : Structure) : RecTest := fun typ r =>
  let x := parseChain r
  typ == 4 && t.chains.any (fun q => tJob x != tJob q && (claimsOf x).any (fun k => (claimsOf q).contains k))

/-- A record that names what the structure does not hold (reason 18). R86 and R87 do not say whose records: that only those of the image
which arrives are tested, and not the stage groups of a pending job-scope image whose split an arriving module-scope image drops, is the
model's choice (log entry 193). -/
def namesNothing (t : Structure) : RecTest := fun typ r =>
  (typ == 1 && !(t.splits.any (fun x => x.index == (parseGroup r).split))) ||
  ((typ == 3 || typ == 7) && !(t.groups.any (fun g => g.index == bitsOf (iw r 0) 5 0)))

/-- The jobs that a structure names in any record (reason 9). -/
def namedJobs (t : Structure) : List Nat :=
  (t.groups.map (·.job) ++ t.chains.map tJob ++ (t.routes.map (·.job)).filter (fun j => j != 0)).eraseDups

/-- Two records of the laid structure name one stage group, or one slot. -/
def namedTwice (t : Structure) : RecTest := fun typ r =>
  (typ == 1 && decide (2 ≤ ((t.groups.filter (fun g => g.index == (parseGroup r).index)).length))) ||
  (typ == 4 && decide (2 ≤ ((t.chains.filter (fun x => x.slot == (parseChain r).slot)).length)))

/-- The split of a group on one of some cores. -/
def splitOn (t : Structure) (cores : List Nat) : RecTest := fun typ r =>
  typ == 2 && t.groups.any (fun g => g.split == (parseSplit r).index && cores.any (fun c => g.cores.getLsbD c))

/-- The checks over one base structure: reasons 9, 12, 13 and 18. -/
def overChecks (ws : List Word) (base i : Structure) (scope : Nat) : List (Option Reject) :=
  let t := overlay base scope i
  let off := badCores (coreGroupsOk t)
  let big := badCores (coreSplitOk t)
  [if 64 < (namedJobs t).length then (rejectWhere ws 9 (fun typ _ => typ == 1 || typ == 4 || typ == 5)).or (rejectIf true 9)
   else none,
   rejectWhere ws 9 (namedTwice t),
   (if off.isEmpty then none else (rejectWhere ws 12 (groupOn off)).or (rejectIf true 12)),
   rejectWhere ws 12 (chainOffCores t i),
   rejectWhere ws 12 (claimsClash t),
   (if big.isEmpty then none else (rejectWhere ws 13 (splitOn t big)).or (rejectIf true 13)),
   rejectWhere ws 18 (namesNothing t)]

/-- The scope of an image: a job, or the module. -/
def imageScope (ws : List Word) : Nat := if hScope ws = 1 then hJob ws else modScope

/-- Reason 15: a template without a stage group of its job, and in a job-scope image another job's record or index (R87,
R352). A feeder routing or fill mode record is another job's where that job holds its group. -/
def foreign (s : State) (scope : Nat) (i : Structure) : RecTest := fun t r =>
  (t == 4 && !(i.groups.any (fun g => g.job == tJob (parseChain r)))) ||
  (scope != modScope &&
    ((t == 1 && (parseGroup r).job != scope) || (t == 4 && tJob (parseChain r) != scope) ||
     (t == 5 && bitsOf (iw r 0) 11 0 != scope) ||
     ((t == 3 || t == 7) && (otherGroups s scope).any (fun g => g.index == bitsOf (iw r 0) 5 0)) ||
     (t == 2 && (otherGroups s scope).any (fun g => g.split == bitsOf (iw r 0) 5 0)) ||
     (t == 6 && (otherGroups s scope).any (fun g => g.policy == bitsOf (iw r 0) 5 0))))

/-- The first rejection of a list of checks. -/
def firstReject (l : List (Option Reject)) : Option Reject := l.findSome? id

/-- The checks of R86 up to reason 8, which read the header, the signature and the section table. -/
def headChecks (s : State) (ld : Load) : Option Reject :=
  let ws := ld.words
  let total := 8 * ws.length
  let ss := sections ws
  let tableEnd := 64 + 32 * hSections ws
  firstReject
    [rejectIf (!(headerOk ws)) 1,
     rejectIf (decide (hKind ws ≠ 2)) 2,
     rejectIf (!(shapeHeaderOk ws)) 1,
     rejectIf (!(tst (hVariants ws) (variantIndex s.fuses.variant))) 3,
     rejectIf (decide (hNumericGen ws ≠ get s .idnVariant_numeric_gen)) 4,
     rejectAt 5 (match sigSection ws 0x7E with
       | some x => if ownerSigOk ld.owner ws x then none else some x
       | none => none),
     rejectIf (ld.owner.isSome && (sigSection ws 0x7E).isNone) 6,
     rejectIf (decide (total < tableEnd)) 7,
     rejectAt 7 (geomFault total tableEnd (hSections ws - 1) tableEnd ss),
     rejectAt 8 (badSect ss (fun x => ((typeRecSize x.typ).isSome || x.typ == 0x7E) && x.mask == typeMask x.typ))]

/-- The checks that lay the image over the structures of R87. -/
def layChecks (s : State) (ws : List Word) (scope : Nat) (i : Structure) : List (Option Reject) :=
  if scope = modScope then overChecks ws (withPending s i modScope) (withPending s i modScope) modScope
  else overChecks ws (withPending s (strOf s 0) scope) i scope ++
    (match pendingModule s with
      | none => []
      | some p => overChecks ws (withPending s p.str scope) i scope)

/-- The lay checks of one reason. -/
def layOf (l : List (Option Reject)) (reason : Nat) : Option Reject :=
  firstReject (l.map (fun x => x.filter (fun r => r.reason == reason)))

/-- The checks of R86 on the records, from reason 9 on. -/
def bodyChecks (s : State) (ld : Load) : Option Reject :=
  let ws := ld.words
  let total := 8 * ws.length
  let scope := imageScope ws
  let narrow := decide (ld.mask ≠ 0x1FF)
  let i := parseStructure ws
  let lay := layChecks s ws scope i
  firstReject
    [rejectIf (decide (hScope ws = 1) && decide (hJob ws = 0)) 9,
     rejectRec 9 (firstBadRec (variantIoDies s.fuses.variant) [] (imgRecs ws)),
     rejectWhere ws 9 (fun t r => scope != modScope && t == 1 &&
       (otherGroups s scope).any (fun h => h.index == (parseGroup r).index)),
     layOf lay 9,
     rejectWhere ws 10 (fun t r => t == 5 && !routePortsOk s (parseRoute r)),
     rejectWhere ws 11 (fun t r => t == 5 && !routeShapeOk s (parseRoute r)),
     layOf lay 12,
     layOf lay 13,
     rejectIf (narrow && scope == modScope && digestNum (measurement ws) != getDigest s .shpAmeas_digest) 14,
     rejectIf (narrow && scope != modScope && decide (s.shp.restore ≠ some ld.mask)) 14,
     rejectWhere ws 15 (foreign s scope i),
     rejectIf (decide (hLength ws ≠ total) || decide (total ≠ ld.length)) 16,
     rejectIf (decide ((ld.fnReset &&& ld.mask) ≠ 0)) 17,
     layOf lay 18]

/-- Every check of R86 on a shape image, in ascending order of reason (log entry 23). -/
def checkShape (s : State) (ld : Load) : Option Reject :=
  match headChecks s ld with
  | some r => some r
  | none => bodyChecks s ld

/-- The fused key slot whose hash an Avdal modulus matches and that is not revoked (R73). -/
def slotOfKey (s : State) (m : Nat) : Option Nat :=
  (List.range 4).find? (fun i => decide (sha256 (toBe 384 m) = toBe 32 (Config.slotHash i).toNat) &&
    !(tst s.fuses.slotRevoked.toNat i))

/-- A foundation image's slot, version and measurement, where R73 accepts it. The spec says what a breach of R76 or R77 by the
section table brings in a shape image only: here a foundation image is accepted whatever the table says of its other sections,
and needs its signature as its last section (log entry 141). -/
def checkFoundation (s : State) (ld : Load) : Option Found :=
  let ws := ld.words
  match sigSection ws 0x7F with
  | none => none
  | some x =>
    if decide (x.idx + 1 = hSections ws) && headerOk ws && decide (hLength ws = 8 * ws.length) && decide (8 * ws.length = ld.length) && sigOk ws x &&
      decide (s.fuses.minSvn.toNat ≤ hSvn ws) then
      match slotOfKey s (sigModulus ws x) with
      | none => none
      | some k => some ⟨k, hSvn ws, BitVec.ofNat 256 (digestNum (measurement ws))⟩
    else none

end Sys2Proof.Machine
end

