-- ==== Sys2Proof/Machine/Access.lean ====
section
/-!
DEFINITION. How a descriptor, a fire or an arriving packet reaches memory: through the MMU and the redirection of banked
state, with the codes of R283, R387 and R467; and virtual ranges cut into pieces that lie within one unit.
-/
namespace Sys2Proof.Machine

/-! ### Translation with redirection (R283, R384, R387, R301, R467) -/

/-- Where an access to an address that is not redirected goes. Reason 0 stands for a function in reset, code 0x0E. -/
def reachPlain (s : State) (core job va : Nat) (write : Bool) : Xlat :=
  if !fnReady s 7 then .bad 0 0x0E
  else match xlat s core job va write false with
    | .here o => if fnReady s (memFn o) then .here o else .bad 0 0x0E
    | x => x

/-- Where a data access to a virtual address of a job goes. -/
def reach (s : State) (core job va : Nat) (write : Bool) : Xlat :=
  if fnReady s 7 && write && gradientClosed s job va then .bad 3 0x01
  else reachPlain s core job (redirect s job va write) write

/-- The page's leaf is of tier 1. -/
def leafPeer (s : State) (core job va : Nat) : Bool :=
  match leafFor s core job va false with
  | .leaf _ e => decide (pteTier e = 1)
  | .bad _ _ => false

/-- Where an access goes that must find a page of tier 0: none of tier 1 will do, in the own slot either (R327, R362, R429). -/
def reachHome (s : State) (core job va : Nat) (write : Bool) : Xlat :=
  if fnReady s 7 && leafPeer s core job (redirect s job va write) then .bad 12 0x01 else reach s core job va write

/-- Where a read by a unit goes: the KV reader, unit 2, is never redirected (R384), and no page of tier 1 will do for it, in the
own slot either (R283). -/
def reachRead (s : State) (core unit job va : Nat) : Xlat :=
  if unit = 2 then (if fnReady s 7 && leafPeer s core job va then .bad 12 0x01 else reachPlain s core job va false)
  else reachHome s core job va false

/-- The record of a translation fault (R282); a function in reset leaves none. -/
def noteReach (s : State) (job core unit va reason code : Nat) : State :=
  if reason = 0 then s else noteFault s job core unit va reason code

/-- The walk that an access may make is counted, and a write through a state view is noted. -/
def noteAccess (s : State) (core job va : Nat) (write : Bool) : State :=
  let s1 := noteWalk s core job (redirect s job va write) false
  if write then noteViewWrite s1 job va else s1

/-- A range lies in HBM below the variant's top, or in the SRAM window (R3, R274). -/
def memHas (s : State) (o n : Nat) : Bool := decide (n = 0) || (inHbm s o && inHbm s (o + n - 1)) || (inSram o && inSram (o + n - 1))

/-- Bytes of this module read for a job's task: the abort code, 0 where it is read. -/
def readOff (s : State) (job core o n : Nat) : State × Nat × Bytes :=
  if !fnReady s (memFn o) then (s, 0x0E, [])
  else if !memHas s o n then (s, 0x01, [])
  else
    let r := readMem s o n
    match r.2.1 with
    | some u => (noteUnit r.1 u job core, ueCode u, [])
    | none => (r.1, 0, r.2.2)

/-- Bytes of this module written for a job's task: the abort code, 0 where they are written. -/
def writeOff (s : State) (job core o : Nat) (b : Bytes) : State × Nat :=
  if !fnReady s (memFn o) then (s, 0x0E)
  else if !memHas s o b.length then (s, 0x01)
  else
    let r := writeMem s o b
    match r.2 with
    | some u => (noteUnit r.1 u job core, ueCode u)
    | none => (r.1, 0)

/-! ### Pieces of a range -/

/-- The length of the piece of a range of `n` bytes from `a` that ends at the next multiple of 4 KiB. -/
def pieceLen (a n : Nat) : Nat := min n (4096 - a % 4096)

/-- A range cut at the 4 KiB units of its addresses: offset in the range, address, length. The first argument bounds the
pieces. -/
def pieces : Nat → Nat → Nat → Nat → List (Nat × Nat × Nat)
  | 0, _, _, _ => []
  | k + 1, at_, a, n =>
    if n = 0 then []
    else (at_, a, pieceLen a n) :: pieces k (at_ + pieceLen a n) (a + pieceLen a n) (n - pieceLen a n)

/-- The pieces of a virtual range. -/
def piecesOf (a n : Nat) : List (Nat × Nat × Nat) := pieces (n / 4096 + 2) 0 a n

/-- A read of a virtual range whose pages must all be tier 0 (unit as in `MMU_FAULT1`): the code, 0 where it is read. -/
def readVa (s : State) (job core unit va n : Nat) : State × Nat × Bytes :=
  (piecesOf va n).foldl (fun r p =>
    if r.2.1 ≠ 0 then r
    else match reachRead r.1 core unit job p.2.1 with
      | .here o =>
        let x := readOff (noteAccess r.1 core job p.2.1 false) job core o p.2.2
        (x.1, x.2.1, r.2.2 ++ x.2.2)
      | .bad k code => (noteReach r.1 job core unit p.2.1 k code, code, [])
      | _ => (noteReach r.1 job core unit p.2.1 12 0x01, 0x01, [])) (s, 0, [])

/-- A write of a virtual range whose pages must all be tier 0: the code, 0 where it is written. -/
def writeVa (s : State) (job core unit va : Nat) (b : Bytes) : State × Nat :=
  (piecesOf va b.length).foldl (fun r p =>
    if r.2 ≠ 0 then r
    else match reachHome r.1 core job p.2.1 true with
      | .here o => writeOff (noteAccess r.1 core job p.2.1 true) job core o ((b.drop p.1).take p.2.2)
      | .bad k code => (noteReach r.1 job core unit p.2.1 k code, code)
      | _ => (noteReach r.1 job core unit p.2.1 12 0x01, 0x01)) (s, 0)

/-- The first address of a virtual range whose page does not translate to tier 0, with write set for a write, and why (R327,
R362). -/
def rangeFault (s : State) (core job va n : Nat) (write : Bool) : Option (Nat × Nat) :=
  (piecesOf va n).findSome? (fun p => match reachHome s core job p.2.1 write with
    | .here _ => none
    | .bad k _ => some (p.2.1, k)
    | _ => some (p.2.1, 12))

/-- Why a virtual range does not translate, where it does not. -/
def rangeBad (s : State) (core job va n : Nat) (write : Bool) : Option Nat := (rangeFault s core job va n write).map (·.2)

/-- What the translation of a packet's range met is noted: corrected, or recorded as uncorrectable (R265, R266). The code of the NAK
of a range that does not translate: 0x02 where a page table read is uncorrectable (R266, R282), else 0x06. -/
def noteUntranslated (s : State) (job va n : Nat) (write : Bool) : State × Nat :=
  match rangeFault s 255 job va n write with
  | none => (s, 0x06)
  | some f => (noteWalkUe s job 255 f.1 f.2, if f.2 = 11 then 0x02 else 0x06)

/-! ### What a media task writes (R429, R433) -/

/-- Why a media access fails: its code and the reason of R445. -/
abbrev MedBad := Nat × Nat

/-- Why an access that goes to no memory of this module fails. An uncorrectable page table word is an uncorrectable HBM read (R282,
R445); for a function in reset R445 names no reason, and it is that of a translation fault (log entry 166). -/
def medBadOf : Xlat → MedBad
  | .bad _ 0x02 => (0x02, 9)
  | .bad _ 0x0E => (0x0E, 8)
  | _ => (0x01, 8)

/-- The first address of some ranges of a job's space that cannot be written, as it is not of tier 0 with write set. -/
def unwritable (s : State) (job : Nat) (l : List (Nat × Nat)) : Option (Nat × Xlat) :=
  l.findSome? (fun r => (piecesOf r.1 r.2).findSome? (fun p => match reachHome s 255 job p.2.1 true with
    | .here _ => none
    | x => some (p.2.1, x)))

/-- Why the first of some ranges of a job's space cannot be written. -/
def medUnwritable (s : State) (job : Nat) (l : List (Nat × Nat)) : Option MedBad := (unwritable s job l).map (fun x => medBadOf x.2)

/-- What the translation of a media access met is noted (R265, R266). -/
def noteMed (s : State) (job va : Nat) : Xlat → State
  | .bad k _ => noteWalkUe s job 255 va k
  | _ => s

/-- What the translation of some ranges met where they cannot be written. -/
def noteUnwritable (s : State) (job : Nat) (l : List (Nat × Nat)) : State :=
  match unwritable s job l with
  | none => s
  | some x => noteMed s job x.1 x.2

/-- The first address of some ranges that lies in a closed gradient view of the job (R387). -/
def closedAt (s : State) (job : Nat) (l : List (Nat × Nat)) : Option Nat :=
  l.findSome? (fun r => ((piecesOf r.1 r.2).map (·.2.1)).find? (fun va => fnReady s 7 && gradientClosed s job va))

/-- Bytes of a task written, and why they are not: a page is gone since the task's start, or they cover part of an uncorrectable
unit (R267, R445). -/
def medWrite (s : State) (job va : Nat) (b : Bytes) : State × Option MedBad :=
  if b.isEmpty then (s, none)
  else match medUnwritable s job [(va, b.length)] with
    | some x => (noteUnwritable s job [(va, b.length)], some x)
    | none =>
      let w := writeVa s job 255 1 va b
      (w.1, if w.2 = 0 then none else some (w.2, if w.2 = 0x0E then 8 else 9))

/-- Writes of a task in their order, up to the first that fails. -/
def medWrites (s : State) (job : Nat) (l : List (Nat × Bytes)) : State × Option MedBad :=
  l.foldl (fun x w => if x.2.isSome then x else medWrite x.1 job w.1 w.2) (s, none)

/-- The words of the status (R433): 14 holds frames and tokens kept; 15 bytes encoded, code, reason and done. -/
def status14 (t : MedTask) : Bytes := toLe 8 (t.frames % 2 ^ 32 + 2 ^ 32 * (t.kept % 2 ^ 32))
def status15 (t : MedTask) (code reason : Nat) : Bytes :=
  toLe 8 (t.encoded % 2 ^ 32 + 2 ^ 32 * (code % 256) + 2 ^ 40 * (reason % 256) + 2 ^ 48)

end Sys2Proof.Machine
end

