-- ==== Sys2Proof/Machine/Feeders.lean ====
section
/-!
DEFINITION. The arrays as the shape image routes them (spec/04_cores_and_arrays.md): feeder routing and runs, the geometry of a
pass, the local ranges of tensor commands, and which commands act on an array.
-/
namespace Sys2Proof.Machine

/-! ### Feeder routing (R121 to R123) -/

/-- The routing of each array under a slot's stage group, after R122: feed, cascade, moonlet. -/
def feederOf (s : State) (c : Nat) (sl : Slot) : List (Nat × Bool × Bool) :=
  let raw := match slotGroup s c sl with
    | none => List.replicate 8 (0, false, false)
    | some g => match (coreStr s c).feeders.find? (fun r : FeederRec => r.group == g.index) with
      | none => List.replicate 8 (0, false, false)
      | some r => r.arrays
  let at' (a : Nat) : Nat × Bool × Bool := raw.getD a (0, false, false)
  (List.range 8).map (fun a =>
    (if a = 0 then 0 else (at' a).1,
     decide (a < 7) && (at' a).2.1 && !(at' a).2.2 && !(at' (a + 1)).2.2,
     (at' a).2.2))

def feedAt (l : List (Nat × Bool × Bool)) (a : Nat) : Nat × Bool × Bool := l.getD a (0, false, false)
def isForwarded (l : List (Nat × Bool × Bool)) (a : Nat) : Bool := (feedAt l a).1 == 1
def isCascaded (l : List (Nat × Bool × Bool)) (a : Nat) : Bool := (feedAt l a).2.1
def isMoonlet (l : List (Nat × Bool × Bool)) (a : Nat) : Bool := (feedAt l a).2.2

/-- The first member of the run of array `a`. -/
def runFirst (l : List (Nat × Bool × Bool)) : Nat → Nat
  | 0 => 0
  | a + 1 => if isCascaded l a then runFirst l a else a + 1

/-- The members of a run from `a` on; `n` bounds them. -/
def runFrom (l : List (Nat × Bool × Bool)) : Nat → Nat → List Nat
  | 0, _ => []
  | n + 1, a => if isCascaded l a then a :: runFrom l n (a + 1) else [a]

/-- The run of array `a` (R123); an array without cascade is a run of its own. -/
def runOf (l : List (Nat × Bool × Bool)) (a : Nat) : List Nat := runFrom l 8 (runFirst l a)

/-! ### Tiles and rows (R104, R124, R150) -/

/-- Elements in a block of a scale mode. -/
def blockLen (mode : Nat) : Nat := if mode = 2 then 32 else 16

/-- Block scales along K of one pass. -/
def blocksIn (moon : Bool) (f mode : Nat) : Nat := if 2 ≤ mode then kPass moon f / blockLen mode else 0

def tileElems (moon : Bool) (f : Nat) : Nat := dimOf moon * kPass moon f
def tileBytes (moon : Bool) (f : Nat) : Nat := tileElems moon f * fmtWidth f / 8
def tileScales (moon : Bool) (f mode : Nat) : Nat := dimOf moon * blocksIn moon f mode
def rowsBytes (moon : Bool) (f m : Nat) : Nat := m * kPass moon f * fmtWidth f / 8

/-- The moonlets of a TLOAD's mask; the whole array counts as moonlet 0. -/
def loadParts (moon : Bool) (f : TensorForm) : List Nat :=
  if moon then (List.range 4).filter (fun i => f.moon.getLsbD i) else [0]

/-- The slot of moonlet `i` of a TSTREAM; 4 to 7 is none. -/
def moonSlot (f : TensorForm) (i : Nat) : Nat := bitsOf f.moon.toNat (3 * i + 2) (3 * i)

/-- The moonlets that a TSTREAM feeds: one that it gives no slot takes no part, so that none of its rows are read or checked and none of
its slots count (R125 does not say; log entry 183). -/
def streamParts (f : TensorForm) : List Nat := (List.range 4).filter (fun i => decide (moonSlot f i < 4))

/-! ### Local ranges (R103, R155) -/

/-- The members of a run that a TSTREAM feeds from local SRAM, or the moonlets that it feeds; none where the rows are forwarded
(R121, R123, R151). -/
def fedParts (l : List (Nat × Bool × Bool)) (f : TensorForm) : List Nat :=
  let a := f.array.toNat
  if isMoonlet l a then (if isForwarded l a then [] else streamParts f)
  else (List.range (runOf l a).length).filter (fun i => !isForwarded l (runFirst l a + i))

/-- The local ranges that a tensor command names: offset and bytes (R103, R150, R151). -/
def tensorRanges (kind : TKind) (l : List (Nat × Bool × Bool)) (f : TensorForm) : List (Nat × Nat) :=
  let moon := isMoonlet l f.array.toNat
  let fmt := f.fmt.toNat
  let mode := f.smode.toNat
  match kind with
  | .load =>
    let n := (loadParts moon f).length
    [(f.addr.toNat, n * tileBytes moon fmt)] ++ (if 2 ≤ mode then [(f.bsaddr.toNat, n * tileScales moon fmt mode)] else [])
  | .stream =>
    let n := f.rows.toNat * blocksIn moon fmt mode
    (fedParts l f).map (fun i => (f.addr.toNat + i * (64 * f.stride.toNat), rowsBytes moon fmt f.rows.toNat)) ++
    (if 2 ≤ mode then (fedParts l f).map (fun i => (f.bsaddr.toNat + i * n, n)) else [])
  | .drain =>
    [(f.addr.toNat, f.rows.toNat * 32 * fmtWidth fmt / 8)] ++
    (if 2 ≤ mode then [(f.bsaddr.toNat, f.rows.toNat * 32 / blockLen mode)] else [])

/-! ### What acts on an array (R102, R123, R166) -/

/-- The arrays that a command acts on: a TLOAD on the one it names, a TSTREAM or TDRAIN on the whole run. -/
def cmdArrays (l : List (Nat × Bool × Bool)) (q : TCmd) : List Nat :=
  if q.kind = .load then [q.form.array.toNat] else runOf l q.form.array.toNat

/-- A command acts on one of the arrays. -/
def actsOn (s : State) (c : Nat) (mem : List Nat) (q : TCmd) : Bool :=
  (cmdArrays (feederOf s c q.slot) q).any (fun a => mem.contains a)

/-- The commands that wait in some array's queue and act on one of the arrays. -/
def queuedOn (s : State) (c : Nat) (mem : List Nat) : List TCmd :=
  ((List.range 8).flatMap (fun b => (arrOf s c b).queue)).filter (actsOn s c mem)

/-- The commands that run and act on one of the arrays. -/
def runsOn (s : State) (c : Nat) (mem : List Nat) : List RunCmd :=
  ((List.range 8).flatMap (fun b => (arrOf s c b).run)).filter (fun r => actsOn s c mem r.cmd)

/-- A command that has started and has still to read local SRAM: a TLOAD, or a TSTREAM whose rows are not read. -/
def stillReads (r : RunCmd) : Bool := decide (r.cmd.kind = .load) || (decide (r.cmd.kind = .stream) && !r.rowsRead)

/-- Two lists of ranges share a byte. -/
def sharesByte (l m : List (Nat × Nat)) : Bool :=
  l.any (fun a => m.any (fun b => decide (max a.1 b.1 < min (a.1 + a.2) (b.1 + b.2))))

/-- A store of the task into a range that a tensor command of its slot still reads makes the data that the command reads
undefined (R155). -/
def tearCmd (s : State) (c : Nat) (sl : Slot) (w : List (Nat × Nat)) (q : TCmd) : TCmd :=
  if q.slot = sl ∧ q.kind ≠ .drain ∧ sharesByte w (tensorRanges q.kind (feederOf s c sl) q.form) = true then
    { q with torn := true }
  else q

/-- The commands of an array after such a store. -/
def tearArr (s : State) (c : Nat) (sl : Slot) (w : List (Nat × Nat)) (x : ArrSt) : ArrSt :=
  { x with
    queue := x.queue.map (tearCmd s c sl w)
    run := x.run.map (fun r => if stillReads r then { r with cmd := tearCmd s c sl w r.cmd } else r) }

/-- The local ranges that a descriptor of the queues reads: offset and bytes (R309, R310). -/
def descLocalSrc (d : Desc) : List (Nat × Nat) :=
  if d.kind = 1 ∧ d.w 0 13 13 = 1 then
    (List.range (d.w 0 63 40)).map (fun r => (d.w 1 54 0 + r * d.w 3 31 0, d.w 0 39 16))
  else if d.kind = 2 ∧ d.w 0 13 13 = 1 then [(d.w 1 54 0, d.w 0 45 16 + 1)]
  else []

/-- An offset of the core's own local SRAM. -/
def ownSram (c off : Nat) : Bool := decide (sramBase c ≤ off ∧ off < sramBase c + 0x300000)

/-- The local ranges that a descriptor reads through virtual addresses (R274, R277): its pages that map the core's own SRAM. -/
def descMappedSrc (s : State) (c : Nat) (d : Desc) : List (Nat × Nat) :=
  (descVaSrc d).flatMap (fun r => (piecesOf r.1 r.2).filterMap (fun p => match reach s c d.job p.2.1 false with
    | .here off => if ownSram c off then some (off - sramBase c, p.2.2) else none
    | _ => none))

/-- A descriptor after such a store, where it is the slot's and has not been read. -/
def tearDesc (s : State) (c : Nat) (sl : Slot) (w : List (Nat × Nat)) (d : Desc) : Desc :=
  if d.slot = sl ∧ d.moved = false ∧ sharesByte w (descLocalSrc d ++ descMappedSrc s c d) = true then { d with torn := true } else d

/-- The data that a command reads from local SRAM: free values where its task has stored into it meanwhile (R155; log entry
105). -/
def tornRead (s : State) (torn : Bool) (b : Bytes) : State × Bytes :=
  if torn then (freeTick s, toLe b.length (freeNow s)) else (s, b)

/-- A VST or SST has written local ranges: what the task's own earlier commands and descriptors still read there is undefined
(R155). -/
def tearReads (s : State) (c : Nat) (sl : Slot) (w : List (Nat × Nat)) : State :=
  let k := coreOf s c
  setCore s c { k with
    arr := mmap ArrSt.init (tearArr s c sl w) k.arr
    dmaq := mmap DmaQ.init (fun x => { x with entries := x.entries.map (tearDesc s c sl w) }) k.dmaq
    flight := k.flight.map (tearDesc s c sl w) }

end Sys2Proof.Machine
end

