-- ==== Sys2Proof/Machine/Reset.lean ====
section
/-!
DEFINITION. Responses to control commands (R65 to R67), what each reset and power state loses (R5, R469, R470), and the
entry of functions and of the module into reset (R461 to R468, R498).
-/
namespace Sys2Proof.Machine

/-! ### Responses (R65 to R67) -/

def cpOf (s : State) (p : Cp) : CpSt := mget CpSt.init s.ctl.cps p.val

def setCp (s : State) (p : Cp) (x : CpSt) : State :=
  { s with ctl := { s.ctl with cps := mset CpSt.init s.ctl.cps p.val x } }

/-- One response leaves, and `CTL_CMD_CNT` counts it. -/
def sendResp (s : State) (r : Resp) : State :=
  let s1 := emit s (.resp r)
  if r.status ≤ 1 then bumpW s1 .ctlCmdCnt_executed else bump s1 .ctlCmdCnt_refused

/-- A history with its last 64 accepted commands, and those of the sequence numbers given, for which it is not known yet whether they are
accepted or refused with status 2 to 6: they take no place among the 64 (R67; log entry 90). -/
def keepLast (ahead : List (BitVec 32)) (l : List Hist) : List Hist :=
  (l.foldr (fun h x => if h.resp.isNone && ahead.contains h.seq then (h :: x.1, x.2)
    else if x.2 < 64 then (h :: x.1, x.2 + 1) else x) ([], 0)).1

/-- The senders of the repeats of a command that wait for its answer. -/
def repeatsOf (l : List Hist) (q : BitVec 32) : List NetAddr :=
  match l.find? (fun h => decide (h.seq = q) && h.resp.isNone) with
  | some h => h.repeats
  | none => []

/-- The header of a control command that a port holds or queues. -/
def hdrOf : Instr → Option CtlHdr
  | .csrRead h _ => some h
  | .csrWrite h _ => some h
  | .imageBegin h _ _ => some h
  | .imageData h _ _ => some h
  | .imageEnd h => some h
  | .imageAbort h => some h
  | .modReset h => some h
  | .rstFn h _ => some h
  | .powerState h _ _ => some h
  | .nonce h => some h
  | .quote h _ => some h
  | .certRead h => some h
  | .ownerEnroll h _ _ _ _ => some h
  | .ownerClear h _ _ _ _ _ => some h
  | .regionReg h _ => some h
  | .regionDereg h _ _ => some h
  | .doorbell h _ _ => some h
  | .commit h _ _ _ _ => some h
  | .rollback h _ _ _ _ => some h
  | _ => none

/-- The sequence numbers of the commands of a port that have still to start: those queued, and the one held. -/
def undecided (c : CpSt) : List (BitVec 32) :=
  ((if c.held then c.busy.toList else []) ++ c.queue.map Prod.fst).filterMap (fun i => (hdrOf i).map (fun h => h.seq))

/-- The history of a port with the answer of a command: kept with its response, or not kept where it is refused (R67). -/
def histAnswer (c : CpSt) (r : Resp) : List Hist :=
  if r.status ≤ 1 then keepLast (undecided c)
    (c.hist.map (fun h => if h.seq = r.seq ∧ h.resp = none then { h with resp := some r, repeats := [] } else h))
  else c.hist.filter (fun h => !(decide (h.seq = r.seq) && h.resp.isNone))

/-- A command that has started and is answered later is accepted, and takes its place among the port's last 64 (R67). -/
def acceptCmd (s : State) (p : Cp) : State :=
  let c := cpOf s p
  setCp s p { c with hist := keepLast (undecided c) c.hist }

/-- The command is answered: its response leaves once, and once for each repeat, to the sender of each (R66, R67); the port
that it holds goes on. -/
def answer (s : State) (h : CtlHdr) (op status code : Nat) (words : List Word) : State :=
  let r : Resp := ⟨h.port, h.src, h.seq, op, h.job, status, code, words⟩
  let c := cpOf s h.port
  let s1 := sendResp s r
  let s2 := each (repeatsOf c.hist h.seq) (fun s a => emit s (.resp { r with dst := a })) s1
  let free := match c.busy with
    | some i => decide (hdrOf i = some h)
    | none => false
  setCp s2 h.port { c with hist := histAnswer c r, busy := if free then none else c.busy }

/-! ### Registers through resets (R5, R469, R470) -/

/-- The row of a field, by its number. -/
def homeOf (n : Nat) : Option (RegRow × FldRow) :=
  regTable.findSome? (fun r => (r.flds.find? (fun f => f.fld.ctorIdx == n)).map (fun f => (r, f)))

/-- The function that holds instance `i` of a register. -/
def fnOf (r : RegRow) (i : Nat) : Nat := if r.core then coreFn (i / r.cnt) else r.fn

/-- The registers without the fields that a test of function and "Kept through" names: those return to reset (R5). -/
def loseRegs (s : State) (lost : Nat → Keep → Bool) : State :=
  { s with regs := s.regs.filter (fun p => match homeOf (p.1 % 1024) with
    | none => true
    | some (r, f) => !lost (fnOf r (p.1 / 1024)) f.keep) }

/-- The fields that a function reset of the mask's functions loses. -/
def lostInFn (mask : Nat) (fn : Nat) (k : Keep) : Bool := tst mask fn && decide (k ≠ .all)

/-- The fields that a module reset loses. -/
def lostInModule (_ : Nat) (k : Keep) : Bool := decide (k ≠ .all)

def lostInDoze (_ : Nat) (k : Keep) : Bool := decide (k = .none)

def lostInPark (_ : Nat) (k : Keep) : Bool := decide (k = .none) || decide (k = .doze)

/-- The latent errors of units that a test names are gone with their contents. -/
def loseEcc (s : State) (lost : EccUnit → Bool) : State := { s with ecc := s.ecc.filter (fun e => !lost e.unit) }

/-- A unit of die `d`. -/
def eccOnDie (d : Nat) : EccUnit → Bool
  | .hbm _ => false
  | .sram u => decide (memFn (8 * u) = d + 1)
  | .bank c _ _ => decide (c.val / 48 = d)
  | .weight c _ => decide (c.val / 48 = d)
  | .vreg c _ => decide (c.val / 48 = d)
  | .ibuf c _ _ => decide (c.val / 48 = d)

/-! ### A function enters reset (R467, R468, R301) -/

/-- The local SRAM and stream buffer of die `d` read as zero (R273, R465). -/
def zeroDie (s : State) (d : Nat) : State :=
  zeroMem (zeroMem s (sramBase (48 * d)) (sramBase (48 * d + 48))) (streamBase d) (streamBase d + 0x3000000)

def dieCores (d : Nat) : List Nat := (List.range 48).map (fun i => 48 * d + i)

def bothSlots : List Slot := [.prim, .fill]

/-- Every running task of the cores for which a test holds aborts with a code. -/
def abortWhere (s : State) (cs : List Nat) (code : Nat) (f : State → Nat → Slot → Bool) : State :=
  each cs (fun s c => each bothSlots (fun s sl => if f s c sl then abortTask s c sl code else s) s) s

/-- The slot has a descriptor in flight for which a test holds. -/
def hasFlight (s : State) (c : Nat) (sl : Slot) (f : Desc → Bool) : Bool :=
  (coreOf s c).flight.any (fun d => decide (d.slot = sl) && f d)

/-- The fire is of the slot's job, and the core holds its trigger or gate counter. -/
def fireOfTask (s : State) (c : Nat) (sl : Slot) (f : Fire) : Bool :=
  match slotJob s c sl, template s f.slot with
  | some j, some r => tJob r == j && holdsOn r c
  | _, _ => false

/-- The slot's task, or a fire of it, has a packet among those that `f` gives of each context. -/
def hasPackets (f : CtxSt → List Unacked) (s : State) (c : Nat) (sl : Slot) : Bool :=
  s.xpt.ctxs.any (fun p => (f p.2).any (fun u => match u.owner with
    | .dma c' id => c' == c && (coreOf s c).flight.any (fun d => d.id == id && decide (d.slot = sl))
    | .fire id => s.col.fires.any (fun f => f.id == id && fireOfTask s c sl f)
    | _ => false))

/-- The slot's task, or a fire of it, has a message with packets that are not acknowledged. -/
def hasUnacked (s : State) (c : Nat) (sl : Slot) : Bool := hasPackets (·.unacked) s c sl

/-- The slot's task has a fire in flight. -/
def hasFire (s : State) (c : Nat) (sl : Slot) : Bool := s.col.fires.any (fireOfTask s c sl)

/-- The next instruction's line is not in the instruction buffer. -/
def needsFetch (s : State) (c : Nat) (sl : Slot) : Bool :=
  match (slotOf s c sl).task with
  | none => false
  | some t => (coreOf s c).ibuf.all (fun p => p.1 != lineKey t)

def loseStr (s : State) (n : Nat) : State :=
  { s with shp := { s.shp with act := mset Structure.init s.shp.act n Structure.init } }

/-- A die loses its translations: its L2 TLB and walk cache, and its cores' L1 TLBs (R5, R279). -/
def loseTlb (s : State) (d : Nat) : State :=
  { s with mmu := { s.mmu with tlb := s.mmu.tlb.filter (fun t => match t.home with
      | .l1 c => c / 48 != d
      | .l2 e => e != d
      | .walks e => e != d) } }

/-- What die Cd's function reset reaches. -/
def resetDie (s : State) (d : Nat) : State :=
  let s1 := abortWhere s (dieCores d) 0x0E (fun s c sl => (slotJob s c sl).isSome)
  let cs := (armedTemplates s1).filter (fun r => (dieCores d).any (holdsOn r))
  let s2 := each cs (fun s r => if isArmed s r.slot then
      endCollective s 0xFFFF (tJob r) (tColl r) (get s .colTlive1_step r.slot) 0x0E 2 else s) s1
  let s3 := each (dieCores d) (fun s c =>
    setCore (bump s .numShdTiles_discarded (coreTiles (coreOf s c) .prim + coreTiles (coreOf s c) .fill)) c CoreSt.init) s2
  loseEcc (loseStr (zeroDie (loseTlb s3 d) d) (d + 1)) (eccOnDie d)

/-- What a function reset and Park keep of the armed operations' state: what belongs to registers that they keep. -/
def keptCol (c : ColSt) : ColSt := { ColSt.init with shards := c.shards, nanJobs := c.nanJobs }

/-- The moves of KV pages whose packets are on their way fail with a code (log entry 153). -/
def failMoves (s : State) (code : Nat) : State :=
  each (s.mmu.moves.filter (fun m => decide (m.left ≠ 0))) (fun s m => failMove s m.window m.page code) s

/-- What FN5's reset reaches: sent packets, and those that wait to be sent. -/
def resetFn5 (s : State) : State :=
  let s0 := abortWhere s allCores 0x0E (fun s c sl => hasFlight s c sl (fun d => d.ctx.isSome) || hasFire s c sl ||
    hasPackets (fun k => k.unacked ++ k.queue) s c sl)
  let s1 := failMoves s0 0x0E
  loseStr { s1 with xpt := { s1.xpt with ctxs := [], parts := [], flows := [] }, col := keptCol s1.col } 5

/-- A running media task ends with code 0x0E (R446): what it may write is undefined, word 15 of its status gives the code (R433), and
the abort is logged (R445). R445 gives no reason for this code: it is open (log entry 174). -/
def abortMedia (s : State) (e : Nat) (t : MedTask) : State :=
  let s1 := freeTick (each t.ranges (fun s r => scribbleVa 255 (medJob t) s r.1 r.2) s)
  let reason := freeNow s1 % 256
  let s2 := if t.rec_.isEmpty then s1
    else (medWrite s1 (medJob t) (bitsOf (t.rec_.getD 3 0).toNat 54 0 + 120) (status15 t 0x0E reason)).1
  logEvt s2 0x060 6 (medJob t) 0 e reason

/-- What FN6's reset reaches (R446). -/
def resetFn6 (s : State) : State :=
  { each s.med (fun s k => match k.2.task with
      | none => s
      | some t => abortMedia s k.1 t) s with med := [] }

/-- What FN7's reset reaches (R301). -/
def resetFn7 (s : State) : State :=
  let s1 := abortWhere s allCores 0x0E (fun s c sl => hasFlight s c sl (fun d => d.kind == 4 || d.kind == 5 || (!d.moved && descMoving s d)) ||
    needsFetch s c sl)
  { s1 with mmu := MmuSt.init }

/-- Every link goes out of service: a follower loses its parent (R38). -/
def loseParent (s : State) : State :=
  if (List.range 48).any (fun p => isParent s p && inService s p) then loseSync s else s

/-- What FN8's reset reaches. -/
def resetFn8 (s : State) : State :=
  let s1 := loseParent (abortWhere s allCores 0x0E hasUnacked)
  loseStr { s1 with lnk := [], xpt := { s1.xpt with flows := [] } } 8

/-- What function `n`'s reset reaches besides its registers (R468). -/
def resetFn (s : State) (n : Nat) : State :=
  if 1 ≤ n ∧ n ≤ 4 then resetDie s (n - 1)
  else if n = 5 then resetFn5 s
  else if n = 6 then resetFn6 s
  else if n = 7 then resetFn7 s
  else if n = 8 then resetFn8 s
  else s

/-- The open restore closes (R93). -/
def closeRestore (s : State) : State :=
  { put s .shpStat_restore_open 0 with shp := { s.shp with restore := none, pend := s.shp.pend.map (fun p => { p with restore := false }) } }

/-- The functions of a mask that are not in reset enter it (R467): their work aborts, their state is lost, an image pending
loses its copy there (R52), the load in progress records it (R86, reason 17), their bits set in `SHP_STAT.stale_fn` while a
shape image is active (R92), and any open restore closes. -/
def enterFnReset (s : State) (mask : Nat) : State :=
  let fns := (List.range 9).filter (fun n => tst mask n && decide (n ≠ 0) && !inReset s n)
  let m := fns.foldl (fun a n => a + 2 ^ n) 0
  let s1 := each fns resetFn s
  let s2 := loseRegs s1 (lostInFn m)
  let s3 := put (put s2 .rstStat_in_reset (get s .rstStat_in_reset + m)) .rstStat_ready
    ((List.range 9).foldl (fun a n => if fnReady s n && !tst m n then a + 2 ^ n else a) 0)
  let b := BitVec.ofNat 9 m
  let s4 := { s3 with
    shp := { s3.shp with pend := s3.shp.pend.map (fun p => { p with mask := p.mask &&& ~~~b }) }
    ctl := { s3.ctl with load := s3.ctl.load.map (fun l => { l with fnReset := l.fnReset ||| b }) } }
  let s5 := if s.shp.anyActive then put s4 .shpStat_stale_fn (get s4 .shpStat_stale_fn ||| m) else s4
  if m = 0 then s else closeRestore s5

/-! ### SMBus values held through a module reset (R490) -/

/-- The module leaves Park: FN1 to FN8 follow the rows of R464, but no module reset is in progress (R452). -/
def leavingPark (s : State) : Bool := decide (powerOf s = 3) && decide (s.pwr.prev = 2)

/-- A module reset is in progress: the sequence of R464 has started and is not complete. It stops, and is not in progress,
while no foundation image is active at its 2 ms row (R72; log entry 24). -/
def resetInProgress (s : State) : Bool :=
  decide (s.pwr.stage ≠ 0) && decide (s.pwr.stage ≠ 6) && !(decide (s.pwr.stage = 4) && s.ctl.found.isNone) && !leavingPark s

/-- The bits of `CTL_PLACE`. -/
def placeWord (s : State) : Nat :=
  get s .ctlPlace_slot + 2 ^ 2 * get s .ctlPlace_tray + 2 ^ 5 * get s .ctlPlace_group +
  2 ^ 12 * get s .ctlPlace_groups_m1 + 2 ^ 19 * get s .ctlPlace_placed

/-- The temperature of the hottest I/O die: what a trip has brought, until it clears; else what the sensor reads (R489; log entry 175). -/
def ioTemp (s : State) : Nat :=
  if get s .pwrTemp_io = 0 then (Config.ioTemp s.time.ticks).toNat else get s .pwrTemp_io

/-- The temperature at the inlet (R489; log entry 175). -/
def inletTemp (s : State) : Nat := (Config.inletTemp s.time.ticks).toNat

/-- The values that the SMBus target serves now: input voltage, power, interval, energy, temperatures, `CTL_PLACE` and the
bits of the status byte other than bit 2 (R489). -/
def smbLive (s : State) : List Nat :=
  [get s .pwrMeas_volts, get s .pwrMeas_power, get s .pwrMeas_interval, get s .pwrEnergy_mj,
   get s .pwrTemp_die + 2 ^ 32 * ioTemp s + 2 ^ 40 * get s .pwrTemp_hbm + 2 ^ 48 * inletTemp s,
   placeWord s,
   bit (fnReady s 0) + 2 * bit s.ctl.found.isSome + 8 * powerOf s + 32 * get s .evtStat_alert + 64 * get s .pwrStat_thermal]

/-- The sequence of R464 goes on: the values that the target serves now are the last sample (R490). -/
def holdSample (s : State) : State := { s with pwr := { s.pwr with snap := smbLive s } }

/-- What the target serves: the last sample while a module reset is in progress. -/
def smbValues (s : State) : List Nat := if resetInProgress s then s.pwr.snap else smbLive s

/-! ### Module reset (R462 to R465) -/

/-- Every function enters reset, and everything that is not kept through MR is lost. -/
def enterModuleReset (s : State) : State :=
  let s1 := loseRegs s lostInModule
  let s2 := put (put s1 .rstStat_in_reset 0x1FE) .rstStat_ready 0
  let s3 := { s2 with
    mem := [], ecc := [],
    time := { s2.time with
      named := [], shadows := [], eclipse := [], missed := 0, near := 0, far := 0, lastPps := none, ppsHigh := none,
      exch := [], ptp := PtpSt.init, delay := 0, slotAt := [], slotFrom := [], slotN := [] },
    ctl := { s2.ctl with cps := [], load := none, commits := [] },
    shp := ShapeSt.init, cores := [], num := NumSt.init, mmu := MmuSt.init,
    xpt := { s2.xpt with ctxs := [], parts := [], flows := [], deregs := [] },
    col := ColSt.init, lnk := [], med := [],
    pwr := { PwrSt.init with
      input := s.pwr.input, rails := s.pwr.rails, straps := s.pwr.straps, stage := 5, holds := s.pwr.holds,
      volts := s.pwr.volts, snap := smbValues s, waking := s.pwr.waking } }
  onlyIf s.time.ppsHigh.isSome (fun s => emit s (.pin 1 false)) s3

/-- The registers that show a foundation image as the active one (R74). -/
def showFound (s : State) (f : Found) : State :=
  putDigest (put (put (put s .secStat_found_active 1) .secStat_found_slot f.slot) .secStat_found_svn f.svn)
    .secFmeas_digest f.meas.toNat

/-- A staged foundation image becomes active (R74). -/
def activateStaged (s : State) : State :=
  match s.ctl.staged with
  | none => s
  | some f => showFound (put { s with ctl := { s.ctl with found := some f, staged := none } } .secStat_found_staged 0) f

/-- Row 0 of R464: the cause is recorded and counted, and a staged foundation image becomes active. -/
def startSequence (s : State) (cause : Nat) : State :=
  let s1 := activateStaged (put s .rstStat_cause cause)
  let s2 := if cause = 0 then s1 else bump s1 .rstCnt_module_resets
  let s3 := if cause = 3 then bump s2 .rstCnt_thermal_trips else s2
  { s3 with pwr := { s3.pwr with stage := 5 } }

/-- Each RST_FN under way is answered with status 5 by a MOD_RESET or HOLD_N that takes over (R466). -/
def takeOverRst (s : State) : State :=
  each s.pwr.rstWait (fun s x => answer s x.1 0x21 5 0 []) { s with pwr := { s.pwr with rstWait := [] } }

/-- A module reset with its cause (R464). -/
def moduleReset (s : State) (cause : Nat) : State := startSequence (enterModuleReset s) cause

end Sys2Proof.Machine
end

