-- ==== Sys2Proof/Machine/Power.lean ====
section
/-!
DEFINITION. Power and pins (spec/16_power_reset_retention.md, spec/17_module_hardware.md): power-on, the reset sequence,
trips and input faults, the power manager, the event log's tail and ALERT_N, and the SMBus target.
-/
namespace Sys2Proof.Machine

/-! ### Power-on and the reset sequence (R464, R479, R490, R493) -/

/-- POWER_APPLIED_AT_J3 (R461, R479, R488): J3 has reached the start threshold of 46.0 V; the straps are sampled, and the
module waits for its rails with everything but fuses and key store lost; the count of the nonces drawn goes on, so that no later NONCE
draws one again (R94). ALERT_N is released and TIDE_PPS_OUT high until FN0 is
ready (R484). -/
def execPowerAppliedAtJ3 (volts : BitVec 13) (addr1 addr0 : Bool) (s : State) : Host.Outcome State Fault Refusal :=
  if volts.toNat < 4600 then .next s
  else .next { State.reset with
    pending := s.pending, fuses := s.fuses, free := s.free + 1, out := s.out ++ [.pin 0 true, .pin 1 true],
    regs := [(rkey .rstStat_ready 0, 0)],
    ctl := { CtlSt.init with nonces := s.ctl.nonces }, xpt := { XptSt.init with seed := s.free, starts := s.xpt.starts },
    pwr := { PwrSt.init with
      input := true, rails := false, stage := 6, straps := BitVec.ofNat 2 (2 * bit addr1 + bit addr0),
      snap := [0, 0, 0, 0, 0, 0, 0], waking := true } }

/-- RAILS_IN_REGULATION (R490, R493): the REFCLK monitor, HOLD_N and the SMBus target work from here on. -/
def execRailsInRegulation (s : State) : Host.Outcome State Fault Refusal :=
  .next (onlyIf (s.pwr.input && !s.pwr.rails) (fun s => { s with pwr := { s.pwr with rails := true } }) s)

/-- No pin, trip or fault holds FN1 to FN8 in reset. -/
def noHolds (s : State) : Bool :=
  !s.pwr.holds.thermal && !s.pwr.holds.input && !s.pwr.holds.refclk && !s.pwr.holds.pin

/-- POWER_ON (R461, R493): the rails are in regulation, REFCLK is good and HOLD_N is high; the sequence starts with
cause 0. -/
def execPowerOn (s : State) : Host.Outcome State Fault Refusal :=
  .next (onlyIf (decide (s.pwr.stage = 6) && s.pwr.rails && !s.pwr.holds.refclk && !s.pwr.holds.pin)
    (fun s => startSequence (holdSample s) 0) s)

/-- The functions of a list leave reset. -/
def leaveReset (s : State) (fns : List Nat) : State :=
  put s .rstStat_in_reset
    ((List.range 9).foldl (fun a n => if inReset s n && !fns.contains n then a + 2 ^ n else a) 0)

/-- The functions of a list are ready. -/
def makeReady (s : State) (fns : List Nat) : State :=
  put s .rstStat_ready
    ((List.range 9).foldl (fun a n => if fnReady s n || fns.contains n then a + 2 ^ n else a) 0)

def setStage (s : State) (n : Nat) : State := { s with pwr := { s.pwr with stage := n } }

/-- FN0 is ready (R464, 2 ms row): from its first time on after power-on, TIDE_PPS_OUT is low between pulses (R484). -/
def fn0Ready (s : State) : State :=
  let s1 := setStage (makeReady s [0]) 4
  onlyIf s.pwr.waking (fun s => emit { s with pwr := { s.pwr with waking := false } } (.pin 1 false)) s1

/-- FN7 and FN8 leave reset (R464, 2 ms row); the links train from here on, also on leaving Park. -/
def leave78 (s : State) : State := setStage (trainAll (makeReady (leaveReset s [7, 8]) [8])) 3

/-- The next row of R464. -/
def nextStage (s : State) : State :=
  match s.pwr.stage with
  | 5 => if s.pwr.holds.pin then s else fn0Ready s
  | 4 => if s.ctl.found.isSome && noHolds s then leave78 s else s
  | 3 => if noHolds s then setStage (makeReady (leaveReset s [1, 2, 3, 4]) [7, 1, 2, 3, 4]) 2 else s
  | 2 => if noHolds s then setStage (makeReady (leaveReset s [5]) [5]) 1 else s
  | 1 =>
    if noHolds s then
      let s1 := setStage (makeReady (leaveReset s [6]) [6]) 0
      if powerOf s1 = 3 then s1
      else logEvt s1 0x001 0 0 0 (get s1 .rstStat_cause) (get s1 .secStat_found_svn)
    else s
  | _ => s

/-- RESET_SEQUENCE_STAGE (R464, R465, R72). -/
def execResetSequenceStage (s : State) : Host.Outcome State Fault Refusal := .next (nextStage s)

/-- The module is powered and a sequence has started. -/
def powered (s : State) : Bool := decide (s.pwr.stage ≠ 6)

/-! ### HOLD_N and MOD_RESET (R462, R463, R483) -/

def setHolds (s : State) (h : Holds) : State := { s with pwr := { s.pwr with holds := h } }

/-- HOLD_N_ASSERT (R463, R483): a filtered low holds the module in module reset. -/
def execHoldNAssert (s : State) : Host.Outcome State Fault Refusal :=
  if s.pwr.holds.pin then .next s
  else
    let s1 := if powered s then enterModuleReset (takeOverRst s) else s
    .next (setHolds s1 { s1.pwr.holds with pin := true })

/-- HOLD_N_RELEASE (R463): the sequence starts at the rising edge, with cause 1. -/
def execHoldNRelease (s : State) : Host.Outcome State Fault Refusal :=
  if s.pwr.holds.pin then
    let s1 := setHolds s { s.pwr.holds with pin := false }
    .next (if powered s1 then startSequence s1 1 else s1)
  else .next s

/-- MOD_RESET_TAKES_EFFECT (R462): 10 µs after the response left. -/
def execModResetTakesEffect (s : State) : Host.Outcome State Fault Refusal :=
  match s.pwr.resetAt with
  | none => .next s
  | some t => .next (onlyIf (decide (t ≤ s.time.ticks)) (fun s => moduleReset (takeOverRst s) 2) s)

/-! ### Trips and input faults (R459, R460, R479, R480, R486) -/

/-- The trip temperature of a sensor. -/
def tripAt : Sensor → Nat
  | .die _ => 110
  | .hbm _ => 105
  | .io => 110

/-- A die's temperature is read. -/
def setDieTemp (s : State) (d t : Nat) : State :=
  let x := get s .pwrTemp_die
  put s .pwrTemp_die (x - bitsOf x (8 * d + 7) (8 * d) * 2 ^ (8 * d) + t * 2 ^ (8 * d))

/-- A sensor's temperature is read. -/
def noteTemp (s : State) (sensor : Sensor) (t : Nat) : State :=
  match sensor with
  | .die d => setDieTemp s d.val t
  | .hbm _ => put s .pwrTemp_hbm (max t (get s .pwrTemp_hbm))
  | .io => put s .pwrTemp_io t

/-- THERMAL_TRIP (R459, R460): a module reset with cause 3; FN1 to FN8 stay in reset. The temperature is read before the reset,
and is there after it too. -/
def execThermalTrip (sensor : Sensor) (temp : BitVec 8) (s : State) : Host.Outcome State Fault Refusal :=
  if decide (tripAt sensor ≤ temp.toNat) && powered s && !s.pwr.holds.thermal then
    let s1 := noteTemp (moduleReset (noteTemp s sensor temp.toNat) 3) sensor temp.toNat
    .next (setHolds s1 { s1.pwr.holds with thermal := true })
  else .next s

/-- THERMAL_TRIP_CLEARED (R460): every sensor reads 85 °C or less, so what a trip of an I/O die brought holds no more. -/
def execThermalTripCleared (s : State) : Host.Outcome State Fault Refusal :=
  .next (setHolds (put s .pwrTemp_io 0) { s.pwr.holds with thermal := false })

/-- INPUT_FAULT (R460, R479, R480): below 44.0 V or above 57.0 V, in units of 10 mV; before power-on too it holds the sequence. -/
def execInputFault (volts : BitVec 13) (s : State) : Host.Outcome State Fault Refusal :=
  if (decide (volts.toNat < 4400) || decide (5700 < volts.toNat)) && !s.pwr.holds.input then
    let s1 := if powered s then moduleReset s 4 else s
    .next (setHolds s1 { s1.pwr.holds with input := true })
  else .next s

/-- REFCLK_LOSS (R486, R57): an input fault; the tide keeps counting. -/
def execRefclkLoss (s : State) : Host.Outcome State Fault Refusal :=
  if s.pwr.holds.refclk then .next s
  else
    let s1 := if powered s then moduleReset s 4 else s
    .next (setHolds s1 { s1.pwr.holds with refclk := true })

/-- One input fault is over: that of the voltage where it stands, else that of REFCLK (log entry 191). -/
def endFault (h : Holds) : Holds := if h.input then { h with input := false } else { h with refclk := false }

/-- INPUT_RECOVERED (R480, R485, R486): the voltage has stayed in range for 10 ms, or REFCLK has been good for 1 ms. Where both faults
stand each needs a recovery of its own. -/
def execInputRecovered (s : State) : Host.Outcome State Fault Refusal := .next (setHolds s (endFault s.pwr.holds))

/-! ### The power manager (R453 to R459) -/

/-- The cap in force (R458). -/
def capOf (s : State) : Nat := max 2000 (min (get s .pwrCap_cap) (variantTdp s.fuses.variant))

/-- The highest clock code and the set clock code (R458). -/
def clkMax (s : State) : Nat := min (get s .pwrClk_max) 60
def clkSet (s : State) : Nat := min (min (get s .pwrClk_set) 60) (clkMax s)

/-- The clock code of die `d`. -/
def dieClk (s : State) (d : Nat) : Nat := bitsOf (get s .pwrStat_die_clk) (6 * d + 5) (6 * d)

def setDieClk (s : State) (d v : Nat) : State :=
  let x := get s .pwrStat_die_clk
  put s .pwrStat_die_clk (x - dieClk s d * 2 ^ (6 * d) + (v % 64) * 2 ^ (6 * d))

/-- The clock that the loop gives the dies: the target in mode 0, the set clock in mode 1. -/
def loopClk (s : State) : Nat := if flag s .pwrCtl_mode then clkSet s else get s .pwrStat_target

/-- The die's supply current is above its limit: it stepped down for it at most 2 µs ago (R459; log entry 25). -/
def overNow (s : State) (d : Nat) : Bool :=
  s.pwr.overDie.getLsbD d && decide (s.time.ticks ≤ mget 0 s.pwr.overAt d + 2000)

/-- Die `d` runs at the loop's clock, unless a limit of R459 holds it lower (R454, R455). -/
def settleDie (s : State) (d : Nat) : State :=
  setDieClk s d (if s.pwr.hotDie.getLsbD d || overNow s d then min (dieClk s d) (loopClk s) else loopClk s)

/-- Every die takes the loop's clock or its limit. -/
def settleDies (s : State) : State := each (List.range 4) settleDie s

/-- Issue is held until `ticks + n` (R455, R456); the interval's held time grows by what is new. -/
def holdIssue (s : State) (n : Nat) : State :=
  let e := max s.pwr.holdEnd (s.time.ticks + n)
  { s with pwr := { s.pwr with
    holdEnd := e, heldNs := s.pwr.heldNs + (e - max s.pwr.holdEnd s.time.ticks) } }

/-- The power manager holds issue now. -/
def throttled (s : State) : Bool := decide (s.time.ticks < s.pwr.holdEnd)

/-- The power manager works: FN0 is up and the module is in Run or Doze or Park. -/
def pwrUp (s : State) : Bool := fn0Up s

/-- PWR_SAMPLE (R453, R456): one sample of the input, each µs. -/
def execPwrSample (watts volts : BitVec 13) (s : State) : Host.Outcome State Fault Refusal :=
  .next (onlyIf (pwrUp s) (fun s =>
    let w := watts.toNat
    let uj := s.pwr.uj + w
    let s1 := { s with pwr := { s.pwr with
      samples := (w :: s.pwr.samples).take 10, total := s.pwr.total + w, count := s.pwr.count + 1,
      volts := volts.toNat, uj := uj % 1000 } }
    let s2 := bumpW (put s1 .pwrMeas_volts volts.toNat) .pwrEnergy_mj (uj / 1000)
    if 11 * capOf s2 < 10 * w then bump (holdIssue s2 1000) .pwrThr_guard_holds else s2) s)

/-- PWR_COMPARE (R453 to R455, R458): the mean of the last ten samples against the cap. -/
def execPwrCompare (s : State) : Host.Outcome State Fault Refusal :=
  .next (onlyIf (pwrUp s && !s.pwr.samples.isEmpty) (fun s =>
    let n := s.pwr.samples.length
    let sum := s.pwr.samples.sum
    let above := decide (n * capOf s < sum)
    let below := decide (100 * sum < 97 * n * capOf s)
    let s1 := put s .pwrMeas_power (sum / n)
    if flag s .pwrCtl_mode then
      let h := get s .pwrStat_hold
      let h' := if above then min 15 (h + 1) else if below then h - 1 else h
      settleDies (holdIssue (put s1 .pwrStat_hold h') (625 * h'))
    else
      let t := get s .pwrStat_target
      if above then
        if t = 0 then settleDies s1 else settleDies (bump (put s1 .pwrStat_target (t - 1)) .pwrThr_cap_steps)
      else if below && decide (t < clkMax s) then settleDies (put s1 .pwrStat_target (t + 1))
      else settleDies s1) s)

/-- THERMAL_STEP_DOWN (R459): the die's clock steps down from 95 °C until the die is at 92 °C. -/
def execThermalStepDown (d : Die) (temp : BitVec 8) (s : State) : Host.Outcome State Fault Refusal :=
  .next (onlyIf (pwrUp s) (fun s =>
    let t := temp.toNat
    let s1 := setDieTemp s d.val t
    let hot := s.pwr.hotDie.getLsbD d.val
    if t ≥ 95 ∨ (hot ∧ t > 92) then
      let s2 := if hot then s1 else logEvt s1 0x004 (d.val + 1) 0 0 d.val t
      let s3 := { s2 with pwr := { s2.pwr with hotDie := s2.pwr.hotDie ||| (1#4 <<< d.val) } }
      let s4 := put s3 .pwrStat_thermal 1
      if dieClk s4 d.val = 0 then s4 else bump (setDieClk s4 d.val (dieClk s4 d.val - 1)) .pwrThr_thermal_steps
    else if hot then
      let h := s1.pwr.hotDie &&& ~~~(1#4 <<< d.val)
      let s2 := { s1 with pwr := { s1.pwr with hotDie := h } }
      settleDie (put s2 .pwrStat_thermal (bit (decide (h ≠ 0)))) d.val
    else s1) s)

/-- CURRENT_STEP_DOWN (R459): the die's supply current is above its limit; the first step of an excursion is logged. -/
def execCurrentStepDown (d : Die) (s : State) : Host.Outcome State Fault Refusal :=
  .next (onlyIf (pwrUp s) (fun s =>
    let s1 := if dieClk s d.val = 0 then s else bump (setDieClk s d.val (dieClk s d.val - 1)) .pwrThr_thermal_steps
    let s2 := { s1 with pwr := { s1.pwr with
      overDie := s1.pwr.overDie ||| (1#4 <<< d.val), overAt := mset 0 s1.pwr.overAt d.val s1.time.ticks } }
    if overNow s d.val then s2 else logEvt s2 0x005 (d.val + 1) 0 0 d.val (dieClk s2 d.val)) s)

/-- HBM_TEMP_THRESHOLD (R269, R459): refresh doubles above 85 °C; from 95 °C the stack is held to half rate. -/
def execHbmTempThreshold (stack : Fin 20) (temp : BitVec 8) (s : State) : Host.Outcome State Fault Refusal :=
  .next (onlyIf (fnReady s 7 && decide (stack.val < variantStacks s.fuses.variant)) (fun s =>
    let old := get s .hbmStack_temp stack.val
    let s1 := put (put s .hbmStack_temp temp.toNat stack.val) .hbmStack_hot (bit (decide (85 < temp.toNat))) stack.val
    let top := (List.range 20).foldl (fun m i => max m (get s1 .hbmStack_temp i)) 0
    let s2 := put s1 .pwrTemp_hbm top
    if 95 ≤ temp.toNat ∧ old < 95 then logEvt s2 0x004 7 0 0 4 temp.toNat else s2) s)

/-- WANT_LOWER_UPDATE at an epoch boundary (R457), and the interval's mean power. -/
def wantLower (s : State) : State :=
  let rest := s.pwr.holdEnd - s.time.ticks
  let held := s.pwr.heldNs - rest
  let want := decide (get s .pwrCtl_want_frac * 65536 < 16 * held)
  let s1 := if s.pwr.count = 0 then s else put s .pwrMeas_interval (s.pwr.total / s.pwr.count)
  let s2 := { s1 with pwr := { s1.pwr with total := 0, count := 0, heldNs := s1.pwr.heldNs - held } }
  let s3 := put s2 .pwrStat_want_lower (bit want)
  if want && !flag s .pwrStat_want_lower then
    logEvt (bump s3 .pwrThr_want_events) 0x006 0 0 0 (16 * held / 65536) (loopClk s3)
  else s3

/-! ### Power states (R447 to R452) -/

/-- None of a job's commands runs, none of its armed operations is armed and none of its DMA is outstanding (R89). -/
def quiescent (s : State) (j : Nat) : Bool :=
  allCores.all (fun c => bothSlots.all (fun sl => slotJob s c sl != some j) &&
    (coreOf s c).flight.all (fun d => d.job != j) &&
    (coreOf s c).dmaq.all (fun p => p.2.entries.all (fun d => d.job != j))) &&
  (armedTemplates s).all (fun r => tJob r != j)

/-- Every media ring is idle: its head equals its tail, or it is disabled. -/
def mediaIdle (s : State) : Bool :=
  (List.range 2).all (fun e => !flag s .medRing_en e || get s .medHead_head e == get s .medTail_tail e)

/-- The condition of Run to Doze (R448). -/
def dozeOk (s : State) : Bool :=
  s.shp.jobs.all (quiescent s) &&
  allCores.all (fun c => bothSlots.all (fun sl => (slotOf s c sl).queue.isEmpty)) &&
  s.mmu.moves.isEmpty && decide (get s .rstStat_in_reset = 0)

/-- The transition's condition from a state to a target (R448). -/
def transOk (s : State) (from_ target : Nat) : Bool :=
  if from_ = 0 ∧ target = 1 then dozeOk s
  else if from_ = 0 ∧ target = 2 then dozeOk s && mediaIdle s
  else if from_ = 1 ∧ target = 2 then mediaIdle s
  else if from_ = 2 ∧ target = 1 then false
  else true

/-- POWER_TRANSITION_START at its epoch (R447, R448): the condition is checked again. -/
def startTransition (s : State) (t : PowerTrans) : State :=
  let now := powerOf s
  let s1 := { s with pwr := { s.pwr with pend := none } }
  if t.target = now then answer s1 t.hdr 0x22 0 0 []
  else if transOk s now t.target then
    let s2 := { put s1 .pwrStat_state 3 with pwr := { s1.pwr with active := some t, prev := now } }
    if now = 2 then setStage s2 4 else s2
  else answer s1 t.hdr 0x22 5 0 []

/-- Entry into Park (R451): FN1 to FN8 lose their registers, structure and memory; the links go down, the parent's among them
(R38). Of an image that is pending only FN0's copy is left (R470); what Park does to a load in progress, which stands in FN0, the
spec does not say (log entry 142). -/
def enterPark (s : State) : State :=
  let s1 := closeRestore (loseRegs (loseParent s) lostInPark)
  let s2 := put (put s1 .rstStat_in_reset 0x1FE) .rstStat_ready 1
  { s2 with
    mem := [], ecc := [], cores := [], mmu := MmuSt.init, col := keptCol s2.col, lnk := [], med := [],
    xpt := { s2.xpt with ctxs := [], parts := [], flows := [] },
    shp := { s2.shp with
      act := s2.shp.act.filter (fun p => p.1 == 0)
      pend := s2.shp.pend.map (fun p => { p with mask := p.mask &&& 1 }) } }

/-- What a power state's entry loses (R5, R450, R451), and what leaving Park leaves stale (R92, R452). -/
def enterState (s : State) (prev target : Nat) : State :=
  if target = 2 then enterPark s
  else
    let s1 := if target = 1 then loseRegs s lostInDoze else s
    if prev = 2 ∧ s1.shp.anyActive then put s1 .shpStat_stale_fn 0x1FE else s1

/-- POWER_TRANSITION_DONE (R448 to R452). -/
def execPowerTransitionDone (s : State) : Host.Outcome State Fault Refusal :=
  match s.pwr.active with
  | none => .next s
  | some t =>
    if s.pwr.prev = 2 ∧ s.pwr.stage ≠ 0 then .next s
    else
      let s1 := enterState { s with pwr := { s.pwr with active := none } } s.pwr.prev t.target
      let s2 := logEvt (put s1 .pwrStat_state t.target) 0x003 0 0 0 t.target s.pwr.prev
      .next (answer s2 t.hdr 0x22 0 0 [])

/-! ### The event log's tail and ALERT_N (R473, R474) -/

/-- A write of `EVT_TAIL` (R474). -/
def evtTail (s : State) (v : Nat) : State :=
  let t := get s .evtTail_tail
  let u := get s .evtStat_unread
  let d := (v % 1024 + 1024 - t) % 1024
  if d = 0 ∨ u < d then s
  else put (put (put s .evtTail_tail v) .evtStat_unread (u - d)) .evtStat_full 0

/-- EVT_TAIL_WRITE (R472, R474). -/
def execEvtTailWrite (tail : BitVec 10) (s : State) : Host.Outcome State Fault Refusal :=
  .next (onlyIf (fn0Up s) (fun s => evtTail s tail.toNat) s)

/-- A write of 1 to `EVT_STAT.alert`: ALERT_N is released (R473). -/
def clearAlert (s : State) : State :=
  if flag s .evtStat_alert then emit (put s .evtStat_alert 0) (.pin 0 true) else s

/-- EVT_ALERT_CLEAR (R473, R484). -/
def execEvtAlertClear (s : State) : Host.Outcome State Fault Refusal := .next (onlyIf (fn0Up s) clearAlert s)

/-! ### SMBus (R488 to R490) -/

/-- The bytes that the target answers to a read of a known command (R489). -/
def smbAnswer (s : State) (cmd : Nat) : Option Bytes :=
  let v := smbValues s
  if cmd = 0x00 then some (toLe 1 (v.getD 6 0 + 4 * bit (resetInProgress s)))
  else if cmd = 0x01 then some (toLe 2 (v.getD 0 0))
  else if cmd = 0x02 then some (toLe 2 (v.getD 1 0))
  else if cmd = 0x03 then some (toLe 2 (v.getD 2 0))
  else if cmd = 0x04 then some (toLe 8 (v.getD 3 0))
  else if cmd = 0x10 then some (toLe 8 (v.getD 4 0))
  else if cmd = 0x20 then some (toLe 8 s.fuses.serial.toNat ++
    toLe 8 (get s .idnVariant_hbm_stacks + 2 ^ 5 * get s .idnVariant_io_dies + 2 ^ 8 * get s .idnVariant_port_groups +
      2 ^ 12 * get s .idnVariant_numeric_gen) ++
    toLe 8 (get s .idnVersions_link_versions + 2 ^ 8 * get s .idnVersions_transport_versions +
      2 ^ 16 * get s .idnVersions_image_version + 2 ^ 24 * get s .idnVersions_launch_version) ++
    toLe 8 (v.getD 5 0))
  else none

/-- The target's address (R488). -/
def smbAddr (s : State) : Nat := 0x58 + s.pwr.straps.toNat

/-- One byte of the packet error code of SMBus 3.1: CRC-8 with polynomial 0x07 (PRESUMED, log entry 169). -/
def pecByte (r b : Byte) : Byte :=
  (List.range 8).foldl (fun x _ => if x.getLsbD 7 then (x <<< 1) ^^^ 0x07 else x <<< 1) (r ^^^ b)

/-- The packet error code of a read: over the address with a write, the command, the address with a read, the count of a block, and the
bytes. -/
def smbPec (s : State) (cmd : Nat) (block : Bool) (b : Bytes) : Nat :=
  let head : Bytes := [BitVec.ofNat 8 (2 * smbAddr s), BitVec.ofNat 8 cmd, BitVec.ofNat 8 (2 * smbAddr s + 1)]
  ((head ++ (if block then [BitVec.ofNat 8 b.length] else []) ++ b).foldl pecByte 0).toNat

/-- A read that the target answers, once its rails are in regulation (R490): Block Reads answer more than two bytes. -/
def smbRead (s : State) (cmd : Nat) : State :=
  if s.pwr.rails then
    match smbAnswer s cmd with
    | some b => emit s (.smb (smbAddr s) cmd (b.map (·.toNat)) (smbPec s cmd (decide (2 < b.length)) b))
    | none => s
  else s

/-- SMB_STATUS_READ (R488 to R490). -/
def execSmbStatusRead (s : State) : Host.Outcome State Fault Refusal := .next (smbRead s 0x00)

/-- SMB_VOLTAGE_READ (R489, R490). -/
def execSmbVoltageRead (s : State) : Host.Outcome State Fault Refusal := .next (smbRead s 0x01)

/-- SMB_POWER_READ (R489). -/
def execSmbPowerRead (s : State) : Host.Outcome State Fault Refusal := .next (smbRead s 0x02)

/-- SMB_POWER_INTERVAL_READ (R489). -/
def execSmbPowerIntervalRead (s : State) : Host.Outcome State Fault Refusal := .next (smbRead s 0x03)

/-- SMB_ENERGY_READ (R489). -/
def execSmbEnergyRead (s : State) : Host.Outcome State Fault Refusal := .next (smbRead s 0x04)

/-- SMB_TEMPERATURE_READ (R489). -/
def execSmbTemperatureRead (s : State) : Host.Outcome State Fault Refusal := .next (smbRead s 0x10)

/-- SMB_IDENTITY_READ (R488, R489). -/
def execSmbIdentityRead (s : State) : Host.Outcome State Fault Refusal := .next (smbRead s 0x20)

/-- SMB_UNKNOWN_READ (R489): bytes of 0xFF. -/
def execSmbUnknownRead (cmd len : BitVec 8) (s : State) : Host.Outcome State Fault Refusal :=
  .next (onlyIf (s.pwr.rails && (smbAnswer s cmd.toNat).isNone)
    (fun s => emit s (.smb (smbAddr s) cmd.toNat (List.replicate len.toNat 0xFF)
      (smbPec s cmd.toNat false (List.replicate len.toNat 0xFF)))) s)

/-- SMB_WRITE_REFUSED (R489): NAKed at its first data byte; nothing changes. -/
def execSmbWriteRefused (cmd : BitVec 8) (s : State) : Host.Outcome State Fault Refusal :=
  .next (onlyIf s.pwr.rails (fun s => emit s (.smbNak (smbAddr s) cmd.toNat)) s)

end Sys2Proof.Machine
end

