-- ==== Sys2Proof/Machine/Operands.lean ====
section
/-!
DEFINITION. What every core instruction shares (spec/05_core_programs_and_vector_engine.md): its 128-bit word, the fetch
of its line, the conditions of issue, its operands, and what an abort or an issue leaves.
-/
namespace Sys2Proof.Machine

/-! ### Instruction words (R146, R149) -/

/-- The word of a register-form instruction. -/
def regWord (op : Nat) (f : RegForm) : Nat :=
  op + f.pred.toNat * 2 ^ 8 + bit f.pneg * 2 ^ 11 + f.rsv0.toNat * 2 ^ 12 + f.rd.toNat * 2 ^ 16 + f.ra.toNat * 2 ^ 22 +
  f.rb.toNat * 2 ^ 28 + f.rc.toNat * 2 ^ 34 + f.fmt.toNat * 2 ^ 40 + f.smode.toNat * 2 ^ 44 + f.rnd.toNat * 2 ^ 46 +
  f.sub.toNat * 2 ^ 48 + f.rsv1.toNat * 2 ^ 52 + f.imm.toNat * 2 ^ 64

/-- The word of a tensor-form instruction. -/
def tensorWord (op : Nat) (f : TensorForm) : Nat :=
  op + f.pred.toNat * 2 ^ 8 + bit f.pneg * 2 ^ 11 + f.rsv0.toNat * 2 ^ 12 + f.array.toNat * 2 ^ 16 +
  f.fmt.toNat * 2 ^ 19 + f.smode.toNat * 2 ^ 23 + f.rnd.toNat * 2 ^ 25 + bit f.first * 2 ^ 27 + bit f.bank * 2 ^ 28 +
  bit f.tcEn * 2 ^ 29 + f.tc.toNat * 2 ^ 30 + f.moon.toNat * 2 ^ 38 + f.sreg.toNat * 2 ^ 50 + f.rsv1.toNat * 2 ^ 55 +
  f.addr.toNat * 2 ^ 64 + f.bsaddr.toNat * 2 ^ 86 + f.rows.toNat * 2 ^ 108 + f.stride.toNat * 2 ^ 117 +
  f.rsv2.toNat * 2 ^ 126

/-- The opcodes of the opcode table. -/
def opcodes : List Nat :=
  [0x00, 0x01, 0x02, 0x03, 0x04] ++ (List.range 15).map (· + 0x20) ++ [0x40, 0x41, 0x42] ++
  (List.range 21).map (· + 0x60) ++ [0x80, 0x81, 0xA0, 0xA1, 0xA2] ++ (List.range 5).map (· + 0xC0) ++
  (List.range 5).map (· + 0xE0)

/-! ### The running task -/

def taskOf (s : State) (c : Nat) (sl : Slot) : Option Task := (slotOf s c sl).task

/-- The state with the running task changed. -/
def updTask (s : State) (c : Nat) (sl : Slot) (f : Task → Task) : State :=
  setSlot s c sl { slotOf s c sl with task := (taskOf s c sl).map f }

/-- The job of the running task; 0 where none runs. -/
def taskJob (s : State) (c : Nat) (sl : Slot) : Nat :=
  match taskOf s c sl with
  | none => 0
  | some t => t.launch.job

/-- The instruction has issued and the next one follows it. -/
def advance (s : State) (c : Nat) (sl : Slot) : State :=
  let x := slotOf s c sl
  setSlot s c sl { x with task := x.task.map (fun t => { t with index := (t.index + 1) % idxMod }), issued := true }

/-- The instruction has issued and the next one is at another index. -/
def jumpTo (s : State) (c : Nat) (sl : Slot) (off : Int) : State :=
  let x := slotOf s c sl
  setSlot s c sl { x with
    task := x.task.map (fun t => { t with index := ((t.index + off) % (idxMod : Int)).toNat }), issued := true }

/-! ### Fetch (R140, R142, R279, R282) -/

/-- The line of the next instruction, where the buffer holds it. -/
def lineOf (s : State) (c : Nat) (sl : Slot) : Option (BitVec 128) :=
  match taskOf s c sl with
  | none => none
  | some t => ((coreOf s c).ibuf.find? (fun p => p.1 == lineKey t)).map (·.2)

/-- The core's instruction buffer without a line. -/
def dropLine (s : State) (c : Nat) (k : Nat × Nat) : State :=
  setCore s c { coreOf s c with ibuf := (coreOf s c).ibuf.filter (fun p => p.1 != k) }

/-- A parity error in the next instruction's line: it is counted, and the line leaves the buffer to be fetched again
(R142). -/
def ibufParity (s : State) (c : Core) (sl : Slot) : State :=
  match taskOf s c sl with
  | none => s
  | some t =>
    let u := EccUnit.ibuf c t.launch.job (pcOf t)
    if (lineOf s c sl).isSome && s.ecc.any (fun m => m.unit == u) then
      bump (dropLine { s with ecc := s.ecc.filter (fun m => m.unit != u) } c (lineKey t)) .vecErr_ibuf_parity 1 c
    else s

/-- Instructions that the buffer holds: 32 KiB (R140; log entry 145: the line read longest ago gives way). -/
def ibufLines : Nat := 2048

/-- A word read into the buffer; one whose opcode the table does not hold aborts the task (R148). -/
def keepLine (s : State) (c : Nat) (sl : Slot) (key : Nat × Nat) (w : Nat) : State :=
  if opcodes.contains (w % 256) then
    let l := (coreOf s c).ibuf ++ [(key, BitVec.ofNat 128 w)]
    setCore s c { coreOf s c with ibuf := l.drop (l.length - ibufLines) }
  else abortTask s c sl 0x0B

/-- A move in progress holds the fetch of the next instruction (R283, R295). -/
def lineMoving (s : State) (c : Nat) (sl : Slot) : Bool :=
  match taskOf s c sl with
  | none => false
  | some t => rangeMoving s t.launch.job (pcOf t) 16

/-- The fetch of the next instruction's line through the MMU; from a memory whose function is in reset it aborts the task (R467). -/
def fetchLine (s : State) (c : Core) (sl : Slot) : State :=
  match taskOf s c sl with
  | none => s
  | some t =>
    let va := pcOf t
    let job := t.launch.job
    match xlat s c job va false true with
    | .bad r k => abortTask (noteFault s job c 0 va r k) c sl k
    | .here o =>
      if !fnReady s (memFn o) then abortTask s c sl 0x0E else
      let r := readMem (noteWalk s c job va true) o 16
      match r.2.1 with
      | some u => abortTask (noteUnit r.1 u job c) c sl (ueCode u)
      | none => keepLine r.1 c sl (lineKey t) (leNat r.2.2)
    | _ => s

/-- The line is fetched where the buffer does not hold it; while FN7 is in reset that aborts the task (R467). -/
def needLine (s : State) (c : Core) (sl : Slot) : State :=
  let s1 := ibufParity s c sl
  if (lineOf s1 c sl).isSome then s1
  else if !fnReady s1 7 then (if (taskOf s1 c sl).isSome then abortTask s1 c sl 0x0E else s1)
  else if lineMoving s1 c sl then s1
  else fetchLine s1 c sl

/-! ### Registers (R143, R144) -/

def sregOf (s : State) (c : Nat) (sl : Slot) (r : Nat) : Nat :=
  if r = 0 then 0 else (mget (0 : Word) (slotOf s c sl).sreg r).toNat

def setSreg (s : State) (c : Nat) (sl : Slot) (r v : Nat) : State :=
  if r = 0 then s
  else setSlot s c sl { slotOf s c sl with sreg := mset (0 : Word) (slotOf s c sl).sreg r (BitVec.ofNat 64 v) }

def pregOf (s : State) (c : Nat) (sl : Slot) (r : Nat) : BitVec 512 :=
  if r = 0 then BitVec.allOnes 512 else mget (0 : BitVec 512) (slotOf s c sl).preg r

def setPreg (s : State) (c : Nat) (sl : Slot) (r : Nat) (v : BitVec 512) : State :=
  if r = 0 then s
  else setSlot s c sl { slotOf s c sl with preg := mset (0 : BitVec 512) (slotOf s c sl).preg r v }

/-- The predicate that governs an instruction, after pneg. -/
def predOf (s : State) (c : Nat) (sl : Slot) (p : BitVec 3) (neg : Bool) : BitVec 512 :=
  if neg then ~~~(pregOf s c sl p.toNat) else pregOf s c sl p.toNat

/-- An instruction outside the vector class runs: bit 0 of its predicate is true (R147). -/
def enabled (s : State) (c : Nat) (sl : Slot) (p : BitVec 3) (neg : Bool) : Bool := (predOf s c sl p neg).getLsbD 0

/-! ### What a held task waits for (R139, R166) -/

/-- A tensor command of a slot is queued or runs in one of the core's arrays. -/
def arraysBusy (s : State) (c : Nat) (sl : Slot) : Bool :=
  (List.range 8).any (fun a => (arrOf s c a).queue.any (fun q => decide (q.slot = sl)) ||
    (arrOf s c a).run.any (fun r => decide (r.cmd.slot = sl)))

/-- A descriptor of a slot is outstanding (R313). -/
def dmaBusy (s : State) (c : Nat) (sl : Slot) : Bool :=
  (coreOf s c).flight.any (fun d => decide (d.slot = sl)) ||
  (List.range 16).any (fun q => (dmaqOf (coreOf s c) q).entries.any (fun d => decide (d.slot = sl)))

/-- Everything that the task issued has completed (R139). -/
def taskIdle (s : State) (c : Nat) (sl : Slot) : Bool := !arraysBusy s c sl && !dmaBusy s c sl

/-- An array has an empty queue and no pass in flight: no TSTREAM of its run (R123, R166). -/
def arrQuiet (s : State) (c a : Nat) : Bool :=
  (queuedOn s c [a]).isEmpty && (arrOf s c a).queue.isEmpty && (runsOn s c [a]).all (fun r => decide (r.cmd.kind ≠ .stream))

/-- The condition of a held wait. -/
def waitHolds (s : State) (c : Nat) (sl : Slot) : WaitKind → Bool
  | .tc i v => decide (v ≤ tcSeen s c i)
  | .dma q n => decide ((dmaqOf (coreOf s c) q).entries.length +
      ((coreOf s c).flight.filter (fun d => d.q == q)).length ≤ n)
  | .arr m => (List.range 8).all (fun a => !tst m a || arrQuiet s c a)
  | .tide t => decide (t ≤ effTide s)
  | .slot k since => match lastSlot s k (effTide s) with
    | none => false
    | some b => decide (since < b)
  | .done => taskIdle s c sl

/-! ### Fields (R148) -/

/-- The fields that every register form checks: reserved bits, fmt 0xF, rnd 3, and rnd 2 where it is not allowed. -/
def regOk (f : RegForm) (stochastic : Bool) : Bool :=
  decide (f.rsv0 = 0) && decide (f.rsv1 = 0) && decide (f.fmt ≠ 15) && decide (f.rnd ≠ 3) &&
  (decide (f.rnd ≠ 2) || stochastic)

/-- A scalar register field is in S0 to S31. -/
def sOk (r : BitVec 6) : Bool := decide (r.toNat < 32)

/-- A predicate register field is in P0 to P7. -/
def pOk (r : BitVec 6) : Bool := decide (r.toNat < 8)

/-- A counter of another job aborts the task with code 0x01 (R164). -/
def ownsTc (s : State) (c : Nat) (sl : Slot) (i : Nat) : Bool := tcOwner s c i == taskJob s c sl

/-! ### Wait instructions (R139, R166) -/

/-- The counter that an instruction names. -/
def tcIdx (f : RegForm) : Nat := f.imm.toNat % 256

/-- The value operand of TCSET, TCADD and WAITTC. -/
def tcOperand (s : State) (c : Nat) (sl : Slot) (f : RegForm) : Nat :=
  if f.sub.getLsbD 0 then bitsOf f.imm.toNat 63 32 else sregOf s c sl f.ra.toNat

/-- The fields of a register-form word: the inverse of `regWord`. -/
def regFields (w : Nat) : RegForm :=
  ⟨BitVec.ofNat 3 (bitsOf w 10 8), tst w 11, BitVec.ofNat 4 (bitsOf w 15 12), BitVec.ofNat 6 (bitsOf w 21 16),
   BitVec.ofNat 6 (bitsOf w 27 22), BitVec.ofNat 6 (bitsOf w 33 28), BitVec.ofNat 6 (bitsOf w 39 34),
   BitVec.ofNat 4 (bitsOf w 43 40), BitVec.ofNat 2 (bitsOf w 45 44), BitVec.ofNat 2 (bitsOf w 47 46),
   BitVec.ofNat 4 (bitsOf w 51 48), BitVec.ofNat 12 (bitsOf w 63 52), BitVec.ofNat 64 (bitsOf w 127 64)⟩

/-- What an END or a wait instruction waits for; none where it would abort its task, and for every other instruction. -/
def waitOf (s : State) (c : Nat) (sl : Slot) (op : Nat) (f : RegForm) : Option WaitKind :=
  match op with
  | 0x01 => some .done
  | 0xC0 => if (f.sub.getLsbD 0 || sOk f.ra) && ownsTc s c sl (tcIdx f) then some (.tc (tcIdx f) (tcOperand s c sl f)) else none
  | 0xC1 =>
    let w := dmaWindow s c sl
    if f.imm.toNat % 16 < w.2 then some (.dma (w.1 + f.imm.toNat % 16) (bitsOf f.imm.toNat 63 32)) else none
  | 0xC2 => some (.arr (f.imm.toNat % 256))
  | 0xC3 => if sOk f.ra then some (.tide (sregOf s c sl f.ra.toNat)) else none
  | 0xC4 => if slotEn s (f.imm.toNat % 8) then some (.slot (f.imm.toNat % 8) s.time.tide) else none
  | _ => none

/-- The word is an END with work outstanding or a wait whose condition does not hold: it does not issue yet. -/
def waits (s : State) (c : Nat) (sl : Slot) (w : Nat) : Bool :=
  let f := regFields w
  regOk f false && enabled s c sl f.pred f.pneg && (waitOf s c sl (w % 256) f).any (fun k => !waitHolds s c sl k)

/-! ### Issue (R147, R148, R156, R340) -/

/-- The queue of the slot that a DMAQ or DMAF word names is full (R304). -/
def fullQueue (s : State) (c : Nat) (sl : Slot) (w : Nat) : Option Nat :=
  let q := (dmaWindow s c sl).1 + bitsOf w 51 48
  if (w % 256 = 0x80 ∨ w % 256 = 0x81) ∧ bitsOf w 51 48 < (dmaWindow s c sl).2 ∧ qDepth s c q ≠ 0 ∧ qDepth s c q ≤ qHeld s c q
  then some q else none

/-- The command queue of the array that a tensor word names is full (R101). -/
def fullArray (s : State) (c : Nat) (w : Nat) : Bool :=
  decide (0x40 ≤ w % 256 ∧ w % 256 ≤ 0x42) && decide (4 ≤ (arrOf s c (bitsOf w 18 16)).queue.length)

/-- The predicate of an instruction word outside the vector class lets it run (R147). -/
def wordOn (s : State) (c : Nat) (sl : Slot) (w : Nat) : Bool :=
  enabled s c sl (BitVec.ofNat 3 (bitsOf w 10 8)) (tst w 11)

/-- A full queue stalls an instruction word (R101, R304). -/
def stalls (s : State) (c : Nat) (sl : Slot) (w : Nat) : Bool :=
  wordOn s c sl w && ((fullQueue s c sl w).isSome || fullArray s c w)

/-- The slot has an issuable instruction: the wait or END that holds its task has its condition met, or the task is not held
and its next instruction is in the buffer, not stalled, and no wait or END that would hold it (R156, R340). -/
def issuable (s : State) (c : Nat) (sl : Slot) : Bool :=
  match taskOf s c sl with
  | none => false
  | some t => match t.wait with
    | some w => waitHolds s c sl w.kind
    | none => ((lineOf s c sl).map (fun w => !stalls s c sl w.toNat && !waits s c sl w.toNat)).getD false

/-- The sequencer has issued an instruction in this clk (R156). -/
def issuedNow (s : State) (c : Nat) : Bool := (slotOf s c .prim).issued || (slotOf s c .fill).issued

/-- The filler may issue in this clk: the primary neither has issued nor can issue, and the gate is open or the primary slot
holds no job (R156, R340). -/
def fillerMay (s : State) (c : Nat) : Bool :=
  !issuedNow s c && !issuable s c .prim && ((coreOf s c).gate || (slotGroup s c .prim).isNone)

/-- The slot's turn to issue in this clk, in which the power manager does not hold issue (R156, R340, R455, R456). -/
def slotTurn (s : State) (c : Nat) (sl : Slot) : Bool :=
  !throttled s && (match sl with
   | .prim => !issuedNow s c
   | .fill => fillerMay s c)

/-- The sequencer fetches for a slot: its die works, and a task runs and is not held. -/
def mayFetch (s : State) (c : Nat) (sl : Slot) : Bool :=
  coreUp s c && (match taskOf s c sl with
   | none => false
   | some t => t.wait.isNone)

/-- The sequencer may issue for a slot: it fetches for it, and it is the slot's turn. -/
def mayIssue (s : State) (c : Nat) (sl : Slot) : Bool := mayFetch s c sl && slotTurn s c sl

/-- The word is the next instruction of the slot, which may issue. -/
def issues (s : State) (c : Core) (sl : Slot) (w : Nat) : Bool :=
  mayIssue s c sl && decide (lineOf s c sl = some (BitVec.ofNat 128 w))

/-- An instruction reaches the sequencer: its line is fetched where need be, and it issues where it is the next one. -/
def sequence (s : State) (c : Core) (sl : Slot) (w : Nat) (body : State → State) : State :=
  if mayFetch s c sl then
    let s1 := needLine s c sl
    if issues s1 c sl w then body s1 else s1
  else s

/-! ### Numeric policy (R187, R188) -/

/-- Word 0 of the policy of a slot's stage group; the default policy is fast, saturates, and has no identifiers. -/
def polWord (s : State) (c : Nat) (sl : Slot) : Nat :=
  match policyOf s c sl with
  | none => 2 ^ 7
  | some p => p.w0.toNat

def polStrict (s : State) (c : Nat) (sl : Slot) : Bool := tst (polWord s c sl) 6
def polSat (s : State) (c : Nat) (sl : Slot) : Bool := tst (polWord s c sl) 7
def polBase (s : State) (c : Nat) (sl : Slot) : Nat := bitsOf (polWord s c sl) 19 8
def polCount (s : State) (c : Nat) (sl : Slot) : Nat := bitsOf (polWord s c sl) 32 20
def polCapture (s : State) (c : Nat) (sl : Slot) : Bool := tst (polWord s c sl) 33

/-! ### Vector registers and operands (R143, R144) -/

/-- A vector register name lies in the job's window. -/
def vOk (s : State) (c : Nat) (sl : Slot) (r : BitVec 6) : Bool := decide (r.toNat < (vecWindow s c sl).2)

/-- The physical register of a name. -/
def vPhys (s : State) (c : Nat) (sl : Slot) (r : BitVec 6) : Nat := (vecWindow s c sl).1 + r.toNat

def vregOf (s : State) (c : Nat) (sl : Slot) (r : BitVec 6) : Nat :=
  (mget (0 : BitVec 16384) (coreOf s c).vreg (vPhys s c sl r)).toNat

/-- A vector register written; its code is good from then on (R161). -/
def setVreg (s : State) (c : Core) (sl : Slot) (r : BitVec 6) (v : Nat) : State :=
  let k := coreOf s c
  setCore { s with ecc := s.ecc.filter (fun m => m.unit != .vreg c (vPhys s c sl r)) } c
    { k with vreg := mset (0 : BitVec 16384) k.vreg (vPhys s c sl r) (BitVec.ofNat 16384 v) }

/-- A vector engine pipe is occupied for some clk more by an operation of the slot's task (R157; log entry 144). The pipes are 0
FMA, 1 transcendental, 2 reduction, 3 load/store. -/
def occupy (s : State) (c : Nat) (sl : Slot) (pipe clk : Nat) : State :=
  setSlot s c sl { slotOf s c sl with
    pipes := mset 0 (slotOf s c sl).pipes pipe (mget 0 (slotOf s c sl).pipes pipe + clk) }

/-- The second operand of a scalar instruction: S[rb], or imm where sub[0] is 1. -/
def selB (s : State) (c : Nat) (sl : Slot) (f : RegForm) : Nat :=
  if f.sub.getLsbD 0 then f.imm.toNat else sregOf s c sl f.rb.toNat

/-- A 64-bit number read as signed. -/
def sgn64 (v : Nat) : Int := if v < 2 ^ 63 then (v : Int) else (v : Int) - (2 ^ 64 : Nat)

/-! ### Register-form instructions outside the vector class -/

/-- A register-form instruction that tests bit 0 of its predicate: where the fields hold, `body` is its effect from its
issue on; skipped as a whole where the predicate is false. -/
def scalarIns (op : Nat) (c : Core) (sl : Slot) (f : RegForm) (ok : State → Bool) (body : State → State) (s : State) :
    State :=
  sequence s c sl (regWord op f) (fun s =>
    if regOk f false && ok s then
      if enabled s c sl f.pred f.pneg then body s else advance s c sl
    else abortTask s c sl 0x0B)

/-- An instruction that writes one scalar register and goes on. -/
def scalarOut (op : Nat) (c : Core) (sl : Slot) (f : RegForm) (ok : State → Bool) (v : State → Nat) (s : State) : State :=
  scalarIns op c sl f (fun s => sOk f.rd && ok s) (fun s => advance (setSreg s c sl f.rd.toNat (v s)) c sl) s

/-! ### Vector operands (R145, R147, R161) -/

/-- Element `i` of width `w`. -/
def elemAt (v w i : Nat) : Nat := v / 2 ^ (w * i) % 2 ^ w

/-- The elements of a format in a register. -/
def elemsIn (f : Nat) : Nat := 16384 / fmtWidth f

/-- The predicate bit that enables element `i` of a format (R147): that of the lane in which it starts. -/
def elemOn (p : BitVec 512) (f i : Nat) : Bool := p.getLsbD (fmtWidth f * i / 32)

/-- A register whose enabled elements of width `w` take new codes, with the counts of the enabled ones. -/
def mapElems (w n : Nat) (on : Nat → Bool) (old : Nat) (op : Nat → Nat × Counts) : Nat × Counts :=
  (List.range n).foldl (fun a i =>
    let r := if on i then op i else (elemAt old w i, Counts.zero)
    (a.1 + r.1 % 2 ^ w * 2 ^ (w * i), a.2.add r.2)) (0, Counts.zero)

/-- The formats of vector arithmetic. -/
def arithFmt (f : Nat) : Bool := f == fp64 || f == fp32 || f == bf16 || f == int32
def fracFmt (f : Nat) : Bool := f == fp64 || f == fp32 || f == bf16
def transFmt (f : Nat) : Bool := f == fp32 || f == bf16

/-- Vector registers read with their codes (R161): a corrected error is counted; an uncorrectable one aborts the task with
code 0x03. -/
def readVregs (s : State) (c : Core) (sl : Slot) (rs : List (BitVec 6)) : State × Bool :=
  let hit := s.ecc.filter (fun m => rs.any (fun r => m.unit == .vreg c (vPhys s c sl r)))
  if hit.any (·.uncorr) then (abortTask (bump s .vecErr_vreg_uncorrected 1 c) c sl 0x03, false)
  else (bump { s with ecc := s.ecc.filter (fun m => !hit.contains m) } .vecErr_vreg_corrected hit.length c, true)

/-! ### Event records (R204 to R208) -/

/-- The record of counts and of a captured maximum under a tag. -/
def recordOf (c job : Nat) (tag : Option (Nat × Nat)) (m : Option Nat) (k : Counts) : NumRec :=
  ⟨c, job, tag.map (·.1), (tag.map (·.2)).getD 0, k.elements, k.zeros, k.flushed, k.saturated, k.nan, k.inf, m⟩

/-- Two parts of one record (R208). -/
def joinRec (a b : NumRec) : NumRec :=
  { a with elements := a.elements + b.elements, zeros := a.zeros + b.zeros, flushed := a.flushed + b.flushed,
           saturated := a.saturated + b.saturated, nan := a.nan + b.nan, inf := a.inf + b.inf, max := maxOpt a.max b.max }

/-- The counts of an instruction are filed as one record under the tag in force (R205), where there are any. -/
def fileRecord (s : State) (c job : Nat) (tag : Option (Nat × Nat)) (capture : Bool) (k : Counts) : State :=
  sendRec s (recordOf c job tag (if capture && tag.isSome then k.max else none) k)

/-- The tag of the running task. -/
def tagOf (s : State) (c : Nat) (sl : Slot) : Option (Nat × Nat) := (taskOf s c sl).bind (·.tag)

def fileCounts (s : State) (c : Nat) (sl : Slot) (k : Counts) : State :=
  fileRecord s c (taskJob s c sl) (tagOf s c sl) (polCapture s c sl) k

/-! ### Local SRAM (R103, R271) -/

/-- A read of local SRAM by a task: the bytes, or the state after its abort. -/
def readLocal (s : State) (c : Core) (sl : Slot) (a n : Nat) : State × Option Bytes :=
  if inSplit s c sl a n then
    let r := readMem s (sramBase c + a) n
    match r.2.1 with
    | some u => (abortTask r.1 c sl (ueCode u), none)
    | none => (r.1, some r.2.2)
  else (abortTask s c sl 0x01, none)

/-- A write of local SRAM by a task; `false` where it aborts instead. -/
def writeLocal (s : State) (c : Core) (sl : Slot) (a : Nat) (b : Bytes) : State × Bool :=
  if inSplit s c sl a b.length then
    let r := writeMem s (sramBase c + a) b
    match r.2 with
    | some u => (abortTask r.1 c sl (ueCode u), false)
    | none => (r.1, true)
  else (abortTask s c sl 0x01, false)

end Sys2Proof.Machine
end

