-- ==== Sys2Proof/Machine/Scalar.lean ====
section
/-!
DEFINITION. Launches and tasks, and the control, scalar, trigger and sync instructions
(spec/05_core_programs_and_vector_engine.md).
-/
namespace Sys2Proof.Machine

/-! ### Launches and tasks (R136 to R139) -/

/-- Cores of a mask below core `c`. -/
def rankIn (m : BitVec 192) (c : Nat) : Nat := ((List.range c).filter (fun i => m.getLsbD i)).length

/-- The register contents and engine state of a slot at the start of a task (R138, R202). -/
def freshSlot (x : SlotSt) (l : Launch) (c : Nat) : SlotSt :=
  let r := rankIn l.cores c
  { x with
    task := some ⟨l, r, rankIn l.cores 192, 0, none, none⟩
    sreg := mset (0 : Word) (mset (0 : Word) (mset (0 : Word) [] 1 l.arg0) 2 l.arg1) 3 (BitVec.ofNat 64 r)
    preg := [], key := 0, next := 0, tiles := [], pipes := [] }

/-- The queues of a window count their started descriptors from 0 (R305). -/
def zeroStarted (k : CoreSt) (qs : List Nat) : CoreSt :=
  qs.foldl (fun k q => k.setQ q ⟨(dmaqOf k q).entries, 0⟩) k

/-- The unit is a vector register of the window, or a line of the core's instruction buffer. -/
def freshUnit (c : Nat) (w : Nat × Nat) : EccUnit → Bool
  | .vreg d r => decide (d.val = c) && decide (w.1 ≤ r) && decide (r < w.1 + w.2)
  | .ibuf d _ _ => decide (d.val = c)
  | _ => false

/-- The head launch of a slot's queue becomes its task: its registers are written, so their codes are good, and the core's
instruction buffer is empty (R138, R140). -/
def startTask (s : State) (c : Nat) (sl : Slot) (l : Launch) (rest : List Launch) : State :=
  let w := vecWindow s c sl
  let d := dmaWindow s c sl
  let k := coreOf s c
  let k1 := { k with vreg := k.vreg.filter (fun p => !(decide (w.1 ≤ p.1) && decide (p.1 < w.1 + w.2))), ibuf := [] }
  let k2 := zeroStarted k1 ((List.range d.2).map (· + d.1))
  setCore (loseEcc s (freshUnit c w)) c (k2.setSlot sl { freshSlot (k2.slot sl) l c with queue := rest })

/-- The head launch may start: the core works, no task runs, its job is not in eclipse, its release tide has come or its
release failed, and the filler may issue in this clk (R340). -/
def launchDue (s : State) (c : Nat) (sl : Slot) (l : Launch) : Bool :=
  coreUp s c && (taskOf s c sl).isNone && !eclipsed s l.job && (l.failed || released s l.release) &&
  (match sl with
   | .prim => true
   | .fill => slotTurn s c .fill)

/-- LAUNCH_START (R136 to R138): the head launch starts its task; one whose release failed aborts with code 0x0A. -/
def execLaunchStart (c : Core) (sl : Slot) (s : State) : Host.Outcome State Fault Refusal :=
  match (slotOf s c sl).queue with
  | [] => .next s
  | l :: rest =>
    if launchDue s c sl l then
      let s1 := startTask s c sl l rest
      .next (if l.failed then abortTask s1 c sl 0x0A else s1)
    else .next s

/-- The task ends: done_tc rises where done_en is 1 (R139). -/
def finishTask (s : State) (c : Nat) (sl : Slot) : State :=
  match taskOf s c sl with
  | none => s
  | some t =>
    let s1 := if t.launch.doneEn then tcAdd s c t.launch.doneTc 1 else s
    setSlot s1 c sl { slotOf s1 c sl with task := none, issued := true }

/-- The running task waits. -/
def holdTask (s : State) (c : Nat) (sl : Slot) (w : WaitKind) (cause : Nat) : State :=
  updTask s c sl (fun t => { t with wait := some ⟨w, cause, s.time.ticks⟩ })

/-- END (R139): the task ends, or holds for its outstanding work. -/
def execEndInstr (c : Core) (sl : Slot) (f : RegForm) (s : State) : Host.Outcome State Fault Refusal :=
  .next (scalarIns 0x01 c sl f (fun _ => true)
    (fun s => if taskIdle s c sl then finishTask s c sl else holdTask s c sl .done 9) s)

/-- TASK_END (R139): an END whose outstanding work has completed. -/
def execTaskEnd (c : Core) (sl : Slot) (s : State) : Host.Outcome State Fault Refusal :=
  match (taskOf s c sl).bind (·.wait) with
  | some w => .next (onlyIf (decide (w.kind = .done) && coreUp s c && taskIdle s c sl && slotTurn s c sl)
      (fun s => finishTask s c sl) s)
  | none => .next s

/-- INSTRUCTION_FETCH_WALK_DONE (R140, R279, R282): the waiting fetch proceeds or faults. -/
def execInstructionFetchWalkDone (c : Core) (sl : Slot) (s : State) : Host.Outcome State Fault Refusal :=
  .next (onlyIf (mayFetch s c sl) (fun s => needLine s c sl) s)

/-! ### Control instructions -/

/-- NOP. -/
def execNop (c : Core) (sl : Slot) (f : RegForm) (s : State) : Host.Outcome State Fault Refusal :=
  .next (scalarIns 0x00 c sl f (fun _ => true) (fun s => advance s c sl) s)

/-- BR: the program counter moves by 16 times imm, read as signed (log entry 31: from the branch itself). -/
def execBr (c : Core) (sl : Slot) (f : RegForm) (s : State) : Host.Outcome State Fault Refusal :=
  .next (scalarIns 0x02 c sl f (fun _ => true) (fun s => jumpTo s c sl (sgn64 f.imm.toNat)) s)

/-- LOOP: S[ra] falls by 1; if the result is not 0, the program counter moves by 16 times imm. -/
def execLoop (c : Core) (sl : Slot) (f : RegForm) (s : State) : Host.Outcome State Fault Refusal :=
  .next (scalarIns 0x03 c sl f (fun _ => sOk f.ra) (fun s =>
    let v := (sregOf s c sl f.ra.toNat + (2 ^ 64 - 1)) % 2 ^ 64
    let s1 := setSreg s c sl f.ra.toNat v
    if v = 0 then advance s1 c sl else jumpTo s1 c sl (sgn64 f.imm.toNat)) s)

/-- EVENT: a program event with imm[31:0], the job and the core. -/
def execEvent (c : Core) (sl : Slot) (f : RegForm) (s : State) : Host.Outcome State Fault Refusal :=
  .next (scalarIns 0x04 c sl f (fun _ => true) (fun s =>
    advance (logEvt s 0x020 (coreFn c) (taskJob s c sl) (((tagOf s c sl).map (·.2)).getD 0) (f.imm.toNat % 2 ^ 32) c)
      c sl) s)

/-! ### Scalar instructions -/

/-- An arithmetic instruction of the forms rd, ra, rb or imm. -/
def aluIns (op : Nat) (c : Core) (sl : Slot) (f : RegForm) (g : Nat → Nat → Nat) (s : State) : State :=
  scalarOut op c sl f (fun _ => sOk f.ra && (f.sub.getLsbD 0 || sOk f.rb))
    (fun s => g (sregOf s c sl f.ra.toNat) (selB s c sl f)) s

/-- SMOVI: S[rd] = imm. -/
def execSmovi (c : Core) (sl : Slot) (f : RegForm) (s : State) : Host.Outcome State Fault Refusal :=
  .next (scalarOut 0x20 c sl f (fun _ => true) (fun _ => f.imm.toNat) s)

/-- SADD. -/
def execSadd (c : Core) (sl : Slot) (f : RegForm) (s : State) : Host.Outcome State Fault Refusal :=
  .next (aluIns 0x21 c sl f (fun a b => a + b) s)

/-- SSUB. -/
def execSsub (c : Core) (sl : Slot) (f : RegForm) (s : State) : Host.Outcome State Fault Refusal :=
  .next (aluIns 0x22 c sl f (fun a b => a + (2 ^ 64 - b)) s)

/-- SMUL: the low 64 bits. -/
def execSmul (c : Core) (sl : Slot) (f : RegForm) (s : State) : Host.Outcome State Fault Refusal :=
  .next (aluIns 0x23 c sl f (fun a b => a * b) s)

/-- SAND. -/
def execSand (c : Core) (sl : Slot) (f : RegForm) (s : State) : Host.Outcome State Fault Refusal :=
  .next (aluIns 0x24 c sl f (fun a b => a &&& b) s)

/-- SOR. -/
def execSor (c : Core) (sl : Slot) (f : RegForm) (s : State) : Host.Outcome State Fault Refusal :=
  .next (aluIns 0x25 c sl f (fun a b => a ||| b) s)

/-- SXOR. -/
def execSxor (c : Core) (sl : Slot) (f : RegForm) (s : State) : Host.Outcome State Fault Refusal :=
  .next (aluIns 0x26 c sl f (fun a b => a ^^^ b) s)

/-- SSHL: the amount modulo 64. -/
def execSshl (c : Core) (sl : Slot) (f : RegForm) (s : State) : Host.Outcome State Fault Refusal :=
  .next (aluIns 0x27 c sl f (fun a b => a * 2 ^ (b % 64)) s)

/-- SSHR: logical right. -/
def execSshr (c : Core) (sl : Slot) (f : RegForm) (s : State) : Host.Outcome State Fault Refusal :=
  .next (aluIns 0x28 c sl f (fun a b => a / 2 ^ (b % 64)) s)

/-- An arithmetic right shift of 64 bits. -/
def sraNat (a n : Nat) : Nat := (sgn64 a / ((2 ^ n : Nat) : Int) % ((2 ^ 64 : Nat) : Int)).toNat

/-- SSRA: arithmetic right. -/
def execSsra (c : Core) (sl : Slot) (f : RegForm) (s : State) : Host.Outcome State Fault Refusal :=
  .next (aluIns 0x29 c sl f (fun a b => sraNat a (b % 64)) s)

/-- The conditions of SCMP: 0 eq, 1 ne, 2 lt, 3 le (signed), 4 ltu, 5 leu (unsigned). -/
def scmpHolds (cond a b : Nat) : Bool :=
  match cond with
  | 0 => decide (a = b)
  | 1 => decide (a ≠ b)
  | 2 => decide (sgn64 a < sgn64 b)
  | 3 => decide (sgn64 a ≤ sgn64 b)
  | 4 => decide (a < b)
  | _ => decide (a ≤ b)

def allLanes (b : Bool) : BitVec 512 := if b then BitVec.allOnes 512 else 0

/-- SCMP: all 512 bits of the predicate take the result. -/
def execScmp (c : Core) (sl : Slot) (f : RegForm) (s : State) : Host.Outcome State Fault Refusal :=
  .next (scalarIns 0x2A c sl f
    (fun _ => pOk f.rd && sOk f.ra && (f.sub.getLsbD 0 || sOk f.rb) && decide (f.sub.toNat / 2 < 6))
    (fun s => advance (setPreg s c sl f.rd.toNat
      (allLanes (scmpHolds (f.sub.toNat / 2) (sregOf s c sl f.ra.toNat) (selB s c sl f)))) c sl) s)

/-- The operations of PLOG: 0 and, 1 or, 2 xor, 3 and-not. -/
def plogOp (sub : Nat) (a b : BitVec 512) : BitVec 512 :=
  match sub with
  | 0 => a &&& b
  | 1 => a ||| b
  | 2 => a ^^^ b
  | _ => a &&& ~~~b

/-- PLOG: lane-wise predicate logic. -/
def execPlog (c : Core) (sl : Slot) (f : RegForm) (s : State) : Host.Outcome State Fault Refusal :=
  .next (scalarIns 0x2B c sl f (fun _ => pOk f.rd && pOk f.ra && pOk f.rb && decide (f.sub.toNat < 4))
    (fun s => advance (setPreg s c sl f.rd.toNat
      (plogOp f.sub.toNat (pregOf s c sl f.ra.toNat) (pregOf s c sl f.rb.toNat))) c sl) s)

/-- The address of SLD, SST, VLD, VST and DMAQ. -/
def eaOf (s : State) (c : Nat) (sl : Slot) (f : RegForm) : Nat := (sregOf s c sl f.ra.toNat + f.imm.toNat) % 2 ^ 64

/-- SLD: an 8-byte load from local SRAM, from a multiple of 8 (log entry 32). -/
def execSld (c : Core) (sl : Slot) (f : RegForm) (s : State) : Host.Outcome State Fault Refusal :=
  .next (scalarIns 0x2C c sl f (fun _ => sOk f.rd && sOk f.ra) (fun s =>
    if eaOf s c sl f % 8 ≠ 0 then abortTask s c sl 0x0B
    else
      let r := readLocal s c sl (eaOf s c sl f) 8
      match r.2 with
      | none => r.1
      | some b => advance (setSreg r.1 c sl f.rd.toNat (leNat b)) c sl) s)

/-- SST: an 8-byte store to local SRAM (R155). -/
def execSst (c : Core) (sl : Slot) (f : RegForm) (s : State) : Host.Outcome State Fault Refusal :=
  .next (scalarIns 0x2D c sl f (fun _ => sOk f.rb && sOk f.ra) (fun s =>
    if eaOf s c sl f % 8 ≠ 0 then abortTask s c sl 0x0B
    else
      let r := writeLocal s c sl (eaOf s c sl f) (toLe 8 (sregOf s c sl f.rb.toNat))
      if r.2 then advance (tearReads r.1 c sl [(eaOf s c sl f, 8)]) c sl else r.1) s)

/-- The values of SINFO. -/
def sinfoVal (s : State) (c : Nat) (sl : Slot) (sub : Nat) : Nat :=
  match taskOf s c sl with
  | none => 0
  | some t =>
    match sub with
    | 0 => c
    | 1 => t.launch.job
    | 2 => t.launch.group
    | 3 => t.rank
    | 4 => t.count
    | 5 => slotIdx sl
    | _ => s.time.tide

/-- SINFO: sub 0 to 6. -/
def execSinfo (c : Core) (sl : Slot) (f : RegForm) (s : State) : Host.Outcome State Fault Refusal :=
  .next (scalarOut 0x2E c sl f (fun _ => decide (f.sub.toNat < 7)) (fun s => sinfoVal s c sl f.sub.toNat) s)

/-! ### Trigger counters (R162 to R165) -/

/-- An instruction on a counter of its own job; another job's counter aborts the task with code 0x01 (R164). -/
def tcIns (op : Nat) (c : Core) (sl : Slot) (f : RegForm) (ok : Bool) (body : State → State) (s : State) : State :=
  scalarIns op c sl f (fun _ => ok) (fun s => if ownsTc s c sl (tcIdx f) then body s else abortTask s c sl 0x01) s

/-- A credit counter of the slot's queues lies below the descriptors that its queue has started (R306). -/
def creditBroken (s : State) (c : Nat) (sl : Slot) : Bool :=
  (List.range (dmaWindow s c sl).2).any (fun i =>
    let q := (dmaWindow s c sl).1 + i
    let t := get s .dmaQ_credit_tc (16 * c + q)
    flag s .dmaQ_credit_en (16 * c + q) && ownsTc s c sl t && decide (tcVal s c t < (dmaqOf (coreOf s c) q).started))

/-- TCSET: the value's low 32 bits (log entry 33); a credit counter set below its queue's started descriptors aborts the
task with code 0x0C (R306). -/
def execTcset (c : Core) (sl : Slot) (f : RegForm) (s : State) : Host.Outcome State Fault Refusal :=
  .next (tcIns 0xA0 c sl f (f.sub.getLsbD 0 || sOk f.ra) (fun s =>
    let s1 := advance (tcSet s c (tcIdx f) (tcOperand s c sl f % 2 ^ 32)) c sl
    if creditBroken s1 c sl then abortTask s1 c sl 0x0C else s1) s)

/-- TCADD (R162, R165): this model's stores are visible when they issue. -/
def execTcadd (c : Core) (sl : Slot) (f : RegForm) (s : State) : Host.Outcome State Fault Refusal :=
  .next (tcIns 0xA1 c sl f (f.sub.getLsbD 0 || sOk f.ra)
    (fun s => advance (tcAdd s c (tcIdx f) (tcOperand s c sl f % 2 ^ 32)) c sl) s)

/-- TCRD: S[rd] = counter value. -/
def execTcrd (c : Core) (sl : Slot) (f : RegForm) (s : State) : Host.Outcome State Fault Refusal :=
  .next (tcIns 0xA2 c sl f (sOk f.rd)
    (fun s => advance (setSreg s c sl f.rd.toNat (tcVal s c (tcIdx f))) c sl) s)

/-- A CSR write sets a counter, without an owner check (R162); a credit counter set below its queue's started descriptors
aborts the task (R306). -/
def tcRegWrite (s : State) (c tc v : Nat) : State :=
  each [Slot.prim, Slot.fill] (fun s sl => if creditBroken s c sl then abortTask s c sl 0x0C else s) (tcSet s c tc v)

/-- TC_VALUE_WRITE (R162, R170). -/
def execTcValueWrite (c : Core) (tc : BitVec 8) (value : BitVec 32) (s : State) : Host.Outcome State Fault Refusal :=
  .next (onlyIf (fn0Up s && fnReady s (coreFn c)) (fun s => tcRegWrite s c tc.toNat value.toNat) s)

/-! ### Waits (R166 to R168) -/

/-- A wait instruction: it proceeds at once, or holds the task. -/
def waitFor (s : State) (c : Nat) (sl : Slot) (w : WaitKind) (cause : Nat) : State :=
  if waitHolds s c sl w then advance s c sl else holdTask s c sl w cause

/-- The cause that WAITTC counts. -/
def tcCause (rc : Nat) : Nat := if rc = 2 ∨ rc = 3 ∨ rc = 4 ∨ rc = 12 then rc else 2

/-- The cause that WAITDMA counts. -/
def dmaCause (rc : Nat) : Nat := if rc = 6 ∨ rc = 7 ∨ rc = 9 then rc else 7

/-- WAITTC (R166). -/
def execWaittc (c : Core) (sl : Slot) (f : RegForm) (s : State) : Host.Outcome State Fault Refusal :=
  .next (tcIns 0xC0 c sl f (f.sub.getLsbD 0 || sOk f.ra)
    (fun s => waitFor s c sl (.tc (tcIdx f) (tcOperand s c sl f)) (tcCause f.rc.toNat)) s)

/-- WAITDMA (R166, R303). -/
def execWaitdma (c : Core) (sl : Slot) (f : RegForm) (s : State) : Host.Outcome State Fault Refusal :=
  .next (scalarIns 0xC1 c sl f (fun _ => true) (fun s =>
    let w := dmaWindow s c sl
    let q := f.imm.toNat % 16
    if q < w.2 then waitFor s c sl (.dma (w.1 + q) (bitsOf f.imm.toNat 63 32)) (dmaCause f.rc.toNat)
    else abortTask s c sl 0x01) s)

/-- WAITARR (R166). -/
def execWaitarr (c : Core) (sl : Slot) (f : RegForm) (s : State) : Host.Outcome State Fault Refusal :=
  .next (scalarIns 0xC2 c sl f (fun _ => true) (fun s => waitFor s c sl (.arr (f.imm.toNat % 256)) 0) s)

/-- WAITTIDE (R166). -/
def execWaittide (c : Core) (sl : Slot) (f : RegForm) (s : State) : Host.Outcome State Fault Refusal :=
  .next (scalarIns 0xC3 c sl f (fun _ => sOk f.ra) (fun s => waitFor s c sl (.tide (sregOf s c sl f.ra.toNat)) 5) s)

/-- WAITSLOT (R166, R168): the first boundary after the tide at which the wait is met. -/
def execWaitslot (c : Core) (sl : Slot) (f : RegForm) (s : State) : Host.Outcome State Fault Refusal :=
  .next (scalarIns 0xC4 c sl f (fun _ => true) (fun s =>
    if slotEn s (f.imm.toNat % 8) then waitFor s c sl (.slot (f.imm.toNat % 8) s.time.tide) 5
    else abortTask s c sl 0x0B) s)

/-- WAIT_CONDITION_MET (R166): the task proceeds. -/
def execWaitConditionMet (c : Core) (sl : Slot) (s : State) : Host.Outcome State Fault Refusal :=
  match (taskOf s c sl).bind (·.wait) with
  | none => .next s
  | some w => .next (onlyIf (coreUp s c && decide (w.kind ≠ .done) && waitHolds s c sl w.kind && slotTurn s c sl)
      (fun s => advance (updTask s c sl (fun t => { t with wait := none })) c sl) s)

/-- The wait instructions that wait_limit bounds (R167). -/
def limited : WaitKind → Bool
  | .tc _ _ => true
  | .dma _ _ => true
  | .arr _ => true
  | _ => false

/-- WAIT_LIMIT_EXPIRED (R167): a single wait longer than wait_limit times 64 µs aborts the task with code 0x0F. -/
def execWaitLimitExpired (c : Core) (sl : Slot) (s : State) : Host.Outcome State Fault Refusal :=
  match taskOf s c sl with
  | none => .next s
  | some t => match t.wait with
    | none => .next s
    | some w => .next (onlyIf (limited w.kind && decide (t.launch.waitLimit ≠ 0) &&
          decide (w.start + 64000 * t.launch.waitLimit < s.time.ticks))
        (fun s => abortTask s c sl 0x0F) s)

end Sys2Proof.Machine
end

