-- ==== Sys2Proof/Machine/Vector.lean ====
section
/-!
DEFINITION. The vector instructions (R145, R147, R157 to R161).
-/
namespace Sys2Proof.Machine

/-! ### The form of a vector instruction -/

/-- Clk for the operations of a whole register in the FMA pipe and the reduction tree: twice in FP64 (R157). -/
def wideClk (f n : Nat) : Nat := if f = fp64 then 2 * n else n

/-- The vector engine pipe of an instruction and the clk for which it occupies it (R157, R160): VLD and VST take one for every
1,024 bytes. -/
def pipeClk (strict : Bool) (op : Nat) (f : RegForm) : Nat × Nat :=
  let fmt := f.fmt.toNat
  match op with
  | 0x60 => (3, ((if arithFmt fmt then 2048 else 512 * fmtWidth fmt / 8) + 1023) / 1024)
  | 0x61 => (3, if f.sub.toNat = 0 then 2 else (128 * f.sub.toNat + 1023) / 1024)
  | 0x6E => (2, wideClk fmt 1)
  | 0x6F => (0, if fmt = fp64 then 32 else 8)
  | 0x70 => (0, if fmt = fp64 then 32 else 8)
  | 0x71 => (1, if fmt = bf16 then 4 else 2)
  | 0x72 => (1, if fmt = bf16 then 4 else 2)
  | 0x73 => (1, if strict then 8 else if fmt = bf16 then 4 else 2)
  | 0x74 => (1, if strict then 8 else if fmt = bf16 then 4 else 2)
  | 0xE0 => (0, wideClk (f.imm.toNat % 16) 1)
  | _ => (0, wideClk fmt 1)

/-- A vector instruction: its fields hold, the registers it names lie in the job's window (R144), its sources and a
destination that it writes in part are read with their codes (R161), and `body` is its effect. -/
def vecIns (op : Nat) (c : Core) (sl : Slot) (f : RegForm) (stoch : State → Bool) (ok : State → Bool)
    (srcs dsts : List (BitVec 6)) (inPart : Bool) (body : State → State) (s : State) : State :=
  sequence s c sl (regWord op f) (fun s =>
    if regOk f (stoch s) && ok s then
      if (srcs ++ dsts).all (vOk s c sl) then
        let whole := decide (predOf s c sl f.pred f.pneg = BitVec.allOnes 512) && !inPart
        let r := readVregs s c sl (srcs ++ (if whole then [] else dsts))
        let p := pipeClk (polStrict s c sl) op f
        if r.2 then body (occupy r.1 c sl p.1 p.2) else r.1
      else abortTask s c sl 0x01
    else abortTask s c sl 0x0B)

/-- The clk for which an operation occupies the FMA pipe, times its 512 lanes (R157; log entry 34). -/
def fmaLanes (f : Nat) : Nat := if f = fp64 then 1024 else 512

/-- The result of an element-wise instruction in its destination, with its counts and its pipe's counter. -/
def vecWrite (s : State) (c : Core) (sl : Slot) (f : RegForm) (fmt : Nat) (ctr : Fld) (n : Nat)
    (op : Nat → Nat × Counts) : State :=
  let p := predOf s c sl f.pred f.pneg
  let r := mapElems (fmtWidth fmt) (elemsIn fmt) (elemOn p fmt) (vregOf s c sl f.rd) op
  advance (bumpW (fileCounts (setVreg s c sl f.rd r.1) c sl r.2) ctr n c) c sl

/-- An instruction of the FMA pipe with sources va, and vb and vc where named. -/
def fmaIns (op : Nat) (c : Core) (sl : Slot) (f : RegForm) (okF : Nat → Bool) (srcs : List (BitVec 6)) (lanes : Nat → Nat)
    (g : Bool → Nat → List Nat → Nat × Counts) (s : State) : State :=
  vecIns op c sl f (fun _ => false) (fun _ => okF f.fmt.toNat) srcs [f.rd] false (fun s =>
    let fmt := f.fmt.toNat
    let w := fmtWidth fmt
    let vs := srcs.map (vregOf s c sl)
    vecWrite s c sl f fmt .vecFma_lanes (lanes fmt)
      (fun i => g (polStrict s c sl) fmt (vs.map (fun v => elemAt v w i)))) s

/-- Arithmetic with one rounding: exact on the decoded operands, then rounded under the instruction's code. -/
def arithElem (g : List Num → Num) (code : Nat) (strict : Bool) (fmt : Nat) (xs : List Nat) : Nat × Counts :=
  let ns := xs.map (decodeNum fmt)
  arithOut fmt strict code (ns.all (·.isFin)) (ns.all (fun x => !x.isNan)) (g ns)

/-- A value that the format represents, as its code. -/
def encExact (fmt : Nat) (x : Num) : Nat := (arithOut fmt true 0 false false x).1

/-- A selection of one operand (R179, R191): nothing is rounded or counted. -/
def selectElem (g : List Num → Num) (_ : Bool) (fmt : Nat) (xs : List Nat) : Nat × Counts :=
  (encExact fmt (g (xs.map (decodeNum fmt))), Counts.zero)

def numArg (l : List Num) (i : Nat) : Num := l.getD i (.fin false 0 0)

/-! ### Arithmetic -/

/-- VADD. -/
def execVadd (c : Core) (sl : Slot) (f : RegForm) (s : State) : Host.Outcome State Fault Refusal :=
  .next (fmaIns 0x62 c sl f arithFmt [f.ra, f.rb] fmaLanes
    (arithElem (fun l => numAdd (numArg l 0) (numArg l 1)) f.rnd.toNat) s)

/-- VSUB. -/
def execVsub (c : Core) (sl : Slot) (f : RegForm) (s : State) : Host.Outcome State Fault Refusal :=
  .next (fmaIns 0x63 c sl f arithFmt [f.ra, f.rb] fmaLanes
    (arithElem (fun l => numAdd (numArg l 0) (numArg l 1).flip) f.rnd.toNat) s)

/-- VMUL. -/
def execVmul (c : Core) (sl : Slot) (f : RegForm) (s : State) : Host.Outcome State Fault Refusal :=
  .next (fmaIns 0x64 c sl f arithFmt [f.ra, f.rb] fmaLanes
    (arithElem (fun l => numMul (numArg l 0) (numArg l 1)) f.rnd.toNat) s)

/-- VFMA: va × vb + vc with one rounding. -/
def execVfma (c : Core) (sl : Slot) (f : RegForm) (s : State) : Host.Outcome State Fault Refusal :=
  .next (fmaIns 0x65 c sl f arithFmt [f.ra, f.rb, f.rc] fmaLanes
    (arithElem (fun l => numAdd (numMul (numArg l 0) (numArg l 1)) (numArg l 2)) f.rnd.toNat) s)

/-- VMAX (R179). -/
def execVmax (c : Core) (sl : Slot) (f : RegForm) (s : State) : Host.Outcome State Fault Refusal :=
  .next (fmaIns 0x66 c sl f arithFmt [f.ra, f.rb] fmaLanes
    (selectElem (fun l => numMax (numArg l 0) (numArg l 1))) s)

/-- VMIN (R179). -/
def execVmin (c : Core) (sl : Slot) (f : RegForm) (s : State) : Host.Outcome State Fault Refusal :=
  .next (fmaIns 0x67 c sl f arithFmt [f.ra, f.rb] fmaLanes
    (selectElem (fun l => numMin (numArg l 0) (numArg l 1))) s)

/-- A sign operation on a code: exact, NaN included (R176); INT32 wraps. -/
def signElem (flt : Nat → Nat → Nat) (int : Nat → Nat) (_ : Bool) (fmt : Nat) (xs : List Nat) : Nat × Counts :=
  let x := xs.headD 0
  (if fmt = int32 then int x else flt (2 ^ (fmtWidth fmt - 1)) x, Counts.zero)

/-- VABS. -/
def execVabs (c : Core) (sl : Slot) (f : RegForm) (s : State) : Host.Outcome State Fault Refusal :=
  .next (fmaIns 0x68 c sl f arithFmt [f.ra] fmaLanes
    (signElem (fun h x => x % h) (fun x => if x < 2 ^ 31 then x else (2 ^ 32 - x) % 2 ^ 32)) s)

/-- VNEG. -/
def execVneg (c : Core) (sl : Slot) (f : RegForm) (s : State) : Host.Outcome State Fault Refusal :=
  .next (fmaIns 0x69 c sl f arithFmt [f.ra] fmaLanes
    (signElem (fun h x => if x < h then x + h else x - h) (fun x => (2 ^ 32 - x) % 2 ^ 32)) s)

/-- VMOV. -/
def execVmov (c : Core) (sl : Slot) (f : RegForm) (s : State) : Host.Outcome State Fault Refusal :=
  .next (fmaIns 0x6A c sl f arithFmt [f.ra] fmaLanes (signElem (fun _ x => x) (fun x => x)) s)

/-- VDIV and VSQRT occupy the pipe for 8 clk, or 32 in FP64. -/
def divLanes (f : Nat) : Nat := if f = fp64 then 32 * 512 else 8 * 512

/-- VDIV: correctly rounded. -/
def execVdiv (c : Core) (sl : Slot) (f : RegForm) (s : State) : Host.Outcome State Fault Refusal :=
  .next (fmaIns 0x6F c sl f fracFmt [f.ra, f.rb] divLanes
    (arithElem (fun l => numDiv (numArg l 0) (numArg l 1)) f.rnd.toNat) s)

/-- VSQRT: correctly rounded. -/
def execVsqrt (c : Core) (sl : Slot) (f : RegForm) (s : State) : Host.Outcome State Fault Refusal :=
  .next (fmaIns 0x70 c sl f fracFmt [f.ra] divLanes (arithElem (fun l => numSqrt (numArg l 0)) f.rnd.toNat) s)

/-! ### Transcendental pipe (R159, R160) -/

/-- An instruction of the transcendental pipe. -/
def transIns (op : Nat) (c : Core) (sl : Slot) (f : RegForm) (ok : Bool) (srcs : List (BitVec 6))
    (g : Bool → Nat → List Num → Nat × Counts) (s : State) : State :=
  vecIns op c sl f (fun _ => false) (fun _ => transFmt f.fmt.toNat && ok) srcs [f.rd] false (fun s =>
    let fmt := f.fmt.toNat
    let w := fmtWidth fmt
    let vs := srcs.map (vregOf s c sl)
    vecWrite s c sl f fmt .vecExp_elements (elemsIn fmt)
      (fun i => g (polStrict s c sl) fmt (vs.map (fun v => decodeNum fmt (elemAt v w i))))) s

/-- The result of a fast transcendental function on its operands. -/
def fastOut (g : List Num → Num) (_ : Bool) (fmt : Nat) (xs : List Num) : Nat × Counts :=
  truncOut fmt (xs.all (·.isFin)) (xs.all (fun x => !x.isNan)) (g xs)

/-- VRCP and VRSQ are correctly rounded in a strict stage group (R160). -/
def recipOut (g : Num → Num) (strict : Bool) (fmt : Nat) (xs : List Num) : Nat × Counts :=
  let x := numArg xs 0
  if strict then arithOut fmt true 0 x.isFin (!x.isNan) (g x) else truncOut fmt x.isFin (!x.isNan) (g x)

/-- The difference of R159, rounded to FP32 with ties to even and never flushed. -/
def expDiff (x y : Num) : Num := decodeNum fp32 (arithOut fp32 true 0 true true (numAdd x y.flip)).1

/-- The forms of VEXP. -/
def vexpFn (sub : Nat) (xs : List Num) : Num :=
  let x := numArg xs 0
  let y := numArg xs 1
  match sub with
  | 0 => numExp false x
  | 1 => numExp true x
  | 2 => if x = .inf true ∧ y = .inf true then .fin false 1 0 else numExp false (expDiff x y)
  | _ => if x = .inf true ∧ y = .inf true then .fin false 0 0 else numExp false (expDiff x y)

/-- VEXP. -/
def execVexp (c : Core) (sl : Slot) (f : RegForm) (s : State) : Host.Outcome State Fault Refusal :=
  .next (transIns 0x71 c sl f (decide (f.sub.toNat < 4)) (if f.sub.toNat < 2 then [f.ra] else [f.ra, f.rb])
    (fastOut (vexpFn f.sub.toNat)) s)

/-- VLOG: sub 0 natural, 1 base 2. -/
def execVlog (c : Core) (sl : Slot) (f : RegForm) (s : State) : Host.Outcome State Fault Refusal :=
  .next (transIns 0x72 c sl f (decide (f.sub.toNat < 2)) [f.ra]
    (fastOut (fun l => numLog (decide (f.sub.toNat = 1)) (numArg l 0))) s)

/-- VRCP. -/
def execVrcp (c : Core) (sl : Slot) (f : RegForm) (s : State) : Host.Outcome State Fault Refusal :=
  .next (transIns 0x73 c sl f true [f.ra] (recipOut numRcp) s)

/-- VRSQ. -/
def execVrsq (c : Core) (sl : Slot) (f : RegForm) (s : State) : Host.Outcome State Fault Refusal :=
  .next (transIns 0x74 c sl f true [f.ra] (recipOut numRsq) s)

/-! ### Comparison and movement -/

/-- The predicate bits that VCMP writes for element `i`, and the element that gives lane bit `b` its result (R147). -/
def cmpElem (fmt b : Nat) : Nat := if fmt = fp64 then b / 2 else if fmt = bf16 then 2 * b else b

/-- VCMP. -/
def execVcmp (c : Core) (sl : Slot) (f : RegForm) (s : State) : Host.Outcome State Fault Refusal :=
  .next (vecIns 0x6B c sl f (fun _ => false) (fun _ => arithFmt f.fmt.toNat && pOk f.rd && decide (f.sub.toNat < 5))
    [f.ra, f.rb] [] false (fun s =>
      let fmt := f.fmt.toNat
      let w := fmtWidth fmt
      let x := vregOf s c sl f.ra
      let y := vregOf s c sl f.rb
      let p := predOf s c sl f.pred f.pneg
      let old := pregOf s c sl f.rd.toNat
      let new := (List.range 512).foldl (fun a b =>
        let e := cmpElem fmt b
        let v := if elemOn p fmt e then numCmp f.sub.toNat (decodeNum fmt (elemAt x w e)) (decodeNum fmt (elemAt y w e))
          else old.getLsbD b
        a + bit v * 2 ^ b) 0
      advance (bumpW (setPreg s c sl f.rd.toNat (BitVec.ofNat 512 new)) .vecFma_lanes (fmaLanes fmt) c) c sl) s)

/-- VBCAST: sub 0 from S[ra], 1 segment broadcast, 2 one element. -/
def execVbcast (c : Core) (sl : Slot) (f : RegForm) (s : State) : Host.Outcome State Fault Refusal :=
  .next (vecIns 0x6C c sl f (fun _ => false)
    (fun _ => arithFmt f.fmt.toNat && decide (f.sub.toNat < 3) && (decide (f.sub.toNat ≠ 0) || sOk f.ra))
    (if f.sub.toNat = 0 then [] else [f.ra]) [f.rd] false (fun s =>
      let fmt := f.fmt.toNat
      let w := fmtWidth fmt
      let n := elemsIn fmt
      let x := vregOf s c sl f.ra
      let imm := f.imm.toNat
      vecWrite s c sl f fmt .vecFma_lanes (fmaLanes fmt) (fun i =>
        ((match f.sub.toNat with
          | 0 => sregOf s c sl f.ra.toNat % 2 ^ w
          | 1 => elemAt x w (i / 2 ^ (imm % 16))
          | _ => elemAt x w (imm % 1024 % n)), Counts.zero))) s)

/-- VSHUF: element i takes element (vb[i] mod N) of va. -/
def execVshuf (c : Core) (sl : Slot) (f : RegForm) (s : State) : Host.Outcome State Fault Refusal :=
  .next (vecIns 0x6D c sl f (fun _ => false) (fun _ => arithFmt f.fmt.toNat) [f.ra, f.rb] [f.rd] false (fun s =>
      let fmt := f.fmt.toNat
      let w := fmtWidth fmt
      let n := elemsIn fmt
      let x := vregOf s c sl f.ra
      let y := vregOf s c sl f.rb
      vecWrite s c sl f fmt .vecFma_lanes (fmaLanes fmt) (fun i => (elemAt x w (elemAt y w i % n), Counts.zero))) s)

/-! ### VRED (R158) -/

/-- The largest s of a format. -/
def redMax (fmt : Nat) : Nat := if fmt = fp64 then 8 else if fmt = bf16 then 10 else 9

/-- One level of the reduction: neighbours are combined. -/
def redLevel (op : Num → Num → Num × Counts) : List Num → List Num × Counts
  | x :: y :: l =>
    let r := op x y
    let t := redLevel op l
    (r.1 :: t.1, r.2.add t.2)
  | l => (l, Counts.zero)

/-- `n` levels of the reduction of one segment. -/
def redTree (op : Num → Num → Num × Counts) : Nat → List Num → Num × Counts
  | 0, l => (l.headD (.fin false 0 0), Counts.zero)
  | n + 1, l =>
    let t := redLevel op l
    let u := redTree op n t.1
    (u.1, t.2.add u.2)

/-- The operation of a sub: sums are rounded under rnd, maximum and minimum select. -/
def redOp (sub fmt code : Nat) (strict : Bool) (x y : Num) : Num × Counts :=
  match sub with
  | 1 => (numMax x y, Counts.zero)
  | 2 => (numMin x y, Counts.zero)
  | _ =>
    let r := arithOut fmt strict code (x.isFin && y.isFin) (!x.isNan && !y.isNan) (numAdd x y)
    (decodeNum fmt r.1, r.2)

/-- INT32 sums wrap at each step as in arithmetic; a decoded value is in range again. -/
def redAbs (fmt : Nat) (x : Num) : Num := if fmt = int32 then decodeNum fmt (encExact fmt x.abs) else x.abs

/-- VRED: sub 0 sum, 1 max, 2 min, 3 sum of absolute values. -/
def execVred (c : Core) (sl : Slot) (f : RegForm) (s : State) : Host.Outcome State Fault Refusal :=
  .next (vecIns 0x6E c sl f (fun _ => false) (fun _ => arithFmt f.fmt.toNat && decide (f.sub.toNat < 4)) [f.ra] [f.rd]
    true (fun s =>
      let fmt := f.fmt.toNat
      let w := fmtWidth fmt
      let sub := f.sub.toNat
      let k := f.imm.toNat % 16
      let n := if 1 ≤ k ∧ k ≤ redMax fmt then k else redMax fmt
      let x := vregOf s c sl f.ra
      let p := predOf s c sl f.pred f.pneg
      let segs := elemsIn fmt / 2 ^ n
      let r := mapElems w (elemsIn fmt) (fun g => decide (g < segs) && elemOn p fmt g) (vregOf s c sl f.rd) (fun g =>
        let xs := (List.range (2 ^ n)).map (fun i => decodeNum fmt (elemAt x w (g * 2 ^ n + i)))
        let ys := if sub = 3 then xs.map (redAbs fmt) else xs
        let t := redTree (redOp sub fmt f.rnd.toNat (polStrict s c sl)) n ys
        (encExact fmt t.1, t.2))
      advance (fileCounts (setVreg s c sl f.rd r.1) c sl r.2) c sl) s)

/-! ### Loads and stores -/

/-- The bytes that VLD reads: a whole register as stored, or 512 elements of a narrower format. -/
def vldBytes (fmt : Nat) : Nat := if arithFmt fmt then 2048 else 512 * fmtWidth fmt / 8

/-- The format into which VLD widens: INT32 for integers, FP32 for the others. -/
def widenTo (fmt : Nat) : Nat := if (intBits fmt).isSome then int32 else fp32

/-- An element widened exactly; a NaN keeps its sign (R176, R195). -/
def widenElem (fmt x : Nat) : Nat := (convertOne fmt (widenTo fmt) 0 false false 0 none (decodeNum fmt x)).1

/-- VLD: a widening conversion raises the running maximum and counts nothing (R194, R206, R207). -/
def execVld (c : Core) (sl : Slot) (f : RegForm) (s : State) : Host.Outcome State Fault Refusal :=
  .next (vecIns 0x60 c sl f (fun _ => false) (fun _ => sOk f.ra) [] [f.rd] false (fun s =>
      let fmt := f.fmt.toNat
      let r := readLocal s c sl (eaOf s c sl f) (vldBytes fmt)
      match r.2 with
      | none => r.1
      | some b =>
        let s1 := r.1
        let v := leNat b
        let p := predOf s1 c sl f.pred f.pneg
        let w := fmtWidth fmt
        let q := if arithFmt fmt then
            mapElems w (elemsIn fmt) (elemOn p fmt) (vregOf s1 c sl f.rd) (fun i => (elemAt v w i, Counts.zero))
          else
            mapElems 32 512 (fun i => p.getLsbD i) (vregOf s1 c sl f.rd)
              (fun i => (widenElem fmt (elemAt v w i),
                { Counts.zero with max := captureOf (decodeNum fmt (elemAt v w i)) }))
        advance (fileCounts (setVreg s1 c sl f.rd q.1) c sl q.2) c sl) s)

/-- A byte of a store whose lane is enabled: `a` the first byte, `n` the length. -/
def storesByte (on : Nat → Bool) (a n x : Nat) : Bool := decide (a ≤ x ∧ x < a + n) && on ((x - a) / 4)

/-- A unit with an uncorrectable error that a masked store writes in part. -/
def maskedFault (s : State) (on : Nat → Bool) (a n : Nat) : Bool :=
  s.ecc.any (fun m => m.uncorr && match unitRange m.unit with
    | none => false
    | some (b, k) => (List.range k).any (fun i => storesByte on a n (b + i)) &&
        !((List.range k).all (fun i => storesByte on a n (b + i))))

/-- The bytes of enabled lanes written; units that the store touches are good again. -/
def maskedStore (s : State) (on : Nat → Bool) (a n v : Nat) : State :=
  let s1 := { s with ecc := s.ecc.filter (fun m => match unitRange m.unit with
    | none => true
    | some (b, k) => !(List.range k).any (fun i => storesByte on a n (b + i))) }
  each (List.range (n / 4)) (fun s i => if on i then wrNat s (a + 4 * i) 4 (elemAt v 32 i) else s) s1

/-- VST: the first 128 × sub bytes of vb, or 2 KiB (R147, R155). The whole range lies in the split (R103; log entry 35). -/
def execVst (c : Core) (sl : Slot) (f : RegForm) (s : State) : Host.Outcome State Fault Refusal :=
  .next (vecIns 0x61 c sl f (fun _ => false) (fun _ => sOk f.ra) [f.rb] [] false (fun s =>
      let n := if f.sub.toNat = 0 then 2048 else 128 * f.sub.toNat
      let a := eaOf s c sl f
      let p := predOf s c sl f.pred f.pneg
      if inSplit s c sl a n then
        if maskedFault s (fun i => p.getLsbD i) (sramBase c + a) n then abortTask s c sl 0x03
        else
          let s1 := tearReads s c sl (((List.range (n / 4)).filter (fun i => p.getLsbD i)).map (fun i => (a + 4 * i, 4)))
          advance (maskedStore s1 (fun i => p.getLsbD i) (sramBase c + a) n (vregOf s c sl f.rb)) c sl
      else abortTask s c sl 0x01) s)

end Sys2Proof.Machine
end

