-- ==== Sys2Proof/Machine/Numeric.lean ====
section
/-!
DEFINITION. The numeric instructions (R169, R194 to R204, R210), the operation table (R204 to R211) and the silence watch
(R212 to R221, R235, R236).
-/
namespace Sys2Proof.Machine

/-! ### VCVT (R169, R180 to R186, R194 to R200) -/

/-- Bits [off + w - 1 : off] of a number replaced. -/
def setBits (v off w x : Nat) : Nat := v - v / 2 ^ off % 2 ^ w * 2 ^ off + x % 2 ^ w * 2 ^ off

/-- Where VCVT reads and writes (R169): the number of positions, the first source element, the elements converted, and the
first bit of the destination. -/
def cvtPlace (src dst pos : Nat) : Nat × Nat × Nat × Nat :=
  let n := elemsIn src
  let w := fmtWidth dst
  if 16 ≤ w then
    let k := 16384 / w
    if k ≤ n then (n / k, pos * k, k, 0) else (k / n, 0, n, pos * n * w)
  else (2048 / (n * w / 8), 0, n, pos * n * w)

/-- The saturation setting of a conversion (R187, R192). -/
def cvtSat (sat strict : Bool) (dst : Nat) : Bool := sat && !(strict && decide (dst ≤ 5))

/-- The blocks of a conversion: for each the codes of its elements, its scale byte and its counts. -/
def cvtBlocks (mode dst code : Nat) (xs : List (Num × Bool × Nat)) : List (List (Option Nat) × Nat × Counts) :=
  let k := if mode = 2 then 32 else 16
  (List.range (xs.length / k)).map (fun b => convertBlock mode dst code ((xs.drop (b * k)).take k))

/-- The fields of VCVT: into E8M0 from a floating-point format only, and never stochastically (R195, R198). -/
def cvtOk (s : State) (c : Nat) (sl : Slot) (f : RegForm) : Bool :=
  let src := f.imm.toNat % 16
  let dst := f.fmt.toNat
  let mode := f.smode.toNat
  arithFmt src && scaleModeOk mode dst && !(decide (dst = fE8M0) && (decide (f.rnd = 2) || decide (src = int32))) &&
  (decide (mode ≠ 1) || (sOk f.rb && tensorScaleOk (sregOf s c sl f.rb.toNat))) &&
  decide (bitsOf f.imm.toNat 11 8 < (cvtPlace src dst (bitsOf f.imm.toNat 11 8)).1)

/-- VCVT's effect. Block scales are written before the elements (log entry 36). -/
def cvtBody (c : Core) (sl : Slot) (f : RegForm) (s : State) : State :=
  let src := f.imm.toNat % 16
  let dst := f.fmt.toNat
  let mode := f.smode.toNat
  let code := f.rnd.toNat
  let strict := polStrict s c sl
  let pl := cvtPlace src dst (bitsOf f.imm.toNat 11 8)
  let x := slotOf s c sl
  let va := vregOf s c sl f.ra
  let p := predOf s c sl f.pred f.pneg
  let xs := (List.range pl.2.2.1).map (fun i =>
    let j := pl.2.1 + i
    (decodeNum src (elemAt va (fmtWidth src) j), elemOn p src j, genBits x.key.toNat (x.next.toNat + j)))
  let t := if mode = 1 then some (decodeNum fp32 (sregOf s c sl f.rb.toNat % 2 ^ 32)) else none
  let bs := cvtBlocks mode dst code xs
  let out := if 2 ≤ mode then bs.flatMap (·.1)
    else xs.map (fun y => if y.2.1 then
      some (convertOne src dst code (cvtSat (polSat s c sl) strict dst) (!strict) y.2.2 t y.1).1 else none)
  let k := if 2 ≤ mode then Counts.sum (bs.map (·.2.2))
    else Counts.sum (xs.map (fun y => if y.2.1 then
      (convertOne src dst code (cvtSat (polSat s c sl) strict dst) (!strict) y.2.2 t y.1).2 else Counts.zero))
  let s1 := if 2 ≤ mode then
      setVreg s c sl f.rc ((bs.foldl (fun a b => (setBits a.1 (8 * a.2) 8 b.2.1, a.2 + 1)) (vregOf s c sl f.rc, 0)).1)
    else s
  let w := fmtWidth dst
  let v := (out.foldl (fun a o => (match o with
    | none => (a.1, a.2 + w)
    | some y => (setBits a.1 a.2 w y, a.2 + w))) (vregOf s1 c sl f.rd, pl.2.2.2)).1
  let s2 := fileCounts (setVreg s1 c sl f.rd v) c sl k
  let y := slotOf s2 c sl
  let s3 := if code = 2 then
      setSlot s2 c sl { y with next := y.next + BitVec.ofNat 64 (elemsIn src) } else s2
  advance (bumpW s3 .vecFma_lanes (fmaLanes src) c) c sl

/-- VCVT. -/
def execVcvt (c : Core) (sl : Slot) (f : RegForm) (s : State) : Host.Outcome State Fault Refusal :=
  .next (vecIns 0xE0 c sl f (fun s => !polStrict s c sl) (fun s => cvtOk s c sl f) [f.ra]
    (if 2 ≤ f.smode.toNat then [f.rd, f.rc] else [f.rd]) true (cvtBody c sl f) s)

/-! ### The generator (R201 to R203) -/

/-- VSEED. -/
def execVseed (c : Core) (sl : Slot) (f : RegForm) (s : State) : Host.Outcome State Fault Refusal :=
  .next (scalarIns 0xE1 c sl f (fun _ => sOk f.ra && sOk f.rb && sOk f.rc) (fun s =>
    advance (setSlot s c sl { slotOf s c sl with
      key := BitVec.ofNat 64 (genKey (sregOf s c sl f.ra.toNat) (sregOf s c sl f.rb.toNat))
      next := BitVec.ofNat 64 (sregOf s c sl f.rc.toNat) }) c sl) s)

/-- VRNG: 16 generator bits per lane. -/
def execVrng (c : Core) (sl : Slot) (f : RegForm) (s : State) : Host.Outcome State Fault Refusal :=
  .next (scalarIns 0xE2 c sl f (fun _ => true) (fun s =>
    if vOk s c sl f.rd then
      let x := slotOf s c sl
      let v := (List.range 512).foldl (fun a i => a + genBits x.key.toNat (x.next.toNat + i) * 2 ^ (32 * i)) 0
      let s1 := setVreg s c sl f.rd v
      let s2 := setSlot s1 c sl { slotOf s1 c sl with next := x.next + 512 }
      advance (bumpW (occupy s2 c sl 0 1) .vecFma_lanes 512 c) c sl
    else abortTask s c sl 0x01) s)

/-! ### Tags (R204) -/

/-- NTAG. -/
def execNtag (c : Core) (sl : Slot) (f : RegForm) (s : State) : Host.Outcome State Fault Refusal :=
  .next (scalarIns 0xE3 c sl f (fun _ => sOk f.ra) (fun s =>
    let v := sregOf s c sl f.ra.toNat
    let op := v % 4096
    if op < polCount s c sl ∧ polBase s c sl + op ≤ 4095 ∧ bitsOf v 63 44 = 0 then
      advance (updTask s c sl (fun t => { t with tag := some (polBase s c sl + op, bitsOf v 43 12) })) c sl
    else abortTask (bump s .numStat_bad_tag) c sl 0x0B) s)

/-! ### Sets of an entry (R208) -/

/-- The index of an entry's current set is the entry; the previous set follows 4,096 later. -/
def prevIdx (e : Nat) : Nat := e + 4096

/-- The nine fields of a set. -/
def setFlds : List Fld :=
  [.numOp_step, .numOp_valid, .numOp_elements, .numOp_zeros, .numOp_flushed, .numOp_saturated, .numOp_nan, .numOp_inf,
   .numOp_max, .numOp_seen]

/-- A set with all its fields zero and not valid. -/
def clearSet (s : State) (i : Nat) : State := each setFlds (fun s f => put s f 0 i) s

/-- A set copied from another. -/
def copySet (s : State) (i j : Nat) : State := each setFlds (fun s f => put s f (get s f i) j) s

def setEvald (s : State) (e : Nat) (cur prev : Bool) : State :=
  { s with num := { s.num with evaldCur := mset false s.num.evaldCur e cur, evald := mset false s.num.evald e prev } }

/-- An event record added into a set (R206 to R208). -/
def addRec (s : State) (i : Nat) (r : NumRec) : State :=
  let s1 := bump (bump (bump s .numOp_elements r.elements i) .numOp_zeros r.zeros i) .numOp_flushed r.flushed i
  let s2 := bump (bump (bump s1 .numOp_saturated r.saturated i) .numOp_nan r.nan i) .numOp_inf r.inf i
  match r.max with
  | none => s2
  | some m => put (put s2 .numOp_max (max m (get s2 .numOp_max i)) i) .numOp_seen 1 i

/-- The current set takes a step and the record. -/
def takeStep (s : State) (e : Nat) (r : NumRec) : State :=
  addRec (put (put (clearSet s e) .numOp_step r.step e) .numOp_valid 1 e) e r

/-! ### The silence watch (R212 to R221) -/

def polOpBase (p : PolicyRec) : Nat := bitsOf p.w0.toNat 19 8
def polOpCount (p : PolicyRec) : Nat := bitsOf p.w0.toNat 32 20
def polSilSteps (p : PolicyRec) : Nat := bitsOf p.w1.toNat 19 8
def polSilFrac (p : PolicyRec) : Nat := bitsOf p.w1.toNat 23 20
def polAdapt (p : PolicyRec) : Bool := tst p.w1.toNat 24
def polBoostMax (p : PolicyRec) : Nat := bitsOf p.w1.toNat 27 25

/-- The policy that governs an entry (R214). -/
def governs (s : State) (e : Nat) : Option PolicyRec :=
  (List.range 64).findSome? (fun i => (strOf s 0).policies.find? (fun p =>
    p.index == i && decide (polOpBase p ≤ e ∧ e < polOpBase p + polOpCount p)))

/-- The set is silent (R217). -/
def silentSet (s : State) (i frac : Nat) : Bool :=
  let n := get s .numOp_elements i
  decide (n ≠ 0) && (decide (get s .numOp_zeros i = n) ||
    (decide (frac ≠ 0) && decide (n < get s .numOp_flushed i * 2 ^ frac)))

/-- A silence event or alarm is raised, which the end of the clk logs (R219; log entry 189). -/
def raise (s : State) (x : SilEvt) : State := { s with num := { s.num with due := s.num.due ++ [x] } }

/-- The silence events and alarms raised of some entries are logged, oldest first (R219). -/
def logDue (s : State) (f : Nat → Bool) : State :=
  each (s.num.due.filter (fun x => f x.entry)) (fun s x => logEvt s x.code 0 x.job x.step x.entry x.data)
    { s with num := { s.num with due := s.num.due.filter (fun x => !f x.entry) } }

/-- The clk of the operation table is over (R208, R211, R226): what it raised is logged, and its records stand (log entry 189). -/
def closeClk (s : State) : State :=
  let s1 := logDue s (fun _ => true)
  { s1 with num := { s1.num with fresh := [], base := [], worst := none } }

/-- An evaluation of a set of a watched entry under its policy (R219, R220). -/
def evalSet (s : State) (e i job : Nat) (p : PolicyRec) : State :=
  let b := get s .numSil_boost e
  let run := get s .numSil_run e
  if silentSet s i (polSilFrac p) then
    let s1 := put s .numSil_run (min (run + 1) 4095) e
    if run + 1 < polSilSteps p then s1
    else
      let s2 := if flag s1 .numSil_evented e then s1
        else raise (bump (put s1 .numSil_evented 1 e) .numSilcnt_events) ⟨0x021, job, get s .numOp_step i, e, min (run + 1) 4095⟩
      if polAdapt p then
        if b < polBoostMax p then bump (put s2 .numSil_boost (b + 1) e) .numSilcnt_boosts
        else if b = polBoostMax p ∧ !flag s2 .numSil_alarmed e then
          raise (bump (put s2 .numSil_alarmed 1 e) .numSilcnt_alarms) ⟨0x022, job, get s .numOp_step i, e, b⟩
        else s2
      else s2
  else
    let s1 := put (put (put s .numSil_run 0 e) .numSil_evented 0 e) .numSil_alarmed 0 e
    if get s .numOp_elements i < get s .numOp_saturated i * 256 ∧ b ≠ 0 then
      bump (put s1 .numSil_boost (b - 1) e) .numSilcnt_unboosts
    else s1

/-- An entry is watched: its watch bit is 1 and a policy with a silence threshold governs it. -/
def watchPol (s : State) (e : Nat) : Option PolicyRec :=
  if flag s .numSil_watch e then
    (governs s e).filter (fun p => decide (polSilSteps p ≠ 0))
  else none

/-- The evaluation of R218, where the entry is watched. -/
def evaluate (s : State) (e i job : Nat) : State :=
  match watchPol s e with
  | none => s
  | some p => evalSet s e i job p

/-- A step jump (R221). -/
def jumpWatch (s : State) (e : Nat) : State :=
  if flag s .numSil_watch e then put (put (put s .numSil_run 0 e) .numSil_evented 0 e) .numSil_alarmed 0 e else s

/-! ### Records reach the table (R208) -/

/-- A record of an entry by the table of R208. -/
def recordInto (s : State) (e : Nat) (r : NumRec) : State :=
  let cur := get s .numOp_step e
  let prev := get s .numOp_step (prevIdx e)
  if !flag s .numOp_valid e then setEvald (takeStep s e r) e false (mget false s.num.evald e)
  else if r.step = cur then addRec s e r
  else if r.step = (cur + 1) % 2 ^ 32 then
    let s1 := if mget false s.num.evaldCur e then s else evaluate s e e r.job
    setEvald (takeStep (copySet s1 e (prevIdx e)) e r) e false true
  else if flag s .numOp_valid (prevIdx e) ∧ r.step = prev then bump s .numStat_late_capture
  else setEvald (takeStep (clearSet (jumpWatch (bump s .numStat_step_jump) e) (prevIdx e)) e r) e false false

/-- The totals of the module. -/
def addTotals (s : State) (r : NumRec) : State :=
  bumpW (bumpW (bumpW (bumpW (bumpW (bumpW s .numTotElem_count r.elements) .numTotZero_count r.zeros) .numTotFlush_count
    r.flushed) .numTotSat_count r.saturated) .numTotNan_count r.nan) .numTotInf_count r.inf

/-! ### The records of one clk (R208, R211, R235) -/

/-- The fields of an entry that its records change: its two sets and its watch, each with its index. -/
def entFlds (e : Nat) : List (Fld × Nat) :=
  setFlds.map (fun f => (f, e)) ++ setFlds.map (fun f => (f, prevIdx e)) ++
    [(.numSil_run, e), (.numSil_boost, e), (.numSil_evented, e), (.numSil_alarmed, e)]

/-- The counters of the module that the records of an entry change, beside the totals. -/
def recCounts : List Fld :=
  [.numStat_late_capture, .numStat_step_jump, .numSilcnt_events, .numSilcnt_boosts, .numSilcnt_alarms, .numSilcnt_unboosts]

/-- The records of this clk that reached an entry. -/
def freshOf (s : State) (e : Nat) : List NumRec := s.num.fresh.filter (fun r => r.entry == some e)

/-- An entry is kept as it is before the first record of this clk. -/
def noteBase (s : State) (e : Nat) : State :=
  if s.num.base.any (fun b => b.entry == e) then s
  else
    let b : EntBase := ⟨e, (entFlds e).map (fun f => get s f.1 f.2), mget false s.num.evaldCur e, mget false s.num.evald e, []⟩
    { s with num := { s.num with base := s.num.base ++ [b] } }

/-- A record acts on its entry, and what it adds to the counters is noted. -/
def applyRec (e : Nat) (s : State) (r : NumRec) : State :=
  let t := recordInto s e r
  let more (b : EntBase) : List Nat :=
    recCounts.mapIdx (fun i f => b.added.getD i 0 + (get t f - get s f))
  { t with num := { t.num with base := t.num.base.map (fun b => if b.entry = e then { b with added := more b } else b) } }

/-- An entry as it was before the records of this clk. -/
def unrecord (s : State) (e : Nat) : State :=
  match s.num.base.find? (fun b => b.entry == e) with
  | none => s
  | some b =>
    let s1 := each ((entFlds e).zip b.vals) (fun s x => put s x.1.1 x.2 x.1.2) s
    let s2 := each (recCounts.zip b.added) (fun s x => put s x.1 (get s x.1 - x.2)) s1
    setEvald { s2 with num := { s2.num with
      base := s2.num.base.filter (fun x => x.entry != e), due := s2.num.due.filter (fun x => x.entry != e) } } e b.cur b.prev

/-- A record takes its place among others, after those of its core and of lower ones. -/
def insertRec (r : NumRec) : List NumRec → List NumRec
  | [] => [r]
  | x :: l => if r.core < x.core then r :: x :: l else x :: insertRec r l

/-- Records in ascending core number, those of one core in their order (R208). -/
def byCore (l : List NumRec) : List NumRec := l.foldl (fun a r => insertRec r a) []

/-- The records of this clk act on an entry, in ascending core number (R208). -/
def replay (s : State) (e : Nat) : State :=
  if (freshOf s e).isEmpty then s else each (byCore (freshOf s e)) (applyRec e) (noteBase s e)

/-- What is done to an entry between two clks comes before the records of this clk (R211, R235). -/
def beforeClk (s : State) (e : Nat) (f : State → State) : State := replay (f (unrecord s e)) e

/-- A record reaches an entry: it acts after those of this clk from its core and from lower ones, and before the others (R208). -/
def reachEntry (s : State) (e : Nat) (r : NumRec) : State :=
  let t := { s with num := { s.num with fresh := s.num.fresh ++ [r] } }
  if (freshOf s e).all (fun x => decide (x.core ≤ r.core)) then applyRec e (noteBase t e) r else replay (unrecord t e) e

/-- A record reaches the table; with count_en 0 everything holds its values. -/
def takeRecord (s : State) (r : NumRec) : State :=
  if flag s .numCtl_count_en then
    match r.entry with
    | none => addTotals s r
    | some e => reachEntry (addTotals s r) e r
  else s

/-- NUM_EVENT_RECORD (R208): the i-th record on its way. -/
def execNumEventRecord (i : Nat) (s : State) : Host.Outcome State Fault Refusal :=
  match s.num.recs[i]? with
  | none => .next s
  | some r => .next (takeRecord { s with num := { s.num with recs := s.num.recs.eraseIdx i } } r)

/-! ### NMAXR (R210, R215, R218) -/

/-- The set that NMAXR of a step reads: current, or previous. -/
def maxSet (s : State) (e step : Nat) : Option Nat :=
  let want := (step + (2 ^ 32 - 1)) % 2 ^ 32
  if flag s .numOp_valid e ∧ get s .numOp_step e = want then some e
  else if flag s .numOp_valid (prevIdx e) ∧ get s .numOp_step (prevIdx e) = want then some (prevIdx e)
  else none

/-- The set is evaluated once, at the latest when NMAXR reads it. -/
def evalOnce (s : State) (e i job : Nat) : State :=
  if i = e then
    if mget false s.num.evaldCur e then s else setEvald (evaluate s e e job) e true (mget false s.num.evald e)
  else
    if mget false s.num.evald e then s
    else setEvald (evaluate s e i job) e (mget false s.num.evaldCur e) true

/-- The value of NMAXR from a set. -/
def maxWord (s : State) (e i : Nat) : Nat :=
  if flag s .numOp_seen i then get s .numOp_max i + 2 ^ 32 + get s .numSil_boost e * 2 ^ 33 else 0

/-- What the records of this clk have made of an entry stands: an NMAXR has read it (log entry 189). -/
def settleEnt (s : State) (e : Nat) : State :=
  let s1 := logDue s (fun x => x == e)
  { s1 with num := { s1.num with fresh := s1.num.fresh.filter (fun r => r.entry != some e),
                                 base := s1.num.base.filter (fun b => b.entry != e) } }

/-- NMAXR; 0 where the task has no identifier. -/
def execNmaxr (c : Core) (sl : Slot) (f : RegForm) (s : State) : Host.Outcome State Fault Refusal :=
  .next (scalarIns 0xE4 c sl f (fun _ => sOk f.rd) (fun s =>
    match tagOf s c sl with
    | none => advance (setSreg s c sl f.rd.toNat 0) c sl
    | some (e, step) => match maxSet s e step with
      | none => advance (setSreg s c sl f.rd.toNat 0) c sl
      | some i =>
        let s1 := settleEnt (evalOnce s e i (taskJob s c sl)) e
        advance (setSreg s1 c sl f.rd.toNat (maxWord s1 e i)) c sl) s)

/-! ### Register writes (R211, R235, R236) -/

/-- An entry's two sets cleared. -/
def clearSets (s : State) (e : Nat) : State := setEvald (clearSet (clearSet s e) (prevIdx e)) e false false

/-- An entry cleared between two clks (R211). -/
def clearEntry (s : State) (e : Nat) : State := beforeClk s e (fun s => clearSets s e)

/-- The sets of every entry cleared. -/
def clearTable (s : State) : State :=
  { s with
    regs := s.regs.filter (fun p => !(setFlds.any (fun f => f.ctorIdx == p.1 % 1024)))
    num := { s.num with evald := [], evaldCur := [] } }

/-- The entries that records of this clk reached. -/
def freshEnts (s : State) : List Nat := (s.num.fresh.filterMap (fun r => r.entry)).eraseDups

/-- Every entry cleared between two clks (R211). -/
def clearEntries (s : State) : State :=
  let l := freshEnts s
  each l replay (clearTable (each l unrecord s))

/-- A write of `NUM_OPCLR` (R211). -/
def opclrWrite (s : State) (v : Nat) : State := if tst v 12 then clearEntries s else clearEntry s (v % 4096)

/-- NUM_OPCLR_ENTRY. -/
def execNumOpclrEntry (entry : BitVec 12) (s : State) : Host.Outcome State Fault Refusal :=
  .next (onlyIf (fn0Up s) (fun s => clearEntry s entry.toNat) s)

/-- NUM_OPCLR_ALL. -/
def execNumOpclrAll (s : State) : Host.Outcome State Fault Refusal := .next (onlyIf (fn0Up s) clearEntries s)

/-- The watch of an entry as a write of `NUM_SIL` leaves it. -/
def setWatch (s : State) (e v : Nat) : State :=
  put (put (put (put (put s .numSil_watch (bitsOf v 0 0) e) .numSil_run (bitsOf v 12 1) e) .numSil_boost (bitsOf v 15 13) e)
    .numSil_evented 0 e) .numSil_alarmed 0 e

/-- A write of `NUM_SIL` for the selected entry, between two clks (R235). -/
def silWrite (s : State) (v : Nat) : State :=
  let e := get s .numOpsel_entry
  beforeClk s e (fun s => setWatch s e v)

/-- NUM_SIL_WRITE (R235). -/
def execNumSilWrite (v : BitVec 64) (s : State) : Host.Outcome State Fault Refusal :=
  .next (onlyIf (fn0Up s) (fun s => silWrite s v.toNat) s)

/-- The sets of an entry as a write of `NUM_OPSEED` leaves them (R236). -/
def seedSets (s : State) (e mx step : Nat) : State :=
  let i := prevIdx e
  let s1 := put (clearSet s i) .numOp_valid 1 i
  let s2 := put (put (put s1 .numOp_step step i) .numOp_max mx i) .numOp_seen 1 i
  setEvald (put s2 .numOp_valid 0 e) e false true

/-- A write of `NUM_OPSEED` for the selected entry, between two clks (R235). -/
def opseedWrite (s : State) (mx step : Nat) : State :=
  let e := get s .numOpsel_entry
  beforeClk s e (fun s => seedSets s e mx step)

/-- NUM_OPSEED_WRITE (R235, R236). -/
def execNumOpseedWrite (mx step : BitVec 32) (s : State) : Host.Outcome State Fault Refusal :=
  .next (onlyIf (fn0Up s) (fun s => opseedWrite s mx.toNat step.toNat) s)

end Sys2Proof.Machine
end

