-- ==== Sys2Proof/Machine/Arrays.lean ====
section
/-!
DEFINITION. The arrays (spec/04_cores_and_arrays.md): tensor instructions, feeder routing, passes, accumulator banks,
drains, zero gating, and the shadow tiles of R222 to R228.
-/
namespace Sys2Proof.Machine

/-! ### Fields of the tensor forms (R148, R149, R180, R193) -/

def tensorCommon (f : TensorForm) : Bool :=
  decide (f.rsv0 = 0) && decide (f.rsv1 = 0) && decide (f.rsv2 = 0) && scaleModeOk f.smode.toNat f.fmt.toNat

def tloadOk (f : TensorForm) : Bool :=
  tensorCommon f && decide (f.rnd = 0) && !f.first && !f.bank && !f.tcEn && decide (f.tc = 0) &&
  decide (f.moon.toNat < 16) && decide (f.sreg = 0) && decide (f.rows = 0) && decide (f.stride = 0) &&
  (perCell f.fmt.toNat).isSome

/-- The rows of a TSTREAM are in range, where it reads any itself (R149, R151). -/
def tstreamOk (l : List (Nat × Bool × Bool)) (f : TensorForm) : Bool :=
  tensorCommon f && decide (f.rnd = 0) && decide (f.sreg = 0) && (perCell f.fmt.toNat).isSome &&
  ((fedParts l f).isEmpty && isForwarded l (runFirst l f.array.toNat) ||
    decide (1 ≤ f.rows.toNat ∧ f.rows.toNat ≤ (if isMoonlet l f.array.toNat then 128 else 256)))

def tdrainOk (f : TensorForm) : Bool :=
  tensorCommon f && !f.first && decide (f.moon = 0) && decide (f.stride = 0) && decide (f.rnd ≠ 3) &&
  decide (f.fmt.toNat ≠ fE8M0) && decide (f.fmt.toNat ≠ 15) && decide (1 ≤ f.rows.toNat ∧ f.rows.toNat ≤ 256)

/-- The two tensor scales that a TDRAIN takes are positive, finite and normal (R152, R181). -/
def drainScalesOk (f : TensorForm) (scales : Nat) : Bool :=
  decide (f.smode.toNat ≠ 1) || (tensorScaleOk scales && tensorScaleOk (scales / 2 ^ 32))

/-! ### Issue (R101, R103, R123, R149, R164, R203, R205) -/

/-- TSTREAMs that a slot has issued to an array. -/
def sentOf (s : State) (c a : Nat) (sl : Slot) : Nat := mget 0 (arrOf s c a).sent (slotIdx sl)

def bumpSent (c : Nat) (sl : Slot) (s : State) (a : Nat) : State :=
  setArr s c a { arrOf s c a with sent := mset 0 (arrOf s c a).sent (slotIdx sl) (sentOf s c a sl + 1) }

/-- First-chunk TSTREAMs counted since the task began (R223). -/
def bumpTiles (s : State) (c : Nat) (sl : Slot) (a : Nat) : State :=
  setSlot s c sl { slotOf s c sl with tiles := mset 0 (slotOf s c sl).tiles a (mget 0 (slotOf s c sl).tiles a + 1) }

/-! ### Sampling (R213, R222, R223) -/

/-- Word 1 of the policy of a slot's stage group, with the defaults of R213. -/
def polWatch (s : State) (c : Nat) (sl : Slot) : Nat :=
  match policyOf s c sl with
  | none => 10 + 4 * 2 ^ 4 + 64 * 2 ^ 8 + 2 * 2 ^ 20 + 4 * 2 ^ 25 + 2 ^ 28
  | some p => p.w1.toNat

/-- The mix of R223 for the `t`-th tile of a job on an array. -/
def sampleHash (s : State) (c a job t : Nat) : Nat :=
  genMix (get s .numShdSeed_seed ^^^ ((genMix (c * 2 ^ 16 + a * 2 ^ 12 + job) + t) % m64))

/-- The sample of a tile that begins: what its row is taken from, where the tile may be sampled (R222) and is (R223). It is
drawn as the TSTREAM issues (log entry 150). -/
def sampleOf (s : State) (c : Nat) (sl : Slot) (l : List (Nat × Bool × Bool)) (f : TensorForm) (t : Nat) : Option Nat :=
  let a := f.array.toNat
  let k := polWatch s c sl % 16
  let h := sampleHash s c a (taskJob s c sl) t
  if f.first ∧ isMoonlet l a = false ∧ (runOf l a).length = 1 ∧ (intBits f.fmt.toNat).isNone ∧ k ≠ 0 ∧ h / 2 ^ (64 - k) = 0 then
    some (h % 2 ^ 32)
  else none

/-- A tensor command enters its array's queue. -/
def enqueue (s : State) (c : Nat) (sl : Slot) (kind : TKind) (l : List (Nat × Bool × Bool)) (f : TensorForm) : State :=
  let a := f.array.toNat
  let k := coreOf s c
  let x := slotOf s c sl
  let mem := runOf l a
  let cmd : TCmd :=
    { kind := kind, slot := sl, job := taskJob s c sl, form := f, tag := tagOf s c sl,
      scales := BitVec.ofNat 64 (sregOf s c sl f.sreg.toNat), key := x.key, next := x.next, seq := k.nextId,
      ords := mem.map (fun b => sentOf s c b sl),
      tile := sampleOf s c sl l f (mget 0 x.tiles a), torn := false }
  let s1 := setCore s c { k with nextId := k.nextId + 1 }
  let s2 := setArr s1 c a { arrOf s1 c a with queue := (arrOf s1 c a).queue ++ [cmd] }
  let s3 := if kind = .stream then each mem (bumpSent c sl) s2 else s2
  let s4 := if f.first then bumpTiles s3 c sl a else s3
  let s5 := if kind = .drain ∧ f.rnd = 2 then
      setSlot s4 c sl { slotOf s4 c sl with next := x.next + BitVec.ofNat 64 (32 * f.rows.toNat) } else s4
  advance s5 c sl

/-- A tensor instruction: its fields hold, and where its predicate lets it run (log entry 147) the scales that it takes are good,
its ranges lie in the job's split, and its counter is the job's own; a full queue stalls it. -/
def tensorIns (op : Nat) (kind : TKind) (c : Core) (sl : Slot) (f : TensorForm) (ok : List (Nat × Bool × Bool) → Bool)
    (scales : State → Bool) (s : State) : State :=
  sequence s c sl (tensorWord op f) (fun s =>
    let l := feederOf s c sl
    if ok l && !polStrict s c sl then
      if enabled s c sl f.pred f.pneg then
        if 4 ≤ (arrOf s c f.array.toNat).queue.length then s
        else if !scales s then abortTask s c sl 0x0B
        else if (tensorRanges kind l f).all (fun r => inSplit s c sl r.1 r.2) &&
            (!f.tcEn || ownsTc s c sl f.tc.toNat) then enqueue s c sl kind l f
        else abortTask s c sl 0x01
      else advance s c sl
    else abortTask s c sl 0x0B)

/-- TLOAD (R112, R114, R150). -/
def execTload (c : Core) (sl : Slot) (f : TensorForm) (s : State) : Host.Outcome State Fault Refusal :=
  .next (tensorIns 0x40 .load c sl f (fun _ => tloadOk f) (fun _ => true) s)

/-- TSTREAM (R113, R117, R151). -/
def execTstream (c : Core) (sl : Slot) (f : TensorForm) (s : State) : Host.Outcome State Fault Refusal :=
  .next (tensorIns 0x41 .stream c sl f (fun l => tstreamOk l f) (fun _ => true) s)

/-- TDRAIN (R119, R152). -/
def execTdrain (c : Core) (sl : Slot) (f : TensorForm) (s : State) : Host.Outcome State Fault Refusal :=
  .next (tensorIns 0x42 .drain c sl f (fun _ => tdrainOk f) (fun s => drainScalesOk f (sregOf s c sl f.sreg.toNat)) s)

/-! ### Starting a command (R101, R102, R114, R115, R118) -/

/-- The next command of an array: the primary's first (R102). -/
def nextCmd (x : ArrSt) : Option TCmd :=
  match x.queue.find? (fun q => decide (q.slot = .prim)) with
  | some q => some q
  | none => x.queue.find? (fun q => decide (q.slot = .fill))

/-- The bank, in the last member, that a command of a run uses is free of a TDRAIN of its slot. -/
def drainsBank (rs : List RunCmd) (sl : Slot) (bank : Bool) : Bool :=
  rs.any (fun r => decide (r.cmd.kind = .drain) && decide (r.cmd.slot = sl) && r.cmd.form.bank == bank)

/-- A command that waits on one of the same arrays comes first: an earlier one of the slot, or for the filler any of the
primary (R101, R102, R123). -/
def comesFirst (q p : TCmd) : Bool :=
  (decide (p.slot = q.slot) && decide (p.seq < q.seq)) || (decide (q.slot = .fill) && decide (p.slot = .prim))

/-- A command may start: no command of the other slot runs on the arrays that it acts on, none that waits comes first, and a
TLOAD or TSTREAM follows the one before it (R102, R114, R115, R118). -/
def canStart (s : State) (c : Nat) (l : List (Nat × Bool × Bool)) (q : TCmd) : Bool :=
  let mem := cmdArrays l q
  let rs := runsOn s c mem
  rs.all (fun r => decide (r.cmd.slot = q.slot)) && (queuedOn s c mem).all (fun p => !comesFirst q p) &&
  (match q.kind with
   | .load => rs.all (fun r => decide (r.cmd.kind ≠ .load))
   | .stream => rs.all (fun r => decide (r.cmd.kind ≠ .load) && (decide (r.cmd.kind ≠ .stream) || r.rowsRead)) &&
       !drainsBank rs q.slot q.form.bank
   | .drain => true)

/-- The parts of a TSTREAM: members of the run, or moonlets; each with the array and the weight key that it uses. -/
def partsOf (l : List (Nat × Bool × Bool)) (q : TCmd) : List (Nat × Nat × Nat) :=
  let a := q.form.array.toNat
  if isMoonlet l a then (streamParts q.form).map (fun i => (i, a, 4 * slotIdx q.slot + i))
  else (runOf l a).mapIdx (fun i b => (i, b, 4 * slotIdx q.slot))

/-- The shadow weights become the active ones of each part (R114). -/
def copyWeights (c : Nat) (s : State) (p : Nat × Nat × Nat) : State :=
  let x := arrOf s c p.2.1
  setArr s c p.2.1 { x with active := mset (some Tile.zero) x.active p.2.2 (mget (some Tile.zero) x.shadow p.2.2) }

/-- The active weights of a part; registers that were never loaded hold zeros of the command's format. -/
def weightOf (s : State) (c fmt : Nat) (p : Nat × Nat × Nat) : Option Tile :=
  (mget (some Tile.zero) (arrOf s c p.2.1).active p.2.2).map (fun t => if t = Tile.zero then { t with fmt := fmt } else t)

/-- Activations of a format may meet the weights of a part (R105); undefined weights meet any. -/
def meets (fmt : Nat) (w : Option Tile) : Bool :=
  match w with
  | none => true
  | some t => pairOk fmt t.fmt

/-- A command leaves its array's queue and runs, with the weights that it takes. -/
def runCmdNow (s : State) (c : Core) (a : ArrId) (q : TCmd) (ws : List (Nat × Option Tile)) : State :=
  let x := arrOf s c a
  setArr s c a { x with queue := x.queue.filter (fun p => p.seq != q.seq), run := x.run ++ [⟨q, false, [], ws⟩] }

/-- A started TSTREAM takes its weights; a pairing that R105 does not allow aborts the task, the sampled tile that the command begins
among its tiles (R228). -/
def startStream (s : State) (c : Core) (a : ArrId) (l : List (Nat × Bool × Bool)) (q : TCmd) : State :=
  let ps := partsOf l q
  let s1 := each ps (copyWeights c) s
  let ws := ps.map (fun p => (p.1, weightOf s1 c q.form.fmt.toNat p))
  if ws.all (fun w => meets q.form.fmt.toNat w.2) then runCmdNow s1 c a q ws else abortTask s1 c q.slot 0x0B

/-- ARRAY_COMMAND_START (R101, R102, R115). -/
def execArrayCommandStart (c : Core) (a : ArrId) (s : State) : Host.Outcome State Fault Refusal :=
  match nextCmd (arrOf s c a) with
  | none => .next s
  | some q =>
    let l := feederOf s c q.slot
    .next (onlyIf (coreUp s c && canStart s c l q)
      (fun s => if q.kind = .stream then startStream s c a l q else runCmdNow s c a q []) s)

/-- The first running command of an array that a test finds. -/
def firstRun (s : State) (c a : Nat) (f : RunCmd → Bool) : Option RunCmd := (arrOf s c a).run.find? f

/-- A running command is over. -/
def endRun (s : State) (c a : Nat) (q : TCmd) : State :=
  setArr s c a { arrOf s c a with run := (arrOf s c a).run.filter (fun r => r.cmd.seq != q.seq) }

/-- Local SRAM read for an array's command: an uncorrectable unit aborts the task with code 0x03. -/
def arrayRead (s : State) (c : Core) (q : TCmd) (a n : Nat) : State × Option Bytes :=
  let r := readMem s (sramBase c + a) n
  match r.2.1 with
  | some u => (abortTask r.1 c q.slot (ueCode u), none)
  | none => let t := tornRead r.1 q.torn r.2.2; (t.1, some t.2)

/-- Elements of a width in bytes. -/
def unpack (w n : Nat) (b : Bytes) : List Nat := let v := leNat b; (List.range n).map (elemAt v w)

/-! ### TLOAD (R112, R150; the order of a tile's block scales is log entry 37) -/

/-- The command still runs: no abort of its task has taken it out (R132). -/
def stillRuns (s : State) (c : Nat) (q : TCmd) : Bool := (arrOf s c q.form.array.toNat).run.any (fun r => r.cmd.seq == q.seq)

/-- One tile of a TLOAD that still runs: moonlet number `i` and its place `j` among the tiles that lie in SRAM. -/
def loadTile (c : Core) (q : TCmd) (moon : Bool) (s : State) (ij : Nat × Nat) : State :=
  let f := q.form
  let fmt := f.fmt.toNat
  let mode := f.smode.toNat
  let a := f.array.toNat
  if !stillRuns s c q then s
  else
    let r := arrayRead s c q (f.addr.toNat + ij.2 * tileBytes moon fmt) (tileBytes moon fmt)
    match r.2 with
    | none => r.1
    | some b =>
      let t := arrayRead r.1 c q (f.bsaddr.toNat + ij.2 * tileScales moon fmt mode) (tileScales moon fmt mode)
      match t.2 with
      | none => t.1
      | some sc =>
        let tile : Tile := ⟨fmt, mode, unpack (fmtWidth fmt) (tileElems moon fmt) b, sc.map (·.toNat)⟩
        let x := arrOf t.1 c a
        setArr t.1 c a { x with shadow := mset (some Tile.zero) x.shadow (4 * slotIdx q.slot + ij.1) (some tile) }

/-- TLOAD_DONE (R112): a tile that cannot be read aborts the task, and no further one is loaded (R132). -/
def execTloadDone (c : Core) (a : ArrId) (s : State) : Host.Outcome State Fault Refusal :=
  match firstRun s c a (fun r => decide (r.cmd.kind = .load)) with
  | none => .next s
  | some r =>
    let q := r.cmd
    let moon := isMoonlet (feederOf s c q.slot) a
    .next (onlyIf (coreUp s c)
      (fun s => endRun (each ((loadParts moon q.form).mapIdx (fun j i => (i, j))) (loadTile c q moon) s) c a q) s)

/-! ### TSTREAM: the rows (R113, R123, R151; log entry 38 for the block scales of further members) -/

/-- The rows of one part read from SRAM. -/
def readRows (s : State) (c : Core) (q : TCmd) (moon : Bool) (i : Nat) : State × Option RowData :=
  let f := q.form
  let fmt := f.fmt.toNat
  let mode := f.smode.toNat
  let m := f.rows.toNat
  let r := arrayRead s c q (f.addr.toNat + i * (64 * f.stride.toNat)) (rowsBytes moon fmt m)
  match r.2 with
  | none => (r.1, none)
  | some b =>
    let n := m * blocksIn moon fmt mode
    let t := arrayRead r.1 c q (f.bsaddr.toNat + i * n) n
    match t.2 with
    | none => (t.1, none)
    | some sc => (t.1, some ⟨m, fmt, mode, unpack (fmtWidth fmt) (m * kPass moon fmt) b, sc.map (·.toNat)⟩)

/-- The key of rows kept for a forwarded array: part, TSTREAM number and slot. -/
def fedKey (part ord : Nat) (sl : Slot) : Nat := 8 * ord + 2 * part + slotIdx sl

/-- The rows that array `b - 1` keeps for part `i` of the `ord`-th TSTREAM of array `b`. -/
def fedRows (s : State) (c b : Nat) (sl : Slot) (i ord : Nat) : Option RowData :=
  if b = 0 then none else mget none (arrOf s c (b - 1)).fed (fedKey i ord sl)

/-- Array `b`'s rows are kept for array `b + 1`, where that array is forwarded from it and is no member of the run. -/
def keepFed (c b : Nat) (sl : Slot) (l : List (Nat × Bool × Bool)) (ord : Nat) (s : State) (p : Nat × Option RowData) :
    State :=
  if isForwarded l (b + 1) && decide (b < 7) && !isCascaded l b then
    setArr s c b { arrOf s c b with fed := mset none (arrOf s c b).fed (fedKey p.1 ord sl) p.2 }
  else s

/-- The source of a forwarded array has passed on its rows. -/
def dropFed (c b : Nat) (sl : Slot) (ord : Nat) (s : State) : State :=
  if b = 0 then s
  else setArr s c (b - 1) { arrOf s c (b - 1) with
    fed := (arrOf s c (b - 1)).fed.filter (fun p => !(p.1 / 8 == ord && p.1 % 2 == slotIdx sl)) }

/-- The rows of every part, in order: from SRAM, from the source array, or from the member before. Nothing where one is
missing or cannot be read. A moonlet array forwarded from a full-mode one, or the reverse, takes part 0 for every part, and a moonlet
whose source moonlet got no slot takes no rows (log entries 146 and 183). -/
def gatherRows (c : Core) (q : TCmd) (l : List (Nat × Bool × Bool)) (moon : Bool) :
    List (Nat × Nat × Nat) → State → List (Nat × Option RowData) → State × Option (List (Nat × Option RowData))
  | [], s, acc => (s, some acc)
  | p :: ps, s, acc =>
    let i := p.1
    let b := p.2.1
    if isForwarded l b then
      let first := decide (b = runFirst l b)
      let r := if moon || first then
          (match fedRows s c b q.slot (if moon then i else 0) (q.ords.headD 0) with
           | some d => some d
           | none => fedRows s c b q.slot 0 (q.ords.headD 0))
        else (acc.getLast?).bind (·.2)
      match r with
      | none => (s, none)
      | some d => gatherRows c q l moon ps s (acc ++ [(i, some d)])
    else
      let r := readRows s c q moon i
      match r.2 with
      | none => (r.1, none)
      | some d => gatherRows c q l moon ps r.1 (acc ++ [(i, some d)])

/-- What an array passes on to one that it feeds: the rows of each moonlet, none of one that its TSTREAM gave no slot, or in full mode
its rows as part 0 (R123; log entry 183). -/
def passedRows (moon : Bool) (q : TCmd) (rows : List (Nat × Option RowData)) : List (Nat × Option RowData) :=
  if moon then
    (List.range 4).map (fun i => (i, some ((mget none rows i).getD ⟨0, q.form.fmt.toNat, q.form.smode.toNat, [], []⟩)))
  else [(0, (rows.getLast?).bind (·.2))]

/-- A running TSTREAM has its rows: forwarded arrays may take them, and tc rises (R149). -/
def rowsReadNow (s : State) (c : Core) (a : Nat) (q : TCmd) (l : List (Nat × Bool × Bool))
    (rows : List (Nat × Option RowData)) : State :=
  let mem := runOf l a
  let first := mem.headD a
  let last := mem.getLastD a
  let s1 := if isForwarded l first then dropFed c first q.slot (q.ords.headD 0) s else s
  let s2 := each (passedRows (isMoonlet l a) q rows) (keepFed c last q.slot l (q.ords.getLastD 0)) s1
  let x := arrOf s2 c a
  let s3 := setArr s2 c a { x with run := x.run.map (fun r =>
    if r.cmd.seq = q.seq then { r with rowsRead := true, rows := rows } else r) }
  if q.form.tcEn then tcAdd s3 c q.form.tc.toNat 1 else s3

/-- TSTREAM_ROWS_READ (R123, R149): rows that came from another array meet the weights only in a pair of R105. -/
def execTstreamRowsRead (c : Core) (a : ArrId) (s : State) : Host.Outcome State Fault Refusal :=
  match firstRun s c a (fun r => decide (r.cmd.kind = .stream) && !r.rowsRead) with
  | none => .next s
  | some r =>
    let q := r.cmd
    let l := feederOf s c q.slot
    .next (onlyIf (coreUp s c) (fun s =>
      let g := gatherRows c q l (isMoonlet l a) (partsOf l q) s []
      match g.2 with
      | none => g.1
      | some rows =>
        if rows.all (fun d => meets ((d.2.map (·.fmt)).getD q.form.fmt.toNat) (mget none r.weights d.1)) then
          rowsReadNow g.1 c a q l rows
        else abortTask g.1 c q.slot 0x0B) s)

/-! ### TSTREAM: the sums (R104 to R109, R117, R124, R125) -/

/-- An element under its block scale (R109, R183): a zero scale makes it zero, a NaN scale NaN. R183 says of a scale byte of 0x00 that it
zeroes its block, beside a sentence on E4M3 scales, and names no mode; R173 gives E8M0 no zero and that byte the value 2^-127: the model
zeroes the block of an E4M3 scale alone (log entry 185). -/
def scaled (mode : Nat) (scale : Nat) (x : Num) : Num :=
  if mode < 2 then x
  else
    let sc := if mode = 2 then decodeNum fE8M0 scale else decodeNum 6 (scale % 128)
    match sc with
    | .nan _ => .nan false
    | .inf _ => x
    | .fin _ n f => match x with
      | .fin b m e => .fin b (m * n) (e + f)
      | y => if n = 0 then .fin y.neg 0 0 else y

/-- The K values of row `m` of a stream. -/
def rowVals (moon : Bool) (d : RowData) (m : Nat) : List Num :=
  let k := kPass moon d.fmt
  let nb := blocksIn moon d.fmt d.smode
  (List.range k).map (fun i =>
    scaled d.smode (d.scales.getD (m * nb + i / blockLen d.smode) 0) (decodeNum d.fmt (d.elems.getD (m * k + i) 0)))

/-- The K weights of column `j` of a tile. -/
def colVals (moon : Bool) (t : Tile) (j : Nat) : List Num :=
  let p := (perCell t.fmt).getD 1
  let n := dimOf moon
  let nb := blocksIn moon t.fmt t.smode
  (List.range (n * p)).map (fun k =>
    scaled t.smode (t.scales.getD (j * nb + k / blockLen t.smode) 0)
      (decodeNum t.fmt (t.elems.getD (k / p * (n * p) + j * p + k % p) 0)))

/-- One FP32 addition of an array, round to nearest with the fast-mode flush (R106, R107, R190). -/
def arrAdd (x p : Num) (allFin noNan : Bool) : Num × Counts :=
  let r := arithOut fp32 false 0 allFin noNan (numAdd x p)
  (decodeNum fp32 r.1, r.2)

/-- A 48-bit sum, saturating (R108), with 1 where it saturates. -/
def arrAddInt (x p : Int) : Int × Nat :=
  if x + p > 2 ^ 47 - 1 then (2 ^ 47 - 1, 1) else if x + p < -2 ^ 47 then (-2 ^ 47, 1) else (x + p, 0)

/-- The integer that a decoded integer element stands for. -/
def intOf : Num → Int
  | .fin b m e => intAt b m e 0
  | _ => 0

/-- A partial sum: an entry with the counts of what formed it, and its saturations. -/
structure Sum where
  entry : Entry
  cnt   : Counts
  sat   : Nat
  deriving DecidableEq, Repr

/-- The sum of a column: the products added one at a time in ascending k (R106 to R108). -/
def colSum (start : Sum) (l : List (Num × Num)) : Sum :=
  l.foldl (fun x p => match x.entry with
    | .fp b =>
      let acc := decodeNum fp32 b
      let r := arithOut fp32 false 0 (acc.isFin && p.1.isFin && p.2.isFin) (!acc.isNan && !p.1.isNan && !p.2.isNan)
        (numAdd acc (numMul p.1 p.2))
      ⟨.fp r.1, x.cnt.add r.2, x.sat⟩
    | .int v => let r := arrAddInt v (intOf p.1 * intOf p.2); ⟨.int r.1, x.cnt, x.sat + r.2⟩
    | .undef => x) start

/-- An entry with a sum added (R117). A sum of integers added to an entry that holds FP32, or the reverse, leaves it undefined: the spec
does not speak of it (log entry 184). -/
def addEntry (old : Entry) (x : Sum) : Sum :=
  match old, x.entry with
  | .fp a, .fp b =>
    let u := decodeNum fp32 a
    let v := decodeNum fp32 b
    let r := arithOut fp32 false 0 (u.isFin && v.isFin) (!u.isNan && !v.isNan) (numAdd u v)
    ⟨.fp r.1, x.cnt.add r.2, x.sat⟩
  | .int a, .int b => let r := arrAddInt a b; ⟨.int r.1, x.cnt, x.sat + r.2⟩
  | _, _ => { x with entry := .undef }

/-- What an entry of a bank holds: +0 where nothing was written since reset, undefined after an abort. -/
def bankAt (b : Bank) (i : Nat) : Entry :=
  match b.vals.find? (fun p => p.1 == i) with
  | some p => p.2
  | none => if b.open_ then .undef else .fp 0

/-- A sum written into an entry, or added to it. -/
def bankPut (replace : Bool) (x : Bank × Counts × Nat) (i : Nat) (v : Sum) : Bank × Counts × Nat :=
  let r := if replace then v else
    match bankAt x.1 i, v.entry with
    | .fp 0, .int _ => if (x.1.vals.any (fun p => p.1 == i)) then addEntry (bankAt x.1 i) v else addEntry (.int 0) v
    | old, _ => addEntry old v
  (⟨x.1.open_, mput x.1.vals i r.entry⟩, x.2.1.add r.cnt, x.2.2 + r.sat)

/-- The sums of one row and column through the parts of a run. Undefined weights, and rows that are fewer or of another size than
the command's pass takes, leave it undefined (log entry 146). -/
def runSum (moon : Bool) (fmt : Nat) (parts : List (Option RowData × Option Tile)) (m j : Nat) : Sum :=
  parts.foldl (fun x p => match p.1, p.2 with
    | some d, some t =>
      if m < d.m ∧ perCell d.fmt = perCell fmt ∧ (intBits d.fmt).isSome = (intBits fmt).isSome ∧ d.elems.length = d.m * kPass moon fmt then
        colSum x ((rowVals moon d m).zip (colVals moon t j))
      else { x with entry := .undef }
    | _, _ => { x with entry := .undef })
    ⟨if (intBits fmt).isSome then .int 0 else .fp 0, Counts.zero, 0⟩

/-- All sums of rows and columns, put into a bank from entry `base` on. A moonlet slot `i` of R125 lies at entries 2,048 × i on, row
by row; a TDRAIN takes 32 entries for each row, in entry order (log entry 104). -/
def passInto (moon : Bool) (fmt mRows base : Nat) (replace : Bool) (parts : List (Option RowData × Option Tile))
    (x : Bank × Counts × Nat) : Bank × Counts × Nat :=
  let n := dimOf moon
  (List.range (mRows * n)).foldl (fun x i => bankPut replace x (base + i) (runSum moon fmt parts (i / n) (i % n))) x

/-- The moonlets of a pass into their slots, in order Q0 to Q3 (R125). A slot takes the first 128 of the rows that a full-mode array
passes on (log entry 146). -/
def moonInto (f : TensorForm) (parts : List (Nat × Option RowData × Option Tile)) (x : Bank × Counts × Nat) :
    Bank × Counts × Nat :=
  (parts.foldl (fun (y : (Bank × Counts × Nat) × List Nat) p =>
    let sl := moonSlot f p.1
    let m := match p.2.1 with
      | some d => min d.m 128
      | none => 0
    (passInto true f.fmt.toNat m (2048 * sl) (f.first && !y.2.contains sl) [p.2] y.1, sl :: y.2)) (x, [])).1

/-! ### Zero gating (R128 to R130) -/

/-- A multiplier slot is gated: both values are finite and one is zero. -/
def gatedSlot (x w : Num) : Bool := x.isFin && w.isFin && (x.isZero || w.isZero)

/-- Multiplier slots of one part, and those that gate; with undefined weights (R132) these are open (`countSlots`). -/
def slotsOf (moon : Bool) (p : Option RowData × Option Tile) : Nat × Nat :=
  match p.1, p.2 with
  | some d, some t =>
    let n := dimOf moon
    let cols := (List.range n).map (colVals moon t)
    (d.m * n * kPass moon d.fmt,
     ((List.range d.m).map (fun m =>
       (cols.map (fun w => (((rowVals moon d m).zip w).filter (fun q => gatedSlot q.1 q.2)).length)).sum)).sum)
  | some d, none => (d.m * dimOf moon * kPass moon d.fmt, 0)
  | none, _ => (0, 0)

/-- The counters of one part's array. How many slots gate under weights that an abort left undefined (R132) is open: any number up to
those issued (R129; log entry 186). -/
def countSlots (c : Core) (moon : Bool) (s : State) (p : Nat × Option RowData × Option Tile) : State :=
  let n := slotsOf moon p.2
  let s1 := bumpW s .coreArrIssued_slots n.1 (8 * c + p.1)
  if flag s .coreTest_gate_dis c then s1
  else if p.2.1.isSome && p.2.2.isNone then bumpW (freeTick s1) .coreArrGated_slots (freeNow s1 % (n.1 + 1)) (8 * c + p.1)
  else bumpW s1 .coreArrGated_slots n.2 (8 * c + p.1)

/-! ### Shadow tiles (R222 to R228) -/

/-- Reference sums that nothing defines. -/
def freeRef : State → Nat → State × List Nat
  | s, 0 => (s, [])
  | s, n + 1 =>
    let r := freeRef (freeTick s) n
    (r.1, freeNow s % 2 ^ 32 :: r.2)

/-- The reference sums with one pass more (R224). -/
def refStep (ref : List Nat) (d : RowData) (t : Tile) (row : Nat) : List Nat :=
  ref.mapIdx (fun j r => ((rowVals false d row).zip (colVals false t j)).foldl
    (fun b p => (arithOut fp32 true 0 true true (numAdd (decodeNum fp32 b) (numMul p.1 p.2))).1) r)

/-- A pass follows or begins a sampled tile; with undefined weights (R132) its reference is a free value. A new first chunk
discards the tile before it (R228), and a pass with integer operands leaves the tile not eligible (R222). -/
def shadowPass (s : State) (c : Core) (a : Nat) (q : TCmd) (p : Option RowData × Option Tile) : State :=
  let key := 2 * slotIdx q.slot + bit q.form.bank
  let old := mget none (arrOf s c a).shd key
  let m := match p.1 with
    | some d => d.m
    | none => 0
  let start := if q.form.first then q.tile.map (fun h => (⟨h * m / 2 ^ 32, List.replicate 32 0⟩ : ShadowTile))
    else if (intBits q.form.fmt.toNat).isSome then none else old
  let s1 := if q.form.first && old.isSome then bump s .numShdTiles_discarded else s
  let new : State × Option ShadowTile := match start, p.1, p.2 with
    | none, _, _ => (s1, none)
    | some h, some d, some t => (s1, some (if h.row < d.m then { h with ref := refStep h.ref d t h.row } else h))
    | some h, _, _ => let r := freeRef s1 32; (r.1, some { h with ref := r.2 })
  setArr new.1 c a { arrOf new.1 c a with shd := mset none (arrOf new.1 c a).shd key new.2 }

/-! ### TSTREAM: the end of a pass (R113, R117, R131) -/

/-- The codes of the registers that a run's command reads (R131): weight parity in any member aborts; the bank of the last member
is corrected or aborts. An uncorrectable bank error stays until the die resets, a weight error until a pass reads it (log entry
148). -/
def arrayCodes (s : State) (c : Core) (mem : List Nat) (weights : Bool) (bank : Bool) (sl : Slot) : State × Bool :=
  let isW (m : EccMark) : Bool := match m.unit with
    | .weight d a => decide (d = c) && mem.contains a.val
    | _ => false
  let isB (m : EccMark) : Bool := match m.unit with
    | .bank d a b => decide (d = c) && decide (a.val = mem.getLastD 0) && b == bank
    | _ => false
  if weights && s.ecc.any isW then
    (abortTask (bump { s with ecc := s.ecc.filter (fun m => !isW m) } .coreErr_weight_parity (s.ecc.filter isW).length c) c sl 0x03,
      false)
  else if s.ecc.any (fun m => m.uncorr && isB m) then
    (abortTask (bump s .coreErr_bank_uncorrected 1 c) c sl 0x03, false)
  else
    (bump { s with ecc := s.ecc.filter (fun m => !isB m) } .coreErr_bank_corrected (s.ecc.filter isB).length c, true)

/-- The last column sum is in its bank: counts are filed under the command's tag (R205). -/
def finishPass (s : State) (c : Core) (a : ArrId) (r : RunCmd) (l : List (Nat × Bool × Bool)) : State :=
  let q := r.cmd
  let moon := isMoonlet l a
  let mem := runOf l a
  let last := mem.getLastD a
  let key := 2 * slotIdx q.slot + bit q.form.bank
  let parts := (partsOf l q).map (fun p => (p.1, mget none r.rows p.1, mget none r.weights p.1))
  let s1 := each ((partsOf l q).zip parts) (fun s z => countSlots c moon s (z.1.2.1, z.2.2)) (endRun s c a q)
  let old := mget Bank.init (arrOf s1 c last).banks key
  let m := match (parts.headD (0, none, none)).2.1 with
    | some d => d.m
    | none => 0
  let res := if moon then moonInto q.form parts (old, Counts.zero, 0)
    else passInto false q.form.fmt.toNat m 0 q.form.first (parts.map (·.2)) (old, Counts.zero, 0)
  let s2 := setArr s1 c last { arrOf s1 c last with banks := mset Bank.init (arrOf s1 c last).banks key res.1 }
  let s3 := fileRecord (bump s2 .coreIntSat_count res.2.2 c) c q.job q.tag false res.2.1
  shadowPass s3 c last q ((parts.headD (0, none, none)).2)

/-- No earlier pass of the run is unfinished. -/
def passTurn (s : State) (c : Nat) (mem : List Nat) (q : TCmd) : Bool :=
  (runsOn s c mem).all (fun r => decide (r.cmd.kind ≠ .stream) || decide (q.seq ≤ r.cmd.seq))

/-- TSTREAM_PASS_DONE (R113). -/
def execTstreamPassDone (c : Core) (a : ArrId) (s : State) : Host.Outcome State Fault Refusal :=
  match firstRun s c a (fun r => decide (r.cmd.kind = .stream)) with
  | none => .next s
  | some r =>
    let l := feederOf s c r.cmd.slot
    if coreUp s c && r.rowsRead && passTurn s c (runOf l a) r.cmd then
      let k := arrayCodes s c (runOf l a) true r.cmd.form.bank r.cmd.slot
      .next (if k.2 then finishPass k.1 c a r l else k.1)
    else .next s

/-! ### TDRAIN (R110, R119, R152, R182 to R186) -/

/-- The value of an entry; an undefined one is a free value. -/
def entryNum (s : State) (e : Entry) : State × Num :=
  match e with
  | .fp b => (s, decodeNum fp32 b)
  | .int v => (s, numOfInt v 0)
  | .undef => (freeTick s, decodeNum fp32 (freeNow s % 2 ^ 32))

/-- The values of a bank in drain order. -/
def drainVals (b : Bank) : Nat → Nat → State → State × List Num
  | 0, _, s => (s, [])
  | n + 1, i, s =>
    let r := entryNum s (bankAt b i)
    let t := drainVals b n (i + 1) r.1
    (t.1, r.2 :: t.2)

/-- The product of the two tensor scales. -/
def scaleProduct (w : Nat) : Num := numMul (decodeNum fp32 (w % 2 ^ 32)) (decodeNum fp32 (w / 2 ^ 32))

/-- Scale mode 1 of a drain: one FP32 rounding with the fast-mode flush (R110, R190). -/
def drainScale (w : Nat) (x : Num) : Num × Counts :=
  if x.isNan then (x, Counts.zero)
  else
    let r := arithOut fp32 false 0 x.isFin true (numMul x (scaleProduct w))
    (decodeNum fp32 r.1, r.2)

/-- What a drain writes: element codes in order, block scale bytes, and counts. The captured maximum is that of the bank's values,
before any scale (R194, R207). -/
def drainOut (q : TCmd) (sat : Bool) (vals : List Num) : List Nat × List Nat × Counts :=
  let f := q.form
  let fmt := f.fmt.toNat
  let mode := f.smode.toNat
  let ys := if mode = 1 then vals.map (drainScale q.scales.toNat) else vals.map (fun x => (x, Counts.zero))
  let k0 := Counts.sum (ys.map (·.2))
  let xs := ys.mapIdx (fun i y => (y.1, true, genBits q.key.toNat (q.next.toNat + i)))
  if 2 ≤ mode then
    let bs := cvtBlocks mode fmt f.rnd.toNat xs
    (bs.flatMap (fun b => b.1.map (fun o => o.getD 0)), bs.map (·.2.1), k0.add (Counts.sum (bs.map (·.2.2))))
  else
    let cs := xs.map (fun x => convertOne int32 fmt f.rnd.toNat sat true x.2.2 none x.1)
    let cap := vals.foldl (fun b x => maxOpt b (captureOf x)) none
    (cs.map (·.1), [], { k0.add (Counts.sum (cs.map (·.2))) with max := cap })

/-- Elements of a width as bytes. -/
def packBytes (w : Nat) (l : List Nat) : Bytes :=
  toLe (l.length * w / 8) ((l.foldl (fun a x => (a.1 + x % 2 ^ w * 2 ^ a.2, a.2 + w)) (0, 0)).1)

/-- Twice the distance of two finite values and a spacing, in one unit (R225). -/
def distUnits (x r : Num) (u : Nat × Int) : Nat × Nat :=
  match x, r with
  | .fin a m e, .fin b n f =>
    let k := min (min e f) u.2
    ((intAt a m e k - intAt b n f k).natAbs, scaleTo u.1 u.2 k)
  | _, _ => (0, 0)

/-- The bucket of an element (R225). Infinities of one sign have no bucket in R225's table: they count in bucket 0 (log entry 187). Nor does the
rule say the bucket where the output's block scale, and so u, is 0: x = r counts in bucket 0 and every other element in bucket 5 (log
entry 196). -/
def bucketOf (x r : Num) (u : Nat × Int) : Nat :=
  if x.isNan && r.isNan then 0
  else if x.isNan || r.isNan then 6
  else if !x.isFin || !r.isFin then (if !x.isFin && !r.isFin && x.neg == r.neg then 0 else 6)
  else
    let d := distUnits x r u
    if 2 * d.1 ≤ d.2 then 0 else if d.1 ≤ d.2 then 1 else if d.1 ≤ 4 * d.2 then 2 else if d.1 ≤ 16 * d.2 then 3
    else if d.1 ≤ 256 * d.2 then 4 else 5

/-- The spacing of outputs at the magnitude of a reference, with the output's scale (R225); 0 where that scale is 0 (log entry 196). -/
def spacing (fmt : Nat) (scale : Nat × Int) (r : Num) : Nat × Int :=
  match fmtInfo fmt, r with
  | some i, .fin _ m e =>
    let q := divMag m e scale.1 scale.2
    let p := if scale.1 = 0 ∨ m = 0 then i.qmin
      else if magLt i.top.1 i.top.2 q.1 q.2 then lastPlace i false i.top.1 i.top.2 else lastPlace i false q.1 q.2
    (scale.1, scale.2 + p)
  | some i, _ => (scale.1, scale.2 + lastPlace i false i.top.1 i.top.2)
  | none, _ => scale

/-- The scale of element `j` of an output row: none stands for NaN. -/
def outScale (mode : Nat) (scales : List Nat) (i : Nat) : Num :=
  if mode < 2 then .fin false 1 0
  else if mode = 2 then decodeNum fE8M0 (scales.getD (i / 32) 0)
  else decodeNum 6 (scales.getD (i / 16) 0 % 128)

/-- The stored value and the reference as FP32 for the record. -/
def asFp32 (x : Num) : Nat := (arithOut fp32 true 0 true true x).1

/-- A compared row: the buckets of its columns (R225). -/
def rowBuckets (q : TCmd) (h : ShadowTile) (out : List Nat × List Nat × Counts) : List (Nat × Num × Num) :=
  let fmt := q.form.fmt.toNat
  let mode := q.form.smode.toNat
  (List.range 32).map (fun j =>
    let i := 32 * h.row + j
    let sc := outScale mode out.2.1 i
    let x := numMul (decodeNum fmt (out.1.getD i 0)) sc
    let r0 := decodeNum fp32 (h.ref.getD j 0)
    let r := if mode = 1 then decodeNum fp32 (arithOut fp32 true 0 true true (numMul r0 (scaleProduct q.scales.toNat))).1
      else r0
    let u := match sc with
      | .fin _ n f => (n, f)
      | _ => (0, 0)
    (bucketOf x r (spacing fmt u r), x, r))

/-- A row with highest bucket `b` on core `c` takes the worst record: the pair is empty, or holds a lower bucket, or holds the same one of
a row of this clk on a higher core, which is considered after this one (R226). -/
def takesWorst (s : State) (c b : Nat) : Bool :=
  !flag s .numShdWorst0_valid || decide (get s .numShdWorst0_bucket < b) ||
  (decide (get s .numShdWorst0_bucket = b) && s.num.worst.any (fun d => decide (c < d)))

/-- The record of the worst element (R226). Which operation and step the pair shows for a TDRAIN issued before its task's first NTAG, the spec
does not say: 0 for both is the model's choice (log entry 195). -/
def recordWorst (s : State) (c : Core) (a : Nat) (q : TCmd) (b j : Nat) (x r : Num) : State :=
  if !takesWorst s c b then s
  else
    let s1 := put (put (put s .numShdWorst0_bucket b) .numShdWorst0_core c) .numShdWorst0_array a
    let s2 := put (put s1 .numShdWorst0_entry ((q.tag.map (·.1)).getD 0)) .numShdWorst0_step ((q.tag.map (·.2)).getD 0)
    let s3 := put (put s2 .numShdWorst0_column j) .numShdWorst0_valid 1
    let s4 := put (put s3 .numShdWorst1_stored (asFp32 x)) .numShdWorst1_reference (asFp32 r)
    { s4 with num := { s4.num with worst := some c.val } }

/-- A shadow event, logged at most once per core and epoch interval (R226). -/
def shadowEvent (s : State) (c : Core) (a : Nat) (q : TCmd) (b : Nat) : State :=
  let s1 := bump s .numShdEvt_events
  let e := s.time.tide / 65536 + 1
  if (coreOf s1 c).shdLog = e then s1
  else
    let s2 := setCore s1 c { coreOf s1 c with shdLog := e }
    bump (logEvt s2 0x023 (coreFn c) q.job ((q.tag.map (·.2)).getD 0) b (c.val * 8 + a)) .numShdEvt_logged

/-- A drained tile is compared with its reference (R225, R226). Two points that R226 leaves open: a sampled row that is not among the rows
drained is neither compared nor counted, and of several elements in the row's highest bucket the one of the lowest column is recorded
(log entry 188). -/
def compareTile (s : State) (c : Core) (a : Nat) (q : TCmd) (out : List Nat × List Nat × Counts) : State :=
  let x := arrOf s c a
  let key := 2 * slotIdx q.slot + bit q.form.bank
  match mget none x.shd key with
  | none => s
  | some h =>
    let s1 := setArr s c a { x with shd := mset none x.shd key none }
    if q.form.rows.toNat ≤ h.row then s1
    else
      let bs := rowBuckets q h out
      let s2 := each bs (fun s b => bumpW s .numShdHist_elements 1 b.1) (bumpW s1 .numShdTiles_compared)
      let top := bs.foldl (fun m b => max m b.1) 0
      let j := bs.findIdx (fun b => b.1 == top)
      let w := bs.getD j (0, .nan false, .nan false)
      let s3 := recordWorst s2 c a q top j w.2.1 w.2.2
      let lim := bitsOf (polWatch s c q.slot) 6 4
      if lim ≤ 6 ∧ lim ≤ top then shadowEvent s3 c a q top else s3

/-- The drained tile is in local SRAM; its counts are filed, and tc rises (R119). Where a unit stops the write of its elements or of its
scales the task aborts, and no part of the tile is drained (R132). -/
def finishDrain (s : State) (c : Core) (a : ArrId) (q : TCmd) (l : List (Nat × Bool × Bool)) : State :=
  let last := (runOf l a).getLastD a
  let b := mget Bank.init (arrOf s c last).banks (2 * slotIdx q.slot + bit q.form.bank)
  let v := drainVals b (32 * q.form.rows.toNat) 0 (endRun s c a q)
  let out := drainOut q (polSat s c q.slot) v.2
  let w1 := writeMem v.1 (sramBase c + q.form.addr.toNat) (packBytes (fmtWidth q.form.fmt.toNat) out.1)
  let w2 := writeMem w1.1 (sramBase c + q.form.bsaddr.toNat) (out.2.1.map (BitVec.ofNat 8))
  match w1.2.or w2.2 with
  | some u => abortTask v.1 c q.slot (ueCode u)
  | none =>
    let s1 := fileRecord w2.1 c q.job q.tag (polCapture s c q.slot) out.2.2
    let s2 := compareTile s1 c last q out
    if q.form.tcEn then tcAdd s2 c q.form.tc.toNat 1 else s2

/-- The passes into the bank that came before have all been written (R118). -/
def drainTurn (s : State) (c : Nat) (mem : List Nat) (q : TCmd) : Bool :=
  (runsOn s c mem).all (fun r => decide (q.seq ≤ r.cmd.seq) || decide (r.cmd.kind = .load) ||
    r.cmd.form.bank != q.form.bank)

/-- TDRAIN_DONE (R118, R119). -/
def execTdrainDone (c : Core) (a : ArrId) (s : State) : Host.Outcome State Fault Refusal :=
  match firstRun s c a (fun r => decide (r.cmd.kind = .drain)) with
  | none => .next s
  | some r =>
    let l := feederOf s c r.cmd.slot
    if coreUp s c && drainTurn s c (runOf l a) r.cmd then
      let k := arrayCodes s c (runOf l a) false r.cmd.form.bank r.cmd.slot
      .next (if k.2 then finishDrain k.1 c a r.cmd l else k.1)
    else .next s

end Sys2Proof.Machine
end

