-- ==== Sys2Proof/Machine/Flits.lean ====
section
/-!
DEFINITION. The flits of the Molind link as words (R401, R402, R405, R417): their CRC, their fields, and what capability, lane
drop, retry request and timestamp flits carry.
-/
namespace Sys2Proof.Machine

/-! ### CRC-32 (R402) -/

/-- One bit of the CRC-32 of IEEE 802.3, bit-reflected. -/
def crcBit (r : BitVec 32) : BitVec 32 := if r.getLsbD 0 then (r >>> 1) ^^^ 0xEDB88320 else r >>> 1

/-- One byte of it. -/
def crcByte (r : BitVec 32) (b : Byte) : BitVec 32 :=
  crcBit (crcBit (crcBit (crcBit (crcBit (crcBit (crcBit (crcBit (r ^^^ b.setWidth 32))))))))

/-- CRC-32 over bytes: initial value 0xFFFF_FFFF, the result complemented (R402). -/
def crc32 (b : Bytes) : BitVec 32 := ~~~(b.foldl crcByte 0xFFFFFFFF)

/-! ### Fields (R401) -/

/-- The 256 bytes of a flit. -/
def flitBytes (f : BitVec 2048) : Bytes := toLe 256 f.toNat

/-- A flit from its first 4 bytes and the others. -/
def joinFlit (head : BitVec 32) (rest : BitVec 2016) : BitVec 2048 := rest ++ head

def flitType (f : BitVec 2048) : Nat := bitsOf f.toNat 3 0
def flitSeq (f : BitVec 2048) : Nat := bitsOf f.toNat 15 4
def flitAck (f : BitVec 2048) : Nat := bitsOf f.toNat 27 16
def flitPayload (f : BitVec 2048) : Bytes := ((flitBytes f).drop 4).take 248

/-- Word `i` of the payload. -/
def flitWord (f : BitVec 2048) (i : Nat) : Nat := bitsOf f.toNat (95 + 64 * i) (32 + 64 * i)

/-- The CRC of a flit is correct (R402). -/
def flitOk (f : BitVec 2048) : Bool := decide ((crc32 ((flitBytes f).take 252)).toNat = bitsOf f.toNat 2047 2016)

/-- The flit types (R401). -/
def flitIdle : Nat := 0
def flitData : Nat := 1
def flitRetry : Nat := 2
def flitControl : Nat := 3
def flitStamp : Nat := 4

/-- Bytes 0 to 251 of a flit as a number: type, sequence number, acknowledgement number and payload. -/
def flitBody (type seq ack payload : Nat) : Nat :=
  type % 2 ^ 4 + 2 ^ 4 * (seq % 2 ^ 12) + 2 ^ 16 * (ack % 2 ^ 12) + 2 ^ 32 * (payload % 2 ^ 1984)

/-- A flit with its CRC (R401, R402). -/
def mkFlit (type seq ack payload : Nat) : BitVec 2048 :=
  BitVec.ofNat 2048 (flitBody type seq ack payload + 2 ^ 2016 * (crc32 (toLe 252 (flitBody type seq ack payload))).toNat)

/-! ### Capability and lane drop flits (R405) -/

/-- The kinds of control flit. -/
def ctlCap : Nat := 1
def ctlDrop : Nat := 2
def ctlAck : Nat := 3

def ctlKind (f : BitVec 2048) : Nat := bitsOf (flitWord f 0) 7 0
def ctlLanes (f : BitVec 2048) : BitVec 8 := BitVec.ofNat 8 (bitsOf (flitWord f 0) 33 26)

/-- The payload of a capability flit. -/
def capPayload (f : CapFlit) : Nat :=
  (ctlCap + 2 ^ 8 * f.linkVersions.toNat + 2 ^ 16 * f.transportVersions.toNat + 2 ^ 24 * f.rates.toNat +
    2 ^ 26 * f.lanesOk.toNat + 2 ^ 34 * bit f.hitless + 2 ^ 35 * bit f.placed + 2 ^ 36 * f.group.toNat +
    2 ^ 43 * f.tray.toNat + 2 ^ 46 * f.slot.toNat + 2 ^ 48 * f.groupsM1.toNat + 2 ^ 56 * f.numericGen.toNat) +
  2 ^ 64 * f.serial.toNat + 2 ^ 128 * f.sport.toNat

/-- What a capability flit reports. -/
def capFields (f : BitVec 2048) : CapFlit :=
  let w := flitWord f 0
  { linkVersions := BitVec.ofNat 8 (bitsOf w 15 8)
    transportVersions := BitVec.ofNat 8 (bitsOf w 23 16)
    rates := BitVec.ofNat 2 (bitsOf w 25 24)
    lanesOk := ctlLanes f
    hitless := tst w 34
    placed := tst w 35
    group := BitVec.ofNat 7 (bitsOf w 42 36)
    tray := BitVec.ofNat 3 (bitsOf w 45 43)
    slot := BitVec.ofNat 2 (bitsOf w 47 46)
    groupsM1 := BitVec.ofNat 7 (bitsOf w 54 48)
    numericGen := BitVec.ofNat 8 (bitsOf w 63 56)
    serial := BitVec.ofNat 64 (flitWord f 1)
    sport := BitVec.ofNat 6 (bitsOf (flitWord f 2) 5 0) }

/-- The payload of a lane drop flit: every other field is 0. -/
def dropPayload (lanes : BitVec 8) : Nat := ctlDrop + 2 ^ 26 * lanes.toNat

/-! ### Timestamp flits (R417) -/

/-- The payload of a timestamp flit. -/
def tsPayload (f : TsFlit) : Nat :=
  (bit f.response + 2 ^ 1 * f.depth.toNat + 2 ^ 5 * f.state.toNat + 2 ^ 7 * f.id.toNat) + 2 ^ 64 * f.t1.toNat +
  2 ^ 128 * f.t2.toNat + 2 ^ 192 * f.t3.toNat

/-- What a timestamp flit carries. -/
def tsFields (f : BitVec 2048) : TsFlit :=
  let w := flitWord f 0
  ⟨tst w 0, BitVec.ofNat 4 (bitsOf w 4 1), BitVec.ofNat 2 (bitsOf w 6 5), BitVec.ofNat 16 (bitsOf w 22 7),
    BitVec.ofNat 64 (flitWord f 1), BitVec.ofNat 64 (flitWord f 2), BitVec.ofNat 64 (flitWord f 3)⟩

/-! ### Packets in the payload (R402, R418) -/

/-- Bytes filled up with zeros to a multiple of 8. -/
def padTo8 (b : Bytes) : Bytes := b ++ List.replicate ((8 - b.length % 8) % 8) 0

/-- The length of the packet that begins a byte string, as laid on the link: its header and payload, to the next multiple of 8. -/
def pktSpan (b : Bytes) : Nat := (32 + bitsOf (leNat ((b.drop 8).take 8)) 36 24 + 7) / 8 * 8

/-- The whole packets at the front of a byte string, located by their length fields, and the bytes after them. Words of zeros where
a packet would start are fill (log entry 157). The first argument bounds the packets and words. -/
def takePkts : Nat → Bytes → List Bytes × Bytes
  | 0, b => ([], b)
  | k + 1, b =>
    if b.length < 8 then ([], b)
    else if leNat (b.take 8) = 0 then takePkts k (b.drop 8)
    else if b.length < 32 ∨ b.length < pktSpan b then ([], b)
    else (b.take (pktSpan b) :: (takePkts k (b.drop (pktSpan b))).1, (takePkts k (b.drop (pktSpan b))).2)

/-! ### Addresses on a global port (R415) -/

/-- The link-local IPv6 address formed from a MAC address: fe80::/64 and the modified EUI-64 (PRESUMED, log entry 158). -/
def linkLocal (mac : BitVec 48) : BitVec 128 :=
  BitVec.ofNat 128 (0xFE80 * 2 ^ 112 + (mac.toNat / 2 ^ 24 ^^^ 0x020000) * 2 ^ 40 + 0xFFFE * 2 ^ 24 + mac.toNat % 2 ^ 24)

end Sys2Proof.Machine
end

