-- ==== Sys2Proof/Machine/Net.lean ====
section
/-!
DEFINITION. What leaves over the links: flits and their replay (R401 to R404), packets of transport contexts (R318, R323,
R324, R418 to R423), board-class packets (R16 to R18, R319), and what an acknowledgement or a failure does to them.
-/
namespace Sys2Proof.Machine

/-! ### Links -/

def linkOf (s : State) (p : Nat) : LinkSt := mget LinkSt.init s.lnk p

def setLink (s : State) (p : Nat) (x : LinkSt) : State := { s with lnk := mset LinkSt.init s.lnk p x }

/-- The port carries data-class traffic: on tray, rack and global ports both sides are placed (R12, R407). -/
def dataPort (s : State) (p : Nat) : Bool :=
  inService s p && (isFront p || (placed s && (linkOf s p).peerPlaced))

/-! ### Flits (R401 to R403, R415) -/

/-- The next sequence number that a port will use (R401). -/
def nextSeq (l : LinkSt) : Nat := (l.txNext + 4096 - l.unsent % 4096) % 4096

/-- The highest sequence number that a port has received in order (R401). -/
def lastSeq (l : LinkSt) : Nat := (l.rxNext + 4095) % 4096

/-- The destination UDP port of flits on a global link (R415). -/
def flitUdp : Nat := 0x4D4C

/-- A flit leaves on a port; on a global port in a datagram of its own, after 8 bytes of zero (R415). -/
def emitFlit (s : State) (p : Nat) (f : BitVec 2048) : State :=
  if isGlobal p then
    emit s (.dgram p (linkLocal (mget 0 s.fuses.macs p)) (linkLocal (linkOf s p).mac) flitUdp (toLe 8 0 ++ flitBytes f))
  else emit s (.flit p f)

/-- A flit that carries no data leaves. -/
def sendFlit (s : State) (p type payload : Nat) : State :=
  emitFlit s p (mkFlit type (nextSeq (linkOf s p)) (lastSeq (linkOf s p)) payload)

/-- The flits of the replay buffer that have been sent: at most 2,048 are unacknowledged (R403). -/
def replayMax : Nat := 2048

/-- The data flits of a port that wait are sent as far as the replay buffer, the link's state and the placement of both sides allow
(R12, R403, R407, R409, R412). -/
def pumpFlits (s : State) (p : Nat) : State :=
  let l := linkOf s p
  let sent := l.replay.length - l.unsent
  let n := if lnkState s p = 3 ∧ dataPort s p = true then min l.unsent (replayMax - sent) else 0
  let s1 := setLink s p { l with unsent := l.unsent - n, lastData := if n = 0 then l.lastData else s.time.ticks }
  each ((l.replay.drop sent).take n) (fun s f => emitFlit s p (mkFlit flitData f.1 (lastSeq l) f.2.toNat)) s1

/-- One data flit is queued on a port, and sent as soon as it may be. -/
def queueFlit (s : State) (p : Nat) (b : Bytes) : State :=
  let l := linkOf s p
  let w := BitVec.ofNat 1984 (leNat b)
  pumpFlits (setLink s p { l with
    replay := l.replay ++ [(l.txNext, w)], txNext := (l.txNext + 1) % 4096, unsent := l.unsent + 1 }) p

/-- A byte string in pieces of 248 bytes; the first argument bounds the pieces. -/
def flitPieces : Nat → Bytes → List Bytes
  | 0, _ => []
  | k + 1, b => if b.isEmpty then [] else b.take 248 :: flitPieces k (b.drop 248)

/-- A transport packet follows those before it in the payload of data flits, on an 8-byte boundary (R402); the bytes that do not
fill a flit wait for what follows. -/
def sendFlits (s : State) (p : Nat) (b : Bytes) : State :=
  let l := linkOf s p
  let all := l.txBuf ++ padTo8 b
  let full := all.length / 248 * 248
  each (flitPieces (full / 248) (all.take full)) (fun s x => queueFlit s p x) (setLink s p { l with txBuf := all.drop full })

/-- A flit that nothing follows leaves filled up with zeros (log entry 157). -/
def flushLink (s : State) (p : Nat) : State :=
  let l := linkOf s p
  if l.txBuf.isEmpty then s else queueFlit (setLink s p { l with txBuf := [] }) p l.txBuf

/-- The flits that wait for more packets leave. -/
def flushLinks (s : State) : State := each (s.lnk.filter (fun e => !e.2.txBuf.isEmpty)) (fun s e => flushLink s e.1) s

/-! ### Packets (R418) -/

/-- The bytes of a Molind header. -/
def hdrBytes (op : Nat) (h : MolHdr) : Bytes :=
  toLe 8 (op % 16 + h.version.toNat * 2 ^ 4 + bit h.desc * 2 ^ 6 + h.hops.toNat * 2 ^ 7 + h.dst.toNat * 2 ^ 12 +
    h.src.toNat * 2 ^ 24 + h.job.toNat * 2 ^ 36 + h.srcCtx.toNat * 2 ^ 48) ++
  toLe 8 (h.psn.toNat + h.length.toNat * 2 ^ 24) ++ toLe 8 h.key.toNat ++ toLe 8 h.addr.toNat

/-- The hop fields as a packet leaves on a port (R422); none where it may not. -/
def hopOut (p : Nat) (h : MolHdr) : Option MolHdr :=
  if isGlobal p then (if h.desc then none else some { h with desc := true, hops := 0 })
  else if h.hops.toNat ≥ 2 then none
  else some { h with hops := BitVec.ofNat 2 (h.hops.toNat + 1) }

/-- A packet leaves on its port; on a port that carries no data-class traffic it is lost (R12, R407). -/
def sendPacket (s : State) (k : Packet) : State :=
  onlyIf (dataPort s k.port) (fun s => sendFlits (emit s (.packet k)) k.port (hdrBytes k.op k.hdr ++ k.data)) s

/-- The opcodes of the packets that a context may hold: Molind ones by R418, and two for RoCEv2 requests. -/
def opWrite : Nat := 0x10
def opRead : Nat := 0x11

/-! ### RoCEv2 frames (R323, R416) -/

/-- The IPv6 address of a front port. -/
def ethV6 (s : State) (e : Nat) : Nat := get s .lnkEv6l_addr_lo e + 2 ^ 64 * get s .lnkEv6h_addr_hi e

/-- An address of IPv4, ::ffff:a.b.c.d. -/
def isV4 (a : Nat) : Bool := decide (a / 2 ^ 32 = 0xFFFF)

/-- The own address of a front port for a destination; none where no address of its kind is valid. -/
def ethSrc (s : State) (e dst : Nat) : Option Nat :=
  if isV4 dst then (if flag s .lnkEv4_valid e then some (0xFFFF * 2 ^ 32 + get s .lnkEv4_addr e) else none)
  else (if flag s .lnkEgw_v6_valid e then some (ethV6 s e) else none)

/-- The destination lies inside the port's prefix. -/
def onLink (s : State) (e dst : Nat) : Bool :=
  if isV4 dst then
    let w := 32 - min 32 (get s .lnkEv4_prefix e)
    decide (dst % 2 ^ 32 / 2 ^ w = get s .lnkEv4_addr e / 2 ^ w)
  else
    let w := 128 - min 128 (get s .lnkEgw_v6_prefix e)
    decide (dst / 2 ^ w = ethV6 s e / 2 ^ w)

/-- The MAC address of an on-link destination, once resolved. -/
def neighbour (l : LinkSt) (dst : BitVec 128) : Option (BitVec 48) := (l.neigh.find? (fun n => n.1 == dst)).map (·.2)

/-- A frame leaves a front port: to the gateway outside the prefix, and inside it to the destination once it is resolved (R416).
Without a valid address of the port, and on a port that does not run, it is lost (R331, R416). -/
def sendFrame (s : State) (p : Nat) (f : RoceOut) : State :=
  match ethSrc s (p - 40) f.dst.toNat with
  | none => s
  | some a =>
    let g := { f with src := BitVec.ofNat 128 a }
    let l := linkOf s p
    if lnkState s p ≠ 3 then s
    else if !onLink s (p - 40) f.dst.toNat then emit s (.roce p { g with mac := BitVec.ofNat 48 (get s .lnkEgw_gw_mac (p - 40)) })
    else match neighbour l f.dst with
      | some m => emit s (.roce p { g with mac := m })
      | none =>
        let asked := if isV4 f.dst.toNat then BitVec.ofNat 128 (f.dst.toNat % 2 ^ 32) else f.dst
        setLink (emit s (.arp p (!isV4 f.dst.toNat) false asked)) p { l with resolve := l.resolve ++ [g] }

/-- The UDP port of RoCEv2 (R323). -/
def roceUdp : Nat := 4791

/-- The far end of a context: its IPv6 address. -/
def ctxPeer (s : State) (x : Nat) : BitVec 128 := BitVec.ofNat 128 (get s .xptCtx2_dest_lo x + 2 ^ 64 * get s .xptCtx3_dest_hi x)

/-- A frame of a context: to the far end's address and queue pair, with the context's DSCP and a generated ICRC (R323). -/
def roceFrame (s : State) (x op psn va key len : Nat) (last : Bool) (data : Bytes) : RoceOut :=
  { mac := 0, src := 0, dst := ctxPeer s x, dscp := BitVec.ofNat 6 (get s .xptCtx0_dscp x), udp := roceUdp, op := op, last := last,
    hdr := { src := 0, qpn := BitVec.ofNat 24 (get s .xptCtx1_rqpn x), psn := BitVec.ofNat 24 psn, ce := false, icrcOk := true,
             key := BitVec.ofNat 32 key, va := BitVec.ofNat 64 va, len := BitVec.ofNat 31 len }
    data := data }

/-- What a packet of a context asks for or carries, in bytes. -/
def pktLen (k : Packet) : Nat := if k.op = opRead then leNat k.data else k.data.length

/-- A packet of a context leaves on its port. -/
def sendUnacked (s : State) (x : Nat) (u : Unacked) : State :=
  if u.pkt.op < opWrite then sendPacket s u.pkt
  else sendFrame s u.pkt.port (roceFrame s x u.pkt.op u.psn u.pkt.hdr.addr.toNat u.pkt.hdr.key.toNat (pktLen u.pkt) u.last
    (if u.pkt.op = opRead then [] else u.pkt.data))

/-! ### Transport contexts -/

/-- The key of sends without a context. -/
def noCtx : Nat := 65536

def ctxOf (s : State) (x : Nat) : CtxSt := mget CtxSt.init s.xpt.ctxs x

def setCtx (s : State) (x : Nat) (k : CtxSt) : State :=
  { s with xpt := { s.xpt with ctxs := mset CtxSt.init s.xpt.ctxs x k } }

/-- The fields of a context; sends without one take the fields' reset values (log entry 40). -/
def ctxRetries (s : State) (x : Nat) : Nat := if x < noCtx then get s .xptCtx1_retry_cnt x else 7
def ctxTimeout (s : State) (x : Nat) : Nat := 4096 * 2 ^ (if x < noCtx then get s .xptCtx1_timeout x else 4)
def ctxWindow (s : State) (x : Nat) : Nat := (if x < noCtx then max 1 (get s .xptCtx1_window x) else 8) * 2 ^ 20
def isRoce (s : State) (x : Nat) : Bool := decide (x < noCtx) && flag s .xptCtx0_type x

/-- Packet numbers are of 24 bits; `a` is `b` or one of the 2^23 numbers before it. -/
def psnLe (a b : Nat) : Bool := decide ((b + 2 ^ 24 - a % 2 ^ 24) % 2 ^ 24 < 2 ^ 23)

/-- The data that a context has sent and not had acknowledged. -/
def unackedBytes (k : CtxSt) : Nat := (k.unacked.map (fun u => u.pkt.data.length)).sum

/-- The packet may be sent: it fits in the window. -/
def fits (s : State) (x : Nat) (u : Unacked) : Bool :=
  (ctxOf s x).unacked.isEmpty || decide (unackedBytes (ctxOf s x) + u.pkt.data.length ≤ ctxWindow s x)

/-- A packet of a context is sent and waits for its acknowledgement. -/
def launchPkt (s : State) (x : Nat) (u : Unacked) : State :=
  let k := ctxOf s x
  let since := if k.unacked.isEmpty then s.time.ticks else k.since
  sendUnacked (setCtx s x { k with unacked := k.unacked ++ [u], since := since }) x u

/-- A packet of a context is sent, or waits behind those that the window holds back. -/
def pushPkt (s : State) (x : Nat) (u : Unacked) : State :=
  let k := ctxOf s x
  if k.queue.isEmpty && fits s x u then launchPkt s x u else setCtx s x { k with queue := k.queue ++ [u] }

/-- Packets that the window now lets go. -/
def pullQueue (x : Nat) : Nat → State → State
  | 0, s => s
  | n + 1, s =>
    match (ctxOf s x).queue with
    | [] => s
    | u :: r => if fits s x u then pullQueue x n (launchPkt (setCtx s x { ctxOf s x with queue := r }) x u) else s

/-- The next packet number of a context on a port, counted on by `n`; the first one is free (log entry 159). -/
def takePsn (s : State) (x p n : Nat) : State × Nat :=
  if isRoce s x then (put s .xptCtx1_spsn (get s .xptCtx1_spsn x + n) x, get s .xptCtx1_spsn x)
  else
    let k := ctxOf s x
    match mget none k.psn p with
    | some v => (setCtx s x { k with psn := mset none k.psn p (some ((v + n) % 2 ^ 24)) }, v)
    | none =>
      let v := Config.psnStart s.xpt.starts % 2 ^ 24
      let s1 := { s with xpt := { s.xpt with starts := s.xpt.starts + 1 } }
      (setCtx s1 x { k with psn := mset none k.psn p (some ((v + n) % 2 ^ 24)) }, v)

/-! ### Routes (R420 to R423) -/

/-- The routing record for a job's packets: the job's, or the transit record. -/
def routeFor (s : State) (job : Nat) : Option RouteRec :=
  match (strOf s 5).routes.find? (fun r => r.job == job) with
  | some r => some r
  | none => (strOf s 5).routes.find? (fun r => r.job == 0)

/-- The routing entry toward a module; 0, which is unreachable, where no record gives one and toward the module itself. -/
def entryFor (s : State) (job m : Nat) : Nat :=
  if m = ownModule s then 0
  else match routeFor s job with
    | none => 0
    | some r => routeEntry r m

/-- The ports of a context, in turns: each round gives each port as many packets as it has lanes (R411). -/
def turnPorts (s : State) (ps : List Nat) : List Nat := ps.flatMap (fun p => List.replicate (get s .lnkPstat_width p) p)

def ctxPorts (s : State) (x : Nat) (striped : Bool) : List Nat :=
  stripe (get s .xptCtx0_port x) (if striped then get s .xptCtx0_ports_m1 x else 0)

/-- The destination module of a Molind context. -/
def ctxDest (s : State) (x : Nat) : Nat := get s .xptCtx2_dest_lo x % 4096

/-- Why a task or a fire of a job may not send on a context, as an abort code; 0 where it may (R312, R324, R359, R423,
R467). A Molind context on a front port has no port that module-to-module traffic may take (R11; log entry 177). -/
def ctxBad (s : State) (job x : Nat) (striped : Bool) : Nat :=
  if !fnReady s 5 || !fnReady s 8 then 0x0E
  else if !flag s .xptCtx0_valid x || get s .xptCtx0_job x != job then 0x01
  else if get s .xptCtx0_state x = 2 then get s .xptCtx0_code x
  else if isRoce s x then (if isFront (get s .xptCtx0_port x) && portPresent s (get s .xptCtx0_port x) then 0 else 0x01)
  else if (ctxPorts s x striped).any isFront || decide (entryVersion (entryFor s job (ctxDest s x)) = 0) then 0x01
  else if (ctxPorts s x striped).all (dataPort s) then 0
  else 0x04

/-! ### Sending on a context -/

/-- A Molind header of a context's packet. -/
def molHdr (s : State) (job x ver dst len key addr : Nat) : MolHdr :=
  { version := BitVec.ofNat 2 ver, desc := false, hops := 0, dst := BitVec.ofNat 12 dst, src := BitVec.ofNat 12 (ownModule s),
    job := BitVec.ofNat 12 job, srcCtx := BitVec.ofNat 16 (min x 0xFFFF), psn := 0, length := BitVec.ofNat 13 len,
    key := BitVec.ofNat 32 key, addr := BitVec.ofNat 64 addr }

/-- One packet on a context and a port, after its number and hop fields are set. -/
def sendOn (s : State) (x p op : Nat) (h : MolHdr) (data : Bytes) (o : Owner) (at_ : Nat) (last : Bool) : State :=
  let t := takePsn s x p 1
  let h1 := { (hopOut p h).getD h with psn := BitVec.ofNat 24 t.2 }
  pushPkt t.1 x ⟨t.2, ⟨p, op, h1, data⟩, o, at_, last⟩

/-- What a message is made of: the data of each packet, its offset in the message and the payload that goes before it. -/
structure Part where
  at_   : Nat
  data  : Bytes
  front : Bytes
  deriving DecidableEq, Repr

/-- A byte string cut at every `n` bytes: offset and bytes. The first argument bounds the pieces. -/
def cutAt (n : Nat) : Nat → Nat → Bytes → List (Nat × Bytes)
  | 0, _, _ => []
  | k + 1, at_, b => if b.isEmpty then [] else (at_, b.take n) :: cutAt n k (at_ + n) (b.drop n)

/-- A byte string cut at every `n` bytes; an empty one is one empty piece. -/
def cuts (n : Nat) (b : Bytes) : List (Nat × Bytes) := if b.isEmpty then [(0, [])] else cutAt n (b.length / n + 1) 0 b

/-- Packets of a Molind message on a context: they take the context's ports in turns, counted from `first` (R310, R318,
R411, R418). Where `ends` holds, the last of them ends its message. -/
def sendMol (s : State) (job x op : Nat) (striped : Bool) (key addr first : Nat) (parts : List Part) (o : Owner) (ends : Bool) :
    State :=
  let ps := turnPorts s (ctxPorts s x striped)
  let dst := ctxDest s x
  let ver := entryVersion (entryFor s job dst)
  each (parts.zipIdx) (fun s p =>
    let port := ps.getD ((first + p.2) % max 1 ps.length) (get s .xptCtx0_port x)
    let data := p.1.front ++ p.1.data
    sendOn s x port op (molHdr s job x ver dst data.length key (addr + p.1.at_)) data o p.1.at_
      (ends && decide (p.2 + 1 = parts.length))) s

/-- A RoCEv2 request as a packet of a context; `n` packet numbers are its own. -/
def sendRoce (s : State) (job x op n key addr : Nat) (data : Bytes) (o : Owner) (at_ : Nat) (last : Bool) : State :=
  let t := takePsn s x (get s .xptCtx0_port x) n
  let h := molHdr s job x 0 0 0 key addr
  pushPkt t.1 x ⟨t.2, ⟨get s .xptCtx0_port x, op, { h with psn := BitVec.ofNat 24 t.2 }, data⟩, o, at_, last⟩

/-- The packets of 4,096 bytes that `n` bytes take. -/
def packetsOf (n : Nat) : Nat := max 1 ((n + 4095) / 4096)

/-- An RDMA WRITE of a message: one packet for each 4,096 bytes (R323). Answers its packets. -/
def roceWrite (s : State) (job x key addr : Nat) (data : Bytes) (o : Owner) (at_ : Nat) : State × Nat :=
  (each (cuts 4096 data) (fun s p =>
    sendRoce s job x opWrite 1 key (addr + p.1) p.2 o (at_ + p.1) (decide (data.length ≤ p.1 + p.2.length))) s,
   packetsOf data.length)

/-- An RDMA READ of `n` bytes: one request, which takes the numbers of its response packets (log entry 41). -/
def roceRead (s : State) (job x key addr n : Nat) (o : Owner) (at_ : Nat) : State × Nat :=
  (sendRoce s job x opRead (packetsOf n) key addr (toLe 4 n) o at_ true, packetsOf n)

/-! ### Board-class packets (R16 to R18, R319) -/

/-- The tray ports toward a slot of the own tray that are in data service (R15). -/
def trayPorts (s : State) (slot : Nat) : List Nat :=
  (List.range 12).filter (fun p => decide ((get s .ctlPlace_slot + (p / 4 + 1)) % 4 = slot) && dataPort s p)

/-- The module in a slot of the own tray. -/
def trayModule (s : State) (slot : Nat) : Nat := 32 * (ownPlace s).group + 4 * (ownPlace s).tray + slot

/-- A board-class access to a slot can be sent: a tray link to it is in data service, and the routing table reaches it (R18,
R423). -/
def trayReach (s : State) (job slot : Nat) : Bool :=
  !(trayPorts s slot).isEmpty && decide (entryVersion (entryFor s job (trayModule s slot)) ≠ 0)

/-- Why a board-class access to a slot cannot be sent, as an abort code; 0 where it can: the transport engines or the links are in reset
(R467), or no link reaches the slot. -/
def trayBad (s : State) (job slot : Nat) : Nat :=
  if !fnReady s 5 || !fnReady s 8 then 0x0E else if trayReach s job slot then 0 else 0x01

/-- A board-class packet to a slot, on the port that the 4 KiB unit's index gives (R319), with the version of the routing entry
(R419). -/
def sendBoard (s : State) (job slot op addr : Nat) (data : Bytes) (o : Owner) (at_ : Nat) : State :=
  let ps := trayPorts s slot
  let port := ps.getD ((addr % 2 ^ 46 / 4096) % max 1 ps.length) 0
  let dst := trayModule s slot
  sendOn s noCtx port op (molHdr s job noCtx (entryVersion (entryFor s job dst)) dst data.length 0 (addr + 2 ^ 46 * slot)) data o at_
    false

/-! ### The tail (R299, R322) -/

/-- The segment of a tail offset. -/
def tailSeg (o : Nat) : Nat := (o - 0x380000000000) / 2 ^ 34

/-- The context of a segment is a RoCEv2 one in use; why not, else, as an abort code. -/
def tailBad (s : State) (e : Nat) : Nat :=
  let x := get s .mmuTaila_ctx e
  if !flag s .mmuTaila_valid e then 0x06
  else if !fnReady s 5 || !fnReady s 8 then 0x0E
  else if !flag s .xptCtx0_valid x || !isRoce s x then 0x01
  else if get s .xptCtx0_state x = 2 then get s .xptCtx0_code x
  else 0

/-- Where a tail offset lies on the memory host. -/
def tailAddr (s : State) (o : Nat) : Nat := get s .mmuTailb_remote_va (tailSeg o) + (o - 0x380000000000) % 2 ^ 34

def tailWrite (s : State) (job o : Nat) (data : Bytes) (w : Owner) (at_ : Nat) : State × Nat :=
  let e := tailSeg o
  roceWrite s job (get s .mmuTaila_ctx e) (get s .mmuTaila_rkey e) (tailAddr s o) data w at_

def tailRead (s : State) (job o n : Nat) (w : Owner) (at_ : Nat) : State × Nat :=
  let e := tailSeg o
  roceRead s job (get s .mmuTaila_ctx e) (get s .mmuTaila_rkey e) (tailAddr s o) n w at_

/-! ### Acknowledgements -/

/-- A packet that its response ends, not an acknowledgement: a get request, a board read, an RDMA READ. -/
def isRequest (u : Unacked) : Bool := u.pkt.op == 0x2 || u.pkt.op == 0x9 || u.pkt.op == opRead

/-- One packet or response fewer is expected by its owner. -/
def ownerStep (s : State) (o : Owner) : State :=
  match o with
  | .dma c id =>
    let k := coreOf s c
    setCore s c { k with flight := k.flight.map (fun d => if d.id = id then { d with left := d.left - 1 } else d) }
  | .fire id =>
    let l := s.col.fires.map (fun f => if f.id = id then { f with left := f.left - 1 } else f)
    { s with col := { s.col with fires := l.filter (fun f => !(f.done && f.left == 0)) } }
  | .move w p => { s with mmu := { s.mmu with moves := s.mmu.moves.map (fun m =>
      if m.window = w ∧ m.page = p then { m with left := m.left - 1 } else m) } }
  | .none => s

/-- The packets of a context that a test names are acknowledged: their owners step, the timer and the retries start
again, and the window lets more go. -/
def ackWhere (s : State) (x : Nat) (f : Unacked → Bool) : State :=
  let k := ctxOf s x
  let hit := k.unacked.filter f
  if hit.isEmpty then s
  else
    let s1 := setCtx s x { k with unacked := k.unacked.filter (fun u => !f u), retries := 0, since := s.time.ticks }
    pullQueue x k.queue.length (each hit (fun s u => ownerStep s u.owner) s1)

/-- The packets of a context that are to be sent again. A RoCEv2 packet that belongs to nobody is not (R330); a Molind one is, since
its context goes on (R330; log entry 21). -/
def resend (s : State) (x : Nat) (f : Unacked → Bool) : State :=
  each ((ctxOf s x).unacked.filter (fun u => f u && (decide (u.owner ≠ .none) || !isRoce s x))) (fun s u => sendUnacked s x u) s

end Sys2Proof.Machine
end

