-- ==== Sys2Proof/Machine/Moves.lean ====
section
/-!
DEFINITION. Sequence windows, page descriptors, KV pools and the moves of the KV stream unit (R239, R284 to R302): the
shared operations that KV page operations, KV reads and the moves themselves use.
-/
namespace Sys2Proof.Machine

/-! ### Window records (R284 to R286) -/

/-- Why the KV unit cannot reach bytes that it keeps in HBM, as an abort code: they lie above the top (R3), or a unit of them is
uncorrectable (R266, R267); 0 where it can. -/
def unitBad (s : State) (a n : Nat) : Nat :=
  if !(inHbm s a && inHbm s (a + n - 1)) then 0x01 else if (readFault s a n).isSome then 0x02 else 0

/-- The uncorrectable unit that the KV unit meets in bytes that it keeps in HBM is recorded (R266); an address above the top leaves no
record. -/
def noteRange (s : State) (a n job core : Nat) : State :=
  match readFault s a n with
  | some u => noteUnit s u job core
  | none => s

/-- The record is cached. -/
def winCached (s : State) (w : Nat) : Bool := (mget [] s.mmu.wins w).length == 4

def winAddr (s : State) (w : Nat) : Nat := get s .mmuWinbase_base + 32 * w

/-- Why the record of a window cannot be read; 0 where it can, or is cached. -/
def winBad (s : State) (w : Nat) : Nat :=
  if !flag s .mmuWinbase_valid || winCached s w then 0 else unitBad s (winAddr s w) 32

/-- The records that the module caches (R286). -/
def winMax : Nat := 256

/-- The record is read, and cached from now on until `MMU_INVAL` with kind 3, while the cache has room for it (R286; log
entry 154). -/
def noteWin (s : State) (w : Nat) : State :=
  if !flag s .mmuWinbase_valid || winCached s w || decide (winBad s w ≠ 0) then s
  else
    let s1 := correct s (winAddr s w) 32
    if winMax ≤ s1.mmu.wins.length then s1 else { s1 with mmu := { s1.mmu with wins := mset [] s1.mmu.wins w (winWords s w) } }

/-- The tail slot of a page. -/
def pageTail (r : List Word) (page : Nat) : Nat := wTail r + 65536 * page

/-- An access through a window is refused (R285). -/
def winRefused (s : State) (job w page : Nat) : Bool :=
  let r := winWords s w
  !wValid r || wJob r != job || decide (wPages r ≤ page) ||
  (wSpill r && (!flag s .mmuPoola_en (wPool r) || get s .mmuPoola_job (wPool r) != job ||
    !(decide (0x380000000000 ≤ wTail r) && decide (wTail r + 65536 * wPages r ≤ 0x3C0000000000))))

/-! ### Level-3 entries and page descriptors -/

/-- What the KV unit finds on the way to a level-3 entry: an address, or a fault with its reason and code. -/
inductive Step3 where
  | at_ (a : Nat)
  | bad (reason code : Nat)
  deriving DecidableEq, Repr

/-- A page table entry of a level leads to a table of the next one (R276, R277, R282). -/
def pteNext (s : State) (level va : Nat) : Step3 → Step3
  | .bad r c => .bad r c
  | .at_ table =>
    let a := table + 8 * vaIndex level va
    let e := rdNat s a 8
    if !inHbm s table then .bad 5 0x01
    else if pteUncorr s a then .bad 11 0x02
    else if !pteValid e then .bad 1 0x01
    else if !pteClean e || pteLeaf e || decide (pteTier e ≠ 0) || !inHbm s (pteFrame e) then .bad 6 0x01
    else .at_ (pteFrame e)

/-- Where the level-3 entry of a page lies, or why it cannot be used. -/
def l3Find (s : State) (job va : Nat) : Step3 :=
  match rootOf s job with
  | none => .bad 7 0x01
  | some r => match pteNext s 2 va (pteNext s 1 va (.at_ r)) with
    | .bad k c => .bad k c
    | .at_ t =>
      let a := t + 8 * vaIndex 3 va
      if pteUncorr s a then .bad 11 0x02
      else if pteValid (rdNat s a 8) && !pteClean (rdNat s a 8) then .bad 6 0x01
      else .at_ a

def l3Addr (s : State) (job va : Nat) : Option Nat :=
  match l3Find s job va with
  | .at_ a => some a
  | .bad _ _ => none

/-- The TLBs hold no translation of an address (R281). -/
def dropTlb (s : State) (job va : Nat) : State :=
  { s with mmu := { s.mmu with tlb := s.mmu.tlb.filter (fun t =>
      !(t.job == job && t.level == 3 && decide (t.base ≤ va ∧ va < t.base + leafBytes t.level))) } }

/-- A level-3 entry of a page as the unit writes it: tier 0 or 2, write set, exec clear (R290). -/
def l3Entry (tier frame : Nat) : Nat := 1 + 2 + 4 * tier + 16 + 65536 * (frame / 65536)

/-- The level-3 entry of a page is written and invalidated. -/
def setL3 (s : State) (r : List Word) (page e : Nat) : State :=
  match l3Addr s (wJob r) (pageVa r page) with
  | none => s
  | some a => dropTlb (wrNat (correct s a 8) a 8 e) (wJob r) (pageVa r page)

def l3Of (s : State) (r : List Word) (page : Nat) : Nat :=
  match l3Addr s (wJob r) (pageVa r page) with
  | none => 0
  | some a => rdNat s a 8

/-- Why a page's descriptor cannot be reached; 0 where it can. -/
def pdBad (s : State) (r : List Word) (page : Nat) : Nat := unitBad s (pdAddr r page) 64

def pdWord (s : State) (r : List Word) (page i : Nat) : Nat := rdNat s (pdAddr r page + 8 * i) 8

/-- A word of a page's descriptor is written; a descriptor that cannot be reached stays as it is (R3, R267). -/
def setPd (s : State) (r : List Word) (page i v : Nat) : State :=
  if pdBad s r page ≠ 0 then s else wrNat (correct s (pdAddr r page) 64) (pdAddr r page + 8 * i) 8 v

/-- The corrected errors of a page's descriptor and page table entries are written back and counted (R265). -/
def fixPage (s : State) (r : List Word) (page : Nat) : State :=
  match rootOf s (wJob r) with
  | none => correct s (pdAddr r page) 64
  | some t => walkFix (pageVa r page) 3 t (correct s (pdAddr r page) 64)

/-- The uncorrectable page table entry on the way to a page's level-3 entry is recorded (R266). -/
def notePage (s : State) (r : List Word) (page core : Nat) : State :=
  match (rootOf s (wJob r)).bind (walkUe s (pageVa r page) 3) with
  | none => s
  | some a => noteUe s a (wJob r) core false

/-! ### Moves in progress -/

def moveOf (s : State) (w page : Nat) : Option KvMove := s.mmu.moves.find? (fun m => m.window == w && m.page == page)

/-- The tier of a page: 0 resident, 1 leaving, 2 in the tail, 3 returning. A tier of 1 or 3 with no move of the page is
that of its level-3 entry (R302). -/
def pageTier (s : State) (w page : Nat) : Nat :=
  let r := winWords s w
  let t := pdWord s r page 3 % 4
  if (t = 1 ∨ t = 3) ∧ (moveOf s w page).isNone then (if pteTier (l3Of s r page) = 2 then 2 else 0) else t

/-- The unit meets a descriptor and sets its tier (R302). -/
def meetPage (s : State) (w page : Nat) : State :=
  let r := winWords s w
  if pdWord s r page 3 % 4 = pageTier s w page then s else setPd s r page 3 (pageTier s w page)

/-- The unit looks at a page: what can be corrected of its descriptor and its entries is (R265), what cannot be is recorded (R266),
and a tier that no move explains is set from the level-3 entry (R302). -/
def seePage (s : State) (w page core : Nat) : State :=
  let r := winWords s w
  if pdBad s r page ≠ 0 then noteRange s (pdAddr r page) 64 (wJob r) core
  else
    let s1 := fixPage (notePage s r page core) r page
    if pteValid (l3Of s1 r page) then meetPage s1 w page else s1

/-! ### Pools (R287, R291, R294) -/

def poolResident (s : State) (p : Nat) : Nat := get s .mmuPoolb_size p - get s .mmuPoolb_free p
def poolLeaving (s : State) (p : Nat) : Nat := (s.mmu.moves.filter (fun m => m.pool == p && !m.ret)).length
def poolMoves (s : State) (p : Nat) : Nat := (s.mmu.moves.filter (fun m => m.pool == p)).length

/-- A credit of the pool is free (R294). -/
def creditFree (s : State) (p : Nat) : Bool := decide (poolMoves s p < max 1 (get s .mmuPoolb_credits p))

/-- `MMU_POOLpD` counts the moves in progress. -/
def showMoves (s : State) (p : Nat) : State := put s .mmuPoold_in_flight (poolMoves s p) p

/-- Spilling starts once the resident count exceeds hwm (R291). -/
def noteSpilling (s : State) (p : Nat) : State :=
  if get s .mmuPoolc_hwm p < poolResident s p then
    { s with mmu := { s.mmu with spilling := mset 0 s.mmu.spilling p 1 } }
  else s

/-- Where entry `i` of a pool's ring lies. -/
def ringAddr (s : State) (p i : Nat) : Nat := get s .mmuPoola_list_base p + 4 * i

/-- The ring's entries in use begin at index `ringHead`; the next frame goes back at `ringTail`. -/
def ringHead (s : State) (p : Nat) : Nat := mget 0 s.mmu.ring p
def ringTail (s : State) (p : Nat) : Nat := (ringHead s p + get s .mmuPoolb_free p) % max 1 (get s .mmuPoolb_size p)

/-- Why the ring's next frame cannot be read, or a frame cannot be put on it; 0 where it can. -/
def takeBad (s : State) (p : Nat) : Nat := if get s .mmuPoolb_free p = 0 then 0 else unitBad s (ringAddr s p (ringHead s p)) 4
def pushBad (s : State) (p : Nat) : Nat := unitBad s (ringAddr s p (ringTail s p)) 4

/-- A frame from the pool's ring; none where none is free, or the ring cannot be read. -/
def takeFrame (s : State) (p : Nat) : State × Option Nat :=
  if get s .mmuPoolb_free p = 0 ∨ takeBad s p ≠ 0 then (s, none)
  else
    let i := ringHead s p
    let f := rdNat s (ringAddr s p i) 4 * 65536
    let s0 := correct s (ringAddr s p i) 4
    let s1 := { s0 with mmu := { s0.mmu with ring := mset 0 s0.mmu.ring p ((i + 1) % max 1 (get s .mmuPoolb_size p)) } }
    (noteSpilling (put s1 .mmuPoolb_free (get s .mmuPoolb_free p - 1) p) p, some f)

/-- Spilling ends once the resident count less the pages leaving is no more than lwm (R291). -/
def endSpilling (s : State) (p : Nat) : State :=
  if poolResident s p ≤ get s .mmuPoolc_lwm p + poolLeaving s p then
    { s with mmu := { s.mmu with spilling := mset 0 s.mmu.spilling p 0 } }
  else s

/-- A frame goes back on the pool's ring; where the ring cannot be written it is lost. -/
def pushFrame (s : State) (p frame : Nat) : State :=
  if pushBad s p ≠ 0 then s
  else
    let a := ringAddr s p (ringTail s p)
    endSpilling (put (wrNat (correct s a 4) a 4 (frame / 65536)) .mmuPoolb_free (get s .mmuPoolb_free p + 1) p) p

/-! ### Requests (R248, R293, R294, R296) -/

/-- A return is queued; a demand for a page already queued makes its return a demand return. DESIGN CHOICE (log entry 200): it keeps its
place, so the oldest demand return of R294 counts from when it was first queued. -/
def askReturn (s : State) (w page p : Nat) (demand : Bool) : State :=
  if (moveOf s w page).isSome then s
  else if s.mmu.reqs.any (fun q => q.window == w && q.page == page) then
    { s with mmu := { s.mmu with reqs := s.mmu.reqs.map (fun q =>
        if q.window = w ∧ q.page = page then { q with demand := q.demand || demand } else q) } }
  else { s with mmu := { s.mmu with reqs := s.mmu.reqs ++ [⟨w, page, p, demand, false⟩] } }

/-- The look-ahead returns that a request for a page queues (R293). -/
def lookAhead (s : State) (w page : Nat) : State :=
  let r := winWords s w
  each ((List.range (wLook r)).map (fun i => page + i + 1)) (fun s p =>
    if wPages r ≤ p then s
    else
      let s1 := seePage s w p 255
      if pdBad s1 r p = 0 ∧ pteValid (l3Of s1 r p) = true ∧ pageTier s1 w p = 2 then askReturn s1 w p (wPool r) false else s1) s

/-- A spill is cancelled: the page stays with its frame, its stamp becomes the tide (R296). -/
def rescue (s : State) (m : KvMove) : State :=
  let r := winWords s m.window
  let s1 := orphan s (fun o => decide (o = .move m.window m.page))
  let s2 := { s1 with mmu := { s1.mmu with moves := s1.mmu.moves.filter (fun x => !(x.window == m.window && x.page == m.page)) } }
  let s3 := setPd (setPd s2 r m.page 3 0) r m.page 5 s2.time.tide
  showMoves (bump s3 .mmuKvcnt1_rescued) m.pool

/-- A KV reader requests a page of a window that the unit manages: the page is held for it (R248), a spill of it is
cancelled (R296), and a page in the tail is queued for a demand return, with its look-ahead returns (R293). DESIGN CHOICE (log entry
198): a page requested ahead is held from its request on, before the reader has read its descriptor. -/
def requestPage (s : State) (c id w page : Nat) : State :=
  let r := winWords s w
  let s0 := meetPage s w page
  let h := (w, page, c, id)
  let s1 := if s0.mmu.holders.contains h then s0 else { s0 with mmu := { s0.mmu with holders := s0.mmu.holders ++ [h] } }
  let s2 := match moveOf s1 w page with
    | some m => if m.ret then s1 else rescue s1 m
    | none => if pageTier s1 w page = 2 then askReturn s1 w page (wPool r) true else s1
  lookAhead s2 w page

/-- The reader lets go of a page. -/
def releasePage (s : State) (c id w page : Nat) : State :=
  { s with mmu := { s.mmu with holders := s.mmu.holders.filter (fun h => decide (h ≠ (w, page, c, id))) } }

/-! ### Spill and return (R291 to R297) -/

/-- The windows whose records are not all zero: those that the cache or memory holds. -/
def windowsNamed (s : State) : List Nat :=
  let b := get s .mmuWinbase_base
  (s.mmu.wins.map (·.1) ++ (s.mem.filter (fun x => decide (b ≤ x.1 ∧ x.1 < b + 32 * 16384))).map (fun x => (x.1 - b) / 32)).eraseDups

/-- Those whose records can be read. -/
def windowsInUse (s : State) : List Nat := (windowsNamed s).filter (fun w => winBad s w == 0)

/-- The pages of a window whose descriptors are not all zero. -/
def pagesInUse (s : State) (r : List Word) : List Nat :=
  ((s.mem.filter (fun x => decide (wDesc r ≤ x.1 ∧ x.1 < wDesc r + 64 * wPages r))).map
    (fun x => (x.1 - wDesc r) / 64)).eraseDups

/-- The unit reads the record of a window as it looks through a pool (R265, R266). -/
def seeWin (s : State) (w : Nat) : State :=
  if !flag s .mmuWinbase_valid || winCached s w then s
  else if winBad s w ≠ 0 then noteRange s (winAddr s w) 32 0 255
  else correct s (winAddr s w) 32

/-- The unit looks through the pages of a pool for the oldest (R265, R266, R291, R302). -/
def lookPages (s : State) (p : Nat) : State :=
  each (windowsNamed s) (fun s w =>
    let s1 := seeWin s w
    let r := winWords s w
    if winBad s w = 0 ∧ wValid r = true ∧ wSpill r = true ∧ wPool r = p then
      each (pagesInUse s1 r) (fun s i => seePage s w i 255) s1
    else s1) s

/-- A page is eligible to spill (R291). -/
def eligible (s : State) (w page : Nat) : Bool :=
  let r := winWords s w
  wValid r && wSpill r && pdBad s r page == 0 && pdWord s r page 5 != 0 && pteValid (l3Of s r page) && pageTier s w page == 0 &&
  (moveOf s w page).isNone && !(s.mmu.holders.any (fun h => h.1 == w && h.2.1 == page))

/-- The eligible page of a pool with the oldest stamp; ties to the lower window, then to the lower page. -/
def oldestPage (s : State) (p : Nat) : Option (Nat × Nat × Nat) :=
  let l := (windowsInUse s).flatMap (fun w =>
    let r := winWords s w
    if wPool r = p then ((pagesInUse s r).filter (eligible s w)).map (fun i => (pdWord s r i 5, w, i)) else [])
  l.foldl (fun b x => match b with
    | none => some x
    | some y =>
      if x.1 < y.1 ∨ (x.1 = y.1 ∧ (x.2.1 < y.2.1 ∨ (x.2.1 = y.2.1 ∧ x.2.2 < y.2.2))) then some x else some y) none

/-- The unit may start a move of the pool: it runs, the pool is enabled and a credit is free. -/
def unitRuns (s : State) (p : Nat) : Bool :=
  fnReady s 7 && flag s .mmuCtl_kv_en && flag s .mmuPoola_en p && creditFree s p

/-- A demand return is queued that can take a frame. -/
def demandDue (s : State) (p : Nat) : Bool :=
  s.mmu.reqs.any (fun q => q.pool == p && q.demand) && decide (get s .mmuPoolb_free p ≠ 0)

/-- A spill is due (R291): the resident count is above the marks, or returns wait for more frames than are leaving. -/
def spillDue (s : State) (p : Nat) : Bool :=
  !flag s .mmuPoold_tail_fault p &&
  ((decide (get s .mmuPoolc_hwm p < poolResident s p) || mget 0 s.mmu.spilling p == 1) &&
     decide (get s .mmuPoolc_lwm p + poolLeaving s p < poolResident s p) ||
   decide (poolLeaving s p < (s.mmu.reqs.filter (fun q => q.pool == p && q.waits)).length))

/-- The move of a page with its transfer under way. -/
def addMove (s : State) (m : KvMove) : State := showMoves { s with mmu := { s.mmu with moves := s.mmu.moves ++ [m] } } m.pool

def dropMove (s : State) (m : KvMove) : State :=
  showMoves (orphan { s with mmu := { s.mmu with moves := s.mmu.moves.filter (fun x => !(x.window == m.window && x.page == m.page)) } }
    (fun o => decide (o = .move m.window m.page))) m.pool

def updMove (s : State) (m : KvMove) (f : KvMove → KvMove) : State :=
  { s with mmu := { s.mmu with moves := s.mmu.moves.map (fun x => if x.window = m.window ∧ x.page = m.page then f x else x) } }

/-- A media task will write to the page of a move: its addresses were translated at its start (R429). -/
def mediaOn (s : State) (m : KvMove) : Bool :=
  s.med.any (fun k => match k.2.task with
    | none => false
    | some t => ((bitsOf (t.rec_.getD 3 0).toNat 54 0, 128) :: t.ranges).any (fun r => onPage s m (medJob t) r.1 r.2))

/-- Every access that translated to the page before its spill began has completed (R292, step 2): no descriptor still waits for
data that it writes there, and no media task has still to write there. -/
def spillClear (s : State) (m : KvMove) : Bool :=
  s.cores.all (fun k => k.2.flight.all (fun d =>
    !(d.moved && decide (d.left ≠ 0) && (descVaDst d).any (fun r => onPage s m d.job r.1 r.2)))) && !mediaOn s m

/-- The 64 KiB of a leaving page are read and sent to the tail (R292, step 3); what stops that fails the spill (R297). -/
def moveOut (s : State) (m : KvMove) : State :=
  let r := winWords s m.window
  let x := readOff s (wJob r) 255 m.frame 65536
  let t := pageTail r m.page
  let bad := if x.2.1 ≠ 0 then x.2.1 else tailBad x.1 (tailSeg t)
  if bad ≠ 0 then updMove x.1 m (fun y => { y with begun := true, fail := some bad })
  else
    let s1 := updMove x.1 m (fun y => { y with begun := true, left := packetsOf 65536 })
    (tailWrite s1 (wJob r) t x.2.2 (.move m.window m.page) 0).1

/-- Each spill that no earlier access holds up any more goes on (R292). -/
def beginSpills (s : State) : State :=
  each s.mmu.moves (fun s m => if !m.ret && !m.begun && spillClear s m then moveOut s m else s) s

/-- A spill starts (R292, step 1): the descriptor's tier is 1. -/
def startSpill (s : State) (p w page : Nat) : State :=
  let r := winWords s w
  beginSpills (addMove (setPd (fixPage (noteWin s w) r page) r page 3 1)
    ⟨false, p, w, page, pteFrame (l3Of s r page), false, false, 0, none⟩)

/-- A return starts (R293, steps 1 to 3): a frame is taken, the descriptor's tier is 3, and the tail slot is read. A ring that
cannot be read, or a frame outside HBM, fails it (log entry 153); `begun` says that it took a frame. -/
def startReturn (s : State) (q : KvReq) : State :=
  let r := winWords s q.window
  let s0 := fixPage (noteWin s q.window) r q.page
  let x := takeFrame s0 q.pool
  let s1 := setPd { x.1 with mmu := { x.1.mmu with reqs := x.1.mmu.reqs.filter (fun y => !(y.window == q.window && y.page == q.page)) } }
    r q.page 3 3
  let s2 := if q.waits then waitLess s1 q.pool else s1
  let t := pageTail r q.page
  match x.2 with
  | none => addMove (noteRange s2 (ringAddr s q.pool (ringHead s q.pool)) 4 (wJob r) 255)
      ⟨true, q.pool, q.window, q.page, 0, q.demand, false, 0, some (takeBad s q.pool)⟩
  | some f =>
    let bad := if !inHbm s2 f then 0x01 else tailBad s2 (tailSeg t)
    if bad ≠ 0 then addMove s2 ⟨true, q.pool, q.window, q.page, f, q.demand, true, 0, some bad⟩
    else
      let s3 := addMove s2 ⟨true, q.pool, q.window, q.page, f, q.demand, true, packetsOf 65536, none⟩
      (tailRead s3 (wJob r) t 65536 (.move q.window q.page) 0).1

end Sys2Proof.Machine
end

