-- ==== Sys2Proof/Machine/Dma.lean ====
section
/-!
DEFINITION. The DMA queues of the cores, their descriptors and fences (R303 to R322, spec/10_streams_offload_ordering.md).
-/
namespace Sys2Proof.Machine

/-! ### Queues (R303, R304, R307) -/

/-- The fence of an entry that comes to the head holds its queue from now on (R317). -/
def headNow (t : Nat) : List Desc → List Desc
  | [] => []
  | d :: l => { d with since := t } :: l

/-- An entry is put on a queue. -/
def pushEntry (s : State) (c q : Nat) (d : Desc) : State :=
  let k := coreOf s c
  let x := dmaqOf k q
  let l := if x.entries.isEmpty then headNow s.time.ticks [d] else x.entries ++ [d]
  setCore s c { k.setQ q { x with entries := l } with nextId := k.nextId + 1 }

/-- The head entry of a queue is taken off. -/
def popEntry (s : State) (c q : Nat) : State :=
  let k := coreOf s c
  let x := dmaqOf k q
  setCore s c (k.setQ q { x with entries := headNow s.time.ticks (x.entries.drop 1) })

/-- The entry that an instruction of a slot puts on a queue. -/
def newEntry (s : State) (c : Nat) (sl : Slot) (q : Nat) (fence : Option Nat) (words : List Word) : Desc :=
  let g := match taskOf s c sl with
    | none => 0
    | some t => t.launch.group
  ⟨(coreOf s c).nextId, q, sl, taskJob s c sl, g, fence, words, tagOf s c sl, false, false, 0, 0, [], [], 0, false, none, none, []⟩

/-- What DMAQ and DMAF share: the queue lies in the window and is on; a full queue stalls the slot (R303, R304). DESIGN CHOICE (log
entry 202): a DMAF to a queue of depth 0 aborts with code 0x0B, as a DMAQ does. -/
def onQueue (s : State) (c : Core) (sl : Slot) (f : RegForm) (body : Nat → State → State) : State :=
  let w := dmaWindow s c sl
  let q := w.1 + f.sub.toNat
  if w.2 ≤ f.sub.toNat then abortTask s c sl 0x01
  else if qDepth s c q = 0 then abortTask s c sl 0x0B
  else if qDepth s c q ≤ qHeld s c q then s
  else body q s

/-- The words of a byte string. -/
def wordsOf (b : Bytes) : List Word := (List.range (b.length / 8)).map (fun i => BitVec.ofNat 64 (leNat ((b.drop (8 * i)).take 8)))

/-- The pages of a hint that are resident as DMAQ issues it (R290; log entry 155). -/
def hintSeen (s : State) (d : Desc) : List Nat :=
  if d.kind = 5 ∧ d.w 0 56 54 = 2 then
    ((List.range (d.w 0 53 49)).map (fun i => d.w 0 48 27 + i)).filter (fun p => decide (pageTier s (kvWindow d) p ≤ 1))
  else []

/-- The entry that a DMAQ of these bytes puts on a queue. -/
def dmaqEntry (s : State) (c : Nat) (sl : Slot) (q : Nat) (b : Bytes) : Desc :=
  let d := newEntry s c sl q none (wordsOf b)
  { d with seen := hintSeen s d }

/-- DMAQ (R303, R304, R103): the 32 bytes of the descriptor are copied into the queue. -/
def execDmaq (c : Core) (sl : Slot) (f : RegForm) (s : State) : Host.Outcome State Fault Refusal :=
  .next (scalarIns 0x80 c sl f (fun _ => sOk f.ra) (fun s => onQueue s c sl f (fun q s =>
    let r := readLocal s c sl (eaOf s c sl f) 32
    match r.2 with
    | none => r.1
    | some b => advance (pushEntry r.1 c q (dmaqEntry r.1 c sl q b)) c sl)) s)

/-- DMAF (R303, R304, R315): a fence of scope imm[1:0] takes one entry. -/
def execDmaf (c : Core) (sl : Slot) (f : RegForm) (s : State) : Host.Outcome State Fault Refusal :=
  .next (scalarIns 0x81 c sl f (fun _ => true) (fun s => onQueue s c sl f (fun q s =>
    advance (pushEntry s c q (newEntry s c sl q (some (f.imm.toNat % 4)) [BitVec.ofNat 64 7])) c sl)) s)

/-! ### Checks (R312) -/

/-- The bytes that a descriptor moves, as R305 counts them (log entry 43: 64 KiB for each KV page). -/
def Desc.bytes (d : Desc) : Nat :=
  match d.kind with
  | 1 => d.w 0 39 16 * d.w 0 63 40
  | 2 => d.w 0 45 16 + 1
  | 3 => d.w 0 45 16 + 1
  | 6 => 8
  | _ => 65536 * d.w 0 53 49

/-- Reserved fields are zero and the other fields lie in their ranges (R242, R289, R308 to R311). -/
def descShape (d : Desc) : Bool :=
  match d.kind with
  | 1 => d.w 0 15 15 == 0 && d.w 1 63 55 == 0 && d.w 2 63 55 == 0 && decide (1 ≤ d.w 0 39 16) && decide (1 ≤ d.w 0 63 40)
  | 2 => d.w 0 15 15 == 0 && d.w 0 63 62 == 0 && d.w 1 63 55 == 0 && d.w 3 63 32 == 0
  | 3 => d.w 0 15 15 == 0 && d.w 0 63 62 == 0 && d.w 1 63 55 == 0 && d.w 3 63 32 == 0
  | 4 => d.w 0 63 60 == 0 && d.w 1 63 52 == 0 && d.w 2 63 31 == 0 && d.w 3 63 0 == 0 && d.w 0 55 54 != 0 &&
      decide (3 ≤ d.w 0 59 56 ∧ d.w 0 59 56 ≤ 6) && decide (1 ≤ d.w 0 53 49 ∧ d.w 0 53 49 ≤ 16) && decide (1 ≤ d.w 1 51 44)
  | 5 => d.w 0 63 57 == 0 && d.w 1 63 0 == 0 && d.w 2 63 0 == 0 && d.w 3 63 0 == 0 && decide (d.w 0 56 54 < 4) &&
      decide (1 ≤ d.w 0 53 49 ∧ d.w 0 53 49 ≤ 16)
  | 6 => d.w 0 15 14 == 0 && d.w 0 63 32 == 0 && d.w 3 63 32 == 0 && d.w 2 2 0 == 0 &&
      (d.w 0 13 13 == 1 || d.w 2 63 55 == 0)
  | _ => false

/-- The KV reader's reason 8 (R243). -/
def kvReason8 (d : Desc) : Bool :=
  d.w 0 63 60 != 0 || d.w 1 63 52 != 0 || d.w 2 63 31 != 0 || d.w 3 63 0 != 0 || d.w 0 55 54 == 0 ||
  !(decide (3 ≤ d.w 0 59 56 ∧ d.w 0 59 56 ≤ 6))

/-- The local ranges of a descriptor: first offset and bytes (R309, R310). -/
def descLocal (d : Desc) : List (Nat × Nat) :=
  if d.kind = 1 then
    (if d.w 0 13 13 = 1 then [(d.w 1 54 0, (d.w 0 63 40 - 1) * d.w 3 31 0 + d.w 0 39 16)] else []) ++
    (if d.w 0 14 14 = 1 then [(d.w 2 54 0, (d.w 0 63 40 - 1) * d.w 3 63 32 + d.w 0 39 16)] else [])
  else if (d.kind = 2 ∨ d.kind = 3) ∧ d.w 0 13 13 = 1 then [(d.w 1 54 0, d.w 0 45 16 + 1)]
  else []

/-- Why a descriptor may not send on its context, as an abort code; 0 where it may, or names none (R312, R423). -/
def sendBad (s : State) (d : Desc) : Nat :=
  match d.ctx with
  | none => 0
  | some x => ctxBad s d.job x ((d.kind == 2 || d.kind == 3) && d.w 0 14 14 == 1)

/-- The checks at the head of a queue: the abort code, 0 where it passes, and the address at fault (R312, R164, R289). -/
def descBad (s : State) (c : Nat) (d : Desc) : Nat × Nat :=
  if !descShape d then (0x0B, descAddr d)
  else match (descLocal d).find? (fun r => !inSplit s c d.slot r.1 r.2) with
    | some r => (0x01, r.1)
    | none =>
      if d.tcEn && tcOwner s c d.tc != d.job then (0x01, descAddr d)
      else if d.kind = 5 ∧ winBad s (d.w 0 26 13) = 0 ∧ wSpill (winWords s (d.w 0 26 13)) = false then (0x0B, descAddr d)
      else (sendBad s d, descAddr d)

/-! ### Starting (R305, R306) -/

/-- The head of a queue may start as far as the descriptors and bytes in flight go (R305). -/
def qRoom (s : State) (c q : Nat) (d : Desc) : Bool :=
  let l := qFlight s c q
  let b := get s .dmaQ_max_bytes (qIdx c q)
  decide (l.length < max 1 (min 16 (get s .dmaQ_max_out (qIdx c q)))) &&
  (b == 0 || l.isEmpty || decide ((l.map Desc.bytes).sum + d.bytes ≤ 65536 * b))

/-- What the credit gate answers: 0 go on, 1 hold, else an abort code plus 256 (R305, R306). -/
def creditGate (s : State) (c q : Nat) (d : Desc) : Nat :=
  if !flag s .dmaQ_credit_en (qIdx c q) then 0
  else
    let t := get s .dmaQ_credit_tc (qIdx c q)
    let k := (dmaqOf (coreOf s c) q).started
    if tcOwner s c t != d.job then 256 + 0x01
    else if tcVal s c t < k then 256 + 0x0C
    else if tcVal s c t ≤ k then 1
    else 0

/-- The reason 8 of a KV read is recorded in `ATT_ERR` (R243). -/
def noteAtt (s : State) (c : Nat) (reason w page : Nat) : State :=
  put (put (put (bump s .attErr_count 1 c) .attErr_reason reason c) .attErr_window w c) .attErr_page page c

/-- The head descriptor of a queue goes in flight. -/
def startDesc (s : State) (c q : Nat) (d : Desc) : State :=
  let s1 := popEntry s c q
  let k := coreOf s1 c
  let x := dmaqOf k q
  setCore s1 c { k.setQ q { x with started := x.started + 1 } with flight := k.flight ++ [d] }

/-- DMA_DESCRIPTOR_START (R305, R306, R308, R312): the head descriptor is checked, held back by its queue's limits, or
started. -/
def execDmaDescriptorStart (c : Core) (q : Fin 16) (s : State) : Host.Outcome State Fault Refusal :=
  match (dmaqOf (coreOf s c) q).entries with
  | [] => .next s
  | d :: _ =>
    if d.fence.isSome || !fnReady s (coreFn c) then .next s
    else
      let b := descBad s c d
      if b.1 ≠ 0 then
        let s1 := if d.kind = 4 ∧ kvReason8 d = true then noteAtt s c 8 (d.w 0 26 13) (d.w 0 48 27) else s
        .next (failDesc s1 c d b.1 b.2)
      else if !qRoom s c q d then .next s
      else match creditGate s c q d with
        | 0 => .next (startDesc s c q d)
        | 1 => .next s
        | e => .next (failDesc s c d (e - 256) (descAddr d))

/-! ### Moving data -/

/-- Where a local side of a transfer lies. -/
inductive Side where
  | sram (o : Nat)
  | va (a : Nat)
  deriving DecidableEq, Repr

/-- Where `n` bytes at a remote address are cut into packets: packets of up to 4,096 bytes, cut at 8-byte units of the address
(R314, R418). Offset and bytes of each. -/
def remoteCuts (addr n : Nat) : List (Nat × Nat) :=
  if n ≤ 4096 then [(0, n)] else (piecesOf (addr % 8) n).map (fun p => (p.1, p.2.2))

/-- The stretches of a descriptor: offset in its data, source address, bytes. A source is cut at the 4 KiB units of its addresses, so
that no read splits an 8-byte unit (R314); a get is cut by its remote address, and has no source here. -/
def descStretches (d : Desc) : List (Nat × Nat × Nat) :=
  match d.kind with
  | 1 => (List.range (d.w 0 63 40)).flatMap (fun r =>
      (piecesOf (d.w 1 54 0 + r * d.w 3 31 0) (d.w 0 39 16)).map (fun p => (r * d.w 0 39 16 + p.1, p.2)))
  | 2 => piecesOf (d.w 1 54 0) d.bytes
  | 3 => (remoteCuts (d.w 2 63 0) d.bytes).map (fun p => (p.1, 0, p.2))
  | _ => [(0, 0, 8)]

/-- The source of a descriptor's stretch in this module's reach; none for a get and for a flag write. -/
def srcSide (d : Desc) (a : Nat) : Option Side :=
  if d.kind = 1 ∨ d.kind = 2 then some (if d.w 0 13 13 = 1 then .sram a else .va a) else none

/-- The destination of a descriptor's stretch in this module's reach; none where it goes out on a context. -/
def dstSide (d : Desc) (a : Nat) : Option Side :=
  if d.kind = 1 then some (if d.w 0 14 14 = 1 then .sram a else .va a)
  else if d.kind = 3 then some (if d.w 0 13 13 = 1 then .sram a else .va a)
  else if d.kind = 6 ∧ d.w 0 13 13 = 0 then some (.va a)
  else none

/-- The context, remote address and key of a put, get or remote flag write. -/
def descCtx (d : Desc) : Nat := d.ctx.getD 0
def descKey (d : Desc) : Nat := d.w 3 31 0
def descStriped (d : Desc) : Bool := (d.kind == 2 || d.kind == 3) && d.w 0 14 14 == 1

/-- How a transfer stands: the state, the abort code (0: none), the address at fault, packets and responses expected, and data that
wait (`Desc.buf`). -/
structure Xfer where
  s    : State
  code : Nat
  addr : Nat
  left : Nat
  buf  : List (Nat × Bytes)

/-- A piece of data put among those that wait, in ascending order. -/
def insPiece (x : Nat × Bytes) : List (Nat × Bytes) → List (Nat × Bytes)
  | [] => [x]
  | y :: l => if x.1 ≤ y.1 then x :: y :: l else y :: insPiece x l

/-- Data of a descriptor reach their destination: memory of this module, a peer of the tray, the tail, or the far end of a
context (R309 to R311, R322). A put's wait for the rest of its message. `at_` is their offset in the descriptor's data. -/
def deliver (c : Nat) (d : Desc) (x : Xfer) (at_ dst : Nat) (b : Bytes) : Xfer :=
  let o : Owner := .dma c d.id
  match dstSide d dst with
  | some (.sram a) =>
    let r := writeOff x.s d.job c (sramBase c + a) b
    { x with s := r.1, code := r.2, addr := a }
  | some (.va a) =>
    match reach x.s c d.job a true with
    | .here off =>
      let r := writeOff (noteAccess x.s c d.job a true) d.job c off b
      { x with s := r.1, code := r.2, addr := a }
    | .bad k code => { x with s := noteReach x.s d.job c 1 a k code, code := code, addr := a }
    | .peer slot off =>
      let bad := trayBad x.s d.job slot
      if bad ≠ 0 then { x with code := bad, addr := a }
      else { x with s := sendBoard (noteAccess x.s c d.job a true) d.job slot 0x8 off b o at_, addr := a, left := x.left + 1 }
    | .tail off =>
      let bad := tailBad x.s (tailSeg off)
      if bad ≠ 0 then { x with s := noteReach x.s d.job c 1 a 8 bad, code := bad, addr := a }
      else
        let r := tailWrite (noteAccess x.s c d.job a true) d.job off b o at_
        { x with s := bumpW r.1 .dmaTailwr_bytes (if d.kind = 1 then b.length else 0) c, addr := a, left := x.left + r.2 }
  | none =>
    if d.kind = 2 then { x with buf := insPiece (at_, b) x.buf }
    else
      let n := descCtx d
      if isRoce x.s n then
        let r := roceWrite x.s d.job n (descKey d) (d.w 2 63 0) b o at_
        { x with s := r.1, addr := d.w 2 63 0, left := x.left + r.2 }
      else
        { x with s := sendMol x.s d.job n 0x4 false (descKey d) (d.w 2 63 0) 0 [⟨at_, b, []⟩] o true, addr := d.w 2 63 0, left := x.left + 1 }

/-- The data of a put, gathered, leave as one message (R310, R318), where its context can still send them (R423). -/
def sendPut (c : Nat) (d : Desc) (x : Xfer) : Xfer :=
  let o : Owner := .dma c d.id
  let n := descCtx d
  let b := x.buf.flatMap (·.2)
  let bad := sendBad x.s d
  if bad ≠ 0 then { x with code := bad, addr := descAddr d }
  else if isRoce x.s n then
    let r := roceWrite x.s d.job n (descKey d) (d.w 2 63 0) b o 0
    { x with s := r.1, left := x.left + r.2, buf := [] }
  else
    let l := remoteCuts (d.w 2 63 0) b.length
    { x with s := sendMol x.s d.job n 0x1 (descStriped d) (descKey d) (d.w 2 63 0) 0
               (l.map (fun p => ⟨p.1, (b.drop p.1).take p.2, []⟩)) o true
             left := x.left + l.length, buf := [] }

/-- The destination address of the data at an offset of a descriptor. -/
def dstAt (d : Desc) (at_ : Nat) : Nat :=
  if d.kind = 1 then
    let w := max 1 (d.w 0 39 16)
    d.w 2 54 0 + (at_ / w) * d.w 3 63 32 + at_ % w
  else if d.kind = 3 then d.w 1 54 0 + at_
  else d.w 2 63 0 + at_

/-- The bytes that a descriptor writes of the 8-byte unit at `u`, row by row in ascending order: offset in its data, and bytes. `at_` is
the offset of one of them. Rows that lie on top of one another count alone (log entry 205). -/
def unitParts (d : Desc) (at_ u : Nat) : List (Nat × Nat) :=
  let w := if d.kind = 1 then max 1 (d.w 0 39 16) else max 1 d.bytes
  let st := d.w 3 63 32
  let base := dstAt d 0
  let rows := if d.kind ≠ 1 then [0] else if st < w then [at_ / w]
    else ((List.range 9).map (fun i => (u - base) / st + i)).filter (fun r => decide (r < d.w 0 63 40))
  (rows.map (fun r =>
    let a := dstAt d (r * w)
    (r * w + (max a u - a), min (a + w) (u + 8) - max a u))).filter (fun p => decide (p.2 ≠ 0))

/-- Pieces of data in ascending order, those joined that follow one another at their destination too. -/
def joinPieces (d : Desc) : List (Nat × Bytes) → List (Nat × Bytes)
  | [] => []
  | p :: l => match joinPieces d l with
    | [] => [p]
    | q :: r =>
      if q.1 = p.1 + p.2.length ∧ dstAt d q.1 = dstAt d p.1 + p.2.length then (p.1, p.2 ++ q.2) :: r else p :: q :: r

/-- Data of a descriptor from address `a` on reach their destination, cut where a page may end (R310, R312). -/
def deliverAll (c : Nat) (d : Desc) (x : Xfer) (at_ a : Nat) (b : Bytes) : Xfer :=
  (piecesOf a b.length).foldl (fun x p =>
    if x.code ≠ 0 then x else deliver c d x (at_ + p.1) p.2.1 ((b.drop p.1).take p.2.2)) x

/-- Bytes of one 8-byte unit of the destination are written once the descriptor's bytes of the unit are all there, whichever rows they
are of, and wait until then under their offset in the descriptor's data (R314). -/
def deliverUnit (c : Nat) (d : Desc) (x : Xfer) (at_ a : Nat) (b : Bytes) : Xfer :=
  let parts := unitParts d at_ (a / 8 * 8)
  let mine (p : Nat × Bytes) : Bool := parts.any (fun g => decide (g.1 ≤ p.1 ∧ p.1 < g.1 + g.2))
  let all := insPiece (at_, b) (x.buf.filter mine)
  if x.code ≠ 0 ∨ b.isEmpty = true then x
  else if (parts.map (·.2)).sum ≤ (all.map (·.2.length)).sum then
    (joinPieces d all).foldl (fun x p => if x.code ≠ 0 then x else deliver c d x p.1 (dstAt d p.1) p.2)
      { x with buf := x.buf.filter (fun p => !mine p) }
  else { x with buf := insPiece (at_, b) x.buf }

/-- Data of a descriptor, read here or brought by a response, are delivered, the whole 8-byte units of them at once (R314). A put's wait
for the rest. -/
def takeData (c : Nat) (d : Desc) (x : Xfer) (at_ : Nat) (b : Bytes) : Xfer :=
  if d.kind = 2 then deliver c d x at_ 0 b
  else
    let a := dstAt d at_
    let h := min b.length ((8 - a % 8) % 8)
    let t := min (b.length - h) ((a + b.length) % 8)
    let m := b.length - h - t
    let x1 := deliverUnit c d x at_ a (b.take h)
    let x2 := deliverAll c d x1 (at_ + h) (a + h) ((b.drop h).take m)
    deliverUnit c d x2 (at_ + h + m) (a + h + m) (b.drop (h + m))

/-- One stretch of a descriptor is moved, or asked for where its source lies outside the module. -/
def moveStretch (c : Nat) (d : Desc) (x : Xfer) (p : Nat × Nat × Nat) : Xfer :=
  let o : Owner := .dma c d.id
  let at_ := p.1
  let n := p.2.2
  if x.code ≠ 0 then x
  else match srcSide d p.2.1 with
    | some (.sram a) =>
      let r := readOff x.s d.job c (sramBase c + a) n
      let t := tornRead r.1 d.torn r.2.2
      if r.2.1 ≠ 0 then { x with s := r.1, code := r.2.1, addr := a } else takeData c d { x with s := t.1 } at_ t.2
    | some (.va a) =>
      match reach x.s c d.job a false with
      | .here off =>
        let r := readOff (noteAccess x.s c d.job a false) d.job c off n
        let t := tornRead r.1 (d.torn && ownSram c off) r.2.2
        if r.2.1 ≠ 0 then { x with s := r.1, code := r.2.1, addr := a } else takeData c d { x with s := t.1 } at_ t.2
      | .bad k code => { x with s := noteReach x.s d.job c 1 a k code, code := code, addr := a }
      | .peer slot off =>
        let bad := trayBad x.s d.job slot
        if bad ≠ 0 then { x with code := bad, addr := a }
        else
          { x with s := sendBoard (noteAccess x.s c d.job a false) d.job slot 0x9 off (toLe 8 n) o at_, addr := a, left := x.left + 1 }
      | .tail off =>
        let bad := tailBad x.s (tailSeg off)
        if bad ≠ 0 then { x with s := noteReach x.s d.job c 1 a 8 bad, code := bad, addr := a }
        else
          let r := tailRead (noteAccess x.s c d.job a false) d.job off n o at_
          { x with s := r.1, addr := a, left := x.left + r.2 }
    | none =>
      if d.kind = 6 then deliver c d x 0 (d.w 2 63 0) (toLe 8 (d.w 1 63 0))
      else
        { x with s := sendMol x.s d.job (descCtx d) 0x2 (descStriped d) (descKey d) (d.w 2 63 0) ((at_ + 4095) / 4096)
                   [⟨at_, toLe 8 n, []⟩] o false
                 addr := d.w 2 63 0 + at_, left := x.left + 1 }

/-- A request of the owner waits for its response. -/
def awaitsRead (s : State) (o : Owner) : Bool :=
  s.xpt.ctxs.any (fun p => (p.2.unacked ++ p.2.queue).any (fun u => decide (u.owner = o) && isRequest u))

def updDesc (s : State) (c id : Nat) (f : Desc → Desc) : State :=
  let k := coreOf s c
  setCore s c { k with flight := k.flight.map (fun d => if d.id = id then f d else d) }

/-- A descriptor in flight, by its number. -/
def flightOf (s : State) (c id : Nat) : Option Desc := (coreOf s c).flight.find? (fun d => d.id == id)

/-- The data of a descriptor in flight are moved: everything within the module at once, the rest sent or asked for. A context that can
no longer send fails it (R324, R423). -/
def runDesc (s : State) (c : Nat) (d : Desc) : State :=
  let x0 : Xfer := ⟨s, sendBad s d, descAddr d, 0, []⟩
  let x1 :=
    if x0.code ≠ 0 then x0
    else if d.kind = 3 ∧ isRoce s (descCtx d) = true then
      let r := roceRead s d.job (descCtx d) (descKey d) (d.w 2 63 0) d.bytes (.dma c d.id) 0
      { x0 with s := r.1, left := r.2 }
    else (descStretches d).foldl (moveStretch c d) x0
  let x := if d.kind = 2 ∧ x1.code = 0 ∧ x1.left = 0 then sendPut c d x1 else x1
  if x.code ≠ 0 then failDesc x.s c d x.code x.addr
  else updDesc x.s c d.id (fun e => { e with moved := true, left := x.left, buf := x.buf, read := !awaitsRead x.s (.dma c d.id) })

/-- A page of the virtual ranges lies outside the module: on a tray peer or in the tail. -/
def reachOut (s : State) (c : Nat) (d : Desc) (l : List (Nat × Nat)) (write : Bool) : Bool :=
  l.any (fun r => (piecesOf r.1 r.2).any (fun p => match reach s c d.job p.2.1 write with
    | .peer _ _ => true
    | .tail _ => true
    | _ => false))

/-- The descriptor sends packets. -/
def goesOut (s : State) (c : Nat) (d : Desc) : Bool :=
  d.ctx.isSome || reachOut s c d (descVaSrc d) false || reachOut s c d (descVaDst d) true

/-- The descriptor has packets still to send: it has not run, or data that it reads elsewhere go out again. -/
def stillSends (s : State) (c : Nat) (d : Desc) : Bool :=
  !d.moved || (!d.read && (decide (d.kind = 2) || (decide (d.kind = 1) && reachOut s c d (descVaDst d) true)))

/-- A queue sends the packets of its descriptors in start order (R318, R319, R321): one that sends waits for those before it. -/
def waitsTurn (s : State) (c : Nat) (d : Desc) : Bool :=
  goesOut s c d && (qFlight s c d.q).any (fun e => decide (e.id < d.id) && goesOut s c e && stillSends s c e)

/-- A descriptor of the given kind runs, where it is in flight, has not run, no move holds it, and it is its turn to send. -/
def runKind (kind : Nat) (c : Core) (id : Nat) (s : State) : State :=
  match flightOf s c id with
  | none => s
  | some d =>
    if d.kind = kind ∧ d.moved = false ∧ descMoving s d = false ∧ waitsTurn s c d = false ∧ fnReady s (coreFn c) = true then
      runDesc s c d else s

/-- DMA_COPY (R309, R312, R322). -/
def execDmaCopy (c : Core) (id : Nat) (s : State) : Host.Outcome State Fault Refusal := .next (runKind 1 c id s)

/-- DMA_PUT (R310, R318). -/
def execDmaPut (c : Core) (id : Nat) (s : State) : Host.Outcome State Fault Refusal := .next (runKind 2 c id s)

/-- DMA_GET (R310). -/
def execDmaGet (c : Core) (id : Nat) (s : State) : Host.Outcome State Fault Refusal := .next (runKind 3 c id s)

/-- DMA_FLAG_WRITE (R311). -/
def execDmaFlagWrite (c : Core) (id : Nat) (s : State) : Host.Outcome State Fault Refusal := .next (runKind 6 c id s)

/-- A move in progress holds data that come for a descriptor at an offset (R283, R295). A spill that still waits for the gets and
copies into its page does not (R292, step 2). -/
def dstMoving (s : State) (d : Desc) (at_ n : Nat) : Bool :=
  match dstSide d (dstAt d at_) with
  | some (.va a) => s.mmu.moves.any (fun m => (m.ret || m.begun) && onPage s m d.job a n)
  | _ => false

/-- Data that a response brings for a descriptor reach their destination (R313). -/
def respond (s : State) (c : Nat) (d : Desc) (at_ : Nat) (b : Bytes) (tail : Bool) : State :=
  let x1 := takeData c d ⟨s, 0, 0, 0, d.buf⟩ at_ b
  let x := if d.kind = 2 ∧ x1.code = 0 ∧ d.left = 1 then sendPut c d x1 else x1
  if x.code ≠ 0 then failDesc x.s c d x.code x.addr
  else
    let s1 := if tail && d.kind == 1 then bumpW x.s .dmaTailrd_bytes b.length c else x.s
    updDesc s1 c d.id (fun e => { e with left := e.left - 1 + x.left, buf := x.buf, read := !awaitsRead s1 (.dma c d.id) })

/-! ### Completion (R313) -/

/-- A descriptor is taken out of flight. -/
def dropFlight (s : State) (c id : Nat) : State :=
  let k := coreOf s c
  setCore s c { k with flight := k.flight.filter (fun d => d.id != id) }

/-- DMA_DESCRIPTOR_COMPLETE (R313): all is read, written and acknowledged; tc rises where tc_en is 1. KV descriptors
complete with their last page (R247, R290). -/
def execDmaDescriptorComplete (c : Core) (id : Nat) (s : State) : Host.Outcome State Fault Refusal :=
  match flightOf s c id with
  | none => .next s
  | some d =>
    .next (onlyIf (d.moved && decide (d.left = 0) && decide (d.kind ≠ 4) && decide (d.kind ≠ 5)) (fun s =>
      let s1 := bumpW (dropFlight s c id) .dmaBytes_bytes d.bytes c
      if d.tcEn then tcAdd s1 c d.tc 1 else s1) s)

/-! ### Fences (R315 to R317) -/

/-- The source bytes of a descriptor are all read: of a KV descriptor, once its pages have all been handled (R247, R290). -/
def srcRead (d : Desc) : Bool :=
  d.read || (decide (d.kind = 4 ∨ d.kind = 5) && decide (d.w 0 53 49 ≤ d.pages + d.ready.length))

/-- The condition of a fence at the head of a queue (R316). -/
def fenceHolds (s : State) (c q : Nat) (d : Desc) (scope : Nat) : Bool :=
  let l := qFlight s c q
  match scope with
  | 0 => l.all srcRead
  | 1 => l.all srcRead
  | 2 => l.isEmpty
  | _ => !((coreOf s c).flight.any (fun e => decide (e.slot = d.slot) && decide (e.id < d.id)) ||
      (List.range 16).any (fun i => (dmaqOf (coreOf s c) i).entries.any (fun e =>
        decide (e.slot = d.slot) && decide (e.id < d.id) && e.fence.isNone)))

/-- FENCE_RELEASE (R316): the fence at the head leaves, and later entries may start. -/
def execFenceRelease (c : Core) (q : Fin 16) (s : State) : Host.Outcome State Fault Refusal :=
  match (dmaqOf (coreOf s c) q).entries with
  | [] => .next s
  | d :: _ => match d.fence with
    | none => .next s
    | some k => .next (onlyIf (fenceHolds s c q d k) (fun s => popEntry s c q) s)

/-- FENCE_TIMEOUT (R317): the fence has held its queue longer than fence_limit times 16 µs. -/
def execFenceTimeout (c : Core) (q : Fin 16) (s : State) : Host.Outcome State Fault Refusal :=
  match (dmaqOf (coreOf s c) q).entries with
  | [] => .next s
  | d :: _ => match d.fence with
    | none => .next s
    | some k =>
      let n := get s .dmaCtl_fence_limit c
      .next (onlyIf (decide (n ≠ 0) && !fenceHolds s c q d k && decide (d.since + 16000 * n < s.time.ticks))
        (fun s => failDesc s c d 0x0F 0) s)

/-! ### Registers (R307, `DMA_QSTATq`) -/

/-- A write of `DMA_Qq`: ignored and counted while the queue holds an entry, or where the depths would exceed 256. -/
def dmaqWrite (s : State) (c q v : Nat) : State :=
  let depth := bitsOf v 6 0
  let rest := ((List.range 16).map (fun i => if i = q then 0 else get s .dmaQ_depth (qIdx c i))).sum
  if qHeld s c q ≠ 0 ∨ 256 < rest + depth then bump s .dmaCtl_cfg_refused 1 c
  else
    let i := qIdx c q
    put (put (put (put (put s .dmaQ_depth depth i) .dmaQ_max_out (bitsOf v 11 7) i) .dmaQ_max_bytes (bitsOf v 19 12) i)
      .dmaQ_credit_tc (bitsOf v 27 20) i) .dmaQ_credit_en (bitsOf v 28 28) i

/-- What `DMA_QSTATq` reads. -/
def qstatRead (s : State) (c q : Nat) : Nat :=
  let x := dmaqOf (coreOf s c) q
  min 127 x.entries.length + 2 ^ 7 * min 31 (qFlight s c q).length + 2 ^ 12 * (x.started % 2 ^ 32) +
    2 ^ 44 * bit (match x.entries with
      | d :: _ => d.fence.isSome
      | [] => false)

end Sys2Proof.Machine
end

