-- ==== Sys2Proof/Machine/Col.lean ====
section
/-!
DEFINITION. Armed operations and collectives (R350 to R371, spec/12_collectives.md), with the ledger check (R372 to R382)
and the step tags and layouts of packets (R393 to R396, spec/13_gradients_and_step_commit.md).
-/
namespace Sys2Proof.Machine

/-! ### Arming (R354, R355) -/

/-- A slot is armed with a step tag and biases for a job, or the arm is refused. -/
def armSlot (s : State) (job step tb gb slot : Nat) : State :=
  match template s slot with
  | none => bump s .colStat_arm_refused
  | some r =>
    if isArmed s slot || tAction r == 3 || tJob r != job then bump s .colStat_arm_refused
    else
      let s1 := put (put (put s .colTlive0_state 1 slot) .colTlive0_issued 0 slot) .colTlive0_done 0 slot
      let s2 := put (put (put s1 .colTlive1_step step slot) .colTlive2_tbias tb slot) .colTlive2_gbias gb slot
      { s2 with col := { s2.col with
        armAt := mset 0 s2.col.armAt slot s2.time.ticks
        grant := mset 0 s2.col.grant slot 0
        lastAt := mset 0 s2.col.lastAt slot 0
        doneK := mset [] s2.col.doneK slot []
        bound := mset 0 s2.col.bound slot 0
        elig := mset 0 s2.col.elig slot 0 } }

/-- Consecutive slots are armed in ascending order. -/
def armSlots (s : State) (job step tb gb first n : Nat) : State :=
  each ((List.range n).map (fun i => first + i)) (fun s i => armSlot s job step tb gb i) s

/-- A write of `COL_ARM0` (R354). -/
def armWrite (s : State) (slot count : Nat) (go : Bool) : State :=
  let s1 := put (put s .colArm0_slot slot) .colArm0_count count
  if go then
    armSlots s1 (get s .colArm1_job) (get s .colArm1_step) (get s .colArm2_tbias) (get s .colArm2_gbias) slot (max 1 count)
  else s1

/-- A register of FN5 takes a write. -/
def fn5Write (s : State) (f : State → State) : State := onlyIf (fn0Up s && fnReady s 5) f s

/-- COL_ARM (R354, R355): `COL_ARM0` written with go; `COL_ARM1` and `COL_ARM2` give the job, the step tag and the biases. -/
def execColArm (slot : BitVec 16) (count : BitVec 16) (s : State) : Host.Outcome State Fault Refusal :=
  .next (fn5Write s (fun s => armWrite s slot.toNat count.toNat true))

/-! ### Issue (R356, R366, R393) -/

def tIssued (s : State) (slot : Nat) : Nat := get s .colTlive0_issued slot
def tStep (s : State) (slot : Nat) : Nat := get s .colTlive1_step slot

/-- The thresholds of fire `k`, modulo 2^32. -/
def trigAt (s : State) (r : ChainRec) (k : Nat) : Nat := (tThresh r + get s .colTlive2_tbias r.slot + k * tInc r) % 2 ^ 32
def gateAt (s : State) (r : ChainRec) (k : Nat) : Nat := (tGthresh r + get s .colTlive2_gbias r.slot + k * tGinc r) % 2 ^ 32

/-- Fire `k` is eligible. -/
def fireEligible (s : State) (r : ChainRec) (k : Nat) : Bool :=
  decide (trigAt s r k ≤ tcSeen s (tTcore r) (tTtc r)) && (!tGateEn r || decide (gateAt s r k ≤ tcSeen s (tGcore r) (tGtc r)))

/-- The collective is a parameter gather of its job (R393). -/
def isGather (s : State) (job coll : Nat) : Bool :=
  match jobEntry s job with
  | none => false
  | some j =>
    decide (get s .grdJobc_gcoll_base j ≤ coll ∧ coll < get s .grdJobc_gcoll_base j + get s .grdJobc_gcoll_count j)

/-- What R393 says of a fire of a gather slot with step tag `t`: 0 it may issue, 1 it waits, 2 it fails. -/
def gatherGate (s : State) (job coll t : Nat) : Nat :=
  if !isGather s job coll then 0
  else match committedOf s job with
    | none => 0
    | some c => if c = t then 0 else if (c + 1) % 2 ^ 32 = t then 1 else 2

/-- Fire `k` may issue as far as its conditions go: its fires remain, it is eligible, and fire k - nslots is done (R356). -/
def fireMay (s : State) (r : ChainRec) (k : Nat) : Bool :=
  decide (k < tFires r) && fireEligible s r k &&
  (decide (k < tNslots r) || (mget [] s.col.doneK r.slot).contains (k - tNslots r))

/-- Fire `k` may issue: where slot_en is 1, at a boundary at which its conditions held (R356, R366). -/
def fireReady (s : State) (r : ChainRec) (k : Nat) : Bool :=
  fireMay s r k && (!tSlotEn r || (decide (mget 0 s.col.grant r.slot ≠ 0) && decide (k < mget 0 s.col.upto r.slot)))

/-- The first fire from `k` on that may not issue; the first argument bounds the search. -/
def firesUpTo (s : State) (r : ChainRec) : Nat → Nat → Nat
  | 0, k => k
  | n + 1, k => if fireMay s r k then firesUpTo s r n (k + 1) else k

/-- The first fire of an armed slot that may not issue as far as its conditions go; its next one while its job is in eclipse. -/
def fireTop (s : State) (r : ChainRec) : Nat := if eclipsed s (tJob r) then tIssued s r.slot else firesUpTo s r (tFires r) (tIssued s r.slot)

/-- A tick has brought the tide to a boundary of slot clock `k`, from a tide before it. -/
def crossed (s : State) (before k : Nat) : Bool :=
  slotEn s k && (match lastSlot s k s.time.tide with
    | none => false
    | some b => decide (before < b))

/-- At a boundary of its clock an armed slot's fires whose conditions hold are noted (R356, R366); `before` is the tide of the tick
before. -/
def noteBounds (before : Nat) (s : State) : State :=
  each ((armedTemplates s).filter (fun r => tSlotEn r && crossed s before (tSclk r)))
    (fun s r => { s with col := { s.col with bound := mset 0 s.col.bound r.slot (fireTop s r) } }) s

/-- Since when the next fire of a slot meets its conditions: 1 + the ticks; now where that has not been noted. -/
def eligAt (s : State) (slot : Nat) : Nat := if mget 0 s.col.elig slot = 0 then s.time.ticks + 1 else mget 0 s.col.elig slot

/-- When the next fire of an armed slot has met its conditions is noted (R356; log entry 161); where slot_en is 1 a boundary does. -/
def noteElig (s : State) : State :=
  each ((armedTemplates s).filter (fun r => !tSlotEn r)) (fun s r =>
    { s with col := { s.col with
      elig := mset 0 s.col.elig r.slot (if tIssued s r.slot < fireTop s r then eligAt s r.slot else 0) } }) s

/-- The layout epoch in force for a job (R395). -/
def layoutOf (s : State) (job : Nat) : Nat :=
  match jobEntry s job with
  | none => 0
  | some j => get s .grdJoba_layout j

/-- A fire of a slot fails: its collective ends with the code (R360, R369). -/
def fireFail (s : State) (r : ChainRec) (step code : Nat) : State := endCollective s r.slot (tJob r) (tColl r) step code 1

/-- A fire is issued and counted; with slot_en a slip is counted (R366). -/
def issueFire (s : State) (r : ChainRec) (k : Nat) : State :=
  let g := mget 0 s.col.grant r.slot
  let slip := tSlotEn r && decide (1 ≤ k) && decide (mget 0 s.col.lastAt r.slot + 1 < g)
  let f : Fire := ⟨s.col.nextId, r.slot, k, tStep s r.slot, layoutOf s (tJob r), s.time.ticks, false, false, false, 0⟩
  let s1 := bumpW (put s .colTlive0_issued (k + 1) r.slot) .colFires_fires
  let s2 := if slip then bump s1 .colStat_slips else s1
  { s2 with col := { s2.col with
    fires := s2.col.fires ++ [f]
    nextId := s2.col.nextId + 1
    armAt := mset 0 s2.col.armAt r.slot s2.time.ticks
    lastAt := mset 0 s2.col.lastAt r.slot g
    elig := mset 0 s2.col.elig r.slot 0 } }

/-- The next fire of an armed slot may issue now. -/
def mayGo (s : State) (r : ChainRec) : Bool :=
  fireReady s r (tIssued s r.slot) && !eclipsed s (tJob r) && decide (gatherGate s (tJob r) (tColl r) (tStep s r.slot) ≠ 1)

/-- A lower slot of the same transport engine whose fire met its conditions at the same time goes first (R350, R356). -/
def lowerFirst (s : State) (r : ChainRec) : Bool :=
  (armedTemplates s).any (fun q => decide (q.slot < r.slot ∧ q.slot / 8192 = r.slot / 8192) && mayGo s q &&
    decide (eligAt s q.slot = eligAt s r.slot))

/-- ARMED_FIRE_ISSUE (R356, R393): the next fire of an armed slot issues where all that it needs holds. -/
def execArmedFireIssue (slot : BitVec 16) (s : State) : Host.Outcome State Fault Refusal :=
  match template s slot.toNat with
  | none => .next s
  | some r =>
    let k := tIssued s r.slot
    if !fnReady s 5 || !isArmed s r.slot || eclipsed s (tJob r) || !fireReady s r k || lowerFirst s r then .next s
    else match gatherGate s (tJob r) (tColl r) (tStep s r.slot) with
      | 0 => .next (issueFire s r k)
      | 1 => .next s
      | _ => .next (fireFail s r (tStep s r.slot) 0x09)

/-! ### The ledger (R373 to R380) -/

/-- A ledger's words. -/
structure Ledger where
  sum   : Nat
  abs   : Nat
  w2    : Nat
  w3    : Nat
  deriving DecidableEq, Repr

def parseLedger (b : Bytes) : Ledger :=
  let w (i : Nat) : Nat := leNat ((b.drop (8 * i)).take 8)
  ⟨w 0, w 1, w 2, w 3⟩

def Ledger.count (l : Ledger) : Nat := bitsOf l.w2 24 0
def Ledger.nan (l : Ledger) : Bool := tst l.w2 25
def Ledger.flags (l : Ledger) : Bool := decide (bitsOf l.w2 27 25 ≠ 0)
def Ledger.enc (l : Ledger) : Bool := tst l.w2 28
def Ledger.reserved (l : Ledger) : Bool := tst l.w2 29 || decide (bitsOf l.w2 63 38 ≠ 0)
def Ledger.h (l : Ledger) : Nat := bitsOf l.w2 37 30
def Ledger.nanRank (l : Ledger) : Nat := bitsOf l.w3 39 20
def Ledger.nanIndex (l : Ledger) : Nat := bitsOf l.w3 63 40

/-- A value rounded to FP64 under roundTiesToEven, as bits and as a value. -/
def bits64 (x : Num) : Nat := (arithOut fp64 true 0 true true x).1
def round64 (x : Num) : Num := decodeNum fp64 (bits64 x)

/-- The FP32 elements of a payload. -/
def payloadFp32 (b : Bytes) : List Num := (unpack 32 (b.length / 4) b).map (decodeNum fp32)

/-- The elements of one one-bit block, of which `n` are in use (R380). -/
def blockElems (b : Bytes) (n : Nat) : List Num :=
  let s := decodeNum fp32 (leNat (b.take 4))
  let g := leNat (b.drop 8)
  (List.range (min 512 n)).map (fun j => if tst g j then s.flip else s)

/-- The elements of a one-bit payload; the first argument is its blocks. -/
def payloadBits : Nat → Bytes → Nat → List Num
  | 0, _, _ => []
  | k + 1, b, n => blockElems (b.take 72) n ++ payloadBits k (b.drop 72) (n - 512)

/-- The elements that a payload represents. -/
def ledgerElems (l : Ledger) (b : Bytes) : List Num := if l.enc then payloadBits (b.length / 72) b l.count else payloadFp32 b

/-- The payload represents as many elements as the ledger counts (R376, R380). -/
def countOk (l : Ledger) (b : Bytes) : Bool :=
  if l.enc then decide (b.length % 72 = 0) && decide ((l.count + 511) / 512 = b.length / 72) && decide (1 ≤ l.count)
  else decide (l.count = b.length / 4)

/-- S: the FP64 sum of the elements in ascending order from +0 (R375). -/
def ledgerSum (l : List Num) : Num := l.foldl (fun a x => round64 (numAdd a x)) (.fin false 0 0)

/-- d and B of R376. -/
def ledgerGap (l : Ledger) (total : Num) : Num :=
  match round64 (numAdd total (decodeNum fp64 l.sum).flip) with
  | .fin _ m e => .fin false m e
  | .inf _ => .inf false
  | x => x

def ledgerBound (l : Ledger) : Num :=
  round64 (numAdd (round64 (numMul (.fin false (l.h + 1) (-24)) (decodeNum fp64 l.abs)))
    (round64 (.fin false (l.h * l.count) (-126))))

/-- The comparison of d with B is skipped (R377). -/
def ledgerSkips (l : Ledger) (es : List Num) : Bool := l.flags || es.any (fun x => !x.isFin)

/-- The cause of a mismatch, the first in the order of R376: 0 bound, 1 count, 2 reserved field; none where it matches. -/
def ledgerCause (l : Ledger) (b : Bytes) : Option Nat :=
  let es := ledgerElems l b
  if !ledgerSkips l es && numCmp 2 (ledgerBound l) (ledgerGap l (ledgerSum es)) then some 0
  else if !countOk l b then some 1
  else if l.reserved then some 2
  else none

/-- The record of the first mismatch (R376). -/
def recordLedger (s : State) (r : ChainRec) (step : Nat) (l : Ledger) (b : Bytes) (cause : Nat) : State :=
  let s1 := bump s .grdChk_mismatches
  if flag s1 .grdLedg3_valid then s1
  else
    let s2 := put (put (put s1 .grdLedg0_sum l.sum) .grdLedg1_s (bits64 (ledgerSum (ledgerElems l b))))
      .grdLedg2_bound (bits64 (ledgerBound l))
    let s3 := put (put (put (put s2 .grdLedg3_job (tJob r)) .grdLedg3_coll (tColl r)) .grdLedg3_slot r.slot) .grdLedg3_h l.h
    put (put (put s3 .grdLedg3_cause cause) .grdLedg3_valid 1) .grdLedg4_step step

/-- What a check counts and records besides a mismatch (R378, R379). The first NaN ledger of each job is recorded, over the
record of another job (log entry 152). -/
def noteLedger (s : State) (r : ChainRec) (step : Nat) (l : Ledger) : State :=
  let s1 := bumpW s .grdChk_checks
  let s2 := if l.abs = 0 ∧ l.flags = false then
      put (put (put (bump s1 .grdChk_zero_msgs) .grdZlast_job (tJob r)) .grdZlast_coll (tColl r)) .grdZlast_step step
    else s1
  if l.nan && (!flag s2 .grdNanlog0_valid || !s2.col.nanJobs.contains (tJob r)) then
    let known := if flag s2 .grdNanlog0_valid then s2.col.nanJobs else []
    let s2 := { s2 with col := { s2.col with nanJobs := known ++ [tJob r] } }
    let s3 := put (put (put (put s2 .grdNanlog0_nan_rank l.nanRank) .grdNanlog0_nan_index l.nanIndex) .grdNanlog0_job (tJob r))
      .grdNanlog0_valid 1
    logEvt (put (put s3 .grdNanlog1_step step) .grdNanlog1_coll (tColl r)) 0x031 5 (tJob r) step l.nanRank l.nanIndex
  else s2

/-- The ledger at a message's end. -/
def msgLedger (msg : Bytes) : Ledger := parseLedger (msg.drop (msg.length - 32))

/-- The ledger check of a message (R375 to R379): the state, and whether it matches. -/
def checkLedger (s : State) (r : ChainRec) (step : Nat) (msg : Bytes) : State × Bool :=
  if !tLedger r then (s, true)
  else
    let b := msg.take (msg.length - 32)
    let l := msgLedger msg
    let s1 := noteLedger s r step l
    match ledgerCause l b with
    | none => (s1, true)
    | some c => (recordLedger s1 r step l b c, false)

/-! ### Flagged shards (R229) -/

/-- The ledger flags its shard under the owner's nan policy: whether the update is skipped, or applied (R212, R229). -/
def shardMark (policy : Nat) (l : Ledger) : Option Bool :=
  if policy = 0 then (if l.nan then some false else none)
  else if l.nan || (decide (2 ≤ policy) && l.flags) then some true
  else none

/-- A checked message that stays in the package and goes to a gradient view of its job is an owner's fully reduced shard (log
entry 151). Its mark replaces that of an earlier reduction of the same shard. -/
def noteShard (s : State) (r : ChainRec) (k step n : Nat) (l : Ledger) : State :=
  let job := tJob r
  let d := fireDst r k
  let mine := match viewAt s job d with
    | some (g, _) => flag s .grdBra_kind g
    | none => false
  if tCtx r = 0xFFFF ∧ tDstVa r = true ∧ mine = true then
    let policy := bitsOf (polWatch s (tTcore r) ((slotOfJob s (tTcore r) job).getD .prim)) 29 28
    let rest := s.col.shards.filter (fun x => !(x.job == job && x.step == step && x.dst == d))
    { s with col := { s.col with shards := rest ++ ((shardMark policy l).map (fun skip => (⟨job, step, d, n, skip⟩ : Shard))).toList } }
  else s

/-! ### Placement (R361 to R364, R394, R396) -/

/-- What becomes of an arriving packet: taken (and acknowledged), served (and answered), refused with a NAK of a code, held back, or
dropped. -/
inductive Arrive where
  | taken | served | refused (code : Nat) | held | dropped
  deriving DecidableEq, Repr

/-- What identifies the message of a collective packet (R361, R363): its collective and sender, and the message of the packet's
operand (log entry 162). -/
def colKey (ch : ColHdr) : List Nat :=
  [1, ch.job.toNat, ch.coll.toNat, ch.step.toNat, ch.srcMod.toNat, ch.srcCore.toNat, ch.msg.toNat]

/-- The drop list names the packet (R364). -/
def dropListed (s : State) (ch : ColHdr) : Bool :=
  (List.range 16).any (fun n => flag s .colDl_valid n && get s .colDl_job n == ch.job.toNat &&
    get s .colDl_coll n == ch.coll.toNat && get s .colDl_step n == ch.step.toNat)

/-- The destination of a packet's data may take it, translation apart (R362, R467). -/
def colDstOk (s : State) (ch : ColHdr) (n : Nat) : Bool :=
  dstOk s ch.job.toNat ch.dcore.toNat ch.dtc.toNat ch.dstVa ch.dst.toNat n

/-- The data of a packet are written: the code, 0 where they are (R362, R387). -/
def colWrite (s : State) (ch : ColHdr) (data : Bytes) : State × Nat :=
  if data.isEmpty then (s, 0)
  else if ch.dstVa then
    (if (rangeBad s 255 ch.job.toNat ch.dst.toNat data.length true).isSome then
        noteUntranslated s ch.job.toNat ch.dst.toNat data.length true
     else writeVa s ch.job.toNat 255 1 ch.dst.toNat data)
  else writeOff s ch.job.toNat 255 (sramBase ch.dcore.toNat + ch.dst.toNat) data

/-- The message's counter rises once all of it is visible (R363). -/
def colArrived (s : State) (ch : ColHdr) (n : Nat) : State :=
  let x := notePart s (colKey ch) (some ch.mlen.toNat) n false
  if x.2 then tcAdd x.1 ch.dcore.toNat ch.dtc.toNat (if ch.dadd = 0 then 1 else ch.dadd.toNat) else x.1

/-- R362 and R363 for a packet that R364, R394 and R396 let through. -/
def colPut (s : State) (ch : ColHdr) (data : Bytes) : State × Arrive :=
  if (msgPart s (colKey ch)).refused || !colDstOk s ch data.length then (bump s .colDrop_refused, .refused 0x06)
  else if ch.dstVa && rangeMoving s ch.job.toNat ch.dst.toNat data.length then (s, .held)
  else
    let w := colWrite s ch data
    if w.2 ≠ 0 then (bump w.1 .colDrop_refused, .refused (if w.2 = 0x02 then 0x02 else 0x06)) else (colArrived w.1 ch data.length, .taken)

/-- A superseded packet is refused and recorded (R396). -/
def colSuperseded (s : State) (ch : ColHdr) : State :=
  let job := ch.job.toNat
  let s1 := bump s .colDrop_epoch
  let s2 := if flag s1 .grdEpoch0_valid then s1
    else
      let t := put (put (put (put (put s1 .grdEpoch0_job job) .grdEpoch0_presented ch.layout.toNat)
        .grdEpoch0_current (layoutOf s job)) .grdEpoch0_src_module ch.srcMod.toNat) .grdEpoch0_valid 1
      put (put t .grdEpoch1_step ch.step.toNat) .grdEpoch1_coll ch.coll.toNat
  logEvt s2 0x033 5 job ch.step.toNat ch.coll.toNat ch.srcMod.toNat

/-- The armed collectives of a job with a collective number end (R369, R394). The first argument bounds them. -/
def endNumbered : Nat → State → Nat → (ChainRec → Bool) → Nat → Nat → State
  | 0, s, _, _, _, _ => s
  | n + 1, s, job, f, code, cause =>
    match (armedTemplates s).find? (fun r => tJob r == job && f r) with
    | none => s
    | some r => endNumbered n (endCollective s 0xFFFF job (tColl r) (tStep s r.slot) code cause) job f code cause

/-- A gather packet of another step is refused (R394): recorded and logged, and the job's work on it ends with code 0x09. -/
def tagMismatch (s : State) (ch : ColHdr) (c : Nat) : State :=
  let job := ch.job.toNat
  let s1 := match jobEntry s job with
    | none => s
    | some j => bump s .grdJobd_tag_mismatch 1 j
  let s2 := if flag s1 .grdTag0_valid then s1
    else
      let t := put (put (put (put s1 .grdTag0_job job) .grdTag0_coll ch.coll.toNat) .grdTag0_src_module ch.srcMod.toNat)
        .grdTag0_valid 1
      put (put t .grdTag1_presented ch.step.toNat) .grdTag1_committed c
  let s3 := logEvt s2 0x032 5 job ch.step.toNat ch.coll.toNat ch.srcMod.toNat
  let s4 := endNumbered (armedTemplates s3).length s3 job (fun r => tColl r == ch.coll.toNat) 0x09 2
  abortJobOn s4 ch.dcore.toNat job 0x09

/-- A pending COMMIT names the step (R394). -/
def commitNames (s : State) (job step : Nat) : Bool :=
  match mget none s.ctl.commits job with
  | none => false
  | some c => c.isCommit && c.step.toNat == step && commitState s job == 2

/-- R394 for a packet whose layout is the job's. -/
def colStep (s : State) (ch : ColHdr) (data : Bytes) : State × Arrive :=
  let job := ch.job.toNat
  if !isGather s job ch.coll.toNat then colPut s ch data
  else match committedOf s job with
    | none => colPut s ch data
    | some c =>
      if ch.step.toNat = c then colPut s ch data
      else if ch.step.toNat = (c + 1) % 2 ^ 32 ∧ commitNames s job ch.step.toNat = true then (s, .held)
      else (tagMismatch s ch c, .refused 0x09)

/-- What becomes of an arriving collective packet by its header, its drop list, its job, its layout and its step. -/
def colJudge (s : State) (ch : ColHdr) (data : Bytes) : State × Arrive :=
  let job := ch.job.toNat
  let d := (ch.layout.toNat + 256 - layoutOf s job) % 256
  if ch.kind ≠ 1 ∧ ch.kind ≠ 2 then (bump s .colDrop_refused, .dropped)
  else if dropListed s ch then (bump s .colDrop_listed, .taken)
  else if !resident s job then (bump s .colDrop_unresident, .refused 0x06)
  else if d = 0 then colStep s ch data
  else if d ≤ 127 then (s, .held)
  else (colSuperseded s ch, .refused 0x08)

/-- An arriving collective packet (R361 to R364, R394, R396). Nothing of a refused message is placed after the refusal (R362). -/
def colPlace (s : State) (ch : ColHdr) (data : Bytes) : State × Arrive :=
  let x := colJudge s ch data
  match x.2 with
  | .refused code => ((notePart x.1 (colKey ch) (some ch.mlen.toNat) data.length true).1, .refused code)
  | _ => x

/-! ### Fires (R357 to R360) -/

/-- The oldest fire of a slot for which a test holds. -/
def fireOf (s : State) (slot : Nat) (f : Fire → Bool) : Option Fire := s.col.fires.find? (fun x => x.slot == slot && f x)

def updFire (s : State) (id : Nat) (f : Fire → Fire) : State :=
  { s with col := { s.col with fires := s.col.fires.map (fun x => if x.id = id then f x else x) } }

/-- Source bytes of a fire: the code, 0 where they are read (R103, R357). -/
def fireRead (s : State) (r : ChainRec) (a n : Nat) : State × Nat × Bytes :=
  if tSrcVa r then readVa s (tJob r) (tTcore r) 1 a n
  else match slotOfJob s (tTcore r) (tJob r) with
    | none => (s, 0x01, [])
    | some sl => if inSplit s (tTcore r) sl a n then readOff s (tJob r) (tTcore r) (sramBase (tTcore r) + a) n else (s, 0x01, [])

/-- The message of fire `k` (R357): its length, read from the source where len_ind is 1. -/
def fireMessage (s : State) (r : ChainRec) (k : Nat) : State × Nat × Bytes :=
  let a := fireSrc r k
  if !tLenInd r then fireRead s r a (tLength r)
  else
    let x := fireRead s r a 8
    let v := leNat x.2.2
    if x.2.1 ≠ 0 then x
    else if v % 2 ^ 32 % 8 ≠ 0 ∨ 2 ^ 32 ≤ v ∨ tLength r < 8 + v % 2 ^ 32 then (x.1, 0x0C, [])
    else
      let y := fireRead x.1 r (a + 8) (v % 2 ^ 32)
      (y.1, y.2.1, x.2.2 ++ y.2.2)

/-- The collective header of a packet of a fire (R361). -/
def fireHdr (s : State) (r : ChainRec) (f : Fire) (kind at_ len : Nat) : ColHdr :=
  { kind := BitVec.ofNat 4 kind, job := BitVec.ofNat 12 (tJob r), layout := BitVec.ofNat 8 f.layout,
    coll := BitVec.ofNat 10 (tColl r), dcore := BitVec.ofNat 8 (tDcore r), dtc := BitVec.ofNat 8 (tDtc r),
    dadd := BitVec.ofNat 8 (tDadd r), dstVa := tDstVa r, ledger := tLedger r, step := BitVec.ofNat 32 f.step,
    srcMod := BitVec.ofNat 12 (ownModule s), srcCore := BitVec.ofNat 8 (tTcore r),
    dst := BitVec.ofNat 55 (if kind = 1 then fireDst r f.k + at_ else 0), offset := BitVec.ofNat 32 at_,
    mlen := BitVec.ofNat 32 len, msg := BitVec.ofNat 32 f.id }

/-- The bytes of a collective header. -/
def colHdrBytes (h : ColHdr) : Bytes :=
  toLe 8 (h.kind.toNat + h.job.toNat * 2 ^ 4 + h.layout.toNat * 2 ^ 16 + h.coll.toNat * 2 ^ 24 + h.dcore.toNat * 2 ^ 34 +
    h.dtc.toNat * 2 ^ 42 + h.dadd.toNat * 2 ^ 50 + bit h.dstVa * 2 ^ 58 + bit h.ledger * 2 ^ 59) ++
  toLe 8 (h.step.toNat + h.srcMod.toNat * 2 ^ 32 + h.srcCore.toNat * 2 ^ 44) ++ toLe 8 h.dst.toNat ++
  toLe 8 (h.offset.toNat + h.mlen.toNat * 2 ^ 32)

/-- Why a fire's context does not do, as a code; 0 where it does (R359). -/
def fireCtxBad (s : State) (r : ChainRec) : Nat :=
  if tCtx r = 0xFFFF then (if tAction r = 2 then 0x01 else 0)
  else
    let b := ctxBad s (tJob r) (tCtx r) (tAction r != 2)
    if b ≠ 0 then b else if tAction r ≠ 2 ∧ isRoce s (tCtx r) = true then 0x01 else 0

/-- The fire's source bytes are read and its packets sent; `n` of them are not acknowledged. -/
def fireSent (s : State) (f : Fire) (n : Nat) : State := updFire s f.id (fun x => { x with sent := true, read := true, left := n })

/-- A fire inside the package, without a context (R359): its message is placed at once, or the fire fails; where the step
or the layout holds it back (R394, R396) nothing of the fire has happened yet, and the state is `s0`. -/
def fireLocal (s0 s : State) (r : ChainRec) (f : Fire) (kind : Nat) (msg : Bytes) : State :=
  let x := colPlace s (fireHdr s r f kind 0 msg.length) msg
  match x.2 with
  | .refused code => fireFail x.1 r f.step code
  | .held => s0
  | _ => fireSent x.1 f 0

/-- A fire's message leaves on its context: packets of up to 4,096 bytes that each begin with the collective header. -/
def fireRemote (s : State) (r : ChainRec) (f : Fire) (kind : Nat) (msg : Bytes) : State :=
  let l := cuts (4096 - 32) msg
  let parts := l.map (fun p => (⟨p.1, p.2, colHdrBytes (fireHdr s r f kind p.1 msg.length)⟩ : Part))
  sendMol (fireSent s f l.length) (tJob r) (tCtx r) 0x5 true 0 (if kind = 1 then fireDst r f.k else 0) 0 parts (.fire f.id) false

/-- A fire of an action that has not run runs. -/
def fireRun (action : Nat) (slot : BitVec 16) (s : State) (body : ChainRec → Fire → State → State) : State :=
  match template s slot.toNat with
  | none => s
  | some r =>
    match fireOf s r.slot (fun f => !f.sent) with
    | none => s
    | some f =>
      if tAction r ≠ action ∨ fnReady s 5 = false then s
      else if fireCtxBad s r ≠ 0 then fireFail s r f.step (fireCtxBad s r)
      else body r f s

/-- A move in progress holds the source of a fire (R295). -/
def fireHeld (s : State) (r : ChainRec) (k : Nat) : Bool := tSrcVa r && rangeMoving s (tJob r) (fireSrc r k) (tLength r)

/-- FIRE_SEND (R357, R359, R375, action 0). -/
def execFireSend (slot : BitVec 16) (s : State) : Host.Outcome State Fault Refusal :=
  .next (fireRun 0 slot s (fun r f s =>
    if fireHeld s r f.k then s
    else
      let m := fireMessage s r f.k
      if m.2.1 ≠ 0 then fireFail m.1 r f.step m.2.1
      else
        let x := checkLedger m.1 r f.step m.2.2
        if !x.2 then fireFail x.1 r f.step 0x07
        else if tCtx r = 0xFFFF then fireLocal s (if tLedger r then noteShard x.1 r f.k f.step (m.2.2.length - 32) (msgLedger m.2.2) else x.1) r f 1 m.2.2
        else fireRemote x.1 r f 1 m.2.2))

/-- FIRE_COUNTER_ADD (R357, action 1): a header only. -/
def execFireCounterAdd (slot : BitVec 16) (s : State) : Host.Outcome State Fault Refusal :=
  .next (fireRun 1 slot s (fun r f s => if tCtx r = 0xFFFF then fireLocal s s r f 2 [] else fireRemote s r f 2 []))

/-- FIRE_FLAG_WRITE (R357, R359, action 2). -/
def execFireFlagWrite (slot : BitVec 16) (s : State) : Host.Outcome State Fault Refusal :=
  .next (fireRun 2 slot s (fun r f s =>
    let a := (tw r 5 63 0 + (f.k % tNslots r) * tDstStride r * 64) % 2 ^ 64
    let s1 := fireSent s f 1
    if isRoce s (tCtx r) then (roceWrite s1 (tJob r) (tCtx r) (tLength r) a (toLe 8 (tValue r)) (.fire f.id) 0).1
    else sendMol s1 (tJob r) (tCtx r) 0x4 false (tLength r) a 0 [⟨0, toLe 8 (tValue r), []⟩] (.fire f.id) true))

/-- A slot whose last fire is done returns to idle and arms its chain (R354, R358). -/
def slotComplete (s : State) (r : ChainRec) : State :=
  let s1 := disarm s r.slot
  armSlots s1 (tJob r) (tStep s r.slot) (get s .colTlive2_tbias r.slot) (get s .colTlive2_gbias r.slot) (tNext r) (tNextCount r)

/-- The fire is done as done_when says. -/
def fireIsDone (r : ChainRec) (f : Fire) : Bool := f.sent && !f.done && (if tDoneWhen r then decide (f.left = 0) else f.read)

/-- FIRE_DONE (R358): the next fire of the slot, in ascending k, once it is done raises done_tc; the last one ends the arming. -/
def execFireDone (slot : BitVec 16) (s : State) : Host.Outcome State Fault Refusal :=
  match template s slot.toNat with
  | none => .next s
  | some r =>
    match fireOf s r.slot (fun f => fireIsDone r f && f.k == get s .colTlive0_done r.slot) with
    | none => .next s
    | some f =>
      if !isArmed s r.slot || tStep s r.slot != f.step then .next s
      else
        let s1 := updFire s f.id (fun x => { x with done := true })
        let s2 := { s1 with col := { s1.col with
          fires := s1.col.fires.filter (fun x => !(x.done && x.left == 0))
          doneK := mset [] s1.col.doneK r.slot (mget [] s1.col.doneK r.slot ++ [f.k]) } }
        let s3 := if tDoneEn r then tcAdd s2 (tTcore r) (tDoneTc r) 1 else s2
        let n := get s3 .colTlive0_done r.slot + 1
        let s4 := put s3 .colTlive0_done n r.slot
        .next (if tFires r ≤ n then slotComplete s4 r else s4)

/-! ### The watchdog and aborts (R368 to R370) -/

/-- A watchdog interval of the slot has run over (R368). -/
def wdOver (s : State) (r : ChainRec) : Bool :=
  let limit := tWdUs r * 1000
  decide (tWdUs r ≠ 0) &&
  ((decide (tIssued s r.slot < tFires r) && decide (mget 0 s.col.armAt r.slot + limit < s.time.ticks)) ||
   s.col.fires.any (fun f => f.slot == r.slot && !f.done && decide (f.start + limit < s.time.ticks)))

/-- COL_WATCHDOG_EXPIRY (R368, R369). -/
def execColWatchdogExpiry (slot : BitVec 16) (s : State) : Host.Outcome State Fault Refusal :=
  match template s slot.toNat with
  | none => .next s
  | some r =>
    .next (onlyIf (fnReady s 5 && isArmed s r.slot && !eclipsed s (tJob r) && wdOver s r) (fun s =>
      endCollective (bump s .colStat_expiries) r.slot (tJob r) (tColl r) (tStep s r.slot) 0x0D 0) s)

/-- A write of `COL_ABORT` (R369). -/
def abortWrite (s : State) (job coll : Nat) (all go : Bool) : State :=
  let s1 := put (put (put s .colAbort_job job) .colAbort_coll coll) .colAbort_all (bit all)
  if go then endNumbered (armedTemplates s1).length s1 job (fun r => all || tColl r == coll) 0x0D 3 else s1

/-- COL_ABORT_ONE (R369): one collective number of a job. -/
def execColAbortOne (job : BitVec 12) (coll : BitVec 10) (s : State) : Host.Outcome State Fault Refusal :=
  .next (fn5Write s (fun s => abortWrite s job.toNat coll.toNat false true))

/-- COL_ABORT_ALL (R369): every armed collective of a job. -/
def execColAbortAll (job : BitVec 12) (s : State) : Host.Outcome State Fault Refusal :=
  .next (fn5Write s (fun s => abortWrite s job.toNat (get s .colAbort_coll) true true))

/-- µs left on the running watchdog interval of a slot (`COL_TLIVE0.wd_left`): that which ends first. -/
def wdLeft (s : State) (slot : Nat) : Nat :=
  match template s slot with
  | none => 0
  | some r =>
    let limit := tWdUs r * 1000
    let starts := (if tIssued s slot < tFires r then [mget 0 s.col.armAt slot] else []) ++
      (s.col.fires.filter (fun f => f.slot == slot && !f.done)).map (·.start)
    if !isArmed s slot || tWdUs r == 0 then 0
    else match starts with
      | [] => 0
      | a :: l => (l.foldl min a + limit - s.time.ticks) / 1000

end Sys2Proof.Machine
end

