-- ==== Sys2Proof/Machine/Kv.lean ====
section
/-!
DEFINITION. The KV reader (R237 to R248, spec/08_attention_engine.md) and the KV stream unit with its pools and page
operations (R287 to R302, spec/09_memory_translation_kv_tiers.md).
-/
namespace Sys2Proof.Machine

/-! ### Checks (R243) -/

/-- The first failing check of a page descriptor, reasons 1 to 8 (R243). -/
def pageReason (p : PageDesc) (w : Nat) : Nat :=
  if !p.valid then 1
  else if !pageFmt p.fmt then 2
  else if 2 ≤ p.smode then 3
  else if p.dcode = 3 then 4
  else if pageCap p.dcode p.fmt < p.tokens then 5
  else if p.window ≠ w then 6
  else if p.smode = 1 ∧ (tensorScaleOk p.kScale && tensorScaleOk p.vScale) = false then 7
  else if !p.clean then 8
  else 0

/-! ### Widening (R244 to R246) -/

/-- The pages of a descriptor that have been processed. -/
def kvDone (d : Desc) : Nat := d.pages + d.ready.length

/-- One element of a page widened into the compute format (R244): value times scale, rounded once. The captured maximum is that of
the stored value (R207). -/
def widen (p : PageDesc) (scale cfmt : Nat) (sat : Bool) (code : Nat) : Nat × Counts :=
  let x := decodeNum p.fmt code
  let v := if p.smode = 1 then scaleNum x (decodeNum fp32 scale) else x
  let r := convertOne p.fmt cfmt 0 sat false 0 none v
  (r.1, { r.2 with max := captureOf x })

/-- The rows of one half of a page, element by element: `tokens` rows of the head dimension. -/
def widenHalf (p : PageDesc) (scale cfmt : Nat) (sat : Bool) (b : Bytes) : List Nat × Counts :=
  let r := (unpack (fmtWidth p.fmt) (p.tokens * headDim p.dcode) b).map (widen p scale cfmt sat)
  (r.map (·.1), Counts.sum (r.map (·.2)))

/-- Element (key, dimension) of a half; keys at or above tokens are +0. -/
def kvElem (p : PageDesc) (l : List Nat) (key dim : Nat) : Nat := if key < p.tokens then l.getD (key * headDim p.dcode + dim) 0 else 0

/-- A weight tile in storage order (R150): row by row, column by column, K ascending within a cell. -/
def tileOf (cfmt : Nat) (f : Nat → Nat → Nat) : Bytes :=
  let n := (perCell cfmt).getD 1
  packBytes (fmtWidth cfmt) ((List.range 32).flatMap (fun k => (List.range 32).flatMap (fun j =>
    (List.range n).map (fun i => f (n * k + i) j))))

/-- The K tiles of a page: tile (t, c) holds keys 32t on as columns and dimensions K_pass times c on as rows. -/
def kTiles (d : Desc) (p : PageDesc) (l : List Nat) : Bytes :=
  let kp := kPass false (kvFmt d)
  (List.range (pageCap p.dcode p.fmt / 32)).flatMap (fun t => (List.range (headDim p.dcode / kp)).flatMap (fun c =>
    tileOf (kvFmt d) (fun k j => kvElem p l (32 * t + j) (kp * c + k))))

/-- The V tiles: tile (t, c) holds dimensions 32t on as columns and keys K_pass times c on as rows. -/
def vTiles (d : Desc) (p : PageDesc) (l : List Nat) : Bytes :=
  let kp := kPass false (kvFmt d)
  (List.range (headDim p.dcode / 32)).flatMap (fun t => (List.range (pageCap p.dcode p.fmt / kp)).flatMap (fun c =>
    tileOf (kvFmt d) (fun k j => kvElem p l (kp * c + k) (32 * t + j))))

/-- The position record (R246): the descriptor as read, then the position of each key slot. -/
def posRecord (p : PageDesc) (raw : Bytes) : Bytes :=
  raw ++ (List.range (pageCap p.dcode p.fmt)).flatMap (fun j => toLe 4 (if j < p.tokens then p.pos + j else 0xFFFFFFFF))

/-! ### The KV reader (R242 to R248) -/

/-- The reader fails: the reason is recorded and the task aborts (R243). -/
def kvFail (s : State) (c : Nat) (d : Desc) (reason page code : Nat) : State :=
  failDesc (noteAtt s c reason (kvWindow d) page) c d code page

/-- One half of a page is read, and widened where the descriptor asks for it: the code, the elements, the counts. A page with no
tokens has still to translate (R243, reason 10). -/
def readHalf (s : State) (c : Nat) (d : Desc) (p : PageDesc) (va scale : Nat) (want : Bool) :
    State × Nat × List Nat × Counts :=
  if !want then (s, 0, [], Counts.zero)
  else if p.tokens = 0 then
    match reachRead s c 2 d.job va with
    | .here _ => (noteAccess s c d.job va false, 0, [], Counts.zero)
    | .bad k code => (noteReach s d.job c 2 va k code, code, [], Counts.zero)
    | _ => (noteReach s d.job c 2 va 12 0x01, 0x01, [], Counts.zero)
  else
    let r := readVa s d.job c 2 va (p.tokens * headDim p.dcode * fmtWidth p.fmt / 8)
    let x := widenHalf p scale (kvFmt d) (polSat s c d.slot) r.2.2
    (r.1, r.2.1, x.1, x.2)

/-- What the ATT_ counters count of a page. -/
def countPage (s : State) (c : Nat) (d : Desc) (p : PageDesc) : State :=
  let w := fmtWidth p.fmt
  let s1 := bumpW s .attPages_read 1 c
  let s2 := if w = 16 then bumpW s1 .attFmt_w16 1 c else if w = 8 then bumpW s1 .attFmt_w8 1 c else bumpW s1 .attFmt_w4 1 c
  if fmtWidth (kvFmt d) < w then bumpW s2 .attFmt_narrowed 1 c else s2

/-- The outputs of a page are written one after another: the code of the first that fails. -/
def writeOuts (c : Nat) (d : Desc) (s : State) (l : List (Nat × Bytes)) : State × Nat :=
  l.foldl (fun r o => if r.2 ≠ 0 then r else writeOff r.1 d.job c (sramBase c + o.1) o.2) (s, 0)

/-- The record of a KV read with the counts of one page more: a descriptor files one record (R208). -/
def kvRecord (s : State) (c : Nat) (d : Desc) (k : Counts) : NumRec :=
  let m := if polCapture s c d.slot && d.tag.isSome then k.max else none
  match d.part with
  | none => recordOf c d.job d.tag m k
  | some r => joinRec r (recordOf c d.job d.tag m k)

/-- A resident page is read and widened, and waits to be counted (R208, R244 to R247). -/
def widenPage (s : State) (c : Nat) (d : Desc) (p : PageDesc) (raw : Bytes) (page va : Nat) : State :=
  let i := kvDone d
  let outs := kvOutputs d p i
  let reg := kvRegion s c d.slot
  if outs.any (fun o => !decide (reg.1 ≤ o.1 ∧ o.1 + o.2 ≤ reg.2)) then kvFail s c d 9 page 0x01
  else
    let k := readHalf s c d p va p.kScale (tst (kvPart d) 0)
    let v := readHalf k.1 c d p (va + 32768) p.vScale (tst (kvPart d) 1)
    if k.2.1 = 0x01 then kvFail k.1 c d 10 page 0x01
    else if k.2.1 ≠ 0 then failDesc k.1 c d k.2.1 va
    else if v.2.1 = 0x01 then kvFail v.1 c d 10 page 0x01
    else if v.2.1 ≠ 0 then failDesc v.1 c d v.2.1 va
    else
      let data := (if tst (kvPart d) 0 then [kTiles d p k.2.2.1] else []) ++
        (if tst (kvPart d) 1 then [vTiles d p v.2.2.1] else []) ++ (if d.w 2 22 22 = 1 then [posRecord p raw] else [])
      let w := writeOuts c d v.1 ((outs.map (·.1)).zip data)
      if w.2 ≠ 0 then failDesc w.1 c d w.2 page
      else
        let s1 := countPage w.1 c d p
        let r := kvRecord s c d (Counts.add k.2.2.2 v.2.2.2)
        let last := decide (kvDone d + 1 = d.w 0 53 49)
        let s2 := if last then sendRec s1 r else s1
        releasePage (updDesc s2 c d.id (fun e => { e with
          ready := e.ready ++ [page], raw := none, part := if last then none else some r })) c d.id (kvWindow d) page

/-- The page of a window that the unit manages is in HBM, with no move in progress. -/
def pageHere (s : State) (w page : Nat) : Bool := pageTier s w page == 0 && (moveOf s w page).isNone

/-- The reader's request for a page (R248); where its descriptor or an entry on the way to it is uncorrectable, the reader's task
aborts with code 0x02 (R266, R282). DESIGN CHOICE (log entry 199): `ATT_PAGES.tail` counts, at the reader's first request of it, a page
that is in the tail or on its way back. -/
def askPage (c : Nat) (d : Desc) (s : State) (page : Nat) : State :=
  let w := kvWindow d
  let r := winWords s w
  if (flightOf s c d.id).isNone || decide (winBad s w ≠ 0) || winRefused s d.job w page || !wSpill r then s
  else
    let s1 := seePage s w page c
    if pdBad s1 r page = 0x02 ∨ l3Find s1 (wJob r) (pageVa r page) = .bad 11 0x02 then failDesc s1 c d 0x02 page
    else if pdBad s1 r page ≠ 0 ∨ pteValid (l3Of s1 r page) = false then s1
    else
      let fresh := !s1.mmu.holders.contains (w, page, c, d.id)
      let s2 := if fresh && decide (2 ≤ pageTier s1 w page) then bump s1 .attPages_tail 1 c else s1
      requestPage s2 c d.id w page

/-- An uncorrectable unit of what the KV unit keeps in HBM aborts the task with code 0x02 (R266, R267). -/
def unitStop (s : State) (c : Nat) (d : Desc) (a n va : Nat) : State :=
  match readFault s a n with
  | none => failDesc s c d 0x01 va
  | some u => failDesc (noteUnit s u d.job c) c d (ueCode u) va

/-- KV_READ (R242 to R248, R283, R285): the next page of a descriptor is checked, it and the pages up to read_ahead after it
are requested, and once it is in HBM it is widened. A page's descriptor is read once (R241). -/
def execKvRead (c : Core) (id : Nat) (s : State) : Host.Outcome State Fault Refusal :=
  match flightOf s c id with
  | none => .next s
  | some d =>
    if d.kind ≠ 4 ∨ d.w 0 53 49 ≤ kvDone d ∨ fnReady s (coreFn c) = false then .next s
    else if !fnReady s 7 then .next (failDesc s c d 0x0E 0)
    else
      let w := kvWindow d
      let page := d.w 0 48 27 + kvDone d
      let r := winWords s w
      let s0 := noteWin s w
      if winBad s w = 0x02 then .next (unitStop s c d (winAddr s w) 32 (pageVa r page))
      else if decide (winBad s w ≠ 0) || winRefused s d.job w page then
        .next (kvFail (noteFault s0 d.job c 2 (pageVa r page % 2 ^ 55) 10 0x01) c d 10 page 0x01)
      else if !inHbm s (pdAddr r page) then .next (kvFail s0 c d 10 page 0x01)
      else
        let x := match d.raw with
          | some b => (s0, 0, b)
          | none => readOff s0 d.job c (pdAddr r page) 64
        let p := parsePage x.2.2
        if x.2.1 ≠ 0 then .next (failDesc x.1 c d x.2.1 page)
        else if pageReason p w ≠ 0 then .next (kvFail x.1 c d (pageReason p w) page 0x0B)
        else
          let ahead := (List.range (min 8 (max 1 (get s .attCtl_read_ahead c)))).map (fun i => page + i + 1)
          let s0 := updDesc x.1 c d.id (fun e => { e with raw := some x.2.2 })
          let s1 := each (page :: ahead.filter (fun q => decide (q < d.w 0 48 27 + d.w 0 53 49))) (askPage c d) s0
          if (flightOf s1 c id).isNone then .next s1
          else if wSpill r && pteValid (l3Of s1 r page) && !pageHere s1 w page then .next s1
          else .next (widenPage s1 c d p x.2.2 page (pageVa r page))

/-- One more page of a KV descriptor is counted: tc rises, and the last one completes the descriptor (R247, R290). -/
def countKvPage (s : State) (c : Nat) (d : Desc) : State :=
  let s1 := if d.tcEn then tcAdd s c d.tc 1 else s
  if d.pages + 1 = d.w 0 53 49 then dropFlight s1 c d.id
  else updDesc s1 c d.id (fun e => { e with pages := e.pages + 1, ready := e.ready.drop 1 })

/-- KV_READ_PAGE_DONE (R247): the outputs of the descriptor's next page are visible. -/
def execKvReadPageDone (c : Core) (id : Nat) (s : State) : Host.Outcome State Fault Refusal :=
  match flightOf s c id with
  | none => .next s
  | some d => .next (onlyIf (decide (d.kind = 4) && !d.ready.isEmpty) (fun s => countKvPage s c d) s)

/-! ### KV page operations (R289, R290) -/

/-- A KV page operation fails: the fault is recorded, the KV stream unit's own (R282), and the task aborts. -/
def opFail (s : State) (c : Nat) (d : Desc) (va reason code : Nat) : State :=
  failDesc (noteFault s d.job 255 3 (va % 2 ^ 55) reason code) c d code va

/-- What the unit keeps in HBM cannot be reached: above the top the operation is refused, and an uncorrectable unit aborts its
task (R3, R266, R267). -/
def opUnit (s : State) (c : Nat) (d : Desc) (va a n : Nat) : State :=
  if unitBad s a n = 0x02 then unitStop s c d a n va else opFail s c d va 10 0x01

/-- A page is finished and waits to be counted. -/
def opReady (s : State) (c : Nat) (d : Desc) (page : Nat) : State :=
  updDesc s c d.id (fun e => { e with ready := e.ready ++ [page], left := 0 })

/-- The page waits; `left` is 1 while it does, so that a wait for a frame is counted once. -/
def opWait (s : State) (c : Nat) (d : Desc) : State := updDesc s c d.id (fun e => { e with left := 1 })

/-- A page has become resident: its hints, those that still wait in a queue among them, have seen it (R290). -/
def seenPage (s : State) (w page : Nat) : State :=
  let see (d : Desc) : Desc := if d.kind = 5 ∧ d.w 0 56 54 = 2 ∧ kvWindow d = w then { d with seen := d.seen ++ [page] } else d
  { s with cores := mmap CoreSt.init (fun k => { k with
      flight := k.flight.map see
      dmaq := mmap DmaQ.init (fun x => { x with entries := x.entries.map see }) k.dmaq }) s.cores }

/-- Opening a page (R290): a frame is taken, waiting for one if none is free. -/
def openPage (s : State) (c : Nat) (d : Desc) (r : List Word) (w page : Nat) : State :=
  let p := wPool r
  if pteValid (l3Of s r page) then opFail s c d (pageVa r page) 9 0x01
  else if takeBad s p ≠ 0 then opUnit s c d (pageVa r page) (ringAddr s p (ringHead s p)) 4
  else
    let x := takeFrame s p
    match x.2 with
    | none => if d.left = 0 then opWait (waitMore s p) c d else s
    | some f =>
      let s1 := if d.left = 0 then x.1 else waitLess x.1 p
      if !inHbm s f then opFail (pushFrame s1 p f) c { d with left := 0 } (pageVa r page) 5 0x01
      else opReady (seenPage (setPd (setPd (setPd (setL3 s1 r page (l3Entry 0 f)) r page 3 0) r page 4 0) r page 5 0) w page) c d page

/-- Sealing a page: a resident page's stamp is the tide. -/
def sealPage (s : State) (c : Nat) (d : Desc) (r : List Word) (w page : Nat) : State :=
  if !pteValid (l3Of s r page) then opFail s c d (pageVa r page) 9 0x01
  else
    let s1 := meetPage s w page
    opReady (if pageTier s1 w page = 0 then setPd s1 r page 5 s1.time.tide else s1) c d page

/-- A hint: a return is queued where the page is in the tail, though it may have been resident since the hint was issued; the page
counts once it has been (R290; log entry 155). -/
def hintPage (s : State) (c : Nat) (d : Desc) (r : List Word) (w page : Nat) : State :=
  if !pteValid (l3Of s r page) then opFail s c d (pageVa r page) 9 0x01
  else
    let s1 := meetPage s w page
    let s2 := if pageTier s1 w page = 2 then askReturn s1 w page (wPool r) false else s1
    if pageTier s1 w page ≤ 1 ∨ page ∈ d.seen then opReady s2 c d page else opWait s2 c d

/-- A queued return of a page is dropped; where it waited for a frame, it waits no more (R294). -/
def dropReturn (s : State) (w page : Nat) : State :=
  let mine (q : KvReq) : Bool := q.window == w && q.page == page
  each (s.mmu.reqs.filter (fun q => mine q && q.waits)) (fun s q => waitLess s q.pool)
    { s with mmu := { s.mmu with reqs := s.mmu.reqs.filter (fun q => !mine q) } }

/-- Closing a page: it waits for any move and any reader, then the page is unmapped and a resident page's frame returned. -/
def closePage (s : State) (c : Nat) (d : Desc) (r : List Word) (w page : Nat) : State :=
  let p := wPool r
  if !pteValid (l3Of s r page) then opFail s c d (pageVa r page) 9 0x01
  else if (moveOf s w page).isSome || s.mmu.holders.any (fun h => h.1 == w && h.2.1 == page) then opWait s c d
  else if pageTier s w page = 0 ∧ pushBad s p ≠ 0 then opUnit s c d (pageVa r page) (ringAddr s p (ringTail s p)) 4
  else
    let e := l3Of s r page
    let s1 := if pageTier s w page = 0 then pushFrame s p (pteFrame e) else s
    let s2 := setL3 (dropReturn s1 w page) r page 0
    opReady (each [3, 4, 5, 6, 7] (fun s i => setPd s r page i 0) s2) c d page

/-- The next page of a KV page operation of the given op, where it has not been handled: checked per R3, R266, R282, R285 and
R289, then `body` (R290). -/
def pageOp (op : Nat) (c : Core) (id : Nat) (body : State → Nat → Desc → List Word → Nat → Nat → State) (s : State) : State :=
  match flightOf s c id with
  | none => s
  | some d =>
    if d.kind ≠ 5 ∨ d.w 0 56 54 ≠ op ∨ d.w 0 53 49 ≤ kvDone d then s
    else if !fnReady s 7 then failDesc s c d 0x0E 0
    else
      let w := kvWindow d
      let page := d.w 0 48 27 + kvDone d
      let r := winWords s w
      let va := pageVa r page
      let s0 := noteWin s w
      if winBad s w ≠ 0 then opUnit s c d va (winAddr s w) 32
      else if winRefused s d.job w page then opFail s0 c d va 10 0x01
      else if pdBad s r page ≠ 0 then opUnit s0 c d va (pdAddr r page) 64
      else match l3Find s (wJob r) va with
        | .bad k code => opFail s0 c d va k code
        | .at_ _ => body (fixPage s0 r page) c d r w page

/-- KV_PAGE_OPEN (R290). -/
def execKvPageOpen (c : Core) (id : Nat) (s : State) : Host.Outcome State Fault Refusal := .next (pageOp 0 c id openPage s)

/-- KV_PAGE_SEAL (R290). -/
def execKvPageSeal (c : Core) (id : Nat) (s : State) : Host.Outcome State Fault Refusal := .next (pageOp 1 c id sealPage s)

/-- KV_PAGE_HINT (R290, R293). -/
def execKvPageHint (c : Core) (id : Nat) (s : State) : Host.Outcome State Fault Refusal := .next (pageOp 2 c id hintPage s)

/-- KV_PAGE_CLOSE (R290). -/
def execKvPageClose (c : Core) (id : Nat) (s : State) : Host.Outcome State Fault Refusal := .next (pageOp 3 c id closePage s)

/-- KV_PAGE_OP_PAGE_DONE (R290): the descriptor's next page has been handled, and is counted; one that waited for a frame,
a move or a reader is handled where what it waited for has come. -/
def execKvPageOpPageDone (c : Core) (id : Nat) (s : State) : Host.Outcome State Fault Refusal :=
  let s1 := pageOp 3 c id closePage (pageOp 2 c id hintPage (pageOp 1 c id sealPage (pageOp 0 c id openPage s)))
  let s0 := match flightOf s c id with
    | none => s
    | some d => if d.ready.isEmpty && d.left == 1 then s1 else s
  match flightOf s0 c id with
  | none => .next s0
  | some d => .next (onlyIf (decide (d.kind = 5) && !d.ready.isEmpty) (fun s => countKvPage s c d) s0)

/-! ### Moves (R291 to R297) -/

/-- A tail fault of a pool is shown and logged (R297). -/
def tailFault (s : State) (p code : Nat) : State :=
  logEvt (put s .mmuPoold_tail_fault 1 p) 0x041 7 (get s .mmuPoola_job p) 0 p code

/-- The uncorrectable units that the unit met of a page's descriptor and page table entries as it ended a move (R266). -/
def noteMoveUe (s : State) (m : KvMove) : State :=
  let r := winWords s m.window
  notePage (noteRange s (pdAddr r m.page) 64 (wJob r) 255) r m.page 255

/-- Those that it met as it ended a spill: of the ring too. -/
def noteSpillUe (s : State) (m : KvMove) : State :=
  noteRange (noteMoveUe s m) (ringAddr s m.pool (ringTail s m.pool)) 4 (wJob (winWords s m.window)) 255

/-- The unit can no longer write what the end of a move writes of its page. -/
def moveLost (s : State) (m : KvMove) : Bool :=
  let r := winWords s m.window
  decide (pdBad s r m.page ≠ 0) || (l3Addr s (wJob r) (pageVa r m.page)).isNone

/-- KV_SPILL_START (R291, R292, R294): after demand returns, a spill of the oldest eligible page starts where one is due. -/
def execKvSpillStart (pool : Fin 64) (s : State) : Host.Outcome State Fault Refusal :=
  if unitRuns s pool && !demandDue s pool && spillDue s pool then
    match oldestPage s pool with
    | none => .next (lookPages s pool)
    | some x =>
      let s1 := lookPages s pool
      let s0 := { s1 with mmu := { s1.mmu with spilling := mset 0 s1.mmu.spilling pool.val 1 } }
      .next (endSpilling (startSpill s0 pool x.2.1 x.2.2) pool)
  else .next s

/-- KV_SPILL_DONE (R292, R297): the page is in the tail, or the spill failed and the page stays; so it does where the unit can no
longer write what the page's end needs (log entry 153). -/
def execKvSpillDone (window : BitVec 14) (page : BitVec 22) (s : State) : Host.Outcome State Fault Refusal :=
  match moveOf s window.toNat page.toNat with
  | none => .next s
  | some m =>
    let r := winWords s m.window
    if m.ret || !fnReady s 7 then .next s
    else match m.fail with
    | some code =>
      .next (bump (tailFault (setPd (dropMove s m) r m.page 3 0) m.pool code) .mmuKvcnt1_spill_failed)
    | none =>
      if m.left ≠ 0 ∨ m.begun = false then .next s
      else if moveLost s m || decide (pushBad s m.pool ≠ 0) then
        .next (bump (tailFault (setPd (dropMove (noteSpillUe s m) m) r m.page 3 0) m.pool 0x02) .mmuKvcnt1_spill_failed)
      else
      let t := pageTail r m.page
      let s1 := setL3 (dropMove (fixPage s r m.page) m) r m.page (l3Entry 2 t)
      .next (bumpW (pushFrame (setPd (setPd s1 r m.page 4 t) r m.page 3 2) m.pool m.frame) .mmuKvcnt0_spills)

/-- The return that a free credit goes to (R294): the oldest demand return, or, where no spill is due, the first queued. -/
def nextReturn (s : State) (p : Nat) : Option KvReq :=
  match s.mmu.reqs.find? (fun q => q.pool == p && q.demand) with
  | some q => some q
  | none =>
    if spillDue s p && (oldestPage s p).isSome then none else s.mmu.reqs.find? (fun q => q.pool == p)

/-- The unit looks for a page to spill before it gives a credit to a return that is no demand (R294). -/
def lookFirst (s : State) (p : Nat) : State :=
  if !s.mmu.reqs.any (fun q => q.pool == p && q.demand) && spillDue s p then lookPages s p else s

/-- KV_RETURN_START (R293, R294): the return takes a frame and starts, or waits for one. -/
def execKvReturnStart (pool : Fin 64) (s : State) : Host.Outcome State Fault Refusal :=
  if unitRuns s pool then
    let s1 := lookFirst s pool
    match nextReturn s1 pool with
    | none => .next s1
    | some q =>
      if get s1 .mmuPoolb_free pool = 0 then
        if q.waits then .next s1
        else .next (waitMore { s1 with mmu := { s1.mmu with
          spilling := mset 0 s1.mmu.spilling pool.val 1
          reqs := s1.mmu.reqs.map (fun x => if x = q then { x with waits := true } else x) } } pool)
      else .next (startReturn s1 q)
  else .next s

/-- A response that the descriptor waits for brings data to the page of a move, which holds them (R295). -/
def awaitsInto (s : State) (c : Nat) (d : Desc) (m : KvMove) : Bool :=
  s.xpt.ctxs.any (fun p => (p.2.unacked ++ p.2.queue).any (fun u => decide (u.owner = .dma c d.id) && isRequest u &&
    (match dstSide d (dstAt d u.at_) with
      | some (.va a) => onPage s m d.job a (leNat u.pkt.data)
      | _ => false)))

/-- A KV page operation waits for its next page: a hint or a close of it (R290). -/
def opWaits (d : Desc) (m : KvMove) : Bool :=
  d.kind == 5 && decide (d.w 0 56 54 = 2 ∨ d.w 0 56 54 = 3) && decide (d.left = 1) && kvWindow d == m.window &&
  d.w 0 48 27 + kvDone d == m.page

/-- The tasks that wait on a page: its readers, the hints and closes of it, and descriptors that its move holds, those among them whose
data a response brings there (R295, R297). -/
def waitersOf (s : State) (m : KvMove) : List (Nat × Desc) :=
  (List.range 192).flatMap (fun c => ((coreOf s c).flight.filter (fun d =>
    s.mmu.holders.contains (m.window, m.page, c, d.id) ||
    opWaits d m ||
    ((d.kind == 1 || d.kind == 2 || d.kind == 3 || d.kind == 6) &&
      ((!d.moved && descOnPage s d m) || awaitsInto s c d m)))).map
    (fun d => (c, d)))

/-- The job slots whose next instruction is to be fetched from the page: its move holds the fetch (R283, R295). -/
def fetchersOf (s : State) (m : KvMove) : List (Nat × Slot) :=
  (List.range 192).flatMap (fun c => (bothSlots.filter (fun sl => match taskOf s c sl with
    | none => false
    | some t => t.wait.isNone && (lineOf s c sl).isNone && onPage s m t.launch.job (pcOf t) 16)).map (fun sl => (c, sl)))

/-- A return fails: the page stays in the tail, its frame goes back, and its waiters abort (R297). -/
def returnFails (s : State) (m : KvMove) (code : Nat) : State :=
  let s0 := setPd (dropMove s m) (winWords s m.window) m.page 3 2
  let s1 := if m.begun then pushFrame s0 m.pool m.frame else s0
  let s2 := bump (tailFault s1 m.pool code) .mmuKvcnt1_return_failed
  let s3 := each (waitersOf s m) (fun s x => if (flightOf s x.1 x.2.id).isSome then failDesc s x.1 x.2 code 0 else s) s2
  each (fetchersOf s m) (fun s x => if (taskOf s x.1 x.2).isSome then abortTask s x.1 x.2 code else s) s3

/-- KV_RETURN_DONE (R293, R297): the page is resident, or the return failed and its waiters abort; it fails too where the unit can no
longer write what the page's end needs (log entry 153). -/
def execKvReturnDone (window : BitVec 14) (page : BitVec 22) (s : State) : Host.Outcome State Fault Refusal :=
  match moveOf s window.toNat page.toNat with
  | none => .next s
  | some m =>
    let r := winWords s m.window
    if !m.ret || !fnReady s 7 then .next s
    else match m.fail with
      | some code => .next (returnFails s m code)
      | none =>
        if m.left ≠ 0 then .next s
        else if moveLost s m then .next (returnFails (noteMoveUe s m) m 0x02)
        else
          let s1 := setL3 (dropMove (seenPage (fixPage s r m.page) m.window m.page) m) r m.page (l3Entry 0 m.frame)
          .next (bumpW (setPd (setPd s1 r m.page 3 0) r m.page 5 s1.time.tide) .mmuKvcnt0_returns)

end Sys2Proof.Machine
end

