-- ==== Sys2Proof/Machine/Xpt.lean ====
section
/-!
DEFINITION. What arrives for the transport (R12, R16, R17, R55, R318 to R333, R418 to R423, R449, R467): Molind packets,
board-class packets and RoCEv2 packets, acknowledgements, timeouts, forwarding, transport contexts and regions.
-/
namespace Sys2Proof.Machine

/-! ### Failures of what a context carries (R324, R330, R332, R333) -/

/-- The owner of a packet fails with a code (R297, R324, R330, R369). -/
def failOwner (s : State) (o : Owner) (code : Nat) : State :=
  match o with
  | .dma c id => match flightOf s c id with
    | none => s
    | some d => failDesc s c d code (descAddr d)
  | .fire id => match s.col.fires.find? (fun f => f.id == id) with
    | none => s
    | some f => match template s f.slot with
      | none => s
      | some r => fireFail s r f.step code
  | .move w p => failMove s w p code
  | .none => s

/-- A packet of a context that belongs to somebody who can fail. -/
def ownedPacket (u : Unacked) : Bool := decide (u.owner ≠ .none)

/-- The first descriptor in flight on a context, by what it names or by its packets. -/
def ctxDesc (s : State) (x : Nat) : Option (Nat × Desc) :=
  s.cores.findSome? (fun k => (k.2.flight.find? (fun d => decide (d.ctx = some x) ||
    ownsPackets (ctxOf s x) (fun o => decide (o = .dma k.1 d.id)))).map (fun d => (k.1, d)))

/-- All that is in flight on a context fails with a code; the first argument bounds it. -/
def failAll : Nat → State → Nat → Nat → State
  | 0, s, _, _ => s
  | n + 1, s, x, code =>
    match ctxDesc s x with
    | some (c, d) => failAll n (failDesc s c d code (descAddr d)) x code
    | none => match ((ctxOf s x).unacked ++ (ctxOf s x).queue).find? ownedPacket with
      | none => s
      | some u => failAll n (orphan (failOwner s u.owner code) (fun o => decide (o = u.owner))) x code

/-- The bound of `failAll`. -/
def failBound (s : State) (x : Nat) : Nat :=
  (s.cores.map (fun k => k.2.flight.length)).sum + (ctxOf s x).unacked.length + (ctxOf s x).queue.length + 1

/-- A context that exhausts its retries, or meets a remote access error (R324), enters the error state with the code; all that is in
flight on it fails. Sends without a context have no such state. -/
def failCtx (s : State) (x code : Nat) : State :=
  let s1 := if x < noCtx then put (put s .xptCtx0_state 2 x) .xptCtx0_code code x else s
  let s2 := failAll (failBound s1 x) s1 x code
  setCtx s2 x { ctxOf s2 x with unacked := [], queue := [], retries := 0, psn := [] }

/-- A RoCEv2 message that was refused is forgotten (R327). -/
def dropMark (s : State) (x : Nat) : State := setPart s none [3, x]

/-- The context that a packet's src_ctx names: 0xFFFF stands for none. -/
def ctxNum (b : BitVec 16) : Nat := if b = 0xFFFF then noCtx else b.toNat

/-! ### XPT_CTX0 (R333) -/

/-- valid is written to 0: what is in flight aborts with code 0x05 and the context is idle. -/
def ctxInvalidate (s : State) (x : Nat) : State :=
  if flag s .xptCtx0_valid x then
    let s1 := dropMark (failAll (failBound s x) s x 0x05) x
    put (put (setCtx s1 x CtxSt.init) .xptCtx0_valid 0 x) .xptCtx0_state 0 x
  else s

/-- valid is written to 1: the context is ready. -/
def ctxValidate (s : State) (x : Nat) : State :=
  if flag s .xptCtx0_valid x then s else put (put (setCtx (dropMark s x) x CtxSt.init) .xptCtx0_valid 1 x) .xptCtx0_state 1 x

/-- A write of `XPT_CTX0` of context `x`. -/
def ctx0Write (s : State) (x v : Nat) : State :=
  if flag s .xptCtx0_valid x then (if tst v 0 then s else ctxInvalidate s x)
  else
    let s1 := put (put (put (put s .xptCtx0_type (bitsOf v 1 1) x) .xptCtx0_job (bitsOf v 13 2) x) .xptCtx0_port (bitsOf v 19 14) x)
      .xptCtx0_ports_m1 (bitsOf v 21 20) x
    let s2 := put (put s1 .xptCtx0_epsn (bitsOf v 57 34) x) .xptCtx0_dscp (bitsOf v 63 58) x
    if tst v 0 then ctxValidate s2 x else s2

/-- XPT_CTX_INVALIDATE (R333). -/
def execXptCtxInvalidate (ctx : BitVec 16) (s : State) : Host.Outcome State Fault Refusal :=
  .next (fn5Write s (fun s => ctxInvalidate s ctx.toNat))

/-- XPT_CTX_VALIDATE (R333). -/
def execXptCtxValidate (ctx : BitVec 16) (s : State) : Host.Outcome State Fault Refusal :=
  .next (fn5Write s (fun s => ctxValidate s ctx.toNat))

/-! ### Replies (R327, R418) -/

/-- The transport version of a reply: that of the routing entry toward its destination (R419); of the request where none reaches
it (log entry 45). -/
def replyVersion (s : State) (h : MolHdr) : BitVec 2 :=
  let v := entryVersion (entryFor s h.job.toNat h.src.toNat)
  if v = 0 then h.version else BitVec.ofNat 2 v

/-- A reply leaves on the port that its request arrived on, to the module that sent it (log entry 45). -/
def replyOn (s : State) (p op : Nat) (h : MolHdr) (addr : Nat) (data : Bytes) : State :=
  let r : MolHdr := { h with
    version := replyVersion s h, desc := false, hops := 0, dst := h.src, src := BitVec.ofNat 12 (ownModule s)
    length := BitVec.ofNat 13 data.length, key := 0, addr := BitVec.ofNat 64 addr }
  sendPacket s ⟨p, op, (hopOut p r).getD r, data⟩

/-- An acknowledgement. -/
def ack (s : State) (p : Nat) (h : MolHdr) : State := replyOn s p 0xC h 0 []

/-- A NAK for remote access error, with the abort code of the sender's task (log entry 45). -/
def nakRemote (s : State) (p : Nat) (h : MolHdr) (code : Nat) : State := replyOn s p 0xD h 0 [BitVec.ofNat 8 code]

/-! ### Forwarding (R22, R419, R422, R423) -/

/-- The module forwards: FN5 and FN8 work, and hold the structure in force. -/
def forwards (s : State) : Bool :=
  fnReady s 5 && fnReady s 8 && !tst (get s .shpStat_stale_fn) 5 && !tst (get s .shpStat_stale_fn) 8

/-- A packet for another module that arrived on port `p` goes on toward it, or is dropped and counted. Of its header only dst_module, job,
desc and hops are read (R419): the ports of an entry are shared out by arrival port (log entry 163). -/
def forward (s : State) (p op : Nat) (h : MolHdr) (data : Bytes) : State :=
  if !forwards s then s
  else
    let e := entryFor s h.job.toNat h.dst.toNat
    let all := stripe (entryPort e) (entryMore e)
    if entryVersion e = 0 ∨ all.all (dataPort s) = false then bump s .lnkDrop_unreachable
    else
      let port := all.getD (p % max 1 all.length) (entryPort e)
      match hopOut port h with
      | none => bump s .lnkDrop_shape
      | some r => sendPacket s ⟨port, op, r, data⟩

/-! ### Arrival -/

/-- The board-class opcodes. -/
def boardOp (op : Nat) : Bool := op == 0x8 || op == 0x9 || op == 0xA

/-- The opcodes of a get request and a board read, which are answered with what they ask for. -/
def readOp (op : Nat) : Bool := op == 0x2 || op == 0x9

/-- The transport version is one that the module supports (R419, `IDN_VERSIONS`). -/
def versionOk (s : State) (v : Nat) : Bool := decide (1 ≤ v) && tst (get s .idnVersions_transport_versions) (v - 1)

/-- The packet as it was laid on the link. -/
def pktBytes (op : Nat) (h : MolHdr) (data : Bytes) : Bytes := padTo8 (hdrBytes op h ++ data)

/-- A packet that the flits of a port have brought is taken up by its row (R402; log entry 157). -/
def takePkt (s : State) (p op : Nat) (h : MolHdr) (data : Bytes) : State :=
  let l := linkOf s p
  if l.pkts.contains (pktBytes op h data) then setLink s p { l with pkts := l.pkts.erase (pktBytes op h data) } else s

/-- The job of an arrival that is held back. -/
def heldJob (s : State) : Instr → Option Nat
  | .collectiveSendRx _ h _ _ => some h.job.toNat
  | .collectiveCounterAddRx _ h _ => some h.job.toNat
  | .molindPutRx _ h _ _ => some h.job.toNat
  | .molindGetRequestRx _ h _ => some h.job.toNat
  | .molindFlagWriteRx _ h _ => some h.job.toNat
  | .boardWriteRx _ h _ => some h.job.toNat
  | .boardReadRx _ h _ => some h.job.toNat
  | .roceRdmaWriteRx _ h _ _ _ => some (get s .xptCtx0_job (h.qpn.toNat - 0x10000))
  | .roceRdmaReadRx _ h => some (get s .xptCtx0_job (h.qpn.toNat - 0x10000))
  | _ => none

/-- The flow of an arrival that is held back: its sender's module and context, and its port. -/
def heldFlow : Instr → Option (Nat × Nat × Nat)
  | .collectiveSendRx p h _ _ => some (h.src.toNat, h.srcCtx.toNat, p.val)
  | .collectiveCounterAddRx p h _ => some (h.src.toNat, h.srcCtx.toNat, p.val)
  | .molindPutRx p h _ _ => some (h.src.toNat, h.srcCtx.toNat, p.val)
  | .molindGetRequestRx p h _ => some (h.src.toNat, h.srcCtx.toNat, p.val)
  | .molindFlagWriteRx p h _ => some (h.src.toNat, h.srcCtx.toNat, p.val)
  | .boardWriteRx p h _ => some (h.src.toNat, h.srcCtx.toNat, p.val)
  | .boardReadRx p h _ => some (h.src.toNat, h.srcCtx.toNat, p.val)
  | _ => none

def holdBack (s : State) (i : Instr) : State := { s with col := { s.col with held := s.col.held ++ [i] } }

/-- Arrivals of a job wait for credits: in eclipse (R55), and behind others of the job that wait. -/
def waitsForJob (s : State) (job : Nat) : Bool :=
  (resident s job && eclipsed s job) || s.col.held.any (fun i => decide (heldJob s i = some job))

/-- Another packet of the same flow waits. -/
def waitsForFlow (s : State) (p : Nat) (h : MolHdr) : Bool :=
  s.col.held.any (fun i => decide (heldFlow i = some (h.src.toNat, h.srcCtx.toNat, p)))

/-- What becomes of an arriving Molind packet before its own rules apply: dropped and counted, or forwarded. A board-class packet on a
rack or global port that is not placed falls under R12 and R16 alike: it is counted under R12 only (log entry 164). Such a packet
on a front port is counted and goes no further (R16), and a collective one is answered with a NAK too (R362). -/
def arriveMol (s : State) (p op : Nat) (h : MolHdr) (data : Bytes) (body : State → State) : State :=
  if isFront p && inService s p then
    (if boardOp op then bump s .ctlDrop_board_off_tray else if op = 0x5 then nakRemote (bump s .colDrop_refused) p h 0x06 else s)
  else if !isModulePort p || !inService s p then s
  else if !dataPort s p then bump s .ctlDrop_unplaced
  else if boardOp op && !isTray p then bump s .ctlDrop_board_off_tray
  else if h.dst.toNat ≠ ownModule s then forward s p op h data
  else if !versionOk s h.version.toNat then bump s .lnkDrop_version
  else body s

/-- A packet that answers one of this module's; Doze holds it back until Run as it does every Molind packet (R449). -/
def arriveAnswer (s : State) (p op : Nat) (h : MolHdr) (data : Bytes) (self : Instr) (body : State → State) : State :=
  arriveMol s p op h data (fun s => onlyIf (fnReady s 5) (fun s => if dozing s then holdBack s self else body s) s)

/-! ### Flows: the order of what a context sends (R318, R418; log entries 113 and 159) -/

def Flow.is (p : Nat) (h : MolHdr) (f : Flow) : Bool := f.src == h.src.toNat && f.ctx == h.srcCtx.toNat && f.port == p

def flowOf (s : State) (p : Nat) (h : MolHdr) : Option Flow := s.xpt.flows.find? (Flow.is p h)

def setFlow (s : State) (p : Nat) (h : MolHdr) (f : Flow) : State :=
  { s with xpt := { s.xpt with flows := s.xpt.flows.filter (fun g => !Flow.is p h g) ++ [f] } }

/-- The distance of numbers within which a packet is a repeat, or one after a gap; farther away its sender numbers anew. -/
def flowReach : Nat := 2 ^ 16

/-- The number of a packet less that expected. -/
def psnGap (f : Flow) (h : MolHdr) : Nat := (h.psn.toNat + 2 ^ 24 - f.next % 2 ^ 24) % 2 ^ 24

/-- The packet is the next of its flow, or begins one. -/
def inTurn (s : State) (p : Nat) (h : MolHdr) : Bool :=
  match flowOf s p h with
  | none => true
  | some f => decide (psnGap f h = 0 ∨ flowReach < psnGap f h ∧ psnGap f h < 2 ^ 24 - flowReach)

/-- The flow after a packet in turn; a code is kept for one that was refused or dropped. A packet that waits for its turn next is
taken up again. -/
def flowNext (s : State) (p : Nat) (h : MolHdr) (bad : Option Nat) : State :=
  let n := (h.psn.toNat + 1) % 2 ^ 24
  let f0 : Flow := ⟨h.src.toNat, h.srcCtx.toNat, p, h.psn.toNat, false, [], []⟩
  let f := match flowOf s p h with
    | none => f0
    | some f => if psnGap f h = 0 then f else f0
  let kept := f.bad.filter (fun b => decide ((n + 2 ^ 24 - b.1) % 2 ^ 24 ≤ flowReach))
  let s1 := each (f.wait.filter (fun w => w.1 == n)) (fun s w => holdBack s w.2) s
  setFlow s1 p h { f with
    next := n, nak := false, wait := f.wait.filter (fun w => w.1 != n), bad := kept ++ (bad.map (fun c => (h.psn.toNat, c))).toList }

/-- The bitmap of a selective acknowledgement: the numbers after the last one in turn that have arrived (R418). -/
def flowMap (f : Flow) : Nat :=
  ((List.range 64).map (fun i => if f.wait.any (fun w => w.1 == (f.next + i) % 2 ^ 24) then 2 ^ i else 0)).sum

/-- A packet after a gap: version 1 asks once for the one missing and drops it; version 2 keeps it and says what has arrived (R418). -/
def flowGap (s : State) (p : Nat) (h : MolHdr) (f : Flow) (self : Instr) : State :=
  let h1 := { h with psn := BitVec.ofNat 24 (f.next + 2 ^ 24 - 1) }
  if h.version.toNat = 2 then
    let g := if psnGap f h < 64 then { f with wait := f.wait.filter (fun w => w.1 != h.psn.toNat) ++ [(h.psn.toNat, self)] } else f
    let s1 := setFlow s p h g
    replyOn s1 p 0xF h1 0 (toLe 8 (flowMap g))
  else if f.nak then s
  else replyOn (setFlow s p h { f with nak := true }) p 0xE h1 0 []

/-- What a packet in turn has come to. -/
def flowDone (p : Nat) (h : MolHdr) (self : Instr) (x : State × Arrive) : State :=
  match x.2 with
  | .taken => flowNext (ack x.1 p h) p h none
  | .served => flowNext x.1 p h none
  | .refused code => flowNext (nakRemote x.1 p h code) p h (some code)
  | .dropped => flowNext x.1 p h (some 0)
  | .held => holdBack x.1 self

/-- A repeat: its answer is given again, and a read is carried out again. -/
def flowAgain (s : State) (p op : Nat) (h : MolHdr) (f : Flow) (self : Instr) (body : State → State × Arrive) : State :=
  match f.bad.find? (fun b => b.1 == h.psn.toNat) with
  | some b => if b.2 = 0 then s else nakRemote s p h b.2
  | none =>
    if readOp op then
      let x := body s
      match x.2 with
      | .refused code => nakRemote x.1 p h code
      | .held => holdBack x.1 self
      | _ => x.1
    else ack s p h

/-- What becomes of a packet that asks for something before its own rules apply: refused while FN5 is in reset, held back, or put in
its place among those of its flow. -/
def arriveAsk (s : State) (p op : Nat) (h : MolHdr) (data : Bytes) (self : Instr) (body : State → State × Arrive) : State :=
  arriveMol s p op h data (fun s =>
    if !fnReady s 5 then nakRemote s p h 0x06
    else if dozing s || (!boardOp op && waitsForJob s h.job.toNat) || waitsForFlow s p h then holdBack s self
    else if inTurn s p h then flowDone p h self (body s)
    else match flowOf s p h with
      | none => s
      | some f => if psnGap f h ≤ flowReach then flowGap s p h f self else flowAgain s p op h f self body)

/-- MOLIND_PACKET_FORWARD (R22, R422, R423): a packet for another module. -/
def execMolindPacketForward (p : Port) (op : BitVec 4) (h : MolHdr) (data : Bytes) (s : State) :
    Host.Outcome State Fault Refusal :=
  .next (if h.dst.toNat = ownModule s then s
    else arriveMol (takePkt s p.val op.toNat h data) p.val op.toNat h data id)

/-! ### Regions (R325 to R329) -/

/-- The generation of a region (R325, R326; log entry 3). -/
def regionGen (s : State) (r : Nat) : Nat :=
  (Config.regionStart (s.xpt.seed * 16384 + r) - 1 + mget 0 s.xpt.raises r) % 65535 + 1

def raiseGen (s : State) (r : Nat) : State :=
  { s with xpt := { s.xpt with raises := mset 0 s.xpt.raises r (mget 0 s.xpt.raises r + 1) } }

def regValid (s : State) (r : Nat) : Bool := flag s .xptReg0_valid r
def regJob (s : State) (r : Nat) : Nat := bitsOf (get s .xptReg0_word0 r) 25 14
def regWrite (s : State) (r : Nat) : Bool := tst (get s .xptReg0_word0 r) 26
def regRead (s : State) (r : Nat) : Bool := tst (get s .xptReg0_word0 r) 27
def regPort (s : State) (r g : Nat) : Bool := tst (get s .xptReg0_word0 r) (28 + g)
def regBase (s : State) (r : Nat) : Nat := get s .xptReg1_word r
def regLen (s : State) (r : Nat) : Nat := get s .xptReg2_word r
def regTc (s : State) (r : Nat) : Nat := bitsOf (get s .xptReg3_word r) 7 0
def regCore (s : State) (r : Nat) : Nat := bitsOf (get s .xptReg3_word r) 15 8
def regTcEn (s : State) (r : Nat) : Bool := tst (get s .xptReg3_word r) 16

/-- An access that a packet asks for: its port and job, the key it presents, the offset in the region (none below its base),
the bytes, and whether it writes. -/
structure RegAccess where
  port  : Nat
  job   : Nat
  key   : Nat
  off   : Option Nat
  len   : Nat
  write : Bool
  deriving DecidableEq, Repr

def RegAccess.region (a : RegAccess) : Nat := a.key % 16384
def RegAccess.gen (a : RegAccess) : Nat := a.key / 65536

/-- Where an access lies in its job's space. -/
def RegAccess.va (a : RegAccess) (s : State) : Nat := regBase s a.region + a.off.getD 0

/-- Why an access is refused apart from translation, as `XPT_REFUSE0.reason` numbers it; none where R327 lets it be placed. -/
def regRefuse (s : State) (a : RegAccess) : Option Nat :=
  let r := a.region
  if bitsOf a.key 15 14 ≠ 0 ∨ regValid s r = false then some 1
  else if a.gen ≠ regionGen s r then some 2
  else if a.job ≠ regJob s r then some 3
  else if a.off.isNone ∨ regLen s r < a.off.getD 0 + a.len then some 4
  else if (if a.write then regWrite s r else regRead s r) = false then some 5
  else if regPort s r (portGroup a.port) = false then some 6
  else none

/-- Why an access is refused (R327): by its region, or by translation. -/
def accessRefuse (s : State) (a : RegAccess) : Option Nat :=
  match regRefuse s a with
  | some r => some r
  | none => if (rangeBad s 255 a.job (a.va s) a.len a.write).isSome then some 7 else none

/-- A move in progress holds an access that its region lets in (R283, R295). -/
def accessMoving (s : State) (a : RegAccess) : Bool := (regRefuse s a).isNone && rangeMoving s a.job (a.va s) a.len

/-- What the translation of a refused access met is noted, and the code of its NAK: 0x02 where a page table read is uncorrectable
(R265, R266, R282), 0x06 for every other refusal (R327). -/
def refuseCode (s : State) (a : RegAccess) (reason : Nat) : State × Nat :=
  if reason = 7 then noteUntranslated s a.job (a.va s) a.len a.write else (s, 0x06)

/-- A refused access is counted, and the first is recorded (R327). -/
def noteRefuse (s : State) (a : RegAccess) (reason shown : Nat) : State :=
  let s1 := bump s .xptRegcnt_refused
  if flag s1 .xptRefuse0_valid then s1
  else
    let s2 := put (put (put (put s1 .xptRefuse0_region a.region) .xptRefuse0_gen a.gen) .xptRefuse0_reason reason)
      .xptRefuse0_port a.port
    put (put (put s2 .xptRefuse0_job a.job) .xptRefuse0_valid 1) .xptRefuse1_offset shown

/-- A message has arrived: its region's counter rises (R328). -/
def messageArrived (s : State) (r : Nat) : State := if regTcEn s r then tcAdd s (regCore s r) (regTc s r) 1 else s

/-- A refusal is remembered until all of its message has come (R327). -/
def keepRefused (s : State) (key : List Nat) (len : Option Nat) (n : Nat) : State := (notePart s key len n true).1

/-- The bytes of a packet are placed: its region's counter rises once all of its message is (R328). -/
def putPlaced (s : State) (region : Nat) (key : List Nat) (len : Option Nat) (n : Nat) : State :=
  let x := notePart s key len n false
  if x.2 then messageArrived x.1 region else x.1

/-- A write of a packet is placed, refused with the code of its NAK, or held by a move (R320, R327, R328, R267, R271, R295). The
packet tells how long its message is where it is the last one. -/
def placeWrite (s : State) (a : RegAccess) (key : List Nat) (len : Option Nat) (shown : Nat) (b : Bytes) : State × Arrive :=
  if (msgPart s key).refused then (keepRefused s key len b.length, .refused 0x06)
  else if accessMoving s a then (s, .held)
  else match accessRefuse s a with
    | some r =>
      let x := refuseCode s a r
      (keepRefused (noteRefuse x.1 a r shown) key len b.length, .refused x.2)
    | none =>
      let w := writeVa s a.job 255 1 (a.va s) b
      if w.2 = 0x02 then (keepRefused w.1 key len b.length, .refused 0x02)
      else if w.2 ≠ 0 then (keepRefused (noteRefuse w.1 a 7 shown) key len b.length, .refused 0x06)
      else (putPlaced w.1 a.region key len b.length, .taken)

/-- Bytes that a packet asks for: read, refused with the code of the NAK, or held by a move. -/
def placeRead (s : State) (a : RegAccess) (shown : Nat) : State × Arrive × Bytes :=
  if accessMoving s a then (s, .held, [])
  else match accessRefuse s a with
    | some r =>
      let x := refuseCode s a r
      (noteRefuse x.1 a r shown, .refused x.2, [])
    | none =>
      let x := readVa s a.job 255 1 (a.va s) a.len
      if x.2.1 = 0x02 ∨ x.2.1 = 0x03 then (x.1, .refused x.2.1, [])
      else if x.2.1 ≠ 0 then (noteRefuse x.1 a 7 shown, .refused 0x06, [])
      else (x.1, .served, x.2.2)

/-- What identifies the message of a put: its sender's module and context, and the message of the packet's operand (log entry
165). -/
def putKey (h : MolHdr) (msg : BitVec 32) : List Nat := [2, h.src.toNat, h.srcCtx.toNat, msg.toNat]

/-- The length of a put's message, which its last packet tells (R328; log entry 165). -/
def putLen (m : PutMark) (n : Nat) : Option Nat := if m.last then some (m.at_.toNat + n) else none

/-- What identifies the message of a flag write, which is one packet. -/
def flagKey (h : MolHdr) : List Nat := [4, h.src.toNat, h.srcCtx.toNat, h.psn.toNat]

def molAccess (p : Nat) (h : MolHdr) (n : Nat) (write : Bool) : RegAccess :=
  ⟨p, h.job.toNat, h.key.toNat, some h.addr.toNat, n, write⟩

/-- A put arrives (R318, R320, R327, R328). -/
def rxPut (p : Port) (h : MolHdr) (m : PutMark) (data : Bytes) (s : State) : State :=
  arriveAsk s p.val 0x1 h data (.molindPutRx p h m data)
    (fun s => placeWrite s (molAccess p.val h data.length true) (putKey h m.msg) (putLen m data.length) h.addr.toNat data)

/-- MOLIND_PUT_RX. -/
def execMolindPutRx (p : Port) (h : MolHdr) (m : PutMark) (data : Bytes) (s : State) : Host.Outcome State Fault Refusal :=
  .next (rxPut p h m data (takePkt s p.val 0x1 h data))

/-- A flag write arrives (R311, R320, R327, R328): one message of 8 bytes. -/
def rxFlag (p : Port) (h : MolHdr) (value : BitVec 64) (s : State) : State :=
  arriveAsk s p.val 0x4 h (toLe 8 value.toNat) (.molindFlagWriteRx p h value)
    (fun s => placeWrite s (molAccess p.val h 8 true) (flagKey h) (some 8) h.addr.toNat (toLe 8 value.toNat))

/-- MOLIND_FLAG_WRITE_RX. -/
def execMolindFlagWriteRx (p : Port) (h : MolHdr) (value : BitVec 64) (s : State) : Host.Outcome State Fault Refusal :=
  .next (rxFlag p h value (takePkt s p.val 0x4 h (toLe 8 value.toNat)))

/-- A get request arrives (R310, R320, R327): responses of up to 4,096 bytes, each with the address of its bytes. -/
def rxGet (p : Port) (h : MolHdr) (len : BitVec 31) (s : State) : State :=
  arriveAsk s p.val 0x2 h (toLe 4 len.toNat) (.molindGetRequestRx p h len) (fun s =>
    let x := placeRead s (molAccess p.val h len.toNat false) h.addr.toNat
    match x.2.1 with
    | .served => (each (cuts 4096 x.2.2) (fun s c => replyOn s p.val 0x3 h (h.addr.toNat + c.1) c.2) x.1, .served)
    | a => (x.1, a))

/-- MOLIND_GET_REQUEST_RX. -/
def execMolindGetRequestRx (p : Port) (h : MolHdr) (len : BitVec 31) (s : State) : Host.Outcome State Fault Refusal :=
  .next (rxGet p h len (takePkt s p.val 0x2 h (toLe 4 len.toNat)))

/-! ### Board class (R16, R17, R320, R467) -/

/-- The offset that a board address names in this module; none for another slot's. -/
def boardOff (s : State) (a : Nat) : Option Nat := if a / 2 ^ 46 = get s .ctlPlace_slot then some (a % 2 ^ 46) else none

/-- Why a board-class access is refused, as the sender's abort code; 0 where it is carried out (R17). -/
def boardBad (s : State) (a n : Nat) : Nat :=
  match boardOff s a with
  | none => 0x01
  | some o =>
    if !(inHbm s o && inHbm s (o + n - 1)) && !(inSram o && inSram (o + n - 1)) then 0x01
    else if !fnReady s (memFn o) || !fnReady s (memFn (o + n - 1)) then 0x06
    else 0

/-- A board-class write arrives (R16, R17, R319, R320). -/
def rxBoardWrite (p : Port) (h : MolHdr) (data : Bytes) (s : State) : State :=
  arriveAsk s p.val 0x8 h data (.boardWriteRx p h data) (fun s =>
    let bad := boardBad s h.addr.toNat data.length
    if bad ≠ 0 then (s, .refused bad)
    else
      let w := writeOff s h.job.toNat 255 (h.addr.toNat % 2 ^ 46) data
      (w.1, if w.2 = 0 then .taken else .refused (if w.2 = 0x03 then 0x06 else w.2)))

/-- BOARD_WRITE_RX. -/
def execBoardWriteRx (p : Port) (h : MolHdr) (data : Bytes) (s : State) : Host.Outcome State Fault Refusal :=
  .next (rxBoardWrite p h data (takePkt s p.val 0x8 h data))

/-- A board-class read arrives (R16, R17, R266, R320). -/
def rxBoardRead (p : Port) (h : MolHdr) (len : BitVec 13) (s : State) : State :=
  arriveAsk s p.val 0x9 h (toLe 8 len.toNat) (.boardReadRx p h len) (fun s =>
    let bad := boardBad s h.addr.toNat len.toNat
    if bad ≠ 0 then (s, .refused bad)
    else
      let x := readOff s h.job.toNat 255 (h.addr.toNat % 2 ^ 46) len.toNat
      if x.2.1 ≠ 0 then (x.1, .refused x.2.1) else (replyOn x.1 p.val 0xA h h.addr.toNat x.2.2, .served))

/-- BOARD_READ_RX. -/
def execBoardReadRx (p : Port) (h : MolHdr) (len : BitVec 13) (s : State) : Host.Outcome State Fault Refusal :=
  .next (rxBoardRead p h len (takePkt s p.val 0x9 h (toLe 8 len.toNat)))

/-! ### Acknowledgements, responses and NAKs for what this module sent -/

/-- A packet of the context left on the port with the number. -/
def sentAs (p psn : Nat) (u : Unacked) : Bool := u.pkt.port == p && u.psn == psn

/-- The packets of a port up to a number, but for requests, which their responses end. -/
def ackedBy (p psn : Nat) (u : Unacked) : Bool := u.pkt.port == p && psnLe u.psn psn && !isRequest u

/-- An acknowledgement arrives: the context's packets on the port up to psn are acknowledged (R313, R418). -/
def rxAck (p : Port) (h : MolHdr) (s : State) : State :=
  arriveAnswer s p.val 0xC h [] (.molindAckRx p h) (fun s => ackWhere s (ctxNum h.srcCtx) (ackedBy p.val h.psn.toNat))

/-- MOLIND_ACK_RX. -/
def execMolindAckRx (p : Port) (h : MolHdr) (s : State) : Host.Outcome State Fault Refusal :=
  .next (rxAck p h (takePkt s p.val 0xC h []))

/-- The packets of a context for which a test holds are no longer waited for. -/
def forget (s : State) (x : Nat) (f : Unacked → Bool) : State :=
  setCtx s x { ctxOf s x with unacked := (ctxOf s x).unacked.filter (fun u => !f u) }

/-- A NAK with an abort code arrives (R17, R266, R324, R327, R330, R332, R369): the task or fire that sent the packet ends with the code,
0 being taken as 0x06 (log entry 206). A remote access error puts the context into the error state with code 0x06, and all that is in
flight on it ends. -/
def rxNakRemote (p : Port) (h : MolHdr) (code : BitVec 8) (s : State) : State :=
  arriveAnswer s p.val 0xD h [code] (.molindNakRemoteRx p h code) (fun s =>
    let x := ctxNum h.srcCtx
    let c := if code = 0 then 0x06 else code.toNat
    match (ctxOf s x).unacked.find? (sentAs p.val h.psn.toNat) with
    | none => s
    | some u =>
      let s1 := failOwner (forget s x (sentAs p.val h.psn.toNat)) u.owner c
      if c = 0x06 ∧ x < noCtx ∧ u.owner ≠ .none then failCtx s1 x 0x06
      else pullQueue x (ctxOf s1 x).queue.length s1)

/-- MOLIND_NAK_REMOTE_RX. -/
def execMolindNakRemoteRx (p : Port) (h : MolHdr) (code : BitVec 8) (s : State) : Host.Outcome State Fault Refusal :=
  .next (rxNakRemote p h code (takePkt s p.val 0xD h [code]))

/-- A sequence NAK arrives (R418): the context goes back to the first unacknowledged packet of the port. -/
def rxNakSeq (p : Port) (h : MolHdr) (s : State) : State :=
  arriveAnswer s p.val 0xE h [] (.molindNakSequenceRx p h)
    (fun s => resend (bump s .xptRetx_seq_nak) (ctxNum h.srcCtx) (fun u => u.pkt.port == p.val))

/-- MOLIND_NAK_SEQUENCE_RX. -/
def execMolindNakSequenceRx (p : Port) (h : MolHdr) (s : State) : Host.Outcome State Fault Refusal :=
  .next (rxNakSeq p h (takePkt s p.val 0xE h []))

/-- The packet is missing from a selective acknowledgement: its bitmap says which of the 64 numbers after psn arrived. -/
def missingFrom (psn : Nat) (bitmap : BitVec 64) (u : Unacked) : Bool :=
  let d := (u.psn + 2 ^ 24 - psn) % 2 ^ 24
  decide (1 ≤ d ∧ d ≤ 64) && !bitmap.getLsbD (d - 1)

/-- A selective acknowledgement arrives (R418, version 2): the packets up to psn and those of the bitmap are acknowledged, and those
missing from the bitmap are sent again. One of version 1 is dropped and counted (log entry 206). -/
def rxSelAck (p : Port) (h : MolHdr) (bitmap : BitVec 64) (s : State) : State :=
  arriveAnswer s p.val 0xF h (toLe 8 bitmap.toNat) (.molindSelectiveAckRx p h bitmap) (fun s =>
    if h.version.toNat ≠ 2 then bump s .lnkDrop_version
    else
      let x := ctxNum h.srcCtx
      let psn := h.psn.toNat
      let inMap (u : Unacked) : Bool := u.pkt.port == p.val && !isRequest u &&
        (let d := (u.psn + 2 ^ 24 - psn) % 2 ^ 24
         decide (1 ≤ d ∧ d ≤ 64) && bitmap.getLsbD (d - 1))
      let s1 := ackWhere s x (fun u => ackedBy p.val psn u || inMap u)
      resend s1 x (fun u => u.pkt.port == p.val && missingFrom psn bitmap u))

/-- MOLIND_SELECTIVE_ACK_RX. -/
def execMolindSelectiveAckRx (p : Port) (h : MolHdr) (bitmap : BitVec 64) (s : State) : Host.Outcome State Fault Refusal :=
  .next (rxSelAck p h bitmap (takePkt s p.val 0xF h (toLe 8 bitmap.toNat)))

/-- The length that a request asks for. -/
def asked (u : Unacked) : Nat := leNat u.pkt.data

/-- A request is answered in full: its owner gets the bytes. -/
def giveBytes (s : State) (u : Unacked) (b : Bytes) (tail : Bool) : State :=
  match u.owner with
  | .dma c id => match flightOf s c id with
    | none => s
    | some d => respond s c d u.at_ b tail
  | .move w p => match moveOf s w p with
    | none => s
    | some m =>
      let r := writeOff s 0 255 (m.frame + u.at_) b
      if r.2 = 0 then ownerStep r.1 u.owner else failMove r.1 w p r.2
  | _ => s

/-- A move in progress holds the data of a response for its owner (R283, R295). -/
def bytesMoving (s : State) (u : Unacked) (n : Nat) : Bool :=
  match u.owner with
  | .dma c id => match flightOf s c id with
    | none => false
    | some d => d.kind != 2 && dstMoving s d u.at_ n
  | _ => false

/-- A response ends the request of a context that it matches: by opcode and address, with the bytes asked for. -/
def answerRequest (s : State) (x op addr : Nat) (b : Bytes) (self : Instr) : State :=
  let f (u : Unacked) : Bool := u.pkt.op == op && u.pkt.hdr.addr.toNat == addr && asked u == b.length
  match (ctxOf s x).unacked.find? f with
  | none => s
  | some u =>
    if bytesMoving s u b.length then holdBack s self
    else
      let s1 := forget s x (fun v => decide (v = u))
      let s2 := setCtx s1 x { ctxOf s1 x with retries := 0, since := s.time.ticks }
      let s3 := giveBytes s2 u b false
      pullQueue x (ctxOf s3 x).queue.length s3

/-- A get response arrives (R310, R313). -/
def rxGetResponse (p : Port) (h : MolHdr) (last : Bool) (data : Bytes) (s : State) : State :=
  arriveAnswer s p.val 0x3 h data (.molindGetResponseRx p h last data)
    (fun s => answerRequest s (ctxNum h.srcCtx) 0x2 h.addr.toNat data (.molindGetResponseRx p h last data))

/-- MOLIND_GET_RESPONSE_RX. -/
def execMolindGetResponseRx (p : Port) (h : MolHdr) (last : Bool) (data : Bytes) (s : State) :
    Host.Outcome State Fault Refusal :=
  .next (rxGetResponse p h last data (takePkt s p.val 0x3 h data))

/-- A board read response arrives (R313). -/
def rxBoardResponse (p : Port) (h : MolHdr) (data : Bytes) (s : State) : State :=
  arriveAnswer s p.val 0xA h data (.boardReadResponseRx p h data)
    (fun s => answerRequest s noCtx 0x9 h.addr.toNat data (.boardReadResponseRx p h data))

/-- BOARD_READ_RESPONSE_RX. -/
def execBoardReadResponseRx (p : Port) (h : MolHdr) (data : Bytes) (s : State) : Host.Outcome State Fault Refusal :=
  .next (rxBoardResponse p h data (takePkt s p.val 0xA h data))

/-- The packets that wait on every context are sent as far as its window lets them. -/
def pullAll (s : State) : State := each s.xpt.ctxs (fun s k => pullQueue k.1 k.2.queue.length s) s

/-- A context that carries nothing that belongs to anybody gives up its packets, and is ready as before (R330). -/
def giveUp (s : State) (x : Nat) : State :=
  pullAll (setCtx s x { ctxOf s x with unacked := [], retries := 0, psn := [] })

/-- A timeout or an RNR NAK counts against retry_cnt: the context sends again, or fails with code 0x05 (R323, R324). -/
def retryCtx (s : State) (x : Nat) : State :=
  let k := ctxOf s x
  if k.retries < ctxRetries s x ∧ (k.unacked.any ownedPacket = true ∨ isRoce s x = false) then
    resend (setCtx s x { k with retries := k.retries + 1, since := s.time.ticks }) x (fun _ => true)
  else if k.unacked.any ownedPacket then failCtx s x 0x05
  else giveUp s x

/-- TRANSPORT_ACK_TIMEOUT (R323, R324, R332): no acknowledgement for 4.096 µs x 2^timeout. -/
def execTransportAckTimeout (ctx : BitVec 16) (s : State) : Host.Outcome State Fault Refusal :=
  let x := ctxNum ctx
  .next (onlyIf (fnReady s 5 && !(ctxOf s x).unacked.isEmpty && decide ((ctxOf s x).since + ctxTimeout s x ≤ s.time.ticks))
    (fun s => retryCtx (bump s .xptRetx_timeouts) x) s)

/-! ### Collective packets (R361 to R364, R394, R396) -/

/-- A collective packet arrives (R361 to R364, R394, R396); one that the step, the layout or a move holds back waits. -/
def rxCol (p : Port) (h : MolHdr) (ch : ColHdr) (data : Bytes) (self : Instr) (s : State) : State :=
  arriveAsk s p.val 0x5 h (colHdrBytes ch ++ data) self (fun s => colPlace s ch data)

/-- COLLECTIVE_SEND_RX (R361 to R364, R394, R396). -/
def execCollectiveSendRx (p : Port) (h : MolHdr) (ch : ColHdr) (data : Bytes) (s : State) :
    Host.Outcome State Fault Refusal :=
  .next (rxCol p h ch data (.collectiveSendRx p h ch data) (takePkt s p.val 0x5 h (colHdrBytes ch ++ data)))

/-- COLLECTIVE_COUNTER_ADD_RX (R361, R363): a header alone. -/
def execCollectiveCounterAddRx (p : Port) (h : MolHdr) (ch : ColHdr) (s : State) : Host.Outcome State Fault Refusal :=
  .next (rxCol p h ch [] (.collectiveCounterAddRx p h ch) (takePkt s p.val 0x5 h (colHdrBytes ch)))

/-! ### RoCEv2 (R323, R324, R327, R328, R449) -/

/-- What leaves on a front port besides requests. -/
def opReadResp : Nat := 0x12
def opAck : Nat := 0x13
def opNakSeq : Nat := 0x14
def opRnr : Nat := 0x15
def opNakAccess : Nat := 0x16
def opNakInvalid : Nat := 0x17
def opCnp : Nat := 0x18

/-- An answer of a context leaves on a port (R323). -/
def roceOut (s : State) (p op x psn : Nat) : State := sendFrame s p (roceFrame s x op psn 0 0 0 true [])

/-- The NAK of a module whose FN5 is in reset (R467): it goes back to where the packet came from, and the queue pair is open, since the
context that names it is lost (log entry 172). -/
def roceLost (s : State) (p : Nat) (h : RoceHdr) : State :=
  let f := roceFrame s 0 opNakAccess h.psn.toNat 0 0 0 true []
  sendFrame (freeTick s) p { f with dst := h.src, dscp := 0, hdr := { f.hdr with qpn := BitVec.ofNat 24 (freeNow s) } }

/-- The context that a local queue pair number names. -/
def qpnCtx (s : State) (q : Nat) : Option Nat :=
  if 0x10000 ≤ q ∧ q < 0x20000 ∧ flag s .xptCtx0_valid (q - 0x10000) = true ∧ isRoce s (q - 0x10000) = true then
    some (q - 0x10000) else none

/-- A CNP for a CE-marked packet, at most one per context per 50 µs. -/
def sendCnp (s : State) (p x : Nat) : State :=
  let k := ctxOf s x
  let due := match k.sentCnp with
    | none => true
    | some t => decide (t + 50000 ≤ s.time.ticks)
  if due then roceOut (setCtx s x { k with sentCnp := some s.time.ticks }) p opCnp x 0 else s

/-- What becomes of an arriving RoCEv2 packet before its own rules apply. -/
def arriveRoce (s : State) (p : Nat) (h : RoceHdr) (asks : Bool) (body : Nat → State → State) : State :=
  if !isFront p || !inService s p then s
  else if !fnReady s 5 then (if asks then roceLost s p h else s)
  else if !h.icrcOk then bump s .xptDrop_icrc
  else match qpnCtx s h.qpn.toNat with
    | none => bump s .xptDrop_qpn
    | some x => body x (if h.ce then sendCnp s p x else s)

/-- What a request of a context has come to; `n` packet numbers are its own. One that is refused leaves the number expected as it was,
so that its repeat is refused again (R320, R327). -/
def roceDone (p x : Nat) (h : RoceHdr) (n : Nat) (self : Instr) (r : State × Arrive) : State :=
  match r.2 with
  | .taken => put (roceOut r.1 p opAck x h.psn.toNat) .xptCtx0_epsn (h.psn.toNat + n) x
  | .served => put r.1 .xptCtx0_epsn (h.psn.toNat + n) x
  | .refused _ => roceOut r.1 p opNakAccess x h.psn.toNat
  | .held => holdBack r.1 self
  | .dropped => r.1

/-- A request waits for credits (R55) or is answered with an RNR NAK in Doze (R449), or its packet number is judged: the
expected one is carried out, a later one is answered with a sequence-error NAK, an earlier one is a repeat. -/
def judge (s : State) (p x : Nat) (h : RoceHdr) (n : Nat) (self : Instr) (body : State → State × Arrive) (repeated : State → State) :
    State :=
  let job := get s .xptCtx0_job x
  let d := (h.psn.toNat + 2 ^ 24 - get s .xptCtx0_epsn x) % 2 ^ 24
  if dozing s then roceOut s p opRnr x h.psn.toNat
  else if waitsForJob s job then holdBack s self
  else if d = 0 then roceDone p x h n self (body s)
  else if d < 2 ^ 23 then roceOut s p opNakSeq x (get s .xptCtx0_epsn x)
  else repeated s

def roceAccess (s : State) (p x : Nat) (h : RoceHdr) (n : Nat) (write : Bool) : RegAccess :=
  let base := regBase s (h.key.toNat % 16384)
  ⟨p, get s .xptCtx0_job x, h.key.toNat, if base ≤ h.va.toNat then some (h.va.toNat - base) else none, n, write⟩

/-- The path MTU (R323). -/
def roceMtu : Nat := 4096

/-- The packets of an RDMA WRITE come in order: the last one ends its message. -/
def roceLen (last : Bool) : Option Nat := if last then some 0 else none

/-- ROCE_RDMA_WRITE_RX (R323, R327, R328): the immediate is discarded. The operands give the address of the packet's own
bytes, and whether it begins and ends its message (log entry 46). A packet above the path MTU is no request that R323 supports. -/
def execRoceRdmaWriteRx (p : Port) (h : RoceHdr) (imm : Bool) (ends : WriteEnds) (data : Bytes) (s : State) :
    Host.Outcome State Fault Refusal :=
  .next (arriveRoce s p.val h true (fun x s =>
    if roceMtu < data.length then roceOut s p.val opNakInvalid x h.psn.toNat
    else judge s p.val x h 1 (.roceRdmaWriteRx p { h with ce := false } imm ends data)
      (fun s => placeWrite (if ends.first then dropMark s x else s) (roceAccess s p.val x h data.length true) [3, x] (roceLen ends.last)
        h.va.toNat data)
      (fun s => roceOut s p.val opAck x h.psn.toNat)))

/-- The responses to an RDMA READ leave: one for each 4,096 bytes, each with a packet number of its own. -/
def roceServe (p x : Nat) (h : RoceHdr) (s : State) : State × Arrive :=
  let r := placeRead s (roceAccess s p x h h.len.toNat false) h.va.toNat
  match r.2.1 with
  | .served => (each ((cuts 4096 r.2.2).zipIdx) (fun s c =>
      sendFrame s p (roceFrame s x opReadResp ((h.psn.toNat + c.2) % 2 ^ 24) (h.va.toNat + c.1.1) 0 c.1.2.length
        (decide (h.len.toNat ≤ c.1.1 + c.1.2.length)) c.1.2)) r.1, .served)
  | a => (r.1, a)

/-- ROCE_RDMA_READ_RX (R323, R327): a repeat is served again. -/
def execRoceRdmaReadRx (p : Port) (h : RoceHdr) (s : State) : Host.Outcome State Fault Refusal :=
  let self : Instr := .roceRdmaReadRx p { h with ce := false }
  .next (arriveRoce s p.val h true (fun x s => judge s p.val x h (packetsOf h.len.toNat) self (roceServe p.val x h) (fun s =>
    let r := roceServe p.val x h s
    match r.2 with
    | .refused _ => roceOut r.1 p.val opNakAccess x h.psn.toNat
    | .held => holdBack r.1 self
    | _ => r.1)))

/-- ROCE_UNSUPPORTED_RX (R323): SEND and atomics get a NAK for invalid request; other services are dropped and counted. -/
def execRoceUnsupportedRx (p : Port) (h : RoceHdr) (what : RoceOdd) (s : State) : Host.Outcome State Fault Refusal :=
  match what with
  | .otherService => .next (onlyIf (isFront p.val && inService s p.val && fnReady s 5) (fun s => bump s .xptDrop_service) s)
  | _ => .next (arriveRoce s p.val h true (fun x s => roceOut s p.val opNakInvalid x h.psn.toNat))

/-- A request with the rest of what it asks for, after `n` bytes came as one packet. -/
def lessRequest (u : Unacked) (n : Nat) : Unacked :=
  { u with
    psn := (u.psn + 1) % 2 ^ 24
    at_ := u.at_ + n
    pkt := { u.pkt with
      hdr := { u.pkt.hdr with addr := BitVec.ofNat 64 (u.pkt.hdr.addr.toNat + n) }
      data := toLe 4 (asked u - n) } }

/-- A read response of the context waits for a move. -/
def waitsForRead (s : State) (h : RoceHdr) : Bool :=
  s.col.held.any (fun i => match i with
    | .roceReadResponseRx _ g _ _ => decide (g.qpn = h.qpn)
    | _ => false)

/-- ROCE_READ_RESPONSE_RX (R313, R323): responses come in order; each brings the next bytes of its request. One whose bytes a move
holds waits, and so do those after it (R283, R295). -/
def execRoceReadResponseRx (p : Port) (h : RoceHdr) (last : Bool) (data : Bytes) (s : State) :
    Host.Outcome State Fault Refusal :=
  let self : Instr := .roceReadResponseRx p { h with ce := false } last data
  .next (arriveRoce s p.val h false (fun x s =>
    if waitsForRead s h then holdBack s self
    else match (ctxOf s x).unacked.find? (fun u => u.pkt.op == opRead && u.psn == h.psn.toNat) with
    | none => s
    | some u =>
      if data.length ≠ min 4096 (asked u) ∨ data.length = 0 then s
      else if bytesMoving s u data.length then holdBack s self
      else
        let k := ctxOf s x
        let rest := if asked u ≤ data.length then k.unacked.filter (fun v => decide (v ≠ u))
          else k.unacked.map (fun v => if v = u then lessRequest u data.length else v)
        let s1 := setCtx s x { k with unacked := rest, retries := 0, since := s.time.ticks }
        let s2 := giveBytes s1 u data true
        if last then pullQueue x (ctxOf s2 x).queue.length s2 else s2))

/-- ROCE_ACK_RX (R313, R323): the context's writes up to psn are acknowledged. -/
def execRoceAckRx (p : Port) (h : RoceHdr) (s : State) : Host.Outcome State Fault Refusal :=
  .next (arriveRoce s p.val h false (fun x s => ackWhere s x (fun u => psnLe u.psn h.psn.toNat && !isRequest u)))

/-- ROCE_NAK_RX (R323, R324, R332): sequence errors go back, an RNR NAK counts as a retry, and the others put the context
into the error state with code 0x06. -/
def execRoceNakRx (p : Port) (h : RoceHdr) (what : RoceNak) (s : State) : Host.Outcome State Fault Refusal :=
  .next (arriveRoce s p.val h false (fun x s =>
    let before (u : Unacked) : Bool := psnLe u.psn h.psn.toNat && u.psn != h.psn.toNat && !isRequest u
    match what with
    | .sequence => resend (ackWhere (bump s .xptRetx_seq_nak) x before) x (fun _ => true)
    | .rnr => retryCtx (ackWhere (bump s .xptRetx_rnr) x before) x
    | .remoteAccess => failCtx (ackWhere s x before) x 0x06
    | .invalidRequest => failCtx (ackWhere s x before) x 0x06))

/-- ROCE_CNP_RX (R323): the rate halves, at most once per 50 µs. -/
def execRoceCnpRx (p : Port) (h : RoceHdr) (s : State) : Host.Outcome State Fault Refusal :=
  .next (arriveRoce s p.val h false (fun x s =>
    let s1 := bump s .xptRetx_cnp
    let k := { ctxOf s1 x with rateAt := some s1.time.ticks }
    let due := match k.lastCnp with
      | none => true
      | some t => decide (t + 50000 ≤ s1.time.ticks)
    setCtx s1 x (if due then { k with rate := k.rate / 2, lastCnp := some s1.time.ticks } else k)))

/-- ROCE_RATE_INCREASE (R323): 1/16 of the port rate after each 50 µs without a CNP. -/
def execRoceRateIncrease (ctx : BitVec 16) (s : State) : Host.Outcome State Fault Refusal :=
  let k := ctxOf s ctx.toNat
  match k.rateAt with
  | none => .next s
  | some t => .next (onlyIf (fnReady s 5 && decide (t + 50000 ≤ s.time.ticks) && decide (k.rate < 65536))
      (fun s => setCtx s ctx.toNat { k with rate := min 65536 (k.rate + 4096), rateAt := some s.time.ticks }) s)

/-! ### Held arrivals (R55, R394, R396, R449) -/

/-- What an arrival that waited does when it is taken up again. -/
def takeUp (s : State) (i : Instr) : State :=
  let next (o : Host.Outcome State Fault Refusal) : State := match o with
    | .next t => t
    | _ => s
  match i with
  | .collectiveSendRx p h ch d => rxCol p h ch d i s
  | .collectiveCounterAddRx p h ch => rxCol p h ch [] i s
  | .molindPutRx p h m d => rxPut p h m d s
  | .molindGetRequestRx p h n => rxGet p h n s
  | .molindFlagWriteRx p h v => rxFlag p h v s
  | .boardWriteRx p h d => rxBoardWrite p h d s
  | .boardReadRx p h n => rxBoardRead p h n s
  | .molindAckRx p h => rxAck p h s
  | .molindNakRemoteRx p h code => rxNakRemote p h code s
  | .molindNakSequenceRx p h => rxNakSeq p h s
  | .molindSelectiveAckRx p h bitmap => rxSelAck p h bitmap s
  | .molindGetResponseRx p h l d => rxGetResponse p h l d s
  | .boardReadResponseRx p h d => rxBoardResponse p h d s
  | .roceRdmaWriteRx p h m e d => next (execRoceRdmaWriteRx p h m e d s)
  | .roceRdmaReadRx p h => next (execRoceRdmaReadRx p h s)
  | .roceReadResponseRx p h l d => next (execRoceReadResponseRx p h l d s)
  | _ => s

/-- The arrivals that wait are taken up again, in order; those that still must wait do so (log entry 47). -/
def retryHeld (s : State) : State :=
  each s.col.held takeUp { s with col := { s.col with held := [] } }

/-! ### Registering (R325, R326, R329) -/

/-- The words of a region record (R325). -/
def regionWord0 (r : RegionRec) : Nat :=
  r.region.toNat + 2 ^ 14 * r.job.toNat + 2 ^ 26 * bit r.write + 2 ^ 27 * bit r.read + 2 ^ 28 * r.ports.toNat

def regionWord3 (r : RegionRec) : Nat := r.tc.toNat + 2 ^ 8 * r.core.toNat + 2 ^ 16 * bit r.tcEn

/-- Why REGION_REG is refused: status 3 or 5; 0 where it is not (R326). -/
def regionRefuse (s : State) (r : RegionRec) : Nat :=
  if r.length = 0 ∨ 2 ^ 42 < r.length.toNat then 3
  else if !fnReady s 5 || !resident s r.job.toNat || regValid s r.region.toNat ||
      (r.tcEn && (decide (192 ≤ r.core.toNat) || tcOwner s r.core.toNat r.tc.toNat != r.job.toNat)) then 5
  else 0

/-- A region is registered under its next generation; its response word. -/
def regionAdd (s : State) (r : RegionRec) : State × Word :=
  let n := r.region.toNat
  let s1 := raiseGen s n
  let s2 := put (put (put (put s1 .xptReg0_word0 (regionWord0 r) n) .xptReg1_word r.base.toNat n) .xptReg2_word r.length.toNat n)
    .xptReg3_word (regionWord3 r) n
  let s3 := put (put s2 .xptReg0_valid 1 n) .xptRegcnt_registered (get s2 .xptRegcnt_registered + 1)
  (s3, BitVec.ofNat 64 (regionGen s3 n + 2 ^ 32 * (regionGen s3 n * 65536 + n)))

/-- A region takes no new access (R329). -/
def regionStop (s : State) (n : Nat) : State :=
  put (put s .xptReg0_valid 0 n) .xptRegcnt_registered (get s .xptRegcnt_registered - 1)

end Sys2Proof.Machine
end

