-- ==== Sys2Proof/Machine/Links.lean ====
section
/-!
DEFINITION. Links (spec/14_links_and_negotiation.md, R400 to R417): flits and their retries, training and settlement, lane
drops, low-power idle, the Ethernet ports, and the place of the module (R12 to R14, R407).
-/
namespace Sys2Proof.Machine

/-! ### Flits (R401 to R403) -/

/-- The port runs the Molind link and works: trained, and FN8 not in reset. -/
def molLink (s : State) (p : Nat) : Bool := isModulePort p && inService s p && fnReady s 8

/-- An acknowledgement number: the data flits sent up to it leave the replay buffer, and waiting ones go (R401, R403). Where this side
expects none itself, an episode ends with it. -/
def ackFlits (s : State) (p a : Nat) : State :=
  let l := linkOf s p
  let sent := l.replay.length - l.unsent
  let k := match l.replay with
    | [] => 0
    | f :: _ => (a + 4096 - f.1 % 4096 + 1) % 4096
  let l1 := { l with replay := l.replay.drop k, episode := if k = 0 ∨ l.discard then l.episode else none }
  pumpFlits (if k ≤ sent then setLink s p l1 else s) p

/-- An episode begins where none runs, and is counted (R404, `LNK_PpERR.retries`). -/
def beginEpisode (s : State) (p : Nat) : State :=
  match (linkOf s p).episode with
  | some _ => s
  | none => setLink (bump s .lnkPerr_retries 1 p) p { linkOf s p with episode := some s.time.ticks }

/-- A retry request leaves, and names the number expected (R403, R404). -/
def requestRetry (s : State) (p : Nat) : State :=
  let s1 := beginEpisode s p
  sendFlit (setLink s1 p { linkOf s1 p with discard := true }) p flitRetry (linkOf s p).rxNext

/-- A data flit is discarded: the first one brings a retry request (R403). -/
def discardFlit (s : State) (p : Nat) : State := if (linkOf s p).discard then s else requestRetry s p

/-- A flit arrives: one with a wrong CRC, or of a type that R401 does not name, is counted and discarded; one of the type that the row
takes brings its acknowledgement number to a link in service. -/
def rxFlit (s : State) (p : Nat) (f : BitVec 2048) (type : Nat) (body : State → State) : State :=
  if !flitOk f || decide (4 < flitType f) then bump s .lnkPerr_crc 1 p
  else if flitType f ≠ type then s
  else body (if inService s p then ackFlits s p (flitAck f) else s)

/-- A data flit is accepted: its payload follows those before it, the packets that it completes wait for their rows, and an idle flit
says that it arrived (R402, R403; log entry 157). -/
def acceptFlit (s : State) (p : Nat) (f : BitVec 2048) : State :=
  let l := linkOf s p
  let all := l.rx ++ flitPayload f
  let x := takePkts (all.length + 1) all
  sendFlit (setLink s p { l with
    rxNext := (l.rxNext + 1) % 4096, discard := false, episode := none, rx := x.2, pkts := l.pkts ++ x.1 }) p flitIdle 0

/-- LINK_DATA_FLIT_RX (R401 to R403). -/
def execLinkDataFlitRx (p : Port) (flit : BitVec 2048) (s : State) : Host.Outcome State Fault Refusal :=
  .next (onlyIf (molLink s p.val) (fun s =>
    let s1 := rxFlit s p.val flit flitData (fun s =>
      if flitSeq flit = (linkOf s p.val).rxNext then acceptFlit s p.val flit else discardFlit s p.val)
    if flitOk flit then s1 else discardFlit s1 p.val) s)

/-- LINK_IDLE_FLIT_RX (R401): the acknowledgement number. -/
def execLinkIdleFlitRx (p : Port) (flit : BitVec 2048) (s : State) : Host.Outcome State Fault Refusal :=
  .next (onlyIf (molLink s p.val) (fun s => rxFlit s p.val flit flitIdle id) s)

/-- The data flits sent from a number on are to be sent again, in order (R403). -/
def rewind (s : State) (p expected : Nat) : State :=
  let l := linkOf s p
  let sent := l.replay.take (l.replay.length - l.unsent)
  setLink s p { l with unsent := l.unsent + (sent.dropWhile (fun f => f.1 != expected)).length }

/-- LINK_RETRY_REQUEST_RX (R403): the data flits sent from the named number are sent again, in order, once the link carries data
(R409, R412). The operands are bytes 0 to 3 of the flit, and its other bytes. -/
def execLinkRetryRequestRx (p : Port) (head : BitVec 32) (rest : BitVec 2016) (s : State) : Host.Outcome State Fault Refusal :=
  let flit := joinFlit head rest
  .next (onlyIf (molLink s p.val) (fun s =>
    rxFlit s p.val flit flitRetry (fun s => pumpFlits (rewind s p.val (flitWord flit 0 % 2 ^ 12)) p.val)) s)

/-! ### A link that leaves service (R27, R38, R404) -/

/-- A Molind packet that was sent on a port, or waits for it. -/
def onPort (p : Nat) (u : Unacked) : Bool := u.pkt.port == p && decide (u.pkt.op < opWrite)

/-- The first owner of a packet on a port that is not acknowledged, or that has not left. -/
def portOwner (s : State) (p : Nat) : Option Owner :=
  s.xpt.ctxs.findSome? (fun k => ((k.2.unacked ++ k.2.queue).find? (fun u => onPort p u && ownedPacket u)).map (·.owner))

/-- The owners of packets on a port that are not acknowledged fail with code 0x04; the first argument bounds them. -/
def failPort : Nat → State → Nat → State
  | 0, s, _ => s
  | n + 1, s, p =>
    match portOwner s p with
    | none => s
    | some o => failPort n (orphan (failOwner s o 0x04) (fun w => decide (w = o))) p

def unackedCount (s : State) : Nat := (s.xpt.ctxs.map (fun k => k.2.unacked.length + k.2.queue.length)).sum

/-- What the contexts and flows know of a port that left service: their packets on it are given up, and numbered anew (log entry
159). -/
def forgetPort (s : State) (p : Nat) : State :=
  let s1 := each s.xpt.ctxs (fun s k => setCtx s k.1 { ctxOf s k.1 with
    unacked := (ctxOf s k.1).unacked.filter (fun u => !onPort p u)
    queue := (ctxOf s k.1).queue.filter (fun u => !onPort p u)
    psn := mset none (ctxOf s k.1).psn p none }) s
  pullAll { s1 with xpt := { s1.xpt with flows := s1.xpt.flows.filter (fun f => f.port != p) } }

/-- A link goes out of service in a state of `LNK_PpSTAT`: its replay buffer and its exchange are gone, tasks with packets on
it abort with code 0x04, and a follower of it loses sync. Packets that had arrived whole are still taken up. -/
def leaveService (s : State) (p state : Nat) : State :=
  let s1 := failPort (unackedCount s + 1) s p
  let l := linkOf s1 p
  let l1 : LinkSt := { LinkSt.init with downAt := s1.time.ticks, stampId := l.stampId, pkts := l.pkts }
  let s2 := setLink s1 p l1
  let s3 := { s2 with time := { s2.time with exch := mset none s2.time.exch p none } }
  let s4 := put (put (put s3 .lnkPstat_state state p) .lnkPstat_width 0 p) .lnkPstat_lanes_ok 0 p
  let s5 := put (put (put s4 .lnkPstat_rate 0 p) .lnkPstat_link_version 0 p) .lnkPstat_eth_mode 0 p
  let s6 := if isParent s5 p then loseSync s5 else s5
  forgetPort s6 p

/-- LINK_RETRY_TIMEOUT (R404, R331): the episode has lasted longer than retry_us. -/
def execLinkRetryTimeout (p : Port) (s : State) : Host.Outcome State Fault Refusal :=
  match (linkOf s p.val).episode with
  | none => .next s
  | some t =>
    let over_ := decide (t + 1000 * max 10 (get s .lnkCtl_retry_us) < s.time.ticks)
    .next (onlyIf (isModulePort p.val && fnReady s 8 && over_) (fun s =>
      let s1 := logEvt (bump s .lnkPerr_trainings 1 p.val) 0x051 8 0 0 p.val ((s.time.ticks - t) / 1000)
      leaveService s1 p.val 1) s)

/-! ### Training and settlement (R405 to R407, R14, R413) -/

/-- The lanes that an Ethernet mode uses (R413). -/
def modeLanes (m : Nat) : Nat := if m = 3 then 8 else if m = 2 then 4 else if m = 1 then 2 else 0

/-- A mask of the first `n` lanes. -/
def laneMask (n : Nat) : BitVec 8 := BitVec.ofNat 8 (2 ^ n - 1)

/-- The lanes in service of a mask. -/
def laneCount (b : BitVec 8) : Nat := ((List.range 8).filter (fun i => b.getLsbD i)).length

/-- The number of the highest version that both sides support, counted from 1; 0 for none (R10, R406). -/
def topVersion (a b : BitVec 8) : Nat := ((List.range 8).filter (fun i => (a &&& b).getLsbD i)).foldl (fun _ i => i + 1) 0

/-- The lanes that a capability flit reports (R405). -/
def ownLanes (s : State) (p : Nat) : BitVec 8 :=
  if isGlobal p then (linkOf s p).own &&& laneMask (modeLanes (get s .lnkPstat_eth_mode p)) else (linkOf s p).own

/-- A capability flit of this module (R405). -/
def capFlit (s : State) (p : Nat) : CapFlit :=
  { linkVersions := BitVec.ofNat 8 (get s .idnVersions_link_versions)
    transportVersions := BitVec.ofNat 8 (get s .idnVersions_transport_versions)
    rates := BitVec.ofNat 2 (2 + (if isMolind p then get s .lnkPctl_allow_half p else 0))
    lanesOk := ownLanes s p
    hitless := true
    placed := placed s
    group := BitVec.ofNat 7 (get s .ctlPlace_group)
    tray := BitVec.ofNat 3 (get s .ctlPlace_tray)
    slot := BitVec.ofNat 2 (get s .ctlPlace_slot)
    groupsM1 := BitVec.ofNat 7 (get s .ctlPlace_groups_m1)
    numericGen := BitVec.ofNat 8 (get s .idnVariant_numeric_gen)
    serial := s.fuses.serial
    sport := BitVec.ofNat 6 p }

/-- A capability flit leaves, and waits for its acknowledgement. -/
def sendCap (s : State) (p : Nat) : State :=
  sendFlit (setLink s p { linkOf s p with capAcked := false, capAt := s.time.ticks }) p flitControl (capPayload (capFlit s p))

/-- The acknowledgement of a capability flit. What its bits beside kind hold is not stated: they are open (log entry
170). -/
def sendCapAck (s : State) (p : Nat) : State := sendFlit (freeTick s) p flitControl (ctlAck + 2 ^ 8 * freeNow s)

/-- A link that has ended a training, a retrain or a hold carries data again: what waits for its replay is sent.
An episode with no flit to come ends. -/
def resume (s : State) (p : Nat) : State :=
  let l := linkOf s p
  let s1 := setLink s p { l with episode := if !l.discard && l.replay.isEmpty then none else l.episode }
  pumpFlits (put s1 .lnkPstat_state 3 p) p

/-- The place that a peer reports, as `LNK_PpPEER` numbers it. -/
def capPlace (f : CapFlit) : Nat := f.slot.toNat + 4 * f.tray.toNat + 32 * f.group.toNat

/-- The peer of a port is not the one that the wiring gives, as far as both sides are placed (R14). -/
def placeWrong (s : State) (p : Nat) (f : CapFlit) : Bool :=
  placed s && f.placed && peerPlace (ownPlace s) (groupsN s) p != some ⟨f.group.toNat, f.tray.toNat, f.slot.toNat⟩

/-- A link is out of data service until a module reset of either side (R14): its exchange stops, and a follower of it loses sync
(R37, R38). -/
def holdLink (s : State) (p : Nat) : State :=
  let s1 := setLink (put (put s .lnkPstat_state 2 p) .lnkPpeer_mismatch 1 p) p { linkOf s p with episode := none }
  let s2 := { s1 with time := { s1.time with exch := mset none s1.time.exch p none } }
  if isParent s2 p then loseSync s2 else s2

/-- A link that is found to have another peer than the wiring gives is held, and that is logged (R14). -/
def refusePlace (s : State) (p : Nat) (f : CapFlit) : State := holdLink (logEvt s 0x013 8 0 0 p (capPlace f)) p

/-- The placement check of R14 on a link in service. -/
def checkPlace (s : State) (p : Nat) : State :=
  match (linkOf s p).peer with
  | none => s
  | some f => if inService s p && placeWrong s p f then refusePlace s p f else s

/-- A link that has settled, or whose hold has ended, enters service where R14 lets it. -/
def enterService (s : State) (p : Nat) (f : CapFlit) : State :=
  if flag s .lnkPpeer_mismatch p then holdLink s p
  else if placeWrong s p f then refusePlace s p f
  else resume s p

/-- A module port with both sides' lanes known settles and enters service, held where R14 holds it; with no version or lane
in common it stays down (R406). -/
def settleLink (s : State) (p : Nat) : State :=
  let l := linkOf s p
  match l.peer with
  | none => s
  | some f =>
    if l.own = 0 then s
    else
      let v := topVersion (BitVec.ofNat 8 (get s .idnVersions_link_versions)) f.linkVersions
      let lanes := ownLanes s p &&& f.lanesOk
      let width := if isGlobal p then modeLanes (get s .lnkPstat_eth_mode p) else laneCount lanes
      if v = 0 ∨ lanes = 0 then
        setLink (put s .lnkPstat_state 0 p) p { LinkSt.init with downAt := s.time.ticks, stampId := l.stampId, pkts := l.pkts }
      else
        let s1 := setLink s p { l with hitless := f.hitless && decide (v = 2), peerPlaced := f.placed, failed := 0 }
        let s2 := put (put (put s1 .lnkPstat_link_version v p) .lnkPstat_width width p) .lnkPstat_lanes_ok lanes.toNat p
        let s3 := put s2 .lnkPstat_rate (if l.half then 1 else 2) p
        enterService s3 p f

/-- The lanes of a training count: it is at 112 Gb/s only where allowed, and one lane at 224 Gb/s is tried again at 112 where
both sides allow it. -/
def trainTaken (s : State) (p : Nat) (lanes : BitVec 8) (half : Bool) : Bool :=
  let allow := isMolind p && flag s .lnkPctl_allow_half p
  let peerAllows := match (linkOf s p).peer with
    | none => false
    | some f => f.rates.getLsbD 0
  if half then allow else !(decide (laneCount lanes < 2) && allow && peerAllows)

/-- The lanes of a training are those that a port's Ethernet mode uses, where it has one (R413). -/
def modeTrained (s : State) (p : Nat) (clean : BitVec 8) : Bool :=
  let need := laneMask (modeLanes (get s .lnkPstat_eth_mode p))
  isMolind p || (need != 0 && clean &&& need == need)

/-- A training ends with the lanes that it received cleanly; on a global port it learns the peer's MAC address (R415). -/
def trained (s : State) (p : Nat) (lanes : BitVec 8) (half : Bool) (mac : BitVec 48) : State :=
  let l := linkOf s p
  let clean := lanes &&& laneMask (portLanes p)
  if lnkState s p = 5 then resume s p
  else if clean = 0 then setLink (put s .lnkPstat_state 0 p) p { l with downAt := s.time.ticks, own := 0 }
  else if !trainTaken s p clean half || !modeTrained s p clean then s
  else if isFront p then
    let m := get s .lnkPstat_eth_mode p
    let s1 := put (put (put s .lnkPstat_width (modeLanes m) p) .lnkPstat_lanes_ok (laneMask (modeLanes m)).toNat p) .lnkPstat_rate 2 p
    put (setLink s1 p { l with own := clean, half := false, failed := 0 }) .lnkPstat_state 3 p
  else settleLink (sendCap (setLink s p { l with own := clean, half := half, mac := mac }) p) p

/-- LINK_TRAINED (R406, "Training and negotiation"): training completes, and the link settles and enters service once the
peer's capability is known; a lane retrain ends (R409). -/
def execLinkTrained (p : Port) (lanes : BitVec 8) (x : Trained) (s : State) : Host.Outcome State Fault Refusal :=
  .next (onlyIf (portPresent s p.val && fnReady s 8 && flag s .lnkPctl_en p.val && !flag s .lnkPctl_prbs p.val &&
      (decide (lnkState s p.val = 1) || (decide (lnkState s p.val = 5) && isMolind p.val)))
    (fun s => trained s p.val lanes x.half x.mac) s)

/-- What a capability flit of the peer does (R405 to R407, R14): it is shown and acknowledged; a training link settles, and a link in
service is checked again. Only a module reset takes a place away or changes it (R13), so that a peer with none or another one has been
reset, and its hold ends (log entry 173). -/
def capArrived (s : State) (p : Nat) (f : CapFlit) : State :=
  let same := f.placed && decide (get s .lnkPpeer_slot p = f.slot.toNat) && decide (get s .lnkPpeer_tray p = f.tray.toNat) &&
    decide (get s .lnkPpeer_group p = f.group.toNat)
  let s1 := put (put (put s .lnkPpeer_slot f.slot.toNat p) .lnkPpeer_tray f.tray.toNat p) .lnkPpeer_group f.group.toNat p
  let s2 := put (put s1 .lnkPpeer_transport f.transportVersions.toNat p) .lnkPpeer_numeric_gen f.numericGen.toNat p
  let s3 := sendCapAck (setLink s2 p { linkOf s2 p with peer := some f, peerPlaced := f.placed }) p
  let s4 := if same then s3 else put s3 .lnkPpeer_mismatch 0 p
  if lnkState s4 p = 1 then settleLink s4 p
  else if lnkState s4 p = 2 then (if flag s4 .lnkPpeer_mismatch p then s4 else enterService s4 p f)
  else pumpFlits (checkPlace s4 p) p

/-- LINK_CAPABILITY_RX (R405 to R407, R14). -/
def execLinkCapabilityRx (p : Port) (flit : BitVec 2048) (s : State) : Host.Outcome State Fault Refusal :=
  .next (onlyIf (portPresent s p.val && isModulePort p.val && fnReady s 8 && decide (lnkState s p.val ≠ 0)) (fun s =>
    rxFlit s p.val flit flitControl (fun s => onlyIf (ctlKind flit == ctlCap) (fun s => capArrived s p.val (capFields flit)) s)) s)

/-- LINK_CAPABILITY_ACK_RX (R405). -/
def execLinkCapabilityAckRx (f : PortFlit) (s : State) : Host.Outcome State Fault Refusal :=
  let p := f.port.val
  .next (onlyIf (portPresent s p && isModulePort p && fnReady s 8) (fun s =>
    rxFlit s p f.flit flitControl (fun s =>
      onlyIf (ctlKind f.flit == ctlAck) (fun s => setLink s p { linkOf s p with capAcked := true }) s)) s)

/-- CAPABILITY_RESEND (R405, step 4): every 10 µs until acknowledged. -/
def execCapabilityResend (p : Port) (s : State) : Host.Outcome State Fault Refusal :=
  let l := linkOf s p.val
  .next (onlyIf (portPresent s p.val && isModulePort p.val && fnReady s 8 && !l.capAcked && decide (l.own ≠ 0) &&
    decide (l.capAt + 10000 ≤ s.time.ticks)) (fun s => sendCap s p.val) s)

/-- LINK_TRAIN_RETRY: a link that trained no lane trains again after 100 ms. -/
def execLinkTrainRetry (p : Port) (s : State) : Host.Outcome State Fault Refusal :=
  .next (onlyIf (portPresent s p.val && fnReady s 8 && flag s .lnkPctl_en p.val && !flag s .lnkPctl_prbs p.val &&
      decide (lnkState s p.val = 0) && decide ((linkOf s p.val).downAt + 100000000 ≤ s.time.ticks))
    (fun s => put s .lnkPstat_state 1 p.val) s)

/-! ### Lane degradation (R408, R409, R414) -/

/-- A link stops data for a lane retrain: an episode begins where none runs (R404). -/
def stopData (s : State) (p : Nat) : State := beginEpisode (put s .lnkPstat_state 5 p) p

/-- Lanes leave a tray or rack link: it is narrower, at once where hitless and after a retrain where not; without its last
lane it goes down (R27, R409). -/
def dropLanes (s : State) (p : Nat) (lanes : BitVec 8) : State :=
  let new := BitVec.ofNat 8 (get s .lnkPstat_lanes_ok p) &&& ~~~lanes
  let l := linkOf s p
  let s1 := setLink (bump s .lnkPerr_degrades 1 p) p { l with failed := l.failed ||| lanes }
  let s2 := put (put s1 .lnkPstat_lanes_ok new.toNat p) .lnkPstat_width (laneCount new) p
  let s3 := { s2 with time := { s2.time with exch := mset none s2.time.exch p none } }
  let s4 := logEvt s3 0x050 8 0 0 p (laneCount new)
  if new = 0 then leaveService s4 p 0
  else if l.hitless then s4
  else stopData s4 p

/-- The lanes named that are in service. -/
def liveLanes (s : State) (p : Nat) (lanes : BitVec 8) : BitVec 8 := lanes &&& BitVec.ofNat 8 (get s .lnkPstat_lanes_ok p)

/-- LINK_LANE_DROP_RX (R405, R409): the peer names the lanes it drops. -/
def execLinkLaneDropRx (p : Port) (flit : BitVec 2048) (s : State) : Host.Outcome State Fault Refusal :=
  .next (onlyIf (isMolind p.val && molLink s p.val) (fun s =>
    rxFlit s p.val flit flitControl (fun s =>
      let d := liveLanes s p.val (ctlLanes flit)
      onlyIf (ctlKind flit == ctlDrop && d != 0) (fun s => dropLanes s p.val d) s)) s)

/-- An E or G port renegotiates without its failed lanes (R414). -/
def renegotiate (s : State) (p : Nat) (lanes : BitVec 8) : State :=
  let l := linkOf s p
  let s1 := setLink (bump s .lnkPerr_degrades 1 p) p { l with failed := l.failed ||| lanes }
  let s2 := { s1 with time := { s1.time with exch := mset none s1.time.exch p none } }
  let s3 := logEvt s2 0x050 8 0 0 p (get s .lnkPstat_width p)
  if isGlobal p then stopData s3 p else put s3 .lnkPstat_state 5 p

/-- The lanes that have failed in a 1 ms window (R408): by loss of lock, by symbol errors before FEC, by uncorrectable codewords; both
counts by lane. -/
def failedLanes (s : State) (r : LaneReport) : BitVec 8 :=
  BitVec.ofNat 8 ((List.range 8).map (fun i =>
    if r.lost.getLsbD i ∨ 2 ^ get s .lnkCtl_ser_log2 < (r.symbols.getD i 0).toNat ∨
      max 1 (get s .lnkCtl_fec_ue) ≤ (r.codewords.getD i 0).toNat then 2 ^ i else 0)).sum

/-- What a port does about lanes that have failed (R409, R414): a tray or rack port sends a lane drop flit and a retry request. -/
def lanesFailed (s : State) (p : Nat) (d : BitVec 8) : State :=
  if isMolind p then dropLanes (requestRetry (sendFlit s p flitControl (dropPayload d)) p) p d else renegotiate s p d

/-- LANE_FAILURE_DETECTED (R408, R409, R414): the end of a 1 ms window, with the lanes that lost lock and each lane's symbol errors and
uncorrectable codewords in it. -/
def execLaneFailureDetected (p : Port) (r : LaneReport) (s : State) : Host.Outcome State Fault Refusal :=
  .next (onlyIf (inService s p.val && fnReady s 8) (fun s =>
    let s1 := bump s .lnkPerr_fec_uncorr ((r.codewords.take 8).map BitVec.toNat).sum p.val
    let d := liveLanes s1 p.val (failedLanes s1 r)
    onlyIf (d != 0) (fun s => lanesFailed s p.val d) s1) s)

/-! ### Low-power idle (R412) -/

/-- The link has sent no data flit for lpi_us. -/
def idleLong (s : State) (p : Nat) : Bool :=
  decide ((linkOf s p).lastData + 1000 * max 1 (get s .lnkCtl_lpi_us) ≤ s.time.ticks)

/-- LINK_LPI_ENTER (R412). -/
def execLinkLpiEnter (p : Port) (s : State) : Host.Outcome State Fault Refusal :=
  .next (onlyIf (isMolind p.val && portPresent s p.val && fnReady s 8 && decide (lnkState s p.val = 3) &&
      !flag s .lnkPctl_lpi_dis p.val && idleLong s p.val) (fun s => put s .lnkPstat_state 4 p.val) s)

/-- LINK_LPI_WAKE (R412): a data flit waits; it goes once the lanes are awake. -/
def execLinkLpiWake (p : Port) (s : State) : Host.Outcome State Fault Refusal :=
  .next (onlyIf (isMolind p.val && portPresent s p.val && fnReady s 8 && decide (lnkState s p.val = 4) &&
      decide ((linkOf s p.val).unsent ≠ 0)) (fun s => pumpFlits (put s .lnkPstat_state 3 p.val) p.val) s)

/-! ### Ethernet ports (R413, R414, R416) -/

/-- The modes that a port advertises: bit 0 1.6 Tb/s, bit 1 800 Gb/s, bit 2 400 Gb/s, those whose lanes have not failed. -/
def ownModes (s : State) (p : Nat) : BitVec 3 :=
  let m := BitVec.ofNat 3 (get s .lnkPctl_eth_modes p)
  let good (n : Nat) : Bool := decide ((linkOf s p).failed &&& laneMask n = 0)
  m &&& BitVec.ofNat 3 (bit (good 8) + 2 * bit (good 4) + 4 * bit (good 2))

/-- The highest common mode, as `LNK_PpSTAT.eth_mode` numbers it. -/
def topMode (m : BitVec 3) : Nat := if m.getLsbD 0 then 3 else if m.getLsbD 1 then 2 else if m.getLsbD 2 then 1 else 0

/-- ETH_NEGOTIATION_DONE (R413, R414): a training port has its mode; a renegotiated one is in service again. -/
def execEthNegotiationDone (p : Port) (peerModes : BitVec 3) (s : State) : Host.Outcome State Fault Refusal :=
  let st := lnkState s p.val
  .next (onlyIf ((isGlobal p.val || isFront p.val) && portPresent s p.val && fnReady s 8 && flag s .lnkPctl_en p.val &&
      (decide (st = 1) || decide (st = 5))) (fun s =>
    let m := topMode (ownModes s p.val &&& peerModes)
    if m = 0 then leaveService s p.val 0
    else
      let s1 := put s .lnkPstat_eth_mode m p.val
      if st = 1 then s1
      else
        let s2 := put (put s1 .lnkPstat_width (modeLanes m) p.val) .lnkPstat_lanes_ok (laneMask (modeLanes m)).toNat p.val
        resume s2 p.val) s)

/-- The address is one that the port answers for: its own addresses in use, and its link-local IPv6 (R416), which is formed from its MAC
address (log entry 49). -/
def ethOwn (s : State) (e : Nat) (v6 : Bool) (target : Nat) : Bool :=
  if v6 then (flag s .lnkEgw_v6_valid e && decide (ethV6 s e = target)) || decide ((linkLocal (mget 0 s.fuses.macs (40 + e))).toNat = target)
  else flag s .lnkEv4_valid e && decide (get s .lnkEv4_addr e = target)

/-- An on-link destination is resolved: the frames that wait for it leave, where the port still has an address (R416). -/
def learn (s : State) (p : Nat) (dst : BitVec 128) (mac : BitVec 48) : State :=
  let l := linkOf s p
  let l1 := { l with
    neigh := l.neigh.filter (fun n => n.1 != dst) ++ [(dst, mac)], resolve := l.resolve.filter (fun f => f.dst != dst) }
  each (l.resolve.filter (fun f => f.dst == dst)) (fun s f => sendFrame s p f) (setLink s p l1)

/-- ETH_ARP_ND_RX (R416): an E port answers for its own addresses, and learns from the answers to its own questions. -/
def execEthArpNdRx (e : Fin 7) (v6 : Bool) (m : NeighMsg) (s : State) : Host.Outcome State Fault Refusal :=
  let p := 40 + e.val
  .next (onlyIf (inService s p && fnReady s 8) (fun s =>
    if m.reply then learn s p (if v6 then m.target else BitVec.ofNat 128 (0xFFFF * 2 ^ 32 + m.target.toNat % 2 ^ 32)) m.mac
    else if ethOwn s e.val v6 m.target.toNat then emit s (.arp p v6 true m.target)
    else s) s)

/-! ### `LNK_PpCTL` (R410) -/

/-- A full training starts: it restores dropped lanes, and the link carries nothing until it ends (R331, R410). -/
def startTraining (s : State) (p : Nat) : State :=
  let l := linkOf s p
  let ep := if isModulePort p && inService s p then some (l.episode.getD s.time.ticks) else l.episode
  let s1 := setLink s p { l with own := 0, half := false, peer := none, capAcked := false, failed := 0, episode := ep }
  let s2 := { s1 with time := { s1.time with exch := mset none s1.time.exch p none } }
  let s3 := if isParent s2 p && inService s2 p then loseSync s2 else s2
  put (put (put s3 .lnkPstat_state 1 p) .lnkPstat_width 0 p) .lnkPstat_lanes_ok 0 p

/-- A write of `LNK_PpCTL`: en 0 and prbs 1 take the port out of service; retrain, and a port enabled again, train. -/
def lnkCtlWrite (s : State) (p v : Nat) : State :=
  let s1 := put (put (put s .lnkPctl_en (bitsOf v 0 0) p) .lnkPctl_allow_half (bitsOf v 1 1) p) .lnkPctl_eth_modes (bitsOf v 5 3) p
  let s2 := put (put s1 .lnkPctl_tx_swing (bitsOf v 7 6) p) .lnkPctl_lpi_dis (bitsOf v 8 8) p
  let s3 := put (put s2 .lnkPctl_adapt_hold (bitsOf v 9 9) p) .lnkPctl_prbs (bitsOf v 10 10) p
  let was := flag s .lnkPctl_en p && !flag s .lnkPctl_prbs p
  let now := tst v 0 && !tst v 10
  if !now then (if was then leaveService s3 p 0 else s3)
  else if !was || tst v 2 then startTraining s3 p
  else if tst v 8 && decide (lnkState s3 p = 4) then resume s3 p
  else s3

/-- A register of a present port takes a write. -/
def portWrite (s : State) (p : Nat) (f : State → State) : State := onlyIf (fn0Up s && fnReady s 8 && portPresent s p) f s

/-- The word that `LNK_PpCTL` reads as. -/
def lnkCtlWord (s : State) (p : Nat) : Nat :=
  get s .lnkPctl_en p + 2 * get s .lnkPctl_allow_half p + 8 * get s .lnkPctl_eth_modes p + 64 * get s .lnkPctl_tx_swing p +
  256 * get s .lnkPctl_lpi_dis p + 512 * get s .lnkPctl_adapt_hold p + 1024 * get s .lnkPctl_prbs p

/-- LINK_RETRAIN (R410): a write of retrain, the other fields as they are. -/
def execLinkRetrain (p : Port) (s : State) : Host.Outcome State Fault Refusal :=
  .next (portWrite s p.val (fun s => lnkCtlWrite s p.val (lnkCtlWord s p.val + 4)))

/-- LINK_PRBS ("Emission and immunity"): a write of prbs, the other fields as they are. -/
def execLinkPrbs (p : Port) (s : State) : Host.Outcome State Fault Refusal :=
  .next (portWrite s p.val (fun s => lnkCtlWrite s p.val (lnkCtlWord s p.val % 1024 + 1024)))

/-! ### `CTL_PLACE` (R12 to R14, R407) -/

/-- The lanes of a module port have trained, whether the link has settled or still waits for its peer. -/
def linkTrained (s : State) (p : Nat) : Bool :=
  decide (2 ≤ lnkState s p ∧ lnkState s p ≤ 5) || (decide (lnkState s p = 1) && decide ((linkOf s p).own ≠ 0))

/-- A write of `CTL_PLACE`: ignored while placed; one that sets placed brings new capability flits on every trained link, and
placement checks. -/
def ctlPlace (s : State) (v : Nat) : State :=
  if placed s then s
  else
    let s1 := put (put (put s .ctlPlace_slot (bitsOf v 1 0)) .ctlPlace_tray (bitsOf v 4 2)) .ctlPlace_group (bitsOf v 11 5)
    let s2 := put (put s1 .ctlPlace_groups_m1 (bitsOf v 18 12)) .ctlPlace_placed (bitsOf v 19 19)
    if tst v 19 then
      each (List.range 48) (fun s p =>
        if isModulePort p && portPresent s p && linkTrained s p then
          pumpFlits (checkPlace (sendCap s p) p) p else s) s2
    else s2

/-- CTL_PLACE_WRITE (R12, R13, R14, R407). -/
def execCtlPlaceWrite (v : BitVec 64) (s : State) : Host.Outcome State Fault Refusal :=
  .next (onlyIf (fn0Up s) (fun s => ctlPlace s v.toNat) s)

end Sys2Proof.Machine
end

