-- ==== Sys2Proof/Machine/Epoch.lean ====
section
/-!
DEFINITION. What happens at an epoch boundary (R51): snapshots (R133, R347), the apply of shadows, shape images, commits and
layouts (R47 to R56, R87 to R93, R390, R391, R395), the power transition (R447); and what moves the tide: steps (R40),
measurements from PTP, TIDE_PPS and links (R34 to R39, R417), and slot boundaries (R46).
-/
namespace Sys2Proof.Machine

/-! ### Snapshots (R133, R347) -/

/-- The sum of the eight counters of a core. -/
def sumEight (s : State) (f : Fld) (c : Nat) : Nat := ((List.range 8).map (fun a => get s f (8 * c + a))).sum

/-- A field copied from an instance of another. -/
def copyFld (s : State) (src dst : Fld) (i : Nat) : State := put s dst (get s src i) i

/-- The snapshot registers of core `c` for the boundary of an epoch. -/
def snapCore (s : State) (epoch c : Nat) : State :=
  let s1 := put (put s .coreSnapIssued_slots (sumEight s .coreArrIssued_slots c) c)
    .coreSnapGated_slots (sumEight s .coreArrGated_slots c) c
  let s2 := put (put s1 .coreSnapEpoch_epoch epoch c) .coreIsnapEpoch_epoch epoch c
  let s3 := each (List.range 13) (fun s i => copyFld (copyFld s .coreIdleP_clk .coreIsnapP_clk (13 * c + i))
    .coreIdleF_clk .coreIsnapF_clk (13 * c + i)) s2
  let s4 := copyFld s3 .coreIdleClk_clk .coreIsnapClk_clk c
  put (put s4 .coreIsnapPj_both (get s4 .coreIdlePj_job c + 4096 * get s4 .coreIdlePj_valid c) c)
    .coreIsnapFj_both (get s4 .coreIdleFj_job c + 4096 * get s4 .coreIdleFj_valid c) c

/-- COUNTER_SNAPSHOT: the cores of every die that is not in reset. -/
def takeSnapshots (s : State) (epoch : Nat) : State :=
  each (allCores.filter (fun c => fnReady s (coreFn c))) (fun s c => snapCore s epoch c) s

/-! ### Shadows (R47, R48, R50, R395) -/

/-- Some slot of the job is armed. -/
def jobArmed (s : State) (job : Nat) : Bool := (armedTemplates s).any (fun r => tJob r == job)

/-- The scope enters eclipse without a late apply (R89, R395): `TIDE_ECLIPSE` and the log show nothing. -/
def eclipseQuiet (s : State) (sc : Nat) : State := { s with time := { s.time with eclipse := (sc :: s.time.eclipse).eraseDups } }

/-- A field of a slot clock. -/
def ofSlotClock (f : Fld) : Bool := decide (f = .tideSlot_period_log2 ∨ f = .tideSlot_phase ∨ f = .tideSlot_en)

/-- A shadow becomes active. A slot clock that it changes has its boundaries from the epoch on (R46). -/
def takeShadow (s : State) (h : Shadow) : State :=
  let s0 := if ofSlotClock h.fld && decide (get s h.fld h.idx ≠ h.val) then slotsFrom s h.idx (65536 * s.time.lastEpoch) else s
  let s1 := put s0 h.fld h.val h.idx
  let s2 := if h.fld = .grdJoba_layout then put s1 .grdJobb_layout_wait 0 h.idx else s1
  { s2 with time := { s2.time with shadows := s2.time.shadows.filter (fun x => decide (x ≠ h)) } }

/-- LAYOUT_APPLY where slots of the job are armed: the job eclipses and the value stays pending (R395). -/
def holdLayout (s : State) (h : Shadow) : State := put (eclipseQuiet s h.scope) .grdJobb_layout_wait 1 h.idx

/-- Every shadow of a scope that was written and is not held (R48, R50). -/
def applyShadows (s : State) (sc : Nat) : State :=
  each (s.time.shadows.filter (fun h => h.scope == sc && !h.held))
    (fun s h => if h.fld = .grdJoba_layout ∧ jobArmed s sc = true then holdLayout s h else takeShadow s h) s

/-- In mode 1 the dies run at the set clock from the epoch on, or below it where a limit holds them (R455, R459). -/
def retuneDies (s : State) : State := if flag s .pwrCtl_mode then settleDies s else s

/-! ### Images (R87 to R93, R335, R346) -/

/-- The functions of an image's mask that take the apply (R52). -/
def takers (s : State) (p : PendImg) : List Nat := (List.range 9).filter (fun n => p.mask.getLsbD n && !inReset s n)

def takerMask (s : State) (p : PendImg) : Nat := (takers s p).foldl (fun m n => m + 2 ^ n) 0

/-- The structure of function `n` under an image; FN0 keeps a record of the whole structure in force, which a narrow load
leaves alone. -/
def layOn (p : PendImg) (m : SMap Structure) (n : Nat) : SMap Structure :=
  let t := overlay (mget Structure.init m n) p.scope p.str
  if n = 0 then (if p.full then mset Structure.init m 0 t else m) else mset Structure.init m n (partOf n t)

/-- An array without what a job slot left in it (R102). -/
def forgetSlot (sl : Slot) (a : ArrSt) : ArrSt :=
  let i := slotIdx sl
  { a with
    shadow := dropSlot 4 sl a.shadow
    active := dropSlot 4 sl a.active
    banks := dropSlot 2 sl a.banks
    shd := dropSlot 2 sl a.shd
    fed := a.fed.filter (fun p => p.1 % 2 != i)
    sent := mset 0 a.sent i 0 }

def idleFld : Slot → Fld
  | .prim => .coreIdleP_clk
  | .fill => .coreIdleF_clk

def idleJobFld : Slot → Fld
  | .prim => .coreIdlePj_job
  | .fill => .coreIdleFj_job

def idleValidFld : Slot → Fld
  | .prim => .coreIdlePj_valid
  | .fill => .coreIdleFj_valid

/-- A job slot that has a different job now, or none (R346): its counters clear, and what the old job left in it is gone
(R102, R137). A new primary has counted no cause yet, so the filler's gate is shut (R340). -/
def newJob (s : State) (c : Nat) (sl : Slot) : State :=
  let s1 := each (List.range 13) (fun s i => put s (idleFld sl) 0 (13 * c + i)) s
  let s2 := put (put s1 (idleJobFld sl) (jobIn s c sl) c) (idleValidFld sl) (bit (slotGroup s c sl).isSome) c
  let k := coreOf s2 c
  setCore s2 c { k.setSlot sl SlotSt.init with
    arr := mmap ArrSt.init (forgetSlot sl) k.arr, gate := decide (sl = .fill) && k.gate }

/-- The arrays of a job slot that an apply routes anew match TSTREAMs from here on: those that the old routing counted, and the rows
that it kept, are past (R123). -/
def reroute (s : State) (c : Nat) (sl : Slot) : State :=
  let k := coreOf s c
  setCore s c { k with arr := mmap ArrSt.init (fun a => { a with
    fed := a.fed.filter (fun p => p.1 % 2 != slotIdx sl), sent := mset 0 a.sent (slotIdx sl) 0 }) k.arr }

/-- The job slots whose job, or the routing of whose arrays, an apply has changed. -/
def changeJobs (old new : State) : State :=
  each allCores (fun s c => each bothSlots (fun s sl =>
    if jobIn old c sl ≠ jobIn new c sl then newJob s c sl
    else if feederOf old c sl ≠ feederOf new c sl then reroute s c sl
    else s) s) new

/-- `SHP_STAT.pending` shows whether an accepted image awaits its epoch. -/
def showPending (s : State) : State := put s .shpStat_pending (bit (!s.shp.pend.isEmpty))

/-- The structure of an image is laid into the functions that take it; a full load sets the jobs that are resident (R335). -/
def layImage (s : State) (p : PendImg) : State :=
  let act := (takers s p).foldl (layOn p) s.shp.act
  let jobs := if p.full then jobsOf (mget Structure.init act 0) else s.shp.jobs
  let s1 := { s with shp := { s.shp with act := act, jobs := jobs, anyActive := true, pend := s.shp.pend.filter (fun q => q.scope != p.scope) } }
  changeJobs s (put (showPending s1) .shpStat_jobs jobs.length)

/-- The bits of a mask clear in `SHP_STAT.stale_fn`. -/
def clearStale (s : State) (m : Nat) : State :=
  put s .shpStat_stale_fn ((List.range 9).foldl (fun a n => if tst (get s .shpStat_stale_fn) n && !tst m n then a + 2 ^ n else a) 0)

/-- SHA-256 of a digest followed by a measurement. -/
def chainOf (d : Nat) (m : BitVec 256) : Nat := digestNum (sha256 (toLe 32 d ++ toLe 32 m.toNat))

def digestOf (m : BitVec 256) : Nat := digestNum (sha256 (toLe 32 m.toNat))

/-- After an apply of the restore: it closes where the restore digest equals the chain digest (R93). -/
def endRestore (s : State) (m : Nat) : State :=
  if getDigest s .shpRchain_digest = getDigest s .shpChain_digest then closeRestore (clearStale s m) else s

/-- The measurements after an apply of a full load (R90, R92). -/
def measureFull (s : State) (p : PendImg) (m : Nat) : State :=
  if p.scope = modScope then
    closeRestore (clearStale (putDigest (putDigest s .shpAmeas_digest p.meas.toNat) .shpChain_digest (digestOf p.meas)) m)
  else putDigest s .shpChain_digest (chainOf (getDigest s .shpChain_digest) p.meas)

/-- What an apply of a narrow load does to the restore (R91, R93). -/
def measureNarrow (s : State) (p : PendImg) (m : Nat) : State :=
  if p.scope = modScope then
    let s1 := putDigest (put s .shpStat_restore_open 1) .shpRchain_digest (digestOf p.meas)
    endRestore { s1 with shp := { s1.shp with restore := some p.mask } } m
  else if p.restore && s.shp.restore.isSome then
    endRestore (putDigest s .shpRchain_digest (chainOf (getDigest s .shpRchain_digest) p.meas)) m
  else s

/-- IMAGE_APPLY of an image whose jobs are quiescent (R89 to R93). -/
def applyImage (s : State) (p : PendImg) : State :=
  let m := takerMask s p
  let s1 := layImage s p
  if p.full then measureFull s1 p m else measureNarrow s1 p m

/-- The jobs in an image's scope are quiescent (R89). -/
def scopeQuiescent (s : State) (sc : Nat) : Bool := if sc = modScope then s.shp.jobs.all (quiescent s) else quiescent s sc

/-- The image of a scope at its epoch (R89): it applies, or its jobs enter eclipse and it stays pending. -/
def imageAtEpoch (s : State) (sc : Nat) : State :=
  match s.shp.pend.find? (fun p => p.scope == sc && !p.held) with
  | none => s
  | some p => if scopeQuiescent s sc then applyImage s p else put (eclipseQuiet s sc) .shpStat_not_quiescent 1

/-! ### COMMIT and ROLLBACK at their epoch (R390, R391) -/

/-- The command is done with: it is answered, and its job has no pending command. -/
def endCommit (s : State) (job : Nat) (c : CommitCmd) (status code : Nat) : State :=
  answer { s with ctl := { s.ctl with commits := mset none s.ctl.commits job none } } c.hdr (if c.isCommit then 0x60 else 0x61)
    status code []

/-- State 1 where the alternate bank has been written, else 0 (R386). -/
def backState (s : State) (j : Nat) : State := put s .grdJobb_state (get s .grdJobb_alt_written j) j

/-- `n` bytes at `a` of a job's space are copied to `b`. -/
def copyVa (job n : Nat) (s : State) (a b : Nat) : State :=
  let x := readVa s job 255 1 a n
  if x.2.1 = 0 then (writeVa x.1 job 255 1 b x.2.2).1 else x.1

/-- One extent of a skipped shard's master weights and moments in state range `r` takes the values before the step: the bank
that the step wrote takes those of committed state `c` (R229, R384). -/
def keepExtent (job c : Nat) (s : State) (x : Nat × Nat × Nat) : State :=
  let bank (n : Nat) : Nat := 65536 * (if n % 2 = 0 then get s .grdBrc_bank0 x.1 else get s .grdBrd_bank1 x.1) + x.2.1
  let len := min x.2.2 (65536 * get s .grdBrb_length x.1 - x.2.1)
  if x.1 < 64 ∧ flag s .grdBra_valid x.1 = true ∧ get s .grdBra_job x.1 = job ∧ flag s .grdBra_kind x.1 = false then
    copyVa job len s (bank c) (bank (c + 1))
  else s

/-- A flagged shard at the commit of its step (R229, R230): skipped, counted and logged, or counted as applied. Where its master
weights and moments lie is a free value (log entry 151). -/
def commitShard (c : Nat) (s : State) (x : Shard) : State :=
  if x.skip then
    let ext := Config.shardState x.job x.dst x.len
    let s1 := bump (each ext (keepExtent x.job c) s) .numNancnt_skipped
    logEvt s1 0x024 0 x.job x.step ((ext.map (·.1)).headD 0 % 64) 0
  else bump s .numNancnt_applied

/-- The flagged shards of a job's step are committed. -/
def commitShards (s : State) (job c step : Nat) : State :=
  each (s.col.shards.filter (fun x => x.job == job && x.step == step)) (commitShard c) s

/-- Nothing remains of a job's flagged shards of a step. -/
def dropShards (s : State) (job step : Nat) : State :=
  { s with col := { s.col with shards := s.col.shards.filter (fun x => !(x.job == job && x.step == step)) } }

/-- COMMIT_APPLY (R390). -/
def commitApply (s : State) (job j : Nat) (c : CommitCmd) : State :=
  let cur := get s .grdJobb_committed j
  let step := c.step.toNat
  if step = (cur + 1) % 2 ^ 32 ∧ flag s .grdJobb_alt_written j = true then
    let s0 := dropShards (commitShards s job cur step) job step
    let s1 := put (put (put (put s0 .grdJobb_committed step j) .grdJobb_undo_ok 1 j) .grdJobb_alt_written 0 j) .grdJobb_state 0 j
    let s2 := if c.ctcEn then
        each (allCores.filter (fun k => tcOwner s k c.ctc.toNat == job)) (fun s k => tcAdd s k c.ctc.toNat 1) s1
      else s1
    endCommit (bump s2 .grdJobd_commits 1 j) job c 0 0
  else if step = cur then endCommit (backState s j) job c 0 0
  else endCommit (bump (backState s j) .grdJobd_failed 1 j) job c 1 0x09

/-- The alternate banks of a job hold undefined contents (R391). -/
def scribbleBanks (s : State) (job cur : Nat) : State :=
  each ((List.range 64).filter (fun r => flag s .grdBra_valid r && get s .grdBra_job r == job && !flag s .grdBra_kind r))
    (fun s r => scribbleVa 255 job s
      ((if (cur + 1) % 2 = 0 then get s .grdBrc_bank0 r else get s .grdBrd_bank1 r) * 65536) (65536 * get s .grdBrb_length r)) s

/-- ROLLBACK_APPLY (R391). -/
def rollbackApply (s : State) (job j : Nat) (c : CommitCmd) : State :=
  let cur := get s .grdJobb_committed j
  let step := c.step.toNat
  let ok (s : State) : State := endCommit (bump (put s .grdJobb_state 0 j) .grdJobd_rollbacks 1 j) job c 0 0
  if step = (cur + 1) % 2 ^ 32 then
    let s := dropShards s job step
    if flag s .grdJobb_alt_written j then ok (put (scribbleBanks s job cur) .grdJobb_alt_written 0 j) else ok s
  else if step = cur ∧ flag s .grdJobb_undo_ok j = true then
    ok (put (put (put s .grdJobb_committed ((cur + (2 ^ 32 - 1)) % 2 ^ 32) j) .grdJobb_undo_ok 0 j) .grdJobb_alt_written 0 j)
  else endCommit (bump (backState s j) .grdJobd_failed 1 j) job c 1 0x09

/-- The pending COMMIT or ROLLBACK of a job at an apply of its scope (R389); where the job has lost its entry meanwhile, the
command is refused with status 5. -/
def commitAtEpoch (s : State) (job : Nat) : State :=
  match mget none s.ctl.commits job with
  | none => s
  | some c => match jobEntry s job with
    | none => endCommit s job c 5 0
    | some j => if c.isCommit then commitApply s job j c else rollbackApply s job j c

/-! ### An epoch (R48, R51 to R56) -/

/-- The functions in function reset miss this apply (R52). -/
def missedNow (s : State) : BitVec 9 :=
  s.pwr.rstWait.foldl (fun a x => a ||| x.2) 0 &&& BitVec.ofNat 9 (get s .rstStat_in_reset)

/-- The apply of a scope at an epoch that was named in time: what is pending and not held applies, and eclipse ends
(ECLIPSE_END, R56), unless an image or a layout must still wait. The eclipse of a function that missed an apply in reset ends with the
next apply of any scope (R52; log entry 180). -/
def applyScope (s : State) (sc : Nat) : State :=
  let s1 := clearArm (setNamed s sc none) sc
  let s2 := { s1 with time := { s1.time with eclipse := s1.time.eclipse.filter (fun x => x != sc), missed := missedNow s1 } }
  let s3 := imageAtEpoch (applyShadows s2 sc) sc
  let s4 := if sc = modScope then retuneDies s3 else commitAtEpoch s3 sc
  clearHeld s4 sc

/-- A scope at the epoch named for it. -/
def scopeAtEpoch (s : State) (sc : Nat) : State :=
  match namedOf s sc with
  | none => s
  | some n => if n.late then beginEclipse (setNamed s sc none) sc n.epoch else applyScope s sc

/-- The scopes whose named epoch has come, with that epoch. -/
def dueScopes (s : State) (epoch : Nat) : List (Nat × Nat) :=
  s.time.named.filterMap (fun p => match p.2 with
    | none => none
    | some n => if n.epoch ≤ epoch then some (p.1, n.epoch) else none)

/-- The order of applies: by epoch, then the module, then jobs ascending (R87). -/
def dueRank (p : Nat × Nat) : Nat := p.2 * 8192 + (if p.1 = modScope then 0 else p.1 + 1)

def insertDue (p : Nat × Nat) : List (Nat × Nat) → List (Nat × Nat)
  | [] => [p]
  | x :: l => if dueRank p ≤ dueRank x then p :: x :: l else x :: insertDue p l

/-- Every named epoch that has come applies. -/
def applyDue (s : State) (epoch : Nat) : State :=
  each ((dueScopes s epoch).foldr insertDue []) (fun s p => scopeAtEpoch s p.1) s

/-- POWER_TRANSITION_START at its epoch (R447, R448). -/
def powerAtEpoch (s : State) (epoch : Nat) : State :=
  match s.pwr.pend with
  | none => s
  | some t => if t.epoch ≤ epoch then startTransition s t else s

/-- An epoch boundary (R51): the interval closes under the old settings, then what is named applies, then the power
transition starts; arrivals that waited are taken up again. -/
def epochBody (s : State) (epoch : Nat) : State :=
  let s1 := wantLower (takeSnapshots s epoch)
  retryHeld (powerAtEpoch (applyDue { s1 with time := { s1.time with lastEpoch := epoch } } epoch) epoch)

/-- EPOCH_BOUNDARY (R32, R51): the next boundary that the tide has passed; nothing where it has passed none. While FN0 is in
reset the tide runs alone (R57). -/
def execEpochBoundary (s : State) : Host.Outcome State Fault Refusal :=
  .next (onlyIf (decide (s.time.lastEpoch < effTide s / 65536))
    (fun s =>
      if fn0Up s then epochBody s (s.time.lastEpoch + 1)
      else { s with time := { s.time with lastEpoch := s.time.lastEpoch + 1 } }) s)

/-! ### Steps of the tide (R40) -/

/-- What a step of the tide from one value to another brings: a forward step over boundaries takes the last of them, a backward step
leaves named epochs pending, and slot boundaries stepped over are not seen. -/
def afterStep (s : State) (x : Nat × Nat) : State :=
  let e := x.2 / 65536
  stepSlots (if x.1 / 65536 < e then epochBody s e else { s with time := { s.time with lastEpoch := min s.time.lastEpoch e } })

/-- A step from `s` to the time `t`, and what follows it. -/
def stepTo (s : State) (t : TimeSt) : State := afterStep { s with time := t } (s.time.tide, t.tide)

/-- A write of `TIDE_SET` without what the step brings (R40, R70). -/
def tideSetOnly (s : State) (v : Nat) : State :=
  if mayStep s then { s with time := setTide s.time v } else logEvt s 0x011 0 0 0 v 0

/-- A write of `TIDE_SET` (R40). -/
def tideSetWrite (s : State) (v : Nat) : State :=
  if mayStep s then stepTo s (setTide s.time v) else logEvt s 0x011 0 0 0 v 0

/-- TIDE_SET (R35, R40). -/
def execTideSet (tide : BitVec 64) (s : State) : Host.Outcome State Fault Refusal :=
  .next (onlyIf (fn0Up s) (fun s => tideSetWrite s tide.toNat) s)

/-- The tide in quarters of a ns (R37). -/
def tideQuarters (s : State) : Int := ((4 * s.time.tide + s.time.frac / 2 ^ 30 : Nat) : Int)

/-- TIDE_MEASUREMENT (R39, R40): the measured offset of the source from the tide, in quarters of a ns. -/
def measurement1 (s : State) (q : Int) : State :=
  let s1 := measured s q
  if measureSteps s1 q then stepTo s1 (shiftTide s1.time q) else s1

/-- Half the difference of the two legs of an exchange: how far the far clock is ahead. An odd number of quarters of a ns is
rounded down (R37; log entry 107). -/
def legsOffset (out back : Int) : Int := (out - back) / 2

/-- Half the sum of the two legs: the path delay (R37). -/
def legsDelay (out back : Int) : Int := (out + back) / 2

/-- A Sync with its origin time known: a Delay_Req goes out (R34; log entry 135: one for each Sync). -/
def ptpSynced (s : State) (p : Cp) (v6 : Bool) (t1 t2 : Int) : State :=
  let k := s.time.ptp
  emit { s with time := { s.time with
      ptp := { sync := none, req := some (k.next, t1, t2, tideQuarters s), next := (k.next + 1) % 2 ^ 16 } } }
    (.ptp p v6 (get s .tideSync_ptp_domain) k.next)

/-- A PTP message for the client (R34): a Sync of a one-step master gives its origin time, one of a two-step master waits for
its Follow_Up, and a Delay_Resp to the outstanding request completes a measurement, to which `TIDE_SYNC.offset` is added. -/
def ptpMessage (s : State) (p : Cp) (m : PtpMsg) : State :=
  let at_ : Int := (m.time.toNat : Int) + m.corr
  match m.kind with
  | .sync =>
    if m.twoStep then
      { s with time := { s.time with ptp := { s.time.ptp with sync := some (m.seq.toNat, tideQuarters s, m.corr) } } }
    else ptpSynced s p m.v6 at_ (tideQuarters s)
  | .followUp => match s.time.ptp.sync with
    | some (n, t2, corr) => if n = m.seq.toNat then ptpSynced s p m.v6 (at_ + corr) t2 else s
    | none => s
  | .delayResp => match s.time.ptp.req with
    | some (n, t1, t2, t3) =>
      if n = m.seq.toNat then
        let t4 : Int := (m.time.toNat : Int) - m.corr
        let s1 := { s with time := { s.time with ptp := { s.time.ptp with req := none }, delay := legsDelay (t4 - t3) (t2 - t1) } }
        measurement1 s1 (legsOffset (t4 - t3) (t2 - t1) + 4 * signedOf 42 (get s .tideSync_offset))
      else s
    | none => s
  | .other => s

/-- PTP_MESSAGE_RX (R33, R34): the port is the source chosen, and the message's domain is `TIDE_SYNC.ptp_domain`. -/
def execPtpMessageRx (p : Cp) (domain : BitVec 8) (m : PtpMsg) (s : State) : Host.Outcome State Fault Refusal :=
  .next (onlyIf (fn0Up s && decide (get s .tideCtl_sync_src = 1 + p.val) &&
      decide (domain.toNat = get s .tideSync_ptp_domain))
    (fun s => ptpMessage s p m) s)

/-- The offset that an edge of TIDE_PPS_IN shows (R35): the nearest whole second, in quarters of a ns. -/
def ppsOffset (s : State) : Int :=
  let d : Int := ((get s .tidePps_in_phase % secNs : Nat) : Int) - ((s.time.tide % secNs : Nat) : Int)
  let e : Int := if d > 500000000 then d - 1000000000 else if d ≤ -500000000 then d + 1000000000 else d
  4 * e - ((s.time.frac / 2 ^ 30 : Nat) : Int)

/-- The edge is accepted (R487): the first, or 1 s ± 1 ms after the last one accepted. -/
def ppsAccepted (s : State) : Bool :=
  match s.time.lastPps with
  | none => true
  | some t => decide (t + 999000000 ≤ s.time.ticks) && decide (s.time.ticks ≤ t + 1001000000)

/-- TIDE_PPS_IN_EDGE (R35, R39, R487). -/
def execTidePpsInEdge (s : State) : Host.Outcome State Fault Refusal :=
  .next (onlyIf (fn0Up s && decide (get s .tideCtl_sync_src = 3) && ppsAccepted s)
    (fun s => measurement1 { s with time := { s.time with lastPps := some s.time.ticks } } (ppsOffset s)) s)

/-! ### The timestamp exchange (R37, R38, R417) -/

/-- The tide in quarters of a ns, modulo 2^64. -/
def stampNow (s : State) : Nat := (4 * s.time.tide + s.time.frac / 2 ^ 30) % 2 ^ 64

/-- The link of a port carries the exchange: a tray, rack or global link in service. -/
def stampLink (s : State) (p : Nat) : Bool := fn0Up s && molLink s p

/-- A timestamp flit leaves (R417). -/
def sendStamp (s : State) (p : Nat) (f : TsFlit) : State := sendFlit s p flitStamp (tsPayload f)

/-- TIMESTAMP_EXCHANGE_SEND (R37): every 4,096 ns in each direction, also in Doze (R412). -/
def execTimestampExchangeSend (p : Port) (s : State) : Host.Outcome State Fault Refusal :=
  let l := linkOf s p.val
  let due := match l.stampAt with
    | none => true
    | some t => decide (t + 4096 ≤ s.time.ticks)
  .next (onlyIf (stampLink s p.val && due) (fun s =>
    let id := l.stampId % 2 ^ 16
    let s1 := setLink s p.val { l with stampAt := some s.time.ticks, stampId := (id + 1) % 2 ^ 16 }
    let s2 := { s1 with time := { s1.time with exch := mset none s1.time.exch p.val (some (id, stampNow s)) } }
    sendStamp s2 p.val ⟨false, BitVec.ofNat 4 (get s .tideStat_depth), BitVec.ofNat 2 (tideState s), BitVec.ofNat 16 id,
      BitVec.ofNat 64 (stampNow s), 0, 0⟩) s)

/-- The depth that the parent reports (R38): 15 loses sync, else the follower is one deeper. -/
def noteDepth (s : State) (d : Nat) : State := if d = 15 then loseSync s else put s .tideStat_depth (d + 1)

/-- The difference of two timestamps modulo 2^64. -/
def stampDiff (a b : Nat) : Int := signedOf 64 ((a + 2 ^ 64 - b) % 2 ^ 64)

/-- offset = ((t2 - t1) - (t4 - t3)) / 2 less `TIDE_SYNC.asym`, in quarters of a ns (R37). -/
def exchOffset (s : State) (t1 t2 t3 t4 : Nat) : Int :=
  legsOffset (stampDiff t2 t1) (stampDiff t4 t3) - signedOf 8 (get s .tideSync_asym)

/-- path delay = ((t2 - t1) + (t4 - t3)) / 2, in quarters of a ns (R37). -/
def exchDelay (t1 t2 t3 t4 : Nat) : Int := legsDelay (stampDiff t2 t1) (stampDiff t4 t3)

/-- A timestamp response to the outstanding exchange (R38, R417): any other is discarded. -/
def stampResponse (s : State) (p : Nat) (f : TsFlit) (arrival : Nat) : State :=
  match mget none s.time.exch p with
  | none => s
  | some (id, t1) =>
    if id ≠ f.id.toNat then s
    else
      let s1 := { s with time := { s.time with exch := mset none s.time.exch p none } }
      if isParent s1 p then
        let s2 := noteDepth s1 f.depth.toNat
        if f.depth.toNat = 15 then s2
        else
          let s3 := { s2 with time := { s2.time with delay := exchDelay t1 f.t2.toNat f.t3.toNat arrival } }
          measurement1 s3 (exchOffset s t1 f.t2.toNat f.t3.toNat arrival)
      else s1

/-- A timestamp request is answered; the parent's depth counts in it too (R38). -/
def stampRequest (s : State) (p : Nat) (f : TsFlit) (arrival : BitVec 64) : State :=
  let s1 := sendStamp s p ⟨true, BitVec.ofNat 4 (get s .tideStat_depth), BitVec.ofNat 2 (tideState s), f.id, f.t1,
    arrival, BitVec.ofNat 64 (stampNow s)⟩
  if isParent s1 p then noteDepth s1 f.depth.toNat else s1

/-- TIMESTAMP_FLIT_RX (R37 to R40, R417); `arrival` is the tide at which the flit crossed the PCS, in quarters of a ns. -/
def execTimestampFlitRx (p : Port) (flit : BitVec 2048) (arrival : BitVec 64) (s : State) : Host.Outcome State Fault Refusal :=
  let f := tsFields flit
  .next (onlyIf (stampLink s p.val) (fun s => rxFlit s p.val flit flitStamp (fun s =>
    if f.response then stampResponse s p.val f arrival.toNat else stampRequest s p.val f arrival)) s)

/-! ### Slot boundaries (R46, R356, R366) -/

/-- An armed slot that waits for a boundary of the clock: the fires whose conditions held at the boundary may issue (R356). -/
def grantSlot (n : Nat) (s : State) (r : ChainRec) : State :=
  let k := tIssued s r.slot
  let top := mget 0 s.col.bound r.slot
  { s with col := { s.col with
    grant := mset 0 s.col.grant r.slot (if k < top then n else 0)
    upto := mset 0 s.col.upto r.slot (if k < top then top else 0)
    elig := mset 0 s.col.elig r.slot (s.time.ticks + 1) } }

/-- SLOT_BOUNDARY (R32, R46): the boundary has been reached and not seen yet. A WAITSLOT ends by it as well. -/
def execSlotBoundary (k : Fin 8) (s : State) : Host.Outcome State Fault Refusal :=
  match slotDue s k.val with
  | none => .next s
  | some b =>
    .next (onlyIf (fn0Up s) (fun s =>
      let n := mget 0 s.time.slotN k.val + 1
      let s1 := { s with time := { s.time with
        slotAt := mset 0 s.time.slotAt k.val (b + 1), slotN := mset 0 s.time.slotN k.val n } }
      each ((armedTemplates s1).filter (fun r => tSlotEn r && tSclk r == k.val)) (grantSlot n) s1) s)

/-! ### The committed step (R398) -/

/-- A write of `GRD_JOBjB.committed`. -/
def committedWrite (s : State) (j v : Nat) : State :=
  if get s .grdJobb_state j = 0 then put (put s .grdJobb_committed v j) .grdJobb_undo_ok 0 j else s

/-- GRD_COMMITTED_WRITE (R398). -/
def execGrdCommittedWrite (j : Fin 64) (v : BitVec 32) (s : State) : Host.Outcome State Fault Refusal :=
  .next (onlyIf (fn0Up s) (fun s => committedWrite s j.val v.toNat) s)

end Sys2Proof.Machine
end

