-- ==== Sys2Proof/Machine/Media.lean ====
section
/-!
DEFINITION. The media front (spec/15_media_front.md, R425 to R446). The reconstruction of a bitstream and the bits of an
encoded stream are free values of Config (log entry 9); everything between a decoded frame and the tokens is here.
-/
namespace Sys2Proof.Machine

/-! ### Rings (R427, R429) -/

def medOf (s : State) (e : Nat) : MedSt := mget MedSt.init s.med e
def setMed (s : State) (e : Nat) (x : MedSt) : State := { s with med := mset MedSt.init s.med e x }

/-- The records of a ring: 2^size_log2, 4 to 16; other values are treated as 4. -/
def ringSize (s : State) (e : Nat) : Nat :=
  let k := get s .medRing_size_log2 e
  2 ^ (if 4 ≤ k ∧ k ≤ 16 then k else 4)

def ringBase (s : State) (e : Nat) : Nat := get s .medRing_base e / 64 * 64

/-- The ring has a record to run. -/
def ringBusy (s : State) (e : Nat) : Bool :=
  flag s .medRing_en e && decide (get s .medHead_head e % ringSize s e ≠ get s .medTail_tail e % ringSize s e)

/-- A register of FN6 takes a write. -/
def fn6Write (s : State) (f : State → State) : State := onlyIf (fn0Up s && fnReady s 6) f s

/-- A write of `MED_EeRING`: base and size_log2 are ignored while the ring is enabled. -/
def ringWrite (s : State) (e v : Nat) : State :=
  let s1 := if flag s .medRing_en e then s
    else put (put s .medRing_base (bitsOf v 45 0) e) .medRing_size_log2 (bitsOf v 50 46) e
  put s1 .medRing_en (bitsOf v 51 51) e

/-- MEDIA_TAIL_WRITE (R427). -/
def execMediaTailWrite (e : Fin 2) (tail : BitVec 16) (s : State) : Host.Outcome State Fault Refusal :=
  .next (fn6Write s (fun s => put s .medTail_tail tail.toNat e.val))

/-! ### Memory (R283, R429) -/

/-- Bytes of a job's space, all of tier 0: why they are not read, and the bytes as far as they are. -/
def medRead (s : State) (job va n : Nat) : State × Option MedBad × Bytes :=
  (piecesOf va n).foldl (fun r p =>
    if r.2.1.isSome then r
    else match reachHome r.1 255 job p.2.1 false with
      | .here o =>
        let x := readOff (noteAccess r.1 255 job p.2.1 false) job 255 o p.2.2
        if x.2.1 = 0 then (x.1, none, r.2.2 ++ x.2.2) else (x.1, some (x.2.1, 9), r.2.2)
      | x => (noteMed r.1 job p.2.1 x, some (medBadOf x), r.2.2)) (s, none, [])

/-- A word of a list of words. -/
def wd (l : List Word) (i hi lo : Nat) : Nat := bitsOf (l.getD i 0).toNat hi lo

/-- The words of a byte string. -/
def medWords (b : Bytes) : List Word :=
  (List.range (b.length / 8)).map (fun i => BitVec.ofNat 64 (leNat ((b.drop (8 * i)).take 8)))

/-! ### Task records (R428) -/

def mOp (r : List Word) : Nat := wd r 0 3 0
def mAv1 (r : List Word) : Bool := wd r 0 4 4 == 1
def mJob (r : List Word) : Nat := wd r 0 16 5
def mDcore (r : List Word) : Nat := wd r 0 24 17
def mDtc (r : List Word) : Nat := wd r 0 32 25
def mTcEn (r : List Word) : Bool := wd r 0 33 33 == 1
def mEntry (r : List Word) : Nat := wd r 0 45 34
def mBits (r : List Word) : Nat := wd r 1 54 0
def mLen (r : List Word) : Nat := wd r 2 31 0
def mFrames (r : List Word) : Nat := wd r 2 47 32
def mParam (r : List Word) : Nat := wd r 3 54 0
def mTok (r : List Word) : Nat := wd r 4 54 0
def mPos (r : List Word) : Nat := wd r 5 54 0
def mMv (r : List Word) : Nat := wd r 6 54 0
def mScratch (r : List Word) : Nat := wd r 7 54 0

/-- The reserved bits of a record are zero and frames is not. -/
def recordOk (r : List Word) : Bool :=
  decide (wd r 0 63 46 = 0) && decide (wd r 2 63 48 = 0) && decide (mFrames r ≠ 0) &&
  [1, 3, 4, 5, 6, 7].all (fun i => wd r i 63 55 == 0)

/-- The counter of a task belongs to its job (R164, R430). -/
def mTcOk (s : State) (r : List Word) : Bool := !mTcEn r || (decide (mDcore r < 192) && tcOwner s (mDcore r) (mDtc r) == mJob r)

/-! ### Parameters of a decode task (R431) -/

/-- The parameter block of a decode task. -/
structure DecPar where
  cropX : Nat
  cropY : Nat
  cropW : Nat
  cropH : Nat
  rot   : Nat
  outW  : Nat
  outH  : Nat
  psize : Nat       -- the patch size itself
  tfr   : Nat       -- frames per token
  fmt   : Nat
  smode : Nat
  rnd   : Nat
  sat   : Bool
  capture : Bool
  fresh : Bool
  thin  : Bool
  tscale : Nat
  step  : Nat
  matrix : List Nat -- twelve FP32 codes
  sadThr : Nat
  mvThr : Nat
  keepMax : Nat
  stateVa : Nat
  tokenMax : Nat
  groupBase : Nat
  deriving DecidableEq, Repr

def decPar (w : List Word) : DecPar :=
  { cropX := wd w 0 12 0, cropY := wd w 0 25 13, cropW := wd w 0 39 26, cropH := wd w 0 53 40, rot := wd w 0 55 54,
    outW := wd w 1 11 0, outH := wd w 1 23 12, psize := 8 * 2 ^ wd w 1 25 24, tfr := 2 ^ wd w 1 27 26, fmt := wd w 1 31 28,
    smode := wd w 1 33 32, rnd := wd w 1 35 34, sat := wd w 1 36 36 == 1, capture := wd w 1 37 37 == 1,
    fresh := wd w 1 38 38 == 1, thin := wd w 1 39 39 == 1, tscale := wd w 2 31 0, step := wd w 2 63 32,
    matrix := (List.range 12).map (fun i => wd w (3 + i / 2) (32 * (i % 2) + 31) (32 * (i % 2))),
    sadThr := wd w 9 23 0, mvThr := wd w 9 33 24, keepMax := wd w 9 41 34, stateVa := wd w 10 54 0,
    tokenMax := wd w 11 31 0, groupBase := wd w 11 63 32 }

/-- The crop after rotation: width and height that are scaled. -/
def rotW (p : DecPar) : Nat := if p.rot % 2 = 1 then p.cropH else p.cropW
def rotH (p : DecPar) : Nat := if p.rot % 2 = 1 then p.cropW else p.cropH

/-- The box size of one axis (R435, step 1): the largest power of two not above n / o, at most 8. -/
def boxOf (n o : Nat) : Nat := if 8 * o ≤ n then 8 else if 4 * o ≤ n then 4 else if 2 * o ≤ n then 2 else 1

/-- One axis of a plane can be scaled (R435). -/
def axisOk (n o : Nat) : Bool := decide (o ≤ 2 * n) && decide (n ≤ 64 * o) && decide (n % boxOf n o = 0)

/-- The chroma planes can be scaled (R435). -/
def chromaOk (p : DecPar) : Bool := axisOk (rotW p / 2) (p.outW / 2) && axisOk (rotH p / 2) (p.outH / 2)

/-- Reserved bits are zero and fields lie in their ranges (R431, R432, R435). Of an AV1 stream only its frames tell whether there is
chroma to scale. -/
def decOk (av1 : Bool) (w : List Word) : Bool :=
  let p := decPar w
  decide (wd w 0 63 56 = 0) && decide (wd w 1 63 40 = 0) && decide (wd w 9 63 42 = 0) && decide (wd w 10 63 55 = 0) &&
  decide (wd w 12 63 0 = 0) && decide (wd w 13 63 0 = 0) &&
  decide (p.cropX % 2 = 0) && decide (p.cropY % 2 = 0) && decide (p.cropW % 2 = 0) && decide (p.cropH % 2 = 0) &&
  decide (16 ≤ p.cropW ∧ p.cropW ≤ 8192) && decide (16 ≤ p.cropH ∧ p.cropH ≤ 8192) &&
  decide (16 ≤ p.outW ∧ p.outW ≤ 2048) && decide (16 ≤ p.outH ∧ p.outH ≤ 2048) &&
  decide (p.outW % 16 = 0) && decide (p.outH % 16 = 0) && decide (p.outW % p.psize = 0) && decide (p.outH % p.psize = 0) &&
  decide (p.psize ≤ 32) && decide (p.tfr ≤ 4) && (p.fmt == bf16 || p.fmt == 5 || p.fmt == 6) && decide (p.smode ≤ 1) &&
  decide (p.rnd ≤ 1) && (decide (p.smode = 0) || tensorScaleOk p.tscale) &&
  axisOk (rotW p) p.outW && axisOk (rotH p) p.outH && (av1 || chromaOk p)

/-! ### From frame to planes (R434, R435) -/

/-- A plane of samples by row and column. -/
structure Pic where
  w : Nat
  h : Nat
  px : Nat → Nat → Nat

/-- Step 1: a sample as a 10-bit code value; one of 8 bits is multiplied by 4. -/
def codeValue (bits v : Nat) : Nat := if bits = 8 then 4 * (v % 2 ^ 8) else v % 2 ^ bits

/-- A plane of a decoded frame from its raster list. -/
def planeOf (bits : Nat) (l : List Nat) (w h : Nat) : Pic := ⟨w, h, fun r c => codeValue bits (l.getD (r * w + c) 0)⟩

/-- Step 2: crop and clockwise rotation. -/
def cropRot (q : Pic) (x y w h rot : Nat) : Pic :=
  match rot with
  | 0 => ⟨w, h, fun r c => q.px (y + r) (x + c)⟩
  | 1 => ⟨h, w, fun r c => q.px (y + (h - 1 - c)) (x + r)⟩
  | 2 => ⟨w, h, fun r c => q.px (y + (h - 1 - r)) (x + (w - 1 - c))⟩
  | _ => ⟨h, w, fun r c => q.px (y + c) (x + (w - 1 - r))⟩

/-- The box average of step 1 (log entry 50: the two axes may have boxes of different sizes). -/
def boxed (q : Pic) (kx ky : Nat) : Pic :=
  ⟨q.w / kx, q.h / ky, fun r c =>
    let n := kx * ky
    (((List.range ky).map (fun i => ((List.range kx).map (fun j => q.px (r * ky + i) (c * kx + j))).sum)).sum + n / 2) / n⟩

/-- The position of an output index: integer part and fraction (R435, step 2). -/
def scalePos (n o x : Nat) : Nat × Nat :=
  let p := min ((2 * x + 1) * n * 2 ^ 15 / o - 2 ^ 15) ((n - 1) * 2 ^ 16)
  (p / 65536, p % 65536)

/-- The scaler (R435). -/
def scalePic (q : Pic) (ow oh : Nat) : Pic :=
  let b := boxed q (boxOf q.w ow) (boxOf q.h oh)
  ⟨ow, oh, fun r c =>
    let x := scalePos b.w ow c
    let y := scalePos b.h oh r
    let hor (row : Nat) : Nat := b.px row x.1 * (65536 - x.2) + b.px row (min (x.1 + 1) (b.w - 1)) * x.2
    (hor y.1 * (65536 - y.2) + hor (min (y.1 + 1) (b.h - 1)) * y.2 + 2 ^ 31) / 2 ^ 32⟩

/-- The scaled luma of a frame. -/
def lumaOf (p : DecPar) (f : Config.Frame) : Pic :=
  scalePic (cropRot (planeOf f.bits f.luma f.width f.height) p.cropX p.cropY p.cropW p.cropH p.rot) p.outW p.outH

/-- A scaled chroma plane, each sample replicated over its 2 x 2 luma positions; 512 for monochrome. -/
def chromaOf (p : DecPar) (f : Config.Frame) (l : List Nat) : Pic :=
  if f.chroma = .mono then ⟨p.outW, p.outH, fun _ _ => 512⟩
  else
    let q := scalePic (cropRot (planeOf f.bits l (f.width / 2) (f.height / 2)) (p.cropX / 2) (p.cropY / 2) (p.cropW / 2) (p.cropH / 2)
      p.rot) (p.outW / 2) (p.outH / 2)
    ⟨p.outW, p.outH, fun r c => q.px (r / 2) (c / 2)⟩

/-- A fused multiply-add rounded to FP32 under roundTiesToEven with gradual underflow (R434, step 5). -/
def fma32 (a b c : Num) : Num := decodeNum fp32 (arithOut fp32 true 0 true true (numAdd (numMul a b) c)).1

/-- Channel `c` of a pixel (R434, step 5). -/
def channel (p : DecPar) (c y cb cr : Nat) : Num :=
  let m (i : Nat) : Num := decodeNum fp32 (p.matrix.getD (4 * c + i) 0)
  let n (v : Nat) : Num := .fin false v 0
  fma32 (m 2) (n cr) (fma32 (m 1) (n cb) (fma32 (m 0) (n y) (m 3)))

/-- A channel value converted (R434, step 6). -/
def medConvert (p : DecPar) (x : Num) : Nat × Counts :=
  let t := if p.smode = 1 then some (decodeNum fp32 p.tscale) else none
  let r := convertOne fp32 p.fmt p.rnd p.sat false 0 t x
  (r.1, { r.2 with max := if p.capture then r.2.max else none })

/-- A frame after step 4: luma and the two chroma planes at the output's size. -/
structure Scaled where
  y  : Pic
  cb : Pic
  cr : Pic

def scaleFrame (p : DecPar) (f : Config.Frame) : Scaled := ⟨lumaOf p f, chromaOf p f f.cb, chromaOf p f f.cr⟩

/-- The three channels of a pixel, converted (R434, steps 5 and 6). -/
def pixelElems (p : DecPar) (f : Scaled) (row col : Nat) : List (Nat × Counts) :=
  (List.range 3).map (fun k => medConvert p (channel p k (f.y.px row col) (f.cb.px row col) (f.cr.px row col)))

/-- The elements of a token in the order of R436: frame, row, column, channel. -/
def tokenElems (p : DecPar) (fs : List Scaled) (r c : Nat) : List Nat :=
  fs.flatMap (fun f => (List.range p.psize).flatMap (fun i => (List.range p.psize).flatMap (fun j =>
    (pixelElems p f (r * p.psize + i) (c * p.psize + j)).map (·.1))))

/-- What the conversion of an output frame counts and captures, kept in tokens or not (R434, step 6). -/
def frameCounts (p : DecPar) (f : Scaled) : Counts :=
  Counts.sum ((List.range p.outH).flatMap (fun r => (List.range p.outW).flatMap (fun c => (pixelElems p f r c).map (·.2))))

/-! ### Motion search (R438) -/

/-- A 2 x 2 box average, rounded. -/
def halfPic (q : Pic) : Pic := boxed q 2 2

/-- A sample at signed coordinates; outside the picture the nearest edge sample. -/
def edgePx (q : Pic) (r c : Int) : Nat := q.px (clampInt' 0 (q.h - 1) r) (clampInt' 0 (q.w - 1) c)
where
  clampInt' (lo hi : Nat) (v : Int) : Nat := min hi (max lo v.toNat)

/-- A sample at signed quarter-pel coordinates. -/
def quarterPx (q : Pic) (r c : Int) : Nat :=
  let y := r / 4
  let x := c / 4
  let fy := (r % 4).toNat
  let fx := (c % 4).toNat
  ((4 - fx) * (4 - fy) * edgePx q y x + fx * (4 - fy) * edgePx q y (x + 1) + (4 - fx) * fy * edgePx q (y + 1) x +
    fx * fy * edgePx q (y + 1) (x + 1) + 8) / 16

def absDiff (a b : Nat) : Nat := (a - b) + (b - a)

/-- The SAD of a block of side `n` at a row and column against a sampled reference. -/
def sad (cur : Pic) (n row col : Nat) (ref : Nat → Nat → Nat) : Nat :=
  ((List.range n).map (fun i => ((List.range n).map (fun j =>
    absDiff (cur.px (row + i) (col + j)) (ref (row + i) (col + j)))).sum)).sum

/-- A vector and its cost. -/
structure Vec where
  mx : Int
  my : Int
  cost : Nat
  deriving DecidableEq, Repr

/-- The better of two vectors: cost, then |mx| + |my|, then my, then mx. -/
def betterVec (a b : Vec) : Vec :=
  let na := a.mx.natAbs + a.my.natAbs
  let nb := b.mx.natAbs + b.my.natAbs
  if b.cost < a.cost then b
  else if a.cost < b.cost then a
  else if nb < na then b
  else if na < nb then a
  else if b.my < a.my then b
  else if a.my < b.my then a
  else if b.mx < a.mx then b
  else a

/-- The best candidate around a centre within `k` on each axis. -/
def searchAround (cx cy : Int) (k : Nat) (cost : Int → Int → Nat) : Vec :=
  let d : List Int := (List.range (2 * k + 1)).map (fun (i : Nat) => (i : Int) - (k : Int))
  (d.flatMap (fun y => d.map (fun x => (cx + x, cy + y)))).foldl
    (fun b v => betterVec b ⟨v.1, v.2, cost v.1 v.2⟩) ⟨cx - k, cy - k, cost (cx - k) (cy - k)⟩

/-- The final vector of a 16 x 16 block, in quarter-pels (R438). -/
def searchBlock (cur ref : Pic) (br bc : Nat) : Vec :=
  let c4 := halfPic cur
  let r4 := halfPic ref
  let c16 := halfPic c4
  let r16 := halfPic r4
  let at_ (q : Pic) (mx my : Int) (r c : Nat) : Nat := edgePx q ((r : Int) + my) ((c : Int) + mx)
  let v1 := searchAround 0 0 16 (fun x y => sad c16 4 (4 * br) (4 * bc) (at_ r16 x y))
  let v2 := searchAround (2 * v1.mx) (2 * v1.my) 2 (fun x y => sad c4 8 (8 * br) (8 * bc) (at_ r4 x y))
  let v3 := searchAround (2 * v2.mx) (2 * v2.my) 2 (fun x y => sad cur 16 (16 * br) (16 * bc) (at_ ref x y))
  searchAround (4 * v3.mx) (4 * v3.my) 3 (fun x y => sad cur 16 (16 * br) (16 * bc)
    (fun r c => quarterPx ref (4 * (r : Int) + y) (4 * (c : Int) + x)))

/-- The motion field of a frame in raster order of blocks; none where it has no reference. -/
def motionField (p : DecPar) (cur : Pic) (ref : Option Pic) : Option (List Vec) :=
  ref.map (fun q => (List.range (p.outH / 16)).flatMap (fun r => (List.range (p.outW / 16)).map (fun c => searchBlock cur q r c)))

/-- The eight bytes of a block of the motion field (R439). -/
def vecBytes (v : Vec) : Bytes :=
  toLe 2 (v.mx % 65536).toNat ++ toLe 2 (v.my % 65536).toNat ++ toLe 4 (v.cost % 2 ^ 24)

def fieldBytes (p : DecPar) (f : Option (List Vec)) : Bytes :=
  match f with
  | some l => l.flatMap vecBytes
  | none => (List.replicate (p.outH / 16 * (p.outW / 16)) (toLe 4 0 ++ toLe 4 0xFFFFFF)).flatten

/-! ### Thinning (R440, R441) -/

/-- The blocks of the motion field that a patch overlaps. -/
def patchBlocks (p : DecPar) (r c : Nat) : List Nat :=
  let lo (i : Nat) : Nat := i * p.psize / 16
  let hi (i : Nat) : Nat := ((i + 1) * p.psize - 1) / 16
  (List.range (hi r - lo r + 1)).flatMap (fun i => (List.range (hi c - lo c + 1)).map (fun j =>
    (lo r + i) * (p.outW / 16) + lo c + j))

/-- A patch moves in a frame. -/
def patchMoves (p : DecPar) (f : Option (List Vec)) (r c : Nat) : Bool :=
  match f with
  | none => true
  | some l => (patchBlocks p r c).any (fun b => match l[b]? with
    | none => false
    | some v => decide (p.sadThr < v.cost) || decide (p.mvThr < v.mx.natAbs + v.my.natAbs))

/-- Patch columns and rows. -/
def patchCols (p : DecPar) : Nat := p.outW / p.psize
def patchRows (p : DecPar) : Nat := p.outH / p.psize

/-- What a group decides for one patch position: kept, forced, and the age afterwards. The age of a position in a group is the
groups since it was last kept, this one included (log entry 51). -/
def thinOne (p : DecPar) (fields : List (Option (List Vec))) (r c age : Nat) : Bool × Bool × Nat :=
  let now := min 255 (age + 1)
  if fields.any (fun f => patchMoves p f r c) then (true, false, 0)
  else if p.keepMax ≠ 0 ∧ p.keepMax ≤ now then (true, true, 0)
  else (false, false, now)

/-- A kept token: group, row, column, forced. -/
structure Kept where
  g : Nat
  r : Nat
  c : Nat
  forced : Bool
  deriving DecidableEq, Repr

/-- One group: the tokens kept and the ages afterwards. -/
def thinGroup (p : DecPar) (g : Nat) (fields : List (Option (List Vec))) (ages : List Nat) : List Kept × List Nat :=
  let cells := (List.range (patchRows p)).flatMap (fun r => (List.range (patchCols p)).map (fun c => (r, c)))
  if !p.thin then (cells.map (fun x => ⟨g, x.1, x.2, false⟩), ages)
  else
    let ds := cells.zipIdx.map (fun x => (x.1, thinOne p fields x.1.1 x.1.2 (ages.getD x.2 0)))
    (ds.filterMap (fun d => if d.2.1 then some ⟨g, d.1.1, d.1.2, d.2.2.1⟩ else none), ds.map (fun d => d.2.2.2))

/-- All groups in order. -/
def thinAll (p : DecPar) : Nat → Nat → List (Option (List Vec)) → List Nat → List Kept × List Nat
  | 0, _, _, ages => ([], ages)
  | n + 1, g, fields, ages =>
    let a := thinGroup p g (fields.take p.tfr) ages
    let b := thinAll p n (g + 1) (fields.drop p.tfr) a.2
    (a.1 ++ b.1, b.2)

/-- The position record of a kept token (R437). -/
def posBytes (p : DecPar) (k : Kept) : Bytes :=
  toLe 8 ((p.groupBase + k.g) % 2 ^ 32 + 2 ^ 32 * (k.r % 512) + 2 ^ 41 * (k.c % 512) + 2 ^ 50 * bit k.forced)

/-! ### A decode task (R429 to R442, R445) -/

/-- A task that aborts with a code and a reason. -/
def medAbort (rec_ params : List Word) (b : MedBad) (offset frame : Nat) (undef : List (Nat × Nat)) : MedTask :=
  ⟨rec_, params, some (b.1, b.2, offset, frame), [], undef, undef, 0, 0, 0, 0, none⟩

/-- The luma that a state buffer holds, and its ages (R441). -/
def stateLuma (p : DecPar) (b : Bytes) : Pic :=
  ⟨p.outW, p.outH, fun r c => leNat ((b.drop (2 * (r * p.outW + c))).take 2)⟩

def stateBytes (p : DecPar) : Nat := 2 * p.outW * p.outH + patchRows p * patchCols p

/-- The bytes of one token. -/
def tokenBytes (p : DecPar) : Nat := p.tfr * p.psize * p.psize * 3 * (fmtWidth p.fmt / 8)

/-- The references of the frames: the frame before, and for the first what the state buffer gives. -/
def refsOf (first : Option Pic) (ys : List Pic) : List (Option Pic) := (first :: ys.map some).take ys.length

/-- The frame's crop lies inside it, and its planes can be scaled (R432, R434, R435): a monochrome one has no chroma planes. -/
def cropFits (p : DecPar) (f : Config.Frame) : Bool :=
  decide (p.cropX + p.cropW ≤ f.width) && decide (p.cropY + p.cropH ≤ f.height) && (decide (f.chroma = .mono) || chromaOk p)

/-- The bytes of the state buffer at the end: the last frame's luma, and the ages where they are kept. -/
def stateOut (p : DecPar) (last : Option Pic) (ages : List Nat) : Bytes :=
  match last with
  | none => []
  | some q =>
    ((List.range p.outH).flatMap (fun r => (List.range p.outW).flatMap (fun c => toLe 2 (q.px r c)))) ++
    (if p.thin then ages.map (fun a => BitVec.ofNat 8 a) else [])

/-- The words of the status (R433). -/
def statusRange (r : List Word) : Nat × Nat := (mParam r + 112, 16)

/-- The tokens that the output of a task must hold: no more than token_max, nor than its groups have (log entry 167). -/
def mostTokens (r : List Word) (p : DecPar) : Nat := min p.tokenMax (mFrames r / p.tfr * (patchCols p * patchRows p))

/-- The outputs of a decode task, its state buffer and its scratch: what it may write, and what an abort leaves undefined (R445). -/
def decOuts (r w : List Word) : List (Nat × Nat) :=
  let p := decPar w
  [(mTok r, mostTokens r p * tokenBytes p), (mPos r, 8 * mostTokens r p),
   (mMv r, if mMv r = 0 then 0 else mFrames r * (8 * (p.outH / 16 * (p.outW / 16)))), (p.stateVa, stateBytes p),
   (mScratch r, 48 * 2 ^ 20)]

/-- The motion fields of a task's frames (R439). -/
def motionFields (p : DecPar) (ys : List Pic) (st : Option Bytes) : List (Option (List Vec)) :=
  (ys.zip (refsOf (st.map (stateLuma p)) ys)).map (fun x => motionField p x.1 x.2)

/-- The tokens that a task keeps, and the ages at its end (R440, R441). -/
def keptOf (p : DecPar) (ys : List Pic) (st : Option Bytes) : List Kept × List Nat :=
  let cells := patchRows p * patchCols p
  let ages := match st with
    | none => List.replicate cells 0
    | some b => (List.range cells).map (fun i => ((b.getD (2 * p.outW * p.outH + i) 0)).toNat)
  thinAll p (ys.length / p.tfr) 0 (motionFields p ys st) ages

/-- A decode task over its frames: what it will write. `st` is the state buffer where fresh is 0. -/
def decodeOut (r : List Word) (w : List Word) (fs : List Config.Frame) (st : Option Bytes) : MedTask :=
  let p := decPar w
  let sc := fs.map (scaleFrame p)
  let ys := sc.map (·.y)
  let fields := motionFields p ys st
  let groups := fs.length / p.tfr
  let cells := patchRows p * patchCols p
  let t := keptOf p ys st
  let toks := t.1.map (fun k => tokenElems p ((sc.drop (k.g * p.tfr)).take p.tfr) k.r k.c)
  let k := Counts.sum (sc.map (frameCounts p))
  let tokB := toks.flatMap (fun l => l.flatMap (fun e => toLe (fmtWidth p.fmt / 8) e))
  let mvB := if mMv r = 0 then [] else fields.flatMap (fieldBytes p)
  { rec_ := r, params := w, err := none,
    writes := [(mTok r, tokB), (mPos r, t.1.flatMap (posBytes p)), (mMv r, mvB), (p.stateVa, stateOut p ys.getLast? t.2)],
    undef := [(mScratch r, 48 * 2 ^ 20)], ranges := decOuts r w, frames := fs.length, kept := t.1.length,
    dropped := groups * cells - t.1.length, encoded := 0,
    num := some ⟨255, mJob r, some (mEntry r), p.step, k.elements, k.zeros, k.flushed, k.saturated, k.nan, k.inf, k.max⟩ }

/-- A frame uses nothing outside the list of R425. -/
def frameOk (av1 : Bool) (f : Config.Frame) : Bool :=
  !f.odd && decide (f.level ≤ 61) &&
  (if av1 then decide (f.profile = .av1Main) && (decide (f.bits = 8) || decide (f.bits = 10)) &&
      (decide (f.chroma = .c420) || decide (f.chroma = .mono))
    else decide (f.chroma = .c420) && ((decide (f.profile = .hevcMain) && decide (f.bits = 8)) ||
      (decide (f.profile = .hevcMain10) && (decide (f.bits = 8) || decide (f.bits = 10)))))

/-- The frames that are output: RASL pictures after a starting CRA are discarded and not counted (R445). -/
def outputFrames (fs : List Config.Frame) : List Config.Frame := fs.filter (fun f => !f.rasl)

/-- The decoder's answer for a task (R425, R445): its frames, or a reason from 1 to 4 with the byte offset and the frame. -/
def decodedFrames (av1 : Bool) (bits : Bytes) (n : Nat) : Except (Nat × Nat × Nat) (List Config.Frame) :=
  match Config.mediaDecode av1 bits n with
  | .fault reason offset frame => .error (if 1 ≤ reason ∧ reason ≤ 4 then reason else 1, offset, frame)
  | .frames all =>
    let fs := outputFrames all
    match (fs.zipIdx).find? (fun f => !frameOk av1 f.1) with
    | some f => .error (2, f.1.at_, f.2)
    | none => if fs.length < n then .error (4, bits.length, fs.length) else .ok (fs.take n)

/-- The output frame that the first bytes of a stream come to (`MED_EeERR1.frame`). -/
def frameAt (av1 : Bool) (bits : Bytes) (n : Nat) : Nat :=
  match decodedFrames av1 bits n with
  | .error e => e.2.2
  | .ok fs => fs.length

/-- The output frame that completes the group of the first token past token_max. -/
def frameOver (p : DecPar) (groups : List Kept) : Nat := match groups[p.tokenMax]? with
  | none => 0
  | some k => k.g * p.tfr + p.tfr - 1

/-- Where a frame of a list is coded in its stream. -/
def frameStart (fs : List Config.Frame) (i : Nat) : Nat := (fs[i]?.map (·.at_)).getD 0

/-- A task's write into a closed gradient view is recorded with reason 3 (R387; log entry 166). -/
def noteClosed (s : State) (job : Nat) (l : List (Nat × Nat)) : State :=
  match closedAt s job l with
  | none => s
  | some va => noteFault s job 255 1 va 3 0x01

/-- The record of outputs that cannot be written: an uncorrectable page table entry (R266), and a closed gradient view. -/
def noteOuts (s : State) (job : Nat) (l : List (Nat × Nat)) : State := noteClosed (noteUnwritable s job l) job l

/-- A decode task once its parameters are read and in range: its addresses are translated before it starts (R429). Where it aborts,
its outputs and its state buffer are undefined (R445). -/
def runDecode (s : State) (r w : List Word) : State × MedTask :=
  let p := decPar w
  let outs := decOuts r w
  match medUnwritable s (mJob r) (statusRange r :: outs) with
  | some b => (noteOuts s (mJob r) (statusRange r :: outs), medAbort r w b 0 0 outs)
  | none =>
    let bs := medRead s (mJob r) (mBits r) (mLen r)
    let st := if p.fresh then (bs.1, none, []) else medRead bs.1 (mJob r) p.stateVa (stateBytes p)
    match bs.2.1, st.2.1 with
    | some b, _ => (bs.1, medAbort r w b bs.2.2.length (frameAt (mAv1 r) bs.2.2 (mFrames r)) outs)
    | none, some b => (st.1, medAbort r w b 0 0 outs)
    | none, none => match decodedFrames (mAv1 r) bs.2.2 (mFrames r) with
      | .error e => (st.1, medAbort r w (0x10, e.1) e.2.1 e.2.2 outs)
      | .ok fs => match fs.findIdx? (fun f => !cropFits p f) with
        | some i => (st.1, medAbort r w (0x0B, 5) (frameStart fs i) i outs)
        | none =>
          let t := decodeOut r w fs (if p.fresh then none else some st.2.2)
          let i := frameOver p (keptOf p (fs.map (fun f => (scaleFrame p f).y)) (if p.fresh then none else some st.2.2)).1
          if p.tokenMax < t.kept then (st.1, medAbort r w (0x10, 6) (frameStart fs i) i outs) else (st.1, t)

/-! ### An encode task (R443, R444) -/

def eW (w : List Word) : Nat := wd w 1 11 0
def eH (w : List Word) : Nat := wd w 1 23 12
def eY (w : List Word) : Nat := wd w 2 19 0
def eC (w : List Word) : Nat := wd w 2 39 20
def eStride (w : List Word) : Nat := wd w 3 31 0
def eQp (w : List Word) : Nat := wd w 12 5 0
def ePeriod (w : List Word) : Nat := wd w 12 13 6

/-- R444: reserved bits and the named record fields are zero, and fields lie in their ranges. -/
def encOk (r w : List Word) : Bool :=
  decide (wd w 0 63 0 = 0) && decide (wd w 1 63 24 = 0) && decide (wd w 2 63 40 = 0) && decide (wd w 3 63 32 = 0) &&
  (List.range 8).all (fun i => wd w (4 + i) 63 0 == 0) && decide (wd w 12 63 14 = 0) && decide (wd w 13 63 0 = 0) &&
  decide (eW w % 8 = 0) && decide (64 ≤ eW w ∧ eW w ≤ 3840) && decide (eH w % 8 = 0) && decide (64 ≤ eH w ∧ eH w ≤ 2160) &&
  decide (eY w % 64 = 0) && decide (eW w ≤ eY w) && decide (eC w % 64 = 0) && decide (eW w / 2 ≤ eC w) &&
  decide (eStride w % 4096 = 0) && decide (eY w * eH w + eC w * eH w ≤ eStride w) &&
  decide (eQp w ≤ 51) && decide (2 ≤ ePeriod w) &&
  !mAv1 r && decide (mEntry r = 0) && decide (mPos r = 0) && decide (mMv r = 0)

/-- Rows of a plane in memory. -/
def readPlane (s : State) (job va stride w h : Nat) : State × Option MedBad × Bytes :=
  (List.range h).foldl (fun x i =>
    if x.2.1.isSome then x
    else
      let y := medRead x.1 job (va + i * stride) w
      (y.1, y.2.1, x.2.2 ++ y.2.2)) (s, none, [])

/-- The planes of the task's frames, three for each (R444). -/
def readFrames (s : State) (r w : List Word) : State × Option MedBad × List Bytes :=
  (List.range (mFrames r)).foldl (fun x f =>
    if x.2.1.isSome then x
    else
      let b := mTok r + f * eStride w
      let y := readPlane x.1 (mJob r) b (eY w) (eW w) (eH w)
      let cb := readPlane y.1 (mJob r) (b + eY w * eH w) (eC w) (eW w / 2) (eH w / 2)
      let cr := readPlane cb.1 (mJob r) (b + eY w * eH w + eC w * eH w / 2) (eC w) (eW w / 2) (eH w / 2)
      let bad := y.2.1 <|> cb.2.1 <|> cr.2.1
      (cr.1, bad, x.2.2 ++ [y.2.2, cb.2.2, cr.2.2])) (s, none, [])

/-- A NAL unit in an Annex B stream (R443). -/
def nalUnit (b : Bytes) : Bytes := [0, 0, 0, 1] ++ b

/-- The CTU columns of the share of a picture after the first: a sweep covers every column once in `period` pictures (R443). How the
columns divide is the model's choice (log entry 168). -/
def sweepShare (cols period i : Nat) : List Nat := (List.range cols).filter (fun c => c * period / cols == (i - 1) % period)

/-- The columns that earlier pictures of the same sweep have swept. -/
def sweptBefore (cols period i : Nat) : List Nat :=
  (List.range cols).filter (fun c => decide (c * period / cols < (i - 1) % period))

/-- Picture `i` begins a sweep (R443). -/
def sweepStarts (period i : Nat) : Bool := decide (i ≠ 0) && decide ((i - 1) % period = 0)

/-- The stream of some pictures from index `i` on, picture by picture (R443), after a picture with the reconstruction `ref`: the first is an IDR, every later
one refers to the picture before it alone. -/
def encodeFrom (w h qp period : Nat) : List (List Bytes) → Nat → Option (List Bytes) → List Bytes
  | [], _, _ => []
  | f :: l, i, ref =>
    let cols := Config.ctuColumns w
    let intra := if i = 0 then List.range cols else sweepShare cols period i
    let x := Config.codePicture ⟨f, ref, intra, if i = 0 then [] else sweptBefore cols period i, w, h, qp, i⟩
    let heads := if i = 0 ∨ sweepStarts period i = true then Config.paramSets w h qp period else []
    let sei := if sweepStarts period i then [Config.recoverySei (period - 1)] else []
    (heads ++ sei ++ [x.bytes]).flatMap nalUnit :: encodeFrom w h qp period l (i + 1) (some x.planes)

/-- The planes of a task's frames by frame. -/
def byThree : List Bytes → List (List Bytes)
  | a :: b :: c :: l => [a, b, c] :: byThree l
  | _ => []

/-- The stream of an encode task's frames, picture by picture. -/
def encodeTask (w : List Word) (planes : List Bytes) : List Bytes :=
  encodeFrom (eW w) (eH w) (eQp w) (ePeriod w) (byThree planes) 0 none

/-- The picture at which a stream passes `max` bytes; the first argument is the bytes before it. -/
def pictureOver (max : Nat) : Nat → List Bytes → Nat
  | _, [] => 0
  | n, b :: l => if max < n + b.length then 0 else 1 + pictureOver max (n + b.length) l

/-- The scratch of an encode task. -/
def encScratch (r : List Word) : Nat × Nat := (mScratch r, 32 * 2 ^ 20)

/-- An encode task once its parameters are read and in range; where it aborts, its outputs are undefined (R445). -/
def runEncode (s : State) (r w : List Word) : State × MedTask :=
  let outs := [(mBits r, mLen r), encScratch r]
  match medUnwritable s (mJob r) (statusRange r :: outs) with
  | some b => (noteOuts s (mJob r) (statusRange r :: outs), medAbort r w b 0 0 outs)
  | none =>
    let x := readFrames s r w
    match x.2.1 with
    | some b =>
      let f := x.2.2.length / 3 - 1
      (x.1, medAbort r w b (encodeTask w (x.2.2.take (3 * f))).flatten.length f outs)
    | none =>
      let l := encodeTask w x.2.2
      let b := l.flatten
      if mLen r < b.length then (x.1, medAbort r w (0x10, 7) (mLen r) (pictureOver (mLen r) 0 l) outs)
      else (x.1, { rec_ := r, params := w, err := none, writes := [(mBits r, b)], undef := [encScratch r],
                   ranges := outs, frames := mFrames r, kept := 0, dropped := 0, encoded := b.length, num := none })

/-! ### Starting a task -/

/-- What a task may write by its record and parameters, whether they are valid or not: what an abort leaves undefined (R445). -/
def taskOuts (r w : List Word) : List (Nat × Nat) :=
  if mOp r = 1 then decOuts r w else if mOp r = 2 then [(mBits r, mLen r), encScratch r] else []

/-- The task that a record gives, over its parameter block. -/
def runTask (s : State) (r : List Word) : State × MedTask :=
  if !resident s (mJob r) then (s, medAbort r [] (0x01, 8) 0 0 [])
  else
    let x := medRead s (mJob r) (mParam r) 128
    let w := medWords x.2.2
    match x.2.1 with
    | some b => (x.1, medAbort r w b 0 0 [])
    | none =>
      if !mTcOk s r then (x.1, medAbort r w (0x01, 8) 0 0 [])
      else if mOp r = 1 ∧ recordOk r = true ∧ decOk (mAv1 r) w = true then runDecode x.1 r w
      else if mOp r = 2 ∧ recordOk r = true ∧ encOk r w = true then runEncode x.1 r w
      else (x.1, medAbort r w (0x0B, 5) 0 0 (taskOuts r w))

/-- A move in progress holds an access that the task of a record makes at its start or its end (R283, R295, R429). -/
def medMoving (s : State) (r : List Word) : Bool :=
  rangeMoving s (mJob r) (mParam r) 128 ||
  (let w := medWords (medRead s (mJob r) (mParam r) 128).2.2
   let ranges := if mOp r = 1 then (mBits r, mLen r) :: decOuts r w
     else if mOp r = 2 then [(mBits r, mLen r), encScratch r, (mTok r, mFrames r * eStride w)] else []
   ranges.any (fun x => rangeMoving s (mJob r) x.1 x.2))

/-- The next record of a ring starts, where its operation is one of those of the event; an eclipsed job's holds the ring
(R429), and a move holds the task (R283). -/
def startMedia (s : State) (e : Nat) (mine : Nat → Bool) : State :=
  if !(fnReady s 6 && running s && ringBusy s e && (medOf s e).task.isNone) then s
  else
    let o := ringBase s e + 64 * (get s .medHead_head e % ringSize s e)
    let x := readOff s 0 255 o 64
    let r := medWords x.2.2
    if !inHbm s o || decide (x.2.1 ≠ 0) then
      (if mine 1 then setMed (put x.1 .medHead_state 1 e) e
        ⟨some (medAbort [] [] (if inHbm s o then (x.2.1, 9) else (0x01, 8)) 0 0 [])⟩ else s)
    else if !mine (mOp r) then s
    else if resident s (mJob r) && eclipsed s (mJob r) then put s .medHead_state 2 e
    else if resident s (mJob r) && medMoving s r then s
    else
      let t := runTask x.1 r
      setMed (put t.1 .medHead_state 1 e) e ⟨some t.2⟩

/-- MEDIA_DECODE_TASK (R425, R428, R429, R431 to R442): records with op 1, and those whose op is none. -/
def execMediaDecodeTask (e : Fin 2) (s : State) : Host.Outcome State Fault Refusal := .next (startMedia s e.val (fun n => n != 2))

/-- MEDIA_ENCODE_TASK (R426, R428, R443, R444). -/
def execMediaEncodeTask (e : Fin 2) (s : State) : Host.Outcome State Fault Refusal := .next (startMedia s e.val (fun n => n == 2))

/-! ### The end of a task (R430, R433, R445) -/

/-- The engine goes on to the next record. -/
def nextRecord (s : State) (e : Nat) : State :=
  setMed (put (put s .medHead_head ((get s .medHead_head e + 1) % ringSize s e) e) .medHead_state 0 e) e MedSt.init

/-- The record of the first abort (R445). -/
def recordMed (s : State) (e job code reason offset frame : Nat) : State :=
  if flag s .medErr0_valid e then s
  else
    let s1 := put (put (put (put s .medErr0_code code e) .medErr0_reason reason e) .medErr0_job job e)
      .medErr0_record (get s .medHead_head e % ringSize s e) e
    put (put (put s1 .medErr0_valid 1 e) .medErr1_offset offset e) .medErr1_frame frame e

/-- A task that aborted: word 15 of its status is written where it can be, even where the rest of the block cannot be read (R433). -/
def taskAborted (s : State) (e : Nat) (t : MedTask) (code reason offset frame : Nat) : State :=
  let job := mJob t.rec_
  let s1 := each t.undef (fun s r => scribbleVa 255 job s r.1 r.2) s
  let s2 := if t.rec_.isEmpty then s1 else (medWrite s1 job (mParam t.rec_ + 120) (status15 t code reason)).1
  let s3 := bump (recordMed s2 e job code reason offset frame) .medCnt1_aborted 1 e
  nextRecord (logEvt s3 0x060 6 job 0 e reason) e

/-- A task that ended normally; where what it writes cannot be written, it aborts (R267, R445). -/
def taskEnded (s : State) (e : Nat) (t : MedTask) : State :=
  let job := mJob t.rec_
  let s1 := each t.undef (fun s r => scribbleVa 255 job s r.1 r.2) s
  let x := medWrites s1 job (t.writes ++ [(mParam t.rec_ + 112, status14 t ++ status15 t 0 0)])
  match x.2 with
  | some b => taskAborted x.1 e { t with undef := t.ranges } b.1 b.2 0 0
  | none =>
    let s2 := { x.1 with num := { x.1.num with recs := x.1.num.recs ++ t.num.toList } }
    let s3 := bumpW (bumpW s2 .medCnt0_frames t.frames e) .medCnt0_tasks 1 e
    let s4 := bumpW (bumpW s3 .medCnt1_kept t.kept e) .medCnt2_dropped t.dropped e
    nextRecord (if mTcEn t.rec_ then tcAdd s4 (mDcore t.rec_) (mDtc t.rec_) 1 else s4) e

/-- What a task is about to write: its outputs, its scratch and its status. -/
def lastWrites (t : MedTask) : List (Nat × Nat) :=
  t.writes.map (fun w => (w.1, w.2.length)) ++ t.undef ++ [statusRange t.rec_]

/-- A task has run to its end: one that writes into a gradient view that has closed since its start aborts with code 0x01 (R387). -/
def taskDone (s : State) (e : Nat) (t : MedTask) : State :=
  match closedAt s (mJob t.rec_) (lastWrites t) with
  | none => taskEnded s e t
  | some _ => taskAborted (noteClosed s (mJob t.rec_) (lastWrites t)) e { t with undef := t.ranges } 0x01 8 0 0

/-- MEDIA_TASK_COMPLETE (R430, R433, R445, R446): a task ends, unless Doze holds it. -/
def execMediaTaskComplete (e : Fin 2) (s : State) : Host.Outcome State Fault Refusal :=
  match (medOf s e.val).task with
  | none => .next s
  | some t =>
    .next (onlyIf (fnReady s 6 && running s) (fun s => match t.err with
      | none => taskDone s e.val t
      | some b => taskAborted s e.val t b.1 b.2.1 b.2.2.1 b.2.2.2) s)

end Sys2Proof.Machine
end

