-- ==== Sys2Proof/Machine/Mmu.lean ====
section
/-!
DEFINITION. The registers of the MMU and of HBM that act when they are written, and the patrol scrub
(R268, R280, R281, R286, R287, R297).
-/
namespace Sys2Proof.Machine

/-! ### Invalidation (R280, R281, R286) -/

/-- A cached translation lies in the scope of an invalidation. -/
def inInval (kind job va count : Nat) (t : TlbEnt) : Bool :=
  match kind with
  | 0 => t.job == job && decide (t.base < va + 65536 * count ∧ va < t.base + leafBytes t.level)
  | 1 => t.job == job
  | 2 => true
  | _ => false

/-- The TLBs, or the cached window records, hold nothing in the scope of an invalidation. -/
def emptyScope (s : State) (kind job va count : Nat) : State :=
  if kind = 3 then { s with mmu := { s.mmu with wins := [] } }
  else { s with mmu := { s.mmu with tlb := s.mmu.tlb.filter (fun t => !inInval kind job va count t) } }

/-- An invalidation starts. -/
def startInval (s : State) (kind job va count : Nat) : State :=
  let s1 := emptyScope s kind job va count
  put { s1 with mmu := { s1.mmu with invalVa := va } } .mmuInval_done 0

/-- A write of `MMU_INVAL`: ignored while done is 0; go starts the invalidation (R281). -/
def invalWrite (s : State) (v : Nat) : State :=
  if !flag s .mmuInval_done then s
  else
    let s1 := put (put (put s .mmuInval_kind (bitsOf v 1 0)) .mmuInval_job (bitsOf v 13 2)) .mmuInval_count (bitsOf v 47 16)
    if tst v 14 then
      startInval s1 (bitsOf v 1 0) (bitsOf v 13 2) (65536 * get s .mmuInvalVa_va) (bitsOf v 47 16)
    else s1

/-- The value of `MMU_INVAL` that starts an invalidation. -/
def invalValue (kind job count : Nat) : Nat := kind + 2 ^ 2 * job + 2 ^ 14 + 2 ^ 16 * count

/-- A register of FN7 takes a write. -/
def fn7Write (s : State) (f : State → State) : State := onlyIf (fn0Up s && fnReady s 7) f s

/-- MMU_INVAL_PAGES: kind 0, a range of pages of a job. -/
def execMmuInvalPages (job : BitVec 12) (va : BitVec 39) (count : BitVec 32) (s : State) :
    Host.Outcome State Fault Refusal :=
  .next (fn7Write s (fun s => invalWrite (put s .mmuInvalVa_va va.toNat) (invalValue 0 job.toNat count.toNat)))

/-- MMU_INVAL_JOB: kind 1, a whole job. -/
def execMmuInvalJob (job : BitVec 12) (s : State) : Host.Outcome State Fault Refusal :=
  .next (fn7Write s (fun s => invalWrite s (invalValue 1 job.toNat 0)))

/-- MMU_INVAL_ALL: kind 2, everything. -/
def execMmuInvalAll (s : State) : Host.Outcome State Fault Refusal :=
  .next (fn7Write s (fun s => invalWrite s (invalValue 2 0 0)))

/-- MMU_INVAL_WINDOWS: kind 3, the window records (R286). -/
def execMmuInvalWindows (s : State) : Host.Outcome State Fault Refusal :=
  .next (fn7Write s (fun s => invalWrite s (invalValue 3 0 0)))

/-- An access of the invalidation's scope is still under way: a descriptor that waits for packets or responses, or a move
(R281; log entry 44). -/
def invalBusy (s : State) : Bool :=
  let one := decide (get s .mmuInval_kind ≤ 1)
  s.cores.any (fun k => k.2.flight.any (fun d => d.moved && decide (d.left ≠ 0) && (!one || d.job == get s .mmuInval_job))) ||
  s.mmu.moves.any (fun m => !one || wJob (winWords s m.window) == get s .mmuInval_job)

/-- MMU_INVAL_DONE (R281): what a walk has cached in the scope since the invalidation started goes too. -/
def execMmuInvalDone (s : State) : Host.Outcome State Fault Refusal :=
  .next (onlyIf (fnReady s 7 && !flag s .mmuInval_done && !invalBusy s) (fun s =>
    put (emptyScope s (get s .mmuInval_kind) (get s .mmuInval_job) s.mmu.invalVa (get s .mmuInval_count))
      .mmuInval_done 1) s)

/-! ### Pools (R287, R297) -/

/-- A write of `MMU_POOLpA`: en is ignored where the marks are out of order, and setting it starts the ring (R287). -/
def poolAWrite (s : State) (p v : Nat) : State :=
  let s1 := put (put s .mmuPoola_list_base (bitsOf v 45 0) p) .mmuPoola_job (bitsOf v 58 47) p
  if !tst v 46 then put s1 .mmuPoola_en 0 p
  else if flag s .mmuPoola_en p then s1
  else if get s .mmuPoolb_size p < get s .mmuPoolc_hwm p ∨ get s .mmuPoolc_hwm p < get s .mmuPoolc_lwm p then s1
  else
    put { s1 with mmu := { s1.mmu with ring := mset 0 s1.mmu.ring p 0, spilling := mset 0 s1.mmu.spilling p 0 } } .mmuPoola_en 1 p

/-- A write of `MMU_POOLpB`: free only while en is 0. -/
def poolBWrite (s : State) (p v : Nat) : State :=
  let s1 := put (put s .mmuPoolb_size (bitsOf v 23 0) p) .mmuPoolb_credits (bitsOf v 55 48) p
  if flag s .mmuPoola_en p then s1 else put s1 .mmuPoolb_free (bitsOf v 47 24) p

/-- MMU_POOL_ENABLE (R287): a write of `MMU_POOLpA` with en 1. -/
def execMmuPoolEnable (pool : Fin 64) (listBase : BitVec 46) (job : BitVec 12) (s : State) :
    Host.Outcome State Fault Refusal :=
  .next (fn7Write s (fun s => poolAWrite s pool (listBase.toNat + 2 ^ 46 + 2 ^ 47 * job.toNat)))

/-- MMU_POOL_FAULT_CLEAR (R297): 1 is written to tail_fault. -/
def execMmuPoolFaultClear (pool : Fin 64) (s : State) : Host.Outcome State Fault Refusal :=
  .next (fn7Write s (fun s => put s .mmuPoold_tail_fault 0 pool))

/-! ### Patrol scrub (R265, R268) -/

/-- HBM_PATROL_SCRUB (R268): one 64-byte unit is read, corrected, or found uncorrectable, while scrub_hours is not 0; it
pauses in Doze (R449). -/
def execHbmPatrolScrub (unit : BitVec 40) (s : State) : Host.Outcome State Fault Refusal :=
  let a := 64 * unit.toNat
  .next (onlyIf (fnReady s 7 && !dozing s && decide (get s .hbmCtl_scrub_hours ≠ 0) && inHbm s a) (fun s =>
    match readFault s a 64 with
    | some _ => noteUe s a 0 255 true
    | none => correct s a 64) s)

end Sys2Proof.Machine
end

