-- ==== Sys2Proof/Machine/Csr.lean ====
section
/-!
DEFINITION. CSR space (R5 to R8, R69 to R71, R99, R348, R450, R498): how an offset finds its register, what each field reads
as, and what a write does.
-/
namespace Sys2Proof.Machine

/-! ### Offsets -/

/-- Instance of a register at an offset from the start of its block. -/
def instAt (r : RegRow) (off : Nat) : Option Nat :=
  if r.stride = 0 then (if off = r.off then some 0 else none)
  else if r.off ≤ off ∧ (off - r.off) % r.stride = 0 ∧ (off - r.off) / r.stride < r.cnt then some ((off - r.off) / r.stride)
  else none

/-- Offset of the first core's block, and the bytes of a block. -/
def coreBase : Nat := 0x1000000
def coreSpan : Nat := 0x10000

/-- The register at a CSR offset and its instance: for a register of a core's block, the core times the count plus the
instance. -/
def findReg (off : Nat) : Option (RegRow × Nat) :=
  if off < coreBase then regTable.findSome? (fun r => if r.core then none else (instAt r off).map (fun i => (r, i)))
  else
    let c := (off - coreBase) / coreSpan
    if c < 192 then
      regTable.findSome? (fun r => if r.core then (instAt r ((off - coreBase) % coreSpan)).map (fun i => (r, c * r.cnt + i)) else none)
    else none

/-- The index of the fields that a register shows: its instance, or what its selector names. -/
def fldIdx (s : State) (r : RegRow) (i : Nat) : Nat :=
  match r.win with
  | .plain => i
  | .ctx => get s .xptCtxsel_ctx
  | .region => get s .xptRegsel_region
  | .op => get s .numOpsel_entry + 4096 * i
  | .slot => if r.cnt = 8 then 8 * get s .colTsel_slot + i else get s .colTsel_slot

/-! ### What fields read as -/

/-- The frequency correction in parts per 10^9. -/
def freqPpb (s : State) : Nat := toField 24 (Int.tdiv (s.time.freq * 1000000000) 4294967296)

/-- `CORE_STAT.arr_busy`: a command acts on the array, waiting or running (R123). -/
def arrBusy (s : State) (c : Nat) : Nat :=
  (List.range 8).foldl (fun m a => m + 2 ^ a * bit (!(queuedOn s c [a]).isEmpty || !(runsOn s c [a]).isEmpty)) 0

/-- `CORE_STAT.arr_moonlet`: an array that either job's routing runs as moonlets. -/
def arrMoonlet (s : State) (c : Nat) : Nat :=
  (List.range 8).foldl (fun m a => m + 2 ^ a * bit (isMoonlet (feederOf s c .prim) a || isMoonlet (feederOf s c .fill) a)) 0

/-- `CORE_FEED`: feed, cascade and moonlet of each array after R122. -/
def feedWord (s : State) (c : Nat) (sl : Slot) : Nat :=
  let l := feederOf s c sl
  (List.range 8).foldl (fun m a => m + 2 ^ (4 * a) * ((feedAt l a).1 % 4 + 4 * bit (feedAt l a).2.1 + 8 * bit (feedAt l a).2.2)) 0

/-- The launch that runs or runs next in a job slot. -/
def nextLaunch (x : SlotSt) : Option Launch :=
  match x.task with
  | some t => some t.launch
  | none => x.queue.head?

/-- `CORE_SEQ_P.state`: 0 idle, 1 issuing, 2 waiting, 3 held by release, 4 held by eclipse. -/
def seqState (s : State) (c : Nat) (sl : Slot) : Nat :=
  let x := slotOf s c sl
  match x.task with
  | some t => if t.wait.isSome then 2 else 1
  | none => match x.queue.head? with
    | none => 0
    | some l => if eclipsed s l.job then 4 else if !released s l.release then 3 else 0

def seqJob (s : State) (c : Nat) (sl : Slot) : Nat := ((nextLaunch (slotOf s c sl)).map (·.job)).getD 0
def seqCause (s : State) (c : Nat) (sl : Slot) : Nat := if (slotGroup s c sl).isSome then (slotOf s c sl).cause else 0
def seqIndex (s : State) (c : Nat) (sl : Slot) : Nat := ((slotOf s c sl).task.map (·.index)).getD 0

/-- Policy record `p`, as compute die C0 holds it (R187, R212). -/
def polRec (s : State) (p : Nat) : Option PolicyRec := (strOf s 1).policies.find? (fun r => r.index == p)

/-- Stage group `g` of the active structure (log entry 60). -/
def grpRec (s : State) (g : Nat) : Option GroupRec := (strOf s 1).groups.find? (fun r => r.index == g)

def grpCores (g : GroupRec) : Nat := (allCores.filter (fun c => g.cores.getLsbD c)).length

/-- The `j`-th resident job, ascending (R349). -/
def jobAt (s : State) (j : Nat) : Option Nat := s.shp.jobs[j]?

/-- The stage groups of a job in the structure in force. -/
def jobGroups (s : State) (job : Nat) : List GroupRec := (strOf s 0).groups.filter (fun g => g.job == job)

def jobCores (s : State) (job : Nat) : Nat := (allCores.filter (fun c => (jobGroups s job).any (fun g => g.cores.getLsbD c))).length

/-- `COL_TLIVE0.state`: an armed slot whose job is in eclipse shows 2. -/
def liveState (s : State) (slot : Nat) : Nat :=
  match template s slot with
  | none => tState s slot
  | some r => if isArmed s slot && eclipsed s (tJob r) then 2 else tState s slot

/-- A field of `SHP_JOBj`, which reads as zero past the resident jobs. -/
def ofJob (s : State) (j : Nat) (f : Nat → Nat) : Nat := ((jobAt s j).map f).getD 0

def ofGrp (s : State) (g : Nat) (f : GroupRec → Nat) : Nat := ((grpRec s g).map f).getD 0

/-- The `gate` field of a host record. -/
def gateOf (t : Structure) (g : Nat) : Nat := ((t.fills.find? (fun r => r.group == g && r.role == 1)).map (·.gate)).getD 0

/-- Fields that show live state of the structure. -/
def readShape (s : State) (f : Fld) (i : Nat) : Option Nat :=
  match f with
  | .shpJob_job => some (ofJob s i id)
  | .shpJob_valid => some (ofJob s i (fun _ => 1))
  | .shpJob_eclipse => some (ofJob s i (fun j => bit (eclipsed s j)))
  | .shpJob_groups => some (ofJob s i (fun j => (jobGroups s j).length))
  | .shpJob_cores => some (ofJob s i (jobCores s))
  | .shpJob_filler => some (ofJob s i (fun j => bit ((jobGroups s j).any (fun g => roleOf (strOf s 0) g.index == 2))))
  | .shpGrp_job => some (ofGrp s i (·.job))
  | .shpGrp_present => some (ofGrp s i (fun _ => 1))
  | .shpGrp_cores => some (ofGrp s i grpCores)
  | .shpGrp_policy => some (ofGrp s i (·.policy))
  | .shpGrp_split => some (ofGrp s i (·.split))
  | .shpGrp_role => some (ofGrp s i (fun g => roleOf (strOf s 1) g.index))
  | .shpGrp_gate => some (ofGrp s i (fun g => gateOf (strOf s 1) g.index))
  | .numPol_word0 => some (((polRec s i).map (fun r => r.w0.toNat % 2 ^ 63)).getD 0)
  | .numPol_present => some (bit (polRec s i).isSome)
  | .numPol1_word1 => some (((polRec s i).map (fun r => r.w1.toNat % 2 ^ 30)).getD 0)
  | .numPol1_present => some (bit (polRec s i).isSome)
  | _ => none

/-- Fields that show live state of a core: the index is the core, or sixteen or 256 times the core plus the instance. -/
def readCore (s : State) (f : Fld) (i : Nat) : Option Nat :=
  match f with
  | .coreStat_arr_busy => some (arrBusy s i)
  | .coreStat_arr_moonlet => some (arrMoonlet s i)
  | .coreFeed_arrays => some (feedWord s i .prim)
  | .coreFeed_arrays_filler => some (feedWord s i .fill)
  | .coreSeqP_state => some (seqState s i .prim)
  | .coreSeqP_cause => some (seqCause s i .prim)
  | .coreSeqP_job => some (seqJob s i .prim)
  | .coreSeqP_queued => some (slotOf s i .prim).queue.length
  | .coreSeqP_index => some (seqIndex s i .prim)
  | .coreSeqF_state => some (seqState s i .fill)
  | .coreSeqF_cause => some (seqCause s i .fill)
  | .coreSeqF_job => some (seqJob s i .fill)
  | .coreSeqF_queued => some (slotOf s i .fill).queue.length
  | .coreSeqF_index => some (seqIndex s i .fill)
  | .tc_owner => some (tcOwner s (i / 256) (i % 256))
  | .dmaQstat_queued => some (bitsOf (qstatRead s (i / 16) (i % 16)) 6 0)
  | .dmaQstat_in_flight => some (bitsOf (qstatRead s (i / 16) (i % 16)) 11 7)
  | .dmaQstat_started => some (bitsOf (qstatRead s (i / 16) (i % 16)) 43 12)
  | .dmaQstat_fence_wait => some (bitsOf (qstatRead s (i / 16) (i % 16)) 44 44)
  | _ => none

/-- Fields that show other live state. -/
def readLive (s : State) (f : Fld) (i : Nat) : Option Nat :=
  match f with
  | .tideNow_tide => some s.time.tide
  | .tideStat_freq => some (freqPpb s)
  | .xptReg0_gen => some (regionGen s i)
  | .pwrTemp_io => some (ioTemp s)
  | .pwrTemp_inlet => some (inletTemp s)
  | .colStat_armed => some (armedTemplates s).length
  | .colTword_word => some (((template s (i / 8)).map (fun r => (r.words.getD (i % 8) 0).toNat)).getD 0)
  | .colTlive0_state => some (liveState s i)
  | .colTlive0_wd_left => some (wdLeft s i)
  | .medHead_state => some (if (medOf s i).task.isSome && dozing s then 3 else get s .medHead_state i)
  | .evtData_word => some ((mget [0, 0, 0, 0] s.evt (get s .evtSel_index)).getD i 0).toNat
  | _ => none

/-- What a field reads as (R6, R7). -/
def fldRead (s : State) (x : FldRow) (i : Nat) : Nat :=
  if x.acc = .wo then 0
  else if x.acc = .rwe then lastWritten s x.fld i
  else match readShape s x.fld i with
    | some v => v
    | none => match readCore s x.fld i with
      | some v => v
      | none => match readLive s x.fld i with
        | some v => v
        | none => get s x.fld i

/-- The word of a register whose fields read as a function gives them; reserved bits are zero (R8). -/
def packFlds (l : List FldRow) (f : FldRow → Nat) : Nat := l.foldl (fun w x => w + 2 ^ x.lo * (f x % 2 ^ x.fld.width)) 0

/-- The port of a link register; none for other registers (R400). -/
def portOfReg (r : RegRow) (i : Nat) : Option Nat :=
  if r.fn = 8 ∧ r.cnt = 48 then some i else if r.fn = 8 ∧ r.cnt = 7 then some (40 + i) else none

/-- The register belongs to a port that the variant does not have (R4, R400). -/
def absentReg (s : State) (r : RegRow) (i : Nat) : Bool :=
  match portOfReg r i with
  | none => false
  | some p => !portPresent s p

/-- What a field of a function in reset shows: its Reset column; that of a region's generation is its value at power-on (R326, R498). -/
def shownReset (s : State) (f : Fld) (i : Nat) : Nat :=
  match f with
  | .xptReg0_gen => genStart s.xpt.seed i
  | _ => fldReset s.fuses f i

/-- CSR_READ of one offset (R71, R450, R498). -/
def csrRead1 (s : State) (off : Nat) : Word :=
  match findReg off with
  | none => 0
  | some (r, i) =>
    let n := fnOf r i
    let j := fldIdx s r i
    if absentReg s r i then 0
    else if n ≠ 0 ∧ powerOf s = 2 then 0
    else if n ≠ 0 ∧ inReset s n = true then
      BitVec.ofNat 64 (packFlds r.flds (fun x => if x.acc = .wo then 0 else shownReset s x.fld j))
    else BitVec.ofNat 64 (packFlds r.flds (fun x => fldRead s x j))

/-! ### Writes -/

/-- The scope of an RWE field (R395: the layout belongs to the entry's job; the others belong to the module). -/
def rweScope (s : State) (f : Fld) (i : Nat) : Nat := if f = .grdJoba_layout then get s .grdJoba_job i else modScope

/-- A write of one field, by its access. -/
def fldWrite (v i : Nat) (s : State) (x : FldRow) : State :=
  let n := bitsOf v x.hi x.lo
  match x.acc with
  | .rw => put s x.fld n i
  | .w1c => if n = 0 then s else put s x.fld 0 i
  | .rwe => shadowWrite s (rweScope s x.fld i) x.fld i n
  | .ro => s
  | .wo => s

/-- A write of a register whose fields have no behaviour of their own; reserved bits are ignored (R8). -/
def plainWrite (s : State) (r : RegRow) (i v : Nat) : State := each r.flds (fldWrite v i) s

/-- A write of `CTL_PORT` that arrives on a control port: the last enable stays set (R99). -/
def ctlPortWrite (s : State) (p : Cp) (v : Nat) : State :=
  let s1 := put (put (put s .ctlPort_udp_port (bitsOf v 15 0)) .ctlPort_cp0_en (bitsOf v 16 16)) .ctlPort_cp1_en (bitsOf v 17 17)
  if tst v 16 || tst v 17 then s1 else if p.val = 0 then put s1 .ctlPort_cp0_en 1 else put s1 .ctlPort_cp1_en 1

/-- A write of a drop list entry: a driver write clears auto (R370), and what has arrived of a collective that it names is
forgotten. -/
def dropWrite (s : State) (r : RegRow) (i v : Nat) : State :=
  let s1 := put (plainWrite s r i v) .colDl_auto 0 i
  let s2 := { s1 with col := { s1.col with autoAt := mset 0 s1.col.autoAt i 0 } }
  if flag s2 .colDl_valid i then dropParts s2 (get s2 .colDl_job i) (get s2 .colDl_coll i) (get s2 .colDl_step i) else s2

/-- A write of a bank range register: ignored while its job is in state 1, 2 or 3 (R399). -/
def bankWrite (s : State) (r : RegRow) (i v : Nat) : State :=
  if commitState s (get s .grdBra_job i) ≠ 0 then s else plainWrite s r i v

/-- A write of `XPT_CTX1` to `XPT_CTX3`: ignored while the context is valid (R333). -/
def ctxWrite (s : State) (r : RegRow) (j v : Nat) : State := if flag s .xptCtx0_valid j then s else plainWrite s r j v

/-- A write of `TC_i`: the value is set, and 1 clears overflow. -/
def tcWrite (s : State) (i v : Nat) : State :=
  let s1 := if tst v 44 then put s .tc_overflow 0 i else s
  tcRegWrite s1 (i / 256) (i % 256) (v % 2 ^ 32)

/-- The first field of a register. -/
def headFld (r : RegRow) : Fld := (r.flds.head?.map (·.fld)).getD .idnVariant_hbm_stacks

/-- What a write of a register does: the registers with behaviour of their own, by their first field, then the others. What a step of the
tide brings follows the last write of its command (`csrWrites`). -/
def regWriteAt (s : State) (p : Cp) (r : RegRow) (i v : Nat) : State :=
  let j := fldIdx s r i
  match headFld r with
  | .ctlPlace_slot => ctlPlace s v
  | .ctlPort_udp_port => ctlPortWrite s p v
  | .tideCtl_sync_src => tideCtlWrite s v
  | .tideSet_tide => tideSetOnly s v
  | .tideApply_epoch => applyWrite s (bitsOf v 47 0) (bitsOf v 59 48) (tst v 60) (tst v 61)
  | .tc_value => tcWrite s i v
  | .numOpclr_entry => opclrWrite s v
  | .numSil_watch => silWrite s v
  | .numOpseed_max => opseedWrite s (bitsOf v 31 0) (bitsOf v 63 32)
  | .mmuInval_kind => invalWrite s v
  | .mmuPoola_list_base => poolAWrite s i v
  | .mmuPoolb_size => poolBWrite s i v
  | .dmaQ_depth => dmaqWrite s (i / 16) (i % 16) v
  | .xptCtx0_valid => ctx0Write s j v
  | .xptCtx1_spsn => ctxWrite s r j v
  | .xptCtx2_dest_lo => ctxWrite s r j v
  | .xptCtx3_dest_hi => ctxWrite s r j v
  | .colArm0_slot => armWrite s (bitsOf v 15 0) (bitsOf v 31 16) (tst v 32)
  | .colAbort_job => abortWrite s (bitsOf v 11 0) (bitsOf v 21 12) (tst v 22) (tst v 23)
  | .colDl_job => dropWrite s r i v
  | .grdJobb_committed => committedWrite s i (bitsOf v 31 0)
  | .grdBra_job => bankWrite s r i v
  | .grdBrb_length => bankWrite s r i v
  | .grdBrc_bank0 => bankWrite s r i v
  | .grdBrd_bank1 => bankWrite s r i v
  | .lnkPctl_en => lnkCtlWrite s i v
  | .medRing_base => ringWrite s i v
  | .evtTail_tail => evtTail s (bitsOf v 9 0)
  | .evtStat_unread => if tst v 12 then clearAlert s else s
  | _ => plainWrite s r j v

/-- The register that a write of an offset reaches: none where no register is, and in a block of a function in reset (R71, R498). -/
def writeReg (s : State) (off : Nat) : Option (RegRow × Nat) :=
  match findReg off with
  | none => none
  | some (r, i) =>
    let n := fnOf r i
    if absentReg s r i || (n != 0 && inReset s n) then none else some (r, i)

/-- CSR_WRITE of one offset on a control port. -/
def csrWrite1 (p : Cp) (s : State) (w : BitVec 26 × BitVec 64) : State :=
  match writeReg s w.1.toNat with
  | none => s
  | some (r, i) => regWriteAt s p r i w.2.toNat

/-- The RWE fields that a write of an offset reaches. -/
def rweFlds (s : State) (off : Nat) : List (Fld × Nat) :=
  match writeReg s off with
  | none => []
  | some (r, i) => (r.flds.filter (fun x => x.acc == .rwe)).map (fun x => (x.fld, fldIdx s r i))

/-- The writes of one CSR_WRITE under way: the state, the steps of the tide so far, and the RWE fields written. -/
structure CsrRun where
  s     : State
  steps : List (Nat × Nat)
  rwe   : List (Fld × Nat)

/-- The next write of a CSR_WRITE. -/
def csrNext (p : Cp) (x : CsrRun) (w : BitVec 26 × BitVec 64) : CsrRun :=
  let s := csrWrite1 p x.s w
  { s := s
    steps := if s.time.tide = x.s.time.tide then x.steps else x.steps ++ [(x.s.time.tide, s.time.tide)]
    rwe := x.rwe ++ rweFlds x.s w.1.toNat }

/-- The RWE fields that one CSR_WRITE has written fall on the same side of any apply (R70): they are tested alike against the guard,
after the last write, at the tide `t` of the first (log entry 182). -/
def sameSide (t : Nat) (s : State) (l : List (Fld × Nat)) : State :=
  { s with time := { s.time with shadows := s.time.shadows.map (fun h =>
      if l.contains (h.fld, h.idx) then { h with held := insideGuard { s with time := { s.time with tide := t } } h.scope } else h) } }

/-- The writes of one CSR_WRITE, in payload order (R70): what a step of the tide among them brings follows the last of them. -/
def csrWrites (p : Cp) (s : State) (l : List (BitVec 26 × BitVec 64)) : State :=
  let x := l.foldl (csrNext p) ⟨s, [], []⟩
  each x.steps afterStep (sameSide s.time.tide x.s x.rwe)

/-- The function whose block an offset lies in: MMU_ and HBM_ are FN7's, XPT_ and COL_ FN5's, LNK_ FN8's, MED_ FN6's, a core's
block is its die's, and every other offset is FN0's or nobody's. -/
def fnOfOff (off : Nat) : Nat :=
  if coreBase ≤ off then (if (off - coreBase) / coreSpan < 192 then coreFn ((off - coreBase) / coreSpan) else 0)
  else if 0x60000 ≤ off ∧ off < 0x80000 then 7
  else if (0x80000 ≤ off ∧ off < 0x90000) ∨ (0xA0000 ≤ off ∧ off < 0xA1000) then 5
  else if 0xC0000 ≤ off ∧ off < 0xD0000 then 8
  else if 0xE0000 ≤ off ∧ off < 0xF0000 then 6
  else 0

/-- CP_ENABLE_WRITE (R99): a write of `CTL_PORT` that arrives on a control port. -/
def execCpEnableWrite (p : Cp) (v : BitVec 64) (s : State) : Host.Outcome State Fault Refusal :=
  .next (onlyIf (fn0Up s) (fun s => ctlPortWrite s p v.toNat) s)

end Sys2Proof.Machine
end

