-- ==== Sys2Proof/Machine/Clock.lean ====
section
/-!
DEFINITION. One clk of a core's arithmetic clock (R340, R341, R345): the cause that each job slot counts, and the filler's
gate for the next clk.
-/
namespace Sys2Proof.Machine

/-! ### What holds a slot (R345) -/

/-- A pass of an array belongs to the slot's running task. -/
def passRuns (s : State) (c : Nat) (sl : Slot) : Bool :=
  (List.range 8).any (fun a => (arrOf s c a).run.any (fun r => decide (r.cmd.slot = sl) && decide (r.cmd.kind = .stream)))

/-- An operation in a vector engine pipe belongs to the slot's running task (R157). -/
def pipeRuns (s : State) (c : Nat) (sl : Slot) : Bool := (slotOf s c sl).pipes.any (fun p => decide (p.2 ≠ 0))

/-- A KV reader's descriptor waits for a page that is not in HBM (R248). -/
def readerWaits (s : State) (c : Nat) (d : Desc) : Bool :=
  let page := d.w 0 48 27 + kvDone d
  d.kind == 4 && s.mmu.holders.contains (kvWindow d, page, c, d.id) && !pageHere s (kvWindow d) page

/-- An RDMA request of a descriptor goes to the tail: a READ, but for that of a get, and a WRITE of a copy, of a get, or of a flag write
to the job's own space (R310, R322). -/
def toTail (d : Desc) (op : Nat) : Bool :=
  (op == opRead && d.kind != 3) || (op == opWrite && (d.kind == 1 || d.kind == 3 || (d.kind == 6 && d.ctx.isNone)))

/-- A descriptor has a request to the tail's memory host outstanding (R313). -/
def asksTail (s : State) (c : Nat) (d : Desc) : Bool :=
  s.xpt.ctxs.any (fun p => (p.2.unacked ++ p.2.queue).any (fun u => decide (u.owner = .dma c d.id) && toTail d u.pkt.op))

/-- A descriptor in flight waits on the tail (R304). -/
def waitsOnTail (s : State) (c : Nat) (d : Desc) : Bool :=
  readerWaits s c d || (d.kind == 5 && !pageHere s (kvWindow d) (d.w 0 48 27 + kvDone d)) ||
  (decide (d.kind ≠ 4 ∧ d.kind ≠ 5) && descMoving s d) || asksTail s c d

/-- The cause of a stall at a full queue (R304). -/
def fullCause (s : State) (c q : Nat) : Nat :=
  match (dmaqOf (coreOf s c) q).entries with
  | e :: _ => if e.fence.isSome then 9 else tailCause
  | [] => tailCause
where
  /-- 6 where the oldest descriptor in flight waits on the tail, else 7. -/
  tailCause : Nat := if ((qFlight s c q).head?.map (waitsOnTail s c)).getD false then 6 else 7

/-- The cause under R166 of a wait instruction's word; none for other words, and where its predicate skips it. -/
def waitCause (s : State) (c : Nat) (sl : Slot) (w : Nat) : Option Nat :=
  if wordOn s c sl w then
    match w % 256 with
    | 0xC0 => some (tcCause (bitsOf w 39 34))
    | 0xC1 => some (dmaCause (bitsOf w 39 34))
    | 0xC2 => some 0
    | 0xC3 => some 5
    | 0xC4 => some 5
    | _ => none
  else none

/-- The queue at which the word stalls (R304); none where its predicate skips it. -/
def stallQueue (s : State) (c : Nat) (sl : Slot) (w : Nat) : Option Nat :=
  if wordOn s c sl w then fullQueue s c sl w else none

/-- The word is an END that holds for outstanding work (R139). -/
def endHolds (s : State) (c : Nat) (sl : Slot) (w : Nat) : Bool :=
  decide (w % 256 = 0x01) && wordOn s c sl w && !taskIdle s c sl

/-- The filler's gate is closed (R340). -/
def gateShut (s : State) (c : Nat) (sl : Slot) : Bool :=
  match sl with
  | .prim => false
  | .fill => !(coreOf s c).gate && (slotGroup s c .prim).isSome

/-- The cause of a slot whose instruction or launch is ready: row 11 where the gate holds it, else row 12. -/
def readyCause (s : State) (c : Nat) (sl : Slot) : Nat × Bool := if gateShut s c sl then (1, true) else (0, false)

/-- The cause of a slot in which a task runs and does not issue: rows 6 to 12. -/
def taskCause (s : State) (c : Nat) (sl : Slot) (t : Task) : Nat × Bool :=
  match t.wait with
  | some w => if w.kind ≠ .done then (w.cause, false) else if taskIdle s c sl then readyCause s c sl else (9, false)
  | none => match lineOf s c sl with
    | none => (if lineMoving s c sl then 6 else if (cached s c t.launch.job (pcOf t) true).isSome then 7 else 8, false)
    | some w => match waitCause s c sl w.toNat with
      | some k => (k, false)
      | none => match stallQueue s c sl w.toNat with
        | some q => (fullCause s c q, false)
        | none =>
          if endHolds s c sl w.toNat then (9, false) else if stalls s c sl w.toNat then (0, false) else readyCause s c sl

/-- The cause of a slot in which no task runs: rows 4, 5, 11 and 12. -/
def idleCause (s : State) (c : Nat) (sl : Slot) : Nat × Bool :=
  match (slotOf s c sl).queue with
  | [] => (1, false)
  | l :: _ =>
    if !l.failed && !released s l.release then (5, false) else readyCause s c sl

/-- The cause that a slot holding a job counts in this clk, by the first row of R345 that applies, and whether the filler is
held by the gate. -/
def slotCause (s : State) (c : Nat) (sl : Slot) : Nat × Bool :=
  let x := slotOf s c sl
  if x.issued || (x.task.isSome && (passRuns s c sl || pipeRuns s c sl)) then (0, false)
  else if throttled s then (10, false)
  else if eclipsed s (jobIn s c sl) then (11, false)
  else match x.task with
    | some t => taskCause s c sl t
    | none => idleCause s c sl

/-- A primary command waits for an array that a filler command holds, each with every array of its run (R123, R341), and the primary
counts as busy: where an earlier row of R345 gives it another cause, the clk is none of those of R341 (log entry 204). -/
def yields (s : State) (c : Nat) : Bool :=
  decide ((slotCause s c .prim).1 = 0) && (List.range 8).any (fun a => (runsOn s c [a]).any (fun r => decide (r.cmd.slot = .fill)) &&
    (queuedOn s c [a]).any (fun q => decide (q.slot = .prim)))

/-! ### The tick -/

/-- One slot counts its cause, as it stood before the clk; a slot with no job counts nothing. -/
def countSlot (c : Nat) (old s : State) (sl : Slot) : State :=
  if (slotGroup old c sl).isSome then
    let k := slotCause old c sl
    let s1 := bumpW s (idleFld sl) 1 (13 * c + k.1)
    if k.2 then bumpW s1 .coreFillGated_clk 1 c else s1
  else s

/-- The gate bit of the primary's host record for its cause (R339). -/
def gateBit (s : State) (c cause : Nat) : Bool :=
  match slotGroup s c .prim with
  | none => true
  | some g => tst (gateOf (coreStr s c) g.index) cause

/-- The slot goes into the next clk. -/
def closeSlot (x : SlotSt) (cause : Nat) : SlotSt :=
  { x with issued := false, cause := cause, pipes := mmap 0 (fun n => n - 1) x.pipes }

/-- The cause shown for a slot: that of its job, or 1 where it holds none. -/
def shownCause (s : State) (c : Nat) (sl : Slot) : Nat := if (slotGroup s c sl).isSome then (slotCause s c sl).1 else 1

/-- One clk of core `c`: what its counters hold now is what the transport engines and WAITTC see from here on (R163). -/
def clockTick (s : State) (c : Nat) : State :=
  let p := shownCause s c .prim
  let f := shownCause s c .fill
  let s1 := bumpW (each bothSlots (countSlot c s) s) .coreIdleClk_clk 1 c
  let s2 := if yields s c then bumpW s1 .coreFillYield_clk 1 c else s1
  let s3 := if (coreOf s c).flight.any (readerWaits s c) then bumpW s2 .attWait_clk 1 c else s2
  let k := coreOf s3 c
  setCore s3 c { k with prim := closeSlot k.prim p, fill := closeSlot k.fill f, gate := gateBit s c p, tcClk := [] }

/-- ARITHMETIC_CLOCK_TICK (R340, R341, R345, R449): the clock stands while the die is in reset and outside Run. The operation table's clk
is over with it (log entry 189). -/
def execArithmeticClockTick (c : Core) (s : State) : Host.Outcome State Fault Refusal :=
  .next (onlyIf (coreUp s c) (fun s => clockTick (closeClk s) c) s)

end Sys2Proof.Machine
end

