-- ==== Sys2Proof/WellFormed.lean ====
section
/-!
DEFINITION. Well-formed commands: the limits that the spec's layouts put on a command's operands. A control frame that is
not well-formed is refused with status 3 by its meaning (R63, R69); a packet whose data disagree with its header is not a
packet of the transport (R418).
-/
namespace Sys2Proof

/-- Control frames: the limits of R69 on counts, lengths and offsets. An IMAGE_DATA offset that is no multiple of 8,192 is malformed (R69), and
need not be the next expected one (R84): that it has status 3 then, before R84's test, is the model's choice (log entry 194). -/
def wfControl : Instr → Bool
  | .csrRead _ offs => decide (1 ≤ offs.length ∧ offs.length ≤ 128) && offs.all (fun o => o.toNat % 8 == 0)
  | .csrWrite _ ps => decide (1 ≤ ps.length ∧ ps.length ≤ 64) && ps.all (fun p => p.1.toNat % 8 == 0)
  | .imageBegin _ len _ => decide (len.toNat % 8 = 0 ∧ len.toNat ≤ 2 ^ 26)
  | .imageData _ off ws => decide (1 ≤ ws.length ∧ ws.length ≤ 1024 ∧ off.toNat % 8192 = 0)
  | .doorbell _ a n => decide (a.toNat % 64 = 0 ∧ 1 ≤ n.toNat ∧ n.toNat ≤ 256)
  | .ownerEnroll _ _ _ signed sig => signed || decide (sig = 0)
  | .ownerClear _ _ signer _ m _ => signer || decide (m = 0)
  | _ => true

/-- Packets: the payload has the length that the header names (R418). -/
def wfPacket : Instr → Bool
  | .molindPutRx _ h _ d => decide (d.length = h.length.toNat)
  | .molindGetResponseRx _ h _ d => decide (d.length = h.length.toNat)
  | .boardWriteRx _ h d => decide (d.length = h.length.toNat)
  | .boardReadResponseRx _ h d => decide (d.length = h.length.toNat)
  | .collectiveSendRx _ h _ d => decide (d.length + 32 = h.length.toNat)
  | .molindPacketForward _ _ h d => decide (d.length = h.length.toNat)
  | _ => true

/-- A command is well-formed. -/
def wellFormed (i : Instr) : Bool := wfControl i && wfPacket i

end Sys2Proof
end

