-- ==== Sys2Proof/Machine/Frames.lean ====
section
/-!
DEFINITION. The layout of control frames (R62, R63, R66, R69): the words of each command and of each response, and reading a
frame that arrives.
-/
namespace Sys2Proof.Machine

/-- The opcode of a control command; 0 for the other rows. -/
def opOf : Instr → Nat
  | .csrRead _ _ => 0x01
  | .csrWrite _ _ => 0x02
  | .imageBegin _ _ _ => 0x10
  | .imageData _ _ _ => 0x11
  | .imageEnd _ => 0x12
  | .imageAbort _ => 0x13
  | .modReset _ => 0x20
  | .rstFn _ _ => 0x21
  | .powerState _ _ _ => 0x22
  | .nonce _ => 0x30
  | .quote _ _ => 0x31
  | .certRead _ => 0x32
  | .ownerEnroll _ _ _ _ _ => 0x33
  | .ownerClear _ _ _ _ _ _ => 0x34
  | .regionReg _ _ => 0x40
  | .regionDereg _ _ _ => 0x41
  | .doorbell _ _ _ => 0x50
  | .commit _ _ _ _ _ => 0x60
  | .rollback _ _ _ _ _ => 0x61
  | _ => 0

/-- The opcodes of the table of control opcodes. -/
def knownOps : List Nat :=
  [0x01, 0x02, 0x10, 0x11, 0x12, 0x13, 0x20, 0x21, 0x22, 0x30, 0x31, 0x32, 0x33, 0x34, 0x40, 0x41, 0x50, 0x60, 0x61]

/-- A command whose payload is malformed whatever the state (R63, R69, R326, R447, R466). -/
def malformed (i : Instr) : Bool :=
  !wfControl i || (match i with
    | .rstFn _ m => m.getLsbD 0
    | .powerState _ t _ => decide (t = 3)
    | .regionReg _ r => decide (r.length = 0 ∨ 2 ^ 42 < r.length.toNat)
    | _ => false)

/-! ### Words and bytes (R69) -/

/-- Bytes packed into words, the last filled up with zeros (R69). -/
def padWords (b : Bytes) : List Word :=
  (List.range ((b.length + 7) / 8)).map (fun i => BitVec.ofNat 64 (leNat ((b.drop (8 * i)).take 8)))

/-- A number as `n` words, the least significant first. -/
def numWords (n v : Nat) : List Word := (List.range n).map (fun i => BitVec.ofNat 64 (bitsOf v (64 * i + 63) (64 * i)))

/-- Words as a number, the first the least significant. -/
def wordsNum (l : List Word) : Nat := l.foldr (fun w a => w.toNat + 2 ^ 64 * a) 0

/-- A modulus or signature, packed from its most significant byte on. -/
def bigWords (n : BitVec 3072) : List Word := padWords (toBe 384 n.toNat)

def wordsBig (l : List Word) : BitVec 3072 := BitVec.ofNat 3072 (beNat (bytesOf l))

/-- Word 0 of COMMIT and ROLLBACK, and word 1 (R388). -/
def commitWords (step : BitVec 32) (ctc : BitVec 8) (ctcEn : Bool) (epoch : BitVec 48) : List Word :=
  [BitVec.ofNat 64 (step.toNat + 2 ^ 32 * ctc.toNat + 2 ^ 40 * bit ctcEn), BitVec.ofNat 64 epoch.toNat]

/-- The four words of a region record (R325). -/
def regionWords (r : RegionRec) : List Word :=
  [BitVec.ofNat 64 (r.region.toNat + 2 ^ 14 * r.job.toNat + 2 ^ 26 * bit r.write + 2 ^ 27 * bit r.read + 2 ^ 28 * r.ports.toNat),
   BitVec.ofNat 64 r.base.toNat, BitVec.ofNat 64 r.length.toNat,
   BitVec.ofNat 64 (r.tc.toNat + 2 ^ 8 * r.core.toNat + 2 ^ 16 * bit r.tcEn)]

/-- The payload of a command (R69, R325, R388, R447, R466). -/
def payloadOf : Instr → List Word
  | .csrRead _ l => l.map (fun o => BitVec.ofNat 64 o.toNat)
  | .csrWrite _ l => l.flatMap (fun p => [BitVec.ofNat 64 p.1.toNat, p.2])
  | .imageBegin _ n m => [BitVec.ofNat 64 (n.toNat + 2 ^ 32 * m.toNat)]
  | .imageData _ o w => BitVec.ofNat 64 o.toNat :: w
  | .rstFn _ m => [BitVec.ofNat 64 m.toNat]
  | .powerState _ t e => [BitVec.ofNat 64 t.toNat, BitVec.ofNat 64 e.toNat]
  | .quote _ n => numWords 4 n.toNat
  | .ownerEnroll _ n m b g => numWords 4 n.toNat ++ bigWords m ++ [BitVec.ofNat 64 (bit b)] ++ bigWords g
  | .ownerClear _ n b k m g =>
    numWords 4 n.toNat ++ [BitVec.ofNat 64 (bit b + 2 * k.toNat)] ++ bigWords m ++ bigWords g
  | .regionReg _ r => regionWords r
  | .regionDereg _ r j => [BitVec.ofNat 64 (r.toNat + 2 ^ 14 * j.toNat)]
  | .doorbell _ a n => [BitVec.ofNat 64 (a.toNat + 2 ^ 46 * n.toNat)]
  | .commit _ st t b e => commitWords st t b e
  | .rollback _ st t b e => commitWords st t b e
  | _ => []

/-- The header of a frame (R62), from its opcode, payload length, sequence number, job, status, code and release tide. -/
def headerWords (op len seq job status code release : Nat) : List Word :=
  [BitVec.ofNat 64 (op + 2 ^ 16 * len + 2 ^ 32 * seq), BitVec.ofNat 64 (job + 2 ^ 12 * status + 2 ^ 16 * code),
   BitVec.ofNat 64 release, 0]

/-- The words of a command's frame; none for a row that is no control command. -/
def frameWords (i : Instr) : Option (List Word) :=
  (hdrOf i).map (fun h => headerWords (opOf i) (payloadOf i).length h.seq.toNat h.job.toNat 0 0 h.release.toNat ++ payloadOf i)

/-- The words of a response's frame: bit 7 of its opcode is 1 (R62). -/
def respWords (r : Resp) : List Word :=
  headerWords (r.op % 128 + 128) r.words.length r.seq.toNat r.job.toNat r.status r.code 0 ++ r.words

/-! ### Reading a frame (R62, R63, R66, R69) -/

/-- What arrives in a datagram on a control port: too little for a header, a frame that is refused with a status, or a
command. -/
inductive Frame where
  | runt
  | refused (h : CtlHdr) (op status : Nat)
  | cmd (i : Instr)
  deriving DecidableEq, Repr

/-- A field of a payload word. -/
def pw (ws : List Word) (i hi lo : Nat) : Nat := bitsOf (iw ws i) hi lo

def pairsOf : List Word → List (BitVec 26 × BitVec 64)
  | a :: v :: l => (BitVec.ofNat 26 a.toNat, v) :: pairsOf l
  | _ => []

/-- The command of an opcode whose fields stand in a payload. -/
def fieldsOf (op : Nat) (h : CtlHdr) (ws : List Word) : Option Instr :=
  let nonce := BitVec.ofNat 256 (wordsNum (ws.take 4))
  if op = 0x01 then some (.csrRead h (ws.map (fun w => BitVec.ofNat 26 w.toNat)))
  else if op = 0x02 then some (.csrWrite h (pairsOf ws))
  else if op = 0x10 then some (.imageBegin h (BitVec.ofNat 32 (pw ws 0 31 0)) (BitVec.ofNat 9 (pw ws 0 40 32)))
  else if op = 0x11 then some (.imageData h (BitVec.ofNat 32 (pw ws 0 31 0)) (ws.drop 1))
  else if op = 0x12 then some (.imageEnd h)
  else if op = 0x13 then some (.imageAbort h)
  else if op = 0x20 then some (.modReset h)
  else if op = 0x21 then some (.rstFn h (BitVec.ofNat 9 (pw ws 0 8 0)))
  else if op = 0x22 then some (.powerState h (BitVec.ofNat 2 (pw ws 0 1 0)) (BitVec.ofNat 48 (pw ws 1 47 0)))
  else if op = 0x30 then some (.nonce h)
  else if op = 0x31 then some (.quote h nonce)
  else if op = 0x32 then some (.certRead h)
  else if op = 0x33 then
    some (.ownerEnroll h nonce (wordsBig ((ws.drop 4).take 48)) (pw ws 52 0 0 == 1) (wordsBig ((ws.drop 53).take 48)))
  else if op = 0x34 then
    some (.ownerClear h nonce (pw ws 4 0 0 == 1) (BitVec.ofNat 2 (pw ws 4 2 1)) (wordsBig ((ws.drop 5).take 48))
      (wordsBig ((ws.drop 53).take 48)))
  else if op = 0x40 then
    some (.regionReg h ⟨BitVec.ofNat 14 (pw ws 0 13 0), BitVec.ofNat 12 (pw ws 0 25 14), pw ws 0 26 26 == 1, pw ws 0 27 27 == 1,
      BitVec.ofNat 4 (pw ws 0 31 28), BitVec.ofNat 55 (pw ws 1 54 0), BitVec.ofNat 43 (pw ws 2 42 0), BitVec.ofNat 8 (pw ws 3 7 0),
      BitVec.ofNat 8 (pw ws 3 15 8), pw ws 3 16 16 == 1⟩)
  else if op = 0x41 then some (.regionDereg h (BitVec.ofNat 14 (pw ws 0 13 0)) (BitVec.ofNat 12 (pw ws 0 25 14)))
  else if op = 0x50 then some (.doorbell h (BitVec.ofNat 46 (pw ws 0 45 0)) (BitVec.ofNat 9 (pw ws 0 54 46)))
  else if op = 0x60 then
    some (.commit h (BitVec.ofNat 32 (pw ws 0 31 0)) (BitVec.ofNat 8 (pw ws 0 39 32)) (pw ws 0 40 40 == 1) (BitVec.ofNat 48 (pw ws 1 47 0)))
  else if op = 0x61 then
    some (.rollback h (BitVec.ofNat 32 (pw ws 0 31 0)) (BitVec.ofNat 8 (pw ws 0 39 32)) (pw ws 0 40 40 == 1) (BitVec.ofNat 48 (pw ws 1 47 0)))
  else none

/-- The command of a payload: a reserved bit that is not zero, or a payload of another length, is no command's layout (R63). -/
def readPayload (op : Nat) (h : CtlHdr) (ws : List Word) : Option Instr :=
  (fieldsOf op h ws).filter (fun i => decide (payloadOf i = ws) && !malformed i)

/-- The header's reserved fields are zero, and so are those that only responses have (R62, R63; log entry 140). -/
def headerClean (ws : List Word) : Bool :=
  decide (pw ws 0 15 8 = 0) && decide (pw ws 1 63 12 = 0) && decide (iw ws 3 = 0) && decide (pw ws 0 31 16 ≤ 1025)

/-- A datagram on a control port from a sender. -/
def readFrame (p : Cp) (src : NetAddr) (frame : Bytes) : Frame :=
  if frame.length < 32 then .runt
  else
    let ws := padWords frame
    let op := pw ws 0 7 0
    let h : CtlHdr := ⟨p, BitVec.ofNat 32 (pw ws 0 63 32), BitVec.ofNat 12 (pw ws 1 11 0), BitVec.ofNat 64 (iw ws 2), src⟩
    if frame.length ≠ 32 + 8 * pw ws 0 31 16 ∨ headerClean ws = false then .refused h op 3
    else if !knownOps.contains op then .refused h op 2
    else match readPayload op h (ws.drop 4) with
      | none => .refused h op 3
      | some i => .cmd i

end Sys2Proof.Machine
end

