-- ==== Sys2Proof/Machine/Control.lean ====
section
/-!
DEFINITION. Control frames (R58 to R72): arrival, the queue of each port, release and history; and what each control command
does once it starts: CSR access, image loads, resets, power states, identity and owner keys, regions, launches, COMMIT and
ROLLBACK.
-/
namespace Sys2Proof.Machine

/-! ### Refusals (R66, R69) -/

/-- A refusal of a command that no port holds. -/
def refuse (s : State) (h : CtlHdr) (op status : Nat) : State := sendResp s ⟨h.port, h.src, h.seq, op, h.job, status, 0, []⟩

/-- The control port is enabled and FN0 answers (R60, R99, R463). -/
def cpOn (s : State) (p : Cp) : Bool := fn0Up s && (if p.val = 0 then flag s .ctlPort_cp0_en else flag s .ctlPort_cp1_en)

/-! ### Where commands are allowed (R72, R450) -/

/-- An offset of the CTL_, SEC_ and TIDE_ blocks. -/
def earlyOff (o : Nat) : Bool := decide (0x10000 ≤ o ∧ o < 0x30000)

/-- Commands that FN0 accepts while no foundation image is active (R72). -/
def earlyOk : Instr → Bool
  | .csrRead _ _ => true
  | .csrWrite _ l => l.all (fun p => earlyOff p.1.toNat)
  | .imageBegin _ _ _ => true
  | .imageData _ _ _ => true
  | .imageEnd _ => true
  | .imageAbort _ => true
  | .nonce _ => true
  | .quote _ _ => true
  | .certRead _ => true
  | _ => false

/-- Commands refused in Doze and Park (R450). -/
def dozeRefused : Instr → Bool
  | .csrWrite _ l => l.any (fun p => fnOfOff p.1.toNat != 0)
  | .doorbell _ _ _ => true
  | .regionReg _ _ => true
  | .regionDereg _ _ _ => true
  | .commit _ _ _ _ _ => true
  | .rollback _ _ _ _ _ => true
  | .imageBegin _ _ _ => true
  | .rstFn _ _ => true
  | _ => false

/-- The command is not allowed in the present state (status 5). -/
def notAllowed (s : State) (i : Instr) : Bool :=
  (s.ctl.found.isNone && !earlyOk i) || ((decide (powerOf s = 1) || decide (powerOf s = 2)) && dozeRefused i)

/-! ### CSR access (R69 to R71) -/

/-- CSR_READ: one value for each offset. -/
def runCsrRead (s : State) (h : CtlHdr) (offs : List (BitVec 26)) : State :=
  answer s h 0x01 0 0 (offs.map (fun o => csrRead1 s o.toNat))

/-- CSR_WRITE: the writes in payload order, all on the same side of any apply (R70). -/
def runCsrWrite (s : State) (h : CtlHdr) (pairs : List (BitVec 26 × BitVec 64)) : State :=
  answer (csrWrites h.port s pairs) h 0x02 0 0 []

/-! ### Image loads (R83 to R88) -/

/-- IMAGE_BEGIN (R83). -/
def runImageBegin (s : State) (h : CtlHdr) (length : BitVec 32) (mask : BitVec 9) : State :=
  if s.ctl.load.isSome then answer s h 0x10 4 0 []
  else
    let s1 := { s with ctl := { s.ctl with load := some ⟨length.toNat, mask, [], 0, none, none⟩ } }
    let s2 := put (put (put s1 .shpStat_load_state 1) .shpLoad_next_offset 0) .shpLoad_length length.toNat
    answer s2 h 0x10 0 0 []

/-- IMAGE_DATA (R84). -/
def runImageData (s : State) (h : CtlHdr) (offset : BitVec 32) (words : List Word) : State :=
  match s.ctl.load with
  | none => answer s h 0x11 5 0 []
  | some l =>
    let next := 8 * l.words.length
    let size := 8 * words.length
    let stop := offset.toNat + size
    if l.check.isSome then answer s h 0x11 4 0 []
    else if offset.toNat ≠ next then answer s h 0x11 6 0 [BitVec.ofNat 64 next]
    else if l.length < stop ∨ (stop ≠ l.length ∧ size ≠ 8192) then answer s h 0x11 3 0 []
    else
      let s1 := { s with ctl := { s.ctl with load := some { l with words := l.words ++ words } } }
      answer (put s1 .shpLoad_next_offset stop) h 0x11 0 0 []

/-- The load is over and its staging tables are gone. -/
def endLoad (s : State) : State :=
  put { s with ctl := { s.ctl with load := none } } .shpStat_load_state 0

/-- A foundation image that passed R73: active at once, or staged (R74). -/
def takeFound (s : State) (f : Found) : State :=
  if s.ctl.found.isNone then
    let s1 := showFound { s with ctl := { s.ctl with found := some f } } f
    if s1.pwr.stage = 4 then nextStage (holdSample s1) else s1
  else put { s with ctl := { s.ctl with staged := some f } } .secStat_found_staged 1

/-- IMAGE_END of a foundation image (R73, R74). -/
def endFound (s : State) (h : CtlHdr) (ld : Load) : State :=
  match checkFoundation s ld with
  | none => answer s h 0x12 1 0x11 []
  | some f => answer (takeFound s f) h 0x12 0 0 []

/-- An accepted shape image waits for its epoch (R85, R88, R93). -/
def acceptShape (s : State) (ld : Load) : State :=
  let ws := ld.words
  let sc := imageScope ws
  let full := decide (ld.mask = 0x1FF)
  let s1 := if full then closeRestore s else s
  let m := BitVec.ofNat 256 (digestNum (measurement ws))
  let p : PendImg :=
    { scope := sc, mask := ld.mask, str := parseStructure ws, meas := m, held := insideGuard s1 sc, full := full,
      restore := !full && sc != modScope && decide (s1.shp.restore = some ld.mask) }
  let s2 := { s1 with shp := { s1.shp with pend := s1.shp.pend.filter (fun q => q.scope != sc) ++ [p] } }
  put (putDigest s2 .shpPmeas_digest m.toNat) .shpStat_pending 1

/-- The record of a rejection (R85, R86). -/
def recordReject (s : State) (r : Reject) : State :=
  put (put (put (put s .shpStat_reject_reason r.reason) .shpReject_reason r.reason) .shpReject_section r.sect)
    .shpReject_offset r.off

/-- IMAGE_END of any other image (R85). -/
def endShape (s : State) (h : CtlHdr) (ld : Load) : State :=
  match checkShape s ld with
  | some r => answer (recordReject s r) h 0x12 1 0x11 []
  | none => answer (acceptShape s ld) h 0x12 0 0 []

/-- IMAGE_END (R83, R85): the checks begin, under the owner key enrolled now (R98), and with the functions that are in reset now (R86,
reason 17). They end with the next tide clock (log entry 136). -/
def runImageEnd (s : State) (h : CtlHdr) : State :=
  match s.ctl.load with
  | none => answer s h 0x12 5 0 []
  | some ld =>
    if ld.check.isSome then answer s h 0x12 4 0 []
    else
      let down := ld.fnReset ||| BitVec.ofNat 9 (get s .rstStat_in_reset)
      let s1 := { s with ctl := { s.ctl with load := some { ld with check := some h, owner := s.fuses.owner, fnReset := down } } }
      acceptCmd (put s1 .shpStat_load_state 2) h.port

/-- The checks of an image end, and its IMAGE_END is answered (R73, R85). -/
def endChecks (s : State) : State :=
  match s.ctl.load with
  | none => s
  | some ld => match ld.check with
    | none => s
    | some h => if hKind ld.words = 1 then endFound (endLoad s) h ld else endShape (endLoad s) h ld

/-- An image is being checked. -/
def checking (s : State) : Bool :=
  match s.ctl.load with
  | none => false
  | some ld => ld.check.isSome

/-- IMAGE_ABORT (R83). -/
def runImageAbort (s : State) (h : CtlHdr) : State :=
  if checking s then answer s h 0x13 4 0 [] else answer (if s.ctl.load.isSome then endLoad s else s) h 0x13 0 0 []

/-! ### Resets and power states (R447, R462, R466 to R468) -/

/-- MOD_RESET (R462, R466): answered, and taking effect 10 µs later; a function reset under way is taken over. -/
def runModReset (s : State) (h : CtlHdr) : State :=
  let s1 := answer (takeOverRst s) h 0x20 0 0 []
  { s1 with pwr := { s1.pwr with resetAt := some (s1.pwr.resetAt.getD (s1.time.ticks + 10000)) } }

/-- The functions of a mask that are not in reset yet. -/
def newlyReset (s : State) (mask : BitVec 9) : BitVec 9 := mask &&& ~~~(BitVec.ofNat 9 (get s .rstStat_in_reset))

/-- The number of functions in a mask. -/
def maskCount (m : BitVec 9) : Nat := ((List.range 9).filter (fun n => m.getLsbD n)).length

/-- RST_FN (R466, R467): answered when the functions that it resets are ready again. -/
def runRstFn (s : State) (h : CtlHdr) (mask : BitVec 9) : State :=
  if powerOf s = 3 ∨ resetInProgress s = true then answer s h 0x21 5 0 []
  else
    let m := newlyReset s mask
    if m = 0 then answer s h 0x21 0 0 []
    else
      let s1 := logEvt (enterFnReset s m.toNat) 0x002 0 0 0 m.toNat 0
      let s2 := bumpW s1 .rstCnt_fn_resets (maskCount m)
      acceptCmd { s2 with pwr := { s2.pwr with rstWait := s2.pwr.rstWait ++ [(h, m)] } } h.port

/-- The command is accepted, and the port goes on with its next before this one is answered (R65). -/
def freePort (s : State) (p : Cp) : State :=
  let s1 := acceptCmd s p
  setCp s1 p { cpOf s1 p with busy := none, held := false }

/-- A POWER_STATE that waits gives way to another (R448). -/
def replacePower (s : State) : State :=
  match s.pwr.pend with
  | none => s
  | some t => answer { s with pwr := { s.pwr with pend := none } } t.hdr 0x22 5 0 []

/-- POWER_STATE (R447, R448). -/
def runPowerState (s : State) (h : CtlHdr) (target : BitVec 2) (epoch : BitVec 48) : State :=
  if powerOf s = 3 ∨ transOk s (powerOf s) target.toNat = false then answer s h 0x22 5 0 []
  else if epoch.toNat * 65536 < s.time.tide + guardNs s then answer s h 0x22 1 0x0A []
  else
    let s1 := freePort (replacePower s) h.port
    { s1 with pwr := { s1.pwr with pend := some ⟨target.toNat, epoch.toNat, h⟩ } }

/-! ### Identity and owner keys (R94 to R98) -/

/-- NONCE (R94; log entry 7). -/
def runNonce (s : State) (h : CtlHdr) : State :=
  let n := Config.nonceDraw s.ctl.nonces
  let s1 := { s with ctl := { s.ctl with nonces := s.ctl.nonces + 1 } }
  let s2 := put (putDigest s1 .secNonce_nonce n.toNat) .secStat_nonce_valid 1
  answer s2 h 0x30 0 0 (padWords (toLe 32 n.toNat))

/-- The 512-byte body of a quote (R95). -/
def quoteBody (s : State) (nonce : BitVec 256) : Bytes :=
  let b := toLe 8 0x45544F55514B4741 ++ toLe 8 s.fuses.serial.toNat ++ toLe 8 (csrRead1 s 0x8).toNat ++
    toLe 8 (csrRead1 s 0x10).toNat ++ toLe 8 s.time.tide ++ toLe 32 nonce.toNat ++
    toLe 32 (getDigest s .secFmeas_digest) ++ toLe 2 (get s .secStat_found_svn) ++ toLe 6 0 ++
    toLe 32 ((s.ctl.staged.map (fun f => f.meas.toNat)).getD 0) ++ toLe 32 (getDigest s .shpAmeas_digest) ++
    toLe 32 (getDigest s .shpChain_digest) ++
    toLe 32 (if flag s .shpStat_pending then getDigest s .shpPmeas_digest else 0) ++ toLe 32 (getDigest s .secOwner_digest) ++
    toLe 8 (csrRead1 s 0x30000).toNat
  b ++ List.replicate (512 - b.length) 0

/-- QUOTE (R95; log entry 7): the body and its signature, whose salt is drawn. -/
def runQuote (s : State) (h : CtlHdr) (nonce : BitVec 256) : State :=
  let b := quoteBody s nonce
  answer (freeTick s) h 0x31 0 0 (padWords b ++ padWords (toBe 384 (Config.identitySign b s.free).toNat))

/-- The certificate: 1 to 8,192 bytes (R69; log entry 7). -/
def certBytes (s : State) : Bytes :=
  match (Config.certificate s.fuses.serial).take 8192 with
  | [] => [0]
  | b :: l => b :: l

/-- CERT_READ (R69; log entry 7). -/
def runCertRead (s : State) (h : CtlHdr) : State :=
  let c := certBytes s
  answer s h 0x32 0 0 (BitVec.ofNat 64 c.length :: padWords c)

/-- The nonce of a key operation is the one that stands unused (R94). The spec does not say whether an earlier nonce that no
operation has used stays valid after a later NONCE: here only the last one drawn does (log entry 137). -/
def nonceOk (s : State) (nonce : BitVec 256) : Bool :=
  flag s .secStat_nonce_valid && decide (getDigest s .secNonce_nonce = nonce.toNat)

/-- The key store holds another owner, or none: one write is used (R98). -/
def storeOwner (s : State) (o : Option (BitVec 3072)) : State :=
  { s with fuses := { s.fuses with owner := o, writesLeft := s.fuses.writesLeft - 1 } }

/-- A signature of an owner change verifies under the owner enrolled; with none enrolled none is needed (R96). The text is hashed
once: its SHA-256 is the message hash of RSASSA-PSS (log entry 138). -/
def enrollSigOk (s : State) (nonce : BitVec 256) (modulus : BitVec 3072) (signed : Bool) (sig : BitVec 3072) : Bool :=
  match s.fuses.owner with
  | none => true
  | some m => signed && pssVerify m.toNat sig.toNat (toBe 384 modulus.toNat ++ toLe 32 nonce.toNat)

/-- OWNER_ENROLL (R94, R96, R98). -/
def runOwnerEnroll (s : State) (h : CtlHdr) (nonce : BitVec 256) (modulus : BitVec 3072) (signed : Bool)
    (sig : BitVec 3072) : State :=
  if s.fuses.writesLeft = 0 then answer s h 0x33 5 0 []
  else if !nonceOk s nonce then answer s h 0x33 1 0x11 []
  else
    let s1 := put s .secStat_nonce_valid 0
    if enrollSigOk s nonce modulus signed sig then answer (storeOwner s1 (some modulus)) h 0x33 0 0 []
    else answer s1 h 0x33 1 0x11 []

/-- The five ASCII bytes "CLEAR". -/
def clearText : Bytes := [0x43, 0x4C, 0x45, 0x41, 0x52]

/-- The signature of OWNER_CLEAR verifies under the key that the signer choice names (R97). The text is hashed once, as in
`enrollSigOk` (log entry 138). -/
def clearSigOk (s : State) (nonce : BitVec 256) (signer : Bool) (slot : BitVec 2) (modulus sig : BitVec 3072) : Bool :=
  let msg := toLe 8 s.fuses.serial.toNat ++ toLe 32 nonce.toNat ++ clearText
  if signer then
    decide (sha256 (toBe 384 modulus.toNat) = toBe 32 (Config.slotHash slot.toNat).toNat) &&
    !(tst s.fuses.slotRevoked.toNat slot.toNat) && pssVerify modulus.toNat sig.toNat msg
  else match s.fuses.owner with
    | none => false
    | some m => pssVerify m.toNat sig.toNat msg

/-- OWNER_CLEAR (R94, R97, R98). -/
def runOwnerClear (s : State) (h : CtlHdr) (nonce : BitVec 256) (signer : Bool) (slot : BitVec 2)
    (modulus sig : BitVec 3072) : State :=
  if s.fuses.writesLeft = 0 then answer s h 0x34 5 0 []
  else if !nonceOk s nonce then answer s h 0x34 1 0x11 []
  else
    let s1 := put s .secStat_nonce_valid 0
    if clearSigOk s nonce signer slot modulus sig then answer (storeOwner s1 none) h 0x34 0 0 []
    else answer s1 h 0x34 1 0x11 []

/-! ### Regions (R325, R326, R329) -/

/-- REGION_REG (R325, R326). -/
def runRegionReg (s : State) (h : CtlHdr) (r : RegionRec) : State :=
  let st := regionRefuse s r
  if st ≠ 0 then answer s h 0x40 st 0 []
  else
    let a := regionAdd s r
    answer a.1 h 0x40 0 0 [a.2]

/-- REGION_DEREG (R329): new access stops at once; the answer follows when the accesses being placed have finished. -/
def runRegionDereg (s : State) (h : CtlHdr) (region : BitVec 14) (job : BitVec 12) : State :=
  let n := region.toNat
  if !fnReady s 5 || !regValid s n || bitsOf (get s .xptReg0_word0 n) 25 14 != job.toNat then answer s h 0x41 5 0 []
  else
    let s1 := regionStop s n
    acceptCmd { s1 with xpt := { s1.xpt with deregs := s1.xpt.deregs ++ [(n, h)] } } h.port

/-! ### Launches (R134 to R137) -/

/-- The mask of a launch record's words 2 to 4. -/
def recMask (w : List Word) : BitVec 192 := BitVec.ofNat 192 (iw w 2 + 2 ^ 64 * iw w 3 + 2 ^ 128 * iw w 4)

/-- Bits of word 0 of a launch record. -/
def rec0 (w : List Word) (hi lo : Nat) : Nat := bitsOf (iw w 0) hi lo

/-- A launch record is of version 2 with clean reserved fields and an aligned program (R135). -/
def recClean (w : List Word) : Bool :=
  decide (rec0 w 7 0 = 2) && decide (rec0 w 63 52 = 0) && decide (bitsOf (iw w 1) 63 55 = 0) && decide (iw w 1 % 16 = 0)

/-- The stage group that a launch record names, where it belongs to its job. -/
def recGroup (s : State) (w : List Word) : Option GroupRec :=
  (strOf s 0).groups.find? (fun g => g.index == rec0 w 25 20 && g.job == rec0 w 19 8)

/-- The cores that a launch record reaches (R136). -/
def recCores (g : GroupRec) (w : List Word) : BitVec 192 := if rec0 w 26 26 = 1 then recMask w else g.cores

/-- The queue of a launch on a core: its slot, where the core's die holds the stage group. -/
def recSlot (s : State) (w : List Word) (c : Nat) : Option Slot :=
  if fnReady s (coreFn c) then slotOfGroup s c (rec0 w 25 20) else none

/-- A launch record names a resident job, a group of that job, and cores of that group only, at least one (R135). -/
def recPlaced (s : State) (w : List Word) : Bool :=
  match recGroup s w with
  | none => false
  | some g =>
    resident s (rec0 w 19 8) && decide (recCores g w &&& ~~~g.cores = 0) && decide (recCores g w ≠ 0) &&
    (allCores.filter (fun c => (recCores g w).getLsbD c)).all (fun c => (recSlot s w c).isSome)

/-- The cores and slots at which a launch record queues. -/
def recTargets (s : State) (w : List Word) : List (Nat × Slot) :=
  match recGroup s w with
  | none => []
  | some g => (allCores.filter (fun c => (recCores g w).getLsbD c)).filterMap (fun c => (recSlot s w c).map (fun sl => (c, sl)))

/-- Every launch queue has room for the records addressed to it (R135, R137). -/
def roomFor (s : State) (ts : List (Nat × Slot)) : Bool :=
  ts.all (fun t => decide ((slotOf s t.1 t.2).queue.length + (ts.filter (fun u => decide (u = t))).length ≤ 16))

/-- The launch of a record. -/
def recLaunch (g : GroupRec) (w : List Word) (failed : Bool) : Launch :=
  { job := rec0 w 19 8, group := rec0 w 25 20, cores := recCores g w, doneEn := rec0 w 27 27 == 1, doneTc := rec0 w 35 28,
    waitLimit := rec0 w 51 36, program := bitsOf (iw w 1) 54 0, release := iw w 5,
    arg0 := w.getD 6 0, arg1 := w.getD 7 0, failed := failed }

/-- A launch joins the queue of a core's slot. -/
def queueLaunch (l : Launch) (s : State) (t : Nat × Slot) : State :=
  let x := slotOf s t.1 t.2
  setSlot s t.1 t.2 { x with queue := x.queue ++ [l] }

/-- A record is queued; its release is tested against the tide of now (R44, R45, R137). -/
def queueRecord (s : State) (w : List Word) : State :=
  match recGroup s w with
  | none => s
  | some g =>
    let r := releaseTest s (iw w 5)
    each (recTargets s w) (queueLaunch (recLaunch g w (decide (r = .refused)))) (countRelease s r)

/-- Why a run of records is refused: the status, or 0 (R135). Where several conditions hold, 3 comes first, then 5, then 4: the
spec gives no order (log entry 139). -/
def recsRefuse (s : State) (recs : List (List Word)) : Nat :=
  if !recs.all recClean then 3
  else if !recs.all (recPlaced s) then 5
  else if !roomFor s (recs.flatMap (recTargets s)) then 4
  else 0

/-- DOORBELL (R134, R135, R137). -/
def runDoorbell (s : State) (h : CtlHdr) (records : BitVec 46) (count : BitVec 9) : State :=
  let a := records.toNat
  let n := count.toNat
  if variantHbmBytes s.fuses.variant < a + 64 * n then answer s h 0x50 1 0x01 []
  else if !fnReady s 7 then answer s h 0x50 1 0x0E []
  else
    let r := readMem s a (64 * n)
    match r.2.1 with
    | some u => answer (noteUnit r.1 u h.job.toNat 255) h 0x50 1 (ueCode u) []
    | none =>
      let recs := (List.range n).map (fun i => (padWords ((r.2.2.drop (64 * i)).take 64)))
      let st := recsRefuse r.1 recs
      if st ≠ 0 then answer r.1 h 0x50 st 0 [] else answer (each recs queueRecord r.1) h 0x50 0 0 []

/-! ### COMMIT and ROLLBACK (R388, R389) -/

/-- A command that waits for its epoch gives way to another (R389). -/
def replaceCommit (s : State) (job : Nat) : State :=
  match mget none s.ctl.commits job with
  | none => s
  | some c => endCommit s job c 5 0

/-- COMMIT and ROLLBACK up to their epoch (R386, R389). -/
def acceptCommit (s : State) (c : CommitCmd) : State :=
  let job := c.hdr.job.toNat
  match jobEntry s job with
  | none => answer s c.hdr (if c.isCommit then 0x60 else 0x61) 5 0 []
  | some j =>
    let s1 := freePort (replaceCommit s job) c.hdr.port
    let s2 := put { s1 with ctl := { s1.ctl with commits := mset none s1.ctl.commits job (some c) } } .grdJobb_state
      (if c.isCommit then 2 else 3) j
    nameEpoch s2 job c.epoch.toNat

/-- COMMIT (R388, R389). -/
def runCommit (s : State) (h : CtlHdr) (step : BitVec 32) (ctc : BitVec 8) (ctcEn : Bool) (epoch : BitVec 48) : State :=
  acceptCommit s ⟨true, step, ctc, ctcEn, epoch, h⟩

/-- ROLLBACK (R388, R389). -/
def runRollback (s : State) (h : CtlHdr) (step : BitVec 32) (ctc : BitVec 8) (ctcEn : Bool) (epoch : BitVec 48) : State :=
  acceptCommit s ⟨false, step, ctc, ctcEn, epoch, h⟩

/-! ### A port's queue (R43, R65, R67, R68) -/

/-- The effect of a control command that its port has started. -/
def runBody (s : State) : Instr → State
  | .csrRead h o => runCsrRead s h o
  | .csrWrite h l => runCsrWrite s h l
  | .imageBegin h n m => runImageBegin s h n m
  | .imageData h o w => runImageData s h o w
  | .imageEnd h => runImageEnd s h
  | .imageAbort h => runImageAbort s h
  | .modReset h => runModReset s h
  | .rstFn h m => runRstFn s h m
  | .powerState h t e => runPowerState s h t e
  | .nonce h => runNonce s h
  | .quote h n => runQuote s h n
  | .certRead h => runCertRead s h
  | .ownerEnroll h n m b g => runOwnerEnroll s h n m b g
  | .ownerClear h n b k m g => runOwnerClear s h n b k m g
  | .regionReg h r => runRegionReg s h r
  | .regionDereg h r j => runRegionDereg s h r j
  | .doorbell h a n => runDoorbell s h a n
  | .commit h st t b e => runCommit s h st t b e
  | .rollback h st t b e => runRollback s h st t b e
  | _ => s

/-- A started command: refused where the present state does not allow it (R72, R450), else carried out. -/
def runCmd (s : State) (h : CtlHdr) (i : Instr) : State :=
  if notAllowed s i then answer s h (opOf i) 5 0 [] else runBody s i

/-- The job whose command this is, for R54: that of a region. A COMMIT or ROLLBACK starts in eclipse, since one that is not late
ends it (R389, "the driver repeats the command for a new epoch"); a DOORBELL starts, and its launches wait (log entry 85). -/
def jobOfCmd : Instr → Option Nat
  | .regionReg _ r => some r.job.toNat
  | .regionDereg _ _ j => some j.toNat
  | _ => none

/-- A command may start: its release tide has come (R43), and its job is not in eclipse (R54). -/
def mayStart (s : State) (h : CtlHdr) (i : Instr) : Bool :=
  released s h.release.toNat && (match jobOfCmd i with
    | none => true
    | some j => !eclipsed s j)

/-- A command comes to the front of its port: it fails where its release failed (R68), waits while it may not start, or
runs. -/
def startCmd (s : State) (h : CtlHdr) (i : Instr) (bad : Bool) : State :=
  let s1 := setCp s h.port { cpOf s h.port with busy := some i, held := !bad && !mayStart s h i }
  if bad then answer s1 h (opOf i) 1 0x0A []
  else if mayStart s h i then runCmd s1 h i
  else s1

/-- The port is free and has a command queued. -/
def canPump (s : State) (p : Cp) : Bool := (cpOf s p).busy.isNone && !(cpOf s p).queue.isEmpty

/-- A free port starts the command at the front of its queue. -/
def pumpOne (s : State) (p : Cp) : State :=
  match (cpOf s p).queue with
  | [] => s
  | x :: rest =>
    let s1 := setCp s p { cpOf s p with queue := rest }
    match hdrOf x.1 with
    | none => s1
    | some h => startCmd s1 h x.1 x.2

/-- The free ports start the commands that are queued, one after another, those of CP0 first (R65); the first argument bounds
their number. -/
def pump : Nat → State → State
  | 0, s => s
  | n + 1, s =>
    if canPump s 0 then pump n (pumpOne s 0)
    else if canPump s 1 then pump n (pumpOne s 1)
    else s

/-- Both ports go on with what is queued. -/
def pumpPorts (s : State) : State := pump ((cpOf s 0).queue.length + (cpOf s 1).queue.length) s

/-- A command with the sequence number of one that the port keeps, from a sender (R67). -/
def repeatCmd (s : State) (p : Cp) (src : NetAddr) (x : Hist) : State :=
  let s1 := bump s .ctlCmdCnt_duplicate
  match x.resp with
  | some r => emit s1 (.resp { r with dst := src })
  | none =>
    let c := cpOf s1 p
    setCp s1 p { c with hist := c.hist.map (fun y => if y = x then { y with repeats := y.repeats ++ [src] } else y) }

/-- A command that its port takes: its release is tested now (R44, R45), and it starts where the port is free. -/
def takeCmd (s : State) (h : CtlHdr) (i : Instr) : State :=
  let r := releaseTest s h.release.toNat
  let bad := decide (r = .refused)
  let s1 := countRelease s r
  let c := cpOf s1 h.port
  let s2 := setCp s1 h.port { c with hist := c.hist ++ [⟨h.seq, none, []⟩] }
  if c.busy.isNone && c.queue.isEmpty then startCmd s2 h i bad
  else setCp s2 h.port { cpOf s2 h.port with queue := c.queue ++ [(i, bad)] }

/-- A control frame of a known opcode arrives (R58, R60, R63, R65 to R68). What it answers on the other port lets that port go
on. -/
def arrive (h : CtlHdr) (i : Instr) (s : State) : State :=
  if !cpOn s h.port then s
  else if malformed i then refuse s h (opOf i) 3
  else match (cpOf s h.port).hist.find? (fun x => x.seq == h.seq) with
    | some x => repeatCmd s h.port h.src x
    | none => pumpPorts (takeCmd s h i)

/-! ### The commands -/

/-- CSR_READ (R69, R71, R348, R450, R498). -/
def execCsrRead (h : CtlHdr) (offs : List (BitVec 26)) (s : State) : Host.Outcome State Fault Refusal :=
  .next (arrive h (.csrRead h offs) s)

/-- CSR_WRITE (R69 to R72, R450, R498). -/
def execCsrWrite (h : CtlHdr) (pairs : List (BitVec 26 × BitVec 64)) (s : State) : Host.Outcome State Fault Refusal :=
  .next (arrive h (.csrWrite h pairs) s)

/-- IMAGE_BEGIN (R83). -/
def execImageBegin (h : CtlHdr) (length : BitVec 32) (mask : BitVec 9) (s : State) : Host.Outcome State Fault Refusal :=
  .next (arrive h (.imageBegin h length mask) s)

/-- IMAGE_DATA (R83, R84). -/
def execImageData (h : CtlHdr) (offset : BitVec 32) (words : List (BitVec 64)) (s : State) : Host.Outcome State Fault Refusal :=
  .next (arrive h (.imageData h offset words) s)

/-- IMAGE_END (R73, R74, R85 to R88, R93). -/
def execImageEnd (h : CtlHdr) (s : State) : Host.Outcome State Fault Refusal := .next (arrive h (.imageEnd h) s)

/-- IMAGE_ABORT (R83). -/
def execImageAbort (h : CtlHdr) (s : State) : Host.Outcome State Fault Refusal := .next (arrive h (.imageAbort h) s)

/-- MOD_RESET (R462). -/
def execModReset (h : CtlHdr) (s : State) : Host.Outcome State Fault Refusal := .next (arrive h (.modReset h) s)

/-- RST_FN (R466 to R468). -/
def execRstFn (h : CtlHdr) (mask : BitVec 9) (s : State) : Host.Outcome State Fault Refusal := .next (arrive h (.rstFn h mask) s)

/-- POWER_STATE (R447, R448). -/
def execPowerState (h : CtlHdr) (target : BitVec 2) (epoch : BitVec 48) (s : State) : Host.Outcome State Fault Refusal :=
  .next (arrive h (.powerState h target epoch) s)

/-- NONCE (R94). -/
def execNonce (h : CtlHdr) (s : State) : Host.Outcome State Fault Refusal := .next (arrive h (.nonce h) s)

/-- QUOTE (R95). -/
def execQuote (h : CtlHdr) (nonce : BitVec 256) (s : State) : Host.Outcome State Fault Refusal := .next (arrive h (.quote h nonce) s)

/-- CERT_READ (R69). -/
def execCertRead (h : CtlHdr) (s : State) : Host.Outcome State Fault Refusal := .next (arrive h (.certRead h) s)

/-- OWNER_ENROLL (R96, R98). -/
def execOwnerEnroll (h : CtlHdr) (nonce : BitVec 256) (modulus : BitVec 3072) (signed : Bool) (sig : BitVec 3072) (s : State) :
    Host.Outcome State Fault Refusal :=
  .next (arrive h (.ownerEnroll h nonce modulus signed sig) s)

/-- OWNER_CLEAR (R97, R98). -/
def execOwnerClear (h : CtlHdr) (nonce : BitVec 256) (signer : Bool) (slot : BitVec 2) (modulus : BitVec 3072)
    (sig : BitVec 3072) (s : State) : Host.Outcome State Fault Refusal :=
  .next (arrive h (.ownerClear h nonce signer slot modulus sig) s)

/-- REGION_REG (R325, R326). -/
def execRegionReg (h : CtlHdr) (r : RegionRec) (s : State) : Host.Outcome State Fault Refusal :=
  .next (arrive h (.regionReg h r) s)

/-- REGION_DEREG (R329). -/
def execRegionDereg (h : CtlHdr) (region : BitVec 14) (job : BitVec 12) (s : State) : Host.Outcome State Fault Refusal :=
  .next (arrive h (.regionDereg h region job) s)

/-- DOORBELL (R134, R135, R137). -/
def execDoorbell (h : CtlHdr) (records : BitVec 46) (count : BitVec 9) (s : State) : Host.Outcome State Fault Refusal :=
  .next (arrive h (.doorbell h records count) s)

/-- COMMIT (R388, R389). -/
def execCommit (h : CtlHdr) (step : BitVec 32) (ctc : BitVec 8) (ctcEn : Bool) (epoch : BitVec 48) (s : State) :
    Host.Outcome State Fault Refusal :=
  .next (arrive h (.commit h step ctc ctcEn epoch) s)

/-- ROLLBACK (R388, R389). -/
def execRollback (h : CtlHdr) (step : BitVec 32) (ctc : BitVec 8) (ctcEn : Bool) (epoch : BitVec 48) (s : State) :
    Host.Outcome State Fault Refusal :=
  .next (arrive h (.rollback h step ctc ctcEn epoch) s)

/-- The command that holds a port and has still to start, where it may start now, with its header. -/
def heldCmd (s : State) (p : Cp) : Option (CtlHdr × Instr) :=
  match (cpOf s p).busy with
  | none => none
  | some i => match hdrOf i with
    | none => none
    | some h => if (cpOf s p).held && mayStart s h i then some (h, i) else none

/-- The held command of a port starts at tide T + 16 ns (R32, R43). -/
def startHeld (s : State) (p : Cp) : State :=
  match heldCmd s p with
  | none => s
  | some (h, i) => runCmd (setCp s p { cpOf s p with held := false }) h i

/-- The held command of the other port starts before that of port `p`: it was released earlier, or at the same tide and the
port is CP0 (R65). -/
def otherFirst (s : State) (p : Cp) : Bool :=
  match heldCmd s p, heldCmd s (1 - p) with
  | some (h, _), some (g, _) =>
    decide (g.release.toNat < h.release.toNat) || (decide (g.release = h.release) && decide (p = 1))
  | _, _ => false

/-- RELEASED_COMMAND_START (R43, R65): the ports go on. -/
def execReleasedCommandStart (p : Cp) (s : State) : Host.Outcome State Fault Refusal :=
  .next (onlyIf (fn0Up s)
    (fun s => pumpPorts (startHeld (onlyIf (otherFirst s p) (fun s => startHeld s (1 - p)) s) p)) s)

/-! ### What completes later -/

/-- The bit of function `n`. -/
def fnBit (n : Nat) : BitVec 9 := BitVec.ofNat 9 (2 ^ n)

/-- Function `n` is ready again: every RST_FN whose functions are all ready is answered, and its port goes on (R466). -/
def answerRsts (s : State) : State :=
  let done (x : CtlHdr × BitVec 9) : Bool := (List.range 9).all (fun n => !x.2.getLsbD n || fnReady s n)
  let s1 := { s with pwr := { s.pwr with rstWait := s.pwr.rstWait.filter (fun x => !done x) } }
  each (s.pwr.rstWait.filter done) (fun s x => pumpPorts (answer s x.1 0x21 0 0 [])) s1

/-- FUNCTION_RESET_COMPLETE (R52, R92, R465, R466, R468): after its set time the function leaves reset and is ready; the links
of FN8 train; while a shape image is active the function lacks its structure. -/
def execFunctionResetComplete (fn : Fn) (s : State) : Host.Outcome State Fault Refusal :=
  let n := fn.val
  .next (onlyIf (inReset s n && s.pwr.rstWait.any (fun x => x.2.getLsbD n)) (fun s =>
    let s1 := makeReady (leaveReset s [n]) [n]
    let s2 := if n = 8 then trainAll s1 else s1
    let s3 := if s2.shp.anyActive then put s2 .shpStat_stale_fn (get s2 .shpStat_stale_fn ||| 2 ^ n) else s2
    answerRsts s3) s)

/-- REGION_DEREG_COMPLETE (R325, R329): the generation rises, and REGION_DEREG is answered with it. -/
def execRegionDeregComplete (region : BitVec 14) (s : State) : Host.Outcome State Fault Refusal :=
  match s.xpt.deregs.find? (fun x => x.1 == region.toNat) with
  | none => .next s
  | some x =>
    let s1 := raiseGen { s with xpt := { s.xpt with deregs := s.xpt.deregs.filter (fun y => decide (y ≠ x)) } } x.1
    .next (pumpPorts (answer s1 x.2 0x41 0 0 [BitVec.ofNat 64 (regionGen s1 x.1)]))

/-- What the passage of a nanosecond brings besides: fires that have come to a boundary or met their conditions are noted (R356,
R366), spills that nothing holds up any more go on (R292), part-filled flits leave (log entry 157), and arrivals that waited are taken
up again (log entry 47). -/
def tickWork (before : Nat) (s : State) : State :=
  let s1 := flushLinks (beginSpills (noteElig (noteBounds before s)))
  if s1.col.held.isEmpty then s1 else retryHeld s1

/-- What a nanosecond brings first: the operation table is in a new clk (R211; log entry 189), the counter moves, and the timers of
eclipsed jobs stand still (R368). -/
def tickClocks (s : State) : State :=
  let s1 := closeClk s
  { s1 with time := tickTime s1.time, col := pauseTimers s1.col (pausedSlots s1) }

/-- TIDE_TICK (R28, R29, R30, R41, R57, R368): the counter moves, and the checks of an image end (R85). -/
def execTideTick (s : State) : Host.Outcome State Fault Refusal :=
  let s1 := tickWork s.time.tide (tickClocks s)
  .next (onlyIf (checking s1) (fun s => pumpPorts (endChecks s)) s1)

/-! ### Frames that are no command -/

/-- A frame that `readFrame` refuses with a status is answered with it. -/
def frameRefused (p : Cp) (d : Datagram) (status : Nat) (s : State) : State :=
  match readFrame p d.src d.bytes with
  | .refused h op st => if cpOn s p && decide (st = status) then refuse s h op st else s
  | _ => s

/-- CONTROL_FRAME_MALFORMED (R62, R63, R66). -/
def execControlFrameMalformed (p : Cp) (d : Datagram) (s : State) : Host.Outcome State Fault Refusal :=
  .next (frameRefused p d 3 s)

/-- UNKNOWN_OPCODE (R66). -/
def execUnknownOpcode (p : Cp) (d : Datagram) (s : State) : Host.Outcome State Fault Refusal :=
  .next (frameRefused p d 2 s)

/-- RUNT_DATAGRAM_RX (R63). -/
def execRuntDatagramRx (p : Cp) (s : State) : Host.Outcome State Fault Refusal :=
  .next (onlyIf (cpOn s p) (fun s => bump s .ctlRxerr_runt) s)

/-- IP_FRAGMENT_RX (R64). -/
def execIpFragmentRx (_p : Cp) (s : State) : Host.Outcome State Fault Refusal :=
  .next (onlyIf (fn0Up s) (fun s => bump s .ctlRxerr_fragments) s)

/-- OVERSIZE_FRAME_RX (R64). -/
def execOversizeFrameRx (_p : Cp) (s : State) : Host.Outcome State Fault Refusal :=
  .next (onlyIf (fn0Up s) (fun s => bump s .ctlRxerr_oversize) s)

/-- CONTROL_FRAME_ON_DATA_PORT (R59). -/
def execControlFrameOnDataPort (p : Port) (s : State) : Host.Outcome State Fault Refusal :=
  .next (onlyIf (fn0Up s && fnReady s 8 && portPresent s p.val) (fun s => bump s .ctlDrop_ctl_on_data) s)

/-- DATA_PACKET_ON_CONTROL_PORT (R59). -/
def execDataPacketOnControlPort (_p : Cp) (s : State) : Host.Outcome State Fault Refusal :=
  .next (onlyIf (fn0Up s) (fun s => bump s .ctlDrop_data_on_cp) s)

end Sys2Proof.Machine
end

