-- ==== Sys2Proof/Machine/Dispatch.lean ====
section
/-!
DEFINITION. One arm per command: each calls the meaning of its row.
-/
namespace Sys2Proof.Machine

def exec (i : Instr) (s : State) : Host.Outcome State Fault Refusal :=
  match i with
  | .powerOn => Sys2Proof.Machine.execPowerOn s
  | .holdNAssert => Sys2Proof.Machine.execHoldNAssert s
  | .holdNRelease => Sys2Proof.Machine.execHoldNRelease s
  | .modResetTakesEffect => Sys2Proof.Machine.execModResetTakesEffect s
  | .resetSequenceStage => Sys2Proof.Machine.execResetSequenceStage s
  | .thermalTrip sensor temp => Sys2Proof.Machine.execThermalTrip sensor temp s
  | .thermalTripCleared => Sys2Proof.Machine.execThermalTripCleared s
  | .inputFault volts => Sys2Proof.Machine.execInputFault volts s
  | .refclkLoss => Sys2Proof.Machine.execRefclkLoss s
  | .inputRecovered => Sys2Proof.Machine.execInputRecovered s
  | .controlFrameMalformed p d => Sys2Proof.Machine.execControlFrameMalformed p d s
  | .runtDatagramRx p => Sys2Proof.Machine.execRuntDatagramRx p s
  | .ipFragmentRx p => Sys2Proof.Machine.execIpFragmentRx p s
  | .oversizeFrameRx p => Sys2Proof.Machine.execOversizeFrameRx p s
  | .controlFrameOnDataPort p => Sys2Proof.Machine.execControlFrameOnDataPort p s
  | .dataPacketOnControlPort p => Sys2Proof.Machine.execDataPacketOnControlPort p s
  | .unknownOpcode p d => Sys2Proof.Machine.execUnknownOpcode p d s
  | .releasedCommandStart p => Sys2Proof.Machine.execReleasedCommandStart p s
  | .csrRead h offs => Sys2Proof.Machine.execCsrRead h offs s
  | .csrWrite h pairs => Sys2Proof.Machine.execCsrWrite h pairs s
  | .imageBegin h length mask => Sys2Proof.Machine.execImageBegin h length mask s
  | .imageData h offset words => Sys2Proof.Machine.execImageData h offset words s
  | .imageEnd h => Sys2Proof.Machine.execImageEnd h s
  | .imageAbort h => Sys2Proof.Machine.execImageAbort h s
  | .modReset h => Sys2Proof.Machine.execModReset h s
  | .rstFn h mask => Sys2Proof.Machine.execRstFn h mask s
  | .functionResetComplete fn => Sys2Proof.Machine.execFunctionResetComplete fn s
  | .powerState h target epoch => Sys2Proof.Machine.execPowerState h target epoch s
  | .powerTransitionDone => Sys2Proof.Machine.execPowerTransitionDone s
  | .nonce h => Sys2Proof.Machine.execNonce h s
  | .quote h nonce => Sys2Proof.Machine.execQuote h nonce s
  | .certRead h => Sys2Proof.Machine.execCertRead h s
  | .ownerEnroll h nonce modulus signed sig => Sys2Proof.Machine.execOwnerEnroll h nonce modulus signed sig s
  | .ownerClear h nonce signer slot modulus sig => Sys2Proof.Machine.execOwnerClear h nonce signer slot modulus sig s
  | .regionReg h r => Sys2Proof.Machine.execRegionReg h r s
  | .regionDereg h region job => Sys2Proof.Machine.execRegionDereg h region job s
  | .regionDeregComplete region => Sys2Proof.Machine.execRegionDeregComplete region s
  | .doorbell h records count => Sys2Proof.Machine.execDoorbell h records count s
  | .commit h step ctc ctcEn epoch => Sys2Proof.Machine.execCommit h step ctc ctcEn epoch s
  | .rollback h step ctc ctcEn epoch => Sys2Proof.Machine.execRollback h step ctc ctcEn epoch s
  | .tideTick => Sys2Proof.Machine.execTideTick s
  | .epochBoundary => Sys2Proof.Machine.execEpochBoundary s
  | .tideApplyArm epoch job scope => Sys2Proof.Machine.execTideApplyArm epoch job scope s
  | .tideApplyCancel epoch job scope => Sys2Proof.Machine.execTideApplyCancel epoch job scope s
  | .tideSet tide => Sys2Proof.Machine.execTideSet tide s
  | .tideSyncSrcWrite v => Sys2Proof.Machine.execTideSyncSrcWrite v s
  | .ptpMessageRx p domain m => Sys2Proof.Machine.execPtpMessageRx p domain m s
  | .tidePpsInEdge => Sys2Proof.Machine.execTidePpsInEdge s
  | .syncMeasurementTimeout => Sys2Proof.Machine.execSyncMeasurementTimeout s
  | .tidePpsOutStart => Sys2Proof.Machine.execTidePpsOutStart s
  | .tidePpsOutEnd => Sys2Proof.Machine.execTidePpsOutEnd s
  | .timestampExchangeSend p => Sys2Proof.Machine.execTimestampExchangeSend p s
  | .timestampFlitRx p flit arrival => Sys2Proof.Machine.execTimestampFlitRx p flit arrival s
  | .slotBoundary k => Sys2Proof.Machine.execSlotBoundary k s
  | .launchStart c sl => Sys2Proof.Machine.execLaunchStart c sl s
  | .taskEnd c sl => Sys2Proof.Machine.execTaskEnd c sl s
  | .instructionFetchWalkDone c sl => Sys2Proof.Machine.execInstructionFetchWalkDone c sl s
  | .nop c sl f => Sys2Proof.Machine.execNop c sl f s
  | .endInstr c sl f => Sys2Proof.Machine.execEndInstr c sl f s
  | .br c sl f => Sys2Proof.Machine.execBr c sl f s
  | .loop c sl f => Sys2Proof.Machine.execLoop c sl f s
  | .event c sl f => Sys2Proof.Machine.execEvent c sl f s
  | .smovi c sl f => Sys2Proof.Machine.execSmovi c sl f s
  | .sadd c sl f => Sys2Proof.Machine.execSadd c sl f s
  | .ssub c sl f => Sys2Proof.Machine.execSsub c sl f s
  | .smul c sl f => Sys2Proof.Machine.execSmul c sl f s
  | .sand c sl f => Sys2Proof.Machine.execSand c sl f s
  | .sor c sl f => Sys2Proof.Machine.execSor c sl f s
  | .sxor c sl f => Sys2Proof.Machine.execSxor c sl f s
  | .sshl c sl f => Sys2Proof.Machine.execSshl c sl f s
  | .sshr c sl f => Sys2Proof.Machine.execSshr c sl f s
  | .ssra c sl f => Sys2Proof.Machine.execSsra c sl f s
  | .scmp c sl f => Sys2Proof.Machine.execScmp c sl f s
  | .plog c sl f => Sys2Proof.Machine.execPlog c sl f s
  | .sld c sl f => Sys2Proof.Machine.execSld c sl f s
  | .sst c sl f => Sys2Proof.Machine.execSst c sl f s
  | .sinfo c sl f => Sys2Proof.Machine.execSinfo c sl f s
  | .tload c sl f => Sys2Proof.Machine.execTload c sl f s
  | .tstream c sl f => Sys2Proof.Machine.execTstream c sl f s
  | .tdrain c sl f => Sys2Proof.Machine.execTdrain c sl f s
  | .arrayCommandStart c a => Sys2Proof.Machine.execArrayCommandStart c a s
  | .tloadDone c a => Sys2Proof.Machine.execTloadDone c a s
  | .tstreamRowsRead c a => Sys2Proof.Machine.execTstreamRowsRead c a s
  | .tstreamPassDone c a => Sys2Proof.Machine.execTstreamPassDone c a s
  | .tdrainDone c a => Sys2Proof.Machine.execTdrainDone c a s
  | .vld c sl f => Sys2Proof.Machine.execVld c sl f s
  | .vst c sl f => Sys2Proof.Machine.execVst c sl f s
  | .vadd c sl f => Sys2Proof.Machine.execVadd c sl f s
  | .vsub c sl f => Sys2Proof.Machine.execVsub c sl f s
  | .vmul c sl f => Sys2Proof.Machine.execVmul c sl f s
  | .vfma c sl f => Sys2Proof.Machine.execVfma c sl f s
  | .vmax c sl f => Sys2Proof.Machine.execVmax c sl f s
  | .vmin c sl f => Sys2Proof.Machine.execVmin c sl f s
  | .vabs c sl f => Sys2Proof.Machine.execVabs c sl f s
  | .vneg c sl f => Sys2Proof.Machine.execVneg c sl f s
  | .vmov c sl f => Sys2Proof.Machine.execVmov c sl f s
  | .vcmp c sl f => Sys2Proof.Machine.execVcmp c sl f s
  | .vbcast c sl f => Sys2Proof.Machine.execVbcast c sl f s
  | .vshuf c sl f => Sys2Proof.Machine.execVshuf c sl f s
  | .vred c sl f => Sys2Proof.Machine.execVred c sl f s
  | .vdiv c sl f => Sys2Proof.Machine.execVdiv c sl f s
  | .vsqrt c sl f => Sys2Proof.Machine.execVsqrt c sl f s
  | .vexp c sl f => Sys2Proof.Machine.execVexp c sl f s
  | .vlog c sl f => Sys2Proof.Machine.execVlog c sl f s
  | .vrcp c sl f => Sys2Proof.Machine.execVrcp c sl f s
  | .vrsq c sl f => Sys2Proof.Machine.execVrsq c sl f s
  | .dmaq c sl f => Sys2Proof.Machine.execDmaq c sl f s
  | .dmaf c sl f => Sys2Proof.Machine.execDmaf c sl f s
  | .tcset c sl f => Sys2Proof.Machine.execTcset c sl f s
  | .tcadd c sl f => Sys2Proof.Machine.execTcadd c sl f s
  | .tcrd c sl f => Sys2Proof.Machine.execTcrd c sl f s
  | .waittc c sl f => Sys2Proof.Machine.execWaittc c sl f s
  | .waitdma c sl f => Sys2Proof.Machine.execWaitdma c sl f s
  | .waitarr c sl f => Sys2Proof.Machine.execWaitarr c sl f s
  | .waittide c sl f => Sys2Proof.Machine.execWaittide c sl f s
  | .waitslot c sl f => Sys2Proof.Machine.execWaitslot c sl f s
  | .waitConditionMet c sl => Sys2Proof.Machine.execWaitConditionMet c sl s
  | .waitLimitExpired c sl => Sys2Proof.Machine.execWaitLimitExpired c sl s
  | .vcvt c sl f => Sys2Proof.Machine.execVcvt c sl f s
  | .vseed c sl f => Sys2Proof.Machine.execVseed c sl f s
  | .vrng c sl f => Sys2Proof.Machine.execVrng c sl f s
  | .ntag c sl f => Sys2Proof.Machine.execNtag c sl f s
  | .nmaxr c sl f => Sys2Proof.Machine.execNmaxr c sl f s
  | .numEventRecord index => Sys2Proof.Machine.execNumEventRecord index s
  | .numOpclrEntry entry => Sys2Proof.Machine.execNumOpclrEntry entry s
  | .numOpclrAll => Sys2Proof.Machine.execNumOpclrAll s
  | .numSilWrite v => Sys2Proof.Machine.execNumSilWrite v s
  | .numOpseedWrite max step => Sys2Proof.Machine.execNumOpseedWrite max step s
  | .tcValueWrite c tc value => Sys2Proof.Machine.execTcValueWrite c tc value s
  | .dmaDescriptorStart c q => Sys2Proof.Machine.execDmaDescriptorStart c q s
  | .dmaCopy c id => Sys2Proof.Machine.execDmaCopy c id s
  | .dmaPut c id => Sys2Proof.Machine.execDmaPut c id s
  | .dmaGet c id => Sys2Proof.Machine.execDmaGet c id s
  | .dmaFlagWrite c id => Sys2Proof.Machine.execDmaFlagWrite c id s
  | .dmaDescriptorComplete c id => Sys2Proof.Machine.execDmaDescriptorComplete c id s
  | .fenceRelease c q => Sys2Proof.Machine.execFenceRelease c q s
  | .fenceTimeout c q => Sys2Proof.Machine.execFenceTimeout c q s
  | .kvRead c id => Sys2Proof.Machine.execKvRead c id s
  | .kvReadPageDone c id => Sys2Proof.Machine.execKvReadPageDone c id s
  | .kvPageOpen c id => Sys2Proof.Machine.execKvPageOpen c id s
  | .kvPageSeal c id => Sys2Proof.Machine.execKvPageSeal c id s
  | .kvPageHint c id => Sys2Proof.Machine.execKvPageHint c id s
  | .kvPageClose c id => Sys2Proof.Machine.execKvPageClose c id s
  | .kvPageOpPageDone c id => Sys2Proof.Machine.execKvPageOpPageDone c id s
  | .kvSpillStart pool => Sys2Proof.Machine.execKvSpillStart pool s
  | .kvSpillDone window page => Sys2Proof.Machine.execKvSpillDone window page s
  | .kvReturnStart pool => Sys2Proof.Machine.execKvReturnStart pool s
  | .kvReturnDone window page => Sys2Proof.Machine.execKvReturnDone window page s
  | .mmuInvalPages job va count => Sys2Proof.Machine.execMmuInvalPages job va count s
  | .mmuInvalJob job => Sys2Proof.Machine.execMmuInvalJob job s
  | .mmuInvalAll => Sys2Proof.Machine.execMmuInvalAll s
  | .mmuInvalWindows => Sys2Proof.Machine.execMmuInvalWindows s
  | .mmuInvalDone => Sys2Proof.Machine.execMmuInvalDone s
  | .mmuPoolEnable pool listBase job => Sys2Proof.Machine.execMmuPoolEnable pool listBase job s
  | .mmuPoolFaultClear pool => Sys2Proof.Machine.execMmuPoolFaultClear pool s
  | .hbmPatrolScrub unit => Sys2Proof.Machine.execHbmPatrolScrub unit s
  | .hbmTempThreshold stack temp => Sys2Proof.Machine.execHbmTempThreshold stack temp s
  | .pwrSample watts volts => Sys2Proof.Machine.execPwrSample watts volts s
  | .pwrCompare => Sys2Proof.Machine.execPwrCompare s
  | .thermalStepDown d temp => Sys2Proof.Machine.execThermalStepDown d temp s
  | .currentStepDown d => Sys2Proof.Machine.execCurrentStepDown d s
  | .colArm slot count => Sys2Proof.Machine.execColArm slot count s
  | .armedFireIssue slot => Sys2Proof.Machine.execArmedFireIssue slot s
  | .fireSend slot => Sys2Proof.Machine.execFireSend slot s
  | .fireCounterAdd slot => Sys2Proof.Machine.execFireCounterAdd slot s
  | .fireFlagWrite slot => Sys2Proof.Machine.execFireFlagWrite slot s
  | .fireDone slot => Sys2Proof.Machine.execFireDone slot s
  | .colWatchdogExpiry slot => Sys2Proof.Machine.execColWatchdogExpiry slot s
  | .colAbortOne job coll => Sys2Proof.Machine.execColAbortOne job coll s
  | .colAbortAll job => Sys2Proof.Machine.execColAbortAll job s
  | .collectiveSendRx p h ch data => Sys2Proof.Machine.execCollectiveSendRx p h ch data s
  | .collectiveCounterAddRx p h ch => Sys2Proof.Machine.execCollectiveCounterAddRx p h ch s
  | .molindPutRx p h m data => Sys2Proof.Machine.execMolindPutRx p h m data s
  | .molindGetRequestRx p h len => Sys2Proof.Machine.execMolindGetRequestRx p h len s
  | .molindGetResponseRx p h last data => Sys2Proof.Machine.execMolindGetResponseRx p h last data s
  | .molindFlagWriteRx p h value => Sys2Proof.Machine.execMolindFlagWriteRx p h value s
  | .boardWriteRx p h data => Sys2Proof.Machine.execBoardWriteRx p h data s
  | .boardReadRx p h len => Sys2Proof.Machine.execBoardReadRx p h len s
  | .boardReadResponseRx p h data => Sys2Proof.Machine.execBoardReadResponseRx p h data s
  | .molindAckRx p h => Sys2Proof.Machine.execMolindAckRx p h s
  | .molindNakRemoteRx p h code => Sys2Proof.Machine.execMolindNakRemoteRx p h code s
  | .molindNakSequenceRx p h => Sys2Proof.Machine.execMolindNakSequenceRx p h s
  | .molindSelectiveAckRx p h bitmap => Sys2Proof.Machine.execMolindSelectiveAckRx p h bitmap s
  | .molindPacketForward p op h data => Sys2Proof.Machine.execMolindPacketForward p op h data s
  | .transportAckTimeout ctx => Sys2Proof.Machine.execTransportAckTimeout ctx s
  | .roceRdmaWriteRx p h imm ends data => Sys2Proof.Machine.execRoceRdmaWriteRx p h imm ends data s
  | .roceRdmaReadRx p h => Sys2Proof.Machine.execRoceRdmaReadRx p h s
  | .roceUnsupportedRx p h what => Sys2Proof.Machine.execRoceUnsupportedRx p h what s
  | .roceReadResponseRx p h last data => Sys2Proof.Machine.execRoceReadResponseRx p h last data s
  | .roceAckRx p h => Sys2Proof.Machine.execRoceAckRx p h s
  | .roceNakRx p h what => Sys2Proof.Machine.execRoceNakRx p h what s
  | .roceCnpRx p h => Sys2Proof.Machine.execRoceCnpRx p h s
  | .roceRateIncrease ctx => Sys2Proof.Machine.execRoceRateIncrease ctx s
  | .xptCtxInvalidate ctx => Sys2Proof.Machine.execXptCtxInvalidate ctx s
  | .xptCtxValidate ctx => Sys2Proof.Machine.execXptCtxValidate ctx s
  | .linkDataFlitRx p flit => Sys2Proof.Machine.execLinkDataFlitRx p flit s
  | .linkIdleFlitRx p flit => Sys2Proof.Machine.execLinkIdleFlitRx p flit s
  | .linkRetryRequestRx p head rest => Sys2Proof.Machine.execLinkRetryRequestRx p head rest s
  | .linkCapabilityRx p flit => Sys2Proof.Machine.execLinkCapabilityRx p flit s
  | .linkCapabilityAckRx f => Sys2Proof.Machine.execLinkCapabilityAckRx f s
  | .capabilityResend p => Sys2Proof.Machine.execCapabilityResend p s
  | .linkLaneDropRx p flit => Sys2Proof.Machine.execLinkLaneDropRx p flit s
  | .laneFailureDetected p r => Sys2Proof.Machine.execLaneFailureDetected p r s
  | .linkRetryTimeout p => Sys2Proof.Machine.execLinkRetryTimeout p s
  | .linkTrained p lanes x => Sys2Proof.Machine.execLinkTrained p lanes x s
  | .linkTrainRetry p => Sys2Proof.Machine.execLinkTrainRetry p s
  | .linkLpiEnter p => Sys2Proof.Machine.execLinkLpiEnter p s
  | .linkLpiWake p => Sys2Proof.Machine.execLinkLpiWake p s
  | .ethNegotiationDone p peerModes => Sys2Proof.Machine.execEthNegotiationDone p peerModes s
  | .linkRetrain p => Sys2Proof.Machine.execLinkRetrain p s
  | .linkPrbs p => Sys2Proof.Machine.execLinkPrbs p s
  | .ethArpNdRx e v6 m => Sys2Proof.Machine.execEthArpNdRx e v6 m s
  | .ctlPlaceWrite v => Sys2Proof.Machine.execCtlPlaceWrite v s
  | .cpEnableWrite p v => Sys2Proof.Machine.execCpEnableWrite p v s
  | .grdCommittedWrite j v => Sys2Proof.Machine.execGrdCommittedWrite j v s
  | .mediaTailWrite e tail => Sys2Proof.Machine.execMediaTailWrite e tail s
  | .mediaDecodeTask e => Sys2Proof.Machine.execMediaDecodeTask e s
  | .mediaEncodeTask e => Sys2Proof.Machine.execMediaEncodeTask e s
  | .mediaTaskComplete e => Sys2Proof.Machine.execMediaTaskComplete e s
  | .evtTailWrite tail => Sys2Proof.Machine.execEvtTailWrite tail s
  | .evtAlertClear => Sys2Proof.Machine.execEvtAlertClear s
  | .smbStatusRead => Sys2Proof.Machine.execSmbStatusRead s
  | .smbVoltageRead => Sys2Proof.Machine.execSmbVoltageRead s
  | .smbPowerRead => Sys2Proof.Machine.execSmbPowerRead s
  | .smbPowerIntervalRead => Sys2Proof.Machine.execSmbPowerIntervalRead s
  | .smbEnergyRead => Sys2Proof.Machine.execSmbEnergyRead s
  | .smbTemperatureRead => Sys2Proof.Machine.execSmbTemperatureRead s
  | .smbIdentityRead => Sys2Proof.Machine.execSmbIdentityRead s
  | .smbUnknownRead cmd len => Sys2Proof.Machine.execSmbUnknownRead cmd len s
  | .smbWriteRefused cmd => Sys2Proof.Machine.execSmbWriteRefused cmd s
  | .powerAppliedAtJ3 volts addr1 addr0 => Sys2Proof.Machine.execPowerAppliedAtJ3 volts addr1 addr0 s
  | .railsInRegulation => Sys2Proof.Machine.execRailsInRegulation s
  | .arithmeticClockTick c => Sys2Proof.Machine.execArithmeticClockTick c s

end Sys2Proof.Machine
end

