-- ==== Sys2Proof/Safety.lean ====
section
/-!
DEFINITION. What counts as a safe state and a safe step of the module, in the terms the statements use.
-/
namespace Sys2Proof.Machine

/-- Memory is in its canonical form: addresses strictly rising, and no entry equal to what an unlisted address reads
as. -/
def memWf (s : State) : Bool := mwf (0 : Byte) s.mem

/-- The register map lists its keys in rising order, and no register field holds more than its width. -/
def regsFit (r : SMap Nat) : Prop := msorted r = true ∧ ∀ (f : Fld) (i : Nat), mget 0 r (rkey f i) < 2 ^ f.width

/-- The identity that the fuses hold is the same: the variant, the serial number, the least foundation version, the revoked
key slots and the MAC addresses. -/
def sameFused (u v : Fuses) : Prop :=
  v.variant = u.variant ∧ v.serial = u.serial ∧ v.minSvn = u.minSvn ∧ v.slotRevoked = u.slotRevoked ∧ v.mac0 = u.mac0 ∧
  v.mac1 = u.mac1 ∧ v.macs = u.macs

/-- What every command keeps: the queue behind it, the fused identity, the canonical form of memory, and registers within
their widths. -/
def Sound (u : Fuses) (q : List Instr) (s : State) : Prop :=
  s.pending = q ∧ sameFused u s.fuses ∧ mwf (0 : Byte) s.mem = true ∧ regsFit s.regs

/-- The command answers a next state, of which `P` holds. -/
def Runs (i : Instr) (s : State) (P : State → Prop) : Prop := ∃ t, exec i s = .next t ∧ P t

/-- Every register field outside a list reads as it did, in every instance. -/
def KeptRegs (s t : State) (l : List Fld) : Prop := ∀ (f : Fld) (i : Nat), f ∉ l → get t f i = get s f i

/-- Every byte of memory reads as it did. -/
def KeptMem (s t : State) : Prop := ∀ a, rdByte t a = rdByte s a

/-- Nothing but register fields of a list changed. -/
def OnlyRegs (s t : State) (l : List Fld) : Prop := { t with regs := s.regs } = s ∧ KeptRegs s t l

/-- Nothing but core `c` changed. -/
def OnlyCore (s t : State) (c : Nat) : Prop := { t with cores := s.cores } = s ∧ ∀ d, d ≠ c → coreOf t d = coreOf s d

/-- Nothing but slot `sl` of core `c` changed. -/
def OnlySlot (s t : State) (c : Nat) (sl : Slot) : Prop :=
  OnlyCore s t c ∧ (coreOf t c).setSlot sl (slotOf s c sl) = coreOf s c

/-- The running task of a slot is the same but for the index of its next instruction, which is `off` further on. -/
def Moved (s t : State) (c : Nat) (sl : Slot) (off : Int) : Prop :=
  taskOf t c sl = (taskOf s c sl).map (fun x => { x with index := ((x.index + off) % (idxMod : Int)).toNat }) ∧
  (slotOf t c sl).issued = true

/-- No line of core `c`'s instruction buffer holds a parity error. -/
def IbufGood (s : State) (c : Core) : Bool := s.ecc.all (fun m => match m.unit with
  | .ibuf d _ _ => d != c
  | _ => true)

/-- The word is the next instruction of a slot that may issue, and the instruction buffer holds it without error. -/
def Issues (s : State) (c : Core) (sl : Slot) (w : Nat) : Prop :=
  mayIssue s c sl = true ∧ lineOf s c sl = some (BitVec.ofNat 128 w) ∧ IbufGood s c = true

/-- A register-form instruction issues with clean fields and its predicate true. -/
def IssuesReg (s : State) (c : Core) (sl : Slot) (op : Nat) (f : RegForm) : Prop :=
  Issues s c sl (regWord op f) ∧ regOk f false = true ∧ enabled s c sl f.pred f.pneg = true

/-- No vector register of core `c` holds a latent error. -/
def VregsGood (s : State) (c : Core) : Bool := s.ecc.all (fun m => match m.unit with
  | .vreg d _ => d != c
  | _ => true)

/-- What a vector instruction with the sources and destinations given leaves: the destination's elements of width `w` are those
of `new`, every other vector register of the window, the scalar and predicate registers, and memory are as they were. -/
def VectorOut (s t : State) (c : Core) (sl : Slot) (rd : BitVec 6) (w n : Nat) (new : Nat → Nat) : Prop :=
  (∀ i < n, elemAt (vregOf t c sl rd) w i = new i) ∧
  (∀ r, vOk s c sl r = true → r ≠ rd → vregOf t c sl r = vregOf s c sl r) ∧
  (∀ r, sregOf t c sl r = sregOf s c sl r) ∧ (∀ r, pregOf t c sl r = pregOf s c sl r) ∧ Moved s t c sl 1 ∧
  KeptRegs s t [.vecErr_vreg_corrected, .vecFma_lanes, .vecExp_elements] ∧ KeptMem s t ∧
  (∀ d, d ≠ c.val → coreOf t d = coreOf s d)

/-- A register field counts `n` more and saturates at its width. -/
def Counted (s t : State) (f : Fld) (i n : Nat) : Prop := get t f i = satAdd f.width (get s f i) n

/-- An entry of the event log follows all that are unread: none is logged yet, or the last of them is not to stand after it. -/
def LoggedLast (s : State) (w : List Word) : Prop :=
  get s .evtStat_unread = 0 ∨ evtBefore w (mget [0, 0, 0, 0] s.evt ((get s .evtHead_head + 1023) % 1024)) = false

/-- The fields that an event writes. -/
def eventFlds : List Fld :=
  [.evtStat_unread, .evtStat_full, .evtStat_alert, .evtStat_lost, .evtHead_head, .evtHead_total]

/-- What every cause of a module reset leaves: FN1 to FN8 in reset, no function ready, memory zero, no structure, nothing queued or
in flight, and the sequence of R464 at its start with the cause shown. -/
def WasReset (s t : State) (cause : Nat) : Prop :=
  get t .rstStat_in_reset 0 = 0x1FE ∧ get t .rstStat_ready 0 = 0 ∧ get t .rstStat_cause 0 = cause ∧
  (∀ a, rdByte t a = 0) ∧ t.shp = ShapeSt.init ∧ t.cores = [] ∧ t.mmu = MmuSt.init ∧ t.col = ColSt.init ∧ t.lnk = [] ∧
  t.med = [] ∧ t.num = NumSt.init ∧ t.ctl.cps = [] ∧ t.ctl.load = none ∧ t.pwr.stage = 5 ∧ t.fuses = s.fuses ∧
  t.time.tide = s.time.tide

/-! ### Control commands -/

/-- A control command at the front of its port: it has joined the port's history and holds the port. -/
def atFront (s : State) (h : CtlHdr) (i : Instr) : State :=
  let s1 := setCp s h.port { cpOf s h.port with hist := (cpOf s h.port).hist ++ [⟨h.seq, none, []⟩] }
  setCp s1 h.port { cpOf s1 h.port with busy := some i, held := false }

/-- A well-formed control command that the port does not keep yet reaches an enabled port. -/
def NewCommand (s : State) (h : CtlHdr) (i : Instr) : Prop :=
  hdrOf i = some h ∧ cpOn s h.port = true ∧ malformed i = false ∧
  (cpOf s h.port).hist.all (fun x => x.seq != h.seq) = true

/-- A new command that names no release tide reaches a port that nothing holds, while nothing is queued, in a state that allows
it; its job is not in eclipse. -/
def StartsNow (s : State) (h : CtlHdr) (i : Instr) : Prop :=
  NewCommand s h i ∧ (cpOf s h.port).busy = none ∧ (∀ p, (cpOf s p).queue = []) ∧ h.release = 0 ∧ mayStart s h i = true ∧
  notAllowed s i = false

/-- What a nanosecond brings before the checks of an image end. -/
def ticked (s : State) : State :=
  tickWork s.time.tide (tickClocks s)

/-- One response leaves on the command's port and nothing else does, and the port is free. -/
def Answers (s t : State) (h : CtlHdr) (op status code : Nat) (words : List Word) : Prop :=
  t.out = s.out ++ [.resp ⟨h.port, h.src, h.seq, op, h.job, status, code, words⟩] ∧ (cpOf t h.port).busy = none

/-! ### Arrivals -/

/-- A Molind packet for this module reaches a port in data service, of a version that it supports, while FN5 works. Its own rules
apply then, where it answers one of this module's. -/
def Lands (s : State) (p : Port) (op : Nat) (h : MolHdr) : Prop :=
  isModulePort p.val = true ∧ inService s p.val = true ∧ dataPort s p.val = true ∧ (boardOp op = true → isTray p.val = true) ∧
  h.dst.toNat = ownModule s ∧ versionOk s h.version.toNat = true ∧ fnReady s 5 = true

/-- A Molind packet lands outside Doze, which holds them all back (R449). -/
def LandsAwake (s : State) (p : Port) (op : Nat) (h : MolHdr) : Prop := Lands s p op h ∧ dozing s = false

/-- A Molind packet that asks for something lands outside Doze, nothing holds its job's or its flow's packets, and it is the next of
its flow. Its own rules apply then. -/
def Asks (s : State) (p : Port) (op : Nat) (h : MolHdr) : Prop :=
  Lands s p op h ∧ dozing s = false ∧ (boardOp op = false → waitsForJob s h.job.toNat = false) ∧ waitsForFlow s p.val h = false ∧
  inTurn s p.val h = true

/-- A RoCEv2 packet with a good check value and no congestion mark reaches context `x` on a front port while FN5 works. -/
def RoceLands (s : State) (p : Port) (h : RoceHdr) (x : Nat) : Prop :=
  isFront p.val = true ∧ inService s p.val = true ∧ fnReady s 5 = true ∧ h.icrcOk = true ∧ qpnCtx s h.qpn.toNat = some x ∧
  h.ce = false

/-- The packet carries the number that its context expects, outside Doze, and its job's arrivals do not wait. -/
def RoceExpected (s : State) (h : RoceHdr) (x : Nat) : Prop :=
  dozing s = false ∧ waitsForJob s (get s .xptCtx0_job x) = false ∧
  (h.psn.toNat + 2 ^ 24 - get s .xptCtx0_epsn x) % 2 ^ 24 = 0

/-- An outcome goes on, to a state that keeps it. -/
def Goes (u : Fuses) (q : List Instr) (o : Host.Outcome State Fault Refusal) : Prop :=
  match o with
  | .next t => Sound u q t
  | _ => False

end Sys2Proof.Machine
end

