-- ==== Sys2Proof/Certificates/Slice0/Obligations.lean ====
section
/-!
DEFINITION. The statements for the provers: what the spec's rules say of the commands, of the state they leave, and of every
step.
-/
open Sys2Proof Sys2Proof.Machine

/-! ### The scalar instructions -/

/-- R143: each job slot of a core has scalar registers of 64 bits, of which S0 reads 0 and ignores writes, and predicate registers of
512 bits, of which P0 reads all true and ignores writes; its vector registers of 512 × 32 bits are a window into one set of the core.
R143 and the opcode table (05): S[rd] of an arithmetic instruction takes the 64-bit result of S[ra] and S[rb], or of S[ra]
and imm where sub[0] is 1; S0 reads as zero and discards the write. Nothing but the slot changes, and in it only S[rd] and the
index of the next instruction. -/
def Obligations.ScalarArithmeticResults : Prop :=
  (∀ (s : State) (c : Core) (sl : Slot),
    (sregOf s c sl 0 = 0 ∧ (∀ r, sregOf s c sl r < 2 ^ 64) ∧ pregOf s c sl 0 = BitVec.allOnes 512 ∧
      (∀ r, vregOf s c sl r < 2 ^ (512 * 32)) ∧ (∀ r : BitVec 6, sOk r = true ↔ r.toNat < 32) ∧ (∀ r : BitVec 6, pOk r = true ↔ r.toNat < 8)) ∧
    (∀ (d : Nat) (sk : Slot) (r q v : Nat), sregOf (setSreg s c sl r v) d sk q =
      if d = c ∧ sk = sl ∧ q = r ∧ r ≠ 0 then v % 2 ^ 64 else sregOf s d sk q) ∧
    (∀ (d : Nat) (sk : Slot) (r q : Nat) (v : BitVec 512), pregOf (setPreg s c sl r v) d sk q =
      if d = c ∧ sk = sl ∧ q = r ∧ r ≠ 0 then v else pregOf s d sk q) ∧
    (∀ (d : Nat) (sk : Slot) (r q : BitVec 6) (v : Nat), vregOf (setVreg s c sl r v) d sk q =
      if d = c ∧ vPhys s c sk q = vPhys s c sl r then v % 2 ^ (512 * 32) else vregOf s d sk q)) ∧
  ∀ x ∈ ([(Instr.sadd, 0x21, fun a b => a + b), (Instr.ssub, 0x22, fun a b => a - b), (Instr.smul, 0x23, fun a b => a * b),
      (Instr.sand, 0x24, fun a b => a &&& b), (Instr.sor, 0x25, fun a b => a ||| b), (Instr.sxor, 0x26, fun a b => a ^^^ b),
      (Instr.sshl, 0x27, fun a b => a <<< (b.toNat % 64)), (Instr.sshr, 0x28, fun a b => a >>> (b.toNat % 64)),
      (Instr.ssra, 0x29, fun a b => a.sshiftRight (b.toNat % 64))] :
      List ((Core → Slot → RegForm → Instr) × Nat × (BitVec 64 → BitVec 64 → BitVec 64))),
  ∀ (c : Core) (sl : Slot) (f : RegForm) (s : State), IssuesReg s c sl x.2.1 f →
    f.rd.toNat < 32 → f.ra.toNat < 32 → (f.sub.getLsbD 0 = true ∨ f.rb.toNat < 32) →
    Runs (x.1 c sl f) s (fun t =>
      (∀ r, sregOf t c sl r = if r = f.rd.toNat ∧ r ≠ 0 then
          (x.2.2 (BitVec.ofNat 64 (sregOf s c sl f.ra.toNat))
            (if f.sub.getLsbD 0 then f.imm else BitVec.ofNat 64 (sregOf s c sl f.rb.toNat))).toNat
        else sregOf s c sl r) ∧
      (∀ r, pregOf t c sl r = pregOf s c sl r) ∧ Moved s t c sl 1 ∧ OnlySlot s t c sl ∧ KeptRegs s t [] ∧ KeptMem s t)

/-- The opcode table (05): SMOVI writes imm, SINFO the item that sub names (core, job, group, rank, count, slot or
tide), TCRD the counter's value; S0 discards it. SCMP gives all 512 bits of P[rd] the result of its condition, PLOG
combines P[ra] and P[rb] lane by lane; P0 reads as ones and discards the write (R143). -/
def Obligations.ScalarMovesReadsAndPredicates : Prop :=
  (∀ (c : Core) (sl : Slot) (f : RegForm) (s : State), f.rd.toNat < 32 →
      (IssuesReg s c sl 0x20 f → Runs (.smovi c sl f) s (fun t =>
        (∀ r, sregOf t c sl r = if r = f.rd.toNat ∧ r ≠ 0 then f.imm.toNat else sregOf s c sl r) ∧
        Moved s t c sl 1 ∧ OnlySlot s t c sl ∧ KeptRegs s t [] ∧ KeptMem s t)) ∧
      (IssuesReg s c sl 0x2E f → f.sub.toNat < 7 → ∀ k, taskOf s c sl = some k → Runs (.sinfo c sl f) s (fun t =>
        (∀ r, sregOf t c sl r = if r = f.rd.toNat ∧ r ≠ 0 then
            ([c.val, k.launch.job, k.launch.group, k.rank, k.count, slotIdx sl, s.time.tide].getD f.sub.toNat 0) % 2 ^ 64
          else sregOf s c sl r) ∧
        Moved s t c sl 1 ∧ OnlySlot s t c sl ∧ KeptRegs s t [] ∧ KeptMem s t)) ∧
      (IssuesReg s c sl 0xA2 f → tcOwner s c (f.imm.toNat % 256) = taskJob s c sl → Runs (.tcrd c sl f) s (fun t =>
        (∀ r, sregOf t c sl r = if r = f.rd.toNat ∧ r ≠ 0 then tcVal s c (f.imm.toNat % 256) % 2 ^ 64 else sregOf s c sl r) ∧
        Moved s t c sl 1 ∧ OnlySlot s t c sl ∧ KeptRegs s t [] ∧ KeptMem s t))) ∧
  (∀ (c : Core) (sl : Slot) (f : RegForm) (s : State), f.rd.toNat < 8 →
      (IssuesReg s c sl 0x2A f → f.ra.toNat < 32 → (f.sub.getLsbD 0 = true ∨ f.rb.toNat < 32) → f.sub.toNat / 2 < 6 →
        Runs (.scmp c sl f) s (fun t =>
          let a := BitVec.ofNat 64 (sregOf s c sl f.ra.toNat)
          let b := if f.sub.getLsbD 0 then f.imm else BitVec.ofNat 64 (sregOf s c sl f.rb.toNat)
          let hit := [a == b, a != b, a.slt b, a.sle b, a.ult b, a.ule b].getD (f.sub.toNat / 2) false
          (∀ r, pregOf t c sl r = if r = f.rd.toNat ∧ r ≠ 0 then (if hit then BitVec.allOnes 512 else 0) else pregOf s c sl r) ∧
          (∀ r, sregOf t c sl r = sregOf s c sl r) ∧ Moved s t c sl 1 ∧ OnlySlot s t c sl ∧ KeptRegs s t [] ∧ KeptMem s t)) ∧
      (IssuesReg s c sl 0x2B f → f.ra.toNat < 8 → f.rb.toNat < 8 → f.sub.toNat < 4 →
        Runs (.plog c sl f) s (fun t =>
          let a := pregOf s c sl f.ra.toNat
          let b := pregOf s c sl f.rb.toNat
          (∀ r, pregOf t c sl r = if r = f.rd.toNat ∧ r ≠ 0 then [a &&& b, a ||| b, a ^^^ b, a &&& ~~~b].getD f.sub.toNat 0
            else pregOf s c sl r) ∧
          (∀ r, sregOf t c sl r = sregOf s c sl r) ∧ Moved s t c sl 1 ∧ OnlySlot s t c sl ∧ KeptRegs s t [] ∧ KeptMem s t)))

/-- The opcode table (05): NOP only goes on; BR moves the program counter by 16 × imm, read as signed; LOOP takes 1 from S[ra]
and branches unless the result is 0. That the distance counts from the branch itself is the model's choice (log entry 31). -/
def Obligations.ControlFlow : Prop :=
  ∀ (c : Core) (sl : Slot) (f : RegForm) (s : State),
    (IssuesReg s c sl 0x00 f → Runs (.nop c sl f) s (fun t =>
      (∀ r, sregOf t c sl r = sregOf s c sl r) ∧ Moved s t c sl 1 ∧ OnlySlot s t c sl ∧ KeptRegs s t [] ∧ KeptMem s t)) ∧
    (IssuesReg s c sl 0x02 f → Runs (.br c sl f) s (fun t =>
      (∀ r, sregOf t c sl r = sregOf s c sl r) ∧ Moved s t c sl f.imm.toInt ∧ OnlySlot s t c sl ∧ KeptRegs s t [] ∧
      KeptMem s t)) ∧
    (IssuesReg s c sl 0x03 f → f.ra.toNat < 32 → Runs (.loop c sl f) s (fun t =>
      let v := (BitVec.ofNat 64 (sregOf s c sl f.ra.toNat) - 1).toNat
      (∀ r, sregOf t c sl r = if r = f.ra.toNat ∧ r ≠ 0 then v else sregOf s c sl r) ∧
      Moved s t c sl (if v = 0 then 1 else f.imm.toInt) ∧ OnlySlot s t c sl ∧ KeptRegs s t [] ∧ KeptMem s t))

/-- R147: each of the register-form instructions named, which lie outside the vector class, is skipped as a whole where bit 0 of its
predicate is false. R164: TCSET, TCADD, TCRD and WAITTC of a counter of another job abort the task with code 0x01. R148: in each
of the instructions named reserved bits set, fmt 0xF or rnd 3 abort the task with code 0x0B; that they do so whatever the predicate
is the model's choice (log entry 147). -/
def Obligations.InstructionsThatDoNotRun : Prop :=
  (∀ x ∈ ([(Instr.nop, 0x00), (Instr.endInstr, 0x01), (Instr.br, 0x02), (Instr.loop, 0x03), (Instr.event, 0x04),
        (Instr.smovi, 0x20), (Instr.sadd, 0x21), (Instr.ssub, 0x22), (Instr.smul, 0x23), (Instr.sand, 0x24), (Instr.sor, 0x25),
        (Instr.sxor, 0x26), (Instr.sshl, 0x27), (Instr.sshr, 0x28), (Instr.ssra, 0x29), (Instr.sld, 0x2C), (Instr.sst, 0x2D),
        (Instr.dmaq, 0x80), (Instr.dmaf, 0x81), (Instr.tcset, 0xA0), (Instr.tcadd, 0xA1), (Instr.tcrd, 0xA2), (Instr.waittc, 0xC0),
        (Instr.waitdma, 0xC1), (Instr.waitarr, 0xC2), (Instr.waittide, 0xC3), (Instr.waitslot, 0xC4), (Instr.vseed, 0xE1),
        (Instr.ntag, 0xE3), (Instr.nmaxr, 0xE4)] : List ((Core → Slot → RegForm → Instr) × Nat)),
    ∀ (c : Core) (sl : Slot) (f : RegForm) (s : State), Issues s c sl (regWord x.2 f) → regOk f false = true →
      f.rd.toNat < 32 → f.ra.toNat < 32 → f.rb.toNat < 32 → f.rc.toNat < 32 → enabled s c sl f.pred f.pneg = false →
      Runs (x.1 c sl f) s (fun t => (∀ r, sregOf t c sl r = sregOf s c sl r) ∧ (∀ r, pregOf t c sl r = pregOf s c sl r) ∧
        Moved s t c sl 1 ∧ OnlySlot s t c sl ∧ KeptRegs s t [] ∧ KeptMem s t)) ∧
  (∀ x ∈ ([(Instr.tcset, 0xA0), (Instr.tcadd, 0xA1), (Instr.tcrd, 0xA2), (Instr.waittc, 0xC0)] :
        List ((Core → Slot → RegForm → Instr) × Nat)),
    ∀ (c : Core) (sl : Slot) (f : RegForm) (s : State), IssuesReg s c sl x.2 f → f.ra.toNat < 32 → f.rd.toNat < 32 →
      tcOwner s c (f.imm.toNat % 256) ≠ taskJob s c sl → Runs (x.1 c sl f) s (fun t => t = abortTask s c sl 0x01)) ∧
  (∀ x ∈ ([(Instr.nop, 0x00), (Instr.endInstr, 0x01), (Instr.br, 0x02), (Instr.loop, 0x03), (Instr.event, 0x04),
        (Instr.smovi, 0x20), (Instr.sadd, 0x21), (Instr.ssub, 0x22), (Instr.smul, 0x23), (Instr.sand, 0x24), (Instr.sor, 0x25),
        (Instr.sxor, 0x26), (Instr.sshl, 0x27), (Instr.sshr, 0x28), (Instr.ssra, 0x29), (Instr.scmp, 0x2A), (Instr.plog, 0x2B),
        (Instr.sld, 0x2C), (Instr.sst, 0x2D), (Instr.sinfo, 0x2E), (Instr.tcset, 0xA0), (Instr.tcadd, 0xA1), (Instr.tcrd, 0xA2),
        (Instr.waittc, 0xC0), (Instr.waitdma, 0xC1), (Instr.waitarr, 0xC2), (Instr.waittide, 0xC3), (Instr.waitslot, 0xC4),
        (Instr.dmaq, 0x80), (Instr.dmaf, 0x81), (Instr.vseed, 0xE1), (Instr.vrng, 0xE2), (Instr.ntag, 0xE3), (Instr.nmaxr, 0xE4),
        (Instr.vld, 0x60), (Instr.vst, 0x61), (Instr.vadd, 0x62), (Instr.vsub, 0x63), (Instr.vmul, 0x64), (Instr.vfma, 0x65),
        (Instr.vmax, 0x66), (Instr.vmin, 0x67), (Instr.vabs, 0x68), (Instr.vneg, 0x69), (Instr.vmov, 0x6A), (Instr.vcmp, 0x6B),
        (Instr.vbcast, 0x6C), (Instr.vshuf, 0x6D), (Instr.vred, 0x6E), (Instr.vdiv, 0x6F), (Instr.vsqrt, 0x70), (Instr.vexp, 0x71),
        (Instr.vlog, 0x72), (Instr.vrcp, 0x73), (Instr.vrsq, 0x74), (Instr.vcvt, 0xE0)] :
        List ((Core → Slot → RegForm → Instr) × Nat)),
    ∀ (c : Core) (sl : Slot) (f : RegForm) (s : State), Issues s c sl (regWord x.2 f) →
      (f.rsv0 ≠ 0 ∨ f.rsv1 ≠ 0 ∨ f.fmt = 15 ∨ f.rnd = 3) → Runs (x.1 c sl f) s (fun t => t = abortTask s c sl 0x0B))

/-! ### Launches, waits and the end of a task -/

/-- R138: what a task starts with: S1 and S2 hold the launch's arguments, S3 the rank among the cores that the launch
reaches, S4 to S31 zero, P1 to P7 false, the vector registers of the job's window +0, their codes good; the instruction buffer
(R140) and the head of the queue are gone, and no register and no byte of memory changes. R68 and R137: a launch whose release failed
starts and aborts with code 0x0A. R139: END, or TASK_END for an END that has waited, ends the task once everything that it issued has completed:
done_tc rises by 1 where done_en is 1, held at 2^32 - 1. With work outstanding END holds the task. -/
def Obligations.TasksStartAndEnd : Prop :=
  (∀ (c : Core) (sl : Slot) (s : State) (l : Launch) (rest : List Launch), (slotOf s c sl).queue = l :: rest →
      launchDue s c sl l = true → l.failed = false →
      Runs (.launchStart c sl) s (fun t =>
        taskOf t c sl = some ⟨l, rankIn l.cores c, rankIn l.cores 192, 0, none, none⟩ ∧ (slotOf t c sl).queue = rest ∧
        sregOf t c sl 1 = l.arg0.toNat ∧ sregOf t c sl 2 = l.arg1.toNat ∧ sregOf t c sl 3 = rankIn l.cores c ∧
        (∀ r, 4 ≤ r → sregOf t c sl r = 0) ∧ (∀ r, 1 ≤ r → pregOf t c sl r = 0) ∧
        (∀ r : BitVec 6, vOk s c sl r = true → vregOf t c sl r = 0) ∧ (coreOf t c).ibuf = [] ∧
        (∀ m ∈ t.ecc, m ∈ s.ecc ∧ ∀ r : BitVec 6, vOk s c sl r = true → m.unit ≠ .vreg c (vPhys s c sl r)) ∧
        { t with cores := s.cores, ecc := s.ecc } = s ∧ (∀ d, d ≠ c.val → coreOf t d = coreOf s d) ∧ KeptRegs s t [] ∧
        KeptMem s t)) ∧
  (∀ (c : Core) (sl : Slot) (s : State) (l : Launch) (rest : List Launch), (slotOf s c sl).queue = l :: rest →
      launchDue s c sl l = true → l.failed = true →
      Runs (.launchStart c sl) s (fun t => t = abortTask (startTask s c sl l rest) c sl 0x0A)) ∧
  (∀ (c : Core) (sl : Slot) (f : RegForm) (s : State) (k : Task), taskOf s c sl = some k →
      let i := 256 * c.val + k.launch.doneTc
      let done (t : State) : Prop := taskOf t c sl = none ∧
        get t .tc_value i = (if k.launch.doneEn then min (get s .tc_value i + 1) (2 ^ 32 - 1) else get s .tc_value i) ∧
        (∀ j, j ≠ i → get t .tc_value j = get s .tc_value j) ∧ KeptRegs s t [.tc_value, .tc_overflow] ∧ KeptMem s t ∧
        { t with cores := s.cores, regs := s.regs } = s ∧ (∀ d, d ≠ c.val → coreOf t d = coreOf s d)
      get s .tc_value i < 2 ^ 32 →
      (IssuesReg s c sl 0x01 f → taskIdle s c sl = true → Runs (.endInstr c sl f) s done) ∧
      (IssuesReg s c sl 0x01 f → taskIdle s c sl = false → Runs (.endInstr c sl f) s (fun t =>
        taskOf t c sl = some { k with wait := some ⟨.done, 9, s.time.ticks⟩ } ∧ OnlySlot s t c sl)) ∧
      (∀ w, k.wait = some w → w.kind = .done → coreUp s c = true → taskIdle s c sl = true → slotTurn s c sl = true →
        Runs (.taskEnd c sl) s done))

/-- R166: a wait instruction proceeds where its condition holds, else it holds the task under the idle cause of the
rule's table; WAITTC sees the counter as of the last clk (R163), and WAITARR looks at the commands of the array's run
(R123). R166 and R167: a held task goes on once its condition holds and the slot may issue (R156, R340); a single wait that
wait_limit bounds and that lasts longer than wait_limit × 64 µs aborts the task with code 0x0F. That a wait on a tide or a slot ends 16 ns
after it, as the effective tide has it, is the model's choice (log entry 106). -/
def Obligations.WaitsHoldAndEnd : Prop :=
  (∀ (c : Core) (sl : Slot) (f : RegForm) (s : State) (k : Task), taskOf s c sl = some k →
      let ends (i : Instr) (w : WaitKind) (cond : Prop) (cause : Nat) : Prop :=
        (cond → Runs i s (fun t => Moved s t c sl 1 ∧ OnlySlot s t c sl)) ∧
        (¬cond → Runs i s (fun t => taskOf t c sl = some { k with wait := some ⟨w, cause, s.time.ticks⟩ } ∧ OnlySlot s t c sl))
      let tc := f.imm.toNat % 256
      let val := if f.sub.getLsbD 0 then bitsOf f.imm.toNat 63 32 else sregOf s c sl f.ra.toNat
      let q := (dmaWindow s c sl).1 + f.imm.toNat % 16
      (IssuesReg s c sl 0xC0 f → (f.sub.getLsbD 0 = true ∨ f.ra.toNat < 32) → tcOwner s c tc = taskJob s c sl →
        ends (.waittc c sl f) (.tc tc val) (val ≤ tcSeen s c tc) (if f.rc.toNat ∈ [2, 3, 4, 12] then f.rc.toNat else 2)) ∧
      (IssuesReg s c sl 0xC1 f → f.imm.toNat % 16 < (dmaWindow s c sl).2 →
        ends (.waitdma c sl f) (.dma q (bitsOf f.imm.toNat 63 32)) (qHeld s c q ≤ bitsOf f.imm.toNat 63 32)
          (if f.rc.toNat ∈ [6, 7, 9] then f.rc.toNat else 7)) ∧
      (IssuesReg s c sl 0xC2 f → ends (.waitarr c sl f) (.arr (f.imm.toNat % 256))
        (∀ a < 8, tst (f.imm.toNat % 256) a = true → (arrOf s c a).queue = [] ∧ queuedOn s c [a] = [] ∧
          ∀ r ∈ runsOn s c [a], r.cmd.kind ≠ .stream) 0) ∧
      (IssuesReg s c sl 0xC3 f → f.ra.toNat < 32 →
        ends (.waittide c sl f) (.tide (sregOf s c sl f.ra.toNat)) (sregOf s c sl f.ra.toNat ≤ effTide s) 5) ∧
      (IssuesReg s c sl 0xC4 f → slotEn s (f.imm.toNat % 8) = true →
        ends (.waitslot c sl f) (.slot (f.imm.toNat % 8) s.time.tide)
          (∃ b, lastSlot s (f.imm.toNat % 8) (effTide s) = some b ∧ s.time.tide < b) 5)) ∧
  (∀ (c : Core) (sl : Slot) (s : State) (k : Task) (w : WaitSt), taskOf s c sl = some k → k.wait = some w →
      (coreUp s c = true → slotTurn s c sl = true → w.kind ≠ .done → waitHolds s c sl w.kind = true → Runs (.waitConditionMet c sl) s (fun t =>
        taskOf t c sl = some { k with wait := none, index := (k.index + 1) % idxMod } ∧ OnlySlot s t c sl)) ∧
      (limited w.kind = true → k.launch.waitLimit ≠ 0 → 64000 * k.launch.waitLimit < s.time.ticks - w.start →
        Runs (.waitLimitExpired c sl) s (fun t => t = abortTask s c sl 0x0F)) ∧
      (limited w.kind = false ∨ k.launch.waitLimit = 0 ∨ s.time.ticks - w.start ≤ 64000 * k.launch.waitLimit →
        Runs (.waitLimitExpired c sl) s (fun t => t = s)))

/-- R162 and R163: TCSET sets a counter of the task's job to the low 32 bits of its operand, TCADD adds them and holds at
2^32 - 1 with overflow set, and a register write sets the counter; a set comes before the increments of its clk, which are added
to it. The value that WAITTC and the transport engines see does not change within the clk. R306: a set of a credit counter below what
its queue has started aborts the task with code 0x0C. That only the low 32 bits count is the model's choice (log entry 33). -/
def Obligations.CountersSetAndAdd : Prop :=
  ∀ (c : Core) (sl : Slot) (f : RegForm) (s : State),
    let i := 256 * c.val + f.imm.toNat % 256
    let v := (if f.sub.getLsbD 0 then bitsOf f.imm.toNat 63 32 else sregOf s c sl f.ra.toNat) % 2 ^ 32
    let before (k : Nat) := (tcClkOf s c k).adds
    (f.sub.getLsbD 0 = true ∨ f.ra.toNat < 32) → tcOwner s c (f.imm.toNat % 256) = taskJob s c sl →
    let u := advance (tcSet s c (f.imm.toNat % 256) v) c sl
    (IssuesReg s c sl 0xA0 f → creditBroken u c sl = true → Runs (.tcset c sl f) s (fun t => t = abortTask u c sl 0x0C)) ∧
    (IssuesReg s c sl 0xA0 f → creditBroken u c sl = false →
      Runs (.tcset c sl f) s (fun t => t = u ∧ get t .tc_value i = min (v + before (f.imm.toNat % 256)) (2 ^ 32 - 1) ∧
        (∀ j, j ≠ i → get t .tc_value j = get s .tc_value j) ∧ (∀ k, tcSeen t c k = tcSeen s c k) ∧
        KeptRegs s t [.tc_value, .tc_overflow] ∧ KeptMem s t ∧ Moved s t c sl 1 ∧ (∀ r, sregOf t c sl r = sregOf s c sl r))) ∧
    (IssuesReg s c sl 0xA1 f → get s .tc_value i < 2 ^ 32 →
      Runs (.tcadd c sl f) s (fun t => get t .tc_value i = min (get s .tc_value i + v) (2 ^ 32 - 1) ∧
        get t .tc_overflow i = (if get s .tc_value i + v < 2 ^ 32 then get s .tc_overflow i else 1) ∧
        (∀ j, j ≠ i → get t .tc_value j = get s .tc_value j ∧ get t .tc_overflow j = get s .tc_overflow j) ∧
        (∀ k, tcSeen t c k = tcSeen s c k) ∧ KeptRegs s t [.tc_value, .tc_overflow] ∧ KeptMem s t ∧ Moved s t c sl 1 ∧
        (∀ r, sregOf t c sl r = sregOf s c sl r))) ∧
    (∀ (tc : BitVec 8) (w : BitVec 32), fn0Up s = true → fnReady s (coreFn c) = true →
      creditBroken (tcSet s c tc.toNat w.toNat) c .prim = false → creditBroken (tcSet s c tc.toNat w.toNat) c .fill = false →
      Runs (.tcValueWrite c tc w) s (fun t =>
        get t .tc_value (256 * c.val + tc.toNat) = min (w.toNat + before tc.toNat) (2 ^ 32 - 1) ∧
        (∀ j, j ≠ 256 * c.val + tc.toNat → get t .tc_value j = get s .tc_value j) ∧ (∀ k, tcSeen t c k = tcSeen s c k) ∧
        KeptRegs s t [.tc_value, .tc_overflow] ∧ KeptMem s t ∧ (∀ p, slotOf t c p = slotOf s c p) ∧
        (∀ d, d ≠ c.val → coreOf t d = coreOf s d)))

/-- The opcode table (05), R103 and R140: SLD loads the 8 bytes at S[ra] + imm of the core's local SRAM, SST stores S[rb] there and
touches no other byte; INSTRUCTION_FETCH_WALK_DONE fetches the next line. The address is a multiple of 8 (the model's choice
for others is log entry 32). -/
def Obligations.LocalLoadsAndStores : Prop :=
  ∀ (c : Core) (sl : Slot) (f : RegForm) (s : State), f.ra.toNat < 32 → f.rd.toNat < 32 → f.rb.toNat < 32 →
    let a := eaOf s c sl f
    let o := sramBase c + a
    (a % 8 = 0 → inSplit s c sl a 8 = true → readFault s o 8 = none → IssuesReg s c sl 0x2C f →
      Runs (.sld c sl f) s (fun t =>
        (∀ r, sregOf t c sl r = if r = f.rd.toNat ∧ r ≠ 0 then rdNat s o 8 else sregOf s c sl r) ∧
        (∀ r, pregOf t c sl r = pregOf s c sl r) ∧ Moved s t c sl 1 ∧ (∀ d, d ≠ c.val → coreOf t d = coreOf s d) ∧
        KeptRegs s t [] ∧ KeptMem s t)) ∧
    (a % 8 = 0 → inSplit s c sl a 8 = true → writeFault s o 8 = none → IssuesReg s c sl 0x2D f →
      Runs (.sst c sl f) s (fun t => rdNat t o 8 = sregOf s c sl f.rb.toNat ∧
        (∀ x, x < o ∨ o + 8 ≤ x → rdByte t x = rdByte s x) ∧ (∀ r, sregOf t c sl r = sregOf s c sl r) ∧
        (∀ r, pregOf t c sl r = pregOf s c sl r) ∧ Moved s t c sl 1 ∧ (∀ d, d ≠ c.val → coreOf t d = coreOf s d) ∧
        KeptRegs s t [])) ∧
    (inSplit s c sl a 8 = false → a % 8 = 0 → IssuesReg s c sl 0x2C f → Runs (.sld c sl f) s (fun t => t = abortTask s c sl 0x01)) ∧
    (inSplit s c sl a 8 = false → a % 8 = 0 → IssuesReg s c sl 0x2D f → Runs (.sst c sl f) s (fun t => t = abortTask s c sl 0x01)) ∧
    (mayFetch s c sl = true → Runs (.instructionFetchWalkDone c sl) s (fun t => t = needLine s c sl))

/-! ### The vector and numeric instructions -/

/-- R145, R147, R157 and the opcode table (05): each enabled element of vd takes the result of the elements of its
sources, with one rounding under rnd where it is arithmetic; an element that is not enabled keeps its contents. R159
and R160: the transcendental pipe gives each enabled element the value of its function, truncated, or correctly
rounded for VRCP and VRSQ in a strict stage group. How the model reaches the truncated value is log entry 30. -/
def Obligations.VectorAndTranscendentalResults : Prop :=
  (∀ x ∈ ([
        (Instr.vadd, 0x62, fun f => [f.ra, f.rb], arithFmt, fun f => arithElem (fun l => numAdd (numArg l 0) (numArg l 1)) f.rnd.toNat),
        (Instr.vsub, 0x63, fun f => [f.ra, f.rb], arithFmt,
          fun f => arithElem (fun l => numAdd (numArg l 0) (numArg l 1).flip) f.rnd.toNat),
        (Instr.vmul, 0x64, fun f => [f.ra, f.rb], arithFmt, fun f => arithElem (fun l => numMul (numArg l 0) (numArg l 1)) f.rnd.toNat),
        (Instr.vfma, 0x65, fun f => [f.ra, f.rb, f.rc], arithFmt,
          fun f => arithElem (fun l => numAdd (numMul (numArg l 0) (numArg l 1)) (numArg l 2)) f.rnd.toNat),
        (Instr.vmax, 0x66, fun f => [f.ra, f.rb], arithFmt, fun _ => selectElem (fun l => numMax (numArg l 0) (numArg l 1))),
        (Instr.vmin, 0x67, fun f => [f.ra, f.rb], arithFmt, fun _ => selectElem (fun l => numMin (numArg l 0) (numArg l 1))),
        (Instr.vabs, 0x68, fun f => [f.ra], arithFmt,
          fun _ => signElem (fun h x => x % h) (fun x => if x < 2 ^ 31 then x else (2 ^ 32 - x) % 2 ^ 32)),
        (Instr.vneg, 0x69, fun f => [f.ra], arithFmt,
          fun _ => signElem (fun h x => if x < h then x + h else x - h) (fun x => (2 ^ 32 - x) % 2 ^ 32)),
        (Instr.vmov, 0x6A, fun f => [f.ra], arithFmt, fun _ => signElem (fun _ x => x) (fun x => x)),
        (Instr.vdiv, 0x6F, fun f => [f.ra, f.rb], fracFmt, fun f => arithElem (fun l => numDiv (numArg l 0) (numArg l 1)) f.rnd.toNat),
        (Instr.vsqrt, 0x70, fun f => [f.ra], fracFmt, fun f => arithElem (fun l => numSqrt (numArg l 0)) f.rnd.toNat)] :
        List ((Core → Slot → RegForm → Instr) × Nat × (RegForm → List (BitVec 6)) × (Nat → Bool) ×
          (RegForm → Bool → Nat → List Nat → Nat × Counts))),
    ∀ (c : Core) (sl : Slot) (f : RegForm) (s : State), Issues s c sl (regWord x.2.1 f) → regOk f false = true →
      x.2.2.2.1 f.fmt.toNat = true → (x.2.2.1 f ++ [f.rd]).all (vOk s c sl) = true → VregsGood s c = true →
      Runs (x.1 c sl f) s (fun t =>
        let fmt := f.fmt.toNat
        let w := fmtWidth fmt
        VectorOut s t c sl f.rd w (elemsIn fmt) (fun i =>
          if elemOn (predOf s c sl f.pred f.pneg) fmt i then
            (x.2.2.2.2 f (polStrict s c sl) fmt ((x.2.2.1 f).map (fun r => elemAt (vregOf s c sl r) w i))).1 % 2 ^ w
          else elemAt (vregOf s c sl f.rd) w i))) ∧
  (∀ x ∈ ([
        (Instr.vexp, 0x71, fun f => if f.sub.toNat < 2 then [f.ra] else [f.ra, f.rb], fun f => decide (f.sub.toNat < 4),
          fun f => fastOut (vexpFn f.sub.toNat)),
        (Instr.vlog, 0x72, fun f => [f.ra], fun f => decide (f.sub.toNat < 2),
          fun f => fastOut (fun l => numLog (decide (f.sub.toNat = 1)) (numArg l 0))),
        (Instr.vrcp, 0x73, fun f => [f.ra], fun _ => true, fun _ => recipOut numRcp),
        (Instr.vrsq, 0x74, fun f => [f.ra], fun _ => true, fun _ => recipOut numRsq)] :
        List ((Core → Slot → RegForm → Instr) × Nat × (RegForm → List (BitVec 6)) × (RegForm → Bool) ×
          (RegForm → Bool → Nat → List Machine.Num → Nat × Counts))),
    ∀ (c : Core) (sl : Slot) (f : RegForm) (s : State), Issues s c sl (regWord x.2.1 f) → regOk f false = true →
      transFmt f.fmt.toNat = true → x.2.2.2.1 f = true → (x.2.2.1 f ++ [f.rd]).all (vOk s c sl) = true → VregsGood s c = true →
      Runs (x.1 c sl f) s (fun t =>
        let fmt := f.fmt.toNat
        let w := fmtWidth fmt
        VectorOut s t c sl f.rd w (elemsIn fmt) (fun i =>
          if elemOn (predOf s c sl f.pred f.pneg) fmt i then
            (x.2.2.2.2 f (polStrict s c sl) fmt ((x.2.2.1 f).map (fun r => decodeNum fmt (elemAt (vregOf s c sl r) w i)))).1 % 2 ^ w
          else elemAt (vregOf s c sl f.rd) w i)))

/-- R147, R158 and the opcode table (05): VCMP writes its results into the predicate bits of the lanes, VBCAST and VSHUF move
elements, and VRED combines the 2^n elements of each segment as a tree of neighbours. -/
def Obligations.VectorCompareMoveReduce : Prop :=
  ∀ (c : Core) (sl : Slot) (f : RegForm) (s : State), regOk f false = true → arithFmt f.fmt.toNat = true → VregsGood s c = true →
    let fmt := f.fmt.toNat
    let w := fmtWidth fmt
    let p := predOf s c sl f.pred f.pneg
    let el (r : BitVec 6) (i : Nat) := elemAt (vregOf s c sl r) w i
    let out (t : State) (new : Nat → Nat) := VectorOut s t c sl f.rd w (elemsIn fmt) (fun i => if elemOn p fmt i then new i else el f.rd i)
    (Issues s c sl (regWord 0x6B f) → f.rd.toNat < 8 → f.sub.toNat < 5 → [f.ra, f.rb].all (vOk s c sl) = true →
      Runs (.vcmp c sl f) s (fun t =>
        (f.rd.toNat ≠ 0 → ∀ b < 512, (pregOf t c sl f.rd.toNat).getLsbD b =
          (if elemOn p fmt (cmpElem fmt b) then
            numCmp f.sub.toNat (decodeNum fmt (el f.ra (cmpElem fmt b))) (decodeNum fmt (el f.rb (cmpElem fmt b)))
          else (pregOf s c sl f.rd.toNat).getLsbD b)) ∧
        (∀ r, r ≠ f.rd.toNat → pregOf t c sl r = pregOf s c sl r) ∧ (∀ r, vregOf t c sl r = vregOf s c sl r) ∧
        (∀ r, sregOf t c sl r = sregOf s c sl r) ∧ Moved s t c sl 1 ∧
        KeptRegs s t [.vecErr_vreg_corrected, .vecFma_lanes] ∧ KeptMem s t)) ∧
    (Issues s c sl (regWord 0x6C f) → f.sub.toNat = 0 → f.ra.toNat < 32 → vOk s c sl f.rd = true →
      Runs (.vbcast c sl f) s (fun t => out t (fun _ => sregOf s c sl f.ra.toNat % 2 ^ w))) ∧
    (Issues s c sl (regWord 0x6C f) → f.sub.toNat = 1 → [f.ra, f.rd].all (vOk s c sl) = true →
      Runs (.vbcast c sl f) s (fun t => out t (fun i => el f.ra (i / 2 ^ (f.imm.toNat % 16))))) ∧
    (Issues s c sl (regWord 0x6C f) → f.sub.toNat = 2 → [f.ra, f.rd].all (vOk s c sl) = true →
      Runs (.vbcast c sl f) s (fun t => out t (fun _ => el f.ra (f.imm.toNat % 1024 % elemsIn fmt)))) ∧
    (Issues s c sl (regWord 0x6D f) → [f.ra, f.rb, f.rd].all (vOk s c sl) = true →
      Runs (.vshuf c sl f) s (fun t => out t (fun i => el f.ra (el f.rb i % elemsIn fmt)))) ∧
    (Issues s c sl (regWord 0x6E f) → f.sub.toNat < 4 → [f.ra, f.rd].all (vOk s c sl) = true → ∀ n, n = (
        if 1 ≤ f.imm.toNat % 16 ∧ f.imm.toNat % 16 ≤ redMax fmt then f.imm.toNat % 16 else redMax fmt) →
      Runs (.vred c sl f) s (fun t => VectorOut s t c sl f.rd w (elemsIn fmt) (fun g =>
        if g < elemsIn fmt / 2 ^ n ∧ elemOn p fmt g = true then
          let xs := (List.range (2 ^ n)).map (fun i => decodeNum fmt (el f.ra (g * 2 ^ n + i)))
          encExact fmt (redTree (redOp f.sub.toNat fmt f.rnd.toNat (polStrict s c sl)) n
            (if f.sub.toNat = 3 then xs.map (redAbs fmt) else xs)).1 % 2 ^ w
        else el f.rd g)))

/-- R147, R103 and the opcode table (05): VLD reads the elements that the predicate enables from local SRAM, widening narrow ones;
VST stores the bytes of enabled lanes and touches no other byte. -/
def Obligations.VectorLoadsAndStores : Prop :=
  ∀ (c : Core) (sl : Slot) (f : RegForm) (s : State), regOk f false = true → f.ra.toNat < 32 → VregsGood s c = true →
    let fmt := f.fmt.toNat
    let p := predOf s c sl f.pred f.pneg
    let a := eaOf s c sl f
    let o := sramBase c + a
    let n := if f.sub.toNat = 0 then 2048 else 128 * f.sub.toNat
    (Issues s c sl (regWord 0x60 f) → vOk s c sl f.rd = true → inSplit s c sl a (vldBytes fmt) = true →
      readFault s o (vldBytes fmt) = none → Runs (.vld c sl f) s (fun t =>
        let w := if arithFmt fmt then fmtWidth fmt else 32
        (∀ i < 16384 / w, elemAt (vregOf t c sl f.rd) w i =
          if arithFmt fmt then
            (if elemOn p fmt i then elemAt (rdNat s o 2048) w i else elemAt (vregOf s c sl f.rd) w i)
          else
            (if p.getLsbD i then widenElem fmt (elemAt (rdNat s o (vldBytes fmt)) (fmtWidth fmt) i) % 2 ^ 32
             else elemAt (vregOf s c sl f.rd) w i)) ∧
        (∀ r, vOk s c sl r = true → r ≠ f.rd → vregOf t c sl r = vregOf s c sl r) ∧
        (∀ r, sregOf t c sl r = sregOf s c sl r) ∧ (∀ r, pregOf t c sl r = pregOf s c sl r) ∧ Moved s t c sl 1 ∧
        KeptRegs s t [.vecErr_vreg_corrected] ∧ KeptMem s t)) ∧
    (Issues s c sl (regWord 0x61 f) → vOk s c sl f.rb = true → inSplit s c sl a n = true →
      maskedFault s (fun i => p.getLsbD i) o n = false → Runs (.vst c sl f) s (fun t =>
        (∀ x, rdByte t x = if o ≤ x ∧ x < o + n ∧ p.getLsbD ((x - o) / 4) = true then
            BitVec.ofNat 8 (elemAt (vregOf s c sl f.rb) 8 (x - o))
          else rdByte s x) ∧
        (∀ r, vregOf t c sl r = vregOf s c sl r) ∧ (∀ r, sregOf t c sl r = sregOf s c sl r) ∧
        (∀ r, pregOf t c sl r = pregOf s c sl r) ∧ Moved s t c sl 1 ∧ KeptRegs s t [.vecErr_vreg_corrected]))

/-- R147, R169, R182 to R186, R194 to R198, R201 to R204 and R210: VCVT gives each enabled element of its part of vd its source converted, in
scale modes 2 and 3 block by block with the blocks' scales in the first bytes of the register that rc names; an element that is not
enabled and every other bit keep their contents. A stochastic one moves the counter on. VSEED derives the key and sets the counter,
VRNG gives each lane the next generator bits and moves the counter on by 512, NTAG tags the task with an entry of its policy's range
and a step, NMAXR reads the maximum of the set that it names, or 0 where no set does. That it reads 0 without a tag is the model's
choice (log entry 104), and so is that scales go first where vd is the scales' register (log entry 36). -/
def Obligations.NumericInstructions : Prop :=
  ∀ (c : Core) (sl : Slot) (f : RegForm) (s : State),
    (let src := f.imm.toNat % 16
     let dst := f.fmt.toNat
     let w := fmtWidth dst
     let mode := f.smode.toNat
     let pl := cvtPlace src dst (bitsOf f.imm.toNat 11 8)
     let on (i : Nat) : Bool := elemOn (predOf s c sl f.pred f.pneg) src (pl.2.1 + i)
     let x (i : Nat) := decodeNum src (elemAt (vregOf s c sl f.ra) (fmtWidth src) (pl.2.1 + i))
     let r (i : Nat) := genBits (slotOf s c sl).key.toNat ((slotOf s c sl).next.toNat + (pl.2.1 + i))
     let at_ (u : State) (i : Nat) := vregOf u c sl f.rd / 2 ^ (pl.2.2.2 + i * w) % 2 ^ w
     let ts := if mode = 1 then some (decodeNum fp32 (sregOf s c sl f.rb.toNat % 2 ^ 32)) else none
     let bs := cvtBlocks mode dst f.rnd.toNat ((List.range pl.2.2.1).map (fun i => (x i, on i, r i)))
     Issues s c sl (regWord 0xE0 f) → regOk f (!polStrict s c sl) = true → cvtOk s c sl f = true → VregsGood s c = true →
      (f.ra :: (if 2 ≤ mode then [f.rd, f.rc] else [f.rd])).all (vOk s c sl) = true →
      Runs (.vcvt c sl f) s (fun t => Moved s t c sl 1 ∧ (∀ r, sregOf t c sl r = sregOf s c sl r) ∧
        (∀ r, pregOf t c sl r = pregOf s c sl r) ∧
        (∀ r, vOk s c sl r = true → r ≠ f.rd → (2 ≤ mode → r ≠ f.rc) → vregOf t c sl r = vregOf s c sl r) ∧
        (slotOf t c sl).next = (slotOf s c sl).next + (if f.rnd.toNat = 2 then BitVec.ofNat 64 (elemsIn src) else 0) ∧
        (mode < 2 ∨ f.rd ≠ f.rc →
          (∀ i < pl.2.2.1, on i = false → at_ t i = at_ s i) ∧
          (∀ b, b < pl.2.2.2 ∨ pl.2.2.2 + pl.2.2.1 * w ≤ b →
            (vregOf t c sl f.rd).testBit b = (vregOf s c sl f.rd).testBit b)) ∧
        (mode < 2 → ∀ i < pl.2.2.1, on i = true → at_ t i =
          (convertOne src dst f.rnd.toNat (cvtSat (polSat s c sl) (polStrict s c sl) dst) (!polStrict s c sl) (r i) ts (x i)).1
            % 2 ^ w) ∧
        (2 ≤ mode → (∀ i < pl.2.2.1, on i = true →
          ((bs.flatMap (·.1)).getD i none).map (· % 2 ^ w) = some (at_ t i))) ∧
        (2 ≤ mode → f.rd ≠ f.rc →
          (∀ b k, bs[b]? = some k → elemAt (vregOf t c sl f.rc) 8 b = k.2.1 % 256) ∧
          (∀ b, 8 * bs.length ≤ b → (vregOf t c sl f.rc).testBit b = (vregOf s c sl f.rc).testBit b)) ∧
        KeptRegs s t [.vecErr_vreg_corrected, .vecFma_lanes] ∧ KeptMem s t ∧ (∀ d, d ≠ c.val → coreOf t d = coreOf s d))) ∧
    (IssuesReg s c sl 0xE1 f → f.ra.toNat < 32 → f.rb.toNat < 32 → f.rc.toNat < 32 → Runs (.vseed c sl f) s (fun t =>
      (slotOf t c sl).key = BitVec.ofNat 64 (genKey (sregOf s c sl f.ra.toNat) (sregOf s c sl f.rb.toNat)) ∧
      (slotOf t c sl).next.toNat = sregOf s c sl f.rc.toNat ∧ (∀ r, sregOf t c sl r = sregOf s c sl r) ∧
      (∀ r, pregOf t c sl r = pregOf s c sl r) ∧ Moved s t c sl 1 ∧ OnlySlot s t c sl ∧ KeptRegs s t [] ∧ KeptMem s t)) ∧
    (IssuesReg s c sl 0xE2 f → vOk s c sl f.rd = true → Runs (.vrng c sl f) s (fun t =>
      (∀ i < 512, elemAt (vregOf t c sl f.rd) 32 i = genBits (slotOf s c sl).key.toNat ((slotOf s c sl).next.toNat + i) % 2 ^ 32) ∧
      (∀ r, vOk s c sl r = true → r ≠ f.rd → vregOf t c sl r = vregOf s c sl r) ∧
      (slotOf t c sl).next = (slotOf s c sl).next + 512 ∧ (∀ r, sregOf t c sl r = sregOf s c sl r) ∧
      (∀ r, pregOf t c sl r = pregOf s c sl r) ∧ Moved s t c sl 1 ∧ KeptRegs s t [.vecFma_lanes] ∧ KeptMem s t ∧
      (∀ d, d ≠ c.val → coreOf t d = coreOf s d))) ∧
    (IssuesReg s c sl 0xE3 f → f.ra.toNat < 32 → ∀ k v, taskOf s c sl = some k → v = sregOf s c sl f.ra.toNat →
      v % 4096 < polCount s c sl → polBase s c sl + v % 4096 ≤ 4095 → bitsOf v 63 44 = 0 → Runs (.ntag c sl f) s (fun t =>
        taskOf t c sl = some { k with tag := some (polBase s c sl + v % 4096, bitsOf v 43 12), index := (k.index + 1) % idxMod } ∧
        OnlySlot s t c sl)) ∧
    (IssuesReg s c sl 0xE4 f → f.rd.toNat < 32 →
      (tagOf s c sl = none ∨ ∃ e step, tagOf s c sl = some (e, step) ∧ maxSet s e step = none) → Runs (.nmaxr c sl f) s (fun t =>
        (∀ r, sregOf t c sl r = if r = f.rd.toNat then 0 else sregOf s c sl r) ∧ Moved s t c sl 1 ∧ OnlySlot s t c sl ∧
        KeptRegs s t [] ∧ KeptMem s t)) ∧
    (IssuesReg s c sl 0xE4 f → f.rd.toNat < 32 → ∀ e step i, tagOf s c sl = some (e, step) → maxSet s e step = some i →
      Runs (.nmaxr c sl f) s (fun t => ∃ s1, s1 = evalOnce s e i (taskJob s c sl) ∧
        (∀ r, sregOf t c sl r = if r = f.rd.toNat ∧ r ≠ 0 then maxWord s1 e i % 2 ^ 64 else sregOf s c sl r) ∧
        Moved s t c sl 1 ∧ KeptMem s t))

/-- R206 and R208: an event record of an entry adds its counts to the entry's current set when the steps agree, and its zeros to the
module's total; with count_en 0 the table holds its values. Records of one clk act in ascending core number, those of one core in
their order: one that comes after a record of a higher core has the records of its clk act again, on the entry as it was before them.
R211, R235 and R236: NUM_OPCLR clears an entry's two sets, or all, and NUM_SIL and NUM_OPSEED write the selected entry's watch state and
its previous set, all between two clks: on the entry as it was before the records of their clk, which act after them. What the clk of
the table is, and that its records are taken back and act again, is the model's choice (log entry 189). -/
def Obligations.OperationTableCountsAndClears : Prop :=
  (∀ (i : Nat) (s : State) (r : NumRec), s.num.recs[i]? = some r →
      (flag s .numCtl_count_en = false → Runs (.numEventRecord i) s (fun t =>
        t = { s with num := { s.num with recs := s.num.recs.eraseIdx i } })) ∧
      (flag s .numCtl_count_en = true → ∀ e, r.entry = some e →
        ((∀ x ∈ freshOf s e, x.core ≤ r.core) → flag s .numOp_valid e = true → get s .numOp_step e = r.step →
          Runs (.numEventRecord i) s (fun t =>
            (∀ x ∈ ([(.numOp_elements, r.elements), (.numOp_zeros, r.zeros), (.numOp_flushed, r.flushed),
                (.numOp_saturated, r.saturated), (.numOp_nan, r.nan), (.numOp_inf, r.inf)] : List (Fld × Nat)),
              get t x.1 e = satAdd x.1.width (get s x.1 e) x.2) ∧
            get t .numTotZero_count = (get s .numTotZero_count + r.zeros) % 2 ^ Fld.numTotZero_count.width ∧
            get t .numOp_step e = r.step ∧ t.num.recs = s.num.recs.eraseIdx i ∧ t.num.fresh = s.num.fresh ++ [r] ∧
            (∀ d, d ≠ e → get t .numOp_elements d = get s .numOp_elements d) ∧ KeptMem s t)) ∧
        (∀ x ∈ freshOf s e, r.core < x.core → ∃ u : State, KeptRegs s u [.numTotElem_count, .numTotZero_count, .numTotFlush_count,
            .numTotSat_count, .numTotNan_count, .numTotInf_count] ∧ freshOf u e = freshOf s e ++ [r] ∧ u.num.base = s.num.base ∧
          u.num.recs = s.num.recs.eraseIdx i ∧ exec (.numEventRecord i) s = .next (replay (unrecord u e) e)))) ∧
  (∀ (s : State) (e : Nat),
      (∀ l : List NumRec, s.num.base.all (fun b => b.entry != e) = true →
        let t := unrecord (each l (applyRec e) (noteBase s e)) e
        (regsFit s.regs → (∀ x ∈ entFlds e, get t x.1 x.2 = get s x.1 x.2) ∧ (∀ f ∈ recCounts, get t f = get s f)) ∧
        mget false t.num.evaldCur e = mget false s.num.evaldCur e ∧ mget false t.num.evald e = mget false s.num.evald e ∧
        t.num.fresh = s.num.fresh ∧ KeptMem s t) ∧
      (let l := byCore (freshOf s e)
       l.Pairwise (fun x y => x.core ≤ y.core) ∧ (∀ c, l.filter (fun x => x.core == c) = (freshOf s e).filter (fun x => x.core == c)) ∧
       (freshOf s e = [] → replay s e = s) ∧ (freshOf s e ≠ [] → replay s e = l.foldl (applyRec e) (noteBase s e)))) ∧
  (∀ (s : State), fn0Up s = true →
      (∀ entry : BitVec 12, ∃ u : State, let v := unrecord s entry.toNat
        (∀ g ∈ setFlds, get u g entry.toNat = 0 ∧ get u g (entry.toNat + 4096) = 0 ∧
          ∀ j, j ≠ entry.toNat → j ≠ entry.toNat + 4096 → get u g j = get v g j) ∧ KeptRegs v u setFlds ∧
        { u with regs := v.regs, num := v.num } = v ∧ u.num.recs = v.num.recs ∧ u.num.fresh = v.num.fresh ∧
        exec (.numOpclrEntry entry) s = .next (replay u entry.toNat)) ∧
      (∃ u : State, let v := (freshEnts s).foldl unrecord s
        (∀ g ∈ setFlds, ∀ i, get u g i = 0) ∧ KeptRegs v u setFlds ∧ { u with regs := v.regs, num := v.num } = v ∧
        u.num.recs = v.num.recs ∧ u.num.fresh = v.num.fresh ∧ exec .numOpclrAll s = .next ((freshEnts s).foldl replay u)) ∧
      (∀ v : BitVec 64, ∃ u : State, let e := get s .numOpsel_entry
        get u .numSil_watch e = v.toNat % 2 ∧ get u .numSil_run e = bitsOf v.toNat 12 1 ∧
        get u .numSil_boost e = bitsOf v.toNat 15 13 ∧ get u .numSil_evented e = 0 ∧ get u .numSil_alarmed e = 0 ∧
        OnlyRegs (unrecord s e) u [.numSil_watch, .numSil_run, .numSil_boost, .numSil_evented, .numSil_alarmed] ∧
        exec (.numSilWrite v) s = .next (replay u e)) ∧
      (∀ mx step : BitVec 32, ∃ u : State, let e := get s .numOpsel_entry
        get u .numOp_valid e = 0 ∧ get u .numOp_valid (e + 4096) = 1 ∧ get u .numOp_step (e + 4096) = step.toNat ∧
        get u .numOp_max (e + 4096) = mx.toNat ∧ get u .numOp_seen (e + 4096) = 1 ∧ get u .numOp_elements (e + 4096) = 0 ∧
        KeptRegs (unrecord s e) u setFlds ∧ KeptMem s u ∧ u.num.fresh = s.num.fresh ∧
        exec (.numOpseedWrite mx step) s = .next (replay u e)))

/-! ### Tensor commands and arrays -/

/-- R101, R149, R203 and R205: TLOAD, TSTREAM and TDRAIN put one command into the queue of their array, with the task's tag, job and
generator as they stand, and the next instruction follows; memory, registers and other cores are as they were. R147: one
whose predicate is false is skipped as a whole, whatever its scales. Equal words of the tensor form have equal opcodes and
fields. The queue of 4 commands is the model's choice where it says how
full queues stall (log entry 71). -/
def Obligations.TensorCommandsQueue : Prop :=
  ∀ (c : Core) (sl : Slot) (f : TensorForm) (s : State),
    let a := f.array.toNat
    let l := feederOf s c sl
    let queued (op : Nat) (kind : TKind) (i : Instr) (ok : Bool) : Prop :=
      Issues s c sl (tensorWord op f) → ok = true → polStrict s c sl = false → enabled s c sl f.pred f.pneg = true →
      (arrOf s c a).queue.length < 4 → (tensorRanges kind l f).all (fun r => inSplit s c sl r.1 r.2) = true →
      (f.tcEn = true → tcOwner s c f.tc.toNat = taskJob s c sl) →
      Runs i s (fun t => ∃ q : TCmd, (arrOf t c a).queue = (arrOf s c a).queue ++ [q] ∧ q.kind = kind ∧ q.slot = sl ∧
        q.job = taskJob s c sl ∧ q.form = f ∧ q.tag = tagOf s c sl ∧ q.key = (slotOf s c sl).key ∧
        q.next = (slotOf s c sl).next ∧ q.scales.toNat = sregOf s c sl f.sreg.toNat ∧
        (∀ b, b ≠ a → (arrOf t c b).queue = (arrOf s c b).queue) ∧ (∀ b, (arrOf t c b).run = (arrOf s c b).run) ∧
        (∀ r, sregOf t c sl r = sregOf s c sl r) ∧ Moved s t c sl 1 ∧ OnlyCore s t c ∧ KeptRegs s t [] ∧ KeptMem s t)
    queued 0x40 .load (.tload c sl f) (tloadOk f) ∧
    queued 0x41 .stream (.tstream c sl f) (tstreamOk l f) ∧
    queued 0x42 .drain (.tdrain c sl f) (tdrainOk f && drainScalesOk f (sregOf s c sl f.sreg.toNat)) ∧
    (∀ x ∈ ([(Instr.tload, 0x40, tloadOk f), (Instr.tstream, 0x41, tstreamOk l f), (Instr.tdrain, 0x42, tdrainOk f)] :
        List ((Core → Slot → TensorForm → Instr) × Nat × Bool)),
      Issues s c sl (tensorWord x.2.1 f) → x.2.2 = true → polStrict s c sl = false → enabled s c sl f.pred f.pneg = false →
      Runs (x.1 c sl f) s (fun t => (∀ b, arrOf t c b = arrOf s c b) ∧ (∀ r, sregOf t c sl r = sregOf s c sl r) ∧
        Moved s t c sl 1 ∧ OnlySlot s t c sl ∧ KeptRegs s t [] ∧ KeptMem s t)) ∧
    (∀ (op b : Nat) (g : TensorForm), op < 256 → b < 256 →
      tensorWord op f < 2 ^ 128 ∧ (tensorWord op f = tensorWord b g → op = b ∧ f = g))

/-- R101, R102 and R105: a command that may start leaves its array's queue and runs, a TSTREAM with the weights that it takes, where
their format may meet its own; another pairing aborts the task with code 0x0B. R112, R113, R118, R119 and R131: what
ends in an array: TLOAD puts its tiles into the shadow registers, TSTREAM has read its rows, its pass is in the bank,
TDRAIN is in local SRAM. R114: the shadow weights that a TLOAD has put in place become the active ones of a TSTREAM
when it starts. -/
def Obligations.ArrayCommandsRun : Prop :=
  (∀ (c : Core) (a : ArrId) (s : State) (q : TCmd), nextCmd (arrOf s c a) = some q → coreUp s c = true →
      canStart s c (feederOf s c q.slot) q = true → q.kind ≠ .stream →
      Runs (.arrayCommandStart c a) s (fun t =>
        (arrOf t c a).run = (arrOf s c a).run ++ [⟨q, false, [], []⟩] ∧
        (arrOf t c a).queue = (arrOf s c a).queue.filter (fun p => p.seq != q.seq) ∧
        (∀ b, b ≠ a.val → arrOf t c b = arrOf s c b) ∧ OnlyCore s t c ∧ KeptRegs s t [] ∧ KeptMem s t)) ∧
  (∀ (c : Core) (a : ArrId) (s : State) (r : RunCmd), coreUp s c = true →
      let l := feederOf s c r.cmd.slot
      let moon := isMoonlet l a
      (∀ q, nextCmd (arrOf s c a) = some q → q.kind = .stream → canStart s c (feederOf s c q.slot) q = true →
        let ps := partsOf (feederOf s c q.slot) q
        let s1 := ps.foldl (copyWeights c) s
        let ws := ps.map (fun p => (p.1, weightOf s1 c q.form.fmt.toNat p))
        exec (.arrayCommandStart c a) s = .next (if ws.all (fun w => meets q.form.fmt.toNat w.2) then
          setArr s1 c a { arrOf s1 c a with queue := (arrOf s1 c a).queue.filter (fun p => p.seq != q.seq),
                                            run := (arrOf s1 c a).run ++ [⟨q, false, [], ws⟩] }
          else abortTask s1 c q.slot 0x0B)) ∧
      (firstRun s c a (fun r => decide (r.cmd.kind = .load)) = some r →
        exec (.tloadDone c a) s = .next (endRun (each ((loadParts moon r.cmd.form).mapIdx (fun j i => (i, j)))
          (loadTile c r.cmd moon) s) c a r.cmd)) ∧
      (firstRun s c a (fun r => decide (r.cmd.kind = .stream) && !r.rowsRead) = some r →
        ∀ t rows, gatherRows c r.cmd l moon (partsOf l r.cmd) s [] = (t, some rows) →
          rows.all (fun d => meets ((d.2.map (·.fmt)).getD r.cmd.form.fmt.toNat) (mget none r.weights d.1)) = true →
          exec (.tstreamRowsRead c a) s = .next (rowsReadNow t c a r.cmd l rows)) ∧
      (firstRun s c a (fun r => decide (r.cmd.kind = .stream)) = some r → r.rowsRead = true →
        passTurn s c (runOf l a) r.cmd = true → ∀ t, arrayCodes s c (runOf l a) true r.cmd.form.bank r.cmd.slot = (t, true) →
          exec (.tstreamPassDone c a) s = .next (finishPass t c a r l)) ∧
      (firstRun s c a (fun r => decide (r.cmd.kind = .drain)) = some r → drainTurn s c (runOf l a) r.cmd = true →
        ∀ t, arrayCodes s c (runOf l a) false r.cmd.form.bank r.cmd.slot = (t, true) →
          exec (.tdrainDone c a) s = .next (finishDrain t c a r.cmd l))) ∧
  (∀ (c : Core) (s : State) (a k : Nat), a < 8 →
      let t := copyWeights c s (0, a, k)
      mget (some Tile.zero) (arrOf t c a).active k = mget (some Tile.zero) (arrOf s c a).shadow k ∧
        (arrOf t c a).shadow = (arrOf s c a).shadow ∧
        (∀ j, j ≠ k → mget (some Tile.zero) (arrOf t c a).active j = mget (some Tile.zero) (arrOf s c a).active j) ∧
        (∀ b, b ≠ a → arrOf t c b = arrOf s c b) ∧ OnlyCore s t c)

/-- R106 to R108: a column's sum takes its products one after another in ascending k, in FP32 with the flush of fast mode or as
saturating 48-bit integers. -/
def Obligations.ColumnSumsAscend : Prop :=
  ∀ (start : Sum) (l : List (Machine.Num × Machine.Num)) (x w : Machine.Num),
    colSum start (l ++ [(x, w)]) = (match (colSum start l).entry with
      | .fp b =>
        let acc := decodeNum fp32 b
        let r := arithOut fp32 false 0 (acc.isFin && x.isFin && w.isFin) (!acc.isNan && !x.isNan && !w.isNan)
          (numAdd acc (numMul x w))
        ⟨.fp r.1, (colSum start l).cnt.add r.2, (colSum start l).sat⟩
      | .int v =>
        let y := v + intOf x * intOf w
        ⟨.int (max (-2 ^ 47) (min (2 ^ 47 - 1) y)), (colSum start l).cnt,
          (colSum start l).sat + (if y < -2 ^ 47 ∨ 2 ^ 47 - 1 < y then 1 else 0)⟩
      | .undef => colSum start l)

/-! ### DMA queues and descriptors -/

/-- R303, R304 and R315: DMAQ copies the 32 bytes of a descriptor from local SRAM into a queue of the job's window, DMAF puts a
fence there, each with a number of its own, and the next instruction follows; at a full queue both hold the slot with nothing
changed, and a queue without depth is no queue: the task aborts with code 0x0B. That descriptors in flight hold places of their queue
until they complete (log entry 42), that a DMAF to a queue without depth aborts as a DMAQ does (log entry 202), and that a depth above
64 is 64 (log entry 203), are the model's choices. -/
def Obligations.DmaInstructionsQueue : Prop :=
  ∀ (c : Core) (sl : Slot) (f : RegForm) (s : State), f.ra.toNat < 32 → f.sub.toNat < (dmaWindow s c sl).2 →
    let q := (dmaWindow s c sl).1 + f.sub.toNat
    let ents (t : State) := (dmaqOf (coreOf t c) q).entries
    (IssuesReg s c sl 0x80 f → qHeld s c q < qDepth s c q → inSplit s c sl (eaOf s c sl f) 32 = true →
      readFault s (sramBase c + eaOf s c sl f) 32 = none →
      Runs (.dmaq c sl f) s (fun t => ∃ d : Desc, (ents t).length = (ents s).length + 1 ∧ d ∈ ents t ∧
        d.id = (coreOf s c).nextId ∧ d.q = q ∧ d.slot = sl ∧ d.job = taskJob s c sl ∧ d.fence = none ∧
        d.words = wordsOf (rdBytes s (sramBase c + eaOf s c sl f) 32) ∧ (coreOf t c).nextId = (coreOf s c).nextId + 1 ∧
        (∀ p, p ≠ q → dmaqOf (coreOf t c) p = dmaqOf (coreOf s c) p) ∧ (∀ r, sregOf t c sl r = sregOf s c sl r) ∧
        Moved s t c sl 1 ∧ (∀ d, d ≠ c.val → coreOf t d = coreOf s d) ∧ KeptRegs s t [] ∧ KeptMem s t)) ∧
    (IssuesReg s c sl 0x81 f → qHeld s c q < qDepth s c q →
      Runs (.dmaf c sl f) s (fun t => ∃ d : Desc, (ents t).length = (ents s).length + 1 ∧ d ∈ ents t ∧
        d.id = (coreOf s c).nextId ∧ d.q = q ∧ d.slot = sl ∧ d.fence = some (f.imm.toNat % 4) ∧
        (∀ p, p ≠ q → dmaqOf (coreOf t c) p = dmaqOf (coreOf s c) p) ∧ (∀ r, sregOf t c sl r = sregOf s c sl r) ∧
        Moved s t c sl 1 ∧ OnlyCore s t c ∧ KeptRegs s t [] ∧ KeptMem s t)) ∧
    (∀ x ∈ ([(Instr.dmaq c sl f, 0x80), (.dmaf c sl f, 0x81)] : List (Instr × Nat)), IssuesReg s c sl x.2 f →
      (qDepth s c q ≠ 0 → qDepth s c q ≤ qHeld s c q → Runs x.1 s (fun t => t = s)) ∧
      (qDepth s c q = 0 → Runs x.1 s (fun t => t = abortTask s c sl 0x0B)))

/-- R305, R306 and R312: the head descriptor of a queue starts once it passes its checks and the queue's limits and
credit let it, and fails where it does not pass them. R309 to R311: a copy, put, get or flag write that is in flight, has not run,
that no move holds and whose turn it is to send (R318), runs. R313, R316 and R317: a descriptor whose data are all placed and
acknowledged completes: it is out of flight, its bytes are counted, and its counter rises where tc_en is 1. A fence whose condition
holds leaves its queue; one that has held the queue longer than fence_limit × 16 µs fails its task with code 0x0F. -/
def Obligations.DescriptorsRun : Prop :=
  (∀ (c : Core) (q : Fin 16) (s : State) (d : Desc) (rest : List Desc), (dmaqOf (coreOf s c) q).entries = d :: rest →
      d.fence = none → fnReady s (coreFn c) = true →
      ((descBad s c d).1 = 0 → qRoom s c q d = true → creditGate s c q d = 0 →
        Runs (.dmaDescriptorStart c q) s (fun t =>
          (coreOf t c).flight = (coreOf s c).flight ++ [d] ∧
          (dmaqOf (coreOf t c) q).entries.length = rest.length ∧
          (dmaqOf (coreOf t c) q).started = (dmaqOf (coreOf s c) q).started + 1 ∧
          (∀ p, p ≠ q.val → dmaqOf (coreOf t c) p = dmaqOf (coreOf s c) p) ∧ OnlyCore s t c ∧ KeptRegs s t [] ∧ KeptMem s t)) ∧
      ((descBad s c d).1 = 0 → qRoom s c q d = false → Runs (.dmaDescriptorStart c q) s (fun t => t = s)) ∧
      ((descBad s c d).1 ≠ 0 → d.kind ≠ 4 →
        Runs (.dmaDescriptorStart c q) s (fun t => t = failDesc s c d (descBad s c d).1 (descBad s c d).2))) ∧
  (∀ x ∈ ([(Instr.dmaCopy, 1), (Instr.dmaPut, 2), (Instr.dmaGet, 3), (Instr.dmaFlagWrite, 6)] : List ((Core → Nat → Instr) × Nat)),
    ∀ (c : Core) (id : Nat) (s : State) (d : Desc), flightOf s c id = some d → fnReady s (coreFn c) = true → d.kind = x.2 →
      d.moved = false → descMoving s d = false → waitsTurn s c d = false → Runs (x.1 c id) s (fun t => t = runDesc s c d)) ∧
  (∀ (c : Core) (s : State),
      (∀ (id : Nat) (d : Desc), flightOf s c id = some d → d.moved = true → d.left = 0 → d.kind ∉ [4, 5] →
        get s .tc_value (256 * c.val + d.tc) < 2 ^ 32 →
        Runs (.dmaDescriptorComplete c id) s (fun t =>
          (coreOf t c).flight = (coreOf s c).flight.filter (fun e => e.id != id) ∧
          get t .dmaBytes_bytes c = (get s .dmaBytes_bytes c + d.bytes) % 2 ^ Fld.dmaBytes_bytes.width ∧
          get t .tc_value (256 * c.val + d.tc) = (if d.tcEn then min (get s .tc_value (256 * c.val + d.tc) + 1) (2 ^ 32 - 1)
            else get s .tc_value (256 * c.val + d.tc)) ∧
          KeptRegs s t [.dmaBytes_bytes, .tc_value, .tc_overflow] ∧ KeptMem s t ∧
          (∀ b, b ≠ c.val → coreOf t b = coreOf s b))) ∧
      (∀ (q : Fin 16) (d : Desc) (rest : List Desc) (k : Nat), (dmaqOf (coreOf s c) q).entries = d :: rest → d.fence = some k →
        (fenceHolds s c q d k = true → Runs (.fenceRelease c q) s (fun t =>
          (dmaqOf (coreOf t c) q).entries.length = rest.length ∧ (coreOf t c).flight = (coreOf s c).flight ∧
          OnlyCore s t c ∧ KeptRegs s t [] ∧ KeptMem s t)) ∧
        (fenceHolds s c q d k = false → Runs (.fenceRelease c q) s (fun t => t = s)) ∧
        (fenceHolds s c q d k = false → get s .dmaCtl_fence_limit c ≠ 0 →
          16000 * get s .dmaCtl_fence_limit c < s.time.ticks - d.since →
          Runs (.fenceTimeout c q) s (fun t => t = failDesc s c d 0x0F 0))))

/-! ### KV pages -/

/-- R241 to R248: the next page of a KV read that passes its checks and is in HBM is widened into local SRAM, under the page descriptor
as it was first read; one still in the tail only has its return asked for, and a request that meets an uncorrectable unit ends its
task instead (log entry 153). R290: each KV page operation does its own thing to the next
page once R285's checks pass. A page that is ready leaves the list of those to count, and the last one completes the descriptor. -/
def Obligations.KvPagesAreReadAndHandled : Prop :=
  (∀ (c : Core) (id : Nat) (s : State) (d : Desc), flightOf s c id = some d → d.kind = 4 →
      let w := kvWindow d
      let page := d.w 0 48 27 + kvDone d
      let r := winWords s w
      let x := match d.raw with
        | some b => (noteWin s w, 0, b)
        | none => readOff (noteWin s w) d.job c (pdAddr r page) 64
      let s1 := each (page :: ((List.range (min 8 (max 1 (get s .attCtl_read_ahead c)))).map (fun i => page + i + 1)).filter
        (fun q => decide (q < d.w 0 48 27 + d.w 0 53 49))) (askPage c d)
        (updDesc x.1 c d.id (fun e => { e with raw := some x.2.2 }))
      let clean := kvDone d < d.w 0 53 49 ∧ fnReady s (coreFn c) = true ∧ fnReady s 7 = true ∧ winBad s w = 0 ∧
        winRefused s d.job w page = false ∧ inHbm s (pdAddr r page) = true ∧ x.2.1 = 0 ∧ pageReason (parsePage x.2.2) w = 0
      (clean → flightOf s1 c id = none → exec (.kvRead c id) s = .next s1) ∧
      (clean → (flightOf s1 c id).isSome = true → wSpill r = false → exec (.kvRead c id) s = .next (widenPage s1 c d (parsePage x.2.2) x.2.2 page (pageVa r page))) ∧
      (clean → wSpill r = true → pteValid (l3Of s1 r page) = true → pageHere s1 w page = false → exec (.kvRead c id) s = .next s1) ∧
      (clean → (flightOf s1 c id).isSome = true → pageHere s1 w page = true → exec (.kvRead c id) s = .next (widenPage s1 c d (parsePage x.2.2) x.2.2 page (pageVa r page))) ∧
      (d.ready ≠ [] → d.tcEn = false → Runs (.kvReadPageDone c id) s (fun t =>
        (coreOf t c).flight = (if d.pages + 1 = d.w 0 53 49 then (coreOf s c).flight.filter (fun e => e.id != d.id)
          else (coreOf s c).flight.map (fun e => if e.id = d.id then { e with pages := e.pages + 1, ready := e.ready.drop 1 } else e)) ∧
        OnlyCore s t c ∧ KeptRegs s t [] ∧ KeptMem s t))) ∧
  (∀ (c : Core) (id : Nat) (s : State) (d : Desc), flightOf s c id = some d → d.kind = 5 →
      let w := kvWindow d
      let page := d.w 0 48 27 + kvDone d
      let r := winWords s w
      let s0 := fixPage (noteWin s w) r page
      (kvDone d < d.w 0 53 49 → fnReady s 7 = true → winBad s w = 0 → winRefused s d.job w page = false → pdBad s r page = 0 →
        (∃ o, l3Find s (wJob r) (pageVa r page) = .at_ o) →
        (d.w 0 56 54 = 0 → exec (.kvPageOpen c id) s = .next (openPage s0 c d r w page)) ∧
        (d.w 0 56 54 = 1 → exec (.kvPageSeal c id) s = .next (sealPage s0 c d r w page)) ∧
        (d.w 0 56 54 = 2 → exec (.kvPageHint c id) s = .next (hintPage s0 c d r w page)) ∧
        (d.w 0 56 54 = 3 → exec (.kvPageClose c id) s = .next (closePage s0 c d r w page))) ∧
      (d.ready ≠ [] → d.tcEn = false → Runs (.kvPageOpPageDone c id) s (fun t =>
        (coreOf t c).flight = (if d.pages + 1 = d.w 0 53 49 then (coreOf s c).flight.filter (fun e => e.id != d.id)
          else (coreOf s c).flight.map (fun e => if e.id = d.id then { e with pages := e.pages + 1, ready := e.ready.drop 1 } else e)) ∧
        OnlyCore s t c ∧ KeptRegs s t [] ∧ KeptMem s t)))

/-! ### Control commands -/

/-- R60, R63, R65 to R67: what becomes of a control command that arrives. A new one on a free port starts at once: its effect is that
of `runBody`, or it is refused with status 5 where the state does not allow it (R72, R450); a port that this frees goes on. On a port
that is held it joins the queue. One that the port keeps is not carried out again: it only brings its response again, to the sender
that asks, at once or when there is one. A malformed one is refused with status 3. That it is so at once, before the history and the
queue (log entry 84), and which commands the history keeps (log entry 90), are the model's choices. -/
def Obligations.ControlCommandsArrive : Prop :=
  ∀ (i : Instr) (h : CtlHdr) (s : State),
    (NewCommand s h i → (cpOf s h.port).busy = none → (cpOf s h.port).queue = [] → h.release = 0 → mayStart s h i = true →
      (notAllowed s i = false → exec i s = .next (pumpPorts (runBody (atFront s h i) i))) ∧
      (notAllowed s i = true → exec i s = .next (pumpPorts (answer (atFront s h i) h (opOf i) 5 0 [])))) ∧
    (NewCommand s h i → (cpOf s h.port).busy ≠ none → (∀ p, p ≠ h.port → (cpOf s p).queue = []) → h.release = 0 → Runs i s (fun t =>
      cpOf t h.port = { cpOf s h.port with
        hist := (cpOf s h.port).hist ++ [⟨h.seq, none, []⟩], queue := (cpOf s h.port).queue ++ [(i, false)] } ∧
      (∀ p, p ≠ h.port → cpOf t p = cpOf s p) ∧ KeptRegs s t [] ∧ KeptMem s t ∧ t.out = s.out)) ∧
    (hdrOf i = some h → cpOn s h.port = true → malformed i = false → ∀ x r,
      (cpOf s h.port).hist.find? (fun y => y.seq == h.seq) = some x → x.resp = some r → Runs i s (fun t =>
        t.out = s.out ++ [.resp { r with dst := h.src }] ∧ Counted s t .ctlCmdCnt_duplicate 0 1 ∧
        { t with regs := s.regs, out := s.out } = s ∧ KeptRegs s t [.ctlCmdCnt_duplicate])) ∧
    (hdrOf i = some h → cpOn s h.port = true → malformed i = false → ∀ x,
      (cpOf s h.port).hist.find? (fun y => y.seq == h.seq) = some x → x.resp = none → Runs i s (fun t =>
        t.out = s.out ∧ Counted s t .ctlCmdCnt_duplicate 0 1 ∧ KeptRegs s t [.ctlCmdCnt_duplicate] ∧ KeptMem s t ∧
        (cpOf t h.port).hist = (cpOf s h.port).hist.map (fun y => if y = x then { y with repeats := y.repeats ++ [h.src] } else y) ∧
        (∀ p, p ≠ h.port → cpOf t p = cpOf s p))) ∧
    (hdrOf i = some h → cpOn s h.port = true → malformed i = true → Runs i s (fun t =>
      t.out = s.out ++ [.resp ⟨h.port, h.src, h.seq, opOf i, h.job, 3, 0, []⟩] ∧ Counted s t .ctlCmdCnt_refused 0 1 ∧
      { t with regs := s.regs, out := s.out } = s ∧ KeptRegs s t [.ctlCmdCnt_refused])) ∧
    (hdrOf i = some h → cpOn s h.port = false → Runs i s (fun t => t = s))

/-- R32, R43 to R45, R54, R65, R68: a release tide ahead of now and within 2^max_ahead, or an eclipse of the job, holds the port until
RELEASED_COMMAND_START finds it passed (by 16 ns, R32); where the other port's held command goes first (R65) that one starts before.
One that has passed, but lies in the late window, starts and is counted late. One too far ahead or past the late window fails its
command with status 1 and code 0x0A, and is counted. That a release is tested when its command arrives (log entry 84), that a late
command too starts no earlier than 16 ns after its release (log entry 91), and that an eclipse holds REGION_REG and REGION_DEREG of its
job alone (log entry 85), are the model's choices. -/
def Obligations.ReleaseTidesHoldCommands : Prop :=
  (∀ (i : Instr) (h : CtlHdr) (s : State), NewCommand s h i → (cpOf s h.port).busy = none → (∀ p, (cpOf s p).queue = []) →
    (releaseTest s h.release.toNat = .onTime → mayStart s h i = false → Runs i s (fun t =>
      (cpOf t h.port).busy = some i ∧ (cpOf t h.port).held = true ∧ t.out = s.out ∧ KeptRegs s t [] ∧ KeptMem s t)) ∧
    (releaseTest s h.release.toNat = .onTime → mayStart s h i = true →
      exec i s = .next (pumpPorts (runCmd (atFront s h i) h i))) ∧
    (releaseTest s h.release.toNat = .late →
      (mayStart s h i = true → exec i s = .next (pumpPorts (runCmd (atFront (bump s .tideCnt_late_release) h i) h i))) ∧
      (mayStart s h i = false → Runs i s (fun t => (cpOf t h.port).busy = some i ∧ (cpOf t h.port).held = true ∧ t.out = s.out ∧
        Counted s t .tideCnt_late_release 0 1 ∧ KeptRegs s t [.tideCnt_late_release] ∧ KeptMem s t))) ∧
    (releaseTest s h.release.toNat = .refused → Runs i s (fun t =>
      Answers s t h (opOf i) 1 0x0A [] ∧ Counted s t .tideCnt_release_refused 0 1 ∧
      KeptRegs s t [.tideCnt_release_refused, .ctlCmdCnt_executed] ∧ KeptMem s t))) ∧
  (∀ (p : Cp) (s : State) (j : Instr) (g : CtlHdr), fn0Up s = true → (cpOf s p).busy = some j → hdrOf j = some g →
    (cpOf s p).held = true →
    (mayStart s g j = true → otherFirst s p = false → exec (.releasedCommandStart p) s =
      .next (pumpPorts (runCmd (setCp s p { cpOf s p with held := false }) g j))) ∧
    (mayStart s g j = true → ∀ (k : Instr) (f : CtlHdr), (cpOf s (1 - p)).busy = some k → hdrOf k = some f →
      (cpOf s (1 - p)).held = true → mayStart s f k = true → f.release < g.release ∨ (f.release = g.release ∧ p = 1) →
      exec (.releasedCommandStart p) s =
        .next (pumpPorts (startHeld (runCmd (setCp s (1 - p) { cpOf s (1 - p) with held := false }) f k) p))) ∧
    (mayStart s g j = false → (∀ q, canPump s q = false) → Runs (.releasedCommandStart p) s (fun t => t = s)))

/-- R65 to R67: an answered command's response leaves, is counted, and frees the port that the command holds; one that is accepted stays
in the port's history with its response, one that is refused leaves the history as it was. Memory and other registers are as they
were. Which 64 commands the history keeps is the model's choice (log entry 90). -/
def Obligations.AnswersLeaveAndFreeThePort : Prop :=
  ∀ (s : State) (h : CtlHdr) (i : Instr) (op status code : Nat) (words : List Word),
    (cpOf s h.port).hist.all (fun x => x.seq != h.seq) = true → hdrOf i = some h →
    let t := answer (atFront s h i) h op status code words
    Answers s t h op status code words ∧ KeptRegs s t [.ctlCmdCnt_executed, .ctlCmdCnt_refused] ∧ KeptMem s t ∧
    (∀ p, p ≠ h.port → cpOf t p = cpOf s p) ∧
    (status ≤ 1 → get t .ctlCmdCnt_executed 0 = (get s .ctlCmdCnt_executed 0 + 1) % 2 ^ Fld.ctlCmdCnt_executed.width ∧
      (cpOf t h.port).hist = keepLast (undecided (cpOf (atFront s h i) h.port)) ((cpOf s h.port).hist ++
        [⟨h.seq, some ⟨h.port, h.src, h.seq, op, h.job, status, code, words⟩, []⟩])) ∧
    (1 < status → Counted s t .ctlCmdCnt_refused 0 1 ∧ (cpOf t h.port).hist = (cpOf s h.port).hist)

/-- R69 to R71: CSR_READ answers one value for each offset and changes nothing else; CSR_WRITE carries out its writes in payload order
and answers, and what it writes to the shadows of one scope falls on one side of any apply. A register field reads as the value last
written, cut to its width, and no other field or instance is touched (the RW fields of the tables). How a CSR_WRITE with a step of the
tide among its writes keeps to one side is the model's choice (log entry 182). -/
def Obligations.CsrCommands : Prop :=
  (∀ (h : CtlHdr) (s : State),
    (∀ offs, StartsNow s h (.csrRead h offs) → Runs (.csrRead h offs) s (fun t =>
      Answers s t h 0x01 0 0 (offs.map (fun o => csrRead1 s o.toNat)) ∧ KeptRegs s t [.ctlCmdCnt_executed] ∧ KeptMem s t)) ∧
    (∀ l, StartsNow s h (.csrWrite h l) → exec (.csrWrite h l) s =
      .next (pumpPorts (answer (csrWrites h.port (atFront s h (.csrWrite h l)) l) h 0x02 0 0 [])))) ∧
  (∀ (p : Cp) (l : List (BitVec 26 × BitVec 64)) (s : State),
    let x := l.foldl (csrNext p) ⟨s, [], []⟩
    let u := l.foldl (csrWrite1 p) s
    let t := csrWrites p s l
    x.steps = [] → (∀ f i, get t f i = get u f i) ∧ (∀ a, rdByte t a = rdByte u a) ∧ t.out = u.out ∧
      (∀ f i, lastWritten t f i = lastWritten u f i) ∧
      (∀ a ∈ t.time.shadows, ∀ b ∈ t.time.shadows, (a.fld, a.idx) ∈ x.rwe → (b.fld, b.idx) ∈ x.rwe → a.scope = b.scope →
        a.held = b.held)) ∧
  (∀ (s : State) (f g : Fld) (v i j : Nat), get (put s f v i) g j = if g = f ∧ j = i then v % 2 ^ f.width else get s g j)

/-- R83 and R84: IMAGE_BEGIN opens the one load, IMAGE_DATA takes the next bytes in order (8,192 at a time but for the
last), and IMAGE_ABORT ends it; during the checks that IMAGE_END begins all three are refused with status 4. R73, R74 and R85: the
checks end the load. A foundation image that verifies is taken, and one that does not leaves the foundation as it was; a shape image
that passes its checks becomes pending, and one that does not leaves the structure and every pending image as they were, with the
reason, section and offset in `SHP_REJECT`. R98: they are made under the owner key enrolled at IMAGE_END. That the checks take until
the next TIDE_TICK (log entry 136), and that a foundation image that does not verify leaves `SHP_REJECT` alone (log entry 87), are the
model's choices. -/
def Obligations.ImagesLoadAndEnd : Prop :=
  (∀ (h : CtlHdr) (s : State),
      (∀ length mask, StartsNow s h (.imageBegin h length mask) →
        (s.ctl.load = none → Runs (.imageBegin h length mask) s (fun t =>
          t.ctl.load = some ⟨length.toNat, mask, [], 0, none, none⟩ ∧ get t .shpStat_load_state 0 = 1 ∧ get t .shpLoad_next_offset 0 = 0 ∧
          get t .shpLoad_length 0 = length.toNat ∧ Answers s t h 0x10 0 0 [] ∧ KeptMem s t ∧
          KeptRegs s t [.shpStat_load_state, .shpLoad_next_offset, .shpLoad_length, .ctlCmdCnt_executed])) ∧
        (s.ctl.load ≠ none → Runs (.imageBegin h length mask) s (fun t => t.ctl.load = s.ctl.load ∧ Answers s t h 0x10 4 0 []))) ∧
      (∀ offset words, StartsNow s h (.imageData h offset words) →
        (∀ l, s.ctl.load = some l → l.check ≠ none → Runs (.imageData h offset words) s (fun t =>
          t.ctl.load = s.ctl.load ∧ Answers s t h 0x11 4 0 [] ∧ KeptRegs s t [.ctlCmdCnt_refused])) ∧
        (∀ l, s.ctl.load = some l → l.check = none →
          let stop := offset.toNat + 8 * words.length
          (offset.toNat ≠ 8 * l.words.length → Runs (.imageData h offset words) s (fun t => t.ctl.load = s.ctl.load ∧
            Answers s t h 0x11 6 0 [BitVec.ofNat 64 (8 * l.words.length)] ∧ KeptRegs s t [.ctlCmdCnt_refused])) ∧
          (offset.toNat = 8 * l.words.length → stop ≤ l.length → (stop = l.length ∨ words.length = 1024) →
            Runs (.imageData h offset words) s (fun t => t.ctl.load = some { l with words := l.words ++ words } ∧
              get t .shpLoad_next_offset 0 = stop % 2 ^ Fld.shpLoad_next_offset.width ∧ Answers s t h 0x11 0 0 [] ∧ KeptMem s t ∧
              KeptRegs s t [.shpLoad_next_offset, .ctlCmdCnt_executed])) ∧
          (offset.toNat = 8 * l.words.length → l.length < stop ∨ (stop ≠ l.length ∧ words.length ≠ 1024) →
            Runs (.imageData h offset words) s (fun t => t.ctl.load = s.ctl.load ∧ Answers s t h 0x11 3 0 [] ∧
              KeptRegs s t [.ctlCmdCnt_refused]))) ∧
        (s.ctl.load = none → Runs (.imageData h offset words) s (fun t => Answers s t h 0x11 5 0 []))) ∧
      (StartsNow s h (.imageAbort h) → checking s = false → Runs (.imageAbort h) s (fun t => t.ctl.load = none ∧
        Answers s t h 0x13 0 0 [] ∧ KeptMem s t ∧ KeptRegs s t [.shpStat_load_state, .ctlCmdCnt_executed])) ∧
      (StartsNow s h (.imageAbort h) → checking s = true → Runs (.imageAbort h) s (fun t => t.ctl.load = s.ctl.load ∧
        Answers s t h 0x13 4 0 [])) ∧
      (∀ ld, StartsNow s h (.imageEnd h) → s.ctl.load = some ld →
        (ld.check = none → Runs (.imageEnd h) s (fun t => t.ctl.load = some { ld with
            check := some h, owner := s.fuses.owner, fnReset := ld.fnReset ||| BitVec.ofNat 9 (get s .rstStat_in_reset) } ∧
          get t .shpStat_load_state 0 = 2 ∧ t.out = s.out ∧ (cpOf t h.port).busy = some (.imageEnd h) ∧
          KeptRegs s t [.shpStat_load_state] ∧ KeptMem s t)) ∧
        (ld.check ≠ none → Runs (.imageEnd h) s (fun t => t.ctl.load = s.ctl.load ∧ Answers s t h 0x12 4 0 [])))) ∧
  (∀ (s : State) (ld : Load) (h : CtlHdr), (ticked s).ctl.load = some ld → ld.check = some h →
      let s1 := endLoad (ticked s)
      (hKind ld.words = 1 → ∀ f, checkFoundation s1 ld = some f →
        exec .tideTick s = .next (pumpPorts (answer (takeFound s1 f) h 0x12 0 0 []))) ∧
      (hKind ld.words = 1 → checkFoundation s1 ld = none → exec .tideTick s = .next (pumpPorts (answer s1 h 0x12 1 0x11 []))) ∧
      (hKind ld.words ≠ 1 → checkShape s1 ld = none → exec .tideTick s = .next (pumpPorts (answer (acceptShape s1 ld) h 0x12 0 0 []))) ∧
      (hKind ld.words ≠ 1 → ∀ r, checkShape s1 ld = some r →
        exec .tideTick s = .next (pumpPorts (answer (recordReject s1 r) h 0x12 1 0x11 [])))) ∧
  (∀ (s : State) (r : Reject), (endLoad s).ctl.load = none ∧ (endLoad s).ctl.found = s.ctl.found ∧
      (endLoad s).ctl.staged = s.ctl.staged ∧ (endLoad s).shp = s.shp ∧
      let t := recordReject s r
      get t .shpReject_reason 0 = r.reason % 2 ^ Fld.shpReject_reason.width ∧
        get t .shpReject_section 0 = r.sect % 2 ^ Fld.shpReject_section.width ∧
        get t .shpReject_offset 0 = r.off % 2 ^ Fld.shpReject_offset.width ∧
        OnlyRegs s t [.shpStat_reject_reason, .shpReject_reason, .shpReject_section, .shpReject_offset])

/-- R447, R448, R462 and R466: MOD_RESET is answered and is to take effect 10 µs later; RST_FN resets the functions of its mask that are
not in reset yet and waits for them, and is answered at once where there is none; POWER_STATE waits for its epoch, unless its
transition may not happen (status 5) or its epoch is inside the guard (status 1, code 0x0A). It replaces one that waits already, which
is answered with status 5. That it is refused while a transition is under way (log entry 83), and that an RST_FN of functions which
are all in reset is answered at once (log entry 92), are the model's choices. -/
def Obligations.ResetAndPowerCommands : Prop :=
  ∀ (h : CtlHdr) (s : State),
    (StartsNow s h (.modReset h) → s.pwr.rstWait = [] → Runs (.modReset h) s (fun t =>
      t.pwr.resetAt = some (s.pwr.resetAt.getD (s.time.ticks + 10000)) ∧ Answers s t h 0x20 0 0 [] ∧
      KeptRegs s t [.ctlCmdCnt_executed] ∧ KeptMem s t)) ∧
    (∀ mask, StartsNow s h (.rstFn h mask) →
      (powerOf s = 3 ∨ resetInProgress s = true → Runs (.rstFn h mask) s (fun t => Answers s t h 0x21 5 0 [] ∧ KeptMem s t)) ∧
      (powerOf s ≠ 3 → resetInProgress s = false → newlyReset s mask = 0 →
        Runs (.rstFn h mask) s (fun t => Answers s t h 0x21 0 0 [] ∧ KeptMem s t)) ∧
      (powerOf s ≠ 3 → resetInProgress s = false → newlyReset s mask ≠ 0 →
        let m := newlyReset s mask
        let s1 := bumpW (logEvt (enterFnReset (atFront s h (.rstFn h mask)) m.toNat) 0x002 0 0 0 m.toNat 0) .rstCnt_fn_resets
          (maskCount m)
        exec (.rstFn h mask) s =
          .next (pumpPorts (acceptCmd { s1 with pwr := { s1.pwr with rstWait := s1.pwr.rstWait ++ [(h, m)] } } h.port)))) ∧
    (∀ target epoch, StartsNow s h (.powerState h target epoch) →
      (powerOf s = 3 ∨ transOk s (powerOf s) target.toNat = false →
        Runs (.powerState h target epoch) s (fun t => t.pwr = s.pwr ∧ Answers s t h 0x22 5 0 [])) ∧
      (powerOf s ≠ 3 → transOk s (powerOf s) target.toNat = true → epoch.toNat * 65536 < s.time.tide + guardNs s →
        Runs (.powerState h target epoch) s (fun t => t.pwr = s.pwr ∧ Answers s t h 0x22 1 0x0A [])) ∧
      (powerOf s ≠ 3 → transOk s (powerOf s) target.toNat = true → s.time.tide + guardNs s ≤ epoch.toNat * 65536 →
        s.pwr.pend = none → Runs (.powerState h target epoch) s (fun t =>
          t.pwr = { s.pwr with pend := some ⟨target.toNat, epoch.toNat, h⟩ } ∧ (cpOf t h.port).busy = none ∧ t.out = s.out ∧
          KeptRegs s t [] ∧ KeptMem s t)) ∧
      (powerOf s ≠ 3 → transOk s (powerOf s) target.toNat = true → s.time.tide + guardNs s ≤ epoch.toNat * 65536 →
        ∀ x, s.pwr.pend = some x → Runs (.powerState h target epoch) s (fun t =>
          t.pwr = { s.pwr with pend := some ⟨target.toNat, epoch.toNat, h⟩ } ∧ (cpOf t h.port).busy = none ∧
          (∃ l, t.out = s.out ++ Out.resp ⟨x.hdr.port, x.hdr.src, x.hdr.seq, 0x22, x.hdr.job, 5, 0, []⟩ :: l) ∧
          Counted s t .ctlCmdCnt_refused 0 1 ∧ KeptRegs s t [.ctlCmdCnt_refused] ∧ KeptMem s t)))

/-- R94 to R98: NONCE draws a nonce and makes it valid, QUOTE signs the quote body, CERT_READ answers the certificate. OWNER_ENROLL
and OWNER_CLEAR use the nonce up; each takes one write of the key store where its signature verifies, and leaves the owner where
it does not. The nonce, the signature and the certificate are free values (log entry 7); that a use which does not verify takes no write
is the model's choice (log entry 86). -/
def Obligations.IdentityAndOwnerCommands : Prop :=
  ∀ (h : CtlHdr) (s : State),
    (StartsNow s h (.nonce h) → Runs (.nonce h) s (fun t =>
      getDigest t .secNonce_nonce = (Config.nonceDraw s.ctl.nonces).toNat ∧ get t .secStat_nonce_valid 0 = 1 ∧
      t.ctl.nonces = s.ctl.nonces + 1 ∧ Answers s t h 0x30 0 0 (padWords (toLe 32 (Config.nonceDraw s.ctl.nonces).toNat)) ∧
      KeptRegs s t [.secNonce_nonce, .secStat_nonce_valid, .ctlCmdCnt_executed] ∧ KeptMem s t)) ∧
    (∀ n, StartsNow s h (.quote h n) → Runs (.quote h n) s (fun t => t.free = s.free + 1 ∧
      Answers s t h 0x31 0 0 (padWords (quoteBody s n) ++ padWords (toBe 384 (Config.identitySign (quoteBody s n) s.free).toNat)) ∧
      KeptRegs s t [.ctlCmdCnt_executed] ∧ KeptMem s t)) ∧
    (StartsNow s h (.certRead h) → Runs (.certRead h) s (fun t =>
      Answers s t h 0x32 0 0 (BitVec.ofNat 64 (certBytes s).length :: padWords (certBytes s)) ∧ 1 ≤ (certBytes s).length ∧
      (certBytes s).length ≤ 8192 ∧
      KeptRegs s t [.ctlCmdCnt_executed] ∧ KeptMem s t)) ∧
    (∀ n m b g, StartsNow s h (.ownerEnroll h n m b g) → s.fuses.writesLeft ≠ 0 → nonceOk s n = true →
      (enrollSigOk s n m b g = true → Runs (.ownerEnroll h n m b g) s (fun t => t.fuses.owner = some m ∧
        t.fuses.writesLeft = s.fuses.writesLeft - 1 ∧ get t .secStat_nonce_valid 0 = 0 ∧ Answers s t h 0x33 0 0 [] ∧ KeptMem s t)) ∧
      (enrollSigOk s n m b g = false → Runs (.ownerEnroll h n m b g) s (fun t => t.fuses = s.fuses ∧
        get t .secStat_nonce_valid 0 = 0 ∧ Answers s t h 0x33 1 0x11 [] ∧ KeptMem s t))) ∧
    (∀ n b k m g, StartsNow s h (.ownerClear h n b k m g) → s.fuses.writesLeft ≠ 0 → nonceOk s n = true →
      (clearSigOk s n b k m g = true → Runs (.ownerClear h n b k m g) s (fun t => t.fuses.owner = none ∧
        t.fuses.writesLeft = s.fuses.writesLeft - 1 ∧ get t .secStat_nonce_valid 0 = 0 ∧ Answers s t h 0x34 0 0 [] ∧ KeptMem s t)) ∧
      (clearSigOk s n b k m g = false → Runs (.ownerClear h n b k m g) s (fun t => t.fuses = s.fuses ∧
        get t .secStat_nonce_valid 0 = 0 ∧ Answers s t h 0x34 1 0x11 [] ∧ KeptMem s t)))

/-- R325, R326 and R329: REGION_REG makes a region valid under its next generation; REGION_DEREG stops new access at once and waits;
REGION_DEREG_COMPLETE answers it under the next generation again. -/
def Obligations.RegionCommands : Prop :=
  ∀ (h : CtlHdr) (s : State),
    (∀ r, StartsNow s h (.regionReg h r) → regionRefuse s r = 0 → Runs (.regionReg h r) s (fun t =>
      let n := r.region.toNat
      let g := regionGen s n % 65535 + 1
      regValid t n = true ∧ regionGen t n = g ∧ get t .xptReg1_word n = r.base.toNat ∧ get t .xptReg2_word n = r.length.toNat ∧
      get t .xptReg0_word0 n = regionWord0 r % 2 ^ Fld.xptReg0_word0.width ∧
      Answers s t h 0x40 0 0 [BitVec.ofNat 64 (g + 2 ^ 32 * (g * 65536 + n))] ∧ KeptMem s t ∧
      (∀ k, k ≠ n → regValid t k = regValid s k ∧ regionGen t k = regionGen s k) ∧
      KeptRegs s t [.xptReg0_word0, .xptReg0_valid, .xptReg1_word, .xptReg2_word, .xptReg3_word, .xptRegcnt_registered,
        .ctlCmdCnt_executed])) ∧
    (∀ region job, StartsNow s h (.regionDereg h region job) → fnReady s 5 = true → regValid s region.toNat = true →
      regJob s region.toNat = job.toNat → Runs (.regionDereg h region job) s (fun t => regValid t region.toNat = false ∧
        t.xpt.deregs = s.xpt.deregs ++ [(region.toNat, h)] ∧ t.out = s.out ∧ KeptMem s t ∧
        KeptRegs s t [.xptReg0_valid, .xptRegcnt_registered])) ∧
    (∀ region x, s.xpt.deregs.find? (fun x => x.1 == region.toNat) = some x →
      let s1 := raiseGen { s with xpt := { s.xpt with deregs := s.xpt.deregs.filter (fun y => decide (y ≠ x)) } } x.1
      exec (.regionDeregComplete region) s =
        .next (pumpPorts (answer s1 x.2 0x41 0 0 [BitVec.ofNat 64 (regionGen s1 x.1)])))

/-- R134 to R137: a DOORBELL reads its launch records. Records that are all clean, resident and within the room of
their queues each join the queues they name, and the command is answered; else the first check that fails refuses all
of them, and the state is that of the read. R386, R388 and R389: COMMIT and ROLLBACK of a job with an entry wait for their epoch
and show in the job's state; without an entry they are refused with status 5. One for a job that has one pending replaces it, and the
replaced command is answered with status 5. Which of several checks answers a DOORBELL is the model's choice (log entry 139). -/
def Obligations.DoorbellsAndCommitsQueue : Prop :=
  (∀ (h : CtlHdr) (a : BitVec 46) (n : BitVec 9) (s : State), StartsNow s h (.doorbell h a n) →
      a.toNat + 64 * n.toNat ≤ variantHbmBytes s.fuses.variant → fnReady s 7 = true →
      let i := Instr.doorbell h a n
      let r := readMem (atFront s h i) a.toNat (64 * n.toNat)
      let recs := (List.range n.toNat).map (fun i => padWords ((r.2.2.drop (64 * i)).take 64))
      r.2.1 = none →
        (recsRefuse r.1 recs = 0 → exec i s = .next (pumpPorts (answer (recs.foldl queueRecord r.1) h 0x50 0 0 []))) ∧
        (recsRefuse r.1 recs ≠ 0 → exec i s = .next (pumpPorts (answer r.1 h 0x50 (recsRefuse r.1 recs) 0 [])))) ∧
  (∀ x ∈ ([(Instr.commit, true), (Instr.rollback, false)] :
        List ((CtlHdr → BitVec 32 → BitVec 8 → Bool → BitVec 48 → Instr) × Bool)),
    ∀ (h : CtlHdr) (step : BitVec 32) (ctc : BitVec 8) (en : Bool) (epoch : BitVec 48) (s : State),
      let i := x.1 h step ctc en epoch
      StartsNow s h i →
      (jobEntry s h.job.toNat = none → Runs i s (fun t => t.ctl.commits = s.ctl.commits ∧
        Answers s t h (if x.2 then 0x60 else 0x61) 5 0 [] ∧ KeptMem s t)) ∧
      (∀ j, jobEntry s h.job.toNat = some j → mget none s.ctl.commits h.job.toNat = none → Runs i s (fun t =>
        mget none t.ctl.commits h.job.toNat = some ⟨x.2, step, ctc, en, epoch, h⟩ ∧
        get t .grdJobb_state j = (if x.2 then 2 else 3) ∧ (cpOf t h.port).busy = none ∧ KeptMem s t ∧
        (∀ k, k ≠ h.job.toNat → mget none t.ctl.commits k = mget none s.ctl.commits k))) ∧
      (∀ j c, jobEntry s h.job.toNat = some j → mget none s.ctl.commits h.job.toNat = some c → Runs i s (fun t =>
        mget none t.ctl.commits h.job.toNat = some ⟨x.2, step, ctc, en, epoch, h⟩ ∧
        get t .grdJobb_state j = (if x.2 then 2 else 3) ∧ (cpOf t h.port).busy = none ∧ KeptMem s t ∧
        (∃ l, t.out = s.out ++
          Out.resp ⟨c.hdr.port, c.hdr.src, c.hdr.seq, if c.isCommit then 0x60 else 0x61, c.hdr.job, 5, 0, []⟩ :: l) ∧
        (∀ k, k ≠ h.job.toNat → mget none t.ctl.commits k = mget none s.ctl.commits k))))

/-- R59, R63, R64 and R66: frames that are no command. A malformed frame is answered with status 3 and an unknown opcode with status
2; runts, fragments, oversize frames and frames on the wrong kind of port are only counted. R99: a write of `CTL_PORT` that would leave
both control ports off leaves the one that it came by on. Which of these frames count while their port is disabled is the model's choice
(log entry 98). -/
def Obligations.FramesThatAreNoCommand : Prop :=
  ∀ (s : State),
    (∀ x ∈ ([(Instr.controlFrameMalformed, 3), (Instr.unknownOpcode, 2)] : List ((Cp → Datagram → Instr) × Nat)),
      ∀ (p : Cp) (src : NetAddr) (frame : Bytes) (h : CtlHdr) (op : Nat), cpOn s p = true →
        readFrame p src frame = .refused h op x.2 → Runs (x.1 p ⟨src, frame⟩) s (fun t =>
        t.out = s.out ++ [.resp ⟨p, src, h.seq, op, h.job, x.2, 0, []⟩] ∧ Counted s t .ctlCmdCnt_refused 0 1 ∧
        { t with regs := s.regs, out := s.out } = s ∧ KeptRegs s t [.ctlCmdCnt_refused])) ∧
    (∀ p : Cp, cpOn s p = true → Runs (.runtDatagramRx p) s (fun t => Counted s t .ctlRxerr_runt 0 1 ∧
      OnlyRegs s t [.ctlRxerr_runt])) ∧
    (∀ x ∈ ([(Instr.ipFragmentRx, .ctlRxerr_fragments), (Instr.oversizeFrameRx, .ctlRxerr_oversize),
        (Instr.dataPacketOnControlPort, .ctlDrop_data_on_cp)] : List ((Cp → Instr) × Fld)),
      ∀ p : Cp, fn0Up s = true → Runs (x.1 p) s (fun t => Counted s t x.2 0 1 ∧ OnlyRegs s t [x.2])) ∧
    (∀ p : Port, fn0Up s = true → fnReady s 8 = true → portPresent s p.val = true →
      Runs (.controlFrameOnDataPort p) s (fun t => Counted s t .ctlDrop_ctl_on_data 0 1 ∧ OnlyRegs s t [.ctlDrop_ctl_on_data])) ∧
    (∀ p : Cp, fn0Up s = true → ∀ v : BitVec 64, Runs (.cpEnableWrite p v) s (fun t =>
      get t .ctlPort_udp_port 0 = v.toNat % 65536 ∧
      (v.getLsbD 16 = true ∨ v.getLsbD 17 = true → get t .ctlPort_cp0_en 0 = bit (v.getLsbD 16) ∧
        get t .ctlPort_cp1_en 0 = bit (v.getLsbD 17)) ∧
      (v.getLsbD 16 = false → v.getLsbD 17 = false → get t .ctlPort_cp0_en 0 = bit (decide (p.val = 0)) ∧
        get t .ctlPort_cp1_en 0 = bit (decide (p.val = 1))) ∧
      OnlyRegs s t [.ctlPort_udp_port, .ctlPort_cp0_en, .ctlPort_cp1_en]))

/-! ### Resets, pins and power -/

/-- R461, R479, R484, R488 and R493: once J3 reaches its threshold everything but fuses and key store is at its reset value and memory
reads zero, ALERT_N is released and TIDE_PPS_OUT is high; the rails come into regulation, and the sequence starts with cause 0. Below
the threshold nothing happens. -/
def Obligations.PowerOnStartsClean : Prop :=
  ∀ (s : State),
    (∀ (v : BitVec 13) (a1 a0 : Bool), 4600 ≤ v.toNat → Runs (.powerAppliedAtJ3 v a1 a0) s (fun t =>
      t.fuses = s.fuses ∧ t.pending = s.pending ∧ (∀ a, rdByte t a = 0) ∧ get t .rstStat_ready 0 = 0 ∧
      (∀ (f : Fld) (i : Nat), f ≠ .rstStat_ready → get t f i = fldReset s.fuses f i) ∧
      t.cores = [] ∧ t.lnk = [] ∧ t.med = [] ∧ t.ecc = [] ∧ t.mmu = MmuSt.init ∧ t.col = ColSt.init ∧ t.num = NumSt.init ∧
      t.shp = ShapeSt.init ∧ t.ctl = { State.reset.ctl with nonces := s.ctl.nonces } ∧ t.time = State.reset.time ∧ t.evt = State.reset.evt ∧
      t.out = s.out ++ [.pin 0 true, .pin 1 true] ∧ t.pwr.waking = true ∧
      t.pwr.stage = 6 ∧ t.pwr.input = true ∧ t.pwr.rails = false ∧ t.pwr.straps.getLsbD 0 = a0 ∧ t.pwr.straps.getLsbD 1 = a1)) ∧
    (∀ (v : BitVec 13) (a1 a0 : Bool), v.toNat < 4600 → Runs (.powerAppliedAtJ3 v a1 a0) s (fun t => t = s)) ∧
    (s.pwr.input = true → s.pwr.rails = false → Runs .railsInRegulation s (fun t =>
      t = { s with pwr := { s.pwr with rails := true } })) ∧
    (s.pwr.stage = 6 → s.pwr.rails = true → s.pwr.holds.refclk = false → s.pwr.holds.pin = false → Runs .powerOn s (fun t =>
      t.pwr.stage = 5 ∧ get t .rstStat_cause 0 = 0 ∧ KeptMem s t ∧ t.ctl.staged = none ∧
      t.ctl.found = (match s.ctl.staged with
        | some f => some f
        | none => s.ctl.found) ∧
      KeptRegs s t [.rstStat_cause, .secStat_found_active, .secStat_found_slot, .secStat_found_svn, .secStat_found_staged,
        .secFmeas_digest])) ∧
    (s.pwr.stage ≠ 6 → Runs .powerOn s (fun t => t = s))

/-- R464, R72 and R484: each row of the reset sequence makes its functions ready, in the order FN0; FN8; FN1 to FN4 and FN7; FN5; FN6.
TIDE_PPS_OUT falls when FN0 is ready after power-on. FN1 to FN8 wait for a foundation image, and for every pin, trip and fault to end.
At which row each ready bit sets, FN8's among them, is the model's choice (log entry 108). -/
def Obligations.ResetSequenceRows : Prop :=
  ∀ (s : State),
    (s.pwr.stage = 5 → s.pwr.holds.pin = false → Runs .resetSequenceStage s (fun t => t.pwr.stage = 4 ∧ fnReady t 0 = true ∧
      (∀ n < 9, n ≠ 0 → fnReady t n = fnReady s n) ∧ t.out = s.out ++ (if s.pwr.waking then [.pin 1 false] else []) ∧
      t.pwr.waking = false ∧ OnlyRegs s { t with pwr := s.pwr, out := s.out } [.rstStat_ready])) ∧
    (s.pwr.stage = 4 → s.ctl.found ≠ none → noHolds s = true → Runs .resetSequenceStage s (fun t => t.pwr.stage = 3 ∧
      fnReady t 8 = true ∧ inReset t 7 = false ∧ inReset t 8 = false ∧ (∀ n < 7, inReset t n = inReset s n) ∧
      KeptRegs s t [.rstStat_ready, .rstStat_in_reset, .lnkPstat_state] ∧ KeptMem s t)) ∧
    (s.pwr.stage = 4 → s.ctl.found = none → Runs .resetSequenceStage s (fun t => t = s)) ∧
    (s.pwr.stage = 3 → noHolds s = true → Runs .resetSequenceStage s (fun t => t.pwr.stage = 2 ∧
      (∀ n ∈ [1, 2, 3, 4, 7], fnReady t n = true) ∧ (∀ n ∈ [1, 2, 3, 4], inReset t n = false) ∧
      OnlyRegs s { t with pwr := s.pwr } [.rstStat_ready, .rstStat_in_reset])) ∧
    (s.pwr.stage = 2 → noHolds s = true → Runs .resetSequenceStage s (fun t => t.pwr.stage = 1 ∧ fnReady t 5 = true ∧
      inReset t 5 = false ∧ OnlyRegs s { t with pwr := s.pwr } [.rstStat_ready, .rstStat_in_reset])) ∧
    (s.pwr.stage = 1 → noHolds s = true → Runs .resetSequenceStage s (fun t => t.pwr.stage = 0 ∧ fnReady t 6 = true ∧
      inReset t 6 = false ∧ KeptRegs s t (.rstStat_ready :: .rstStat_in_reset :: eventFlds) ∧ KeptMem s t)) ∧
    (1 ≤ s.pwr.stage → s.pwr.stage ≤ 4 → noHolds s = false → Runs .resetSequenceStage s (fun t => t = s))

/-- R460, R462, R463, R479, R480 and R486: HOLD_N, MOD_RESET, thermal trips, input faults and loss of REFCLK each reset the module with
their cause (HOLD_N's is shown when it is released). Pins, trips and faults are held until they end, and ResetSequenceRows says what
they hold; an input fault or a loss of REFCLK before power-on is held too. That the voltage's fault ends before that of REFCLK where
both stand is the model's choice (log entry 191), and so is that the end of a trip leaves the I/O dies' reading to the board (log entry
175). -/
def Obligations.CausesResetTheModule : Prop :=
  ∀ (s : State),
    (s.pwr.holds.pin = false → powered s = true → Runs .holdNAssert s (fun t =>
      t.pwr.holds = { s.pwr.holds with pin := true } ∧ get t .rstStat_in_reset 0 = 0x1FE ∧ get t .rstStat_ready 0 = 0 ∧
      (∀ a, rdByte t a = 0) ∧ t.pwr.stage = 5)) ∧
    (s.pwr.holds.pin = true → powered s = true → Runs .holdNRelease s (fun t =>
      t.pwr.holds = { s.pwr.holds with pin := false } ∧ t.pwr.stage = 5 ∧ get t .rstStat_cause 0 = 1 ∧
      Counted s t .rstCnt_module_resets 0 1 ∧ KeptMem s t)) ∧
    (∀ n, s.pwr.resetAt = some n →
      (n ≤ s.time.ticks → Runs .modResetTakesEffect s (fun t => WasReset s t 2 ∧ t.pwr.holds = s.pwr.holds)) ∧
      (s.time.ticks < n → Runs .modResetTakesEffect s (fun t => t = s))) ∧
    (∀ (x : Sensor) (temp : BitVec 8), tripAt x ≤ temp.toNat → powered s = true → s.pwr.holds.thermal = false →
      Runs (.thermalTrip x temp) s (fun t => WasReset s t 3 ∧ t.pwr.holds = { s.pwr.holds with thermal := true } ∧
        (x = .io → get t .pwrTemp_io 0 = temp.toNat))) ∧
    (Runs .thermalTripCleared s (fun t => t.pwr = { s.pwr with holds := { s.pwr.holds with thermal := false } } ∧
      get t .pwrTemp_io 0 = 0 ∧ OnlyRegs s { t with pwr := s.pwr } [.pwrTemp_io])) ∧
    (∀ v : BitVec 13, v.toNat < 4400 ∨ 5700 < v.toNat → powered s = true → s.pwr.holds.input = false →
      Runs (.inputFault v) s (fun t => WasReset s t 4 ∧ t.pwr.holds = { s.pwr.holds with input := true })) ∧
    (powered s = false → s.pwr.holds.input = false → ∀ v : BitVec 13, v.toNat < 4400 ∨ 5700 < v.toNat →
      Runs (.inputFault v) s (fun t => t = { s with pwr := { s.pwr with holds := { s.pwr.holds with input := true } } })) ∧
    (powered s = false → s.pwr.holds.refclk = false →
      Runs .refclkLoss s (fun t => t = { s with pwr := { s.pwr with holds := { s.pwr.holds with refclk := true } } })) ∧
    (s.pwr.holds.refclk = false → powered s = true → Runs .refclkLoss s (fun t =>
      WasReset s t 4 ∧ t.pwr.holds = { s.pwr.holds with refclk := true })) ∧
    (Runs .inputRecovered s (fun t =>
      t = { s with pwr := { s.pwr with holds := if s.pwr.holds.input then { s.pwr.holds with input := false }
        else { s.pwr.holds with refclk := false } } }))

/-- R5 and R469: a module reset returns every register field to its reset value but those that the map says are kept through it, and
keeps those. `RST_STAT` shows the reset itself. -/
def Obligations.ModuleResetKeepsWhatItNames : Prop :=
  ∀ (s : State) (f : Fld) (i : Nat) (r : RegRow) (x : FldRow), regsFit s.regs → homeOf f.ctorIdx = some (r, x) →
    f ≠ .rstStat_in_reset → f ≠ .rstStat_ready →
    get (enterModuleReset s) f i = if x.keep = .all then get s f i else fldReset s.fuses f i

/-- R466 and R468: a function whose reset has run its time leaves reset and is ready, and the RST_FN commands that waited for it are
answered. R448 to R452: a transition that is under way ends in its target state, is logged and answered; one out of Park ends once the
reset sequence has run. -/
def Obligations.ResetsAndTransitionsEnd : Prop :=
  ∀ (s : State),
    (∀ fn : Fn, inReset s fn.val = true → s.pwr.rstWait.any (fun x => x.2.getLsbD fn.val) = true →
      let s1 := makeReady (leaveReset s [fn.val]) [fn.val]
      let s2 := if fn.val = 8 then trainAll s1 else s1
      let s3 := if s2.shp.anyActive then put s2 .shpStat_stale_fn (get s2 .shpStat_stale_fn ||| 2 ^ fn.val) else s2
      Runs (.functionResetComplete fn) s (fun t => t = answerRsts s3 ∧ inReset s3 fn.val = false ∧ fnReady s3 fn.val = true ∧
        (∀ n < 9, n ≠ fn.val → inReset s3 n = inReset s n ∧ fnReady s3 n = fnReady s n))) ∧
    (∀ fn : Fn, inReset s fn.val = false ∨ s.pwr.rstWait.all (fun x => !x.2.getLsbD fn.val) = true →
      Runs (.functionResetComplete fn) s (fun t => t = s)) ∧
    (∀ p, s.pwr.active = some p → (s.pwr.prev = 2 → s.pwr.stage = 0) → Runs .powerTransitionDone s (fun t =>
      t = answer (logEvt (put (enterState { s with pwr := { s.pwr with active := none } } s.pwr.prev p.target) .pwrStat_state p.target)
        0x003 0 0 0 p.target s.pwr.prev) p.hdr 0x22 0 0 [] ∧
      get t .pwrStat_state 0 = p.target % 4 ∧ t.pwr.active = none ∧ t.fuses = s.fuses)) ∧
    (s.pwr.active = none → Runs .powerTransitionDone s (fun t => t = s)) ∧
    (∀ p, s.pwr.active = some p → s.pwr.prev = 2 → s.pwr.stage ≠ 0 → Runs .powerTransitionDone s (fun t => t = s))

/-- R453 to R458: each sample of the input is kept and added to the energy, and one above 110 % of the cap holds issue
for 1 µs; the mean of the last ten is compared with the cap, and in mode 0 the target clock steps down above it and up
below 97 % of it. In mode 1 the hold level rises and falls by one, issue is held 625 ns for each level, and every die that no limit
holds runs at the set clock. At an epoch want_lower shows whether issue was held in more than want_frac sixteenths of the interval, and
a rise of it is counted and logged. How long a supply current excursion lasts is the model's choice (log entry 25). R269 and R459: a die at 95 °C or above steps its clock down and is in a thermal excursion; a die
above its supply current limit steps down; a stack's temperature is shown, with its refresh doubled above 85 °C. -/
def Obligations.PowerFollowsCapAndTemperature : Prop :=
  (∀ (s : State), fn0Up s = true →
      (∀ w v : BitVec 13, Runs (.pwrSample w v) s (fun t =>
        t.pwr.samples = (w.toNat :: s.pwr.samples).take 10 ∧ t.pwr.total = s.pwr.total + w.toNat ∧
        get t .pwrMeas_volts 0 = v.toNat ∧ t.pwr.uj = (s.pwr.uj + w.toNat) % 1000 ∧
        get t .pwrEnergy_mj 0 = (get s .pwrEnergy_mj 0 + (s.pwr.uj + w.toNat) / 1000) % 2 ^ Fld.pwrEnergy_mj.width ∧
        (11 * capOf s < 10 * w.toNat → s.time.ticks + 1000 ≤ t.pwr.holdEnd ∧ Counted s t .pwrThr_guard_holds 0 1) ∧
        (10 * w.toNat ≤ 11 * capOf s → t.pwr.holdEnd = s.pwr.holdEnd) ∧
        KeptRegs s t [.pwrMeas_volts, .pwrEnergy_mj, .pwrThr_guard_holds] ∧ KeptMem s t)) ∧
      (s.pwr.samples ≠ [] →
        let n := s.pwr.samples.length
        let sum := s.pwr.samples.sum
        Runs .pwrCompare s (fun t =>
          get t .pwrMeas_power 0 = sum / n % 2 ^ Fld.pwrMeas_power.width ∧
          (get s .pwrCtl_mode 0 = 0 → n * capOf s < sum → get t .pwrStat_target 0 = (get s .pwrStat_target 0 - 1) % 64 ∨
            get s .pwrStat_target 0 = 0) ∧
          (get s .pwrCtl_mode 0 = 0 → 100 * sum < 97 * n * capOf s → get s .pwrStat_target 0 < clkMax s →
            get t .pwrStat_target 0 = get s .pwrStat_target 0 + 1) ∧
          (get s .pwrCtl_mode 0 ≠ 0 → get s .pwrStat_hold 0 ≤ 15 → get t .pwrStat_target 0 = get s .pwrStat_target 0 ∧
            get t .pwrStat_hold 0 = (if n * capOf s < sum then min 15 (get s .pwrStat_hold 0 + 1)
              else if 100 * sum < 97 * n * capOf s then get s .pwrStat_hold 0 - 1 else get s .pwrStat_hold 0) ∧
            t.pwr.holdEnd = max s.pwr.holdEnd (s.time.ticks + 625 * get t .pwrStat_hold 0) ∧
            (get s .pwrStat_die_clk 0 < 2 ^ 24 → ∀ d < 4, s.pwr.hotDie.getLsbD d = false → overNow s d = false →
              dieClk t d = min (min (get s .pwrClk_set 0) 60) (clkMax s))) ∧
          KeptRegs s t [.pwrMeas_power, .pwrStat_target, .pwrStat_hold, .pwrStat_die_clk, .pwrThr_cap_steps] ∧ KeptMem s t))) ∧
  (∀ (s : State),
      let held := s.pwr.heldNs - (s.pwr.holdEnd - s.time.ticks)
      let want : Bool := decide (65536 * get s .pwrCtl_want_frac 0 < 16 * held)
      let t := wantLower s
      get t .pwrStat_want_lower 0 = (if want then 1 else 0) ∧ t.pwr.heldNs = s.pwr.heldNs - held ∧
        (want = false ∨ get s .pwrStat_want_lower 0 ≠ 0 → OnlyRegs s { t with pwr := s.pwr } [.pwrMeas_interval, .pwrStat_want_lower]) ∧
        (want = true → get s .pwrStat_want_lower 0 = 0 → Counted s t .pwrThr_want_events 0 1 ∧
          (get s .evtStat_unread 0 < 1024 → get t .evtStat_unread 0 = get s .evtStat_unread 0 + 1) ∧
          KeptRegs s t (.pwrMeas_interval :: .pwrStat_want_lower :: .pwrThr_want_events :: eventFlds) ∧ KeptMem s t)) ∧
  (∀ (s : State),
      (∀ (d : Die) (temp : BitVec 8), fn0Up s = true → 95 ≤ temp.toNat → Runs (.thermalStepDown d temp) s (fun t =>
        t.pwr.hotDie.getLsbD d.val = true ∧ get t .pwrStat_thermal 0 = 1 ∧
        (dieClk s d.val ≠ 0 → Counted s t .pwrThr_thermal_steps 0 1) ∧
        (get s .pwrStat_die_clk 0 < 2 ^ 24 → dieClk t d.val = dieClk s d.val - 1) ∧ KeptMem s t ∧
        KeptRegs s t (.pwrTemp_die :: .pwrStat_thermal :: .pwrStat_die_clk :: .pwrThr_thermal_steps :: eventFlds))) ∧
      (∀ d : Die, fn0Up s = true → Runs (.currentStepDown d) s (fun t =>
        t.pwr.overDie.getLsbD d.val = true ∧ (dieClk s d.val ≠ 0 → Counted s t .pwrThr_thermal_steps 0 1) ∧
        (get s .pwrStat_die_clk 0 < 2 ^ 24 → dieClk t d.val = dieClk s d.val - 1) ∧ KeptMem s t ∧
        KeptRegs s t (.pwrStat_die_clk :: .pwrThr_thermal_steps :: eventFlds))) ∧
      (∀ (k : Fin 20) (temp : BitVec 8), fnReady s 7 = true → k.val < variantStacks s.fuses.variant →
        Runs (.hbmTempThreshold k temp) s (fun t => get t .hbmStack_temp k.val = temp.toNat ∧
          get t .hbmStack_hot k.val = (if 85 < temp.toNat then 1 else 0) ∧ KeptMem s t ∧
          (∀ j, j ≠ k.val → get t .hbmStack_temp j = get s .hbmStack_temp j ∧ get t .hbmStack_hot j = get s .hbmStack_hot j) ∧
          KeptRegs s t (.hbmStack_temp :: .hbmStack_hot :: .pwrTemp_hbm :: eventFlds))))

/-- The opcode table (05) and R471: EVENT logs a program event with imm[31:0], its job and its core, where the log has
room. R471 to R474 and R484: an event takes the next entry of the ring and counts as unread, or is counted as lost
while the ring holds 1,024 unread; of two entries of one tide that of the lower function, or of the lower core, stands first.
`EVT_TAIL` gives entries back, and a write of 1 to alert releases ALERT_N. That the clk which R472 speaks of is one value of the tide is
the model's choice (log entry 190). -/
def Obligations.EventsAreLogged : Prop :=
  (∀ (c : Core) (sl : Slot) (f : RegForm) (s : State) (k : Task), taskOf s c sl = some k → IssuesReg s c sl 0x04 f →
      get s .evtStat_unread < 1024 →
      let w := evtWords s 0x020 (coreFn c) k.launch.job ((k.tag.map (·.2)).getD 0) (f.imm.toNat % 2 ^ 32) c
      Runs (.event c sl f) s (fun t =>
        (LoggedLast s w → mget [0, 0, 0, 0] t.evt (get s .evtHead_head) = w ∧
          ∀ i, i ≠ get s .evtHead_head → mget [0, 0, 0, 0] t.evt i = mget [0, 0, 0, 0] s.evt i) ∧
        get t .evtHead_head = (get s .evtHead_head + 1) % 1024 ∧ get t .evtStat_unread = get s .evtStat_unread + 1 ∧
        Moved s t c sl 1 ∧ (∀ r, sregOf t c sl r = sregOf s c sl r) ∧ KeptMem s t)) ∧
  (∀ (s : State),
      (∀ code fn job step d0 d1 : Nat, get s .evtStat_unread 0 < 1024 →
        let t := logEvt s code fn job step d0 d1
        let w := evtWords s code fn job step d0 d1
        let h := get s .evtHead_head 0
        let p := mget [0, 0, 0, 0] s.evt ((h + 1023) % 1024)
        (LoggedLast s w → mget [0, 0, 0, 0] t.evt h = w ∧ ∀ i, i ≠ h → mget [0, 0, 0, 0] t.evt i = mget [0, 0, 0, 0] s.evt i) ∧
        (h < 1024 → get s .evtStat_unread 0 = 1 → evtBefore w p = true → mget [0, 0, 0, 0] t.evt h = p ∧
          mget [0, 0, 0, 0] t.evt ((h + 1023) % 1024) = w) ∧
        get t .evtStat_unread 0 = get s .evtStat_unread 0 + 1 ∧ get t .evtHead_head 0 = (get s .evtHead_head 0 + 1) % 1024 ∧
        (alertCode s code = true → get t .evtStat_alert 0 ≠ 0) ∧ KeptRegs s t eventFlds ∧ KeptMem s t) ∧
      (∀ code fn job step d0 d1 : Nat, 1024 ≤ get s .evtStat_unread 0 →
        let t := logEvt s code fn job step d0 d1
        t.evt = s.evt ∧ Counted s t .evtStat_lost 0 1 ∧ get t .evtStat_full 0 = 1 ∧ OnlyRegs s t [.evtStat_lost, .evtStat_full]) ∧
      (∀ tail : BitVec 10, fn0Up s = true →
        let d := (tail.toNat + 1024 - get s .evtTail_tail 0) % 1024
        (d ≠ 0 → d ≤ get s .evtStat_unread 0 → Runs (.evtTailWrite tail) s (fun t => get t .evtTail_tail 0 = tail.toNat ∧
          get t .evtStat_unread 0 = (get s .evtStat_unread 0 - d) % 2048 ∧ get t .evtStat_full 0 = 0 ∧
          OnlyRegs s t [.evtTail_tail, .evtStat_unread, .evtStat_full])) ∧
        (d = 0 ∨ get s .evtStat_unread 0 < d → Runs (.evtTailWrite tail) s (fun t => t = s))) ∧
      (fn0Up s = true → get s .evtStat_alert 0 ≠ 0 → Runs .evtAlertClear s (fun t => get t .evtStat_alert 0 = 0 ∧
        t.out = s.out ++ [.pin 0 true] ∧ { t with regs := s.regs, out := s.out } = s ∧ KeptRegs s t [.evtStat_alert])))

/-- R488 to R490: once its rails are in regulation the SMBus target, at the address that its straps give, answers each of the read
commands of R489 with its bytes, any other command with bytes of 0xFF, and NAKs writes; nothing but what leaves the module changes.
The polynomial of the packet error code is log entry 169. -/
def Obligations.SmbusTargetAnswers : Prop :=
  ∀ (s : State), s.pwr.rails = true →
    (∀ x ∈ ([(.smbStatusRead, 0x00, 1), (.smbVoltageRead, 0x01, 2), (.smbPowerRead, 0x02, 2), (.smbPowerIntervalRead, 0x03, 2),
        (.smbEnergyRead, 0x04, 8), (.smbTemperatureRead, 0x10, 8), (.smbIdentityRead, 0x20, 32)] : List (Instr × Nat × Nat)),
      ∃ b : Bytes, smbAnswer s x.2.1 = some b ∧ b.length = x.2.2 ∧
        Runs x.1 s (fun t => t = { s with out := s.out ++ [.smb (0x58 + s.pwr.straps.toNat) x.2.1 (b.map (·.toNat))
          (smbPec s x.2.1 (decide (2 < x.2.2)) b)] })) ∧
    (∀ cmd len : BitVec 8, smbAnswer s cmd.toNat = none → Runs (.smbUnknownRead cmd len) s (fun t =>
      t = { s with out := s.out ++ [.smb (0x58 + s.pwr.straps.toNat) cmd.toNat (List.replicate len.toNat 0xFF)
        (smbPec s cmd.toNat false (List.replicate len.toNat 0xFF))] })) ∧
    (∀ cmd : BitVec 8, Runs (.smbWriteRefused cmd) s (fun t => t = { s with out := s.out ++ [.smbNak (0x58 + s.pwr.straps.toNat) cmd.toNat] }))

/-! ### Tide and epochs -/

/-- R28 to R30, R32, R46, R51 and R57: a tick adds 1 ns and the frequency correction to the tide and its fraction, and nothing else
happens in it where nothing waits for one; an epoch boundary runs once the tide is 16 ns past it, each in its turn; a slot boundary
is seen once. At a boundary the counter snapshots are taken and the interval's want_lower is settled first, then every named epoch
that has come applies, in the order of the epochs, the module before the jobs and these ascending (R87 says so of shape images), and then a power transition
starts (R447 and R457 name the boundary for it and for want_lower). The order of all these effects at one boundary, shadows and COMMITs
among them, is the model's choice (log entry 81); so are what else a tick takes up (log entries 47, 136, 157, 161 and 189), and that
boundaries which pass while function 0 is in reset have no effect (log entry 82). -/
def Obligations.TideCountsAndBoundariesRun : Prop :=
  ∀ (s : State),
    (s.time.tide + 2 < 2 ^ 64 → s.time.frac < 2 ^ 32 → -freqRange ≤ s.time.freq → s.time.freq ≤ freqRange →
      let t := tickTime s.time
      (t.tide : Int) * 2 ^ 32 + t.frac = (s.time.tide : Int) * 2 ^ 32 + s.time.frac + 2 ^ 32 + s.time.freq ∧
      t.frac < 2 ^ 32 ∧ t.ticks = s.time.ticks + 1 ∧
      { t with tide := s.time.tide, frac := s.time.frac, ticks := s.time.ticks } = s.time) ∧
    (checking (ticked s) = false → exec .tideTick s = .next (ticked s)) ∧
    (s.col.held = [] → armedTemplates s = [] → s.mmu.moves = [] → (∀ e ∈ s.lnk, e.2.txBuf = []) → checking s = false →
      s.num.due = [] → Runs .tideTick s (fun t => t = { s with
        time := tickTime s.time, num := { s.num with fresh := [], base := [], worst := none } })) ∧
    (s.time.lastEpoch < effTide s / 65536 →
      (fn0Up s = true →
        let e := s.time.lastEpoch + 1
        let u := takeSnapshots s e
        let v := wantLower u
        (∀ c < 192, fnReady s (coreFn c) = true →
          get u .coreSnapIssued_slots c = sumEight s .coreArrIssued_slots c % 2 ^ Fld.coreSnapIssued_slots.width ∧
          get u .coreSnapGated_slots c = sumEight s .coreArrGated_slots c % 2 ^ Fld.coreSnapGated_slots.width ∧
          get u .coreSnapEpoch_epoch c = e % 2 ^ Fld.coreSnapEpoch_epoch.width ∧
          (∀ i < 13, get u .coreIsnapP_clk (13 * c + i) = get s .coreIdleP_clk (13 * c + i) % 2 ^ Fld.coreIsnapP_clk.width ∧
            get u .coreIsnapF_clk (13 * c + i) = get s .coreIdleF_clk (13 * c + i) % 2 ^ Fld.coreIsnapF_clk.width)) ∧
        KeptMem s u ∧ { u with regs := s.regs } = s ∧
        ∃ l : List (Nat × Nat), l.Perm (dueScopes s e) ∧ l.Pairwise (fun a b => dueRank a ≤ dueRank b) ∧ exec .epochBoundary s =
          .next (retryHeld (powerAtEpoch (l.foldl (fun z x => scopeAtEpoch z x.1)
            { v with time := { v.time with lastEpoch := e } }) e))) ∧
      (fn0Up s = false → Runs .epochBoundary s (fun t =>
        t = { s with time := { s.time with lastEpoch := s.time.lastEpoch + 1 } }))) ∧
    (effTide s / 65536 ≤ s.time.lastEpoch → Runs .epochBoundary s (fun t => t = s)) ∧
    (∀ (k : Fin 8) (b : Nat), fn0Up s = true → slotDue s k.val = some b → Runs (.slotBoundary k) s (fun t =>
      mget 0 t.time.slotAt k.val = b + 1 ∧ mget 0 t.time.slotN k.val = mget 0 s.time.slotN k.val + 1 ∧
      slotDue t k.val = none ∧ { t with time := s.time, col := s.col } = s)) ∧
    (∀ k : Fin 8, slotDue s k.val = none → Runs (.slotBoundary k) s (fun t => t = s))

/-- R48 to R50 and R53: an epoch named for a job or for the module outside the guard is named; one inside it is named but late, and is
counted; one that has passed puts the scope into eclipse. Naming lets go of held shadows; a cancel leaves no epoch named. R53 and R56: at
a late epoch the scope enters eclipse and nothing applies; at one in time its eclipse ends, unless an image or a layout of it must wait.
R52, R89 and R90: a shape image whose jobs are quiescent is laid into the functions of its mask that are not in reset, and is
measured; otherwise its scope enters eclipse and it stays pending. -/
def Obligations.EpochsAreNamed : Prop :=
  (∀ (s : State) (epoch : BitVec 48) (job : BitVec 12) (m : Bool), fn0Up s = true →
      let sc := scopeId job.toNat m
      let shown (t : State) (arm : Nat) : Prop := get t .tideApply_epoch 0 = epoch.toNat ∧ get t .tideApply_job 0 = job.toNat ∧
        get t .tideApply_scope 0 = (if m then 1 else 0) ∧ get t .tideApply_arm 0 = arm ∧
        ∀ h ∈ t.time.shadows, h.scope = sc → h.held = false
      (s.time.tide + guardNs s ≤ 65536 * epoch.toNat → Runs (.tideApplyArm epoch job m) s (fun t => shown t 1 ∧
        namedOf t sc = some ⟨epoch.toNat, false⟩ ∧ (∀ x, x ≠ sc → namedOf t x = namedOf s x) ∧
        KeptRegs s t [.tideApply_epoch, .tideApply_job, .tideApply_scope, .tideApply_arm] ∧ KeptMem s t)) ∧
      (65536 * epoch.toNat < s.time.tide + guardNs s → s.time.tide < 65536 * epoch.toNat →
        Runs (.tideApplyArm epoch job m) s (fun t => shown t 1 ∧ namedOf t sc = some ⟨epoch.toNat, true⟩ ∧
          Counted s t .tideCnt_late_apply 0 1 ∧ get t .tideEclipse_missed_epoch 0 = epoch.toNat ∧ KeptMem s t)) ∧
      (65536 * epoch.toNat ≤ s.time.tide → Runs (.tideApplyArm epoch job m) s (fun t => shown t 0 ∧ namedOf t sc = none ∧
        sc ∈ t.time.eclipse ∧ Counted s t .tideCnt_late_apply 0 1 ∧ get t .tideEclipse_missed_epoch 0 = epoch.toNat ∧
        get t .tideEclipse_active 0 = 1 ∧ KeptMem s t)) ∧
      (Runs (.tideApplyCancel epoch job m) s (fun t => shown t 0 ∧ namedOf t sc = none ∧
        (∀ x, x ≠ sc → namedOf t x = namedOf s x) ∧ KeptMem s t ∧
        KeptRegs s t [.tideApply_epoch, .tideApply_job, .tideApply_scope, .tideApply_arm]))) ∧
  (∀ (s : State) (sc : Nat),
    let t := scopeAtEpoch s sc
    (namedOf s sc = none → t = s) ∧
    (∀ n, namedOf s sc = some n → n.late = true → namedOf t sc = none ∧ sc ∈ t.time.eclipse ∧ get t .tideEclipse_active 0 = 1 ∧
      t.time.shadows = s.time.shadows ∧ t.shp = s.shp ∧ (∀ x, x ≠ sc → namedOf t x = namedOf s x) ∧
      KeptRegs s t (.tideEclipse_active :: .tideApply_arm :: eventFlds) ∧ KeptMem s t) ∧
    (∀ n, namedOf s sc = some n → n.late = false → namedOf t sc = none ∧ (∀ x, x ≠ sc → namedOf t x = namedOf s x) ∧
      (∀ h ∈ t.time.shadows, h.scope = sc → h.held = false) ∧
      ((∀ p ∈ s.shp.pend, p.scope = sc → p.held = true) → (∀ h ∈ s.time.shadows, h.scope = sc → h.fld ≠ .grdJoba_layout) →
        sc ∉ t.time.eclipse))) ∧
  (∀ (s : State) (sc : Nat) (p : PendImg), s.shp.pend.find? (fun p => p.scope == sc && !p.held) = some p →
    let t := imageAtEpoch s sc
    (scopeQuiescent s sc = true → (∀ q ∈ t.shp.pend, q.scope ≠ sc) ∧ t.shp.anyActive = true ∧
      (∀ n < 9, n ≠ 0 → p.mask.getLsbD n = true → inReset s n = false →
        mget Structure.init t.shp.act n = partOf n (overlay (mget Structure.init s.shp.act n) sc p.str)) ∧
      (p.full = true → sc = modScope → getDigest t .shpAmeas_digest = p.meas.toNat ∧
        getDigest t .shpChain_digest = digestOf p.meas) ∧
      (p.full = true → sc ≠ modScope → getDigest t .shpChain_digest = chainOf (getDigest s .shpChain_digest) p.meas)) ∧
    (scopeQuiescent s sc = false → t.time.eclipse = (sc :: s.time.eclipse).eraseDups ∧ get t .shpStat_not_quiescent 0 = 1 ∧
      OnlyRegs s { t with time := s.time } [.shpStat_not_quiescent]))

/-- R7, R47, R48, R50 and R395: a value written to an RWE field waits in its shadow, reads back, and leaves the value in force as it is
until an apply takes the shadow; one written inside the guard of its scope's named epoch is held. At an apply every shadow of the scope
that is not held becomes active, and no other does; a layout whose job has armed slots stays pending, with the job in eclipse. That a
write between an epoch and its apply is held too is the model's choice (log entry 178). -/
def Obligations.ShadowsWaitForTheirEpoch : Prop :=
  (∀ (s : State) (sc i v : Nat) (f : Fld),
      let t := shadowWrite s sc f i v
      lastWritten t f i = v % 2 ^ f.width ∧ KeptRegs s t [] ∧ KeptMem s t ∧
      (∀ g j, ¬(g = f ∧ j = i) → lastWritten t g j = lastWritten s g j) ∧
      (∀ h ∈ t.time.shadows, h.fld = f → h.idx = i → h.scope = sc ∧ h.held = insideGuard s sc) ∧
      (∀ h ∈ t.time.shadows, h.fld = f → h.idx = i →
        get (takeShadow t h) f i = v % 2 ^ f.width ∧ h ∉ (takeShadow t h).time.shadows)) ∧
  (∀ (s : State) (sc : Nat),
    let due (h : Shadow) : Bool := h.scope == sc && !h.held
    let u := applyShadows s sc
    ((s.time.shadows.map (fun h => (h.fld, h.idx))).Nodup →
      (∀ h ∈ s.time.shadows, due h = true → h.fld ≠ .grdJoba_layout → h.fld ≠ .grdJobb_layout_wait →
        get u h.fld h.idx = h.val % 2 ^ h.fld.width ∧ h ∉ u.time.shadows) ∧
      (∀ h ∈ s.time.shadows, due h = false → h ∈ u.time.shadows)) ∧
    (∀ f i, f ≠ .grdJobb_layout_wait → (∀ h ∈ s.time.shadows, due h = true → ¬(h.fld = f ∧ h.idx = i)) → get u f i = get s f i) ∧
    KeptMem s u ∧
    (∀ h, s.time.shadows.filter due = [h] → h.fld = .grdJoba_layout →
      (jobArmed s sc = true → sc ∈ u.time.eclipse ∧ get u .grdJobb_layout_wait h.idx = 1 ∧
        get u .grdJoba_layout h.idx = get s .grdJoba_layout h.idx ∧ u.time.shadows = s.time.shadows) ∧
      (jobArmed s sc = false → get u .grdJobb_layout_wait h.idx = 0 ∧ get u .grdJoba_layout h.idx = h.val % 2 ^ Fld.grdJoba_layout.width ∧
        h ∉ u.time.shadows)))

/-- R30, R33 to R40: a measurement shows its offset, keeps the correction within 200 ppm, and moves the state: free and holdover become
acquiring, 16 small offsets in a row lock, 16 large ones in a row unlock. Measurements come from the source that sync_src names, a PTP
client's by delay request and response from one-step and two-step masters; 1 ms without one while locked is holdover. `TIDE_SET` steps
the tide where R40 lets it, and is refused and logged elsewhere. How the PTP client measures is presumed (log entry 135), and how offsets
are cut and rounded is the model's choice (log entry 107). -/
def Obligations.MeasurementsMoveTheState : Prop :=
  ∀ (s : State),
    (∀ q : Int, let t := measured s q
      get t .tideStat_offset 0 = showOffset q % 2 ^ Fld.tideStat_offset.width ∧ -freqRange ≤ t.time.freq ∧
      t.time.freq ≤ freqRange ∧ t.time.lastMeas = s.time.ticks ∧ t.time.tide = s.time.tide ∧
      (tideState s = 0 ∨ tideState s = 3 → tideState t = 1) ∧
      (tideState s = 1 → q.natAbs ≤ 16 → s.time.near < 15 → tideState t = 1 ∧ t.time.near = s.time.near + 1) ∧
      (tideState s = 1 → q.natAbs ≤ 16 → 15 ≤ s.time.near → tideState t = 2) ∧
      (tideState s = 1 → 16 < q.natAbs → tideState t = 1 ∧ t.time.near = 0) ∧
      (tideState s = 2 → 256 < q.natAbs → 15 ≤ s.time.far → tideState t = 1) ∧
      (tideState s = 2 → q.natAbs ≤ 256 → tideState t = 2 ∧ t.time.far = 0) ∧
      KeptRegs s t [.tideStat_offset, .tideStat_state] ∧ KeptMem s t) ∧
    (fn0Up s = true → ∀ (p : Cp) (domain : BitVec 8) (m : PtpMsg),
      (get s .tideCtl_sync_src 0 = 1 + p.val → domain.toNat = get s .tideSync_ptp_domain 0 →
        (m.kind = .sync → m.twoStep = true → Runs (.ptpMessageRx p domain m) s (fun t =>
          t = { s with time := { s.time with ptp := { s.time.ptp with sync := some (m.seq.toNat, tideQuarters s, m.corr) } } })) ∧
        (m.kind = .sync → m.twoStep = false → Runs (.ptpMessageRx p domain m) s (fun t =>
          t.out = s.out ++ [.ptp p m.v6 domain.toNat s.time.ptp.next] ∧ t.time.ptp.sync = none ∧
          t.time.ptp.req = some (s.time.ptp.next, (m.time.toNat : Int) + m.corr, tideQuarters s, tideQuarters s) ∧
          { t with time := s.time, out := s.out } = s)) ∧
        (m.kind = .followUp → ∀ t2 corr, s.time.ptp.sync = some (m.seq.toNat, t2, corr) → Runs (.ptpMessageRx p domain m) s (fun t =>
          t.out = s.out ++ [.ptp p m.v6 domain.toNat s.time.ptp.next] ∧ t.time.ptp.sync = none ∧
          t.time.ptp.req = some (s.time.ptp.next, (m.time.toNat : Int) + m.corr + corr, t2, tideQuarters s) ∧
          { t with time := s.time, out := s.out } = s)) ∧
        (m.kind = .delayResp → ∀ t1 t2 t3, s.time.ptp.req = some (m.seq.toNat, t1, t2, t3) →
          let t4 : Int := (m.time.toNat : Int) - m.corr
          exec (.ptpMessageRx p domain m) s = .next (measurement1
            { s with time := { s.time with ptp := { s.time.ptp with req := none }, delay := legsDelay (t4 - t3) (t2 - t1) } }
            (legsOffset (t4 - t3) (t2 - t1) + 4 * signedOf 42 (get s .tideSync_offset 0))))) ∧
      (get s .tideCtl_sync_src 0 ≠ 1 + p.val ∨ domain.toNat ≠ get s .tideSync_ptp_domain 0 →
        Runs (.ptpMessageRx p domain m) s (fun t => t = s))) ∧
    (fn0Up s = true → get s .tideCtl_sync_src 0 = 3 → ppsAccepted s = true → exec .tidePpsInEdge s =
      .next (measurement1 { s with time := { s.time with lastPps := some s.time.ticks } } (ppsOffset s))) ∧
    (get s .tideCtl_sync_src 0 ≠ 3 ∨ ppsAccepted s = false → Runs .tidePpsInEdge s (fun t => t = s)) ∧
    (fn0Up s = true → tideState s = 2 → s.time.lastMeas + 1000000 ≤ s.time.ticks → Runs .syncMeasurementTimeout s (fun t =>
      tideState t = 3 ∧ Counted s t .tideCnt_sync_lost 0 1 ∧ KeptRegs s t [.tideStat_state, .tideCnt_sync_lost] ∧ KeptMem s t)) ∧
    (∀ v : BitVec 64, fn0Up s = true →
      (mayStep s = true → exec (.tideSet v) s = .next (stepTo s (setTide s.time v.toNat))) ∧
      (mayStep s = false → Runs (.tideSet v) s (fun t => t = logEvt s 0x011 0 0 0 v.toNat 0 ∧ t.time = s.time ∧
        KeptRegs s t eventFlds ∧ KeptMem s t))) ∧
    (∀ v : BitVec 64, fn0Up s = true → Runs (.tideSyncSrcWrite v) s (fun t =>
      (v.toNat % 8 < 5 → get t .tideCtl_sync_src 0 = v.toNat % 8) ∧
      (5 ≤ v.toNat % 8 → get t .tideCtl_sync_src 0 = get s .tideCtl_sync_src 0) ∧ (v.toNat % 8 = 0 → tideState t = 0) ∧
      KeptMem s t ∧ KeptRegs s t [.tideCtl_guard, .tideCtl_late_window, .tideCtl_max_ahead_log2, .tideCtl_sync_src,
        .tideStat_state, .tideStat_depth]))

/-- R36 to R38 and R417: TIDE_PPS_OUT rises at its phase for 100 µs; the timestamp exchange sends a request that carries the tide, answers
a request, and measures by the response to the outstanding one. -/
def Obligations.PulsesAndTimestamps : Prop :=
  ∀ (s : State),
    (fn0Up s = true → get s .tidePps_out_en 0 ≠ 0 → s.time.ppsHigh = none →
      s.time.tide % secNs = get s .tidePps_out_phase 0 % secNs → Runs .tidePpsOutStart s (fun t =>
        t = { s with time := { s.time with ppsHigh := some s.time.ticks }, out := s.out ++ [.pin 1 true] })) ∧
    (∀ n, s.time.ppsHigh = some n → n + 100000 ≤ s.time.ticks → Runs .tidePpsOutEnd s (fun t =>
      t = { s with time := { s.time with ppsHigh := none }, out := s.out ++ [.pin 1 false] })) ∧
    (∀ p : Port, stampLink s p.val = true → (∀ n, (linkOf s p.val).stampAt = some n → n + 4096 ≤ s.time.ticks) →
      Runs (.timestampExchangeSend p) s (fun t => ∃ f : TsFlit, t.out = (sendStamp s p.val f).out ∧ f.response = false ∧
        f.t1.toNat = stampNow s ∧ f.id.toNat = (linkOf s p.val).stampId % 2 ^ 16 ∧ mget none t.time.exch p.val = some ((linkOf s p.val).stampId % 2 ^ 16, stampNow s) ∧
        (linkOf t p.val).stampAt = some s.time.ticks ∧ KeptRegs s t [] ∧ KeptMem s t)) ∧
    (∀ (p : Port) (fl : BitVec 2048) (arrival : BitVec 64), stampLink s p.val = true → flitType fl = flitStamp →
      let f := tsFields fl
      let s0 := ackFlits s p.val (flitAck fl)
      (flitOk fl = false → Runs (.timestampFlitRx p fl arrival) s (fun t => Counted s t .lnkPerr_crc p.val 1 ∧
        OnlyRegs s t [.lnkPerr_crc])) ∧
      (flitOk fl = true → f.response = false → isParent s p.val = false → Runs (.timestampFlitRx p fl arrival) s (fun t =>
        ∃ g : TsFlit, t = sendStamp s0 p.val g ∧ g.response = true ∧ g.id = f.id ∧ g.t1 = f.t1 ∧ g.t2 = arrival ∧
        g.t3.toNat = stampNow s)) ∧
      (flitOk fl = true → f.response = true → mget none s.time.exch p.val = none →
        Runs (.timestampFlitRx p fl arrival) s (fun t => t = s0)) ∧
      (flitOk fl = true → f.response = true → ∀ t1, mget none s.time.exch p.val = some (f.id.toNat, t1) →
        isParent s p.val = true → f.depth.toNat ≠ 15 →
        let delay := exchDelay t1 f.t2.toNat f.t3.toNat arrival.toNat
        let s1 := put { s0 with time := { s0.time with exch := mset none s0.time.exch p.val none } } .tideStat_depth (f.depth.toNat + 1)
        exec (.timestampFlitRx p fl arrival) s = .next (measurement1 { s1 with time := { s1.time with delay := delay } }
          (exchOffset s0 t1 f.t2.toNat f.t3.toNat arrival.toNat)))) ∧
    (∀ (p : Nat) (f : TsFlit), let x := mkFlit flitStamp (nextSeq (linkOf s p)) (lastSeq (linkOf s p)) (tsPayload f)
      (isGlobal p = false → sendStamp s p f = { s with out := s.out ++ [.flit p x] }) ∧
      tsFields x = f ∧ flitOk x = true ∧ flitType x = flitStamp)

/-- R390, R391 and R398: every row of the two tables. A COMMIT of the next step with the alternate bank written advances the committed
step by one, can be undone, and raises ctc on each core where it belongs to the job; one of the step committed already changes nothing
but the state; any other, that of the next step with nothing written among them, fails. A ROLLBACK of the next step abandons it, one of
the step committed last takes it back where it can be undone, any other fails. Where nothing is committed, abandoned or undone the state
follows alt_written (R386). Each is answered, with status 0 or with status 1 and code 0x09, and its job has no pending command. Software
writes the committed step only in state 0. What a commit does to the shards that a ledger has flagged (R229) stands under log entry 151. -/
def Obligations.CommittedStepMoves : Prop :=
  ∀ (s : State),
    (∀ (job j : Nat) (c : CommitCmd), get s .grdJobb_alt_written j < 2 →
      let cur := get s .grdJobb_committed j
      let next := (cur + 1) % 2 ^ 32
      let alt := get s .grdJobb_alt_written j
      let reply (status code : Nat) : Out :=
        .resp ⟨c.hdr.port, c.hdr.src, c.hdr.seq, if c.isCommit then 0x60 else 0x61, c.hdr.job, status, code, []⟩
      let ends (t : State) (status code : Nat) (l : List Fld) : Prop :=
        (∃ o, t.out = s.out ++ reply status code :: o) ∧ mget none t.ctl.commits job = none ∧
        KeptRegs s t (.ctlCmdCnt_executed :: .grdJobb_state :: l)
      (let t := commitApply s job j c
       (c.step.toNat = next → alt = 1 →
         get t .grdJobb_committed j = c.step.toNat ∧ get t .grdJobb_undo_ok j = 1 ∧ get t .grdJobb_alt_written j = 0 ∧
         get t .grdJobb_state j = 0 ∧ Counted s t .grdJobd_commits j 1 ∧ mget none t.ctl.commits job = none ∧ reply 0 0 ∈ t.out ∧
         (∀ k < 192, let i := 256 * k + c.ctc.toNat
           get t .tc_value i = if c.ctcEn = true ∧ tcOwner s k c.ctc.toNat = job then min (get s .tc_value i + 1) (2 ^ 32 - 1) % 2 ^ 32
             else get s .tc_value i) ∧
         ((∀ x ∈ s.col.shards, ¬(x.job = job ∧ x.step = c.step.toNat)) → KeptMem s t ∧
           ends t 0 0 [.grdJobb_committed, .grdJobb_undo_ok, .grdJobb_alt_written, .grdJobd_commits, .tc_value, .tc_overflow])) ∧
       (c.step.toNat = cur → get t .grdJobb_state j = alt ∧ ends t 0 0 [] ∧ KeptMem s t) ∧
       (c.step.toNat ≠ cur → c.step.toNat ≠ next ∨ alt = 0 → get t .grdJobb_state j = alt ∧ Counted s t .grdJobd_failed j 1 ∧
         ends t 1 0x09 [.grdJobd_failed] ∧ KeptMem s t)) ∧
      (let t := rollbackApply s job j c
       (c.step.toNat = next → get t .grdJobb_alt_written j = 0 ∧ get t .grdJobb_state j = 0 ∧ Counted s t .grdJobd_rollbacks j 1 ∧
         ends t 0 0 [.grdJobb_alt_written, .grdJobd_rollbacks] ∧ (alt = 0 → KeptMem s t)) ∧
       (c.step.toNat = cur → c.step.toNat ≠ next → get s .grdJobb_undo_ok j ≠ 0 →
         get t .grdJobb_committed j = (cur + (2 ^ 32 - 1)) % 2 ^ 32 ∧ get t .grdJobb_undo_ok j = 0 ∧
         get t .grdJobb_alt_written j = 0 ∧ get t .grdJobb_state j = 0 ∧ Counted s t .grdJobd_rollbacks j 1 ∧
         ends t 0 0 [.grdJobb_committed, .grdJobb_undo_ok, .grdJobb_alt_written, .grdJobd_rollbacks] ∧ KeptMem s t) ∧
       (c.step.toNat ≠ next → c.step.toNat ≠ cur ∨ get s .grdJobb_undo_ok j = 0 → get t .grdJobb_state j = alt ∧
         Counted s t .grdJobd_failed j 1 ∧ ends t 1 0x09 [.grdJobd_failed] ∧ KeptMem s t))) ∧
    (∀ (job j : Nat) (c : CommitCmd), mget none s.ctl.commits job = some c → jobEntry s job = some j →
      commitAtEpoch s job = if c.isCommit then commitApply s job j c else rollbackApply s job j c) ∧
    (∀ (j : Fin 64) (v : BitVec 32), fn0Up s = true →
      (get s .grdJobb_state j = 0 → Runs (.grdCommittedWrite j v) s (fun t => get t .grdJobb_committed j = v.toNat ∧
        get t .grdJobb_undo_ok j = 0 ∧ (∀ k, k ≠ j.val → get t .grdJobb_committed k = get s .grdJobb_committed k) ∧
        OnlyRegs s t [.grdJobb_committed, .grdJobb_undo_ok])) ∧
      (get s .grdJobb_state j ≠ 0 → Runs (.grdCommittedWrite j v) s (fun t => t = s)))

/-! ### Armed operations and collectives -/

/-- R350, R354 to R356, R366 and R393: COL_ARM arms an idle slot whose template belongs to the job; an armed one, one with no template or
a template of action 3, or one of another job is refused and counted. An armed slot issues its next fire once that fire's conditions
hold; a lower slot of its engine that met its own at the same time goes first. What counts as the same time is the model's choice (log
entry 161), and so is which fires of an armed slot a slot boundary lets issue (log entry 78). -/
def Obligations.SlotsArmAndIssue : Prop :=
  ∀ (s : State),
    (∀ slot count : BitVec 16, fn0Up s = true → fnReady s 5 = true →
      let s1 := put (put s .colArm0_slot slot.toNat) .colArm0_count count.toNat
      exec (.colArm slot count) s = .next (armSlots s1 (get s1 .colArm1_job) (get s1 .colArm1_step) (get s1 .colArm2_tbias)
        (get s1 .colArm2_gbias) slot.toNat (max 1 count.toNat))) ∧
    (∀ (job step tb gb slot : Nat),
      let t := armSlot s job step tb gb slot
      (∀ r, template s slot = some r → isArmed s slot = false → tAction r ≠ 3 → tJob r = job →
        get t .colTlive0_state slot = 1 ∧ get t .colTlive0_issued slot = 0 ∧ get t .colTlive0_done slot = 0 ∧
        get t .colTlive1_step slot = step % 2 ^ Fld.colTlive1_step.width ∧
        get t .colTlive2_tbias slot = tb % 2 ^ Fld.colTlive2_tbias.width ∧
        get t .colTlive2_gbias slot = gb % 2 ^ Fld.colTlive2_gbias.width ∧ mget 0 t.col.armAt slot = s.time.ticks ∧ KeptMem s t ∧
        KeptRegs s t [.colTlive0_state, .colTlive0_issued, .colTlive0_done, .colTlive1_step, .colTlive2_tbias, .colTlive2_gbias]) ∧
      (template s slot = none ∨ isArmed s slot = true ∨ (∃ r, template s slot = some r ∧ (tJob r ≠ job ∨ tAction r = 3)) →
        Counted s t .colStat_arm_refused 0 1 ∧ OnlyRegs s t [.colStat_arm_refused])) ∧
    (∀ (slot : BitVec 16) (r : ChainRec), template s slot.toNat = some r → fnReady s 5 = true → isArmed s r.slot = true →
      eclipsed s (tJob r) = false →
      let k := tIssued s r.slot
      (fireReady s r k = true → lowerFirst s r = false → gatherGate s (tJob r) (tColl r) (tStep s r.slot) = 0 →
        Runs (.armedFireIssue slot) s (fun t =>
        ∃ f : Fire, t.col.fires = s.col.fires ++ [f] ∧ f.slot = r.slot ∧ f.k = k ∧ f.step = tStep s r.slot ∧ f.sent = false ∧
          f.start = s.time.ticks ∧ get t .colTlive0_issued r.slot = (k + 1) % 2 ^ Fld.colTlive0_issued.width ∧ KeptMem s t ∧
          KeptRegs s t [.colTlive0_issued, .colFires_fires, .colStat_slips])) ∧
      (gatherGate s (tJob r) (tColl r) (tStep s r.slot) = 1 → Runs (.armedFireIssue slot) s (fun t => t = s)) ∧
      (fireReady s r k = true → lowerFirst s r = false → 1 < gatherGate s (tJob r) (tColl r) (tStep s r.slot) →
        exec (.armedFireIssue slot) s = .next (fireFail s r (tStep s r.slot) 0x09)) ∧
      (fireReady s r k = false ∨ lowerFirst s r = true → Runs (.armedFireIssue slot) s (fun t => t = s)))

/-- R354, R357 to R360, R368 and R369: a fire sends its message, adds to its counter or writes its flag, here or over its context, and
fails where its context does not do; a fire that is done is counted and raises done_tc where done_en is 1, and the last one puts its
slot back to idle and arms its chain; a watchdog that runs over and a write of `COL_ABORT` end their collectives. A message with a ledger
is checked before it leaves (which of several faults it records is log entry 118), and a local one that passes is noted as a shard where
its destination lies in a gradient view of the job: which shard a ledger flags is the model's choice (log entry 151). -/
def Obligations.FiresRunAndEnd : Prop :=
  ∀ (s : State) (slot : BitVec 16) (r : ChainRec), template s slot.toNat = some r → fnReady s 5 = true →
    (∀ f, fireOf s r.slot (fun f => !f.sent) = some f →
      (∀ x ∈ ([(.fireSend slot, 0), (.fireCounterAdd slot, 1), (.fireFlagWrite slot, 2)] : List (Instr × Nat)),
        (tAction r = x.2 → fireCtxBad s r ≠ 0 → exec x.1 s = .next (fireFail s r f.step (fireCtxBad s r))) ∧
        (tAction r ≠ x.2 → Runs x.1 s (fun t => t = s))) ∧
      (tAction r = 0 → fireCtxBad s r = 0 → fireHeld s r f.k = true → Runs (.fireSend slot) s (fun t => t = s)) ∧
      (tAction r = 0 → fireCtxBad s r = 0 → fireHeld s r f.k = false →
        let m := fireMessage s r f.k
        let x := checkLedger m.1 r f.step m.2.2
        (m.2.1 ≠ 0 → exec (.fireSend slot) s = .next (fireFail m.1 r f.step m.2.1)) ∧
        (m.2.1 = 0 → x.2 = false → exec (.fireSend slot) s = .next (fireFail x.1 r f.step 0x07)) ∧
        (m.2.1 = 0 → x.2 = true → tCtx r ≠ 0xFFFF → exec (.fireSend slot) s = .next (fireRemote x.1 r f 1 m.2.2)) ∧
        (m.2.1 = 0 → x.2 = true → tCtx r = 0xFFFF → exec (.fireSend slot) s = .next (fireLocal s (if tLedger r
          then noteShard x.1 r f.k f.step (m.2.2.length - 32) (msgLedger m.2.2) else x.1) r f 1 m.2.2))) ∧
      (tAction r = 1 → fireCtxBad s r = 0 → exec (.fireCounterAdd slot) s =
        .next (if tCtx r = 0xFFFF then fireLocal s s r f 2 [] else fireRemote s r f 2 [])) ∧
      (tAction r = 2 → fireCtxBad s r = 0 →
        let a := (tw r 5 63 0 + (f.k % tNslots r) * tDstStride r * 64) % 2 ^ 64
        exec (.fireFlagWrite slot) s = .next (if isRoce s (tCtx r)
          then (roceWrite (fireSent s f 1) (tJob r) (tCtx r) (tLength r) a (toLe 8 (tValue r)) (.fire f.id) 0).1
          else sendMol (fireSent s f 1) (tJob r) (tCtx r) 0x4 false (tLength r) a 0 [⟨0, toLe 8 (tValue r), []⟩]
            (.fire f.id) true))) ∧
    (∀ f, fireOf s r.slot (fun f => fireIsDone r f && f.k == get s .colTlive0_done r.slot) = some f → isArmed s r.slot = true →
      tStep s r.slot = f.step →
      let n := get s .colTlive0_done r.slot + 1
      let i := 256 * tTcore r + tDoneTc r
      let done (u : State) : Prop := get u .colTlive0_done r.slot = n % 2 ^ Fld.colTlive0_done.width ∧
        (∀ j, j ≠ r.slot → get u .colTlive0_done j = get s .colTlive0_done j) ∧
        mget [] u.col.doneK r.slot = mget [] s.col.doneK r.slot ++ [f.k] ∧
        (get s .tc_value i < 2 ^ 32 →
          get u .tc_value i = (if tDoneEn r then min (get s .tc_value i + 1) (2 ^ 32 - 1) else get s .tc_value i)) ∧
        (∀ j, j ≠ i → get u .tc_value j = get s .tc_value j) ∧ (tDoneEn r = false → KeptRegs s u [.colTlive0_done]) ∧
        KeptRegs s u [.colTlive0_done, .tc_value, .tc_overflow] ∧ KeptMem s u
      (n < tFires r → Runs (.fireDone slot) s done) ∧
      (tFires r ≤ n → ∃ u, done u ∧ exec (.fireDone slot) s = .next (armSlots (put u .colTlive0_state 0 r.slot) (tJob r)
        (tStep u r.slot) (get u .colTlive2_tbias r.slot) (get u .colTlive2_gbias r.slot) (tNext r) (tNextCount r)))) ∧
    (∀ g, fireOf s r.slot (fun f => fireIsDone r f && f.k == get s .colTlive0_done r.slot) = some g →
      isArmed s r.slot = false ∨ tStep s r.slot ≠ g.step → Runs (.fireDone slot) s (fun t => t = s)) ∧
    (fireOf s r.slot (fun f => fireIsDone r f && f.k == get s .colTlive0_done r.slot) = none →
      Runs (.fireDone slot) s (fun t => t = s)) ∧
    (isArmed s r.slot = true → eclipsed s (tJob r) = false →
      (wdOver s r = true → exec (.colWatchdogExpiry slot) s = .next (endCollective (bump s .colStat_expiries) r.slot (tJob r)
        (tColl r) (tStep s r.slot) 0x0D 0)) ∧
      (wdOver s r = false → Runs (.colWatchdogExpiry slot) s (fun t => t = s))) ∧
    (fn0Up s = true → ∀ (job : BitVec 12) (coll : BitVec 10),
      exec (.colAbortOne job coll) s = .next (abortWrite s job.toNat coll.toNat false true) ∧
      exec (.colAbortAll job) s = .next (abortWrite s job.toNat (get s .colAbort_coll) true true))

/-- R361 to R364, R394 and R396: what becomes of a collective packet. One that is placed is acknowledged, one that is refused gets a NAK
with its code, one that the step or the layout holds back waits. A packet on the drop list is acknowledged and not placed, one
of a job that is not resident is refused with 0x06, and one of a layout that is past is refused with 0x08. How the ledger of one that is
placed is checked is the model's choice (log entry 118), and so is that the header names the message that a packet belongs to (log
entry 162). -/
def Obligations.CollectivePacketsArrive : Prop :=
  ∀ (p : Port) (h : MolHdr) (ch : ColHdr) (s : State),
    (∀ x ∈ ([(fun d => Instr.collectiveSendRx p h ch d, fun d => d), (fun _ => .collectiveCounterAddRx p h ch, fun _ => [])] :
        List ((Bytes → Instr) × (Bytes → Bytes))), ∀ d : Bytes,
      let s1 := takePkt s p.val 0x5 h (colHdrBytes ch ++ x.2 d)
      let o := colPlace s1 ch (x.2 d)
      Asks s1 p 0x5 h →
      (o.2 = .taken → exec (x.1 d) s = .next (flowNext (ack o.1 p.val h) p.val h none)) ∧
      (∀ code, o.2 = .refused code → exec (x.1 d) s = .next (flowNext (nakRemote o.1 p.val h code) p.val h (some code))) ∧
      (o.2 = .held → exec (x.1 d) s = .next (holdBack o.1 (x.1 d))) ∧
      (o.2 = .dropped → exec (x.1 d) s = .next (flowNext o.1 p.val h (some 0)))) ∧
    (∀ d : Bytes, ch.kind = 1 ∨ ch.kind = 2 →
      let o := colPlace s ch d
      let gap := (ch.layout.toNat + 256 - layoutOf s ch.job.toNat) % 256
      (dropListed s ch = true → o.2 = .taken ∧ Counted s o.1 .colDrop_listed 0 1 ∧ OnlyRegs s o.1 [.colDrop_listed]) ∧
      (dropListed s ch = false → resident s ch.job.toNat = false → o.2 = .refused 0x06 ∧
        Counted s o.1 .colDrop_unresident 0 1 ∧ KeptRegs s o.1 [.colDrop_unresident] ∧ KeptMem s o.1) ∧
      (dropListed s ch = false → resident s ch.job.toNat = true → 1 ≤ gap → gap ≤ 127 → o = (s, .held)) ∧
      (dropListed s ch = false → resident s ch.job.toNat = true → 127 < gap → o.2 = .refused 0x08 ∧ KeptMem s o.1 ∧
        Counted s o.1 .colDrop_epoch 0 1))

/-! ### The transport -/

/-- R17, R320, R327 and R328: a put, a flag write and a get are carried out where their region lets them, and answered on the port that
they came by, which is the model's choice (log entry 45); a refused one is answered with a NAK, counted, and changes no memory.
Board-class accesses name offsets of this module. R419, R422 and R423: a packet for another module goes on toward it, or is dropped and
counted. Which message a put's packet belongs to stands in its operands (log entry 165). The bytes of a message's packets, in whatever
order and by whatever port they come, are added up; the message is complete, and its note forgotten, once its whole length has come, and
a message with a packet refused is refused from there on: this too is the model's choice (log entry 160). -/
def Obligations.MolindRequestsAreServed : Prop :=
  ∀ (p : Port) (h : MolHdr) (s : State),
    (∀ (msg : BitVec 32) (at_ : BitVec 48) (last : Bool) (d : Bytes),
      let s1 := takePkt s p.val 0x1 h d
      let i : Instr := .molindPutRx p h ⟨msg, at_, last⟩ d
      Asks s1 p 0x1 h → exec i s = .next (flowDone p.val h i (placeWrite s1 (molAccess p.val h d.length true) (putKey h msg)
        (if last then some (at_.toNat + d.length) else none) h.addr.toNat d))) ∧
    (∀ v : BitVec 64,
      let s1 := takePkt s p.val 0x4 h (toLe 8 v.toNat)
      Asks s1 p 0x4 h → exec (.molindFlagWriteRx p h v) s = .next (flowDone p.val h (.molindFlagWriteRx p h v)
        (placeWrite s1 (molAccess p.val h 8 true) (flagKey h) (some 8) h.addr.toNat (toLe 8 v.toNat)))) ∧
    (∀ n : BitVec 31,
      let s1 := takePkt s p.val 0x2 h (toLe 4 n.toNat)
      let x := placeRead s1 (molAccess p.val h n.toNat false) h.addr.toNat
      Asks s1 p 0x2 h →
      (x.2.1 = .served → exec (.molindGetRequestRx p h n) s = .next (flowNext ((cuts 4096 x.2.2).foldl
        (fun s c => replyOn s p.val 0x3 h (h.addr.toNat + c.1) c.2) x.1) p.val h none)) ∧
      (x.2.1 = .held → exec (.molindGetRequestRx p h n) s = .next (holdBack x.1 (.molindGetRequestRx p h n))) ∧
      (∀ c, x.2.1 = .refused c →
        exec (.molindGetRequestRx p h n) s = .next (flowNext (nakRemote x.1 p.val h c) p.val h (some c)))) ∧
    (∀ (a : RegAccess) (key : List Nat) (len : Option Nat) (d : Bytes) (shown : Nat), (msgPart s key).refused = true →
      let x := placeWrite s a key len shown d
      x.2 = .refused 0x06 ∧ { x.1 with xpt := s.xpt } = s) ∧
    (∀ (key : List Nat) (len : Option Nat) (n : Nat) (refused : Bool),
      let m := msgPart s key
      let total := if len.isSome then len else m.len
      let x := notePart s key len n refused
      (x.2 = true ↔ ∃ l, total = some l ∧ l ≤ m.got + n) ∧ { x.1 with xpt := s.xpt } = s ∧
      msgPart x.1 key = (if x.2 then ⟨key, 0, none, false⟩ else ⟨key, m.got + n, total, m.refused || refused⟩) ∧
      (∀ k, k ≠ key → msgPart x.1 k = msgPart s k)) ∧
    (∀ (a : RegAccess) (key : List Nat) (len : Option Nat) (d : Bytes) (shown reason : Nat), regRefuse s a = some reason →
      (msgPart s key).refused = false →
      let x := placeWrite s a key len shown d
      x.2 = .refused 0x06 ∧ KeptMem s x.1 ∧ Counted s x.1 .xptRegcnt_refused 0 1 ∧
      (get s .xptRefuse0_valid 0 = 0 → get x.1 .xptRefuse0_valid 0 = 1 ∧
        get x.1 .xptRefuse0_reason 0 = reason % 2 ^ Fld.xptRefuse0_reason.width)) ∧
    (∀ d : Bytes,
      let s1 := takePkt s p.val 0x8 h d
      let bad := boardBad s1 h.addr.toNat d.length
      let w := writeOff s1 h.job.toNat 255 (h.addr.toNat % 2 ^ 46) d
      let c := if w.2 = 0x03 then 0x06 else w.2
      Asks s1 p 0x8 h →
      (bad = 0 → w.2 = 0 → exec (.boardWriteRx p h d) s = .next (flowNext (ack w.1 p.val h) p.val h none)) ∧
      (bad = 0 → w.2 ≠ 0 → exec (.boardWriteRx p h d) s = .next (flowNext (nakRemote w.1 p.val h c) p.val h (some c))) ∧
      (bad ≠ 0 → exec (.boardWriteRx p h d) s = .next (flowNext (nakRemote s1 p.val h bad) p.val h (some bad)))) ∧
    (∀ n : BitVec 13,
      let s1 := takePkt s p.val 0x9 h (toLe 8 n.toNat)
      let bad := boardBad s1 h.addr.toNat n.toNat
      let x := readOff s1 h.job.toNat 255 (h.addr.toNat % 2 ^ 46) n.toNat
      Asks s1 p 0x9 h →
      (bad = 0 → x.2.1 = 0 → exec (.boardReadRx p h n) s =
        .next (flowNext (replyOn x.1 p.val 0xA h h.addr.toNat x.2.2) p.val h none)) ∧
      (bad = 0 → x.2.1 ≠ 0 → exec (.boardReadRx p h n) s =
        .next (flowNext (nakRemote x.1 p.val h x.2.1) p.val h (some x.2.1))) ∧
      (bad ≠ 0 → exec (.boardReadRx p h n) s = .next (flowNext (nakRemote s1 p.val h bad) p.val h (some bad)))) ∧
    (∀ (op : BitVec 4) (d : Bytes), isModulePort p.val = true → inService s p.val = true → dataPort s p.val = true →
      (boardOp op.toNat = true → isTray p.val = true) → h.dst.toNat ≠ ownModule s →
      exec (.molindPacketForward p op h d) s = .next (forward (takePkt s p.val op.toNat h d) p.val op.toNat h d) ∧
      ((linkOf s p.val).pkts = [] → forwards s = true → entryVersion (entryFor s h.job.toNat h.dst.toNat) = 0 →
        Runs (.molindPacketForward p op h d) s (fun t => Counted s t .lnkDrop_unreachable 0 1 ∧ OnlyRegs s t [.lnkDrop_unreachable])))

/-- R313, R324, R330, R332 and R418: an acknowledgement frees the packets that it names, a NAK fails the owner of its packet with its
code or sends again, a response gives its bytes to the request that it answers, and a context without an acknowledgement for
its timeout sends again until retry_cnt is used up. R449: Doze holds each of them back until Run. The model's choices are: that an
acknowledgement frees packets of its arrival port alone, and requests are freed by their answers (log entry 113); that a Molind context
too enters the error state (log entry 114); the port that an answer leaves by, and that the first data byte of a NAK for remote access
error is its code (log entry 45); that a code byte of 0 is 0x06, and that a selective acknowledgement of version 1 counts in
`LNK_DROP.version` (log entry 206). -/
def Obligations.AcknowledgementsAndNaks : Prop :=
  ∀ (p : Port) (h : MolHdr) (s : State),
    let x := ctxNum h.srcCtx
    (let s1 := takePkt s p.val 0xC h [];
      LandsAwake s1 p 0xC h → exec (.molindAckRx p h) s = .next (ackWhere s1 x (ackedBy p.val h.psn.toNat))) ∧
    (∀ code : BitVec 8,
      let s1 := takePkt s p.val 0xD h [code]
      let c := if code = 0 then 0x06 else code.toNat
      LandsAwake s1 p 0xD h →
      ((ctxOf s1 x).unacked.find? (sentAs p.val h.psn.toNat) = none → exec (.molindNakRemoteRx p h code) s = .next s1) ∧
      (∀ u, (ctxOf s1 x).unacked.find? (sentAs p.val h.psn.toNat) = some u →
        let s2 := failOwner (forget s1 x (sentAs p.val h.psn.toNat)) u.owner c
        exec (.molindNakRemoteRx p h code) s = .next (if c = 0x06 ∧ x < noCtx ∧ u.owner ≠ .none then failCtx s2 x 0x06
          else pullQueue x (ctxOf s2 x).queue.length s2))) ∧
    (let s1 := takePkt s p.val 0xE h [];
      LandsAwake s1 p 0xE h → exec (.molindNakSequenceRx p h) s =
        .next (resend (bump s1 .xptRetx_seq_nak) x (fun u => u.pkt.port == p.val))) ∧
    (∀ b : BitVec 64, LandsAwake (takePkt s p.val 0xF h (toLe 8 b.toNat)) p 0xF h → h.version.toNat ≠ 2 →
      Runs (.molindSelectiveAckRx p h b) s (fun t => Counted s t .lnkDrop_version 0 1 ∧ KeptRegs s t [.lnkDrop_version])) ∧
    (∀ b : BitVec 64, LandsAwake (takePkt s p.val 0xF h (toLe 8 b.toNat)) p 0xF h → h.version.toNat = 2 →
      let ahead (u : Unacked) : Nat := (u.psn + 2 ^ 24 - h.psn.toNat) % 2 ^ 24
      let s1 := ackWhere (takePkt s p.val 0xF h (toLe 8 b.toNat)) x (fun u => ackedBy p.val h.psn.toNat u ||
        (u.pkt.port == p.val && !isRequest u && (decide (1 ≤ ahead u ∧ ahead u ≤ 64) && b.getLsbD (ahead u - 1))))
      exec (.molindSelectiveAckRx p h b) s =
        .next (resend s1 x (fun u => u.pkt.port == p.val && missingFrom h.psn.toNat b u))) ∧
    (∀ (last : Bool) (d : Bytes),
      let s1 := takePkt s p.val 0x3 h d
      LandsAwake s1 p 0x3 h → exec (.molindGetResponseRx p h last d) s =
        .next (answerRequest s1 x 0x2 h.addr.toNat d (.molindGetResponseRx p h last d))) ∧
    (∀ d : Bytes,
      let s1 := takePkt s p.val 0xA h d
      LandsAwake s1 p 0xA h → exec (.boardReadResponseRx p h d) s =
        .next (answerRequest s1 noCtx 0x9 h.addr.toNat d (.boardReadResponseRx p h d))) ∧
    (∀ (code : BitVec 8) (b : BitVec 64) (last : Bool) (d : Bytes),
      ∀ x ∈ ([(.molindAckRx p h, 0xC, []), (.molindNakRemoteRx p h code, 0xD, [code]), (.molindNakSequenceRx p h, 0xE, []),
          (.molindSelectiveAckRx p h b, 0xF, toLe 8 b.toNat), (.molindGetResponseRx p h last d, 0x3, d),
          (.boardReadResponseRx p h d, 0xA, d)] : List (Instr × Nat × Bytes)),
      let s1 := takePkt s p.val x.2.1 h x.2.2
      Lands s1 p x.2.1 h → dozing s1 = true → exec x.1 s = .next (holdBack s1 x.1)) ∧
    (∀ (y : Nat) (f : Unacked → Bool), (∀ u ∈ (ctxOf s y).unacked, f u = true) → (ctxOf s y).queue = [] →
      (ctxOf s y).unacked ≠ [] → (ctxOf (ackWhere s y f) y).unacked = [] ∧ (ctxOf (ackWhere s y f) y).retries = 0) ∧
    (∀ c : BitVec 16, fnReady s 5 = true → (ctxOf s (ctxNum c)).unacked ≠ [] →
      ((ctxOf s (ctxNum c)).since + ctxTimeout s (ctxNum c) ≤ s.time.ticks →
        exec (.transportAckTimeout c) s = .next (retryCtx (bump s .xptRetx_timeouts) (ctxNum c))) ∧
      (s.time.ticks < (ctxOf s (ctxNum c)).since + ctxTimeout s (ctxNum c) →
        Runs (.transportAckTimeout c) s (fun t => t = s)))

/-- R323, R324, R327, R328 and R449: RDMA writes and reads of the expected number are carried out and the next number is expected; one
that is ahead gets a sequence NAK; what the module does not serve gets a NAK for invalid request; acknowledgements, NAKs,
responses and CNPs act on their context. How packet numbers and NAKs run is as InfiniBand has them (log entry 115), an RDMA READ takes as
many numbers as its response has packets (log entry 41), and a packet above the path MTU gets a NAK for invalid request (log entry
171): the rules leave these open, and they are the model's. -/
def Obligations.RocePacketsAreServed : Prop :=
  ∀ (p : Port) (h : RoceHdr) (x : Nat) (s : State), RoceLands s p h x →
    (∀ (imm first last : Bool) (d : Bytes), RoceExpected s h x → d.length ≤ roceMtu →
      let w := placeWrite (if first then dropMark s x else s)
        (roceAccess (if first then dropMark s x else s) p.val x h d.length true) [3, x] (if last then some 0 else none) h.va.toNat d
      (w.2 = .taken → exec (.roceRdmaWriteRx p h imm ⟨first, last⟩ d) s =
        .next (put (roceOut w.1 p.val opAck x h.psn.toNat) .xptCtx0_epsn (h.psn.toNat + 1) x)) ∧
      (∀ c, w.2 = .refused c → exec (.roceRdmaWriteRx p h imm ⟨first, last⟩ d) s =
        .next (roceOut w.1 p.val opNakAccess x h.psn.toNat)) ∧
      (w.2 = .held → exec (.roceRdmaWriteRx p h imm ⟨first, last⟩ d) s =
        .next (holdBack w.1 (.roceRdmaWriteRx p h imm ⟨first, last⟩ d)))) ∧
    (∀ (imm first last : Bool) (d : Bytes), roceMtu < d.length →
      exec (.roceRdmaWriteRx p h imm ⟨first, last⟩ d) s = .next (roceOut s p.val opNakInvalid x h.psn.toNat)) ∧
    (RoceExpected s h x →
      let w := placeRead s (roceAccess s p.val x h h.len.toNat false) h.va.toNat
      (∀ c, w.2.1 = .refused c → exec (.roceRdmaReadRx p h) s = .next (roceOut w.1 p.val opNakAccess x h.psn.toNat)) ∧
      (w.2.1 = .held → exec (.roceRdmaReadRx p h) s = .next (holdBack w.1 (.roceRdmaReadRx p h))) ∧
      (w.2.1 = .served → exec (.roceRdmaReadRx p h) s = .next (put (((cuts 4096 w.2.2).zipIdx).foldl (fun s c =>
        sendFrame s p.val (roceFrame s x opReadResp ((h.psn.toNat + c.2) % 2 ^ 24) (h.va.toNat + c.1.1) 0 c.1.2.length
          (decide (h.len.toNat ≤ c.1.1 + c.1.2.length)) c.1.2)) w.1) .xptCtx0_epsn (h.psn.toNat + packetsOf h.len.toNat) x))) ∧
    (∀ (imm first last : Bool) (b : Bytes), b.length ≤ roceMtu →
      ∀ i ∈ [Instr.roceRdmaWriteRx p h imm ⟨first, last⟩ b, .roceRdmaReadRx p h], dozing s = false →
      waitsForJob s (get s .xptCtx0_job x) = false →
      let d := (h.psn.toNat + 2 ^ 24 - get s .xptCtx0_epsn x) % 2 ^ 24
      0 < d → d < 2 ^ 23 → exec i s = .next (roceOut s p.val opNakSeq x (get s .xptCtx0_epsn x))) ∧
    (∀ what : RoceOdd, what ≠ .otherService →
      exec (.roceUnsupportedRx p h what) s = .next (roceOut s p.val opNakInvalid x h.psn.toNat)) ∧
    (Runs (.roceUnsupportedRx p h .otherService) s (fun t => Counted s t .xptDrop_service 0 1 ∧ OnlyRegs s t [.xptDrop_service])) ∧
    (∀ (last : Bool) (d : Bytes), waitsForRead s h = false →
      ((ctxOf s x).unacked.find? (fun u => u.pkt.op == opRead && u.psn == h.psn.toNat) = none →
        Runs (.roceReadResponseRx p h last d) s (fun t => t = s)) ∧
      (∀ u, (ctxOf s x).unacked.find? (fun u => u.pkt.op == opRead && u.psn == h.psn.toNat) = some u → asked u ≤ 4096 →
        asked u ≠ 0 → d.length = asked u → bytesMoving s u d.length = false →
        let s1 := setCtx s x { ctxOf s x with
          unacked := (ctxOf s x).unacked.filter (fun v => decide (v ≠ u)), retries := 0, since := s.time.ticks }
        let s2 := giveBytes s1 u d true
        exec (.roceReadResponseRx p h last d) s = .next (if last then pullQueue x (ctxOf s2 x).queue.length s2 else s2))) ∧
    (exec (.roceAckRx p h) s = .next (ackWhere s x (fun u => psnLe u.psn h.psn.toNat && !isRequest u))) ∧
    (let before : Unacked → Bool := fun u => psnLe u.psn h.psn.toNat && u.psn != h.psn.toNat && !isRequest u;
      exec (.roceNakRx p h .sequence) s = .next (resend (ackWhere (bump s .xptRetx_seq_nak) x before) x (fun _ => true)) ∧
      exec (.roceNakRx p h .rnr) s = .next (retryCtx (ackWhere (bump s .xptRetx_rnr) x before) x) ∧
      exec (.roceNakRx p h .remoteAccess) s = .next (failCtx (ackWhere s x before) x 0x06) ∧
      exec (.roceNakRx p h .invalidRequest) s = .next (failCtx (ackWhere s x before) x 0x06)) ∧
    (Runs (.roceCnpRx p h) s (fun t => Counted s t .xptRetx_cnp 0 1 ∧ (ctxOf t x).rateAt = some s.time.ticks ∧
      (ctxOf t x).rate = (match (ctxOf s x).lastCnp with
        | some n => if n + 50000 ≤ s.time.ticks then (ctxOf s x).rate / 2 else (ctxOf s x).rate
        | none => (ctxOf s x).rate / 2) ∧
      KeptRegs s t [.xptRetx_cnp] ∧ KeptMem s t))

/-- R323 and R333: writing valid of a context 1 makes it ready with nothing in flight; writing 0 ends what is in flight on it with code
0x05, one descriptor or other owner of a packet after another, and makes it idle; and a context's rate rises by 1/16 of the port rate
after 50 µs without a CNP. -/
def Obligations.ContextsAndRates : Prop :=
  ∀ (c : BitVec 16) (s : State),
    (fn0Up s = true → fnReady s 5 = true → get s .xptCtx0_valid c.toNat = 0 → Runs (.xptCtxValidate c) s (fun t =>
      get t .xptCtx0_valid c.toNat = 1 ∧ get t .xptCtx0_state c.toNat = 1 ∧ ctxOf t c.toNat = CtxSt.init ∧
      (∀ k, k ≠ c.toNat → ctxOf t k = ctxOf s k ∧ get t .xptCtx0_valid k = get s .xptCtx0_valid k) ∧
      KeptRegs s t [.xptCtx0_valid, .xptCtx0_state] ∧ KeptMem s t)) ∧
    (fn0Up s = true → fnReady s 5 = true → get s .xptCtx0_valid c.toNat ≠ 0 →
      Runs (.xptCtxValidate c) s (fun t => t = s) ∧
      Runs (.xptCtxInvalidate c) s (fun t => get t .xptCtx0_valid c.toNat = 0 ∧ get t .xptCtx0_state c.toNat = 0 ∧
        ctxOf t c.toNat = CtxSt.init) ∧
      (let u := failAll (failBound s c.toNat) s c.toNat 0x05
       Runs (.xptCtxInvalidate c) s (fun t => { t with regs := u.regs, xpt := u.xpt } = u ∧
        KeptRegs u t [.xptCtx0_valid, .xptCtx0_state] ∧ (∀ k, k ≠ c.toNat → ctxOf t k = ctxOf u k)))) ∧
    (∀ (n : Nat) (k : Nat) (d : Desc), ctxDesc s c.toNat = some (k, d) →
      failAll (n + 1) s c.toNat 0x05 = failAll n (abortTask (recordDesc s k d 0x05 (descAddr d)) k d.slot 0x05) c.toNat 0x05) ∧
    (∀ (n : Nat) (u : Unacked), ctxDesc s c.toNat = none →
      ((ctxOf s c.toNat).unacked ++ (ctxOf s c.toNat).queue).find? (fun u => decide (u.owner ≠ .none)) = some u →
      failAll (n + 1) s c.toNat 0x05 =
        failAll n (orphan (failOwner s u.owner 0x05) (fun o => decide (o = u.owner))) c.toNat 0x05) ∧
    (∀ n, ctxDesc s c.toNat = none → (∀ u ∈ (ctxOf s c.toNat).unacked ++ (ctxOf s c.toNat).queue, u.owner = .none) →
      failAll n s c.toNat 0x05 = s) ∧
    (fn0Up s = true → fnReady s 5 = true → get s .xptCtx0_valid c.toNat = 0 → Runs (.xptCtxInvalidate c) s (fun t => t = s)) ∧
    (∀ n, (ctxOf s c.toNat).rateAt = some n → n + 50000 ≤ s.time.ticks → fnReady s 5 = true → (ctxOf s c.toNat).rate < 65536 →
      Runs (.roceRateIncrease c) s (fun t => (ctxOf t c.toNat).rate = min 65536 ((ctxOf s c.toNat).rate + 4096) ∧
        (ctxOf t c.toNat).rateAt = some s.time.ticks ∧ { t with xpt := s.xpt } = s))

/-! ### Links -/

/-- R401 to R404, R408 and R409: a data flit with a good check value and the number expected is taken, and its payload joins what has
arrived; one out of turn or with a wrong check value is discarded with a retry request; acknowledgement numbers free the replay
buffer, and a retry request sends again from its number. Lanes leave a hitless link at once; a retry episode that lasts too
long trains the link again. That an idle flit answers each data flit is the model's choice (log entry 157). -/
def Obligations.LinkFlitsAndLanes : Prop :=
  ∀ (p : Port) (s : State),
    (molLink s p.val = true → ∀ f : BitVec 2048,
      (flitOk f = true → flitType f = 1 →
        let s1 := ackFlits s p.val (flitAck f)
        let l := linkOf s1 p.val
        let x := takePkts ((l.rx ++ flitPayload f).length + 1) (l.rx ++ flitPayload f)
        (flitSeq f = l.rxNext → exec (.linkDataFlitRx p f) s = .next (sendFlit (setLink s1 p.val { l with
          rxNext := (l.rxNext + 1) % 4096, discard := false, episode := none, rx := x.2, pkts := l.pkts ++ x.1 }) p.val flitIdle 0)) ∧
        (flitSeq f ≠ l.rxNext → exec (.linkDataFlitRx p f) s = .next (discardFlit s1 p.val))) ∧
      (flitOk f = true → flitType f = 0 → exec (.linkIdleFlitRx p f) s = .next (ackFlits s p.val (flitAck f))) ∧
      (flitOk f = false → (linkOf s p.val).discard = false → Runs (.linkDataFlitRx p f) s (fun t =>
        t = sendFlit (setLink (beginEpisode (bump s .lnkPerr_crc 1 p.val) p.val) p.val { linkOf (beginEpisode s p.val) p.val with
          discard := true }) p.val flitRetry (linkOf s p.val).rxNext ∧ Counted s t .lnkPerr_crc p.val 1 ∧
        ((linkOf s p.val).episode = none → Counted s t .lnkPerr_retries p.val 1) ∧
        KeptRegs s t [.lnkPerr_crc, .lnkPerr_retries] ∧ KeptMem s t)) ∧
      (flitOk f = false → Runs (.linkIdleFlitRx p f) s (fun t =>
        Counted s t .lnkPerr_crc p.val 1 ∧ OnlyRegs s t [.lnkPerr_crc])) ∧
      (flitOk f = false → (linkOf s p.val).discard = true →
        Runs (.linkDataFlitRx p f) s (fun t => Counted s t .lnkPerr_crc p.val 1 ∧ OnlyRegs s t [.lnkPerr_crc]))) ∧
    (molLink s p.val = true → ∀ (head : BitVec 32) (rest : BitVec 2016),
      let f := joinFlit head rest
      (flitOk f = false → Runs (.linkRetryRequestRx p head rest) s (fun t =>
        Counted s t .lnkPerr_crc p.val 1 ∧ OnlyRegs s t [.lnkPerr_crc])) ∧
      (flitOk f = true → flitType f = 2 → exec (.linkRetryRequestRx p head rest) s =
        .next (pumpFlits (rewind (ackFlits s p.val (flitAck f)) p.val (flitWord f 0 % 2 ^ 12)) p.val))) ∧
    (∀ n, (linkOf s p.val).episode = some n → isModulePort p.val = true → fnReady s 8 = true →
      (n + 1000 * max 10 (get s .lnkCtl_retry_us 0) < s.time.ticks → exec (.linkRetryTimeout p) s = .next (leaveService
        (logEvt (bump s .lnkPerr_trainings 1 p.val) 0x051 8 0 0 p.val ((s.time.ticks - n) / 1000)) p.val 1)) ∧
      (s.time.ticks ≤ n + 1000 * max 10 (get s .lnkCtl_retry_us 0) → Runs (.linkRetryTimeout p) s (fun t => t = s))) ∧
    (∀ f : BitVec 2048, isMolind p.val = true → molLink s p.val = true → flitOk f = true → flitType f = 3 → ctlKind f = 2 →
      let s1 := ackFlits s p.val (flitAck f)
      let d := liveLanes s1 p.val (ctlLanes f)
      exec (.linkLaneDropRx p f) s = .next (if d = 0 then s1 else dropLanes s1 p.val d)) ∧
    (∀ (r : LaneReport), inService s p.val = true →
      fnReady s 8 = true →
      let s1 := bump s .lnkPerr_fec_uncorr ((r.codewords.take 8).map BitVec.toNat).sum p.val
      let d := liveLanes s1 p.val (failedLanes s1 r)
      (∀ i : Fin 8, (failedLanes s1 r).getLsbD i.val = (r.lost.getLsbD i.val ||
        decide (2 ^ get s .lnkCtl_ser_log2 0 < (r.symbols.getD i.val 0).toNat) ||
        decide (max 1 (get s .lnkCtl_fec_ue 0) ≤ (r.codewords.getD i.val 0).toNat))) ∧
      (d = 0 → exec (.laneFailureDetected p r) s = .next s1) ∧
      (d ≠ 0 → exec (.laneFailureDetected p r) s =
        .next (if isMolind p.val then dropLanes (requestRetry (sendFlit s1 p.val flitControl (dropPayload d)) p.val) p.val d
          else renegotiate s1 p.val d))) ∧
    (∀ lanes : BitVec 8,
      let new := BitVec.ofNat 8 (get s .lnkPstat_lanes_ok p.val) &&& ~~~lanes
      let t := dropLanes s p.val lanes
      (linkOf s p.val).hitless = true → new ≠ 0 → get t .lnkPstat_lanes_ok p.val = new.toNat ∧
        get t .lnkPstat_width p.val = laneCount new ∧ lnkState t p.val = lnkState s p.val ∧ KeptMem s t ∧
        KeptRegs s t (.lnkPerr_degrades :: .lnkPstat_lanes_ok :: .lnkPstat_width :: eventFlds))

/-- R405 to R407, R410, R412, R413 and R416: an enabled link that ends its training settles; a capability flit is kept and
acknowledged, one not yet acknowledged goes again after 10 µs; a link that is down trains again after 100 ms; an idle link
enters low power and wakes for traffic; an Ethernet port takes the fastest mode of both ends; writes of `LNK_PCTL` train a
link again or take it down. An address request of the port's own address is answered, and an answer lets the frames that wait for it go,
where the port still has an address. `CTL_PLACE` is written once (R13). -/
def Obligations.LinksTrainAndIdle : Prop :=
  ∀ (p : Port) (s : State),
    (portPresent s p.val = true → fnReady s 8 = true →
      (∀ (lanes : BitVec 8) (half : Bool) (mac : BitVec 48), get s .lnkPctl_en p.val ≠ 0 → get s .lnkPctl_prbs p.val = 0 →
        lnkState s p.val = 1 ∨ lnkState s p.val = 5 ∧ isMolind p.val = true →
        exec (.linkTrained p lanes ⟨half, mac⟩) s = .next (trained s p.val lanes half mac)) ∧
      (isModulePort p.val = true → ∀ f : BitVec 2048, flitOk f = true → flitType f = 3 →
        let s1 := if inService s p.val then ackFlits s p.val (flitAck f) else s
        let c := capFields f
        (lnkState s p.val ≠ 0 → ctlKind f = 1 → exec (.linkCapabilityRx p f) s = .next (capArrived s1 p.val c)) ∧
        (lnkState s p.val ≠ 0 → lnkState s p.val ≠ 1 → ctlKind f = 1 → placed s = false →
          Runs (.linkCapabilityRx p f) s (fun t => (linkOf t p.val).peer = some c ∧ (linkOf t p.val).peerPlaced = c.placed ∧
            get t .lnkPpeer_slot p.val = c.slot.toNat ∧ get t .lnkPpeer_tray p.val = c.tray.toNat ∧
            get t .lnkPpeer_group p.val = c.group.toNat ∧ KeptMem s t ∧ KeptRegs s t [.lnkPpeer_slot, .lnkPpeer_tray,
              .lnkPpeer_group, .lnkPpeer_transport, .lnkPpeer_numeric_gen, .lnkPpeer_mismatch, .lnkPstat_state])) ∧
        (ctlKind f = 3 → exec (.linkCapabilityAckRx ⟨p, f⟩) s =
          .next (setLink s1 p.val { linkOf s1 p.val with capAcked := true }))) ∧
      (isModulePort p.val = true → (linkOf s p.val).capAcked = false → (linkOf s p.val).own ≠ 0 →
        (linkOf s p.val).capAt + 10000 ≤ s.time.ticks → Runs (.capabilityResend p) s (fun t =>
          t = sendFlit (setLink s p.val { linkOf s p.val with capAcked := false, capAt := s.time.ticks }) p.val flitControl
            (capPayload (capFlit s p.val)) ∧ (linkOf t p.val).capAt = s.time.ticks ∧ (linkOf t p.val).capAcked = false ∧
          { t with lnk := s.lnk, out := s.out } = s)) ∧
      (get s .lnkPctl_en p.val ≠ 0 → get s .lnkPctl_prbs p.val = 0 → lnkState s p.val = 0 →
        ((linkOf s p.val).downAt + 100000000 ≤ s.time.ticks → Runs (.linkTrainRetry p) s (fun t => lnkState t p.val = 1 ∧
          OnlyRegs s t [.lnkPstat_state])) ∧
        (s.time.ticks < (linkOf s p.val).downAt + 100000000 → Runs (.linkTrainRetry p) s (fun t => t = s))) ∧
      (isMolind p.val = true → lnkState s p.val = 3 → get s .lnkPctl_lpi_dis p.val = 0 → idleLong s p.val = true →
        Runs (.linkLpiEnter p) s (fun t => lnkState t p.val = 4 ∧ OnlyRegs s t [.lnkPstat_state])) ∧
      (isMolind p.val = true → lnkState s p.val = 4 → (linkOf s p.val).unsent ≠ 0 → Runs (.linkLpiWake p) s (fun t =>
        t = pumpFlits (put s .lnkPstat_state 3 p.val) p.val ∧ lnkState t p.val = 3 ∧ KeptRegs s t [.lnkPstat_state] ∧ KeptMem s t)) ∧
      (isGlobal p.val = true ∨ isFront p.val = true → get s .lnkPctl_en p.val ≠ 0 → lnkState s p.val = 1 → ∀ peer : BitVec 3,
        topMode (ownModes s p.val &&& peer) ≠ 0 → Runs (.ethNegotiationDone p peer) s (fun t =>
          get t .lnkPstat_eth_mode p.val = topMode (ownModes s p.val &&& peer) ∧ OnlyRegs s t [.lnkPstat_eth_mode])) ∧
      (fn0Up s = true →
        exec (.linkRetrain p) s = .next (lnkCtlWrite s p.val (lnkCtlWord s p.val + 4)) ∧
        exec (.linkPrbs p) s = .next (lnkCtlWrite s p.val (lnkCtlWord s p.val % 1024 + 1024)))) ∧
    (∀ v : Nat,
      (tst v 0 = true → tst v 10 = false → tst v 2 = true →
        lnkState (lnkCtlWrite s p.val v) p.val = 1 ∧ get (lnkCtlWrite s p.val v) .lnkPstat_width p.val = 0) ∧
      (tst v 0 = false ∨ tst v 10 = true → get s .lnkPctl_en p.val ≠ 0 → get s .lnkPctl_prbs p.val = 0 →
        lnkState (lnkCtlWrite s p.val v) p.val = 0)) ∧
    (∀ (e : Fin 7) (v6 : Bool) (a : BitVec 128) (mac : BitVec 48), inService s (40 + e.val) = true → fnReady s 8 = true →
      (ethOwn s e.val v6 a.toNat = true → Runs (.ethArpNdRx e v6 ⟨false, a, mac⟩) s (fun t =>
        t = { s with out := s.out ++ [.arp (40 + e.val) v6 true a] })) ∧
      (ethOwn s e.val v6 a.toNat = false → Runs (.ethArpNdRx e v6 ⟨false, a, mac⟩) s (fun t => t = s)) ∧
      (let d := if v6 then a else BitVec.ofNat 128 (0xFFFF * 2 ^ 32 + a.toNat % 2 ^ 32);
        Runs (.ethArpNdRx e v6 ⟨true, a, mac⟩) s (fun t => neighbour (linkOf t (40 + e.val)) d = some mac ∧
          (∀ f ∈ (linkOf t (40 + e.val)).resolve, f.dst ≠ d) ∧
          t.out = s.out ++ (if lnkState s (40 + e.val) = 3 then
            ((linkOf s (40 + e.val)).resolve.filter (fun f => f.dst == d)).filterMap (fun f =>
              (ethSrc s e.val d.toNat).map (fun a => .roce (40 + e.val) { f with
                src := BitVec.ofNat 128 a
                mac := if onLink s e.val d.toNat then mac else BitVec.ofNat 48 (get s .lnkEgw_gw_mac e.val) })) else []) ∧
          KeptRegs s t [] ∧ KeptMem s t))) ∧
    (∀ v : BitVec 64, fn0Up s = true →
      (placed s = true → Runs (.ctlPlaceWrite v) s (fun t => t = s)) ∧
      (placed s = false → Runs (.ctlPlaceWrite v) s (fun t => get t .ctlPlace_slot 0 = bitsOf v.toNat 1 0 ∧
        get t .ctlPlace_tray 0 = bitsOf v.toNat 4 2 ∧ get t .ctlPlace_group 0 = bitsOf v.toNat 11 5 ∧
        get t .ctlPlace_groups_m1 0 = bitsOf v.toNat 18 12 ∧ get t .ctlPlace_placed 0 = bitsOf v.toNat 19 19 ∧ KeptMem s t)))

/-! ### Translations, moves and pools -/

/-- R268, R280, R281, R286, R287 and R291 to R297: an invalidation takes out of the TLBs what is in its scope and nothing else, and is done
once no access of its scope is under way; pools are enabled with their marks in order; spills and returns of KV pages start
where they are due and end with the page in its new place; the patrol scrub corrects a unit or records it, outside Doze. That a spill or a return fails at
its end where the page's descriptor or tables are gone, with code 0x02, is the model's choice (log entry 153). -/
def Obligations.TranslationsMovesAndPools : Prop :=
  ∀ (s : State), fnReady s 7 = true →
    (∀ x ∈ [0, 1, 2, 3],
      ∀ (job : BitVec 12) (va : BitVec 39) (count : BitVec 32), fn0Up s = true → get s .mmuInval_done 0 ≠ 0 →
      let i : Instr := if x = 0 then .mmuInvalPages job va count else if x = 1 then .mmuInvalJob job
        else if x = 2 then .mmuInvalAll else .mmuInvalWindows
      Runs i s (fun t => get t .mmuInval_done 0 = 0 ∧
        (∀ e, e ∈ t.mmu.tlb ↔ e ∈ s.mmu.tlb ∧ inInval x job.toNat (65536 * va.toNat) count.toNat e = false) ∧
        (x = 3 → t.mmu.wins = []) ∧ (x ≠ 3 → t.mmu.wins = s.mmu.wins) ∧ KeptMem s t ∧
        KeptRegs s t [.mmuInvalVa_va, .mmuInval_kind, .mmuInval_job, .mmuInval_count, .mmuInval_done])) ∧
    (get s .mmuInval_done 0 = 0 →
      (invalBusy s = false → Runs .mmuInvalDone s (fun t => get t .mmuInval_done 0 = 1 ∧
        (∀ e, e ∈ t.mmu.tlb ↔ e ∈ s.mmu.tlb ∧ (get s .mmuInval_kind 0 = 3 ∨ inInval (get s .mmuInval_kind 0)
          (get s .mmuInval_job 0) s.mmu.invalVa (get s .mmuInval_count 0) e = false)) ∧
        (get s .mmuInval_kind 0 = 3 → t.mmu.wins = []) ∧ KeptRegs s t [.mmuInval_done] ∧ KeptMem s t)) ∧
      (invalBusy s = true → Runs .mmuInvalDone s (fun t => t = s))) ∧
    (∀ (p : Fin 64) (base : BitVec 46) (job : BitVec 12), fn0Up s = true → get s .mmuPoola_en p.val = 0 →
      get s .mmuPoolc_lwm p.val ≤ get s .mmuPoolc_hwm p.val → get s .mmuPoolc_hwm p.val ≤ get s .mmuPoolb_size p.val →
      Runs (.mmuPoolEnable p base job) s (fun t => get t .mmuPoola_en p.val = 1 ∧ get t .mmuPoola_list_base p.val = base.toNat ∧
        get t .mmuPoola_job p.val = job.toNat ∧ mget 0 t.mmu.ring p.val = 0 ∧ KeptMem s t ∧
        KeptRegs s t [.mmuPoola_en, .mmuPoola_list_base, .mmuPoola_job])) ∧
    (∀ p : Fin 64, fn0Up s = true → Runs (.mmuPoolFaultClear p) s (fun t => get t .mmuPoold_tail_fault p.val = 0 ∧
      OnlyRegs s t [.mmuPoold_tail_fault])) ∧
    (∀ p : Fin 64, unitRuns s p.val = true →
      (demandDue s p.val = false → spillDue s p.val = true → ∀ x, oldestPage s p.val = some x →
        let u := lookPages s p.val
        exec (.kvSpillStart p) s = .next (endSpilling (startSpill
          { u with mmu := { u.mmu with spilling := mset 0 u.mmu.spilling p.val 1 } } p.val x.2.1 x.2.2) p.val)) ∧
      (demandDue s p.val = true ∨ spillDue s p.val = false → Runs (.kvSpillStart p) s (fun t => t = s)) ∧
      (∀ q, let u := lookFirst s p.val
        nextReturn u p.val = some q →
        (get u .mmuPoolb_free p.val ≠ 0 → exec (.kvReturnStart p) s = .next (startReturn u q)) ∧
        (get u .mmuPoolb_free p.val = 0 → q.waits = true → exec (.kvReturnStart p) s = .next u)) ∧
      (demandDue s p.val = true → lookFirst s p.val = s)) ∧
    (∀ (w : BitVec 14) (page : BitVec 22) (m : KvMove), moveOf s w.toNat page.toNat = some m → m.fail = none → m.left = 0 →
      let r := winWords s m.window
      let gone : Bool := moveLost s m || decide (pushBad s m.pool ≠ 0)
      let s0 := fixPage s r m.page
      (m.ret = false → m.begun = true → gone = true → exec (.kvSpillDone w page) s =
        .next (bump (tailFault (setPd (dropMove (noteSpillUe s m) m) r m.page 3 0) m.pool 0x02) .mmuKvcnt1_spill_failed)) ∧
      (m.ret = false → m.begun = true → gone = false →
        let t := pageTail r m.page
        exec (.kvSpillDone w page) s = .next (bumpW (pushFrame (setPd (setPd (setL3 (dropMove s0 m) r m.page (l3Entry 2 t)) r
          m.page 4 t) r m.page 3 2) m.pool m.frame) .mmuKvcnt0_spills)) ∧
      (m.ret = true → moveLost s m = true → exec (.kvReturnDone w page) s = .next (returnFails (noteMoveUe s m) m 0x02)) ∧
      (m.ret = true → moveLost s m = false →
        let s1 := setL3 (dropMove (seenPage s0 m.window m.page) m) r m.page (l3Entry 0 m.frame)
        exec (.kvReturnDone w page) s =
          .next (bumpW (setPd (setPd s1 r m.page 3 0) r m.page 5 s1.time.tide) .mmuKvcnt0_returns))) ∧
    (∀ u : BitVec 40, dozing s = true → Runs (.hbmPatrolScrub u) s (fun t => t = s)) ∧
    (∀ u : BitVec 40, dozing s = false → get s .hbmCtl_scrub_hours 0 ≠ 0 → inHbm s (64 * u.toNat) = true →
      (∀ e, readFault s (64 * u.toNat) 64 = some e → exec (.hbmPatrolScrub u) s = .next (noteUe s (64 * u.toNat) 0 255 true)) ∧
      (readFault s (64 * u.toNat) 64 = none → exec (.hbmPatrolScrub u) s = .next (correct s (64 * u.toNat) 64)))

/-! ### Media and the arithmetic clock -/

/-- R427 to R430, R433, R445 and R446: the tail of a ring takes what is written; the engine starts the record at its head where the
operation is its own, and ends its task with the head at the next record. R387: a task that writes into a gradient view which has closed
since its start aborts with code 0x01 and reason 3 in `MMU_FAULT0`. That `MED_EeERR0` shows reason 8 for it, with no offset, is the model's
choice (log entry 166). -/
def Obligations.MediaTasksRun : Prop :=
  ∀ (e : Fin 2) (s : State), fnReady s 6 = true →
    (∀ tail : BitVec 16, fn0Up s = true → Runs (.mediaTailWrite e tail) s (fun t => get t .medTail_tail e.val = tail.toNat ∧
      OnlyRegs s t [.medTail_tail])) ∧
    (running s = true → ringBusy s e.val = true → (medOf s e.val).task = none →
      let o := ringBase s e.val + 64 * (get s .medHead_head e.val % ringSize s e.val)
      let x := readOff s 0 255 o 64
      let r := medWords x.2.2
      inHbm s o = true → x.2.1 = 0 → (resident s (mJob r) = true → eclipsed s (mJob r) = false ∧ medMoving s r = false) →
        (∀ y ∈ [(Instr.mediaDecodeTask e, true), (.mediaEncodeTask e, false)],
          ((mOp r = 2 ↔ y.2 = false) → exec y.1 s = .next (setMed (put (runTask x.1 r).1 .medHead_state 1 e.val) e.val
            ⟨some (runTask x.1 r).2⟩)) ∧
          (¬(mOp r = 2 ↔ y.2 = false) → Runs y.1 s (fun t => t = s)))) ∧
    (running s = true → ∀ k, (medOf s e.val).task = some k →
      (k.err = none → closedAt s (mJob k.rec_) (lastWrites k) = none →
        exec (.mediaTaskComplete e) s = .next (taskEnded s e.val k)) ∧
      (k.err = none → closedAt s (mJob k.rec_) (lastWrites k) ≠ none → exec (.mediaTaskComplete e) s =
        .next (taskAborted (noteClosed s (mJob k.rec_) (lastWrites k)) e.val { k with undef := k.ranges } 0x01 8 0 0)) ∧
      (∀ b, k.err = some b → exec (.mediaTaskComplete e) s = .next (taskAborted s e.val k b.1 b.2.1 b.2.2.1 b.2.2.2))) ∧
    (∀ u : State, let t := nextRecord u e.val
      medOf t e.val = MedSt.init ∧ get t .medHead_state e.val = 0 ∧
      get t .medHead_head e.val = (get u .medHead_head e.val + 1) % ringSize u e.val % 2 ^ Fld.medHead_head.width ∧
      KeptRegs u t [.medHead_head, .medHead_state] ∧ KeptMem u t)

/-- R340, R341 and R345: in each clk of a working core's arithmetic clock a slot that holds a job counts one cause, the first that
applies, the primary in its own counters and the filler in its own, and nothing else of its causes moves. A filler that the gate holds
counts as cause 1 and in `CORE_FILL_GATED` too: that takes a primary slot which holds a job, and a gate that its cause has shut. R339 and
R340: the gate of the next clk is the bit of the primary's host record for the cause of this one, and open where there is no primary job.
`CORE_FILL_YIELD` counts the clks in which a primary command waits for an array that the filler holds and the primary counts as busy,
which is the model's choice (log entry 204); `ATT_WAIT` those in which a KV reader waits for a page. A slot without a job counts no cause,
and a core that does not work counts nothing. That the operation table's clk ends with this one, and what it raised is logged, is the
model's choice too (log entry 189). -/
def Obligations.ClockTicksCountOneCause : Prop :=
  ∀ (c : Core) (s : State),
    (let u := closeClk s
     { u with regs := s.regs, num := s.num, evt := s.evt, out := s.out } = s ∧ KeptRegs s u eventFlds ∧
       u.num = { s.num with fresh := [], base := [], worst := none, due := [] } ∧
       (s.num.due = [] → { u with num := s.num } = s)) ∧
    (coreUp s c = true → Runs (.arithmeticClockTick c) s (fun t =>
      ∃ u, u = closeClk s ∧
      get t .coreIdleClk_clk c.val = (get u .coreIdleClk_clk c.val + 1) % 2 ^ Fld.coreIdleClk_clk.width ∧
      (∀ x ∈ [(Slot.prim, Fld.coreIdleP_clk), (.fill, .coreIdleF_clk)],
        (slotGroup u c x.1 ≠ none → (slotOf t c x.1).cause = (slotCause u c x.1).1 ∧
          ∀ i, get t x.2 i = if i = 13 * c.val + (slotCause u c x.1).1 then (get u x.2 i + 1) % 2 ^ x.2.width else get u x.2 i) ∧
        (slotGroup u c x.1 = none → (slotOf t c x.1).cause = 1 ∧ ∀ i, get t x.2 i = get u x.2 i) ∧
        (slotOf t c x.1).issued = false ∧ taskOf t c x.1 = taskOf u c x.1 ∧ (∀ r, sregOf t c x.1 r = sregOf u c x.1 r)) ∧
      (slotGroup u c .prim ≠ none → slotGroup u c .fill ≠ none → get t .coreFillGated_clk c =
        if (slotCause u c .fill).2 then (get u .coreFillGated_clk c + 1) % 2 ^ Fld.coreFillGated_clk.width
          else get u .coreFillGated_clk c) ∧
      (slotGroup u c .prim = none ∨ slotGroup u c .fill = none → get t .coreFillGated_clk c = get u .coreFillGated_clk c) ∧
      (coreOf t c).gate = (match slotGroup u c .prim with
        | none => true
        | some g => tst (gateOf (coreStr u c) g.index) (slotOf t c .prim).cause) ∧
      get t .coreFillYield_clk c = (if yields u c then (get u .coreFillYield_clk c + 1) % 2 ^ Fld.coreFillYield_clk.width
        else get u .coreFillYield_clk c) ∧
      get t .attWait_clk c = (if (coreOf u c).flight.any (readerWaits u c) then (get u .attWait_clk c + 1) % 2 ^ Fld.attWait_clk.width
        else get u .attWait_clk c) ∧
      (∀ d, d ≠ c.val → coreOf t d = coreOf u d) ∧ KeptMem u t ∧
      KeptRegs u t [.coreIdleClk_clk, .coreIdleP_clk, .coreIdleF_clk, .coreFillGated_clk, .coreFillYield_clk, .attWait_clk])) ∧
    ((slotCause s c .fill).2 = true →
      (slotCause s c .fill).1 = 1 ∧ slotGroup s c .prim ≠ none ∧ (coreOf s c).gate = false) ∧
    (∀ l rest, (slotOf s c .fill).queue = l :: rest → (slotOf s c .fill).task = none → (slotOf s c .fill).issued = false →
      throttled s = false → eclipsed s (jobIn s c .fill) = false → l.failed = true ∨ released s l.release = true →
      slotCause s c .fill = if slotGroup s c .prim ≠ none ∧ (coreOf s c).gate = false then (1, true) else (0, false)) ∧
    (coreUp s c = false → Runs (.arithmeticClockTick c) s (fun t => t = s))

/-! ### Every step -/

/-- A step takes the command at the front of the queue and runs it with the queue's rest; with nothing waiting the module idles (the
model's choice, log entry 10). -/
def Obligations.StepRunsTheFrontCommand : Prop :=
  (∀ (c : Instr) (rest : List Instr) (s : State), step { s with pending := c :: rest } = exec c { s with pending := rest }) ∧
  (∀ s : State, s.pending = [] → step s = .next s)

/-- R464 and R465: right after reset memory reads zero, every register field holds the value of its Reset column, FN0 is ready and FN1
to FN8 are in reset, and nothing waits or is in flight. Memory has its canonical form and no field exceeds its width. That
State.reset is the 2 ms row is the model's choice (log entry 5). -/
def Obligations.ResetIsClean : Prop :=
  (∀ a, rdByte State.reset a = 0) ∧ (∀ (f : Fld) (i : Nat), get State.reset f i = fldReset Fuses.init f i) ∧
  fnReady State.reset 0 = true ∧ (∀ n < 9, n ≠ 0 → fnReady State.reset n = false ∧ inReset State.reset n = true) ∧
  State.reset.pending = [] ∧ (∀ c sl, taskOf State.reset c sl = none) ∧ memWf State.reset = true ∧ regsFit State.reset.regs

/-- Every step keeps the canonical form of memory, and the register map with every field within its width. -/
def Obligations.StepsKeepMemoryAndRegistersInForm : Prop :=
  ∀ s t : State, memWf s = true → regsFit s.regs → step s = .next t → memWf t = true ∧ regsFit t.regs

/-- R470: every command answers a next state, from every state in form; that a row whose condition does not hold changes nothing, and
stops nothing, is the model's choice (log entry 70). None stops the module, none touches the commands that
wait behind it, and none changes what the fuses hold: the variant, the serial number, the least foundation version, the revoked
key slots and the MAC addresses. -/
def Obligations.EveryCommandGoesOn : Prop :=
  ∀ (i : Instr) (s : State), memWf s = true → regsFit s.regs →
    ∃ t, exec i s = .next t ∧ t.pending = s.pending ∧ sameFused s.fuses t.fuses

/-- R146: where each field stands in an instruction word. Bits [15:0] are those of every instruction, and bits [127:16] of every class
but tensor hold the register form; each 128-bit word is the word of one opcode and one set of fields, and of one only. The class is
bits [7:5], and an instruction runs as the word that its opcode and its fields make, and as no other. Reserved fields are 0. -/
def Obligations.InstructionWordsTellEveryField : Prop :=
  (∀ (op : Nat) (f : RegForm), op < 256 → let w := regWord op f
    w < 2 ^ 128 ∧ bitsOf w 7 0 = op ∧ bitsOf w 10 8 = f.pred.toNat ∧ tst w 11 = f.pneg ∧ bitsOf w 15 12 = f.rsv0.toNat ∧
    bitsOf w 21 16 = f.rd.toNat ∧ bitsOf w 27 22 = f.ra.toNat ∧ bitsOf w 33 28 = f.rb.toNat ∧ bitsOf w 39 34 = f.rc.toNat ∧
    bitsOf w 43 40 = f.fmt.toNat ∧ bitsOf w 45 44 = f.smode.toNat ∧ bitsOf w 47 46 = f.rnd.toNat ∧ bitsOf w 51 48 = f.sub.toNat ∧
    bitsOf w 63 52 = f.rsv1.toNat ∧ bitsOf w 127 64 = f.imm.toNat) ∧
  (∀ w : BitVec 128, ∃ (op : Nat) (f : RegForm), op < 256 ∧ regWord op f = w.toNat ∧
    ∀ (b : Nat) (g : RegForm), b < 256 → regWord b g = w.toNat → b = op ∧ g = f) ∧
  (∀ (op : Nat) (f : TensorForm), op < 256 → let w := tensorWord op f
    bitsOf w 7 0 = op ∧ bitsOf w 10 8 = f.pred.toNat ∧ tst w 11 = f.pneg ∧ bitsOf w 15 12 = f.rsv0.toNat) ∧
  (∀ f : RegForm, f.rsv0 ≠ 0 ∨ f.rsv1 ≠ 0 → ∀ b, regOk f b = false) ∧
  (∀ x ∈ ([([(Instr.nop, 0x00), (.endInstr, 0x01), (.br, 0x02), (.loop, 0x03), (.event, 0x04)], 0),
        ([(.smovi, 0x20), (.sadd, 0x21), (.ssub, 0x22), (.smul, 0x23), (.sand, 0x24), (.sor, 0x25), (.sxor, 0x26), (.sshl, 0x27),
          (.sshr, 0x28), (.ssra, 0x29), (.scmp, 0x2A), (.plog, 0x2B), (.sld, 0x2C), (.sst, 0x2D), (.sinfo, 0x2E)], 1),
        ([(.vld, 0x60), (.vst, 0x61), (.vadd, 0x62), (.vsub, 0x63), (.vmul, 0x64), (.vfma, 0x65), (.vmax, 0x66), (.vmin, 0x67),
          (.vabs, 0x68), (.vneg, 0x69), (.vmov, 0x6A), (.vcmp, 0x6B), (.vbcast, 0x6C), (.vshuf, 0x6D), (.vred, 0x6E), (.vdiv, 0x6F),
          (.vsqrt, 0x70), (.vexp, 0x71), (.vlog, 0x72), (.vrcp, 0x73), (.vrsq, 0x74)], 3),
        ([(.dmaq, 0x80), (.dmaf, 0x81)], 4), ([(.tcset, 0xA0), (.tcadd, 0xA1), (.tcrd, 0xA2)], 5),
        ([(.waittc, 0xC0), (.waitdma, 0xC1), (.waitarr, 0xC2), (.waittide, 0xC3), (.waitslot, 0xC4)], 6),
        ([(.vcvt, 0xE0), (.vseed, 0xE1), (.vrng, 0xE2), (.ntag, 0xE3), (.nmaxr, 0xE4)], 7)] :
        List (List ((Core → Slot → RegForm → Instr) × Nat) × Nat)),
    ∀ y ∈ x.1, ∀ (c : Core) (sl : Slot) (f : RegForm) (s : State) (w : BitVec 128), bitsOf (regWord y.2 f) 7 5 = x.2 ∧
      (lineOf s c sl = some w → IbufGood s c = true → w.toNat ≠ regWord y.2 f → Runs (y.1 c sl f) s (fun t => t = s))) ∧
  (∀ y ∈ ([(Instr.tload, 0x40), (.tstream, 0x41), (.tdrain, 0x42)] : List ((Core → Slot → TensorForm → Instr) × Nat)),
    ∀ (c : Core) (sl : Slot) (f : TensorForm) (s : State) (w : BitVec 128), bitsOf (tensorWord y.2 f) 7 5 = 2 ∧
      (lineOf s c sl = some w → IbufGood s c = true → w.toNat ≠ tensorWord y.2 f → Runs (y.1 c sl f) s (fun t => t = s)))
end

