-- ==== Sys2Proof/Laws/Map.lean ====
section
/-!
SUPPORT. Sparse maps: what is read after a write, and that every operation keeps the canonical form.
-/
namespace Sys2Proof.Machine

variable {α : Type}

theorem msorted_tail {p : Nat × α} {m : List (Nat × α)} (h : msorted (p :: m) = true) : msorted m = true := by
  cases m with
  | nil => rfl
  | cons q m => obtain ⟨k, v⟩ := p; obtain ⟨k', v'⟩ := q; simp [msorted] at h; exact h.2

/-- The head of a sorted map lies below every key of the rest. -/
theorem msorted_head_lt {k : Nat} {v : α} {m : List (Nat × α)} (h : msorted ((k, v) :: m) = true) :
    ∀ p ∈ m, k < p.1 := by
  induction m generalizing k v with
  | nil => simp
  | cons q m ih =>
    obtain ⟨k', v'⟩ := q
    simp [msorted] at h
    intro p hp
    rcases List.mem_cons.mp hp with rfl | hp
    · exact h.1
    · exact Nat.lt_trans h.1 (ih h.2 p hp)

theorem msorted_cons {k : Nat} {v : α} {m : List (Nat × α)} (hm : msorted m = true) (hk : ∀ p ∈ m, k < p.1) :
    msorted ((k, v) :: m) = true := by
  cases m with
  | nil => rfl
  | cons q m => obtain ⟨k', v'⟩ := q; simp [msorted, hm]; exact hk _ (List.mem_cons_self ..)

theorem msorted_filter {m : List (Nat × α)} (f : Nat × α → Bool) (h : msorted m = true) : msorted (m.filter f) = true := by
  induction m with
  | nil => rfl
  | cons p m ih =>
    obtain ⟨k, v⟩ := p
    by_cases hf : f (k, v) = true
    · rw [List.filter_cons_of_pos hf]
      exact msorted_cons (ih (msorted_tail h)) (fun p hp => msorted_head_lt h p (List.mem_filter.mp hp).1)
    · rw [List.filter_cons_of_neg hf]
      exact ih (msorted_tail h)

theorem mput_keys {m : List (Nat × α)} {k : Nat} {v : α} : ∀ p ∈ mput m k v, p = (k, v) ∨ p ∈ m := by
  induction m with
  | nil => simp [mput]
  | cons q m ih =>
    obtain ⟨k', v'⟩ := q
    intro p hp
    unfold mput at hp
    split at hp
    · rcases List.mem_cons.mp hp with h | h
      · exact .inl h
      · exact .inr h
    · split at hp
      · rcases List.mem_cons.mp hp with h | h
        · exact .inl h
        · exact .inr (List.mem_cons_of_mem _ h)
      · rcases List.mem_cons.mp hp with h | h
        · exact .inr (h ▸ List.mem_cons_self ..)
        · rcases ih p h with h | h
          · exact .inl h
          · exact .inr (List.mem_cons_of_mem _ h)

theorem msorted_mput {m : List (Nat × α)} (k : Nat) (v : α) (h : msorted m = true) : msorted (mput m k v) = true := by
  induction m with
  | nil => rfl
  | cons q m ih =>
    obtain ⟨k', v'⟩ := q
    unfold mput
    split
    · exact msorted_cons h (fun p hp => by
        rcases List.mem_cons.mp hp with rfl | hp
        · assumption
        · exact Nat.lt_trans (by assumption) (msorted_head_lt h p hp))
    · split
      · subst_vars
        exact msorted_cons (msorted_tail h) (fun p hp => msorted_head_lt h p hp)
      · refine msorted_cons (ih (msorted_tail h)) (fun p hp => ?_)
        rcases mput_keys p hp with rfl | hp
        · simp only; omega
        · exact msorted_head_lt h p hp

theorem msorted_mset [DecidableEq α] {d : α} {m : List (Nat × α)} (k : Nat) (v : α) (h : msorted m = true) :
    msorted (mset d m k v) = true := by
  unfold mset mdel
  split
  · exact msorted_filter _ h
  · exact msorted_mput k v h

theorem mget_mput {d : α} {m : List (Nat × α)} (k j : Nat) (v : α) :
    mget d (mput m k v) j = if j = k then v else mget d m j := by
  induction m with
  | nil => simp [mput, mget]
  | cons q m ih =>
    obtain ⟨k', v'⟩ := q
    unfold mput
    split
    · simp [mget]
    · split
      · rename_i h
        by_cases hj : j = k <;> simp [mget, hj, ← h]
      · simp only [mget, ih]
        by_cases hj : j = k
        · subst hj
          rw [if_neg (by assumption), if_pos rfl]
          simp
        · simp [hj]

theorem mget_mdel {d : α} {m : List (Nat × α)} (k j : Nat) :
    mget d (mdel m k) j = if j = k then d else mget d m j := by
  unfold mdel
  induction m with
  | nil => simp [mget]
  | cons q m ih =>
    obtain ⟨k', v'⟩ := q
    by_cases hk : k' = k
    · subst hk
      rw [List.filter_cons_of_neg (by simp), ih]
      by_cases hj : j = k' <;> simp [mget, hj]
    · rw [List.filter_cons_of_pos (by simp [hk])]
      simp only [mget, ih]
      by_cases hj : j = k'
      · subst hj; simp [hk]
      · simp [hj]

/-- A key reads as what was written last, and every other key as before. -/
theorem mget_mset [DecidableEq α] {d : α} {m : List (Nat × α)} (k j : Nat) (v : α) :
    mget d (mset d m k v) j = if j = k then v else mget d m j := by
  unfold mset
  split
  · subst_vars; rw [mget_mdel]
  · rw [mget_mput]

@[simp] theorem mget_mset_same [DecidableEq α] {d : α} {m : List (Nat × α)} (k : Nat) (v : α) :
    mget d (mset d m k v) k = v := by simp [mget_mset]

/-- Another key reads as before, whatever it reads as where it is not listed. -/
theorem mget_mset_ne [DecidableEq α] {d e : α} {m : List (Nat × α)} {k j : Nat} (v : α) (h : j ≠ k) :
    mget e (mset d m k v) j = mget e m j := by
  unfold mset
  split
  · rw [mget_mdel, if_neg h]
  · rw [mget_mput, if_neg h]

theorem mget_filter {d : α} {m : List (Nat × α)} (f : Nat × α → Bool) (h : msorted m = true) (j : Nat) :
    mget d (m.filter f) j = mget d m j ∨ mget d (m.filter f) j = d := by
  induction m with
  | nil => simp [mget]
  | cons q m ih =>
    obtain ⟨k, v⟩ := q
    by_cases hf : f (k, v) = true
    · rw [List.filter_cons_of_pos hf]
      simp only [mget]
      split
      · exact .inl rfl
      · exact ih (msorted_tail h)
    · rw [List.filter_cons_of_neg hf]
      by_cases hj : j = k
      · subst hj
        refine .inr ?_
        have hlt := msorted_head_lt h
        clear ih hf h
        induction m with
        | nil => rfl
        | cons r m ih2 =>
          obtain ⟨k2, v2⟩ := r
          have h2 : j < k2 := hlt _ (List.mem_cons_self ..)
          have ih3 := ih2 (fun p hp => hlt p (List.mem_cons_of_mem _ hp))
          by_cases hf2 : f (k2, v2) = true
          · rw [List.filter_cons_of_pos hf2]; simp only [mget]; rw [if_neg (by omega)]; exact ih3
          · rw [List.filter_cons_of_neg hf2]; exact ih3
      · simp only [mget, if_neg hj]
        exact ih (msorted_tail h)

theorem mwf_filter [DecidableEq α] {d : α} {m : List (Nat × α)} (f : Nat × α → Bool) (h : mwf d m = true) :
    mwf d (m.filter f) = true := by
  simp only [mwf, Bool.and_eq_true, List.all_eq_true] at h ⊢
  exact ⟨msorted_filter f h.1, fun p hp => h.2 p (List.mem_filter.mp hp).1⟩

/-- A write keeps the canonical form: the default removes the entry, and any other value is listed in its place. -/
theorem mwf_mset [DecidableEq α] {d : α} {m : List (Nat × α)} (k : Nat) (v : α) (h : mwf d m = true) :
    mwf d (mset d m k v) = true := by
  unfold mset mdel
  split
  · exact mwf_filter _ h
  · simp only [mwf, Bool.and_eq_true, List.all_eq_true] at h ⊢
    refine ⟨msorted_mput k v h.1, fun p hp => ?_⟩
    rcases mput_keys p hp with rfl | hp
    · simpa
    · exact h.2 p hp

end Sys2Proof.Machine
end

