-- ==== Sys2Proof/Laws/State.lean ====
section
/-!
SUPPORT. What each update of the state leaves alone: one lemma for each field and update, true by unfolding the record.
-/
namespace Sys2Proof.Machine

variable (s : State)

@[simp] theorem put_pending (f : Fld) (v i : Nat) : (put s f v i).pending = s.pending := rfl
@[simp] theorem put_fuses (f : Fld) (v i : Nat) : (put s f v i).fuses = s.fuses := rfl
@[simp] theorem put_mem (f : Fld) (v i : Nat) : (put s f v i).mem = s.mem := rfl
@[simp] theorem put_ecc (f : Fld) (v i : Nat) : (put s f v i).ecc = s.ecc := rfl
@[simp] theorem put_time (f : Fld) (v i : Nat) : (put s f v i).time = s.time := rfl
@[simp] theorem put_ctl (f : Fld) (v i : Nat) : (put s f v i).ctl = s.ctl := rfl
@[simp] theorem put_shp (f : Fld) (v i : Nat) : (put s f v i).shp = s.shp := rfl
@[simp] theorem put_cores (f : Fld) (v i : Nat) : (put s f v i).cores = s.cores := rfl
@[simp] theorem put_num (f : Fld) (v i : Nat) : (put s f v i).num = s.num := rfl
@[simp] theorem put_mmu (f : Fld) (v i : Nat) : (put s f v i).mmu = s.mmu := rfl
@[simp] theorem put_xpt (f : Fld) (v i : Nat) : (put s f v i).xpt = s.xpt := rfl
@[simp] theorem put_col (f : Fld) (v i : Nat) : (put s f v i).col = s.col := rfl
@[simp] theorem put_lnk (f : Fld) (v i : Nat) : (put s f v i).lnk = s.lnk := rfl
@[simp] theorem put_med (f : Fld) (v i : Nat) : (put s f v i).med = s.med := rfl
@[simp] theorem put_pwr (f : Fld) (v i : Nat) : (put s f v i).pwr = s.pwr := rfl
@[simp] theorem put_evt (f : Fld) (v i : Nat) : (put s f v i).evt = s.evt := rfl
@[simp] theorem put_out (f : Fld) (v i : Nat) : (put s f v i).out = s.out := rfl
@[simp] theorem put_free (f : Fld) (v i : Nat) : (put s f v i).free = s.free := rfl

@[simp] theorem bump_pending (f : Fld) (n i : Nat) : (bump s f n i).pending = s.pending := rfl
@[simp] theorem bump_fuses (f : Fld) (n i : Nat) : (bump s f n i).fuses = s.fuses := rfl
@[simp] theorem bump_mem (f : Fld) (n i : Nat) : (bump s f n i).mem = s.mem := rfl
@[simp] theorem bump_ecc (f : Fld) (n i : Nat) : (bump s f n i).ecc = s.ecc := rfl
@[simp] theorem bump_time (f : Fld) (n i : Nat) : (bump s f n i).time = s.time := rfl
@[simp] theorem bump_ctl (f : Fld) (n i : Nat) : (bump s f n i).ctl = s.ctl := rfl
@[simp] theorem bump_shp (f : Fld) (n i : Nat) : (bump s f n i).shp = s.shp := rfl
@[simp] theorem bump_cores (f : Fld) (n i : Nat) : (bump s f n i).cores = s.cores := rfl
@[simp] theorem bump_num (f : Fld) (n i : Nat) : (bump s f n i).num = s.num := rfl
@[simp] theorem bump_mmu (f : Fld) (n i : Nat) : (bump s f n i).mmu = s.mmu := rfl
@[simp] theorem bump_xpt (f : Fld) (n i : Nat) : (bump s f n i).xpt = s.xpt := rfl
@[simp] theorem bump_col (f : Fld) (n i : Nat) : (bump s f n i).col = s.col := rfl
@[simp] theorem bump_lnk (f : Fld) (n i : Nat) : (bump s f n i).lnk = s.lnk := rfl
@[simp] theorem bump_med (f : Fld) (n i : Nat) : (bump s f n i).med = s.med := rfl
@[simp] theorem bump_pwr (f : Fld) (n i : Nat) : (bump s f n i).pwr = s.pwr := rfl
@[simp] theorem bump_evt (f : Fld) (n i : Nat) : (bump s f n i).evt = s.evt := rfl
@[simp] theorem bump_out (f : Fld) (n i : Nat) : (bump s f n i).out = s.out := rfl
@[simp] theorem bump_free (f : Fld) (n i : Nat) : (bump s f n i).free = s.free := rfl

@[simp] theorem bumpW_pending (f : Fld) (n i : Nat) : (bumpW s f n i).pending = s.pending := rfl
@[simp] theorem bumpW_fuses (f : Fld) (n i : Nat) : (bumpW s f n i).fuses = s.fuses := rfl
@[simp] theorem bumpW_mem (f : Fld) (n i : Nat) : (bumpW s f n i).mem = s.mem := rfl
@[simp] theorem bumpW_ecc (f : Fld) (n i : Nat) : (bumpW s f n i).ecc = s.ecc := rfl
@[simp] theorem bumpW_time (f : Fld) (n i : Nat) : (bumpW s f n i).time = s.time := rfl
@[simp] theorem bumpW_ctl (f : Fld) (n i : Nat) : (bumpW s f n i).ctl = s.ctl := rfl
@[simp] theorem bumpW_shp (f : Fld) (n i : Nat) : (bumpW s f n i).shp = s.shp := rfl
@[simp] theorem bumpW_cores (f : Fld) (n i : Nat) : (bumpW s f n i).cores = s.cores := rfl
@[simp] theorem bumpW_num (f : Fld) (n i : Nat) : (bumpW s f n i).num = s.num := rfl
@[simp] theorem bumpW_mmu (f : Fld) (n i : Nat) : (bumpW s f n i).mmu = s.mmu := rfl
@[simp] theorem bumpW_xpt (f : Fld) (n i : Nat) : (bumpW s f n i).xpt = s.xpt := rfl
@[simp] theorem bumpW_col (f : Fld) (n i : Nat) : (bumpW s f n i).col = s.col := rfl
@[simp] theorem bumpW_lnk (f : Fld) (n i : Nat) : (bumpW s f n i).lnk = s.lnk := rfl
@[simp] theorem bumpW_med (f : Fld) (n i : Nat) : (bumpW s f n i).med = s.med := rfl
@[simp] theorem bumpW_pwr (f : Fld) (n i : Nat) : (bumpW s f n i).pwr = s.pwr := rfl
@[simp] theorem bumpW_evt (f : Fld) (n i : Nat) : (bumpW s f n i).evt = s.evt := rfl
@[simp] theorem bumpW_out (f : Fld) (n i : Nat) : (bumpW s f n i).out = s.out := rfl
@[simp] theorem bumpW_free (f : Fld) (n i : Nat) : (bumpW s f n i).free = s.free := rfl

@[simp] theorem emit_pending (o : Out) : (emit s o).pending = s.pending := rfl
@[simp] theorem emit_fuses (o : Out) : (emit s o).fuses = s.fuses := rfl
@[simp] theorem emit_regs (o : Out) : (emit s o).regs = s.regs := rfl
@[simp] theorem emit_mem (o : Out) : (emit s o).mem = s.mem := rfl
@[simp] theorem emit_ecc (o : Out) : (emit s o).ecc = s.ecc := rfl
@[simp] theorem emit_time (o : Out) : (emit s o).time = s.time := rfl
@[simp] theorem emit_ctl (o : Out) : (emit s o).ctl = s.ctl := rfl
@[simp] theorem emit_shp (o : Out) : (emit s o).shp = s.shp := rfl
@[simp] theorem emit_cores (o : Out) : (emit s o).cores = s.cores := rfl
@[simp] theorem emit_num (o : Out) : (emit s o).num = s.num := rfl
@[simp] theorem emit_mmu (o : Out) : (emit s o).mmu = s.mmu := rfl
@[simp] theorem emit_xpt (o : Out) : (emit s o).xpt = s.xpt := rfl
@[simp] theorem emit_col (o : Out) : (emit s o).col = s.col := rfl
@[simp] theorem emit_lnk (o : Out) : (emit s o).lnk = s.lnk := rfl
@[simp] theorem emit_med (o : Out) : (emit s o).med = s.med := rfl
@[simp] theorem emit_pwr (o : Out) : (emit s o).pwr = s.pwr := rfl
@[simp] theorem emit_evt (o : Out) : (emit s o).evt = s.evt := rfl
@[simp] theorem emit_free (o : Out) : (emit s o).free = s.free := rfl

@[simp] theorem freeTick_pending : (freeTick s).pending = s.pending := rfl
@[simp] theorem freeTick_fuses : (freeTick s).fuses = s.fuses := rfl
@[simp] theorem freeTick_regs : (freeTick s).regs = s.regs := rfl
@[simp] theorem freeTick_mem : (freeTick s).mem = s.mem := rfl
@[simp] theorem freeTick_ecc : (freeTick s).ecc = s.ecc := rfl
@[simp] theorem freeTick_time : (freeTick s).time = s.time := rfl
@[simp] theorem freeTick_ctl : (freeTick s).ctl = s.ctl := rfl
@[simp] theorem freeTick_shp : (freeTick s).shp = s.shp := rfl
@[simp] theorem freeTick_cores : (freeTick s).cores = s.cores := rfl
@[simp] theorem freeTick_num : (freeTick s).num = s.num := rfl
@[simp] theorem freeTick_mmu : (freeTick s).mmu = s.mmu := rfl
@[simp] theorem freeTick_xpt : (freeTick s).xpt = s.xpt := rfl
@[simp] theorem freeTick_col : (freeTick s).col = s.col := rfl
@[simp] theorem freeTick_lnk : (freeTick s).lnk = s.lnk := rfl
@[simp] theorem freeTick_med : (freeTick s).med = s.med := rfl
@[simp] theorem freeTick_pwr : (freeTick s).pwr = s.pwr := rfl
@[simp] theorem freeTick_evt : (freeTick s).evt = s.evt := rfl
@[simp] theorem freeTick_out : (freeTick s).out = s.out := rfl

@[simp] theorem wrByte_pending (a : Nat) (b : Byte) : (wrByte s a b).pending = s.pending := rfl
@[simp] theorem wrByte_fuses (a : Nat) (b : Byte) : (wrByte s a b).fuses = s.fuses := rfl
@[simp] theorem wrByte_regs (a : Nat) (b : Byte) : (wrByte s a b).regs = s.regs := rfl
@[simp] theorem wrByte_ecc (a : Nat) (b : Byte) : (wrByte s a b).ecc = s.ecc := rfl
@[simp] theorem wrByte_time (a : Nat) (b : Byte) : (wrByte s a b).time = s.time := rfl
@[simp] theorem wrByte_ctl (a : Nat) (b : Byte) : (wrByte s a b).ctl = s.ctl := rfl
@[simp] theorem wrByte_shp (a : Nat) (b : Byte) : (wrByte s a b).shp = s.shp := rfl
@[simp] theorem wrByte_cores (a : Nat) (b : Byte) : (wrByte s a b).cores = s.cores := rfl
@[simp] theorem wrByte_num (a : Nat) (b : Byte) : (wrByte s a b).num = s.num := rfl
@[simp] theorem wrByte_mmu (a : Nat) (b : Byte) : (wrByte s a b).mmu = s.mmu := rfl
@[simp] theorem wrByte_xpt (a : Nat) (b : Byte) : (wrByte s a b).xpt = s.xpt := rfl
@[simp] theorem wrByte_col (a : Nat) (b : Byte) : (wrByte s a b).col = s.col := rfl
@[simp] theorem wrByte_lnk (a : Nat) (b : Byte) : (wrByte s a b).lnk = s.lnk := rfl
@[simp] theorem wrByte_med (a : Nat) (b : Byte) : (wrByte s a b).med = s.med := rfl
@[simp] theorem wrByte_pwr (a : Nat) (b : Byte) : (wrByte s a b).pwr = s.pwr := rfl
@[simp] theorem wrByte_evt (a : Nat) (b : Byte) : (wrByte s a b).evt = s.evt := rfl
@[simp] theorem wrByte_out (a : Nat) (b : Byte) : (wrByte s a b).out = s.out := rfl
@[simp] theorem wrByte_free (a : Nat) (b : Byte) : (wrByte s a b).free = s.free := rfl

@[simp] theorem zeroMem_pending (lo hi : Nat) : (zeroMem s lo hi).pending = s.pending := rfl
@[simp] theorem zeroMem_fuses (lo hi : Nat) : (zeroMem s lo hi).fuses = s.fuses := rfl
@[simp] theorem zeroMem_regs (lo hi : Nat) : (zeroMem s lo hi).regs = s.regs := rfl
@[simp] theorem zeroMem_ecc (lo hi : Nat) : (zeroMem s lo hi).ecc = s.ecc := rfl
@[simp] theorem zeroMem_time (lo hi : Nat) : (zeroMem s lo hi).time = s.time := rfl
@[simp] theorem zeroMem_ctl (lo hi : Nat) : (zeroMem s lo hi).ctl = s.ctl := rfl
@[simp] theorem zeroMem_shp (lo hi : Nat) : (zeroMem s lo hi).shp = s.shp := rfl
@[simp] theorem zeroMem_cores (lo hi : Nat) : (zeroMem s lo hi).cores = s.cores := rfl
@[simp] theorem zeroMem_num (lo hi : Nat) : (zeroMem s lo hi).num = s.num := rfl
@[simp] theorem zeroMem_mmu (lo hi : Nat) : (zeroMem s lo hi).mmu = s.mmu := rfl
@[simp] theorem zeroMem_xpt (lo hi : Nat) : (zeroMem s lo hi).xpt = s.xpt := rfl
@[simp] theorem zeroMem_col (lo hi : Nat) : (zeroMem s lo hi).col = s.col := rfl
@[simp] theorem zeroMem_lnk (lo hi : Nat) : (zeroMem s lo hi).lnk = s.lnk := rfl
@[simp] theorem zeroMem_med (lo hi : Nat) : (zeroMem s lo hi).med = s.med := rfl
@[simp] theorem zeroMem_pwr (lo hi : Nat) : (zeroMem s lo hi).pwr = s.pwr := rfl
@[simp] theorem zeroMem_evt (lo hi : Nat) : (zeroMem s lo hi).evt = s.evt := rfl
@[simp] theorem zeroMem_out (lo hi : Nat) : (zeroMem s lo hi).out = s.out := rfl
@[simp] theorem zeroMem_free (lo hi : Nat) : (zeroMem s lo hi).free = s.free := rfl

@[simp] theorem setCore_pending (c : Nat) (k : CoreSt) : (setCore s c k).pending = s.pending := rfl
@[simp] theorem setCore_fuses (c : Nat) (k : CoreSt) : (setCore s c k).fuses = s.fuses := rfl
@[simp] theorem setCore_regs (c : Nat) (k : CoreSt) : (setCore s c k).regs = s.regs := rfl
@[simp] theorem setCore_mem (c : Nat) (k : CoreSt) : (setCore s c k).mem = s.mem := rfl
@[simp] theorem setCore_ecc (c : Nat) (k : CoreSt) : (setCore s c k).ecc = s.ecc := rfl
@[simp] theorem setCore_time (c : Nat) (k : CoreSt) : (setCore s c k).time = s.time := rfl
@[simp] theorem setCore_ctl (c : Nat) (k : CoreSt) : (setCore s c k).ctl = s.ctl := rfl
@[simp] theorem setCore_shp (c : Nat) (k : CoreSt) : (setCore s c k).shp = s.shp := rfl
@[simp] theorem setCore_num (c : Nat) (k : CoreSt) : (setCore s c k).num = s.num := rfl
@[simp] theorem setCore_mmu (c : Nat) (k : CoreSt) : (setCore s c k).mmu = s.mmu := rfl
@[simp] theorem setCore_xpt (c : Nat) (k : CoreSt) : (setCore s c k).xpt = s.xpt := rfl
@[simp] theorem setCore_col (c : Nat) (k : CoreSt) : (setCore s c k).col = s.col := rfl
@[simp] theorem setCore_lnk (c : Nat) (k : CoreSt) : (setCore s c k).lnk = s.lnk := rfl
@[simp] theorem setCore_med (c : Nat) (k : CoreSt) : (setCore s c k).med = s.med := rfl
@[simp] theorem setCore_pwr (c : Nat) (k : CoreSt) : (setCore s c k).pwr = s.pwr := rfl
@[simp] theorem setCore_evt (c : Nat) (k : CoreSt) : (setCore s c k).evt = s.evt := rfl
@[simp] theorem setCore_out (c : Nat) (k : CoreSt) : (setCore s c k).out = s.out := rfl
@[simp] theorem setCore_free (c : Nat) (k : CoreSt) : (setCore s c k).free = s.free := rfl

@[simp] theorem setSlot_pending (c : Nat) (sl : Slot) (x : SlotSt) : (setSlot s c sl x).pending = s.pending := rfl
@[simp] theorem setSlot_fuses (c : Nat) (sl : Slot) (x : SlotSt) : (setSlot s c sl x).fuses = s.fuses := rfl
@[simp] theorem setSlot_regs (c : Nat) (sl : Slot) (x : SlotSt) : (setSlot s c sl x).regs = s.regs := rfl
@[simp] theorem setSlot_mem (c : Nat) (sl : Slot) (x : SlotSt) : (setSlot s c sl x).mem = s.mem := rfl
@[simp] theorem setSlot_ecc (c : Nat) (sl : Slot) (x : SlotSt) : (setSlot s c sl x).ecc = s.ecc := rfl
@[simp] theorem setSlot_time (c : Nat) (sl : Slot) (x : SlotSt) : (setSlot s c sl x).time = s.time := rfl
@[simp] theorem setSlot_ctl (c : Nat) (sl : Slot) (x : SlotSt) : (setSlot s c sl x).ctl = s.ctl := rfl
@[simp] theorem setSlot_shp (c : Nat) (sl : Slot) (x : SlotSt) : (setSlot s c sl x).shp = s.shp := rfl
@[simp] theorem setSlot_num (c : Nat) (sl : Slot) (x : SlotSt) : (setSlot s c sl x).num = s.num := rfl
@[simp] theorem setSlot_mmu (c : Nat) (sl : Slot) (x : SlotSt) : (setSlot s c sl x).mmu = s.mmu := rfl
@[simp] theorem setSlot_xpt (c : Nat) (sl : Slot) (x : SlotSt) : (setSlot s c sl x).xpt = s.xpt := rfl
@[simp] theorem setSlot_col (c : Nat) (sl : Slot) (x : SlotSt) : (setSlot s c sl x).col = s.col := rfl
@[simp] theorem setSlot_lnk (c : Nat) (sl : Slot) (x : SlotSt) : (setSlot s c sl x).lnk = s.lnk := rfl
@[simp] theorem setSlot_med (c : Nat) (sl : Slot) (x : SlotSt) : (setSlot s c sl x).med = s.med := rfl
@[simp] theorem setSlot_pwr (c : Nat) (sl : Slot) (x : SlotSt) : (setSlot s c sl x).pwr = s.pwr := rfl
@[simp] theorem setSlot_evt (c : Nat) (sl : Slot) (x : SlotSt) : (setSlot s c sl x).evt = s.evt := rfl
@[simp] theorem setSlot_out (c : Nat) (sl : Slot) (x : SlotSt) : (setSlot s c sl x).out = s.out := rfl
@[simp] theorem setSlot_free (c : Nat) (sl : Slot) (x : SlotSt) : (setSlot s c sl x).free = s.free := rfl

@[simp] theorem setArr_pending (c a : Nat) (x : ArrSt) : (setArr s c a x).pending = s.pending := rfl
@[simp] theorem setArr_fuses (c a : Nat) (x : ArrSt) : (setArr s c a x).fuses = s.fuses := rfl
@[simp] theorem setArr_regs (c a : Nat) (x : ArrSt) : (setArr s c a x).regs = s.regs := rfl
@[simp] theorem setArr_mem (c a : Nat) (x : ArrSt) : (setArr s c a x).mem = s.mem := rfl
@[simp] theorem setArr_ecc (c a : Nat) (x : ArrSt) : (setArr s c a x).ecc = s.ecc := rfl
@[simp] theorem setArr_time (c a : Nat) (x : ArrSt) : (setArr s c a x).time = s.time := rfl
@[simp] theorem setArr_ctl (c a : Nat) (x : ArrSt) : (setArr s c a x).ctl = s.ctl := rfl
@[simp] theorem setArr_shp (c a : Nat) (x : ArrSt) : (setArr s c a x).shp = s.shp := rfl
@[simp] theorem setArr_num (c a : Nat) (x : ArrSt) : (setArr s c a x).num = s.num := rfl
@[simp] theorem setArr_mmu (c a : Nat) (x : ArrSt) : (setArr s c a x).mmu = s.mmu := rfl
@[simp] theorem setArr_xpt (c a : Nat) (x : ArrSt) : (setArr s c a x).xpt = s.xpt := rfl
@[simp] theorem setArr_col (c a : Nat) (x : ArrSt) : (setArr s c a x).col = s.col := rfl
@[simp] theorem setArr_lnk (c a : Nat) (x : ArrSt) : (setArr s c a x).lnk = s.lnk := rfl
@[simp] theorem setArr_med (c a : Nat) (x : ArrSt) : (setArr s c a x).med = s.med := rfl
@[simp] theorem setArr_pwr (c a : Nat) (x : ArrSt) : (setArr s c a x).pwr = s.pwr := rfl
@[simp] theorem setArr_evt (c a : Nat) (x : ArrSt) : (setArr s c a x).evt = s.evt := rfl
@[simp] theorem setArr_out (c a : Nat) (x : ArrSt) : (setArr s c a x).out = s.out := rfl
@[simp] theorem setArr_free (c a : Nat) (x : ArrSt) : (setArr s c a x).free = s.free := rfl

@[simp] theorem updTask_pending (c : Nat) (sl : Slot) (g : Task → Task) : (updTask s c sl g).pending = s.pending := rfl
@[simp] theorem updTask_fuses (c : Nat) (sl : Slot) (g : Task → Task) : (updTask s c sl g).fuses = s.fuses := rfl
@[simp] theorem updTask_regs (c : Nat) (sl : Slot) (g : Task → Task) : (updTask s c sl g).regs = s.regs := rfl
@[simp] theorem updTask_mem (c : Nat) (sl : Slot) (g : Task → Task) : (updTask s c sl g).mem = s.mem := rfl
@[simp] theorem updTask_ecc (c : Nat) (sl : Slot) (g : Task → Task) : (updTask s c sl g).ecc = s.ecc := rfl
@[simp] theorem updTask_time (c : Nat) (sl : Slot) (g : Task → Task) : (updTask s c sl g).time = s.time := rfl
@[simp] theorem updTask_ctl (c : Nat) (sl : Slot) (g : Task → Task) : (updTask s c sl g).ctl = s.ctl := rfl
@[simp] theorem updTask_shp (c : Nat) (sl : Slot) (g : Task → Task) : (updTask s c sl g).shp = s.shp := rfl
@[simp] theorem updTask_num (c : Nat) (sl : Slot) (g : Task → Task) : (updTask s c sl g).num = s.num := rfl
@[simp] theorem updTask_mmu (c : Nat) (sl : Slot) (g : Task → Task) : (updTask s c sl g).mmu = s.mmu := rfl
@[simp] theorem updTask_xpt (c : Nat) (sl : Slot) (g : Task → Task) : (updTask s c sl g).xpt = s.xpt := rfl
@[simp] theorem updTask_col (c : Nat) (sl : Slot) (g : Task → Task) : (updTask s c sl g).col = s.col := rfl
@[simp] theorem updTask_lnk (c : Nat) (sl : Slot) (g : Task → Task) : (updTask s c sl g).lnk = s.lnk := rfl
@[simp] theorem updTask_med (c : Nat) (sl : Slot) (g : Task → Task) : (updTask s c sl g).med = s.med := rfl
@[simp] theorem updTask_pwr (c : Nat) (sl : Slot) (g : Task → Task) : (updTask s c sl g).pwr = s.pwr := rfl
@[simp] theorem updTask_evt (c : Nat) (sl : Slot) (g : Task → Task) : (updTask s c sl g).evt = s.evt := rfl
@[simp] theorem updTask_out (c : Nat) (sl : Slot) (g : Task → Task) : (updTask s c sl g).out = s.out := rfl
@[simp] theorem updTask_free (c : Nat) (sl : Slot) (g : Task → Task) : (updTask s c sl g).free = s.free := rfl

@[simp] theorem advance_pending (c : Nat) (sl : Slot) : (advance s c sl).pending = s.pending := rfl
@[simp] theorem advance_fuses (c : Nat) (sl : Slot) : (advance s c sl).fuses = s.fuses := rfl
@[simp] theorem advance_regs (c : Nat) (sl : Slot) : (advance s c sl).regs = s.regs := rfl
@[simp] theorem advance_mem (c : Nat) (sl : Slot) : (advance s c sl).mem = s.mem := rfl
@[simp] theorem advance_ecc (c : Nat) (sl : Slot) : (advance s c sl).ecc = s.ecc := rfl
@[simp] theorem advance_time (c : Nat) (sl : Slot) : (advance s c sl).time = s.time := rfl
@[simp] theorem advance_ctl (c : Nat) (sl : Slot) : (advance s c sl).ctl = s.ctl := rfl
@[simp] theorem advance_shp (c : Nat) (sl : Slot) : (advance s c sl).shp = s.shp := rfl
@[simp] theorem advance_num (c : Nat) (sl : Slot) : (advance s c sl).num = s.num := rfl
@[simp] theorem advance_mmu (c : Nat) (sl : Slot) : (advance s c sl).mmu = s.mmu := rfl
@[simp] theorem advance_xpt (c : Nat) (sl : Slot) : (advance s c sl).xpt = s.xpt := rfl
@[simp] theorem advance_col (c : Nat) (sl : Slot) : (advance s c sl).col = s.col := rfl
@[simp] theorem advance_lnk (c : Nat) (sl : Slot) : (advance s c sl).lnk = s.lnk := rfl
@[simp] theorem advance_med (c : Nat) (sl : Slot) : (advance s c sl).med = s.med := rfl
@[simp] theorem advance_pwr (c : Nat) (sl : Slot) : (advance s c sl).pwr = s.pwr := rfl
@[simp] theorem advance_evt (c : Nat) (sl : Slot) : (advance s c sl).evt = s.evt := rfl
@[simp] theorem advance_out (c : Nat) (sl : Slot) : (advance s c sl).out = s.out := rfl
@[simp] theorem advance_free (c : Nat) (sl : Slot) : (advance s c sl).free = s.free := rfl

@[simp] theorem jumpTo_pending (c : Nat) (sl : Slot) (o : Int) : (jumpTo s c sl o).pending = s.pending := rfl
@[simp] theorem jumpTo_fuses (c : Nat) (sl : Slot) (o : Int) : (jumpTo s c sl o).fuses = s.fuses := rfl
@[simp] theorem jumpTo_regs (c : Nat) (sl : Slot) (o : Int) : (jumpTo s c sl o).regs = s.regs := rfl
@[simp] theorem jumpTo_mem (c : Nat) (sl : Slot) (o : Int) : (jumpTo s c sl o).mem = s.mem := rfl
@[simp] theorem jumpTo_ecc (c : Nat) (sl : Slot) (o : Int) : (jumpTo s c sl o).ecc = s.ecc := rfl
@[simp] theorem jumpTo_time (c : Nat) (sl : Slot) (o : Int) : (jumpTo s c sl o).time = s.time := rfl
@[simp] theorem jumpTo_ctl (c : Nat) (sl : Slot) (o : Int) : (jumpTo s c sl o).ctl = s.ctl := rfl
@[simp] theorem jumpTo_shp (c : Nat) (sl : Slot) (o : Int) : (jumpTo s c sl o).shp = s.shp := rfl
@[simp] theorem jumpTo_num (c : Nat) (sl : Slot) (o : Int) : (jumpTo s c sl o).num = s.num := rfl
@[simp] theorem jumpTo_mmu (c : Nat) (sl : Slot) (o : Int) : (jumpTo s c sl o).mmu = s.mmu := rfl
@[simp] theorem jumpTo_xpt (c : Nat) (sl : Slot) (o : Int) : (jumpTo s c sl o).xpt = s.xpt := rfl
@[simp] theorem jumpTo_col (c : Nat) (sl : Slot) (o : Int) : (jumpTo s c sl o).col = s.col := rfl
@[simp] theorem jumpTo_lnk (c : Nat) (sl : Slot) (o : Int) : (jumpTo s c sl o).lnk = s.lnk := rfl
@[simp] theorem jumpTo_med (c : Nat) (sl : Slot) (o : Int) : (jumpTo s c sl o).med = s.med := rfl
@[simp] theorem jumpTo_pwr (c : Nat) (sl : Slot) (o : Int) : (jumpTo s c sl o).pwr = s.pwr := rfl
@[simp] theorem jumpTo_evt (c : Nat) (sl : Slot) (o : Int) : (jumpTo s c sl o).evt = s.evt := rfl
@[simp] theorem jumpTo_out (c : Nat) (sl : Slot) (o : Int) : (jumpTo s c sl o).out = s.out := rfl
@[simp] theorem jumpTo_free (c : Nat) (sl : Slot) (o : Int) : (jumpTo s c sl o).free = s.free := rfl

@[simp] theorem setLink_pending (p : Nat) (x : LinkSt) : (setLink s p x).pending = s.pending := rfl
@[simp] theorem setLink_fuses (p : Nat) (x : LinkSt) : (setLink s p x).fuses = s.fuses := rfl
@[simp] theorem setLink_regs (p : Nat) (x : LinkSt) : (setLink s p x).regs = s.regs := rfl
@[simp] theorem setLink_mem (p : Nat) (x : LinkSt) : (setLink s p x).mem = s.mem := rfl
@[simp] theorem setLink_ecc (p : Nat) (x : LinkSt) : (setLink s p x).ecc = s.ecc := rfl
@[simp] theorem setLink_time (p : Nat) (x : LinkSt) : (setLink s p x).time = s.time := rfl
@[simp] theorem setLink_ctl (p : Nat) (x : LinkSt) : (setLink s p x).ctl = s.ctl := rfl
@[simp] theorem setLink_shp (p : Nat) (x : LinkSt) : (setLink s p x).shp = s.shp := rfl
@[simp] theorem setLink_cores (p : Nat) (x : LinkSt) : (setLink s p x).cores = s.cores := rfl
@[simp] theorem setLink_num (p : Nat) (x : LinkSt) : (setLink s p x).num = s.num := rfl
@[simp] theorem setLink_mmu (p : Nat) (x : LinkSt) : (setLink s p x).mmu = s.mmu := rfl
@[simp] theorem setLink_xpt (p : Nat) (x : LinkSt) : (setLink s p x).xpt = s.xpt := rfl
@[simp] theorem setLink_col (p : Nat) (x : LinkSt) : (setLink s p x).col = s.col := rfl
@[simp] theorem setLink_med (p : Nat) (x : LinkSt) : (setLink s p x).med = s.med := rfl
@[simp] theorem setLink_pwr (p : Nat) (x : LinkSt) : (setLink s p x).pwr = s.pwr := rfl
@[simp] theorem setLink_evt (p : Nat) (x : LinkSt) : (setLink s p x).evt = s.evt := rfl
@[simp] theorem setLink_out (p : Nat) (x : LinkSt) : (setLink s p x).out = s.out := rfl
@[simp] theorem setLink_free (p : Nat) (x : LinkSt) : (setLink s p x).free = s.free := rfl

@[simp] theorem setCtx_pending (x : Nat) (k : CtxSt) : (setCtx s x k).pending = s.pending := rfl
@[simp] theorem setCtx_fuses (x : Nat) (k : CtxSt) : (setCtx s x k).fuses = s.fuses := rfl
@[simp] theorem setCtx_regs (x : Nat) (k : CtxSt) : (setCtx s x k).regs = s.regs := rfl
@[simp] theorem setCtx_mem (x : Nat) (k : CtxSt) : (setCtx s x k).mem = s.mem := rfl
@[simp] theorem setCtx_ecc (x : Nat) (k : CtxSt) : (setCtx s x k).ecc = s.ecc := rfl
@[simp] theorem setCtx_time (x : Nat) (k : CtxSt) : (setCtx s x k).time = s.time := rfl
@[simp] theorem setCtx_ctl (x : Nat) (k : CtxSt) : (setCtx s x k).ctl = s.ctl := rfl
@[simp] theorem setCtx_shp (x : Nat) (k : CtxSt) : (setCtx s x k).shp = s.shp := rfl
@[simp] theorem setCtx_cores (x : Nat) (k : CtxSt) : (setCtx s x k).cores = s.cores := rfl
@[simp] theorem setCtx_num (x : Nat) (k : CtxSt) : (setCtx s x k).num = s.num := rfl
@[simp] theorem setCtx_mmu (x : Nat) (k : CtxSt) : (setCtx s x k).mmu = s.mmu := rfl
@[simp] theorem setCtx_col (x : Nat) (k : CtxSt) : (setCtx s x k).col = s.col := rfl
@[simp] theorem setCtx_lnk (x : Nat) (k : CtxSt) : (setCtx s x k).lnk = s.lnk := rfl
@[simp] theorem setCtx_med (x : Nat) (k : CtxSt) : (setCtx s x k).med = s.med := rfl
@[simp] theorem setCtx_pwr (x : Nat) (k : CtxSt) : (setCtx s x k).pwr = s.pwr := rfl
@[simp] theorem setCtx_evt (x : Nat) (k : CtxSt) : (setCtx s x k).evt = s.evt := rfl
@[simp] theorem setCtx_out (x : Nat) (k : CtxSt) : (setCtx s x k).out = s.out := rfl
@[simp] theorem setCtx_free (x : Nat) (k : CtxSt) : (setCtx s x k).free = s.free := rfl

@[simp] theorem setPart_pending (m : Option PartMsg) (key : List Nat) : (setPart s m key).pending = s.pending := rfl
@[simp] theorem setPart_fuses (m : Option PartMsg) (key : List Nat) : (setPart s m key).fuses = s.fuses := rfl
@[simp] theorem setPart_regs (m : Option PartMsg) (key : List Nat) : (setPart s m key).regs = s.regs := rfl
@[simp] theorem setPart_mem (m : Option PartMsg) (key : List Nat) : (setPart s m key).mem = s.mem := rfl
@[simp] theorem setPart_ecc (m : Option PartMsg) (key : List Nat) : (setPart s m key).ecc = s.ecc := rfl
@[simp] theorem setPart_time (m : Option PartMsg) (key : List Nat) : (setPart s m key).time = s.time := rfl
@[simp] theorem setPart_ctl (m : Option PartMsg) (key : List Nat) : (setPart s m key).ctl = s.ctl := rfl
@[simp] theorem setPart_shp (m : Option PartMsg) (key : List Nat) : (setPart s m key).shp = s.shp := rfl
@[simp] theorem setPart_cores (m : Option PartMsg) (key : List Nat) : (setPart s m key).cores = s.cores := rfl
@[simp] theorem setPart_num (m : Option PartMsg) (key : List Nat) : (setPart s m key).num = s.num := rfl
@[simp] theorem setPart_mmu (m : Option PartMsg) (key : List Nat) : (setPart s m key).mmu = s.mmu := rfl
@[simp] theorem setPart_col (m : Option PartMsg) (key : List Nat) : (setPart s m key).col = s.col := rfl
@[simp] theorem setPart_lnk (m : Option PartMsg) (key : List Nat) : (setPart s m key).lnk = s.lnk := rfl
@[simp] theorem setPart_med (m : Option PartMsg) (key : List Nat) : (setPart s m key).med = s.med := rfl
@[simp] theorem setPart_pwr (m : Option PartMsg) (key : List Nat) : (setPart s m key).pwr = s.pwr := rfl
@[simp] theorem setPart_evt (m : Option PartMsg) (key : List Nat) : (setPart s m key).evt = s.evt := rfl
@[simp] theorem setPart_out (m : Option PartMsg) (key : List Nat) : (setPart s m key).out = s.out := rfl
@[simp] theorem setPart_free (m : Option PartMsg) (key : List Nat) : (setPart s m key).free = s.free := rfl

@[simp] theorem setHolds_pending (h : Holds) : (setHolds s h).pending = s.pending := rfl
@[simp] theorem setHolds_fuses (h : Holds) : (setHolds s h).fuses = s.fuses := rfl
@[simp] theorem setHolds_regs (h : Holds) : (setHolds s h).regs = s.regs := rfl
@[simp] theorem setHolds_mem (h : Holds) : (setHolds s h).mem = s.mem := rfl
@[simp] theorem setHolds_ecc (h : Holds) : (setHolds s h).ecc = s.ecc := rfl
@[simp] theorem setHolds_time (h : Holds) : (setHolds s h).time = s.time := rfl
@[simp] theorem setHolds_ctl (h : Holds) : (setHolds s h).ctl = s.ctl := rfl
@[simp] theorem setHolds_shp (h : Holds) : (setHolds s h).shp = s.shp := rfl
@[simp] theorem setHolds_cores (h : Holds) : (setHolds s h).cores = s.cores := rfl
@[simp] theorem setHolds_num (h : Holds) : (setHolds s h).num = s.num := rfl
@[simp] theorem setHolds_mmu (h : Holds) : (setHolds s h).mmu = s.mmu := rfl
@[simp] theorem setHolds_xpt (h : Holds) : (setHolds s h).xpt = s.xpt := rfl
@[simp] theorem setHolds_col (h : Holds) : (setHolds s h).col = s.col := rfl
@[simp] theorem setHolds_lnk (h : Holds) : (setHolds s h).lnk = s.lnk := rfl
@[simp] theorem setHolds_med (h : Holds) : (setHolds s h).med = s.med := rfl
@[simp] theorem setHolds_evt (h : Holds) : (setHolds s h).evt = s.evt := rfl
@[simp] theorem setHolds_out (h : Holds) : (setHolds s h).out = s.out := rfl
@[simp] theorem setHolds_free (h : Holds) : (setHolds s h).free = s.free := rfl

@[simp] theorem setStage_pending (n : Nat) : (setStage s n).pending = s.pending := rfl
@[simp] theorem setStage_fuses (n : Nat) : (setStage s n).fuses = s.fuses := rfl
@[simp] theorem setStage_regs (n : Nat) : (setStage s n).regs = s.regs := rfl
@[simp] theorem setStage_mem (n : Nat) : (setStage s n).mem = s.mem := rfl
@[simp] theorem setStage_ecc (n : Nat) : (setStage s n).ecc = s.ecc := rfl
@[simp] theorem setStage_time (n : Nat) : (setStage s n).time = s.time := rfl
@[simp] theorem setStage_ctl (n : Nat) : (setStage s n).ctl = s.ctl := rfl
@[simp] theorem setStage_shp (n : Nat) : (setStage s n).shp = s.shp := rfl
@[simp] theorem setStage_cores (n : Nat) : (setStage s n).cores = s.cores := rfl
@[simp] theorem setStage_num (n : Nat) : (setStage s n).num = s.num := rfl
@[simp] theorem setStage_mmu (n : Nat) : (setStage s n).mmu = s.mmu := rfl
@[simp] theorem setStage_xpt (n : Nat) : (setStage s n).xpt = s.xpt := rfl
@[simp] theorem setStage_col (n : Nat) : (setStage s n).col = s.col := rfl
@[simp] theorem setStage_lnk (n : Nat) : (setStage s n).lnk = s.lnk := rfl
@[simp] theorem setStage_med (n : Nat) : (setStage s n).med = s.med := rfl
@[simp] theorem setStage_evt (n : Nat) : (setStage s n).evt = s.evt := rfl
@[simp] theorem setStage_out (n : Nat) : (setStage s n).out = s.out := rfl
@[simp] theorem setStage_free (n : Nat) : (setStage s n).free = s.free := rfl

end Sys2Proof.Machine
end

