-- ==== Sys2Proof/Laws/Core.lean ====
section
/-!
SUPPORT. Laws of the cores: what an update of a core or a slot changes, and what an instruction that issues does.
-/
namespace Sys2Proof.Machine

/-! ### Cores and slots -/

@[simp] theorem coreOf_setCore_same (s : State) (c : Nat) (k : CoreSt) : coreOf (setCore s c k) c = k := by
  simp [coreOf, setCore]

theorem coreOf_setCore_ne (s : State) {c d : Nat} (k : CoreSt) (h : d ≠ c) : coreOf (setCore s c k) d = coreOf s d :=
  mget_mset_ne k h

@[simp] theorem slot_setSlot_same (k : CoreSt) (sl : Slot) (x : SlotSt) : (k.setSlot sl x).slot sl = x := by
  cases sl <;> rfl

@[simp] theorem setSlot_setSlot (k : CoreSt) (sl : Slot) (x y : SlotSt) : (k.setSlot sl x).setSlot sl y = k.setSlot sl y := by
  cases sl <;> rfl

@[simp] theorem setSlot_slot (k : CoreSt) (sl : Slot) : k.setSlot sl (k.slot sl) = k := by
  cases sl <;> rfl

@[simp] theorem slotOf_setSlot_same (s : State) (c : Nat) (sl : Slot) (x : SlotSt) : slotOf (setSlot s c sl x) c sl = x := by
  simp [slotOf, setSlot]

@[simp] theorem coreOf_setSlot_same (s : State) (c : Nat) (sl : Slot) (x : SlotSt) :
    coreOf (setSlot s c sl x) c = (coreOf s c).setSlot sl x := by
  simp [setSlot]

/-- A slot's update changes that slot only. -/
theorem onlySlot_setSlot {s t : State} {c : Nat} {sl : Slot} (x : SlotSt) (h : OnlySlot s t c sl) :
    OnlySlot s (setSlot t c sl x) c sl := by
  refine ⟨⟨h.1.1, fun d hd => ?_⟩, ?_⟩
  · exact (coreOf_setCore_ne t _ hd).trans (h.1.2 d hd)
  · simpa using h.2

theorem onlySlot_refl (s : State) (c : Nat) (sl : Slot) : OnlySlot s s c sl :=
  ⟨⟨rfl, fun _ _ => rfl⟩, by simp [slotOf]⟩

/-- Registers and memory are no part of a core. -/
theorem onlyCore_get {s t : State} {c : Nat} (h : OnlyCore s t c) (f : Fld) (i : Nat) : get t f i = get s f i := by
  rw [← h.1]; rfl

theorem onlyCore_rdByte {s t : State} {c : Nat} (h : OnlyCore s t c) (a : Nat) : rdByte t a = rdByte s a := by
  rw [← h.1]; rfl

/-! ### An instruction that issues -/

/-- A line that the buffer holds without error is not fetched. -/
theorem needLine_issues {s : State} {c : Core} {sl : Slot} {w : Nat} (h : Issues s c sl w) : needLine s c sl = s := by
  obtain ⟨_, hl, he⟩ := h
  have hp : ibufParity s c sl = s := by
    unfold ibufParity
    split
    · rfl
    · dsimp only
      rw [if_neg]
      simp only [Bool.and_eq_true, List.any_eq_true, not_and, not_exists]
      intro _ m hm e
      have := List.all_eq_true.mp he m hm
      simp_all
  simp only [needLine, hp, hl, Option.isSome_some, if_true]

/-- What an instruction that issues does is its effect on the state at hand. -/
theorem sequence_issues {s : State} {c : Core} {sl : Slot} {w : Nat} (h : Issues s c sl w) (body : State → State) :
    sequence s c sl w body = body s := by
  have hn := needLine_issues h
  obtain ⟨hm, hl, _⟩ := h
  have hf : mayFetch s c sl = true := by
    simp only [mayIssue, Bool.and_eq_true] at hm
    exact hm.1
  simp only [sequence, hf, hm, if_true, hn, issues, hl, decide_true, Bool.and_self]

theorem scalarIns_issues {s : State} {c : Core} {sl : Slot} {op : Nat} {f : RegForm} (h : IssuesReg s c sl op f)
    {ok : State → Bool} (hok : ok s = true) (body : State → State) : scalarIns op c sl f ok body s = body s := by
  obtain ⟨hi, hr, he⟩ := h
  simp only [scalarIns, sequence_issues hi, hr, hok, he, Bool.and_self, if_true]

/-- With its predicate false the instruction is skipped. -/
theorem scalarIns_skips {s : State} {c : Core} {sl : Slot} {op : Nat} {f : RegForm} (hi : Issues s c sl (regWord op f))
    (hr : regOk f false = true) (he : enabled s c sl f.pred f.pneg = false) {ok : State → Bool} (hok : ok s = true)
    (body : State → State) : scalarIns op c sl f ok body s = advance s c sl := by
  simp only [scalarIns, sequence_issues hi, hr, hok, he, Bool.and_self, if_true, Bool.false_eq_true, if_false]

/-- A field that does not hold aborts the task. -/
theorem scalarIns_bad {s : State} {c : Core} {sl : Slot} {op : Nat} {f : RegForm} (hi : Issues s c sl (regWord op f))
    {ok : State → Bool} (hr : (regOk f false && ok s) = false) (body : State → State) :
    scalarIns op c sl f ok body s = abortTask s c sl 0x0B := by
  simp only [scalarIns, sequence_issues hi, hr, Bool.false_eq_true, if_false]

theorem scalarOut_issues {s : State} {c : Core} {sl : Slot} {op : Nat} {f : RegForm} (h : IssuesReg s c sl op f)
    (hd : sOk f.rd = true) {ok : State → Bool} (hok : ok s = true) (v : State → Nat) :
    scalarOut op c sl f ok v s = advance (setSreg s c sl f.rd.toNat (v s)) c sl := by
  rw [scalarOut, scalarIns_issues h (by simp [hd, hok])]

/-- A counter of the task's own job: the effect; another job's: code 0x01. -/
theorem tcIns_issues {s : State} {c : Core} {sl : Slot} {op : Nat} {f : RegForm} (h : IssuesReg s c sl op f) {ok : Bool}
    (hok : ok = true) (body : State → State) :
    tcIns op c sl f ok body s = if ownsTc s c sl (tcIdx f) then body s else abortTask s c sl 0x01 := by
  rw [tcIns, scalarIns_issues h hok]

/-! ### What an instruction leaves -/

/-- The next instruction follows, and nothing else changes. -/
theorem advance_onlySlot {s t : State} {c : Nat} {sl : Slot} (h : OnlySlot s t c sl) : OnlySlot s (advance t c sl) c sl :=
  onlySlot_setSlot _ h

theorem setSreg_onlySlot {s t : State} {c : Nat} {sl : Slot} (r v : Nat) (h : OnlySlot s t c sl) :
    OnlySlot s (setSreg t c sl r v) c sl := by
  unfold setSreg
  split
  · exact h
  · exact onlySlot_setSlot _ h

theorem setPreg_onlySlot {s t : State} {c : Nat} {sl : Slot} (r : Nat) (v : BitVec 512) (h : OnlySlot s t c sl) :
    OnlySlot s (setPreg t c sl r v) c sl := by
  unfold setPreg
  split
  · exact h
  · exact onlySlot_setSlot _ h

theorem taskOf_advance (s : State) (c : Nat) (sl : Slot) :
    taskOf (advance s c sl) c sl = (taskOf s c sl).map (fun t => { t with index := (t.index + 1) % idxMod }) := by
  simp [advance, taskOf]

@[simp] theorem taskOf_setSreg (s : State) (c : Nat) (sl : Slot) (r v : Nat) :
    taskOf (setSreg s c sl r v) c sl = taskOf s c sl := by
  unfold setSreg
  split <;> simp [taskOf]

@[simp] theorem taskOf_setPreg (s : State) (c : Nat) (sl : Slot) (r : Nat) (v : BitVec 512) :
    taskOf (setPreg s c sl r v) c sl = taskOf s c sl := by
  unfold setPreg
  split <;> simp [taskOf]

@[simp] theorem sregOf_advance (s : State) (c : Nat) (sl : Slot) (r : Nat) : sregOf (advance s c sl) c sl r = sregOf s c sl r := by
  simp [sregOf, advance]

@[simp] theorem pregOf_advance (s : State) (c : Nat) (sl : Slot) (r : Nat) : pregOf (advance s c sl) c sl r = pregOf s c sl r := by
  simp [pregOf, advance]

/-- S0 reads as zero and discards writes; another register holds the low 64 bits. -/
theorem sregOf_setSreg (s : State) (c : Nat) (sl : Slot) (r v q : Nat) :
    sregOf (setSreg s c sl r v) c sl q = if q = r ∧ r ≠ 0 then v % 2 ^ 64 else sregOf s c sl q := by
  unfold setSreg
  by_cases hr : r = 0
  · simp [hr]
  · by_cases hq : q = r
    · subst hq
      simp [hr, sregOf]
    · by_cases h0 : q = 0
      · simp [h0, sregOf, Ne.symm hr]
      · simp only [hr, if_false, sregOf, h0, slotOf_setSlot_same, hq, false_and]
        rw [mget_mset_ne _ hq]

theorem pregOf_setPreg (s : State) (c : Nat) (sl : Slot) (r q : Nat) (v : BitVec 512) :
    pregOf (setPreg s c sl r v) c sl q = if q = r ∧ r ≠ 0 then v else pregOf s c sl q := by
  unfold setPreg
  by_cases hr : r = 0
  · simp [hr]
  · by_cases hq : q = r
    · subst hq
      simp [hr, pregOf]
    · by_cases h0 : q = 0
      · simp [h0, pregOf, Ne.symm hr]
      · simp only [hr, if_false, pregOf, h0, slotOf_setSlot_same, hq, false_and]
        rw [mget_mset_ne _ hq]

@[simp] theorem pregOf_setSreg (s : State) (c : Nat) (sl : Slot) (r v q : Nat) :
    pregOf (setSreg s c sl r v) c sl q = pregOf s c sl q := by
  unfold setSreg
  split <;> simp [pregOf]

@[simp] theorem sregOf_setPreg (s : State) (c : Nat) (sl : Slot) (r q : Nat) (v : BitVec 512) :
    sregOf (setPreg s c sl r v) c sl q = sregOf s c sl q := by
  unfold setPreg
  split <;> simp [sregOf]

/-- The next instruction is the one that follows. -/
theorem moved_advance {s t : State} {c : Nat} {sl : Slot} (h : taskOf t c sl = taskOf s c sl) : Moved s (advance t c sl) c sl 1 := by
  refine ⟨?_, by simp [advance]⟩
  rw [taskOf_advance, h]
  congr 1

theorem moved_jumpTo {s t : State} {c : Nat} {sl : Slot} (off : Int) (h : taskOf t c sl = taskOf s c sl) :
    Moved s (jumpTo t c sl off) c sl off := by
  refine ⟨?_, by simp [jumpTo]⟩
  simp only [jumpTo, taskOf, slotOf_setSlot_same] at *
  rw [h]

end Sys2Proof.Machine
end

