-- ==== Sys2Proof/Laws/Flits.lean ====
section
/-!
SUPPORT. Flits as words (R401).
-/
namespace Sys2Proof.Machine

/-- Every flit is its first 4 bytes and the others, joined. -/
theorem joinFlit_parts (f : BitVec 2048) : joinFlit (f.setWidth 32) (f.extractLsb' 32 2016) = f := by
  unfold joinFlit
  ext i hi
  simp only [BitVec.getElem_append, BitVec.getElem_setWidth, BitVec.getElem_extractLsb']
  split
  · exact BitVec.getLsbD_eq_getElem hi
  · rw [show 32 + (i - 32) = i by omega]
    exact BitVec.getLsbD_eq_getElem hi

end Sys2Proof.Machine
end

