-- ==== Sys2Proof/Laws/Sound.lean ====
section
/-!
SUPPORT. The register file's laws, and the base of what every command keeps: the updates of the state that all commands are
made of.
-/
namespace Sys2Proof.Machine

theorem Fld.ctorIdx_lt (f : Fld) : f.ctorIdx < 1024 := by cases f <;> decide

theorem Fld.ctorIdx_inj {f g : Fld} (h : f.ctorIdx = g.ctorIdx) : f = g := by
  rw [← Fld.ofNat_ctorIdx f, ← Fld.ofNat_ctorIdx g, h]

/-- Two instances of fields share a key only where they are the same. -/
theorem rkey_inj {f g : Fld} {i j : Nat} (h : rkey f i = rkey g j) : f = g ∧ i = j := by
  have hf := f.ctorIdx_lt
  have hg := g.ctorIdx_lt
  unfold rkey at h
  exact ⟨Fld.ctorIdx_inj (by omega), by omega⟩

/-- A field holds the value written last, cut to its width. -/
@[simp] theorem get_put_same (s : State) (f : Fld) (v i : Nat) : get (put s f v i) f i = v % 2 ^ f.width := by
  simp [get, put]

/-- Every other field holds what it held. -/
theorem get_put_ne (s : State) {f g : Fld} {v i j : Nat} (h : ¬(g = f ∧ j = i)) : get (put s f v i) g j = get s g j := by
  exact mget_mset_ne (m := s.regs) _ (fun e => h (rkey_inj e))

@[simp] theorem get_put_fld (s : State) {f g : Fld} (v i j : Nat) (h : g ≠ f) : get (put s f v i) g j = get s g j :=
  get_put_ne s (fun e => h e.1)

variable {fz : Fuses} {qu : List Instr}

theorem regsFit_mset {r : SMap Nat} (d : Nat) (f : Fld) (v i : Nat) (h : regsFit r) :
    regsFit (mset d r (rkey f i) (v % 2 ^ f.width)) := by
  refine ⟨msorted_mset _ _ h.1, fun g j => ?_⟩
  have hd : mget 0 (mset d r (rkey f i) (v % 2 ^ f.width)) (rkey g j) =
      if rkey g j = rkey f i then (if v % 2 ^ f.width = d then 0 else v % 2 ^ f.width) else mget 0 r (rkey g j) := by
    unfold mset
    split
    · rw [mget_mdel]
    · rw [mget_mput]
  rw [hd]
  split
  · rename_i e
    obtain ⟨rfl, rfl⟩ := rkey_inj e
    split
    · exact Nat.two_pow_pos _
    · exact Nat.mod_lt _ (Nat.two_pow_pos _)
  · exact h.2 g j

theorem regsFit_filter {r : SMap Nat} (p : Nat × Nat → Bool) (h : regsFit r) : regsFit (r.filter p) := by
  refine ⟨msorted_filter _ h.1, fun g j => ?_⟩
  rcases mget_filter (d := 0) p h.1 (rkey g j) with e | e
  · rw [e]; exact h.2 g j
  · rw [e]; exact Nat.two_pow_pos _

theorem regsFit_one (f : Fld) (i : Nat) : regsFit [(rkey f i, 0)] := by
  refine ⟨rfl, fun g j => ?_⟩
  have e : mget 0 [(rkey f i, 0)] (rkey g j) = 0 := by
    simp only [mget]
    split <;> rfl
  rw [e]
  exact Nat.two_pow_pos _

/-- An update of any part but the queue, the fuses, the registers and memory. -/
theorem sound_mk {s : State} (ecc time ctl shp cores num mmu xpt col lnk med pwr evt out free) :
    Sound fz qu ⟨s.pending, s.fuses, s.regs, s.mem, ecc, time, ctl, shp, cores, num, mmu, xpt, col, lnk, med, pwr, evt, out,
      free⟩ ↔ Sound fz qu s := ⟨fun h => h, fun h => h⟩

theorem put_sound {s : State} (h : Sound fz qu s) (f : Fld) (v i : Nat) : Sound fz qu (put s f v i) :=
  ⟨h.1, h.2.1, h.2.2.1, regsFit_mset _ _ _ _ h.2.2.2⟩

theorem wrByte_sound {s : State} (h : Sound fz qu s) (a : Nat) (b : Byte) : Sound fz qu (wrByte s a b) :=
  ⟨h.1, h.2.1, mwf_mset _ _ h.2.2.1, h.2.2.2⟩

theorem zeroMem_sound {s : State} (h : Sound fz qu s) (lo hi : Nat) : Sound fz qu (zeroMem s lo hi) :=
  ⟨h.1, h.2.1, mwf_filter _ h.2.2.1, h.2.2.2⟩

theorem ite_sound {c : Prop} [Decidable c] {s t : State} (hs : Sound fz qu s) (ht : Sound fz qu t) :
    Sound fz qu (if c then s else t) := by
  split
  · exact hs
  · exact ht

theorem goes_next {s : State} (h : Sound fz qu s) : Goes fz qu (.next s) := h

theorem ite_goes {c : Prop} [Decidable c] {a b : Host.Outcome State Fault Refusal} (ha : Goes fz qu a) (hb : Goes fz qu b) :
    Goes fz qu (if c then a else b) := by
  split
  · exact ha
  · exact hb

theorem each_sound {α : Type} {f : State → α → State} (hf : ∀ s x, Sound fz qu s → Sound fz qu (f s x)) (l : List α) {s : State}
    (h : Sound fz qu s) : Sound fz qu (each l f s) := by
  unfold each
  induction l generalizing s with
  | nil => exact h
  | cons x l ih => exact ih (hf s x h)

theorem foldl_sound {α β : Type} {f : State × β → α → State × β}
    (hf : ∀ r x, Sound fz qu r.1 → Sound fz qu (f r x).1) (l : List α) {r : State × β} (h : Sound fz qu r.1) :
    Sound fz qu (l.foldl f r).1 := by
  induction l generalizing r with
  | nil => exact h
  | cons x l ih => exact ih (hf r x h)

theorem onlyIf_sound {b : Bool} {f : State → State} (hf : ∀ s, Sound fz qu s → Sound fz qu (f s)) {s : State}
    (h : Sound fz qu s) : Sound fz qu (onlyIf b f s) := by
  unfold onlyIf
  split
  · exact hf s h
  · exact h

end Sys2Proof.Machine
end

