-- ==== Sys2Proof/Laws/SoundOps.lean ====
section
/-!
SUPPORT. What the operations and commands of Machine/Ops.lean keep: the queue, the fused identity, the canonical form of memory,
and registers within their widths.
-/
namespace Sys2Proof.Machine

set_option linter.unusedTactic false
set_option linter.unreachableTactic false
set_option linter.unusedSimpArgs false

variable {fz : Fuses} {qu : List Instr}

theorem bump_sound {s : State} (hs : Sound fz qu s) (f : Fld) (n : Nat) (i : Nat) :
    Sound fz qu (bump s f n i) := by
  unfold bump
  repeat' first
    | (simp +contextual (maxDischargeDepth := 99) only [put_sound, *]; done)
    | with_reducible apply put_sound
    | dsimp only

theorem bumpW_sound {s : State} (hs : Sound fz qu s) (f : Fld) (n : Nat) (i : Nat) :
    Sound fz qu (bumpW s f n i) := by
  unfold bumpW
  repeat' first
    | (simp +contextual (maxDischargeDepth := 99) only [put_sound, *]; done)
    | with_reducible apply put_sound
    | dsimp only

theorem putDigest_sound {s : State} (hs : Sound fz qu s) (f : Fld) (d : Nat) :
    Sound fz qu (putDigest s f d) := by
  unfold putDigest
  repeat' first
    | (simp +contextual (maxDischargeDepth := 99) only [put_sound, *]; done)
    | with_reducible apply put_sound
    | dsimp only

theorem emit_sound {s : State} (hs : Sound fz qu s) (o : Out) :
    Sound fz qu (emit s o) := by
  unfold emit
  repeat' first
    | (simp +contextual (maxDischargeDepth := 99) only [sound_mk, *]; done)
    | with_reducible apply (sound_mk ..).2
    | dsimp only

theorem freeTick_sound {s : State} (hs : Sound fz qu s) :
    Sound fz qu (freeTick s) := by
  unfold freeTick
  repeat' first
    | (simp +contextual (maxDischargeDepth := 99) only [sound_mk, *]; done)
    | with_reducible apply (sound_mk ..).2
    | dsimp only

theorem setAlert_sound {s : State} (hs : Sound fz qu s) :
    Sound fz qu (setAlert s) := by
  unfold setAlert
  repeat' first
    | (simp +contextual (maxDischargeDepth := 99) only [put_sound, emit_sound, ite_sound, *]; done)
    | split
    | with_reducible apply put_sound
    | with_reducible apply emit_sound
    | dsimp only

theorem logEvt_sound {s : State} (hs : Sound fz qu s) (code : Nat) (fn : Nat) (job : Nat) (step : Nat) (d0 : Nat) (d1 : Nat) :
    Sound fz qu (logEvt s code fn job step d0 d1) := by
  unfold logEvt
  repeat' first
    | (simp +contextual (maxDischargeDepth := 99) only [put_sound, bump_sound, bumpW_sound, setAlert_sound, ite_sound, sound_mk, *]; done)
    | (extract_lets +onlyGivenNames x; refine (fun (hx : Sound fz qu x) => ?_) ?_; (clear_value x; rotate_left; unfold x; clear x))
    | (extract_lets +onlyGivenNames x; refine (fun (hx : Sound fz qu x.1) => ?_) ?_; (clear_value x; rotate_left; unfold x; clear x))
    | (extract_lets +onlyGivenNames x; clear_value x)
    | split
    | with_reducible apply put_sound
    | with_reducible apply bump_sound
    | with_reducible apply bumpW_sound
    | with_reducible apply setAlert_sound
    | with_reducible apply (sound_mk ..).2
    | dsimp only

theorem wrBytes_sound (b : Bytes) {s : State} (h : Sound fz qu s) (a : Nat) : Sound fz qu (wrBytes s a b) := by
  induction b generalizing s a with
  | nil => exact h
  | cons x r ih => exact ih (wrByte_sound h a x) (a + 1)

theorem wrNat_sound {s : State} (hs : Sound fz qu s) (a : Nat) (n : Nat) (v : Nat) :
    Sound fz qu (wrNat s a n v) := by
  unfold wrNat
  repeat' first
    | (simp +contextual (maxDischargeDepth := 99) only [wrBytes_sound, *]; done)
    | with_reducible apply wrBytes_sound
    | dsimp only

theorem setCore_sound {s : State} (hs : Sound fz qu s) (c : Nat) (k : CoreSt) :
    Sound fz qu (setCore s c k) := by
  unfold setCore
  repeat' first
    | (simp +contextual (maxDischargeDepth := 99) only [sound_mk, *]; done)
    | with_reducible apply (sound_mk ..).2
    | dsimp only

theorem setSlot_sound {s : State} (hs : Sound fz qu s) (c : Nat) (sl : Slot) (x : SlotSt) :
    Sound fz qu (setSlot s c sl x) := by
  unfold setSlot
  repeat' first
    | (simp +contextual (maxDischargeDepth := 99) only [setCore_sound, *]; done)
    | with_reducible apply setCore_sound
    | dsimp only

theorem setArr_sound {s : State} (hs : Sound fz qu s) (c : Nat) (a : Nat) (x : ArrSt) :
    Sound fz qu (setArr s c a x) := by
  unfold setArr
  repeat' first
    | (simp +contextual (maxDischargeDepth := 99) only [setCore_sound, sound_mk, *]; done)
    | with_reducible apply setCore_sound
    | with_reducible apply (sound_mk ..).2
    | dsimp only

end Sys2Proof.Machine
end

