-- ==== Sys2Proof/Laws/SoundWalk.lean ====
section
/-!
SUPPORT. What the operations and commands of Machine/Walk.lean keep: the queue, the fused identity, the canonical form of memory,
and registers within their widths.
-/
namespace Sys2Proof.Machine

set_option linter.unusedTactic false
set_option linter.unreachableTactic false
set_option linter.unusedSimpArgs false

variable {fz : Fuses} {qu : List Instr}

theorem noteViewWrite_sound {s : State} (hs : Sound fz qu s) (job : Nat) (va : Nat) :
    Sound fz qu (noteViewWrite s job va) := by
  unfold noteViewWrite
  repeat' first
    | (simp +contextual (maxDischargeDepth := 99) only [put_sound, ite_sound, *]; done)
    | (extract_lets +onlyGivenNames x; refine (fun (hx : Sound fz qu x) => ?_) ?_; (clear_value x; rotate_left; unfold x; clear x))
    | (extract_lets +onlyGivenNames x; refine (fun (hx : Sound fz qu x.1) => ?_) ?_; (clear_value x; rotate_left; unfold x; clear x))
    | (extract_lets +onlyGivenNames x; clear_value x)
    | split
    | with_reducible apply put_sound
    | dsimp only

theorem correct_sound {s : State} (hs : Sound fz qu s) (a : Nat) (n : Nat) :
    Sound fz qu (correct s a n) := by
  unfold correct
  repeat' first
    | (simp +contextual (maxDischargeDepth := 99) only [bump_sound, sound_mk, each_sound, *]; done)
    | (extract_lets +onlyGivenNames x; refine (fun (hx : Sound fz qu x) => ?_) ?_; (clear_value x; rotate_left; unfold x; clear x))
    | (extract_lets +onlyGivenNames x; refine (fun (hx : Sound fz qu x.1) => ?_) ?_; (clear_value x; rotate_left; unfold x; clear x))
    | (extract_lets +onlyGivenNames x; clear_value x)
    | split
    | with_reducible refine each_sound (fun _ _ _ => ?_) _ ?_
    | with_reducible apply bump_sound
    | with_reducible apply (sound_mk ..).2
    | dsimp only

theorem clearUnits_sound {s : State} (hs : Sound fz qu s) (a : Nat) (n : Nat) :
    Sound fz qu (clearUnits s a n) := by
  unfold clearUnits
  repeat' first
    | (simp +contextual (maxDischargeDepth := 99) only [correct_sound, sound_mk, *]; done)
    | (extract_lets +onlyGivenNames x; refine (fun (hx : Sound fz qu x) => ?_) ?_; (clear_value x; rotate_left; unfold x; clear x))
    | (extract_lets +onlyGivenNames x; refine (fun (hx : Sound fz qu x.1) => ?_) ?_; (clear_value x; rotate_left; unfold x; clear x))
    | (extract_lets +onlyGivenNames x; clear_value x)
    | with_reducible apply correct_sound
    | with_reducible apply (sound_mk ..).2
    | dsimp only

theorem walkFix_sound (va n table : Nat) {s : State} (h : Sound fz qu s) : Sound fz qu (walkFix va n table s) := by
  induction n generalizing s table with
  | zero => exact h
  | succ n ih =>
    unfold walkFix
    dsimp only
    split
    · exact h
    · split
      · exact ih _ (correct_sound h _ _)
      · exact correct_sound h _ _

theorem fixWalk_sound {s : State} (h : Sound fz qu s) (core job va : Nat) (fetch : Bool) : Sound fz qu (fixWalk s core job va fetch) := by
  unfold fixWalk
  split
  · exact walkFix_sound _ _ _ h
  · exact h

theorem fillTlb_sound {s : State} (hs : Sound fz qu s) (l : List TlbEnt) :
    Sound fz qu (fillTlb s l) := by
  unfold fillTlb
  repeat' first
    | (simp +contextual (maxDischargeDepth := 99) only [sound_mk, *]; done)
    | with_reducible apply (sound_mk ..).2
    | dsimp only

theorem noteWalk_sound {s : State} (h : Sound fz qu s) (core job va : Nat) (fetch : Bool) : Sound fz qu (noteWalk s core job va fetch) := by
  unfold noteWalk
  split
  · exact h
  · split
    · exact ite_sound ((sound_mk ..).2 h) h
    · dsimp only
      split
      · exact h
      · exact bumpW_sound ((sound_mk ..).2 (walkFix_sound _ _ _ h)) _ _ _

theorem noteUe_sound {s : State} (hs : Sound fz qu s) (off : Nat) (job : Nat) (core : Nat) (scrub : Bool) :
    Sound fz qu (noteUe s off job core scrub) := by
  unfold noteUe
  repeat' first
    | (simp +contextual (maxDischargeDepth := 99) only [put_sound, bump_sound, logEvt_sound, ite_sound, *]; done)
    | (extract_lets +onlyGivenNames x; refine (fun (hx : Sound fz qu x) => ?_) ?_; (clear_value x; rotate_left; unfold x; clear x))
    | (extract_lets +onlyGivenNames x; refine (fun (hx : Sound fz qu x.1) => ?_) ?_; (clear_value x; rotate_left; unfold x; clear x))
    | (extract_lets +onlyGivenNames x; clear_value x)
    | split
    | with_reducible apply put_sound
    | with_reducible apply bump_sound
    | with_reducible apply logEvt_sound
    | dsimp only

theorem noteUnit_sound {s : State} (hs : Sound fz qu s) (u : EccUnit) (job : Nat) (core : Nat) :
    Sound fz qu (noteUnit s u job core) := by
  unfold noteUnit
  repeat' first
    | (simp +contextual (maxDischargeDepth := 99) only [noteUe_sound, *]; done)
    | split
    | with_reducible apply noteUe_sound
    | dsimp only

theorem noteWalkUe_sound {s : State} (hs : Sound fz qu s) (job : Nat) (core : Nat) (va : Nat) (reason : Nat) :
    Sound fz qu (noteWalkUe s job core va reason) := by
  unfold noteWalkUe
  repeat' first
    | (simp +contextual (maxDischargeDepth := 99) only [fixWalk_sound, noteUe_sound, ite_sound, *]; done)
    | split
    | with_reducible apply fixWalk_sound
    | with_reducible apply noteUe_sound
    | dsimp only

theorem noteFault_sound {s : State} (hs : Sound fz qu s) (job : Nat) (core : Nat) (unit : Nat) (va : Nat) (reason : Nat) (code : Nat) :
    Sound fz qu (noteFault s job core unit va reason code) := by
  unfold noteFault
  repeat' first
    | (simp +contextual (maxDischargeDepth := 99) only [put_sound, bump_sound, noteWalkUe_sound, ite_sound, *]; done)
    | (extract_lets +onlyGivenNames x; refine (fun (hx : Sound fz qu x) => ?_) ?_; (clear_value x; rotate_left; unfold x; clear x))
    | (extract_lets +onlyGivenNames x; refine (fun (hx : Sound fz qu x.1) => ?_) ?_; (clear_value x; rotate_left; unfold x; clear x))
    | (extract_lets +onlyGivenNames x; clear_value x)
    | split
    | with_reducible apply put_sound
    | with_reducible apply bump_sound
    | with_reducible apply noteWalkUe_sound
    | dsimp only

theorem countHbm_sound {s : State} (hs : Sound fz qu s) (f : Fld) (a : Nat) (n : Nat) :
    Sound fz qu (countHbm s f a n) := by
  unfold countHbm
  repeat' first
    | (simp +contextual (maxDischargeDepth := 99) only [bumpW_sound, ite_sound, *]; done)
    | split
    | with_reducible apply bumpW_sound
    | dsimp only

theorem readMem_sound {s : State} (hs : Sound fz qu s) (a : Nat) (n : Nat) :
    Sound fz qu (readMem s a n).1 := by
  unfold readMem
  repeat' first
    | (simp +contextual (maxDischargeDepth := 99) only [correct_sound, countHbm_sound, *]; done)
    | split
    | with_reducible apply correct_sound
    | with_reducible apply countHbm_sound
    | dsimp only

theorem writeMem_sound {s : State} (hs : Sound fz qu s) (a : Nat) (b : Bytes) :
    Sound fz qu (writeMem s a b).1 := by
  unfold writeMem
  repeat' first
    | (simp +contextual (maxDischargeDepth := 99) only [wrBytes_sound, clearUnits_sound, countHbm_sound, *]; done)
    | split
    | with_reducible apply wrBytes_sound
    | with_reducible apply clearUnits_sound
    | with_reducible apply countHbm_sound
    | dsimp only

theorem scribble_sound (n : Nat) {s : State} (h : Sound fz qu s) (a : Nat) : Sound fz qu (scribble s a n) := by
  induction n generalizing s a with
  | zero => exact h
  | succ n ih => exact ih (freeTick_sound (wrByte_sound h _ _)) (a + 1)

theorem scribbleVa_sound (core job n : Nat) {s : State} (h : Sound fz qu s) (va : Nat) : Sound fz qu (scribbleVa core job s va n) := by
  induction n generalizing s va with
  | zero => exact h
  | succ n ih =>
    unfold scribbleVa
    dsimp only
    refine ih ?_ _
    split
    · exact h
    · split
      · exact scribble_sound 1 h _
      · exact h

end Sys2Proof.Machine
end

