-- ==== Sys2Proof/Laws/SoundWork.lean ====
section
/-!
SUPPORT. What the operations and commands of Machine/Work.lean keep: the queue, the fused identity, the canonical form of memory,
and registers within their widths.
-/
namespace Sys2Proof.Machine

set_option linter.unusedTactic false
set_option linter.unreachableTactic false
set_option linter.unusedSimpArgs false

variable {fz : Fuses} {qu : List Instr}

theorem tcKeep_sound {s : State} (hs : Sound fz qu s) (c : Nat) (i : Nat) (v : Nat) (t : TcClk) :
    Sound fz qu (tcKeep s c i v t) := by
  unfold tcKeep
  repeat' first
    | (simp +contextual (maxDischargeDepth := 99) only [put_sound, setCore_sound, sound_mk, *]; done)
    | with_reducible apply put_sound
    | with_reducible apply setCore_sound
    | with_reducible apply (sound_mk ..).2
    | dsimp only

theorem tcSet_sound {s : State} (hs : Sound fz qu s) (c : Nat) (i : Nat) (v : Nat) :
    Sound fz qu (tcSet s c i v) := by
  unfold tcSet
  repeat' first
    | (simp +contextual (maxDischargeDepth := 99) only [put_sound, tcKeep_sound, ite_sound, sound_mk, *]; done)
    | (extract_lets +onlyGivenNames x; refine (fun (hx : Sound fz qu x) => ?_) ?_; (clear_value x; rotate_left; unfold x; clear x))
    | (extract_lets +onlyGivenNames x; refine (fun (hx : Sound fz qu x.1) => ?_) ?_; (clear_value x; rotate_left; unfold x; clear x))
    | (extract_lets +onlyGivenNames x; clear_value x)
    | split
    | with_reducible apply put_sound
    | with_reducible apply tcKeep_sound
    | with_reducible apply (sound_mk ..).2
    | dsimp only

theorem tcAdd_sound {s : State} (hs : Sound fz qu s) (c : Nat) (i : Nat) (n : Nat) :
    Sound fz qu (tcAdd s c i n) := by
  unfold tcAdd
  repeat' first
    | (simp +contextual (maxDischargeDepth := 99) only [put_sound, tcKeep_sound, ite_sound, sound_mk, *]; done)
    | (extract_lets +onlyGivenNames x; refine (fun (hx : Sound fz qu x) => ?_) ?_; (clear_value x; rotate_left; unfold x; clear x))
    | (extract_lets +onlyGivenNames x; refine (fun (hx : Sound fz qu x.1) => ?_) ?_; (clear_value x; rotate_left; unfold x; clear x))
    | (extract_lets +onlyGivenNames x; clear_value x)
    | split
    | with_reducible apply put_sound
    | with_reducible apply tcKeep_sound
    | with_reducible apply (sound_mk ..).2
    | dsimp only

theorem waitMore_sound {s : State} (hs : Sound fz qu s) (p : Nat) :
    Sound fz qu (waitMore s p) := by
  unfold waitMore
  repeat' first
    | (simp +contextual (maxDischargeDepth := 99) only [put_sound, bump_sound, *]; done)
    | with_reducible apply put_sound
    | with_reducible apply bump_sound
    | dsimp only

theorem waitLess_sound {s : State} (hs : Sound fz qu s) (p : Nat) :
    Sound fz qu (waitLess s p) := by
  unfold waitLess
  repeat' first
    | (simp +contextual (maxDischargeDepth := 99) only [put_sound, *]; done)
    | with_reducible apply put_sound
    | dsimp only

theorem dropWaits_sound {s : State} (hs : Sound fz qu s) (l : List Desc) :
    Sound fz qu (dropWaits s l) := by
  unfold dropWaits
  repeat' first
    | (simp +contextual (maxDischargeDepth := 99) only [waitLess_sound, each_sound, *]; done)
    | with_reducible refine each_sound (fun _ _ _ => ?_) _ ?_
    | with_reducible apply waitLess_sound
    | dsimp only

theorem sendRec_sound {s : State} (hs : Sound fz qu s) (r : NumRec) :
    Sound fz qu (sendRec s r) := by
  unfold sendRec
  repeat' first
    | (simp +contextual (maxDischargeDepth := 99) only [ite_sound, sound_mk, *]; done)
    | split
    | with_reducible apply (sound_mk ..).2
    | dsimp only

theorem sendPart_sound {s : State} (hs : Sound fz qu s) (d : Desc) :
    Sound fz qu (sendPart s d) := by
  unfold sendPart
  repeat' first
    | (simp +contextual (maxDischargeDepth := 99) only [sendRec_sound, *]; done)
    | split
    | with_reducible apply sendRec_sound
    | dsimp only

theorem scribbleDesc_sound {s : State} (hs : Sound fz qu s) (c : Nat) (d : Desc) :
    Sound fz qu (scribbleDesc c s d) := by
  unfold scribbleDesc
  repeat' first
    | (simp +contextual (maxDischargeDepth := 99) only [scribble_sound, scribbleVa_sound, each_sound, *]; done)
    | split
    | with_reducible refine each_sound (fun _ _ _ => ?_) _ ?_
    | with_reducible apply scribble_sound
    | with_reducible apply scribbleVa_sound
    | dsimp only

theorem orphan_sound {s : State} (hs : Sound fz qu s) (own : Owner → Bool) :
    Sound fz qu (orphan s own) := by
  unfold orphan
  repeat' first
    | (simp +contextual (maxDischargeDepth := 99) only [ite_sound, sound_mk, *]; done)
    | (extract_lets +onlyGivenNames x; refine (fun (hx : Sound fz qu x) => ?_) ?_; (clear_value x; rotate_left; unfold x; clear x))
    | (extract_lets +onlyGivenNames x; refine (fun (hx : Sound fz qu x.1) => ?_) ?_; (clear_value x; rotate_left; unfold x; clear x))
    | (extract_lets +onlyGivenNames x; clear_value x)
    | split
    | with_reducible apply (sound_mk ..).2
    | dsimp only

theorem errCtxs_sound {s : State} (hs : Sound fz qu s) (own : Owner → Bool) (code : Nat) :
    Sound fz qu (errCtxs s own code) := by
  unfold errCtxs
  repeat' first
    | (simp +contextual (maxDischargeDepth := 99) only [put_sound, ite_sound, each_sound, *]; done)
    | split
    | with_reducible refine each_sound (fun _ _ _ => ?_) _ ?_
    | with_reducible apply put_sound
    | dsimp only

theorem abortOne_sound {s : State} (hs : Sound fz qu s) (c : Nat) (sl : Slot) (code : Nat) :
    Sound fz qu (abortOne s c sl code) := by
  unfold abortOne
  repeat' first
    | (simp +contextual (maxDischargeDepth := 99) only [put_sound, bump_sound, setCore_sound, dropWaits_sound, sendPart_sound, scribbleDesc_sound, orphan_sound, errCtxs_sound, sound_mk, each_sound, *]; done)
    | (extract_lets +onlyGivenNames x; refine (fun (hx : Sound fz qu x) => ?_) ?_; (clear_value x; rotate_left; unfold x; clear x))
    | (extract_lets +onlyGivenNames x; refine (fun (hx : Sound fz qu x.1) => ?_) ?_; (clear_value x; rotate_left; unfold x; clear x))
    | (extract_lets +onlyGivenNames x; clear_value x)
    | split
    | with_reducible refine each_sound (fun _ _ _ => ?_) _ ?_
    | with_reducible apply put_sound
    | with_reducible apply bump_sound
    | with_reducible apply setCore_sound
    | with_reducible apply dropWaits_sound
    | with_reducible apply sendPart_sound
    | with_reducible apply scribbleDesc_sound
    | with_reducible apply orphan_sound
    | with_reducible apply errCtxs_sound
    | with_reducible apply (sound_mk ..).2
    | dsimp only

theorem disarm_sound {s : State} (hs : Sound fz qu s) (slot : Nat) :
    Sound fz qu (disarm s slot) := by
  unfold disarm
  repeat' first
    | (simp +contextual (maxDischargeDepth := 99) only [put_sound, *]; done)
    | with_reducible apply put_sound
    | dsimp only

theorem setPart_sound {s : State} (hs : Sound fz qu s) (m : Option PartMsg) (key : List Nat) :
    Sound fz qu (setPart s m key) := by
  unfold setPart
  repeat' first
    | (simp +contextual (maxDischargeDepth := 99) only [sound_mk, *]; done)
    | (extract_lets +onlyGivenNames x; refine (fun (hx : Sound fz qu x) => ?_) ?_; (clear_value x; rotate_left; unfold x; clear x))
    | (extract_lets +onlyGivenNames x; refine (fun (hx : Sound fz qu x.1) => ?_) ?_; (clear_value x; rotate_left; unfold x; clear x))
    | (extract_lets +onlyGivenNames x; clear_value x)
    | with_reducible apply (sound_mk ..).2
    | dsimp only

theorem notePart_sound {s : State} (hs : Sound fz qu s) (key : List Nat) (len : Option Nat) (n : Nat) (refused : Bool) :
    Sound fz qu (notePart s key len n refused).1 := by
  unfold notePart
  repeat' first
    | (simp +contextual (maxDischargeDepth := 99) only [setPart_sound, ite_sound, *]; done)
    | (extract_lets +onlyGivenNames x; refine (fun (hx : Sound fz qu x) => ?_) ?_; (clear_value x; rotate_left; unfold x; clear x))
    | (extract_lets +onlyGivenNames x; refine (fun (hx : Sound fz qu x.1) => ?_) ?_; (clear_value x; rotate_left; unfold x; clear x))
    | (extract_lets +onlyGivenNames x; clear_value x)
    | split
    | with_reducible apply setPart_sound
    | dsimp only

theorem dropParts_sound {s : State} (hs : Sound fz qu s) (job : Nat) (coll : Nat) (step : Nat) :
    Sound fz qu (dropParts s job coll step) := by
  unfold dropParts
  repeat' first
    | (simp +contextual (maxDischargeDepth := 99) only [sound_mk, *]; done)
    | with_reducible apply (sound_mk ..).2
    | dsimp only

theorem writeDropList_sound {s0 : State} (hs0 : Sound fz qu s0) (job : Nat) (coll : Nat) (step : Nat) :
    Sound fz qu (writeDropList s0 job coll step) := by
  unfold writeDropList
  repeat' first
    | (simp +contextual (maxDischargeDepth := 99) only [put_sound, dropParts_sound, sound_mk, *]; done)
    | (extract_lets +onlyGivenNames x; refine (fun (hx : Sound fz qu x) => ?_) ?_; (clear_value x; rotate_left; unfold x; clear x))
    | (extract_lets +onlyGivenNames x; refine (fun (hx : Sound fz qu x.1) => ?_) ?_; (clear_value x; rotate_left; unfold x; clear x))
    | (extract_lets +onlyGivenNames x; clear_value x)
    | split
    | with_reducible apply put_sound
    | with_reducible apply dropParts_sound
    | with_reducible apply (sound_mk ..).2
    | dsimp only

theorem recordFail_sound {s : State} (hs : Sound fz qu s) (slot : Nat) (job : Nat) (coll : Nat) (step : Nat) (code : Nat) (cause : Nat) :
    Sound fz qu (recordFail s slot job coll step code cause) := by
  unfold recordFail
  repeat' first
    | (simp +contextual (maxDischargeDepth := 99) only [put_sound, logEvt_sound, ite_sound, *]; done)
    | (extract_lets +onlyGivenNames x; refine (fun (hx : Sound fz qu x) => ?_) ?_; (clear_value x; rotate_left; unfold x; clear x))
    | (extract_lets +onlyGivenNames x; refine (fun (hx : Sound fz qu x.1) => ?_) ?_; (clear_value x; rotate_left; unfold x; clear x))
    | (extract_lets +onlyGivenNames x; clear_value x)
    | split
    | with_reducible apply put_sound
    | with_reducible apply logEvt_sound
    | dsimp only

theorem scribbleFire_sound {s : State} (hs : Sound fz qu s) (f : Fire) :
    Sound fz qu (scribbleFire s f) := by
  unfold scribbleFire
  repeat' first
    | (simp +contextual (maxDischargeDepth := 99) only [scribble_sound, scribbleVa_sound, ite_sound, *]; done)
    | split
    | with_reducible apply scribble_sound
    | with_reducible apply scribbleVa_sound
    | dsimp only

theorem endOne_sound {s : State} (hs : Sound fz qu s) (slot : Nat) (job : Nat) (coll : Nat) (step : Nat) (code : Nat) (cause : Nat) :
    Sound fz qu (endOne s slot job coll step code cause).1 := by
  unfold endOne
  repeat' first
    | (simp +contextual (maxDischargeDepth := 99) only [orphan_sound, errCtxs_sound, abortOne_sound, disarm_sound, writeDropList_sound, recordFail_sound, scribbleFire_sound, ite_sound, sound_mk, each_sound, *]; done)
    | (extract_lets +onlyGivenNames x; refine (fun (hx : Sound fz qu x) => ?_) ?_; (clear_value x; rotate_left; unfold x; clear x))
    | (extract_lets +onlyGivenNames x; refine (fun (hx : Sound fz qu x.1) => ?_) ?_; (clear_value x; rotate_left; unfold x; clear x))
    | (extract_lets +onlyGivenNames x; clear_value x)
    | split
    | with_reducible refine each_sound (fun _ _ _ => ?_) _ ?_
    | with_reducible apply orphan_sound
    | with_reducible apply errCtxs_sound
    | with_reducible apply abortOne_sound
    | with_reducible apply disarm_sound
    | with_reducible apply writeDropList_sound
    | with_reducible apply recordFail_sound
    | with_reducible apply scribbleFire_sound
    | with_reducible apply (sound_mk ..).2
    | dsimp only

theorem endOnCores_sound (n : Nat) {s : State} (h : Sound fz qu s) (job code : Nat) (cs : List Nat) :
    Sound fz qu (endOnCores n s job code cs) := by
  induction n generalizing s cs with
  | zero => exact h
  | succ n ih =>
    unfold endOnCores
    split
    · exact h
    · exact ih (endOne_sound h _ _ _ _ _ _) _

theorem failMove_sound {s : State} (hs : Sound fz qu s) (w : Nat) (page : Nat) (code : Nat) :
    Sound fz qu (failMove s w page code) := by
  unfold failMove
  repeat' first
    | (simp +contextual (maxDischargeDepth := 99) only [ite_sound, sound_mk, *]; done)
    | split
    | with_reducible apply (sound_mk ..).2
    | dsimp only

theorem endColl_sound {s : State} (hs : Sound fz qu s) (slot : Nat) (job : Nat) (coll : Nat) (step : Nat) (code : Nat) (cause : Nat) :
    Sound fz qu (endColl s slot job coll step code cause) := by
  unfold endColl
  repeat' first
    | (simp +contextual (maxDischargeDepth := 99) only [endOne_sound, endOnCores_sound, *]; done)
    | (extract_lets +onlyGivenNames x; refine (fun (hx : Sound fz qu x) => ?_) ?_; (clear_value x; rotate_left; unfold x; clear x))
    | (extract_lets +onlyGivenNames x; refine (fun (hx : Sound fz qu x.1) => ?_) ?_; (clear_value x; rotate_left; unfold x; clear x))
    | (extract_lets +onlyGivenNames x; clear_value x)
    | split
    | with_reducible apply endOne_sound
    | with_reducible apply endOnCores_sound
    | dsimp only

theorem abortOnCore_sound {s : State} (hs : Sound fz qu s) (c : Nat) (sl : Slot) (code : Nat) :
    Sound fz qu (abortOnCore s c sl code) := by
  unfold abortOnCore
  repeat' first
    | (simp +contextual (maxDischargeDepth := 99) only [abortOne_sound, endOnCores_sound, *]; done)
    | (extract_lets +onlyGivenNames x; refine (fun (hx : Sound fz qu x) => ?_) ?_; (clear_value x; rotate_left; unfold x; clear x))
    | (extract_lets +onlyGivenNames x; refine (fun (hx : Sound fz qu x.1) => ?_) ?_; (clear_value x; rotate_left; unfold x; clear x))
    | (extract_lets +onlyGivenNames x; clear_value x)
    | split
    | with_reducible apply abortOne_sound
    | with_reducible apply endOnCores_sound
    | dsimp only

theorem recordDesc_sound {s : State} (hs : Sound fz qu s) (c : Nat) (d : Desc) (code : Nat) (addr : Nat) :
    Sound fz qu (recordDesc s c d code addr) := by
  unfold recordDesc
  repeat' first
    | (simp +contextual (maxDischargeDepth := 99) only [put_sound, ite_sound, *]; done)
    | (extract_lets +onlyGivenNames x; refine (fun (hx : Sound fz qu x) => ?_) ?_; (clear_value x; rotate_left; unfold x; clear x))
    | (extract_lets +onlyGivenNames x; refine (fun (hx : Sound fz qu x.1) => ?_) ?_; (clear_value x; rotate_left; unfold x; clear x))
    | (extract_lets +onlyGivenNames x; clear_value x)
    | split
    | with_reducible apply put_sound
    | dsimp only

theorem dropFire_sound {s : State} (hs : Sound fz qu s) (id : Nat) :
    Sound fz qu (dropFire s id) := by
  unfold dropFire
  repeat' first
    | (simp +contextual (maxDischargeDepth := 99) only [sound_mk, *]; done)
    | with_reducible apply (sound_mk ..).2
    | dsimp only

theorem settle_sound (n : Nat) {s : State} (h : Sound fz qu s) : Sound fz qu (settle n s) := by
  induction n generalizing s with
  | zero => exact h
  | succ n ih =>
    unfold settle
    split
    · exact ih (abortOnCore_sound (recordDesc_sound h _ _ _ _) _ _ _)
    · split
      · extract_lets s1
        have h1 : Sound fz qu s1 := orphan_sound h _
        clear_value s1
        split
        · exact ih h1
        · split
          · exact ih h1
          · exact ih (dropFire_sound (endColl_sound h1 _ _ _ _ _ _) _)
      · exact ih (orphan_sound (failMove_sound h _ _ _) _)
      · exact h

theorem endCollective_sound {s : State} (hs : Sound fz qu s) (slot : Nat) (job : Nat) (coll : Nat) (step : Nat) (code : Nat) (cause : Nat) :
    Sound fz qu (endCollective s slot job coll step code cause) := by
  unfold endCollective
  repeat' first
    | (simp +contextual (maxDischargeDepth := 99) only [endColl_sound, settle_sound, *]; done)
    | with_reducible apply endColl_sound
    | with_reducible apply settle_sound
    | dsimp only

theorem abortTask_sound {s : State} (hs : Sound fz qu s) (c : Nat) (sl : Slot) (code : Nat) :
    Sound fz qu (abortTask s c sl code) := by
  unfold abortTask
  repeat' first
    | (simp +contextual (maxDischargeDepth := 99) only [abortOnCore_sound, settle_sound, *]; done)
    | with_reducible apply abortOnCore_sound
    | with_reducible apply settle_sound
    | dsimp only

theorem abortJobOn_sound {s : State} (hs : Sound fz qu s) (c : Nat) (job : Nat) (code : Nat) :
    Sound fz qu (abortJobOn s c job code) := by
  unfold abortJobOn
  repeat' first
    | (simp +contextual (maxDischargeDepth := 99) only [abortTask_sound, ite_sound, each_sound, *]; done)
    | split
    | with_reducible refine each_sound (fun _ _ _ => ?_) _ ?_
    | with_reducible apply abortTask_sound
    | dsimp only

theorem failDesc_sound {s : State} (hs : Sound fz qu s) (c : Nat) (d : Desc) (code : Nat) (addr : Nat) :
    Sound fz qu (failDesc s c d code addr) := by
  unfold failDesc
  repeat' first
    | (simp +contextual (maxDischargeDepth := 99) only [recordDesc_sound, abortTask_sound, *]; done)
    | with_reducible apply recordDesc_sound
    | with_reducible apply abortTask_sound
    | dsimp only

end Sys2Proof.Machine
end

