-- ==== Sys2Proof/Laws/SoundTide.lean ====
section
/-!
SUPPORT. What the operations and commands of Machine/Tide.lean keep: the queue, the fused identity, the canonical form of memory,
and registers within their widths.
-/
namespace Sys2Proof.Machine

set_option linter.unusedTactic false
set_option linter.unreachableTactic false
set_option linter.unusedSimpArgs false

variable {fz : Fuses} {qu : List Instr}

theorem slotsFrom_sound {s : State} (hs : Sound fz qu s) (k : Nat) (t : Nat) :
    Sound fz qu (slotsFrom s k t) := by
  unfold slotsFrom
  repeat' first
    | (simp +contextual (maxDischargeDepth := 99) only [sound_mk, *]; done)
    | with_reducible apply (sound_mk ..).2
    | dsimp only

theorem stepSlots_sound {s : State} (hs : Sound fz qu s) :
    Sound fz qu (stepSlots s) := by
  unfold stepSlots
  repeat' first
    | (simp +contextual (maxDischargeDepth := 99) only [slotsFrom_sound, each_sound, *]; done)
    | with_reducible refine each_sound (fun _ _ _ => ?_) _ ?_
    | with_reducible apply slotsFrom_sound
    | dsimp only

theorem countRelease_sound {s : State} (hs : Sound fz qu s) (r : Release) :
    Sound fz qu (countRelease s r) := by
  unfold countRelease
  repeat' first
    | (simp +contextual (maxDischargeDepth := 99) only [bump_sound, *]; done)
    | split
    | with_reducible apply bump_sound
    | dsimp only

theorem setNamed_sound {s : State} (hs : Sound fz qu s) (sc : Nat) (n : Option NamedEpoch) :
    Sound fz qu (setNamed s sc n) := by
  unfold setNamed
  repeat' first
    | (simp +contextual (maxDischargeDepth := 99) only [sound_mk, *]; done)
    | with_reducible apply (sound_mk ..).2
    | dsimp only

theorem clearArm_sound {s : State} (hs : Sound fz qu s) (sc : Nat) :
    Sound fz qu (clearArm s sc) := by
  unfold clearArm
  repeat' first
    | (simp +contextual (maxDischargeDepth := 99) only [put_sound, ite_sound, *]; done)
    | split
    | with_reducible apply put_sound
    | dsimp only

theorem clearHeld_sound {s : State} (hs : Sound fz qu s) (sc : Nat) :
    Sound fz qu (clearHeld s sc) := by
  unfold clearHeld
  repeat' first
    | (simp +contextual (maxDischargeDepth := 99) only [ite_sound, sound_mk, *]; done)
    | split
    | with_reducible apply (sound_mk ..).2
    | dsimp only

theorem beginEclipse_sound {s : State} (hs : Sound fz qu s) (sc : Nat) (epoch : Nat) :
    Sound fz qu (beginEclipse s sc epoch) := by
  unfold beginEclipse
  repeat' first
    | (simp +contextual (maxDischargeDepth := 99) only [put_sound, logEvt_sound, clearArm_sound, sound_mk, *]; done)
    | (extract_lets +onlyGivenNames x; refine (fun (hx : Sound fz qu x) => ?_) ?_; (clear_value x; rotate_left; unfold x; clear x))
    | (extract_lets +onlyGivenNames x; refine (fun (hx : Sound fz qu x.1) => ?_) ?_; (clear_value x; rotate_left; unfold x; clear x))
    | (extract_lets +onlyGivenNames x; clear_value x)
    | with_reducible apply put_sound
    | with_reducible apply logEvt_sound
    | with_reducible apply clearArm_sound
    | with_reducible apply (sound_mk ..).2
    | dsimp only

theorem nameEpoch_sound {s : State} (hs : Sound fz qu s) (sc : Nat) (epoch : Nat) :
    Sound fz qu (nameEpoch s sc epoch) := by
  unfold nameEpoch
  repeat' first
    | (simp +contextual (maxDischargeDepth := 99) only [put_sound, bump_sound, setNamed_sound, clearHeld_sound, beginEclipse_sound, ite_sound, *]; done)
    | (extract_lets +onlyGivenNames x; refine (fun (hx : Sound fz qu x) => ?_) ?_; (clear_value x; rotate_left; unfold x; clear x))
    | (extract_lets +onlyGivenNames x; refine (fun (hx : Sound fz qu x.1) => ?_) ?_; (clear_value x; rotate_left; unfold x; clear x))
    | (extract_lets +onlyGivenNames x; clear_value x)
    | split
    | with_reducible apply put_sound
    | with_reducible apply bump_sound
    | with_reducible apply setNamed_sound
    | with_reducible apply clearHeld_sound
    | with_reducible apply beginEclipse_sound
    | dsimp only

theorem cancelEpoch_sound {s : State} (hs : Sound fz qu s) (sc : Nat) :
    Sound fz qu (cancelEpoch s sc) := by
  unfold cancelEpoch
  repeat' first
    | (simp +contextual (maxDischargeDepth := 99) only [setNamed_sound, clearHeld_sound, *]; done)
    | with_reducible apply setNamed_sound
    | with_reducible apply clearHeld_sound
    | dsimp only

theorem applyWrite_sound {s : State} (hs : Sound fz qu s) (epoch : Nat) (job : Nat) (modWide : Bool) (arm : Bool) :
    Sound fz qu (applyWrite s epoch job modWide arm) := by
  unfold applyWrite
  repeat' first
    | (simp +contextual (maxDischargeDepth := 99) only [put_sound, nameEpoch_sound, cancelEpoch_sound, ite_sound, *]; done)
    | (extract_lets +onlyGivenNames x; refine (fun (hx : Sound fz qu x) => ?_) ?_; (clear_value x; rotate_left; unfold x; clear x))
    | (extract_lets +onlyGivenNames x; refine (fun (hx : Sound fz qu x.1) => ?_) ?_; (clear_value x; rotate_left; unfold x; clear x))
    | (extract_lets +onlyGivenNames x; clear_value x)
    | split
    | with_reducible apply put_sound
    | with_reducible apply nameEpoch_sound
    | with_reducible apply cancelEpoch_sound
    | dsimp only

theorem execTideApplyArm_sound {s : State} (hs : Sound fz qu s) (epoch : BitVec 48) (job : BitVec 12) (scope : Bool) :
    Goes fz qu (execTideApplyArm epoch job scope s) := by
  unfold execTideApplyArm
  repeat' first
    | (simp +contextual (maxDischargeDepth := 99) only [applyWrite_sound, goes_next, onlyIf_sound, *]; done)
    | with_reducible refine goes_next ?_
    | with_reducible refine onlyIf_sound (fun _ _ => ?_) ?_
    | with_reducible apply applyWrite_sound
    | dsimp only

theorem execTideApplyCancel_sound {s : State} (hs : Sound fz qu s) (epoch : BitVec 48) (job : BitVec 12) (scope : Bool) :
    Goes fz qu (execTideApplyCancel epoch job scope s) := by
  unfold execTideApplyCancel
  repeat' first
    | (simp +contextual (maxDischargeDepth := 99) only [applyWrite_sound, goes_next, onlyIf_sound, *]; done)
    | with_reducible refine goes_next ?_
    | with_reducible refine onlyIf_sound (fun _ _ => ?_) ?_
    | with_reducible apply applyWrite_sound
    | dsimp only

theorem shadowWrite_sound {s : State} (hs : Sound fz qu s) (sc : Nat) (f : Fld) (i : Nat) (v : Nat) :
    Sound fz qu (shadowWrite s sc f i v) := by
  unfold shadowWrite
  repeat' first
    | (simp +contextual (maxDischargeDepth := 99) only [sound_mk, *]; done)
    | (extract_lets +onlyGivenNames x; refine (fun (hx : Sound fz qu x) => ?_) ?_; (clear_value x; rotate_left; unfold x; clear x))
    | (extract_lets +onlyGivenNames x; refine (fun (hx : Sound fz qu x.1) => ?_) ?_; (clear_value x; rotate_left; unfold x; clear x))
    | (extract_lets +onlyGivenNames x; clear_value x)
    | with_reducible apply (sound_mk ..).2
    | dsimp only

theorem enterHoldover_sound {s : State} (hs : Sound fz qu s) :
    Sound fz qu (enterHoldover s) := by
  unfold enterHoldover
  repeat' first
    | (simp +contextual (maxDischargeDepth := 99) only [put_sound, bump_sound, sound_mk, *]; done)
    | (extract_lets +onlyGivenNames x; refine (fun (hx : Sound fz qu x) => ?_) ?_; (clear_value x; rotate_left; unfold x; clear x))
    | (extract_lets +onlyGivenNames x; refine (fun (hx : Sound fz qu x.1) => ?_) ?_; (clear_value x; rotate_left; unfold x; clear x))
    | (extract_lets +onlyGivenNames x; clear_value x)
    | with_reducible apply put_sound
    | with_reducible apply bump_sound
    | with_reducible apply (sound_mk ..).2
    | dsimp only

theorem logSyncLost_sound {s : State} (hs : Sound fz qu s) :
    Sound fz qu (logSyncLost s) := by
  unfold logSyncLost
  repeat' first
    | (simp +contextual (maxDischargeDepth := 99) only [logEvt_sound, *]; done)
    | with_reducible apply logEvt_sound
    | dsimp only

theorem loseSync_sound {s : State} (hs : Sound fz qu s) :
    Sound fz qu (loseSync s) := by
  unfold loseSync
  repeat' first
    | (simp +contextual (maxDischargeDepth := 99) only [enterHoldover_sound, logSyncLost_sound, ite_sound, *]; done)
    | split
    | with_reducible apply enterHoldover_sound
    | with_reducible apply logSyncLost_sound
    | dsimp only

theorem measured_sound {s : State} (hs : Sound fz qu s) (q : Int) :
    Sound fz qu (measured s q) := by
  unfold measured
  repeat' first
    | (simp +contextual (maxDischargeDepth := 99) only [put_sound, ite_sound, sound_mk, *]; done)
    | (extract_lets +onlyGivenNames x; refine (fun (hx : Sound fz qu x) => ?_) ?_; (clear_value x; rotate_left; unfold x; clear x))
    | (extract_lets +onlyGivenNames x; refine (fun (hx : Sound fz qu x.1) => ?_) ?_; (clear_value x; rotate_left; unfold x; clear x))
    | (extract_lets +onlyGivenNames x; clear_value x)
    | split
    | with_reducible apply put_sound
    | with_reducible apply (sound_mk ..).2
    | dsimp only

theorem execSyncMeasurementTimeout_sound {s : State} (hs : Sound fz qu s) :
    Goes fz qu (execSyncMeasurementTimeout s) := by
  unfold execSyncMeasurementTimeout
  repeat' first
    | (simp +contextual (maxDischargeDepth := 99) only [enterHoldover_sound, goes_next, onlyIf_sound, *]; done)
    | with_reducible refine goes_next ?_
    | with_reducible refine onlyIf_sound (fun _ _ => ?_) ?_
    | with_reducible apply enterHoldover_sound
    | dsimp only

theorem tideCtlWrite_sound {s : State} (hs : Sound fz qu s) (v : Nat) :
    Sound fz qu (tideCtlWrite s v) := by
  unfold tideCtlWrite
  repeat' first
    | (simp +contextual (maxDischargeDepth := 99) only [put_sound, ite_sound, sound_mk, *]; done)
    | (extract_lets +onlyGivenNames x; refine (fun (hx : Sound fz qu x) => ?_) ?_; (clear_value x; rotate_left; unfold x; clear x))
    | (extract_lets +onlyGivenNames x; refine (fun (hx : Sound fz qu x.1) => ?_) ?_; (clear_value x; rotate_left; unfold x; clear x))
    | (extract_lets +onlyGivenNames x; clear_value x)
    | split
    | with_reducible apply put_sound
    | with_reducible apply (sound_mk ..).2
    | dsimp only

theorem execTideSyncSrcWrite_sound {s : State} (hs : Sound fz qu s) (v : BitVec 64) :
    Goes fz qu (execTideSyncSrcWrite v s) := by
  unfold execTideSyncSrcWrite
  repeat' first
    | (simp +contextual (maxDischargeDepth := 99) only [tideCtlWrite_sound, goes_next, onlyIf_sound, *]; done)
    | with_reducible refine goes_next ?_
    | with_reducible refine onlyIf_sound (fun _ _ => ?_) ?_
    | with_reducible apply tideCtlWrite_sound
    | dsimp only

theorem execTidePpsOutStart_sound {s : State} (hs : Sound fz qu s) :
    Goes fz qu (execTidePpsOutStart s) := by
  unfold execTidePpsOutStart
  repeat' first
    | (simp +contextual (maxDischargeDepth := 99) only [emit_sound, goes_next, sound_mk, onlyIf_sound, *]; done)
    | with_reducible refine goes_next ?_
    | with_reducible refine onlyIf_sound (fun _ _ => ?_) ?_
    | with_reducible apply emit_sound
    | with_reducible apply (sound_mk ..).2
    | dsimp only

theorem execTidePpsOutEnd_sound {s : State} (hs : Sound fz qu s) :
    Goes fz qu (execTidePpsOutEnd s) := by
  unfold execTidePpsOutEnd
  repeat' first
    | (simp +contextual (maxDischargeDepth := 99) only [emit_sound, goes_next, sound_mk, onlyIf_sound, *]; done)
    | with_reducible refine goes_next ?_
    | with_reducible refine onlyIf_sound (fun _ _ => ?_) ?_
    | split
    | with_reducible apply emit_sound
    | with_reducible apply (sound_mk ..).2
    | dsimp only

end Sys2Proof.Machine
end

