-- ==== Sys2Proof/Laws/SoundPorts.lean ====
section
/-!
SUPPORT. What the operations and commands of Machine/Ports.lean keep: the queue, the fused identity, the canonical form of memory,
and registers within their widths.
-/
namespace Sys2Proof.Machine

set_option linter.unusedTactic false
set_option linter.unreachableTactic false
set_option linter.unusedSimpArgs false

variable {fz : Fuses} {qu : List Instr}

theorem trainAll_sound {s : State} (hs : Sound fz qu s) :
    Sound fz qu (trainAll s) := by
  unfold trainAll
  repeat' first
    | (simp +contextual (maxDischargeDepth := 99) only [put_sound, ite_sound, each_sound, *]; done)
    | split
    | with_reducible refine each_sound (fun _ _ _ => ?_) _ ?_
    | with_reducible apply put_sound
    | dsimp only

end Sys2Proof.Machine
end

