-- ==== Sys2Proof/Laws/SoundAccess.lean ====
section
/-!
SUPPORT. What the operations and commands of Machine/Access.lean keep: the queue, the fused identity, the canonical form of memory,
and registers within their widths.
-/
namespace Sys2Proof.Machine

set_option linter.unusedTactic false
set_option linter.unreachableTactic false
set_option linter.unusedSimpArgs false

variable {fz : Fuses} {qu : List Instr}

theorem noteReach_sound {s : State} (hs : Sound fz qu s) (job : Nat) (core : Nat) (unit : Nat) (va : Nat) (reason : Nat) (code : Nat) :
    Sound fz qu (noteReach s job core unit va reason code) := by
  unfold noteReach
  repeat' first
    | (simp +contextual (maxDischargeDepth := 99) only [noteFault_sound, ite_sound, *]; done)
    | split
    | with_reducible apply noteFault_sound
    | dsimp only

theorem noteAccess_sound {s : State} (hs : Sound fz qu s) (core : Nat) (job : Nat) (va : Nat) (write : Bool) :
    Sound fz qu (noteAccess s core job va write) := by
  unfold noteAccess
  repeat' first
    | (simp +contextual (maxDischargeDepth := 99) only [noteViewWrite_sound, noteWalk_sound, ite_sound, *]; done)
    | (extract_lets +onlyGivenNames x; refine (fun (hx : Sound fz qu x) => ?_) ?_; (clear_value x; rotate_left; unfold x; clear x))
    | (extract_lets +onlyGivenNames x; refine (fun (hx : Sound fz qu x.1) => ?_) ?_; (clear_value x; rotate_left; unfold x; clear x))
    | (extract_lets +onlyGivenNames x; clear_value x)
    | split
    | with_reducible apply noteViewWrite_sound
    | with_reducible apply noteWalk_sound
    | dsimp only

theorem readOff_sound {s : State} (hs : Sound fz qu s) (job : Nat) (core : Nat) (o : Nat) (n : Nat) :
    Sound fz qu (readOff s job core o n).1 := by
  unfold readOff
  repeat' first
    | (simp +contextual (maxDischargeDepth := 99) only [noteUnit_sound, readMem_sound, ite_sound, *]; done)
    | (extract_lets +onlyGivenNames x; refine (fun (hx : Sound fz qu x) => ?_) ?_; (clear_value x; rotate_left; unfold x; clear x))
    | (extract_lets +onlyGivenNames x; refine (fun (hx : Sound fz qu x.1) => ?_) ?_; (clear_value x; rotate_left; unfold x; clear x))
    | (extract_lets +onlyGivenNames x; clear_value x)
    | split
    | with_reducible apply noteUnit_sound
    | with_reducible apply readMem_sound
    | dsimp only

theorem writeOff_sound {s : State} (hs : Sound fz qu s) (job : Nat) (core : Nat) (o : Nat) (b : Bytes) :
    Sound fz qu (writeOff s job core o b).1 := by
  unfold writeOff
  repeat' first
    | (simp +contextual (maxDischargeDepth := 99) only [noteUnit_sound, writeMem_sound, ite_sound, *]; done)
    | (extract_lets +onlyGivenNames x; refine (fun (hx : Sound fz qu x) => ?_) ?_; (clear_value x; rotate_left; unfold x; clear x))
    | (extract_lets +onlyGivenNames x; refine (fun (hx : Sound fz qu x.1) => ?_) ?_; (clear_value x; rotate_left; unfold x; clear x))
    | (extract_lets +onlyGivenNames x; clear_value x)
    | split
    | with_reducible apply noteUnit_sound
    | with_reducible apply writeMem_sound
    | dsimp only

theorem readVa_sound {s : State} (h : Sound fz qu s) (job core unit va n : Nat) :
    Sound fz qu (readVa s job core unit va n).1 := by
  refine foldl_sound (fun r p hr => ?_) _ h
  split
  · exact hr
  · split
    · exact readOff_sound (noteAccess_sound hr _ _ _ _) _ _ _ _
    · exact noteReach_sound hr _ _ _ _ _ _
    · exact noteReach_sound hr _ _ _ _ _ _

theorem writeVa_sound {s : State} (h : Sound fz qu s) (job core unit va : Nat) (b : Bytes) :
    Sound fz qu (writeVa s job core unit va b).1 := by
  refine foldl_sound (fun r p hr => ?_) _ h
  split
  · exact hr
  · split
    · exact writeOff_sound (noteAccess_sound hr _ _ _ _) _ _ _ _
    · exact noteReach_sound hr _ _ _ _ _ _
    · exact noteReach_sound hr _ _ _ _ _ _

theorem noteUntranslated_sound {s : State} (hs : Sound fz qu s) (job : Nat) (va : Nat) (n : Nat) (write : Bool) :
    Sound fz qu (noteUntranslated s job va n write).1 := by
  unfold noteUntranslated
  repeat' first
    | (simp +contextual (maxDischargeDepth := 99) only [noteWalkUe_sound, ite_sound, *]; done)
    | split
    | with_reducible apply noteWalkUe_sound
    | dsimp only

theorem noteMed_sound {s : State} (hs : Sound fz qu s) (job va : Nat) (x : Xlat) : Sound fz qu (noteMed s job va x) := by
  unfold noteMed
  split
  · exact noteWalkUe_sound hs _ _ _ _
  · exact hs

theorem noteUnwritable_sound {s : State} (hs : Sound fz qu s) (job : Nat) (l : List (Nat × Nat)) :
    Sound fz qu (noteUnwritable s job l) := by
  unfold noteUnwritable
  split
  · exact hs
  · exact noteMed_sound hs _ _ _

theorem medWrite_sound {s : State} (hs : Sound fz qu s) (job : Nat) (va : Nat) (b : Bytes) :
    Sound fz qu (medWrite s job va b).1 := by
  unfold medWrite
  repeat' first
    | (simp +contextual (maxDischargeDepth := 99) only [writeVa_sound, noteUnwritable_sound, ite_sound, *]; done)
    | (extract_lets +onlyGivenNames x; refine (fun (hx : Sound fz qu x) => ?_) ?_; (clear_value x; rotate_left; unfold x; clear x))
    | (extract_lets +onlyGivenNames x; refine (fun (hx : Sound fz qu x.1) => ?_) ?_; (clear_value x; rotate_left; unfold x; clear x))
    | (extract_lets +onlyGivenNames x; clear_value x)
    | split
    | with_reducible apply writeVa_sound
    | with_reducible apply noteUnwritable_sound
    | dsimp only

theorem medWrites_sound {s : State} (h : Sound fz qu s) (job : Nat) (l : List (Nat × Bytes)) :
    Sound fz qu (medWrites s job l).1 := by
  refine foldl_sound (fun r w hr => ?_) _ h
  split
  · exact hr
  · exact medWrite_sound hr _ _ _

end Sys2Proof.Machine
end

