-- ==== Sys2Proof/Laws/SoundReset.lean ====
section
/-!
SUPPORT. What the operations and commands of Machine/Reset.lean keep: the queue, the fused identity, the canonical form of memory,
and registers within their widths.
-/
namespace Sys2Proof.Machine

set_option linter.unusedTactic false
set_option linter.unreachableTactic false
set_option linter.unusedSimpArgs false

variable {fz : Fuses} {qu : List Instr}

theorem setCp_sound {s : State} (hs : Sound fz qu s) (p : Cp) (x : CpSt) :
    Sound fz qu (setCp s p x) := by
  unfold setCp
  repeat' first
    | (simp +contextual (maxDischargeDepth := 99) only [sound_mk, *]; done)
    | with_reducible apply (sound_mk ..).2
    | dsimp only

theorem sendResp_sound {s : State} (hs : Sound fz qu s) (r : Resp) :
    Sound fz qu (sendResp s r) := by
  unfold sendResp
  repeat' first
    | (simp +contextual (maxDischargeDepth := 99) only [bump_sound, bumpW_sound, emit_sound, ite_sound, *]; done)
    | (extract_lets +onlyGivenNames x; refine (fun (hx : Sound fz qu x) => ?_) ?_; (clear_value x; rotate_left; unfold x; clear x))
    | (extract_lets +onlyGivenNames x; refine (fun (hx : Sound fz qu x.1) => ?_) ?_; (clear_value x; rotate_left; unfold x; clear x))
    | (extract_lets +onlyGivenNames x; clear_value x)
    | split
    | with_reducible apply bump_sound
    | with_reducible apply bumpW_sound
    | with_reducible apply emit_sound
    | dsimp only

theorem acceptCmd_sound {s : State} (hs : Sound fz qu s) (p : Cp) : Sound fz qu (acceptCmd s p) := setCp_sound hs _ _

theorem answer_sound {s : State} (hs : Sound fz qu s) (h : CtlHdr) (op : Nat) (status : Nat) (code : Nat) (words : List Word) :
    Sound fz qu (answer s h op status code words) := by
  unfold answer
  repeat' first
    | (simp +contextual (maxDischargeDepth := 99) only [emit_sound, setCp_sound, sendResp_sound, ite_sound, sound_mk, each_sound, *]; done)
    | (extract_lets +onlyGivenNames x; refine (fun (hx : Sound fz qu x) => ?_) ?_; (clear_value x; rotate_left; unfold x; clear x))
    | (extract_lets +onlyGivenNames x; refine (fun (hx : Sound fz qu x.1) => ?_) ?_; (clear_value x; rotate_left; unfold x; clear x))
    | (extract_lets +onlyGivenNames x; clear_value x)
    | split
    | with_reducible refine each_sound (fun _ _ _ => ?_) _ ?_
    | with_reducible apply emit_sound
    | with_reducible apply setCp_sound
    | with_reducible apply sendResp_sound
    | with_reducible apply (sound_mk ..).2
    | dsimp only

theorem loseRegs_sound {s : State} (h : Sound fz qu s) (lost : Nat → Keep → Bool) : Sound fz qu (loseRegs s lost) :=
  ⟨h.1, h.2.1, h.2.2.1, regsFit_filter _ h.2.2.2⟩

theorem loseEcc_sound {s : State} (hs : Sound fz qu s) (lost : EccUnit → Bool) :
    Sound fz qu (loseEcc s lost) := by
  unfold loseEcc
  repeat' first
    | (simp +contextual (maxDischargeDepth := 99) only [sound_mk, *]; done)
    | with_reducible apply (sound_mk ..).2
    | dsimp only

theorem zeroDie_sound {s : State} (hs : Sound fz qu s) (d : Nat) :
    Sound fz qu (zeroDie s d) := by
  unfold zeroDie
  repeat' first
    | (simp +contextual (maxDischargeDepth := 99) only [zeroMem_sound, *]; done)
    | with_reducible apply zeroMem_sound
    | dsimp only

theorem abortWhere_sound {s : State} (hs : Sound fz qu s) (cs : List Nat) (code : Nat) (f : State → Nat → Slot → Bool) :
    Sound fz qu (abortWhere s cs code f) := by
  unfold abortWhere
  repeat' first
    | (simp +contextual (maxDischargeDepth := 99) only [abortTask_sound, ite_sound, each_sound, *]; done)
    | split
    | with_reducible refine each_sound (fun _ _ _ => ?_) _ ?_
    | with_reducible apply abortTask_sound
    | dsimp only

theorem loseStr_sound {s : State} (hs : Sound fz qu s) (n : Nat) :
    Sound fz qu (loseStr s n) := by
  unfold loseStr
  repeat' first
    | (simp +contextual (maxDischargeDepth := 99) only [sound_mk, *]; done)
    | with_reducible apply (sound_mk ..).2
    | dsimp only

theorem loseTlb_sound {s : State} (hs : Sound fz qu s) (d : Nat) :
    Sound fz qu (loseTlb s d) := by
  unfold loseTlb
  repeat' first
    | (simp +contextual (maxDischargeDepth := 99) only [sound_mk, *]; done)
    | split
    | with_reducible apply (sound_mk ..).2
    | dsimp only

theorem resetDie_sound {s : State} (hs : Sound fz qu s) (d : Nat) :
    Sound fz qu (resetDie s d) := by
  unfold resetDie
  repeat' first
    | (simp +contextual (maxDischargeDepth := 99) only [bump_sound, setCore_sound, endCollective_sound, loseEcc_sound, zeroDie_sound, abortWhere_sound, loseStr_sound, loseTlb_sound, ite_sound, each_sound, *]; done)
    | (extract_lets +onlyGivenNames x; refine (fun (hx : Sound fz qu x) => ?_) ?_; (clear_value x; rotate_left; unfold x; clear x))
    | (extract_lets +onlyGivenNames x; refine (fun (hx : Sound fz qu x.1) => ?_) ?_; (clear_value x; rotate_left; unfold x; clear x))
    | (extract_lets +onlyGivenNames x; clear_value x)
    | split
    | with_reducible refine each_sound (fun _ _ _ => ?_) _ ?_
    | with_reducible apply bump_sound
    | with_reducible apply setCore_sound
    | with_reducible apply endCollective_sound
    | with_reducible apply loseEcc_sound
    | with_reducible apply zeroDie_sound
    | with_reducible apply abortWhere_sound
    | with_reducible apply loseStr_sound
    | with_reducible apply loseTlb_sound
    | dsimp only

theorem failMoves_sound {s : State} (hs : Sound fz qu s) (code : Nat) :
    Sound fz qu (failMoves s code) := by
  unfold failMoves
  repeat' first
    | (simp +contextual (maxDischargeDepth := 99) only [failMove_sound, each_sound, *]; done)
    | with_reducible refine each_sound (fun _ _ _ => ?_) _ ?_
    | with_reducible apply failMove_sound
    | dsimp only

theorem resetFn5_sound {s : State} (hs : Sound fz qu s) :
    Sound fz qu (resetFn5 s) := by
  unfold resetFn5
  repeat' first
    | (simp +contextual (maxDischargeDepth := 99) only [abortWhere_sound, loseStr_sound, failMoves_sound, sound_mk, *]; done)
    | (extract_lets +onlyGivenNames x; refine (fun (hx : Sound fz qu x) => ?_) ?_; (clear_value x; rotate_left; unfold x; clear x))
    | (extract_lets +onlyGivenNames x; refine (fun (hx : Sound fz qu x.1) => ?_) ?_; (clear_value x; rotate_left; unfold x; clear x))
    | (extract_lets +onlyGivenNames x; clear_value x)
    | with_reducible apply abortWhere_sound
    | with_reducible apply loseStr_sound
    | with_reducible apply failMoves_sound
    | with_reducible apply (sound_mk ..).2
    | dsimp only

theorem abortMedia_sound {s : State} (hs : Sound fz qu s) (e : Nat) (t : MedTask) :
    Sound fz qu (abortMedia s e t) := by
  unfold abortMedia
  repeat' first
    | (simp +contextual (maxDischargeDepth := 99) only [freeTick_sound, logEvt_sound, scribbleVa_sound, medWrite_sound, each_sound, *]; done)
    | (extract_lets +onlyGivenNames x; refine (fun (hx : Sound fz qu x) => ?_) ?_; (clear_value x; rotate_left; unfold x; clear x))
    | (extract_lets +onlyGivenNames x; refine (fun (hx : Sound fz qu x.1) => ?_) ?_; (clear_value x; rotate_left; unfold x; clear x))
    | (extract_lets +onlyGivenNames x; clear_value x)
    | split
    | with_reducible refine each_sound (fun _ _ _ => ?_) _ ?_
    | with_reducible apply freeTick_sound
    | with_reducible apply logEvt_sound
    | with_reducible apply scribbleVa_sound
    | with_reducible apply medWrite_sound
    | dsimp only

theorem resetFn6_sound {s : State} (hs : Sound fz qu s) :
    Sound fz qu (resetFn6 s) := by
  unfold resetFn6
  repeat' first
    | (simp +contextual (maxDischargeDepth := 99) only [abortMedia_sound, sound_mk, each_sound, *]; done)
    | split
    | with_reducible refine each_sound (fun _ _ _ => ?_) _ ?_
    | with_reducible apply abortMedia_sound
    | with_reducible apply (sound_mk ..).2
    | dsimp only

theorem resetFn7_sound {s : State} (hs : Sound fz qu s) :
    Sound fz qu (resetFn7 s) := by
  unfold resetFn7
  repeat' first
    | (simp +contextual (maxDischargeDepth := 99) only [abortWhere_sound, sound_mk, *]; done)
    | (extract_lets +onlyGivenNames x; refine (fun (hx : Sound fz qu x) => ?_) ?_; (clear_value x; rotate_left; unfold x; clear x))
    | (extract_lets +onlyGivenNames x; refine (fun (hx : Sound fz qu x.1) => ?_) ?_; (clear_value x; rotate_left; unfold x; clear x))
    | (extract_lets +onlyGivenNames x; clear_value x)
    | with_reducible apply abortWhere_sound
    | with_reducible apply (sound_mk ..).2
    | dsimp only

theorem loseParent_sound {s : State} (hs : Sound fz qu s) :
    Sound fz qu (loseParent s) := by
  unfold loseParent
  repeat' first
    | (simp +contextual (maxDischargeDepth := 99) only [loseSync_sound, ite_sound, *]; done)
    | split
    | with_reducible apply loseSync_sound
    | dsimp only

theorem resetFn8_sound {s : State} (hs : Sound fz qu s) :
    Sound fz qu (resetFn8 s) := by
  unfold resetFn8
  repeat' first
    | (simp +contextual (maxDischargeDepth := 99) only [abortWhere_sound, loseStr_sound, loseParent_sound, sound_mk, *]; done)
    | (extract_lets +onlyGivenNames x; refine (fun (hx : Sound fz qu x) => ?_) ?_; (clear_value x; rotate_left; unfold x; clear x))
    | (extract_lets +onlyGivenNames x; refine (fun (hx : Sound fz qu x.1) => ?_) ?_; (clear_value x; rotate_left; unfold x; clear x))
    | (extract_lets +onlyGivenNames x; clear_value x)
    | with_reducible apply abortWhere_sound
    | with_reducible apply loseStr_sound
    | with_reducible apply loseParent_sound
    | with_reducible apply (sound_mk ..).2
    | dsimp only

theorem resetFn_sound {s : State} (hs : Sound fz qu s) (n : Nat) :
    Sound fz qu (resetFn s n) := by
  unfold resetFn
  repeat' first
    | (simp +contextual (maxDischargeDepth := 99) only [resetDie_sound, resetFn5_sound, resetFn6_sound, resetFn7_sound, resetFn8_sound, ite_sound, *]; done)
    | split
    | with_reducible apply resetDie_sound
    | with_reducible apply resetFn5_sound
    | with_reducible apply resetFn6_sound
    | with_reducible apply resetFn7_sound
    | with_reducible apply resetFn8_sound
    | dsimp only

theorem closeRestore_sound {s : State} (hs : Sound fz qu s) :
    Sound fz qu (closeRestore s) := by
  unfold closeRestore
  repeat' first
    | (simp +contextual (maxDischargeDepth := 99) only [put_sound, sound_mk, *]; done)
    | with_reducible apply put_sound
    | with_reducible apply (sound_mk ..).2
    | dsimp only

theorem enterFnReset_sound {s : State} (hs : Sound fz qu s) (mask : Nat) :
    Sound fz qu (enterFnReset s mask) := by
  unfold enterFnReset
  repeat' first
    | (simp +contextual (maxDischargeDepth := 99) only [put_sound, loseRegs_sound, resetFn_sound, closeRestore_sound, ite_sound, sound_mk, each_sound, *]; done)
    | (extract_lets +onlyGivenNames x; refine (fun (hx : Sound fz qu x) => ?_) ?_; (clear_value x; rotate_left; unfold x; clear x))
    | (extract_lets +onlyGivenNames x; refine (fun (hx : Sound fz qu x.1) => ?_) ?_; (clear_value x; rotate_left; unfold x; clear x))
    | (extract_lets +onlyGivenNames x; clear_value x)
    | split
    | with_reducible refine each_sound (fun _ _ _ => ?_) _ ?_
    | with_reducible apply put_sound
    | with_reducible apply loseRegs_sound
    | with_reducible apply resetFn_sound
    | with_reducible apply closeRestore_sound
    | with_reducible apply (sound_mk ..).2
    | dsimp only

theorem holdSample_sound {s : State} (hs : Sound fz qu s) :
    Sound fz qu (holdSample s) := by
  unfold holdSample
  repeat' first
    | (simp +contextual (maxDischargeDepth := 99) only [sound_mk, *]; done)
    | with_reducible apply (sound_mk ..).2
    | dsimp only

theorem enterModuleReset_sound {s : State} (h : Sound fz qu s) : Sound fz qu (enterModuleReset s) := by
  unfold enterModuleReset
  extract_lets s1 s2 s3
  have h2 : Sound fz qu s2 := put_sound (put_sound (loseRegs_sound h _) _ _ _) _ _ _
  clear_value s2
  exact onlyIf_sound (fun _ h => emit_sound h _) ⟨h2.1, h2.2.1, rfl, h2.2.2.2⟩

theorem showFound_sound {s : State} (hs : Sound fz qu s) (f : Found) :
    Sound fz qu (showFound s f) := by
  unfold showFound
  repeat' first
    | (simp +contextual (maxDischargeDepth := 99) only [put_sound, putDigest_sound, *]; done)
    | with_reducible apply put_sound
    | with_reducible apply putDigest_sound
    | dsimp only

theorem activateStaged_sound {s : State} (hs : Sound fz qu s) :
    Sound fz qu (activateStaged s) := by
  unfold activateStaged
  repeat' first
    | (simp +contextual (maxDischargeDepth := 99) only [put_sound, showFound_sound, sound_mk, *]; done)
    | split
    | with_reducible apply put_sound
    | with_reducible apply showFound_sound
    | with_reducible apply (sound_mk ..).2
    | dsimp only

theorem startSequence_sound {s : State} (hs : Sound fz qu s) (cause : Nat) :
    Sound fz qu (startSequence s cause) := by
  unfold startSequence
  repeat' first
    | (simp +contextual (maxDischargeDepth := 99) only [put_sound, bump_sound, activateStaged_sound, ite_sound, sound_mk, *]; done)
    | (extract_lets +onlyGivenNames x; refine (fun (hx : Sound fz qu x) => ?_) ?_; (clear_value x; rotate_left; unfold x; clear x))
    | (extract_lets +onlyGivenNames x; refine (fun (hx : Sound fz qu x.1) => ?_) ?_; (clear_value x; rotate_left; unfold x; clear x))
    | (extract_lets +onlyGivenNames x; clear_value x)
    | split
    | with_reducible apply put_sound
    | with_reducible apply bump_sound
    | with_reducible apply activateStaged_sound
    | with_reducible apply (sound_mk ..).2
    | dsimp only

theorem takeOverRst_sound {s : State} (hs : Sound fz qu s) :
    Sound fz qu (takeOverRst s) := by
  unfold takeOverRst
  repeat' first
    | (simp +contextual (maxDischargeDepth := 99) only [answer_sound, sound_mk, each_sound, *]; done)
    | with_reducible refine each_sound (fun _ _ _ => ?_) _ ?_
    | with_reducible apply answer_sound
    | with_reducible apply (sound_mk ..).2
    | dsimp only

theorem moduleReset_sound {s : State} (hs : Sound fz qu s) (cause : Nat) :
    Sound fz qu (moduleReset s cause) := by
  unfold moduleReset
  repeat' first
    | (simp +contextual (maxDischargeDepth := 99) only [enterModuleReset_sound, startSequence_sound, *]; done)
    | with_reducible apply enterModuleReset_sound
    | with_reducible apply startSequence_sound
    | dsimp only

end Sys2Proof.Machine
end

