-- ==== Sys2Proof/Laws/SoundPower.lean ====
section
/-!
SUPPORT. What the operations and commands of Machine/Power.lean keep: the queue, the fused identity, the canonical form of memory,
and registers within their widths.
-/
namespace Sys2Proof.Machine

set_option linter.unusedTactic false
set_option linter.unreachableTactic false
set_option linter.unusedSimpArgs false

variable {fz : Fuses} {qu : List Instr}

theorem execPowerAppliedAtJ3_sound {s : State} (h : Sound fz qu s) (volts : BitVec 13) (addr1 addr0 : Bool) :
    Goes fz qu (execPowerAppliedAtJ3 volts addr1 addr0 s) := by
  unfold execPowerAppliedAtJ3
  split
  · exact h
  · exact ⟨h.1, h.2.1, rfl, regsFit_one _ _⟩

theorem execRailsInRegulation_sound {s : State} (hs : Sound fz qu s) :
    Goes fz qu (execRailsInRegulation s) := by
  unfold execRailsInRegulation
  repeat' first
    | (simp +contextual (maxDischargeDepth := 99) only [goes_next, sound_mk, onlyIf_sound, *]; done)
    | with_reducible refine goes_next ?_
    | with_reducible refine onlyIf_sound (fun _ _ => ?_) ?_
    | with_reducible apply (sound_mk ..).2
    | dsimp only

theorem execPowerOn_sound {s : State} (hs : Sound fz qu s) :
    Goes fz qu (execPowerOn s) := by
  unfold execPowerOn
  repeat' first
    | (simp +contextual (maxDischargeDepth := 99) only [holdSample_sound, startSequence_sound, goes_next, onlyIf_sound, *]; done)
    | with_reducible refine goes_next ?_
    | with_reducible refine onlyIf_sound (fun _ _ => ?_) ?_
    | with_reducible apply holdSample_sound
    | with_reducible apply startSequence_sound
    | dsimp only

theorem leaveReset_sound {s : State} (hs : Sound fz qu s) (fns : List Nat) :
    Sound fz qu (leaveReset s fns) := by
  unfold leaveReset
  repeat' first
    | (simp +contextual (maxDischargeDepth := 99) only [put_sound, ite_sound, *]; done)
    | split
    | with_reducible apply put_sound
    | dsimp only

theorem makeReady_sound {s : State} (hs : Sound fz qu s) (fns : List Nat) :
    Sound fz qu (makeReady s fns) := by
  unfold makeReady
  repeat' first
    | (simp +contextual (maxDischargeDepth := 99) only [put_sound, ite_sound, *]; done)
    | split
    | with_reducible apply put_sound
    | dsimp only

theorem setStage_sound {s : State} (hs : Sound fz qu s) (n : Nat) :
    Sound fz qu (setStage s n) := by
  unfold setStage
  repeat' first
    | (simp +contextual (maxDischargeDepth := 99) only [sound_mk, *]; done)
    | with_reducible apply (sound_mk ..).2
    | dsimp only

theorem fn0Ready_sound {s : State} (hs : Sound fz qu s) :
    Sound fz qu (fn0Ready s) := by
  unfold fn0Ready
  repeat' first
    | (simp +contextual (maxDischargeDepth := 99) only [emit_sound, makeReady_sound, setStage_sound, sound_mk, onlyIf_sound, *]; done)
    | with_reducible refine onlyIf_sound (fun _ _ => ?_) ?_
    | (extract_lets +onlyGivenNames x; refine (fun (hx : Sound fz qu x) => ?_) ?_; (clear_value x; rotate_left; unfold x; clear x))
    | (extract_lets +onlyGivenNames x; refine (fun (hx : Sound fz qu x.1) => ?_) ?_; (clear_value x; rotate_left; unfold x; clear x))
    | (extract_lets +onlyGivenNames x; clear_value x)
    | with_reducible apply emit_sound
    | with_reducible apply makeReady_sound
    | with_reducible apply setStage_sound
    | with_reducible apply (sound_mk ..).2
    | dsimp only

theorem leave78_sound {s : State} (hs : Sound fz qu s) :
    Sound fz qu (leave78 s) := by
  unfold leave78
  repeat' first
    | (simp +contextual (maxDischargeDepth := 99) only [trainAll_sound, leaveReset_sound, makeReady_sound, setStage_sound, *]; done)
    | with_reducible apply trainAll_sound
    | with_reducible apply leaveReset_sound
    | with_reducible apply makeReady_sound
    | with_reducible apply setStage_sound
    | dsimp only

theorem nextStage_sound {s : State} (hs : Sound fz qu s) :
    Sound fz qu (nextStage s) := by
  unfold nextStage
  repeat' first
    | (simp +contextual (maxDischargeDepth := 99) only [logEvt_sound, leaveReset_sound, makeReady_sound, setStage_sound, fn0Ready_sound, leave78_sound, ite_sound, *]; done)
    | (extract_lets +onlyGivenNames x; refine (fun (hx : Sound fz qu x) => ?_) ?_; (clear_value x; rotate_left; unfold x; clear x))
    | (extract_lets +onlyGivenNames x; refine (fun (hx : Sound fz qu x.1) => ?_) ?_; (clear_value x; rotate_left; unfold x; clear x))
    | (extract_lets +onlyGivenNames x; clear_value x)
    | split
    | with_reducible apply logEvt_sound
    | with_reducible apply leaveReset_sound
    | with_reducible apply makeReady_sound
    | with_reducible apply setStage_sound
    | with_reducible apply fn0Ready_sound
    | with_reducible apply leave78_sound
    | dsimp only

theorem execResetSequenceStage_sound {s : State} (hs : Sound fz qu s) :
    Goes fz qu (execResetSequenceStage s) := by
  unfold execResetSequenceStage
  repeat' first
    | (simp +contextual (maxDischargeDepth := 99) only [nextStage_sound, goes_next, *]; done)
    | with_reducible refine goes_next ?_
    | with_reducible apply nextStage_sound
    | dsimp only

theorem setHolds_sound {s : State} (hs : Sound fz qu s) (h : Holds) :
    Sound fz qu (setHolds s h) := by
  unfold setHolds
  repeat' first
    | (simp +contextual (maxDischargeDepth := 99) only [sound_mk, *]; done)
    | with_reducible apply (sound_mk ..).2
    | dsimp only

theorem execHoldNAssert_sound {s : State} (hs : Sound fz qu s) :
    Goes fz qu (execHoldNAssert s) := by
  unfold execHoldNAssert
  repeat' first
    | (simp +contextual (maxDischargeDepth := 99) only [enterModuleReset_sound, takeOverRst_sound, setHolds_sound, goes_next, ite_sound, ite_goes, sound_mk, *]; done)
    | with_reducible refine goes_next ?_
    | (extract_lets +onlyGivenNames x; refine (fun (hx : Sound fz qu x) => ?_) ?_; (clear_value x; rotate_left; unfold x; clear x))
    | (extract_lets +onlyGivenNames x; refine (fun (hx : Sound fz qu x.1) => ?_) ?_; (clear_value x; rotate_left; unfold x; clear x))
    | (extract_lets +onlyGivenNames x; clear_value x)
    | split
    | with_reducible apply enterModuleReset_sound
    | with_reducible apply takeOverRst_sound
    | with_reducible apply setHolds_sound
    | with_reducible apply (sound_mk ..).2
    | dsimp only

theorem execHoldNRelease_sound {s : State} (hs : Sound fz qu s) :
    Goes fz qu (execHoldNRelease s) := by
  unfold execHoldNRelease
  repeat' first
    | (simp +contextual (maxDischargeDepth := 99) only [startSequence_sound, setHolds_sound, goes_next, ite_sound, ite_goes, sound_mk, *]; done)
    | with_reducible refine goes_next ?_
    | (extract_lets +onlyGivenNames x; refine (fun (hx : Sound fz qu x) => ?_) ?_; (clear_value x; rotate_left; unfold x; clear x))
    | (extract_lets +onlyGivenNames x; refine (fun (hx : Sound fz qu x.1) => ?_) ?_; (clear_value x; rotate_left; unfold x; clear x))
    | (extract_lets +onlyGivenNames x; clear_value x)
    | split
    | with_reducible apply startSequence_sound
    | with_reducible apply setHolds_sound
    | with_reducible apply (sound_mk ..).2
    | dsimp only

theorem execModResetTakesEffect_sound {s : State} (hs : Sound fz qu s) :
    Goes fz qu (execModResetTakesEffect s) := by
  unfold execModResetTakesEffect
  repeat' first
    | (simp +contextual (maxDischargeDepth := 99) only [takeOverRst_sound, moduleReset_sound, goes_next, onlyIf_sound, *]; done)
    | with_reducible refine goes_next ?_
    | with_reducible refine onlyIf_sound (fun _ _ => ?_) ?_
    | split
    | with_reducible apply takeOverRst_sound
    | with_reducible apply moduleReset_sound
    | dsimp only

theorem setDieTemp_sound {s : State} (hs : Sound fz qu s) (d : Nat) (t : Nat) :
    Sound fz qu (setDieTemp s d t) := by
  unfold setDieTemp
  repeat' first
    | (simp +contextual (maxDischargeDepth := 99) only [put_sound, *]; done)
    | (extract_lets +onlyGivenNames x; refine (fun (hx : Sound fz qu x) => ?_) ?_; (clear_value x; rotate_left; unfold x; clear x))
    | (extract_lets +onlyGivenNames x; refine (fun (hx : Sound fz qu x.1) => ?_) ?_; (clear_value x; rotate_left; unfold x; clear x))
    | (extract_lets +onlyGivenNames x; clear_value x)
    | with_reducible apply put_sound
    | dsimp only

theorem noteTemp_sound {s : State} (hs : Sound fz qu s) (sensor : Sensor) (t : Nat) :
    Sound fz qu (noteTemp s sensor t) := by
  unfold noteTemp
  repeat' first
    | (simp +contextual (maxDischargeDepth := 99) only [put_sound, setDieTemp_sound, *]; done)
    | split
    | with_reducible apply put_sound
    | with_reducible apply setDieTemp_sound
    | dsimp only

theorem execThermalTrip_sound {s : State} (hs : Sound fz qu s) (sensor : Sensor) (temp : BitVec 8) :
    Goes fz qu (execThermalTrip sensor temp s) := by
  unfold execThermalTrip
  repeat' first
    | (simp +contextual (maxDischargeDepth := 99) only [moduleReset_sound, setHolds_sound, noteTemp_sound, goes_next, ite_sound, ite_goes, sound_mk, *]; done)
    | with_reducible refine goes_next ?_
    | (extract_lets +onlyGivenNames x; refine (fun (hx : Sound fz qu x) => ?_) ?_; (clear_value x; rotate_left; unfold x; clear x))
    | (extract_lets +onlyGivenNames x; refine (fun (hx : Sound fz qu x.1) => ?_) ?_; (clear_value x; rotate_left; unfold x; clear x))
    | (extract_lets +onlyGivenNames x; clear_value x)
    | split
    | with_reducible apply moduleReset_sound
    | with_reducible apply setHolds_sound
    | with_reducible apply noteTemp_sound
    | with_reducible apply (sound_mk ..).2
    | dsimp only

theorem execThermalTripCleared_sound {s : State} (hs : Sound fz qu s) :
    Goes fz qu (execThermalTripCleared s) := by
  unfold execThermalTripCleared
  repeat' first
    | (simp +contextual (maxDischargeDepth := 99) only [put_sound, setHolds_sound, goes_next, sound_mk, *]; done)
    | with_reducible refine goes_next ?_
    | with_reducible apply put_sound
    | with_reducible apply setHolds_sound
    | with_reducible apply (sound_mk ..).2
    | dsimp only

theorem execInputFault_sound {s : State} (hs : Sound fz qu s) (volts : BitVec 13) :
    Goes fz qu (execInputFault volts s) := by
  unfold execInputFault
  repeat' first
    | (simp +contextual (maxDischargeDepth := 99) only [moduleReset_sound, setHolds_sound, goes_next, ite_sound, ite_goes, sound_mk, *]; done)
    | with_reducible refine goes_next ?_
    | (extract_lets +onlyGivenNames x; refine (fun (hx : Sound fz qu x) => ?_) ?_; (clear_value x; rotate_left; unfold x; clear x))
    | (extract_lets +onlyGivenNames x; refine (fun (hx : Sound fz qu x.1) => ?_) ?_; (clear_value x; rotate_left; unfold x; clear x))
    | (extract_lets +onlyGivenNames x; clear_value x)
    | split
    | with_reducible apply moduleReset_sound
    | with_reducible apply setHolds_sound
    | with_reducible apply (sound_mk ..).2
    | dsimp only

theorem execRefclkLoss_sound {s : State} (hs : Sound fz qu s) :
    Goes fz qu (execRefclkLoss s) := by
  unfold execRefclkLoss
  repeat' first
    | (simp +contextual (maxDischargeDepth := 99) only [moduleReset_sound, setHolds_sound, goes_next, ite_sound, ite_goes, sound_mk, *]; done)
    | with_reducible refine goes_next ?_
    | (extract_lets +onlyGivenNames x; refine (fun (hx : Sound fz qu x) => ?_) ?_; (clear_value x; rotate_left; unfold x; clear x))
    | (extract_lets +onlyGivenNames x; refine (fun (hx : Sound fz qu x.1) => ?_) ?_; (clear_value x; rotate_left; unfold x; clear x))
    | (extract_lets +onlyGivenNames x; clear_value x)
    | split
    | with_reducible apply moduleReset_sound
    | with_reducible apply setHolds_sound
    | with_reducible apply (sound_mk ..).2
    | dsimp only

theorem execInputRecovered_sound {s : State} (hs : Sound fz qu s) :
    Goes fz qu (execInputRecovered s) := by
  unfold execInputRecovered
  repeat' first
    | (simp +contextual (maxDischargeDepth := 99) only [setHolds_sound, goes_next, sound_mk, *]; done)
    | with_reducible refine goes_next ?_
    | with_reducible apply setHolds_sound
    | with_reducible apply (sound_mk ..).2
    | dsimp only

theorem setDieClk_sound {s : State} (hs : Sound fz qu s) (d : Nat) (v : Nat) :
    Sound fz qu (setDieClk s d v) := by
  unfold setDieClk
  repeat' first
    | (simp +contextual (maxDischargeDepth := 99) only [put_sound, *]; done)
    | (extract_lets +onlyGivenNames x; refine (fun (hx : Sound fz qu x) => ?_) ?_; (clear_value x; rotate_left; unfold x; clear x))
    | (extract_lets +onlyGivenNames x; refine (fun (hx : Sound fz qu x.1) => ?_) ?_; (clear_value x; rotate_left; unfold x; clear x))
    | (extract_lets +onlyGivenNames x; clear_value x)
    | with_reducible apply put_sound
    | dsimp only

theorem settleDie_sound {s : State} (hs : Sound fz qu s) (d : Nat) :
    Sound fz qu (settleDie s d) := by
  unfold settleDie
  repeat' first
    | (simp +contextual (maxDischargeDepth := 99) only [setDieClk_sound, ite_sound, *]; done)
    | split
    | with_reducible apply setDieClk_sound
    | dsimp only

theorem settleDies_sound {s : State} (hs : Sound fz qu s) :
    Sound fz qu (settleDies s) := by
  unfold settleDies
  repeat' first
    | (simp +contextual (maxDischargeDepth := 99) only [settleDie_sound, each_sound, *]; done)
    | with_reducible refine each_sound (fun _ _ _ => ?_) _ ?_
    | with_reducible apply settleDie_sound
    | dsimp only

theorem holdIssue_sound {s : State} (hs : Sound fz qu s) (n : Nat) :
    Sound fz qu (holdIssue s n) := by
  unfold holdIssue
  repeat' first
    | (simp +contextual (maxDischargeDepth := 99) only [sound_mk, *]; done)
    | (extract_lets +onlyGivenNames x; refine (fun (hx : Sound fz qu x) => ?_) ?_; (clear_value x; rotate_left; unfold x; clear x))
    | (extract_lets +onlyGivenNames x; refine (fun (hx : Sound fz qu x.1) => ?_) ?_; (clear_value x; rotate_left; unfold x; clear x))
    | (extract_lets +onlyGivenNames x; clear_value x)
    | with_reducible apply (sound_mk ..).2
    | dsimp only

theorem execPwrSample_sound {s : State} (hs : Sound fz qu s) (watts : BitVec 13) (volts : BitVec 13) :
    Goes fz qu (execPwrSample watts volts s) := by
  unfold execPwrSample
  repeat' first
    | (simp +contextual (maxDischargeDepth := 99) only [put_sound, bump_sound, bumpW_sound, holdIssue_sound, goes_next, ite_sound, ite_goes, sound_mk, onlyIf_sound, *]; done)
    | with_reducible refine goes_next ?_
    | with_reducible refine onlyIf_sound (fun _ _ => ?_) ?_
    | (extract_lets +onlyGivenNames x; refine (fun (hx : Sound fz qu x) => ?_) ?_; (clear_value x; rotate_left; unfold x; clear x))
    | (extract_lets +onlyGivenNames x; refine (fun (hx : Sound fz qu x.1) => ?_) ?_; (clear_value x; rotate_left; unfold x; clear x))
    | (extract_lets +onlyGivenNames x; clear_value x)
    | split
    | with_reducible apply put_sound
    | with_reducible apply bump_sound
    | with_reducible apply bumpW_sound
    | with_reducible apply holdIssue_sound
    | with_reducible apply (sound_mk ..).2
    | dsimp only

theorem execPwrCompare_sound {s : State} (hs : Sound fz qu s) :
    Goes fz qu (execPwrCompare s) := by
  unfold execPwrCompare
  repeat' first
    | (simp +contextual (maxDischargeDepth := 99) only [put_sound, bump_sound, settleDies_sound, holdIssue_sound, goes_next, ite_sound, ite_goes, onlyIf_sound, *]; done)
    | with_reducible refine goes_next ?_
    | with_reducible refine onlyIf_sound (fun _ _ => ?_) ?_
    | (extract_lets +onlyGivenNames x; refine (fun (hx : Sound fz qu x) => ?_) ?_; (clear_value x; rotate_left; unfold x; clear x))
    | (extract_lets +onlyGivenNames x; refine (fun (hx : Sound fz qu x.1) => ?_) ?_; (clear_value x; rotate_left; unfold x; clear x))
    | (extract_lets +onlyGivenNames x; clear_value x)
    | split
    | with_reducible apply put_sound
    | with_reducible apply bump_sound
    | with_reducible apply settleDies_sound
    | with_reducible apply holdIssue_sound
    | dsimp only

theorem execThermalStepDown_sound {s : State} (hs : Sound fz qu s) (d : Die) (temp : BitVec 8) :
    Goes fz qu (execThermalStepDown d temp s) := by
  unfold execThermalStepDown
  repeat' first
    | (simp +contextual (maxDischargeDepth := 99) only [put_sound, bump_sound, logEvt_sound, setDieTemp_sound, setDieClk_sound, settleDie_sound, goes_next, ite_sound, ite_goes, sound_mk, onlyIf_sound, *]; done)
    | with_reducible refine goes_next ?_
    | with_reducible refine onlyIf_sound (fun _ _ => ?_) ?_
    | (extract_lets +onlyGivenNames x; refine (fun (hx : Sound fz qu x) => ?_) ?_; (clear_value x; rotate_left; unfold x; clear x))
    | (extract_lets +onlyGivenNames x; refine (fun (hx : Sound fz qu x.1) => ?_) ?_; (clear_value x; rotate_left; unfold x; clear x))
    | (extract_lets +onlyGivenNames x; clear_value x)
    | split
    | with_reducible apply put_sound
    | with_reducible apply bump_sound
    | with_reducible apply logEvt_sound
    | with_reducible apply setDieTemp_sound
    | with_reducible apply setDieClk_sound
    | with_reducible apply settleDie_sound
    | with_reducible apply (sound_mk ..).2
    | dsimp only

theorem execCurrentStepDown_sound {s : State} (hs : Sound fz qu s) (d : Die) :
    Goes fz qu (execCurrentStepDown d s) := by
  unfold execCurrentStepDown
  repeat' first
    | (simp +contextual (maxDischargeDepth := 99) only [bump_sound, logEvt_sound, setDieClk_sound, goes_next, ite_sound, ite_goes, sound_mk, onlyIf_sound, *]; done)
    | with_reducible refine goes_next ?_
    | with_reducible refine onlyIf_sound (fun _ _ => ?_) ?_
    | (extract_lets +onlyGivenNames x; refine (fun (hx : Sound fz qu x) => ?_) ?_; (clear_value x; rotate_left; unfold x; clear x))
    | (extract_lets +onlyGivenNames x; refine (fun (hx : Sound fz qu x.1) => ?_) ?_; (clear_value x; rotate_left; unfold x; clear x))
    | (extract_lets +onlyGivenNames x; clear_value x)
    | split
    | with_reducible apply bump_sound
    | with_reducible apply logEvt_sound
    | with_reducible apply setDieClk_sound
    | with_reducible apply (sound_mk ..).2
    | dsimp only

theorem execHbmTempThreshold_sound {s : State} (hs : Sound fz qu s) (stack : Fin 20) (temp : BitVec 8) :
    Goes fz qu (execHbmTempThreshold stack temp s) := by
  unfold execHbmTempThreshold
  repeat' first
    | (simp +contextual (maxDischargeDepth := 99) only [put_sound, logEvt_sound, goes_next, ite_sound, ite_goes, onlyIf_sound, *]; done)
    | with_reducible refine goes_next ?_
    | with_reducible refine onlyIf_sound (fun _ _ => ?_) ?_
    | (extract_lets +onlyGivenNames x; refine (fun (hx : Sound fz qu x) => ?_) ?_; (clear_value x; rotate_left; unfold x; clear x))
    | (extract_lets +onlyGivenNames x; refine (fun (hx : Sound fz qu x.1) => ?_) ?_; (clear_value x; rotate_left; unfold x; clear x))
    | (extract_lets +onlyGivenNames x; clear_value x)
    | split
    | with_reducible apply put_sound
    | with_reducible apply logEvt_sound
    | dsimp only

theorem wantLower_sound {s : State} (hs : Sound fz qu s) :
    Sound fz qu (wantLower s) := by
  unfold wantLower
  repeat' first
    | (simp +contextual (maxDischargeDepth := 99) only [put_sound, bump_sound, logEvt_sound, ite_sound, sound_mk, *]; done)
    | (extract_lets +onlyGivenNames x; refine (fun (hx : Sound fz qu x) => ?_) ?_; (clear_value x; rotate_left; unfold x; clear x))
    | (extract_lets +onlyGivenNames x; refine (fun (hx : Sound fz qu x.1) => ?_) ?_; (clear_value x; rotate_left; unfold x; clear x))
    | (extract_lets +onlyGivenNames x; clear_value x)
    | split
    | with_reducible apply put_sound
    | with_reducible apply bump_sound
    | with_reducible apply logEvt_sound
    | with_reducible apply (sound_mk ..).2
    | dsimp only

theorem startTransition_sound {s : State} (hs : Sound fz qu s) (t : PowerTrans) :
    Sound fz qu (startTransition s t) := by
  unfold startTransition
  repeat' first
    | (simp +contextual (maxDischargeDepth := 99) only [put_sound, answer_sound, setStage_sound, ite_sound, sound_mk, *]; done)
    | (extract_lets +onlyGivenNames x; refine (fun (hx : Sound fz qu x) => ?_) ?_; (clear_value x; rotate_left; unfold x; clear x))
    | (extract_lets +onlyGivenNames x; refine (fun (hx : Sound fz qu x.1) => ?_) ?_; (clear_value x; rotate_left; unfold x; clear x))
    | (extract_lets +onlyGivenNames x; clear_value x)
    | split
    | with_reducible apply put_sound
    | with_reducible apply answer_sound
    | with_reducible apply setStage_sound
    | with_reducible apply (sound_mk ..).2
    | dsimp only

theorem enterPark_sound {s : State} (h : Sound fz qu s) : Sound fz qu (enterPark s) := by
  unfold enterPark
  extract_lets s1 s2
  have h2 : Sound fz qu s2 := put_sound (put_sound (closeRestore_sound (loseRegs_sound (loseParent_sound h) _)) _ _ _) _ _ _
  clear_value s2
  exact ⟨h2.1, h2.2.1, rfl, h2.2.2.2⟩

theorem enterState_sound {s : State} (hs : Sound fz qu s) (prev : Nat) (target : Nat) :
    Sound fz qu (enterState s prev target) := by
  unfold enterState
  repeat' first
    | (simp +contextual (maxDischargeDepth := 99) only [put_sound, loseRegs_sound, enterPark_sound, ite_sound, *]; done)
    | (extract_lets +onlyGivenNames x; refine (fun (hx : Sound fz qu x) => ?_) ?_; (clear_value x; rotate_left; unfold x; clear x))
    | (extract_lets +onlyGivenNames x; refine (fun (hx : Sound fz qu x.1) => ?_) ?_; (clear_value x; rotate_left; unfold x; clear x))
    | (extract_lets +onlyGivenNames x; clear_value x)
    | split
    | with_reducible apply put_sound
    | with_reducible apply loseRegs_sound
    | with_reducible apply enterPark_sound
    | dsimp only

theorem execPowerTransitionDone_sound {s : State} (hs : Sound fz qu s) :
    Goes fz qu (execPowerTransitionDone s) := by
  unfold execPowerTransitionDone
  repeat' first
    | (simp +contextual (maxDischargeDepth := 99) only [put_sound, logEvt_sound, answer_sound, enterState_sound, goes_next, ite_sound, ite_goes, sound_mk, *]; done)
    | with_reducible refine goes_next ?_
    | (extract_lets +onlyGivenNames x; refine (fun (hx : Sound fz qu x) => ?_) ?_; (clear_value x; rotate_left; unfold x; clear x))
    | (extract_lets +onlyGivenNames x; refine (fun (hx : Sound fz qu x.1) => ?_) ?_; (clear_value x; rotate_left; unfold x; clear x))
    | (extract_lets +onlyGivenNames x; clear_value x)
    | split
    | with_reducible apply put_sound
    | with_reducible apply logEvt_sound
    | with_reducible apply answer_sound
    | with_reducible apply enterState_sound
    | with_reducible apply (sound_mk ..).2
    | dsimp only

theorem evtTail_sound {s : State} (hs : Sound fz qu s) (v : Nat) :
    Sound fz qu (evtTail s v) := by
  unfold evtTail
  repeat' first
    | (simp +contextual (maxDischargeDepth := 99) only [put_sound, ite_sound, *]; done)
    | (extract_lets +onlyGivenNames x; refine (fun (hx : Sound fz qu x) => ?_) ?_; (clear_value x; rotate_left; unfold x; clear x))
    | (extract_lets +onlyGivenNames x; refine (fun (hx : Sound fz qu x.1) => ?_) ?_; (clear_value x; rotate_left; unfold x; clear x))
    | (extract_lets +onlyGivenNames x; clear_value x)
    | split
    | with_reducible apply put_sound
    | dsimp only

theorem execEvtTailWrite_sound {s : State} (hs : Sound fz qu s) (tail : BitVec 10) :
    Goes fz qu (execEvtTailWrite tail s) := by
  unfold execEvtTailWrite
  repeat' first
    | (simp +contextual (maxDischargeDepth := 99) only [evtTail_sound, goes_next, onlyIf_sound, *]; done)
    | with_reducible refine goes_next ?_
    | with_reducible refine onlyIf_sound (fun _ _ => ?_) ?_
    | with_reducible apply evtTail_sound
    | dsimp only

theorem clearAlert_sound {s : State} (hs : Sound fz qu s) :
    Sound fz qu (clearAlert s) := by
  unfold clearAlert
  repeat' first
    | (simp +contextual (maxDischargeDepth := 99) only [put_sound, emit_sound, ite_sound, *]; done)
    | split
    | with_reducible apply put_sound
    | with_reducible apply emit_sound
    | dsimp only

theorem execEvtAlertClear_sound {s : State} (hs : Sound fz qu s) :
    Goes fz qu (execEvtAlertClear s) := by
  unfold execEvtAlertClear
  repeat' first
    | (simp +contextual (maxDischargeDepth := 99) only [clearAlert_sound, goes_next, onlyIf_sound, *]; done)
    | with_reducible refine goes_next ?_
    | with_reducible refine onlyIf_sound (fun _ _ => ?_) ?_
    | with_reducible apply clearAlert_sound
    | dsimp only

theorem smbRead_sound {s : State} (hs : Sound fz qu s) (cmd : Nat) :
    Sound fz qu (smbRead s cmd) := by
  unfold smbRead
  repeat' first
    | (simp +contextual (maxDischargeDepth := 99) only [emit_sound, ite_sound, *]; done)
    | split
    | with_reducible apply emit_sound
    | dsimp only

theorem execSmbStatusRead_sound {s : State} (hs : Sound fz qu s) :
    Goes fz qu (execSmbStatusRead s) := by
  unfold execSmbStatusRead
  repeat' first
    | (simp +contextual (maxDischargeDepth := 99) only [smbRead_sound, goes_next, *]; done)
    | with_reducible refine goes_next ?_
    | with_reducible apply smbRead_sound
    | dsimp only

theorem execSmbVoltageRead_sound {s : State} (hs : Sound fz qu s) :
    Goes fz qu (execSmbVoltageRead s) := by
  unfold execSmbVoltageRead
  repeat' first
    | (simp +contextual (maxDischargeDepth := 99) only [smbRead_sound, goes_next, *]; done)
    | with_reducible refine goes_next ?_
    | with_reducible apply smbRead_sound
    | dsimp only

theorem execSmbPowerRead_sound {s : State} (hs : Sound fz qu s) :
    Goes fz qu (execSmbPowerRead s) := by
  unfold execSmbPowerRead
  repeat' first
    | (simp +contextual (maxDischargeDepth := 99) only [smbRead_sound, goes_next, *]; done)
    | with_reducible refine goes_next ?_
    | with_reducible apply smbRead_sound
    | dsimp only

theorem execSmbPowerIntervalRead_sound {s : State} (hs : Sound fz qu s) :
    Goes fz qu (execSmbPowerIntervalRead s) := by
  unfold execSmbPowerIntervalRead
  repeat' first
    | (simp +contextual (maxDischargeDepth := 99) only [smbRead_sound, goes_next, *]; done)
    | with_reducible refine goes_next ?_
    | with_reducible apply smbRead_sound
    | dsimp only

theorem execSmbEnergyRead_sound {s : State} (hs : Sound fz qu s) :
    Goes fz qu (execSmbEnergyRead s) := by
  unfold execSmbEnergyRead
  repeat' first
    | (simp +contextual (maxDischargeDepth := 99) only [smbRead_sound, goes_next, *]; done)
    | with_reducible refine goes_next ?_
    | with_reducible apply smbRead_sound
    | dsimp only

theorem execSmbTemperatureRead_sound {s : State} (hs : Sound fz qu s) :
    Goes fz qu (execSmbTemperatureRead s) := by
  unfold execSmbTemperatureRead
  repeat' first
    | (simp +contextual (maxDischargeDepth := 99) only [smbRead_sound, goes_next, *]; done)
    | with_reducible refine goes_next ?_
    | with_reducible apply smbRead_sound
    | dsimp only

theorem execSmbIdentityRead_sound {s : State} (hs : Sound fz qu s) :
    Goes fz qu (execSmbIdentityRead s) := by
  unfold execSmbIdentityRead
  repeat' first
    | (simp +contextual (maxDischargeDepth := 99) only [smbRead_sound, goes_next, *]; done)
    | with_reducible refine goes_next ?_
    | with_reducible apply smbRead_sound
    | dsimp only

theorem execSmbUnknownRead_sound {s : State} (hs : Sound fz qu s) (cmd : BitVec 8) (len : BitVec 8) :
    Goes fz qu (execSmbUnknownRead cmd len s) := by
  unfold execSmbUnknownRead
  repeat' first
    | (simp +contextual (maxDischargeDepth := 99) only [emit_sound, goes_next, onlyIf_sound, *]; done)
    | with_reducible refine goes_next ?_
    | with_reducible refine onlyIf_sound (fun _ _ => ?_) ?_
    | with_reducible apply emit_sound
    | dsimp only

theorem execSmbWriteRefused_sound {s : State} (hs : Sound fz qu s) (cmd : BitVec 8) :
    Goes fz qu (execSmbWriteRefused cmd s) := by
  unfold execSmbWriteRefused
  repeat' first
    | (simp +contextual (maxDischargeDepth := 99) only [emit_sound, goes_next, onlyIf_sound, *]; done)
    | with_reducible refine goes_next ?_
    | with_reducible refine onlyIf_sound (fun _ _ => ?_) ?_
    | with_reducible apply emit_sound
    | dsimp only

end Sys2Proof.Machine
end

