-- ==== Sys2Proof/Laws/SoundFeeders.lean ====
section
/-!
SUPPORT. What the operations and commands of Machine/Feeders.lean keep: the queue, the fused identity, the canonical form of memory,
and registers within their widths.
-/
namespace Sys2Proof.Machine

set_option linter.unusedTactic false
set_option linter.unreachableTactic false
set_option linter.unusedSimpArgs false

variable {fz : Fuses} {qu : List Instr}

theorem tornRead_sound {s : State} (hs : Sound fz qu s) (torn : Bool) (b : Bytes) :
    Sound fz qu (tornRead s torn b).1 := by
  unfold tornRead
  repeat' first
    | (simp +contextual (maxDischargeDepth := 99) only [freeTick_sound, ite_sound, *]; done)
    | split
    | with_reducible apply freeTick_sound
    | dsimp only

theorem tearReads_sound {s : State} (hs : Sound fz qu s) (c : Nat) (sl : Slot) (w : List (Nat × Nat)) :
    Sound fz qu (tearReads s c sl w) := by
  unfold tearReads
  repeat' first
    | (simp +contextual (maxDischargeDepth := 99) only [setCore_sound, sound_mk, *]; done)
    | (extract_lets +onlyGivenNames x; refine (fun (hx : Sound fz qu x) => ?_) ?_; (clear_value x; rotate_left; unfold x; clear x))
    | (extract_lets +onlyGivenNames x; refine (fun (hx : Sound fz qu x.1) => ?_) ?_; (clear_value x; rotate_left; unfold x; clear x))
    | (extract_lets +onlyGivenNames x; clear_value x)
    | with_reducible apply setCore_sound
    | with_reducible apply (sound_mk ..).2
    | dsimp only

end Sys2Proof.Machine
end

