-- ==== Sys2Proof/Laws/SoundOperands.lean ====
section
/-!
SUPPORT. What the operations and commands of Machine/Operands.lean keep: the queue, the fused identity, the canonical form of memory,
and registers within their widths.
-/
namespace Sys2Proof.Machine

set_option linter.unusedTactic false
set_option linter.unreachableTactic false
set_option linter.unusedSimpArgs false

variable {fz : Fuses} {qu : List Instr}

theorem updTask_sound {s : State} (hs : Sound fz qu s) (c : Nat) (sl : Slot) (f : Task → Task) :
    Sound fz qu (updTask s c sl f) := by
  unfold updTask
  repeat' first
    | (simp +contextual (maxDischargeDepth := 99) only [setSlot_sound, sound_mk, *]; done)
    | with_reducible apply setSlot_sound
    | with_reducible apply (sound_mk ..).2
    | dsimp only

theorem advance_sound {s : State} (hs : Sound fz qu s) (c : Nat) (sl : Slot) :
    Sound fz qu (advance s c sl) := by
  unfold advance
  repeat' first
    | (simp +contextual (maxDischargeDepth := 99) only [setSlot_sound, sound_mk, *]; done)
    | (extract_lets +onlyGivenNames x; refine (fun (hx : Sound fz qu x) => ?_) ?_; (clear_value x; rotate_left; unfold x; clear x))
    | (extract_lets +onlyGivenNames x; refine (fun (hx : Sound fz qu x.1) => ?_) ?_; (clear_value x; rotate_left; unfold x; clear x))
    | (extract_lets +onlyGivenNames x; clear_value x)
    | with_reducible apply setSlot_sound
    | with_reducible apply (sound_mk ..).2
    | dsimp only

theorem jumpTo_sound {s : State} (hs : Sound fz qu s) (c : Nat) (sl : Slot) (off : Int) :
    Sound fz qu (jumpTo s c sl off) := by
  unfold jumpTo
  repeat' first
    | (simp +contextual (maxDischargeDepth := 99) only [setSlot_sound, sound_mk, *]; done)
    | (extract_lets +onlyGivenNames x; refine (fun (hx : Sound fz qu x) => ?_) ?_; (clear_value x; rotate_left; unfold x; clear x))
    | (extract_lets +onlyGivenNames x; refine (fun (hx : Sound fz qu x.1) => ?_) ?_; (clear_value x; rotate_left; unfold x; clear x))
    | (extract_lets +onlyGivenNames x; clear_value x)
    | with_reducible apply setSlot_sound
    | with_reducible apply (sound_mk ..).2
    | dsimp only

theorem dropLine_sound {s : State} (hs : Sound fz qu s) (c : Nat) (k : Nat × Nat) :
    Sound fz qu (dropLine s c k) := by
  unfold dropLine
  repeat' first
    | (simp +contextual (maxDischargeDepth := 99) only [setCore_sound, sound_mk, *]; done)
    | with_reducible apply setCore_sound
    | with_reducible apply (sound_mk ..).2
    | dsimp only

theorem ibufParity_sound {s : State} (hs : Sound fz qu s) (c : Core) (sl : Slot) :
    Sound fz qu (ibufParity s c sl) := by
  unfold ibufParity
  repeat' first
    | (simp +contextual (maxDischargeDepth := 99) only [bump_sound, dropLine_sound, ite_sound, sound_mk, *]; done)
    | (extract_lets +onlyGivenNames x; refine (fun (hx : Sound fz qu x) => ?_) ?_; (clear_value x; rotate_left; unfold x; clear x))
    | (extract_lets +onlyGivenNames x; refine (fun (hx : Sound fz qu x.1) => ?_) ?_; (clear_value x; rotate_left; unfold x; clear x))
    | (extract_lets +onlyGivenNames x; clear_value x)
    | split
    | with_reducible apply bump_sound
    | with_reducible apply dropLine_sound
    | with_reducible apply (sound_mk ..).2
    | dsimp only

theorem keepLine_sound {s : State} (hs : Sound fz qu s) (c : Nat) (sl : Slot) (key : Nat × Nat) (w : Nat) :
    Sound fz qu (keepLine s c sl key w) := by
  unfold keepLine
  repeat' first
    | (simp +contextual (maxDischargeDepth := 99) only [setCore_sound, abortTask_sound, ite_sound, sound_mk, *]; done)
    | (extract_lets +onlyGivenNames x; refine (fun (hx : Sound fz qu x) => ?_) ?_; (clear_value x; rotate_left; unfold x; clear x))
    | (extract_lets +onlyGivenNames x; refine (fun (hx : Sound fz qu x.1) => ?_) ?_; (clear_value x; rotate_left; unfold x; clear x))
    | (extract_lets +onlyGivenNames x; clear_value x)
    | split
    | with_reducible apply setCore_sound
    | with_reducible apply abortTask_sound
    | with_reducible apply (sound_mk ..).2
    | dsimp only

theorem fetchLine_sound {s : State} (hs : Sound fz qu s) (c : Core) (sl : Slot) :
    Sound fz qu (fetchLine s c sl) := by
  unfold fetchLine
  repeat' first
    | (simp +contextual (maxDischargeDepth := 99) only [noteWalk_sound, noteUnit_sound, noteFault_sound, readMem_sound, abortTask_sound, keepLine_sound, *]; done)
    | (extract_lets +onlyGivenNames x; refine (fun (hx : Sound fz qu x) => ?_) ?_; (clear_value x; rotate_left; unfold x; clear x))
    | (extract_lets +onlyGivenNames x; refine (fun (hx : Sound fz qu x.1) => ?_) ?_; (clear_value x; rotate_left; unfold x; clear x))
    | (extract_lets +onlyGivenNames x; clear_value x)
    | split
    | with_reducible apply noteWalk_sound
    | with_reducible apply noteUnit_sound
    | with_reducible apply noteFault_sound
    | with_reducible apply readMem_sound
    | with_reducible apply abortTask_sound
    | with_reducible apply keepLine_sound
    | dsimp only

theorem needLine_sound {s : State} (hs : Sound fz qu s) (c : Core) (sl : Slot) :
    Sound fz qu (needLine s c sl) := by
  unfold needLine
  repeat' first
    | (simp +contextual (maxDischargeDepth := 99) only [abortTask_sound, ibufParity_sound, fetchLine_sound, ite_sound, *]; done)
    | (extract_lets +onlyGivenNames x; refine (fun (hx : Sound fz qu x) => ?_) ?_; (clear_value x; rotate_left; unfold x; clear x))
    | (extract_lets +onlyGivenNames x; refine (fun (hx : Sound fz qu x.1) => ?_) ?_; (clear_value x; rotate_left; unfold x; clear x))
    | (extract_lets +onlyGivenNames x; clear_value x)
    | split
    | with_reducible apply abortTask_sound
    | with_reducible apply ibufParity_sound
    | with_reducible apply fetchLine_sound
    | dsimp only

theorem setSreg_sound {s : State} (hs : Sound fz qu s) (c : Nat) (sl : Slot) (r : Nat) (v : Nat) :
    Sound fz qu (setSreg s c sl r v) := by
  unfold setSreg
  repeat' first
    | (simp +contextual (maxDischargeDepth := 99) only [setSlot_sound, ite_sound, sound_mk, *]; done)
    | split
    | with_reducible apply setSlot_sound
    | with_reducible apply (sound_mk ..).2
    | dsimp only

theorem setPreg_sound {s : State} (hs : Sound fz qu s) (c : Nat) (sl : Slot) (r : Nat) (v : BitVec 512) :
    Sound fz qu (setPreg s c sl r v) := by
  unfold setPreg
  repeat' first
    | (simp +contextual (maxDischargeDepth := 99) only [setSlot_sound, ite_sound, sound_mk, *]; done)
    | split
    | with_reducible apply setSlot_sound
    | with_reducible apply (sound_mk ..).2
    | dsimp only

theorem sequence_sound {s : State} {body : State → State} (hs : Sound fz qu s) (hfbody : ∀ (y0 : State), Sound fz qu y0 → Sound fz qu (body y0)) (c : Core) (sl : Slot) (w : Nat) :
    Sound fz qu (sequence s c sl w body) := by
  unfold sequence
  repeat' first
    | (simp +contextual (maxDischargeDepth := 99) only [needLine_sound, ite_sound, *]; done)
    | (extract_lets +onlyGivenNames x; refine (fun (hx : Sound fz qu x) => ?_) ?_; (clear_value x; rotate_left; unfold x; clear x))
    | (extract_lets +onlyGivenNames x; refine (fun (hx : Sound fz qu x.1) => ?_) ?_; (clear_value x; rotate_left; unfold x; clear x))
    | (extract_lets +onlyGivenNames x; clear_value x)
    | split
    | with_reducible apply needLine_sound
    | dsimp only

theorem setVreg_sound {s : State} (hs : Sound fz qu s) (c : Core) (sl : Slot) (r : BitVec 6) (v : Nat) :
    Sound fz qu (setVreg s c sl r v) := by
  unfold setVreg
  repeat' first
    | (simp +contextual (maxDischargeDepth := 99) only [setCore_sound, sound_mk, *]; done)
    | (extract_lets +onlyGivenNames x; refine (fun (hx : Sound fz qu x) => ?_) ?_; (clear_value x; rotate_left; unfold x; clear x))
    | (extract_lets +onlyGivenNames x; refine (fun (hx : Sound fz qu x.1) => ?_) ?_; (clear_value x; rotate_left; unfold x; clear x))
    | (extract_lets +onlyGivenNames x; clear_value x)
    | with_reducible apply setCore_sound
    | with_reducible apply (sound_mk ..).2
    | dsimp only

theorem occupy_sound {s : State} (hs : Sound fz qu s) (c : Nat) (sl : Slot) (pipe : Nat) (clk : Nat) :
    Sound fz qu (occupy s c sl pipe clk) := by
  unfold occupy
  repeat' first
    | (simp +contextual (maxDischargeDepth := 99) only [setSlot_sound, sound_mk, *]; done)
    | with_reducible apply setSlot_sound
    | with_reducible apply (sound_mk ..).2
    | dsimp only

theorem scalarIns_sound {body : State → State} {s : State} (hfbody : ∀ (y0 : State), Sound fz qu y0 → Sound fz qu (body y0)) (hs : Sound fz qu s) (op : Nat) (c : Core) (sl : Slot) (f : RegForm) (ok : State → Bool) :
    Sound fz qu (scalarIns op c sl f ok body s) := by
  unfold scalarIns
  repeat' first
    | (simp +contextual (maxDischargeDepth := 99) only [abortTask_sound, advance_sound, sequence_sound, ite_sound, *]; done)
    | with_reducible refine sequence_sound ?_ (fun _ _ => ?_) _ _ _
    | split
    | with_reducible apply abortTask_sound
    | with_reducible apply advance_sound
    | dsimp only

theorem scalarOut_sound {s : State} (hs : Sound fz qu s) (op : Nat) (c : Core) (sl : Slot) (f : RegForm) (ok : State → Bool) (v : State → Nat) :
    Sound fz qu (scalarOut op c sl f ok v s) := by
  unfold scalarOut
  repeat' first
    | (simp +contextual (maxDischargeDepth := 99) only [advance_sound, setSreg_sound, scalarIns_sound, *]; done)
    | with_reducible refine scalarIns_sound (fun _ _ => ?_) ?_ _ _ _ _ _
    | with_reducible apply advance_sound
    | with_reducible apply setSreg_sound
    | dsimp only

theorem readVregs_sound {s : State} (hs : Sound fz qu s) (c : Core) (sl : Slot) (rs : List (BitVec 6)) :
    Sound fz qu (readVregs s c sl rs).1 := by
  unfold readVregs
  repeat' first
    | (simp +contextual (maxDischargeDepth := 99) only [bump_sound, abortTask_sound, ite_sound, sound_mk, *]; done)
    | (extract_lets +onlyGivenNames x; refine (fun (hx : Sound fz qu x) => ?_) ?_; (clear_value x; rotate_left; unfold x; clear x))
    | (extract_lets +onlyGivenNames x; refine (fun (hx : Sound fz qu x.1) => ?_) ?_; (clear_value x; rotate_left; unfold x; clear x))
    | (extract_lets +onlyGivenNames x; clear_value x)
    | split
    | with_reducible apply bump_sound
    | with_reducible apply abortTask_sound
    | with_reducible apply (sound_mk ..).2
    | dsimp only

theorem fileRecord_sound {s : State} (hs : Sound fz qu s) (c : Nat) (job : Nat) (tag : Option (Nat × Nat)) (capture : Bool) (k : Counts) :
    Sound fz qu (fileRecord s c job tag capture k) := by
  unfold fileRecord
  repeat' first
    | (simp +contextual (maxDischargeDepth := 99) only [sendRec_sound, ite_sound, *]; done)
    | split
    | with_reducible apply sendRec_sound
    | dsimp only

theorem fileCounts_sound {s : State} (hs : Sound fz qu s) (c : Nat) (sl : Slot) (k : Counts) :
    Sound fz qu (fileCounts s c sl k) := by
  unfold fileCounts
  repeat' first
    | (simp +contextual (maxDischargeDepth := 99) only [fileRecord_sound, *]; done)
    | with_reducible apply fileRecord_sound
    | dsimp only

theorem readLocal_sound {s : State} (hs : Sound fz qu s) (c : Core) (sl : Slot) (a : Nat) (n : Nat) :
    Sound fz qu (readLocal s c sl a n).1 := by
  unfold readLocal
  repeat' first
    | (simp +contextual (maxDischargeDepth := 99) only [readMem_sound, abortTask_sound, ite_sound, *]; done)
    | (extract_lets +onlyGivenNames x; refine (fun (hx : Sound fz qu x) => ?_) ?_; (clear_value x; rotate_left; unfold x; clear x))
    | (extract_lets +onlyGivenNames x; refine (fun (hx : Sound fz qu x.1) => ?_) ?_; (clear_value x; rotate_left; unfold x; clear x))
    | (extract_lets +onlyGivenNames x; clear_value x)
    | split
    | with_reducible apply readMem_sound
    | with_reducible apply abortTask_sound
    | dsimp only

theorem writeLocal_sound {s : State} (hs : Sound fz qu s) (c : Core) (sl : Slot) (a : Nat) (b : Bytes) :
    Sound fz qu (writeLocal s c sl a b).1 := by
  unfold writeLocal
  repeat' first
    | (simp +contextual (maxDischargeDepth := 99) only [writeMem_sound, abortTask_sound, ite_sound, *]; done)
    | (extract_lets +onlyGivenNames x; refine (fun (hx : Sound fz qu x) => ?_) ?_; (clear_value x; rotate_left; unfold x; clear x))
    | (extract_lets +onlyGivenNames x; refine (fun (hx : Sound fz qu x.1) => ?_) ?_; (clear_value x; rotate_left; unfold x; clear x))
    | (extract_lets +onlyGivenNames x; clear_value x)
    | split
    | with_reducible apply writeMem_sound
    | with_reducible apply abortTask_sound
    | dsimp only

end Sys2Proof.Machine
end

