-- ==== Sys2Proof/Laws/SoundScalar.lean ====
section
/-!
SUPPORT. What the operations and commands of Machine/Scalar.lean keep: the queue, the fused identity, the canonical form of memory,
and registers within their widths.
-/
namespace Sys2Proof.Machine

set_option linter.unusedTactic false
set_option linter.unreachableTactic false
set_option linter.unusedSimpArgs false

variable {fz : Fuses} {qu : List Instr}

theorem startTask_sound {s : State} (hs : Sound fz qu s) (c : Nat) (sl : Slot) (l : Launch) (rest : List Launch) :
    Sound fz qu (startTask s c sl l rest) := by
  unfold startTask
  repeat' first
    | (simp +contextual (maxDischargeDepth := 99) only [setCore_sound, loseEcc_sound, sound_mk, *]; done)
    | (extract_lets +onlyGivenNames x; refine (fun (hx : Sound fz qu x) => ?_) ?_; (clear_value x; rotate_left; unfold x; clear x))
    | (extract_lets +onlyGivenNames x; refine (fun (hx : Sound fz qu x.1) => ?_) ?_; (clear_value x; rotate_left; unfold x; clear x))
    | (extract_lets +onlyGivenNames x; clear_value x)
    | split
    | with_reducible apply setCore_sound
    | with_reducible apply loseEcc_sound
    | with_reducible apply (sound_mk ..).2
    | dsimp only

theorem execLaunchStart_sound {s : State} (hs : Sound fz qu s) (c : Core) (sl : Slot) :
    Goes fz qu (execLaunchStart c sl s) := by
  unfold execLaunchStart
  repeat' first
    | (simp +contextual (maxDischargeDepth := 99) only [abortTask_sound, startTask_sound, goes_next, ite_sound, ite_goes, *]; done)
    | with_reducible refine goes_next ?_
    | (extract_lets +onlyGivenNames x; refine (fun (hx : Sound fz qu x) => ?_) ?_; (clear_value x; rotate_left; unfold x; clear x))
    | (extract_lets +onlyGivenNames x; refine (fun (hx : Sound fz qu x.1) => ?_) ?_; (clear_value x; rotate_left; unfold x; clear x))
    | (extract_lets +onlyGivenNames x; clear_value x)
    | split
    | with_reducible apply abortTask_sound
    | with_reducible apply startTask_sound
    | dsimp only

theorem finishTask_sound {s : State} (hs : Sound fz qu s) (c : Nat) (sl : Slot) :
    Sound fz qu (finishTask s c sl) := by
  unfold finishTask
  repeat' first
    | (simp +contextual (maxDischargeDepth := 99) only [setSlot_sound, tcAdd_sound, ite_sound, sound_mk, *]; done)
    | (extract_lets +onlyGivenNames x; refine (fun (hx : Sound fz qu x) => ?_) ?_; (clear_value x; rotate_left; unfold x; clear x))
    | (extract_lets +onlyGivenNames x; refine (fun (hx : Sound fz qu x.1) => ?_) ?_; (clear_value x; rotate_left; unfold x; clear x))
    | (extract_lets +onlyGivenNames x; clear_value x)
    | split
    | with_reducible apply setSlot_sound
    | with_reducible apply tcAdd_sound
    | with_reducible apply (sound_mk ..).2
    | dsimp only

theorem holdTask_sound {s : State} (hs : Sound fz qu s) (c : Nat) (sl : Slot) (w : WaitKind) (cause : Nat) :
    Sound fz qu (holdTask s c sl w cause) := by
  unfold holdTask
  repeat' first
    | (simp +contextual (maxDischargeDepth := 99) only [updTask_sound, sound_mk, *]; done)
    | with_reducible apply updTask_sound
    | with_reducible apply (sound_mk ..).2
    | dsimp only

theorem execEndInstr_sound {s : State} (hs : Sound fz qu s) (c : Core) (sl : Slot) (f : RegForm) :
    Goes fz qu (execEndInstr c sl f s) := by
  unfold execEndInstr
  repeat' first
    | (simp +contextual (maxDischargeDepth := 99) only [scalarIns_sound, finishTask_sound, holdTask_sound, goes_next, ite_sound, ite_goes, *]; done)
    | with_reducible refine goes_next ?_
    | with_reducible refine scalarIns_sound (fun _ _ => ?_) ?_ _ _ _ _ _
    | split
    | with_reducible apply finishTask_sound
    | with_reducible apply holdTask_sound
    | dsimp only

theorem execTaskEnd_sound {s : State} (hs : Sound fz qu s) (c : Core) (sl : Slot) :
    Goes fz qu (execTaskEnd c sl s) := by
  unfold execTaskEnd
  repeat' first
    | (simp +contextual (maxDischargeDepth := 99) only [finishTask_sound, goes_next, onlyIf_sound, *]; done)
    | with_reducible refine goes_next ?_
    | with_reducible refine onlyIf_sound (fun _ _ => ?_) ?_
    | split
    | with_reducible apply finishTask_sound
    | dsimp only

theorem execInstructionFetchWalkDone_sound {s : State} (hs : Sound fz qu s) (c : Core) (sl : Slot) :
    Goes fz qu (execInstructionFetchWalkDone c sl s) := by
  unfold execInstructionFetchWalkDone
  repeat' first
    | (simp +contextual (maxDischargeDepth := 99) only [needLine_sound, goes_next, onlyIf_sound, *]; done)
    | with_reducible refine goes_next ?_
    | with_reducible refine onlyIf_sound (fun _ _ => ?_) ?_
    | with_reducible apply needLine_sound
    | dsimp only

theorem execNop_sound {s : State} (hs : Sound fz qu s) (c : Core) (sl : Slot) (f : RegForm) :
    Goes fz qu (execNop c sl f s) := by
  unfold execNop
  repeat' first
    | (simp +contextual (maxDischargeDepth := 99) only [advance_sound, scalarIns_sound, goes_next, *]; done)
    | with_reducible refine goes_next ?_
    | with_reducible refine scalarIns_sound (fun _ _ => ?_) ?_ _ _ _ _ _
    | with_reducible apply advance_sound
    | dsimp only

theorem execBr_sound {s : State} (hs : Sound fz qu s) (c : Core) (sl : Slot) (f : RegForm) :
    Goes fz qu (execBr c sl f s) := by
  unfold execBr
  repeat' first
    | (simp +contextual (maxDischargeDepth := 99) only [jumpTo_sound, scalarIns_sound, goes_next, *]; done)
    | with_reducible refine goes_next ?_
    | with_reducible refine scalarIns_sound (fun _ _ => ?_) ?_ _ _ _ _ _
    | with_reducible apply jumpTo_sound
    | dsimp only

theorem execLoop_sound {s : State} (hs : Sound fz qu s) (c : Core) (sl : Slot) (f : RegForm) :
    Goes fz qu (execLoop c sl f s) := by
  unfold execLoop
  repeat' first
    | (simp +contextual (maxDischargeDepth := 99) only [advance_sound, jumpTo_sound, setSreg_sound, scalarIns_sound, goes_next, ite_sound, ite_goes, *]; done)
    | with_reducible refine goes_next ?_
    | with_reducible refine scalarIns_sound (fun _ _ => ?_) ?_ _ _ _ _ _
    | (extract_lets +onlyGivenNames x; refine (fun (hx : Sound fz qu x) => ?_) ?_; (clear_value x; rotate_left; unfold x; clear x))
    | (extract_lets +onlyGivenNames x; refine (fun (hx : Sound fz qu x.1) => ?_) ?_; (clear_value x; rotate_left; unfold x; clear x))
    | (extract_lets +onlyGivenNames x; clear_value x)
    | split
    | with_reducible apply advance_sound
    | with_reducible apply jumpTo_sound
    | with_reducible apply setSreg_sound
    | dsimp only

theorem execEvent_sound {s : State} (hs : Sound fz qu s) (c : Core) (sl : Slot) (f : RegForm) :
    Goes fz qu (execEvent c sl f s) := by
  unfold execEvent
  repeat' first
    | (simp +contextual (maxDischargeDepth := 99) only [logEvt_sound, advance_sound, scalarIns_sound, goes_next, *]; done)
    | with_reducible refine goes_next ?_
    | with_reducible refine scalarIns_sound (fun _ _ => ?_) ?_ _ _ _ _ _
    | split
    | with_reducible apply logEvt_sound
    | with_reducible apply advance_sound
    | dsimp only

theorem aluIns_sound {s : State} (hs : Sound fz qu s) (op : Nat) (c : Core) (sl : Slot) (f : RegForm) (g : Nat → Nat → Nat) :
    Sound fz qu (aluIns op c sl f g s) := by
  unfold aluIns
  repeat' first
    | (simp +contextual (maxDischargeDepth := 99) only [scalarOut_sound, *]; done)
    | with_reducible apply scalarOut_sound
    | dsimp only

theorem execSmovi_sound {s : State} (hs : Sound fz qu s) (c : Core) (sl : Slot) (f : RegForm) :
    Goes fz qu (execSmovi c sl f s) := by
  unfold execSmovi
  repeat' first
    | (simp +contextual (maxDischargeDepth := 99) only [scalarOut_sound, goes_next, *]; done)
    | with_reducible refine goes_next ?_
    | with_reducible apply scalarOut_sound
    | dsimp only

theorem execSadd_sound {s : State} (hs : Sound fz qu s) (c : Core) (sl : Slot) (f : RegForm) :
    Goes fz qu (execSadd c sl f s) := by
  unfold execSadd
  repeat' first
    | (simp +contextual (maxDischargeDepth := 99) only [aluIns_sound, goes_next, *]; done)
    | with_reducible refine goes_next ?_
    | with_reducible apply aluIns_sound
    | dsimp only

theorem execSsub_sound {s : State} (hs : Sound fz qu s) (c : Core) (sl : Slot) (f : RegForm) :
    Goes fz qu (execSsub c sl f s) := by
  unfold execSsub
  repeat' first
    | (simp +contextual (maxDischargeDepth := 99) only [aluIns_sound, goes_next, *]; done)
    | with_reducible refine goes_next ?_
    | with_reducible apply aluIns_sound
    | dsimp only

theorem execSmul_sound {s : State} (hs : Sound fz qu s) (c : Core) (sl : Slot) (f : RegForm) :
    Goes fz qu (execSmul c sl f s) := by
  unfold execSmul
  repeat' first
    | (simp +contextual (maxDischargeDepth := 99) only [aluIns_sound, goes_next, *]; done)
    | with_reducible refine goes_next ?_
    | with_reducible apply aluIns_sound
    | dsimp only

theorem execSand_sound {s : State} (hs : Sound fz qu s) (c : Core) (sl : Slot) (f : RegForm) :
    Goes fz qu (execSand c sl f s) := by
  unfold execSand
  repeat' first
    | (simp +contextual (maxDischargeDepth := 99) only [aluIns_sound, goes_next, *]; done)
    | with_reducible refine goes_next ?_
    | with_reducible apply aluIns_sound
    | dsimp only

theorem execSor_sound {s : State} (hs : Sound fz qu s) (c : Core) (sl : Slot) (f : RegForm) :
    Goes fz qu (execSor c sl f s) := by
  unfold execSor
  repeat' first
    | (simp +contextual (maxDischargeDepth := 99) only [aluIns_sound, goes_next, *]; done)
    | with_reducible refine goes_next ?_
    | with_reducible apply aluIns_sound
    | dsimp only

theorem execSxor_sound {s : State} (hs : Sound fz qu s) (c : Core) (sl : Slot) (f : RegForm) :
    Goes fz qu (execSxor c sl f s) := by
  unfold execSxor
  repeat' first
    | (simp +contextual (maxDischargeDepth := 99) only [aluIns_sound, goes_next, *]; done)
    | with_reducible refine goes_next ?_
    | with_reducible apply aluIns_sound
    | dsimp only

theorem execSshl_sound {s : State} (hs : Sound fz qu s) (c : Core) (sl : Slot) (f : RegForm) :
    Goes fz qu (execSshl c sl f s) := by
  unfold execSshl
  repeat' first
    | (simp +contextual (maxDischargeDepth := 99) only [aluIns_sound, goes_next, *]; done)
    | with_reducible refine goes_next ?_
    | with_reducible apply aluIns_sound
    | dsimp only

theorem execSshr_sound {s : State} (hs : Sound fz qu s) (c : Core) (sl : Slot) (f : RegForm) :
    Goes fz qu (execSshr c sl f s) := by
  unfold execSshr
  repeat' first
    | (simp +contextual (maxDischargeDepth := 99) only [aluIns_sound, goes_next, *]; done)
    | with_reducible refine goes_next ?_
    | with_reducible apply aluIns_sound
    | dsimp only

theorem execSsra_sound {s : State} (hs : Sound fz qu s) (c : Core) (sl : Slot) (f : RegForm) :
    Goes fz qu (execSsra c sl f s) := by
  unfold execSsra
  repeat' first
    | (simp +contextual (maxDischargeDepth := 99) only [aluIns_sound, goes_next, *]; done)
    | with_reducible refine goes_next ?_
    | with_reducible apply aluIns_sound
    | dsimp only

theorem execScmp_sound {s : State} (hs : Sound fz qu s) (c : Core) (sl : Slot) (f : RegForm) :
    Goes fz qu (execScmp c sl f s) := by
  unfold execScmp
  repeat' first
    | (simp +contextual (maxDischargeDepth := 99) only [advance_sound, setPreg_sound, scalarIns_sound, goes_next, *]; done)
    | with_reducible refine goes_next ?_
    | with_reducible refine scalarIns_sound (fun _ _ => ?_) ?_ _ _ _ _ _
    | with_reducible apply advance_sound
    | with_reducible apply setPreg_sound
    | dsimp only

theorem execPlog_sound {s : State} (hs : Sound fz qu s) (c : Core) (sl : Slot) (f : RegForm) :
    Goes fz qu (execPlog c sl f s) := by
  unfold execPlog
  repeat' first
    | (simp +contextual (maxDischargeDepth := 99) only [advance_sound, setPreg_sound, scalarIns_sound, goes_next, *]; done)
    | with_reducible refine goes_next ?_
    | with_reducible refine scalarIns_sound (fun _ _ => ?_) ?_ _ _ _ _ _
    | with_reducible apply advance_sound
    | with_reducible apply setPreg_sound
    | dsimp only

theorem execSld_sound {s : State} (hs : Sound fz qu s) (c : Core) (sl : Slot) (f : RegForm) :
    Goes fz qu (execSld c sl f s) := by
  unfold execSld
  repeat' first
    | (simp +contextual (maxDischargeDepth := 99) only [abortTask_sound, advance_sound, setSreg_sound, scalarIns_sound, readLocal_sound, goes_next, ite_sound, ite_goes, *]; done)
    | with_reducible refine goes_next ?_
    | with_reducible refine scalarIns_sound (fun _ _ => ?_) ?_ _ _ _ _ _
    | (extract_lets +onlyGivenNames x; refine (fun (hx : Sound fz qu x) => ?_) ?_; (clear_value x; rotate_left; unfold x; clear x))
    | (extract_lets +onlyGivenNames x; refine (fun (hx : Sound fz qu x.1) => ?_) ?_; (clear_value x; rotate_left; unfold x; clear x))
    | (extract_lets +onlyGivenNames x; clear_value x)
    | split
    | with_reducible apply abortTask_sound
    | with_reducible apply advance_sound
    | with_reducible apply setSreg_sound
    | with_reducible apply readLocal_sound
    | dsimp only

theorem execSst_sound {s : State} (hs : Sound fz qu s) (c : Core) (sl : Slot) (f : RegForm) :
    Goes fz qu (execSst c sl f s) := by
  unfold execSst
  repeat' first
    | (simp +contextual (maxDischargeDepth := 99) only [abortTask_sound, advance_sound, scalarIns_sound, writeLocal_sound, tearReads_sound, goes_next, ite_sound, ite_goes, *]; done)
    | with_reducible refine goes_next ?_
    | with_reducible refine scalarIns_sound (fun _ _ => ?_) ?_ _ _ _ _ _
    | (extract_lets +onlyGivenNames x; refine (fun (hx : Sound fz qu x) => ?_) ?_; (clear_value x; rotate_left; unfold x; clear x))
    | (extract_lets +onlyGivenNames x; refine (fun (hx : Sound fz qu x.1) => ?_) ?_; (clear_value x; rotate_left; unfold x; clear x))
    | (extract_lets +onlyGivenNames x; clear_value x)
    | split
    | with_reducible apply abortTask_sound
    | with_reducible apply advance_sound
    | with_reducible apply writeLocal_sound
    | with_reducible apply tearReads_sound
    | dsimp only

theorem execSinfo_sound {s : State} (hs : Sound fz qu s) (c : Core) (sl : Slot) (f : RegForm) :
    Goes fz qu (execSinfo c sl f s) := by
  unfold execSinfo
  repeat' first
    | (simp +contextual (maxDischargeDepth := 99) only [scalarOut_sound, goes_next, *]; done)
    | with_reducible refine goes_next ?_
    | with_reducible apply scalarOut_sound
    | dsimp only

theorem tcIns_sound {body : State → State} {s : State} (hfbody : ∀ (y0 : State), Sound fz qu y0 → Sound fz qu (body y0)) (hs : Sound fz qu s) (op : Nat) (c : Core) (sl : Slot) (f : RegForm) (ok : Bool) :
    Sound fz qu (tcIns op c sl f ok body s) := by
  unfold tcIns
  repeat' first
    | (simp +contextual (maxDischargeDepth := 99) only [abortTask_sound, scalarIns_sound, ite_sound, *]; done)
    | with_reducible refine scalarIns_sound (fun _ _ => ?_) ?_ _ _ _ _ _
    | split
    | with_reducible apply abortTask_sound
    | dsimp only

theorem execTcset_sound {s : State} (hs : Sound fz qu s) (c : Core) (sl : Slot) (f : RegForm) :
    Goes fz qu (execTcset c sl f s) := by
  unfold execTcset
  repeat' first
    | (simp +contextual (maxDischargeDepth := 99) only [tcSet_sound, abortTask_sound, advance_sound, tcIns_sound, goes_next, ite_sound, ite_goes, *]; done)
    | with_reducible refine goes_next ?_
    | with_reducible refine tcIns_sound (fun _ _ => ?_) ?_ _ _ _ _ _
    | (extract_lets +onlyGivenNames x; refine (fun (hx : Sound fz qu x) => ?_) ?_; (clear_value x; rotate_left; unfold x; clear x))
    | (extract_lets +onlyGivenNames x; refine (fun (hx : Sound fz qu x.1) => ?_) ?_; (clear_value x; rotate_left; unfold x; clear x))
    | (extract_lets +onlyGivenNames x; clear_value x)
    | split
    | with_reducible apply tcSet_sound
    | with_reducible apply abortTask_sound
    | with_reducible apply advance_sound
    | dsimp only

theorem execTcadd_sound {s : State} (hs : Sound fz qu s) (c : Core) (sl : Slot) (f : RegForm) :
    Goes fz qu (execTcadd c sl f s) := by
  unfold execTcadd
  repeat' first
    | (simp +contextual (maxDischargeDepth := 99) only [tcAdd_sound, advance_sound, tcIns_sound, goes_next, *]; done)
    | with_reducible refine goes_next ?_
    | with_reducible refine tcIns_sound (fun _ _ => ?_) ?_ _ _ _ _ _
    | with_reducible apply tcAdd_sound
    | with_reducible apply advance_sound
    | dsimp only

theorem execTcrd_sound {s : State} (hs : Sound fz qu s) (c : Core) (sl : Slot) (f : RegForm) :
    Goes fz qu (execTcrd c sl f s) := by
  unfold execTcrd
  repeat' first
    | (simp +contextual (maxDischargeDepth := 99) only [advance_sound, setSreg_sound, tcIns_sound, goes_next, *]; done)
    | with_reducible refine goes_next ?_
    | with_reducible refine tcIns_sound (fun _ _ => ?_) ?_ _ _ _ _ _
    | with_reducible apply advance_sound
    | with_reducible apply setSreg_sound
    | dsimp only

theorem tcRegWrite_sound {s : State} (hs : Sound fz qu s) (c : Nat) (tc : Nat) (v : Nat) :
    Sound fz qu (tcRegWrite s c tc v) := by
  unfold tcRegWrite
  repeat' first
    | (simp +contextual (maxDischargeDepth := 99) only [tcSet_sound, abortTask_sound, ite_sound, each_sound, *]; done)
    | split
    | with_reducible refine each_sound (fun _ _ _ => ?_) _ ?_
    | with_reducible apply tcSet_sound
    | with_reducible apply abortTask_sound
    | dsimp only

theorem execTcValueWrite_sound {s : State} (hs : Sound fz qu s) (c : Core) (tc : BitVec 8) (value : BitVec 32) :
    Goes fz qu (execTcValueWrite c tc value s) := by
  unfold execTcValueWrite
  repeat' first
    | (simp +contextual (maxDischargeDepth := 99) only [tcRegWrite_sound, goes_next, onlyIf_sound, *]; done)
    | with_reducible refine goes_next ?_
    | with_reducible refine onlyIf_sound (fun _ _ => ?_) ?_
    | with_reducible apply tcRegWrite_sound
    | dsimp only

theorem waitFor_sound {s : State} (hs : Sound fz qu s) (c : Nat) (sl : Slot) (w : WaitKind) (cause : Nat) :
    Sound fz qu (waitFor s c sl w cause) := by
  unfold waitFor
  repeat' first
    | (simp +contextual (maxDischargeDepth := 99) only [advance_sound, holdTask_sound, ite_sound, *]; done)
    | split
    | with_reducible apply advance_sound
    | with_reducible apply holdTask_sound
    | dsimp only

theorem execWaittc_sound {s : State} (hs : Sound fz qu s) (c : Core) (sl : Slot) (f : RegForm) :
    Goes fz qu (execWaittc c sl f s) := by
  unfold execWaittc
  repeat' first
    | (simp +contextual (maxDischargeDepth := 99) only [tcIns_sound, waitFor_sound, goes_next, *]; done)
    | with_reducible refine goes_next ?_
    | with_reducible refine tcIns_sound (fun _ _ => ?_) ?_ _ _ _ _ _
    | with_reducible apply waitFor_sound
    | dsimp only

theorem execWaitdma_sound {s : State} (hs : Sound fz qu s) (c : Core) (sl : Slot) (f : RegForm) :
    Goes fz qu (execWaitdma c sl f s) := by
  unfold execWaitdma
  repeat' first
    | (simp +contextual (maxDischargeDepth := 99) only [abortTask_sound, scalarIns_sound, waitFor_sound, goes_next, ite_sound, ite_goes, *]; done)
    | with_reducible refine goes_next ?_
    | with_reducible refine scalarIns_sound (fun _ _ => ?_) ?_ _ _ _ _ _
    | (extract_lets +onlyGivenNames x; refine (fun (hx : Sound fz qu x) => ?_) ?_; (clear_value x; rotate_left; unfold x; clear x))
    | (extract_lets +onlyGivenNames x; refine (fun (hx : Sound fz qu x.1) => ?_) ?_; (clear_value x; rotate_left; unfold x; clear x))
    | (extract_lets +onlyGivenNames x; clear_value x)
    | split
    | with_reducible apply abortTask_sound
    | with_reducible apply waitFor_sound
    | dsimp only

theorem execWaitarr_sound {s : State} (hs : Sound fz qu s) (c : Core) (sl : Slot) (f : RegForm) :
    Goes fz qu (execWaitarr c sl f s) := by
  unfold execWaitarr
  repeat' first
    | (simp +contextual (maxDischargeDepth := 99) only [scalarIns_sound, waitFor_sound, goes_next, *]; done)
    | with_reducible refine goes_next ?_
    | with_reducible refine scalarIns_sound (fun _ _ => ?_) ?_ _ _ _ _ _
    | with_reducible apply waitFor_sound
    | dsimp only

theorem execWaittide_sound {s : State} (hs : Sound fz qu s) (c : Core) (sl : Slot) (f : RegForm) :
    Goes fz qu (execWaittide c sl f s) := by
  unfold execWaittide
  repeat' first
    | (simp +contextual (maxDischargeDepth := 99) only [scalarIns_sound, waitFor_sound, goes_next, *]; done)
    | with_reducible refine goes_next ?_
    | with_reducible refine scalarIns_sound (fun _ _ => ?_) ?_ _ _ _ _ _
    | with_reducible apply waitFor_sound
    | dsimp only

theorem execWaitslot_sound {s : State} (hs : Sound fz qu s) (c : Core) (sl : Slot) (f : RegForm) :
    Goes fz qu (execWaitslot c sl f s) := by
  unfold execWaitslot
  repeat' first
    | (simp +contextual (maxDischargeDepth := 99) only [abortTask_sound, scalarIns_sound, waitFor_sound, goes_next, ite_sound, ite_goes, *]; done)
    | with_reducible refine goes_next ?_
    | with_reducible refine scalarIns_sound (fun _ _ => ?_) ?_ _ _ _ _ _
    | split
    | with_reducible apply abortTask_sound
    | with_reducible apply waitFor_sound
    | dsimp only

theorem execWaitConditionMet_sound {s : State} (hs : Sound fz qu s) (c : Core) (sl : Slot) :
    Goes fz qu (execWaitConditionMet c sl s) := by
  unfold execWaitConditionMet
  repeat' first
    | (simp +contextual (maxDischargeDepth := 99) only [updTask_sound, advance_sound, goes_next, sound_mk, onlyIf_sound, *]; done)
    | with_reducible refine goes_next ?_
    | with_reducible refine onlyIf_sound (fun _ _ => ?_) ?_
    | split
    | with_reducible apply updTask_sound
    | with_reducible apply advance_sound
    | with_reducible apply (sound_mk ..).2
    | dsimp only

theorem execWaitLimitExpired_sound {s : State} (hs : Sound fz qu s) (c : Core) (sl : Slot) :
    Goes fz qu (execWaitLimitExpired c sl s) := by
  unfold execWaitLimitExpired
  repeat' first
    | (simp +contextual (maxDischargeDepth := 99) only [abortTask_sound, goes_next, onlyIf_sound, *]; done)
    | with_reducible refine goes_next ?_
    | with_reducible refine onlyIf_sound (fun _ _ => ?_) ?_
    | split
    | with_reducible apply abortTask_sound
    | dsimp only

end Sys2Proof.Machine
end

