-- ==== Sys2Proof/Laws/SoundVector.lean ====
section
/-!
SUPPORT. What the operations and commands of Machine/Vector.lean keep: the queue, the fused identity, the canonical form of memory,
and registers within their widths.
-/
namespace Sys2Proof.Machine

set_option linter.unusedTactic false
set_option linter.unreachableTactic false
set_option linter.unusedSimpArgs false

variable {fz : Fuses} {qu : List Instr}

theorem vecIns_sound {body : State → State} {s : State} (hfbody : ∀ (y0 : State), Sound fz qu y0 → Sound fz qu (body y0)) (hs : Sound fz qu s) (op : Nat) (c : Core) (sl : Slot) (f : RegForm) (stoch : State → Bool) (ok : State → Bool) (srcs : List (BitVec 6)) (dsts : List (BitVec 6)) (inPart : Bool) :
    Sound fz qu (vecIns op c sl f stoch ok srcs dsts inPart body s) := by
  unfold vecIns
  repeat' first
    | (simp +contextual (maxDischargeDepth := 99) only [abortTask_sound, sequence_sound, occupy_sound, readVregs_sound, ite_sound, *]; done)
    | with_reducible refine sequence_sound ?_ (fun _ _ => ?_) _ _ _
    | (extract_lets +onlyGivenNames x; refine (fun (hx : Sound fz qu x) => ?_) ?_; (clear_value x; rotate_left; unfold x; clear x))
    | (extract_lets +onlyGivenNames x; refine (fun (hx : Sound fz qu x.1) => ?_) ?_; (clear_value x; rotate_left; unfold x; clear x))
    | (extract_lets +onlyGivenNames x; clear_value x)
    | split
    | with_reducible apply abortTask_sound
    | with_reducible apply occupy_sound
    | with_reducible apply readVregs_sound
    | dsimp only

theorem vecWrite_sound {s : State} (hs : Sound fz qu s) (c : Core) (sl : Slot) (f : RegForm) (fmt : Nat) (ctr : Fld) (n : Nat) (op : Nat → Nat × Counts) :
    Sound fz qu (vecWrite s c sl f fmt ctr n op) := by
  unfold vecWrite
  repeat' first
    | (simp +contextual (maxDischargeDepth := 99) only [bumpW_sound, advance_sound, setVreg_sound, fileCounts_sound, *]; done)
    | (extract_lets +onlyGivenNames x; refine (fun (hx : Sound fz qu x) => ?_) ?_; (clear_value x; rotate_left; unfold x; clear x))
    | (extract_lets +onlyGivenNames x; refine (fun (hx : Sound fz qu x.1) => ?_) ?_; (clear_value x; rotate_left; unfold x; clear x))
    | (extract_lets +onlyGivenNames x; clear_value x)
    | split
    | with_reducible apply bumpW_sound
    | with_reducible apply advance_sound
    | with_reducible apply setVreg_sound
    | with_reducible apply fileCounts_sound
    | dsimp only

theorem fmaIns_sound {s : State} (hs : Sound fz qu s) (op : Nat) (c : Core) (sl : Slot) (f : RegForm) (okF : Nat → Bool) (srcs : List (BitVec 6)) (lanes : Nat → Nat) (g : Bool → Nat → List Nat → Nat × Counts) :
    Sound fz qu (fmaIns op c sl f okF srcs lanes g s) := by
  unfold fmaIns
  repeat' first
    | (simp +contextual (maxDischargeDepth := 99) only [vecIns_sound, vecWrite_sound, *]; done)
    | with_reducible refine vecIns_sound (fun _ _ => ?_) ?_ _ _ _ _ _ _ _ _ _
    | (extract_lets +onlyGivenNames x; refine (fun (hx : Sound fz qu x) => ?_) ?_; (clear_value x; rotate_left; unfold x; clear x))
    | (extract_lets +onlyGivenNames x; refine (fun (hx : Sound fz qu x.1) => ?_) ?_; (clear_value x; rotate_left; unfold x; clear x))
    | (extract_lets +onlyGivenNames x; clear_value x)
    | with_reducible apply vecWrite_sound
    | dsimp only

theorem execVadd_sound {s : State} (hs : Sound fz qu s) (c : Core) (sl : Slot) (f : RegForm) :
    Goes fz qu (execVadd c sl f s) := by
  unfold execVadd
  repeat' first
    | (simp +contextual (maxDischargeDepth := 99) only [fmaIns_sound, goes_next, *]; done)
    | with_reducible refine goes_next ?_
    | with_reducible apply fmaIns_sound
    | dsimp only

theorem execVsub_sound {s : State} (hs : Sound fz qu s) (c : Core) (sl : Slot) (f : RegForm) :
    Goes fz qu (execVsub c sl f s) := by
  unfold execVsub
  repeat' first
    | (simp +contextual (maxDischargeDepth := 99) only [fmaIns_sound, goes_next, *]; done)
    | with_reducible refine goes_next ?_
    | with_reducible apply fmaIns_sound
    | dsimp only

theorem execVmul_sound {s : State} (hs : Sound fz qu s) (c : Core) (sl : Slot) (f : RegForm) :
    Goes fz qu (execVmul c sl f s) := by
  unfold execVmul
  repeat' first
    | (simp +contextual (maxDischargeDepth := 99) only [fmaIns_sound, goes_next, *]; done)
    | with_reducible refine goes_next ?_
    | with_reducible apply fmaIns_sound
    | dsimp only

theorem execVfma_sound {s : State} (hs : Sound fz qu s) (c : Core) (sl : Slot) (f : RegForm) :
    Goes fz qu (execVfma c sl f s) := by
  unfold execVfma
  repeat' first
    | (simp +contextual (maxDischargeDepth := 99) only [fmaIns_sound, goes_next, *]; done)
    | with_reducible refine goes_next ?_
    | with_reducible apply fmaIns_sound
    | dsimp only

theorem execVmax_sound {s : State} (hs : Sound fz qu s) (c : Core) (sl : Slot) (f : RegForm) :
    Goes fz qu (execVmax c sl f s) := by
  unfold execVmax
  repeat' first
    | (simp +contextual (maxDischargeDepth := 99) only [fmaIns_sound, goes_next, *]; done)
    | with_reducible refine goes_next ?_
    | with_reducible apply fmaIns_sound
    | dsimp only

theorem execVmin_sound {s : State} (hs : Sound fz qu s) (c : Core) (sl : Slot) (f : RegForm) :
    Goes fz qu (execVmin c sl f s) := by
  unfold execVmin
  repeat' first
    | (simp +contextual (maxDischargeDepth := 99) only [fmaIns_sound, goes_next, *]; done)
    | with_reducible refine goes_next ?_
    | with_reducible apply fmaIns_sound
    | dsimp only

theorem execVabs_sound {s : State} (hs : Sound fz qu s) (c : Core) (sl : Slot) (f : RegForm) :
    Goes fz qu (execVabs c sl f s) := by
  unfold execVabs
  repeat' first
    | (simp +contextual (maxDischargeDepth := 99) only [fmaIns_sound, goes_next, ite_sound, ite_goes, *]; done)
    | with_reducible refine goes_next ?_
    | split
    | with_reducible apply fmaIns_sound
    | dsimp only

theorem execVneg_sound {s : State} (hs : Sound fz qu s) (c : Core) (sl : Slot) (f : RegForm) :
    Goes fz qu (execVneg c sl f s) := by
  unfold execVneg
  repeat' first
    | (simp +contextual (maxDischargeDepth := 99) only [fmaIns_sound, goes_next, ite_sound, ite_goes, *]; done)
    | with_reducible refine goes_next ?_
    | split
    | with_reducible apply fmaIns_sound
    | dsimp only

theorem execVmov_sound {s : State} (hs : Sound fz qu s) (c : Core) (sl : Slot) (f : RegForm) :
    Goes fz qu (execVmov c sl f s) := by
  unfold execVmov
  repeat' first
    | (simp +contextual (maxDischargeDepth := 99) only [fmaIns_sound, goes_next, *]; done)
    | with_reducible refine goes_next ?_
    | with_reducible apply fmaIns_sound
    | dsimp only

theorem execVdiv_sound {s : State} (hs : Sound fz qu s) (c : Core) (sl : Slot) (f : RegForm) :
    Goes fz qu (execVdiv c sl f s) := by
  unfold execVdiv
  repeat' first
    | (simp +contextual (maxDischargeDepth := 99) only [fmaIns_sound, goes_next, *]; done)
    | with_reducible refine goes_next ?_
    | with_reducible apply fmaIns_sound
    | dsimp only

theorem execVsqrt_sound {s : State} (hs : Sound fz qu s) (c : Core) (sl : Slot) (f : RegForm) :
    Goes fz qu (execVsqrt c sl f s) := by
  unfold execVsqrt
  repeat' first
    | (simp +contextual (maxDischargeDepth := 99) only [fmaIns_sound, goes_next, *]; done)
    | with_reducible refine goes_next ?_
    | with_reducible apply fmaIns_sound
    | dsimp only

theorem transIns_sound {s : State} (hs : Sound fz qu s) (op : Nat) (c : Core) (sl : Slot) (f : RegForm) (ok : Bool) (srcs : List (BitVec 6)) (g : Bool → Nat → List Num → Nat × Counts) :
    Sound fz qu (transIns op c sl f ok srcs g s) := by
  unfold transIns
  repeat' first
    | (simp +contextual (maxDischargeDepth := 99) only [vecIns_sound, vecWrite_sound, *]; done)
    | with_reducible refine vecIns_sound (fun _ _ => ?_) ?_ _ _ _ _ _ _ _ _ _
    | (extract_lets +onlyGivenNames x; refine (fun (hx : Sound fz qu x) => ?_) ?_; (clear_value x; rotate_left; unfold x; clear x))
    | (extract_lets +onlyGivenNames x; refine (fun (hx : Sound fz qu x.1) => ?_) ?_; (clear_value x; rotate_left; unfold x; clear x))
    | (extract_lets +onlyGivenNames x; clear_value x)
    | with_reducible apply vecWrite_sound
    | dsimp only

theorem execVexp_sound {s : State} (hs : Sound fz qu s) (c : Core) (sl : Slot) (f : RegForm) :
    Goes fz qu (execVexp c sl f s) := by
  unfold execVexp
  repeat' first
    | (simp +contextual (maxDischargeDepth := 99) only [transIns_sound, goes_next, ite_sound, ite_goes, *]; done)
    | with_reducible refine goes_next ?_
    | split
    | with_reducible apply transIns_sound
    | dsimp only

theorem execVlog_sound {s : State} (hs : Sound fz qu s) (c : Core) (sl : Slot) (f : RegForm) :
    Goes fz qu (execVlog c sl f s) := by
  unfold execVlog
  repeat' first
    | (simp +contextual (maxDischargeDepth := 99) only [transIns_sound, goes_next, *]; done)
    | with_reducible refine goes_next ?_
    | with_reducible apply transIns_sound
    | dsimp only

theorem execVrcp_sound {s : State} (hs : Sound fz qu s) (c : Core) (sl : Slot) (f : RegForm) :
    Goes fz qu (execVrcp c sl f s) := by
  unfold execVrcp
  repeat' first
    | (simp +contextual (maxDischargeDepth := 99) only [transIns_sound, goes_next, *]; done)
    | with_reducible refine goes_next ?_
    | with_reducible apply transIns_sound
    | dsimp only

theorem execVrsq_sound {s : State} (hs : Sound fz qu s) (c : Core) (sl : Slot) (f : RegForm) :
    Goes fz qu (execVrsq c sl f s) := by
  unfold execVrsq
  repeat' first
    | (simp +contextual (maxDischargeDepth := 99) only [transIns_sound, goes_next, *]; done)
    | with_reducible refine goes_next ?_
    | with_reducible apply transIns_sound
    | dsimp only

theorem execVcmp_sound {s : State} (hs : Sound fz qu s) (c : Core) (sl : Slot) (f : RegForm) :
    Goes fz qu (execVcmp c sl f s) := by
  unfold execVcmp
  repeat' first
    | (simp +contextual (maxDischargeDepth := 99) only [bumpW_sound, advance_sound, setPreg_sound, vecIns_sound, goes_next, ite_sound, ite_goes, *]; done)
    | with_reducible refine goes_next ?_
    | with_reducible refine vecIns_sound (fun _ _ => ?_) ?_ _ _ _ _ _ _ _ _ _
    | (extract_lets +onlyGivenNames x; refine (fun (hx : Sound fz qu x) => ?_) ?_; (clear_value x; rotate_left; unfold x; clear x))
    | (extract_lets +onlyGivenNames x; refine (fun (hx : Sound fz qu x.1) => ?_) ?_; (clear_value x; rotate_left; unfold x; clear x))
    | (extract_lets +onlyGivenNames x; clear_value x)
    | split
    | with_reducible apply bumpW_sound
    | with_reducible apply advance_sound
    | with_reducible apply setPreg_sound
    | dsimp only

theorem execVbcast_sound {s : State} (hs : Sound fz qu s) (c : Core) (sl : Slot) (f : RegForm) :
    Goes fz qu (execVbcast c sl f s) := by
  unfold execVbcast
  repeat' first
    | (simp +contextual (maxDischargeDepth := 99) only [vecIns_sound, vecWrite_sound, goes_next, ite_sound, ite_goes, *]; done)
    | with_reducible refine goes_next ?_
    | with_reducible refine vecIns_sound (fun _ _ => ?_) ?_ _ _ _ _ _ _ _ _ _
    | (extract_lets +onlyGivenNames x; refine (fun (hx : Sound fz qu x) => ?_) ?_; (clear_value x; rotate_left; unfold x; clear x))
    | (extract_lets +onlyGivenNames x; refine (fun (hx : Sound fz qu x.1) => ?_) ?_; (clear_value x; rotate_left; unfold x; clear x))
    | (extract_lets +onlyGivenNames x; clear_value x)
    | split
    | with_reducible apply vecWrite_sound
    | dsimp only

theorem execVshuf_sound {s : State} (hs : Sound fz qu s) (c : Core) (sl : Slot) (f : RegForm) :
    Goes fz qu (execVshuf c sl f s) := by
  unfold execVshuf
  repeat' first
    | (simp +contextual (maxDischargeDepth := 99) only [vecIns_sound, vecWrite_sound, goes_next, *]; done)
    | with_reducible refine goes_next ?_
    | with_reducible refine vecIns_sound (fun _ _ => ?_) ?_ _ _ _ _ _ _ _ _ _
    | (extract_lets +onlyGivenNames x; refine (fun (hx : Sound fz qu x) => ?_) ?_; (clear_value x; rotate_left; unfold x; clear x))
    | (extract_lets +onlyGivenNames x; refine (fun (hx : Sound fz qu x.1) => ?_) ?_; (clear_value x; rotate_left; unfold x; clear x))
    | (extract_lets +onlyGivenNames x; clear_value x)
    | with_reducible apply vecWrite_sound
    | dsimp only

theorem execVred_sound {s : State} (hs : Sound fz qu s) (c : Core) (sl : Slot) (f : RegForm) :
    Goes fz qu (execVred c sl f s) := by
  unfold execVred
  repeat' first
    | (simp +contextual (maxDischargeDepth := 99) only [advance_sound, setVreg_sound, fileCounts_sound, vecIns_sound, goes_next, ite_sound, ite_goes, *]; done)
    | with_reducible refine goes_next ?_
    | with_reducible refine vecIns_sound (fun _ _ => ?_) ?_ _ _ _ _ _ _ _ _ _
    | (extract_lets +onlyGivenNames x; refine (fun (hx : Sound fz qu x) => ?_) ?_; (clear_value x; rotate_left; unfold x; clear x))
    | (extract_lets +onlyGivenNames x; refine (fun (hx : Sound fz qu x.1) => ?_) ?_; (clear_value x; rotate_left; unfold x; clear x))
    | (extract_lets +onlyGivenNames x; clear_value x)
    | split
    | with_reducible apply advance_sound
    | with_reducible apply setVreg_sound
    | with_reducible apply fileCounts_sound
    | dsimp only

theorem execVld_sound {s : State} (hs : Sound fz qu s) (c : Core) (sl : Slot) (f : RegForm) :
    Goes fz qu (execVld c sl f s) := by
  unfold execVld
  repeat' first
    | (simp +contextual (maxDischargeDepth := 99) only [advance_sound, setVreg_sound, fileCounts_sound, readLocal_sound, vecIns_sound, goes_next, ite_sound, ite_goes, sound_mk, *]; done)
    | with_reducible refine goes_next ?_
    | with_reducible refine vecIns_sound (fun _ _ => ?_) ?_ _ _ _ _ _ _ _ _ _
    | (extract_lets +onlyGivenNames x; refine (fun (hx : Sound fz qu x) => ?_) ?_; (clear_value x; rotate_left; unfold x; clear x))
    | (extract_lets +onlyGivenNames x; refine (fun (hx : Sound fz qu x.1) => ?_) ?_; (clear_value x; rotate_left; unfold x; clear x))
    | (extract_lets +onlyGivenNames x; clear_value x)
    | split
    | with_reducible apply advance_sound
    | with_reducible apply setVreg_sound
    | with_reducible apply fileCounts_sound
    | with_reducible apply readLocal_sound
    | with_reducible apply (sound_mk ..).2
    | dsimp only

theorem maskedStore_sound {s : State} (hs : Sound fz qu s) (on : Nat → Bool) (a : Nat) (n : Nat) (v : Nat) :
    Sound fz qu (maskedStore s on a n v) := by
  unfold maskedStore
  repeat' first
    | (simp +contextual (maxDischargeDepth := 99) only [wrNat_sound, ite_sound, sound_mk, each_sound, *]; done)
    | (extract_lets +onlyGivenNames x; refine (fun (hx : Sound fz qu x) => ?_) ?_; (clear_value x; rotate_left; unfold x; clear x))
    | (extract_lets +onlyGivenNames x; refine (fun (hx : Sound fz qu x.1) => ?_) ?_; (clear_value x; rotate_left; unfold x; clear x))
    | (extract_lets +onlyGivenNames x; clear_value x)
    | split
    | with_reducible refine each_sound (fun _ _ _ => ?_) _ ?_
    | with_reducible apply wrNat_sound
    | with_reducible apply (sound_mk ..).2
    | dsimp only

theorem execVst_sound {s : State} (hs : Sound fz qu s) (c : Core) (sl : Slot) (f : RegForm) :
    Goes fz qu (execVst c sl f s) := by
  unfold execVst
  repeat' first
    | (simp +contextual (maxDischargeDepth := 99) only [abortTask_sound, advance_sound, tearReads_sound, vecIns_sound, maskedStore_sound, goes_next, ite_sound, ite_goes, *]; done)
    | with_reducible refine goes_next ?_
    | with_reducible refine vecIns_sound (fun _ _ => ?_) ?_ _ _ _ _ _ _ _ _ _
    | (extract_lets +onlyGivenNames x; refine (fun (hx : Sound fz qu x) => ?_) ?_; (clear_value x; rotate_left; unfold x; clear x))
    | (extract_lets +onlyGivenNames x; refine (fun (hx : Sound fz qu x.1) => ?_) ?_; (clear_value x; rotate_left; unfold x; clear x))
    | (extract_lets +onlyGivenNames x; clear_value x)
    | split
    | with_reducible apply abortTask_sound
    | with_reducible apply advance_sound
    | with_reducible apply tearReads_sound
    | with_reducible apply maskedStore_sound
    | dsimp only

end Sys2Proof.Machine
end

