-- ==== Sys2Proof/Laws/SoundNumeric.lean ====
section
/-!
SUPPORT. What the operations and commands of Machine/Numeric.lean keep: the queue, the fused identity, the canonical form of memory,
and registers within their widths.
-/
namespace Sys2Proof.Machine

set_option linter.unusedTactic false
set_option linter.unreachableTactic false
set_option linter.unusedSimpArgs false

variable {fz : Fuses} {qu : List Instr}

theorem cvtBody_sound {s : State} (hs : Sound fz qu s) (c : Core) (sl : Slot) (f : RegForm) :
    Sound fz qu (cvtBody c sl f s) := by
  unfold cvtBody
  repeat' first
    | (simp +contextual (maxDischargeDepth := 99) only [bumpW_sound, setSlot_sound, advance_sound, setVreg_sound, fileCounts_sound, ite_sound, sound_mk, *]; done)
    | (extract_lets +onlyGivenNames x; refine (fun (hx : Sound fz qu x) => ?_) ?_; (clear_value x; rotate_left; unfold x; clear x))
    | (extract_lets +onlyGivenNames x; refine (fun (hx : Sound fz qu x.1) => ?_) ?_; (clear_value x; rotate_left; unfold x; clear x))
    | (extract_lets +onlyGivenNames x; clear_value x)
    | split
    | with_reducible apply bumpW_sound
    | with_reducible apply setSlot_sound
    | with_reducible apply advance_sound
    | with_reducible apply setVreg_sound
    | with_reducible apply fileCounts_sound
    | with_reducible apply (sound_mk ..).2
    | dsimp only

theorem execVcvt_sound {s : State} (hs : Sound fz qu s) (c : Core) (sl : Slot) (f : RegForm) :
    Goes fz qu (execVcvt c sl f s) := by
  unfold execVcvt
  repeat' first
    | (simp +contextual (maxDischargeDepth := 99) only [vecIns_sound, cvtBody_sound, goes_next, ite_sound, ite_goes, *]; done)
    | with_reducible refine goes_next ?_
    | with_reducible refine vecIns_sound (fun _ _ => ?_) ?_ _ _ _ _ _ _ _ _ _
    | split
    | with_reducible apply cvtBody_sound
    | dsimp only

theorem execVseed_sound {s : State} (hs : Sound fz qu s) (c : Core) (sl : Slot) (f : RegForm) :
    Goes fz qu (execVseed c sl f s) := by
  unfold execVseed
  repeat' first
    | (simp +contextual (maxDischargeDepth := 99) only [setSlot_sound, advance_sound, scalarIns_sound, goes_next, sound_mk, *]; done)
    | with_reducible refine goes_next ?_
    | with_reducible refine scalarIns_sound (fun _ _ => ?_) ?_ _ _ _ _ _
    | with_reducible apply setSlot_sound
    | with_reducible apply advance_sound
    | with_reducible apply (sound_mk ..).2
    | dsimp only

theorem execVrng_sound {s : State} (hs : Sound fz qu s) (c : Core) (sl : Slot) (f : RegForm) :
    Goes fz qu (execVrng c sl f s) := by
  unfold execVrng
  repeat' first
    | (simp +contextual (maxDischargeDepth := 99) only [bumpW_sound, setSlot_sound, abortTask_sound, advance_sound, setVreg_sound, occupy_sound, scalarIns_sound, goes_next, ite_sound, ite_goes, sound_mk, *]; done)
    | with_reducible refine goes_next ?_
    | with_reducible refine scalarIns_sound (fun _ _ => ?_) ?_ _ _ _ _ _
    | (extract_lets +onlyGivenNames x; refine (fun (hx : Sound fz qu x) => ?_) ?_; (clear_value x; rotate_left; unfold x; clear x))
    | (extract_lets +onlyGivenNames x; refine (fun (hx : Sound fz qu x.1) => ?_) ?_; (clear_value x; rotate_left; unfold x; clear x))
    | (extract_lets +onlyGivenNames x; clear_value x)
    | split
    | with_reducible apply bumpW_sound
    | with_reducible apply setSlot_sound
    | with_reducible apply abortTask_sound
    | with_reducible apply advance_sound
    | with_reducible apply setVreg_sound
    | with_reducible apply occupy_sound
    | with_reducible apply (sound_mk ..).2
    | dsimp only

theorem execNtag_sound {s : State} (hs : Sound fz qu s) (c : Core) (sl : Slot) (f : RegForm) :
    Goes fz qu (execNtag c sl f s) := by
  unfold execNtag
  repeat' first
    | (simp +contextual (maxDischargeDepth := 99) only [bump_sound, abortTask_sound, updTask_sound, advance_sound, scalarIns_sound, goes_next, ite_sound, ite_goes, sound_mk, *]; done)
    | with_reducible refine goes_next ?_
    | with_reducible refine scalarIns_sound (fun _ _ => ?_) ?_ _ _ _ _ _
    | (extract_lets +onlyGivenNames x; refine (fun (hx : Sound fz qu x) => ?_) ?_; (clear_value x; rotate_left; unfold x; clear x))
    | (extract_lets +onlyGivenNames x; refine (fun (hx : Sound fz qu x.1) => ?_) ?_; (clear_value x; rotate_left; unfold x; clear x))
    | (extract_lets +onlyGivenNames x; clear_value x)
    | split
    | with_reducible apply bump_sound
    | with_reducible apply abortTask_sound
    | with_reducible apply updTask_sound
    | with_reducible apply advance_sound
    | with_reducible apply (sound_mk ..).2
    | dsimp only

theorem clearSet_sound {s : State} (hs : Sound fz qu s) (i : Nat) :
    Sound fz qu (clearSet s i) := by
  unfold clearSet
  repeat' first
    | (simp +contextual (maxDischargeDepth := 99) only [put_sound, each_sound, *]; done)
    | with_reducible refine each_sound (fun _ _ _ => ?_) _ ?_
    | with_reducible apply put_sound
    | dsimp only

theorem copySet_sound {s : State} (hs : Sound fz qu s) (i : Nat) (j : Nat) :
    Sound fz qu (copySet s i j) := by
  unfold copySet
  repeat' first
    | (simp +contextual (maxDischargeDepth := 99) only [put_sound, each_sound, *]; done)
    | with_reducible refine each_sound (fun _ _ _ => ?_) _ ?_
    | with_reducible apply put_sound
    | dsimp only

theorem setEvald_sound {s : State} (hs : Sound fz qu s) (e : Nat) (cur : Bool) (prev : Bool) :
    Sound fz qu (setEvald s e cur prev) := by
  unfold setEvald
  repeat' first
    | (simp +contextual (maxDischargeDepth := 99) only [sound_mk, *]; done)
    | with_reducible apply (sound_mk ..).2
    | dsimp only

theorem addRec_sound {s : State} (hs : Sound fz qu s) (i : Nat) (r : NumRec) :
    Sound fz qu (addRec s i r) := by
  unfold addRec
  repeat' first
    | (simp +contextual (maxDischargeDepth := 99) only [put_sound, bump_sound, *]; done)
    | (extract_lets +onlyGivenNames x; refine (fun (hx : Sound fz qu x) => ?_) ?_; (clear_value x; rotate_left; unfold x; clear x))
    | (extract_lets +onlyGivenNames x; refine (fun (hx : Sound fz qu x.1) => ?_) ?_; (clear_value x; rotate_left; unfold x; clear x))
    | (extract_lets +onlyGivenNames x; clear_value x)
    | split
    | with_reducible apply put_sound
    | with_reducible apply bump_sound
    | dsimp only

theorem takeStep_sound {s : State} (hs : Sound fz qu s) (e : Nat) (r : NumRec) :
    Sound fz qu (takeStep s e r) := by
  unfold takeStep
  repeat' first
    | (simp +contextual (maxDischargeDepth := 99) only [put_sound, clearSet_sound, addRec_sound, *]; done)
    | with_reducible apply put_sound
    | with_reducible apply clearSet_sound
    | with_reducible apply addRec_sound
    | dsimp only

theorem raise_sound {s : State} (hs : Sound fz qu s) (x : SilEvt) :
    Sound fz qu (raise s x) := by
  unfold raise
  repeat' first
    | (simp +contextual (maxDischargeDepth := 99) only [sound_mk, *]; done)
    | with_reducible apply (sound_mk ..).2
    | dsimp only

theorem logDue_sound {s : State} (hs : Sound fz qu s) (f : Nat → Bool) :
    Sound fz qu (logDue s f) := by
  unfold logDue
  repeat' first
    | (simp +contextual (maxDischargeDepth := 99) only [logEvt_sound, sound_mk, each_sound, *]; done)
    | with_reducible refine each_sound (fun _ _ _ => ?_) _ ?_
    | with_reducible apply logEvt_sound
    | with_reducible apply (sound_mk ..).2
    | dsimp only

theorem closeClk_sound {s : State} (hs : Sound fz qu s) :
    Sound fz qu (closeClk s) := by
  unfold closeClk
  repeat' first
    | (simp +contextual (maxDischargeDepth := 99) only [logDue_sound, sound_mk, *]; done)
    | (extract_lets +onlyGivenNames x; refine (fun (hx : Sound fz qu x) => ?_) ?_; (clear_value x; rotate_left; unfold x; clear x))
    | (extract_lets +onlyGivenNames x; refine (fun (hx : Sound fz qu x.1) => ?_) ?_; (clear_value x; rotate_left; unfold x; clear x))
    | (extract_lets +onlyGivenNames x; clear_value x)
    | with_reducible apply logDue_sound
    | with_reducible apply (sound_mk ..).2
    | dsimp only

theorem evalSet_sound {s : State} (hs : Sound fz qu s) (e : Nat) (i : Nat) (job : Nat) (p : PolicyRec) :
    Sound fz qu (evalSet s e i job p) := by
  unfold evalSet
  repeat' first
    | (simp +contextual (maxDischargeDepth := 99) only [put_sound, bump_sound, raise_sound, ite_sound, *]; done)
    | (extract_lets +onlyGivenNames x; refine (fun (hx : Sound fz qu x) => ?_) ?_; (clear_value x; rotate_left; unfold x; clear x))
    | (extract_lets +onlyGivenNames x; refine (fun (hx : Sound fz qu x.1) => ?_) ?_; (clear_value x; rotate_left; unfold x; clear x))
    | (extract_lets +onlyGivenNames x; clear_value x)
    | split
    | with_reducible apply put_sound
    | with_reducible apply bump_sound
    | with_reducible apply raise_sound
    | dsimp only

theorem evaluate_sound {s : State} (hs : Sound fz qu s) (e : Nat) (i : Nat) (job : Nat) :
    Sound fz qu (evaluate s e i job) := by
  unfold evaluate
  repeat' first
    | (simp +contextual (maxDischargeDepth := 99) only [evalSet_sound, *]; done)
    | split
    | with_reducible apply evalSet_sound
    | dsimp only

theorem jumpWatch_sound {s : State} (hs : Sound fz qu s) (e : Nat) :
    Sound fz qu (jumpWatch s e) := by
  unfold jumpWatch
  repeat' first
    | (simp +contextual (maxDischargeDepth := 99) only [put_sound, ite_sound, *]; done)
    | split
    | with_reducible apply put_sound
    | dsimp only

theorem recordInto_sound {s : State} (hs : Sound fz qu s) (e : Nat) (r : NumRec) :
    Sound fz qu (recordInto s e r) := by
  unfold recordInto
  repeat' first
    | (simp +contextual (maxDischargeDepth := 99) only [bump_sound, clearSet_sound, copySet_sound, setEvald_sound, addRec_sound, takeStep_sound, evaluate_sound, jumpWatch_sound, ite_sound, *]; done)
    | (extract_lets +onlyGivenNames x; refine (fun (hx : Sound fz qu x) => ?_) ?_; (clear_value x; rotate_left; unfold x; clear x))
    | (extract_lets +onlyGivenNames x; refine (fun (hx : Sound fz qu x.1) => ?_) ?_; (clear_value x; rotate_left; unfold x; clear x))
    | (extract_lets +onlyGivenNames x; clear_value x)
    | split
    | with_reducible apply bump_sound
    | with_reducible apply clearSet_sound
    | with_reducible apply copySet_sound
    | with_reducible apply setEvald_sound
    | with_reducible apply addRec_sound
    | with_reducible apply takeStep_sound
    | with_reducible apply evaluate_sound
    | with_reducible apply jumpWatch_sound
    | dsimp only

theorem addTotals_sound {s : State} (hs : Sound fz qu s) (r : NumRec) :
    Sound fz qu (addTotals s r) := by
  unfold addTotals
  repeat' first
    | (simp +contextual (maxDischargeDepth := 99) only [bumpW_sound, *]; done)
    | with_reducible apply bumpW_sound
    | dsimp only

theorem noteBase_sound {s : State} (hs : Sound fz qu s) (e : Nat) :
    Sound fz qu (noteBase s e) := by
  unfold noteBase
  repeat' first
    | (simp +contextual (maxDischargeDepth := 99) only [ite_sound, sound_mk, *]; done)
    | (extract_lets +onlyGivenNames x; refine (fun (hx : Sound fz qu x) => ?_) ?_; (clear_value x; rotate_left; unfold x; clear x))
    | (extract_lets +onlyGivenNames x; refine (fun (hx : Sound fz qu x.1) => ?_) ?_; (clear_value x; rotate_left; unfold x; clear x))
    | (extract_lets +onlyGivenNames x; clear_value x)
    | split
    | with_reducible apply (sound_mk ..).2
    | dsimp only

theorem applyRec_sound {s : State} (hs : Sound fz qu s) (e : Nat) (r : NumRec) :
    Sound fz qu (applyRec e s r) := by
  unfold applyRec
  repeat' first
    | (simp +contextual (maxDischargeDepth := 99) only [recordInto_sound, ite_sound, sound_mk, *]; done)
    | (extract_lets +onlyGivenNames x; refine (fun (hx : Sound fz qu x) => ?_) ?_; (clear_value x; rotate_left; unfold x; clear x))
    | (extract_lets +onlyGivenNames x; refine (fun (hx : Sound fz qu x.1) => ?_) ?_; (clear_value x; rotate_left; unfold x; clear x))
    | (extract_lets +onlyGivenNames x; clear_value x)
    | split
    | with_reducible apply recordInto_sound
    | with_reducible apply (sound_mk ..).2
    | dsimp only

theorem unrecord_sound {s : State} (hs : Sound fz qu s) (e : Nat) :
    Sound fz qu (unrecord s e) := by
  unfold unrecord
  repeat' first
    | (simp +contextual (maxDischargeDepth := 99) only [put_sound, setEvald_sound, sound_mk, each_sound, *]; done)
    | (extract_lets +onlyGivenNames x; refine (fun (hx : Sound fz qu x) => ?_) ?_; (clear_value x; rotate_left; unfold x; clear x))
    | (extract_lets +onlyGivenNames x; refine (fun (hx : Sound fz qu x.1) => ?_) ?_; (clear_value x; rotate_left; unfold x; clear x))
    | (extract_lets +onlyGivenNames x; clear_value x)
    | split
    | with_reducible refine each_sound (fun _ _ _ => ?_) _ ?_
    | with_reducible apply put_sound
    | with_reducible apply setEvald_sound
    | with_reducible apply (sound_mk ..).2
    | dsimp only

theorem replay_sound {s : State} (hs : Sound fz qu s) (e : Nat) :
    Sound fz qu (replay s e) := by
  unfold replay
  repeat' first
    | (simp +contextual (maxDischargeDepth := 99) only [noteBase_sound, applyRec_sound, ite_sound, each_sound, *]; done)
    | split
    | with_reducible refine each_sound (fun _ _ _ => ?_) _ ?_
    | with_reducible apply noteBase_sound
    | with_reducible apply applyRec_sound
    | dsimp only

theorem beforeClk_sound {s : State} {f : State → State} (hs : Sound fz qu s) (hff : ∀ (y0 : State), Sound fz qu y0 → Sound fz qu (f y0)) (e : Nat) :
    Sound fz qu (beforeClk s e f) := by
  unfold beforeClk
  repeat' first
    | (simp +contextual (maxDischargeDepth := 99) only [unrecord_sound, replay_sound, *]; done)
    | with_reducible apply unrecord_sound
    | with_reducible apply replay_sound
    | dsimp only

theorem reachEntry_sound {s : State} (hs : Sound fz qu s) (e : Nat) (r : NumRec) :
    Sound fz qu (reachEntry s e r) := by
  unfold reachEntry
  repeat' first
    | (simp +contextual (maxDischargeDepth := 99) only [noteBase_sound, applyRec_sound, unrecord_sound, replay_sound, ite_sound, sound_mk, *]; done)
    | (extract_lets +onlyGivenNames x; refine (fun (hx : Sound fz qu x) => ?_) ?_; (clear_value x; rotate_left; unfold x; clear x))
    | (extract_lets +onlyGivenNames x; refine (fun (hx : Sound fz qu x.1) => ?_) ?_; (clear_value x; rotate_left; unfold x; clear x))
    | (extract_lets +onlyGivenNames x; clear_value x)
    | split
    | with_reducible apply noteBase_sound
    | with_reducible apply applyRec_sound
    | with_reducible apply unrecord_sound
    | with_reducible apply replay_sound
    | with_reducible apply (sound_mk ..).2
    | dsimp only

theorem takeRecord_sound {s : State} (hs : Sound fz qu s) (r : NumRec) :
    Sound fz qu (takeRecord s r) := by
  unfold takeRecord
  repeat' first
    | (simp +contextual (maxDischargeDepth := 99) only [addTotals_sound, reachEntry_sound, ite_sound, *]; done)
    | split
    | with_reducible apply addTotals_sound
    | with_reducible apply reachEntry_sound
    | dsimp only

theorem execNumEventRecord_sound {s : State} (hs : Sound fz qu s) (i : Nat) :
    Goes fz qu (execNumEventRecord i s) := by
  unfold execNumEventRecord
  repeat' first
    | (simp +contextual (maxDischargeDepth := 99) only [takeRecord_sound, goes_next, sound_mk, *]; done)
    | with_reducible refine goes_next ?_
    | split
    | with_reducible apply takeRecord_sound
    | with_reducible apply (sound_mk ..).2
    | dsimp only

theorem evalOnce_sound {s : State} (hs : Sound fz qu s) (e : Nat) (i : Nat) (job : Nat) :
    Sound fz qu (evalOnce s e i job) := by
  unfold evalOnce
  repeat' first
    | (simp +contextual (maxDischargeDepth := 99) only [setEvald_sound, evaluate_sound, ite_sound, *]; done)
    | split
    | with_reducible apply setEvald_sound
    | with_reducible apply evaluate_sound
    | dsimp only

theorem settleEnt_sound {s : State} (hs : Sound fz qu s) (e : Nat) :
    Sound fz qu (settleEnt s e) := by
  unfold settleEnt
  repeat' first
    | (simp +contextual (maxDischargeDepth := 99) only [logDue_sound, sound_mk, *]; done)
    | (extract_lets +onlyGivenNames x; refine (fun (hx : Sound fz qu x) => ?_) ?_; (clear_value x; rotate_left; unfold x; clear x))
    | (extract_lets +onlyGivenNames x; refine (fun (hx : Sound fz qu x.1) => ?_) ?_; (clear_value x; rotate_left; unfold x; clear x))
    | (extract_lets +onlyGivenNames x; clear_value x)
    | with_reducible apply logDue_sound
    | with_reducible apply (sound_mk ..).2
    | dsimp only

theorem execNmaxr_sound {s : State} (hs : Sound fz qu s) (c : Core) (sl : Slot) (f : RegForm) :
    Goes fz qu (execNmaxr c sl f s) := by
  unfold execNmaxr
  repeat' first
    | (simp +contextual (maxDischargeDepth := 99) only [advance_sound, setSreg_sound, scalarIns_sound, evalOnce_sound, settleEnt_sound, goes_next, *]; done)
    | with_reducible refine goes_next ?_
    | with_reducible refine scalarIns_sound (fun _ _ => ?_) ?_ _ _ _ _ _
    | (extract_lets +onlyGivenNames x; refine (fun (hx : Sound fz qu x) => ?_) ?_; (clear_value x; rotate_left; unfold x; clear x))
    | (extract_lets +onlyGivenNames x; refine (fun (hx : Sound fz qu x.1) => ?_) ?_; (clear_value x; rotate_left; unfold x; clear x))
    | (extract_lets +onlyGivenNames x; clear_value x)
    | split
    | with_reducible apply advance_sound
    | with_reducible apply setSreg_sound
    | with_reducible apply evalOnce_sound
    | with_reducible apply settleEnt_sound
    | dsimp only

theorem clearSets_sound {s : State} (hs : Sound fz qu s) (e : Nat) :
    Sound fz qu (clearSets s e) := by
  unfold clearSets
  repeat' first
    | (simp +contextual (maxDischargeDepth := 99) only [clearSet_sound, setEvald_sound, *]; done)
    | with_reducible apply clearSet_sound
    | with_reducible apply setEvald_sound
    | dsimp only

theorem clearEntry_sound {s : State} (hs : Sound fz qu s) (e : Nat) :
    Sound fz qu (clearEntry s e) := by
  unfold clearEntry
  repeat' first
    | (simp +contextual (maxDischargeDepth := 99) only [beforeClk_sound, clearSets_sound, *]; done)
    | with_reducible refine beforeClk_sound ?_ (fun _ _ => ?_) _
    | with_reducible apply clearSets_sound
    | dsimp only

theorem clearTable_sound {s : State} (h : Sound fz qu s) : Sound fz qu (clearTable s) :=
  ⟨h.1, h.2.1, h.2.2.1, regsFit_filter _ h.2.2.2⟩

theorem clearEntries_sound {s : State} (hs : Sound fz qu s) :
    Sound fz qu (clearEntries s) := by
  unfold clearEntries
  repeat' first
    | (simp +contextual (maxDischargeDepth := 99) only [unrecord_sound, replay_sound, clearTable_sound, each_sound, *]; done)
    | (extract_lets +onlyGivenNames x; refine (fun (hx : Sound fz qu x) => ?_) ?_; (clear_value x; rotate_left; unfold x; clear x))
    | (extract_lets +onlyGivenNames x; refine (fun (hx : Sound fz qu x.1) => ?_) ?_; (clear_value x; rotate_left; unfold x; clear x))
    | (extract_lets +onlyGivenNames x; clear_value x)
    | with_reducible refine each_sound (fun _ _ _ => ?_) _ ?_
    | with_reducible apply unrecord_sound
    | with_reducible apply replay_sound
    | with_reducible apply clearTable_sound
    | dsimp only

theorem opclrWrite_sound {s : State} (hs : Sound fz qu s) (v : Nat) :
    Sound fz qu (opclrWrite s v) := by
  unfold opclrWrite
  repeat' first
    | (simp +contextual (maxDischargeDepth := 99) only [clearEntry_sound, clearEntries_sound, ite_sound, *]; done)
    | split
    | with_reducible apply clearEntry_sound
    | with_reducible apply clearEntries_sound
    | dsimp only

theorem execNumOpclrEntry_sound {s : State} (hs : Sound fz qu s) (entry : BitVec 12) :
    Goes fz qu (execNumOpclrEntry entry s) := by
  unfold execNumOpclrEntry
  repeat' first
    | (simp +contextual (maxDischargeDepth := 99) only [clearEntry_sound, goes_next, onlyIf_sound, *]; done)
    | with_reducible refine goes_next ?_
    | with_reducible refine onlyIf_sound (fun _ _ => ?_) ?_
    | with_reducible apply clearEntry_sound
    | dsimp only

theorem execNumOpclrAll_sound {s : State} (hs : Sound fz qu s) :
    Goes fz qu (execNumOpclrAll s) := by
  unfold execNumOpclrAll
  repeat' first
    | (simp +contextual (maxDischargeDepth := 99) only [clearEntries_sound, goes_next, onlyIf_sound, *]; done)
    | with_reducible refine goes_next ?_
    | with_reducible refine onlyIf_sound (fun _ _ => ?_) ?_
    | with_reducible apply clearEntries_sound
    | dsimp only

theorem setWatch_sound {s : State} (hs : Sound fz qu s) (e : Nat) (v : Nat) :
    Sound fz qu (setWatch s e v) := by
  unfold setWatch
  repeat' first
    | (simp +contextual (maxDischargeDepth := 99) only [put_sound, *]; done)
    | with_reducible apply put_sound
    | dsimp only

theorem silWrite_sound {s : State} (hs : Sound fz qu s) (v : Nat) :
    Sound fz qu (silWrite s v) := by
  unfold silWrite
  repeat' first
    | (simp +contextual (maxDischargeDepth := 99) only [beforeClk_sound, setWatch_sound, *]; done)
    | with_reducible refine beforeClk_sound ?_ (fun _ _ => ?_) _
    | (extract_lets +onlyGivenNames x; refine (fun (hx : Sound fz qu x) => ?_) ?_; (clear_value x; rotate_left; unfold x; clear x))
    | (extract_lets +onlyGivenNames x; refine (fun (hx : Sound fz qu x.1) => ?_) ?_; (clear_value x; rotate_left; unfold x; clear x))
    | (extract_lets +onlyGivenNames x; clear_value x)
    | with_reducible apply setWatch_sound
    | dsimp only

theorem execNumSilWrite_sound {s : State} (hs : Sound fz qu s) (v : BitVec 64) :
    Goes fz qu (execNumSilWrite v s) := by
  unfold execNumSilWrite
  repeat' first
    | (simp +contextual (maxDischargeDepth := 99) only [silWrite_sound, goes_next, onlyIf_sound, *]; done)
    | with_reducible refine goes_next ?_
    | with_reducible refine onlyIf_sound (fun _ _ => ?_) ?_
    | with_reducible apply silWrite_sound
    | dsimp only

theorem seedSets_sound {s : State} (hs : Sound fz qu s) (e : Nat) (mx : Nat) (step : Nat) :
    Sound fz qu (seedSets s e mx step) := by
  unfold seedSets
  repeat' first
    | (simp +contextual (maxDischargeDepth := 99) only [put_sound, clearSet_sound, setEvald_sound, *]; done)
    | (extract_lets +onlyGivenNames x; refine (fun (hx : Sound fz qu x) => ?_) ?_; (clear_value x; rotate_left; unfold x; clear x))
    | (extract_lets +onlyGivenNames x; refine (fun (hx : Sound fz qu x.1) => ?_) ?_; (clear_value x; rotate_left; unfold x; clear x))
    | (extract_lets +onlyGivenNames x; clear_value x)
    | with_reducible apply put_sound
    | with_reducible apply clearSet_sound
    | with_reducible apply setEvald_sound
    | dsimp only

theorem opseedWrite_sound {s : State} (hs : Sound fz qu s) (mx : Nat) (step : Nat) :
    Sound fz qu (opseedWrite s mx step) := by
  unfold opseedWrite
  repeat' first
    | (simp +contextual (maxDischargeDepth := 99) only [beforeClk_sound, seedSets_sound, *]; done)
    | with_reducible refine beforeClk_sound ?_ (fun _ _ => ?_) _
    | (extract_lets +onlyGivenNames x; refine (fun (hx : Sound fz qu x) => ?_) ?_; (clear_value x; rotate_left; unfold x; clear x))
    | (extract_lets +onlyGivenNames x; refine (fun (hx : Sound fz qu x.1) => ?_) ?_; (clear_value x; rotate_left; unfold x; clear x))
    | (extract_lets +onlyGivenNames x; clear_value x)
    | with_reducible apply seedSets_sound
    | dsimp only

theorem execNumOpseedWrite_sound {s : State} (hs : Sound fz qu s) (mx : BitVec 32) (step : BitVec 32) :
    Goes fz qu (execNumOpseedWrite mx step s) := by
  unfold execNumOpseedWrite
  repeat' first
    | (simp +contextual (maxDischargeDepth := 99) only [opseedWrite_sound, goes_next, onlyIf_sound, *]; done)
    | with_reducible refine goes_next ?_
    | with_reducible refine onlyIf_sound (fun _ _ => ?_) ?_
    | with_reducible apply opseedWrite_sound
    | dsimp only

end Sys2Proof.Machine
end

