-- ==== Sys2Proof/Laws/SoundArrays.lean ====
section
/-!
SUPPORT. What the operations and commands of Machine/Arrays.lean keep: the queue, the fused identity, the canonical form of memory,
and registers within their widths.
-/
namespace Sys2Proof.Machine

set_option linter.unusedTactic false
set_option linter.unreachableTactic false
set_option linter.unusedSimpArgs false

variable {fz : Fuses} {qu : List Instr}

theorem bumpSent_sound {s : State} (hs : Sound fz qu s) (c : Nat) (sl : Slot) (a : Nat) :
    Sound fz qu (bumpSent c sl s a) := by
  unfold bumpSent
  repeat' first
    | (simp +contextual (maxDischargeDepth := 99) only [setArr_sound, sound_mk, *]; done)
    | with_reducible apply setArr_sound
    | with_reducible apply (sound_mk ..).2
    | dsimp only

theorem bumpTiles_sound {s : State} (hs : Sound fz qu s) (c : Nat) (sl : Slot) (a : Nat) :
    Sound fz qu (bumpTiles s c sl a) := by
  unfold bumpTiles
  repeat' first
    | (simp +contextual (maxDischargeDepth := 99) only [setSlot_sound, sound_mk, *]; done)
    | with_reducible apply setSlot_sound
    | with_reducible apply (sound_mk ..).2
    | dsimp only

theorem enqueue_sound {s : State} (hs : Sound fz qu s) (c : Nat) (sl : Slot) (kind : TKind) (l : List (Nat × Bool × Bool)) (f : TensorForm) :
    Sound fz qu (enqueue s c sl kind l f) := by
  unfold enqueue
  repeat' first
    | (simp +contextual (maxDischargeDepth := 99) only [setCore_sound, setSlot_sound, setArr_sound, advance_sound, bumpSent_sound, bumpTiles_sound, ite_sound, sound_mk, each_sound, *]; done)
    | (extract_lets +onlyGivenNames x; refine (fun (hx : Sound fz qu x) => ?_) ?_; (clear_value x; rotate_left; unfold x; clear x))
    | (extract_lets +onlyGivenNames x; refine (fun (hx : Sound fz qu x.1) => ?_) ?_; (clear_value x; rotate_left; unfold x; clear x))
    | (extract_lets +onlyGivenNames x; clear_value x)
    | split
    | with_reducible refine each_sound (fun _ _ _ => ?_) _ ?_
    | with_reducible apply setCore_sound
    | with_reducible apply setSlot_sound
    | with_reducible apply setArr_sound
    | with_reducible apply advance_sound
    | with_reducible apply bumpSent_sound
    | with_reducible apply bumpTiles_sound
    | with_reducible apply (sound_mk ..).2
    | dsimp only

theorem tensorIns_sound {s : State} (hs : Sound fz qu s) (op : Nat) (kind : TKind) (c : Core) (sl : Slot) (f : TensorForm) (ok : List (Nat × Bool × Bool) → Bool) (scales : State → Bool) :
    Sound fz qu (tensorIns op kind c sl f ok scales s) := by
  unfold tensorIns
  repeat' first
    | (simp +contextual (maxDischargeDepth := 99) only [abortTask_sound, advance_sound, sequence_sound, enqueue_sound, ite_sound, *]; done)
    | with_reducible refine sequence_sound ?_ (fun _ _ => ?_) _ _ _
    | (extract_lets +onlyGivenNames x; refine (fun (hx : Sound fz qu x) => ?_) ?_; (clear_value x; rotate_left; unfold x; clear x))
    | (extract_lets +onlyGivenNames x; refine (fun (hx : Sound fz qu x.1) => ?_) ?_; (clear_value x; rotate_left; unfold x; clear x))
    | (extract_lets +onlyGivenNames x; clear_value x)
    | split
    | with_reducible apply abortTask_sound
    | with_reducible apply advance_sound
    | with_reducible apply enqueue_sound
    | dsimp only

theorem execTload_sound {s : State} (hs : Sound fz qu s) (c : Core) (sl : Slot) (f : TensorForm) :
    Goes fz qu (execTload c sl f s) := by
  unfold execTload
  repeat' first
    | (simp +contextual (maxDischargeDepth := 99) only [tensorIns_sound, goes_next, *]; done)
    | with_reducible refine goes_next ?_
    | with_reducible apply tensorIns_sound
    | dsimp only

theorem execTstream_sound {s : State} (hs : Sound fz qu s) (c : Core) (sl : Slot) (f : TensorForm) :
    Goes fz qu (execTstream c sl f s) := by
  unfold execTstream
  repeat' first
    | (simp +contextual (maxDischargeDepth := 99) only [tensorIns_sound, goes_next, *]; done)
    | with_reducible refine goes_next ?_
    | with_reducible apply tensorIns_sound
    | dsimp only

theorem execTdrain_sound {s : State} (hs : Sound fz qu s) (c : Core) (sl : Slot) (f : TensorForm) :
    Goes fz qu (execTdrain c sl f s) := by
  unfold execTdrain
  repeat' first
    | (simp +contextual (maxDischargeDepth := 99) only [tensorIns_sound, goes_next, *]; done)
    | with_reducible refine goes_next ?_
    | with_reducible apply tensorIns_sound
    | dsimp only

theorem copyWeights_sound {s : State} (hs : Sound fz qu s) (c : Nat) (p : Nat × Nat × Nat) :
    Sound fz qu (copyWeights c s p) := by
  unfold copyWeights
  repeat' first
    | (simp +contextual (maxDischargeDepth := 99) only [setArr_sound, sound_mk, *]; done)
    | (extract_lets +onlyGivenNames x; refine (fun (hx : Sound fz qu x) => ?_) ?_; (clear_value x; rotate_left; unfold x; clear x))
    | (extract_lets +onlyGivenNames x; refine (fun (hx : Sound fz qu x.1) => ?_) ?_; (clear_value x; rotate_left; unfold x; clear x))
    | (extract_lets +onlyGivenNames x; clear_value x)
    | split
    | with_reducible apply setArr_sound
    | with_reducible apply (sound_mk ..).2
    | dsimp only

theorem runCmdNow_sound {s : State} (hs : Sound fz qu s) (c : Core) (a : ArrId) (q : TCmd) (ws : List (Nat × Option Tile)) :
    Sound fz qu (runCmdNow s c a q ws) := by
  unfold runCmdNow
  repeat' first
    | (simp +contextual (maxDischargeDepth := 99) only [setArr_sound, sound_mk, *]; done)
    | (extract_lets +onlyGivenNames x; refine (fun (hx : Sound fz qu x) => ?_) ?_; (clear_value x; rotate_left; unfold x; clear x))
    | (extract_lets +onlyGivenNames x; refine (fun (hx : Sound fz qu x.1) => ?_) ?_; (clear_value x; rotate_left; unfold x; clear x))
    | (extract_lets +onlyGivenNames x; clear_value x)
    | with_reducible apply setArr_sound
    | with_reducible apply (sound_mk ..).2
    | dsimp only

theorem startStream_sound {s : State} (hs : Sound fz qu s) (c : Core) (a : ArrId) (l : List (Nat × Bool × Bool)) (q : TCmd) :
    Sound fz qu (startStream s c a l q) := by
  unfold startStream
  repeat' first
    | (simp +contextual (maxDischargeDepth := 99) only [abortTask_sound, copyWeights_sound, runCmdNow_sound, ite_sound, each_sound, *]; done)
    | (extract_lets +onlyGivenNames x; refine (fun (hx : Sound fz qu x) => ?_) ?_; (clear_value x; rotate_left; unfold x; clear x))
    | (extract_lets +onlyGivenNames x; refine (fun (hx : Sound fz qu x.1) => ?_) ?_; (clear_value x; rotate_left; unfold x; clear x))
    | (extract_lets +onlyGivenNames x; clear_value x)
    | split
    | with_reducible refine each_sound (fun _ _ _ => ?_) _ ?_
    | with_reducible apply abortTask_sound
    | with_reducible apply copyWeights_sound
    | with_reducible apply runCmdNow_sound
    | dsimp only

theorem execArrayCommandStart_sound {s : State} (hs : Sound fz qu s) (c : Core) (a : ArrId) :
    Goes fz qu (execArrayCommandStart c a s) := by
  unfold execArrayCommandStart
  repeat' first
    | (simp +contextual (maxDischargeDepth := 99) only [runCmdNow_sound, startStream_sound, goes_next, ite_sound, ite_goes, onlyIf_sound, *]; done)
    | with_reducible refine goes_next ?_
    | with_reducible refine onlyIf_sound (fun _ _ => ?_) ?_
    | (extract_lets +onlyGivenNames x; refine (fun (hx : Sound fz qu x) => ?_) ?_; (clear_value x; rotate_left; unfold x; clear x))
    | (extract_lets +onlyGivenNames x; refine (fun (hx : Sound fz qu x.1) => ?_) ?_; (clear_value x; rotate_left; unfold x; clear x))
    | (extract_lets +onlyGivenNames x; clear_value x)
    | split
    | with_reducible apply runCmdNow_sound
    | with_reducible apply startStream_sound
    | dsimp only

theorem endRun_sound {s : State} (hs : Sound fz qu s) (c : Nat) (a : Nat) (q : TCmd) :
    Sound fz qu (endRun s c a q) := by
  unfold endRun
  repeat' first
    | (simp +contextual (maxDischargeDepth := 99) only [setArr_sound, sound_mk, *]; done)
    | with_reducible apply setArr_sound
    | with_reducible apply (sound_mk ..).2
    | dsimp only

theorem arrayRead_sound {s : State} (hs : Sound fz qu s) (c : Core) (q : TCmd) (a : Nat) (n : Nat) :
    Sound fz qu (arrayRead s c q a n).1 := by
  unfold arrayRead
  repeat' first
    | (simp +contextual (maxDischargeDepth := 99) only [readMem_sound, abortTask_sound, tornRead_sound, *]; done)
    | (extract_lets +onlyGivenNames x; refine (fun (hx : Sound fz qu x) => ?_) ?_; (clear_value x; rotate_left; unfold x; clear x))
    | (extract_lets +onlyGivenNames x; refine (fun (hx : Sound fz qu x.1) => ?_) ?_; (clear_value x; rotate_left; unfold x; clear x))
    | (extract_lets +onlyGivenNames x; clear_value x)
    | split
    | with_reducible apply readMem_sound
    | with_reducible apply abortTask_sound
    | with_reducible apply tornRead_sound
    | dsimp only

theorem loadTile_sound {s : State} (hs : Sound fz qu s) (c : Core) (q : TCmd) (moon : Bool) (ij : Nat × Nat) :
    Sound fz qu (loadTile c q moon s ij) := by
  unfold loadTile
  repeat' first
    | (simp +contextual (maxDischargeDepth := 99) only [setArr_sound, arrayRead_sound, sound_mk, *]; done)
    | (extract_lets +onlyGivenNames x; refine (fun (hx : Sound fz qu x) => ?_) ?_; (clear_value x; rotate_left; unfold x; clear x))
    | (extract_lets +onlyGivenNames x; refine (fun (hx : Sound fz qu x.1) => ?_) ?_; (clear_value x; rotate_left; unfold x; clear x))
    | (extract_lets +onlyGivenNames x; clear_value x)
    | split
    | with_reducible apply setArr_sound
    | with_reducible apply arrayRead_sound
    | with_reducible apply (sound_mk ..).2
    | dsimp only

theorem execTloadDone_sound {s : State} (hs : Sound fz qu s) (c : Core) (a : ArrId) :
    Goes fz qu (execTloadDone c a s) := by
  unfold execTloadDone
  repeat' first
    | (simp +contextual (maxDischargeDepth := 99) only [endRun_sound, loadTile_sound, goes_next, onlyIf_sound, each_sound, *]; done)
    | with_reducible refine goes_next ?_
    | with_reducible refine onlyIf_sound (fun _ _ => ?_) ?_
    | (extract_lets +onlyGivenNames x; refine (fun (hx : Sound fz qu x) => ?_) ?_; (clear_value x; rotate_left; unfold x; clear x))
    | (extract_lets +onlyGivenNames x; refine (fun (hx : Sound fz qu x.1) => ?_) ?_; (clear_value x; rotate_left; unfold x; clear x))
    | (extract_lets +onlyGivenNames x; clear_value x)
    | split
    | with_reducible refine each_sound (fun _ _ _ => ?_) _ ?_
    | with_reducible apply endRun_sound
    | with_reducible apply loadTile_sound
    | dsimp only

theorem readRows_sound {s : State} (hs : Sound fz qu s) (c : Core) (q : TCmd) (moon : Bool) (i : Nat) :
    Sound fz qu (readRows s c q moon i).1 := by
  unfold readRows
  repeat' first
    | (simp +contextual (maxDischargeDepth := 99) only [arrayRead_sound, *]; done)
    | (extract_lets +onlyGivenNames x; refine (fun (hx : Sound fz qu x) => ?_) ?_; (clear_value x; rotate_left; unfold x; clear x))
    | (extract_lets +onlyGivenNames x; refine (fun (hx : Sound fz qu x.1) => ?_) ?_; (clear_value x; rotate_left; unfold x; clear x))
    | (extract_lets +onlyGivenNames x; clear_value x)
    | split
    | with_reducible apply arrayRead_sound
    | dsimp only

theorem keepFed_sound {s : State} (hs : Sound fz qu s) (c : Nat) (b : Nat) (sl : Slot) (l : List (Nat × Bool × Bool)) (ord : Nat) (p : Nat × Option RowData) :
    Sound fz qu (keepFed c b sl l ord s p) := by
  unfold keepFed
  repeat' first
    | (simp +contextual (maxDischargeDepth := 99) only [setArr_sound, ite_sound, sound_mk, *]; done)
    | split
    | with_reducible apply setArr_sound
    | with_reducible apply (sound_mk ..).2
    | dsimp only

theorem dropFed_sound {s : State} (hs : Sound fz qu s) (c : Nat) (b : Nat) (sl : Slot) (ord : Nat) :
    Sound fz qu (dropFed c b sl ord s) := by
  unfold dropFed
  repeat' first
    | (simp +contextual (maxDischargeDepth := 99) only [setArr_sound, ite_sound, sound_mk, *]; done)
    | split
    | with_reducible apply setArr_sound
    | with_reducible apply (sound_mk ..).2
    | dsimp only

theorem gatherRows_sound (c : Core) (q : TCmd) (l : List (Nat × Bool × Bool)) (moon : Bool) (ps : List (Nat × Nat × Nat))
    {s : State} (h : Sound fz qu s) (acc : List (Nat × Option RowData)) :
    Sound fz qu (gatherRows c q l moon ps s acc).1 := by
  induction ps generalizing s acc with
  | nil => exact h
  | cons p ps ih =>
    unfold gatherRows
    extract_lets i b first r r2
    clear_value r
    split
    · split
      · exact h
      · exact ih h _
    · have h2 : Sound fz qu r2.1 := readRows_sound h _ _ _ _
      clear_value r2
      split
      · exact h2
      · exact ih h2 _

theorem rowsReadNow_sound {s : State} (hs : Sound fz qu s) (c : Core) (a : Nat) (q : TCmd) (l : List (Nat × Bool × Bool)) (rows : List (Nat × Option RowData)) :
    Sound fz qu (rowsReadNow s c a q l rows) := by
  unfold rowsReadNow
  repeat' first
    | (simp +contextual (maxDischargeDepth := 99) only [setArr_sound, tcAdd_sound, keepFed_sound, dropFed_sound, ite_sound, sound_mk, each_sound, *]; done)
    | (extract_lets +onlyGivenNames x; refine (fun (hx : Sound fz qu x) => ?_) ?_; (clear_value x; rotate_left; unfold x; clear x))
    | (extract_lets +onlyGivenNames x; refine (fun (hx : Sound fz qu x.1) => ?_) ?_; (clear_value x; rotate_left; unfold x; clear x))
    | (extract_lets +onlyGivenNames x; clear_value x)
    | split
    | with_reducible refine each_sound (fun _ _ _ => ?_) _ ?_
    | with_reducible apply setArr_sound
    | with_reducible apply tcAdd_sound
    | with_reducible apply keepFed_sound
    | with_reducible apply dropFed_sound
    | with_reducible apply (sound_mk ..).2
    | dsimp only

theorem execTstreamRowsRead_sound {s : State} (hs : Sound fz qu s) (c : Core) (a : ArrId) :
    Goes fz qu (execTstreamRowsRead c a s) := by
  unfold execTstreamRowsRead
  repeat' first
    | (simp +contextual (maxDischargeDepth := 99) only [abortTask_sound, gatherRows_sound, rowsReadNow_sound, goes_next, ite_sound, ite_goes, onlyIf_sound, *]; done)
    | with_reducible refine goes_next ?_
    | with_reducible refine onlyIf_sound (fun _ _ => ?_) ?_
    | (extract_lets +onlyGivenNames x; refine (fun (hx : Sound fz qu x) => ?_) ?_; (clear_value x; rotate_left; unfold x; clear x))
    | (extract_lets +onlyGivenNames x; refine (fun (hx : Sound fz qu x.1) => ?_) ?_; (clear_value x; rotate_left; unfold x; clear x))
    | (extract_lets +onlyGivenNames x; clear_value x)
    | split
    | with_reducible apply abortTask_sound
    | with_reducible apply gatherRows_sound
    | with_reducible apply rowsReadNow_sound
    | dsimp only

theorem countSlots_sound {s : State} (hs : Sound fz qu s) (c : Core) (moon : Bool) (p : Nat × Option RowData × Option Tile) :
    Sound fz qu (countSlots c moon s p) := by
  unfold countSlots
  repeat' first
    | (simp +contextual (maxDischargeDepth := 99) only [bumpW_sound, freeTick_sound, ite_sound, *]; done)
    | (extract_lets +onlyGivenNames x; refine (fun (hx : Sound fz qu x) => ?_) ?_; (clear_value x; rotate_left; unfold x; clear x))
    | (extract_lets +onlyGivenNames x; refine (fun (hx : Sound fz qu x.1) => ?_) ?_; (clear_value x; rotate_left; unfold x; clear x))
    | (extract_lets +onlyGivenNames x; clear_value x)
    | split
    | with_reducible apply bumpW_sound
    | with_reducible apply freeTick_sound
    | dsimp only

theorem freeRef_sound (n : Nat) {s : State} (h : Sound fz qu s) : Sound fz qu (freeRef s n).1 := by
  induction n generalizing s with
  | zero => exact h
  | succ n ih => exact ih (freeTick_sound h)

theorem shadowPass_sound {s : State} (hs : Sound fz qu s) (c : Core) (a : Nat) (q : TCmd) (p : Option RowData × Option Tile) :
    Sound fz qu (shadowPass s c a q p) := by
  unfold shadowPass
  repeat' first
    | (simp +contextual (maxDischargeDepth := 99) only [bump_sound, setArr_sound, freeRef_sound, ite_sound, sound_mk, *]; done)
    | (extract_lets +onlyGivenNames x; refine (fun (hx : Sound fz qu x) => ?_) ?_; (clear_value x; rotate_left; unfold x; clear x))
    | (extract_lets +onlyGivenNames x; refine (fun (hx : Sound fz qu x.1) => ?_) ?_; (clear_value x; rotate_left; unfold x; clear x))
    | (extract_lets +onlyGivenNames x; clear_value x)
    | split
    | with_reducible apply bump_sound
    | with_reducible apply setArr_sound
    | with_reducible apply freeRef_sound
    | with_reducible apply (sound_mk ..).2
    | dsimp only

theorem arrayCodes_sound {s : State} (hs : Sound fz qu s) (c : Core) (mem : List Nat) (weights : Bool) (bank : Bool) (sl : Slot) :
    Sound fz qu (arrayCodes s c mem weights bank sl).1 := by
  unfold arrayCodes
  repeat' first
    | (simp +contextual (maxDischargeDepth := 99) only [bump_sound, abortTask_sound, ite_sound, sound_mk, *]; done)
    | (extract_lets +onlyGivenNames x; refine (fun (hx : Sound fz qu x) => ?_) ?_; (clear_value x; rotate_left; unfold x; clear x))
    | (extract_lets +onlyGivenNames x; refine (fun (hx : Sound fz qu x.1) => ?_) ?_; (clear_value x; rotate_left; unfold x; clear x))
    | (extract_lets +onlyGivenNames x; clear_value x)
    | split
    | with_reducible apply bump_sound
    | with_reducible apply abortTask_sound
    | with_reducible apply (sound_mk ..).2
    | dsimp only

theorem finishPass_sound {s : State} (hs : Sound fz qu s) (c : Core) (a : ArrId) (r : RunCmd) (l : List (Nat × Bool × Bool)) :
    Sound fz qu (finishPass s c a r l) := by
  unfold finishPass
  repeat' first
    | (simp +contextual (maxDischargeDepth := 99) only [bump_sound, setArr_sound, fileRecord_sound, endRun_sound, countSlots_sound, shadowPass_sound, ite_sound, sound_mk, each_sound, *]; done)
    | (extract_lets +onlyGivenNames x; refine (fun (hx : Sound fz qu x) => ?_) ?_; (clear_value x; rotate_left; unfold x; clear x))
    | (extract_lets +onlyGivenNames x; refine (fun (hx : Sound fz qu x.1) => ?_) ?_; (clear_value x; rotate_left; unfold x; clear x))
    | (extract_lets +onlyGivenNames x; clear_value x)
    | split
    | with_reducible refine each_sound (fun _ _ _ => ?_) _ ?_
    | with_reducible apply bump_sound
    | with_reducible apply setArr_sound
    | with_reducible apply fileRecord_sound
    | with_reducible apply endRun_sound
    | with_reducible apply countSlots_sound
    | with_reducible apply shadowPass_sound
    | with_reducible apply (sound_mk ..).2
    | dsimp only

theorem execTstreamPassDone_sound {s : State} (hs : Sound fz qu s) (c : Core) (a : ArrId) :
    Goes fz qu (execTstreamPassDone c a s) := by
  unfold execTstreamPassDone
  repeat' first
    | (simp +contextual (maxDischargeDepth := 99) only [arrayCodes_sound, finishPass_sound, goes_next, ite_sound, ite_goes, *]; done)
    | with_reducible refine goes_next ?_
    | (extract_lets +onlyGivenNames x; refine (fun (hx : Sound fz qu x) => ?_) ?_; (clear_value x; rotate_left; unfold x; clear x))
    | (extract_lets +onlyGivenNames x; refine (fun (hx : Sound fz qu x.1) => ?_) ?_; (clear_value x; rotate_left; unfold x; clear x))
    | (extract_lets +onlyGivenNames x; clear_value x)
    | split
    | with_reducible apply arrayCodes_sound
    | with_reducible apply finishPass_sound
    | dsimp only

theorem entryNum_sound {s : State} (hs : Sound fz qu s) (e : Entry) :
    Sound fz qu (entryNum s e).1 := by
  unfold entryNum
  repeat' first
    | (simp +contextual (maxDischargeDepth := 99) only [freeTick_sound, *]; done)
    | split
    | with_reducible apply freeTick_sound
    | dsimp only

theorem drainVals_sound (b : Bank) (n i : Nat) {s : State} (h : Sound fz qu s) : Sound fz qu (drainVals b n i s).1 := by
  induction n generalizing s i with
  | zero => exact h
  | succ n ih => exact ih _ (entryNum_sound h _)

theorem recordWorst_sound {s : State} (hs : Sound fz qu s) (c : Core) (a : Nat) (q : TCmd) (b : Nat) (j : Nat) (x : Num) (r : Num) :
    Sound fz qu (recordWorst s c a q b j x r) := by
  unfold recordWorst
  repeat' first
    | (simp +contextual (maxDischargeDepth := 99) only [put_sound, ite_sound, sound_mk, *]; done)
    | (extract_lets +onlyGivenNames x; refine (fun (hx : Sound fz qu x) => ?_) ?_; (clear_value x; rotate_left; unfold x; clear x))
    | (extract_lets +onlyGivenNames x; refine (fun (hx : Sound fz qu x.1) => ?_) ?_; (clear_value x; rotate_left; unfold x; clear x))
    | (extract_lets +onlyGivenNames x; clear_value x)
    | split
    | with_reducible apply put_sound
    | with_reducible apply (sound_mk ..).2
    | dsimp only

theorem shadowEvent_sound {s : State} (hs : Sound fz qu s) (c : Core) (a : Nat) (q : TCmd) (b : Nat) :
    Sound fz qu (shadowEvent s c a q b) := by
  unfold shadowEvent
  repeat' first
    | (simp +contextual (maxDischargeDepth := 99) only [bump_sound, logEvt_sound, setCore_sound, ite_sound, sound_mk, *]; done)
    | (extract_lets +onlyGivenNames x; refine (fun (hx : Sound fz qu x) => ?_) ?_; (clear_value x; rotate_left; unfold x; clear x))
    | (extract_lets +onlyGivenNames x; refine (fun (hx : Sound fz qu x.1) => ?_) ?_; (clear_value x; rotate_left; unfold x; clear x))
    | (extract_lets +onlyGivenNames x; clear_value x)
    | split
    | with_reducible apply bump_sound
    | with_reducible apply logEvt_sound
    | with_reducible apply setCore_sound
    | with_reducible apply (sound_mk ..).2
    | dsimp only

theorem compareTile_sound {s : State} (hs : Sound fz qu s) (c : Core) (a : Nat) (q : TCmd) (out : List Nat × List Nat × Counts) :
    Sound fz qu (compareTile s c a q out) := by
  unfold compareTile
  repeat' first
    | (simp +contextual (maxDischargeDepth := 99) only [bumpW_sound, setArr_sound, recordWorst_sound, shadowEvent_sound, ite_sound, sound_mk, each_sound, *]; done)
    | (extract_lets +onlyGivenNames x; refine (fun (hx : Sound fz qu x) => ?_) ?_; (clear_value x; rotate_left; unfold x; clear x))
    | (extract_lets +onlyGivenNames x; refine (fun (hx : Sound fz qu x.1) => ?_) ?_; (clear_value x; rotate_left; unfold x; clear x))
    | (extract_lets +onlyGivenNames x; clear_value x)
    | split
    | with_reducible refine each_sound (fun _ _ _ => ?_) _ ?_
    | with_reducible apply bumpW_sound
    | with_reducible apply setArr_sound
    | with_reducible apply recordWorst_sound
    | with_reducible apply shadowEvent_sound
    | with_reducible apply (sound_mk ..).2
    | dsimp only

theorem finishDrain_sound {s : State} (hs : Sound fz qu s) (c : Core) (a : ArrId) (q : TCmd) (l : List (Nat × Bool × Bool)) :
    Sound fz qu (finishDrain s c a q l) := by
  unfold finishDrain
  repeat' first
    | (simp +contextual (maxDischargeDepth := 99) only [writeMem_sound, tcAdd_sound, abortTask_sound, fileRecord_sound, endRun_sound, drainVals_sound, compareTile_sound, ite_sound, *]; done)
    | (extract_lets +onlyGivenNames x; refine (fun (hx : Sound fz qu x) => ?_) ?_; (clear_value x; rotate_left; unfold x; clear x))
    | (extract_lets +onlyGivenNames x; refine (fun (hx : Sound fz qu x.1) => ?_) ?_; (clear_value x; rotate_left; unfold x; clear x))
    | (extract_lets +onlyGivenNames x; clear_value x)
    | split
    | with_reducible apply writeMem_sound
    | with_reducible apply tcAdd_sound
    | with_reducible apply abortTask_sound
    | with_reducible apply fileRecord_sound
    | with_reducible apply endRun_sound
    | with_reducible apply drainVals_sound
    | with_reducible apply compareTile_sound
    | dsimp only

theorem execTdrainDone_sound {s : State} (hs : Sound fz qu s) (c : Core) (a : ArrId) :
    Goes fz qu (execTdrainDone c a s) := by
  unfold execTdrainDone
  repeat' first
    | (simp +contextual (maxDischargeDepth := 99) only [arrayCodes_sound, finishDrain_sound, goes_next, ite_sound, ite_goes, *]; done)
    | with_reducible refine goes_next ?_
    | (extract_lets +onlyGivenNames x; refine (fun (hx : Sound fz qu x) => ?_) ?_; (clear_value x; rotate_left; unfold x; clear x))
    | (extract_lets +onlyGivenNames x; refine (fun (hx : Sound fz qu x.1) => ?_) ?_; (clear_value x; rotate_left; unfold x; clear x))
    | (extract_lets +onlyGivenNames x; clear_value x)
    | split
    | with_reducible apply arrayCodes_sound
    | with_reducible apply finishDrain_sound
    | dsimp only

end Sys2Proof.Machine
end

