-- ==== Sys2Proof/Laws/SoundNet.lean ====
section
/-!
SUPPORT. What the operations and commands of Machine/Net.lean keep: the queue, the fused identity, the canonical form of memory,
and registers within their widths.
-/
namespace Sys2Proof.Machine

set_option linter.unusedTactic false
set_option linter.unreachableTactic false
set_option linter.unusedSimpArgs false

variable {fz : Fuses} {qu : List Instr}

theorem setLink_sound {s : State} (hs : Sound fz qu s) (p : Nat) (x : LinkSt) :
    Sound fz qu (setLink s p x) := by
  unfold setLink
  repeat' first
    | (simp +contextual (maxDischargeDepth := 99) only [sound_mk, *]; done)
    | with_reducible apply (sound_mk ..).2
    | dsimp only

theorem emitFlit_sound {s : State} (hs : Sound fz qu s) (p : Nat) (f : BitVec 2048) :
    Sound fz qu (emitFlit s p f) := by
  unfold emitFlit
  repeat' first
    | (simp +contextual (maxDischargeDepth := 99) only [emit_sound, ite_sound, *]; done)
    | split
    | with_reducible apply emit_sound
    | dsimp only

theorem sendFlit_sound {s : State} (hs : Sound fz qu s) (p : Nat) (type : Nat) (payload : Nat) :
    Sound fz qu (sendFlit s p type payload) := by
  unfold sendFlit
  repeat' first
    | (simp +contextual (maxDischargeDepth := 99) only [emitFlit_sound, *]; done)
    | with_reducible apply emitFlit_sound
    | dsimp only

theorem pumpFlits_sound {s : State} (hs : Sound fz qu s) (p : Nat) :
    Sound fz qu (pumpFlits s p) := by
  unfold pumpFlits
  repeat' first
    | (simp +contextual (maxDischargeDepth := 99) only [setLink_sound, emitFlit_sound, ite_sound, sound_mk, each_sound, *]; done)
    | (extract_lets +onlyGivenNames x; refine (fun (hx : Sound fz qu x) => ?_) ?_; (clear_value x; rotate_left; unfold x; clear x))
    | (extract_lets +onlyGivenNames x; refine (fun (hx : Sound fz qu x.1) => ?_) ?_; (clear_value x; rotate_left; unfold x; clear x))
    | (extract_lets +onlyGivenNames x; clear_value x)
    | split
    | with_reducible refine each_sound (fun _ _ _ => ?_) _ ?_
    | with_reducible apply setLink_sound
    | with_reducible apply emitFlit_sound
    | with_reducible apply (sound_mk ..).2
    | dsimp only

theorem queueFlit_sound {s : State} (hs : Sound fz qu s) (p : Nat) (b : Bytes) :
    Sound fz qu (queueFlit s p b) := by
  unfold queueFlit
  repeat' first
    | (simp +contextual (maxDischargeDepth := 99) only [setLink_sound, pumpFlits_sound, sound_mk, *]; done)
    | (extract_lets +onlyGivenNames x; refine (fun (hx : Sound fz qu x) => ?_) ?_; (clear_value x; rotate_left; unfold x; clear x))
    | (extract_lets +onlyGivenNames x; refine (fun (hx : Sound fz qu x.1) => ?_) ?_; (clear_value x; rotate_left; unfold x; clear x))
    | (extract_lets +onlyGivenNames x; clear_value x)
    | with_reducible apply setLink_sound
    | with_reducible apply pumpFlits_sound
    | with_reducible apply (sound_mk ..).2
    | dsimp only

theorem sendFlits_sound {s : State} (hs : Sound fz qu s) (p : Nat) (b : Bytes) :
    Sound fz qu (sendFlits s p b) := by
  unfold sendFlits
  repeat' first
    | (simp +contextual (maxDischargeDepth := 99) only [setLink_sound, queueFlit_sound, sound_mk, each_sound, *]; done)
    | (extract_lets +onlyGivenNames x; refine (fun (hx : Sound fz qu x) => ?_) ?_; (clear_value x; rotate_left; unfold x; clear x))
    | (extract_lets +onlyGivenNames x; refine (fun (hx : Sound fz qu x.1) => ?_) ?_; (clear_value x; rotate_left; unfold x; clear x))
    | (extract_lets +onlyGivenNames x; clear_value x)
    | with_reducible refine each_sound (fun _ _ _ => ?_) _ ?_
    | with_reducible apply setLink_sound
    | with_reducible apply queueFlit_sound
    | with_reducible apply (sound_mk ..).2
    | dsimp only

theorem flushLink_sound {s : State} (hs : Sound fz qu s) (p : Nat) :
    Sound fz qu (flushLink s p) := by
  unfold flushLink
  repeat' first
    | (simp +contextual (maxDischargeDepth := 99) only [setLink_sound, queueFlit_sound, ite_sound, sound_mk, *]; done)
    | (extract_lets +onlyGivenNames x; refine (fun (hx : Sound fz qu x) => ?_) ?_; (clear_value x; rotate_left; unfold x; clear x))
    | (extract_lets +onlyGivenNames x; refine (fun (hx : Sound fz qu x.1) => ?_) ?_; (clear_value x; rotate_left; unfold x; clear x))
    | (extract_lets +onlyGivenNames x; clear_value x)
    | split
    | with_reducible apply setLink_sound
    | with_reducible apply queueFlit_sound
    | with_reducible apply (sound_mk ..).2
    | dsimp only

theorem flushLinks_sound {s : State} (hs : Sound fz qu s) :
    Sound fz qu (flushLinks s) := by
  unfold flushLinks
  repeat' first
    | (simp +contextual (maxDischargeDepth := 99) only [flushLink_sound, each_sound, *]; done)
    | split
    | with_reducible refine each_sound (fun _ _ _ => ?_) _ ?_
    | with_reducible apply flushLink_sound
    | dsimp only

theorem sendPacket_sound {s : State} (hs : Sound fz qu s) (k : Packet) :
    Sound fz qu (sendPacket s k) := by
  unfold sendPacket
  repeat' first
    | (simp +contextual (maxDischargeDepth := 99) only [emit_sound, sendFlits_sound, onlyIf_sound, *]; done)
    | with_reducible refine onlyIf_sound (fun _ _ => ?_) ?_
    | with_reducible apply emit_sound
    | with_reducible apply sendFlits_sound
    | dsimp only

theorem sendFrame_sound {s : State} (hs : Sound fz qu s) (p : Nat) (f : RoceOut) :
    Sound fz qu (sendFrame s p f) := by
  unfold sendFrame
  repeat' first
    | (simp +contextual (maxDischargeDepth := 99) only [emit_sound, setLink_sound, ite_sound, sound_mk, *]; done)
    | (extract_lets +onlyGivenNames x; refine (fun (hx : Sound fz qu x) => ?_) ?_; (clear_value x; rotate_left; unfold x; clear x))
    | (extract_lets +onlyGivenNames x; refine (fun (hx : Sound fz qu x.1) => ?_) ?_; (clear_value x; rotate_left; unfold x; clear x))
    | (extract_lets +onlyGivenNames x; clear_value x)
    | split
    | with_reducible apply emit_sound
    | with_reducible apply setLink_sound
    | with_reducible apply (sound_mk ..).2
    | dsimp only

theorem sendUnacked_sound {s : State} (hs : Sound fz qu s) (x : Nat) (u : Unacked) :
    Sound fz qu (sendUnacked s x u) := by
  unfold sendUnacked
  repeat' first
    | (simp +contextual (maxDischargeDepth := 99) only [sendPacket_sound, sendFrame_sound, ite_sound, *]; done)
    | split
    | with_reducible apply sendPacket_sound
    | with_reducible apply sendFrame_sound
    | dsimp only

theorem setCtx_sound {s : State} (hs : Sound fz qu s) (x : Nat) (k : CtxSt) :
    Sound fz qu (setCtx s x k) := by
  unfold setCtx
  repeat' first
    | (simp +contextual (maxDischargeDepth := 99) only [sound_mk, *]; done)
    | with_reducible apply (sound_mk ..).2
    | dsimp only

theorem launchPkt_sound {s : State} (hs : Sound fz qu s) (x : Nat) (u : Unacked) :
    Sound fz qu (launchPkt s x u) := by
  unfold launchPkt
  repeat' first
    | (simp +contextual (maxDischargeDepth := 99) only [sendUnacked_sound, setCtx_sound, ite_sound, sound_mk, *]; done)
    | (extract_lets +onlyGivenNames x; refine (fun (hx : Sound fz qu x) => ?_) ?_; (clear_value x; rotate_left; unfold x; clear x))
    | (extract_lets +onlyGivenNames x; refine (fun (hx : Sound fz qu x.1) => ?_) ?_; (clear_value x; rotate_left; unfold x; clear x))
    | (extract_lets +onlyGivenNames x; clear_value x)
    | split
    | with_reducible apply sendUnacked_sound
    | with_reducible apply setCtx_sound
    | with_reducible apply (sound_mk ..).2
    | dsimp only

theorem pushPkt_sound {s : State} (hs : Sound fz qu s) (x : Nat) (u : Unacked) :
    Sound fz qu (pushPkt s x u) := by
  unfold pushPkt
  repeat' first
    | (simp +contextual (maxDischargeDepth := 99) only [setCtx_sound, launchPkt_sound, ite_sound, sound_mk, *]; done)
    | (extract_lets +onlyGivenNames x; refine (fun (hx : Sound fz qu x) => ?_) ?_; (clear_value x; rotate_left; unfold x; clear x))
    | (extract_lets +onlyGivenNames x; refine (fun (hx : Sound fz qu x.1) => ?_) ?_; (clear_value x; rotate_left; unfold x; clear x))
    | (extract_lets +onlyGivenNames x; clear_value x)
    | split
    | with_reducible apply setCtx_sound
    | with_reducible apply launchPkt_sound
    | with_reducible apply (sound_mk ..).2
    | dsimp only

theorem pullQueue_sound (x n : Nat) {s : State} (h : Sound fz qu s) : Sound fz qu (pullQueue x n s) := by
  induction n generalizing s with
  | zero => exact h
  | succ n ih =>
    unfold pullQueue
    split
    · exact h
    · split
      · exact ih (launchPkt_sound (setCtx_sound h _ _) _ _)
      · exact h

theorem takePsn_sound {s : State} (hs : Sound fz qu s) (x : Nat) (p : Nat) (n : Nat) :
    Sound fz qu (takePsn s x p n).1 := by
  unfold takePsn
  repeat' first
    | (simp +contextual (maxDischargeDepth := 99) only [put_sound, setCtx_sound, ite_sound, sound_mk, *]; done)
    | (extract_lets +onlyGivenNames x; refine (fun (hx : Sound fz qu x) => ?_) ?_; (clear_value x; rotate_left; unfold x; clear x))
    | (extract_lets +onlyGivenNames x; refine (fun (hx : Sound fz qu x.1) => ?_) ?_; (clear_value x; rotate_left; unfold x; clear x))
    | (extract_lets +onlyGivenNames x; clear_value x)
    | split
    | with_reducible apply put_sound
    | with_reducible apply setCtx_sound
    | with_reducible apply (sound_mk ..).2
    | dsimp only

theorem sendOn_sound {s : State} (hs : Sound fz qu s) (x : Nat) (p : Nat) (op : Nat) (h : MolHdr) (data : Bytes) (o : Owner) (at_ : Nat) (last : Bool) :
    Sound fz qu (sendOn s x p op h data o at_ last) := by
  unfold sendOn
  repeat' first
    | (simp +contextual (maxDischargeDepth := 99) only [pushPkt_sound, takePsn_sound, sound_mk, *]; done)
    | (extract_lets +onlyGivenNames x; refine (fun (hx : Sound fz qu x) => ?_) ?_; (clear_value x; rotate_left; unfold x; clear x))
    | (extract_lets +onlyGivenNames x; refine (fun (hx : Sound fz qu x.1) => ?_) ?_; (clear_value x; rotate_left; unfold x; clear x))
    | (extract_lets +onlyGivenNames x; clear_value x)
    | split
    | with_reducible apply pushPkt_sound
    | with_reducible apply takePsn_sound
    | with_reducible apply (sound_mk ..).2
    | dsimp only

theorem sendMol_sound {s : State} (hs : Sound fz qu s) (job : Nat) (x : Nat) (op : Nat) (striped : Bool) (key : Nat) (addr : Nat) (first : Nat) (parts : List Part) (o : Owner) (ends : Bool) :
    Sound fz qu (sendMol s job x op striped key addr first parts o ends) := by
  unfold sendMol
  repeat' first
    | (simp +contextual (maxDischargeDepth := 99) only [sendOn_sound, each_sound, *]; done)
    | (extract_lets +onlyGivenNames x; refine (fun (hx : Sound fz qu x) => ?_) ?_; (clear_value x; rotate_left; unfold x; clear x))
    | (extract_lets +onlyGivenNames x; refine (fun (hx : Sound fz qu x.1) => ?_) ?_; (clear_value x; rotate_left; unfold x; clear x))
    | (extract_lets +onlyGivenNames x; clear_value x)
    | split
    | with_reducible refine each_sound (fun _ _ _ => ?_) _ ?_
    | with_reducible apply sendOn_sound
    | dsimp only

theorem sendRoce_sound {s : State} (hs : Sound fz qu s) (job : Nat) (x : Nat) (op : Nat) (n : Nat) (key : Nat) (addr : Nat) (data : Bytes) (o : Owner) (at_ : Nat) (last : Bool) :
    Sound fz qu (sendRoce s job x op n key addr data o at_ last) := by
  unfold sendRoce
  repeat' first
    | (simp +contextual (maxDischargeDepth := 99) only [pushPkt_sound, takePsn_sound, sound_mk, *]; done)
    | (extract_lets +onlyGivenNames x; refine (fun (hx : Sound fz qu x) => ?_) ?_; (clear_value x; rotate_left; unfold x; clear x))
    | (extract_lets +onlyGivenNames x; refine (fun (hx : Sound fz qu x.1) => ?_) ?_; (clear_value x; rotate_left; unfold x; clear x))
    | (extract_lets +onlyGivenNames x; clear_value x)
    | split
    | with_reducible apply pushPkt_sound
    | with_reducible apply takePsn_sound
    | with_reducible apply (sound_mk ..).2
    | dsimp only

theorem roceWrite_sound {s : State} (hs : Sound fz qu s) (job : Nat) (x : Nat) (key : Nat) (addr : Nat) (data : Bytes) (o : Owner) (at_ : Nat) :
    Sound fz qu (roceWrite s job x key addr data o at_).1 := by
  unfold roceWrite
  repeat' first
    | (simp +contextual (maxDischargeDepth := 99) only [sendRoce_sound, each_sound, *]; done)
    | split
    | with_reducible refine each_sound (fun _ _ _ => ?_) _ ?_
    | with_reducible apply sendRoce_sound
    | dsimp only

theorem roceRead_sound {s : State} (hs : Sound fz qu s) (job : Nat) (x : Nat) (key : Nat) (addr : Nat) (n : Nat) (o : Owner) (at_ : Nat) :
    Sound fz qu (roceRead s job x key addr n o at_).1 := by
  unfold roceRead
  repeat' first
    | (simp +contextual (maxDischargeDepth := 99) only [sendRoce_sound, *]; done)
    | split
    | with_reducible apply sendRoce_sound
    | dsimp only

theorem sendBoard_sound {s : State} (hs : Sound fz qu s) (job : Nat) (slot : Nat) (op : Nat) (addr : Nat) (data : Bytes) (o : Owner) (at_ : Nat) :
    Sound fz qu (sendBoard s job slot op addr data o at_) := by
  unfold sendBoard
  repeat' first
    | (simp +contextual (maxDischargeDepth := 99) only [sendOn_sound, *]; done)
    | (extract_lets +onlyGivenNames x; refine (fun (hx : Sound fz qu x) => ?_) ?_; (clear_value x; rotate_left; unfold x; clear x))
    | (extract_lets +onlyGivenNames x; refine (fun (hx : Sound fz qu x.1) => ?_) ?_; (clear_value x; rotate_left; unfold x; clear x))
    | (extract_lets +onlyGivenNames x; clear_value x)
    | with_reducible apply sendOn_sound
    | dsimp only

theorem tailWrite_sound {s : State} (hs : Sound fz qu s) (job : Nat) (o : Nat) (data : Bytes) (w : Owner) (at_ : Nat) :
    Sound fz qu (tailWrite s job o data w at_).1 := by
  unfold tailWrite
  repeat' first
    | (simp +contextual (maxDischargeDepth := 99) only [roceWrite_sound, *]; done)
    | (extract_lets +onlyGivenNames x; refine (fun (hx : Sound fz qu x) => ?_) ?_; (clear_value x; rotate_left; unfold x; clear x))
    | (extract_lets +onlyGivenNames x; refine (fun (hx : Sound fz qu x.1) => ?_) ?_; (clear_value x; rotate_left; unfold x; clear x))
    | (extract_lets +onlyGivenNames x; clear_value x)
    | split
    | with_reducible apply roceWrite_sound
    | dsimp only

theorem tailRead_sound {s : State} (hs : Sound fz qu s) (job : Nat) (o : Nat) (n : Nat) (w : Owner) (at_ : Nat) :
    Sound fz qu (tailRead s job o n w at_).1 := by
  unfold tailRead
  repeat' first
    | (simp +contextual (maxDischargeDepth := 99) only [roceRead_sound, *]; done)
    | (extract_lets +onlyGivenNames x; refine (fun (hx : Sound fz qu x) => ?_) ?_; (clear_value x; rotate_left; unfold x; clear x))
    | (extract_lets +onlyGivenNames x; refine (fun (hx : Sound fz qu x.1) => ?_) ?_; (clear_value x; rotate_left; unfold x; clear x))
    | (extract_lets +onlyGivenNames x; clear_value x)
    | split
    | with_reducible apply roceRead_sound
    | dsimp only

theorem ownerStep_sound {s : State} (hs : Sound fz qu s) (o : Owner) :
    Sound fz qu (ownerStep s o) := by
  unfold ownerStep
  repeat' first
    | (simp +contextual (maxDischargeDepth := 99) only [setCore_sound, ite_sound, sound_mk, *]; done)
    | (extract_lets +onlyGivenNames x; refine (fun (hx : Sound fz qu x) => ?_) ?_; (clear_value x; rotate_left; unfold x; clear x))
    | (extract_lets +onlyGivenNames x; refine (fun (hx : Sound fz qu x.1) => ?_) ?_; (clear_value x; rotate_left; unfold x; clear x))
    | (extract_lets +onlyGivenNames x; clear_value x)
    | split
    | with_reducible apply setCore_sound
    | with_reducible apply (sound_mk ..).2
    | dsimp only

theorem ackWhere_sound {s : State} (hs : Sound fz qu s) (x : Nat) (f : Unacked → Bool) :
    Sound fz qu (ackWhere s x f) := by
  unfold ackWhere
  repeat' first
    | (simp +contextual (maxDischargeDepth := 99) only [setCtx_sound, pullQueue_sound, ownerStep_sound, ite_sound, sound_mk, each_sound, *]; done)
    | (extract_lets +onlyGivenNames x; refine (fun (hx : Sound fz qu x) => ?_) ?_; (clear_value x; rotate_left; unfold x; clear x))
    | (extract_lets +onlyGivenNames x; refine (fun (hx : Sound fz qu x.1) => ?_) ?_; (clear_value x; rotate_left; unfold x; clear x))
    | (extract_lets +onlyGivenNames x; clear_value x)
    | split
    | with_reducible refine each_sound (fun _ _ _ => ?_) _ ?_
    | with_reducible apply setCtx_sound
    | with_reducible apply pullQueue_sound
    | with_reducible apply ownerStep_sound
    | with_reducible apply (sound_mk ..).2
    | dsimp only

theorem resend_sound {s : State} (hs : Sound fz qu s) (x : Nat) (f : Unacked → Bool) :
    Sound fz qu (resend s x f) := by
  unfold resend
  repeat' first
    | (simp +contextual (maxDischargeDepth := 99) only [sendUnacked_sound, each_sound, *]; done)
    | with_reducible refine each_sound (fun _ _ _ => ?_) _ ?_
    | with_reducible apply sendUnacked_sound
    | dsimp only

end Sys2Proof.Machine
end

