-- ==== Sys2Proof/Laws/SoundMoves.lean ====
section
/-!
SUPPORT. What the operations and commands of Machine/Moves.lean keep: the queue, the fused identity, the canonical form of memory,
and registers within their widths.
-/
namespace Sys2Proof.Machine

set_option linter.unusedTactic false
set_option linter.unreachableTactic false
set_option linter.unusedSimpArgs false

variable {fz : Fuses} {qu : List Instr}

theorem noteRange_sound {s : State} (hs : Sound fz qu s) (a : Nat) (n : Nat) (job : Nat) (core : Nat) :
    Sound fz qu (noteRange s a n job core) := by
  unfold noteRange
  repeat' first
    | (simp +contextual (maxDischargeDepth := 99) only [noteUnit_sound, *]; done)
    | split
    | with_reducible apply noteUnit_sound
    | dsimp only

theorem noteWin_sound {s : State} (hs : Sound fz qu s) (w : Nat) :
    Sound fz qu (noteWin s w) := by
  unfold noteWin
  repeat' first
    | (simp +contextual (maxDischargeDepth := 99) only [correct_sound, ite_sound, sound_mk, *]; done)
    | (extract_lets +onlyGivenNames x; refine (fun (hx : Sound fz qu x) => ?_) ?_; (clear_value x; rotate_left; unfold x; clear x))
    | (extract_lets +onlyGivenNames x; refine (fun (hx : Sound fz qu x.1) => ?_) ?_; (clear_value x; rotate_left; unfold x; clear x))
    | (extract_lets +onlyGivenNames x; clear_value x)
    | split
    | with_reducible apply correct_sound
    | with_reducible apply (sound_mk ..).2
    | dsimp only

theorem dropTlb_sound {s : State} (hs : Sound fz qu s) (job : Nat) (va : Nat) :
    Sound fz qu (dropTlb s job va) := by
  unfold dropTlb
  repeat' first
    | (simp +contextual (maxDischargeDepth := 99) only [sound_mk, *]; done)
    | with_reducible apply (sound_mk ..).2
    | dsimp only

theorem setL3_sound {s : State} (hs : Sound fz qu s) (r : List Word) (page : Nat) (e : Nat) :
    Sound fz qu (setL3 s r page e) := by
  unfold setL3
  repeat' first
    | (simp +contextual (maxDischargeDepth := 99) only [wrNat_sound, correct_sound, dropTlb_sound, *]; done)
    | split
    | with_reducible apply wrNat_sound
    | with_reducible apply correct_sound
    | with_reducible apply dropTlb_sound
    | dsimp only

theorem setPd_sound {s : State} (hs : Sound fz qu s) (r : List Word) (page : Nat) (i : Nat) (v : Nat) :
    Sound fz qu (setPd s r page i v) := by
  unfold setPd
  repeat' first
    | (simp +contextual (maxDischargeDepth := 99) only [wrNat_sound, correct_sound, ite_sound, *]; done)
    | split
    | with_reducible apply wrNat_sound
    | with_reducible apply correct_sound
    | dsimp only

theorem fixPage_sound {s : State} (hs : Sound fz qu s) (r : List Word) (page : Nat) :
    Sound fz qu (fixPage s r page) := by
  unfold fixPage
  repeat' first
    | (simp +contextual (maxDischargeDepth := 99) only [correct_sound, walkFix_sound, *]; done)
    | split
    | with_reducible apply correct_sound
    | with_reducible apply walkFix_sound
    | dsimp only

theorem notePage_sound {s : State} (hs : Sound fz qu s) (r : List Word) (page : Nat) (core : Nat) :
    Sound fz qu (notePage s r page core) := by
  unfold notePage
  repeat' first
    | (simp +contextual (maxDischargeDepth := 99) only [noteUe_sound, *]; done)
    | split
    | with_reducible apply noteUe_sound
    | dsimp only

theorem meetPage_sound {s : State} (hs : Sound fz qu s) (w : Nat) (page : Nat) :
    Sound fz qu (meetPage s w page) := by
  unfold meetPage
  repeat' first
    | (simp +contextual (maxDischargeDepth := 99) only [setPd_sound, ite_sound, *]; done)
    | (extract_lets +onlyGivenNames x; refine (fun (hx : Sound fz qu x) => ?_) ?_; (clear_value x; rotate_left; unfold x; clear x))
    | (extract_lets +onlyGivenNames x; refine (fun (hx : Sound fz qu x.1) => ?_) ?_; (clear_value x; rotate_left; unfold x; clear x))
    | (extract_lets +onlyGivenNames x; clear_value x)
    | split
    | with_reducible apply setPd_sound
    | dsimp only

theorem seePage_sound {s : State} (hs : Sound fz qu s) (w : Nat) (page : Nat) (core : Nat) :
    Sound fz qu (seePage s w page core) := by
  unfold seePage
  repeat' first
    | (simp +contextual (maxDischargeDepth := 99) only [noteRange_sound, fixPage_sound, notePage_sound, meetPage_sound, ite_sound, *]; done)
    | (extract_lets +onlyGivenNames x; refine (fun (hx : Sound fz qu x) => ?_) ?_; (clear_value x; rotate_left; unfold x; clear x))
    | (extract_lets +onlyGivenNames x; refine (fun (hx : Sound fz qu x.1) => ?_) ?_; (clear_value x; rotate_left; unfold x; clear x))
    | (extract_lets +onlyGivenNames x; clear_value x)
    | split
    | with_reducible apply noteRange_sound
    | with_reducible apply fixPage_sound
    | with_reducible apply notePage_sound
    | with_reducible apply meetPage_sound
    | dsimp only

theorem showMoves_sound {s : State} (hs : Sound fz qu s) (p : Nat) :
    Sound fz qu (showMoves s p) := by
  unfold showMoves
  repeat' first
    | (simp +contextual (maxDischargeDepth := 99) only [put_sound, *]; done)
    | with_reducible apply put_sound
    | dsimp only

theorem noteSpilling_sound {s : State} (hs : Sound fz qu s) (p : Nat) :
    Sound fz qu (noteSpilling s p) := by
  unfold noteSpilling
  repeat' first
    | (simp +contextual (maxDischargeDepth := 99) only [ite_sound, sound_mk, *]; done)
    | split
    | with_reducible apply (sound_mk ..).2
    | dsimp only

theorem takeFrame_sound {s : State} (hs : Sound fz qu s) (p : Nat) :
    Sound fz qu (takeFrame s p).1 := by
  unfold takeFrame
  repeat' first
    | (simp +contextual (maxDischargeDepth := 99) only [put_sound, correct_sound, noteSpilling_sound, ite_sound, sound_mk, *]; done)
    | (extract_lets +onlyGivenNames x; refine (fun (hx : Sound fz qu x) => ?_) ?_; (clear_value x; rotate_left; unfold x; clear x))
    | (extract_lets +onlyGivenNames x; refine (fun (hx : Sound fz qu x.1) => ?_) ?_; (clear_value x; rotate_left; unfold x; clear x))
    | (extract_lets +onlyGivenNames x; clear_value x)
    | split
    | with_reducible apply put_sound
    | with_reducible apply correct_sound
    | with_reducible apply noteSpilling_sound
    | with_reducible apply (sound_mk ..).2
    | dsimp only

theorem endSpilling_sound {s : State} (hs : Sound fz qu s) (p : Nat) :
    Sound fz qu (endSpilling s p) := by
  unfold endSpilling
  repeat' first
    | (simp +contextual (maxDischargeDepth := 99) only [ite_sound, sound_mk, *]; done)
    | split
    | with_reducible apply (sound_mk ..).2
    | dsimp only

theorem pushFrame_sound {s : State} (hs : Sound fz qu s) (p : Nat) (frame : Nat) :
    Sound fz qu (pushFrame s p frame) := by
  unfold pushFrame
  repeat' first
    | (simp +contextual (maxDischargeDepth := 99) only [put_sound, wrNat_sound, correct_sound, endSpilling_sound, ite_sound, *]; done)
    | (extract_lets +onlyGivenNames x; refine (fun (hx : Sound fz qu x) => ?_) ?_; (clear_value x; rotate_left; unfold x; clear x))
    | (extract_lets +onlyGivenNames x; refine (fun (hx : Sound fz qu x.1) => ?_) ?_; (clear_value x; rotate_left; unfold x; clear x))
    | (extract_lets +onlyGivenNames x; clear_value x)
    | split
    | with_reducible apply put_sound
    | with_reducible apply wrNat_sound
    | with_reducible apply correct_sound
    | with_reducible apply endSpilling_sound
    | dsimp only

theorem askReturn_sound {s : State} (hs : Sound fz qu s) (w : Nat) (page : Nat) (p : Nat) (demand : Bool) :
    Sound fz qu (askReturn s w page p demand) := by
  unfold askReturn
  repeat' first
    | (simp +contextual (maxDischargeDepth := 99) only [ite_sound, sound_mk, *]; done)
    | split
    | with_reducible apply (sound_mk ..).2
    | dsimp only

theorem lookAhead_sound {s : State} (hs : Sound fz qu s) (w : Nat) (page : Nat) :
    Sound fz qu (lookAhead s w page) := by
  unfold lookAhead
  repeat' first
    | (simp +contextual (maxDischargeDepth := 99) only [seePage_sound, askReturn_sound, ite_sound, each_sound, *]; done)
    | (extract_lets +onlyGivenNames x; refine (fun (hx : Sound fz qu x) => ?_) ?_; (clear_value x; rotate_left; unfold x; clear x))
    | (extract_lets +onlyGivenNames x; refine (fun (hx : Sound fz qu x.1) => ?_) ?_; (clear_value x; rotate_left; unfold x; clear x))
    | (extract_lets +onlyGivenNames x; clear_value x)
    | split
    | with_reducible refine each_sound (fun _ _ _ => ?_) _ ?_
    | with_reducible apply seePage_sound
    | with_reducible apply askReturn_sound
    | dsimp only

theorem rescue_sound {s : State} (hs : Sound fz qu s) (m : KvMove) :
    Sound fz qu (rescue s m) := by
  unfold rescue
  repeat' first
    | (simp +contextual (maxDischargeDepth := 99) only [bump_sound, orphan_sound, setPd_sound, showMoves_sound, sound_mk, *]; done)
    | (extract_lets +onlyGivenNames x; refine (fun (hx : Sound fz qu x) => ?_) ?_; (clear_value x; rotate_left; unfold x; clear x))
    | (extract_lets +onlyGivenNames x; refine (fun (hx : Sound fz qu x.1) => ?_) ?_; (clear_value x; rotate_left; unfold x; clear x))
    | (extract_lets +onlyGivenNames x; clear_value x)
    | with_reducible apply bump_sound
    | with_reducible apply orphan_sound
    | with_reducible apply setPd_sound
    | with_reducible apply showMoves_sound
    | with_reducible apply (sound_mk ..).2
    | dsimp only

theorem requestPage_sound {s : State} (hs : Sound fz qu s) (c : Nat) (id : Nat) (w : Nat) (page : Nat) :
    Sound fz qu (requestPage s c id w page) := by
  unfold requestPage
  repeat' first
    | (simp +contextual (maxDischargeDepth := 99) only [meetPage_sound, askReturn_sound, lookAhead_sound, rescue_sound, ite_sound, sound_mk, *]; done)
    | (extract_lets +onlyGivenNames x; refine (fun (hx : Sound fz qu x) => ?_) ?_; (clear_value x; rotate_left; unfold x; clear x))
    | (extract_lets +onlyGivenNames x; refine (fun (hx : Sound fz qu x.1) => ?_) ?_; (clear_value x; rotate_left; unfold x; clear x))
    | (extract_lets +onlyGivenNames x; clear_value x)
    | split
    | with_reducible apply meetPage_sound
    | with_reducible apply askReturn_sound
    | with_reducible apply lookAhead_sound
    | with_reducible apply rescue_sound
    | with_reducible apply (sound_mk ..).2
    | dsimp only

theorem releasePage_sound {s : State} (hs : Sound fz qu s) (c : Nat) (id : Nat) (w : Nat) (page : Nat) :
    Sound fz qu (releasePage s c id w page) := by
  unfold releasePage
  repeat' first
    | (simp +contextual (maxDischargeDepth := 99) only [sound_mk, *]; done)
    | with_reducible apply (sound_mk ..).2
    | dsimp only

theorem seeWin_sound {s : State} (hs : Sound fz qu s) (w : Nat) :
    Sound fz qu (seeWin s w) := by
  unfold seeWin
  repeat' first
    | (simp +contextual (maxDischargeDepth := 99) only [correct_sound, noteRange_sound, ite_sound, *]; done)
    | split
    | with_reducible apply correct_sound
    | with_reducible apply noteRange_sound
    | dsimp only

theorem lookPages_sound {s : State} (hs : Sound fz qu s) (p : Nat) :
    Sound fz qu (lookPages s p) := by
  unfold lookPages
  repeat' first
    | (simp +contextual (maxDischargeDepth := 99) only [seePage_sound, seeWin_sound, ite_sound, each_sound, *]; done)
    | (extract_lets +onlyGivenNames x; refine (fun (hx : Sound fz qu x) => ?_) ?_; (clear_value x; rotate_left; unfold x; clear x))
    | (extract_lets +onlyGivenNames x; refine (fun (hx : Sound fz qu x.1) => ?_) ?_; (clear_value x; rotate_left; unfold x; clear x))
    | (extract_lets +onlyGivenNames x; clear_value x)
    | split
    | with_reducible refine each_sound (fun _ _ _ => ?_) _ ?_
    | with_reducible apply seePage_sound
    | with_reducible apply seeWin_sound
    | dsimp only

theorem addMove_sound {s : State} (hs : Sound fz qu s) (m : KvMove) :
    Sound fz qu (addMove s m) := by
  unfold addMove
  repeat' first
    | (simp +contextual (maxDischargeDepth := 99) only [showMoves_sound, sound_mk, *]; done)
    | with_reducible apply showMoves_sound
    | with_reducible apply (sound_mk ..).2
    | dsimp only

theorem dropMove_sound {s : State} (hs : Sound fz qu s) (m : KvMove) :
    Sound fz qu (dropMove s m) := by
  unfold dropMove
  repeat' first
    | (simp +contextual (maxDischargeDepth := 99) only [orphan_sound, showMoves_sound, sound_mk, *]; done)
    | with_reducible apply orphan_sound
    | with_reducible apply showMoves_sound
    | with_reducible apply (sound_mk ..).2
    | dsimp only

theorem updMove_sound {s : State} (hs : Sound fz qu s) (m : KvMove) (f : KvMove → KvMove) :
    Sound fz qu (updMove s m f) := by
  unfold updMove
  repeat' first
    | (simp +contextual (maxDischargeDepth := 99) only [ite_sound, sound_mk, *]; done)
    | split
    | with_reducible apply (sound_mk ..).2
    | dsimp only

theorem moveOut_sound {s : State} (hs : Sound fz qu s) (m : KvMove) :
    Sound fz qu (moveOut s m) := by
  unfold moveOut
  repeat' first
    | (simp +contextual (maxDischargeDepth := 99) only [readOff_sound, tailWrite_sound, updMove_sound, ite_sound, sound_mk, *]; done)
    | (extract_lets +onlyGivenNames x; refine (fun (hx : Sound fz qu x) => ?_) ?_; (clear_value x; rotate_left; unfold x; clear x))
    | (extract_lets +onlyGivenNames x; refine (fun (hx : Sound fz qu x.1) => ?_) ?_; (clear_value x; rotate_left; unfold x; clear x))
    | (extract_lets +onlyGivenNames x; clear_value x)
    | split
    | with_reducible apply readOff_sound
    | with_reducible apply tailWrite_sound
    | with_reducible apply updMove_sound
    | with_reducible apply (sound_mk ..).2
    | dsimp only

theorem beginSpills_sound {s : State} (hs : Sound fz qu s) :
    Sound fz qu (beginSpills s) := by
  unfold beginSpills
  repeat' first
    | (simp +contextual (maxDischargeDepth := 99) only [moveOut_sound, ite_sound, each_sound, *]; done)
    | split
    | with_reducible refine each_sound (fun _ _ _ => ?_) _ ?_
    | with_reducible apply moveOut_sound
    | dsimp only

theorem startSpill_sound {s : State} (hs : Sound fz qu s) (p : Nat) (w : Nat) (page : Nat) :
    Sound fz qu (startSpill s p w page) := by
  unfold startSpill
  repeat' first
    | (simp +contextual (maxDischargeDepth := 99) only [noteWin_sound, setPd_sound, fixPage_sound, addMove_sound, beginSpills_sound, *]; done)
    | (extract_lets +onlyGivenNames x; refine (fun (hx : Sound fz qu x) => ?_) ?_; (clear_value x; rotate_left; unfold x; clear x))
    | (extract_lets +onlyGivenNames x; refine (fun (hx : Sound fz qu x.1) => ?_) ?_; (clear_value x; rotate_left; unfold x; clear x))
    | (extract_lets +onlyGivenNames x; clear_value x)
    | with_reducible apply noteWin_sound
    | with_reducible apply setPd_sound
    | with_reducible apply fixPage_sound
    | with_reducible apply addMove_sound
    | with_reducible apply beginSpills_sound
    | dsimp only

theorem startReturn_sound {s : State} (hs : Sound fz qu s) (q : KvReq) :
    Sound fz qu (startReturn s q) := by
  unfold startReturn
  repeat' first
    | (simp +contextual (maxDischargeDepth := 99) only [waitLess_sound, tailRead_sound, noteRange_sound, noteWin_sound, setPd_sound, fixPage_sound, takeFrame_sound, addMove_sound, ite_sound, sound_mk, *]; done)
    | (extract_lets +onlyGivenNames x; refine (fun (hx : Sound fz qu x) => ?_) ?_; (clear_value x; rotate_left; unfold x; clear x))
    | (extract_lets +onlyGivenNames x; refine (fun (hx : Sound fz qu x.1) => ?_) ?_; (clear_value x; rotate_left; unfold x; clear x))
    | (extract_lets +onlyGivenNames x; clear_value x)
    | split
    | with_reducible apply waitLess_sound
    | with_reducible apply tailRead_sound
    | with_reducible apply noteRange_sound
    | with_reducible apply noteWin_sound
    | with_reducible apply setPd_sound
    | with_reducible apply fixPage_sound
    | with_reducible apply takeFrame_sound
    | with_reducible apply addMove_sound
    | with_reducible apply (sound_mk ..).2
    | dsimp only

end Sys2Proof.Machine
end

