-- ==== Sys2Proof/Laws/SoundDma.lean ====
section
/-!
SUPPORT. What the operations and commands of Machine/Dma.lean keep: the queue, the fused identity, the canonical form of memory,
and registers within their widths.
-/
namespace Sys2Proof.Machine

set_option linter.unusedTactic false
set_option linter.unreachableTactic false
set_option linter.unusedSimpArgs false

variable {fz : Fuses} {qu : List Instr}

theorem foldXfer_sound {α : Type} {f : Xfer → α → Xfer} (hf : ∀ r x, Sound fz qu r.s → Sound fz qu (f r x).s) (l : List α)
    {r : Xfer} (h : Sound fz qu r.s) : Sound fz qu (l.foldl f r).s := by
  induction l generalizing r with
  | nil => exact h
  | cons x l ih => exact ih (hf r x h)

theorem pushEntry_sound {s : State} (hs : Sound fz qu s) (c : Nat) (q : Nat) (d : Desc) :
    Sound fz qu (pushEntry s c q d) := by
  unfold pushEntry
  repeat' first
    | (simp +contextual (maxDischargeDepth := 99) only [setCore_sound, ite_sound, sound_mk, *]; done)
    | (extract_lets +onlyGivenNames x; refine (fun (hx : Sound fz qu x) => ?_) ?_; (clear_value x; rotate_left; unfold x; clear x))
    | (extract_lets +onlyGivenNames x; refine (fun (hx : Sound fz qu x.1) => ?_) ?_; (clear_value x; rotate_left; unfold x; clear x))
    | (extract_lets +onlyGivenNames x; clear_value x)
    | split
    | with_reducible apply setCore_sound
    | with_reducible apply (sound_mk ..).2
    | dsimp only

theorem popEntry_sound {s : State} (hs : Sound fz qu s) (c : Nat) (q : Nat) :
    Sound fz qu (popEntry s c q) := by
  unfold popEntry
  repeat' first
    | (simp +contextual (maxDischargeDepth := 99) only [setCore_sound, sound_mk, *]; done)
    | (extract_lets +onlyGivenNames x; refine (fun (hx : Sound fz qu x) => ?_) ?_; (clear_value x; rotate_left; unfold x; clear x))
    | (extract_lets +onlyGivenNames x; refine (fun (hx : Sound fz qu x.1) => ?_) ?_; (clear_value x; rotate_left; unfold x; clear x))
    | (extract_lets +onlyGivenNames x; clear_value x)
    | with_reducible apply setCore_sound
    | with_reducible apply (sound_mk ..).2
    | dsimp only

theorem onQueue_sound {s : State} {body : Nat → State → State} (hs : Sound fz qu s) (hfbody : ∀ (y0 : Nat) (y1 : State), Sound fz qu y1 → Sound fz qu (body y0 y1)) (c : Core) (sl : Slot) (f : RegForm) :
    Sound fz qu (onQueue s c sl f body) := by
  unfold onQueue
  repeat' first
    | (simp +contextual (maxDischargeDepth := 99) only [abortTask_sound, ite_sound, *]; done)
    | (extract_lets +onlyGivenNames x; refine (fun (hx : Sound fz qu x) => ?_) ?_; (clear_value x; rotate_left; unfold x; clear x))
    | (extract_lets +onlyGivenNames x; refine (fun (hx : Sound fz qu x.1) => ?_) ?_; (clear_value x; rotate_left; unfold x; clear x))
    | (extract_lets +onlyGivenNames x; clear_value x)
    | split
    | with_reducible apply abortTask_sound
    | dsimp only

theorem execDmaq_sound {s : State} (hs : Sound fz qu s) (c : Core) (sl : Slot) (f : RegForm) :
    Goes fz qu (execDmaq c sl f s) := by
  unfold execDmaq
  repeat' first
    | (simp +contextual (maxDischargeDepth := 99) only [advance_sound, scalarIns_sound, readLocal_sound, pushEntry_sound, onQueue_sound, goes_next, *]; done)
    | with_reducible refine goes_next ?_
    | with_reducible refine scalarIns_sound (fun _ _ => ?_) ?_ _ _ _ _ _
    | with_reducible refine onQueue_sound ?_ (fun _ _ _ => ?_) _ _ _
    | (extract_lets +onlyGivenNames x; refine (fun (hx : Sound fz qu x) => ?_) ?_; (clear_value x; rotate_left; unfold x; clear x))
    | (extract_lets +onlyGivenNames x; refine (fun (hx : Sound fz qu x.1) => ?_) ?_; (clear_value x; rotate_left; unfold x; clear x))
    | (extract_lets +onlyGivenNames x; clear_value x)
    | split
    | with_reducible apply advance_sound
    | with_reducible apply readLocal_sound
    | with_reducible apply pushEntry_sound
    | dsimp only

theorem execDmaf_sound {s : State} (hs : Sound fz qu s) (c : Core) (sl : Slot) (f : RegForm) :
    Goes fz qu (execDmaf c sl f s) := by
  unfold execDmaf
  repeat' first
    | (simp +contextual (maxDischargeDepth := 99) only [advance_sound, scalarIns_sound, pushEntry_sound, onQueue_sound, goes_next, *]; done)
    | with_reducible refine goes_next ?_
    | with_reducible refine scalarIns_sound (fun _ _ => ?_) ?_ _ _ _ _ _
    | with_reducible refine onQueue_sound ?_ (fun _ _ _ => ?_) _ _ _
    | with_reducible apply advance_sound
    | with_reducible apply pushEntry_sound
    | dsimp only

theorem noteAtt_sound {s : State} (hs : Sound fz qu s) (c : Nat) (reason : Nat) (w : Nat) (page : Nat) :
    Sound fz qu (noteAtt s c reason w page) := by
  unfold noteAtt
  repeat' first
    | (simp +contextual (maxDischargeDepth := 99) only [put_sound, bump_sound, *]; done)
    | with_reducible apply put_sound
    | with_reducible apply bump_sound
    | dsimp only

theorem startDesc_sound {s : State} (hs : Sound fz qu s) (c : Nat) (q : Nat) (d0 : Desc) :
    Sound fz qu (startDesc s c q d0) := by
  unfold startDesc
  repeat' first
    | (simp +contextual (maxDischargeDepth := 99) only [setCore_sound, popEntry_sound, sound_mk, *]; done)
    | (extract_lets +onlyGivenNames x; refine (fun (hx : Sound fz qu x) => ?_) ?_; (clear_value x; rotate_left; unfold x; clear x))
    | (extract_lets +onlyGivenNames x; refine (fun (hx : Sound fz qu x.1) => ?_) ?_; (clear_value x; rotate_left; unfold x; clear x))
    | (extract_lets +onlyGivenNames x; clear_value x)
    | with_reducible apply setCore_sound
    | with_reducible apply popEntry_sound
    | with_reducible apply (sound_mk ..).2
    | dsimp only

theorem execDmaDescriptorStart_sound {s : State} (hs : Sound fz qu s) (c : Core) (q : Fin 16) :
    Goes fz qu (execDmaDescriptorStart c q s) := by
  unfold execDmaDescriptorStart
  repeat' first
    | (simp +contextual (maxDischargeDepth := 99) only [failDesc_sound, noteAtt_sound, startDesc_sound, goes_next, ite_sound, ite_goes, *]; done)
    | with_reducible refine goes_next ?_
    | (extract_lets +onlyGivenNames x; refine (fun (hx : Sound fz qu x) => ?_) ?_; (clear_value x; rotate_left; unfold x; clear x))
    | (extract_lets +onlyGivenNames x; refine (fun (hx : Sound fz qu x.1) => ?_) ?_; (clear_value x; rotate_left; unfold x; clear x))
    | (extract_lets +onlyGivenNames x; clear_value x)
    | split
    | with_reducible apply failDesc_sound
    | with_reducible apply noteAtt_sound
    | with_reducible apply startDesc_sound
    | dsimp only

theorem deliver_sound {x : Xfer} (hx : Sound fz qu x.s) (c : Nat) (d : Desc) (at_ : Nat) (dst : Nat) (b : Bytes) :
    Sound fz qu (deliver c d x at_ dst b).s := by
  unfold deliver
  repeat' first
    | (simp +contextual (maxDischargeDepth := 99) only [bumpW_sound, noteReach_sound, noteAccess_sound, writeOff_sound, sendMol_sound, roceWrite_sound, sendBoard_sound, tailWrite_sound, ite_sound, sound_mk, *]; done)
    | (extract_lets +onlyGivenNames x; refine (fun (hx : Sound fz qu x) => ?_) ?_; (clear_value x; rotate_left; unfold x; clear x))
    | (extract_lets +onlyGivenNames x; refine (fun (hx : Sound fz qu x.1) => ?_) ?_; (clear_value x; rotate_left; unfold x; clear x))
    | (extract_lets +onlyGivenNames x; clear_value x)
    | split
    | with_reducible apply bumpW_sound
    | with_reducible apply noteReach_sound
    | with_reducible apply noteAccess_sound
    | with_reducible apply writeOff_sound
    | with_reducible apply sendMol_sound
    | with_reducible apply roceWrite_sound
    | with_reducible apply sendBoard_sound
    | with_reducible apply tailWrite_sound
    | with_reducible apply (sound_mk ..).2
    | dsimp only

theorem sendPut_sound {x : Xfer} (hx : Sound fz qu x.s) (c : Nat) (d : Desc) :
    Sound fz qu (sendPut c d x).s := by
  unfold sendPut
  repeat' first
    | (simp +contextual (maxDischargeDepth := 99) only [sendMol_sound, roceWrite_sound, ite_sound, sound_mk, *]; done)
    | (extract_lets +onlyGivenNames x; refine (fun (hx : Sound fz qu x) => ?_) ?_; (clear_value x; rotate_left; unfold x; clear x))
    | (extract_lets +onlyGivenNames x; refine (fun (hx : Sound fz qu x.1) => ?_) ?_; (clear_value x; rotate_left; unfold x; clear x))
    | (extract_lets +onlyGivenNames x; clear_value x)
    | split
    | with_reducible apply sendMol_sound
    | with_reducible apply roceWrite_sound
    | with_reducible apply (sound_mk ..).2
    | dsimp only

theorem deliverAll_sound {x : Xfer} (h : Sound fz qu x.s) (c : Nat) (d : Desc) (at_ a : Nat) (b : Bytes) :
    Sound fz qu (deliverAll c d x at_ a b).s := by
  refine foldXfer_sound (fun r p hr => ?_) _ h
  split
  · exact hr
  · exact deliver_sound hr _ _ _ _ _

theorem deliverUnit_sound {x : Xfer} (hx : Sound fz qu x.s) (c : Nat) (d : Desc) (at_ : Nat) (a : Nat) (b : Bytes) :
    Sound fz qu (deliverUnit c d x at_ a b).s := by
  unfold deliverUnit
  extract_lets parts mine all
  split
  · exact hx
  · split
    · refine foldXfer_sound (fun r p hr => ?_) _ hx
      split
      · exact hr
      · exact deliver_sound hr _ _ _ _ _
    · exact hx

theorem takeData_sound {x : Xfer} (hx : Sound fz qu x.s) (c : Nat) (d : Desc) (at_ : Nat) (b : Bytes) :
    Sound fz qu (takeData c d x at_ b).s := by
  unfold takeData
  repeat' first
    | (simp +contextual (maxDischargeDepth := 99) only [deliver_sound, deliverAll_sound, deliverUnit_sound, ite_sound, *]; done)
    | (extract_lets +onlyGivenNames x; refine (fun (hx : Sound fz qu x) => ?_) ?_; (clear_value x; rotate_left; unfold x; clear x))
    | (extract_lets +onlyGivenNames x; refine (fun (hx : Sound fz qu x.1) => ?_) ?_; (clear_value x; rotate_left; unfold x; clear x))
    | (extract_lets +onlyGivenNames x; clear_value x)
    | split
    | with_reducible apply deliver_sound
    | with_reducible apply deliverAll_sound
    | with_reducible apply deliverUnit_sound
    | dsimp only

theorem moveStretch_sound {x : Xfer} (hx : Sound fz qu x.s) (c : Nat) (d : Desc) (p : Nat × Nat × Nat) :
    Sound fz qu (moveStretch c d x p).s := by
  unfold moveStretch
  repeat' first
    | (simp +contextual (maxDischargeDepth := 99) only [noteReach_sound, noteAccess_sound, readOff_sound, tornRead_sound, sendMol_sound, sendBoard_sound, tailRead_sound, deliver_sound, takeData_sound, ite_sound, sound_mk, *]; done)
    | (extract_lets +onlyGivenNames x; refine (fun (hx : Sound fz qu x) => ?_) ?_; (clear_value x; rotate_left; unfold x; clear x))
    | (extract_lets +onlyGivenNames x; refine (fun (hx : Sound fz qu x.1) => ?_) ?_; (clear_value x; rotate_left; unfold x; clear x))
    | (extract_lets +onlyGivenNames x; clear_value x)
    | split
    | with_reducible apply noteReach_sound
    | with_reducible apply noteAccess_sound
    | with_reducible apply readOff_sound
    | with_reducible apply tornRead_sound
    | with_reducible apply sendMol_sound
    | with_reducible apply sendBoard_sound
    | with_reducible apply tailRead_sound
    | with_reducible apply deliver_sound
    | with_reducible apply takeData_sound
    | with_reducible apply (sound_mk ..).2
    | dsimp only

theorem updDesc_sound {s : State} (hs : Sound fz qu s) (c : Nat) (id : Nat) (f : Desc → Desc) :
    Sound fz qu (updDesc s c id f) := by
  unfold updDesc
  repeat' first
    | (simp +contextual (maxDischargeDepth := 99) only [setCore_sound, ite_sound, sound_mk, *]; done)
    | (extract_lets +onlyGivenNames x; refine (fun (hx : Sound fz qu x) => ?_) ?_; (clear_value x; rotate_left; unfold x; clear x))
    | (extract_lets +onlyGivenNames x; refine (fun (hx : Sound fz qu x.1) => ?_) ?_; (clear_value x; rotate_left; unfold x; clear x))
    | (extract_lets +onlyGivenNames x; clear_value x)
    | split
    | with_reducible apply setCore_sound
    | with_reducible apply (sound_mk ..).2
    | dsimp only

theorem runDesc_sound {s : State} (h : Sound fz qu s) (c : Nat) (d : Desc) : Sound fz qu (runDesc s c d) := by
  unfold runDesc
  extract_lets x0 r x1 x
  have hx1 : Sound fz qu x1.s := by
    unfold x1
    split
    · exact h
    · split
      · exact roceRead_sound h _ _ _ _ _ _ _
      · exact foldXfer_sound (fun r p hr => moveStretch_sound hr _ _ _) _ h
  clear_value x1
  have hx : Sound fz qu x.s := by
    unfold x
    split
    · exact sendPut_sound hx1 _ _
    · exact hx1
  clear_value x
  split
  · exact failDesc_sound hx _ _ _ _
  · exact updDesc_sound hx _ _ _

theorem runKind_sound {s : State} (hs : Sound fz qu s) (kind : Nat) (c : Core) (id : Nat) :
    Sound fz qu (runKind kind c id s) := by
  unfold runKind
  repeat' first
    | (simp +contextual (maxDischargeDepth := 99) only [runDesc_sound, ite_sound, *]; done)
    | split
    | with_reducible apply runDesc_sound
    | dsimp only

theorem execDmaCopy_sound {s : State} (hs : Sound fz qu s) (c : Core) (id : Nat) :
    Goes fz qu (execDmaCopy c id s) := by
  unfold execDmaCopy
  repeat' first
    | (simp +contextual (maxDischargeDepth := 99) only [runKind_sound, goes_next, *]; done)
    | with_reducible refine goes_next ?_
    | with_reducible apply runKind_sound
    | dsimp only

theorem execDmaPut_sound {s : State} (hs : Sound fz qu s) (c : Core) (id : Nat) :
    Goes fz qu (execDmaPut c id s) := by
  unfold execDmaPut
  repeat' first
    | (simp +contextual (maxDischargeDepth := 99) only [runKind_sound, goes_next, *]; done)
    | with_reducible refine goes_next ?_
    | with_reducible apply runKind_sound
    | dsimp only

theorem execDmaGet_sound {s : State} (hs : Sound fz qu s) (c : Core) (id : Nat) :
    Goes fz qu (execDmaGet c id s) := by
  unfold execDmaGet
  repeat' first
    | (simp +contextual (maxDischargeDepth := 99) only [runKind_sound, goes_next, *]; done)
    | with_reducible refine goes_next ?_
    | with_reducible apply runKind_sound
    | dsimp only

theorem execDmaFlagWrite_sound {s : State} (hs : Sound fz qu s) (c : Core) (id : Nat) :
    Goes fz qu (execDmaFlagWrite c id s) := by
  unfold execDmaFlagWrite
  repeat' first
    | (simp +contextual (maxDischargeDepth := 99) only [runKind_sound, goes_next, *]; done)
    | with_reducible refine goes_next ?_
    | with_reducible apply runKind_sound
    | dsimp only

theorem respond_sound {s : State} (hs : Sound fz qu s) (c : Nat) (d : Desc) (at_ : Nat) (b : Bytes) (tail : Bool) :
    Sound fz qu (respond s c d at_ b tail) := by
  unfold respond
  repeat' first
    | (simp +contextual (maxDischargeDepth := 99) only [bumpW_sound, failDesc_sound, sendPut_sound, updDesc_sound, takeData_sound, ite_sound, sound_mk, *]; done)
    | (extract_lets +onlyGivenNames x; refine (fun (hx : Sound fz qu x) => ?_) ?_; (clear_value x; rotate_left; unfold x; clear x))
    | (extract_lets +onlyGivenNames x; refine (fun (hx : Sound fz qu x.1) => ?_) ?_; (clear_value x; rotate_left; unfold x; clear x))
    | (extract_lets +onlyGivenNames x; clear_value x)
    | split
    | with_reducible apply bumpW_sound
    | with_reducible apply failDesc_sound
    | with_reducible apply sendPut_sound
    | with_reducible apply updDesc_sound
    | with_reducible apply takeData_sound
    | with_reducible apply (sound_mk ..).2
    | dsimp only

theorem dropFlight_sound {s : State} (hs : Sound fz qu s) (c : Nat) (id : Nat) :
    Sound fz qu (dropFlight s c id) := by
  unfold dropFlight
  repeat' first
    | (simp +contextual (maxDischargeDepth := 99) only [setCore_sound, sound_mk, *]; done)
    | (extract_lets +onlyGivenNames x; refine (fun (hx : Sound fz qu x) => ?_) ?_; (clear_value x; rotate_left; unfold x; clear x))
    | (extract_lets +onlyGivenNames x; refine (fun (hx : Sound fz qu x.1) => ?_) ?_; (clear_value x; rotate_left; unfold x; clear x))
    | (extract_lets +onlyGivenNames x; clear_value x)
    | with_reducible apply setCore_sound
    | with_reducible apply (sound_mk ..).2
    | dsimp only

theorem execDmaDescriptorComplete_sound {s : State} (hs : Sound fz qu s) (c : Core) (id : Nat) :
    Goes fz qu (execDmaDescriptorComplete c id s) := by
  unfold execDmaDescriptorComplete
  repeat' first
    | (simp +contextual (maxDischargeDepth := 99) only [bumpW_sound, tcAdd_sound, dropFlight_sound, goes_next, ite_sound, ite_goes, onlyIf_sound, *]; done)
    | with_reducible refine goes_next ?_
    | with_reducible refine onlyIf_sound (fun _ _ => ?_) ?_
    | (extract_lets +onlyGivenNames x; refine (fun (hx : Sound fz qu x) => ?_) ?_; (clear_value x; rotate_left; unfold x; clear x))
    | (extract_lets +onlyGivenNames x; refine (fun (hx : Sound fz qu x.1) => ?_) ?_; (clear_value x; rotate_left; unfold x; clear x))
    | (extract_lets +onlyGivenNames x; clear_value x)
    | split
    | with_reducible apply bumpW_sound
    | with_reducible apply tcAdd_sound
    | with_reducible apply dropFlight_sound
    | dsimp only

theorem execFenceRelease_sound {s : State} (hs : Sound fz qu s) (c : Core) (q : Fin 16) :
    Goes fz qu (execFenceRelease c q s) := by
  unfold execFenceRelease
  repeat' first
    | (simp +contextual (maxDischargeDepth := 99) only [popEntry_sound, goes_next, onlyIf_sound, *]; done)
    | with_reducible refine goes_next ?_
    | with_reducible refine onlyIf_sound (fun _ _ => ?_) ?_
    | split
    | with_reducible apply popEntry_sound
    | dsimp only

theorem execFenceTimeout_sound {s : State} (hs : Sound fz qu s) (c : Core) (q : Fin 16) :
    Goes fz qu (execFenceTimeout c q s) := by
  unfold execFenceTimeout
  repeat' first
    | (simp +contextual (maxDischargeDepth := 99) only [failDesc_sound, goes_next, onlyIf_sound, *]; done)
    | with_reducible refine goes_next ?_
    | with_reducible refine onlyIf_sound (fun _ _ => ?_) ?_
    | (extract_lets +onlyGivenNames x; refine (fun (hx : Sound fz qu x) => ?_) ?_; (clear_value x; rotate_left; unfold x; clear x))
    | (extract_lets +onlyGivenNames x; refine (fun (hx : Sound fz qu x.1) => ?_) ?_; (clear_value x; rotate_left; unfold x; clear x))
    | (extract_lets +onlyGivenNames x; clear_value x)
    | split
    | with_reducible apply failDesc_sound
    | dsimp only

theorem dmaqWrite_sound {s : State} (hs : Sound fz qu s) (c : Nat) (q : Nat) (v : Nat) :
    Sound fz qu (dmaqWrite s c q v) := by
  unfold dmaqWrite
  repeat' first
    | (simp +contextual (maxDischargeDepth := 99) only [put_sound, bump_sound, ite_sound, *]; done)
    | (extract_lets +onlyGivenNames x; refine (fun (hx : Sound fz qu x) => ?_) ?_; (clear_value x; rotate_left; unfold x; clear x))
    | (extract_lets +onlyGivenNames x; refine (fun (hx : Sound fz qu x.1) => ?_) ?_; (clear_value x; rotate_left; unfold x; clear x))
    | (extract_lets +onlyGivenNames x; clear_value x)
    | split
    | with_reducible apply put_sound
    | with_reducible apply bump_sound
    | dsimp only

end Sys2Proof.Machine
end

