-- ==== Sys2Proof/Laws/SoundKv.lean ====
section
/-!
SUPPORT. What the operations and commands of Machine/Kv.lean keep: the queue, the fused identity, the canonical form of memory,
and registers within their widths.
-/
namespace Sys2Proof.Machine

set_option linter.unusedTactic false
set_option linter.unreachableTactic false
set_option linter.unusedSimpArgs false

variable {fz : Fuses} {qu : List Instr}

theorem kvFail_sound {s : State} (hs : Sound fz qu s) (c : Nat) (d : Desc) (reason : Nat) (page : Nat) (code : Nat) :
    Sound fz qu (kvFail s c d reason page code) := by
  unfold kvFail
  repeat' first
    | (simp +contextual (maxDischargeDepth := 99) only [failDesc_sound, noteAtt_sound, *]; done)
    | with_reducible apply failDesc_sound
    | with_reducible apply noteAtt_sound
    | dsimp only

theorem readHalf_sound {s : State} (hs : Sound fz qu s) (c : Nat) (d : Desc) (p : PageDesc) (va : Nat) (scale : Nat) (want : Bool) :
    Sound fz qu (readHalf s c d p va scale want).1 := by
  unfold readHalf
  repeat' first
    | (simp +contextual (maxDischargeDepth := 99) only [noteReach_sound, noteAccess_sound, readVa_sound, ite_sound, *]; done)
    | (extract_lets +onlyGivenNames x; refine (fun (hx : Sound fz qu x) => ?_) ?_; (clear_value x; rotate_left; unfold x; clear x))
    | (extract_lets +onlyGivenNames x; refine (fun (hx : Sound fz qu x.1) => ?_) ?_; (clear_value x; rotate_left; unfold x; clear x))
    | (extract_lets +onlyGivenNames x; clear_value x)
    | split
    | with_reducible apply noteReach_sound
    | with_reducible apply noteAccess_sound
    | with_reducible apply readVa_sound
    | dsimp only

theorem countPage_sound {s : State} (hs : Sound fz qu s) (c : Nat) (d : Desc) (p : PageDesc) :
    Sound fz qu (countPage s c d p) := by
  unfold countPage
  repeat' first
    | (simp +contextual (maxDischargeDepth := 99) only [bumpW_sound, ite_sound, *]; done)
    | (extract_lets +onlyGivenNames x; refine (fun (hx : Sound fz qu x) => ?_) ?_; (clear_value x; rotate_left; unfold x; clear x))
    | (extract_lets +onlyGivenNames x; refine (fun (hx : Sound fz qu x.1) => ?_) ?_; (clear_value x; rotate_left; unfold x; clear x))
    | (extract_lets +onlyGivenNames x; clear_value x)
    | split
    | with_reducible apply bumpW_sound
    | dsimp only

theorem writeOuts_sound {s : State} (h : Sound fz qu s) (c : Nat) (d : Desc) (l : List (Nat × Bytes)) :
    Sound fz qu (writeOuts c d s l).1 := by
  refine foldl_sound (fun r o hr => ?_) _ h
  split
  · exact hr
  · exact writeOff_sound hr _ _ _ _

theorem widenPage_sound {s : State} (hs : Sound fz qu s) (c : Nat) (d : Desc) (p : PageDesc) (raw : Bytes) (page : Nat) (va : Nat) :
    Sound fz qu (widenPage s c d p raw page va) := by
  unfold widenPage
  extract_lets i outs reg k v data w s1 r last s2
  have h1 : Sound fz qu k.1 := readHalf_sound hs _ _ _ _ _ _
  have h2 : Sound fz qu v.1 := readHalf_sound h1 _ _ _ _ _ _
  have h3 : Sound fz qu w.1 := writeOuts_sound h2 _ _ _
  have h4 : Sound fz qu s1 := countPage_sound h3 _ _ _
  have h5 : Sound fz qu s2 := ite_sound (sendRec_sound h4 _) h4
  clear_value s2 s1 w data v k
  exact ite_sound (kvFail_sound hs _ _ _ _ _) (ite_sound (kvFail_sound h1 _ _ _ _ _) (ite_sound (failDesc_sound h1 _ _ _ _)
    (ite_sound (kvFail_sound h2 _ _ _ _ _) (ite_sound (failDesc_sound h2 _ _ _ _) (ite_sound (failDesc_sound h3 _ _ _ _)
      (releasePage_sound (updDesc_sound h5 _ _ _) _ _ _ _))))))

theorem askPage_sound {s : State} (hs : Sound fz qu s) (c : Nat) (d : Desc) (page : Nat) :
    Sound fz qu (askPage c d s page) := by
  unfold askPage
  repeat' first
    | (simp +contextual (maxDischargeDepth := 99) only [bump_sound, failDesc_sound, seePage_sound, requestPage_sound, ite_sound, *]; done)
    | (extract_lets +onlyGivenNames x; refine (fun (hx : Sound fz qu x) => ?_) ?_; (clear_value x; rotate_left; unfold x; clear x))
    | (extract_lets +onlyGivenNames x; refine (fun (hx : Sound fz qu x.1) => ?_) ?_; (clear_value x; rotate_left; unfold x; clear x))
    | (extract_lets +onlyGivenNames x; clear_value x)
    | split
    | with_reducible apply bump_sound
    | with_reducible apply failDesc_sound
    | with_reducible apply seePage_sound
    | with_reducible apply requestPage_sound
    | dsimp only

theorem unitStop_sound {s : State} (hs : Sound fz qu s) (c : Nat) (d : Desc) (a : Nat) (n : Nat) (va : Nat) :
    Sound fz qu (unitStop s c d a n va) := by
  unfold unitStop
  repeat' first
    | (simp +contextual (maxDischargeDepth := 99) only [noteUnit_sound, failDesc_sound, *]; done)
    | split
    | with_reducible apply noteUnit_sound
    | with_reducible apply failDesc_sound
    | dsimp only

theorem execKvRead_sound {s : State} (h : Sound fz qu s) (c : Core) (id : Nat) : Goes fz qu (execKvRead c id s) := by
  unfold execKvRead
  split
  · exact h
  · rename_i d _
    split
    · exact h
    · split
      · exact failDesc_sound h _ _ _ _
      · extract_lets w page r s0 x p ahead s2 s1
        have h0 : Sound fz qu s0 := noteWin_sound h _
        have hx : Sound fz qu x.1 := by
          unfold x
          split
          · exact h0
          · exact readOff_sound h0 _ _ _ _
        have h1 : Sound fz qu s1 := each_sound (fun _ _ h => askPage_sound h _ _ _) _ (updDesc_sound hx _ _ _)
        clear_value s1 s2 p
        split
        · exact unitStop_sound h _ _ _ _ _
        · split
          · exact kvFail_sound (noteFault_sound h0 _ _ _ _ _ _) _ _ _ _ _
          · split
            · exact kvFail_sound h0 _ _ _ _ _
            · split
              · exact failDesc_sound hx _ _ _ _
              · split
                · exact kvFail_sound hx _ _ _ _ _
                · split
                  · exact h1
                  · split
                    · exact h1
                    · exact widenPage_sound h1 _ _ _ _ _ _

theorem countKvPage_sound {s : State} (hs : Sound fz qu s) (c : Nat) (d : Desc) :
    Sound fz qu (countKvPage s c d) := by
  unfold countKvPage
  repeat' first
    | (simp +contextual (maxDischargeDepth := 99) only [tcAdd_sound, updDesc_sound, dropFlight_sound, ite_sound, sound_mk, *]; done)
    | (extract_lets +onlyGivenNames x; refine (fun (hx : Sound fz qu x) => ?_) ?_; (clear_value x; rotate_left; unfold x; clear x))
    | (extract_lets +onlyGivenNames x; refine (fun (hx : Sound fz qu x.1) => ?_) ?_; (clear_value x; rotate_left; unfold x; clear x))
    | (extract_lets +onlyGivenNames x; clear_value x)
    | split
    | with_reducible apply tcAdd_sound
    | with_reducible apply updDesc_sound
    | with_reducible apply dropFlight_sound
    | with_reducible apply (sound_mk ..).2
    | dsimp only

theorem execKvReadPageDone_sound {s : State} (hs : Sound fz qu s) (c : Core) (id : Nat) :
    Goes fz qu (execKvReadPageDone c id s) := by
  unfold execKvReadPageDone
  repeat' first
    | (simp +contextual (maxDischargeDepth := 99) only [countKvPage_sound, goes_next, onlyIf_sound, *]; done)
    | with_reducible refine goes_next ?_
    | with_reducible refine onlyIf_sound (fun _ _ => ?_) ?_
    | split
    | with_reducible apply countKvPage_sound
    | dsimp only

theorem opFail_sound {s : State} (hs : Sound fz qu s) (c : Nat) (d : Desc) (va : Nat) (reason : Nat) (code : Nat) :
    Sound fz qu (opFail s c d va reason code) := by
  unfold opFail
  repeat' first
    | (simp +contextual (maxDischargeDepth := 99) only [noteFault_sound, failDesc_sound, *]; done)
    | with_reducible apply noteFault_sound
    | with_reducible apply failDesc_sound
    | dsimp only

theorem opUnit_sound {s : State} (hs : Sound fz qu s) (c : Nat) (d : Desc) (va : Nat) (a : Nat) (n : Nat) :
    Sound fz qu (opUnit s c d va a n) := by
  unfold opUnit
  repeat' first
    | (simp +contextual (maxDischargeDepth := 99) only [unitStop_sound, opFail_sound, ite_sound, *]; done)
    | split
    | with_reducible apply unitStop_sound
    | with_reducible apply opFail_sound
    | dsimp only

theorem opReady_sound {s : State} (hs : Sound fz qu s) (c : Nat) (d : Desc) (page : Nat) :
    Sound fz qu (opReady s c d page) := by
  unfold opReady
  repeat' first
    | (simp +contextual (maxDischargeDepth := 99) only [updDesc_sound, sound_mk, *]; done)
    | with_reducible apply updDesc_sound
    | with_reducible apply (sound_mk ..).2
    | dsimp only

theorem opWait_sound {s : State} (hs : Sound fz qu s) (c : Nat) (d : Desc) :
    Sound fz qu (opWait s c d) := by
  unfold opWait
  repeat' first
    | (simp +contextual (maxDischargeDepth := 99) only [updDesc_sound, sound_mk, *]; done)
    | with_reducible apply updDesc_sound
    | with_reducible apply (sound_mk ..).2
    | dsimp only

theorem seenPage_sound {s : State} (hs : Sound fz qu s) (w : Nat) (page : Nat) :
    Sound fz qu (seenPage s w page) := by
  unfold seenPage
  repeat' first
    | (simp +contextual (maxDischargeDepth := 99) only [ite_sound, sound_mk, *]; done)
    | (extract_lets +onlyGivenNames x; refine (fun (hx : Sound fz qu x) => ?_) ?_; (clear_value x; rotate_left; unfold x; clear x))
    | (extract_lets +onlyGivenNames x; refine (fun (hx : Sound fz qu x.1) => ?_) ?_; (clear_value x; rotate_left; unfold x; clear x))
    | (extract_lets +onlyGivenNames x; clear_value x)
    | split
    | with_reducible apply (sound_mk ..).2
    | dsimp only

theorem openPage_sound {s : State} (hs : Sound fz qu s) (c : Nat) (d : Desc) (r : List Word) (w : Nat) (page : Nat) :
    Sound fz qu (openPage s c d r w page) := by
  unfold openPage
  repeat' first
    | (simp +contextual (maxDischargeDepth := 99) only [waitMore_sound, waitLess_sound, setL3_sound, setPd_sound, takeFrame_sound, pushFrame_sound, opFail_sound, opUnit_sound, opReady_sound, opWait_sound, seenPage_sound, ite_sound, sound_mk, *]; done)
    | (extract_lets +onlyGivenNames x; refine (fun (hx : Sound fz qu x) => ?_) ?_; (clear_value x; rotate_left; unfold x; clear x))
    | (extract_lets +onlyGivenNames x; refine (fun (hx : Sound fz qu x.1) => ?_) ?_; (clear_value x; rotate_left; unfold x; clear x))
    | (extract_lets +onlyGivenNames x; clear_value x)
    | split
    | with_reducible apply waitMore_sound
    | with_reducible apply waitLess_sound
    | with_reducible apply setL3_sound
    | with_reducible apply setPd_sound
    | with_reducible apply takeFrame_sound
    | with_reducible apply pushFrame_sound
    | with_reducible apply opFail_sound
    | with_reducible apply opUnit_sound
    | with_reducible apply opReady_sound
    | with_reducible apply opWait_sound
    | with_reducible apply seenPage_sound
    | with_reducible apply (sound_mk ..).2
    | dsimp only

theorem sealPage_sound {s : State} (hs : Sound fz qu s) (c : Nat) (d : Desc) (r : List Word) (w : Nat) (page : Nat) :
    Sound fz qu (sealPage s c d r w page) := by
  unfold sealPage
  repeat' first
    | (simp +contextual (maxDischargeDepth := 99) only [setPd_sound, meetPage_sound, opFail_sound, opReady_sound, ite_sound, *]; done)
    | (extract_lets +onlyGivenNames x; refine (fun (hx : Sound fz qu x) => ?_) ?_; (clear_value x; rotate_left; unfold x; clear x))
    | (extract_lets +onlyGivenNames x; refine (fun (hx : Sound fz qu x.1) => ?_) ?_; (clear_value x; rotate_left; unfold x; clear x))
    | (extract_lets +onlyGivenNames x; clear_value x)
    | split
    | with_reducible apply setPd_sound
    | with_reducible apply meetPage_sound
    | with_reducible apply opFail_sound
    | with_reducible apply opReady_sound
    | dsimp only

theorem hintPage_sound {s : State} (hs : Sound fz qu s) (c : Nat) (d : Desc) (r : List Word) (w : Nat) (page : Nat) :
    Sound fz qu (hintPage s c d r w page) := by
  unfold hintPage
  repeat' first
    | (simp +contextual (maxDischargeDepth := 99) only [meetPage_sound, askReturn_sound, opFail_sound, opReady_sound, opWait_sound, ite_sound, *]; done)
    | (extract_lets +onlyGivenNames x; refine (fun (hx : Sound fz qu x) => ?_) ?_; (clear_value x; rotate_left; unfold x; clear x))
    | (extract_lets +onlyGivenNames x; refine (fun (hx : Sound fz qu x.1) => ?_) ?_; (clear_value x; rotate_left; unfold x; clear x))
    | (extract_lets +onlyGivenNames x; clear_value x)
    | split
    | with_reducible apply meetPage_sound
    | with_reducible apply askReturn_sound
    | with_reducible apply opFail_sound
    | with_reducible apply opReady_sound
    | with_reducible apply opWait_sound
    | dsimp only

theorem dropReturn_sound {s : State} (hs : Sound fz qu s) (w : Nat) (page : Nat) :
    Sound fz qu (dropReturn s w page) := by
  unfold dropReturn
  repeat' first
    | (simp +contextual (maxDischargeDepth := 99) only [waitLess_sound, sound_mk, each_sound, *]; done)
    | (extract_lets +onlyGivenNames x; refine (fun (hx : Sound fz qu x) => ?_) ?_; (clear_value x; rotate_left; unfold x; clear x))
    | (extract_lets +onlyGivenNames x; refine (fun (hx : Sound fz qu x.1) => ?_) ?_; (clear_value x; rotate_left; unfold x; clear x))
    | (extract_lets +onlyGivenNames x; clear_value x)
    | with_reducible refine each_sound (fun _ _ _ => ?_) _ ?_
    | with_reducible apply waitLess_sound
    | with_reducible apply (sound_mk ..).2
    | dsimp only

theorem closePage_sound {s : State} (hs : Sound fz qu s) (c : Nat) (d : Desc) (r : List Word) (w : Nat) (page : Nat) :
    Sound fz qu (closePage s c d r w page) := by
  unfold closePage
  repeat' first
    | (simp +contextual (maxDischargeDepth := 99) only [setL3_sound, setPd_sound, pushFrame_sound, opFail_sound, opUnit_sound, opReady_sound, opWait_sound, dropReturn_sound, ite_sound, each_sound, *]; done)
    | (extract_lets +onlyGivenNames x; refine (fun (hx : Sound fz qu x) => ?_) ?_; (clear_value x; rotate_left; unfold x; clear x))
    | (extract_lets +onlyGivenNames x; refine (fun (hx : Sound fz qu x.1) => ?_) ?_; (clear_value x; rotate_left; unfold x; clear x))
    | (extract_lets +onlyGivenNames x; clear_value x)
    | split
    | with_reducible refine each_sound (fun _ _ _ => ?_) _ ?_
    | with_reducible apply setL3_sound
    | with_reducible apply setPd_sound
    | with_reducible apply pushFrame_sound
    | with_reducible apply opFail_sound
    | with_reducible apply opUnit_sound
    | with_reducible apply opReady_sound
    | with_reducible apply opWait_sound
    | with_reducible apply dropReturn_sound
    | dsimp only

theorem pageOp_sound {body : State → Nat → Desc → List Word → Nat → Nat → State} {s : State} (hfbody : ∀ (y0 : State) (y1 : Nat) (y2 : Desc) (y3 : List Word) (y4 : Nat) (y5 : Nat), Sound fz qu y0 → Sound fz qu (body y0 y1 y2 y3 y4 y5)) (hs : Sound fz qu s) (op : Nat) (c : Core) (id : Nat) :
    Sound fz qu (pageOp op c id body s) := by
  unfold pageOp
  repeat' first
    | (simp +contextual (maxDischargeDepth := 99) only [failDesc_sound, noteWin_sound, fixPage_sound, opFail_sound, opUnit_sound, ite_sound, *]; done)
    | (extract_lets +onlyGivenNames x; refine (fun (hx : Sound fz qu x) => ?_) ?_; (clear_value x; rotate_left; unfold x; clear x))
    | (extract_lets +onlyGivenNames x; refine (fun (hx : Sound fz qu x.1) => ?_) ?_; (clear_value x; rotate_left; unfold x; clear x))
    | (extract_lets +onlyGivenNames x; clear_value x)
    | split
    | with_reducible apply failDesc_sound
    | with_reducible apply noteWin_sound
    | with_reducible apply fixPage_sound
    | with_reducible apply opFail_sound
    | with_reducible apply opUnit_sound
    | dsimp only

theorem execKvPageOpen_sound {s : State} (hs : Sound fz qu s) (c : Core) (id : Nat) :
    Goes fz qu (execKvPageOpen c id s) := by
  unfold execKvPageOpen
  repeat' first
    | (simp +contextual (maxDischargeDepth := 99) only [openPage_sound, pageOp_sound, goes_next, *]; done)
    | with_reducible refine goes_next ?_
    | with_reducible refine pageOp_sound (fun _ _ _ _ _ _ _ => ?_) ?_ _ _ _
    | with_reducible apply openPage_sound
    | dsimp only

theorem execKvPageSeal_sound {s : State} (hs : Sound fz qu s) (c : Core) (id : Nat) :
    Goes fz qu (execKvPageSeal c id s) := by
  unfold execKvPageSeal
  repeat' first
    | (simp +contextual (maxDischargeDepth := 99) only [sealPage_sound, pageOp_sound, goes_next, *]; done)
    | with_reducible refine goes_next ?_
    | with_reducible refine pageOp_sound (fun _ _ _ _ _ _ _ => ?_) ?_ _ _ _
    | with_reducible apply sealPage_sound
    | dsimp only

theorem execKvPageHint_sound {s : State} (hs : Sound fz qu s) (c : Core) (id : Nat) :
    Goes fz qu (execKvPageHint c id s) := by
  unfold execKvPageHint
  repeat' first
    | (simp +contextual (maxDischargeDepth := 99) only [hintPage_sound, pageOp_sound, goes_next, *]; done)
    | with_reducible refine goes_next ?_
    | with_reducible refine pageOp_sound (fun _ _ _ _ _ _ _ => ?_) ?_ _ _ _
    | with_reducible apply hintPage_sound
    | dsimp only

theorem execKvPageClose_sound {s : State} (hs : Sound fz qu s) (c : Core) (id : Nat) :
    Goes fz qu (execKvPageClose c id s) := by
  unfold execKvPageClose
  repeat' first
    | (simp +contextual (maxDischargeDepth := 99) only [closePage_sound, pageOp_sound, goes_next, *]; done)
    | with_reducible refine goes_next ?_
    | with_reducible refine pageOp_sound (fun _ _ _ _ _ _ _ => ?_) ?_ _ _ _
    | with_reducible apply closePage_sound
    | dsimp only

theorem execKvPageOpPageDone_sound {s : State} (hs : Sound fz qu s) (c : Core) (id : Nat) :
    Goes fz qu (execKvPageOpPageDone c id s) := by
  unfold execKvPageOpPageDone
  repeat' first
    | (simp +contextual (maxDischargeDepth := 99) only [countKvPage_sound, openPage_sound, sealPage_sound, hintPage_sound, closePage_sound, pageOp_sound, goes_next, ite_sound, ite_goes, onlyIf_sound, *]; done)
    | with_reducible refine goes_next ?_
    | with_reducible refine onlyIf_sound (fun _ _ => ?_) ?_
    | with_reducible refine pageOp_sound (fun _ _ _ _ _ _ _ => ?_) ?_ _ _ _
    | (extract_lets +onlyGivenNames x; refine (fun (hx : Sound fz qu x) => ?_) ?_; (clear_value x; rotate_left; unfold x; clear x))
    | (extract_lets +onlyGivenNames x; refine (fun (hx : Sound fz qu x.1) => ?_) ?_; (clear_value x; rotate_left; unfold x; clear x))
    | (extract_lets +onlyGivenNames x; clear_value x)
    | split
    | with_reducible apply countKvPage_sound
    | with_reducible apply openPage_sound
    | with_reducible apply sealPage_sound
    | with_reducible apply hintPage_sound
    | with_reducible apply closePage_sound
    | dsimp only

theorem tailFault_sound {s : State} (hs : Sound fz qu s) (p : Nat) (code : Nat) :
    Sound fz qu (tailFault s p code) := by
  unfold tailFault
  repeat' first
    | (simp +contextual (maxDischargeDepth := 99) only [put_sound, logEvt_sound, *]; done)
    | with_reducible apply put_sound
    | with_reducible apply logEvt_sound
    | dsimp only

theorem noteMoveUe_sound {s : State} (hs : Sound fz qu s) (m : KvMove) :
    Sound fz qu (noteMoveUe s m) := by
  unfold noteMoveUe
  repeat' first
    | (simp +contextual (maxDischargeDepth := 99) only [noteRange_sound, notePage_sound, *]; done)
    | (extract_lets +onlyGivenNames x; refine (fun (hx : Sound fz qu x) => ?_) ?_; (clear_value x; rotate_left; unfold x; clear x))
    | (extract_lets +onlyGivenNames x; refine (fun (hx : Sound fz qu x.1) => ?_) ?_; (clear_value x; rotate_left; unfold x; clear x))
    | (extract_lets +onlyGivenNames x; clear_value x)
    | with_reducible apply noteRange_sound
    | with_reducible apply notePage_sound
    | dsimp only

theorem noteSpillUe_sound {s : State} (hs : Sound fz qu s) (m : KvMove) :
    Sound fz qu (noteSpillUe s m) := by
  unfold noteSpillUe
  repeat' first
    | (simp +contextual (maxDischargeDepth := 99) only [noteRange_sound, noteMoveUe_sound, *]; done)
    | with_reducible apply noteRange_sound
    | with_reducible apply noteMoveUe_sound
    | dsimp only

theorem execKvSpillStart_sound {s : State} (hs : Sound fz qu s) (pool : Fin 64) :
    Goes fz qu (execKvSpillStart pool s) := by
  unfold execKvSpillStart
  repeat' first
    | (simp +contextual (maxDischargeDepth := 99) only [endSpilling_sound, lookPages_sound, startSpill_sound, goes_next, ite_sound, ite_goes, sound_mk, *]; done)
    | with_reducible refine goes_next ?_
    | (extract_lets +onlyGivenNames x; refine (fun (hx : Sound fz qu x) => ?_) ?_; (clear_value x; rotate_left; unfold x; clear x))
    | (extract_lets +onlyGivenNames x; refine (fun (hx : Sound fz qu x.1) => ?_) ?_; (clear_value x; rotate_left; unfold x; clear x))
    | (extract_lets +onlyGivenNames x; clear_value x)
    | split
    | with_reducible apply endSpilling_sound
    | with_reducible apply lookPages_sound
    | with_reducible apply startSpill_sound
    | with_reducible apply (sound_mk ..).2
    | dsimp only

theorem execKvSpillDone_sound {s : State} (hs : Sound fz qu s) (window : BitVec 14) (page : BitVec 22) :
    Goes fz qu (execKvSpillDone window page s) := by
  unfold execKvSpillDone
  repeat' first
    | (simp +contextual (maxDischargeDepth := 99) only [bump_sound, bumpW_sound, setL3_sound, setPd_sound, fixPage_sound, pushFrame_sound, dropMove_sound, tailFault_sound, noteSpillUe_sound, goes_next, ite_sound, ite_goes, *]; done)
    | with_reducible refine goes_next ?_
    | (extract_lets +onlyGivenNames x; refine (fun (hx : Sound fz qu x) => ?_) ?_; (clear_value x; rotate_left; unfold x; clear x))
    | (extract_lets +onlyGivenNames x; refine (fun (hx : Sound fz qu x.1) => ?_) ?_; (clear_value x; rotate_left; unfold x; clear x))
    | (extract_lets +onlyGivenNames x; clear_value x)
    | split
    | with_reducible apply bump_sound
    | with_reducible apply bumpW_sound
    | with_reducible apply setL3_sound
    | with_reducible apply setPd_sound
    | with_reducible apply fixPage_sound
    | with_reducible apply pushFrame_sound
    | with_reducible apply dropMove_sound
    | with_reducible apply tailFault_sound
    | with_reducible apply noteSpillUe_sound
    | dsimp only

theorem lookFirst_sound {s : State} (hs : Sound fz qu s) (p : Nat) :
    Sound fz qu (lookFirst s p) := by
  unfold lookFirst
  repeat' first
    | (simp +contextual (maxDischargeDepth := 99) only [lookPages_sound, ite_sound, *]; done)
    | split
    | with_reducible apply lookPages_sound
    | dsimp only

theorem execKvReturnStart_sound {s : State} (hs : Sound fz qu s) (pool : Fin 64) :
    Goes fz qu (execKvReturnStart pool s) := by
  unfold execKvReturnStart
  repeat' first
    | (simp +contextual (maxDischargeDepth := 99) only [waitMore_sound, startReturn_sound, lookFirst_sound, goes_next, ite_sound, ite_goes, sound_mk, *]; done)
    | with_reducible refine goes_next ?_
    | (extract_lets +onlyGivenNames x; refine (fun (hx : Sound fz qu x) => ?_) ?_; (clear_value x; rotate_left; unfold x; clear x))
    | (extract_lets +onlyGivenNames x; refine (fun (hx : Sound fz qu x.1) => ?_) ?_; (clear_value x; rotate_left; unfold x; clear x))
    | (extract_lets +onlyGivenNames x; clear_value x)
    | split
    | with_reducible apply waitMore_sound
    | with_reducible apply startReturn_sound
    | with_reducible apply lookFirst_sound
    | with_reducible apply (sound_mk ..).2
    | dsimp only

theorem returnFails_sound {s : State} (hs : Sound fz qu s) (m : KvMove) (code : Nat) :
    Sound fz qu (returnFails s m code) := by
  unfold returnFails
  repeat' first
    | (simp +contextual (maxDischargeDepth := 99) only [bump_sound, abortTask_sound, failDesc_sound, setPd_sound, pushFrame_sound, dropMove_sound, tailFault_sound, ite_sound, each_sound, *]; done)
    | (extract_lets +onlyGivenNames x; refine (fun (hx : Sound fz qu x) => ?_) ?_; (clear_value x; rotate_left; unfold x; clear x))
    | (extract_lets +onlyGivenNames x; refine (fun (hx : Sound fz qu x.1) => ?_) ?_; (clear_value x; rotate_left; unfold x; clear x))
    | (extract_lets +onlyGivenNames x; clear_value x)
    | split
    | with_reducible refine each_sound (fun _ _ _ => ?_) _ ?_
    | with_reducible apply bump_sound
    | with_reducible apply abortTask_sound
    | with_reducible apply failDesc_sound
    | with_reducible apply setPd_sound
    | with_reducible apply pushFrame_sound
    | with_reducible apply dropMove_sound
    | with_reducible apply tailFault_sound
    | dsimp only

theorem execKvReturnDone_sound {s : State} (hs : Sound fz qu s) (window : BitVec 14) (page : BitVec 22) :
    Goes fz qu (execKvReturnDone window page s) := by
  unfold execKvReturnDone
  repeat' first
    | (simp +contextual (maxDischargeDepth := 99) only [bumpW_sound, setL3_sound, setPd_sound, fixPage_sound, dropMove_sound, seenPage_sound, noteMoveUe_sound, returnFails_sound, goes_next, ite_sound, ite_goes, *]; done)
    | with_reducible refine goes_next ?_
    | (extract_lets +onlyGivenNames x; refine (fun (hx : Sound fz qu x) => ?_) ?_; (clear_value x; rotate_left; unfold x; clear x))
    | (extract_lets +onlyGivenNames x; refine (fun (hx : Sound fz qu x.1) => ?_) ?_; (clear_value x; rotate_left; unfold x; clear x))
    | (extract_lets +onlyGivenNames x; clear_value x)
    | split
    | with_reducible apply bumpW_sound
    | with_reducible apply setL3_sound
    | with_reducible apply setPd_sound
    | with_reducible apply fixPage_sound
    | with_reducible apply dropMove_sound
    | with_reducible apply seenPage_sound
    | with_reducible apply noteMoveUe_sound
    | with_reducible apply returnFails_sound
    | dsimp only

end Sys2Proof.Machine
end

