-- ==== Sys2Proof/Laws/SoundCol.lean ====
section
/-!
SUPPORT. What the operations and commands of Machine/Col.lean keep: the queue, the fused identity, the canonical form of memory,
and registers within their widths.
-/
namespace Sys2Proof.Machine

set_option linter.unusedTactic false
set_option linter.unreachableTactic false
set_option linter.unusedSimpArgs false

variable {fz : Fuses} {qu : List Instr}

theorem armSlot_sound {s : State} (hs : Sound fz qu s) (job : Nat) (step : Nat) (tb : Nat) (gb : Nat) (slot : Nat) :
    Sound fz qu (armSlot s job step tb gb slot) := by
  unfold armSlot
  repeat' first
    | (simp +contextual (maxDischargeDepth := 99) only [put_sound, bump_sound, ite_sound, sound_mk, *]; done)
    | (extract_lets +onlyGivenNames x; refine (fun (hx : Sound fz qu x) => ?_) ?_; (clear_value x; rotate_left; unfold x; clear x))
    | (extract_lets +onlyGivenNames x; refine (fun (hx : Sound fz qu x.1) => ?_) ?_; (clear_value x; rotate_left; unfold x; clear x))
    | (extract_lets +onlyGivenNames x; clear_value x)
    | split
    | with_reducible apply put_sound
    | with_reducible apply bump_sound
    | with_reducible apply (sound_mk ..).2
    | dsimp only

theorem armSlots_sound {s : State} (hs : Sound fz qu s) (job : Nat) (step : Nat) (tb : Nat) (gb : Nat) (first : Nat) (n : Nat) :
    Sound fz qu (armSlots s job step tb gb first n) := by
  unfold armSlots
  repeat' first
    | (simp +contextual (maxDischargeDepth := 99) only [armSlot_sound, each_sound, *]; done)
    | with_reducible refine each_sound (fun _ _ _ => ?_) _ ?_
    | with_reducible apply armSlot_sound
    | dsimp only

theorem armWrite_sound {s : State} (hs : Sound fz qu s) (slot : Nat) (count : Nat) (go : Bool) :
    Sound fz qu (armWrite s slot count go) := by
  unfold armWrite
  repeat' first
    | (simp +contextual (maxDischargeDepth := 99) only [put_sound, armSlots_sound, ite_sound, *]; done)
    | (extract_lets +onlyGivenNames x; refine (fun (hx : Sound fz qu x) => ?_) ?_; (clear_value x; rotate_left; unfold x; clear x))
    | (extract_lets +onlyGivenNames x; refine (fun (hx : Sound fz qu x.1) => ?_) ?_; (clear_value x; rotate_left; unfold x; clear x))
    | (extract_lets +onlyGivenNames x; clear_value x)
    | split
    | with_reducible apply put_sound
    | with_reducible apply armSlots_sound
    | dsimp only

theorem fn5Write_sound {s : State} {f : State → State} (hs : Sound fz qu s) (hff : ∀ (y0 : State), Sound fz qu y0 → Sound fz qu (f y0)) :
    Sound fz qu (fn5Write s f) := by
  unfold fn5Write
  repeat' first
    | (simp +contextual (maxDischargeDepth := 99) only [onlyIf_sound, *]; done)
    | with_reducible refine onlyIf_sound (fun _ _ => ?_) ?_
    | dsimp only

theorem execColArm_sound {s : State} (hs : Sound fz qu s) (slot : BitVec 16) (count : BitVec 16) :
    Goes fz qu (execColArm slot count s) := by
  unfold execColArm
  repeat' first
    | (simp +contextual (maxDischargeDepth := 99) only [armWrite_sound, fn5Write_sound, goes_next, *]; done)
    | with_reducible refine goes_next ?_
    | with_reducible refine fn5Write_sound ?_ (fun _ _ => ?_)
    | with_reducible apply armWrite_sound
    | dsimp only

theorem noteBounds_sound {s : State} (hs : Sound fz qu s) (before : Nat) :
    Sound fz qu (noteBounds before s) := by
  unfold noteBounds
  repeat' first
    | (simp +contextual (maxDischargeDepth := 99) only [sound_mk, each_sound, *]; done)
    | with_reducible refine each_sound (fun _ _ _ => ?_) _ ?_
    | with_reducible apply (sound_mk ..).2
    | dsimp only

theorem noteElig_sound {s : State} (hs : Sound fz qu s) :
    Sound fz qu (noteElig s) := by
  unfold noteElig
  repeat' first
    | (simp +contextual (maxDischargeDepth := 99) only [ite_sound, sound_mk, each_sound, *]; done)
    | split
    | with_reducible refine each_sound (fun _ _ _ => ?_) _ ?_
    | with_reducible apply (sound_mk ..).2
    | dsimp only

theorem fireFail_sound {s : State} (hs : Sound fz qu s) (r : ChainRec) (step : Nat) (code : Nat) :
    Sound fz qu (fireFail s r step code) := by
  unfold fireFail
  repeat' first
    | (simp +contextual (maxDischargeDepth := 99) only [endCollective_sound, *]; done)
    | with_reducible apply endCollective_sound
    | dsimp only

theorem issueFire_sound {s : State} (hs : Sound fz qu s) (r : ChainRec) (k : Nat) :
    Sound fz qu (issueFire s r k) := by
  unfold issueFire
  repeat' first
    | (simp +contextual (maxDischargeDepth := 99) only [put_sound, bump_sound, bumpW_sound, ite_sound, sound_mk, *]; done)
    | (extract_lets +onlyGivenNames x; refine (fun (hx : Sound fz qu x) => ?_) ?_; (clear_value x; rotate_left; unfold x; clear x))
    | (extract_lets +onlyGivenNames x; refine (fun (hx : Sound fz qu x.1) => ?_) ?_; (clear_value x; rotate_left; unfold x; clear x))
    | (extract_lets +onlyGivenNames x; clear_value x)
    | split
    | with_reducible apply put_sound
    | with_reducible apply bump_sound
    | with_reducible apply bumpW_sound
    | with_reducible apply (sound_mk ..).2
    | dsimp only

theorem execArmedFireIssue_sound {s : State} (hs : Sound fz qu s) (slot : BitVec 16) :
    Goes fz qu (execArmedFireIssue slot s) := by
  unfold execArmedFireIssue
  repeat' first
    | (simp +contextual (maxDischargeDepth := 99) only [fireFail_sound, issueFire_sound, goes_next, ite_sound, ite_goes, *]; done)
    | with_reducible refine goes_next ?_
    | (extract_lets +onlyGivenNames x; refine (fun (hx : Sound fz qu x) => ?_) ?_; (clear_value x; rotate_left; unfold x; clear x))
    | (extract_lets +onlyGivenNames x; refine (fun (hx : Sound fz qu x.1) => ?_) ?_; (clear_value x; rotate_left; unfold x; clear x))
    | (extract_lets +onlyGivenNames x; clear_value x)
    | split
    | with_reducible apply fireFail_sound
    | with_reducible apply issueFire_sound
    | dsimp only

theorem recordLedger_sound {s : State} (hs : Sound fz qu s) (r : ChainRec) (step : Nat) (l : Ledger) (b : Bytes) (cause : Nat) :
    Sound fz qu (recordLedger s r step l b cause) := by
  unfold recordLedger
  repeat' first
    | (simp +contextual (maxDischargeDepth := 99) only [put_sound, bump_sound, ite_sound, *]; done)
    | (extract_lets +onlyGivenNames x; refine (fun (hx : Sound fz qu x) => ?_) ?_; (clear_value x; rotate_left; unfold x; clear x))
    | (extract_lets +onlyGivenNames x; refine (fun (hx : Sound fz qu x.1) => ?_) ?_; (clear_value x; rotate_left; unfold x; clear x))
    | (extract_lets +onlyGivenNames x; clear_value x)
    | split
    | with_reducible apply put_sound
    | with_reducible apply bump_sound
    | dsimp only

theorem noteLedger_sound {s : State} (hs : Sound fz qu s) (r : ChainRec) (step : Nat) (l : Ledger) :
    Sound fz qu (noteLedger s r step l) := by
  unfold noteLedger
  repeat' first
    | (simp +contextual (maxDischargeDepth := 99) only [put_sound, bump_sound, bumpW_sound, logEvt_sound, ite_sound, sound_mk, *]; done)
    | (extract_lets +onlyGivenNames x; refine (fun (hx : Sound fz qu x) => ?_) ?_; (clear_value x; rotate_left; unfold x; clear x))
    | (extract_lets +onlyGivenNames x; refine (fun (hx : Sound fz qu x.1) => ?_) ?_; (clear_value x; rotate_left; unfold x; clear x))
    | (extract_lets +onlyGivenNames x; clear_value x)
    | split
    | with_reducible apply put_sound
    | with_reducible apply bump_sound
    | with_reducible apply bumpW_sound
    | with_reducible apply logEvt_sound
    | with_reducible apply (sound_mk ..).2
    | dsimp only

theorem checkLedger_sound {s : State} (hs : Sound fz qu s) (r : ChainRec) (step : Nat) (msg : Bytes) :
    Sound fz qu (checkLedger s r step msg).1 := by
  unfold checkLedger
  repeat' first
    | (simp +contextual (maxDischargeDepth := 99) only [recordLedger_sound, noteLedger_sound, ite_sound, *]; done)
    | (extract_lets +onlyGivenNames x; refine (fun (hx : Sound fz qu x) => ?_) ?_; (clear_value x; rotate_left; unfold x; clear x))
    | (extract_lets +onlyGivenNames x; refine (fun (hx : Sound fz qu x.1) => ?_) ?_; (clear_value x; rotate_left; unfold x; clear x))
    | (extract_lets +onlyGivenNames x; clear_value x)
    | split
    | with_reducible apply recordLedger_sound
    | with_reducible apply noteLedger_sound
    | dsimp only

theorem noteShard_sound {s : State} (hs : Sound fz qu s) (r : ChainRec) (k : Nat) (step : Nat) (n : Nat) (l : Ledger) :
    Sound fz qu (noteShard s r k step n l) := by
  unfold noteShard
  repeat' first
    | (simp +contextual (maxDischargeDepth := 99) only [ite_sound, sound_mk, *]; done)
    | (extract_lets +onlyGivenNames x; refine (fun (hx : Sound fz qu x) => ?_) ?_; (clear_value x; rotate_left; unfold x; clear x))
    | (extract_lets +onlyGivenNames x; refine (fun (hx : Sound fz qu x.1) => ?_) ?_; (clear_value x; rotate_left; unfold x; clear x))
    | (extract_lets +onlyGivenNames x; clear_value x)
    | split
    | with_reducible apply (sound_mk ..).2
    | dsimp only

theorem colWrite_sound {s : State} (hs : Sound fz qu s) (ch : ColHdr) (data : Bytes) :
    Sound fz qu (colWrite s ch data).1 := by
  unfold colWrite
  repeat' first
    | (simp +contextual (maxDischargeDepth := 99) only [writeOff_sound, writeVa_sound, noteUntranslated_sound, ite_sound, *]; done)
    | split
    | with_reducible apply writeOff_sound
    | with_reducible apply writeVa_sound
    | with_reducible apply noteUntranslated_sound
    | dsimp only

theorem colArrived_sound {s : State} (hs : Sound fz qu s) (ch : ColHdr) (n : Nat) :
    Sound fz qu (colArrived s ch n) := by
  unfold colArrived
  repeat' first
    | (simp +contextual (maxDischargeDepth := 99) only [tcAdd_sound, notePart_sound, ite_sound, *]; done)
    | (extract_lets +onlyGivenNames x; refine (fun (hx : Sound fz qu x) => ?_) ?_; (clear_value x; rotate_left; unfold x; clear x))
    | (extract_lets +onlyGivenNames x; refine (fun (hx : Sound fz qu x.1) => ?_) ?_; (clear_value x; rotate_left; unfold x; clear x))
    | (extract_lets +onlyGivenNames x; clear_value x)
    | split
    | with_reducible apply tcAdd_sound
    | with_reducible apply notePart_sound
    | dsimp only

theorem colPut_sound {s : State} (hs : Sound fz qu s) (ch : ColHdr) (data : Bytes) :
    Sound fz qu (colPut s ch data).1 := by
  unfold colPut
  repeat' first
    | (simp +contextual (maxDischargeDepth := 99) only [bump_sound, colWrite_sound, colArrived_sound, ite_sound, *]; done)
    | (extract_lets +onlyGivenNames x; refine (fun (hx : Sound fz qu x) => ?_) ?_; (clear_value x; rotate_left; unfold x; clear x))
    | (extract_lets +onlyGivenNames x; refine (fun (hx : Sound fz qu x.1) => ?_) ?_; (clear_value x; rotate_left; unfold x; clear x))
    | (extract_lets +onlyGivenNames x; clear_value x)
    | split
    | with_reducible apply bump_sound
    | with_reducible apply colWrite_sound
    | with_reducible apply colArrived_sound
    | dsimp only

theorem colSuperseded_sound {s : State} (hs : Sound fz qu s) (ch : ColHdr) :
    Sound fz qu (colSuperseded s ch) := by
  unfold colSuperseded
  repeat' first
    | (simp +contextual (maxDischargeDepth := 99) only [put_sound, bump_sound, logEvt_sound, ite_sound, *]; done)
    | (extract_lets +onlyGivenNames x; refine (fun (hx : Sound fz qu x) => ?_) ?_; (clear_value x; rotate_left; unfold x; clear x))
    | (extract_lets +onlyGivenNames x; refine (fun (hx : Sound fz qu x.1) => ?_) ?_; (clear_value x; rotate_left; unfold x; clear x))
    | (extract_lets +onlyGivenNames x; clear_value x)
    | split
    | with_reducible apply put_sound
    | with_reducible apply bump_sound
    | with_reducible apply logEvt_sound
    | dsimp only

theorem endNumbered_sound (n : Nat) {s : State} (h : Sound fz qu s) (job : Nat) (f : ChainRec → Bool) (code cause : Nat) :
    Sound fz qu (endNumbered n s job f code cause) := by
  induction n generalizing s with
  | zero => exact h
  | succ n ih =>
    unfold endNumbered
    split
    · exact h
    · exact ih (endCollective_sound h _ _ _ _ _ _)

theorem tagMismatch_sound {s : State} (hs : Sound fz qu s) (ch : ColHdr) (c : Nat) :
    Sound fz qu (tagMismatch s ch c) := by
  unfold tagMismatch
  repeat' first
    | (simp +contextual (maxDischargeDepth := 99) only [put_sound, bump_sound, logEvt_sound, abortJobOn_sound, endNumbered_sound, ite_sound, *]; done)
    | (extract_lets +onlyGivenNames x; refine (fun (hx : Sound fz qu x) => ?_) ?_; (clear_value x; rotate_left; unfold x; clear x))
    | (extract_lets +onlyGivenNames x; refine (fun (hx : Sound fz qu x.1) => ?_) ?_; (clear_value x; rotate_left; unfold x; clear x))
    | (extract_lets +onlyGivenNames x; clear_value x)
    | split
    | with_reducible apply put_sound
    | with_reducible apply bump_sound
    | with_reducible apply logEvt_sound
    | with_reducible apply abortJobOn_sound
    | with_reducible apply endNumbered_sound
    | dsimp only

theorem colStep_sound {s : State} (hs : Sound fz qu s) (ch : ColHdr) (data : Bytes) :
    Sound fz qu (colStep s ch data).1 := by
  unfold colStep
  repeat' first
    | (simp +contextual (maxDischargeDepth := 99) only [colPut_sound, tagMismatch_sound, ite_sound, *]; done)
    | (extract_lets +onlyGivenNames x; refine (fun (hx : Sound fz qu x) => ?_) ?_; (clear_value x; rotate_left; unfold x; clear x))
    | (extract_lets +onlyGivenNames x; refine (fun (hx : Sound fz qu x.1) => ?_) ?_; (clear_value x; rotate_left; unfold x; clear x))
    | (extract_lets +onlyGivenNames x; clear_value x)
    | split
    | with_reducible apply colPut_sound
    | with_reducible apply tagMismatch_sound
    | dsimp only

theorem colJudge_sound {s : State} (hs : Sound fz qu s) (ch : ColHdr) (data : Bytes) :
    Sound fz qu (colJudge s ch data).1 := by
  unfold colJudge
  repeat' first
    | (simp +contextual (maxDischargeDepth := 99) only [bump_sound, colSuperseded_sound, colStep_sound, ite_sound, *]; done)
    | (extract_lets +onlyGivenNames x; refine (fun (hx : Sound fz qu x) => ?_) ?_; (clear_value x; rotate_left; unfold x; clear x))
    | (extract_lets +onlyGivenNames x; refine (fun (hx : Sound fz qu x.1) => ?_) ?_; (clear_value x; rotate_left; unfold x; clear x))
    | (extract_lets +onlyGivenNames x; clear_value x)
    | split
    | with_reducible apply bump_sound
    | with_reducible apply colSuperseded_sound
    | with_reducible apply colStep_sound
    | dsimp only

theorem colPlace_sound {s : State} (hs : Sound fz qu s) (ch : ColHdr) (data : Bytes) :
    Sound fz qu (colPlace s ch data).1 := by
  unfold colPlace
  repeat' first
    | (simp +contextual (maxDischargeDepth := 99) only [notePart_sound, colJudge_sound, *]; done)
    | (extract_lets +onlyGivenNames x; refine (fun (hx : Sound fz qu x) => ?_) ?_; (clear_value x; rotate_left; unfold x; clear x))
    | (extract_lets +onlyGivenNames x; refine (fun (hx : Sound fz qu x.1) => ?_) ?_; (clear_value x; rotate_left; unfold x; clear x))
    | (extract_lets +onlyGivenNames x; clear_value x)
    | split
    | with_reducible apply notePart_sound
    | with_reducible apply colJudge_sound
    | dsimp only

theorem updFire_sound {s : State} (hs : Sound fz qu s) (id : Nat) (f : Fire → Fire) :
    Sound fz qu (updFire s id f) := by
  unfold updFire
  repeat' first
    | (simp +contextual (maxDischargeDepth := 99) only [ite_sound, sound_mk, *]; done)
    | split
    | with_reducible apply (sound_mk ..).2
    | dsimp only

theorem fireRead_sound {s : State} (hs : Sound fz qu s) (r : ChainRec) (a : Nat) (n : Nat) :
    Sound fz qu (fireRead s r a n).1 := by
  unfold fireRead
  repeat' first
    | (simp +contextual (maxDischargeDepth := 99) only [readOff_sound, readVa_sound, ite_sound, *]; done)
    | split
    | with_reducible apply readOff_sound
    | with_reducible apply readVa_sound
    | dsimp only

theorem fireMessage_sound {s : State} (hs : Sound fz qu s) (r : ChainRec) (k : Nat) :
    Sound fz qu (fireMessage s r k).1 := by
  unfold fireMessage
  repeat' first
    | (simp +contextual (maxDischargeDepth := 99) only [fireRead_sound, ite_sound, *]; done)
    | (extract_lets +onlyGivenNames x; refine (fun (hx : Sound fz qu x) => ?_) ?_; (clear_value x; rotate_left; unfold x; clear x))
    | (extract_lets +onlyGivenNames x; refine (fun (hx : Sound fz qu x.1) => ?_) ?_; (clear_value x; rotate_left; unfold x; clear x))
    | (extract_lets +onlyGivenNames x; clear_value x)
    | split
    | with_reducible apply fireRead_sound
    | dsimp only

theorem fireSent_sound {s : State} (hs : Sound fz qu s) (f : Fire) (n : Nat) :
    Sound fz qu (fireSent s f n) := by
  unfold fireSent
  repeat' first
    | (simp +contextual (maxDischargeDepth := 99) only [updFire_sound, sound_mk, *]; done)
    | with_reducible apply updFire_sound
    | with_reducible apply (sound_mk ..).2
    | dsimp only

theorem fireLocal_sound {s0 : State} {s : State} (hs0 : Sound fz qu s0) (hs : Sound fz qu s) (r : ChainRec) (f : Fire) (kind : Nat) (msg : Bytes) :
    Sound fz qu (fireLocal s0 s r f kind msg) := by
  unfold fireLocal
  repeat' first
    | (simp +contextual (maxDischargeDepth := 99) only [fireFail_sound, colPlace_sound, fireSent_sound, *]; done)
    | (extract_lets +onlyGivenNames x; refine (fun (hx : Sound fz qu x) => ?_) ?_; (clear_value x; rotate_left; unfold x; clear x))
    | (extract_lets +onlyGivenNames x; refine (fun (hx : Sound fz qu x.1) => ?_) ?_; (clear_value x; rotate_left; unfold x; clear x))
    | (extract_lets +onlyGivenNames x; clear_value x)
    | split
    | with_reducible apply fireFail_sound
    | with_reducible apply colPlace_sound
    | with_reducible apply fireSent_sound
    | dsimp only

theorem fireRemote_sound {s : State} (hs : Sound fz qu s) (r : ChainRec) (f : Fire) (kind : Nat) (msg : Bytes) :
    Sound fz qu (fireRemote s r f kind msg) := by
  unfold fireRemote
  repeat' first
    | (simp +contextual (maxDischargeDepth := 99) only [sendMol_sound, fireSent_sound, ite_sound, *]; done)
    | (extract_lets +onlyGivenNames x; refine (fun (hx : Sound fz qu x) => ?_) ?_; (clear_value x; rotate_left; unfold x; clear x))
    | (extract_lets +onlyGivenNames x; refine (fun (hx : Sound fz qu x.1) => ?_) ?_; (clear_value x; rotate_left; unfold x; clear x))
    | (extract_lets +onlyGivenNames x; clear_value x)
    | split
    | with_reducible apply sendMol_sound
    | with_reducible apply fireSent_sound
    | dsimp only

theorem fireRun_sound {s : State} {body : ChainRec → Fire → State → State} (hs : Sound fz qu s) (hfbody : ∀ (y0 : ChainRec) (y1 : Fire) (y2 : State), Sound fz qu y2 → Sound fz qu (body y0 y1 y2)) (action : Nat) (slot : BitVec 16) :
    Sound fz qu (fireRun action slot s body) := by
  unfold fireRun
  repeat' first
    | (simp +contextual (maxDischargeDepth := 99) only [fireFail_sound, ite_sound, *]; done)
    | split
    | with_reducible apply fireFail_sound
    | dsimp only

theorem execFireSend_sound {s : State} (hs : Sound fz qu s) (slot : BitVec 16) :
    Goes fz qu (execFireSend slot s) := by
  unfold execFireSend
  repeat' first
    | (simp +contextual (maxDischargeDepth := 99) only [fireFail_sound, checkLedger_sound, noteShard_sound, fireMessage_sound, fireLocal_sound, fireRemote_sound, fireRun_sound, goes_next, ite_sound, ite_goes, *]; done)
    | with_reducible refine goes_next ?_
    | with_reducible refine fireRun_sound ?_ (fun _ _ _ _ => ?_) _ _
    | (extract_lets +onlyGivenNames x; refine (fun (hx : Sound fz qu x) => ?_) ?_; (clear_value x; rotate_left; unfold x; clear x))
    | (extract_lets +onlyGivenNames x; refine (fun (hx : Sound fz qu x.1) => ?_) ?_; (clear_value x; rotate_left; unfold x; clear x))
    | (extract_lets +onlyGivenNames x; clear_value x)
    | split
    | with_reducible apply fireFail_sound
    | with_reducible apply checkLedger_sound
    | with_reducible apply noteShard_sound
    | with_reducible apply fireMessage_sound
    | with_reducible apply fireLocal_sound
    | with_reducible apply fireRemote_sound
    | dsimp only

theorem execFireCounterAdd_sound {s : State} (hs : Sound fz qu s) (slot : BitVec 16) :
    Goes fz qu (execFireCounterAdd slot s) := by
  unfold execFireCounterAdd
  repeat' first
    | (simp +contextual (maxDischargeDepth := 99) only [fireLocal_sound, fireRemote_sound, fireRun_sound, goes_next, ite_sound, ite_goes, *]; done)
    | with_reducible refine goes_next ?_
    | with_reducible refine fireRun_sound ?_ (fun _ _ _ _ => ?_) _ _
    | split
    | with_reducible apply fireLocal_sound
    | with_reducible apply fireRemote_sound
    | dsimp only

theorem execFireFlagWrite_sound {s : State} (hs : Sound fz qu s) (slot : BitVec 16) :
    Goes fz qu (execFireFlagWrite slot s) := by
  unfold execFireFlagWrite
  repeat' first
    | (simp +contextual (maxDischargeDepth := 99) only [sendMol_sound, roceWrite_sound, fireSent_sound, fireRun_sound, goes_next, ite_sound, ite_goes, *]; done)
    | with_reducible refine goes_next ?_
    | with_reducible refine fireRun_sound ?_ (fun _ _ _ _ => ?_) _ _
    | (extract_lets +onlyGivenNames x; refine (fun (hx : Sound fz qu x) => ?_) ?_; (clear_value x; rotate_left; unfold x; clear x))
    | (extract_lets +onlyGivenNames x; refine (fun (hx : Sound fz qu x.1) => ?_) ?_; (clear_value x; rotate_left; unfold x; clear x))
    | (extract_lets +onlyGivenNames x; clear_value x)
    | split
    | with_reducible apply sendMol_sound
    | with_reducible apply roceWrite_sound
    | with_reducible apply fireSent_sound
    | dsimp only

theorem slotComplete_sound {s : State} (hs : Sound fz qu s) (r : ChainRec) :
    Sound fz qu (slotComplete s r) := by
  unfold slotComplete
  repeat' first
    | (simp +contextual (maxDischargeDepth := 99) only [disarm_sound, armSlots_sound, *]; done)
    | (extract_lets +onlyGivenNames x; refine (fun (hx : Sound fz qu x) => ?_) ?_; (clear_value x; rotate_left; unfold x; clear x))
    | (extract_lets +onlyGivenNames x; refine (fun (hx : Sound fz qu x.1) => ?_) ?_; (clear_value x; rotate_left; unfold x; clear x))
    | (extract_lets +onlyGivenNames x; clear_value x)
    | with_reducible apply disarm_sound
    | with_reducible apply armSlots_sound
    | dsimp only

theorem execFireDone_sound {s : State} (hs : Sound fz qu s) (slot : BitVec 16) :
    Goes fz qu (execFireDone slot s) := by
  unfold execFireDone
  repeat' first
    | (simp +contextual (maxDischargeDepth := 99) only [put_sound, tcAdd_sound, updFire_sound, slotComplete_sound, goes_next, ite_sound, ite_goes, sound_mk, *]; done)
    | with_reducible refine goes_next ?_
    | (extract_lets +onlyGivenNames x; refine (fun (hx : Sound fz qu x) => ?_) ?_; (clear_value x; rotate_left; unfold x; clear x))
    | (extract_lets +onlyGivenNames x; refine (fun (hx : Sound fz qu x.1) => ?_) ?_; (clear_value x; rotate_left; unfold x; clear x))
    | (extract_lets +onlyGivenNames x; clear_value x)
    | split
    | with_reducible apply put_sound
    | with_reducible apply tcAdd_sound
    | with_reducible apply updFire_sound
    | with_reducible apply slotComplete_sound
    | with_reducible apply (sound_mk ..).2
    | dsimp only

theorem execColWatchdogExpiry_sound {s : State} (hs : Sound fz qu s) (slot : BitVec 16) :
    Goes fz qu (execColWatchdogExpiry slot s) := by
  unfold execColWatchdogExpiry
  repeat' first
    | (simp +contextual (maxDischargeDepth := 99) only [bump_sound, endCollective_sound, goes_next, onlyIf_sound, *]; done)
    | with_reducible refine goes_next ?_
    | with_reducible refine onlyIf_sound (fun _ _ => ?_) ?_
    | split
    | with_reducible apply bump_sound
    | with_reducible apply endCollective_sound
    | dsimp only

theorem abortWrite_sound {s : State} (hs : Sound fz qu s) (job : Nat) (coll : Nat) (all : Bool) (go : Bool) :
    Sound fz qu (abortWrite s job coll all go) := by
  unfold abortWrite
  repeat' first
    | (simp +contextual (maxDischargeDepth := 99) only [put_sound, endNumbered_sound, ite_sound, *]; done)
    | (extract_lets +onlyGivenNames x; refine (fun (hx : Sound fz qu x) => ?_) ?_; (clear_value x; rotate_left; unfold x; clear x))
    | (extract_lets +onlyGivenNames x; refine (fun (hx : Sound fz qu x.1) => ?_) ?_; (clear_value x; rotate_left; unfold x; clear x))
    | (extract_lets +onlyGivenNames x; clear_value x)
    | split
    | with_reducible apply put_sound
    | with_reducible apply endNumbered_sound
    | dsimp only

theorem execColAbortOne_sound {s : State} (hs : Sound fz qu s) (job : BitVec 12) (coll : BitVec 10) :
    Goes fz qu (execColAbortOne job coll s) := by
  unfold execColAbortOne
  repeat' first
    | (simp +contextual (maxDischargeDepth := 99) only [fn5Write_sound, abortWrite_sound, goes_next, *]; done)
    | with_reducible refine goes_next ?_
    | with_reducible refine fn5Write_sound ?_ (fun _ _ => ?_)
    | with_reducible apply abortWrite_sound
    | dsimp only

theorem execColAbortAll_sound {s : State} (hs : Sound fz qu s) (job : BitVec 12) :
    Goes fz qu (execColAbortAll job s) := by
  unfold execColAbortAll
  repeat' first
    | (simp +contextual (maxDischargeDepth := 99) only [fn5Write_sound, abortWrite_sound, goes_next, *]; done)
    | with_reducible refine goes_next ?_
    | with_reducible refine fn5Write_sound ?_ (fun _ _ => ?_)
    | with_reducible apply abortWrite_sound
    | dsimp only

end Sys2Proof.Machine
end

