-- ==== Sys2Proof/Laws/SoundXpt.lean ====
section
/-!
SUPPORT. What the operations and commands of Machine/Xpt.lean keep: the queue, the fused identity, the canonical form of memory,
and registers within their widths.
-/
namespace Sys2Proof.Machine

set_option linter.unusedTactic false
set_option linter.unreachableTactic false
set_option linter.unusedSimpArgs false

variable {fz : Fuses} {qu : List Instr}

theorem failOwner_sound {s : State} (hs : Sound fz qu s) (o : Owner) (code : Nat) :
    Sound fz qu (failOwner s o code) := by
  unfold failOwner
  repeat' first
    | (simp +contextual (maxDischargeDepth := 99) only [failMove_sound, failDesc_sound, fireFail_sound, *]; done)
    | split
    | with_reducible apply failMove_sound
    | with_reducible apply failDesc_sound
    | with_reducible apply fireFail_sound
    | dsimp only

theorem failAll_sound (n : Nat) {s : State} (h : Sound fz qu s) (x code : Nat) : Sound fz qu (failAll n s x code) := by
  induction n generalizing s with
  | zero => exact h
  | succ n ih =>
    unfold failAll
    split
    · exact ih (failDesc_sound h _ _ _ _)
    · split
      · exact h
      · exact ih (orphan_sound (failOwner_sound h _ _) _)

theorem failCtx_sound {s : State} (hs : Sound fz qu s) (x : Nat) (code : Nat) :
    Sound fz qu (failCtx s x code) := by
  unfold failCtx
  repeat' first
    | (simp +contextual (maxDischargeDepth := 99) only [put_sound, setCtx_sound, failAll_sound, ite_sound, sound_mk, *]; done)
    | (extract_lets +onlyGivenNames x; refine (fun (hx : Sound fz qu x) => ?_) ?_; (clear_value x; rotate_left; unfold x; clear x))
    | (extract_lets +onlyGivenNames x; refine (fun (hx : Sound fz qu x.1) => ?_) ?_; (clear_value x; rotate_left; unfold x; clear x))
    | (extract_lets +onlyGivenNames x; clear_value x)
    | split
    | with_reducible apply put_sound
    | with_reducible apply setCtx_sound
    | with_reducible apply failAll_sound
    | with_reducible apply (sound_mk ..).2
    | dsimp only

theorem dropMark_sound {s : State} (hs : Sound fz qu s) (x : Nat) :
    Sound fz qu (dropMark s x) := by
  unfold dropMark
  repeat' first
    | (simp +contextual (maxDischargeDepth := 99) only [setPart_sound, *]; done)
    | with_reducible apply setPart_sound
    | dsimp only

theorem ctxInvalidate_sound {s : State} (hs : Sound fz qu s) (x : Nat) :
    Sound fz qu (ctxInvalidate s x) := by
  unfold ctxInvalidate
  repeat' first
    | (simp +contextual (maxDischargeDepth := 99) only [put_sound, setCtx_sound, failAll_sound, dropMark_sound, ite_sound, *]; done)
    | (extract_lets +onlyGivenNames x; refine (fun (hx : Sound fz qu x) => ?_) ?_; (clear_value x; rotate_left; unfold x; clear x))
    | (extract_lets +onlyGivenNames x; refine (fun (hx : Sound fz qu x.1) => ?_) ?_; (clear_value x; rotate_left; unfold x; clear x))
    | (extract_lets +onlyGivenNames x; clear_value x)
    | split
    | with_reducible apply put_sound
    | with_reducible apply setCtx_sound
    | with_reducible apply failAll_sound
    | with_reducible apply dropMark_sound
    | dsimp only

theorem ctxValidate_sound {s : State} (hs : Sound fz qu s) (x : Nat) :
    Sound fz qu (ctxValidate s x) := by
  unfold ctxValidate
  repeat' first
    | (simp +contextual (maxDischargeDepth := 99) only [put_sound, setCtx_sound, dropMark_sound, ite_sound, *]; done)
    | split
    | with_reducible apply put_sound
    | with_reducible apply setCtx_sound
    | with_reducible apply dropMark_sound
    | dsimp only

theorem ctx0Write_sound {s : State} (hs : Sound fz qu s) (x : Nat) (v : Nat) :
    Sound fz qu (ctx0Write s x v) := by
  unfold ctx0Write
  repeat' first
    | (simp +contextual (maxDischargeDepth := 99) only [put_sound, ctxInvalidate_sound, ctxValidate_sound, ite_sound, *]; done)
    | (extract_lets +onlyGivenNames x; refine (fun (hx : Sound fz qu x) => ?_) ?_; (clear_value x; rotate_left; unfold x; clear x))
    | (extract_lets +onlyGivenNames x; refine (fun (hx : Sound fz qu x.1) => ?_) ?_; (clear_value x; rotate_left; unfold x; clear x))
    | (extract_lets +onlyGivenNames x; clear_value x)
    | split
    | with_reducible apply put_sound
    | with_reducible apply ctxInvalidate_sound
    | with_reducible apply ctxValidate_sound
    | dsimp only

theorem execXptCtxInvalidate_sound {s : State} (hs : Sound fz qu s) (ctx : BitVec 16) :
    Goes fz qu (execXptCtxInvalidate ctx s) := by
  unfold execXptCtxInvalidate
  repeat' first
    | (simp +contextual (maxDischargeDepth := 99) only [fn5Write_sound, ctxInvalidate_sound, goes_next, *]; done)
    | with_reducible refine goes_next ?_
    | with_reducible refine fn5Write_sound ?_ (fun _ _ => ?_)
    | with_reducible apply ctxInvalidate_sound
    | dsimp only

theorem execXptCtxValidate_sound {s : State} (hs : Sound fz qu s) (ctx : BitVec 16) :
    Goes fz qu (execXptCtxValidate ctx s) := by
  unfold execXptCtxValidate
  repeat' first
    | (simp +contextual (maxDischargeDepth := 99) only [fn5Write_sound, ctxValidate_sound, goes_next, *]; done)
    | with_reducible refine goes_next ?_
    | with_reducible refine fn5Write_sound ?_ (fun _ _ => ?_)
    | with_reducible apply ctxValidate_sound
    | dsimp only

theorem replyOn_sound {s : State} (hs : Sound fz qu s) (p : Nat) (op : Nat) (h : MolHdr) (addr : Nat) (data : Bytes) :
    Sound fz qu (replyOn s p op h addr data) := by
  unfold replyOn
  repeat' first
    | (simp +contextual (maxDischargeDepth := 99) only [sendPacket_sound, sound_mk, *]; done)
    | (extract_lets +onlyGivenNames x; refine (fun (hx : Sound fz qu x) => ?_) ?_; (clear_value x; rotate_left; unfold x; clear x))
    | (extract_lets +onlyGivenNames x; refine (fun (hx : Sound fz qu x.1) => ?_) ?_; (clear_value x; rotate_left; unfold x; clear x))
    | (extract_lets +onlyGivenNames x; clear_value x)
    | with_reducible apply sendPacket_sound
    | with_reducible apply (sound_mk ..).2
    | dsimp only

theorem ack_sound {s : State} (hs : Sound fz qu s) (p : Nat) (h : MolHdr) :
    Sound fz qu (ack s p h) := by
  unfold ack
  repeat' first
    | (simp +contextual (maxDischargeDepth := 99) only [replyOn_sound, *]; done)
    | with_reducible apply replyOn_sound
    | dsimp only

theorem nakRemote_sound {s : State} (hs : Sound fz qu s) (p : Nat) (h : MolHdr) (code : Nat) :
    Sound fz qu (nakRemote s p h code) := by
  unfold nakRemote
  repeat' first
    | (simp +contextual (maxDischargeDepth := 99) only [replyOn_sound, *]; done)
    | with_reducible apply replyOn_sound
    | dsimp only

theorem forward_sound {s : State} (hs : Sound fz qu s) (p : Nat) (op : Nat) (h : MolHdr) (data : Bytes) :
    Sound fz qu (forward s p op h data) := by
  unfold forward
  repeat' first
    | (simp +contextual (maxDischargeDepth := 99) only [bump_sound, sendPacket_sound, ite_sound, *]; done)
    | (extract_lets +onlyGivenNames x; refine (fun (hx : Sound fz qu x) => ?_) ?_; (clear_value x; rotate_left; unfold x; clear x))
    | (extract_lets +onlyGivenNames x; refine (fun (hx : Sound fz qu x.1) => ?_) ?_; (clear_value x; rotate_left; unfold x; clear x))
    | (extract_lets +onlyGivenNames x; clear_value x)
    | split
    | with_reducible apply bump_sound
    | with_reducible apply sendPacket_sound
    | dsimp only

theorem takePkt_sound {s : State} (hs : Sound fz qu s) (p : Nat) (op : Nat) (h : MolHdr) (data : Bytes) :
    Sound fz qu (takePkt s p op h data) := by
  unfold takePkt
  repeat' first
    | (simp +contextual (maxDischargeDepth := 99) only [setLink_sound, ite_sound, sound_mk, *]; done)
    | (extract_lets +onlyGivenNames x; refine (fun (hx : Sound fz qu x) => ?_) ?_; (clear_value x; rotate_left; unfold x; clear x))
    | (extract_lets +onlyGivenNames x; refine (fun (hx : Sound fz qu x.1) => ?_) ?_; (clear_value x; rotate_left; unfold x; clear x))
    | (extract_lets +onlyGivenNames x; clear_value x)
    | split
    | with_reducible apply setLink_sound
    | with_reducible apply (sound_mk ..).2
    | dsimp only

theorem holdBack_sound {s : State} (hs : Sound fz qu s) (i : Instr) :
    Sound fz qu (holdBack s i) := by
  unfold holdBack
  repeat' first
    | (simp +contextual (maxDischargeDepth := 99) only [sound_mk, *]; done)
    | with_reducible apply (sound_mk ..).2
    | dsimp only

theorem arriveMol_sound {s : State} {body : State → State} (hs : Sound fz qu s) (hfbody : ∀ (y0 : State), Sound fz qu y0 → Sound fz qu (body y0)) (p : Nat) (op : Nat) (h : MolHdr) (data : Bytes) :
    Sound fz qu (arriveMol s p op h data body) := by
  unfold arriveMol
  repeat' first
    | (simp +contextual (maxDischargeDepth := 99) only [bump_sound, nakRemote_sound, forward_sound, ite_sound, *]; done)
    | split
    | with_reducible apply bump_sound
    | with_reducible apply nakRemote_sound
    | with_reducible apply forward_sound
    | dsimp only

theorem arriveAnswer_sound {s : State} {body : State → State} (hs : Sound fz qu s) (hfbody : ∀ (y0 : State), Sound fz qu y0 → Sound fz qu (body y0)) (p : Nat) (op : Nat) (h : MolHdr) (data : Bytes) (self : Instr) :
    Sound fz qu (arriveAnswer s p op h data self body) := by
  unfold arriveAnswer
  repeat' first
    | (simp +contextual (maxDischargeDepth := 99) only [holdBack_sound, arriveMol_sound, ite_sound, onlyIf_sound, *]; done)
    | with_reducible refine onlyIf_sound (fun _ _ => ?_) ?_
    | with_reducible refine arriveMol_sound ?_ (fun _ _ => ?_) _ _ _ _
    | split
    | with_reducible apply holdBack_sound
    | dsimp only

theorem setFlow_sound {s : State} (hs : Sound fz qu s) (p : Nat) (h : MolHdr) (f : Flow) :
    Sound fz qu (setFlow s p h f) := by
  unfold setFlow
  repeat' first
    | (simp +contextual (maxDischargeDepth := 99) only [sound_mk, *]; done)
    | with_reducible apply (sound_mk ..).2
    | dsimp only

theorem flowNext_sound {s : State} (hs : Sound fz qu s) (p : Nat) (h : MolHdr) (bad : Option Nat) :
    Sound fz qu (flowNext s p h bad) := by
  unfold flowNext
  repeat' first
    | (simp +contextual (maxDischargeDepth := 99) only [holdBack_sound, setFlow_sound, ite_sound, sound_mk, each_sound, *]; done)
    | (extract_lets +onlyGivenNames x; refine (fun (hx : Sound fz qu x) => ?_) ?_; (clear_value x; rotate_left; unfold x; clear x))
    | (extract_lets +onlyGivenNames x; refine (fun (hx : Sound fz qu x.1) => ?_) ?_; (clear_value x; rotate_left; unfold x; clear x))
    | (extract_lets +onlyGivenNames x; clear_value x)
    | split
    | with_reducible refine each_sound (fun _ _ _ => ?_) _ ?_
    | with_reducible apply holdBack_sound
    | with_reducible apply setFlow_sound
    | with_reducible apply (sound_mk ..).2
    | dsimp only

theorem flowGap_sound {s : State} (hs : Sound fz qu s) (p : Nat) (h : MolHdr) (f : Flow) (self : Instr) :
    Sound fz qu (flowGap s p h f self) := by
  unfold flowGap
  repeat' first
    | (simp +contextual (maxDischargeDepth := 99) only [replyOn_sound, setFlow_sound, ite_sound, sound_mk, *]; done)
    | (extract_lets +onlyGivenNames x; refine (fun (hx : Sound fz qu x) => ?_) ?_; (clear_value x; rotate_left; unfold x; clear x))
    | (extract_lets +onlyGivenNames x; refine (fun (hx : Sound fz qu x.1) => ?_) ?_; (clear_value x; rotate_left; unfold x; clear x))
    | (extract_lets +onlyGivenNames x; clear_value x)
    | split
    | with_reducible apply replyOn_sound
    | with_reducible apply setFlow_sound
    | with_reducible apply (sound_mk ..).2
    | dsimp only

theorem flowDone_sound {x : State × Arrive} (hx : Sound fz qu x.1) (p : Nat) (h : MolHdr) (self : Instr) :
    Sound fz qu (flowDone p h self x) := by
  unfold flowDone
  repeat' first
    | (simp +contextual (maxDischargeDepth := 99) only [ack_sound, nakRemote_sound, holdBack_sound, flowNext_sound, *]; done)
    | split
    | with_reducible apply ack_sound
    | with_reducible apply nakRemote_sound
    | with_reducible apply holdBack_sound
    | with_reducible apply flowNext_sound
    | dsimp only

theorem flowAgain_sound {s : State} {body : State → State × Arrive} (hs : Sound fz qu s) (hfbody : ∀ (y0 : State), Sound fz qu y0 → Sound fz qu (body y0).1) (p : Nat) (op : Nat) (h : MolHdr) (f : Flow) (self : Instr) :
    Sound fz qu (flowAgain s p op h f self body) := by
  unfold flowAgain
  repeat' first
    | (simp +contextual (maxDischargeDepth := 99) only [ack_sound, nakRemote_sound, holdBack_sound, ite_sound, *]; done)
    | (extract_lets +onlyGivenNames x; refine (fun (hx : Sound fz qu x) => ?_) ?_; (clear_value x; rotate_left; unfold x; clear x))
    | (extract_lets +onlyGivenNames x; refine (fun (hx : Sound fz qu x.1) => ?_) ?_; (clear_value x; rotate_left; unfold x; clear x))
    | (extract_lets +onlyGivenNames x; clear_value x)
    | split
    | with_reducible apply ack_sound
    | with_reducible apply nakRemote_sound
    | with_reducible apply holdBack_sound
    | dsimp only

theorem arriveAsk_sound {s : State} {body : State → State × Arrive} (hs : Sound fz qu s) (hfbody : ∀ (y0 : State), Sound fz qu y0 → Sound fz qu (body y0).1) (p : Nat) (op : Nat) (h : MolHdr) (data : Bytes) (self : Instr) :
    Sound fz qu (arriveAsk s p op h data self body) := by
  unfold arriveAsk
  repeat' first
    | (simp +contextual (maxDischargeDepth := 99) only [nakRemote_sound, holdBack_sound, arriveMol_sound, flowGap_sound, flowDone_sound, flowAgain_sound, ite_sound, *]; done)
    | with_reducible refine arriveMol_sound ?_ (fun _ _ => ?_) _ _ _ _
    | with_reducible refine flowAgain_sound ?_ (fun _ _ => ?_) _ _ _ _ _
    | split
    | with_reducible apply nakRemote_sound
    | with_reducible apply holdBack_sound
    | with_reducible apply flowGap_sound
    | with_reducible apply flowDone_sound
    | dsimp only

theorem execMolindPacketForward_sound {s : State} (h : Sound fz qu s) (p : Port) (op : BitVec 4) (m : MolHdr) (data : Bytes) :
    Goes fz qu (execMolindPacketForward p op m data s) := by
  unfold execMolindPacketForward
  refine goes_next ?_
  split
  · exact h
  · exact arriveMol_sound (takePkt_sound h _ _ _ _) (fun _ h => h) _ _ _ _

theorem raiseGen_sound {s : State} (hs : Sound fz qu s) (r : Nat) :
    Sound fz qu (raiseGen s r) := by
  unfold raiseGen
  repeat' first
    | (simp +contextual (maxDischargeDepth := 99) only [sound_mk, *]; done)
    | with_reducible apply (sound_mk ..).2
    | dsimp only

theorem refuseCode_sound {s : State} (hs : Sound fz qu s) (a : RegAccess) (reason : Nat) :
    Sound fz qu (refuseCode s a reason).1 := by
  unfold refuseCode
  repeat' first
    | (simp +contextual (maxDischargeDepth := 99) only [noteUntranslated_sound, ite_sound, *]; done)
    | split
    | with_reducible apply noteUntranslated_sound
    | dsimp only

theorem noteRefuse_sound {s : State} (hs : Sound fz qu s) (a : RegAccess) (reason : Nat) (shown : Nat) :
    Sound fz qu (noteRefuse s a reason shown) := by
  unfold noteRefuse
  repeat' first
    | (simp +contextual (maxDischargeDepth := 99) only [put_sound, bump_sound, ite_sound, *]; done)
    | (extract_lets +onlyGivenNames x; refine (fun (hx : Sound fz qu x) => ?_) ?_; (clear_value x; rotate_left; unfold x; clear x))
    | (extract_lets +onlyGivenNames x; refine (fun (hx : Sound fz qu x.1) => ?_) ?_; (clear_value x; rotate_left; unfold x; clear x))
    | (extract_lets +onlyGivenNames x; clear_value x)
    | split
    | with_reducible apply put_sound
    | with_reducible apply bump_sound
    | dsimp only

theorem messageArrived_sound {s : State} (hs : Sound fz qu s) (r : Nat) :
    Sound fz qu (messageArrived s r) := by
  unfold messageArrived
  repeat' first
    | (simp +contextual (maxDischargeDepth := 99) only [tcAdd_sound, ite_sound, *]; done)
    | split
    | with_reducible apply tcAdd_sound
    | dsimp only

theorem keepRefused_sound {s : State} (hs : Sound fz qu s) (key : List Nat) (len : Option Nat) (n : Nat) :
    Sound fz qu (keepRefused s key len n) := by
  unfold keepRefused
  repeat' first
    | (simp +contextual (maxDischargeDepth := 99) only [notePart_sound, *]; done)
    | with_reducible apply notePart_sound
    | dsimp only

theorem putPlaced_sound {s : State} (hs : Sound fz qu s) (region : Nat) (key : List Nat) (len : Option Nat) (n : Nat) :
    Sound fz qu (putPlaced s region key len n) := by
  unfold putPlaced
  repeat' first
    | (simp +contextual (maxDischargeDepth := 99) only [notePart_sound, messageArrived_sound, ite_sound, *]; done)
    | (extract_lets +onlyGivenNames x; refine (fun (hx : Sound fz qu x) => ?_) ?_; (clear_value x; rotate_left; unfold x; clear x))
    | (extract_lets +onlyGivenNames x; refine (fun (hx : Sound fz qu x.1) => ?_) ?_; (clear_value x; rotate_left; unfold x; clear x))
    | (extract_lets +onlyGivenNames x; clear_value x)
    | split
    | with_reducible apply notePart_sound
    | with_reducible apply messageArrived_sound
    | dsimp only

theorem placeWrite_sound {s : State} (hs : Sound fz qu s) (a : RegAccess) (key : List Nat) (len : Option Nat) (shown : Nat) (b : Bytes) :
    Sound fz qu (placeWrite s a key len shown b).1 := by
  unfold placeWrite
  repeat' first
    | (simp +contextual (maxDischargeDepth := 99) only [writeVa_sound, refuseCode_sound, noteRefuse_sound, keepRefused_sound, putPlaced_sound, ite_sound, *]; done)
    | (extract_lets +onlyGivenNames x; refine (fun (hx : Sound fz qu x) => ?_) ?_; (clear_value x; rotate_left; unfold x; clear x))
    | (extract_lets +onlyGivenNames x; refine (fun (hx : Sound fz qu x.1) => ?_) ?_; (clear_value x; rotate_left; unfold x; clear x))
    | (extract_lets +onlyGivenNames x; clear_value x)
    | split
    | with_reducible apply writeVa_sound
    | with_reducible apply refuseCode_sound
    | with_reducible apply noteRefuse_sound
    | with_reducible apply keepRefused_sound
    | with_reducible apply putPlaced_sound
    | dsimp only

theorem placeRead_sound {s : State} (hs : Sound fz qu s) (a : RegAccess) (shown : Nat) :
    Sound fz qu (placeRead s a shown).1 := by
  unfold placeRead
  repeat' first
    | (simp +contextual (maxDischargeDepth := 99) only [readVa_sound, refuseCode_sound, noteRefuse_sound, ite_sound, *]; done)
    | (extract_lets +onlyGivenNames x; refine (fun (hx : Sound fz qu x) => ?_) ?_; (clear_value x; rotate_left; unfold x; clear x))
    | (extract_lets +onlyGivenNames x; refine (fun (hx : Sound fz qu x.1) => ?_) ?_; (clear_value x; rotate_left; unfold x; clear x))
    | (extract_lets +onlyGivenNames x; clear_value x)
    | split
    | with_reducible apply readVa_sound
    | with_reducible apply refuseCode_sound
    | with_reducible apply noteRefuse_sound
    | dsimp only

theorem rxPut_sound {s : State} (hs : Sound fz qu s) (p : Port) (h : MolHdr) (m : PutMark) (data : Bytes) :
    Sound fz qu (rxPut p h m data s) := by
  unfold rxPut
  repeat' first
    | (simp +contextual (maxDischargeDepth := 99) only [arriveAsk_sound, placeWrite_sound, *]; done)
    | with_reducible refine arriveAsk_sound ?_ (fun _ _ => ?_) _ _ _ _ _
    | with_reducible apply placeWrite_sound
    | dsimp only

theorem execMolindPutRx_sound {s : State} (hs : Sound fz qu s) (p : Port) (h : MolHdr) (m : PutMark) (data : Bytes) :
    Goes fz qu (execMolindPutRx p h m data s) := by
  unfold execMolindPutRx
  repeat' first
    | (simp +contextual (maxDischargeDepth := 99) only [takePkt_sound, rxPut_sound, goes_next, *]; done)
    | with_reducible refine goes_next ?_
    | with_reducible apply takePkt_sound
    | with_reducible apply rxPut_sound
    | dsimp only

theorem rxFlag_sound {s : State} (hs : Sound fz qu s) (p : Port) (h : MolHdr) (value : BitVec 64) :
    Sound fz qu (rxFlag p h value s) := by
  unfold rxFlag
  repeat' first
    | (simp +contextual (maxDischargeDepth := 99) only [arriveAsk_sound, placeWrite_sound, *]; done)
    | with_reducible refine arriveAsk_sound ?_ (fun _ _ => ?_) _ _ _ _ _
    | with_reducible apply placeWrite_sound
    | dsimp only

theorem execMolindFlagWriteRx_sound {s : State} (hs : Sound fz qu s) (p : Port) (h : MolHdr) (value : BitVec 64) :
    Goes fz qu (execMolindFlagWriteRx p h value s) := by
  unfold execMolindFlagWriteRx
  repeat' first
    | (simp +contextual (maxDischargeDepth := 99) only [takePkt_sound, rxFlag_sound, goes_next, *]; done)
    | with_reducible refine goes_next ?_
    | with_reducible apply takePkt_sound
    | with_reducible apply rxFlag_sound
    | dsimp only

theorem rxGet_sound {s : State} (hs : Sound fz qu s) (p : Port) (h : MolHdr) (len : BitVec 31) :
    Sound fz qu (rxGet p h len s) := by
  unfold rxGet
  repeat' first
    | (simp +contextual (maxDischargeDepth := 99) only [replyOn_sound, arriveAsk_sound, placeRead_sound, each_sound, *]; done)
    | with_reducible refine arriveAsk_sound ?_ (fun _ _ => ?_) _ _ _ _ _
    | (extract_lets +onlyGivenNames x; refine (fun (hx : Sound fz qu x) => ?_) ?_; (clear_value x; rotate_left; unfold x; clear x))
    | (extract_lets +onlyGivenNames x; refine (fun (hx : Sound fz qu x.1) => ?_) ?_; (clear_value x; rotate_left; unfold x; clear x))
    | (extract_lets +onlyGivenNames x; clear_value x)
    | split
    | with_reducible refine each_sound (fun _ _ _ => ?_) _ ?_
    | with_reducible apply replyOn_sound
    | with_reducible apply placeRead_sound
    | dsimp only

theorem execMolindGetRequestRx_sound {s : State} (hs : Sound fz qu s) (p : Port) (h : MolHdr) (len : BitVec 31) :
    Goes fz qu (execMolindGetRequestRx p h len s) := by
  unfold execMolindGetRequestRx
  repeat' first
    | (simp +contextual (maxDischargeDepth := 99) only [takePkt_sound, rxGet_sound, goes_next, *]; done)
    | with_reducible refine goes_next ?_
    | with_reducible apply takePkt_sound
    | with_reducible apply rxGet_sound
    | dsimp only

theorem rxBoardWrite_sound {s : State} (hs : Sound fz qu s) (p : Port) (h : MolHdr) (data : Bytes) :
    Sound fz qu (rxBoardWrite p h data s) := by
  unfold rxBoardWrite
  repeat' first
    | (simp +contextual (maxDischargeDepth := 99) only [writeOff_sound, arriveAsk_sound, ite_sound, *]; done)
    | with_reducible refine arriveAsk_sound ?_ (fun _ _ => ?_) _ _ _ _ _
    | (extract_lets +onlyGivenNames x; refine (fun (hx : Sound fz qu x) => ?_) ?_; (clear_value x; rotate_left; unfold x; clear x))
    | (extract_lets +onlyGivenNames x; refine (fun (hx : Sound fz qu x.1) => ?_) ?_; (clear_value x; rotate_left; unfold x; clear x))
    | (extract_lets +onlyGivenNames x; clear_value x)
    | split
    | with_reducible apply writeOff_sound
    | dsimp only

theorem execBoardWriteRx_sound {s : State} (hs : Sound fz qu s) (p : Port) (h : MolHdr) (data : Bytes) :
    Goes fz qu (execBoardWriteRx p h data s) := by
  unfold execBoardWriteRx
  repeat' first
    | (simp +contextual (maxDischargeDepth := 99) only [takePkt_sound, rxBoardWrite_sound, goes_next, *]; done)
    | with_reducible refine goes_next ?_
    | with_reducible apply takePkt_sound
    | with_reducible apply rxBoardWrite_sound
    | dsimp only

theorem rxBoardRead_sound {s : State} (hs : Sound fz qu s) (p : Port) (h : MolHdr) (len : BitVec 13) :
    Sound fz qu (rxBoardRead p h len s) := by
  unfold rxBoardRead
  repeat' first
    | (simp +contextual (maxDischargeDepth := 99) only [readOff_sound, replyOn_sound, arriveAsk_sound, ite_sound, *]; done)
    | with_reducible refine arriveAsk_sound ?_ (fun _ _ => ?_) _ _ _ _ _
    | (extract_lets +onlyGivenNames x; refine (fun (hx : Sound fz qu x) => ?_) ?_; (clear_value x; rotate_left; unfold x; clear x))
    | (extract_lets +onlyGivenNames x; refine (fun (hx : Sound fz qu x.1) => ?_) ?_; (clear_value x; rotate_left; unfold x; clear x))
    | (extract_lets +onlyGivenNames x; clear_value x)
    | split
    | with_reducible apply readOff_sound
    | with_reducible apply replyOn_sound
    | dsimp only

theorem execBoardReadRx_sound {s : State} (hs : Sound fz qu s) (p : Port) (h : MolHdr) (len : BitVec 13) :
    Goes fz qu (execBoardReadRx p h len s) := by
  unfold execBoardReadRx
  repeat' first
    | (simp +contextual (maxDischargeDepth := 99) only [takePkt_sound, rxBoardRead_sound, goes_next, *]; done)
    | with_reducible refine goes_next ?_
    | with_reducible apply takePkt_sound
    | with_reducible apply rxBoardRead_sound
    | dsimp only

theorem rxAck_sound {s : State} (hs : Sound fz qu s) (p : Port) (h : MolHdr) :
    Sound fz qu (rxAck p h s) := by
  unfold rxAck
  repeat' first
    | (simp +contextual (maxDischargeDepth := 99) only [ackWhere_sound, arriveAnswer_sound, *]; done)
    | with_reducible refine arriveAnswer_sound ?_ (fun _ _ => ?_) _ _ _ _ _
    | with_reducible apply ackWhere_sound
    | dsimp only

theorem execMolindAckRx_sound {s : State} (hs : Sound fz qu s) (p : Port) (h : MolHdr) :
    Goes fz qu (execMolindAckRx p h s) := by
  unfold execMolindAckRx
  repeat' first
    | (simp +contextual (maxDischargeDepth := 99) only [takePkt_sound, rxAck_sound, goes_next, *]; done)
    | with_reducible refine goes_next ?_
    | with_reducible apply takePkt_sound
    | with_reducible apply rxAck_sound
    | dsimp only

theorem forget_sound {s : State} (hs : Sound fz qu s) (x : Nat) (f : Unacked → Bool) :
    Sound fz qu (forget s x f) := by
  unfold forget
  repeat' first
    | (simp +contextual (maxDischargeDepth := 99) only [setCtx_sound, sound_mk, *]; done)
    | with_reducible apply setCtx_sound
    | with_reducible apply (sound_mk ..).2
    | dsimp only

theorem rxNakRemote_sound {s : State} (hs : Sound fz qu s) (p : Port) (h : MolHdr) (code : BitVec 8) :
    Sound fz qu (rxNakRemote p h code s) := by
  unfold rxNakRemote
  repeat' first
    | (simp +contextual (maxDischargeDepth := 99) only [pullQueue_sound, failOwner_sound, failCtx_sound, arriveAnswer_sound, forget_sound, ite_sound, *]; done)
    | with_reducible refine arriveAnswer_sound ?_ (fun _ _ => ?_) _ _ _ _ _
    | (extract_lets +onlyGivenNames x; refine (fun (hx : Sound fz qu x) => ?_) ?_; (clear_value x; rotate_left; unfold x; clear x))
    | (extract_lets +onlyGivenNames x; refine (fun (hx : Sound fz qu x.1) => ?_) ?_; (clear_value x; rotate_left; unfold x; clear x))
    | (extract_lets +onlyGivenNames x; clear_value x)
    | split
    | with_reducible apply pullQueue_sound
    | with_reducible apply failOwner_sound
    | with_reducible apply failCtx_sound
    | with_reducible apply forget_sound
    | dsimp only

theorem execMolindNakRemoteRx_sound {s : State} (hs : Sound fz qu s) (p : Port) (h : MolHdr) (code : BitVec 8) :
    Goes fz qu (execMolindNakRemoteRx p h code s) := by
  unfold execMolindNakRemoteRx
  repeat' first
    | (simp +contextual (maxDischargeDepth := 99) only [takePkt_sound, rxNakRemote_sound, goes_next, *]; done)
    | with_reducible refine goes_next ?_
    | with_reducible apply takePkt_sound
    | with_reducible apply rxNakRemote_sound
    | dsimp only

theorem rxNakSeq_sound {s : State} (hs : Sound fz qu s) (p : Port) (h : MolHdr) :
    Sound fz qu (rxNakSeq p h s) := by
  unfold rxNakSeq
  repeat' first
    | (simp +contextual (maxDischargeDepth := 99) only [bump_sound, resend_sound, arriveAnswer_sound, *]; done)
    | with_reducible refine arriveAnswer_sound ?_ (fun _ _ => ?_) _ _ _ _ _
    | with_reducible apply bump_sound
    | with_reducible apply resend_sound
    | dsimp only

theorem execMolindNakSequenceRx_sound {s : State} (hs : Sound fz qu s) (p : Port) (h : MolHdr) :
    Goes fz qu (execMolindNakSequenceRx p h s) := by
  unfold execMolindNakSequenceRx
  repeat' first
    | (simp +contextual (maxDischargeDepth := 99) only [takePkt_sound, rxNakSeq_sound, goes_next, *]; done)
    | with_reducible refine goes_next ?_
    | with_reducible apply takePkt_sound
    | with_reducible apply rxNakSeq_sound
    | dsimp only

theorem rxSelAck_sound {s : State} (hs : Sound fz qu s) (p : Port) (h : MolHdr) (bitmap : BitVec 64) :
    Sound fz qu (rxSelAck p h bitmap s) := by
  unfold rxSelAck
  repeat' first
    | (simp +contextual (maxDischargeDepth := 99) only [bump_sound, ackWhere_sound, resend_sound, arriveAnswer_sound, ite_sound, *]; done)
    | with_reducible refine arriveAnswer_sound ?_ (fun _ _ => ?_) _ _ _ _ _
    | (extract_lets +onlyGivenNames x; refine (fun (hx : Sound fz qu x) => ?_) ?_; (clear_value x; rotate_left; unfold x; clear x))
    | (extract_lets +onlyGivenNames x; refine (fun (hx : Sound fz qu x.1) => ?_) ?_; (clear_value x; rotate_left; unfold x; clear x))
    | (extract_lets +onlyGivenNames x; clear_value x)
    | split
    | with_reducible apply bump_sound
    | with_reducible apply ackWhere_sound
    | with_reducible apply resend_sound
    | dsimp only

theorem execMolindSelectiveAckRx_sound {s : State} (hs : Sound fz qu s) (p : Port) (h : MolHdr) (bitmap : BitVec 64) :
    Goes fz qu (execMolindSelectiveAckRx p h bitmap s) := by
  unfold execMolindSelectiveAckRx
  repeat' first
    | (simp +contextual (maxDischargeDepth := 99) only [takePkt_sound, rxSelAck_sound, goes_next, *]; done)
    | with_reducible refine goes_next ?_
    | with_reducible apply takePkt_sound
    | with_reducible apply rxSelAck_sound
    | dsimp only

theorem giveBytes_sound {s : State} (hs : Sound fz qu s) (u : Unacked) (b : Bytes) (tail : Bool) :
    Sound fz qu (giveBytes s u b tail) := by
  unfold giveBytes
  repeat' first
    | (simp +contextual (maxDischargeDepth := 99) only [failMove_sound, writeOff_sound, ownerStep_sound, respond_sound, ite_sound, *]; done)
    | (extract_lets +onlyGivenNames x; refine (fun (hx : Sound fz qu x) => ?_) ?_; (clear_value x; rotate_left; unfold x; clear x))
    | (extract_lets +onlyGivenNames x; refine (fun (hx : Sound fz qu x.1) => ?_) ?_; (clear_value x; rotate_left; unfold x; clear x))
    | (extract_lets +onlyGivenNames x; clear_value x)
    | split
    | with_reducible apply failMove_sound
    | with_reducible apply writeOff_sound
    | with_reducible apply ownerStep_sound
    | with_reducible apply respond_sound
    | dsimp only

theorem answerRequest_sound {s : State} (hs : Sound fz qu s) (x : Nat) (op : Nat) (addr : Nat) (b : Bytes) (self : Instr) :
    Sound fz qu (answerRequest s x op addr b self) := by
  unfold answerRequest
  repeat' first
    | (simp +contextual (maxDischargeDepth := 99) only [setCtx_sound, pullQueue_sound, holdBack_sound, forget_sound, giveBytes_sound, ite_sound, sound_mk, *]; done)
    | (extract_lets +onlyGivenNames x; refine (fun (hx : Sound fz qu x) => ?_) ?_; (clear_value x; rotate_left; unfold x; clear x))
    | (extract_lets +onlyGivenNames x; refine (fun (hx : Sound fz qu x.1) => ?_) ?_; (clear_value x; rotate_left; unfold x; clear x))
    | (extract_lets +onlyGivenNames x; clear_value x)
    | split
    | with_reducible apply setCtx_sound
    | with_reducible apply pullQueue_sound
    | with_reducible apply holdBack_sound
    | with_reducible apply forget_sound
    | with_reducible apply giveBytes_sound
    | with_reducible apply (sound_mk ..).2
    | dsimp only

theorem rxGetResponse_sound {s : State} (hs : Sound fz qu s) (p : Port) (h : MolHdr) (last : Bool) (data : Bytes) :
    Sound fz qu (rxGetResponse p h last data s) := by
  unfold rxGetResponse
  repeat' first
    | (simp +contextual (maxDischargeDepth := 99) only [arriveAnswer_sound, answerRequest_sound, *]; done)
    | with_reducible refine arriveAnswer_sound ?_ (fun _ _ => ?_) _ _ _ _ _
    | with_reducible apply answerRequest_sound
    | dsimp only

theorem execMolindGetResponseRx_sound {s : State} (hs : Sound fz qu s) (p : Port) (h : MolHdr) (last : Bool) (data : Bytes) :
    Goes fz qu (execMolindGetResponseRx p h last data s) := by
  unfold execMolindGetResponseRx
  repeat' first
    | (simp +contextual (maxDischargeDepth := 99) only [takePkt_sound, rxGetResponse_sound, goes_next, *]; done)
    | with_reducible refine goes_next ?_
    | with_reducible apply takePkt_sound
    | with_reducible apply rxGetResponse_sound
    | dsimp only

theorem rxBoardResponse_sound {s : State} (hs : Sound fz qu s) (p : Port) (h : MolHdr) (data : Bytes) :
    Sound fz qu (rxBoardResponse p h data s) := by
  unfold rxBoardResponse
  repeat' first
    | (simp +contextual (maxDischargeDepth := 99) only [arriveAnswer_sound, answerRequest_sound, *]; done)
    | with_reducible refine arriveAnswer_sound ?_ (fun _ _ => ?_) _ _ _ _ _
    | with_reducible apply answerRequest_sound
    | dsimp only

theorem execBoardReadResponseRx_sound {s : State} (hs : Sound fz qu s) (p : Port) (h : MolHdr) (data : Bytes) :
    Goes fz qu (execBoardReadResponseRx p h data s) := by
  unfold execBoardReadResponseRx
  repeat' first
    | (simp +contextual (maxDischargeDepth := 99) only [takePkt_sound, rxBoardResponse_sound, goes_next, *]; done)
    | with_reducible refine goes_next ?_
    | with_reducible apply takePkt_sound
    | with_reducible apply rxBoardResponse_sound
    | dsimp only

theorem pullAll_sound {s : State} (hs : Sound fz qu s) :
    Sound fz qu (pullAll s) := by
  unfold pullAll
  repeat' first
    | (simp +contextual (maxDischargeDepth := 99) only [pullQueue_sound, each_sound, *]; done)
    | split
    | with_reducible refine each_sound (fun _ _ _ => ?_) _ ?_
    | with_reducible apply pullQueue_sound
    | dsimp only

theorem giveUp_sound {s : State} (hs : Sound fz qu s) (x : Nat) :
    Sound fz qu (giveUp s x) := by
  unfold giveUp
  repeat' first
    | (simp +contextual (maxDischargeDepth := 99) only [setCtx_sound, pullAll_sound, sound_mk, *]; done)
    | with_reducible apply setCtx_sound
    | with_reducible apply pullAll_sound
    | with_reducible apply (sound_mk ..).2
    | dsimp only

theorem retryCtx_sound {s : State} (hs : Sound fz qu s) (x : Nat) :
    Sound fz qu (retryCtx s x) := by
  unfold retryCtx
  repeat' first
    | (simp +contextual (maxDischargeDepth := 99) only [setCtx_sound, resend_sound, failCtx_sound, giveUp_sound, ite_sound, sound_mk, *]; done)
    | (extract_lets +onlyGivenNames x; refine (fun (hx : Sound fz qu x) => ?_) ?_; (clear_value x; rotate_left; unfold x; clear x))
    | (extract_lets +onlyGivenNames x; refine (fun (hx : Sound fz qu x.1) => ?_) ?_; (clear_value x; rotate_left; unfold x; clear x))
    | (extract_lets +onlyGivenNames x; clear_value x)
    | split
    | with_reducible apply setCtx_sound
    | with_reducible apply resend_sound
    | with_reducible apply failCtx_sound
    | with_reducible apply giveUp_sound
    | with_reducible apply (sound_mk ..).2
    | dsimp only

theorem execTransportAckTimeout_sound {s : State} (hs : Sound fz qu s) (ctx : BitVec 16) :
    Goes fz qu (execTransportAckTimeout ctx s) := by
  unfold execTransportAckTimeout
  repeat' first
    | (simp +contextual (maxDischargeDepth := 99) only [bump_sound, retryCtx_sound, goes_next, onlyIf_sound, *]; done)
    | with_reducible refine goes_next ?_
    | with_reducible refine onlyIf_sound (fun _ _ => ?_) ?_
    | (extract_lets +onlyGivenNames x; refine (fun (hx : Sound fz qu x) => ?_) ?_; (clear_value x; rotate_left; unfold x; clear x))
    | (extract_lets +onlyGivenNames x; refine (fun (hx : Sound fz qu x.1) => ?_) ?_; (clear_value x; rotate_left; unfold x; clear x))
    | (extract_lets +onlyGivenNames x; clear_value x)
    | with_reducible apply bump_sound
    | with_reducible apply retryCtx_sound
    | dsimp only

theorem rxCol_sound {s : State} (hs : Sound fz qu s) (p : Port) (h : MolHdr) (ch : ColHdr) (data : Bytes) (self : Instr) :
    Sound fz qu (rxCol p h ch data self s) := by
  unfold rxCol
  repeat' first
    | (simp +contextual (maxDischargeDepth := 99) only [colPlace_sound, arriveAsk_sound, *]; done)
    | with_reducible refine arriveAsk_sound ?_ (fun _ _ => ?_) _ _ _ _ _
    | with_reducible apply colPlace_sound
    | dsimp only

theorem execCollectiveSendRx_sound {s : State} (hs : Sound fz qu s) (p : Port) (h : MolHdr) (ch : ColHdr) (data : Bytes) :
    Goes fz qu (execCollectiveSendRx p h ch data s) := by
  unfold execCollectiveSendRx
  repeat' first
    | (simp +contextual (maxDischargeDepth := 99) only [takePkt_sound, rxCol_sound, goes_next, *]; done)
    | with_reducible refine goes_next ?_
    | with_reducible apply takePkt_sound
    | with_reducible apply rxCol_sound
    | dsimp only

theorem execCollectiveCounterAddRx_sound {s : State} (hs : Sound fz qu s) (p : Port) (h : MolHdr) (ch : ColHdr) :
    Goes fz qu (execCollectiveCounterAddRx p h ch s) := by
  unfold execCollectiveCounterAddRx
  repeat' first
    | (simp +contextual (maxDischargeDepth := 99) only [takePkt_sound, rxCol_sound, goes_next, *]; done)
    | with_reducible refine goes_next ?_
    | with_reducible apply takePkt_sound
    | with_reducible apply rxCol_sound
    | dsimp only

theorem roceOut_sound {s : State} (hs : Sound fz qu s) (p : Nat) (op : Nat) (x : Nat) (psn : Nat) :
    Sound fz qu (roceOut s p op x psn) := by
  unfold roceOut
  repeat' first
    | (simp +contextual (maxDischargeDepth := 99) only [sendFrame_sound, *]; done)
    | with_reducible apply sendFrame_sound
    | dsimp only

theorem roceLost_sound {s : State} (hs : Sound fz qu s) (p : Nat) (h : RoceHdr) :
    Sound fz qu (roceLost s p h) := by
  unfold roceLost
  repeat' first
    | (simp +contextual (maxDischargeDepth := 99) only [freeTick_sound, sendFrame_sound, sound_mk, *]; done)
    | (extract_lets +onlyGivenNames x; refine (fun (hx : Sound fz qu x) => ?_) ?_; (clear_value x; rotate_left; unfold x; clear x))
    | (extract_lets +onlyGivenNames x; refine (fun (hx : Sound fz qu x.1) => ?_) ?_; (clear_value x; rotate_left; unfold x; clear x))
    | (extract_lets +onlyGivenNames x; clear_value x)
    | with_reducible apply freeTick_sound
    | with_reducible apply sendFrame_sound
    | with_reducible apply (sound_mk ..).2
    | dsimp only

theorem sendCnp_sound {s : State} (hs : Sound fz qu s) (p : Nat) (x : Nat) :
    Sound fz qu (sendCnp s p x) := by
  unfold sendCnp
  repeat' first
    | (simp +contextual (maxDischargeDepth := 99) only [setCtx_sound, roceOut_sound, ite_sound, sound_mk, *]; done)
    | (extract_lets +onlyGivenNames x; refine (fun (hx : Sound fz qu x) => ?_) ?_; (clear_value x; rotate_left; unfold x; clear x))
    | (extract_lets +onlyGivenNames x; refine (fun (hx : Sound fz qu x.1) => ?_) ?_; (clear_value x; rotate_left; unfold x; clear x))
    | (extract_lets +onlyGivenNames x; clear_value x)
    | split
    | with_reducible apply setCtx_sound
    | with_reducible apply roceOut_sound
    | with_reducible apply (sound_mk ..).2
    | dsimp only

theorem arriveRoce_sound {s : State} {body : Nat → State → State} (hs : Sound fz qu s) (hfbody : ∀ (y0 : Nat) (y1 : State), Sound fz qu y1 → Sound fz qu (body y0 y1)) (p : Nat) (h : RoceHdr) (asks : Bool) :
    Sound fz qu (arriveRoce s p h asks body) := by
  unfold arriveRoce
  repeat' first
    | (simp +contextual (maxDischargeDepth := 99) only [bump_sound, roceLost_sound, sendCnp_sound, ite_sound, *]; done)
    | split
    | with_reducible apply bump_sound
    | with_reducible apply roceLost_sound
    | with_reducible apply sendCnp_sound
    | dsimp only

theorem roceDone_sound {r : State × Arrive} (hr : Sound fz qu r.1) (p : Nat) (x : Nat) (h : RoceHdr) (n : Nat) (self : Instr) :
    Sound fz qu (roceDone p x h n self r) := by
  unfold roceDone
  repeat' first
    | (simp +contextual (maxDischargeDepth := 99) only [put_sound, holdBack_sound, roceOut_sound, *]; done)
    | split
    | with_reducible apply put_sound
    | with_reducible apply holdBack_sound
    | with_reducible apply roceOut_sound
    | dsimp only

theorem judge_sound {s : State} {body : State → State × Arrive} {repeated : State → State} (hs : Sound fz qu s) (hfbody : ∀ (y0 : State), Sound fz qu y0 → Sound fz qu (body y0).1) (hfrepeated : ∀ (y0 : State), Sound fz qu y0 → Sound fz qu (repeated y0)) (p : Nat) (x : Nat) (h : RoceHdr) (n : Nat) (self : Instr) :
    Sound fz qu (judge s p x h n self body repeated) := by
  unfold judge
  repeat' first
    | (simp +contextual (maxDischargeDepth := 99) only [holdBack_sound, roceOut_sound, roceDone_sound, ite_sound, *]; done)
    | (extract_lets +onlyGivenNames x; refine (fun (hx : Sound fz qu x) => ?_) ?_; (clear_value x; rotate_left; unfold x; clear x))
    | (extract_lets +onlyGivenNames x; refine (fun (hx : Sound fz qu x.1) => ?_) ?_; (clear_value x; rotate_left; unfold x; clear x))
    | (extract_lets +onlyGivenNames x; clear_value x)
    | split
    | with_reducible apply holdBack_sound
    | with_reducible apply roceOut_sound
    | with_reducible apply roceDone_sound
    | dsimp only

theorem execRoceRdmaWriteRx_sound {s : State} (hs : Sound fz qu s) (p : Port) (h : RoceHdr) (imm : Bool) (ends : WriteEnds) (data : Bytes) :
    Goes fz qu (execRoceRdmaWriteRx p h imm ends data s) := by
  unfold execRoceRdmaWriteRx
  repeat' first
    | (simp +contextual (maxDischargeDepth := 99) only [dropMark_sound, placeWrite_sound, roceOut_sound, arriveRoce_sound, judge_sound, goes_next, ite_sound, ite_goes, sound_mk, *]; done)
    | with_reducible refine goes_next ?_
    | with_reducible refine arriveRoce_sound ?_ (fun _ _ _ => ?_) _ _ _
    | with_reducible refine judge_sound ?_ (fun _ _ => ?_) (fun _ _ => ?_) _ _ _ _ _
    | split
    | with_reducible apply dropMark_sound
    | with_reducible apply placeWrite_sound
    | with_reducible apply roceOut_sound
    | with_reducible apply (sound_mk ..).2
    | dsimp only

theorem roceServe_sound {s : State} (hs : Sound fz qu s) (p : Nat) (x : Nat) (h : RoceHdr) :
    Sound fz qu (roceServe p x h s).1 := by
  unfold roceServe
  repeat' first
    | (simp +contextual (maxDischargeDepth := 99) only [sendFrame_sound, placeRead_sound, each_sound, *]; done)
    | (extract_lets +onlyGivenNames x; refine (fun (hx : Sound fz qu x) => ?_) ?_; (clear_value x; rotate_left; unfold x; clear x))
    | (extract_lets +onlyGivenNames x; refine (fun (hx : Sound fz qu x.1) => ?_) ?_; (clear_value x; rotate_left; unfold x; clear x))
    | (extract_lets +onlyGivenNames x; clear_value x)
    | split
    | with_reducible refine each_sound (fun _ _ _ => ?_) _ ?_
    | with_reducible apply sendFrame_sound
    | with_reducible apply placeRead_sound
    | dsimp only

theorem execRoceRdmaReadRx_sound {s : State} (hs : Sound fz qu s) (p : Port) (h : RoceHdr) :
    Goes fz qu (execRoceRdmaReadRx p h s) := by
  unfold execRoceRdmaReadRx
  repeat' first
    | (simp +contextual (maxDischargeDepth := 99) only [holdBack_sound, roceOut_sound, arriveRoce_sound, judge_sound, roceServe_sound, goes_next, sound_mk, *]; done)
    | with_reducible refine goes_next ?_
    | with_reducible refine arriveRoce_sound ?_ (fun _ _ _ => ?_) _ _ _
    | with_reducible refine judge_sound ?_ (fun _ _ => ?_) (fun _ _ => ?_) _ _ _ _ _
    | (extract_lets +onlyGivenNames x; refine (fun (hx : Sound fz qu x) => ?_) ?_; (clear_value x; rotate_left; unfold x; clear x))
    | (extract_lets +onlyGivenNames x; refine (fun (hx : Sound fz qu x.1) => ?_) ?_; (clear_value x; rotate_left; unfold x; clear x))
    | (extract_lets +onlyGivenNames x; clear_value x)
    | split
    | with_reducible apply holdBack_sound
    | with_reducible apply roceOut_sound
    | with_reducible apply roceServe_sound
    | with_reducible apply (sound_mk ..).2
    | dsimp only

theorem execRoceUnsupportedRx_sound {s : State} (hs : Sound fz qu s) (p : Port) (h : RoceHdr) (what : RoceOdd) :
    Goes fz qu (execRoceUnsupportedRx p h what s) := by
  unfold execRoceUnsupportedRx
  repeat' first
    | (simp +contextual (maxDischargeDepth := 99) only [bump_sound, roceOut_sound, arriveRoce_sound, goes_next, onlyIf_sound, *]; done)
    | with_reducible refine goes_next ?_
    | with_reducible refine onlyIf_sound (fun _ _ => ?_) ?_
    | with_reducible refine arriveRoce_sound ?_ (fun _ _ _ => ?_) _ _ _
    | split
    | with_reducible apply bump_sound
    | with_reducible apply roceOut_sound
    | dsimp only

theorem execRoceReadResponseRx_sound {s : State} (hs : Sound fz qu s) (p : Port) (h : RoceHdr) (last : Bool) (data : Bytes) :
    Goes fz qu (execRoceReadResponseRx p h last data s) := by
  unfold execRoceReadResponseRx
  repeat' first
    | (simp +contextual (maxDischargeDepth := 99) only [setCtx_sound, pullQueue_sound, holdBack_sound, giveBytes_sound, arriveRoce_sound, goes_next, ite_sound, ite_goes, sound_mk, *]; done)
    | with_reducible refine goes_next ?_
    | with_reducible refine arriveRoce_sound ?_ (fun _ _ _ => ?_) _ _ _
    | (extract_lets +onlyGivenNames x; refine (fun (hx : Sound fz qu x) => ?_) ?_; (clear_value x; rotate_left; unfold x; clear x))
    | (extract_lets +onlyGivenNames x; refine (fun (hx : Sound fz qu x.1) => ?_) ?_; (clear_value x; rotate_left; unfold x; clear x))
    | (extract_lets +onlyGivenNames x; clear_value x)
    | split
    | with_reducible apply setCtx_sound
    | with_reducible apply pullQueue_sound
    | with_reducible apply holdBack_sound
    | with_reducible apply giveBytes_sound
    | with_reducible apply (sound_mk ..).2
    | dsimp only

theorem execRoceAckRx_sound {s : State} (hs : Sound fz qu s) (p : Port) (h : RoceHdr) :
    Goes fz qu (execRoceAckRx p h s) := by
  unfold execRoceAckRx
  repeat' first
    | (simp +contextual (maxDischargeDepth := 99) only [ackWhere_sound, arriveRoce_sound, goes_next, *]; done)
    | with_reducible refine goes_next ?_
    | with_reducible refine arriveRoce_sound ?_ (fun _ _ _ => ?_) _ _ _
    | with_reducible apply ackWhere_sound
    | dsimp only

theorem execRoceNakRx_sound {s : State} (hs : Sound fz qu s) (p : Port) (h : RoceHdr) (what : RoceNak) :
    Goes fz qu (execRoceNakRx p h what s) := by
  unfold execRoceNakRx
  repeat' first
    | (simp +contextual (maxDischargeDepth := 99) only [bump_sound, sequence_sound, ackWhere_sound, resend_sound, failCtx_sound, retryCtx_sound, arriveRoce_sound, goes_next, *]; done)
    | with_reducible refine goes_next ?_
    | with_reducible refine sequence_sound ?_ (fun _ _ => ?_) _ _ _
    | with_reducible refine arriveRoce_sound ?_ (fun _ _ _ => ?_) _ _ _
    | (extract_lets +onlyGivenNames x; refine (fun (hx : Sound fz qu x) => ?_) ?_; (clear_value x; rotate_left; unfold x; clear x))
    | (extract_lets +onlyGivenNames x; refine (fun (hx : Sound fz qu x.1) => ?_) ?_; (clear_value x; rotate_left; unfold x; clear x))
    | (extract_lets +onlyGivenNames x; clear_value x)
    | split
    | with_reducible apply bump_sound
    | with_reducible apply ackWhere_sound
    | with_reducible apply resend_sound
    | with_reducible apply failCtx_sound
    | with_reducible apply retryCtx_sound
    | dsimp only

theorem execRoceCnpRx_sound {s : State} (hs : Sound fz qu s) (p : Port) (h : RoceHdr) :
    Goes fz qu (execRoceCnpRx p h s) := by
  unfold execRoceCnpRx
  repeat' first
    | (simp +contextual (maxDischargeDepth := 99) only [bump_sound, setCtx_sound, arriveRoce_sound, goes_next, ite_sound, ite_goes, sound_mk, *]; done)
    | with_reducible refine goes_next ?_
    | with_reducible refine arriveRoce_sound ?_ (fun _ _ _ => ?_) _ _ _
    | (extract_lets +onlyGivenNames x; refine (fun (hx : Sound fz qu x) => ?_) ?_; (clear_value x; rotate_left; unfold x; clear x))
    | (extract_lets +onlyGivenNames x; refine (fun (hx : Sound fz qu x.1) => ?_) ?_; (clear_value x; rotate_left; unfold x; clear x))
    | (extract_lets +onlyGivenNames x; clear_value x)
    | split
    | with_reducible apply bump_sound
    | with_reducible apply setCtx_sound
    | with_reducible apply (sound_mk ..).2
    | dsimp only

theorem execRoceRateIncrease_sound {s : State} (hs : Sound fz qu s) (ctx : BitVec 16) :
    Goes fz qu (execRoceRateIncrease ctx s) := by
  unfold execRoceRateIncrease
  repeat' first
    | (simp +contextual (maxDischargeDepth := 99) only [setCtx_sound, goes_next, sound_mk, onlyIf_sound, *]; done)
    | with_reducible refine goes_next ?_
    | with_reducible refine onlyIf_sound (fun _ _ => ?_) ?_
    | (extract_lets +onlyGivenNames x; refine (fun (hx : Sound fz qu x) => ?_) ?_; (clear_value x; rotate_left; unfold x; clear x))
    | (extract_lets +onlyGivenNames x; refine (fun (hx : Sound fz qu x.1) => ?_) ?_; (clear_value x; rotate_left; unfold x; clear x))
    | (extract_lets +onlyGivenNames x; clear_value x)
    | split
    | with_reducible apply setCtx_sound
    | with_reducible apply (sound_mk ..).2
    | dsimp only

theorem takeUp_sound {s : State} (h : Sound fz qu s) (i : Instr) : Sound fz qu (takeUp s i) := by
  unfold takeUp
  extract_lets next
  have hn : ∀ o, Goes fz qu o → Sound fz qu (next o) := fun o ho => by
    cases o with
    | next t => exact ho
    | fault e => exact h
    | refused e => exact h
  clear_value next
  split
  all_goals with_reducible first
    | exact hn _ (execRoceRdmaWriteRx_sound h _ _ _ _ _)
    | exact hn _ (execRoceRdmaReadRx_sound h _ _)
    | exact hn _ (execRoceReadResponseRx_sound h _ _ _ _)
    | exact rxCol_sound h _ _ _ _ _
    | exact rxAck_sound h _ _
    | exact rxNakRemote_sound h _ _ _
    | exact rxNakSeq_sound h _ _
    | exact rxSelAck_sound h _ _ _
    | exact rxPut_sound h _ _ _ _
    | exact rxGet_sound h _ _ _
    | exact rxFlag_sound h _ _ _
    | exact rxBoardWrite_sound h _ _ _
    | exact rxBoardRead_sound h _ _ _
    | exact rxGetResponse_sound h _ _ _ _
    | exact rxBoardResponse_sound h _ _ _
    | exact h

theorem retryHeld_sound {s : State} (hs : Sound fz qu s) :
    Sound fz qu (retryHeld s) := by
  unfold retryHeld
  repeat' first
    | (simp +contextual (maxDischargeDepth := 99) only [takeUp_sound, sound_mk, each_sound, *]; done)
    | with_reducible refine each_sound (fun _ _ _ => ?_) _ ?_
    | with_reducible apply takeUp_sound
    | with_reducible apply (sound_mk ..).2
    | dsimp only

theorem regionAdd_sound {s : State} (hs : Sound fz qu s) (r : RegionRec) :
    Sound fz qu (regionAdd s r).1 := by
  unfold regionAdd
  repeat' first
    | (simp +contextual (maxDischargeDepth := 99) only [put_sound, raiseGen_sound, *]; done)
    | (extract_lets +onlyGivenNames x; refine (fun (hx : Sound fz qu x) => ?_) ?_; (clear_value x; rotate_left; unfold x; clear x))
    | (extract_lets +onlyGivenNames x; refine (fun (hx : Sound fz qu x.1) => ?_) ?_; (clear_value x; rotate_left; unfold x; clear x))
    | (extract_lets +onlyGivenNames x; clear_value x)
    | split
    | with_reducible apply put_sound
    | with_reducible apply raiseGen_sound
    | dsimp only

theorem regionStop_sound {s : State} (hs : Sound fz qu s) (n : Nat) :
    Sound fz qu (regionStop s n) := by
  unfold regionStop
  repeat' first
    | (simp +contextual (maxDischargeDepth := 99) only [put_sound, *]; done)
    | with_reducible apply put_sound
    | dsimp only

end Sys2Proof.Machine
end

