-- ==== Sys2Proof/Laws/SoundLinks.lean ====
section
/-!
SUPPORT. What the operations and commands of Machine/Links.lean keep: the queue, the fused identity, the canonical form of memory,
and registers within their widths.
-/
namespace Sys2Proof.Machine

set_option linter.unusedTactic false
set_option linter.unreachableTactic false
set_option linter.unusedSimpArgs false

variable {fz : Fuses} {qu : List Instr}

theorem ackFlits_sound {s : State} (hs : Sound fz qu s) (p : Nat) (a : Nat) :
    Sound fz qu (ackFlits s p a) := by
  unfold ackFlits
  repeat' first
    | (simp +contextual (maxDischargeDepth := 99) only [setLink_sound, pumpFlits_sound, ite_sound, sound_mk, *]; done)
    | (extract_lets +onlyGivenNames x; refine (fun (hx : Sound fz qu x) => ?_) ?_; (clear_value x; rotate_left; unfold x; clear x))
    | (extract_lets +onlyGivenNames x; refine (fun (hx : Sound fz qu x.1) => ?_) ?_; (clear_value x; rotate_left; unfold x; clear x))
    | (extract_lets +onlyGivenNames x; clear_value x)
    | split
    | with_reducible apply setLink_sound
    | with_reducible apply pumpFlits_sound
    | with_reducible apply (sound_mk ..).2
    | dsimp only

theorem beginEpisode_sound {s : State} (hs : Sound fz qu s) (p : Nat) :
    Sound fz qu (beginEpisode s p) := by
  unfold beginEpisode
  repeat' first
    | (simp +contextual (maxDischargeDepth := 99) only [bump_sound, setLink_sound, sound_mk, *]; done)
    | split
    | with_reducible apply bump_sound
    | with_reducible apply setLink_sound
    | with_reducible apply (sound_mk ..).2
    | dsimp only

theorem requestRetry_sound {s : State} (hs : Sound fz qu s) (p : Nat) :
    Sound fz qu (requestRetry s p) := by
  unfold requestRetry
  repeat' first
    | (simp +contextual (maxDischargeDepth := 99) only [setLink_sound, sendFlit_sound, beginEpisode_sound, sound_mk, *]; done)
    | (extract_lets +onlyGivenNames x; refine (fun (hx : Sound fz qu x) => ?_) ?_; (clear_value x; rotate_left; unfold x; clear x))
    | (extract_lets +onlyGivenNames x; refine (fun (hx : Sound fz qu x.1) => ?_) ?_; (clear_value x; rotate_left; unfold x; clear x))
    | (extract_lets +onlyGivenNames x; clear_value x)
    | with_reducible apply setLink_sound
    | with_reducible apply sendFlit_sound
    | with_reducible apply beginEpisode_sound
    | with_reducible apply (sound_mk ..).2
    | dsimp only

theorem discardFlit_sound {s : State} (hs : Sound fz qu s) (p : Nat) :
    Sound fz qu (discardFlit s p) := by
  unfold discardFlit
  repeat' first
    | (simp +contextual (maxDischargeDepth := 99) only [requestRetry_sound, ite_sound, *]; done)
    | split
    | with_reducible apply requestRetry_sound
    | dsimp only

theorem rxFlit_sound {s : State} {body : State → State} (hs : Sound fz qu s) (hfbody : ∀ (y0 : State), Sound fz qu y0 → Sound fz qu (body y0)) (p : Nat) (f : BitVec 2048) (type : Nat) :
    Sound fz qu (rxFlit s p f type body) := by
  unfold rxFlit
  repeat' first
    | (simp +contextual (maxDischargeDepth := 99) only [bump_sound, ackFlits_sound, ite_sound, *]; done)
    | split
    | with_reducible apply bump_sound
    | with_reducible apply ackFlits_sound
    | dsimp only

theorem acceptFlit_sound {s : State} (hs : Sound fz qu s) (p : Nat) (f : BitVec 2048) :
    Sound fz qu (acceptFlit s p f) := by
  unfold acceptFlit
  repeat' first
    | (simp +contextual (maxDischargeDepth := 99) only [setLink_sound, sendFlit_sound, sound_mk, *]; done)
    | (extract_lets +onlyGivenNames x; refine (fun (hx : Sound fz qu x) => ?_) ?_; (clear_value x; rotate_left; unfold x; clear x))
    | (extract_lets +onlyGivenNames x; refine (fun (hx : Sound fz qu x.1) => ?_) ?_; (clear_value x; rotate_left; unfold x; clear x))
    | (extract_lets +onlyGivenNames x; clear_value x)
    | split
    | with_reducible apply setLink_sound
    | with_reducible apply sendFlit_sound
    | with_reducible apply (sound_mk ..).2
    | dsimp only

theorem execLinkDataFlitRx_sound {s : State} (hs : Sound fz qu s) (p : Port) (flit : BitVec 2048) :
    Goes fz qu (execLinkDataFlitRx p flit s) := by
  unfold execLinkDataFlitRx
  repeat' first
    | (simp +contextual (maxDischargeDepth := 99) only [discardFlit_sound, rxFlit_sound, acceptFlit_sound, goes_next, ite_sound, ite_goes, onlyIf_sound, *]; done)
    | with_reducible refine goes_next ?_
    | with_reducible refine onlyIf_sound (fun _ _ => ?_) ?_
    | with_reducible refine rxFlit_sound ?_ (fun _ _ => ?_) _ _ _
    | (extract_lets +onlyGivenNames x; refine (fun (hx : Sound fz qu x) => ?_) ?_; (clear_value x; rotate_left; unfold x; clear x))
    | (extract_lets +onlyGivenNames x; refine (fun (hx : Sound fz qu x.1) => ?_) ?_; (clear_value x; rotate_left; unfold x; clear x))
    | (extract_lets +onlyGivenNames x; clear_value x)
    | split
    | with_reducible apply discardFlit_sound
    | with_reducible apply acceptFlit_sound
    | dsimp only

theorem execLinkIdleFlitRx_sound {s : State} (h : Sound fz qu s) (p : Port) (flit : BitVec 2048) :
    Goes fz qu (execLinkIdleFlitRx p flit s) := by
  unfold execLinkIdleFlitRx
  exact goes_next (onlyIf_sound (fun _ h => rxFlit_sound h (fun _ h => h) _ _ _) h)

theorem rewind_sound {s : State} (hs : Sound fz qu s) (p : Nat) (expected : Nat) :
    Sound fz qu (rewind s p expected) := by
  unfold rewind
  repeat' first
    | (simp +contextual (maxDischargeDepth := 99) only [setLink_sound, sound_mk, *]; done)
    | (extract_lets +onlyGivenNames x; refine (fun (hx : Sound fz qu x) => ?_) ?_; (clear_value x; rotate_left; unfold x; clear x))
    | (extract_lets +onlyGivenNames x; refine (fun (hx : Sound fz qu x.1) => ?_) ?_; (clear_value x; rotate_left; unfold x; clear x))
    | (extract_lets +onlyGivenNames x; clear_value x)
    | with_reducible apply setLink_sound
    | with_reducible apply (sound_mk ..).2
    | dsimp only

theorem execLinkRetryRequestRx_sound {s : State} (hs : Sound fz qu s) (p : Port) (head : BitVec 32) (rest : BitVec 2016) :
    Goes fz qu (execLinkRetryRequestRx p head rest s) := by
  unfold execLinkRetryRequestRx
  repeat' first
    | (simp +contextual (maxDischargeDepth := 99) only [pumpFlits_sound, rxFlit_sound, rewind_sound, goes_next, onlyIf_sound, *]; done)
    | with_reducible refine goes_next ?_
    | with_reducible refine onlyIf_sound (fun _ _ => ?_) ?_
    | with_reducible refine rxFlit_sound ?_ (fun _ _ => ?_) _ _ _
    | with_reducible apply pumpFlits_sound
    | with_reducible apply rewind_sound
    | dsimp only

theorem failPort_sound (n : Nat) {s : State} (h : Sound fz qu s) (p : Nat) : Sound fz qu (failPort n s p) := by
  induction n generalizing s with
  | zero => exact h
  | succ n ih =>
    unfold failPort
    split
    · exact h
    · exact ih (orphan_sound (failOwner_sound h _ _) _)

theorem forgetPort_sound {s : State} (hs : Sound fz qu s) (p : Nat) :
    Sound fz qu (forgetPort s p) := by
  unfold forgetPort
  repeat' first
    | (simp +contextual (maxDischargeDepth := 99) only [setCtx_sound, pullAll_sound, sound_mk, each_sound, *]; done)
    | (extract_lets +onlyGivenNames x; refine (fun (hx : Sound fz qu x) => ?_) ?_; (clear_value x; rotate_left; unfold x; clear x))
    | (extract_lets +onlyGivenNames x; refine (fun (hx : Sound fz qu x.1) => ?_) ?_; (clear_value x; rotate_left; unfold x; clear x))
    | (extract_lets +onlyGivenNames x; clear_value x)
    | with_reducible refine each_sound (fun _ _ _ => ?_) _ ?_
    | with_reducible apply setCtx_sound
    | with_reducible apply pullAll_sound
    | with_reducible apply (sound_mk ..).2
    | dsimp only

theorem leaveService_sound {s : State} (hs : Sound fz qu s) (p : Nat) (state : Nat) :
    Sound fz qu (leaveService s p state) := by
  unfold leaveService
  repeat' first
    | (simp +contextual (maxDischargeDepth := 99) only [put_sound, loseSync_sound, setLink_sound, failPort_sound, forgetPort_sound, ite_sound, sound_mk, *]; done)
    | (extract_lets +onlyGivenNames x; refine (fun (hx : Sound fz qu x) => ?_) ?_; (clear_value x; rotate_left; unfold x; clear x))
    | (extract_lets +onlyGivenNames x; refine (fun (hx : Sound fz qu x.1) => ?_) ?_; (clear_value x; rotate_left; unfold x; clear x))
    | (extract_lets +onlyGivenNames x; clear_value x)
    | split
    | with_reducible apply put_sound
    | with_reducible apply loseSync_sound
    | with_reducible apply setLink_sound
    | with_reducible apply failPort_sound
    | with_reducible apply forgetPort_sound
    | with_reducible apply (sound_mk ..).2
    | dsimp only

theorem execLinkRetryTimeout_sound {s : State} (hs : Sound fz qu s) (p : Port) :
    Goes fz qu (execLinkRetryTimeout p s) := by
  unfold execLinkRetryTimeout
  repeat' first
    | (simp +contextual (maxDischargeDepth := 99) only [bump_sound, logEvt_sound, leaveService_sound, goes_next, onlyIf_sound, *]; done)
    | with_reducible refine goes_next ?_
    | with_reducible refine onlyIf_sound (fun _ _ => ?_) ?_
    | (extract_lets +onlyGivenNames x; refine (fun (hx : Sound fz qu x) => ?_) ?_; (clear_value x; rotate_left; unfold x; clear x))
    | (extract_lets +onlyGivenNames x; refine (fun (hx : Sound fz qu x.1) => ?_) ?_; (clear_value x; rotate_left; unfold x; clear x))
    | (extract_lets +onlyGivenNames x; clear_value x)
    | split
    | with_reducible apply bump_sound
    | with_reducible apply logEvt_sound
    | with_reducible apply leaveService_sound
    | dsimp only

theorem sendCap_sound {s : State} (hs : Sound fz qu s) (p : Nat) :
    Sound fz qu (sendCap s p) := by
  unfold sendCap
  repeat' first
    | (simp +contextual (maxDischargeDepth := 99) only [setLink_sound, sendFlit_sound, sound_mk, *]; done)
    | with_reducible apply setLink_sound
    | with_reducible apply sendFlit_sound
    | with_reducible apply (sound_mk ..).2
    | dsimp only

theorem sendCapAck_sound {s : State} (hs : Sound fz qu s) (p : Nat) :
    Sound fz qu (sendCapAck s p) := by
  unfold sendCapAck
  repeat' first
    | (simp +contextual (maxDischargeDepth := 99) only [freeTick_sound, sendFlit_sound, *]; done)
    | with_reducible apply freeTick_sound
    | with_reducible apply sendFlit_sound
    | dsimp only

theorem resume_sound {s : State} (hs : Sound fz qu s) (p : Nat) :
    Sound fz qu (resume s p) := by
  unfold resume
  repeat' first
    | (simp +contextual (maxDischargeDepth := 99) only [put_sound, setLink_sound, pumpFlits_sound, ite_sound, sound_mk, *]; done)
    | (extract_lets +onlyGivenNames x; refine (fun (hx : Sound fz qu x) => ?_) ?_; (clear_value x; rotate_left; unfold x; clear x))
    | (extract_lets +onlyGivenNames x; refine (fun (hx : Sound fz qu x.1) => ?_) ?_; (clear_value x; rotate_left; unfold x; clear x))
    | (extract_lets +onlyGivenNames x; clear_value x)
    | split
    | with_reducible apply put_sound
    | with_reducible apply setLink_sound
    | with_reducible apply pumpFlits_sound
    | with_reducible apply (sound_mk ..).2
    | dsimp only

theorem holdLink_sound {s : State} (hs : Sound fz qu s) (p : Nat) :
    Sound fz qu (holdLink s p) := by
  unfold holdLink
  repeat' first
    | (simp +contextual (maxDischargeDepth := 99) only [put_sound, loseSync_sound, setLink_sound, ite_sound, sound_mk, *]; done)
    | (extract_lets +onlyGivenNames x; refine (fun (hx : Sound fz qu x) => ?_) ?_; (clear_value x; rotate_left; unfold x; clear x))
    | (extract_lets +onlyGivenNames x; refine (fun (hx : Sound fz qu x.1) => ?_) ?_; (clear_value x; rotate_left; unfold x; clear x))
    | (extract_lets +onlyGivenNames x; clear_value x)
    | split
    | with_reducible apply put_sound
    | with_reducible apply loseSync_sound
    | with_reducible apply setLink_sound
    | with_reducible apply (sound_mk ..).2
    | dsimp only

theorem refusePlace_sound {s : State} (hs : Sound fz qu s) (p : Nat) (f : CapFlit) :
    Sound fz qu (refusePlace s p f) := by
  unfold refusePlace
  repeat' first
    | (simp +contextual (maxDischargeDepth := 99) only [logEvt_sound, holdLink_sound, *]; done)
    | with_reducible apply logEvt_sound
    | with_reducible apply holdLink_sound
    | dsimp only

theorem checkPlace_sound {s : State} (hs : Sound fz qu s) (p : Nat) :
    Sound fz qu (checkPlace s p) := by
  unfold checkPlace
  repeat' first
    | (simp +contextual (maxDischargeDepth := 99) only [refusePlace_sound, ite_sound, *]; done)
    | split
    | with_reducible apply refusePlace_sound
    | dsimp only

theorem enterService_sound {s : State} (hs : Sound fz qu s) (p : Nat) (f : CapFlit) :
    Sound fz qu (enterService s p f) := by
  unfold enterService
  repeat' first
    | (simp +contextual (maxDischargeDepth := 99) only [resume_sound, holdLink_sound, refusePlace_sound, ite_sound, *]; done)
    | split
    | with_reducible apply resume_sound
    | with_reducible apply holdLink_sound
    | with_reducible apply refusePlace_sound
    | dsimp only

theorem settleLink_sound {s : State} (hs : Sound fz qu s) (p : Nat) :
    Sound fz qu (settleLink s p) := by
  unfold settleLink
  repeat' first
    | (simp +contextual (maxDischargeDepth := 99) only [put_sound, setLink_sound, enterService_sound, ite_sound, sound_mk, *]; done)
    | (extract_lets +onlyGivenNames x; refine (fun (hx : Sound fz qu x) => ?_) ?_; (clear_value x; rotate_left; unfold x; clear x))
    | (extract_lets +onlyGivenNames x; refine (fun (hx : Sound fz qu x.1) => ?_) ?_; (clear_value x; rotate_left; unfold x; clear x))
    | (extract_lets +onlyGivenNames x; clear_value x)
    | split
    | with_reducible apply put_sound
    | with_reducible apply setLink_sound
    | with_reducible apply enterService_sound
    | with_reducible apply (sound_mk ..).2
    | dsimp only

theorem trained_sound {s : State} (hs : Sound fz qu s) (p : Nat) (lanes : BitVec 8) (half : Bool) (mac : BitVec 48) :
    Sound fz qu (trained s p lanes half mac) := by
  unfold trained
  repeat' first
    | (simp +contextual (maxDischargeDepth := 99) only [put_sound, setLink_sound, sendCap_sound, resume_sound, settleLink_sound, ite_sound, sound_mk, *]; done)
    | (extract_lets +onlyGivenNames x; refine (fun (hx : Sound fz qu x) => ?_) ?_; (clear_value x; rotate_left; unfold x; clear x))
    | (extract_lets +onlyGivenNames x; refine (fun (hx : Sound fz qu x.1) => ?_) ?_; (clear_value x; rotate_left; unfold x; clear x))
    | (extract_lets +onlyGivenNames x; clear_value x)
    | split
    | with_reducible apply put_sound
    | with_reducible apply setLink_sound
    | with_reducible apply sendCap_sound
    | with_reducible apply resume_sound
    | with_reducible apply settleLink_sound
    | with_reducible apply (sound_mk ..).2
    | dsimp only

theorem execLinkTrained_sound {s : State} (hs : Sound fz qu s) (p : Port) (lanes : BitVec 8) (x : Trained) :
    Goes fz qu (execLinkTrained p lanes x s) := by
  unfold execLinkTrained
  repeat' first
    | (simp +contextual (maxDischargeDepth := 99) only [trained_sound, goes_next, onlyIf_sound, *]; done)
    | with_reducible refine goes_next ?_
    | with_reducible refine onlyIf_sound (fun _ _ => ?_) ?_
    | with_reducible apply trained_sound
    | dsimp only

theorem capArrived_sound {s : State} (hs : Sound fz qu s) (p : Nat) (f : CapFlit) :
    Sound fz qu (capArrived s p f) := by
  unfold capArrived
  repeat' first
    | (simp +contextual (maxDischargeDepth := 99) only [put_sound, setLink_sound, pumpFlits_sound, sendCapAck_sound, checkPlace_sound, enterService_sound, settleLink_sound, ite_sound, sound_mk, *]; done)
    | (extract_lets +onlyGivenNames x; refine (fun (hx : Sound fz qu x) => ?_) ?_; (clear_value x; rotate_left; unfold x; clear x))
    | (extract_lets +onlyGivenNames x; refine (fun (hx : Sound fz qu x.1) => ?_) ?_; (clear_value x; rotate_left; unfold x; clear x))
    | (extract_lets +onlyGivenNames x; clear_value x)
    | split
    | with_reducible apply put_sound
    | with_reducible apply setLink_sound
    | with_reducible apply pumpFlits_sound
    | with_reducible apply sendCapAck_sound
    | with_reducible apply checkPlace_sound
    | with_reducible apply enterService_sound
    | with_reducible apply settleLink_sound
    | with_reducible apply (sound_mk ..).2
    | dsimp only

theorem execLinkCapabilityRx_sound {s : State} (hs : Sound fz qu s) (p : Port) (flit : BitVec 2048) :
    Goes fz qu (execLinkCapabilityRx p flit s) := by
  unfold execLinkCapabilityRx
  repeat' first
    | (simp +contextual (maxDischargeDepth := 99) only [rxFlit_sound, capArrived_sound, goes_next, onlyIf_sound, *]; done)
    | with_reducible refine goes_next ?_
    | with_reducible refine onlyIf_sound (fun _ _ => ?_) ?_
    | with_reducible refine rxFlit_sound ?_ (fun _ _ => ?_) _ _ _
    | with_reducible apply capArrived_sound
    | dsimp only

theorem execLinkCapabilityAckRx_sound {s : State} (hs : Sound fz qu s) (f : PortFlit) :
    Goes fz qu (execLinkCapabilityAckRx f s) := by
  unfold execLinkCapabilityAckRx
  repeat' first
    | (simp +contextual (maxDischargeDepth := 99) only [setLink_sound, rxFlit_sound, goes_next, sound_mk, onlyIf_sound, *]; done)
    | with_reducible refine goes_next ?_
    | with_reducible refine onlyIf_sound (fun _ _ => ?_) ?_
    | with_reducible refine rxFlit_sound ?_ (fun _ _ => ?_) _ _ _
    | with_reducible apply setLink_sound
    | with_reducible apply (sound_mk ..).2
    | dsimp only

theorem execCapabilityResend_sound {s : State} (hs : Sound fz qu s) (p : Port) :
    Goes fz qu (execCapabilityResend p s) := by
  unfold execCapabilityResend
  repeat' first
    | (simp +contextual (maxDischargeDepth := 99) only [sendCap_sound, goes_next, onlyIf_sound, *]; done)
    | with_reducible refine goes_next ?_
    | with_reducible refine onlyIf_sound (fun _ _ => ?_) ?_
    | (extract_lets +onlyGivenNames x; refine (fun (hx : Sound fz qu x) => ?_) ?_; (clear_value x; rotate_left; unfold x; clear x))
    | (extract_lets +onlyGivenNames x; refine (fun (hx : Sound fz qu x.1) => ?_) ?_; (clear_value x; rotate_left; unfold x; clear x))
    | (extract_lets +onlyGivenNames x; clear_value x)
    | with_reducible apply sendCap_sound
    | dsimp only

theorem execLinkTrainRetry_sound {s : State} (hs : Sound fz qu s) (p : Port) :
    Goes fz qu (execLinkTrainRetry p s) := by
  unfold execLinkTrainRetry
  repeat' first
    | (simp +contextual (maxDischargeDepth := 99) only [put_sound, goes_next, onlyIf_sound, *]; done)
    | with_reducible refine goes_next ?_
    | with_reducible refine onlyIf_sound (fun _ _ => ?_) ?_
    | with_reducible apply put_sound
    | dsimp only

theorem stopData_sound {s : State} (hs : Sound fz qu s) (p : Nat) :
    Sound fz qu (stopData s p) := by
  unfold stopData
  repeat' first
    | (simp +contextual (maxDischargeDepth := 99) only [put_sound, beginEpisode_sound, *]; done)
    | with_reducible apply put_sound
    | with_reducible apply beginEpisode_sound
    | dsimp only

theorem dropLanes_sound {s : State} (hs : Sound fz qu s) (p : Nat) (lanes : BitVec 8) :
    Sound fz qu (dropLanes s p lanes) := by
  unfold dropLanes
  repeat' first
    | (simp +contextual (maxDischargeDepth := 99) only [put_sound, bump_sound, logEvt_sound, setLink_sound, leaveService_sound, stopData_sound, ite_sound, sound_mk, *]; done)
    | (extract_lets +onlyGivenNames x; refine (fun (hx : Sound fz qu x) => ?_) ?_; (clear_value x; rotate_left; unfold x; clear x))
    | (extract_lets +onlyGivenNames x; refine (fun (hx : Sound fz qu x.1) => ?_) ?_; (clear_value x; rotate_left; unfold x; clear x))
    | (extract_lets +onlyGivenNames x; clear_value x)
    | split
    | with_reducible apply put_sound
    | with_reducible apply bump_sound
    | with_reducible apply logEvt_sound
    | with_reducible apply setLink_sound
    | with_reducible apply leaveService_sound
    | with_reducible apply stopData_sound
    | with_reducible apply (sound_mk ..).2
    | dsimp only

theorem execLinkLaneDropRx_sound {s : State} (hs : Sound fz qu s) (p : Port) (flit : BitVec 2048) :
    Goes fz qu (execLinkLaneDropRx p flit s) := by
  unfold execLinkLaneDropRx
  repeat' first
    | (simp +contextual (maxDischargeDepth := 99) only [rxFlit_sound, dropLanes_sound, goes_next, onlyIf_sound, *]; done)
    | with_reducible refine goes_next ?_
    | with_reducible refine onlyIf_sound (fun _ _ => ?_) ?_
    | with_reducible refine rxFlit_sound ?_ (fun _ _ => ?_) _ _ _
    | (extract_lets +onlyGivenNames x; refine (fun (hx : Sound fz qu x) => ?_) ?_; (clear_value x; rotate_left; unfold x; clear x))
    | (extract_lets +onlyGivenNames x; refine (fun (hx : Sound fz qu x.1) => ?_) ?_; (clear_value x; rotate_left; unfold x; clear x))
    | (extract_lets +onlyGivenNames x; clear_value x)
    | with_reducible apply dropLanes_sound
    | dsimp only

theorem renegotiate_sound {s : State} (hs : Sound fz qu s) (p : Nat) (lanes : BitVec 8) :
    Sound fz qu (renegotiate s p lanes) := by
  unfold renegotiate
  repeat' first
    | (simp +contextual (maxDischargeDepth := 99) only [put_sound, bump_sound, logEvt_sound, setLink_sound, stopData_sound, ite_sound, sound_mk, *]; done)
    | (extract_lets +onlyGivenNames x; refine (fun (hx : Sound fz qu x) => ?_) ?_; (clear_value x; rotate_left; unfold x; clear x))
    | (extract_lets +onlyGivenNames x; refine (fun (hx : Sound fz qu x.1) => ?_) ?_; (clear_value x; rotate_left; unfold x; clear x))
    | (extract_lets +onlyGivenNames x; clear_value x)
    | split
    | with_reducible apply put_sound
    | with_reducible apply bump_sound
    | with_reducible apply logEvt_sound
    | with_reducible apply setLink_sound
    | with_reducible apply stopData_sound
    | with_reducible apply (sound_mk ..).2
    | dsimp only

theorem lanesFailed_sound {s : State} (hs : Sound fz qu s) (p : Nat) (d : BitVec 8) :
    Sound fz qu (lanesFailed s p d) := by
  unfold lanesFailed
  repeat' first
    | (simp +contextual (maxDischargeDepth := 99) only [sendFlit_sound, requestRetry_sound, dropLanes_sound, renegotiate_sound, ite_sound, *]; done)
    | split
    | with_reducible apply sendFlit_sound
    | with_reducible apply requestRetry_sound
    | with_reducible apply dropLanes_sound
    | with_reducible apply renegotiate_sound
    | dsimp only

theorem execLaneFailureDetected_sound {s : State} (hs : Sound fz qu s) (p : Port) (r : LaneReport) :
    Goes fz qu (execLaneFailureDetected p r s) := by
  unfold execLaneFailureDetected
  repeat' first
    | (simp +contextual (maxDischargeDepth := 99) only [bump_sound, lanesFailed_sound, goes_next, onlyIf_sound, *]; done)
    | with_reducible refine goes_next ?_
    | with_reducible refine onlyIf_sound (fun _ _ => ?_) ?_
    | (extract_lets +onlyGivenNames x; refine (fun (hx : Sound fz qu x) => ?_) ?_; (clear_value x; rotate_left; unfold x; clear x))
    | (extract_lets +onlyGivenNames x; refine (fun (hx : Sound fz qu x.1) => ?_) ?_; (clear_value x; rotate_left; unfold x; clear x))
    | (extract_lets +onlyGivenNames x; clear_value x)
    | with_reducible apply bump_sound
    | with_reducible apply lanesFailed_sound
    | dsimp only

theorem execLinkLpiEnter_sound {s : State} (hs : Sound fz qu s) (p : Port) :
    Goes fz qu (execLinkLpiEnter p s) := by
  unfold execLinkLpiEnter
  repeat' first
    | (simp +contextual (maxDischargeDepth := 99) only [put_sound, goes_next, onlyIf_sound, *]; done)
    | with_reducible refine goes_next ?_
    | with_reducible refine onlyIf_sound (fun _ _ => ?_) ?_
    | with_reducible apply put_sound
    | dsimp only

theorem execLinkLpiWake_sound {s : State} (hs : Sound fz qu s) (p : Port) :
    Goes fz qu (execLinkLpiWake p s) := by
  unfold execLinkLpiWake
  repeat' first
    | (simp +contextual (maxDischargeDepth := 99) only [put_sound, pumpFlits_sound, goes_next, onlyIf_sound, *]; done)
    | with_reducible refine goes_next ?_
    | with_reducible refine onlyIf_sound (fun _ _ => ?_) ?_
    | with_reducible apply put_sound
    | with_reducible apply pumpFlits_sound
    | dsimp only

theorem execEthNegotiationDone_sound {s : State} (hs : Sound fz qu s) (p : Port) (peerModes : BitVec 3) :
    Goes fz qu (execEthNegotiationDone p peerModes s) := by
  unfold execEthNegotiationDone
  repeat' first
    | (simp +contextual (maxDischargeDepth := 99) only [put_sound, leaveService_sound, resume_sound, goes_next, ite_sound, ite_goes, onlyIf_sound, *]; done)
    | with_reducible refine goes_next ?_
    | with_reducible refine onlyIf_sound (fun _ _ => ?_) ?_
    | (extract_lets +onlyGivenNames x; refine (fun (hx : Sound fz qu x) => ?_) ?_; (clear_value x; rotate_left; unfold x; clear x))
    | (extract_lets +onlyGivenNames x; refine (fun (hx : Sound fz qu x.1) => ?_) ?_; (clear_value x; rotate_left; unfold x; clear x))
    | (extract_lets +onlyGivenNames x; clear_value x)
    | split
    | with_reducible apply put_sound
    | with_reducible apply leaveService_sound
    | with_reducible apply resume_sound
    | dsimp only

theorem learn_sound {s : State} (hs : Sound fz qu s) (p : Nat) (dst : BitVec 128) (mac : BitVec 48) :
    Sound fz qu (learn s p dst mac) := by
  unfold learn
  repeat' first
    | (simp +contextual (maxDischargeDepth := 99) only [setLink_sound, sendFrame_sound, sound_mk, each_sound, *]; done)
    | (extract_lets +onlyGivenNames x; refine (fun (hx : Sound fz qu x) => ?_) ?_; (clear_value x; rotate_left; unfold x; clear x))
    | (extract_lets +onlyGivenNames x; refine (fun (hx : Sound fz qu x.1) => ?_) ?_; (clear_value x; rotate_left; unfold x; clear x))
    | (extract_lets +onlyGivenNames x; clear_value x)
    | with_reducible refine each_sound (fun _ _ _ => ?_) _ ?_
    | with_reducible apply setLink_sound
    | with_reducible apply sendFrame_sound
    | with_reducible apply (sound_mk ..).2
    | dsimp only

theorem execEthArpNdRx_sound {s : State} (hs : Sound fz qu s) (e : Fin 7) (v6 : Bool) (m : NeighMsg) :
    Goes fz qu (execEthArpNdRx e v6 m s) := by
  unfold execEthArpNdRx
  repeat' first
    | (simp +contextual (maxDischargeDepth := 99) only [emit_sound, learn_sound, goes_next, ite_sound, ite_goes, onlyIf_sound, *]; done)
    | with_reducible refine goes_next ?_
    | with_reducible refine onlyIf_sound (fun _ _ => ?_) ?_
    | (extract_lets +onlyGivenNames x; refine (fun (hx : Sound fz qu x) => ?_) ?_; (clear_value x; rotate_left; unfold x; clear x))
    | (extract_lets +onlyGivenNames x; refine (fun (hx : Sound fz qu x.1) => ?_) ?_; (clear_value x; rotate_left; unfold x; clear x))
    | (extract_lets +onlyGivenNames x; clear_value x)
    | split
    | with_reducible apply emit_sound
    | with_reducible apply learn_sound
    | dsimp only

theorem startTraining_sound {s : State} (hs : Sound fz qu s) (p : Nat) :
    Sound fz qu (startTraining s p) := by
  unfold startTraining
  repeat' first
    | (simp +contextual (maxDischargeDepth := 99) only [put_sound, loseSync_sound, setLink_sound, ite_sound, sound_mk, *]; done)
    | (extract_lets +onlyGivenNames x; refine (fun (hx : Sound fz qu x) => ?_) ?_; (clear_value x; rotate_left; unfold x; clear x))
    | (extract_lets +onlyGivenNames x; refine (fun (hx : Sound fz qu x.1) => ?_) ?_; (clear_value x; rotate_left; unfold x; clear x))
    | (extract_lets +onlyGivenNames x; clear_value x)
    | split
    | with_reducible apply put_sound
    | with_reducible apply loseSync_sound
    | with_reducible apply setLink_sound
    | with_reducible apply (sound_mk ..).2
    | dsimp only

theorem lnkCtlWrite_sound {s : State} (hs : Sound fz qu s) (p : Nat) (v : Nat) :
    Sound fz qu (lnkCtlWrite s p v) := by
  unfold lnkCtlWrite
  repeat' first
    | (simp +contextual (maxDischargeDepth := 99) only [put_sound, leaveService_sound, resume_sound, startTraining_sound, ite_sound, *]; done)
    | (extract_lets +onlyGivenNames x; refine (fun (hx : Sound fz qu x) => ?_) ?_; (clear_value x; rotate_left; unfold x; clear x))
    | (extract_lets +onlyGivenNames x; refine (fun (hx : Sound fz qu x.1) => ?_) ?_; (clear_value x; rotate_left; unfold x; clear x))
    | (extract_lets +onlyGivenNames x; clear_value x)
    | split
    | with_reducible apply put_sound
    | with_reducible apply leaveService_sound
    | with_reducible apply resume_sound
    | with_reducible apply startTraining_sound
    | dsimp only

theorem portWrite_sound {s : State} {f : State → State} (hs : Sound fz qu s) (hff : ∀ (y0 : State), Sound fz qu y0 → Sound fz qu (f y0)) (p : Nat) :
    Sound fz qu (portWrite s p f) := by
  unfold portWrite
  repeat' first
    | (simp +contextual (maxDischargeDepth := 99) only [onlyIf_sound, *]; done)
    | with_reducible refine onlyIf_sound (fun _ _ => ?_) ?_
    | dsimp only

theorem execLinkRetrain_sound {s : State} (hs : Sound fz qu s) (p : Port) :
    Goes fz qu (execLinkRetrain p s) := by
  unfold execLinkRetrain
  repeat' first
    | (simp +contextual (maxDischargeDepth := 99) only [lnkCtlWrite_sound, portWrite_sound, goes_next, *]; done)
    | with_reducible refine goes_next ?_
    | with_reducible refine portWrite_sound ?_ (fun _ _ => ?_) _
    | with_reducible apply lnkCtlWrite_sound
    | dsimp only

theorem execLinkPrbs_sound {s : State} (hs : Sound fz qu s) (p : Port) :
    Goes fz qu (execLinkPrbs p s) := by
  unfold execLinkPrbs
  repeat' first
    | (simp +contextual (maxDischargeDepth := 99) only [lnkCtlWrite_sound, portWrite_sound, goes_next, *]; done)
    | with_reducible refine goes_next ?_
    | with_reducible refine portWrite_sound ?_ (fun _ _ => ?_) _
    | with_reducible apply lnkCtlWrite_sound
    | dsimp only

theorem ctlPlace_sound {s : State} (hs : Sound fz qu s) (v : Nat) :
    Sound fz qu (ctlPlace s v) := by
  unfold ctlPlace
  repeat' first
    | (simp +contextual (maxDischargeDepth := 99) only [put_sound, pumpFlits_sound, sendCap_sound, checkPlace_sound, ite_sound, each_sound, *]; done)
    | (extract_lets +onlyGivenNames x; refine (fun (hx : Sound fz qu x) => ?_) ?_; (clear_value x; rotate_left; unfold x; clear x))
    | (extract_lets +onlyGivenNames x; refine (fun (hx : Sound fz qu x.1) => ?_) ?_; (clear_value x; rotate_left; unfold x; clear x))
    | (extract_lets +onlyGivenNames x; clear_value x)
    | split
    | with_reducible refine each_sound (fun _ _ _ => ?_) _ ?_
    | with_reducible apply put_sound
    | with_reducible apply pumpFlits_sound
    | with_reducible apply sendCap_sound
    | with_reducible apply checkPlace_sound
    | dsimp only

theorem execCtlPlaceWrite_sound {s : State} (hs : Sound fz qu s) (v : BitVec 64) :
    Goes fz qu (execCtlPlaceWrite v s) := by
  unfold execCtlPlaceWrite
  repeat' first
    | (simp +contextual (maxDischargeDepth := 99) only [ctlPlace_sound, goes_next, onlyIf_sound, *]; done)
    | with_reducible refine goes_next ?_
    | with_reducible refine onlyIf_sound (fun _ _ => ?_) ?_
    | with_reducible apply ctlPlace_sound
    | dsimp only

end Sys2Proof.Machine
end

