-- ==== Sys2Proof/Laws/SoundEpoch.lean ====
section
/-!
SUPPORT. What the operations and commands of Machine/Epoch.lean keep: the queue, the fused identity, the canonical form of memory,
and registers within their widths.
-/
namespace Sys2Proof.Machine

set_option linter.unusedTactic false
set_option linter.unreachableTactic false
set_option linter.unusedSimpArgs false

variable {fz : Fuses} {qu : List Instr}

theorem copyFld_sound {s : State} (hs : Sound fz qu s) (src : Fld) (dst : Fld) (i : Nat) :
    Sound fz qu (copyFld s src dst i) := by
  unfold copyFld
  repeat' first
    | (simp +contextual (maxDischargeDepth := 99) only [put_sound, *]; done)
    | with_reducible apply put_sound
    | dsimp only

theorem snapCore_sound {s : State} (hs : Sound fz qu s) (epoch : Nat) (c : Nat) :
    Sound fz qu (snapCore s epoch c) := by
  unfold snapCore
  repeat' first
    | (simp +contextual (maxDischargeDepth := 99) only [put_sound, copyFld_sound, each_sound, *]; done)
    | (extract_lets +onlyGivenNames x; refine (fun (hx : Sound fz qu x) => ?_) ?_; (clear_value x; rotate_left; unfold x; clear x))
    | (extract_lets +onlyGivenNames x; refine (fun (hx : Sound fz qu x.1) => ?_) ?_; (clear_value x; rotate_left; unfold x; clear x))
    | (extract_lets +onlyGivenNames x; clear_value x)
    | with_reducible refine each_sound (fun _ _ _ => ?_) _ ?_
    | with_reducible apply put_sound
    | with_reducible apply copyFld_sound
    | dsimp only

theorem takeSnapshots_sound {s : State} (hs : Sound fz qu s) (epoch : Nat) :
    Sound fz qu (takeSnapshots s epoch) := by
  unfold takeSnapshots
  repeat' first
    | (simp +contextual (maxDischargeDepth := 99) only [snapCore_sound, each_sound, *]; done)
    | with_reducible refine each_sound (fun _ _ _ => ?_) _ ?_
    | with_reducible apply snapCore_sound
    | dsimp only

theorem eclipseQuiet_sound {s : State} (hs : Sound fz qu s) (sc : Nat) :
    Sound fz qu (eclipseQuiet s sc) := by
  unfold eclipseQuiet
  repeat' first
    | (simp +contextual (maxDischargeDepth := 99) only [sound_mk, *]; done)
    | with_reducible apply (sound_mk ..).2
    | dsimp only

theorem takeShadow_sound {s : State} (hs : Sound fz qu s) (h : Shadow) :
    Sound fz qu (takeShadow s h) := by
  unfold takeShadow
  repeat' first
    | (simp +contextual (maxDischargeDepth := 99) only [put_sound, slotsFrom_sound, ite_sound, sound_mk, *]; done)
    | (extract_lets +onlyGivenNames x; refine (fun (hx : Sound fz qu x) => ?_) ?_; (clear_value x; rotate_left; unfold x; clear x))
    | (extract_lets +onlyGivenNames x; refine (fun (hx : Sound fz qu x.1) => ?_) ?_; (clear_value x; rotate_left; unfold x; clear x))
    | (extract_lets +onlyGivenNames x; clear_value x)
    | split
    | with_reducible apply put_sound
    | with_reducible apply slotsFrom_sound
    | with_reducible apply (sound_mk ..).2
    | dsimp only

theorem holdLayout_sound {s : State} (hs : Sound fz qu s) (h : Shadow) :
    Sound fz qu (holdLayout s h) := by
  unfold holdLayout
  repeat' first
    | (simp +contextual (maxDischargeDepth := 99) only [put_sound, eclipseQuiet_sound, *]; done)
    | with_reducible apply put_sound
    | with_reducible apply eclipseQuiet_sound
    | dsimp only

theorem applyShadows_sound {s : State} (hs : Sound fz qu s) (sc : Nat) :
    Sound fz qu (applyShadows s sc) := by
  unfold applyShadows
  repeat' first
    | (simp +contextual (maxDischargeDepth := 99) only [takeShadow_sound, holdLayout_sound, ite_sound, each_sound, *]; done)
    | split
    | with_reducible refine each_sound (fun _ _ _ => ?_) _ ?_
    | with_reducible apply takeShadow_sound
    | with_reducible apply holdLayout_sound
    | dsimp only

theorem retuneDies_sound {s : State} (hs : Sound fz qu s) :
    Sound fz qu (retuneDies s) := by
  unfold retuneDies
  repeat' first
    | (simp +contextual (maxDischargeDepth := 99) only [settleDies_sound, ite_sound, *]; done)
    | split
    | with_reducible apply settleDies_sound
    | dsimp only

theorem newJob_sound {s : State} (hs : Sound fz qu s) (c : Nat) (sl : Slot) :
    Sound fz qu (newJob s c sl) := by
  unfold newJob
  repeat' first
    | (simp +contextual (maxDischargeDepth := 99) only [put_sound, setCore_sound, sound_mk, each_sound, *]; done)
    | (extract_lets +onlyGivenNames x; refine (fun (hx : Sound fz qu x) => ?_) ?_; (clear_value x; rotate_left; unfold x; clear x))
    | (extract_lets +onlyGivenNames x; refine (fun (hx : Sound fz qu x.1) => ?_) ?_; (clear_value x; rotate_left; unfold x; clear x))
    | (extract_lets +onlyGivenNames x; clear_value x)
    | with_reducible refine each_sound (fun _ _ _ => ?_) _ ?_
    | with_reducible apply put_sound
    | with_reducible apply setCore_sound
    | with_reducible apply (sound_mk ..).2
    | dsimp only

theorem reroute_sound {s : State} (hs : Sound fz qu s) (c : Nat) (sl : Slot) :
    Sound fz qu (reroute s c sl) := by
  unfold reroute
  repeat' first
    | (simp +contextual (maxDischargeDepth := 99) only [setCore_sound, sound_mk, *]; done)
    | (extract_lets +onlyGivenNames x; refine (fun (hx : Sound fz qu x) => ?_) ?_; (clear_value x; rotate_left; unfold x; clear x))
    | (extract_lets +onlyGivenNames x; refine (fun (hx : Sound fz qu x.1) => ?_) ?_; (clear_value x; rotate_left; unfold x; clear x))
    | (extract_lets +onlyGivenNames x; clear_value x)
    | with_reducible apply setCore_sound
    | with_reducible apply (sound_mk ..).2
    | dsimp only

theorem changeJobs_sound {new : State} (hs : Sound fz qu new) (old : State) :
    Sound fz qu (changeJobs old new) := by
  unfold changeJobs
  repeat' first
    | (simp +contextual (maxDischargeDepth := 99) only [newJob_sound, reroute_sound, ite_sound, each_sound, *]; done)
    | split
    | with_reducible refine each_sound (fun _ _ _ => ?_) _ ?_
    | with_reducible apply newJob_sound
    | with_reducible apply reroute_sound
    | dsimp only

theorem showPending_sound {s : State} (hs : Sound fz qu s) :
    Sound fz qu (showPending s) := by
  unfold showPending
  repeat' first
    | (simp +contextual (maxDischargeDepth := 99) only [put_sound, *]; done)
    | with_reducible apply put_sound
    | dsimp only

theorem layImage_sound {s : State} (hs : Sound fz qu s) (p : PendImg) :
    Sound fz qu (layImage s p) := by
  unfold layImage
  repeat' first
    | (simp +contextual (maxDischargeDepth := 99) only [put_sound, changeJobs_sound, showPending_sound, ite_sound, sound_mk, *]; done)
    | (extract_lets +onlyGivenNames x; refine (fun (hx : Sound fz qu x) => ?_) ?_; (clear_value x; rotate_left; unfold x; clear x))
    | (extract_lets +onlyGivenNames x; refine (fun (hx : Sound fz qu x.1) => ?_) ?_; (clear_value x; rotate_left; unfold x; clear x))
    | (extract_lets +onlyGivenNames x; clear_value x)
    | split
    | with_reducible apply put_sound
    | with_reducible apply changeJobs_sound
    | with_reducible apply showPending_sound
    | with_reducible apply (sound_mk ..).2
    | dsimp only

theorem clearStale_sound {s : State} (hs : Sound fz qu s) (m : Nat) :
    Sound fz qu (clearStale s m) := by
  unfold clearStale
  repeat' first
    | (simp +contextual (maxDischargeDepth := 99) only [put_sound, ite_sound, *]; done)
    | split
    | with_reducible apply put_sound
    | dsimp only

theorem endRestore_sound {s : State} (hs : Sound fz qu s) (m : Nat) :
    Sound fz qu (endRestore s m) := by
  unfold endRestore
  repeat' first
    | (simp +contextual (maxDischargeDepth := 99) only [closeRestore_sound, clearStale_sound, ite_sound, *]; done)
    | split
    | with_reducible apply closeRestore_sound
    | with_reducible apply clearStale_sound
    | dsimp only

theorem measureFull_sound {s : State} (hs : Sound fz qu s) (p : PendImg) (m : Nat) :
    Sound fz qu (measureFull s p m) := by
  unfold measureFull
  repeat' first
    | (simp +contextual (maxDischargeDepth := 99) only [putDigest_sound, closeRestore_sound, clearStale_sound, ite_sound, *]; done)
    | split
    | with_reducible apply putDigest_sound
    | with_reducible apply closeRestore_sound
    | with_reducible apply clearStale_sound
    | dsimp only

theorem measureNarrow_sound {s : State} (hs : Sound fz qu s) (p : PendImg) (m : Nat) :
    Sound fz qu (measureNarrow s p m) := by
  unfold measureNarrow
  repeat' first
    | (simp +contextual (maxDischargeDepth := 99) only [put_sound, putDigest_sound, endRestore_sound, ite_sound, sound_mk, *]; done)
    | (extract_lets +onlyGivenNames x; refine (fun (hx : Sound fz qu x) => ?_) ?_; (clear_value x; rotate_left; unfold x; clear x))
    | (extract_lets +onlyGivenNames x; refine (fun (hx : Sound fz qu x.1) => ?_) ?_; (clear_value x; rotate_left; unfold x; clear x))
    | (extract_lets +onlyGivenNames x; clear_value x)
    | split
    | with_reducible apply put_sound
    | with_reducible apply putDigest_sound
    | with_reducible apply endRestore_sound
    | with_reducible apply (sound_mk ..).2
    | dsimp only

theorem applyImage_sound {s : State} (hs : Sound fz qu s) (p : PendImg) :
    Sound fz qu (applyImage s p) := by
  unfold applyImage
  repeat' first
    | (simp +contextual (maxDischargeDepth := 99) only [layImage_sound, measureFull_sound, measureNarrow_sound, ite_sound, *]; done)
    | (extract_lets +onlyGivenNames x; refine (fun (hx : Sound fz qu x) => ?_) ?_; (clear_value x; rotate_left; unfold x; clear x))
    | (extract_lets +onlyGivenNames x; refine (fun (hx : Sound fz qu x.1) => ?_) ?_; (clear_value x; rotate_left; unfold x; clear x))
    | (extract_lets +onlyGivenNames x; clear_value x)
    | split
    | with_reducible apply layImage_sound
    | with_reducible apply measureFull_sound
    | with_reducible apply measureNarrow_sound
    | dsimp only

theorem imageAtEpoch_sound {s : State} (hs : Sound fz qu s) (sc : Nat) :
    Sound fz qu (imageAtEpoch s sc) := by
  unfold imageAtEpoch
  repeat' first
    | (simp +contextual (maxDischargeDepth := 99) only [put_sound, eclipseQuiet_sound, applyImage_sound, ite_sound, *]; done)
    | split
    | with_reducible apply put_sound
    | with_reducible apply eclipseQuiet_sound
    | with_reducible apply applyImage_sound
    | dsimp only

theorem endCommit_sound {s : State} (hs : Sound fz qu s) (job : Nat) (c : CommitCmd) (status : Nat) (code : Nat) :
    Sound fz qu (endCommit s job c status code) := by
  unfold endCommit
  repeat' first
    | (simp +contextual (maxDischargeDepth := 99) only [answer_sound, ite_sound, sound_mk, *]; done)
    | split
    | with_reducible apply answer_sound
    | with_reducible apply (sound_mk ..).2
    | dsimp only

theorem backState_sound {s : State} (hs : Sound fz qu s) (j : Nat) :
    Sound fz qu (backState s j) := by
  unfold backState
  repeat' first
    | (simp +contextual (maxDischargeDepth := 99) only [put_sound, *]; done)
    | with_reducible apply put_sound
    | dsimp only

theorem copyVa_sound {s : State} (hs : Sound fz qu s) (job : Nat) (n : Nat) (a : Nat) (b : Nat) :
    Sound fz qu (copyVa job n s a b) := by
  unfold copyVa
  repeat' first
    | (simp +contextual (maxDischargeDepth := 99) only [readVa_sound, writeVa_sound, ite_sound, *]; done)
    | (extract_lets +onlyGivenNames x; refine (fun (hx : Sound fz qu x) => ?_) ?_; (clear_value x; rotate_left; unfold x; clear x))
    | (extract_lets +onlyGivenNames x; refine (fun (hx : Sound fz qu x.1) => ?_) ?_; (clear_value x; rotate_left; unfold x; clear x))
    | (extract_lets +onlyGivenNames x; clear_value x)
    | split
    | with_reducible apply readVa_sound
    | with_reducible apply writeVa_sound
    | dsimp only

theorem keepExtent_sound {s : State} (hs : Sound fz qu s) (job : Nat) (c : Nat) (x : Nat × Nat × Nat) :
    Sound fz qu (keepExtent job c s x) := by
  unfold keepExtent
  repeat' first
    | (simp +contextual (maxDischargeDepth := 99) only [copyVa_sound, ite_sound, *]; done)
    | (extract_lets +onlyGivenNames x; refine (fun (hx : Sound fz qu x) => ?_) ?_; (clear_value x; rotate_left; unfold x; clear x))
    | (extract_lets +onlyGivenNames x; refine (fun (hx : Sound fz qu x.1) => ?_) ?_; (clear_value x; rotate_left; unfold x; clear x))
    | (extract_lets +onlyGivenNames x; clear_value x)
    | split
    | with_reducible apply copyVa_sound
    | dsimp only

theorem commitShard_sound {s : State} (hs : Sound fz qu s) (c : Nat) (x : Shard) :
    Sound fz qu (commitShard c s x) := by
  unfold commitShard
  repeat' first
    | (simp +contextual (maxDischargeDepth := 99) only [bump_sound, logEvt_sound, keepExtent_sound, ite_sound, each_sound, *]; done)
    | (extract_lets +onlyGivenNames x; refine (fun (hx : Sound fz qu x) => ?_) ?_; (clear_value x; rotate_left; unfold x; clear x))
    | (extract_lets +onlyGivenNames x; refine (fun (hx : Sound fz qu x.1) => ?_) ?_; (clear_value x; rotate_left; unfold x; clear x))
    | (extract_lets +onlyGivenNames x; clear_value x)
    | split
    | with_reducible refine each_sound (fun _ _ _ => ?_) _ ?_
    | with_reducible apply bump_sound
    | with_reducible apply logEvt_sound
    | with_reducible apply keepExtent_sound
    | dsimp only

theorem commitShards_sound {s : State} (hs : Sound fz qu s) (job : Nat) (c : Nat) (step : Nat) :
    Sound fz qu (commitShards s job c step) := by
  unfold commitShards
  repeat' first
    | (simp +contextual (maxDischargeDepth := 99) only [commitShard_sound, each_sound, *]; done)
    | with_reducible refine each_sound (fun _ _ _ => ?_) _ ?_
    | with_reducible apply commitShard_sound
    | dsimp only

theorem dropShards_sound {s : State} (hs : Sound fz qu s) (job : Nat) (step : Nat) :
    Sound fz qu (dropShards s job step) := by
  unfold dropShards
  repeat' first
    | (simp +contextual (maxDischargeDepth := 99) only [sound_mk, *]; done)
    | with_reducible apply (sound_mk ..).2
    | dsimp only

theorem commitApply_sound {s : State} (hs : Sound fz qu s) (job : Nat) (j : Nat) (c : CommitCmd) :
    Sound fz qu (commitApply s job j c) := by
  unfold commitApply
  repeat' first
    | (simp +contextual (maxDischargeDepth := 99) only [put_sound, bump_sound, tcAdd_sound, endCommit_sound, backState_sound, commitShards_sound, dropShards_sound, ite_sound, each_sound, *]; done)
    | (extract_lets +onlyGivenNames x; refine (fun (hx : Sound fz qu x) => ?_) ?_; (clear_value x; rotate_left; unfold x; clear x))
    | (extract_lets +onlyGivenNames x; refine (fun (hx : Sound fz qu x.1) => ?_) ?_; (clear_value x; rotate_left; unfold x; clear x))
    | (extract_lets +onlyGivenNames x; clear_value x)
    | split
    | with_reducible refine each_sound (fun _ _ _ => ?_) _ ?_
    | with_reducible apply put_sound
    | with_reducible apply bump_sound
    | with_reducible apply tcAdd_sound
    | with_reducible apply endCommit_sound
    | with_reducible apply backState_sound
    | with_reducible apply commitShards_sound
    | with_reducible apply dropShards_sound
    | dsimp only

theorem scribbleBanks_sound {s : State} (hs : Sound fz qu s) (job : Nat) (cur : Nat) :
    Sound fz qu (scribbleBanks s job cur) := by
  unfold scribbleBanks
  repeat' first
    | (simp +contextual (maxDischargeDepth := 99) only [scribbleVa_sound, ite_sound, each_sound, *]; done)
    | split
    | with_reducible refine each_sound (fun _ _ _ => ?_) _ ?_
    | with_reducible apply scribbleVa_sound
    | dsimp only

theorem rollbackApply_sound {s : State} (hs : Sound fz qu s) (job : Nat) (j : Nat) (c : CommitCmd) :
    Sound fz qu (rollbackApply s job j c) := by
  unfold rollbackApply
  repeat' first
    | (simp +contextual (maxDischargeDepth := 99) only [put_sound, bump_sound, endCommit_sound, backState_sound, dropShards_sound, scribbleBanks_sound, ite_sound, *]; done)
    | (extract_lets +onlyGivenNames x; refine (fun (hx : Sound fz qu x) => ?_) ?_; (clear_value x; rotate_left; unfold x; clear x))
    | (extract_lets +onlyGivenNames x; refine (fun (hx : Sound fz qu x.1) => ?_) ?_; (clear_value x; rotate_left; unfold x; clear x))
    | (extract_lets +onlyGivenNames x; clear_value x)
    | split
    | with_reducible apply put_sound
    | with_reducible apply bump_sound
    | with_reducible apply endCommit_sound
    | with_reducible apply backState_sound
    | with_reducible apply dropShards_sound
    | with_reducible apply scribbleBanks_sound
    | dsimp only

theorem commitAtEpoch_sound {s : State} (hs : Sound fz qu s) (job : Nat) :
    Sound fz qu (commitAtEpoch s job) := by
  unfold commitAtEpoch
  repeat' first
    | (simp +contextual (maxDischargeDepth := 99) only [endCommit_sound, commitApply_sound, rollbackApply_sound, ite_sound, *]; done)
    | split
    | with_reducible apply endCommit_sound
    | with_reducible apply commitApply_sound
    | with_reducible apply rollbackApply_sound
    | dsimp only

theorem applyScope_sound {s : State} (hs : Sound fz qu s) (sc : Nat) :
    Sound fz qu (applyScope s sc) := by
  unfold applyScope
  repeat' first
    | (simp +contextual (maxDischargeDepth := 99) only [setNamed_sound, clearArm_sound, clearHeld_sound, applyShadows_sound, retuneDies_sound, imageAtEpoch_sound, commitAtEpoch_sound, ite_sound, sound_mk, *]; done)
    | (extract_lets +onlyGivenNames x; refine (fun (hx : Sound fz qu x) => ?_) ?_; (clear_value x; rotate_left; unfold x; clear x))
    | (extract_lets +onlyGivenNames x; refine (fun (hx : Sound fz qu x.1) => ?_) ?_; (clear_value x; rotate_left; unfold x; clear x))
    | (extract_lets +onlyGivenNames x; clear_value x)
    | split
    | with_reducible apply setNamed_sound
    | with_reducible apply clearArm_sound
    | with_reducible apply clearHeld_sound
    | with_reducible apply applyShadows_sound
    | with_reducible apply retuneDies_sound
    | with_reducible apply imageAtEpoch_sound
    | with_reducible apply commitAtEpoch_sound
    | with_reducible apply (sound_mk ..).2
    | dsimp only

theorem scopeAtEpoch_sound {s : State} (hs : Sound fz qu s) (sc : Nat) :
    Sound fz qu (scopeAtEpoch s sc) := by
  unfold scopeAtEpoch
  repeat' first
    | (simp +contextual (maxDischargeDepth := 99) only [setNamed_sound, beginEclipse_sound, applyScope_sound, ite_sound, *]; done)
    | split
    | with_reducible apply setNamed_sound
    | with_reducible apply beginEclipse_sound
    | with_reducible apply applyScope_sound
    | dsimp only

theorem applyDue_sound {s : State} (hs : Sound fz qu s) (epoch : Nat) :
    Sound fz qu (applyDue s epoch) := by
  unfold applyDue
  repeat' first
    | (simp +contextual (maxDischargeDepth := 99) only [scopeAtEpoch_sound, each_sound, *]; done)
    | with_reducible refine each_sound (fun _ _ _ => ?_) _ ?_
    | with_reducible apply scopeAtEpoch_sound
    | dsimp only

theorem powerAtEpoch_sound {s : State} (hs : Sound fz qu s) (epoch : Nat) :
    Sound fz qu (powerAtEpoch s epoch) := by
  unfold powerAtEpoch
  repeat' first
    | (simp +contextual (maxDischargeDepth := 99) only [startTransition_sound, ite_sound, *]; done)
    | split
    | with_reducible apply startTransition_sound
    | dsimp only

theorem epochBody_sound {s : State} (hs : Sound fz qu s) (epoch : Nat) :
    Sound fz qu (epochBody s epoch) := by
  unfold epochBody
  repeat' first
    | (simp +contextual (maxDischargeDepth := 99) only [wantLower_sound, retryHeld_sound, takeSnapshots_sound, applyDue_sound, powerAtEpoch_sound, sound_mk, *]; done)
    | (extract_lets +onlyGivenNames x; refine (fun (hx : Sound fz qu x) => ?_) ?_; (clear_value x; rotate_left; unfold x; clear x))
    | (extract_lets +onlyGivenNames x; refine (fun (hx : Sound fz qu x.1) => ?_) ?_; (clear_value x; rotate_left; unfold x; clear x))
    | (extract_lets +onlyGivenNames x; clear_value x)
    | with_reducible apply wantLower_sound
    | with_reducible apply retryHeld_sound
    | with_reducible apply takeSnapshots_sound
    | with_reducible apply applyDue_sound
    | with_reducible apply powerAtEpoch_sound
    | with_reducible apply (sound_mk ..).2
    | dsimp only

theorem execEpochBoundary_sound {s : State} (hs : Sound fz qu s) :
    Goes fz qu (execEpochBoundary s) := by
  unfold execEpochBoundary
  repeat' first
    | (simp +contextual (maxDischargeDepth := 99) only [epochBody_sound, goes_next, ite_sound, ite_goes, sound_mk, onlyIf_sound, *]; done)
    | with_reducible refine goes_next ?_
    | with_reducible refine onlyIf_sound (fun _ _ => ?_) ?_
    | split
    | with_reducible apply epochBody_sound
    | with_reducible apply (sound_mk ..).2
    | dsimp only

theorem afterStep_sound {s : State} (hs : Sound fz qu s) (x : Nat × Nat) :
    Sound fz qu (afterStep s x) := by
  unfold afterStep
  repeat' first
    | (simp +contextual (maxDischargeDepth := 99) only [stepSlots_sound, epochBody_sound, ite_sound, sound_mk, *]; done)
    | (extract_lets +onlyGivenNames x; refine (fun (hx : Sound fz qu x) => ?_) ?_; (clear_value x; rotate_left; unfold x; clear x))
    | (extract_lets +onlyGivenNames x; refine (fun (hx : Sound fz qu x.1) => ?_) ?_; (clear_value x; rotate_left; unfold x; clear x))
    | (extract_lets +onlyGivenNames x; clear_value x)
    | split
    | with_reducible apply stepSlots_sound
    | with_reducible apply epochBody_sound
    | with_reducible apply (sound_mk ..).2
    | dsimp only

theorem stepTo_sound {s : State} (hs : Sound fz qu s) (t : TimeSt) :
    Sound fz qu (stepTo s t) := by
  unfold stepTo
  repeat' first
    | (simp +contextual (maxDischargeDepth := 99) only [afterStep_sound, sound_mk, *]; done)
    | with_reducible apply afterStep_sound
    | with_reducible apply (sound_mk ..).2
    | dsimp only

theorem tideSetOnly_sound {s : State} (hs : Sound fz qu s) (v : Nat) :
    Sound fz qu (tideSetOnly s v) := by
  unfold tideSetOnly
  repeat' first
    | (simp +contextual (maxDischargeDepth := 99) only [logEvt_sound, ite_sound, sound_mk, *]; done)
    | split
    | with_reducible apply logEvt_sound
    | with_reducible apply (sound_mk ..).2
    | dsimp only

theorem tideSetWrite_sound {s : State} (hs : Sound fz qu s) (v : Nat) :
    Sound fz qu (tideSetWrite s v) := by
  unfold tideSetWrite
  repeat' first
    | (simp +contextual (maxDischargeDepth := 99) only [logEvt_sound, stepTo_sound, ite_sound, *]; done)
    | split
    | with_reducible apply logEvt_sound
    | with_reducible apply stepTo_sound
    | dsimp only

theorem execTideSet_sound {s : State} (hs : Sound fz qu s) (tide : BitVec 64) :
    Goes fz qu (execTideSet tide s) := by
  unfold execTideSet
  repeat' first
    | (simp +contextual (maxDischargeDepth := 99) only [tideSetWrite_sound, goes_next, onlyIf_sound, *]; done)
    | with_reducible refine goes_next ?_
    | with_reducible refine onlyIf_sound (fun _ _ => ?_) ?_
    | with_reducible apply tideSetWrite_sound
    | dsimp only

theorem measurement1_sound {s : State} (hs : Sound fz qu s) (q : Int) :
    Sound fz qu (measurement1 s q) := by
  unfold measurement1
  repeat' first
    | (simp +contextual (maxDischargeDepth := 99) only [measured_sound, stepTo_sound, ite_sound, *]; done)
    | (extract_lets +onlyGivenNames x; refine (fun (hx : Sound fz qu x) => ?_) ?_; (clear_value x; rotate_left; unfold x; clear x))
    | (extract_lets +onlyGivenNames x; refine (fun (hx : Sound fz qu x.1) => ?_) ?_; (clear_value x; rotate_left; unfold x; clear x))
    | (extract_lets +onlyGivenNames x; clear_value x)
    | split
    | with_reducible apply measured_sound
    | with_reducible apply stepTo_sound
    | dsimp only

theorem ptpSynced_sound {s : State} (hs : Sound fz qu s) (p : Cp) (v6 : Bool) (t1 : Int) (t2 : Int) :
    Sound fz qu (ptpSynced s p v6 t1 t2) := by
  unfold ptpSynced
  repeat' first
    | (simp +contextual (maxDischargeDepth := 99) only [emit_sound, sound_mk, *]; done)
    | (extract_lets +onlyGivenNames x; refine (fun (hx : Sound fz qu x) => ?_) ?_; (clear_value x; rotate_left; unfold x; clear x))
    | (extract_lets +onlyGivenNames x; refine (fun (hx : Sound fz qu x.1) => ?_) ?_; (clear_value x; rotate_left; unfold x; clear x))
    | (extract_lets +onlyGivenNames x; clear_value x)
    | with_reducible apply emit_sound
    | with_reducible apply (sound_mk ..).2
    | dsimp only

theorem ptpMessage_sound {s : State} (hs : Sound fz qu s) (p : Cp) (m : PtpMsg) :
    Sound fz qu (ptpMessage s p m) := by
  unfold ptpMessage
  repeat' first
    | (simp +contextual (maxDischargeDepth := 99) only [measurement1_sound, ptpSynced_sound, ite_sound, sound_mk, *]; done)
    | (extract_lets +onlyGivenNames x; refine (fun (hx : Sound fz qu x) => ?_) ?_; (clear_value x; rotate_left; unfold x; clear x))
    | (extract_lets +onlyGivenNames x; refine (fun (hx : Sound fz qu x.1) => ?_) ?_; (clear_value x; rotate_left; unfold x; clear x))
    | (extract_lets +onlyGivenNames x; clear_value x)
    | split
    | with_reducible apply measurement1_sound
    | with_reducible apply ptpSynced_sound
    | with_reducible apply (sound_mk ..).2
    | dsimp only

theorem execPtpMessageRx_sound {s : State} (hs : Sound fz qu s) (p : Cp) (domain : BitVec 8) (m : PtpMsg) :
    Goes fz qu (execPtpMessageRx p domain m s) := by
  unfold execPtpMessageRx
  repeat' first
    | (simp +contextual (maxDischargeDepth := 99) only [ptpMessage_sound, goes_next, onlyIf_sound, *]; done)
    | with_reducible refine goes_next ?_
    | with_reducible refine onlyIf_sound (fun _ _ => ?_) ?_
    | with_reducible apply ptpMessage_sound
    | dsimp only

theorem execTidePpsInEdge_sound {s : State} (hs : Sound fz qu s) :
    Goes fz qu (execTidePpsInEdge s) := by
  unfold execTidePpsInEdge
  repeat' first
    | (simp +contextual (maxDischargeDepth := 99) only [measurement1_sound, goes_next, sound_mk, onlyIf_sound, *]; done)
    | with_reducible refine goes_next ?_
    | with_reducible refine onlyIf_sound (fun _ _ => ?_) ?_
    | with_reducible apply measurement1_sound
    | with_reducible apply (sound_mk ..).2
    | dsimp only

theorem sendStamp_sound {s : State} (hs : Sound fz qu s) (p : Nat) (f : TsFlit) :
    Sound fz qu (sendStamp s p f) := by
  unfold sendStamp
  repeat' first
    | (simp +contextual (maxDischargeDepth := 99) only [sendFlit_sound, *]; done)
    | with_reducible apply sendFlit_sound
    | dsimp only

theorem execTimestampExchangeSend_sound {s : State} (hs : Sound fz qu s) (p : Port) :
    Goes fz qu (execTimestampExchangeSend p s) := by
  unfold execTimestampExchangeSend
  repeat' first
    | (simp +contextual (maxDischargeDepth := 99) only [setLink_sound, sendStamp_sound, goes_next, sound_mk, onlyIf_sound, *]; done)
    | with_reducible refine goes_next ?_
    | with_reducible refine onlyIf_sound (fun _ _ => ?_) ?_
    | (extract_lets +onlyGivenNames x; refine (fun (hx : Sound fz qu x) => ?_) ?_; (clear_value x; rotate_left; unfold x; clear x))
    | (extract_lets +onlyGivenNames x; refine (fun (hx : Sound fz qu x.1) => ?_) ?_; (clear_value x; rotate_left; unfold x; clear x))
    | (extract_lets +onlyGivenNames x; clear_value x)
    | split
    | with_reducible apply setLink_sound
    | with_reducible apply sendStamp_sound
    | with_reducible apply (sound_mk ..).2
    | dsimp only

theorem noteDepth_sound {s : State} (hs : Sound fz qu s) (d : Nat) :
    Sound fz qu (noteDepth s d) := by
  unfold noteDepth
  repeat' first
    | (simp +contextual (maxDischargeDepth := 99) only [put_sound, loseSync_sound, ite_sound, *]; done)
    | split
    | with_reducible apply put_sound
    | with_reducible apply loseSync_sound
    | dsimp only

theorem stampResponse_sound {s : State} (hs : Sound fz qu s) (p : Nat) (f : TsFlit) (arrival : Nat) :
    Sound fz qu (stampResponse s p f arrival) := by
  unfold stampResponse
  repeat' first
    | (simp +contextual (maxDischargeDepth := 99) only [measurement1_sound, noteDepth_sound, ite_sound, sound_mk, *]; done)
    | (extract_lets +onlyGivenNames x; refine (fun (hx : Sound fz qu x) => ?_) ?_; (clear_value x; rotate_left; unfold x; clear x))
    | (extract_lets +onlyGivenNames x; refine (fun (hx : Sound fz qu x.1) => ?_) ?_; (clear_value x; rotate_left; unfold x; clear x))
    | (extract_lets +onlyGivenNames x; clear_value x)
    | split
    | with_reducible apply measurement1_sound
    | with_reducible apply noteDepth_sound
    | with_reducible apply (sound_mk ..).2
    | dsimp only

theorem stampRequest_sound {s : State} (hs : Sound fz qu s) (p : Nat) (f : TsFlit) (arrival : BitVec 64) :
    Sound fz qu (stampRequest s p f arrival) := by
  unfold stampRequest
  repeat' first
    | (simp +contextual (maxDischargeDepth := 99) only [sendStamp_sound, noteDepth_sound, ite_sound, *]; done)
    | (extract_lets +onlyGivenNames x; refine (fun (hx : Sound fz qu x) => ?_) ?_; (clear_value x; rotate_left; unfold x; clear x))
    | (extract_lets +onlyGivenNames x; refine (fun (hx : Sound fz qu x.1) => ?_) ?_; (clear_value x; rotate_left; unfold x; clear x))
    | (extract_lets +onlyGivenNames x; clear_value x)
    | split
    | with_reducible apply sendStamp_sound
    | with_reducible apply noteDepth_sound
    | dsimp only

theorem execTimestampFlitRx_sound {s : State} (hs : Sound fz qu s) (p : Port) (flit : BitVec 2048) (arrival : BitVec 64) :
    Goes fz qu (execTimestampFlitRx p flit arrival s) := by
  unfold execTimestampFlitRx
  repeat' first
    | (simp +contextual (maxDischargeDepth := 99) only [rxFlit_sound, stampResponse_sound, stampRequest_sound, goes_next, ite_sound, ite_goes, onlyIf_sound, *]; done)
    | with_reducible refine goes_next ?_
    | with_reducible refine onlyIf_sound (fun _ _ => ?_) ?_
    | with_reducible refine rxFlit_sound ?_ (fun _ _ => ?_) _ _ _
    | (extract_lets +onlyGivenNames x; refine (fun (hx : Sound fz qu x) => ?_) ?_; (clear_value x; rotate_left; unfold x; clear x))
    | (extract_lets +onlyGivenNames x; refine (fun (hx : Sound fz qu x.1) => ?_) ?_; (clear_value x; rotate_left; unfold x; clear x))
    | (extract_lets +onlyGivenNames x; clear_value x)
    | split
    | with_reducible apply stampResponse_sound
    | with_reducible apply stampRequest_sound
    | dsimp only

theorem grantSlot_sound {s : State} (hs : Sound fz qu s) (n : Nat) (r : ChainRec) :
    Sound fz qu (grantSlot n s r) := by
  unfold grantSlot
  repeat' first
    | (simp +contextual (maxDischargeDepth := 99) only [ite_sound, sound_mk, *]; done)
    | (extract_lets +onlyGivenNames x; refine (fun (hx : Sound fz qu x) => ?_) ?_; (clear_value x; rotate_left; unfold x; clear x))
    | (extract_lets +onlyGivenNames x; refine (fun (hx : Sound fz qu x.1) => ?_) ?_; (clear_value x; rotate_left; unfold x; clear x))
    | (extract_lets +onlyGivenNames x; clear_value x)
    | split
    | with_reducible apply (sound_mk ..).2
    | dsimp only

theorem execSlotBoundary_sound {s : State} (hs : Sound fz qu s) (k : Fin 8) :
    Goes fz qu (execSlotBoundary k s) := by
  unfold execSlotBoundary
  repeat' first
    | (simp +contextual (maxDischargeDepth := 99) only [grantSlot_sound, goes_next, sound_mk, onlyIf_sound, each_sound, *]; done)
    | with_reducible refine goes_next ?_
    | with_reducible refine onlyIf_sound (fun _ _ => ?_) ?_
    | (extract_lets +onlyGivenNames x; refine (fun (hx : Sound fz qu x) => ?_) ?_; (clear_value x; rotate_left; unfold x; clear x))
    | (extract_lets +onlyGivenNames x; refine (fun (hx : Sound fz qu x.1) => ?_) ?_; (clear_value x; rotate_left; unfold x; clear x))
    | (extract_lets +onlyGivenNames x; clear_value x)
    | split
    | with_reducible refine each_sound (fun _ _ _ => ?_) _ ?_
    | with_reducible apply grantSlot_sound
    | with_reducible apply (sound_mk ..).2
    | dsimp only

theorem committedWrite_sound {s : State} (hs : Sound fz qu s) (j : Nat) (v : Nat) :
    Sound fz qu (committedWrite s j v) := by
  unfold committedWrite
  repeat' first
    | (simp +contextual (maxDischargeDepth := 99) only [put_sound, ite_sound, *]; done)
    | split
    | with_reducible apply put_sound
    | dsimp only

theorem execGrdCommittedWrite_sound {s : State} (hs : Sound fz qu s) (j : Fin 64) (v : BitVec 32) :
    Goes fz qu (execGrdCommittedWrite j v s) := by
  unfold execGrdCommittedWrite
  repeat' first
    | (simp +contextual (maxDischargeDepth := 99) only [committedWrite_sound, goes_next, onlyIf_sound, *]; done)
    | with_reducible refine goes_next ?_
    | with_reducible refine onlyIf_sound (fun _ _ => ?_) ?_
    | with_reducible apply committedWrite_sound
    | dsimp only

end Sys2Proof.Machine
end

