-- ==== Sys2Proof/Laws/SoundMedia.lean ====
section
/-!
SUPPORT. What the operations and commands of Machine/Media.lean keep: the queue, the fused identity, the canonical form of memory,
and registers within their widths.
-/
namespace Sys2Proof.Machine

set_option linter.unusedTactic false
set_option linter.unreachableTactic false
set_option linter.unusedSimpArgs false

variable {fz : Fuses} {qu : List Instr}

theorem setMed_sound {s : State} (hs : Sound fz qu s) (e : Nat) (x : MedSt) :
    Sound fz qu (setMed s e x) := by
  unfold setMed
  repeat' first
    | (simp +contextual (maxDischargeDepth := 99) only [sound_mk, *]; done)
    | with_reducible apply (sound_mk ..).2
    | dsimp only

theorem fn6Write_sound {s : State} {f : State → State} (hs : Sound fz qu s) (hff : ∀ (y0 : State), Sound fz qu y0 → Sound fz qu (f y0)) :
    Sound fz qu (fn6Write s f) := by
  unfold fn6Write
  repeat' first
    | (simp +contextual (maxDischargeDepth := 99) only [onlyIf_sound, *]; done)
    | with_reducible refine onlyIf_sound (fun _ _ => ?_) ?_
    | dsimp only

theorem ringWrite_sound {s : State} (hs : Sound fz qu s) (e : Nat) (v : Nat) :
    Sound fz qu (ringWrite s e v) := by
  unfold ringWrite
  repeat' first
    | (simp +contextual (maxDischargeDepth := 99) only [put_sound, ite_sound, *]; done)
    | (extract_lets +onlyGivenNames x; refine (fun (hx : Sound fz qu x) => ?_) ?_; (clear_value x; rotate_left; unfold x; clear x))
    | (extract_lets +onlyGivenNames x; refine (fun (hx : Sound fz qu x.1) => ?_) ?_; (clear_value x; rotate_left; unfold x; clear x))
    | (extract_lets +onlyGivenNames x; clear_value x)
    | split
    | with_reducible apply put_sound
    | dsimp only

theorem execMediaTailWrite_sound {s : State} (hs : Sound fz qu s) (e : Fin 2) (tail : BitVec 16) :
    Goes fz qu (execMediaTailWrite e tail s) := by
  unfold execMediaTailWrite
  repeat' first
    | (simp +contextual (maxDischargeDepth := 99) only [put_sound, fn6Write_sound, goes_next, *]; done)
    | with_reducible refine goes_next ?_
    | with_reducible refine fn6Write_sound ?_ (fun _ _ => ?_)
    | with_reducible apply put_sound
    | dsimp only

theorem medRead_sound {s : State} (h : Sound fz qu s) (job va n : Nat) : Sound fz qu (medRead s job va n).1 := by
  refine foldl_sound (fun r p hr => ?_) _ h
  split
  · exact hr
  · split
    · rename_i o _
      have ho := readOff_sound (noteAccess_sound hr 255 job p.2.1 false) job 255 o p.2.2
      dsimp only
      split
      · exact ho
      · exact ho
    · exact noteMed_sound hr _ _ _

theorem noteClosed_sound {s : State} (hs : Sound fz qu s) (job : Nat) (l : List (Nat × Nat)) :
    Sound fz qu (noteClosed s job l) := by
  unfold noteClosed
  repeat' first
    | (simp +contextual (maxDischargeDepth := 99) only [noteFault_sound, *]; done)
    | split
    | with_reducible apply noteFault_sound
    | dsimp only

theorem noteOuts_sound {s : State} (hs : Sound fz qu s) (job : Nat) (l : List (Nat × Nat)) :
    Sound fz qu (noteOuts s job l) := by
  unfold noteOuts
  repeat' first
    | (simp +contextual (maxDischargeDepth := 99) only [noteUnwritable_sound, noteClosed_sound, *]; done)
    | with_reducible apply noteUnwritable_sound
    | with_reducible apply noteClosed_sound
    | dsimp only

theorem runDecode_sound {s : State} (hs : Sound fz qu s) (r : List Word) (w : List Word) :
    Sound fz qu (runDecode s r w).1 := by
  unfold runDecode
  repeat' first
    | (simp +contextual (maxDischargeDepth := 99) only [medRead_sound, noteOuts_sound, ite_sound, *]; done)
    | (extract_lets +onlyGivenNames x; refine (fun (hx : Sound fz qu x) => ?_) ?_; (clear_value x; rotate_left; unfold x; clear x))
    | (extract_lets +onlyGivenNames x; refine (fun (hx : Sound fz qu x.1) => ?_) ?_; (clear_value x; rotate_left; unfold x; clear x))
    | (extract_lets +onlyGivenNames x; clear_value x)
    | split
    | with_reducible apply medRead_sound
    | with_reducible apply noteOuts_sound
    | dsimp only

theorem readPlane_sound {s : State} (h : Sound fz qu s) (job va stride w n : Nat) :
    Sound fz qu (readPlane s job va stride w n).1 := by
  refine foldl_sound (fun r i hr => ?_) _ h
  split
  · exact hr
  · exact medRead_sound hr _ _ _

theorem readFrames_sound {s : State} (h : Sound fz qu s) (r w : List Word) : Sound fz qu (readFrames s r w).1 := by
  refine foldl_sound (fun r i hr => ?_) _ h
  split
  · exact hr
  · exact readPlane_sound (readPlane_sound (readPlane_sound hr _ _ _ _ _) _ _ _ _ _) _ _ _ _ _

theorem runEncode_sound {s : State} (hs : Sound fz qu s) (r : List Word) (w : List Word) :
    Sound fz qu (runEncode s r w).1 := by
  unfold runEncode
  repeat' first
    | (simp +contextual (maxDischargeDepth := 99) only [noteOuts_sound, readFrames_sound, ite_sound, sound_mk, *]; done)
    | (extract_lets +onlyGivenNames x; refine (fun (hx : Sound fz qu x) => ?_) ?_; (clear_value x; rotate_left; unfold x; clear x))
    | (extract_lets +onlyGivenNames x; refine (fun (hx : Sound fz qu x.1) => ?_) ?_; (clear_value x; rotate_left; unfold x; clear x))
    | (extract_lets +onlyGivenNames x; clear_value x)
    | split
    | with_reducible apply noteOuts_sound
    | with_reducible apply readFrames_sound
    | with_reducible apply (sound_mk ..).2
    | dsimp only

theorem runTask_sound {s : State} (hs : Sound fz qu s) (r : List Word) :
    Sound fz qu (runTask s r).1 := by
  unfold runTask
  repeat' first
    | (simp +contextual (maxDischargeDepth := 99) only [medRead_sound, runDecode_sound, runEncode_sound, ite_sound, *]; done)
    | (extract_lets +onlyGivenNames x; refine (fun (hx : Sound fz qu x) => ?_) ?_; (clear_value x; rotate_left; unfold x; clear x))
    | (extract_lets +onlyGivenNames x; refine (fun (hx : Sound fz qu x.1) => ?_) ?_; (clear_value x; rotate_left; unfold x; clear x))
    | (extract_lets +onlyGivenNames x; clear_value x)
    | split
    | with_reducible apply medRead_sound
    | with_reducible apply runDecode_sound
    | with_reducible apply runEncode_sound
    | dsimp only

theorem startMedia_sound {s : State} (hs : Sound fz qu s) (e : Nat) (mine : Nat → Bool) :
    Sound fz qu (startMedia s e mine) := by
  unfold startMedia
  repeat' first
    | (simp +contextual (maxDischargeDepth := 99) only [put_sound, readOff_sound, setMed_sound, runTask_sound, ite_sound, *]; done)
    | (extract_lets +onlyGivenNames x; refine (fun (hx : Sound fz qu x) => ?_) ?_; (clear_value x; rotate_left; unfold x; clear x))
    | (extract_lets +onlyGivenNames x; refine (fun (hx : Sound fz qu x.1) => ?_) ?_; (clear_value x; rotate_left; unfold x; clear x))
    | (extract_lets +onlyGivenNames x; clear_value x)
    | split
    | with_reducible apply put_sound
    | with_reducible apply readOff_sound
    | with_reducible apply setMed_sound
    | with_reducible apply runTask_sound
    | dsimp only

theorem execMediaDecodeTask_sound {s : State} (hs : Sound fz qu s) (e : Fin 2) :
    Goes fz qu (execMediaDecodeTask e s) := by
  unfold execMediaDecodeTask
  repeat' first
    | (simp +contextual (maxDischargeDepth := 99) only [startMedia_sound, goes_next, *]; done)
    | with_reducible refine goes_next ?_
    | with_reducible apply startMedia_sound
    | dsimp only

theorem execMediaEncodeTask_sound {s : State} (hs : Sound fz qu s) (e : Fin 2) :
    Goes fz qu (execMediaEncodeTask e s) := by
  unfold execMediaEncodeTask
  repeat' first
    | (simp +contextual (maxDischargeDepth := 99) only [startMedia_sound, goes_next, *]; done)
    | with_reducible refine goes_next ?_
    | with_reducible apply startMedia_sound
    | dsimp only

theorem nextRecord_sound {s : State} (hs : Sound fz qu s) (e : Nat) :
    Sound fz qu (nextRecord s e) := by
  unfold nextRecord
  repeat' first
    | (simp +contextual (maxDischargeDepth := 99) only [put_sound, setMed_sound, *]; done)
    | with_reducible apply put_sound
    | with_reducible apply setMed_sound
    | dsimp only

theorem recordMed_sound {s : State} (hs : Sound fz qu s) (e : Nat) (job : Nat) (code : Nat) (reason : Nat) (offset : Nat) (frame : Nat) :
    Sound fz qu (recordMed s e job code reason offset frame) := by
  unfold recordMed
  repeat' first
    | (simp +contextual (maxDischargeDepth := 99) only [put_sound, ite_sound, *]; done)
    | (extract_lets +onlyGivenNames x; refine (fun (hx : Sound fz qu x) => ?_) ?_; (clear_value x; rotate_left; unfold x; clear x))
    | (extract_lets +onlyGivenNames x; refine (fun (hx : Sound fz qu x.1) => ?_) ?_; (clear_value x; rotate_left; unfold x; clear x))
    | (extract_lets +onlyGivenNames x; clear_value x)
    | split
    | with_reducible apply put_sound
    | dsimp only

theorem taskAborted_sound {s : State} (hs : Sound fz qu s) (e : Nat) (t : MedTask) (code : Nat) (reason : Nat) (offset : Nat) (frame : Nat) :
    Sound fz qu (taskAborted s e t code reason offset frame) := by
  unfold taskAborted
  repeat' first
    | (simp +contextual (maxDischargeDepth := 99) only [bump_sound, logEvt_sound, scribbleVa_sound, medWrite_sound, nextRecord_sound, recordMed_sound, ite_sound, each_sound, *]; done)
    | (extract_lets +onlyGivenNames x; refine (fun (hx : Sound fz qu x) => ?_) ?_; (clear_value x; rotate_left; unfold x; clear x))
    | (extract_lets +onlyGivenNames x; refine (fun (hx : Sound fz qu x.1) => ?_) ?_; (clear_value x; rotate_left; unfold x; clear x))
    | (extract_lets +onlyGivenNames x; clear_value x)
    | split
    | with_reducible refine each_sound (fun _ _ _ => ?_) _ ?_
    | with_reducible apply bump_sound
    | with_reducible apply logEvt_sound
    | with_reducible apply scribbleVa_sound
    | with_reducible apply medWrite_sound
    | with_reducible apply nextRecord_sound
    | with_reducible apply recordMed_sound
    | dsimp only

theorem taskEnded_sound {s : State} (hs : Sound fz qu s) (e : Nat) (t : MedTask) :
    Sound fz qu (taskEnded s e t) := by
  unfold taskEnded
  repeat' first
    | (simp +contextual (maxDischargeDepth := 99) only [bumpW_sound, scribbleVa_sound, tcAdd_sound, medWrites_sound, nextRecord_sound, taskAborted_sound, ite_sound, sound_mk, each_sound, *]; done)
    | (extract_lets +onlyGivenNames x; refine (fun (hx : Sound fz qu x) => ?_) ?_; (clear_value x; rotate_left; unfold x; clear x))
    | (extract_lets +onlyGivenNames x; refine (fun (hx : Sound fz qu x.1) => ?_) ?_; (clear_value x; rotate_left; unfold x; clear x))
    | (extract_lets +onlyGivenNames x; clear_value x)
    | split
    | with_reducible refine each_sound (fun _ _ _ => ?_) _ ?_
    | with_reducible apply bumpW_sound
    | with_reducible apply scribbleVa_sound
    | with_reducible apply tcAdd_sound
    | with_reducible apply medWrites_sound
    | with_reducible apply nextRecord_sound
    | with_reducible apply taskAborted_sound
    | with_reducible apply (sound_mk ..).2
    | dsimp only

theorem taskDone_sound {s : State} (hs : Sound fz qu s) (e : Nat) (t : MedTask) :
    Sound fz qu (taskDone s e t) := by
  unfold taskDone
  repeat' first
    | (simp +contextual (maxDischargeDepth := 99) only [noteClosed_sound, taskAborted_sound, taskEnded_sound, sound_mk, *]; done)
    | split
    | with_reducible apply noteClosed_sound
    | with_reducible apply taskAborted_sound
    | with_reducible apply taskEnded_sound
    | with_reducible apply (sound_mk ..).2
    | dsimp only

theorem execMediaTaskComplete_sound {s : State} (hs : Sound fz qu s) (e : Fin 2) :
    Goes fz qu (execMediaTaskComplete e s) := by
  unfold execMediaTaskComplete
  repeat' first
    | (simp +contextual (maxDischargeDepth := 99) only [taskAborted_sound, taskDone_sound, goes_next, onlyIf_sound, *]; done)
    | with_reducible refine goes_next ?_
    | with_reducible refine onlyIf_sound (fun _ _ => ?_) ?_
    | split
    | with_reducible apply taskAborted_sound
    | with_reducible apply taskDone_sound
    | dsimp only

end Sys2Proof.Machine
end

