-- ==== Sys2Proof/Laws/SoundMmu.lean ====
section
/-!
SUPPORT. What the operations and commands of Machine/Mmu.lean keep: the queue, the fused identity, the canonical form of memory,
and registers within their widths.
-/
namespace Sys2Proof.Machine

set_option linter.unusedTactic false
set_option linter.unreachableTactic false
set_option linter.unusedSimpArgs false

variable {fz : Fuses} {qu : List Instr}

theorem emptyScope_sound {s : State} (hs : Sound fz qu s) (kind : Nat) (job : Nat) (va : Nat) (count : Nat) :
    Sound fz qu (emptyScope s kind job va count) := by
  unfold emptyScope
  repeat' first
    | (simp +contextual (maxDischargeDepth := 99) only [ite_sound, sound_mk, *]; done)
    | split
    | with_reducible apply (sound_mk ..).2
    | dsimp only

theorem startInval_sound {s : State} (hs : Sound fz qu s) (kind : Nat) (job : Nat) (va : Nat) (count : Nat) :
    Sound fz qu (startInval s kind job va count) := by
  unfold startInval
  repeat' first
    | (simp +contextual (maxDischargeDepth := 99) only [put_sound, emptyScope_sound, sound_mk, *]; done)
    | (extract_lets +onlyGivenNames x; refine (fun (hx : Sound fz qu x) => ?_) ?_; (clear_value x; rotate_left; unfold x; clear x))
    | (extract_lets +onlyGivenNames x; refine (fun (hx : Sound fz qu x.1) => ?_) ?_; (clear_value x; rotate_left; unfold x; clear x))
    | (extract_lets +onlyGivenNames x; clear_value x)
    | with_reducible apply put_sound
    | with_reducible apply emptyScope_sound
    | with_reducible apply (sound_mk ..).2
    | dsimp only

theorem invalWrite_sound {s : State} (hs : Sound fz qu s) (v : Nat) :
    Sound fz qu (invalWrite s v) := by
  unfold invalWrite
  repeat' first
    | (simp +contextual (maxDischargeDepth := 99) only [put_sound, startInval_sound, ite_sound, *]; done)
    | (extract_lets +onlyGivenNames x; refine (fun (hx : Sound fz qu x) => ?_) ?_; (clear_value x; rotate_left; unfold x; clear x))
    | (extract_lets +onlyGivenNames x; refine (fun (hx : Sound fz qu x.1) => ?_) ?_; (clear_value x; rotate_left; unfold x; clear x))
    | (extract_lets +onlyGivenNames x; clear_value x)
    | split
    | with_reducible apply put_sound
    | with_reducible apply startInval_sound
    | dsimp only

theorem fn7Write_sound {s : State} {f : State → State} (hs : Sound fz qu s) (hff : ∀ (y0 : State), Sound fz qu y0 → Sound fz qu (f y0)) :
    Sound fz qu (fn7Write s f) := by
  unfold fn7Write
  repeat' first
    | (simp +contextual (maxDischargeDepth := 99) only [onlyIf_sound, *]; done)
    | with_reducible refine onlyIf_sound (fun _ _ => ?_) ?_
    | dsimp only

theorem execMmuInvalPages_sound {s : State} (hs : Sound fz qu s) (job : BitVec 12) (va : BitVec 39) (count : BitVec 32) :
    Goes fz qu (execMmuInvalPages job va count s) := by
  unfold execMmuInvalPages
  repeat' first
    | (simp +contextual (maxDischargeDepth := 99) only [put_sound, invalWrite_sound, fn7Write_sound, goes_next, *]; done)
    | with_reducible refine goes_next ?_
    | with_reducible refine fn7Write_sound ?_ (fun _ _ => ?_)
    | with_reducible apply put_sound
    | with_reducible apply invalWrite_sound
    | dsimp only

theorem execMmuInvalJob_sound {s : State} (hs : Sound fz qu s) (job : BitVec 12) :
    Goes fz qu (execMmuInvalJob job s) := by
  unfold execMmuInvalJob
  repeat' first
    | (simp +contextual (maxDischargeDepth := 99) only [invalWrite_sound, fn7Write_sound, goes_next, *]; done)
    | with_reducible refine goes_next ?_
    | with_reducible refine fn7Write_sound ?_ (fun _ _ => ?_)
    | with_reducible apply invalWrite_sound
    | dsimp only

theorem execMmuInvalAll_sound {s : State} (hs : Sound fz qu s) :
    Goes fz qu (execMmuInvalAll s) := by
  unfold execMmuInvalAll
  repeat' first
    | (simp +contextual (maxDischargeDepth := 99) only [invalWrite_sound, fn7Write_sound, goes_next, *]; done)
    | with_reducible refine goes_next ?_
    | with_reducible refine fn7Write_sound ?_ (fun _ _ => ?_)
    | with_reducible apply invalWrite_sound
    | dsimp only

theorem execMmuInvalWindows_sound {s : State} (hs : Sound fz qu s) :
    Goes fz qu (execMmuInvalWindows s) := by
  unfold execMmuInvalWindows
  repeat' first
    | (simp +contextual (maxDischargeDepth := 99) only [invalWrite_sound, fn7Write_sound, goes_next, *]; done)
    | with_reducible refine goes_next ?_
    | with_reducible refine fn7Write_sound ?_ (fun _ _ => ?_)
    | with_reducible apply invalWrite_sound
    | dsimp only

theorem execMmuInvalDone_sound {s : State} (hs : Sound fz qu s) :
    Goes fz qu (execMmuInvalDone s) := by
  unfold execMmuInvalDone
  repeat' first
    | (simp +contextual (maxDischargeDepth := 99) only [put_sound, emptyScope_sound, goes_next, onlyIf_sound, *]; done)
    | with_reducible refine goes_next ?_
    | with_reducible refine onlyIf_sound (fun _ _ => ?_) ?_
    | with_reducible apply put_sound
    | with_reducible apply emptyScope_sound
    | dsimp only

theorem poolAWrite_sound {s : State} (hs : Sound fz qu s) (p : Nat) (v : Nat) :
    Sound fz qu (poolAWrite s p v) := by
  unfold poolAWrite
  repeat' first
    | (simp +contextual (maxDischargeDepth := 99) only [put_sound, ite_sound, sound_mk, *]; done)
    | (extract_lets +onlyGivenNames x; refine (fun (hx : Sound fz qu x) => ?_) ?_; (clear_value x; rotate_left; unfold x; clear x))
    | (extract_lets +onlyGivenNames x; refine (fun (hx : Sound fz qu x.1) => ?_) ?_; (clear_value x; rotate_left; unfold x; clear x))
    | (extract_lets +onlyGivenNames x; clear_value x)
    | split
    | with_reducible apply put_sound
    | with_reducible apply (sound_mk ..).2
    | dsimp only

theorem poolBWrite_sound {s : State} (hs : Sound fz qu s) (p : Nat) (v : Nat) :
    Sound fz qu (poolBWrite s p v) := by
  unfold poolBWrite
  repeat' first
    | (simp +contextual (maxDischargeDepth := 99) only [put_sound, ite_sound, *]; done)
    | (extract_lets +onlyGivenNames x; refine (fun (hx : Sound fz qu x) => ?_) ?_; (clear_value x; rotate_left; unfold x; clear x))
    | (extract_lets +onlyGivenNames x; refine (fun (hx : Sound fz qu x.1) => ?_) ?_; (clear_value x; rotate_left; unfold x; clear x))
    | (extract_lets +onlyGivenNames x; clear_value x)
    | split
    | with_reducible apply put_sound
    | dsimp only

theorem execMmuPoolEnable_sound {s : State} (hs : Sound fz qu s) (pool : Fin 64) (listBase : BitVec 46) (job : BitVec 12) :
    Goes fz qu (execMmuPoolEnable pool listBase job s) := by
  unfold execMmuPoolEnable
  repeat' first
    | (simp +contextual (maxDischargeDepth := 99) only [fn7Write_sound, poolAWrite_sound, goes_next, *]; done)
    | with_reducible refine goes_next ?_
    | with_reducible refine fn7Write_sound ?_ (fun _ _ => ?_)
    | with_reducible apply poolAWrite_sound
    | dsimp only

theorem execMmuPoolFaultClear_sound {s : State} (hs : Sound fz qu s) (pool : Fin 64) :
    Goes fz qu (execMmuPoolFaultClear pool s) := by
  unfold execMmuPoolFaultClear
  repeat' first
    | (simp +contextual (maxDischargeDepth := 99) only [put_sound, fn7Write_sound, goes_next, *]; done)
    | with_reducible refine goes_next ?_
    | with_reducible refine fn7Write_sound ?_ (fun _ _ => ?_)
    | with_reducible apply put_sound
    | dsimp only

theorem execHbmPatrolScrub_sound {s : State} (hs : Sound fz qu s) (unit : BitVec 40) :
    Goes fz qu (execHbmPatrolScrub unit s) := by
  unfold execHbmPatrolScrub
  repeat' first
    | (simp +contextual (maxDischargeDepth := 99) only [correct_sound, noteUe_sound, goes_next, onlyIf_sound, *]; done)
    | with_reducible refine goes_next ?_
    | with_reducible refine onlyIf_sound (fun _ _ => ?_) ?_
    | (extract_lets +onlyGivenNames x; refine (fun (hx : Sound fz qu x) => ?_) ?_; (clear_value x; rotate_left; unfold x; clear x))
    | (extract_lets +onlyGivenNames x; refine (fun (hx : Sound fz qu x.1) => ?_) ?_; (clear_value x; rotate_left; unfold x; clear x))
    | (extract_lets +onlyGivenNames x; clear_value x)
    | split
    | with_reducible apply correct_sound
    | with_reducible apply noteUe_sound
    | dsimp only

end Sys2Proof.Machine
end

