-- ==== Sys2Proof/Laws/SoundCsr.lean ====
section
/-!
SUPPORT. What the operations and commands of Machine/Csr.lean keep: the queue, the fused identity, the canonical form of memory,
and registers within their widths.
-/
namespace Sys2Proof.Machine

set_option linter.unusedTactic false
set_option linter.unreachableTactic false
set_option linter.unusedSimpArgs false

variable {fz : Fuses} {qu : List Instr}

theorem fldWrite_sound {s : State} (hs : Sound fz qu s) (v : Nat) (i : Nat) (x : FldRow) :
    Sound fz qu (fldWrite v i s x) := by
  unfold fldWrite
  repeat' first
    | (simp +contextual (maxDischargeDepth := 99) only [put_sound, shadowWrite_sound, ite_sound, *]; done)
    | (extract_lets +onlyGivenNames x; refine (fun (hx : Sound fz qu x) => ?_) ?_; (clear_value x; rotate_left; unfold x; clear x))
    | (extract_lets +onlyGivenNames x; refine (fun (hx : Sound fz qu x.1) => ?_) ?_; (clear_value x; rotate_left; unfold x; clear x))
    | (extract_lets +onlyGivenNames x; clear_value x)
    | split
    | with_reducible apply put_sound
    | with_reducible apply shadowWrite_sound
    | dsimp only

theorem plainWrite_sound {s : State} (hs : Sound fz qu s) (r : RegRow) (i : Nat) (v : Nat) :
    Sound fz qu (plainWrite s r i v) := by
  unfold plainWrite
  repeat' first
    | (simp +contextual (maxDischargeDepth := 99) only [fldWrite_sound, each_sound, *]; done)
    | with_reducible refine each_sound (fun _ _ _ => ?_) _ ?_
    | with_reducible apply fldWrite_sound
    | dsimp only

theorem ctlPortWrite_sound {s : State} (hs : Sound fz qu s) (p : Cp) (v : Nat) :
    Sound fz qu (ctlPortWrite s p v) := by
  unfold ctlPortWrite
  repeat' first
    | (simp +contextual (maxDischargeDepth := 99) only [put_sound, ite_sound, *]; done)
    | (extract_lets +onlyGivenNames x; refine (fun (hx : Sound fz qu x) => ?_) ?_; (clear_value x; rotate_left; unfold x; clear x))
    | (extract_lets +onlyGivenNames x; refine (fun (hx : Sound fz qu x.1) => ?_) ?_; (clear_value x; rotate_left; unfold x; clear x))
    | (extract_lets +onlyGivenNames x; clear_value x)
    | split
    | with_reducible apply put_sound
    | dsimp only

theorem dropWrite_sound {s : State} (hs : Sound fz qu s) (r : RegRow) (i : Nat) (v : Nat) :
    Sound fz qu (dropWrite s r i v) := by
  unfold dropWrite
  repeat' first
    | (simp +contextual (maxDischargeDepth := 99) only [put_sound, dropParts_sound, plainWrite_sound, ite_sound, sound_mk, *]; done)
    | (extract_lets +onlyGivenNames x; refine (fun (hx : Sound fz qu x) => ?_) ?_; (clear_value x; rotate_left; unfold x; clear x))
    | (extract_lets +onlyGivenNames x; refine (fun (hx : Sound fz qu x.1) => ?_) ?_; (clear_value x; rotate_left; unfold x; clear x))
    | (extract_lets +onlyGivenNames x; clear_value x)
    | split
    | with_reducible apply put_sound
    | with_reducible apply dropParts_sound
    | with_reducible apply plainWrite_sound
    | with_reducible apply (sound_mk ..).2
    | dsimp only

theorem bankWrite_sound {s : State} (hs : Sound fz qu s) (r : RegRow) (i : Nat) (v : Nat) :
    Sound fz qu (bankWrite s r i v) := by
  unfold bankWrite
  repeat' first
    | (simp +contextual (maxDischargeDepth := 99) only [plainWrite_sound, ite_sound, *]; done)
    | split
    | with_reducible apply plainWrite_sound
    | dsimp only

theorem ctxWrite_sound {s : State} (hs : Sound fz qu s) (r : RegRow) (j : Nat) (v : Nat) :
    Sound fz qu (ctxWrite s r j v) := by
  unfold ctxWrite
  repeat' first
    | (simp +contextual (maxDischargeDepth := 99) only [plainWrite_sound, ite_sound, *]; done)
    | split
    | with_reducible apply plainWrite_sound
    | dsimp only

theorem tcWrite_sound {s : State} (hs : Sound fz qu s) (i : Nat) (v : Nat) :
    Sound fz qu (tcWrite s i v) := by
  unfold tcWrite
  repeat' first
    | (simp +contextual (maxDischargeDepth := 99) only [put_sound, tcRegWrite_sound, ite_sound, *]; done)
    | (extract_lets +onlyGivenNames x; refine (fun (hx : Sound fz qu x) => ?_) ?_; (clear_value x; rotate_left; unfold x; clear x))
    | (extract_lets +onlyGivenNames x; refine (fun (hx : Sound fz qu x.1) => ?_) ?_; (clear_value x; rotate_left; unfold x; clear x))
    | (extract_lets +onlyGivenNames x; clear_value x)
    | split
    | with_reducible apply put_sound
    | with_reducible apply tcRegWrite_sound
    | dsimp only

theorem regWriteAt_sound {s : State} (hs : Sound fz qu s) (p : Cp) (r : RegRow) (i : Nat) (v : Nat) :
    Sound fz qu (regWriteAt s p r i v) := by
  unfold regWriteAt
  repeat' first
    | (simp +contextual (maxDischargeDepth := 99) only [applyWrite_sound, tideCtlWrite_sound, evtTail_sound, clearAlert_sound, opclrWrite_sound, silWrite_sound, opseedWrite_sound, dmaqWrite_sound, armWrite_sound, abortWrite_sound, ctx0Write_sound, lnkCtlWrite_sound, ctlPlace_sound, tideSetOnly_sound, committedWrite_sound, ringWrite_sound, invalWrite_sound, poolAWrite_sound, poolBWrite_sound, plainWrite_sound, ctlPortWrite_sound, dropWrite_sound, bankWrite_sound, ctxWrite_sound, tcWrite_sound, ite_sound, *]; done)
    | (extract_lets +onlyGivenNames x; refine (fun (hx : Sound fz qu x) => ?_) ?_; (clear_value x; rotate_left; unfold x; clear x))
    | (extract_lets +onlyGivenNames x; refine (fun (hx : Sound fz qu x.1) => ?_) ?_; (clear_value x; rotate_left; unfold x; clear x))
    | (extract_lets +onlyGivenNames x; clear_value x)
    | split
    | with_reducible apply applyWrite_sound
    | with_reducible apply tideCtlWrite_sound
    | with_reducible apply evtTail_sound
    | with_reducible apply clearAlert_sound
    | with_reducible apply opclrWrite_sound
    | with_reducible apply silWrite_sound
    | with_reducible apply opseedWrite_sound
    | with_reducible apply dmaqWrite_sound
    | with_reducible apply armWrite_sound
    | with_reducible apply abortWrite_sound
    | with_reducible apply ctx0Write_sound
    | with_reducible apply lnkCtlWrite_sound
    | with_reducible apply ctlPlace_sound
    | with_reducible apply tideSetOnly_sound
    | with_reducible apply committedWrite_sound
    | with_reducible apply ringWrite_sound
    | with_reducible apply invalWrite_sound
    | with_reducible apply poolAWrite_sound
    | with_reducible apply poolBWrite_sound
    | with_reducible apply plainWrite_sound
    | with_reducible apply ctlPortWrite_sound
    | with_reducible apply dropWrite_sound
    | with_reducible apply bankWrite_sound
    | with_reducible apply ctxWrite_sound
    | with_reducible apply tcWrite_sound
    | dsimp only

theorem csrWrite1_sound {s : State} (hs : Sound fz qu s) (p : Cp) (w : BitVec 26 × BitVec 64) :
    Sound fz qu (csrWrite1 p s w) := by
  unfold csrWrite1
  repeat' first
    | (simp +contextual (maxDischargeDepth := 99) only [regWriteAt_sound, ite_sound, *]; done)
    | (extract_lets +onlyGivenNames x; refine (fun (hx : Sound fz qu x) => ?_) ?_; (clear_value x; rotate_left; unfold x; clear x))
    | (extract_lets +onlyGivenNames x; refine (fun (hx : Sound fz qu x.1) => ?_) ?_; (clear_value x; rotate_left; unfold x; clear x))
    | (extract_lets +onlyGivenNames x; clear_value x)
    | split
    | with_reducible apply regWriteAt_sound
    | dsimp only

theorem sameSide_sound {s : State} (hs : Sound fz qu s) (t : Nat) (l : List (Fld × Nat)) :
    Sound fz qu (sameSide t s l) := by
  unfold sameSide
  repeat' first
    | (simp +contextual (maxDischargeDepth := 99) only [ite_sound, sound_mk, *]; done)
    | split
    | with_reducible apply (sound_mk ..).2
    | dsimp only

theorem csrWrites_sound {s : State} (hs : Sound fz qu s) (p : Cp) (l : List (BitVec 26 × BitVec 64)) :
    Sound fz qu (csrWrites p s l) := by
  have hf : ∀ (l : List (BitVec 26 × BitVec 64)) (x : CsrRun), Sound fz qu x.s → Sound fz qu (l.foldl (csrNext p) x).s := by
    intro l
    induction l with
    | nil => exact fun _ h => h
    | cons w l ih => exact fun x h => ih _ (csrWrite1_sound h p w)
  exact each_sound (fun _ _ h => afterStep_sound h _) _ (sameSide_sound (hf l _ hs) _ _)

theorem execCpEnableWrite_sound {s : State} (hs : Sound fz qu s) (p : Cp) (v : BitVec 64) :
    Goes fz qu (execCpEnableWrite p v s) := by
  unfold execCpEnableWrite
  repeat' first
    | (simp +contextual (maxDischargeDepth := 99) only [ctlPortWrite_sound, goes_next, onlyIf_sound, *]; done)
    | with_reducible refine goes_next ?_
    | with_reducible refine onlyIf_sound (fun _ _ => ?_) ?_
    | with_reducible apply ctlPortWrite_sound
    | dsimp only

end Sys2Proof.Machine
end

