-- ==== Sys2Proof/Laws/SoundClock.lean ====
section
/-!
SUPPORT. What the operations and commands of Machine/Clock.lean keep: the queue, the fused identity, the canonical form of memory,
and registers within their widths.
-/
namespace Sys2Proof.Machine

set_option linter.unusedTactic false
set_option linter.unreachableTactic false
set_option linter.unusedSimpArgs false

variable {fz : Fuses} {qu : List Instr}

theorem countSlot_sound {s : State} (hs : Sound fz qu s) (c : Nat) (old : State) (sl : Slot) :
    Sound fz qu (countSlot c old s sl) := by
  unfold countSlot
  repeat' first
    | (simp +contextual (maxDischargeDepth := 99) only [bumpW_sound, ite_sound, *]; done)
    | (extract_lets +onlyGivenNames x; refine (fun (hx : Sound fz qu x) => ?_) ?_; (clear_value x; rotate_left; unfold x; clear x))
    | (extract_lets +onlyGivenNames x; refine (fun (hx : Sound fz qu x.1) => ?_) ?_; (clear_value x; rotate_left; unfold x; clear x))
    | (extract_lets +onlyGivenNames x; clear_value x)
    | split
    | with_reducible apply bumpW_sound
    | dsimp only

theorem clockTick_sound {s : State} (hs : Sound fz qu s) (c : Nat) :
    Sound fz qu (clockTick s c) := by
  unfold clockTick
  repeat' first
    | (simp +contextual (maxDischargeDepth := 99) only [bumpW_sound, setCore_sound, countSlot_sound, ite_sound, sound_mk, each_sound, *]; done)
    | (extract_lets +onlyGivenNames x; refine (fun (hx : Sound fz qu x) => ?_) ?_; (clear_value x; rotate_left; unfold x; clear x))
    | (extract_lets +onlyGivenNames x; refine (fun (hx : Sound fz qu x.1) => ?_) ?_; (clear_value x; rotate_left; unfold x; clear x))
    | (extract_lets +onlyGivenNames x; clear_value x)
    | split
    | with_reducible refine each_sound (fun _ _ _ => ?_) _ ?_
    | with_reducible apply bumpW_sound
    | with_reducible apply setCore_sound
    | with_reducible apply countSlot_sound
    | with_reducible apply (sound_mk ..).2
    | dsimp only

theorem execArithmeticClockTick_sound {s : State} (hs : Sound fz qu s) (c : Core) :
    Goes fz qu (execArithmeticClockTick c s) := by
  unfold execArithmeticClockTick
  repeat' first
    | (simp +contextual (maxDischargeDepth := 99) only [closeClk_sound, clockTick_sound, goes_next, onlyIf_sound, *]; done)
    | with_reducible refine goes_next ?_
    | with_reducible refine onlyIf_sound (fun _ _ => ?_) ?_
    | with_reducible apply closeClk_sound
    | with_reducible apply clockTick_sound
    | dsimp only

end Sys2Proof.Machine
end

