-- ==== Sys2Proof/Laws/SoundControl.lean ====
section
/-!
SUPPORT. What the operations and commands of Machine/Control.lean keep: the queue, the fused identity, the canonical form of memory,
and registers within their widths.
-/
namespace Sys2Proof.Machine

set_option linter.unusedTactic false
set_option linter.unreachableTactic false
set_option linter.unusedSimpArgs false

variable {fz : Fuses} {qu : List Instr}

theorem refuse_sound {s : State} (hs : Sound fz qu s) (h : CtlHdr) (op : Nat) (status : Nat) :
    Sound fz qu (refuse s h op status) := by
  unfold refuse
  repeat' first
    | (simp +contextual (maxDischargeDepth := 99) only [sendResp_sound, *]; done)
    | with_reducible apply sendResp_sound
    | dsimp only

theorem runCsrRead_sound {s : State} (hs : Sound fz qu s) (h : CtlHdr) (offs : List (BitVec 26)) :
    Sound fz qu (runCsrRead s h offs) := by
  unfold runCsrRead
  repeat' first
    | (simp +contextual (maxDischargeDepth := 99) only [answer_sound, *]; done)
    | with_reducible apply answer_sound
    | dsimp only

theorem runCsrWrite_sound {s : State} (hs : Sound fz qu s) (h : CtlHdr) (pairs : List (BitVec 26 × BitVec 64)) :
    Sound fz qu (runCsrWrite s h pairs) := by
  unfold runCsrWrite
  repeat' first
    | (simp +contextual (maxDischargeDepth := 99) only [answer_sound, csrWrites_sound, *]; done)
    | with_reducible apply answer_sound
    | with_reducible apply csrWrites_sound
    | dsimp only

theorem runImageBegin_sound {s : State} (hs : Sound fz qu s) (h : CtlHdr) (length : BitVec 32) (mask : BitVec 9) :
    Sound fz qu (runImageBegin s h length mask) := by
  unfold runImageBegin
  repeat' first
    | (simp +contextual (maxDischargeDepth := 99) only [put_sound, answer_sound, ite_sound, sound_mk, *]; done)
    | (extract_lets +onlyGivenNames x; refine (fun (hx : Sound fz qu x) => ?_) ?_; (clear_value x; rotate_left; unfold x; clear x))
    | (extract_lets +onlyGivenNames x; refine (fun (hx : Sound fz qu x.1) => ?_) ?_; (clear_value x; rotate_left; unfold x; clear x))
    | (extract_lets +onlyGivenNames x; clear_value x)
    | split
    | with_reducible apply put_sound
    | with_reducible apply answer_sound
    | with_reducible apply (sound_mk ..).2
    | dsimp only

theorem runImageData_sound {s : State} (hs : Sound fz qu s) (h : CtlHdr) (offset : BitVec 32) (words : List Word) :
    Sound fz qu (runImageData s h offset words) := by
  unfold runImageData
  repeat' first
    | (simp +contextual (maxDischargeDepth := 99) only [put_sound, answer_sound, ite_sound, sound_mk, *]; done)
    | (extract_lets +onlyGivenNames x; refine (fun (hx : Sound fz qu x) => ?_) ?_; (clear_value x; rotate_left; unfold x; clear x))
    | (extract_lets +onlyGivenNames x; refine (fun (hx : Sound fz qu x.1) => ?_) ?_; (clear_value x; rotate_left; unfold x; clear x))
    | (extract_lets +onlyGivenNames x; clear_value x)
    | split
    | with_reducible apply put_sound
    | with_reducible apply answer_sound
    | with_reducible apply (sound_mk ..).2
    | dsimp only

theorem endLoad_sound {s : State} (hs : Sound fz qu s) :
    Sound fz qu (endLoad s) := by
  unfold endLoad
  repeat' first
    | (simp +contextual (maxDischargeDepth := 99) only [put_sound, sound_mk, *]; done)
    | with_reducible apply put_sound
    | with_reducible apply (sound_mk ..).2
    | dsimp only

theorem takeFound_sound {s : State} (hs : Sound fz qu s) (f : Found) :
    Sound fz qu (takeFound s f) := by
  unfold takeFound
  repeat' first
    | (simp +contextual (maxDischargeDepth := 99) only [put_sound, holdSample_sound, showFound_sound, nextStage_sound, ite_sound, sound_mk, *]; done)
    | (extract_lets +onlyGivenNames x; refine (fun (hx : Sound fz qu x) => ?_) ?_; (clear_value x; rotate_left; unfold x; clear x))
    | (extract_lets +onlyGivenNames x; refine (fun (hx : Sound fz qu x.1) => ?_) ?_; (clear_value x; rotate_left; unfold x; clear x))
    | (extract_lets +onlyGivenNames x; clear_value x)
    | split
    | with_reducible apply put_sound
    | with_reducible apply holdSample_sound
    | with_reducible apply showFound_sound
    | with_reducible apply nextStage_sound
    | with_reducible apply (sound_mk ..).2
    | dsimp only

theorem endFound_sound {s : State} (hs : Sound fz qu s) (h : CtlHdr) (ld : Load) :
    Sound fz qu (endFound s h ld) := by
  unfold endFound
  repeat' first
    | (simp +contextual (maxDischargeDepth := 99) only [answer_sound, takeFound_sound, *]; done)
    | split
    | with_reducible apply answer_sound
    | with_reducible apply takeFound_sound
    | dsimp only

theorem acceptShape_sound {s : State} (hs : Sound fz qu s) (ld : Load) :
    Sound fz qu (acceptShape s ld) := by
  unfold acceptShape
  repeat' first
    | (simp +contextual (maxDischargeDepth := 99) only [put_sound, putDigest_sound, closeRestore_sound, ite_sound, sound_mk, *]; done)
    | (extract_lets +onlyGivenNames x; refine (fun (hx : Sound fz qu x) => ?_) ?_; (clear_value x; rotate_left; unfold x; clear x))
    | (extract_lets +onlyGivenNames x; refine (fun (hx : Sound fz qu x.1) => ?_) ?_; (clear_value x; rotate_left; unfold x; clear x))
    | (extract_lets +onlyGivenNames x; clear_value x)
    | split
    | with_reducible apply put_sound
    | with_reducible apply putDigest_sound
    | with_reducible apply closeRestore_sound
    | with_reducible apply (sound_mk ..).2
    | dsimp only

theorem recordReject_sound {s : State} (hs : Sound fz qu s) (r : Reject) :
    Sound fz qu (recordReject s r) := by
  unfold recordReject
  repeat' first
    | (simp +contextual (maxDischargeDepth := 99) only [put_sound, *]; done)
    | with_reducible apply put_sound
    | dsimp only

theorem endShape_sound {s : State} (hs : Sound fz qu s) (h : CtlHdr) (ld : Load) :
    Sound fz qu (endShape s h ld) := by
  unfold endShape
  repeat' first
    | (simp +contextual (maxDischargeDepth := 99) only [answer_sound, acceptShape_sound, recordReject_sound, *]; done)
    | split
    | with_reducible apply answer_sound
    | with_reducible apply acceptShape_sound
    | with_reducible apply recordReject_sound
    | dsimp only

theorem runImageEnd_sound {s : State} (hs : Sound fz qu s) (h : CtlHdr) :
    Sound fz qu (runImageEnd s h) := by
  unfold runImageEnd
  repeat' first
    | (simp +contextual (maxDischargeDepth := 99) only [put_sound, acceptCmd_sound, answer_sound, ite_sound, sound_mk, *]; done)
    | (extract_lets +onlyGivenNames x; refine (fun (hx : Sound fz qu x) => ?_) ?_; (clear_value x; rotate_left; unfold x; clear x))
    | (extract_lets +onlyGivenNames x; refine (fun (hx : Sound fz qu x.1) => ?_) ?_; (clear_value x; rotate_left; unfold x; clear x))
    | (extract_lets +onlyGivenNames x; clear_value x)
    | split
    | with_reducible apply put_sound
    | with_reducible apply acceptCmd_sound
    | with_reducible apply answer_sound
    | with_reducible apply (sound_mk ..).2
    | dsimp only

theorem endChecks_sound {s : State} (hs : Sound fz qu s) :
    Sound fz qu (endChecks s) := by
  unfold endChecks
  repeat' first
    | (simp +contextual (maxDischargeDepth := 99) only [endLoad_sound, endFound_sound, endShape_sound, ite_sound, *]; done)
    | split
    | with_reducible apply endLoad_sound
    | with_reducible apply endFound_sound
    | with_reducible apply endShape_sound
    | dsimp only

theorem runImageAbort_sound {s : State} (hs : Sound fz qu s) (h : CtlHdr) :
    Sound fz qu (runImageAbort s h) := by
  unfold runImageAbort
  repeat' first
    | (simp +contextual (maxDischargeDepth := 99) only [answer_sound, endLoad_sound, ite_sound, *]; done)
    | split
    | with_reducible apply answer_sound
    | with_reducible apply endLoad_sound
    | dsimp only

theorem runModReset_sound {s : State} (hs : Sound fz qu s) (h : CtlHdr) :
    Sound fz qu (runModReset s h) := by
  unfold runModReset
  repeat' first
    | (simp +contextual (maxDischargeDepth := 99) only [answer_sound, takeOverRst_sound, sound_mk, *]; done)
    | (extract_lets +onlyGivenNames x; refine (fun (hx : Sound fz qu x) => ?_) ?_; (clear_value x; rotate_left; unfold x; clear x))
    | (extract_lets +onlyGivenNames x; refine (fun (hx : Sound fz qu x.1) => ?_) ?_; (clear_value x; rotate_left; unfold x; clear x))
    | (extract_lets +onlyGivenNames x; clear_value x)
    | with_reducible apply answer_sound
    | with_reducible apply takeOverRst_sound
    | with_reducible apply (sound_mk ..).2
    | dsimp only

theorem runRstFn_sound {s : State} (hs : Sound fz qu s) (h : CtlHdr) (mask : BitVec 9) :
    Sound fz qu (runRstFn s h mask) := by
  unfold runRstFn
  repeat' first
    | (simp +contextual (maxDischargeDepth := 99) only [bumpW_sound, logEvt_sound, acceptCmd_sound, answer_sound, enterFnReset_sound, ite_sound, sound_mk, *]; done)
    | (extract_lets +onlyGivenNames x; refine (fun (hx : Sound fz qu x) => ?_) ?_; (clear_value x; rotate_left; unfold x; clear x))
    | (extract_lets +onlyGivenNames x; refine (fun (hx : Sound fz qu x.1) => ?_) ?_; (clear_value x; rotate_left; unfold x; clear x))
    | (extract_lets +onlyGivenNames x; clear_value x)
    | split
    | with_reducible apply bumpW_sound
    | with_reducible apply logEvt_sound
    | with_reducible apply acceptCmd_sound
    | with_reducible apply answer_sound
    | with_reducible apply enterFnReset_sound
    | with_reducible apply (sound_mk ..).2
    | dsimp only

theorem freePort_sound {s : State} (hs : Sound fz qu s) (p : Cp) :
    Sound fz qu (freePort s p) := by
  unfold freePort
  repeat' first
    | (simp +contextual (maxDischargeDepth := 99) only [setCp_sound, acceptCmd_sound, sound_mk, *]; done)
    | (extract_lets +onlyGivenNames x; refine (fun (hx : Sound fz qu x) => ?_) ?_; (clear_value x; rotate_left; unfold x; clear x))
    | (extract_lets +onlyGivenNames x; refine (fun (hx : Sound fz qu x.1) => ?_) ?_; (clear_value x; rotate_left; unfold x; clear x))
    | (extract_lets +onlyGivenNames x; clear_value x)
    | with_reducible apply setCp_sound
    | with_reducible apply acceptCmd_sound
    | with_reducible apply (sound_mk ..).2
    | dsimp only

theorem replacePower_sound {s : State} (hs : Sound fz qu s) :
    Sound fz qu (replacePower s) := by
  unfold replacePower
  repeat' first
    | (simp +contextual (maxDischargeDepth := 99) only [answer_sound, sound_mk, *]; done)
    | split
    | with_reducible apply answer_sound
    | with_reducible apply (sound_mk ..).2
    | dsimp only

theorem runPowerState_sound {s : State} (hs : Sound fz qu s) (h : CtlHdr) (target : BitVec 2) (epoch : BitVec 48) :
    Sound fz qu (runPowerState s h target epoch) := by
  unfold runPowerState
  repeat' first
    | (simp +contextual (maxDischargeDepth := 99) only [answer_sound, freePort_sound, replacePower_sound, ite_sound, sound_mk, *]; done)
    | (extract_lets +onlyGivenNames x; refine (fun (hx : Sound fz qu x) => ?_) ?_; (clear_value x; rotate_left; unfold x; clear x))
    | (extract_lets +onlyGivenNames x; refine (fun (hx : Sound fz qu x.1) => ?_) ?_; (clear_value x; rotate_left; unfold x; clear x))
    | (extract_lets +onlyGivenNames x; clear_value x)
    | split
    | with_reducible apply answer_sound
    | with_reducible apply freePort_sound
    | with_reducible apply replacePower_sound
    | with_reducible apply (sound_mk ..).2
    | dsimp only

theorem runNonce_sound {s : State} (hs : Sound fz qu s) (h : CtlHdr) :
    Sound fz qu (runNonce s h) := by
  unfold runNonce
  repeat' first
    | (simp +contextual (maxDischargeDepth := 99) only [put_sound, putDigest_sound, answer_sound, sound_mk, *]; done)
    | (extract_lets +onlyGivenNames x; refine (fun (hx : Sound fz qu x) => ?_) ?_; (clear_value x; rotate_left; unfold x; clear x))
    | (extract_lets +onlyGivenNames x; refine (fun (hx : Sound fz qu x.1) => ?_) ?_; (clear_value x; rotate_left; unfold x; clear x))
    | (extract_lets +onlyGivenNames x; clear_value x)
    | with_reducible apply put_sound
    | with_reducible apply putDigest_sound
    | with_reducible apply answer_sound
    | with_reducible apply (sound_mk ..).2
    | dsimp only

theorem runQuote_sound {s : State} (hs : Sound fz qu s) (h : CtlHdr) (nonce : BitVec 256) :
    Sound fz qu (runQuote s h nonce) := by
  unfold runQuote
  repeat' first
    | (simp +contextual (maxDischargeDepth := 99) only [freeTick_sound, answer_sound, *]; done)
    | (extract_lets +onlyGivenNames x; refine (fun (hx : Sound fz qu x) => ?_) ?_; (clear_value x; rotate_left; unfold x; clear x))
    | (extract_lets +onlyGivenNames x; refine (fun (hx : Sound fz qu x.1) => ?_) ?_; (clear_value x; rotate_left; unfold x; clear x))
    | (extract_lets +onlyGivenNames x; clear_value x)
    | with_reducible apply freeTick_sound
    | with_reducible apply answer_sound
    | dsimp only

theorem runCertRead_sound {s : State} (hs : Sound fz qu s) (h : CtlHdr) :
    Sound fz qu (runCertRead s h) := by
  unfold runCertRead
  repeat' first
    | (simp +contextual (maxDischargeDepth := 99) only [answer_sound, *]; done)
    | (extract_lets +onlyGivenNames x; refine (fun (hx : Sound fz qu x) => ?_) ?_; (clear_value x; rotate_left; unfold x; clear x))
    | (extract_lets +onlyGivenNames x; refine (fun (hx : Sound fz qu x.1) => ?_) ?_; (clear_value x; rotate_left; unfold x; clear x))
    | (extract_lets +onlyGivenNames x; clear_value x)
    | with_reducible apply answer_sound
    | dsimp only

theorem storeOwner_sound {s : State} (h : Sound fz qu s) (o : Option (BitVec 3072)) : Sound fz qu (storeOwner s o) :=
  ⟨h.1, h.2.1, h.2.2.1, h.2.2.2⟩

theorem runOwnerEnroll_sound {s : State} (hs : Sound fz qu s) (h : CtlHdr) (nonce : BitVec 256) (modulus : BitVec 3072) (signed : Bool) (sig : BitVec 3072) :
    Sound fz qu (runOwnerEnroll s h nonce modulus signed sig) := by
  unfold runOwnerEnroll
  repeat' first
    | (simp +contextual (maxDischargeDepth := 99) only [put_sound, answer_sound, storeOwner_sound, ite_sound, *]; done)
    | (extract_lets +onlyGivenNames x; refine (fun (hx : Sound fz qu x) => ?_) ?_; (clear_value x; rotate_left; unfold x; clear x))
    | (extract_lets +onlyGivenNames x; refine (fun (hx : Sound fz qu x.1) => ?_) ?_; (clear_value x; rotate_left; unfold x; clear x))
    | (extract_lets +onlyGivenNames x; clear_value x)
    | split
    | with_reducible apply put_sound
    | with_reducible apply answer_sound
    | with_reducible apply storeOwner_sound
    | dsimp only

theorem runOwnerClear_sound {s : State} (hs : Sound fz qu s) (h : CtlHdr) (nonce : BitVec 256) (signer : Bool) (slot : BitVec 2) (modulus : BitVec 3072) (sig : BitVec 3072) :
    Sound fz qu (runOwnerClear s h nonce signer slot modulus sig) := by
  unfold runOwnerClear
  repeat' first
    | (simp +contextual (maxDischargeDepth := 99) only [put_sound, answer_sound, storeOwner_sound, ite_sound, *]; done)
    | (extract_lets +onlyGivenNames x; refine (fun (hx : Sound fz qu x) => ?_) ?_; (clear_value x; rotate_left; unfold x; clear x))
    | (extract_lets +onlyGivenNames x; refine (fun (hx : Sound fz qu x.1) => ?_) ?_; (clear_value x; rotate_left; unfold x; clear x))
    | (extract_lets +onlyGivenNames x; clear_value x)
    | split
    | with_reducible apply put_sound
    | with_reducible apply answer_sound
    | with_reducible apply storeOwner_sound
    | dsimp only

theorem runRegionReg_sound {s : State} (hs : Sound fz qu s) (h : CtlHdr) (r : RegionRec) :
    Sound fz qu (runRegionReg s h r) := by
  unfold runRegionReg
  repeat' first
    | (simp +contextual (maxDischargeDepth := 99) only [answer_sound, regionAdd_sound, ite_sound, *]; done)
    | (extract_lets +onlyGivenNames x; refine (fun (hx : Sound fz qu x) => ?_) ?_; (clear_value x; rotate_left; unfold x; clear x))
    | (extract_lets +onlyGivenNames x; refine (fun (hx : Sound fz qu x.1) => ?_) ?_; (clear_value x; rotate_left; unfold x; clear x))
    | (extract_lets +onlyGivenNames x; clear_value x)
    | split
    | with_reducible apply answer_sound
    | with_reducible apply regionAdd_sound
    | dsimp only

theorem runRegionDereg_sound {s : State} (hs : Sound fz qu s) (h : CtlHdr) (region : BitVec 14) (job : BitVec 12) :
    Sound fz qu (runRegionDereg s h region job) := by
  unfold runRegionDereg
  repeat' first
    | (simp +contextual (maxDischargeDepth := 99) only [acceptCmd_sound, answer_sound, regionStop_sound, ite_sound, sound_mk, *]; done)
    | (extract_lets +onlyGivenNames x; refine (fun (hx : Sound fz qu x) => ?_) ?_; (clear_value x; rotate_left; unfold x; clear x))
    | (extract_lets +onlyGivenNames x; refine (fun (hx : Sound fz qu x.1) => ?_) ?_; (clear_value x; rotate_left; unfold x; clear x))
    | (extract_lets +onlyGivenNames x; clear_value x)
    | split
    | with_reducible apply acceptCmd_sound
    | with_reducible apply answer_sound
    | with_reducible apply regionStop_sound
    | with_reducible apply (sound_mk ..).2
    | dsimp only

theorem queueLaunch_sound {s : State} (hs : Sound fz qu s) (l : Launch) (t : Nat × Slot) :
    Sound fz qu (queueLaunch l s t) := by
  unfold queueLaunch
  repeat' first
    | (simp +contextual (maxDischargeDepth := 99) only [setSlot_sound, sound_mk, *]; done)
    | (extract_lets +onlyGivenNames x; refine (fun (hx : Sound fz qu x) => ?_) ?_; (clear_value x; rotate_left; unfold x; clear x))
    | (extract_lets +onlyGivenNames x; refine (fun (hx : Sound fz qu x.1) => ?_) ?_; (clear_value x; rotate_left; unfold x; clear x))
    | (extract_lets +onlyGivenNames x; clear_value x)
    | split
    | with_reducible apply setSlot_sound
    | with_reducible apply (sound_mk ..).2
    | dsimp only

theorem queueRecord_sound {s : State} (hs : Sound fz qu s) (w : List Word) :
    Sound fz qu (queueRecord s w) := by
  unfold queueRecord
  repeat' first
    | (simp +contextual (maxDischargeDepth := 99) only [countRelease_sound, queueLaunch_sound, each_sound, *]; done)
    | (extract_lets +onlyGivenNames x; refine (fun (hx : Sound fz qu x) => ?_) ?_; (clear_value x; rotate_left; unfold x; clear x))
    | (extract_lets +onlyGivenNames x; refine (fun (hx : Sound fz qu x.1) => ?_) ?_; (clear_value x; rotate_left; unfold x; clear x))
    | (extract_lets +onlyGivenNames x; clear_value x)
    | split
    | with_reducible refine each_sound (fun _ _ _ => ?_) _ ?_
    | with_reducible apply countRelease_sound
    | with_reducible apply queueLaunch_sound
    | dsimp only

theorem runDoorbell_sound {s : State} (hs : Sound fz qu s) (h : CtlHdr) (records : BitVec 46) (count : BitVec 9) :
    Sound fz qu (runDoorbell s h records count) := by
  unfold runDoorbell
  repeat' first
    | (simp +contextual (maxDischargeDepth := 99) only [noteUnit_sound, readMem_sound, answer_sound, queueRecord_sound, ite_sound, each_sound, *]; done)
    | (extract_lets +onlyGivenNames x; refine (fun (hx : Sound fz qu x) => ?_) ?_; (clear_value x; rotate_left; unfold x; clear x))
    | (extract_lets +onlyGivenNames x; refine (fun (hx : Sound fz qu x.1) => ?_) ?_; (clear_value x; rotate_left; unfold x; clear x))
    | (extract_lets +onlyGivenNames x; clear_value x)
    | split
    | with_reducible refine each_sound (fun _ _ _ => ?_) _ ?_
    | with_reducible apply noteUnit_sound
    | with_reducible apply readMem_sound
    | with_reducible apply answer_sound
    | with_reducible apply queueRecord_sound
    | dsimp only

theorem replaceCommit_sound {s : State} (hs : Sound fz qu s) (job : Nat) :
    Sound fz qu (replaceCommit s job) := by
  unfold replaceCommit
  repeat' first
    | (simp +contextual (maxDischargeDepth := 99) only [endCommit_sound, *]; done)
    | split
    | with_reducible apply endCommit_sound
    | dsimp only

theorem acceptCommit_sound {s : State} (hs : Sound fz qu s) (c : CommitCmd) :
    Sound fz qu (acceptCommit s c) := by
  unfold acceptCommit
  repeat' first
    | (simp +contextual (maxDischargeDepth := 99) only [put_sound, nameEpoch_sound, answer_sound, freePort_sound, replaceCommit_sound, ite_sound, sound_mk, *]; done)
    | (extract_lets +onlyGivenNames x; refine (fun (hx : Sound fz qu x) => ?_) ?_; (clear_value x; rotate_left; unfold x; clear x))
    | (extract_lets +onlyGivenNames x; refine (fun (hx : Sound fz qu x.1) => ?_) ?_; (clear_value x; rotate_left; unfold x; clear x))
    | (extract_lets +onlyGivenNames x; clear_value x)
    | split
    | with_reducible apply put_sound
    | with_reducible apply nameEpoch_sound
    | with_reducible apply answer_sound
    | with_reducible apply freePort_sound
    | with_reducible apply replaceCommit_sound
    | with_reducible apply (sound_mk ..).2
    | dsimp only

theorem runCommit_sound {s : State} (hs : Sound fz qu s) (h : CtlHdr) (step : BitVec 32) (ctc : BitVec 8) (ctcEn : Bool) (epoch : BitVec 48) :
    Sound fz qu (runCommit s h step ctc ctcEn epoch) := by
  unfold runCommit
  repeat' first
    | (simp +contextual (maxDischargeDepth := 99) only [acceptCommit_sound, *]; done)
    | with_reducible apply acceptCommit_sound
    | dsimp only

theorem runRollback_sound {s : State} (hs : Sound fz qu s) (h : CtlHdr) (step : BitVec 32) (ctc : BitVec 8) (ctcEn : Bool) (epoch : BitVec 48) :
    Sound fz qu (runRollback s h step ctc ctcEn epoch) := by
  unfold runRollback
  repeat' first
    | (simp +contextual (maxDischargeDepth := 99) only [acceptCommit_sound, *]; done)
    | with_reducible apply acceptCommit_sound
    | dsimp only

theorem runBody_sound {s : State} (h : Sound fz qu s) (i : Instr) : Sound fz qu (runBody s i) := by
  unfold runBody
  split
  all_goals with_reducible first
    | exact h
    | exact runCsrRead_sound h _ _
    | exact runCsrWrite_sound h _ _
    | exact runImageBegin_sound h _ _ _
    | exact runImageData_sound h _ _ _
    | exact runImageEnd_sound h _
    | exact runImageAbort_sound h _
    | exact runModReset_sound h _
    | exact runRstFn_sound h _ _
    | exact runPowerState_sound h _ _ _
    | exact runNonce_sound h _
    | exact runQuote_sound h _ _
    | exact runCertRead_sound h _
    | exact runOwnerEnroll_sound h _ _ _ _ _
    | exact runOwnerClear_sound h _ _ _ _ _ _
    | exact runRegionReg_sound h _ _
    | exact runRegionDereg_sound h _ _ _
    | exact runDoorbell_sound h _ _ _
    | exact runCommit_sound h _ _ _ _ _
    | exact runRollback_sound h _ _ _ _ _

theorem runCmd_sound {s : State} (hs : Sound fz qu s) (h : CtlHdr) (i : Instr) :
    Sound fz qu (runCmd s h i) := by
  unfold runCmd
  repeat' first
    | (simp +contextual (maxDischargeDepth := 99) only [answer_sound, runBody_sound, ite_sound, *]; done)
    | split
    | with_reducible apply answer_sound
    | with_reducible apply runBody_sound
    | dsimp only

theorem startCmd_sound {s : State} (hs : Sound fz qu s) (h : CtlHdr) (i : Instr) (bad : Bool) :
    Sound fz qu (startCmd s h i bad) := by
  unfold startCmd
  repeat' first
    | (simp +contextual (maxDischargeDepth := 99) only [setCp_sound, answer_sound, runCmd_sound, ite_sound, sound_mk, *]; done)
    | (extract_lets +onlyGivenNames x; refine (fun (hx : Sound fz qu x) => ?_) ?_; (clear_value x; rotate_left; unfold x; clear x))
    | (extract_lets +onlyGivenNames x; refine (fun (hx : Sound fz qu x.1) => ?_) ?_; (clear_value x; rotate_left; unfold x; clear x))
    | (extract_lets +onlyGivenNames x; clear_value x)
    | split
    | with_reducible apply setCp_sound
    | with_reducible apply answer_sound
    | with_reducible apply runCmd_sound
    | with_reducible apply (sound_mk ..).2
    | dsimp only

theorem pumpOne_sound {s : State} (hs : Sound fz qu s) (p : Cp) :
    Sound fz qu (pumpOne s p) := by
  unfold pumpOne
  repeat' first
    | (simp +contextual (maxDischargeDepth := 99) only [setCp_sound, startCmd_sound, sound_mk, *]; done)
    | (extract_lets +onlyGivenNames x; refine (fun (hx : Sound fz qu x) => ?_) ?_; (clear_value x; rotate_left; unfold x; clear x))
    | (extract_lets +onlyGivenNames x; refine (fun (hx : Sound fz qu x.1) => ?_) ?_; (clear_value x; rotate_left; unfold x; clear x))
    | (extract_lets +onlyGivenNames x; clear_value x)
    | split
    | with_reducible apply setCp_sound
    | with_reducible apply startCmd_sound
    | with_reducible apply (sound_mk ..).2
    | dsimp only

theorem pump_sound (n : Nat) {s : State} (h : Sound fz qu s) : Sound fz qu (pump n s) := by
  induction n generalizing s with
  | zero => exact h
  | succ n ih =>
    unfold pump
    split
    · exact ih (pumpOne_sound h _)
    · split
      · exact ih (pumpOne_sound h _)
      · exact h

theorem pumpPorts_sound {s : State} (hs : Sound fz qu s) :
    Sound fz qu (pumpPorts s) := by
  unfold pumpPorts
  repeat' first
    | (simp +contextual (maxDischargeDepth := 99) only [pump_sound, *]; done)
    | with_reducible apply pump_sound
    | dsimp only

theorem repeatCmd_sound {s : State} (hs : Sound fz qu s) (p : Cp) (src : NetAddr) (x : Hist) :
    Sound fz qu (repeatCmd s p src x) := by
  unfold repeatCmd
  repeat' first
    | (simp +contextual (maxDischargeDepth := 99) only [bump_sound, emit_sound, setCp_sound, ite_sound, sound_mk, *]; done)
    | (extract_lets +onlyGivenNames x; refine (fun (hx : Sound fz qu x) => ?_) ?_; (clear_value x; rotate_left; unfold x; clear x))
    | (extract_lets +onlyGivenNames x; refine (fun (hx : Sound fz qu x.1) => ?_) ?_; (clear_value x; rotate_left; unfold x; clear x))
    | (extract_lets +onlyGivenNames x; clear_value x)
    | split
    | with_reducible apply bump_sound
    | with_reducible apply emit_sound
    | with_reducible apply setCp_sound
    | with_reducible apply (sound_mk ..).2
    | dsimp only

theorem takeCmd_sound {s : State} (hs : Sound fz qu s) (h : CtlHdr) (i : Instr) :
    Sound fz qu (takeCmd s h i) := by
  unfold takeCmd
  repeat' first
    | (simp +contextual (maxDischargeDepth := 99) only [countRelease_sound, setCp_sound, startCmd_sound, ite_sound, sound_mk, *]; done)
    | (extract_lets +onlyGivenNames x; refine (fun (hx : Sound fz qu x) => ?_) ?_; (clear_value x; rotate_left; unfold x; clear x))
    | (extract_lets +onlyGivenNames x; refine (fun (hx : Sound fz qu x.1) => ?_) ?_; (clear_value x; rotate_left; unfold x; clear x))
    | (extract_lets +onlyGivenNames x; clear_value x)
    | split
    | with_reducible apply countRelease_sound
    | with_reducible apply setCp_sound
    | with_reducible apply startCmd_sound
    | with_reducible apply (sound_mk ..).2
    | dsimp only

theorem arrive_sound {s : State} (hs : Sound fz qu s) (h : CtlHdr) (i : Instr) :
    Sound fz qu (arrive h i s) := by
  unfold arrive
  repeat' first
    | (simp +contextual (maxDischargeDepth := 99) only [refuse_sound, pumpPorts_sound, repeatCmd_sound, takeCmd_sound, ite_sound, *]; done)
    | split
    | with_reducible apply refuse_sound
    | with_reducible apply pumpPorts_sound
    | with_reducible apply repeatCmd_sound
    | with_reducible apply takeCmd_sound
    | dsimp only

theorem execCsrRead_sound {s : State} (hs : Sound fz qu s) (h : CtlHdr) (offs : List (BitVec 26)) :
    Goes fz qu (execCsrRead h offs s) := by
  unfold execCsrRead
  repeat' first
    | (simp +contextual (maxDischargeDepth := 99) only [arrive_sound, goes_next, *]; done)
    | with_reducible refine goes_next ?_
    | with_reducible apply arrive_sound
    | dsimp only

theorem execCsrWrite_sound {s : State} (hs : Sound fz qu s) (h : CtlHdr) (pairs : List (BitVec 26 × BitVec 64)) :
    Goes fz qu (execCsrWrite h pairs s) := by
  unfold execCsrWrite
  repeat' first
    | (simp +contextual (maxDischargeDepth := 99) only [arrive_sound, goes_next, *]; done)
    | with_reducible refine goes_next ?_
    | with_reducible apply arrive_sound
    | dsimp only

theorem execImageBegin_sound {s : State} (hs : Sound fz qu s) (h : CtlHdr) (length : BitVec 32) (mask : BitVec 9) :
    Goes fz qu (execImageBegin h length mask s) := by
  unfold execImageBegin
  repeat' first
    | (simp +contextual (maxDischargeDepth := 99) only [arrive_sound, goes_next, *]; done)
    | with_reducible refine goes_next ?_
    | with_reducible apply arrive_sound
    | dsimp only

theorem execImageData_sound {s : State} (hs : Sound fz qu s) (h : CtlHdr) (offset : BitVec 32) (words : List (BitVec 64)) :
    Goes fz qu (execImageData h offset words s) := by
  unfold execImageData
  repeat' first
    | (simp +contextual (maxDischargeDepth := 99) only [arrive_sound, goes_next, *]; done)
    | with_reducible refine goes_next ?_
    | with_reducible apply arrive_sound
    | dsimp only

theorem execImageEnd_sound {s : State} (hs : Sound fz qu s) (h : CtlHdr) :
    Goes fz qu (execImageEnd h s) := by
  unfold execImageEnd
  repeat' first
    | (simp +contextual (maxDischargeDepth := 99) only [arrive_sound, goes_next, *]; done)
    | with_reducible refine goes_next ?_
    | with_reducible apply arrive_sound
    | dsimp only

theorem execImageAbort_sound {s : State} (hs : Sound fz qu s) (h : CtlHdr) :
    Goes fz qu (execImageAbort h s) := by
  unfold execImageAbort
  repeat' first
    | (simp +contextual (maxDischargeDepth := 99) only [arrive_sound, goes_next, *]; done)
    | with_reducible refine goes_next ?_
    | with_reducible apply arrive_sound
    | dsimp only

theorem execModReset_sound {s : State} (hs : Sound fz qu s) (h : CtlHdr) :
    Goes fz qu (execModReset h s) := by
  unfold execModReset
  repeat' first
    | (simp +contextual (maxDischargeDepth := 99) only [arrive_sound, goes_next, *]; done)
    | with_reducible refine goes_next ?_
    | with_reducible apply arrive_sound
    | dsimp only

theorem execRstFn_sound {s : State} (hs : Sound fz qu s) (h : CtlHdr) (mask : BitVec 9) :
    Goes fz qu (execRstFn h mask s) := by
  unfold execRstFn
  repeat' first
    | (simp +contextual (maxDischargeDepth := 99) only [arrive_sound, goes_next, *]; done)
    | with_reducible refine goes_next ?_
    | with_reducible apply arrive_sound
    | dsimp only

theorem execPowerState_sound {s : State} (hs : Sound fz qu s) (h : CtlHdr) (target : BitVec 2) (epoch : BitVec 48) :
    Goes fz qu (execPowerState h target epoch s) := by
  unfold execPowerState
  repeat' first
    | (simp +contextual (maxDischargeDepth := 99) only [arrive_sound, goes_next, *]; done)
    | with_reducible refine goes_next ?_
    | with_reducible apply arrive_sound
    | dsimp only

theorem execNonce_sound {s : State} (hs : Sound fz qu s) (h : CtlHdr) :
    Goes fz qu (execNonce h s) := by
  unfold execNonce
  repeat' first
    | (simp +contextual (maxDischargeDepth := 99) only [arrive_sound, goes_next, *]; done)
    | with_reducible refine goes_next ?_
    | with_reducible apply arrive_sound
    | dsimp only

theorem execQuote_sound {s : State} (hs : Sound fz qu s) (h : CtlHdr) (nonce : BitVec 256) :
    Goes fz qu (execQuote h nonce s) := by
  unfold execQuote
  repeat' first
    | (simp +contextual (maxDischargeDepth := 99) only [arrive_sound, goes_next, *]; done)
    | with_reducible refine goes_next ?_
    | with_reducible apply arrive_sound
    | dsimp only

theorem execCertRead_sound {s : State} (hs : Sound fz qu s) (h : CtlHdr) :
    Goes fz qu (execCertRead h s) := by
  unfold execCertRead
  repeat' first
    | (simp +contextual (maxDischargeDepth := 99) only [arrive_sound, goes_next, *]; done)
    | with_reducible refine goes_next ?_
    | with_reducible apply arrive_sound
    | dsimp only

theorem execOwnerEnroll_sound {s : State} (hs : Sound fz qu s) (h : CtlHdr) (nonce : BitVec 256) (modulus : BitVec 3072) (signed : Bool) (sig : BitVec 3072) :
    Goes fz qu (execOwnerEnroll h nonce modulus signed sig s) := by
  unfold execOwnerEnroll
  repeat' first
    | (simp +contextual (maxDischargeDepth := 99) only [arrive_sound, goes_next, *]; done)
    | with_reducible refine goes_next ?_
    | with_reducible apply arrive_sound
    | dsimp only

theorem execOwnerClear_sound {s : State} (hs : Sound fz qu s) (h : CtlHdr) (nonce : BitVec 256) (signer : Bool) (slot : BitVec 2) (modulus : BitVec 3072) (sig : BitVec 3072) :
    Goes fz qu (execOwnerClear h nonce signer slot modulus sig s) := by
  unfold execOwnerClear
  repeat' first
    | (simp +contextual (maxDischargeDepth := 99) only [arrive_sound, goes_next, *]; done)
    | with_reducible refine goes_next ?_
    | with_reducible apply arrive_sound
    | dsimp only

theorem execRegionReg_sound {s : State} (hs : Sound fz qu s) (h : CtlHdr) (r : RegionRec) :
    Goes fz qu (execRegionReg h r s) := by
  unfold execRegionReg
  repeat' first
    | (simp +contextual (maxDischargeDepth := 99) only [arrive_sound, goes_next, *]; done)
    | with_reducible refine goes_next ?_
    | with_reducible apply arrive_sound
    | dsimp only

theorem execRegionDereg_sound {s : State} (hs : Sound fz qu s) (h : CtlHdr) (region : BitVec 14) (job : BitVec 12) :
    Goes fz qu (execRegionDereg h region job s) := by
  unfold execRegionDereg
  repeat' first
    | (simp +contextual (maxDischargeDepth := 99) only [arrive_sound, goes_next, *]; done)
    | with_reducible refine goes_next ?_
    | with_reducible apply arrive_sound
    | dsimp only

theorem execDoorbell_sound {s : State} (hs : Sound fz qu s) (h : CtlHdr) (records : BitVec 46) (count : BitVec 9) :
    Goes fz qu (execDoorbell h records count s) := by
  unfold execDoorbell
  repeat' first
    | (simp +contextual (maxDischargeDepth := 99) only [arrive_sound, goes_next, *]; done)
    | with_reducible refine goes_next ?_
    | with_reducible apply arrive_sound
    | dsimp only

theorem execCommit_sound {s : State} (hs : Sound fz qu s) (h : CtlHdr) (step : BitVec 32) (ctc : BitVec 8) (ctcEn : Bool) (epoch : BitVec 48) :
    Goes fz qu (execCommit h step ctc ctcEn epoch s) := by
  unfold execCommit
  repeat' first
    | (simp +contextual (maxDischargeDepth := 99) only [arrive_sound, goes_next, *]; done)
    | with_reducible refine goes_next ?_
    | with_reducible apply arrive_sound
    | dsimp only

theorem execRollback_sound {s : State} (hs : Sound fz qu s) (h : CtlHdr) (step : BitVec 32) (ctc : BitVec 8) (ctcEn : Bool) (epoch : BitVec 48) :
    Goes fz qu (execRollback h step ctc ctcEn epoch s) := by
  unfold execRollback
  repeat' first
    | (simp +contextual (maxDischargeDepth := 99) only [arrive_sound, goes_next, *]; done)
    | with_reducible refine goes_next ?_
    | with_reducible apply arrive_sound
    | dsimp only

theorem startHeld_sound {s : State} (hs : Sound fz qu s) (p : Cp) :
    Sound fz qu (startHeld s p) := by
  unfold startHeld
  repeat' first
    | (simp +contextual (maxDischargeDepth := 99) only [setCp_sound, runCmd_sound, sound_mk, *]; done)
    | split
    | with_reducible apply setCp_sound
    | with_reducible apply runCmd_sound
    | with_reducible apply (sound_mk ..).2
    | dsimp only

theorem execReleasedCommandStart_sound {s : State} (hs : Sound fz qu s) (p : Cp) :
    Goes fz qu (execReleasedCommandStart p s) := by
  unfold execReleasedCommandStart
  repeat' first
    | (simp +contextual (maxDischargeDepth := 99) only [pumpPorts_sound, startHeld_sound, goes_next, onlyIf_sound, *]; done)
    | with_reducible refine goes_next ?_
    | with_reducible refine onlyIf_sound (fun _ _ => ?_) ?_
    | with_reducible apply pumpPorts_sound
    | with_reducible apply startHeld_sound
    | dsimp only

theorem answerRsts_sound {s : State} (hs : Sound fz qu s) :
    Sound fz qu (answerRsts s) := by
  unfold answerRsts
  repeat' first
    | (simp +contextual (maxDischargeDepth := 99) only [answer_sound, pumpPorts_sound, sound_mk, each_sound, *]; done)
    | (extract_lets +onlyGivenNames x; refine (fun (hx : Sound fz qu x) => ?_) ?_; (clear_value x; rotate_left; unfold x; clear x))
    | (extract_lets +onlyGivenNames x; refine (fun (hx : Sound fz qu x.1) => ?_) ?_; (clear_value x; rotate_left; unfold x; clear x))
    | (extract_lets +onlyGivenNames x; clear_value x)
    | split
    | with_reducible refine each_sound (fun _ _ _ => ?_) _ ?_
    | with_reducible apply answer_sound
    | with_reducible apply pumpPorts_sound
    | with_reducible apply (sound_mk ..).2
    | dsimp only

theorem execFunctionResetComplete_sound {s : State} (hs : Sound fz qu s) (fn : Fn) :
    Goes fz qu (execFunctionResetComplete fn s) := by
  unfold execFunctionResetComplete
  repeat' first
    | (simp +contextual (maxDischargeDepth := 99) only [put_sound, trainAll_sound, leaveReset_sound, makeReady_sound, answerRsts_sound, goes_next, ite_sound, ite_goes, onlyIf_sound, *]; done)
    | with_reducible refine goes_next ?_
    | with_reducible refine onlyIf_sound (fun _ _ => ?_) ?_
    | (extract_lets +onlyGivenNames x; refine (fun (hx : Sound fz qu x) => ?_) ?_; (clear_value x; rotate_left; unfold x; clear x))
    | (extract_lets +onlyGivenNames x; refine (fun (hx : Sound fz qu x.1) => ?_) ?_; (clear_value x; rotate_left; unfold x; clear x))
    | (extract_lets +onlyGivenNames x; clear_value x)
    | split
    | with_reducible apply put_sound
    | with_reducible apply trainAll_sound
    | with_reducible apply leaveReset_sound
    | with_reducible apply makeReady_sound
    | with_reducible apply answerRsts_sound
    | dsimp only

theorem execRegionDeregComplete_sound {s : State} (hs : Sound fz qu s) (region : BitVec 14) :
    Goes fz qu (execRegionDeregComplete region s) := by
  unfold execRegionDeregComplete
  repeat' first
    | (simp +contextual (maxDischargeDepth := 99) only [answer_sound, raiseGen_sound, pumpPorts_sound, goes_next, sound_mk, *]; done)
    | with_reducible refine goes_next ?_
    | (extract_lets +onlyGivenNames x; refine (fun (hx : Sound fz qu x) => ?_) ?_; (clear_value x; rotate_left; unfold x; clear x))
    | (extract_lets +onlyGivenNames x; refine (fun (hx : Sound fz qu x.1) => ?_) ?_; (clear_value x; rotate_left; unfold x; clear x))
    | (extract_lets +onlyGivenNames x; clear_value x)
    | split
    | with_reducible apply answer_sound
    | with_reducible apply raiseGen_sound
    | with_reducible apply pumpPorts_sound
    | with_reducible apply (sound_mk ..).2
    | dsimp only

theorem tickWork_sound {s : State} (hs : Sound fz qu s) (before : Nat) :
    Sound fz qu (tickWork before s) := by
  unfold tickWork
  repeat' first
    | (simp +contextual (maxDischargeDepth := 99) only [flushLinks_sound, beginSpills_sound, noteBounds_sound, noteElig_sound, retryHeld_sound, ite_sound, *]; done)
    | (extract_lets +onlyGivenNames x; refine (fun (hx : Sound fz qu x) => ?_) ?_; (clear_value x; rotate_left; unfold x; clear x))
    | (extract_lets +onlyGivenNames x; refine (fun (hx : Sound fz qu x.1) => ?_) ?_; (clear_value x; rotate_left; unfold x; clear x))
    | (extract_lets +onlyGivenNames x; clear_value x)
    | split
    | with_reducible apply flushLinks_sound
    | with_reducible apply beginSpills_sound
    | with_reducible apply noteBounds_sound
    | with_reducible apply noteElig_sound
    | with_reducible apply retryHeld_sound
    | dsimp only

theorem tickClocks_sound {s : State} (hs : Sound fz qu s) :
    Sound fz qu (tickClocks s) := by
  unfold tickClocks
  repeat' first
    | (simp +contextual (maxDischargeDepth := 99) only [closeClk_sound, sound_mk, *]; done)
    | (extract_lets +onlyGivenNames x; refine (fun (hx : Sound fz qu x) => ?_) ?_; (clear_value x; rotate_left; unfold x; clear x))
    | (extract_lets +onlyGivenNames x; refine (fun (hx : Sound fz qu x.1) => ?_) ?_; (clear_value x; rotate_left; unfold x; clear x))
    | (extract_lets +onlyGivenNames x; clear_value x)
    | with_reducible apply closeClk_sound
    | with_reducible apply (sound_mk ..).2
    | dsimp only

theorem execTideTick_sound {s : State} (hs : Sound fz qu s) :
    Goes fz qu (execTideTick s) := by
  unfold execTideTick
  repeat' first
    | (simp +contextual (maxDischargeDepth := 99) only [endChecks_sound, pumpPorts_sound, tickWork_sound, tickClocks_sound, goes_next, onlyIf_sound, *]; done)
    | with_reducible refine goes_next ?_
    | with_reducible refine onlyIf_sound (fun _ _ => ?_) ?_
    | (extract_lets +onlyGivenNames x; refine (fun (hx : Sound fz qu x) => ?_) ?_; (clear_value x; rotate_left; unfold x; clear x))
    | (extract_lets +onlyGivenNames x; refine (fun (hx : Sound fz qu x.1) => ?_) ?_; (clear_value x; rotate_left; unfold x; clear x))
    | (extract_lets +onlyGivenNames x; clear_value x)
    | with_reducible apply endChecks_sound
    | with_reducible apply pumpPorts_sound
    | with_reducible apply tickWork_sound
    | with_reducible apply tickClocks_sound
    | dsimp only

theorem frameRefused_sound {s : State} (hs : Sound fz qu s) (p : Cp) (d : Datagram) (status : Nat) :
    Sound fz qu (frameRefused p d status s) := by
  unfold frameRefused
  repeat' first
    | (simp +contextual (maxDischargeDepth := 99) only [refuse_sound, ite_sound, *]; done)
    | split
    | with_reducible apply refuse_sound
    | dsimp only

theorem execControlFrameMalformed_sound {s : State} (hs : Sound fz qu s) (p : Cp) (d : Datagram) :
    Goes fz qu (execControlFrameMalformed p d s) := by
  unfold execControlFrameMalformed
  repeat' first
    | (simp +contextual (maxDischargeDepth := 99) only [frameRefused_sound, goes_next, *]; done)
    | with_reducible refine goes_next ?_
    | with_reducible apply frameRefused_sound
    | dsimp only

theorem execUnknownOpcode_sound {s : State} (hs : Sound fz qu s) (p : Cp) (d : Datagram) :
    Goes fz qu (execUnknownOpcode p d s) := by
  unfold execUnknownOpcode
  repeat' first
    | (simp +contextual (maxDischargeDepth := 99) only [frameRefused_sound, goes_next, *]; done)
    | with_reducible refine goes_next ?_
    | with_reducible apply frameRefused_sound
    | dsimp only

theorem execRuntDatagramRx_sound {s : State} (hs : Sound fz qu s) (p : Cp) :
    Goes fz qu (execRuntDatagramRx p s) := by
  unfold execRuntDatagramRx
  repeat' first
    | (simp +contextual (maxDischargeDepth := 99) only [bump_sound, goes_next, onlyIf_sound, *]; done)
    | with_reducible refine goes_next ?_
    | with_reducible refine onlyIf_sound (fun _ _ => ?_) ?_
    | with_reducible apply bump_sound
    | dsimp only

theorem execIpFragmentRx_sound {s : State} (hs : Sound fz qu s) (_p : Cp) :
    Goes fz qu (execIpFragmentRx _p s) := by
  unfold execIpFragmentRx
  repeat' first
    | (simp +contextual (maxDischargeDepth := 99) only [bump_sound, goes_next, onlyIf_sound, *]; done)
    | with_reducible refine goes_next ?_
    | with_reducible refine onlyIf_sound (fun _ _ => ?_) ?_
    | with_reducible apply bump_sound
    | dsimp only

theorem execOversizeFrameRx_sound {s : State} (hs : Sound fz qu s) (_p : Cp) :
    Goes fz qu (execOversizeFrameRx _p s) := by
  unfold execOversizeFrameRx
  repeat' first
    | (simp +contextual (maxDischargeDepth := 99) only [bump_sound, goes_next, onlyIf_sound, *]; done)
    | with_reducible refine goes_next ?_
    | with_reducible refine onlyIf_sound (fun _ _ => ?_) ?_
    | with_reducible apply bump_sound
    | dsimp only

theorem execControlFrameOnDataPort_sound {s : State} (hs : Sound fz qu s) (p : Port) :
    Goes fz qu (execControlFrameOnDataPort p s) := by
  unfold execControlFrameOnDataPort
  repeat' first
    | (simp +contextual (maxDischargeDepth := 99) only [bump_sound, goes_next, onlyIf_sound, *]; done)
    | with_reducible refine goes_next ?_
    | with_reducible refine onlyIf_sound (fun _ _ => ?_) ?_
    | with_reducible apply bump_sound
    | dsimp only

theorem execDataPacketOnControlPort_sound {s : State} (hs : Sound fz qu s) (_p : Cp) :
    Goes fz qu (execDataPacketOnControlPort _p s) := by
  unfold execDataPacketOnControlPort
  repeat' first
    | (simp +contextual (maxDischargeDepth := 99) only [bump_sound, goes_next, onlyIf_sound, *]; done)
    | with_reducible refine goes_next ?_
    | with_reducible refine onlyIf_sound (fun _ _ => ?_) ?_
    | with_reducible apply bump_sound
    | dsimp only

end Sys2Proof.Machine
end

