-- ==== Sys2Proof/Tests/Slice0.lean ====
section
/-!
SUPPORT. The model's own tests: ill-formed commands, a state that meets the hypotheses of each statement, and results worked
out from the spec.
-/
set_option Elab.async false

namespace Sys2Proof.Tests
open Sys2Proof.Machine

/-! ### Ill-formed commands, one for each check -/

/-- Where the tests' control frames come from: 10.0.0.1, port 4,660. -/
def from0 : NetAddr := ⟨false, 0x0A000001, 0x1234⟩
def hdr0 : CtlHdr := ⟨0, 1, 0, 0, from0⟩
def mol0 : MolHdr := ⟨1, false, 0, 0, 1, 9, 5, 0, 8, 0, 0⟩
def col0 : ColHdr := ⟨1, 9, 0, 2, 0, 0, 1, false, false, 0, 1, 0, 0, 0, 0, 0⟩

theorem test_illFormed_control : ∀ i ∈ [.csrRead hdr0 [], .csrRead hdr0 (List.replicate 129 0), .csrRead hdr0 [4],
    .csrWrite hdr0 [], .csrWrite hdr0 (List.replicate 65 (0, 0)), .csrWrite hdr0 [(1, 0)], .imageBegin hdr0 12 0x1FF,
    .imageBegin hdr0 0x4000008 0x1FF, .imageData hdr0 0 [], .imageData hdr0 0 (List.replicate 1025 0), .imageData hdr0 8 [0],
    .doorbell hdr0 32 1, .doorbell hdr0 0 0, .doorbell hdr0 0 257, .ownerEnroll hdr0 0 1 false 1,
    .ownerClear hdr0 0 false 0 1 0], wellFormed i = false := by
  decide +kernel

theorem test_illFormed_packets : ∀ i ∈ [.molindPutRx 0 mol0 ⟨7, 0, true⟩ [0], .molindGetResponseRx 0 mol0 true [0], .boardWriteRx 0 mol0 [0],
    .boardReadResponseRx 0 mol0 [0], .collectiveSendRx 0 mol0 col0 [0], .molindPacketForward 0 1 mol0 [0]], wellFormed i = false := by
  decide +kernel

theorem test_wellFormed : ∀ i ∈ [.csrRead hdr0 (List.replicate 128 8), .csrWrite hdr0 (List.replicate 64 (8, 0)),
    .imageBegin hdr0 0x4000000 0x1FF, .imageData hdr0 8192 (List.replicate 1024 0), .doorbell hdr0 64 256,
    .ownerEnroll hdr0 0 1 true 1, .ownerClear hdr0 0 true 0 1 0, .boardWriteRx 0 mol0 (List.replicate 8 0), .powerOn],
    wellFormed i = true := by
  decide +kernel

/-! ### Small states -/

/-- The module in service: every function ready, none in reset. -/
def up : State :=
  put (put { State.reset with pwr := { PwrSt.init with stage := 0 } } .rstStat_in_reset 0) .rstStat_ready 0x1FF

/-- A structure with stage group 3 of job 9 on core 0, 32 KiB of local SRAM and two entries of the operation table. -/
def str : Structure := ⟨[⟨3, 9, 0, 0, 1⟩], [⟨0, [8, 0, 0, 0, 0, 0, 0, 0]⟩], [], [], [], [⟨0, 0x200000, 0⟩], []⟩

/-- Job 9 is resident. -/
def home : State := { up with shp := ⟨[(0, str), (1, str), (5, str), (8, str)], [], none, [9], true⟩ }

def launch : Launch := ⟨9, 3, 1, true, 5, 1, 0, 0, 7, 8, false⟩
def task : Task := ⟨launch, 0, 1, 0, none, none⟩

/-- The primary slot of core 0 with a running task; S1 is all ones and S2 is 3. -/
def slot0 : SlotSt := { SlotSt.init with task := some task, sreg := [(1, 0xFFFFFFFFFFFFFFFF), (2, 3)] }

/-- Core 0 with a primary slot, and its instruction buffer holding the word at address 0 of jobs 8 and 9. -/
def withSlot (w : Nat) (x : SlotSt) : State :=
  setCore home 0 { coreOf home 0 with prim := x, ibuf := [((9, 0), BitVec.ofNat 128 w), ((8, 0), BitVec.ofNat 128 w)] }

/-- Core 0 runs the word in its primary slot. -/
def at0 (w : Nat) : State := withSlot w slot0

/-- A register form that names the highest scalar registers. -/
def form : RegForm := ⟨0, false, 0, 31, 31, 31, 31, 0, 0, 0, 0, 0, 0⟩
/-- The same with sub[0] 1 and an immediate. -/
def formI : RegForm := { form with sub := 1, imm := 64 }
/-- The highest predicate registers. -/
def formP : RegForm := { form with rd := 7, ra := 7, rb := 7 }
/-- With its predicate false. -/
def formOff : RegForm := { form with pneg := true }
/-- A tensor form of one 256-row FP16 operand at the start of local SRAM. -/
def tform : TensorForm := ⟨0, false, 0, 7, 9, 0, 0, false, false, false, 0, 0, 0, 0, 0, 0, 0, 0, 0⟩

/-- The state after a command. -/
def after (i : Instr) (s : State) : State :=
  match exec i s with
  | .next t => t
  | _ => s

/-! ### Hypotheses that are met: the instructions -/

theorem test_meets_scalarArithmetic : ∀ op ∈ [0x21, 0x22, 0x23, 0x24, 0x25, 0x26, 0x27, 0x28, 0x29], ∀ f ∈ [form, formI],
    IssuesReg (at0 (regWord op f)) 0 .prim op f ∧ f.rd.toNat < 32 ∧ f.ra.toNat < 32 ∧
      (f.sub.getLsbD 0 = true ∨ f.rb.toNat < 32) := by
  unfold IssuesReg Issues
  decide +kernel

theorem test_meets_scalarMoves : (IssuesReg (at0 (regWord 0x20 form)) 0 .prim 0x20 form) ∧
    (let f := { form with sub := 6 }
     IssuesReg (at0 (regWord 0x2E f)) 0 .prim 0x2E f ∧ f.sub.toNat < 7 ∧ taskOf (at0 (regWord 0x2E f)) 0 .prim = some task) ∧
    (let f := { form with imm := 255 }
     let s := at0 (regWord 0xA2 f)
     IssuesReg s 0 .prim 0xA2 f ∧ tcOwner s 0 (f.imm.toNat % 256) = taskJob s 0 .prim) ∧
    (let f := { formP with sub := 11, ra := 31 }
     IssuesReg (at0 (regWord 0x2A f)) 0 .prim 0x2A f ∧ f.rd.toNat < 8 ∧ f.sub.toNat / 2 < 6) ∧
    (let f := { formP with sub := 3 }
     IssuesReg (at0 (regWord 0x2B f)) 0 .prim 0x2B f ∧ f.ra.toNat < 8 ∧ f.rb.toNat < 8 ∧ f.sub.toNat < 4) := by
  unfold IssuesReg Issues
  decide +kernel

theorem test_meets_controlFlow : ∀ op ∈ [0x00, 0x02, 0x03], IssuesReg (at0 (regWord op form)) 0 .prim op form := by
  unfold IssuesReg Issues
  decide +kernel

theorem test_meets_notRun :
    (∀ op ∈ [0x21, 0x20, 0x02, 0x04, 0x01, 0xC0, 0xA0, 0xA1, 0x81, 0xE1], let s := at0 (regWord op formOff)
      Issues s 0 .prim (regWord op formOff) ∧ regOk formOff false = true ∧ enabled s 0 .prim formOff.pred formOff.pneg = false) ∧
    (∀ op ∈ [0xA0, 0xA1, 0xA2, 0xC0],
      let s := withSlot (regWord op form) { slot0 with task := some { task with launch := { launch with job := 8 } } }
      IssuesReg s 0 .prim op form ∧ tcOwner s 0 (form.imm.toNat % 256) ≠ taskJob s 0 .prim) ∧
    (∀ op ∈ [0x00, 0x01, 0x21, 0xA0, 0xC4, 0x80, 0x65, 0x61],
      ∀ f ∈ [{ form with rsv0 := 8 }, { form with rsv1 := 0x800 }, { form with fmt := 15 }, { form with rnd := 3 }],
      Issues (at0 (regWord op f)) 0 .prim (regWord op f) ∧ (f.rsv0 ≠ 0 ∨ f.rsv1 ≠ 0 ∨ f.fmt = 15 ∨ f.rnd = 3)) := by
  unfold IssuesReg Issues
  decide +kernel

/-- A descriptor of queue 15 with the words given. -/
def desc (id : Nat) (fence : Option Nat) (ws : List Word) : Desc :=
  ⟨id, 15, .prim, 9, 3, fence, ws, none, false, false, 0, 0, [], [], 0, false, none, none, []⟩
/-- A launch waits at the head of the queue of core 0. -/
def queued (l : Launch) : State := setSlot home 0 .prim { SlotSt.init with queue := [l] }
/-- The running task has a descriptor in a queue. -/
def busy (w : Nat) : State :=
  let s := at0 w
  setCore s 0 ((coreOf s 0).setQ 15 ⟨[desc 0 none [0, 0, 0, 0]], 0⟩)
/-- The running task waits, and 64,001 ticks have passed. -/
def waiting (k : WaitKind) (ticks : Nat) : State :=
  let s := withSlot 0 { slot0 with task := some { task with wait := some ⟨k, 2, 0⟩ } }
  { s with time := { s.time with ticks := ticks } }

theorem test_meets_tasks :
    (launchDue (queued launch) 0 .prim launch = true ∧ launch.failed = false ∧ (slotOf (queued launch) 0 .prim).queue = [launch]) ∧
    (let l := { launch with failed := true }
     launchDue (queued l) 0 .prim l = true ∧ (slotOf (queued l) 0 .prim).queue = [l]) ∧
    (let s := at0 (regWord 0x01 form)
     IssuesReg s 0 .prim 0x01 form ∧ taskIdle s 0 .prim = true ∧ taskOf s 0 .prim = some task ∧ get s .tc_value 5 < 2 ^ 32) ∧
    (let s := busy (regWord 0x01 form)
     IssuesReg s 0 .prim 0x01 form ∧ taskIdle s 0 .prim = false ∧ taskOf s 0 .prim = some task) ∧
    (let s := waiting .done 0
     taskIdle s 0 .prim = true ∧ coreUp s 0 = true ∧ slotTurn s 0 .prim = true ∧
      (taskOf s 0 .prim).bind (·.wait) = some ⟨.done, 2, 0⟩) := by
  unfold IssuesReg Issues
  decide +kernel

theorem test_meets_waits :
    (∀ f ∈ [{ form with imm := 255 }, { formI with imm := 0xFFFFFFFF000000FF }], let s := at0 (regWord 0xC0 f)
      IssuesReg s 0 .prim 0xC0 f ∧ tcOwner s 0 (f.imm.toNat % 256) = taskJob s 0 .prim) ∧
    (let f := { form with imm := 15 }
     IssuesReg (at0 (regWord 0xC1 f)) 0 .prim 0xC1 f ∧ f.imm.toNat % 16 < (dmaWindow (at0 (regWord 0xC1 f)) 0 .prim).2) ∧
    (IssuesReg (at0 (regWord 0xC2 form)) 0 .prim 0xC2 form) ∧ (IssuesReg (at0 (regWord 0xC3 form)) 0 .prim 0xC3 form) ∧
    (let f := { form with imm := 7 }
     let s := put (at0 (regWord 0xC4 f)) .tideSlot_en 1 7
     IssuesReg s 0 .prim 0xC4 f ∧ slotEn s 7 = true) ∧
    (let s := waiting (.tc 0 0) 64001
     coreUp s 0 = true ∧ slotTurn s 0 .prim = true ∧ waitHolds s 0 .prim (.tc 0 0) = true ∧ limited (.tc 0 0) = true ∧
      64000 * task.launch.waitLimit < s.time.ticks - 0 ∧ (taskOf s 0 .prim).bind (·.wait) = some ⟨.tc 0 0, 2, 0⟩) ∧
    (let s := waiting (.tc 0 0) 64000
     s.time.ticks - 0 ≤ 64000 * task.launch.waitLimit) := by
  unfold IssuesReg Issues
  decide +kernel

/-- Queue 15 starts descriptors against counter 5 and has started two. -/
def credited (w : Nat) : State :=
  let s := put (put (at0 w) .dmaQ_credit_en 1 15) .dmaQ_credit_tc 5 15
  setCore s 0 ((coreOf s 0).setQ 15 ⟨[], 2⟩)

theorem test_meets_counters : (∀ op ∈ [0xA0, 0xA1], ∀ f ∈ [form, { formI with imm := 0xFFFFFFFF000000FF }], let s := at0 (regWord op f)
      IssuesReg s 0 .prim op f ∧ tcOwner s 0 (f.imm.toNat % 256) = taskJob s 0 .prim ∧ get s .tc_value 255 < 2 ^ 32 ∧
      creditBroken (advance (tcSet s 0 (f.imm.toNat % 256) 0) 0 .prim) 0 .prim = false) ∧
    (∀ x ∈ [(1, true), (2, false)], let f := { formI with imm := BitVec.ofNat 64 (x.1 * 2 ^ 32 + 5) }
      let s := credited (regWord 0xA0 f)
      IssuesReg s 0 .prim 0xA0 f ∧ tcOwner s 0 5 = taskJob s 0 .prim ∧
      creditBroken (advance (tcSet s 0 5 x.1) 0 .prim) 0 .prim = x.2) ∧
    fn0Up (at0 0) = true ∧ fnReady (at0 0) (coreFn 0) = true ∧
    creditBroken (tcSet (credited 0) 0 5 2) 0 .prim = false ∧ creditBroken (tcSet (credited 0) 0 5 2) 0 .fill = false := by
  unfold IssuesReg Issues
  decide +kernel

theorem test_meets_localMemory :
    (∀ op ∈ [0x2C, 0x2D], let f := { form with imm := 32760 }
      let s := at0 (regWord op f)
      IssuesReg s 0 .prim op f ∧ eaOf s 0 .prim f % 8 = 0 ∧ inSplit s 0 .prim (eaOf s 0 .prim f) 8 = true ∧
      readFault s (sramBase 0 + eaOf s 0 .prim f) 8 = none ∧ writeFault s (sramBase 0 + eaOf s 0 .prim f) 8 = none) ∧
    (∀ op ∈ [0x2C, 0x2D], let f := { form with imm := 32768 }
      let s := at0 (regWord op f)
      IssuesReg s 0 .prim op f ∧ eaOf s 0 .prim f % 8 = 0 ∧ inSplit s 0 .prim (eaOf s 0 .prim f) 8 = false) ∧
    mayFetch (at0 0) 0 .prim = true := by
  unfold IssuesReg Issues
  decide +kernel

theorem test_meets_vectorArithmetic :
    (∀ op ∈ [0x62, 0x63, 0x64, 0x65, 0x66, 0x67, 0x68, 0x69, 0x6A, 0x6F, 0x70], ∀ fmt ∈ [0, 1, 3],
      let f := { form with rd := 63, ra := 63, rb := 62, rc := 61, fmt := fmt }
      let s := at0 (regWord op f)
      Issues s 0 .prim (regWord op f) ∧ regOk f false = true ∧ fracFmt f.fmt.toNat = true ∧ arithFmt f.fmt.toNat = true ∧
      [f.ra, f.rb, f.rc, f.rd].all (vOk s 0 .prim) = true ∧ VregsGood s 0 = true) ∧
    (∀ op ∈ [0x71, 0x72, 0x73, 0x74], ∀ fmt ∈ [1, 3], let f := { form with rd := 63, ra := 63, rb := 62, fmt := fmt, sub := 1 }
      let s := at0 (regWord op f)
      Issues s 0 .prim (regWord op f) ∧ regOk f false = true ∧ transFmt f.fmt.toNat = true ∧ f.sub.toNat < 2 ∧
      [f.ra, f.rb, f.rd].all (vOk s 0 .prim) = true ∧ VregsGood s 0 = true) := by
  unfold Issues
  decide +kernel

theorem test_meets_vectorMoves :
    (let f := { form with rd := 7, ra := 63, rb := 63, sub := 4 }
     let s := at0 (regWord 0x6B f)
     Issues s 0 .prim (regWord 0x6B f) ∧ regOk f false = true ∧ arithFmt f.fmt.toNat = true ∧ VregsGood s 0 = true ∧
      [f.ra, f.rb].all (vOk s 0 .prim) = true) ∧
    (∀ sub ∈ [0, 1, 2], let f := { form with rd := 63, sub := sub }
      let s := at0 (regWord 0x6C f)
      Issues s 0 .prim (regWord 0x6C f) ∧ [f.ra, f.rd].all (vOk s 0 .prim) = true) ∧
    (let f := { form with rd := 63, ra := 63, rb := 63 }
     let s := at0 (regWord 0x6D f)
     Issues s 0 .prim (regWord 0x6D f) ∧ [f.ra, f.rb, f.rd].all (vOk s 0 .prim) = true) ∧
    (∀ n ∈ [0, 1, 8, 9], let f := { form with rd := 63, ra := 63, sub := 3, imm := BitVec.ofNat 64 n }
      let s := at0 (regWord 0x6E f)
      Issues s 0 .prim (regWord 0x6E f) ∧ [f.ra, f.rd].all (vOk s 0 .prim) = true) := by
  unfold Issues
  decide +kernel

theorem test_meets_vectorMemory :
    (∀ fmt ∈ [1, 5], let f := { form with rd := 63, fmt := fmt, imm := 30720 }
      let s := at0 (regWord 0x60 f)
      Issues s 0 .prim (regWord 0x60 f) ∧ regOk f false = true ∧ vOk s 0 .prim f.rd = true ∧
      inSplit s 0 .prim (eaOf s 0 .prim f) (vldBytes f.fmt.toNat) = true ∧
      readFault s (sramBase 0 + eaOf s 0 .prim f) (vldBytes f.fmt.toNat) = none) ∧
    (∀ sub ∈ [0, 1, 15], let f := { form with rb := 63, sub := sub, imm := 30720 }
      let s := at0 (regWord 0x61 f)
      Issues s 0 .prim (regWord 0x61 f) ∧ vOk s 0 .prim f.rb = true ∧
      inSplit s 0 .prim (eaOf s 0 .prim f) (if f.sub.toNat = 0 then 2048 else 128 * f.sub.toNat) = true ∧
      maskedFault s (fun i => (predOf s 0 .prim f.pred f.pneg).getLsbD i) (sramBase 0 + eaOf s 0 .prim f) 2048 = false) := by
  unfold Issues
  decide +kernel

/-- The running task carries a tag of entry 1, whose current set holds step 4. -/
def tagged (w : Nat) : State :=
  put (put (withSlot w { slot0 with task := some { task with tag := some (1, 5) } }) .numOp_valid 1 1) .numOp_step 4 1

theorem test_meets_numeric :
    (∀ mode ∈ [0, 2], let f := { form with rd := 63, ra := 62, rc := 61, fmt := 5, smode := mode, imm := 1 }
      let s := at0 (regWord 0xE0 f)
      Issues s 0 .prim (regWord 0xE0 f) ∧ regOk f (!polStrict s 0 .prim) = true ∧ cvtOk s 0 .prim f = true ∧
      VregsGood s 0 = true ∧ [f.ra, f.rd, f.rc].all (vOk s 0 .prim) = true) ∧
    (∀ op ∈ [0xE1, 0xE2], IssuesReg (at0 (regWord op form)) 0 .prim op form ∧ vOk (at0 (regWord op form)) 0 .prim form.rd = true) ∧
    (let f := { form with ra := 2 }
     let s := withSlot (regWord 0xE3 f) { slot0 with sreg := [(2, 0xFFFFFFFF001)] }
     IssuesReg s 0 .prim 0xE3 f ∧ sregOf s 0 .prim 2 % 4096 < polCount s 0 .prim ∧
      polBase s 0 .prim + sregOf s 0 .prim 2 % 4096 ≤ 4095 ∧ bitsOf (sregOf s 0 .prim 2) 63 44 = 0) ∧
    (let s := at0 (regWord 0xE4 form)
     IssuesReg s 0 .prim 0xE4 form ∧ tagOf s 0 .prim = none) ∧
    (let s := tagged (regWord 0xE4 form)
     IssuesReg s 0 .prim 0xE4 form ∧ tagOf s 0 .prim = some (1, 5) ∧ maxSet s 1 5 = some 1) := by
  unfold IssuesReg Issues
  decide +kernel

/-- VCVT in each scale mode, with its predicate true and false; NMAXR with a tag that no set answers. -/
theorem test_meets_conversions :
    (∀ x ∈ [(0, 5), (1, 5), (2, 5), (3, 9)], ∀ neg ∈ [false, true],
      let f := { form with rd := 63, ra := 62, rb := 2, rc := 61, fmt := BitVec.ofNat 4 x.2, smode := BitVec.ofNat 2 x.1, imm := 1, pneg := neg }
      let s := withSlot (regWord 0xE0 f) { slot0 with sreg := [(2, 0x3F800000)] }
      Issues s 0 .prim (regWord 0xE0 f) ∧ regOk f (!polStrict s 0 .prim) = true ∧ cvtOk s 0 .prim f = true ∧ VregsGood s 0 = true ∧
      [f.ra, f.rd, f.rc].all (vOk s 0 .prim) = true ∧ f.rd ≠ f.rc ∧
      elemOn (predOf s 0 .prim f.pred f.pneg) 1 ((cvtPlace 1 f.fmt.toNat 0).2.1 + 0) = !neg ∧ 0 < (cvtPlace 1 f.fmt.toNat 0).2.2.1) ∧
    (let s := withSlot (regWord 0xE4 form) { slot0 with task := some { task with tag := some (1, 5) } }
     IssuesReg s 0 .prim 0xE4 form ∧ tagOf s 0 .prim = some (1, 5) ∧ maxSet s 1 5 = none) := by
  unfold IssuesReg Issues
  decide +kernel

/-- One event record of entry 1, step 4. -/
def recorded : State := { tagged 0 with num := ⟨[⟨0, 9, some 1, 4, 512, 3, 0, 0, 0, 0, none⟩], [], [], [], [], [], none⟩ }
/-- The same after a record of core `k` in this clk. -/
def recordedAfter (k : Nat) : State :=
  { recorded with num := { recorded.num with fresh := [⟨k, 9, some 1, 4, 512, 3, 0, 0, 0, 0, none⟩] } }

theorem test_meets_operationTable : flag recorded .numCtl_count_en = true ∧ flag recorded .numOp_valid 1 = true ∧
    get recorded .numOp_step 1 = 4 ∧ flag (put recorded .numCtl_count_en 0) .numCtl_count_en = false ∧ fn0Up recorded = true ∧
    (freshOf (recordedAfter 0) 1).all (fun x => decide (x.core ≤ 0)) = true ∧
    (freshOf (recordedAfter 1) 1).any (fun x => decide (0 < x.core)) = true ∧ freshOf recorded 1 = [] ∧
    flag (recordedAfter 1) .numCtl_count_en = true ∧ recorded.num.base.all (fun b => b.entry != 1) = true := by
  decide +kernel

/-- Of two records of one clk that name the steps 5 and 4 of an entry, that of the lower core acts first, whichever comes first (R208):
the step that it names becomes the current one, and the other is a late one of the set before. -/
theorem test_recordsByCore : ∀ x ∈ [[(1, 5), (0, 4)], [(0, 4), (1, 5)]],
    let s := { tagged 0 with num := { recorded.num with recs := x.map (fun y => ⟨y.1, 9, some 1, y.2, 8, 1, 0, 0, 0, 0, none⟩) } }
    let t := after (.numEventRecord 0) (after (.numEventRecord 0) s)
    get t .numOp_step 1 = 5 ∧ get t .numOp_elements (1 + 4096) = 8 ∧ get t .numStat_late_capture = 0 ∧ t.num.fresh.length = 2 := by
  decide +kernel

/-! ### Hypotheses that are met: arrays, DMA and KV pages -/

/-- A tensor form of array 7 in a 4-bit format, and the same with 256 rows. -/
def tformR : TensorForm := { tform with rows := 256 }
/-- A command of array 7. -/
def cmd (k : TKind) (seq : Nat) (f : TensorForm) : TCmd := ⟨k, .prim, 9, f, none, 0, 0, 0, seq, [], none, false⟩
/-- Array 7 of core 0 with commands queued and running. -/
def arrays (w : Nat) (q : List TCmd) (r : List RunCmd) : State := setArr (at0 w) 0 7 { ArrSt.init with queue := q, run := r }

theorem test_meets_tensorQueue :
    (let s := arrays (tensorWord 0x40 tform) (List.replicate 3 (cmd .load 0 tform)) []
     Issues s 0 .prim (tensorWord 0x40 tform) ∧ tloadOk tform = true ∧ polStrict s 0 .prim = false ∧
      enabled s 0 .prim tform.pred tform.pneg = true ∧ (arrOf s 0 7).queue.length < 4 ∧
      (tensorRanges .load (feederOf s 0 .prim) tform).all (fun r => inSplit s 0 .prim r.1 r.2) = true) ∧
    (let s := at0 (tensorWord 0x41 tformR)
     Issues s 0 .prim (tensorWord 0x41 tformR) ∧ tstreamOk (feederOf s 0 .prim) tformR = true ∧
      (tensorRanges .stream (feederOf s 0 .prim) tformR).all (fun r => inSplit s 0 .prim r.1 r.2) = true) ∧
    (let f := { tformR with tcEn := true, tc := 255 }
     let s := at0 (tensorWord 0x42 f)
     Issues s 0 .prim (tensorWord 0x42 f) ∧ tdrainOk f = true ∧ drainScalesOk f (sregOf s 0 .prim f.sreg.toNat) = true ∧
      (tensorRanges .drain (feederOf s 0 .prim) f).all (fun r => inSplit s 0 .prim r.1 r.2) = true ∧
      tcOwner s 0 f.tc.toNat = taskJob s 0 .prim) ∧
    (∀ op ∈ [0x40, 0x41, 0x42], let f := { tformR with pneg := true }
     let s := at0 (tensorWord op f)
     Issues s 0 .prim (tensorWord op f) ∧ enabled s 0 .prim f.pred f.pneg = false) := by
  unfold Issues
  decide +kernel

theorem test_meets_arrayRuns :
    (let q := cmd .load 4 tform
     let s := arrays 0 [q] []
     nextCmd (arrOf s 0 7) = some q ∧ coreUp s 0 = true ∧ canStart s 0 (feederOf s 0 q.slot) q = true ∧ q.kind ≠ .stream) ∧
    (let q := cmd .stream 4 tformR
     let s := arrays 0 [q] []
     nextCmd (arrOf s 0 7) = some q ∧ coreUp s 0 = true ∧ canStart s 0 (feederOf s 0 q.slot) q = true) ∧
    (let r : RunCmd := ⟨cmd .load 4 tform, false, [], []⟩
     firstRun (arrays 0 [] [r]) 0 7 (fun r => decide (r.cmd.kind = .load)) = some r) ∧
    (let r : RunCmd := ⟨cmd .stream 4 { tform with rows := 1 }, false, [], []⟩
     let s := arrays 0 [] [r]
     firstRun s 0 7 (fun r => decide (r.cmd.kind = .stream) && !r.rowsRead) = some r ∧
      ((gatherRows 0 r.cmd (feederOf s 0 .prim) false (partsOf (feederOf s 0 .prim) r.cmd) s []).2.map (fun rows =>
        rows.all (fun d => meets ((d.2.map (·.fmt)).getD r.cmd.form.fmt.toNat) (mget none r.weights d.1)))) = some true) ∧
    (let r : RunCmd := ⟨cmd .stream 4 { tform with rows := 1 }, true, [], []⟩
     let s := arrays 0 [] [r]
     firstRun s 0 7 (fun r => decide (r.cmd.kind = .stream)) = some r ∧ r.rowsRead = true ∧
      passTurn s 0 (runOf (feederOf s 0 .prim) 7) r.cmd = true ∧ (arrayCodes s 0 (runOf (feederOf s 0 .prim) 7) true r.cmd.form.bank .prim).2 = true) ∧
    (let r : RunCmd := ⟨cmd .drain 4 { tform with rows := 1 }, false, [], []⟩
     let s := arrays 0 [] [r]
     firstRun s 0 7 (fun r => decide (r.cmd.kind = .drain)) = some r ∧
      drainTurn s 0 (runOf (feederOf s 0 .prim) 7) r.cmd = true ∧ (arrayCodes s 0 (runOf (feederOf s 0 .prim) 7) false r.cmd.form.bank .prim).2 = true) := by
  decide +kernel

/-- The weights that a TSTREAM takes meet its format, and FP16 weights do not meet BF16. -/
theorem test_meets_streamPairs : ∀ x ∈ [(Tile.zero, true), (⟨3, 0, [0], []⟩, false)],
    let q := cmd .stream 4 { tformR with fmt := 1 }
    let s := setArr (at0 0) 0 7 { ArrSt.init with queue := [q], shadow := [(0, some x.1)] }
    let l := feederOf s 0 q.slot
    let ps := partsOf l q
    let s1 := ps.foldl (copyWeights 0) s
    nextCmd (arrOf s 0 7) = some q ∧ coreUp s 0 = true ∧ canStart s 0 l q = true ∧
      ps.all (fun p => meets 1 (weightOf s1 0 1 p)) = x.2 := by
  decide +kernel

/-- The column sum of no products from +0 is an FP32 entry; from 0, an integer. -/
theorem test_meets_columnSums : (colSum ⟨.fp 0, Counts.zero, 0⟩ []).entry = .fp 0 ∧ (colSum ⟨.int 0, Counts.zero, 0⟩ []).entry = .int 0 ∧
    (colSum ⟨.undef, Counts.zero, 0⟩ []).entry = .undef := by decide

/-- A copy of 64 bytes within local SRAM, from offset 0 to offset 64. -/
def copyWords : List Word := [0x0000010000406001, 0, 64, 0]
/-- Queue 15 of core 0 with entries and descriptors in flight; S1 and S2 as before. -/
def queues (w : Nat) (l f : List Desc) : State :=
  let s := put (at0 w) .dmaQ_depth 2 15
  setCore s 0 { (coreOf s 0).setQ 15 ⟨l, 0⟩ with flight := f, nextId := 9 }

theorem test_meets_dmaQueue :
    (let f := { form with sub := 15, imm := 32736 }
     let s := queues (regWord 0x80 f) [desc 1 none copyWords] []
     IssuesReg s 0 .prim 0x80 f ∧ f.sub.toNat < (dmaWindow s 0 .prim).2 ∧ qHeld s 0 15 < qDepth s 0 15 ∧
      inSplit s 0 .prim (eaOf s 0 .prim f) 32 = true ∧ readFault s (sramBase 0 + eaOf s 0 .prim f) 32 = none) ∧
    (let f := { form with sub := 15, imm := 3 }
     let s := queues (regWord 0x81 f) [desc 1 none copyWords] []
     IssuesReg s 0 .prim 0x81 f ∧ qHeld s 0 15 < qDepth s 0 15) ∧
    (let f := { form with sub := 15 }
     let s := queues (regWord 0x81 f) [desc 1 none copyWords] [desc 2 none copyWords]
     IssuesReg s 0 .prim 0x81 f ∧ qDepth s 0 15 ≠ 0 ∧ qDepth s 0 15 ≤ qHeld s 0 15) ∧
    (∀ op ∈ [0x80, 0x81], let f := { form with sub := 15 }
     let s := put (at0 (regWord op f)) .dmaQ_depth 0 15
     let u := queues (regWord op f) [desc 1 none copyWords] [desc 2 none copyWords]
     IssuesReg s 0 .prim op f ∧ qDepth s 0 15 = 0 ∧ IssuesReg u 0 .prim op f ∧ qDepth u 0 15 ≠ 0 ∧ qDepth u 0 15 ≤ qHeld u 0 15) := by
  unfold IssuesReg Issues
  decide +kernel

theorem test_meets_descriptors :
    (let d := desc 1 none copyWords
     let s := queues 0 [d] []
     (dmaqOf (coreOf s 0) 15).entries = [d] ∧ d.fence = none ∧ fnReady s (coreFn 0) = true ∧ (descBad s 0 d).1 = 0 ∧
      qRoom s 0 15 d = true ∧ creditGate s 0 15 d = 0) ∧
    (let d := desc 1 none copyWords
     let s := put (queues 0 [d] [desc 0 none copyWords]) .dmaQ_max_out 1 15
     (descBad s 0 d).1 = 0 ∧ qRoom s 0 15 d = false) ∧
    (let d := desc 1 none [0x8001, 0, 0, 0]
     (descBad (queues 0 [d] []) 0 d).1 ≠ 0 ∧ d.kind ≠ 4) ∧
    (∀ k ∈ [1, 2, 3, 6], let d := desc 1 none [BitVec.ofNat 64 k, 0, 64, 0]
      let s := queues 0 [] [d]
      flightOf s 0 1 = some d ∧ d.kind = k ∧ d.moved = false ∧ descMoving s d = false ∧ waitsTurn s 0 d = false) ∧
    (let d := { desc 1 none copyWords with moved := true }
     let s := queues 0 [] [d]
     flightOf s 0 1 = some d ∧ d.left = 0 ∧ d.kind ∉ [4, 5] ∧ get s .tc_value (256 * 0 + d.tc) < 2 ^ 32) ∧
    (let d := desc 1 (some 3) []
     fenceHolds (queues 0 [d] []) 0 15 d 3 = true ∧ fenceHolds (queues 0 [d] [desc 0 none copyWords]) 0 15 d 3 = false) ∧
    (let d := desc 1 (some 2) []
     let s0 := put (queues 0 [d] [desc 0 none copyWords]) .dmaCtl_fence_limit 1 0
     let s := { s0 with time := { s0.time with ticks := 16001 } }
     fenceHolds s 0 15 d 2 = false ∧ get s .dmaCtl_fence_limit 0 ≠ 0 ∧
      16000 * get s .dmaCtl_fence_limit 0 < s.time.ticks - d.since) := by
  decide +kernel

/-- Window 2 of job 9: pages 0 to 3 from virtual address 0, descriptors at 0x10000, in pool 1 where it spills. -/
def win (spill : Bool) : List Word := [BitVec.ofNat 64 (1 + 2 * bit spill + 9 * 4 + 16384), 0x10000, 4, 0x380000000000]
/-- Descriptor of a page of BF16 elements with 4 tokens, of tier `t`. -/
def pageBytes (t : Nat) : Bytes := toLe 8 (3 + 256 + 4 * 512 + 2 * 2 ^ 28) ++ toLe 16 0 ++ toLe 8 t ++ toLe 8 0x380000000000 ++ toLe 8 7 ++ toLe 16 0
/-- A KV descriptor in flight for page 3 of window 2, and a window with that page. Its level-3 entry is `e`. -/
def kv (spill : Bool) (t e : Nat) (d : Desc) : State :=
  let s1 := wrBytes home 0x100C0 (pageBytes t)
  let s2 := wrNat (wrNat (wrNat s1 0x30000 8 (1 + 0x40000)) 0x40000 8 (1 + 0x50000)) (0x50000 + 24) 8 e
  let s3 := put (put (put (put (put s2 .mmuWinbase_valid 1) .mmuPoola_en 1 1) .mmuPoola_job 9 1) .mmuRoot_valid 1) .mmuRoot_job 9
  let s4 := put (put s3 .mmuRoot_root 3) .mmuPoolb_size 4 1
  let s5 := { s4 with mmu := { s4.mmu with wins := [(2, win spill)] } }
  setCore s5 0 { coreOf s5 0 with flight := [d] }
def kvDesc (kind op : Nat) (ready : List Nat) : Desc :=
  { desc 1 none [BitVec.ofNat 64 (kind + 2 * 2 ^ 13 + 3 * 2 ^ 27 + 2 ^ 49 + op * 2 ^ 54), 0, 0, 0] with ready := ready }

theorem test_meets_kvReads :
    (∀ x ∈ [(false, 0, 0), (true, 2, 0x380000000000 + 1 + 2 + 8), (true, 0, 0x600000 + 1 + 2)],
      let d := kvDesc 4 1 []
      let s := kv x.1 x.2.1 x.2.2 d
      let r := winWords s 2
      let y := readOff (noteWin s 2) 9 0 (pdAddr r 3) 64
      d.raw = none ∧ winBad s 2 = 0 ∧ flightOf s 0 1 = some d ∧ d.kind = 4 ∧ kvWindow d = 2 ∧ d.w 0 48 27 + kvDone d = 3 ∧ kvDone d < d.w 0 53 49 ∧
      fnReady s (coreFn 0) = true ∧ fnReady s 7 = true ∧ winRefused s 9 2 3 = false ∧ inHbm s (pdAddr r 3) = true ∧ y.2.1 = 0 ∧
      pageReason (parsePage y.2.2) 2 = 0 ∧ wSpill r = x.1) ∧
    (let d := kvDesc 4 1 []
     let s := kv true 2 (0x380000000000 + 1 + 2 + 8) d
     let s1 := askPage 0 d (updDesc (readOff (noteWin s 2) 9 0 (pdAddr (winWords s 2) 3) 64).1 0 1 (fun e => e)) 3
     pteValid (l3Of s1 (winWords s 2) 3) = true ∧ pageHere s1 2 3 = false ∧ (flightOf s1 0 1).isSome = true) ∧
    (let d := kvDesc 4 1 []
     let s0 := { kv true 2 (0x380000000000 + 1 + 2 + 8) d with ecc := [⟨.hbm (0x50000 / 64), true, false⟩] }
     let s := setCore s0 0 ((coreOf s0 0).setSlot .prim slot0)
     let y := readOff (noteWin s 2) 9 0 (pdAddr (winWords s 2) 3) 64
     winBad s 2 = 0 ∧ winRefused s 9 2 3 = false ∧ y.2.1 = 0 ∧ pageReason (parsePage y.2.2) 2 = 0 ∧
      flightOf (askPage 0 d (updDesc y.1 0 1 (fun e => e)) 3) 0 1 = none) ∧
    (let d := kvDesc 4 1 []
     let s := kv true 0 (0x600000 + 1 + 2) d
     let s1 := askPage 0 d (updDesc (readOff (noteWin s 2) 9 0 (pdAddr (winWords s 2) 3) 64).1 0 1 (fun e => e)) 3
     pageHere s1 2 3 = true ∧ (flightOf s1 0 1).isSome = true) ∧
    (let d := kvDesc 4 1 [0]
     d.ready ≠ [] ∧ d.tcEn = false ∧ flightOf (kv false 0 0 d) 0 1 = some d) := by
  decide +kernel

theorem test_meets_kvPageOps : (∀ op ∈ [0, 1, 2, 3], let d := kvDesc 5 op []
      let s := kv true 0 (0x600000 + 1 + 2) d
      flightOf s 0 1 = some d ∧ d.kind = 5 ∧ kvDone d < d.w 0 53 49 ∧ fnReady s 7 = true ∧ winBad s 2 = 0 ∧
      winRefused s 9 2 3 = false ∧ pdBad s (winWords s 2) 3 = 0 ∧ l3Find s 9 (pageVa (winWords s 2) 3) = .at_ 0x50018 ∧
      wJob (winWords s 2) = 9 ∧ d.w 0 56 54 = op) ∧
    (let d := kvDesc 5 0 [3]
     d.ready ≠ [] ∧ d.tcEn = false ∧ flightOf (kv true 0 0 d) 0 1 = some d) := by
  decide +kernel


/-! ### A key, and what it signed

An RSA key of 3,072 bits made for these tests, its signature of the foundation image below (R81), and its signature of
OWNER_CLEAR's message with serial number and nonce 0 (R97). -/

def testKey : Nat := 0xacf844948e8076bf8c936b6d2c9402e11d2711133bb03986cd4fb8a3c1bba8b474fea8e22c5da5ba6507237de9854f039390518346e3492468941b509bbd64b96bc34b76ef2c74e19f861d4447891da401a96c518010884747985f1695c96005c533bde4ab7e06d794598994aff1c3b21bdeb6b79a8ff5ba3e3b4caa404e6306d6c7c79b272de1fcf9c6aa83f91c420e358bd2c3b7c63057521121686112db5f6ac9d614c4e35009fdfb3ad9b2efdd00eaf276794d9cf25c0b6cb63091dbb51325a9bf05dc81e0698aa95e28369bb40772bdd4386946424a15212b9a9a891e49932ce2517cfdccd6939128a2956f23a44796aa10c927a9f6e927557c79f5049b687a0e50bf41c855ccadac26c7202aff628fa2f40e6f5a563b9e3d104b6cb2b5e2673ea1553d38c75cbaf0eaa6afc798ae7e43973090a595b552c30f7df68f80b9d9943eec935ad95dd38a46b6c64f29181d9e59baf57c9588d4a91b1525fdca776544b1ce4aded1e50b3da7f456779c7a50c46837aa64087d357971946c55af
def testImageSig : Nat := 0x7b51b7b0757d351fabe173032ffeeadb9aaca629ff6c019411a7c498be15ae9b617072f6024fb248bd283613b6d7f8870118157b79c0e5f45b00b70db4e55b6ea3e33ecdacb3cbb522e3948b33c02ff6875400de625fe3d4b5c373068e4365184cd7563c232cd77b07df9194d70e23b3b4b2f404cc13fdbcf476bc77869896e7a3252e821afe94769e36328669ba16c3b6c2114901894cde1003bdc1006b4e651d60a32e0a9289d88a40567f751097ec403c44bdafae6df4b4465636fcff1dc86375f3b3f6fbd92b0ce8cdfa8d17077042e8d0dc64c047bc4b3f257ab0ba64e7bfbc2c2be06327ff391a964bdd56230fd08d4b227db3035f246a00dfa3947a30d3159ae850011f4f19a730e45747e04589459437efb25a31455d75b4ecfba5f6b210b7bb154ff7d6fa055b259164574db499f014322652ca16140f1c0581dbd123bbb557157e861105fb827fb2775a598a10faa4aeff5530845d68917c6afce8af4accbe90f2872a5d5616a9b83301b4af55277b4d63df8f99823af49205a753
def testClearSig : Nat := 0x4fb03d017a992da0b4c41603ee2ac59d85e5b4cf42f2b3edf762f9bb1645b58b766206a6293a76a0059be4417d11268775df6f4b47cccc46a275c8691c6dbead507716d6580416f5a16e409b18d10368f3aade5f9357dd7b3e424793cb24e7e87fc752edd8b75a5b00716ec26d99940120818f78d7732f254fbe8f56fff2f5b65265b697112e28f8a2187542c2bb38257494670ae69444f97d75837add3ee234dfab29c77b884b680fb2bbb047e85668cfcfce91eb4369a9e8f2da8642beaee9490cb7fbe167ce0c8c0258ab8d875c8d7a3e4e32f2a14f070aed7429d0b32df337bffb713ad09612d42f49306c2bf6563f16efde15864d8b72ecbed3684d38fb6c729c6e9262331020ca9e60a15ba1965050dcc40af9089fba2a6fec6940772c009fb28ed869ddf92434b99e38cd9225a687c480c17127c08216a33a133f1e8cd3c44a75dba8532801c764141d9661fa05516a92a584a12baf78d376bf2629ac3b28fed259c44bfbc8dd71be2ee4dee5ddd9c1d299cb4ed2d20c2ebbbaa0988c
/-- The SHA-256 digest of the modulus, as the fuses would hold it. -/
def testKeyHash : BitVec 256 := 0x90d42bf9ab075baf463b94f4cf0a28230015d807b403e72f251f01a3590a441a

/-- A foundation image: header, one section table entry, and the signature section. -/
def foundImage : List Word :=
  [0x0000010347455250, 0x0000000100000368, 7, 0, 0, 0, 0, 0, 0x7F, 0x0000030800000060, 0, 0] ++ padWords (toBe 384 testKey) ++ [0] ++
  padWords (toBe 384 testImageSig)
/-- A shape image for the module with one policy record. -/
def shapeImage : List Word :=
  [0x0000020347455250, BitVec.ofNat 64 (112 + 2 ^ 32 + get up .idnVariant_numeric_gen * 2 ^ 48 + 15 * 2 ^ 56), 0, 0, 0, 0, 0, 0] ++
  [0x1E06, 0x0000001000000060, 0x0000001000000001, 0, 0, 0]

/-! ### Hypotheses that are met: control commands -/

def hdr : CtlHdr := ⟨1, 5, 9, 0, from0⟩
/-- Job 9 is resident under a foundation image. -/
def served : State := { home with ctl := { home.ctl with found := some ⟨0, 0, 0⟩ } }
/-- Port 1 is held by a command. -/
def heldPort (s : State) (i : Instr) : State := setCp s 1 { CpSt.init with busy := some i, held := true }

theorem test_meets_startsNow : ∀ i ∈ [.csrRead hdr [0], .csrWrite hdr [(0x10000, 1)], .imageBegin hdr 872 0x1FF, .imageData hdr 0 [0],
      .imageEnd hdr, .imageAbort hdr, .modReset hdr, .rstFn hdr 0x1FE, .powerState hdr 2 1, .nonce hdr, .quote hdr 0, .certRead hdr,
      .ownerEnroll hdr 0 0 false 0, .ownerClear hdr 0 true 3 0 0, .regionReg hdr ⟨0, 9, true, true, 15, 0, 1, 0, 0, false⟩,
      .regionDereg hdr 0 9, .doorbell hdr 0 256, .commit hdr 1 0 false 0, .rollback hdr 1 0 false 0], StartsNow served hdr i := by
  unfold StartsNow NewCommand
  decide +kernel

theorem test_meets_controlArrivals :
    (NewCommand up hdr (.doorbell hdr 0 1) ∧ (cpOf up 1).busy = none ∧ (cpOf up 1).queue = [] ∧ hdr.release = 0 ∧
      mayStart up hdr (.doorbell hdr 0 1) = true ∧ notAllowed up (.doorbell hdr 0 1) = true) ∧
    (let s := heldPort served (.nonce { hdr with seq := 4 })
     NewCommand s hdr (.nonce hdr) ∧ (cpOf s 1).busy ≠ none ∧ (∀ p, p ≠ hdr.port → (cpOf s p).queue = []) ∧ hdr.release = 0) ∧
    (let r : Resp := ⟨1, from0, 5, 0x30, 9, 0, 0, []⟩
     ∀ x ∈ [⟨5, some r, []⟩, ⟨5, none, [from0]⟩], let s := setCp served 1 { CpSt.init with hist := [x] }
     hdrOf (.nonce hdr) = some hdr ∧ cpOn s 1 = true ∧ malformed (.nonce hdr) = false ∧
      (cpOf s 1).hist.find? (fun y => y.seq == hdr.seq) = some x) ∧
    (hdrOf (.rstFn hdr 1) = some hdr ∧ malformed (.rstFn hdr 1) = true) ∧
    (cpOn (put served .ctlPort_cp1_en 0) 1 = false) := by
  unfold NewCommand
  decide +kernel

/-- The same with the tide at `t`. -/
def atTide (s : State) (t : Nat) : State := { s with time := { s.time with tide := t } }

theorem test_meets_releases :
    (let s := atTide served 1000
     ∀ r ∈ [985, 1001, 1000 + 2 ^ max 16 (get s .tideCtl_max_ahead_log2)], let h := { hdr with release := BitVec.ofNat 64 r }
      NewCommand s h (.nonce h) ∧ (cpOf s 1).busy = none ∧ (∀ p, (cpOf s p).queue = []) ∧
      (r ≠ 985 → releaseTest s r = .onTime ∧ mayStart s h (.nonce h) = false)) ∧
    (let s := atTide served 1000
     releaseTest s (1001 + 2 ^ max 16 (get s .tideCtl_max_ahead_log2)) = .refused) ∧
    (let j := Instr.nonce { hdr with release := 1000 }
     let s := heldPort (atTide served 1016) j
     let g := { hdr with release := 1000 }
     let t := setCp s 0 { CpSt.init with busy := some (.nonce { g with port := 0 }), held := true }
     let u := heldPort (atTide served 1015) j
     fn0Up s = true ∧ (cpOf s 1).busy = some j ∧ hdrOf j = some g ∧ (cpOf s 1).held = true ∧ mayStart s g j = true ∧
      otherFirst s 1 = false ∧ otherFirst t 1 = true ∧ otherFirst t 0 = false ∧ mayStart u g j = false ∧
      (∀ q, canPump u q = false)) := by
  unfold NewCommand
  decide +kernel

/-- The release tests on either side of the late window, with the job in eclipse and not; a held command goes first by its earlier
release, or by its port at the same release (R65). -/
theorem test_meets_lateReleases :
    (let s := put (atTide served 101001) .tideCtl_late_window 100
     ∀ x ∈ [(1000, Release.refused), (1001, .late), (100985, .late), (101001, .onTime)],
      let h := { hdr with release := BitVec.ofNat 64 x.1 }
      releaseTest s x.1 = x.2 ∧ NewCommand s h (.regionDereg h 0 9) ∧ (cpOf s 1).busy = none ∧ (∀ p, (cpOf s p).queue = []) ∧
      (x.2 = .late → (x.1 = 1001 → s.time.lastEpoch = 0 ∧ 1001 / 65536 = 0 ∧ mayStart s h (.regionDereg h 0 9) = true) ∧
        mayStart { s with time := { s.time with eclipse := [9] } } h (.regionDereg h 0 9) = false)) ∧
    (∀ x ∈ [(1, 999, 1000), (1, 1000, 1000), (0, 999, 1000)], let p : Cp := BitVec.ofNat 1 x.1 |>.toFin
      let j := Instr.nonce { hdr with port := p, release := BitVec.ofNat 64 x.2.2 }
      let k := Instr.nonce { hdr with port := 1 - p, release := BitVec.ofNat 64 x.2.1 }
      let s := setCp (setCp (atTide served 1016) p { CpSt.init with busy := some j, held := true }) (1 - p)
        { CpSt.init with busy := some k, held := true }
      (cpOf s p).busy = some j ∧ (cpOf s p).held = true ∧ (cpOf s (1 - p)).busy = some k ∧ (cpOf s (1 - p)).held = true ∧
      mayStart s { hdr with port := p, release := BitVec.ofNat 64 x.2.2 } j = true ∧
      mayStart s { hdr with port := 1 - p, release := BitVec.ofNat 64 x.2.1 } k = true ∧
      (x.2.1 < x.2.2 ∨ p = 1)) := by
  unfold NewCommand
  decide +kernel

theorem test_meets_csrWrites :
    let l : List (BitVec 26 × BitVec 64) := [(0x10000, 1), (0x10008, 2)]
    (l.foldl (csrNext 1) ⟨served, [], []⟩).steps = [] := by
  decide +kernel

theorem test_meets_answers : (cpOf served 1).hist.all (fun x => x.seq != hdr.seq) = true ∧ hdrOf (.nonce hdr) = some hdr := by
  decide +kernel

/-- A load with its words received. -/
def loading (ws : List Word) : State :=
  { served with ctl := { served.ctl with load := some ⟨8 * ws.length, 0x1FF, ws, 0, none, none⟩ } }
/-- The same while the checks of its end run. -/
def checked (ws : List Word) : State :=
  heldPort { served with ctl := { served.ctl with load := some ⟨8 * ws.length, 0x1FF, ws, 0, some hdr, none⟩ } } (.imageEnd hdr)

theorem test_meets_imageLoads :
    served.ctl.load = none ∧ (loading []).ctl.load ≠ none ∧ checking (loading []) = false ∧ checking (checked []) = true ∧
    (let h := { hdr with port := 0 }
     ∀ i ∈ [.imageBegin h 872 0x1FF, .imageData h 0 [0], .imageAbort h, .imageEnd h], StartsNow (checked []) h i) ∧
    (let s := { served with ctl := { served.ctl with load := some ⟨8208, 0x1FF, [], 0, none, none⟩ } }
     ∀ x ∈ [(0, 1024), (8192, 1), (0, 1), (0, 1027)], let o : BitVec 32 := BitVec.ofNat 32 x.1
      let n := 8 * x.2
      s.ctl.load = some ⟨8208, 0x1FF, [], 0, none, none⟩ ∧ (x = (0, 1024) → o.toNat = 0 ∧ o.toNat + n ≤ 8208 ∧ x.2 = 1024) ∧
      (x = (8192, 1) → o.toNat ≠ 0) ∧ (x = (0, 1) → o.toNat = 0 ∧ o.toNat + n ≠ 8208 ∧ x.2 ≠ 1024) ∧
      (x = (0, 1027) → 8208 < o.toNat + n)) := by
  unfold StartsNow NewCommand
  decide +kernel

/-- The last condition of the statement on image ends, and what the checks answer. -/
theorem test_meets_imageEnds : (∀ ws ∈ [shapeImage, shapeImage.set 3 1, foundImage.take 96, foundImage],
      let ld : Load := ⟨8 * ws.length, 0x1FF, ws, 0, some hdr, none⟩
      (ticked (checked ws)).ctl.load = some ld ∧ ld.check = some hdr) ∧
    hKind shapeImage ≠ 1 ∧ checkShape (endLoad (ticked (checked shapeImage))) ⟨112, 0x1FF, shapeImage, 0, some hdr, none⟩ = none ∧
    hKind (shapeImage.set 3 1) ≠ 1 ∧
    (checkShape (endLoad (ticked (checked (shapeImage.set 3 1)))) ⟨112, 0x1FF, shapeImage.set 3 1, 0, some hdr, none⟩).isSome = true ∧
    hKind (foundImage.take 96) = 1 ∧
    checkFoundation (endLoad (ticked (checked (foundImage.take 96)))) ⟨768, 0x1FF, foundImage.take 96, 0, some hdr, none⟩ = none := by
  decide +kernel

/-- R73 accepts the foundation image where the fuses hold that key's hash. -/
theorem test_meets_foundationAccepted (h : Config.slotHash 0 = testKeyHash) : hKind foundImage = 1 ∧
    (checkFoundation (endLoad (ticked (checked foundImage))) ⟨872, 0x1FF, foundImage, 0, some hdr, none⟩).isSome = true := by
  refine ⟨by decide +kernel, ?_⟩
  have e : sigSection foundImage 0x7F = some ⟨0, 0x7F, 0, 96, 776, 0, 0, true⟩ := by decide +kernel
  have g : (decide (0 + 1 = hSections foundImage) && headerOk foundImage && decide (hLength foundImage = 8 * foundImage.length) &&
      decide (8 * foundImage.length = 872) && sigOk foundImage ⟨0, 0x7F, 0, 96, 776, 0, 0, true⟩ &&
      decide ((endLoad (ticked (checked foundImage))).fuses.minSvn.toNat ≤ hSvn foundImage)) = true := by decide +kernel
  have k : sigModulus foundImage ⟨0, 0x7F, 0, 96, 776, 0, 0, true⟩ = testKey := by decide +kernel
  have d : sha256 (toBe 384 testKey) = toBe 32 testKeyHash.toNat := by decide +kernel
  have f : tst (endLoad (ticked (checked foundImage))).fuses.slotRevoked.toNat 0 = false := by decide +kernel
  have r : List.range 4 = 0 :: [1, 2, 3] := by decide
  have o : slotOfKey (endLoad (ticked (checked foundImage))) testKey = some 0 := by
    rw [slotOfKey, r, List.find?_cons_of_pos]
    rw [h, d, f]
    simp
  simp only [checkFoundation, e, g, k, o, if_true, Option.isSome_some]

theorem test_meets_resets :
    served.pwr.rstWait = [] ∧ powerOf (put served .pwrStat_state 3) = 3 ∧ resetInProgress served = false ∧ powerOf served ≠ 3 ∧
    newlyReset (put served .rstStat_in_reset 0x100) 0x100 = 0 ∧ newlyReset served 0x1FE ≠ 0 ∧
    transOk (put served .pwrStat_state 2) 2 1 = false ∧ transOk served 0 2 = true ∧ served.pwr.pend = none ∧
    (let s := atTide served (65536 - guardNs served)
     s.time.tide + guardNs s ≤ 1 * 65536) ∧
    (let s := atTide served (65536 - guardNs served + 1)
     1 * 65536 < s.time.tide + guardNs s) := by
  decide +kernel

/-- A transition waits already, for an epoch that is far enough. -/
theorem test_meets_powerReplaced : let s := { served with pwr := { served.pwr with pend := some ⟨1, 5, { hdr with seq := 4 }⟩ } }
    StartsNow s hdr (.powerState hdr 2 1) ∧ powerOf s ≠ 3 ∧ transOk s (powerOf s) 2 = true ∧ s.time.tide + guardNs s ≤ 1 * 65536 ∧
      s.pwr.pend = some ⟨1, 5, { hdr with seq := 4 }⟩ := by
  unfold StartsNow NewCommand
  decide +kernel

/-- A nonce of zero is valid. -/
def nonced : State := put served .secStat_nonce_valid 1
/-- The test key is enrolled. -/
def owned : State := { nonced with fuses := { nonced.fuses with owner := some (BitVec.ofNat 3072 testKey) } }

theorem test_meets_owners : nonced.fuses.writesLeft ≠ 0 ∧ nonceOk nonced 0 = true ∧ enrollSigOk nonced 0 1 false 0 = true ∧
    owned.fuses.writesLeft ≠ 0 ∧ nonceOk owned 0 = true ∧ enrollSigOk owned 0 1 false 0 = false ∧
    clearSigOk nonced 0 false 0 0 0 = false ∧
    (∀ i ∈ [.ownerEnroll hdr 0 1 false 0, .ownerClear hdr 0 false 0 0 0], StartsNow nonced hdr i ∧ StartsNow owned hdr i) := by
  unfold StartsNow NewCommand
  decide +kernel

theorem test_meets_ownerCleared : clearSigOk owned 0 false 0 0 (BitVec.ofNat 3072 testClearSig) = true := by decide +kernel

theorem test_meets_regions :
    (∀ n ∈ [1, 2 ^ 42], regionRefuse served ⟨16383, 9, true, true, 15, 0, BitVec.ofNat 43 n, 255, 0, true⟩ = 0) ∧
    (let s := put (put served .xptReg0_valid 1 16383) .xptReg0_word0 (9 * 2 ^ 14) 16383
     fnReady s 5 = true ∧ regValid s 16383 = true ∧ regJob s 16383 = 9) ∧
    (let s := { served with xpt := { served.xpt with deregs := [(7, hdr)] } }
     s.xpt.deregs.find? (fun x => x.1 == 7) = some (7, hdr)) := by
  decide +kernel

/-- Launch records at offset 0 of HBM. -/
def recorded2 (v : Nat) : State := wrNat served 0 8 (v + 9 * 2 ^ 8 + 3 * 2 ^ 20)

theorem test_meets_doorbells :
    (∀ v ∈ [2, 3], let s := recorded2 v
      let r := readMem (atFront s hdr (.doorbell hdr 0 1)) 0 64
      let recs := (List.range 1).map (fun i => padWords ((r.2.2.drop (64 * i)).take 64))
      StartsNow s hdr (.doorbell hdr 0 1) ∧ 0 + 64 * 1 ≤ variantHbmBytes s.fuses.variant ∧ fnReady s 7 = true ∧ r.2.1 = none ∧
      (recsRefuse r.1 recs = 0 ↔ v = 2)) ∧
    jobEntry served 9 = none ∧
    (let s := put (put served .grdJoba_valid 1 63) .grdJoba_job 9 63
     jobEntry s 9 = some 63 ∧ mget none s.ctl.commits 9 = none) := by
  unfold StartsNow NewCommand
  decide +kernel

theorem test_meets_commitReplaced : let c : CommitCmd := ⟨true, 3, 0, false, 9, { hdr with seq := 4 }⟩
    let s0 := put (put served .grdJoba_valid 1 63) .grdJoba_job 9 63
    let s := { s0 with ctl := { s0.ctl with commits := [(9, some c)] } }
    StartsNow s hdr (.commit hdr 4 0 false 9) ∧ StartsNow s hdr (.rollback hdr 4 0 false 9) ∧ jobEntry s 9 = some 63 ∧
      mget none s.ctl.commits 9 = some c := by
  unfold StartsNow NewCommand
  decide +kernel

/-- CSR_READ of two offsets, number 5, job 9, written out from R62 and R69: opcode and length, number, job, release tide, reserved
word, and the offsets. -/
def readBytes (op off : Nat) : Bytes :=
  [BitVec.ofNat 8 op, 0, 2, 0, 5, 0, 0, 0, 9, 0, 0, 0, 0, 0, 0, 0, 0, 0, 0, 0, 0, 0, 0, 0, 0, 0, 0, 0, 0, 0, 0, 0,
   BitVec.ofNat 8 off, 0, 0, 0, 0, 0, 0, 0, 0, 0, 1, 0, 0, 0, 0, 0]

theorem test_frameRead : readFrame 1 from0 (readBytes 1 8) = .cmd (.csrRead hdr [8, 0x10000]) := by decide +kernel

/-- Every command's frame reads as that command (R62, R69). -/
theorem test_framesReadBack : ∀ i ∈ [.csrWrite hdr [(0x10000, 1)], .imageBegin hdr 872 0x1FE, .imageData hdr 0 [0, 1],
      .imageEnd hdr, .imageAbort hdr, .modReset hdr, .rstFn hdr 0x1FE, .powerState hdr 2 (2 ^ 48 - 1), .nonce hdr, .quote hdr 5, .certRead hdr,
      .regionReg hdr ⟨0, 9, true, false, 10, 2 ^ 54, 2 ^ 42, 255, 3, true⟩,
      .regionDereg hdr 5 9, .doorbell hdr 0x3FFFFFFFFFC0 256, .commit hdr 7 8 true 9, .rollback hdr 7 8 false 9],
    (frameWords i).map (fun ws => readFrame 1 from0 (bytesOf ws)) = some (.cmd i) := by
  decide +kernel

theorem test_ownerPayloads : ∀ i ∈ [.ownerEnroll hdr 1 2 true 3, .ownerClear hdr 1 true 3 2 4],
    readPayload (opOf i) hdr (payloadOf i) = some i := by
  decide +kernel

theorem test_meets_frames : cpOn served 1 = true ∧ readFrame 1 from0 (readBytes 1 4) = .refused hdr 1 3 ∧
    readFrame 1 from0 (readBytes 0x7F 8) = .refused hdr 0x7F 2 ∧ fn0Up served = true ∧
    fnReady served 8 = true ∧ portPresent served 46 = true := by
  decide +kernel

/-! ### Hypotheses that are met: resets, power, events and the tide -/

/-- The sequence at a stage, with a foundation image or without. -/
def staged (n : Nat) (f : Option Found) : State :=
  let s := State.reset
  { s with pwr := { s.pwr with stage := n }, ctl := { s.ctl with found := f } }
/-- The module with its holds. -/
def holding (s : State) (h : Holds) : State := { s with pwr := { s.pwr with holds := h } }
/-- The module at a count of ticks. -/
def atTicks (s : State) (n : Nat) : State := { s with time := { s.time with ticks := n } }

theorem test_meets_powerOn : (4600 ≤ (4600 : BitVec 13).toNat) ∧ ((4599 : BitVec 13).toNat < 4600) ∧
    (let s := { up with pwr := { up.pwr with rails := false } }
     s.pwr.input = true ∧ s.pwr.rails = false) ∧
    (let s := staged 6 none
     s.pwr.stage = 6 ∧ s.pwr.rails = true ∧ s.pwr.holds.refclk = false ∧ s.pwr.holds.pin = false) ∧ (staged 5 none).pwr.stage ≠ 6 := by
  decide +kernel

theorem test_meets_resetSequence : (staged 5 none).pwr.holds.pin = false ∧
    ((staged 4 (some ⟨0, 0, 0⟩)).ctl.found ≠ none ∧ noHolds (staged 4 (some ⟨0, 0, 0⟩)) = true) ∧ (staged 4 none).ctl.found = none ∧
    (∀ n ∈ [1, 2, 3], (staged n none).pwr.stage = n ∧ noHolds (staged n none) = true) ∧
    (∀ n ∈ [1, 4], 1 ≤ (staged n none).pwr.stage ∧ (staged n none).pwr.stage ≤ 4 ∧
      noHolds (holding (staged n none) ⟨true, false, false, false⟩) = false) := by
  decide +kernel

theorem test_meets_resetCauses : (served.pwr.holds.pin = false ∧ powered served = true) ∧
    ((holding served ⟨false, false, false, true⟩).pwr.holds.pin = true ∧ powered (holding served ⟨false, false, false, true⟩) = true) ∧
    (let s := { served with pwr := { served.pwr with resetAt := some 10000 } }
     s.pwr.resetAt = some 10000 ∧ 10000 ≤ (atTicks s 10000).time.ticks ∧ (atTicks s 9999).time.ticks < 10000) ∧
    (∀ x ∈ [(Sensor.die 3, 110), (.hbm 19, 105), (.io, 110)], tripAt x.1 ≤ (BitVec.ofNat 8 x.2).toNat) ∧
    served.pwr.holds.thermal = false ∧ served.pwr.holds.input = false ∧ served.pwr.holds.refclk = false ∧
    ((4399 : BitVec 13).toNat < 4400) ∧ (5700 < (5701 : BitVec 13).toNat) := by
  decide +kernel

theorem test_meets_faultsUnpowered : powered (staged 6 none) = false ∧ (staged 6 none).pwr.holds.input = false ∧
    (staged 6 none).pwr.holds.refclk = false := by
  decide +kernel

theorem up_fit : regsFit up.regs := by
  have h : Sound Fuses.init [] { State.reset with pwr := { PwrSt.init with stage := 0 } } :=
    ⟨rfl, ⟨rfl, rfl, rfl, rfl, rfl, rfl, rfl⟩, rfl, rfl, fun f _ => Nat.two_pow_pos f.width⟩
  exact (put_sound (put_sound h .rstStat_in_reset 0 0) .rstStat_ready 0x1FF 0).2.2.2

theorem test_meets_moduleReset : regsFit up.regs ∧ (∀ f ∈ [Fld.tideCtl_guard, .pwrCap_cap, .rstCnt_module_resets],
    (homeOf f.ctorIdx).isSome = true ∧ f ≠ .rstStat_in_reset ∧ f ≠ .rstStat_ready) := ⟨up_fit, by decide +kernel⟩

theorem test_meets_resetEnds :
    (let s := { put served .rstStat_in_reset 0x1FE with pwr := { served.pwr with rstWait := [(hdr, 0x100)] } }
     inReset s 8 = true ∧ s.pwr.rstWait.any (fun x => x.2.getLsbD 8) = true ∧ inReset s 7 = true ∧
      s.pwr.rstWait.all (fun x => !x.2.getLsbD 7) = true) ∧ inReset served 8 = false ∧ served.pwr.active = none ∧
    (let s := { served with pwr := { served.pwr with active := some ⟨1, 0, hdr⟩, prev := 0 } }
     s.pwr.active = some ⟨1, 0, hdr⟩ ∧ (s.pwr.prev = 2 → s.pwr.stage = 0)) ∧
    (let s := { served with pwr := { served.pwr with active := some ⟨0, 0, hdr⟩, prev := 2, stage := 1 } }
     s.pwr.prev = 2 ∧ s.pwr.stage ≠ 0) := by
  decide +kernel

theorem test_meets_power : fn0Up served = true ∧ (let w := 11 * capOf served / 10
     10 * w ≤ 11 * capOf served ∧ 11 * capOf served < 10 * (w + 1) ∧ w + 1 < 2 ^ 13) ∧
    (let s := { put served .pwrStat_target 1 with pwr := { served.pwr with samples := [capOf served + 1] } }
     s.pwr.samples ≠ [] ∧ get s .pwrCtl_mode 0 = 0 ∧ s.pwr.samples.length * capOf s < s.pwr.samples.sum) ∧
    (let s := { put served .pwrStat_target 1 with pwr := { served.pwr with samples := [2000, 1879] } }
     get s .pwrCtl_mode 0 = 0 ∧ 100 * s.pwr.samples.sum < 97 * 2 * capOf s ∧ get s .pwrStat_target 0 < clkMax s) ∧
    (95 ≤ (95 : BitVec 8).toNat) ∧ fnReady served 7 = true ∧ ((19 : Fin 20).val < variantStacks served.fuses.variant) ∧
    dieClk (put served .pwrStat_die_clk (2 ^ 24 - 1)) 3 ≠ 0 := by
  decide +kernel

/-- Mode 1 of PWR_CTL above, below and between its limits, at the ends of the hold level, with no die held by a limit; and an interval
in which issue was held long enough to ask for less, or not. -/
theorem test_meets_powerHolds :
    (∀ x ∈ [(2001, 0), (2001, 15), (1939, 0), (1939, 15), (1940, 7), (2000, 7)],
      let s0 := put (put (put served .pwrCtl_mode 1) .pwrStat_hold x.2) .pwrCap_cap 2000
      let s := { s0 with pwr := { s0.pwr with samples := [x.1] } }
      fn0Up s = true ∧ s.pwr.samples ≠ [] ∧ get s .pwrCtl_mode 0 ≠ 0 ∧ get s .pwrStat_hold 0 ≤ 15 ∧ capOf s = 2000 ∧
      get s .pwrStat_die_clk 0 < 2 ^ 24 ∧ s.pwr.hotDie.getLsbD 3 = false ∧ overNow s 3 = false) ∧
    (∀ x ∈ [(20480, 0, false), (20481, 0, true), (20481, 1, true)],
      let s0 := put (put served .pwrCtl_want_frac 5) .pwrStat_want_lower x.2.1
      let s := { s0 with pwr := { s0.pwr with heldNs := x.1, holdEnd := 0 } }
      decide (65536 * get s .pwrCtl_want_frac 0 < 16 * (s.pwr.heldNs - (s.pwr.holdEnd - s.time.ticks))) = x.2.2 ∧
      get s .pwrStat_want_lower 0 = x.2.1 ∧ get s .evtStat_unread 0 < 1024) := by
  decide +kernel

/-- An event of one tide after another: it follows one of a lower function, and stands before one of a higher (R472). -/
theorem test_meets_eventOrder : let s := put up .evtStat_unread 1
    ∀ x ∈ [(0, false), (8, true)], let t := put { s with evt := [(1023, evtWords s 0x030 x.1 0 0 0 0)] } .evtHead_head 0
      let w := evtWords t 0x002 5 0 0 0 0
      evtBefore w (mget [0, 0, 0, 0] t.evt ((get t .evtHead_head 0 + 1023) % 1024)) = x.2 ∧ get t .evtHead_head 0 < 1024 ∧
      get t .evtStat_unread 0 = 1 ∧ (x.2 = false → LoggedLast t w) ∧ LoggedLast up w := by
  unfold LoggedLast
  decide +kernel

theorem test_meets_events :
    (let s := at0 (regWord 0x04 form)
     IssuesReg s 0 .prim 0x04 form ∧ taskOf s 0 .prim = some task ∧ get s .evtStat_unread < 1024) ∧
    (get (put up .evtStat_unread 1023) .evtStat_unread 0 < 1024 ∧ 1024 ≤ get (put up .evtStat_unread 1024) .evtStat_unread 0) ∧
    (let s := put (put up .evtStat_unread 2) .evtTail_tail 1022
     fn0Up s = true ∧ ((0 : BitVec 10).toNat + 1024 - get s .evtTail_tail 0) % 1024 = 2 ∧
      ((1 : BitVec 10).toNat + 1024 - get s .evtTail_tail 0) % 1024 = 3 ∧ get s .evtStat_unread 0 = 2) ∧
    (get (put up .evtStat_alert 1) .evtStat_alert 0 ≠ 0) := by
  unfold IssuesReg Issues
  decide +kernel

/-- The packet error code of the read of 0x5A from command 0 at address 0x58 (R489): the CRC-8 of 0xB0, 0x00, 0xB1 and 0x5A. -/
theorem test_smbPec : smbPec up 0 false [0x5A] = ([0xB0, 0x00, 0xB1, 0x5A] : Bytes).foldl (fun c b =>
    (List.range 8).foldl (fun c _ => if 0x80 ≤ c then (2 * c) % 256 ^^^ 0x07 else 2 * c) (c ^^^ b.toNat)) 0 := by decide +kernel

theorem test_meets_smbus : up.pwr.rails = true ∧ (∀ x ∈ [0x00, 0x01, 0x02, 0x03, 0x04, 0x10, 0x20], (smbAnswer up x).isSome = true) ∧
    smbAnswer up 0x21 = none := by
  decide +kernel

theorem test_meets_tide :
    (∀ f ∈ [-freqRange, freqRange], let s := { up with time := { up.time with tide := 2 ^ 64 - 3, frac := 2 ^ 32 - 1, freq := f } }
      s.time.tide + 2 < 2 ^ 64 ∧ s.time.frac < 2 ^ 32 ∧ -freqRange ≤ s.time.freq ∧ s.time.freq ≤ freqRange) ∧
    checking (ticked up) = false ∧ checking up = false ∧ up.num.due = [] ∧ up.col.held = [] ∧ armedTemplates up = [] ∧ up.mmu.moves = [] ∧ up.lnk = [] ∧
    (let s := atTide up (65536 + 16)
     s.time.lastEpoch < effTide s / 65536 ∧ fn0Up s = true) ∧
    (let s := put (atTide up (65536 + 16)) .rstStat_ready 0
     s.time.lastEpoch < effTide s / 65536 ∧ fn0Up s = false) ∧
    (let s := atTide up (65536 + 15)
     effTide s / 65536 ≤ s.time.lastEpoch) ∧
    (let s := put (atTide up (65536 + 16)) .tideSlot_en 1 7
     (slotDue s 7).isSome = true ∧ slotDue up 7 = none) := by
  decide +kernel

theorem test_meets_epochs : fn0Up up = true ∧
    (let s := atTide up (65536 - guardNs up)
     s.time.tide + guardNs s ≤ 65536 * (1 : BitVec 48).toNat) ∧
    (∀ t ∈ [65536 - guardNs up + 1, 65535], let s := atTide up t
      65536 * (1 : BitVec 48).toNat < s.time.tide + guardNs s ∧ s.time.tide < 65536 * (1 : BitVec 48).toNat) ∧
    65536 * (1 : BitVec 48).toNat ≤ (atTide up 65536).time.tide := by
  decide +kernel

/-- The shadow of a field waits after a write. -/
theorem test_meets_shadows : (shadowWrite up 9 .grdJobb_committed 63 5).time.shadows.any
    (fun h => decide (h.fld = .grdJobb_committed ∧ h.idx = 63)) = true := by decide +kernel

/-- An epoch named in time and late, for the module and for a job; an image of the scope whose job runs nothing, and one that does. -/
theorem test_meets_appliesAtEpochs :
    (∀ sc ∈ [9, modScope], ∀ late ∈ [false, true],
      let s := { served with time := { served.time with named := [(sc, some ⟨1, late⟩)] } }
      namedOf s sc = some ⟨1, late⟩ ∧ (∀ p ∈ s.shp.pend, p.scope = sc → p.held = true) ∧
      (∀ h ∈ s.time.shadows, h.scope = sc → h.fld ≠ .grdJoba_layout) ∧ (dueScopes s 1 = [(sc, 1)] ∧ dueScopes s 0 = [])) ∧
    namedOf served 9 = none ∧
    (∀ x ∈ [(9, true), (9, false), (modScope, true)], ∀ run ∈ [none, some task],
      let p : PendImg := ⟨x.1, 0x1FF, str, 0, false, x.2, false⟩
      let s := { withSlot 0 { SlotSt.init with task := run } with shp := { home.shp with pend := [p] } }
      s.shp.pend.find? (fun p => p.scope == x.1 && !p.held) = some p ∧ scopeQuiescent s x.1 = run.isNone ∧ p.full = x.2 ∧
      p.mask.getLsbD 8 = true ∧ inReset s 8 = false) := by
  decide +kernel

/-- Shadows that are due, held, or of another scope; a layout whose job has an armed slot, and one whose job has none. -/
theorem test_meets_appliedShadows :
    (let l : List Shadow := [⟨9, .grdJobb_committed, 63, 5, false⟩, ⟨9, .dmaCtl_fence_limit, 0, 5, true⟩, ⟨modScope, .pwrCap_cap, 0, 5, false⟩]
     (l.map (fun h => (h.fld, h.idx))).Nodup ∧ l.map (fun h => h.scope == 9 && !h.held) = [true, false, false]) ∧
    (let h : Shadow := ⟨9, .grdJoba_layout, 63, 5, false⟩
     let s := { served with time := { served.time with shadows := [h] } }
     s.time.shadows.filter (fun h => h.scope == 9 && !h.held) = [h] ∧ jobArmed s 9 = false) := by
  decide +kernel

/-- The discipline in a state, with rows of small and large offsets. -/
def disciplined (st near far : Nat) : State :=
  let s := put up .tideStat_state st
  { s with time := { s.time with near := near, far := far } }

/-- A PTP message of number 7 in domain 0. -/
def ptp (k : PtpKind) : PtpMsg := ⟨true, k, 7, true, 400, 0⟩

theorem test_meets_measurements :
    (∀ st ∈ [0, 3], tideState (disciplined st 0 0) = st) ∧
    (tideState (disciplined 1 14 0) = 1 ∧ (16 : Int).natAbs ≤ 16 ∧ (disciplined 1 14 0).time.near < 15) ∧
    (15 ≤ (disciplined 1 15 0).time.near ∧ tideState (disciplined 1 15 0) = 1 ∧ 16 < (-17 : Int).natAbs) ∧
    (tideState (disciplined 2 0 15) = 2 ∧ 256 < (-257 : Int).natAbs ∧ 15 ≤ (disciplined 2 0 15).time.far ∧ (256 : Int).natAbs ≤ 256) ∧
    (let s := put up .tideCtl_sync_src 2
     fn0Up s = true ∧ get s .tideCtl_sync_src 0 = 1 + (1 : Cp).val ∧ (0 : BitVec 8).toNat = get s .tideSync_ptp_domain 0 ∧
      get s .tideCtl_sync_src 0 ≠ 1 + (0 : Cp).val ∧
      (∀ k ∈ [PtpKind.sync, .followUp, .delayResp], (ptp k).kind = k) ∧
      (let u := { s with time := { s.time with ptp := ⟨some (7, 1, 0), some (7, 1, 2, 3), 8⟩ } }
       u.time.ptp.sync = some ((ptp .followUp).seq.toNat, 1, 0) ∧ u.time.ptp.req = some ((ptp .delayResp).seq.toNat, 1, 2, 3))) ∧
    get up .tideCtl_sync_src 0 ≠ 3 ∧
    (let s := put up .tideCtl_sync_src 3
     get s .tideCtl_sync_src 0 = 3 ∧ ppsAccepted s = true) ∧
    (let s := atTicks (disciplined 2 0 0) 1000000
     fn0Up s = true ∧ tideState s = 2 ∧ s.time.lastMeas + 1000000 ≤ s.time.ticks) ∧
    (mayStep up = true ∧ mayStep home = false) := by
  decide +kernel

/-- A port with its link in service, this module and its peer placed. -/
def linked (p : Nat) : State :=
  let s := put (put served .lnkPstat_state 3 p) .ctlPlace_placed 1
  { s with lnk := [(p, { LinkSt.init with peerPlaced := true, own := 0xFF, hitless := true })] }
/-- A timestamp flit. -/
def stamp (response : Bool) (depth : BitVec 4) : BitVec 2048 := mkFlit flitStamp 1 4095 (tsPayload ⟨response, depth, 2, 5, 0, 0, 0⟩)

set_option maxRecDepth 100000 in
theorem test_meets_pulses :
    (let s := atTide (put up .tidePps_out_en 1) (get up .tidePps_out_phase 0)
     fn0Up s = true ∧ get s .tidePps_out_en 0 ≠ 0 ∧ s.time.ppsHigh = none ∧ s.time.tide % secNs = get s .tidePps_out_phase 0 % secNs) ∧
    (let s := atTicks { up with time := { up.time with ppsHigh := some 0 } } 100000
     0 + 100000 ≤ s.time.ticks) ∧
    (let s := linked 35
     stampLink s 35 = true ∧ (linkOf s 35).stampAt = none ∧ isParent s 35 = false ∧ mget none s.time.exch 35 = none) ∧
    (let s := put (put (linked 35) .tideCtl_sync_src 4) .tideSync_parent_port 35
     let t := { s with time := { s.time with exch := [(35, some (5, 7))] } }
     stampLink t 35 = true ∧ mget none t.time.exch 35 = some ((tsFields (stamp true 14)).id.toNat, 7) ∧ isParent t 35 = true ∧
      (tsFields (stamp true 14)).depth.toNat ≠ 15) ∧
    (∀ r ∈ [true, false], flitOk (stamp r 14) = true ∧ flitType (stamp r 14) = flitStamp ∧ (tsFields (stamp r 14)).response = r) ∧
    flitOk (stamp true 14 + 2 ^ 40) = false ∧ flitType (stamp true 14 + 2 ^ 40) = flitStamp := by
  decide +kernel

/-- Entry 63 with a committed step. -/
def committed (c undo alt st : Nat) : State :=
  put (put (put (put served .grdJobb_committed c 63) .grdJobb_undo_ok undo 63) .grdJobb_alt_written alt 63) .grdJobb_state st 63

theorem test_meets_commits :
    (let s := committed (2 ^ 32 - 1) 0 1 2
     (0 : BitVec 32).toNat = (get s .grdJobb_committed 63 + 1) % 2 ^ 32 ∧ get s .grdJobb_alt_written 63 ≠ 0) ∧
    (let s := committed 7 0 0 2
     (9 : BitVec 32).toNat ≠ (get s .grdJobb_committed 63 + 1) % 2 ^ 32 ∧ (9 : BitVec 32).toNat ≠ get s .grdJobb_committed 63) ∧
    (let s := committed 0 1 0 3
     (0 : BitVec 32).toNat = get s .grdJobb_committed 63 ∧ (0 : BitVec 32).toNat ≠ (get s .grdJobb_committed 63 + 1) % 2 ^ 32 ∧
      get s .grdJobb_undo_ok 63 ≠ 0) ∧
    (∀ alt ∈ [0, 1], let s := committed 7 0 alt 2
     get s .grdJobb_alt_written 63 = alt ∧ (7 : BitVec 32).toNat = get s .grdJobb_committed 63 ∧
      (8 : BitVec 32).toNat = (get s .grdJobb_committed 63 + 1) % 2 ^ 32 ∧ get s .grdJobb_undo_ok 63 = 0 ∧ s.col.shards = []) ∧
    (let s := { committed 7 0 1 2 with ctl := { served.ctl with commits := [(9, some ⟨true, 8, 0, false, 9, hdr⟩)] } }
     let t := put (put s .grdJoba_valid 1 63) .grdJoba_job 9 63
     mget none t.ctl.commits 9 = some ⟨true, 8, 0, false, 9, hdr⟩ ∧ jobEntry t 9 = some 63) ∧
    get (committed 7 0 0 0) .grdJobb_state 63 = 0 ∧ get (committed 7 0 0 2) .grdJobb_state 63 ≠ 0 := by
  decide +kernel

/-! ### Hypotheses that are met: armed operations and packets -/

/-- A template of slot 32,767, of job 9 and collective 2: two fires of 8 bytes, with a watchdog of 1 µs. -/
def chain (action ctx : Nat) : ChainRec :=
  ⟨32767, [BitVec.ofNat 64 (32767 + 9 * 2 ^ 16 + 2 * 2 ^ 28 + action * 2 ^ 38), 0, 0, BitVec.ofNat 64 (2 + ctx * 2 ^ 16), 0, 0x40, 8, 0x1000000]⟩
/-- Its slot is armed, with fires in flight. -/
def armedBy (r : ChainRec) (fires : List Fire) : State :=
  let t : Structure := { str with chains := [r] }
  let s := { served with shp := { served.shp with act := [(0, t), (1, t), (5, t), (8, t)] }, col := { served.col with fires := fires } }
  put s .colTlive0_state 1 32767
def armed (action ctx : Nat) (fires : List Fire) : State := armedBy (chain action ctx) fires
def fire (sent : Bool) : Fire := ⟨0, 32767, 0, 0, 0, 0, sent, sent, false, 0⟩

theorem test_meets_slots :
    (fn0Up served = true ∧ fnReady served 5 = true) ∧
    (let s := put (armed 0 0xFFFF []) .colTlive0_state 0 32767
     template s 32767 = some (chain 0 0xFFFF) ∧ isArmed s 32767 = false ∧ tAction (chain 0 0xFFFF) ≠ 3 ∧ tJob (chain 0 0xFFFF) = 9) ∧
    (template served 32767 = none ∧ isArmed (armed 0 0xFFFF []) 32767 = true ∧ tJob (chain 0 0xFFFF) ≠ 8 ∧
      template (armed 3 0xFFFF []) 32767 = some (chain 3 0xFFFF) ∧ tAction (chain 3 0xFFFF) = 3) ∧
    (let s := armed 0 0xFFFF []
     let r := chain 0 0xFFFF
     template s (32767 : BitVec 16).toNat = some r ∧ isArmed s r.slot = true ∧ eclipsed s (tJob r) = false ∧
      fireReady s r (tIssued s r.slot) = true ∧ lowerFirst s r = false ∧ gatherGate s (tJob r) (tColl r) (tStep s r.slot) = 0) ∧
    (let s := put (put (put (put (armed 0 0xFFFF []) .grdJoba_valid 1) .grdJoba_job 9) .grdJobc_gcoll_base 2) .grdJobc_gcoll_count 1
     let t := put s .colTlive1_step 1 32767
     let u := put s .colTlive1_step 2 32767
     gatherGate t 9 2 (tStep t 32767) = 1 ∧ fireReady u (chain 0 0xFFFF) 0 = true ∧ lowerFirst u (chain 0 0xFFFF) = false ∧
      1 < gatherGate u 9 2 (tStep u 32767)) ∧
    (let s := put (armed 0 0xFFFF []) .colTlive0_issued 2 32767
     fireReady s (chain 0 0xFFFF) (tIssued s 32767) = false) := by
  decide +kernel

/-- A layout waits in the shadow of a job that has an armed slot. -/
theorem test_meets_layoutWaits : let s0 := armed 0 0xFFFF []
    let h : Shadow := ⟨9, .grdJoba_layout, 63, 5, false⟩
    let s := { s0 with time := { s0.time with shadows := [h] } }
    s.time.shadows.filter (fun h => h.scope == 9 && !h.held) = [h] ∧ jobArmed s 9 = true := by
  decide +kernel

/-- A template whose source is the page on the move at virtual address 0. -/
def chainVa : ChainRec :=
  ⟨32767, [BitVec.ofNat 64 (32767 + 9 * 2 ^ 16 + 2 * 2 ^ 28 + 2 ^ 40), 0, 0, BitVec.ofNat 64 (2 + 0xFFFF * 2 ^ 16), 0, 0x40, 8, 0x1000000]⟩
/-- Page 0 of window 2, at virtual address 0 of job 9, is on the move. -/
def moving9 (s : State) : State :=
  { put s .mmuWinbase_valid 1 with mmu := { s.mmu with wins := [(2, win true)], moves := [⟨false, 1, 2, 0, 0x600000, false, true, 0, none⟩] } }

theorem test_meets_fires :
    (∀ a ∈ [0, 1, 2], let s := armed a 5 [fire false]
      template s (32767 : BitVec 16).toNat = some (chain a 5) ∧ fireOf s 32767 (fun f => !f.sent) = some (fire false) ∧
      tAction (chain a 5) = a ∧ fireCtxBad s (chain a 5) ≠ 0 ∧ fnReady s 5 = true) ∧
    (∀ a ∈ [0, 1], fireCtxBad (armed a 0xFFFF [fire false]) (chain a 0xFFFF) = 0) ∧
    (let s := armed 0 0xFFFF [fire false]
     let m := fireMessage s (chain 0 0xFFFF) 0
     fireHeld s (chain 0 0xFFFF) 0 = false ∧ m.2.1 = 0 ∧ (checkLedger m.1 (chain 0 0xFFFF) 0 m.2.2).2 = true ∧
      (let u := moving9 (armedBy chainVa [fire false])
       template u 32767 = some chainVa ∧ fireOf u 32767 (fun f => !f.sent) = some (fire false) ∧ tAction chainVa = 0 ∧
        fireCtxBad u chainVa = 0 ∧ fireHeld u chainVa 0 = true)) ∧
    (let s0 := armed 2 5 [fire false]
     let t : Structure := { str with chains := [chain 2 5], routes := [⟨9, [0, 1], [(1, 256)]⟩] }
     let s1 := { s0 with shp := { s0.shp with act := [(5, t), (8, t)] }, lnk := [(0, { LinkSt.init with peerPlaced := true })] }
     let s2 := put (put s1 .lnkPstat_state 3 0) .ctlPlace_placed 1
     let s := put (put (put (put s2 .xptCtx0_valid 1 5) .xptCtx0_job 9 5) .xptCtx2_dest_lo 1 5) .xptCtx0_port 0 5
     template s 32767 = some (chain 2 5) ∧ fireCtxBad s (chain 2 5) = 0 ∧ isRoce s (tCtx (chain 2 5)) = false) ∧
    (let s := armed 0 0xFFFF [fire true]
     fireOf s 32767 (fun f => fireIsDone (chain 0 0xFFFF) f && f.k == get s .colTlive0_done 32767) = some (fire true) ∧ isArmed s 32767 = true ∧ tStep s 32767 = (fire true).step ∧
      get s .colTlive0_done 32767 + 1 < tFires (chain 0 0xFFFF) ∧ tDoneEn (chain 0 0xFFFF) = false ∧ eclipsed s 9 = false) ∧
    (wdOver (atTicks (armed 0 0xFFFF []) 1001) (chain 0 0xFFFF) = true ∧ wdOver (atTicks (armed 0 0xFFFF []) 1000) (chain 0 0xFFFF) = false) := by
  decide +kernel

/-- Fires that are done: not the last and the last of two, with done_en 0 and 1; of an armed slot, and of one that is idle or of
another step. -/
theorem test_meets_fireDone : ∀ n ∈ [0, 1], ∀ en ∈ [0, 1],
    let r : ChainRec := ⟨32767, (chain 0 0xFFFF).words.set 0 (BitVec.ofNat 64 (32767 + 9 * 2 ^ 16 + 2 * 2 ^ 28 + en * 2 ^ 45))⟩
    let f : Fire := { fire true with k := n }
    let s := put (armedBy r [f]) .colTlive0_done n 32767
    let is (s : State) := fireOf s 32767 (fun f => fireIsDone r f && f.k == get s .colTlive0_done 32767)
    template s 32767 = some r ∧ is s = some f ∧ isArmed s 32767 = true ∧ tStep s 32767 = f.step ∧ tFires r = 2 ∧
      get s .colTlive0_done 32767 = n ∧ tDoneEn r = decide (en = 1) ∧ get s .tc_value (256 * tTcore r + tDoneTc r) < 2 ^ 32 ∧
      is (put s .colTlive0_state 0 32767) = some f ∧ isArmed (put s .colTlive0_state 0 32767) 32767 = false ∧
      is (armedBy r []) = none := by
  decide +kernel

/-- A packet for this module, of job 9, from context 5. -/
def mol : MolHdr := ⟨1, false, 0, 0, 1, 9, 5, 0, 0, 0, 0⟩
/-- A packet that its link has brought. -/
def brought (p op : Nat) (h : MolHdr) (d : Bytes) : State :=
  setLink (linked p) p { linkOf (linked p) p with pkts := [pktBytes op h d] }

/-- The packet of a row is taken up; its flow's packets go on in turn. -/
theorem test_meets_asks : (∀ op ∈ [1, 2, 4, 5, 8, 9], Asks (takePkt (brought 11 op mol []) 11 op mol []) 11 op mol ∧
      (linkOf (takePkt (brought 11 op mol []) 11 op mol []) 11).pkts = []) ∧
    (∀ op ∈ [1, 2, 4, 5], Asks (takePkt (linked 35) 35 op mol []) 35 op mol) := by
  unfold Asks Lands
  decide +kernel

theorem test_meets_lands : (∀ op ∈ [1, 2, 3, 4, 5, 8, 9, 10, 12, 13, 14, 15], Lands (linked 11) 11 op mol) ∧
    (∀ op ∈ [1, 5, 15], Lands (linked 35) 35 op mol) ∧ Lands (linked 11) 11 15 { mol with version := 2 } := by
  unfold Lands
  decide +kernel

def col (kind : BitVec 4) (job : BitVec 12) (layout : BitVec 8) : ColHdr := ⟨kind, job, layout, 2, 0, 0, 1, false, false, 0, 1, 0, 0, 0, 0, 0⟩

theorem test_meets_collectives :
    (let s := put (put (put (linked 11) .colDl_valid 1 15) .colDl_job 9 15) .colDl_coll 2 15
     dropListed s (col 1 9 0) = true ∧ (colPlace s (col 1 9 0) []).2 = .taken) ∧
    (let s := linked 11
     dropListed s (col 2 8 0) = false ∧ resident s 8 = false ∧ (colPlace s (col 2 8 0) []).2 = .refused 0x06 ∧
      resident s 9 = true ∧ (colPlace s (col 1 9 127) []).2 = .held ∧ (colPlace s (col 1 9 128) []).2 = .refused 0x08 ∧
      (colPlace s (col 3 9 0) []).2 = .dropped ∧ (127 + 256 - layoutOf s 9) % 256 = 127 ∧ (128 + 256 - layoutOf s 9) % 256 = 128) := by
  decide +kernel

/-- Region 5 of job 9 lets every port read and write its first 4 KiB, at virtual address 0 of frame 0x600000. -/
def regioned (s0 : State) : State :=
  let s1 := wrNat (wrNat (wrNat s0 0x30000 8 (1 + 0x40000)) 0x40000 8 (1 + 0x50000)) 0x50000 8 (0x600000 + 1 + 2 + 16)
  let s2 := put (put (put s1 .mmuRoot_valid 1) .mmuRoot_job 9) .mmuRoot_root 3
  put (put (put s2 .xptReg0_valid 1 5) .xptReg0_word0 (9 * 2 ^ 14 + 63 * 2 ^ 26) 5) .xptReg2_word 4096 5

/-- The key of region 5 under its generation, which the module has drawn. -/
def keyOf (s : State) : BitVec 32 := BitVec.ofNat 32 (regionGen s 5 * 65536 + 5)

theorem keyOf_toNat (s : State) : (keyOf s).toNat = regionGen s 5 * 65536 + 5 := by
  have h : regionGen s 5 ≤ 65535 := by unfold regionGen; omega
  rw [keyOf, BitVec.toNat_ofNat]
  omega

/-- Region 5 lets an access by that key in where the rest of it meets R327. -/
theorem grants (s : State) (a : RegAccess) (hk : a.key = (keyOf s).toNat) (hv : regValid s 5 = true) (hj : a.job = regJob s 5)
    (ho : (a.off.isNone || decide (regLen s 5 < a.off.getD 0 + a.len)) = false)
    (hw : (if a.write then regWrite s 5 else regRead s 5) = true) (hp : regPort s 5 (portGroup a.port) = true) : regRefuse s a = none := by
  have e : a.region = 5 := by rw [RegAccess.region, hk, keyOf_toNat]; omega
  have b : bitsOf a.key 15 14 = 0 := by rw [hk, keyOf_toNat]; unfold bitsOf; omega
  have g : a.gen = regionGen s 5 := by rw [RegAccess.gen, hk, keyOf_toNat]; omega
  simp only [Bool.or_eq_false_iff, decide_eq_false_iff_not] at ho
  simp only [regRefuse, e, b, g, hv, hj, hw, hp, ho.1, ho.2]
  simp

/-- The first `n` bytes of region 5, by its key, on a port. -/
def bytesOf5 (s : State) (p n : Nat) : RegAccess := ⟨p, 9, (keyOf s).toNat, some 0, n, false⟩

theorem bytesOf5_va (s : State) (p n : Nat) (h : regBase s 5 = 0) : (bytesOf5 s p n).va s = 0 := by
  have m : (keyOf s).toNat % 16384 = 5 := by rw [keyOf_toNat]; omega
  simp only [bytesOf5, RegAccess.va, RegAccess.region, m, h]
  rfl

/-- A read by the key of region 5 is served where its bytes can be read, and held where a move holds them. -/
theorem served_read (s : State) (p n : Nat) (hr : regRefuse s (bytesOf5 s p n) = none) (hb : regBase s 5 = 0) :
    (rangeMoving s 9 0 n = true → (placeRead s (bytesOf5 s p n) 0).2.1 = .held) ∧
    (rangeMoving s 9 0 n = false → rangeBad s 255 9 0 n false = none → (readVa s 9 255 1 0 n).2.1 = 0 →
      (placeRead s (bytesOf5 s p n) 0).2.1 = .served) := by
  have v := bytesOf5_va s p n hb
  constructor
  · intro hm
    simp only [placeRead, accessMoving, hr, v, show (bytesOf5 s p n).job = 9 from rfl, show (bytesOf5 s p n).len = n from rfl, hm]
    rfl
  · intro hm hx h0
    simp only [placeRead, accessMoving, accessRefuse, hr, v, show (bytesOf5 s p n).job = 9 from rfl,
      show (bytesOf5 s p n).len = n from rfl, show (bytesOf5 s p n).write = false from rfl, hm, hx, h0]
    rfl

theorem test_meets_requests :
    (let s := regioned (linked 35)
     (placeRead s (molAccess 35 { mol with key := keyOf s } 4096 false) 0).2.1 = .served) ∧
    (let s := moving9 (regioned (linked 35))
     (placeRead s (molAccess 35 { mol with key := keyOf s } 4096 false) 0).2.1 = .held) ∧
    (let s := linked 35
     let a := molAccess 35 { mol with key := 5 } 8 true
     regRefuse s a = some 1 ∧ (msgPart s (putKey mol 3)).refused = false ∧ (placeRead s { a with write := false } 0).2.1 = .refused 6 ∧
      get s .xptRefuse0_valid 0 = 0) ∧
    (let s := linked 11
     boardBad s 0 4096 = 0 ∧ boardBad s (2 ^ 46 - 1) 1 ≠ 0 ∧ (writeOff s 9 255 0 [1]).2 = 0 ∧ (readOff s 9 255 0 8).2.1 = 0 ∧
      (1 : BitVec 12).toNat ≠ ownModule s ∧ inService s 11 = true ∧
      dataPort s 11 = true ∧ forwards s = true ∧ (linkOf s 11).pkts = [] ∧ entryVersion (entryFor s 9 1) = 0) ∧
    (let s := { linked 11 with ecc := [⟨.hbm 0, true, false⟩] }
     boardBad s 0 8 = 0 ∧ (writeOff s 9 255 0 [1]).2 ≠ 0 ∧ (readOff s 9 255 0 8).2.1 ≠ 0) := by
  refine ⟨?_, ?_, by decide +kernel, by decide +kernel, by decide +kernel⟩
  · have a : molAccess 35 { mol with key := keyOf (regioned (linked 35)) } 4096 false = bytesOf5 (regioned (linked 35)) 35 4096 := rfl
    simp only [a]
    exact (served_read (regioned (linked 35)) 35 4096 (grants _ _ rfl (by decide +kernel) (by decide +kernel) (by decide +kernel)
      (by decide +kernel) (by decide +kernel)) (by decide +kernel)).2 (by decide +kernel) (by decide +kernel) (by decide +kernel)
  · have a : molAccess 35 { mol with key := keyOf (moving9 (regioned (linked 35))) } 4096 false =
      bytesOf5 (moving9 (regioned (linked 35))) 35 4096 := rfl
    simp only [a]
    exact (served_read (moving9 (regioned (linked 35))) 35 4096 (grants _ _ rfl (by decide +kernel) (by decide +kernel)
      (by decide +kernel) (by decide +kernel) (by decide +kernel)) (by decide +kernel)).1 (by decide +kernel)

theorem test_meets_refusedMessage : let s := linked 35
    (msgPart { s with xpt := { s.xpt with parts := [⟨putKey mol 3, 4096, none, true⟩] } } (putKey mol 3)).refused = true := by
  decide +kernel

/-- A context with a packet of number 0 that is not acknowledged. -/
def waitingCtx (s : State) (p op : Nat) (d : Bytes) : State :=
  setCtx s 5 { CtxSt.init with unacked := [⟨0, ⟨p, op, mol, d⟩, .none, 0, true⟩] }

theorem test_meets_acks :
    (let s := waitingCtx (linked 11) 11 1 []
     let u : Unacked := ⟨0, ⟨11, 1, mol, []⟩, .none, 0, true⟩
     ctxNum mol.srcCtx = 5 ∧ (ctxOf s 5).unacked.find? (sentAs 11 0) = some u ∧ (ctxOf s 5).unacked ≠ [] ∧ (ctxOf s 5).queue = [] ∧
      LandsAwake s 11 0xD mol) ∧
    (∀ op ∈ [0xC, 0xD, 0xE, 0xF, 0x3, 0xA], let s := takePkt (put (linked 11) .pwrStat_state 1) 11 op mol []
     Lands s 11 op mol ∧ dozing s = true) ∧
    (∀ op ∈ [0xC, 0xE, 0xF, 0x3, 0xA], LandsAwake (takePkt (linked 11) 11 op mol []) 11 op mol) ∧
    ((1 : BitVec 2).toNat ≠ 2 ∧ (2 : BitVec 2).toNat = 2) ∧
    (let s := waitingCtx (linked 11) 11 1 []
     let n := ctxTimeout s 5
     fnReady s 5 = true ∧ (ctxOf s 5).since + n ≤ (atTicks s n).time.ticks ∧ (n ≠ 0 → (atTicks s (n - 1)).time.ticks < (ctxOf s 5).since + n)) := by
  unfold LandsAwake Lands
  decide +kernel

/-- Context 7 is a RoCEv2 context of job 9 on port 46. -/
def roced : State := put (put (put (put (linked 46) .xptCtx0_valid 1 7) .xptCtx0_type 1 7) .xptCtx0_job 9 7) .xptCtx0_epsn (2 ^ 24 - 1) 7
def roce (psn : BitVec 24) : RoceHdr := ⟨0xFFFF0A000002, 0x10007, psn, false, true, 0, 0, 8⟩

theorem test_meets_roce : RoceLands roced 46 (roce 0xFFFFFF) 7 ∧ RoceExpected roced (roce 0xFFFFFF) 7 ∧
    (∀ p ∈ [0, 0x7FFFFE], (BitVec.ofNat 24 p).toNat < 2 ^ 24 ∧ 0 < (p + 2 ^ 24 - get roced .xptCtx0_epsn 7) % 2 ^ 24 ∧
      (p + 2 ^ 24 - get roced .xptCtx0_epsn 7) % 2 ^ 24 < 2 ^ 23) ∧
    dozing roced = false ∧ waitsForJob roced (get roced .xptCtx0_job 7) = false ∧
    (ctxOf roced 7).unacked.find? (fun u => u.pkt.op == opRead && u.psn == 0) = none ∧
    (∀ n ∈ [1, 4096], let u : Unacked := ⟨0, ⟨46, opRead, mol, toLe 4 n⟩, .none, 0, true⟩
      let s := setCtx roced 7 { CtxSt.init with unacked := [u] }
      (ctxOf s 7).unacked.find? (fun u => u.pkt.op == opRead && u.psn == 0) = some u ∧ asked u = n ∧ bytesMoving s u n = false) ∧
    waitsForRead roced (roce 0) = false ∧ roceMtu = 4096 ∧
    (let h := { roce 0xFFFFFF with key := 5 }
     (placeWrite roced (roceAccess roced 46 7 h 8 true) [3, 7] (some 0) 0 (toLe 8 0)).2 = .refused 6 ∧
      (placeRead roced (roceAccess roced 46 7 h 8 false) 0).2.1 = .refused 6) := by
  unfold RoceLands RoceExpected
  decide +kernel

/-- A RoCEv2 read by the key of region 5 is served. -/
theorem test_meets_roceReads : let s := regioned roced
    (placeRead s (roceAccess s 46 7 { roce 0xFFFFFF with key := keyOf s } 8 false) 0).2.1 = .served := by
  have m : (keyOf (regioned roced)).toNat % 16384 = 5 := by rw [keyOf_toNat]; omega
  have a : roceAccess (regioned roced) 46 7 { roce 0xFFFFFF with key := keyOf (regioned roced) } 8 false = bytesOf5 (regioned roced) 46 8 := by
    simp only [roceAccess, m]
    rw [show get (regioned roced) .xptCtx0_job 7 = 9 by decide +kernel, show regBase (regioned roced) 5 = 0 by decide +kernel]
    rfl
  simp only [a]
  exact (served_read (regioned roced) 46 8 (grants _ _ rfl (by decide +kernel) (by decide +kernel) (by decide +kernel)
    (by decide +kernel) (by decide +kernel)) (by decide +kernel)).2 (by decide +kernel) (by decide +kernel) (by decide +kernel)

theorem test_meets_contexts : fn0Up served = true ∧ get served .xptCtx0_valid 65534 = 0 ∧
    get (put served .xptCtx0_valid 1 65534) .xptCtx0_valid 65534 ≠ 0 ∧
    (let s := atTicks (setCtx served 65534 { CtxSt.init with rate := 65535, rateAt := some 0 }) 50000
     (ctxOf s 65534).rateAt = some 0 ∧ 0 + 50000 ≤ s.time.ticks ∧ (ctxOf s 65534).rate < 65536 ∧ fnReady s 5 = true) := by
  decide +kernel

/-- Context 5 in use with a descriptor that names it; with a packet that a fire owns; with one that nothing owns. -/
theorem test_meets_contextEnds : let s := put served .xptCtx0_valid 1 5
    let d := desc 1 none [BitVec.ofNat 64 (2 + 5 * 2 ^ 46), 0, 64, 0]
    let u (o : Owner) : Unacked := ⟨0, ⟨35, 1, mol, []⟩, o, 0, true⟩
    let own (o : Owner) := setCtx s 5 { CtxSt.init with unacked := [u o] }
    ctxDesc (setCore s 0 { coreOf s 0 with flight := [d] }) 5 = some (0, d) ∧
    (ctxDesc (own (.fire 3)) 5 = none ∧
      ((ctxOf (own (.fire 3)) 5).unacked ++ (ctxOf (own (.fire 3)) 5).queue).find? (fun u => decide (u.owner ≠ .none)) =
        some (u (.fire 3))) ∧
    (ctxDesc (own .none) 5 = none ∧ ∀ u ∈ (ctxOf (own .none) 5).unacked ++ (ctxOf (own .none) 5).queue, u.owner = .none) ∧
    get s .xptCtx0_valid 5 ≠ 0 ∧ fn0Up s = true ∧ fnReady s 5 = true := by
  decide +kernel

/-! ### Hypotheses that are met: links, moves, media and every step -/

/-- A flit with its check value, from its first 252 bytes. -/
def sealFlit (v : Nat) : BitVec 2048 :=
  BitVec.ofNat 2048 (v + (crc32 ((flitBytes (BitVec.ofNat 2048 v)).take 252)).toNat * 2 ^ 2016)

set_option maxRecDepth 100000 in
/-- The layout of a flit (R401): type, sequence number, acknowledgement; then the payload. -/
theorem test_flitLayout : mkFlit flitRetry 0x123 0x456 0x789 =
    sealFlit (2 + 0x123 * 2 ^ 4 + 0x456 * 2 ^ 16 + 0x789 * 2 ^ 32) := by
  decide +kernel

set_option maxRecDepth 100000 in
theorem test_meets_flits :
    molLink (linked 35) 35 = true ∧
    (let f := sealFlit 1
     flitOk f = true ∧ flitType f = 1 ∧ flitSeq f = (linkOf (ackFlits (linked 35) 35 (flitAck f)) 35).rxNext) ∧
    (let f := sealFlit (1 + 16 * 4095)
     flitOk f = true ∧ flitType f = 1 ∧ flitSeq f ≠ (linkOf (ackFlits (linked 35) 35 (flitAck f)) 35).rxNext) ∧
    (∀ k ∈ [0, 2, 3], flitOk (sealFlit k) = true ∧ flitType (sealFlit k) = k) ∧
    (∀ k ∈ [1, 2, 3], ctlKind (sealFlit (3 + k * 2 ^ 32)) = k ∧ flitOk (sealFlit (3 + k * 2 ^ 32)) = true) ∧
    (flitOk (sealFlit 1 + 1) = false ∧ (linkOf (linked 35) 35).discard = false) ∧
    (let s := setLink (linked 35) 35 { linkOf (linked 35) 35 with discard := true }
     molLink s 35 = true ∧ (linkOf s 35).discard = true) := by
  decide +kernel

/-- Every flit reaches the retry request's row as its first 4 bytes and the others. -/
theorem test_retryOperands : ∀ f ∈ [sealFlit 2, sealFlit 2 + 1], ∃ head rest, joinFlit head rest = f :=
  fun f _ => ⟨_, _, joinFlit_parts f⟩

theorem test_meets_lanes :
    (let s := setLink (linked 35) 35 { linkOf (linked 35) 35 with episode := some 0 }
     let n := 1000 * max 10 (get s .lnkCtl_retry_us 0)
     (linkOf s 35).episode = some 0 ∧ isModulePort 35 = true ∧ fnReady s 8 = true ∧ 0 + n < (atTicks s (n + 1)).time.ticks ∧
      (atTicks s n).time.ticks ≤ 0 + n) ∧
    (let s := put (linked 29) .lnkPstat_lanes_ok 0xFF 29
     liveLanes s 29 0x80 ≠ 0 ∧ isMolind 29 = true ∧ molLink s 29 = true ∧ inService s 29 = true ∧ (linkOf s 29).hitless = true ∧
      BitVec.ofNat 8 (get s .lnkPstat_lanes_ok 29) &&& ~~~(0x7F : BitVec 8) ≠ 0 ∧ fnReady s 8 = true ∧
      liveLanes s 29 (failedLanes s ⟨0, [0xFFFFFFFF], []⟩) ≠ 0 ∧ liveLanes s 29 (failedLanes s ⟨0, [], []⟩) = 0) := by
  decide +kernel

/-- A lane fails by more than 2^ser_log2 symbol errors or by fec_ue codewords, and 0 counts as 1 there (R408). -/
theorem test_laneLimits : let s := put (put up .lnkCtl_ser_log2 4) .lnkCtl_fec_ue 0
    (∀ x ∈ [(16, 0), (17, 1)], failedLanes s ⟨0, [BitVec.ofNat 32 x.1], []⟩ = x.2) ∧
    (∀ x ∈ [(0, 0), (1, 2)], failedLanes s ⟨0, [], [0, BitVec.ofNat 16 x.1]⟩ = x.2) := by
  decide +kernel

def cap : CapFlit := ⟨3, 3, 1, 0xFF, true, true, 0, 1, 1, 0, 1, 7, 3⟩

set_option maxRecDepth 100000 in
/-- A capability payload carries every field (R405). -/
theorem test_capabilityReads : capFields (mkFlit flitControl 1 0 (capPayload cap)) = cap ∧
    ctlKind (mkFlit flitControl 1 0 (capPayload cap)) = 1 ∧ ctlKind (mkFlit flitControl 1 0 (dropPayload 0x81)) = 2 ∧
    ctlLanes (mkFlit flitControl 1 0 (dropPayload 0x81)) = 0x81 := by
  decide +kernel

theorem test_meets_links :
    (portPresent served 29 = true ∧ fnReady served 8 = true) ∧
    (let s := put (put served .lnkPctl_en 1 29) .lnkPstat_state 1 29
     get s .lnkPctl_en 29 ≠ 0 ∧ get s .lnkPctl_prbs 29 = 0 ∧ lnkState s 29 = 1) ∧
    (let s := put (put served .lnkPctl_en 1 29) .lnkPstat_state 5 29
     lnkState s 29 = 5 ∧ isMolind 29 = true) ∧
    (let s := put served .lnkPstat_state 2 29
     isModulePort 29 = true ∧ lnkState s 29 ≠ 0 ∧ lnkState s 29 ≠ 1 ∧ placed s = false) ∧
    (let s := atTicks (linked 29) 10000
     (linkOf s 29).capAcked = false ∧ (linkOf s 29).own ≠ 0 ∧ (linkOf s 29).capAt + 10000 ≤ s.time.ticks) ∧
    (let s := put (put served .lnkPctl_en 1 29) .lnkPstat_state 0 29
     get s .lnkPctl_en 29 ≠ 0 ∧ lnkState s 29 = 0 ∧ (linkOf s 29).downAt + 100000000 ≤ (atTicks s 100000000).time.ticks ∧
      (atTicks s 99999999).time.ticks < (linkOf s 29).downAt + 100000000) ∧
    (let s := atTicks (put (linked 29) .lnkPctl_lpi_dis 0 29) (1000 * max 1 (get served .lnkCtl_lpi_us))
     isMolind 29 = true ∧ lnkState s 29 = 3 ∧ get s .lnkPctl_lpi_dis 29 = 0 ∧ idleLong s 29 = true) ∧
    (let s := put (setLink (linked 29) 29 { linkOf (linked 29) 29 with replay := [(0, 0)], unsent := 1 }) .lnkPstat_state 4 29
     lnkState s 29 = 4 ∧ (linkOf s 29).unsent ≠ 0) ∧
    (∀ p ∈ [35, 46], let s := put (put (put served .lnkPctl_en 1 p) .lnkPstat_state 1 p) .lnkPctl_eth_modes 4 p
      (isGlobal p = true ∨ isFront p = true) ∧ portPresent s p = true ∧ lnkState s p = 1 ∧ topMode (ownModes s p &&& 7) ≠ 0) ∧
    (tst 0x5 0 = true ∧ tst 0x5 10 = false ∧ tst 0x5 2 = true ∧ tst 0x401 10 = true ∧ tst 0 0 = false) ∧
    (let s := put (put (linked 46) .lnkEv4_valid 1 6) .lnkEv4_addr 0x0A000001 6
     inService s (40 + 6) = true ∧ ethOwn s 6 false 0x0A000001 = true ∧ ethOwn s 6 false 0x0A000002 = false) ∧
    placed (put served .ctlPlace_placed 1) = true ∧ placed served = false := by
  decide +kernel

/-- Window 2's page 3 with the unit enabled, a pool of 4 frames with `free` of them free and marks of 0. -/
def pooled (free : Nat) : State :=
  put (put (kv true 0 (0x600000 + 1 + 2) (kvDesc 4 1 [])) .mmuCtl_kv_en 1) .mmuPoolb_free free 1
/-- The same with a move of the page in progress. -/
def moving (ret : Bool) : State :=
  let s := pooled 0
  { s with mmu := { s.mmu with moves := [⟨ret, 1, 2, 3, 0x600000, false, true, 0, none⟩] } }

theorem test_meets_moves :
    (fnReady served 7 = true ∧ fn0Up served = true ∧ get served .mmuInval_done 0 ≠ 0) ∧
    (let s := put served .mmuInval_done 0
     get s .mmuInval_done 0 = 0 ∧ invalBusy s = false ∧ invalBusy (put (moving true) .mmuInval_kind 2) = true) ∧
    (let s := put (put (put served .mmuPoolb_size 4 63) .mmuPoolc_lwm 4 63) .mmuPoolc_hwm 4 63
     get s .mmuPoola_en 63 = 0 ∧ get s .mmuPoolc_lwm 63 ≤ get s .mmuPoolc_hwm 63 ∧ get s .mmuPoolc_hwm 63 ≤ get s .mmuPoolb_size 63) ∧
    (let s := pooled 3
     unitRuns s 1 = true ∧ demandDue s 1 = false ∧ spillDue s 1 = true ∧ oldestPage s 1 = some (7, 2, 3) ∧ spillDue (pooled 4) 1 = false) ∧
    (let s0 := pooled 1
     let q : KvReq := ⟨2, 3, 1, true, false⟩
     let s := { s0 with mmu := { s0.mmu with reqs := [q] } }
     unitRuns s 1 = true ∧ lookFirst s 1 = s ∧ nextReturn s 1 = some q ∧ get s .mmuPoolb_free 1 ≠ 0 ∧ demandDue s 1 = true) ∧
    (let s0 := pooled 0
     let q : KvReq := ⟨2, 3, 1, false, true⟩
     let s := lookFirst { s0 with mmu := { s0.mmu with reqs := [q] } } 1
     (nextReturn s 1).isSome = (oldestPage s 1).isNone ∧ get s .mmuPoolb_free 1 = 0) ∧
    (∀ ret ∈ [true, false], moveOf (moving ret) 2 3 = some ⟨ret, 1, 2, 3, 0x600000, false, true, 0, none⟩) ∧
    (let s := moving false
     let r := winWords s 2
     pdBad s r 3 = 0 ∧ (l3Addr s (wJob r) (pageVa r 3)).isNone = false ∧ pushBad s 1 = 0 ∧
      moveLost s ⟨true, 1, 2, 3, 0x600000, false, true, 0, none⟩ = false ∧
      moveLost { s with ecc := [⟨.hbm (0x100C0 / 64), true, false⟩] } ⟨true, 1, 2, 3, 0x600000, false, true, 0, none⟩ = true ∧
      pdBad { s with ecc := [⟨.hbm (0x100C0 / 64), true, false⟩] } r 3 ≠ 0) ∧
    (let s := put served .hbmCtl_scrub_hours 1
     get s .hbmCtl_scrub_hours 0 ≠ 0 ∧ inHbm s (64 * (variantHbmBytes s.fuses.variant / 64 - 1)) = true ∧
      readFault s (64 * 5) 64 = none ∧ readFault { s with ecc := [⟨.hbm 5, true, false⟩] } (64 * 5) 64 = some (.hbm 5)) := by
  decide +kernel

/-- Engine 1 has a record of the operation given at the head of its ring. -/
def ringed (op : Nat) : State :=
  put (put (wrNat served 0x1000 8 op) .medRing_en 1 1) .medTail_tail 1 1 |> fun s => put s .medRing_base 0x1000 1

theorem test_meets_media :
    (∀ op ∈ [0, 2, 0x122], let s := ringed op
      let o := ringBase s 1 + 64 * (get s .medHead_head 1 % ringSize s 1)
      let x := readOff s 0 255 o 64
      fnReady s 6 = true ∧ running s = true ∧ ringBusy s 1 = true ∧ (medOf s 1).task = none ∧ inHbm s o = true ∧ x.2.1 = 0 ∧
      resident s (mJob (medWords x.2.2)) = decide (op = 0x122) ∧ eclipsed s (mJob (medWords x.2.2)) = false ∧
      medMoving s (medWords x.2.2) = false ∧ (mOp (medWords x.2.2) = 2 ↔ op ≠ 0)) ∧
    (let k : MedTask := ⟨[], [], none, [], [], [], 0, 0, 0, 0, none⟩
     let e := { k with err := some (1, 2, 3, 4) }
     (medOf (setMed served 1 ⟨some k⟩) 1).task = some k ∧ (medOf (setMed served 1 ⟨some e⟩) 1).task = some e) := by
  decide +kernel

/-- What a task has to write lies in no view, or in a gradient view of a job whose step is committing. -/
theorem test_meets_closedViews : let k : MedTask := ⟨[BitVec.ofNat 64 (9 * 2 ^ 5), 0, 0, 0x10000, 0, 0, 0, 0], [], none, [(0x20000, [1])], [], [], 0, 0, 0, 0, none⟩
    let s0 := put (put (put (put (put served .grdJoba_valid 1) .grdJoba_job 9) .grdBra_valid 1) .grdBra_job 9) .grdBra_kind 1
    let s := put (put s0 .grdBra_view 2) .grdBrb_length 1
    closedAt s (mJob k.rec_) (lastWrites k) = none ∧ closedAt (put s .grdJobb_state 2) (mJob k.rec_) (lastWrites k) = some 0x20000 ∧
      running s = true ∧ fnReady s 6 = true := by
  decide +kernel

theorem test_meets_scrubPauses : dozing (put served .pwrStat_state 1) = true ∧ dozing served = false := by
  decide +kernel

/-- The filler slot of core 0 has a group beside the primary, or alone. -/
theorem test_meets_fillClock : let two (l : List GroupRec) : State :=
      { home with shp := { home.shp with act := [(0, str), (1, { str with groups := l, fills := [⟨4, 2, 0⟩] }), (5, str), (8, str)] } }
    (let s := two [⟨3, 9, 0, 0, 1⟩, ⟨4, 9, 0, 0, 1⟩]
     coreUp s 0 = true ∧ slotGroup s 0 .prim ≠ none ∧ slotGroup s 0 .fill ≠ none) ∧
    (let s := two [⟨4, 9, 0, 0, 1⟩]
     slotGroup s 0 .prim = none ∧ slotGroup s 0 .fill ≠ none) := by
  decide +kernel

/-- A filler with a launch that may start, beside a primary slot that holds a job and has nothing to do: the gate is shut, the filler counts
cause 1 and `CORE_FILL_GATED` (R340, R345), and the gate stays shut where the host record has no bit for cause 1 (R339). -/
theorem test_gateShut : let s0 : State := { home with shp := { home.shp with act := [(0, str), (1, { str with
        groups := [⟨3, 9, 0, 0, 1⟩, ⟨4, 9, 0, 0, 1⟩], fills := [⟨4, 2, 0⟩] }), (5, str), (8, str)] } }
    let s := setCore s0 0 { (coreOf s0 0).setSlot .fill { SlotSt.init with queue := [launch] } with gate := false }
    let u := setCore s 0 { coreOf s 0 with gate := true }
    let t := after (.arithmeticClockTick 0) s
    coreUp s 0 = true ∧ slotGroup s 0 .prim ≠ none ∧ slotGroup s 0 .fill ≠ none ∧ slotCause s 0 .fill = (1, true) ∧
      slotCause u 0 .fill = (0, false) ∧ get t .coreFillGated_clk 0 = 1 ∧ get t .coreIdleF_clk 1 = 1 ∧ (coreOf t 0).gate = false ∧
      s.num.due = [] := by
  decide +kernel

theorem test_meets_clock : coreUp home 0 = true ∧ slotGroup home 0 .prim ≠ none ∧ slotGroup home 0 .fill = none ∧
    slotGroup up 0 .prim = none ∧ coreUp (put home .pwrStat_state 1) 0 = false := by
  decide +kernel

/-- A step from a state in form answers a next state. -/
theorem test_meets_steps : memWf home = true ∧ regsFit home.regs ∧ ∃ t, step { home with pending := [.numOpclrAll] } = .next t :=
  ⟨by decide +kernel, up_fit, _, rfl⟩

/-! ### Results worked out from the spec -/

/-- The word of SADD S3 = S1 + S2 under P5 inverted, written out from R146: imm, sub, rnd, smode, fmt, rc, rb, ra, rd, pneg, pred
and opcode 0x21. -/
theorem test_registerWord : regWord 0x21 ⟨5, true, 0, 3, 1, 2, 4, 6, 1, 2, 9, 0, 0x8000000000000001⟩ =
    0x8000000000000001 * 2 ^ 64 + 0b000000000000_1001_10_01_0110_000100_000010_000001_000011_0000_1_101_00100001 := by decide

/-- S1 is all ones and S2 is 3 (the opcode table of 05). -/
theorem test_scalarResults : let f := { form with ra := 1, rb := 2 }
    ∀ x ∈ [(Instr.sadd 0 .prim f, 0x21, 2), (.ssub 0 .prim f, 0x22, 2 ^ 64 - 4), (.smul 0 .prim f, 0x23, 2 ^ 64 - 3),
      (.sand 0 .prim f, 0x24, 3), (.sor 0 .prim f, 0x25, 2 ^ 64 - 1), (.sxor 0 .prim f, 0x26, 2 ^ 64 - 4),
      (.sshl 0 .prim f, 0x27, 2 ^ 64 - 8), (.sshr 0 .prim f, 0x28, 2 ^ 61 - 1), (.ssra 0 .prim f, 0x29, 2 ^ 64 - 1)],
    sregOf (after x.1 (at0 (regWord x.2.1 f))) 0 .prim 31 = x.2.2 := by
  decide +kernel

/-- S0 discards the write and the task still goes on (R143). -/
theorem test_scalarToS0 : let f := { formI with rd := 0 }
    let t := after (.smovi 0 .prim f) (at0 (regWord 0x20 f))
    sregOf t 0 .prim 0 = 0 ∧ (taskOf t 0 .prim).map (·.index) = some 1 := by
  decide +kernel

/-- -1 is below 3 as a signed number and not as an unsigned one. -/
theorem test_compareSigned : ∀ x ∈ [(4, 2 ^ 512 - 1), (8, 0)], let f := { form with rd := 7, ra := 1, rb := 2, sub := BitVec.ofNat 4 x.1 }
    (pregOf (after (.scmp 0 .prim f) (at0 (regWord 0x2A f))) 0 .prim 7).toNat = x.2 := by
  decide +kernel

/-- LOOP takes S2 from 3 to 2 and goes back by one. -/
theorem test_loopGoesBack : let f := { form with ra := 2, imm := 0xFFFFFFFFFFFFFFFF }
    let t := after (.loop 0 .prim f) (at0 (regWord 0x03 f))
    sregOf t 0 .prim 2 = 2 ∧ (taskOf t 0 .prim).map (·.index) = some (idxMod - 1) := by
  decide +kernel

/-- TCADD holds at 2^32 - 1 with overflow set (R162). -/
theorem test_counterSaturates : let f := { formI with imm := 0x3000000FF }
    let t := after (.tcadd 0 .prim f) (put (at0 (regWord 0xA1 f)) .tc_value (2 ^ 32 - 2) 255)
    get t .tc_value 255 = 2 ^ 32 - 1 ∧ get t .tc_overflow 255 = 1 := by
  decide +kernel

/-- A store and a load of local SRAM keep the byte order (R103). -/
theorem test_storeLittleEndian : let f := { form with ra := 0, rb := 2, imm := 8 }
    let t := after (.sst 0 .prim f) (at0 (regWord 0x2D f))
    rdByte t (sramBase 0 + 8) = 3 ∧ rdByte t (sramBase 0 + 9) = 0 := by
  decide +kernel

/-- A launch starts with its arguments and its rank (R138). -/
theorem test_launchArguments : let t := after (.launchStart 0 .prim) (queued launch)
    sregOf t 0 .prim 1 = 7 ∧ sregOf t 0 .prim 2 = 8 ∧ sregOf t 0 .prim 3 = 0 ∧ (slotOf t 0 .prim).queue = [] := by
  decide +kernel

/-- The MX block of the worked example in 06: scale byte 0x78, E4M3 codes 0x7C, 0xE8, 0x20 and 0x00, one flushed. -/
theorem test_mxBlock : let r := convertBlock 2 6 0 ([0x40466666, 0xBF000000, 0x3A83126F, 0x358637BD].map (fun x => (decodeNum fp32 x, true, 0)))
    r.1 = [some 0x7C, some 0xE8, some 0x20, some 0x00] ∧ r.2.1 = 0x78 ∧ r.2.2.flushed = 1 ∧ r.2.2.zeros = 1 := by
  decide +kernel

/-- Under rounding code 2 its first element becomes 416 where the generator bits are 39,322 or more. -/
theorem test_mxStochastic : ∀ x ∈ [(39322, 0x7D), (39321, 0x7C)],
    (convertBlock 2 6 2 [(decodeNum fp32 0x40466666, true, x.1)]).1 = [some x.2] := by
  decide +kernel

/-- With 3.6 as the largest element the scale is the same, and it saturates at 448. -/
theorem test_mxSaturates : let r := convertBlock 2 6 0 [(decodeNum fp32 0x40666666, true, 0)]
    r.1 = [some 0x7E] ∧ r.2.1 = 0x78 ∧ r.2.2.saturated = 1 := by
  decide +kernel

/-- The E2M1 block of the same example: scale byte 0x22, nibbles 7, 0xC, 1 and 0. -/
theorem test_e2m1Block : let r := convertBlock 3 9 0 ([0x3F666666, 0xBE99999A, 0x3D23D70A, 0x3D0F5C29].map (fun x => (decodeNum fp32 x, true, 0)))
    r.1 = [some 7, some 0xC, some 1, some 0] ∧ r.2.1 = 0x22 ∧ r.2.2.flushed = 1 := by
  decide +kernel

/-- FP32: 1 + 2^-24 is a tie and rounds to the even 1; 1 + 3 × 2^-24 rounds up to 1 + 2^-22; toward zero both stay below (R199). -/
theorem test_fp32Ties : ∀ x ∈ [(0, 1, 0x3F800000), (0, 3, 0x3F800002), (1, 1, 0x3F800000), (1, 3, 0x3F800001)],
    (arithOut fp32 true x.1 true true (.fin false (2 ^ 24 + x.2.1) (-24))).1 = x.2.2 := by
  decide +kernel

/-- Fast mode flushes a sum that is below 2^-126, and strict mode keeps it (R190, R192). -/
theorem test_flush : (arithOut fp32 false 0 true true (.fin false 1 (-130))).1 = 0 ∧
    (arithOut fp32 true 0 true true (.fin false 1 (-130))).1 = 2 ^ 19 := by
  decide +kernel

/-- 1 / 3 rounded toward zero, and 1 / 4; the logarithm of +0 is minus infinity (R160). -/
theorem test_transcendental : (truncOut fp32 true true (numRcp (decodeNum fp32 0x40400000))).1 = 0x3EAAAAAA ∧
    (truncOut fp32 true true (numRcp (decodeNum fp32 0x40800000))).1 = 0x3E800000 ∧
    (truncOut fp32 true true (numLog true (decodeNum fp32 0))).1 = 0xFF800000 := by
  decide +kernel

/-- The worked route of 01: K0 of module 1,303 leads to 1,307, and G2 of module 168 to 1,303 in a machine of 128 groups. -/
theorem test_workedRoute : ((peerPlace (placeOfNumber 168) 128 34).map Place.number) = some 1303 ∧
    ((peerPlace (placeOfNumber 1303) 128 16).map Place.number) = some 1307 ∧
    ((peerPlace (placeOfNumber 169) 128 8).map Place.number) = some 168 := by
  decide +kernel

/-- `RST_STAT` right after reset: FN1 to FN8 in reset, FN0 ready (R464). -/
theorem test_resetStatus : get State.reset .rstStat_in_reset = 0x1FE ∧ get State.reset .rstStat_ready = 1 := by decide +kernel

/-- A CSR read of an offset that no register has answers, and nothing else changes. -/
theorem test_readAnswers : let t := after (.csrRead hdr0 [0x40000, 0x3FFFFF8]) State.reset
    t.out.length = 1 ∧ get t .ctlCmdCnt_executed = 1 := by
  decide +kernel

/-- The committed step wraps at 2^32 (R386). -/
theorem test_commitWraps : let t := commitApply (committed (2 ^ 32 - 1) 0 1 2) 9 63 ⟨true, 0, 0, false, 0, hdr0⟩
    get t .grdJobb_committed 63 = 0 ∧ get t .grdJobb_undo_ok 63 = 1 := by
  decide +kernel

/-- A copy of 64 bytes within local SRAM (R309). -/
theorem test_copyMoves : let d := desc 1 none copyWords
    let t := after (.dmaCopy 0 1) (wrByte (queues 0 [] [d]) (sramBase 0 + 63) 0xA5)
    rdByte t (sramBase 0 + 127) = 0xA5 ∧ (flightOf t 0 1).map (·.moved) = some true := by
  decide +kernel

/-- A fraction of 2^32 - 1 and a correction of 2^-32 carry one ns more (R30). -/
theorem test_tideFraction : let s := { up with time := { up.time with frac := 2 ^ 32 - 1, freq := 1 } }
    let t := after .tideTick s
    t.time.tide = 2 ∧ t.time.frac = 0 := by
  decide +kernel

/-- SHA-256 of "abc", the test vector of FIPS 180-4. -/
theorem test_sha256 : beNat (sha256 [0x61, 0x62, 0x63]) = 0xBA7816BF8F01CFEA414140DE5DAE2223B00361A396177A9CB410FF61F20015AD := by
  decide +kernel

set_option maxRecDepth 100000 in
/-- A data flit in its turn is taken, the packet in its payload is found by its length, the fill after it is passed over, and the next
flit is expected and acknowledged (R401, R402). -/
theorem test_flitTaken : let t := after (.linkDataFlitRx 35 (sealFlit (1 + 0xA5 * 2 ^ 32))) (linked 35)
    (linkOf t 35).rxNext = 1 ∧ (linkOf t 35).pkts = [0xA5 :: List.replicate 31 0] ∧ (linkOf t 35).rx = [] ∧ t.out.length = 1 := by
  decide +kernel

/-- The word of SADD stands in the buffer, and it is no word of NOP nor of TLOAD. -/
theorem test_meets_otherWords : let s := at0 (regWord 0x21 form)
    lineOf s 0 .prim = some (BitVec.ofNat 128 (regWord 0x21 form)) ∧ IbufGood s 0 = true ∧
      (BitVec.ofNat 128 (regWord 0x21 form)).toNat ≠ regWord 0x00 form ∧
      (BitVec.ofNat 128 (regWord 0x21 form)).toNat ≠ tensorWord 0x40 tform := by
  decide +kernel

/-- A step takes the front command and leaves the rest. -/
theorem test_stepOrder : (match step { home with pending := [.numOpclrAll, .powerOn] } with
    | .next t => t.pending
    | _ => []) = [.powerOn] := by
  decide +kernel

end Sys2Proof.Tests
end

section
/-!
What every command and every step keeps: the statements of scope. Laws/Sound has one lemma for each meaning; here they are joined into
one for `exec` and one for `step`.
-/
namespace Sys2Proof.Machine

/-- From a sound state every command goes on to a sound one: its row's meaning does. -/
theorem exec_goes {u : Fuses} {q : List Instr} {s : State} (hs : Sound u q s) (i : Instr) : Goes u q (exec i s) := by
  cases i with
  | powerOn => exact execPowerOn_sound hs
  | holdNAssert => exact execHoldNAssert_sound hs
  | holdNRelease => exact execHoldNRelease_sound hs
  | modResetTakesEffect => exact execModResetTakesEffect_sound hs
  | resetSequenceStage => exact execResetSequenceStage_sound hs
  | thermalTrip => exact execThermalTrip_sound hs ..
  | thermalTripCleared => exact execThermalTripCleared_sound hs
  | inputFault => exact execInputFault_sound hs ..
  | refclkLoss => exact execRefclkLoss_sound hs
  | inputRecovered => exact execInputRecovered_sound hs
  | controlFrameMalformed => exact execControlFrameMalformed_sound hs ..
  | runtDatagramRx => exact execRuntDatagramRx_sound hs ..
  | ipFragmentRx p => exact execIpFragmentRx_sound hs p
  | oversizeFrameRx p => exact execOversizeFrameRx_sound hs p
  | controlFrameOnDataPort => exact execControlFrameOnDataPort_sound hs ..
  | dataPacketOnControlPort p => exact execDataPacketOnControlPort_sound hs p
  | unknownOpcode => exact execUnknownOpcode_sound hs ..
  | releasedCommandStart => exact execReleasedCommandStart_sound hs ..
  | csrRead => exact execCsrRead_sound hs ..
  | csrWrite => exact execCsrWrite_sound hs ..
  | imageBegin => exact execImageBegin_sound hs ..
  | imageData => exact execImageData_sound hs ..
  | imageEnd => exact execImageEnd_sound hs ..
  | imageAbort => exact execImageAbort_sound hs ..
  | modReset => exact execModReset_sound hs ..
  | rstFn => exact execRstFn_sound hs ..
  | functionResetComplete => exact execFunctionResetComplete_sound hs ..
  | powerState => exact execPowerState_sound hs ..
  | powerTransitionDone => exact execPowerTransitionDone_sound hs
  | nonce => exact execNonce_sound hs ..
  | quote => exact execQuote_sound hs ..
  | certRead => exact execCertRead_sound hs ..
  | ownerEnroll => exact execOwnerEnroll_sound hs ..
  | ownerClear => exact execOwnerClear_sound hs ..
  | regionReg => exact execRegionReg_sound hs ..
  | regionDereg => exact execRegionDereg_sound hs ..
  | regionDeregComplete => exact execRegionDeregComplete_sound hs ..
  | doorbell => exact execDoorbell_sound hs ..
  | commit => exact execCommit_sound hs ..
  | rollback => exact execRollback_sound hs ..
  | tideTick => exact execTideTick_sound hs
  | epochBoundary => exact execEpochBoundary_sound hs
  | tideApplyArm => exact execTideApplyArm_sound hs ..
  | tideApplyCancel => exact execTideApplyCancel_sound hs ..
  | tideSet => exact execTideSet_sound hs ..
  | tideSyncSrcWrite => exact execTideSyncSrcWrite_sound hs ..
  | ptpMessageRx => exact execPtpMessageRx_sound hs ..
  | tidePpsInEdge => exact execTidePpsInEdge_sound hs
  | syncMeasurementTimeout => exact execSyncMeasurementTimeout_sound hs
  | tidePpsOutStart => exact execTidePpsOutStart_sound hs
  | tidePpsOutEnd => exact execTidePpsOutEnd_sound hs
  | timestampExchangeSend => exact execTimestampExchangeSend_sound hs ..
  | timestampFlitRx => exact execTimestampFlitRx_sound hs ..
  | slotBoundary => exact execSlotBoundary_sound hs ..
  | launchStart => exact execLaunchStart_sound hs ..
  | taskEnd => exact execTaskEnd_sound hs ..
  | instructionFetchWalkDone => exact execInstructionFetchWalkDone_sound hs ..
  | nop => exact execNop_sound hs ..
  | endInstr => exact execEndInstr_sound hs ..
  | br => exact execBr_sound hs ..
  | loop => exact execLoop_sound hs ..
  | event => exact execEvent_sound hs ..
  | smovi => exact execSmovi_sound hs ..
  | sadd => exact execSadd_sound hs ..
  | ssub => exact execSsub_sound hs ..
  | smul => exact execSmul_sound hs ..
  | sand => exact execSand_sound hs ..
  | sor => exact execSor_sound hs ..
  | sxor => exact execSxor_sound hs ..
  | sshl => exact execSshl_sound hs ..
  | sshr => exact execSshr_sound hs ..
  | ssra => exact execSsra_sound hs ..
  | scmp => exact execScmp_sound hs ..
  | plog => exact execPlog_sound hs ..
  | sld => exact execSld_sound hs ..
  | sst => exact execSst_sound hs ..
  | sinfo => exact execSinfo_sound hs ..
  | tload => exact execTload_sound hs ..
  | tstream => exact execTstream_sound hs ..
  | tdrain => exact execTdrain_sound hs ..
  | arrayCommandStart => exact execArrayCommandStart_sound hs ..
  | tloadDone => exact execTloadDone_sound hs ..
  | tstreamRowsRead => exact execTstreamRowsRead_sound hs ..
  | tstreamPassDone => exact execTstreamPassDone_sound hs ..
  | tdrainDone => exact execTdrainDone_sound hs ..
  | vld => exact execVld_sound hs ..
  | vst => exact execVst_sound hs ..
  | vadd => exact execVadd_sound hs ..
  | vsub => exact execVsub_sound hs ..
  | vmul => exact execVmul_sound hs ..
  | vfma => exact execVfma_sound hs ..
  | vmax => exact execVmax_sound hs ..
  | vmin => exact execVmin_sound hs ..
  | vabs => exact execVabs_sound hs ..
  | vneg => exact execVneg_sound hs ..
  | vmov => exact execVmov_sound hs ..
  | vcmp => exact execVcmp_sound hs ..
  | vbcast => exact execVbcast_sound hs ..
  | vshuf => exact execVshuf_sound hs ..
  | vred => exact execVred_sound hs ..
  | vdiv => exact execVdiv_sound hs ..
  | vsqrt => exact execVsqrt_sound hs ..
  | vexp => exact execVexp_sound hs ..
  | vlog => exact execVlog_sound hs ..
  | vrcp => exact execVrcp_sound hs ..
  | vrsq => exact execVrsq_sound hs ..
  | dmaq => exact execDmaq_sound hs ..
  | dmaf => exact execDmaf_sound hs ..
  | tcset => exact execTcset_sound hs ..
  | tcadd => exact execTcadd_sound hs ..
  | tcrd => exact execTcrd_sound hs ..
  | waittc => exact execWaittc_sound hs ..
  | waitdma => exact execWaitdma_sound hs ..
  | waitarr => exact execWaitarr_sound hs ..
  | waittide => exact execWaittide_sound hs ..
  | waitslot => exact execWaitslot_sound hs ..
  | waitConditionMet => exact execWaitConditionMet_sound hs ..
  | waitLimitExpired => exact execWaitLimitExpired_sound hs ..
  | vcvt => exact execVcvt_sound hs ..
  | vseed => exact execVseed_sound hs ..
  | vrng => exact execVrng_sound hs ..
  | ntag => exact execNtag_sound hs ..
  | nmaxr => exact execNmaxr_sound hs ..
  | numEventRecord => exact execNumEventRecord_sound hs ..
  | numOpclrEntry => exact execNumOpclrEntry_sound hs ..
  | numOpclrAll => exact execNumOpclrAll_sound hs
  | numSilWrite => exact execNumSilWrite_sound hs ..
  | numOpseedWrite => exact execNumOpseedWrite_sound hs ..
  | tcValueWrite => exact execTcValueWrite_sound hs ..
  | dmaDescriptorStart => exact execDmaDescriptorStart_sound hs ..
  | dmaCopy => exact execDmaCopy_sound hs ..
  | dmaPut => exact execDmaPut_sound hs ..
  | dmaGet => exact execDmaGet_sound hs ..
  | dmaFlagWrite => exact execDmaFlagWrite_sound hs ..
  | dmaDescriptorComplete => exact execDmaDescriptorComplete_sound hs ..
  | fenceRelease => exact execFenceRelease_sound hs ..
  | fenceTimeout => exact execFenceTimeout_sound hs ..
  | kvRead => exact execKvRead_sound hs ..
  | kvReadPageDone => exact execKvReadPageDone_sound hs ..
  | kvPageOpen => exact execKvPageOpen_sound hs ..
  | kvPageSeal => exact execKvPageSeal_sound hs ..
  | kvPageHint => exact execKvPageHint_sound hs ..
  | kvPageClose => exact execKvPageClose_sound hs ..
  | kvPageOpPageDone => exact execKvPageOpPageDone_sound hs ..
  | kvSpillStart => exact execKvSpillStart_sound hs ..
  | kvSpillDone => exact execKvSpillDone_sound hs ..
  | kvReturnStart => exact execKvReturnStart_sound hs ..
  | kvReturnDone => exact execKvReturnDone_sound hs ..
  | mmuInvalPages => exact execMmuInvalPages_sound hs ..
  | mmuInvalJob => exact execMmuInvalJob_sound hs ..
  | mmuInvalAll => exact execMmuInvalAll_sound hs
  | mmuInvalWindows => exact execMmuInvalWindows_sound hs
  | mmuInvalDone => exact execMmuInvalDone_sound hs
  | mmuPoolEnable => exact execMmuPoolEnable_sound hs ..
  | mmuPoolFaultClear => exact execMmuPoolFaultClear_sound hs ..
  | hbmPatrolScrub => exact execHbmPatrolScrub_sound hs ..
  | hbmTempThreshold => exact execHbmTempThreshold_sound hs ..
  | pwrSample => exact execPwrSample_sound hs ..
  | pwrCompare => exact execPwrCompare_sound hs
  | thermalStepDown => exact execThermalStepDown_sound hs ..
  | currentStepDown => exact execCurrentStepDown_sound hs ..
  | colArm => exact execColArm_sound hs ..
  | armedFireIssue => exact execArmedFireIssue_sound hs ..
  | fireSend => exact execFireSend_sound hs ..
  | fireCounterAdd => exact execFireCounterAdd_sound hs ..
  | fireFlagWrite => exact execFireFlagWrite_sound hs ..
  | fireDone => exact execFireDone_sound hs ..
  | colWatchdogExpiry => exact execColWatchdogExpiry_sound hs ..
  | colAbortOne => exact execColAbortOne_sound hs ..
  | colAbortAll => exact execColAbortAll_sound hs ..
  | collectiveSendRx => exact execCollectiveSendRx_sound hs ..
  | collectiveCounterAddRx => exact execCollectiveCounterAddRx_sound hs ..
  | molindPutRx => exact execMolindPutRx_sound hs ..
  | molindGetRequestRx => exact execMolindGetRequestRx_sound hs ..
  | molindGetResponseRx => exact execMolindGetResponseRx_sound hs ..
  | molindFlagWriteRx => exact execMolindFlagWriteRx_sound hs ..
  | boardWriteRx => exact execBoardWriteRx_sound hs ..
  | boardReadRx => exact execBoardReadRx_sound hs ..
  | boardReadResponseRx => exact execBoardReadResponseRx_sound hs ..
  | molindAckRx => exact execMolindAckRx_sound hs ..
  | molindNakRemoteRx => exact execMolindNakRemoteRx_sound hs ..
  | molindNakSequenceRx => exact execMolindNakSequenceRx_sound hs ..
  | molindSelectiveAckRx => exact execMolindSelectiveAckRx_sound hs ..
  | molindPacketForward => exact execMolindPacketForward_sound hs ..
  | transportAckTimeout => exact execTransportAckTimeout_sound hs ..
  | roceRdmaWriteRx => exact execRoceRdmaWriteRx_sound hs ..
  | roceRdmaReadRx => exact execRoceRdmaReadRx_sound hs ..
  | roceUnsupportedRx => exact execRoceUnsupportedRx_sound hs ..
  | roceReadResponseRx => exact execRoceReadResponseRx_sound hs ..
  | roceAckRx => exact execRoceAckRx_sound hs ..
  | roceNakRx => exact execRoceNakRx_sound hs ..
  | roceCnpRx => exact execRoceCnpRx_sound hs ..
  | roceRateIncrease => exact execRoceRateIncrease_sound hs ..
  | xptCtxInvalidate => exact execXptCtxInvalidate_sound hs ..
  | xptCtxValidate => exact execXptCtxValidate_sound hs ..
  | linkDataFlitRx => exact execLinkDataFlitRx_sound hs ..
  | linkIdleFlitRx => exact execLinkIdleFlitRx_sound hs ..
  | linkRetryRequestRx => exact execLinkRetryRequestRx_sound hs ..
  | linkCapabilityRx => exact execLinkCapabilityRx_sound hs ..
  | linkCapabilityAckRx => exact execLinkCapabilityAckRx_sound hs ..
  | capabilityResend => exact execCapabilityResend_sound hs ..
  | linkLaneDropRx => exact execLinkLaneDropRx_sound hs ..
  | laneFailureDetected => exact execLaneFailureDetected_sound hs ..
  | linkRetryTimeout => exact execLinkRetryTimeout_sound hs ..
  | linkTrained => exact execLinkTrained_sound hs ..
  | linkTrainRetry => exact execLinkTrainRetry_sound hs ..
  | linkLpiEnter => exact execLinkLpiEnter_sound hs ..
  | linkLpiWake => exact execLinkLpiWake_sound hs ..
  | ethNegotiationDone => exact execEthNegotiationDone_sound hs ..
  | linkRetrain => exact execLinkRetrain_sound hs ..
  | linkPrbs => exact execLinkPrbs_sound hs ..
  | ethArpNdRx => exact execEthArpNdRx_sound hs ..
  | ctlPlaceWrite => exact execCtlPlaceWrite_sound hs ..
  | cpEnableWrite => exact execCpEnableWrite_sound hs ..
  | grdCommittedWrite => exact execGrdCommittedWrite_sound hs ..
  | mediaTailWrite => exact execMediaTailWrite_sound hs ..
  | mediaDecodeTask => exact execMediaDecodeTask_sound hs ..
  | mediaEncodeTask => exact execMediaEncodeTask_sound hs ..
  | mediaTaskComplete => exact execMediaTaskComplete_sound hs ..
  | evtTailWrite => exact execEvtTailWrite_sound hs ..
  | evtAlertClear => exact execEvtAlertClear_sound hs
  | smbStatusRead => exact execSmbStatusRead_sound hs
  | smbVoltageRead => exact execSmbVoltageRead_sound hs
  | smbPowerRead => exact execSmbPowerRead_sound hs
  | smbPowerIntervalRead => exact execSmbPowerIntervalRead_sound hs
  | smbEnergyRead => exact execSmbEnergyRead_sound hs
  | smbTemperatureRead => exact execSmbTemperatureRead_sound hs
  | smbIdentityRead => exact execSmbIdentityRead_sound hs
  | smbUnknownRead => exact execSmbUnknownRead_sound hs ..
  | smbWriteRefused => exact execSmbWriteRefused_sound hs ..
  | powerAppliedAtJ3 => exact execPowerAppliedAtJ3_sound hs ..
  | railsInRegulation => exact execRailsInRegulation_sound hs
  | arithmeticClockTick => exact execArithmeticClockTick_sound hs ..

theorem sameFused_refl (u : Fuses) : sameFused u u := ⟨rfl, rfl, rfl, rfl, rfl, rfl, rfl⟩

/-- A state in form is sound for its own fuses and its own queue. -/
theorem sound_of_inForm {s : State} (hm : memWf s = true) (hr : regsFit s.regs) : Sound s.fuses s.pending s :=
  ⟨rfl, sameFused_refl _, hm, hr⟩

theorem exists_next_of_goes {u : Fuses} {q : List Instr} {o : Host.Outcome State Fault Refusal} (h : Goes u q o) :
    ∃ t, o = .next t ∧ Sound u q t := by
  cases o with
  | next t => exact ⟨t, rfl, h⟩
  | fault r => exact h.elim
  | refused r => exact h.elim

/-- From a state in form a command answers a next state, sound for the same fuses and the same queue. -/
theorem exec_next_sound {s : State} (i : Instr) (hm : memWf s = true) (hr : regsFit s.regs) :
    ∃ t, exec i s = .next t ∧ Sound s.fuses s.pending t :=
  exists_next_of_goes (exec_goes (sound_of_inForm hm hr) i)

/-- Settles O59: every meaning goes on to a state that is sound for the fuses and the queue it started from. -/
theorem everyCommandGoesOn : Obligations.EveryCommandGoesOn := by
  intro i s hm hr
  obtain ⟨t, ht, hq, hf, -, -⟩ := exec_next_sound i hm hr
  exact ⟨t, ht, hq, hf⟩

/-- Settles O58: an idle step leaves the state, and any other runs a command on the same memory and registers. -/
theorem stepsKeepMemoryAndRegistersInForm : Obligations.StepsKeepMemoryAndRegistersInForm := by
  intro s t hm hr hst
  unfold step at hst
  split at hst
  case h_1 =>
    cases hst
    exact ⟨hm, hr⟩
  case h_2 c rest _ =>
    obtain ⟨t', ht', -, -, hm', hr'⟩ := exec_next_sound (s := { s with pending := rest }) c hm hr
    cases ht'.symm.trans hst
    exact ⟨hm', hr'⟩

end Sys2Proof.Machine
end

section
/-!
What a module reset keeps of the registers (R5, R469): the filter on the register map goes by the row of each key's field.
-/
namespace Sys2Proof.Machine

/-- A filter that goes by keys alone keeps what a key reads as, or leaves the default. -/
theorem mget_filter_key {α : Type} {d : α} (m : List (Nat × α)) (p : Nat → Bool) (k : Nat) :
    mget d (m.filter (fun e => p e.1)) k = if p k = true then mget d m k else d := by
  induction m with
  | nil => simp [mget]
  | cons e m ih =>
    obtain ⟨k', v⟩ := e
    by_cases hk : k = k'
    · subst hk
      by_cases hp : p k = true
      · simp [mget, hp]
      · simp [hp, ih]
    · by_cases hp : p k' = true <;> simp [mget, hp, hk, ih]

theorem rkey_mod (f : Fld) (i : Nat) : rkey f i % 1024 = f.ctorIdx := by
  have := f.ctorIdx_lt
  unfold rkey
  omega

theorem rkey_div (f : Fld) (i : Nat) : rkey f i / 1024 = i := by
  have := f.ctorIdx_lt
  unfold rkey
  omega

/-- Whether the entry of a key stays in the register map: its field's row is asked, and a key of no field stays. -/
def survives (lost : Nat → Keep → Bool) (k : Nat) : Bool :=
  match homeOf (k % 1024) with
  | none => true
  | some (r, x) => !lost (fnOf r (k / 1024)) x.keep

theorem loseRegs_regs (s : State) (lost : Nat → Keep → Bool) :
    (loseRegs s lost).regs = s.regs.filter (fun e => survives lost e.1) := rfl

theorem survives_rkey (lost : Nat → Keep → Bool) {f : Fld} {r : RegRow} {x : FldRow} (i : Nat)
    (hx : homeOf f.ctorIdx = some (r, x)) : survives lost (rkey f i) = !lost (fnOf r i) x.keep := by
  simp [survives, rkey_mod, rkey_div, hx]

/-- A field that is lost returns to its reset value, and any other reads as before (R5). -/
theorem get_loseRegs (s : State) (lost : Nat → Keep → Bool) {f : Fld} {r : RegRow} {x : FldRow} (i : Nat)
    (hx : homeOf f.ctorIdx = some (r, x)) :
    get (loseRegs s lost) f i = if lost (fnOf r i) x.keep = true then fldReset s.fuses f i else get s f i := by
  rw [get, loseRegs_regs, mget_filter_key, survives_rkey lost i hx]
  cases lost (fnOf r i) x.keep <;> rfl

/-- The registers after a module reset: what it keeps, and `RST_STAT`, which shows it (R469). -/
theorem get_enterModuleReset (s : State) (f : Fld) (i : Nat) :
    get (enterModuleReset s) f i =
      get (put (put (loseRegs s lostInModule) .rstStat_in_reset 0x1FE) .rstStat_ready 0) f i := by
  unfold enterModuleReset onlyIf
  dsimp only
  split <;> rfl

/-- Settles O33: the reset loses the fields of every row that is not kept through it, and then writes `RST_STAT` alone. -/
theorem moduleResetKeepsWhatItNames : Obligations.ModuleResetKeepsWhatItNames := by
  intro s f i r x _ hx hin hready
  rw [get_enterModuleReset, get_put_fld _ _ _ _ hready, get_put_fld _ _ _ _ hin, get_loseRegs s _ i hx]
  simp [lostInModule]

end Sys2Proof.Machine
end

section
/-!
Shadows (R7, R47, R48, R50, R395): what a write leaves, what one shadow's apply does, and the apply of a scope as the fold of those.
-/
namespace Sys2Proof.Machine

variable (s : State)

/-! ### Writes -/

/-- The shadows that a write of a field leaves as they were. -/
def otherShadows (f : Fld) (i : Nat) : List Shadow :=
  s.time.shadows.filter (fun h => !(decide (h.fld = f) && h.idx == i))

theorem shadowWrite_shadows (sc : Nat) (f : Fld) (i v : Nat) :
    (shadowWrite s sc f i v).time.shadows = otherShadows s f i ++ [⟨sc, f, i, v % 2 ^ f.width, insideGuard s sc⟩] := rfl

theorem get_shadowWrite (sc : Nat) (f g : Fld) (i v j : Nat) : get (shadowWrite s sc f i v) g j = get s g j := rfl

/-- The field written has one shadow, the one that the write makes. -/
theorem eq_of_mem_shadowWrite {sc : Nat} {f : Fld} {i v : Nat} {h : Shadow} (hh : h ∈ (shadowWrite s sc f i v).time.shadows)
    (hf : h.fld = f) (hi : h.idx = i) : h = ⟨sc, f, i, v % 2 ^ f.width, insideGuard s sc⟩ := by
  rw [shadowWrite_shadows, List.mem_append] at hh
  rcases hh with hh | hh
  · simp [otherShadows, hf, hi] at hh
  · exact List.mem_singleton.mp hh

/-- A field reads back what was written last (R7). -/
theorem lastWritten_shadowWrite_same (sc : Nat) (f : Fld) (i v : Nat) :
    lastWritten (shadowWrite s sc f i v) f i = v % 2 ^ f.width := by
  have hnone : (otherShadows s f i).find? (fun h => decide (h.fld = f) && h.idx == i) = none := by
    simp [otherShadows, imp_iff_not_or]
  simp [lastWritten, shadowWrite_shadows, List.find?_append, hnone]

/-- Every other field reads as before. -/
theorem lastWritten_shadowWrite_ne (sc : Nat) {f g : Fld} {i j : Nat} (v : Nat) (hne : ¬(g = f ∧ j = i)) :
    lastWritten (shadowWrite s sc f i v) g j = lastWritten s g j := by
  have hold : (otherShadows s f i).find? (fun h => decide (h.fld = g) && h.idx == j) =
      s.time.shadows.find? (fun h => decide (h.fld = g) && h.idx == j) := by
    rw [otherShadows, List.find?_filter]
    congr 1
    funext h
    by_cases hg : h.fld = g ∧ h.idx = j
    · obtain ⟨rfl, rfl⟩ := hg
      simpa [imp_iff_not_or] using hne
    · have : (decide (h.fld = g) && h.idx == j) = false := by simpa using hg
      simp [this]
  have hnew : ¬(f = g ∧ i = j) := fun e => hne ⟨e.1.symm, e.2.symm⟩
  simp only [lastWritten, shadowWrite_shadows, List.find?_append, hold, get_shadowWrite]
  simp [hnew]

/-! ### The apply of one shadow -/

/-- What becomes of the registers as a shadow is taken. -/
theorem get_takeShadow (h : Shadow) (g : Fld) (j : Nat) :
    get (takeShadow s h) g j =
      if h.fld = .grdJoba_layout then get (put (put s h.fld h.val h.idx) .grdJobb_layout_wait 0 h.idx) g j
      else get (put s h.fld h.val h.idx) g j := by
  unfold takeShadow
  dsimp only
  split <;> split <;> rfl

theorem takeShadow_shadows (h : Shadow) :
    (takeShadow s h).time.shadows = s.time.shadows.filter (fun x => decide (x ≠ h)) := by
  unfold takeShadow
  dsimp only
  split <;> split <;> rfl

theorem takeShadow_mem (h : Shadow) : (takeShadow s h).mem = s.mem := by
  unfold takeShadow
  dsimp only
  split <;> split <;> rfl

theorem get_takeShadow_same (h : Shadow) : get (takeShadow s h) h.fld h.idx = h.val % 2 ^ h.fld.width := by
  rw [get_takeShadow]
  split
  case isTrue hl => rw [get_put_fld _ _ _ _ (by simp [hl]), get_put_same]
  case isFalse => exact get_put_same ..

theorem get_takeShadow_ne {h : Shadow} {g : Fld} {j : Nat} (hw : g ≠ .grdJobb_layout_wait) (hne : ¬(h.fld = g ∧ h.idx = j)) :
    get (takeShadow s h) g j = get s g j := by
  have hput : get (put s h.fld h.val h.idx) g j = get s g j := get_put_ne s (fun e => hne ⟨e.1.symm, e.2.symm⟩)
  rw [get_takeShadow]
  split
  · rw [get_put_fld _ _ _ _ hw, hput]
  · exact hput

theorem get_takeShadow_layout_wait {h : Shadow} (hl : h.fld = .grdJoba_layout) :
    get (takeShadow s h) .grdJobb_layout_wait h.idx = 0 := by
  simp [get_takeShadow, hl]

theorem not_mem_takeShadow (h : Shadow) : h ∉ (takeShadow s h).time.shadows := by
  simp [takeShadow_shadows]

theorem get_holdLayout_ne (h : Shadow) {g : Fld} (j : Nat) (hw : g ≠ .grdJobb_layout_wait) :
    get (holdLayout s h) g j = get s g j :=
  get_put_fld (eclipseQuiet s h.scope) _ _ _ hw

theorem get_holdLayout_layout_wait (h : Shadow) : get (holdLayout s h) .grdJobb_layout_wait h.idx = 1 :=
  get_put_same (eclipseQuiet s h.scope) ..

theorem holdLayout_shadows (h : Shadow) : (holdLayout s h).time.shadows = s.time.shadows := rfl

theorem holdLayout_mem (h : Shadow) : (holdLayout s h).mem = s.mem := rfl

theorem scope_mem_holdLayout_eclipse (h : Shadow) : h.scope ∈ (holdLayout s h).time.eclipse := by
  simp [holdLayout, eclipseQuiet]

/-- What an apply of scope `sc` does with one of its shadows: it takes it, or holds back a layout while slots of the job are armed. -/
def applyShadow (sc : Nat) (s : State) (h : Shadow) : State :=
  if h.fld = .grdJoba_layout ∧ jobArmed s sc = true then holdLayout s h else takeShadow s h

/-- The shadows that an apply of scope `sc` takes (R48, R50). -/
def dueShadows (sc : Nat) : List Shadow := s.time.shadows.filter (fun h => h.scope == sc && !h.held)

theorem applyShadows_eq_foldl (sc : Nat) : applyShadows s sc = (dueShadows s sc).foldl (applyShadow sc) s := rfl

theorem applyShadow_mem (sc : Nat) (h : Shadow) : (applyShadow sc s h).mem = s.mem := by
  unfold applyShadow
  split
  · exact holdLayout_mem s h
  · exact takeShadow_mem s h

theorem applyShadow_of_ne_layout (sc : Nat) {h : Shadow} (hl : h.fld ≠ .grdJoba_layout) : applyShadow sc s h = takeShadow s h :=
  if_neg (fun e => hl e.1)

/-- A field other than the shadow's, and other than `layout_wait`, reads as before. -/
theorem get_applyShadow_ne (sc : Nat) {h : Shadow} {g : Fld} {j : Nat} (hw : g ≠ .grdJobb_layout_wait)
    (hne : ¬(h.fld = g ∧ h.idx = j)) : get (applyShadow sc s h) g j = get s g j := by
  unfold applyShadow
  split
  · exact get_holdLayout_ne s h j hw
  · exact get_takeShadow_ne s hw hne

/-- The only shadow that goes is the one applied. -/
theorem mem_applyShadow_of_ne (sc : Nat) {h x : Shadow} (hx : x ∈ s.time.shadows) (hne : x ≠ h) :
    x ∈ (applyShadow sc s h).time.shadows := by
  unfold applyShadow
  split
  · exact hx
  · simp [takeShadow_shadows, hx, hne]

/-- No shadow comes. -/
theorem mem_of_mem_applyShadow (sc : Nat) {h x : Shadow} (hx : x ∈ (applyShadow sc s h).time.shadows) : x ∈ s.time.shadows := by
  unfold applyShadow at hx
  split at hx
  · exact hx
  · rw [takeShadow_shadows] at hx
    exact (List.mem_filter.mp hx).1

/-! ### The apply of several -/

theorem foldl_applyShadow_mem (sc : Nat) (l : List Shadow) : (l.foldl (applyShadow sc) s).mem = s.mem := by
  induction l generalizing s with
  | nil => rfl
  | cons h l ih => exact (ih _).trans (applyShadow_mem s sc h)

theorem get_foldl_applyShadow_ne (sc : Nat) {l : List Shadow} {g : Fld} {j : Nat} (hw : g ≠ .grdJobb_layout_wait)
    (hne : ∀ h ∈ l, ¬(h.fld = g ∧ h.idx = j)) : get (l.foldl (applyShadow sc) s) g j = get s g j := by
  induction l generalizing s with
  | nil => rfl
  | cons h l ih =>
    obtain ⟨hh, hl⟩ := List.forall_mem_cons.mp hne
    exact (ih _ hl).trans (get_applyShadow_ne s sc hw hh)

theorem mem_foldl_applyShadow_of_not_mem (sc : Nat) {l : List Shadow} {x : Shadow} (hx : x ∈ s.time.shadows) (hl : x ∉ l) :
    x ∈ (l.foldl (applyShadow sc) s).time.shadows := by
  induction l generalizing s with
  | nil => exact hx
  | cons h l ih =>
    exact ih _ (mem_applyShadow_of_ne s sc hx (List.ne_of_not_mem_cons hl)) (List.not_mem_of_not_mem_cons hl)

theorem mem_of_mem_foldl_applyShadow (sc : Nat) {l : List Shadow} {x : Shadow}
    (hx : x ∈ (l.foldl (applyShadow sc) s).time.shadows) : x ∈ s.time.shadows := by
  induction l generalizing s with
  | nil => exact hx
  | cons h l ih => exact mem_of_mem_applyShadow s sc (ih _ hx)

/-- Of shadows of different fields, each that is no layout becomes active and is gone: its own apply takes it, and the others leave
its field alone. -/
theorem foldl_applyShadow_takes (sc : Nat) {l : List Shadow} (hnd : (l.map (fun h => (h.fld, h.idx))).Nodup) {h : Shadow}
    (hh : h ∈ l) (hl : h.fld ≠ .grdJoba_layout) (hw : h.fld ≠ .grdJobb_layout_wait) :
    get (l.foldl (applyShadow sc) s) h.fld h.idx = h.val % 2 ^ h.fld.width ∧
      h ∉ (l.foldl (applyShadow sc) s).time.shadows := by
  induction l generalizing s with
  | nil => cases hh
  | cons a l ih =>
    obtain ⟨ha, hnd'⟩ := List.nodup_cons.mp hnd
    rcases List.mem_cons.mp hh with rfl | hh'
    · have hothers : ∀ x ∈ l, ¬(x.fld = h.fld ∧ x.idx = h.idx) := fun x hx e =>
        ha (List.mem_map.mpr ⟨x, hx, Prod.ext e.1 e.2⟩)
      rw [List.foldl_cons, applyShadow_of_ne_layout s sc hl]
      exact ⟨(get_foldl_applyShadow_ne _ sc hw hothers).trans (get_takeShadow_same s h),
        fun hx => not_mem_takeShadow s h (mem_of_mem_foldl_applyShadow _ sc hx)⟩
    · exact ih _ hnd' hh'

/-! ### The apply of a scope -/

theorem mem_dueShadows {sc : Nat} {h : Shadow} :
    h ∈ dueShadows s sc ↔ h ∈ s.time.shadows ∧ (h.scope == sc && !h.held) = true := List.mem_filter

theorem applyShadows_takes_due {sc : Nat} (hnd : (s.time.shadows.map (fun h => (h.fld, h.idx))).Nodup) {h : Shadow}
    (hh : h ∈ dueShadows s sc) (hl : h.fld ≠ .grdJoba_layout) (hw : h.fld ≠ .grdJobb_layout_wait) :
    get (applyShadows s sc) h.fld h.idx = h.val % 2 ^ h.fld.width ∧ h ∉ (applyShadows s sc).time.shadows := by
  rw [applyShadows_eq_foldl]
  exact foldl_applyShadow_takes s sc (hnd.sublist (List.filter_sublist.map _)) hh hl hw

/-- A shadow of another scope, or one that is held, goes on waiting. -/
theorem applyShadows_keeps_not_due {sc : Nat} {h : Shadow} (hh : h ∈ s.time.shadows) (hdue : h ∉ dueShadows s sc) :
    h ∈ (applyShadows s sc).time.shadows :=
  mem_foldl_applyShadow_of_not_mem s sc hh hdue

theorem get_applyShadows_ne {sc : Nat} {g : Fld} {j : Nat} (hw : g ≠ .grdJobb_layout_wait)
    (hne : ∀ h ∈ dueShadows s sc, ¬(h.fld = g ∧ h.idx = j)) : get (applyShadows s sc) g j = get s g j :=
  get_foldl_applyShadow_ne s sc hw hne

theorem applyShadows_mem (sc : Nat) : (applyShadows s sc).mem = s.mem := foldl_applyShadow_mem s sc _

theorem applyShadows_singleton {sc : Nat} {h : Shadow} (hd : dueShadows s sc = [h]) :
    applyShadows s sc = applyShadow sc s h := by
  rw [applyShadows_eq_foldl, hd]
  rfl

/-- A layout whose job has armed slots stays pending, with the job in eclipse (R395). -/
theorem applyShadows_layout_armed {sc : Nat} {h : Shadow} (hd : dueShadows s sc = [h]) (hl : h.fld = .grdJoba_layout)
    (ha : jobArmed s sc = true) : applyShadows s sc = holdLayout s h :=
  (applyShadows_singleton s hd).trans (if_pos ⟨hl, ha⟩)

theorem applyShadows_layout_free {sc : Nat} {h : Shadow} (hd : dueShadows s sc = [h]) (ha : jobArmed s sc = false) :
    applyShadows s sc = takeShadow s h :=
  (applyShadows_singleton s hd).trans (if_neg (fun e => by simp [ha] at e))

theorem scope_of_dueShadows {sc : Nat} {h : Shadow} (hd : dueShadows s sc = [h]) : h.scope = sc := by
  have hmem : h ∈ dueShadows s sc := by simp [hd]
  have hdue := ((mem_dueShadows s).mp hmem).2
  simp only [Bool.and_eq_true, beq_iff_eq] at hdue
  exact hdue.1

/-! ### The statement's parts -/

/-- A write waits in its shadow, reads back, and leaves the value in force (R7, R47, R50). -/
theorem shadowWrite_waits (sc i v : Nat) (f : Fld) :
    let t := shadowWrite s sc f i v
    lastWritten t f i = v % 2 ^ f.width ∧ KeptRegs s t [] ∧ KeptMem s t ∧
    (∀ g j, ¬(g = f ∧ j = i) → lastWritten t g j = lastWritten s g j) ∧
    (∀ h ∈ t.time.shadows, h.fld = f → h.idx = i → h.scope = sc ∧ h.held = insideGuard s sc) ∧
    (∀ h ∈ t.time.shadows, h.fld = f → h.idx = i →
      get (takeShadow t h) f i = v % 2 ^ f.width ∧ h ∉ (takeShadow t h).time.shadows) := by
  refine ⟨lastWritten_shadowWrite_same s sc f i v, fun g j _ => get_shadowWrite s sc f g i v j, fun _ => rfl,
    fun g j hne => lastWritten_shadowWrite_ne s sc v hne, fun h hh hf hi => ?_, fun h hh hf hi => ?_⟩
  · rw [eq_of_mem_shadowWrite s hh hf hi]
    exact ⟨rfl, rfl⟩
  · refine ⟨?_, not_mem_takeShadow _ h⟩
    rw [eq_of_mem_shadowWrite s hh hf hi, get_takeShadow_same]
    exact Nat.mod_mod ..

/-- An apply of a scope whose one due shadow is a layout (R395). -/
theorem applyShadows_layout {sc : Nat} {h : Shadow} (hd : dueShadows s sc = [h]) (hl : h.fld = .grdJoba_layout) :
    let u := applyShadows s sc
    (jobArmed s sc = true → sc ∈ u.time.eclipse ∧ get u .grdJobb_layout_wait h.idx = 1 ∧
      get u .grdJoba_layout h.idx = get s .grdJoba_layout h.idx ∧ u.time.shadows = s.time.shadows) ∧
    (jobArmed s sc = false → get u .grdJobb_layout_wait h.idx = 0 ∧
      get u .grdJoba_layout h.idx = h.val % 2 ^ Fld.grdJoba_layout.width ∧ h ∉ u.time.shadows) := by
  refine ⟨fun ha => ?_, fun ha => ?_⟩
  · rw [applyShadows_layout_armed s hd hl ha]
    have hsc := scope_mem_holdLayout_eclipse s h
    rw [scope_of_dueShadows s hd] at hsc
    exact ⟨hsc, get_holdLayout_layout_wait s h, get_holdLayout_ne s h _ (by decide), holdLayout_shadows s h⟩
  · rw [applyShadows_layout_free s hd ha]
    have hval := get_takeShadow_same s h
    rw [hl] at hval
    exact ⟨get_takeShadow_layout_wait s hl, hval, not_mem_takeShadow s h⟩

end Sys2Proof.Machine

namespace Sys2Proof.Machine

/-- Settles O40: a write makes one shadow, and an apply takes the due shadows one after another. -/
theorem shadowsWaitForTheirEpoch : Obligations.ShadowsWaitForTheirEpoch := by
  refine ⟨fun s sc i v f => shadowWrite_waits s sc i v f, fun s sc => ⟨fun hnd => ⟨fun h hh hdue hl hw => ?_, fun h hh hdue => ?_⟩,
    fun f i hw hne => ?_, fun a => ?_, fun h hd hl => applyShadows_layout s hd hl⟩⟩
  · exact applyShadows_takes_due s hnd ((mem_dueShadows s).mpr ⟨hh, hdue⟩) hl hw
  · refine applyShadows_keeps_not_due s hh (fun hmem => ?_)
    exact Bool.false_ne_true (hdue.symm.trans ((mem_dueShadows s).mp hmem).2)
  · refine get_applyShadows_ne s hw (fun h hmem => ?_)
    obtain ⟨hh, hdue⟩ := (mem_dueShadows s).mp hmem
    exact hne h hh hdue
  · rw [rdByte, applyShadows_mem, rdByte]

end Sys2Proof.Machine
end

section
/-!
Molind packets that ask for something (R17, R320, R327, R328, R419): where one lands, what its row comes to; the note of a message's
packets; and what a refused access leaves.
-/
namespace Sys2Proof.Machine

variable (s : State)

/-! ### Counters -/

theorem satAdd_lt (w a b : Nat) : satAdd w a b < 2 ^ w := (satAdd_le w a b).trans_lt (maxOf_lt w)

theorem counted_bump (f : Fld) (n i : Nat) : Counted s (bump s f n i) f i n := by
  rw [Counted, bump, get_put_same, Nat.mod_eq_of_lt (satAdd_lt ..)]

@[simp] theorem get_bump_fld {f g : Fld} (n i j : Nat) (h : g ≠ f) : get (bump s f n i) g j = get s g j :=
  get_put_fld s _ i j h

theorem onlyRegs_bump (f : Fld) (n i : Nat) : OnlyRegs s (bump s f n i) [f] :=
  ⟨rfl, fun _ j hg => get_bump_fld s n i j (List.ne_of_not_mem_cons hg)⟩

/-! ### A packet taken up leaves its port as it is -/

section Taken
variable (p op : Nat) (h : MolHdr) (d : Bytes)

/-- No packet waits in the flits of the port, so none is taken. -/
theorem takePkt_of_no_pkts (hl : (linkOf s p).pkts = []) : takePkt s p op h d = s := by
  simp [takePkt, hl]

theorem takePkt_regs : (takePkt s p op h d).regs = s.regs := by
  unfold takePkt
  dsimp only
  split <;> rfl

theorem takePkt_fuses : (takePkt s p op h d).fuses = s.fuses := by
  unfold takePkt
  dsimp only
  split <;> rfl

theorem get_takePkt (f : Fld) (i : Nat) : get (takePkt s p op h d) f i = get s f i := by
  rw [get, get, takePkt_regs, takePkt_fuses]

theorem inService_takePkt (q : Nat) : inService (takePkt s p op h d) q = inService s q := by
  have hpresent : portPresent (takePkt s p op h d) q = portPresent s q := by rw [portPresent, portPresent, takePkt_fuses]
  have hstate : lnkState (takePkt s p op h d) q = lnkState s q := get_takePkt ..
  rw [inService, inService, hpresent, hstate]

theorem peerPlaced_takePkt (q : Nat) : (linkOf (takePkt s p op h d) q).peerPlaced = (linkOf s q).peerPlaced := by
  unfold takePkt
  dsimp only
  split
  · by_cases hq : q = p
    · subst hq
      simp [linkOf, setLink]
    · simp [linkOf, setLink, mget_mset_ne _ hq]
  · rfl

theorem dataPort_takePkt (q : Nat) : dataPort (takePkt s p op h d) q = dataPort s q := by
  simp only [dataPort, inService_takePkt, placed, flag, get_takePkt, peerPlaced_takePkt]

theorem ownModule_takePkt : ownModule (takePkt s p op h d) = ownModule s := by
  simp only [ownModule, ownPlace, get_takePkt]

end Taken

/-! ### Where a packet goes -/

theorem isFront_of_isModulePort {p : Nat} (hp : isModulePort p = true) : isFront p = false := by
  simp only [isModulePort, isTray, isRack, isGlobal, isFront, Bool.or_eq_true, decide_eq_true_eq, decide_eq_false_iff_not] at hp ⊢
  omega

section Arrival
variable {s} {p op : Nat} {h : MolHdr}

/-- On a port in data service no drop rule of the ports applies (R12, R16): the packet goes by its destination and its version. -/
theorem arriveMol_of_dataPort (hm : isModulePort p = true) (hs : inService s p = true) (hd : dataPort s p = true)
    (hb : boardOp op = true → isTray p = true) (data : Bytes) (body : State → State) :
    arriveMol s p op h data body =
      if h.dst.toNat ≠ ownModule s then forward s p op h data
      else if !versionOk s h.version.toNat then bump s .lnkDrop_version
      else body s := by
  have hboard : (boardOp op && !isTray p) = false := by
    cases hop : boardOp op
    · rfl
    · simp [hb hop]
  simp [arriveMol, isFront_of_isModulePort hm, hm, hs, hd, hboard]

/-- A packet that lands meets its own rules. -/
theorem arriveMol_of_lands {p : Port} (hl : Lands s p op h) (data : Bytes) (body : State → State) :
    arriveMol s p.val op h data body = body s := by
  obtain ⟨hm, hs, hd, hb, hdst, hver, -⟩ := hl
  simp [arriveMol_of_dataPort hm hs hd hb, hdst, hver]

/-- A packet that asks, in its turn, comes to what its own rules make of it. -/
theorem arriveAsk_of_asks {p : Port} (ha : Asks s p op h) (data : Bytes) (self : Instr) (body : State → State × Arrive) :
    arriveAsk s p.val op h data self body = flowDone p.val h self (body s) := by
  obtain ⟨hl, hdoze, hjob, hflow, hturn⟩ := ha
  obtain ⟨-, -, -, -, -, -, hfn⟩ := id hl
  have hfree : ¬(dozing s || (!boardOp op && waitsForJob s h.job.toNat) || waitsForFlow s p.val h) = true := by
    simpa [hdoze, hflow] using hjob
  rw [arriveAsk, arriveMol_of_lands hl, if_neg (by simp [hfn]), if_neg hfree, if_pos hturn]

end Arrival

/-! ### The rows of packets that ask -/

section Rows
variable {s} {p : Port} {h : MolHdr}

theorem exec_molindPutRx_of_asks {m : PutMark} {d : Bytes} (ha : Asks (takePkt s p.val 0x1 h d) p 0x1 h) :
    exec (.molindPutRx p h m d) s = .next (flowDone p.val h (.molindPutRx p h m d)
      (placeWrite (takePkt s p.val 0x1 h d) (molAccess p.val h d.length true) (putKey h m.msg) (putLen m d.length) h.addr.toNat d)) :=
  congrArg Host.Outcome.next (arriveAsk_of_asks ha ..)

theorem exec_molindFlagWriteRx_of_asks {v : BitVec 64}
    (ha : Asks (takePkt s p.val 0x4 h (toLe 8 v.toNat)) p 0x4 h) :
    exec (.molindFlagWriteRx p h v) s = .next (flowDone p.val h (.molindFlagWriteRx p h v)
      (placeWrite (takePkt s p.val 0x4 h (toLe 8 v.toNat)) (molAccess p.val h 8 true) (flagKey h) (some 8) h.addr.toNat
        (toLe 8 v.toNat))) :=
  congrArg Host.Outcome.next (arriveAsk_of_asks ha ..)

/-- What a get request has come to, from what its region let it read: the responses, where it is served. -/
def getAnswered (p : Port) (h : MolHdr) (x : State × Arrive × Bytes) : State × Arrive :=
  match x.2.1 with
  | .served => ((cuts 4096 x.2.2).foldl (fun s c => replyOn s p.val 0x3 h (h.addr.toNat + c.1) c.2) x.1, .served)
  | a => (x.1, a)

theorem exec_molindGetRequestRx_of_asks {n : BitVec 31} (ha : Asks (takePkt s p.val 0x2 h (toLe 4 n.toNat)) p 0x2 h) :
    exec (.molindGetRequestRx p h n) s = .next (flowDone p.val h (.molindGetRequestRx p h n)
      (getAnswered p h (placeRead (takePkt s p.val 0x2 h (toLe 4 n.toNat)) (molAccess p.val h n.toNat false) h.addr.toNat))) :=
  congrArg Host.Outcome.next (arriveAsk_of_asks ha ..)

theorem flowDone_getAnswered_served {x : State × Arrive × Bytes} (self : Instr) (hx : x.2.1 = .served) :
    flowDone p.val h self (getAnswered p h x) = flowNext ((cuts 4096 x.2.2).foldl
      (fun s c => replyOn s p.val 0x3 h (h.addr.toNat + c.1) c.2) x.1) p.val h none := by
  simp only [getAnswered, hx, flowDone]

theorem flowDone_getAnswered_held {x : State × Arrive × Bytes} (self : Instr) (hx : x.2.1 = .held) :
    flowDone p.val h self (getAnswered p h x) = holdBack x.1 self := by
  simp only [getAnswered, hx, flowDone]

theorem flowDone_getAnswered_refused {x : State × Arrive × Bytes} {c : Nat} (self : Instr) (hx : x.2.1 = .refused c) :
    flowDone p.val h self (getAnswered p h x) = flowNext (nakRemote x.1 p.val h c) p.val h (some c) := by
  simp only [getAnswered, hx, flowDone]

/-- What a board-class write has come to, from why it is refused and what writing its bytes came to (R17). -/
def boardWritten (bad : Nat) (s : State) (w : State × Nat) : State × Arrive :=
  if bad ≠ 0 then (s, .refused bad)
  else (w.1, if w.2 = 0 then .taken else .refused (if w.2 = 0x03 then 0x06 else w.2))

theorem exec_boardWriteRx_of_asks {d : Bytes} (ha : Asks (takePkt s p.val 0x8 h d) p 0x8 h) :
    let s1 := takePkt s p.val 0x8 h d
    exec (.boardWriteRx p h d) s = .next (flowDone p.val h (.boardWriteRx p h d) (boardWritten
      (boardBad s1 h.addr.toNat d.length) s1 (writeOff s1 h.job.toNat 255 (h.addr.toNat % 2 ^ 46) d))) :=
  congrArg Host.Outcome.next (arriveAsk_of_asks ha ..)

theorem flowDone_boardWritten_taken {bad : Nat} {w : State × Nat} (self : Instr) (hb : bad = 0) (hw : w.2 = 0) :
    flowDone p.val h self (boardWritten bad s w) = flowNext (ack w.1 p.val h) p.val h none := by
  rw [boardWritten, if_neg (not_not.mpr hb), if_pos hw]
  rfl

theorem flowDone_boardWritten_refused {bad : Nat} {w : State × Nat} (self : Instr) (hb : bad = 0) (hw : w.2 ≠ 0) :
    let c := if w.2 = 0x03 then 0x06 else w.2
    flowDone p.val h self (boardWritten bad s w) = flowNext (nakRemote w.1 p.val h c) p.val h (some c) := by
  rw [boardWritten, if_neg (not_not.mpr hb), if_neg hw]
  rfl

theorem flowDone_boardWritten_bad {bad : Nat} {w : State × Nat} (self : Instr) (hb : bad ≠ 0) :
    flowDone p.val h self (boardWritten bad s w) = flowNext (nakRemote s p.val h bad) p.val h (some bad) := by
  rw [boardWritten, if_pos hb]
  rfl

/-- What a board-class read has come to, from why it is refused and what reading came to (R17, R266). -/
def boardAnswered (p : Port) (h : MolHdr) (bad : Nat) (s : State) (x : State × Nat × Bytes) : State × Arrive :=
  if bad ≠ 0 then (s, .refused bad)
  else if x.2.1 ≠ 0 then (x.1, .refused x.2.1)
  else (replyOn x.1 p.val 0xA h h.addr.toNat x.2.2, .served)

theorem exec_boardReadRx_of_asks {n : BitVec 13} (ha : Asks (takePkt s p.val 0x9 h (toLe 8 n.toNat)) p 0x9 h) :
    let s1 := takePkt s p.val 0x9 h (toLe 8 n.toNat)
    exec (.boardReadRx p h n) s = .next (flowDone p.val h (.boardReadRx p h n) (boardAnswered p h
      (boardBad s1 h.addr.toNat n.toNat) s1 (readOff s1 h.job.toNat 255 (h.addr.toNat % 2 ^ 46) n.toNat))) :=
  congrArg Host.Outcome.next (arriveAsk_of_asks ha ..)

theorem flowDone_boardAnswered_served {bad : Nat} {x : State × Nat × Bytes} (self : Instr) (hb : bad = 0) (hx : x.2.1 = 0) :
    flowDone p.val h self (boardAnswered p h bad s x) =
      flowNext (replyOn x.1 p.val 0xA h h.addr.toNat x.2.2) p.val h none := by
  rw [boardAnswered, if_neg (not_not.mpr hb), if_neg (not_not.mpr hx)]
  rfl

theorem flowDone_boardAnswered_refused {bad : Nat} {x : State × Nat × Bytes} (self : Instr) (hb : bad = 0) (hx : x.2.1 ≠ 0) :
    flowDone p.val h self (boardAnswered p h bad s x) = flowNext (nakRemote x.1 p.val h x.2.1) p.val h (some x.2.1) := by
  rw [boardAnswered, if_neg (not_not.mpr hb), if_pos hx]
  rfl

theorem flowDone_boardAnswered_bad {bad : Nat} {x : State × Nat × Bytes} (self : Instr) (hb : bad ≠ 0) :
    flowDone p.val h self (boardAnswered p h bad s x) = flowNext (nakRemote s p.val h bad) p.val h (some bad) := by
  rw [boardAnswered, if_pos hb]
  rfl

/-- A packet for another module that arrives on a port in data service goes on toward it (R419, R422). -/
theorem exec_molindPacketForward_of_dataPort {op : BitVec 4} {d : Bytes} (hm : isModulePort p.val = true)
    (hs : inService s p.val = true) (hd : dataPort s p.val = true) (hb : boardOp op.toNat = true → isTray p.val = true)
    (hdst : h.dst.toNat ≠ ownModule s) :
    exec (.molindPacketForward p op h d) s = .next (forward (takePkt s p.val op.toNat h d) p.val op.toNat h d) := by
  have harrive := arriveMol_of_dataPort (s := takePkt s p.val op.toNat h d) (h := h) hm
    ((inService_takePkt ..).trans hs) ((dataPort_takePkt ..).trans hd) hb d id
  rw [ownModule_takePkt, if_pos hdst] at harrive
  rw [← harrive]
  exact congrArg Host.Outcome.next (if_neg hdst)

end Rows

/-- Toward a module that no routing entry reaches the packet is dropped and counted (R423). -/
theorem forward_of_unreachable {p op : Nat} {h : MolHdr} {d : Bytes} (hf : forwards s = true)
    (he : entryVersion (entryFor s h.job.toNat h.dst.toNat) = 0) : forward s p op h d = bump s .lnkDrop_unreachable := by
  simp [forward, hf, he]

/-! ### The note of a message -/

section Note
variable (key : List Nat)

theorem msgPart_setPart_same {m : Option PartMsg} (hm : ∀ x ∈ m, x.key = key) :
    msgPart (setPart s m key) key = m.getD ⟨key, 0, none, false⟩ := by
  have hrest : (s.xpt.parts.filter (fun x => decide (x.key ≠ key))).find? (fun x => decide (x.key = key)) = none := by
    simp
  have hnew : m.toList.find? (fun x => decide (x.key = key)) = m := by
    cases m with
    | none => rfl
    | some x => simp [hm x rfl]
  rw [msgPart, setPart]
  dsimp only
  rw [List.find?_append, hrest, hnew, Option.none_or]

theorem msgPart_setPart_ne {m : Option PartMsg} (hm : ∀ x ∈ m, x.key = key) {k : List Nat} (hk : k ≠ key) :
    msgPart (setPart s m key) k = msgPart s k := by
  have hrest : (s.xpt.parts.filter (fun x => decide (x.key ≠ key))).find? (fun x => decide (x.key = k)) =
      s.xpt.parts.find? (fun x => decide (x.key = k)) := by
    rw [List.find?_filter]
    congr 1
    funext x
    by_cases hx : x.key = k <;> simp [hx, hk]
  have hnew : m.toList.find? (fun x => decide (x.key = k)) = none := by
    cases m with
    | none => rfl
    | some x => simp [hm x rfl, Ne.symm hk]
  rw [msgPart, setPart]
  dsimp only
  rw [List.find?_append, hrest, hnew, Option.or_none, msgPart]

variable (len : Option Nat) (n : Nat) (refused : Bool)

/-- The length of a message once one more of its packets has come, where a packet has told it. -/
def toldLen : Option Nat := if len.isSome then len else (msgPart s key).len

/-- What is noted of a message whose packets have not all come. -/
def grown : PartMsg := ⟨key, (msgPart s key).got + n, toldLen s key len, (msgPart s key).refused || refused⟩

theorem notePart_fst : (notePart s key len n refused).1 =
    setPart s (if (notePart s key len n refused).2 = true then none else some (grown s key len n refused)) key := rfl

theorem notePart_complete_iff :
    (notePart s key len n refused).2 = true ↔ ∃ l, toldLen s key len = some l ∧ l ≤ (msgPart s key).got + n := by
  have hall : (notePart s key len n refused).2 = match toldLen s key len with
    | none => false
    | some l => decide (l ≤ (msgPart s key).got + n) := rfl
  rw [hall]
  cases toldLen s key len <;> simp

theorem notePart_only_xpt : { (notePart s key len n refused).1 with xpt := s.xpt } = s := rfl

/-- What is noted under a message's key is of that message. -/
theorem key_of_mem_noted (c : Bool) : ∀ x ∈ (if c = true then none else some (grown s key len n refused)), x.key = key := by
  cases c <;> simp [grown]

theorem msgPart_notePart_same : msgPart (notePart s key len n refused).1 key =
    if (notePart s key len n refused).2 = true then ⟨key, 0, none, false⟩ else grown s key len n refused := by
  rw [notePart_fst, msgPart_setPart_same _ _ (key_of_mem_noted _ _ _ _ _ _)]
  split <;> rfl

theorem msgPart_notePart_ne {k : List Nat} (hk : k ≠ key) : msgPart (notePart s key len n refused).1 k = msgPart s k := by
  rw [notePart_fst, msgPart_setPart_ne _ _ (key_of_mem_noted _ _ _ _ _ _) hk]

end Note

/-! ### Accesses that are refused -/

section Refused
variable (a : RegAccess)

theorem regRefuse_ne_translation {s : State} {reason : Nat} (hr : regRefuse s a = some reason) : reason ≠ 7 := by
  rintro rfl
  unfold regRefuse at hr
  dsimp only at hr
  repeat' split at hr
  all_goals simp at hr

variable (reason shown : Nat)

/-- After the first refusal is recorded a further one is counted only. -/
theorem noteRefuse_of_valid (hv : get s .xptRefuse0_valid 0 ≠ 0) : noteRefuse s a reason shown = bump s .xptRegcnt_refused := by
  simp [noteRefuse, flag, hv]

/-- The first refusal is recorded with its access. -/
theorem noteRefuse_of_not_valid (hv : get s .xptRefuse0_valid 0 = 0) : noteRefuse s a reason shown =
    put (put (put (put (put (put (put (bump s .xptRegcnt_refused) .xptRefuse0_region a.region) .xptRefuse0_gen a.gen)
      .xptRefuse0_reason reason) .xptRefuse0_port a.port) .xptRefuse0_job a.job) .xptRefuse0_valid 1) .xptRefuse1_offset shown := by
  simp [noteRefuse, flag, hv]

theorem noteRefuse_mem : (noteRefuse s a reason shown).mem = s.mem := by
  by_cases hv : get s .xptRefuse0_valid 0 = 0
  · simp [noteRefuse_of_not_valid s a reason shown hv]
  · simp [noteRefuse_of_valid s a reason shown hv]

theorem counted_noteRefuse : Counted s (noteRefuse s a reason shown) .xptRegcnt_refused 0 1 := by
  have hcount := counted_bump s .xptRegcnt_refused 1 0
  unfold Counted at hcount ⊢
  by_cases hv : get s .xptRefuse0_valid 0 = 0
  · simpa [noteRefuse_of_not_valid s a reason shown hv] using hcount
  · simpa [noteRefuse_of_valid s a reason shown hv] using hcount

theorem noteRefuse_records (hv : get s .xptRefuse0_valid 0 = 0) :
    get (noteRefuse s a reason shown) .xptRefuse0_valid 0 = 1 ∧
      get (noteRefuse s a reason shown) .xptRefuse0_reason 0 = reason % 2 ^ Fld.xptRefuse0_reason.width := by
  rw [noteRefuse_of_not_valid s a reason shown hv]
  have hwidth : Fld.xptRefuse0_valid.width = 1 := rfl
  exact ⟨by simp [hwidth], by simp⟩

variable (key : List Nat) (len : Option Nat) (d : Bytes)

theorem keepRefused_mem (n : Nat) : (keepRefused s key len n).mem = s.mem := rfl

theorem get_keepRefused (n : Nat) (f : Fld) (i : Nat) : get (keepRefused s key len n) f i = get s f i := rfl

/-- A message that a packet was refused of stays refused (R327). -/
theorem placeWrite_of_refused (hm : (msgPart s key).refused = true) :
    placeWrite s a key len shown d = (keepRefused s key len d.length, .refused 0x06) := if_pos hm

variable {reason}

/-- What the region refuses is counted, recorded and remembered, and answered with code 0x06 (R327). -/
theorem placeWrite_of_regRefuse (hr : regRefuse s a = some reason) (hm : (msgPart s key).refused = false) :
    placeWrite s a key len shown d = (keepRefused (noteRefuse s a reason shown) key len d.length, .refused 0x06) := by
  have hstill : accessMoving s a = false := by simp [accessMoving, hr]
  have hwhy : accessRefuse s a = some reason := by simp [accessRefuse, hr]
  have hcode : refuseCode s a reason = (s, 0x06) := if_neg (regRefuse_ne_translation a hr)
  simp [placeWrite, hm, hstill, hwhy, hcode]

/-- A write that its region refuses changes no memory, and its answer, its count and its record are those of R327. -/
theorem placeWrite_refused_by_region (hr : regRefuse s a = some reason) (hm : (msgPart s key).refused = false) :
    let x := placeWrite s a key len shown d
    x.2 = .refused 0x06 ∧ KeptMem s x.1 ∧ Counted s x.1 .xptRegcnt_refused 0 1 ∧
    (get s .xptRefuse0_valid 0 = 0 → get x.1 .xptRefuse0_valid 0 = 1 ∧
      get x.1 .xptRefuse0_reason 0 = reason % 2 ^ Fld.xptRefuse0_reason.width) := by
  simp only [placeWrite_of_regRefuse s a shown key len d hr hm, Counted, get_keepRefused]
  refine ⟨trivial, fun b => ?_, counted_noteRefuse s a reason shown, noteRefuse_records s a reason shown⟩
  rw [rdByte, keepRefused_mem, noteRefuse_mem, rdByte]

end Refused

end Sys2Proof.Machine

namespace Sys2Proof.Machine

/-- Settles O47: a packet that lands in its turn comes to what its own rules make of it, and these say what is placed, refused and
noted. -/
theorem molindRequestsAreServed : Obligations.MolindRequestsAreServed := by
  intro p h s
  refine ⟨fun _ _ _ _ => exec_molindPutRx_of_asks, fun _ => exec_molindFlagWriteRx_of_asks, fun n => ?get,
    fun a key len d shown hm => ?known, fun key len n refused => ?note,
    fun a key len d shown _ => placeWrite_refused_by_region s a shown key len d,
    fun d => ?boardWrite, fun n => ?boardRead, fun op d hp hs hd hb hdst => ?forward⟩
  case get =>
    intro s1 x ha
    rw [exec_molindGetRequestRx_of_asks ha]
    refine ⟨fun hx => ?_, fun hx => ?_, fun c hx => ?_⟩
    · rw [flowDone_getAnswered_served _ hx]
    · rw [flowDone_getAnswered_held _ hx]
    · rw [flowDone_getAnswered_refused _ hx]
  case known =>
    rw [placeWrite_of_refused s a shown key len d hm]
    exact ⟨rfl, notePart_only_xpt ..⟩
  case note =>
    exact ⟨notePart_complete_iff .., notePart_only_xpt .., msgPart_notePart_same ..,
      fun _ => msgPart_notePart_ne s key len n refused⟩
  case boardWrite =>
    intro s1 bad w c ha
    rw [exec_boardWriteRx_of_asks ha]
    refine ⟨fun hb hw => ?_, fun hb hw => ?_, fun hb => ?_⟩
    · rw [flowDone_boardWritten_taken _ hb hw]
    · rw [flowDone_boardWritten_refused _ hb hw]
    · rw [flowDone_boardWritten_bad _ hb]
  case boardRead =>
    intro s1 bad x ha
    rw [exec_boardReadRx_of_asks ha]
    refine ⟨fun hb hx => ?_, fun hb hx => ?_, fun hb => ?_⟩
    · rw [flowDone_boardAnswered_served _ hb hx]
    · rw [flowDone_boardAnswered_refused _ hb hx]
    · rw [flowDone_boardAnswered_bad _ hb]
  case forward =>
    have hgo := exec_molindPacketForward_of_dataPort (d := d) hp hs hd hb hdst
    refine ⟨hgo, fun hl hf he => ⟨_, hgo, ?_⟩⟩
    rw [takePkt_of_no_pkts s p.val op.toNat h d hl, forward_of_unreachable s hf he]
    exact ⟨counted_bump .., onlyRegs_bump ..⟩

end Sys2Proof.Machine
end

section
/-!
What the updates that the tide's statements speak of leave alone: register fields, memory, and the parts of the state besides.
-/
namespace Sys2Proof.Machine

variable {s t u : State}

/-! ### Registers and memory that are kept -/

theorem get_of_regs_eq (hr : t.regs = s.regs) (hf : t.fuses = s.fuses) (f : Fld) (i : Nat) : get t f i = get s f i := by
  rw [get, get, hr, hf]

theorem keptRegs_of_regs_eq (hr : t.regs = s.regs) (hf : t.fuses = s.fuses) (l : List Fld) : KeptRegs s t l :=
  fun f i _ => get_of_regs_eq hr hf f i

theorem keptMem_of_mem_eq (hm : t.mem = s.mem) : KeptMem s t := fun a => by rw [rdByte, rdByte, hm]

theorem keptRegs_trans {l : List Fld} (hst : KeptRegs s t l) (htu : KeptRegs t u l) : KeptRegs s u l :=
  fun f i hf => (htu f i hf).trans (hst f i hf)

theorem keptRegs_mono {l l' : List Fld} (hst : KeptRegs s t l) (hl : l ⊆ l') : KeptRegs s t l' :=
  fun f i hf => hst f i (fun h => hf (hl h))

theorem keptRegs_put {l : List Fld} (hst : KeptRegs s t l) {f : Fld} (hf : f ∈ l) (v i : Nat) : KeptRegs s (put t f v i) l :=
  fun g j hg => (get_put_fld t v i j (ne_of_mem_of_not_mem hf hg).symm).trans (hst g j hg)

theorem keptRegs_bump {l : List Fld} (hst : KeptRegs s t l) {f : Fld} (hf : f ∈ l) (n i : Nat) : KeptRegs s (bump t f n i) l :=
  keptRegs_put hst hf _ i

theorem get_bumpW_fld (s : State) {f g : Fld} (n i j : Nat) (h : g ≠ f) : get (bumpW s f n i) g j = get s g j :=
  get_put_fld s _ i j h

/-! ### Events -/

theorem get_setAlert_ne (s : State) {f : Fld} (hf : f ≠ .evtStat_alert) (i : Nat) : get (setAlert s) f i = get s f i := by
  unfold setAlert
  split
  · rfl
  · exact get_put_fld s 1 0 i hf

theorem exists_setAlert_eq (s : State) : ∃ r o, setAlert s = { s with regs := r, out := o } := by
  unfold setAlert
  split
  · exact ⟨s.regs, s.out, rfl⟩
  · exact ⟨_, _, rfl⟩

variable (s) (code fn job step d0 d1 : Nat)

/-- An event changes the log, its registers, and the pin ALERT_N. -/
theorem exists_logEvt_eq : ∃ r e o, logEvt s code fn job step d0 d1 = { s with regs := r, evt := e, out := o } := by
  have halert (u : State) (hu : ∃ r e o, u = { s with regs := r, evt := e, out := o }) :
      ∃ r e o, setAlert u = { s with regs := r, evt := e, out := o } := by
    obtain ⟨r, e, o, rfl⟩ := hu
    obtain ⟨r', o', h⟩ := exists_setAlert_eq { s with regs := r, evt := e, out := o }
    exact ⟨r', e, o', h⟩
  have hput (u : State) (f : Fld) (v : Nat) (hu : ∃ r e o, u = { s with regs := r, evt := e, out := o }) :
      ∃ r e o, put u f v = { s with regs := r, evt := e, out := o } := by
    obtain ⟨r, e, o, rfl⟩ := hu
    exact ⟨_, e, o, rfl⟩
  have hself : ∃ r e o, s = { s with regs := r, evt := e, out := o } := ⟨s.regs, s.evt, s.out, rfl⟩
  have hlogged (e : SMap (List Word)) (h n m : Nat) : ∃ r e' o, put (put (put { s with evt := e } .evtHead_head h)
      .evtHead_total n) .evtStat_unread m = { s with regs := r, evt := e', out := o } :=
    hput _ _ _ (hput _ _ _ (hput _ _ _ ⟨s.regs, e, s.out, rfl⟩))
  unfold logEvt bump bumpW
  dsimp only
  split
  · exact hput _ _ _ (hput _ _ _ hself)
  · split <;> split
    · exact halert _ (hput _ _ _ (halert _ (hlogged ..)))
    · exact halert _ (hput _ _ _ (hlogged ..))
    · exact halert _ (hlogged ..)
    · exact hlogged ..

theorem logEvt_fuses : (logEvt s code fn job step d0 d1).fuses = s.fuses := by
  obtain ⟨r, e, o, h⟩ := exists_logEvt_eq s code fn job step d0 d1
  rw [h]

theorem logEvt_mem : (logEvt s code fn job step d0 d1).mem = s.mem := by
  obtain ⟨r, e, o, h⟩ := exists_logEvt_eq s code fn job step d0 d1
  rw [h]

theorem logEvt_time : (logEvt s code fn job step d0 d1).time = s.time := by
  obtain ⟨r, e, o, h⟩ := exists_logEvt_eq s code fn job step d0 d1
  rw [h]

theorem logEvt_shp : (logEvt s code fn job step d0 d1).shp = s.shp := by
  obtain ⟨r, e, o, h⟩ := exists_logEvt_eq s code fn job step d0 d1
  rw [h]

/-- No register field but those of the log changes with an event. -/
theorem get_logEvt_ne {f : Fld} (hf : f ∉ eventFlds) (i : Nat) : get (logEvt s code fn job step d0 d1) f i = get s f i := by
  simp only [eventFlds, List.mem_cons, List.not_mem_nil, or_false, not_or] at hf
  obtain ⟨hunread, hfull, halert, hlost, hhead, htotal⟩ := hf
  have hlogged (e : SMap (List Word)) (h n : Nat) : get (put (bumpW (put { s with evt := e } .evtHead_head h) .evtHead_total)
      .evtStat_unread n) f i = get s f i := by
    rw [get_put_fld _ _ _ _ hunread, get_bumpW_fld _ _ _ _ htotal, get_put_fld _ _ _ _ hhead]
    rfl
  unfold logEvt
  dsimp only
  split
  · rw [get_put_fld _ _ _ _ hfull, get_bump_fld _ _ _ _ hlost]
  · split <;> split <;> simp [get_setAlert_ne, halert, hfull, hlogged]

theorem keptRegs_logEvt : KeptRegs s (logEvt s code fn job step d0 d1) eventFlds :=
  fun _ i hf => get_logEvt_ne s code fn job step d0 d1 hf i

end Sys2Proof.Machine
end

section
/-!
The pulse output and the timestamp exchange (R36 to R38, R417): what a flit that leaves and an acknowledgement change, and a
timestamp flit's fields through its word.
-/
namespace Sys2Proof.Machine

variable (s : State)

/-! ### What leaves a port -/

theorem exists_emitFlit_eq (p : Nat) (x : BitVec 2048) : ∃ o, emitFlit s p x = { s with out := s.out ++ o } := by
  unfold emitFlit
  split <;> exact ⟨_, rfl⟩

/-- A flit that carries no data leaves, and nothing else changes. -/
theorem exists_sendStamp_eq (p : Nat) (f : TsFlit) : ∃ o, sendStamp s p f = { s with out := s.out ++ o } :=
  exists_emitFlit_eq ..

theorem sendStamp_fuses (p : Nat) (f : TsFlit) : (sendStamp s p f).fuses = s.fuses := by
  obtain ⟨o, h⟩ := exists_sendStamp_eq s p f
  rw [h]

theorem sendStamp_regs (p : Nat) (f : TsFlit) : (sendStamp s p f).regs = s.regs := by
  obtain ⟨o, h⟩ := exists_sendStamp_eq s p f
  rw [h]

theorem sendStamp_mem (p : Nat) (f : TsFlit) : (sendStamp s p f).mem = s.mem := by
  obtain ⟨o, h⟩ := exists_sendStamp_eq s p f
  rw [h]

theorem sendStamp_time (p : Nat) (f : TsFlit) : (sendStamp s p f).time = s.time := by
  obtain ⟨o, h⟩ := exists_sendStamp_eq s p f
  rw [h]

theorem sendStamp_lnk (p : Nat) (f : TsFlit) : (sendStamp s p f).lnk = s.lnk := by
  obtain ⟨o, h⟩ := exists_sendStamp_eq s p f
  rw [h]

/-- On a port that is no global one the flit leaves as it is (R415). -/
theorem sendStamp_of_not_global {p : Nat} (hp : isGlobal p = false) (f : TsFlit) :
    sendStamp s p f = { s with out := s.out ++ [.flit p (mkFlit flitStamp (nextSeq (linkOf s p)) (lastSeq (linkOf s p)) (tsPayload f))] } :=
  if_neg (by simp [hp])

/-- What leaves depends on the port's numbers and addresses alone. -/
theorem sendStamp_out_congr {t : State} {p : Nat} (f : TsFlit) (hout : t.out = s.out) (hfuses : t.fuses = s.fuses)
    (hnext : nextSeq (linkOf t p) = nextSeq (linkOf s p)) (hlast : lastSeq (linkOf t p) = lastSeq (linkOf s p))
    (hmac : (linkOf t p).mac = (linkOf s p).mac) : (sendStamp t p f).out = (sendStamp s p f).out := by
  unfold sendStamp sendFlit emitFlit emit
  rw [hnext, hlast, hmac, hfuses, hout]
  split <;> rfl

@[simp] theorem linkOf_setLink_same (p : Nat) (l : LinkSt) : linkOf (setLink s p l) p = l := mget_mset_same ..

/-! ### Acknowledgements -/

theorem exists_pumpFlits_eq (p : Nat) : ∃ l o, pumpFlits s p = { s with lnk := l, out := o } := by
  have heach (fl : List (Nat × BitVec 1984)) (a : Nat) (u : State) :
      ∃ o, each fl (fun s f => emitFlit s p (mkFlit flitData f.1 a f.2.toNat)) u = { u with out := o } := by
    induction fl generalizing u with
    | nil => exact ⟨u.out, rfl⟩
    | cons f fl ih =>
      obtain ⟨o, h⟩ := exists_emitFlit_eq u p (mkFlit flitData f.1 a f.2.toNat)
      obtain ⟨o', h'⟩ := ih { u with out := u.out ++ o }
      exact ⟨o', by rw [each, List.foldl_cons, h]; exact h'⟩
  obtain ⟨o, h⟩ := heach _ _ _
  exact ⟨_, o, h⟩

/-- An acknowledgement moves a port's flits, and nothing else. -/
theorem exists_ackFlits_eq (p a : Nat) : ∃ l o, ackFlits s p a = { s with lnk := l, out := o } := by
  have hpump (u : State) (hu : ∃ l, u = { s with lnk := l }) : ∃ l o, pumpFlits u p = { s with lnk := l, out := o } := by
    obtain ⟨l, rfl⟩ := hu
    obtain ⟨l', o, h⟩ := exists_pumpFlits_eq { s with lnk := l } p
    exact ⟨l', o, h⟩
  have hset (c : Prop) [Decidable c] (x : LinkSt) : ∃ l, (if c then setLink s p x else s) = { s with lnk := l } := by
    split
    · exact ⟨_, rfl⟩
    · exact ⟨s.lnk, rfl⟩
  exact hpump _ (hset ..)

theorem ackFlits_time (p a : Nat) : (ackFlits s p a).time = s.time := by
  obtain ⟨l, o, h⟩ := exists_ackFlits_eq s p a
  rw [h]

theorem ackFlits_regs (p a : Nat) : (ackFlits s p a).regs = s.regs := by
  obtain ⟨l, o, h⟩ := exists_ackFlits_eq s p a
  rw [h]

theorem ackFlits_fuses (p a : Nat) : (ackFlits s p a).fuses = s.fuses := by
  obtain ⟨l, o, h⟩ := exists_ackFlits_eq s p a
  rw [h]

/-! ### Fields of a number -/

/-- The low field of a number that is laid out field by field. -/
theorem add_mul_mod_of_lt {a n : Nat} (b : Nat) (ha : a < n) : (a + n * b) % n = a := by
  rw [Nat.add_mul_mod_self_left, Nat.mod_eq_of_lt ha]

/-- The fields above it. -/
theorem add_mul_div_of_lt {a n : Nat} (b : Nat) (ha : a < n) : (a + n * b) / n = b := by
  rw [Nat.add_mul_div_left _ _ (Nat.zero_lt_of_lt ha), Nat.div_eq_of_lt ha, Nat.zero_add]

/-- The low bytes of a number are those of its remainder. -/
theorem toLe_add_mul (n a c : Nat) : toLe n (a + 256 ^ n * c) = toLe n a := by
  refine List.map_congr_left (fun i hi => BitVec.eq_of_toNat_eq ?_)
  have hi' : i < n := List.mem_range.mp hi
  have hpow : 256 ^ n * c = 256 ^ i * (256 * (256 ^ (n - i - 1) * c)) := by
    rw [show n = i + 1 + (n - i - 1) by omega, pow_add, pow_succ, show i + 1 + (n - i - 1) - i - 1 = n - i - 1 by omega]
    ring
  rw [hpow, Nat.add_mul_div_left _ _ (Nat.pow_pos (by decide)), BitVec.toNat_ofNat, BitVec.toNat_ofNat]
  exact Nat.add_mul_mod_self_left ..

theorem take_toLe {m n : Nat} (h : m ≤ n) (v : Nat) : (toLe n v).take m = toLe m v := by
  rw [toLe, ← List.map_take, List.take_range, Nat.min_eq_left h]
  rfl

/-! ### Flits as words -/

section Flit
variable (type seq ack payload : Nat)

theorem flitBody_lt : flitBody type seq ack payload < 2 ^ 2016 := by
  have ht := Nat.mod_lt type (Nat.two_pow_pos 4)
  have hs := Nat.mod_lt seq (Nat.two_pow_pos 12)
  have ha := Nat.mod_lt ack (Nat.two_pow_pos 12)
  have hp := Nat.mod_lt payload (Nat.two_pow_pos 1984)
  unfold flitBody
  omega

/-- A flit's number is its body and, above, its check value. -/
theorem mkFlit_toNat : (mkFlit type seq ack payload).toNat = flitBody type seq ack payload +
    2 ^ 2016 * (crc32 (toLe 252 (flitBody type seq ack payload))).toNat := by
  have hb := flitBody_lt type seq ack payload
  have hc := (crc32 (toLe 252 (flitBody type seq ack payload))).isLt
  rw [mkFlit, BitVec.toNat_ofNat]
  refine Nat.mod_eq_of_lt ?_
  omega

/-- A flit that is made has a good check value (R402). -/
theorem flitOk_mkFlit : flitOk (mkFlit type seq ack payload) = true := by
  have hpow : (2 : Nat) ^ 2016 = 256 ^ 252 := by rw [show (2016 : Nat) = 8 * 252 from rfl, pow_mul, show (2 : Nat) ^ 8 = 256 from rfl]
  have hbytes : (flitBytes (mkFlit type seq ack payload)).take 252 = toLe 252 (flitBody type seq ack payload) := by
    rw [flitBytes, take_toLe (by decide), mkFlit_toNat, hpow, toLe_add_mul]
  have hcrc : bitsOf (mkFlit type seq ack payload).toNat 2047 2016 =
      (crc32 (toLe 252 (flitBody type seq ack payload))).toNat := by
    rw [bitsOf, mkFlit_toNat, add_mul_div_of_lt _ (flitBody_lt ..)]
    exact Nat.mod_eq_of_lt (BitVec.isLt _)
  rw [flitOk, hbytes, hcrc, decide_eq_true rfl]

theorem flitType_mkFlit : flitType (mkFlit type seq ack payload) = type % 16 := by
  rw [flitType, bitsOf, mkFlit_toNat, flitBody]
  omega

/-- The words of its payload that a timestamp flit uses. -/
theorem flitWord_mkFlit {i : Nat} (hi : i < 4) :
    flitWord (mkFlit type seq ack payload) i = payload / 2 ^ (64 * i) % 2 ^ 64 := by
  rw [flitWord, bitsOf, mkFlit_toNat, flitBody]
  interval_cases i <;> omega

end Flit

/-- A timestamp flit carries what it was made of (R417). -/
theorem tsFields_mkFlit (type seq ack : Nat) (f : TsFlit) : tsFields (mkFlit type seq ack (tsPayload f)) = f := by
  have hd := f.depth.isLt
  have hs := f.state.isLt
  have hi := f.id.isLt
  have h1 := f.t1.isLt
  have h2 := f.t2.isLt
  have h3 := f.t3.isLt
  have hb : bit f.response < 2 := by cases f.response <;> decide
  have hw0 : flitWord (mkFlit type seq ack (tsPayload f)) 0 =
      bit f.response + 2 * (f.depth.toNat + 2 ^ 4 * (f.state.toNat + 2 ^ 2 * f.id.toNat)) := by
    rw [flitWord_mkFlit _ _ _ _ (by decide), tsPayload]
    omega
  have hw1 : flitWord (mkFlit type seq ack (tsPayload f)) 1 = f.t1.toNat := by
    rw [flitWord_mkFlit _ _ _ _ (by decide), tsPayload]
    omega
  have hw2 : flitWord (mkFlit type seq ack (tsPayload f)) 2 = f.t2.toNat := by
    rw [flitWord_mkFlit _ _ _ _ (by decide), tsPayload]
    omega
  have hw3 : flitWord (mkFlit type seq ack (tsPayload f)) 3 = f.t3.toNat := by
    rw [flitWord_mkFlit _ _ _ _ (by decide), tsPayload]
    omega
  have hresp : tst (bit f.response + 2 * (f.depth.toNat + 2 ^ 4 * (f.state.toNat + 2 ^ 2 * f.id.toNat))) 0 = f.response := by
    rw [tst, Nat.testBit_zero, Nat.add_mul_mod_self_left]
    cases f.response <;> rfl
  have hfields : f = ⟨f.response, f.depth, f.state, f.id, f.t1, f.t2, f.t3⟩ := rfl
  rw [tsFields, hw0, hw1, hw2, hw3, hresp, hfields]
  congr 1 <;> refine BitVec.eq_of_toNat_eq ?_ <;> simp only [BitVec.toNat_ofNat, bitsOf] <;> omega

/-! ### The timestamp exchange -/

theorem inService_of_stampLink {p : Nat} (h : stampLink s p = true) : inService s p = true := by
  simp only [stampLink, molLink, Bool.and_eq_true] at h
  exact h.2.1.2

theorem isParent_congr {s t : State} (hr : t.regs = s.regs) (hf : t.fuses = s.fuses) (p : Nat) : isParent t p = isParent s p := by
  simp only [isParent, get_of_regs_eq hr hf]

theorem stampNow_lt : stampNow s < 2 ^ 64 := Nat.mod_lt _ (Nat.two_pow_pos 64)

theorem toNat_stampNow : (BitVec.ofNat 64 (stampNow s)).toNat = stampNow s := by
  rw [BitVec.toNat_ofNat, Nat.mod_eq_of_lt (stampNow_lt s)]

/-- What a timestamp request carries (R37, R417). -/
def requestFlit (p : Nat) : TsFlit :=
  ⟨false, BitVec.ofNat 4 (get s .tideStat_depth), BitVec.ofNat 2 (tideState s), BitVec.ofNat 16 ((linkOf s p).stampId % 2 ^ 16),
    BitVec.ofNat 64 (stampNow s), 0, 0⟩

/-- The exchange of a port is outstanding, with its number and when it left. -/
def noteRequest (p : Nat) : State :=
  { s with
    lnk := mset LinkSt.init s.lnk p { linkOf s p with
      stampAt := some s.time.ticks, stampId := ((linkOf s p).stampId % 2 ^ 16 + 1) % 2 ^ 16 }
    time := { s.time with exch := mset none s.time.exch p (some ((linkOf s p).stampId % 2 ^ 16, stampNow s)) } }

/-- A request leaves a link that carries the exchange where none has left in the last 4,096 ns (R37). -/
theorem exec_timestampExchangeSend_of_due {p : Port} (hl : stampLink s p.val = true)
    (hdue : ∀ n, (linkOf s p.val).stampAt = some n → n + 4096 ≤ s.time.ticks) :
    exec (.timestampExchangeSend p) s = .next (sendStamp (noteRequest s p.val) p.val (requestFlit s p.val)) := by
  have hgo : (stampLink s p.val && (match (linkOf s p.val).stampAt with
      | none => true
      | some t => decide (t + 4096 ≤ s.time.ticks))) = true := by
    cases hat : (linkOf s p.val).stampAt with
    | none => simp [hl]
    | some n => simp [hl, hdue n hat]
  exact congrArg Host.Outcome.next (if_pos hgo)

theorem linkOf_noteRequest (p : Nat) : linkOf (noteRequest s p) p = { linkOf s p with
    stampAt := some s.time.ticks, stampId := ((linkOf s p).stampId % 2 ^ 16 + 1) % 2 ^ 16 } := by
  simp [linkOf, noteRequest]

theorem requestFlit_id (p : Nat) : (requestFlit s p).id.toNat = (linkOf s p).stampId % 2 ^ 16 := by
  rw [requestFlit, BitVec.toNat_ofNat, Nat.mod_mod]

/-- What a request leaves: the flit, and the exchange outstanding. -/
theorem sendStamp_noteRequest (p : Nat) :
    let t := sendStamp (noteRequest s p) p (requestFlit s p)
    t.out = (sendStamp s p (requestFlit s p)).out ∧
    mget none t.time.exch p = some ((linkOf s p).stampId % 2 ^ 16, stampNow s) ∧
    (linkOf t p).stampAt = some s.time.ticks ∧ KeptRegs s t [] ∧ KeptMem s t := by
  have hlink := linkOf_noteRequest s p
  refine ⟨sendStamp_out_congr s _ rfl rfl ?_ ?_ ?_, ?_, ?_, keptRegs_of_regs_eq (sendStamp_regs ..) (sendStamp_fuses ..) _,
    keptMem_of_mem_eq (sendStamp_mem ..)⟩
  · rw [hlink, nextSeq, nextSeq]
  · rw [hlink, lastSeq, lastSeq]
  · rw [hlink]
  · rw [sendStamp_time]
    simp [noteRequest]
  · rw [linkOf, sendStamp_lnk, ← linkOf, hlink]

section Received
variable {s} {p : Port} {fl : BitVec 2048}

/-- A timestamp flit with a wrong check value is counted and nothing more (R402). -/
theorem exec_timestampFlitRx_of_bad (hl : stampLink s p.val = true) (hbad : flitOk fl = false) (arrival : BitVec 64) :
    exec (.timestampFlitRx p fl arrival) s = .next (bump s .lnkPerr_crc 1 p.val) := by
  have hrx (body : State → State) : rxFlit s p.val fl flitStamp body = bump s .lnkPerr_crc 1 p.val := by
    simp [rxFlit, hbad]
  exact congrArg Host.Outcome.next ((if_pos hl).trans (hrx _))

/-- One that is good meets its own rules once its acknowledgement number has come. -/
theorem exec_timestampFlitRx_of_ok (hl : stampLink s p.val = true) (ht : flitType fl = flitStamp) (hok : flitOk fl = true)
    (arrival : BitVec 64) :
    exec (.timestampFlitRx p fl arrival) s = .next (if (tsFields fl).response = true
      then stampResponse (ackFlits s p.val (flitAck fl)) p.val (tsFields fl) arrival.toNat
      else stampRequest (ackFlits s p.val (flitAck fl)) p.val (tsFields fl) arrival) := by
  have hrx (body : State → State) : rxFlit s p.val fl flitStamp body = body (ackFlits s p.val (flitAck fl)) := by
    simp [rxFlit, hok, ht, flitStamp, inService_of_stampLink s hl]
  exact congrArg Host.Outcome.next ((if_pos hl).trans (hrx _))

end Received

/-- The answer to a request (R37, R417). -/
def responseFlit (f : TsFlit) (arrival : BitVec 64) : TsFlit :=
  ⟨true, BitVec.ofNat 4 (get s .tideStat_depth), BitVec.ofNat 2 (tideState s), f.id, f.t1, arrival, BitVec.ofNat 64 (stampNow s)⟩

/-- A request that is not the parent's is answered, and no more. -/
theorem stampRequest_of_not_parent {p : Nat} (hp : isParent s p = false) (f : TsFlit) (arrival : BitVec 64) :
    stampRequest s p f arrival = sendStamp s p (responseFlit s f arrival) := by
  have hp' : isParent (sendStamp s p (responseFlit s f arrival)) p = false := by
    rw [isParent_congr (sendStamp_regs ..) (sendStamp_fuses ..), hp]
  exact if_neg (Bool.eq_false_iff.mp hp')

theorem stampResponse_of_none {p : Nat} (h : mget none s.time.exch p = none) (f : TsFlit) (arrival : Nat) :
    stampResponse s p f arrival = s := by
  simp [stampResponse, h]

/-- The parent's response to the outstanding exchange measures, where its depth is none that loses sync (R37, R38). -/
theorem stampResponse_of_parent {p t1 : Nat} {f : TsFlit} (h : mget none s.time.exch p = some (f.id.toNat, t1))
    (hp : isParent s p = true) (hd : f.depth.toNat ≠ 15) (arrival : Nat) :
    let s1 := put { s with time := { s.time with exch := mset none s.time.exch p none } } .tideStat_depth (f.depth.toNat + 1)
    stampResponse s p f arrival = measurement1 { s1 with time := { s1.time with
      delay := exchDelay t1 f.t2.toNat f.t3.toNat arrival } } (exchOffset s t1 f.t2.toNat f.t3.toNat arrival) := by
  have hp' : isParent { s with time := { s.time with exch := mset none s.time.exch p none } } p = true := hp
  simp [stampResponse, h, hp', noteDepth, hd]

end Sys2Proof.Machine

namespace Sys2Proof.Machine

/-- Settles O42: each row is its own meaning's outcome, and a timestamp flit is read back from its word. -/
theorem pulsesAndTimestamps : Obligations.PulsesAndTimestamps := by
  intro s
  refine ⟨fun hup hen hlow hphase => ?rise, fun n hhigh hn => ?fall, fun p hl hdue => ?send, fun p fl arrival hl ht => ?receive,
    fun p f => ⟨fun hp => sendStamp_of_not_global s hp f, tsFields_mkFlit .., flitOk_mkFlit .., flitType_mkFlit ..⟩⟩
  case rise =>
    have hrow : (fn0Up s && flag s .tidePps_out_en && s.time.ppsHigh.isNone &&
        decide (s.time.tide % secNs = get s .tidePps_out_phase % secNs)) = true := by
      simp [hup, flag, hen, hlow, hphase]
    exact ⟨_, congrArg Host.Outcome.next (if_pos hrow), rfl⟩
  case fall =>
    have hrow : execTidePpsOutEnd s =
        .next (emit { s with time := { s.time with ppsHigh := none } } (.pin 1 false)) := by
      simp [execTidePpsOutEnd, hhigh, onlyIf, hn]
    exact ⟨_, hrow, rfl⟩
  case send =>
    obtain ⟨hout, hexch, hat, hregs, hmem⟩ := sendStamp_noteRequest s p.val
    exact ⟨_, exec_timestampExchangeSend_of_due s hl hdue, requestFlit s p.val, hout, rfl, toNat_stampNow s,
      requestFlit_id s p.val, hexch, hat, hregs, hmem⟩
  case receive =>
    intro f s0
    have htime : s0.time = s.time := ackFlits_time ..
    have hparent : isParent s0 p.val = isParent s p.val := isParent_congr (ackFlits_regs ..) (ackFlits_fuses ..) _
    refine ⟨fun hbad => ⟨_, exec_timestampFlitRx_of_bad hl hbad arrival, counted_bump .., onlyRegs_bump ..⟩,
      fun hok hresp hp => ?_, fun hok hresp hnone => ?_, fun hok hresp t1 hsome hp hd => ?_⟩
    · refine ⟨_, (exec_timestampFlitRx_of_ok hl ht hok arrival).trans (congrArg Host.Outcome.next ((if_neg (by simp [f, hresp])).trans
        (stampRequest_of_not_parent s0 (hparent.trans hp) f arrival))), responseFlit s0 f arrival, rfl, rfl, rfl, rfl, rfl, ?_⟩
      have hnow : stampNow s0 = stampNow s := by rw [stampNow, htime, stampNow]
      exact (toNat_stampNow s0).trans hnow
    · refine ⟨_, exec_timestampFlitRx_of_ok hl ht hok arrival, ?_⟩
      rw [if_pos hresp]
      exact stampResponse_of_none s0 (by rw [htime, hnone]) f _
    · rw [exec_timestampFlitRx_of_ok hl ht hok, if_pos hresp]
      exact congrArg Host.Outcome.next (stampResponse_of_parent s0 (by rw [htime, hsome]) (hparent.trans hp) hd _)

end Sys2Proof.Machine
end

section
/-!
What moves the tide between its states (R30, R33 to R40): a measurement taken apart into the start of acquisition, the count of its
offset and the move of the state; the PTP client's messages; and the writes of `TIDE_SET` and `TIDE_CTL`.
-/
namespace Sys2Proof.Machine

variable (s : State)

/-! ### A measurement -/

/-- The state shown, with the runs of small and of large offsets begun anew. -/
def stateSet (n : Nat) : State := { put s .tideStat_state n with time := { s.time with near := 0, far := 0 } }

/-- A measurement while free or in holdover begins to acquire (R39). -/
def beginAcquiring : State := if tideState s = 0 ∨ tideState s = 3 then stateSet s 1 else s

/-- An offset is counted as small or large, and the loop sets its frequency (R30, R39). -/
def countOffset (q : Int) : State :=
  { s with time := { s.time with
      near := if -16 ≤ q ∧ q ≤ 16 then s.time.near + 1 else 0
      far := if -256 ≤ q ∧ q ≤ 256 then 0 else s.time.far + 1
      meas := s.time.meas + 1, lastMeas := s.time.ticks, freq := loopFreqAt (s.time.meas + 1) } }

/-- 16 small offsets in a row lock, 16 large ones unlock (R39). -/
def lockOrUnlock : State :=
  if tideState s = 1 ∧ s.time.near ≥ 16 then stateSet s 2 else if tideState s = 2 ∧ s.time.far ≥ 16 then stateSet s 1 else s

theorem measured_eq (q : Int) :
    measured s q = lockOrUnlock (countOffset (beginAcquiring (put s .tideStat_offset (showOffset q))) q) := by
  unfold measured
  extract_lets s0 _ _ s1 near far _ t s2
  have h1 : beginAcquiring s0 = s1 := rfl
  rw [h1]
  clear_value s1
  rfl

theorem get_stateSet (n : Nat) (f : Fld) (i : Nat) : get (stateSet s n) f i = get (put s .tideStat_state n) f i := rfl

theorem tideState_stateSet (n : Nat) : tideState (stateSet s n) = n % 4 :=
  get_put_same s .tideStat_state n 0

section Parts
variable {s}

theorem beginAcquiring_of_idle (h : tideState s = 0 ∨ tideState s = 3) : beginAcquiring s = stateSet s 1 :=
  if_pos h

theorem beginAcquiring_of_synced (h0 : tideState s ≠ 0) (h3 : tideState s ≠ 3) : beginAcquiring s = s :=
  if_neg (not_or.mpr ⟨h0, h3⟩)

theorem lockOrUnlock_of_near (hst : tideState s = 1) (hn : 16 ≤ s.time.near) : lockOrUnlock s = stateSet s 2 :=
  if_pos ⟨hst, hn⟩

theorem lockOrUnlock_of_far (hst : tideState s = 2) (hf : 16 ≤ s.time.far) : lockOrUnlock s = stateSet s 1 := by
  rw [lockOrUnlock, if_neg (by simp [hst]), if_pos ⟨hst, hf⟩]

theorem lockOrUnlock_of_not_near (hst : tideState s = 1) (hn : s.time.near < 16) : lockOrUnlock s = s := by
  rw [lockOrUnlock, if_neg (by omega), if_neg (by omega)]

theorem lockOrUnlock_of_not_far (hst : tideState s = 2) (hf : s.time.far < 16) : lockOrUnlock s = s := by
  rw [lockOrUnlock, if_neg (by omega), if_neg (by omega)]

end Parts

/-! ### What no part of a measurement changes -/

/-- Two states with the same memory, tide, tick count and loop, whose registers agree outside those of a measurement. -/
def SameButLock (s t : State) : Prop :=
  KeptRegs s t [.tideStat_offset, .tideStat_state] ∧ t.mem = s.mem ∧ t.time.tide = s.time.tide ∧ t.time.ticks = s.time.ticks ∧
  t.time.freq = s.time.freq ∧ t.time.lastMeas = s.time.lastMeas ∧
  get t .tideStat_offset 0 = get s .tideStat_offset 0

theorem sameButLock_refl : SameButLock s s := ⟨fun _ _ _ => rfl, rfl, rfl, rfl, rfl, rfl, rfl⟩

theorem sameButLock_stateSet (n : Nat) : SameButLock s (stateSet s n) :=
  ⟨fun _ i hf => get_put_fld s n 0 i (fun e => hf (by simp [e])), rfl, rfl, rfl, rfl, rfl,
    get_put_fld s n 0 0 (by decide)⟩

theorem sameButLock_beginAcquiring : SameButLock s (beginAcquiring s) := by
  unfold beginAcquiring
  split
  · exact sameButLock_stateSet ..
  · exact sameButLock_refl s

theorem sameButLock_lockOrUnlock : SameButLock s (lockOrUnlock s) := by
  unfold lockOrUnlock
  split
  · exact sameButLock_stateSet ..
  · split
    · exact sameButLock_stateSet ..
    · exact sameButLock_refl s

theorem loopFreqAt_mem (n : Nat) : -freqRange ≤ loopFreqAt n ∧ loopFreqAt n ≤ freqRange := by
  unfold loopFreqAt clampInt freqRange
  omega

/-- What is counted between two moves of the state sets the frequency within its range and keeps the rest. -/
theorem countOffset_keeps {s u t : State} {q : Int} (hsu : SameButLock s u) (hut : SameButLock (countOffset u q) t) :
    get t .tideStat_offset 0 = get s .tideStat_offset 0 ∧ -freqRange ≤ t.time.freq ∧ t.time.freq ≤ freqRange ∧
    t.time.lastMeas = s.time.ticks ∧ t.time.tide = s.time.tide ∧
    KeptRegs s t [.tideStat_offset, .tideStat_state] ∧ KeptMem s t := by
  obtain ⟨hregs1, hmem1, htide1, hticks1, -, -, hoff1⟩ := hsu
  obtain ⟨hregs2, hmem2, htide2, -, hfreq2, hlast2, hoff2⟩ := hut
  obtain ⟨hlo, hhi⟩ := loopFreqAt_mem (u.time.meas + 1)
  have hfreq : t.time.freq = loopFreqAt (u.time.meas + 1) := hfreq2
  exact ⟨hoff2.trans hoff1, hfreq ▸ hlo, hfreq ▸ hhi, hlast2.trans hticks1, htide2.trans htide1,
    keptRegs_trans hregs1 hregs2, keptMem_of_mem_eq (hmem2.trans hmem1)⟩

/-- A measurement shows its offset, sets the frequency within its range, and keeps the rest. -/
theorem measured_keeps (q : Int) :
    let t := measured s q
    get t .tideStat_offset 0 = showOffset q % 2 ^ Fld.tideStat_offset.width ∧ -freqRange ≤ t.time.freq ∧
    t.time.freq ≤ freqRange ∧ t.time.lastMeas = s.time.ticks ∧ t.time.tide = s.time.tide ∧
    KeptRegs s t [.tideStat_offset, .tideStat_state] ∧ KeptMem s t := by
  obtain ⟨hoff, hlo, hhi, hlast, htide, hregs, hmem⟩ := countOffset_keeps (q := q)
    (sameButLock_beginAcquiring (put s .tideStat_offset (showOffset q))) (sameButLock_lockOrUnlock _)
  rw [measured_eq]
  exact ⟨hoff.trans (get_put_same ..), hlo, hhi, hlast, htide,
    keptRegs_trans (keptRegs_put (fun _ _ _ => rfl) (by decide) _ _) hregs, hmem⟩

/-! ### How a measurement moves the state -/

section Moves
variable {s} {q : Int}

theorem tideState_put_offset (v : Nat) : tideState (put s .tideStat_offset v) = tideState s :=
  get_put_fld s v 0 0 (by decide)

/-- A measurement begins as it finds the state where that is synchronised. -/
theorem measured_of_synced (h0 : tideState s ≠ 0) (h3 : tideState s ≠ 3) :
    measured s q = lockOrUnlock (countOffset (put s .tideStat_offset (showOffset q)) q) := by
  rw [measured_eq, beginAcquiring_of_synced] <;> rwa [tideState_put_offset]

theorem tideState_countOffset : tideState (countOffset s q) = tideState s := rfl

/-- Free and holdover become acquiring. -/
theorem tideState_measured_of_idle (h : tideState s = 0 ∨ tideState s = 3) : tideState (measured s q) = 1 := by
  have hst := (tideState_countOffset (q := q)).trans (tideState_stateSet (put s .tideStat_offset (showOffset q)) 1)
  rw [measured_eq, beginAcquiring_of_idle (by rwa [tideState_put_offset]), lockOrUnlock_of_not_near hst]
  · exact hst
  · simp only [countOffset, stateSet]
    split <;> omega

theorem near_countOffset_of_small (h : q.natAbs ≤ 16) : (countOffset s q).time.near = s.time.near + 1 := if_pos (by omega)

theorem near_countOffset_of_not_small (h : 16 < q.natAbs) : (countOffset s q).time.near = 0 := if_neg (by omega)

theorem far_countOffset_of_large (h : 256 < q.natAbs) : (countOffset s q).time.far = s.time.far + 1 := if_neg (by omega)

theorem far_countOffset_of_not_large (h : q.natAbs ≤ 256) : (countOffset s q).time.far = 0 := if_pos (by omega)

/-- The state of a synchronised tide as its offset has been counted. -/
theorem tideState_counted (v : Nat) : tideState (countOffset (put s .tideStat_offset v) q) = tideState s :=
  tideState_countOffset.trans (tideState_put_offset v)

theorem measured_near (h : tideState s = 1) (hq : q.natAbs ≤ 16) (hn : s.time.near < 15) :
    tideState (measured s q) = 1 ∧ (measured s q).time.near = s.time.near + 1 := by
  have hnear := near_countOffset_of_small (s := put s .tideStat_offset (showOffset q)) hq
  have hst := (tideState_counted (q := q) (showOffset q)).trans h
  rw [measured_of_synced (by omega) (by omega), lockOrUnlock_of_not_near hst (by rw [hnear]; exact Nat.succ_lt_succ hn)]
  exact ⟨hst, hnear⟩

theorem measured_locks (h : tideState s = 1) (hq : q.natAbs ≤ 16) (hn : 15 ≤ s.time.near) : tideState (measured s q) = 2 := by
  have hnear := near_countOffset_of_small (s := put s .tideStat_offset (showOffset q)) hq
  have hst := (tideState_counted (q := q) (showOffset q)).trans h
  rw [measured_of_synced (by omega) (by omega), lockOrUnlock_of_near hst (by rw [hnear]; exact Nat.succ_le_succ hn)]
  exact tideState_stateSet ..

theorem measured_not_near (h : tideState s = 1) (hq : 16 < q.natAbs) :
    tideState (measured s q) = 1 ∧ (measured s q).time.near = 0 := by
  have hnear := near_countOffset_of_not_small (s := put s .tideStat_offset (showOffset q)) hq
  have hst := (tideState_counted (q := q) (showOffset q)).trans h
  rw [measured_of_synced (by omega) (by omega), lockOrUnlock_of_not_near hst (by omega)]
  exact ⟨hst, hnear⟩

theorem measured_unlocks (h : tideState s = 2) (hq : 256 < q.natAbs) (hn : 15 ≤ s.time.far) : tideState (measured s q) = 1 := by
  have hfar := far_countOffset_of_large (s := put s .tideStat_offset (showOffset q)) hq
  have hst := (tideState_counted (q := q) (showOffset q)).trans h
  rw [measured_of_synced (by omega) (by omega), lockOrUnlock_of_far hst (by rw [hfar]; exact Nat.succ_le_succ hn)]
  exact tideState_stateSet ..

theorem measured_not_far (h : tideState s = 2) (hq : q.natAbs ≤ 256) :
    tideState (measured s q) = 2 ∧ (measured s q).time.far = 0 := by
  have hfar := far_countOffset_of_not_large (s := put s .tideStat_offset (showOffset q)) hq
  have hst := (tideState_counted (q := q) (showOffset q)).trans h
  rw [measured_of_synced (by omega) (by omega), lockOrUnlock_of_not_far hst (by omega)]
  exact ⟨hst, hfar⟩

end Moves

/-! ### The PTP client -/

section Ptp
variable {s} {p : Cp} {domain : BitVec 8} {m : PtpMsg}

theorem exec_ptpMessageRx_of_source (hup : fn0Up s = true) (hsrc : get s .tideCtl_sync_src 0 = 1 + p.val)
    (hdom : domain.toNat = get s .tideSync_ptp_domain 0) :
    exec (.ptpMessageRx p domain m) s = .next (ptpMessage s p m) :=
  congrArg Host.Outcome.next (if_pos (by simp [hup, hsrc, hdom]))

theorem exec_ptpMessageRx_of_other (h : get s .tideCtl_sync_src 0 ≠ 1 + p.val ∨ domain.toNat ≠ get s .tideSync_ptp_domain 0) :
    exec (.ptpMessageRx p domain m) s = .next s := by
  refine congrArg Host.Outcome.next (if_neg (fun hgo => ?_))
  simp only [Bool.and_eq_true, decide_eq_true_eq] at hgo
  obtain ⟨⟨-, hsrc⟩, hdom⟩ := hgo
  exact h.elim (fun h => h hsrc) (fun h => h hdom)

/-- A Sync whose origin time is known brings a delay request (R34). -/
theorem ptpSynced_asks (hdom : domain.toNat = get s .tideSync_ptp_domain 0) (v6 : Bool) (t1 t2 : Int) :
    let t := ptpSynced s p v6 t1 t2
    t.out = s.out ++ [.ptp p v6 domain.toNat s.time.ptp.next] ∧ t.time.ptp.sync = none ∧
    t.time.ptp.req = some (s.time.ptp.next, t1, t2, tideQuarters s) ∧ { t with time := s.time, out := s.out } = s := by
  rw [hdom]
  exact ⟨rfl, rfl, rfl, rfl⟩

theorem ptpMessage_twoStep_sync (hk : m.kind = .sync) (h2 : m.twoStep = true) : ptpMessage s p m =
    { s with time := { s.time with ptp := { s.time.ptp with sync := some (m.seq.toNat, tideQuarters s, m.corr) } } } := by
  simp [ptpMessage, hk, h2]

theorem ptpMessage_oneStep_sync (hk : m.kind = .sync) (h2 : m.twoStep = false) :
    ptpMessage s p m = ptpSynced s p m.v6 ((m.time.toNat : Int) + m.corr) (tideQuarters s) := by
  simp [ptpMessage, hk, h2]

theorem ptpMessage_followUp (hk : m.kind = .followUp) {t2 corr : Int} (hs : s.time.ptp.sync = some (m.seq.toNat, t2, corr)) :
    ptpMessage s p m = ptpSynced s p m.v6 ((m.time.toNat : Int) + m.corr + corr) t2 := by
  simp [ptpMessage, hk, hs]

theorem ptpMessage_delayResp (hk : m.kind = .delayResp) {t1 t2 t3 : Int}
    (hr : s.time.ptp.req = some (m.seq.toNat, t1, t2, t3)) :
    let t4 : Int := (m.time.toNat : Int) - m.corr
    ptpMessage s p m = measurement1
      { s with time := { s.time with ptp := { s.time.ptp with req := none }, delay := legsDelay (t4 - t3) (t2 - t1) } }
      (legsOffset (t4 - t3) (t2 - t1) + 4 * signedOf 42 (get s .tideSync_offset 0)) := by
  simp [ptpMessage, hk, hr]

end Ptp

/-! ### Holdover -/

theorem exec_syncMeasurementTimeout_of_due (hup : fn0Up s = true) (hst : tideState s = 2)
    (hlast : s.time.lastMeas + 1000000 ≤ s.time.ticks) : exec .syncMeasurementTimeout s = .next (enterHoldover s) := by
  show execSyncMeasurementTimeout s = _
  simp [execSyncMeasurementTimeout, onlyIf, hup, hst, hlast]

theorem get_enterHoldover (f : Fld) (i : Nat) :
    get (enterHoldover s) f i = get (bump (put s .tideStat_state 3) .tideCnt_sync_lost) f i := rfl

/-- Holdover is shown and counted (R39). -/
theorem enterHoldover_shows : tideState (enterHoldover s) = 3 ∧ Counted s (enterHoldover s) .tideCnt_sync_lost 0 1 ∧
    KeptRegs s (enterHoldover s) [.tideStat_state, .tideCnt_sync_lost] ∧ KeptMem s (enterHoldover s) := by
  refine ⟨?_, ?_, fun f i hf => ?_, fun _ => rfl⟩
  · rw [tideState, get_enterHoldover, get_bump_fld _ _ _ _ (by decide), get_put_same]
    rfl
  · have hcount := counted_bump (put s .tideStat_state 3) .tideCnt_sync_lost 1 0
    rwa [Counted, get_put_fld _ _ _ _ (by decide), ← get_enterHoldover] at hcount
  · simp only [List.mem_cons, List.not_mem_nil, or_false, not_or] at hf
    rw [get_enterHoldover, get_bump_fld _ _ _ _ hf.2, get_put_fld _ _ _ _ hf.1]

/-! ### Writes of `TIDE_CTL` -/

/-- The fields of `TIDE_CTL` besides the source take what is written. -/
def ctlWritten (v : Nat) : State :=
  put (put (put s .tideCtl_guard (bitsOf v 10 3)) .tideCtl_late_window (bitsOf v 18 11)) .tideCtl_max_ahead_log2 (bitsOf v 24 19)

/-- The source is set, and its measurements begin anew. -/
def sourceSet (src : Nat) : State :=
  { put s .tideCtl_sync_src src with
    time := { s.time with lastPps := none, ptp := { s.time.ptp with sync := none, req := none } } }

theorem tideCtlWrite_eq (v : Nat) : tideCtlWrite s v =
    if v % 8 ≥ 5 then ctlWritten s v
    else if v % 8 = 0 then stateSet (sourceSet (ctlWritten s v) (v % 8)) 0
    else if v % 8 ≤ 3 then put (sourceSet (ctlWritten s v) (v % 8)) .tideStat_depth 0
    else sourceSet (ctlWritten s v) (v % 8) := by
  have hsrc : bitsOf v 2 0 = v % 8 := by simp [bitsOf]
  rw [← hsrc]
  rfl

/-- The fields that a write of `TIDE_CTL` can change. -/
def ctlWriteFlds : List Fld :=
  [.tideCtl_guard, .tideCtl_late_window, .tideCtl_max_ahead_log2, .tideCtl_sync_src, .tideStat_state, .tideStat_depth]

theorem keptRegs_ctlWritten (v : Nat) : KeptRegs s (ctlWritten s v) ctlWriteFlds :=
  keptRegs_put (keptRegs_put (keptRegs_put (fun _ _ _ => rfl) (by decide) _ _) (by decide) _ _) (by decide) _ _

theorem keptRegs_sourceSet (v src : Nat) : KeptRegs s (sourceSet (ctlWritten s v) src) ctlWriteFlds :=
  (keptRegs_put (keptRegs_ctlWritten s v) (f := .tideCtl_sync_src) (by decide) src 0 :)

theorem get_ctlWritten_sync_src (v : Nat) : get (ctlWritten s v) .tideCtl_sync_src 0 = get s .tideCtl_sync_src 0 := by
  simp [ctlWritten]

theorem get_sourceSet {src : Nat} (h : src < 8) : get (sourceSet s src) .tideCtl_sync_src 0 = src :=
  (get_put_same s .tideCtl_sync_src src 0).trans (Nat.mod_eq_of_lt h)

/-- A write of `TIDE_CTL`: 5 to 7 leave the source, 0 makes the state free (R33, R39). -/
theorem tideCtlWrite_moves (v : Nat) :
    let t := tideCtlWrite s v
    (v % 8 < 5 → get t .tideCtl_sync_src 0 = v % 8) ∧ (5 ≤ v % 8 → get t .tideCtl_sync_src 0 = get s .tideCtl_sync_src 0) ∧
    (v % 8 = 0 → tideState t = 0) ∧ KeptMem s t ∧ KeptRegs s t ctlWriteFlds := by
  have hsrc : get (sourceSet (ctlWritten s v) (v % 8)) .tideCtl_sync_src 0 = v % 8 :=
    get_sourceSet _ (Nat.mod_lt _ (by decide))
  have hkept := keptRegs_sourceSet s v (v % 8)
  rw [tideCtlWrite_eq]
  split
  case isTrue h5 =>
    exact ⟨fun h => absurd h (by omega), fun _ => get_ctlWritten_sync_src s v, fun h => absurd h (by omega), keptMem_of_mem_eq rfl,
      keptRegs_ctlWritten s v⟩
  case isFalse h5 =>
    split
    case isTrue h0 =>
      refine ⟨fun _ => ?_, fun h => absurd h h5, fun _ => tideState_stateSet .., keptMem_of_mem_eq rfl, fun f i hf => ?_⟩
      · rw [get_stateSet, get_put_fld _ _ _ _ (by decide), hsrc]
      · rw [get_stateSet]
        exact keptRegs_put hkept (by decide) 0 0 f i hf
    case isFalse h0 =>
      split
      case isTrue h3 =>
        exact ⟨fun _ => (get_put_fld _ 0 0 0 (by decide)).trans hsrc, fun h => absurd h h5, fun h => absurd h h0, keptMem_of_mem_eq rfl,
          keptRegs_put hkept (by decide) 0 0⟩
      case isFalse h3 =>
        exact ⟨fun _ => hsrc, fun h => absurd h h5, fun h => absurd h h0, keptMem_of_mem_eq rfl, hkept⟩

end Sys2Proof.Machine

namespace Sys2Proof.Machine

/-- Settles O41: a measurement's three parts, and each row's own meaning. -/
theorem measurementsMoveTheState : Obligations.MeasurementsMoveTheState := by
  intro s
  refine ⟨fun q => ?measure, fun hup p domain m => ⟨fun hsrc hdom => ?ptp, fun h => ⟨s, exec_ptpMessageRx_of_other h, rfl⟩⟩,
    fun hup hsrc hacc => ?edge, fun h => ⟨s, ?noEdge, rfl⟩, fun hup hst hlast => ?timeout, fun v hup => ⟨fun hmay => ?set, fun hmay => ?refused⟩,
    fun v hup => ?source⟩
  case measure =>
    obtain ⟨hoff, hlo, hhi, hlast, htide, hregs, hmem⟩ := measured_keeps s q
    exact ⟨hoff, hlo, hhi, hlast, htide, tideState_measured_of_idle, measured_near, measured_locks, measured_not_near,
      measured_unlocks, measured_not_far, hregs, hmem⟩
  case ptp =>
    have hgo := exec_ptpMessageRx_of_source (m := m) hup hsrc hdom
    refine ⟨fun hk h2 => ⟨_, hgo, ptpMessage_twoStep_sync hk h2⟩, fun hk h2 => ⟨_, hgo, ?_⟩, fun hk t2 corr hs => ⟨_, hgo, ?_⟩,
      fun hk t1 t2 t3 hr => hgo.trans (congrArg Host.Outcome.next (ptpMessage_delayResp hk hr))⟩
    · rw [ptpMessage_oneStep_sync hk h2]
      exact ptpSynced_asks hdom ..
    · rw [ptpMessage_followUp hk hs]
      exact ptpSynced_asks hdom ..
  case edge => exact congrArg Host.Outcome.next (if_pos (by simp [hup, hsrc, hacc]))
  case noEdge =>
    refine congrArg Host.Outcome.next (if_neg (fun hgo => ?_))
    simp only [Bool.and_eq_true, decide_eq_true_eq] at hgo
    obtain ⟨⟨-, hsrc⟩, hacc⟩ := hgo
    exact h.elim (fun h => h hsrc) (fun h => by simp [hacc] at h)
  case timeout => exact ⟨_, exec_syncMeasurementTimeout_of_due s hup hst hlast, enterHoldover_shows s⟩
  case set => exact congrArg Host.Outcome.next ((if_pos hup).trans (if_pos hmay))
  case refused =>
    exact ⟨_, congrArg Host.Outcome.next ((if_pos hup).trans (if_neg (by simp [hmay]))), rfl, logEvt_time .., keptRegs_logEvt s _ _ _ _ _ _,
      keptMem_of_mem_eq (logEvt_mem ..)⟩
  case source => exact ⟨_, congrArg Host.Outcome.next (if_pos hup), tideCtlWrite_moves s v.toNat⟩

end Sys2Proof.Machine
end

section
/-!
Releases (R32, R43 to R45, R54, R65, R68): what an arrived command comes to on a free port by the test of its release, and which
held command starts first.
-/
namespace Sys2Proof.Machine

variable (s : State)

/-! ### Ports -/

@[simp] theorem cpOf_setCp_same (p : Cp) (x : CpSt) : cpOf (setCp s p x) p = x := mget_mset_same ..

theorem cpOf_setCp_ne {p q : Cp} (x : CpSt) (h : q ≠ p) : cpOf (setCp s p x) q = cpOf s q :=
  mget_mset_ne x (fun e => h (Fin.ext e))

/-- A port's update leaves its queue where it says so, and that of the other port. -/
theorem queue_setCp {p : Cp} (x : CpSt) (hx : x.queue = (cpOf s p).queue) (q : Cp) :
    (cpOf (setCp s p x) q).queue = (cpOf s q).queue := by
  by_cases hq : q = p
  · subst hq
    rw [cpOf_setCp_same, hx]
  · rw [cpOf_setCp_ne s x hq]

theorem canPump_of_queue_nil {p : Cp} (h : (cpOf s p).queue = []) : canPump s p = false := by
  simp [canPump, h]

/-- Ports that have nothing to start stay as they are. -/
theorem pumpPorts_of_idle (h : ∀ p, canPump s p = false) : pumpPorts s = s := by
  unfold pumpPorts
  cases (cpOf s 0).queue.length + (cpOf s 1).queue.length with
  | zero => rfl
  | succ n => simp [pump, h]

theorem pumpPorts_of_queues_nil (h : ∀ p, (cpOf s p).queue = []) : pumpPorts s = s :=
  pumpPorts_of_idle s (fun p => canPump_of_queue_nil s (h p))

/-! ### When a command may start -/

/-- That depends on the tide unit and on stale structure alone (R43, R54). -/
theorem mayStart_congr {s t : State} (htime : t.time = s.time) (hstale : get t .shpStat_stale_fn 0 = get s .shpStat_stale_fn 0)
    (h : CtlHdr) (i : Instr) : mayStart t h i = mayStart s h i := by
  have heclipsed (j : Nat) : eclipsed t j = eclipsed s j := by rw [eclipsed, eclipsed, htime, hstale]
  have hreleased (n : Nat) : released t n = released s n := by rw [released, released, effTide, effTide, htime]
  simp only [mayStart, hreleased, heclipsed]

theorem countRelease_time (r : Release) : (countRelease s r).time = s.time := by
  cases r <;> rfl

theorem cpOf_countRelease (r : Release) (p : Cp) : cpOf (countRelease s r) p = cpOf s p := by
  cases r <;> rfl

theorem get_countRelease_stale_fn (r : Release) : get (countRelease s r) .shpStat_stale_fn 0 = get s .shpStat_stale_fn 0 := by
  cases r
  · rfl
  · exact get_bump_fld s 1 0 0 (by decide)
  · exact get_bump_fld s 1 0 0 (by decide)

theorem mayStart_countRelease (r : Release) (h : CtlHdr) (i : Instr) : mayStart (countRelease s r) h i = mayStart s h i :=
  mayStart_congr (countRelease_time s r) (get_countRelease_stale_fn s r) h i

/-! ### A new command on a free port -/

/-- A control command goes by its arrival. -/
theorem exec_of_hdrOf {i : Instr} {h : CtlHdr} (hh : hdrOf i = some h) : exec i s = .next (arrive h i s) := by
  unfold hdrOf at hh
  split at hh <;> cases hh <;> rfl

/-- The command joins the history of its port. -/
def joinHistory (h : CtlHdr) : State :=
  setCp s h.port { cpOf s h.port with hist := (cpOf s h.port).hist ++ [⟨h.seq, none, []⟩] }

section New
variable {s} {h : CtlHdr} {i : Instr}

/-- A new command on a free port starts there once its release is tested (R44, R45). -/
theorem exec_of_newCommand (hnew : NewCommand s h i) (hbusy : (cpOf s h.port).busy = none)
    (hqueue : (cpOf s h.port).queue = []) {r : Release} (hr : releaseTest s h.release.toNat = r) :
    exec i s = .next (pumpPorts (startCmd (joinHistory (countRelease s r) h) h i (decide (r = .refused)))) := by
  obtain ⟨hhdr, hon, hwell, hfresh⟩ := hnew
  have hfind : (cpOf s h.port).hist.find? (fun x => x.seq == h.seq) = none := by
    simpa using hfresh
  rw [exec_of_hdrOf s hhdr, arrive]
  simp [hon, hwell, hfind, takeCmd, hr, cpOf_countRelease, hbusy, hqueue, joinHistory]

theorem mayStart_joinHistory : mayStart (joinHistory s h) h i = mayStart s h i := mayStart_congr rfl rfl h i

theorem startCmd_joinHistory_refused : startCmd (joinHistory s h) h i true = answer (atFront s h i) h (opOf i) 1 0x0A [] := rfl

theorem startCmd_joinHistory_starts (hm : mayStart s h i = true) :
    startCmd (joinHistory s h) h i false = runCmd (atFront s h i) h i := by
  have hm' : mayStart (joinHistory s h) h i = true := mayStart_joinHistory.trans hm
  simp only [startCmd, hm', Bool.not_false, Bool.not_true, Bool.and_false, Bool.false_eq_true, if_false, if_true]
  rfl

theorem startCmd_joinHistory_waits (hm : mayStart s h i = false) : startCmd (joinHistory s h) h i false =
    setCp (joinHistory s h) h.port { cpOf (joinHistory s h) h.port with busy := some i, held := true } := by
  have hm' : mayStart (joinHistory s h) h i = false := mayStart_joinHistory.trans hm
  simp only [startCmd, hm', Bool.not_false, Bool.and_true, Bool.false_eq_true, if_false]

/-- Joining the history fills no queue. -/
theorem queue_joinHistory (p : Cp) : (cpOf (joinHistory s h) p).queue = (cpOf s p).queue := queue_setCp s _ (by rfl) p

/-- A command that may not start yet holds its port, and nothing else changes (R43, R54). -/
theorem pumpPorts_startCmd_waits (hm : mayStart s h i = false) (hqueues : ∀ p, (cpOf s p).queue = []) :
    let t := pumpPorts (startCmd (joinHistory s h) h i false)
    (cpOf t h.port).busy = some i ∧ (cpOf t h.port).held = true ∧ t.out = s.out ∧ t.regs = s.regs ∧ t.fuses = s.fuses ∧
    t.mem = s.mem := by
  rw [startCmd_joinHistory_waits hm, pumpPorts_of_queues_nil _ (fun p => ?_)]
  · exact ⟨by rw [cpOf_setCp_same], by rw [cpOf_setCp_same], rfl, rfl, rfl, rfl⟩
  · rw [queue_setCp _ _ (by rfl), queue_joinHistory, hqueues]

/-! ### The answer of a command at the front of its port -/

theorem repeatsOf_append_new {l : List Hist} {q : BitVec 32} (hl : l.all (fun x => x.seq != q) = true) :
    repeatsOf (l ++ [⟨q, none, []⟩]) q = [] := by
  have hnone : l.find? (fun x => decide (x.seq = q) && x.resp.isNone) = none := by
    rw [List.find?_eq_none]
    intro x hx
    simp [bne_iff_ne.mp (List.all_eq_true.mp hl x hx)]
  simp [repeatsOf, List.find?_append, hnone]

/-- A new command that fails is answered once, counted, and frees its port (R66, R68). -/
theorem answer_atFront (hhdr : hdrOf i = some h) (hfresh : (cpOf s h.port).hist.all (fun x => x.seq != h.seq) = true)
    (op code : Nat) (words : List Word) : ∃ l, answer (atFront s h i) h op 1 code words =
      setCp (bumpW (emit (atFront s h i) (.resp ⟨h.port, h.src, h.seq, op, h.job, 1, code, words⟩)) .ctlCmdCnt_executed) h.port
        { cpOf (atFront s h i) h.port with hist := l, busy := none } := by
  have hcp : cpOf (atFront s h i) h.port =
      { cpOf s h.port with hist := (cpOf s h.port).hist ++ [⟨h.seq, none, []⟩], busy := some i, held := false } := by
    simp [atFront]
  have hrep : repeatsOf (cpOf (atFront s h i) h.port).hist h.seq = [] := by
    rw [hcp]
    exact repeatsOf_append_new hfresh
  have hbusy : (cpOf (atFront s h i) h.port).busy = some i := by rw [hcp]
  refine ⟨histAnswer (cpOf (atFront s h i) h.port) ⟨h.port, h.src, h.seq, op, h.job, 1, code, words⟩, ?_⟩
  simp [answer, hrep, hbusy, hhdr, sendResp, each]

/-- What is left then where nothing waits to start. -/
theorem pumpPorts_answer_atFront (hhdr : hdrOf i = some h) (hqueues : ∀ p, (cpOf s p).queue = [])
    (hfresh : (cpOf s h.port).hist.all (fun x => x.seq != h.seq) = true) (op code : Nat) (words : List Word) :
    let t := pumpPorts (answer (atFront s h i) h op 1 code words)
    Answers s t h op 1 code words ∧ KeptRegs s t [.ctlCmdCnt_executed] ∧ t.mem = s.mem := by
  obtain ⟨l, hl⟩ := answer_atFront hhdr hfresh op code words
  rw [hl, pumpPorts_of_queues_nil _ (fun p => ?_)]
  · have hcount (o : Out) : KeptRegs s (bumpW (emit (atFront s h i) o) .ctlCmdCnt_executed) [.ctlCmdCnt_executed] :=
      keptRegs_put (keptRegs_of_regs_eq rfl rfl _) (by decide) _ 0
    exact ⟨⟨rfl, by rw [cpOf_setCp_same]⟩, keptRegs_trans (hcount _) (keptRegs_of_regs_eq rfl rfl _), rfl⟩
  · have hfront : (cpOf (atFront s h i) p).queue = (cpOf s p).queue :=
      (queue_setCp (joinHistory s h) _ (by rfl) p).trans (queue_joinHistory p)
    rw [queue_setCp _ _ (by rfl)]
    exact hfront.trans (hqueues p)

end New

/-! ### Held commands -/

section Held
variable {s} {p : Cp} {j : Instr} {g : CtlHdr}

theorem heldCmd_of_ready (hbusy : (cpOf s p).busy = some j) (hhdr : hdrOf j = some g) (hheld : (cpOf s p).held = true)
    (hm : mayStart s g j = true) : heldCmd s p = some (g, j) := by
  simp [heldCmd, hbusy, hhdr, hheld, hm]

theorem heldCmd_of_not_ready (hbusy : (cpOf s p).busy = some j) (hhdr : hdrOf j = some g) (hm : mayStart s g j = false) :
    heldCmd s p = none := by
  simp [heldCmd, hbusy, hhdr, hm]

theorem startHeld_of_heldCmd (hc : heldCmd s p = some (g, j)) :
    startHeld s p = runCmd (setCp s p { cpOf s p with held := false }) g j := by
  simp [startHeld, hc]

theorem startHeld_of_none (hc : heldCmd s p = none) : startHeld s p = s := by
  simp [startHeld, hc]

theorem otherFirst_of_none (hc : heldCmd s p = none) : otherFirst s p = false := by
  simp [otherFirst, hc]

/-- The other port's held command goes first where its release is earlier, or the same and the port is CP0 (R65). -/
theorem otherFirst_of_earlier {k : Instr} {f : CtlHdr} (hc : heldCmd s p = some (g, j)) (ho : heldCmd s (1 - p) = some (f, k))
    (hlt : f.release < g.release ∨ (f.release = g.release ∧ p = 1)) : otherFirst s p = true := by
  rw [BitVec.lt_def] at hlt
  simpa [otherFirst, hc, ho] using hlt

theorem exec_releasedCommandStart (hup : fn0Up s = true) : exec (.releasedCommandStart p) s =
    .next (pumpPorts (startHeld (onlyIf (otherFirst s p) (fun s => startHeld s (1 - p)) s) p)) :=
  congrArg Host.Outcome.next (if_pos hup)

end Held

end Sys2Proof.Machine

namespace Sys2Proof.Machine

/-- Settles O21: the test of the release says what the command counts, and `mayStart` whether it starts or waits. -/
theorem releaseTidesHoldCommands : Obligations.ReleaseTidesHoldCommands := by
  refine ⟨fun i h s hnew hbusy hqueues => ?arrival, fun p s j g hup hbusy hhdr hheld => ?held⟩
  case arrival =>
    have hgo {r : Release} := exec_of_newCommand (r := r) hnew hbusy (hqueues _)
    obtain ⟨hhdr, -, -, hfresh⟩ := id hnew
    refine ⟨fun hr hm => ?_, fun hr hm => ?_, fun hr => ⟨fun hm => ?_, fun hm => ?_⟩, fun hr => ?_⟩
    · obtain ⟨hb, hh, hout, hregs, hfuses, hmem⟩ := pumpPorts_startCmd_waits hm hqueues
      exact ⟨_, hgo hr, hb, hh, hout, keptRegs_of_regs_eq hregs hfuses _, keptMem_of_mem_eq hmem⟩
    · refine (hgo hr).trans (congrArg (fun t => Host.Outcome.next (pumpPorts t)) ?_)
      exact startCmd_joinHistory_starts hm
    · refine (hgo hr).trans (congrArg (fun t => Host.Outcome.next (pumpPorts t)) ?_)
      exact startCmd_joinHistory_starts ((mayStart_countRelease s .late h i).trans hm)
    · obtain ⟨hb, hh, hout, hregs, hfuses, hmem⟩ := pumpPorts_startCmd_waits (s := countRelease s .late)
        ((mayStart_countRelease s .late h i).trans hm) (fun p => by rw [cpOf_countRelease, hqueues])
      have hkept := keptRegs_of_regs_eq hregs hfuses []
      refine ⟨_, hgo hr, hb, hh, hout, ?_, ?_, keptMem_of_mem_eq hmem⟩
      · exact (hkept _ 0 (List.not_mem_nil)).trans (counted_bump s .tideCnt_late_release 1 0)
      · exact keptRegs_trans (keptRegs_bump (fun _ _ _ => rfl) (by decide) 1 0) (keptRegs_mono hkept (List.nil_subset _))
    · obtain ⟨hans, hkept, hmem⟩ := pumpPorts_answer_atFront (s := countRelease s .refused) hhdr
        (fun p => by rw [cpOf_countRelease, hqueues]) (by rwa [cpOf_countRelease]) (opOf i) 0x0A []
      refine ⟨_, hgo hr, hans, ?_, ?_, keptMem_of_mem_eq hmem⟩
      · exact (hkept _ 0 (by decide)).trans (counted_bump s .tideCnt_release_refused 1 0)
      · exact keptRegs_trans (keptRegs_bump (fun _ _ _ => rfl) (by decide) 1 0) (keptRegs_mono hkept (by decide))
  case held =>
    refine ⟨fun hm hfirst => ?_, fun hm k f hbusy' hhdr' hheld' hm' hlt => ?_, fun hm hidle => ?_⟩
    · rw [exec_releasedCommandStart hup, hfirst, ← startHeld_of_heldCmd (heldCmd_of_ready hbusy hhdr hheld hm)]
      rfl
    · have hother := heldCmd_of_ready hbusy' hhdr' hheld' hm'
      rw [exec_releasedCommandStart hup, otherFirst_of_earlier (heldCmd_of_ready hbusy hhdr hheld hm) hother hlt,
        ← startHeld_of_heldCmd hother]
      rfl
    · have hnone := heldCmd_of_not_ready hbusy hhdr hm
      refine ⟨_, exec_releasedCommandStart hup, ?_⟩
      rw [otherFirst_of_none hnone, onlyIf, if_neg Bool.false_ne_true, startHeld_of_none hnone, pumpPorts_of_idle s hidle]

end Sys2Proof.Machine
end

section
/-!
Ticks and boundaries (R28 to R30, R32, R46, R51, R57, R87, R133, R347): the counter, a tick for which nothing waits, the counter
snapshots core by core, the order of the applies at an epoch, and slot boundaries.
-/
namespace Sys2Proof.Machine

variable (s : State)

/-! ### The counter (R28, R30) -/

/-- A tick adds 1 ns and the correction, and counts itself. -/
theorem tickTime_adds {t : TimeSt} (htide : t.tide + 2 < 2 ^ 64) (hfrac : t.frac < 2 ^ 32) (hlo : -freqRange ≤ t.freq)
    (hhi : t.freq ≤ freqRange) :
    ((tickTime t).tide : Int) * 2 ^ 32 + (tickTime t).frac = (t.tide : Int) * 2 ^ 32 + t.frac + 2 ^ 32 + t.freq ∧
    (tickTime t).frac < 2 ^ 32 := by
  simp only [tickTime, freqRange] at *
  omega

/-! ### A tick for which nothing waits -/

/-- What the end of the operation table's clk leaves where nothing is due (R211). -/
theorem closeClk_of_nothing_due (h : s.num.due = []) :
    closeClk s = { s with num := { s.num with fresh := [], base := [], worst := none } } := by
  have hnum : { s.num with due := [] } = s.num := by rw [← h]
  simp only [closeClk, logDue, h, List.filter_nil, each, List.foldl_nil, hnum]

theorem pauseTimers_nil (c : ColSt) : pauseTimers c [] = c := by
  simp [pauseTimers]

theorem noteBounds_of_none_armed (before : Nat) (h : armedTemplates s = []) : noteBounds before s = s := by
  simp [noteBounds, h, each]

theorem noteElig_of_none_armed (h : armedTemplates s = []) : noteElig s = s := by
  simp [noteElig, h, each]

theorem beginSpills_of_no_moves (h : s.mmu.moves = []) : beginSpills s = s := by
  simp [beginSpills, h, each]

theorem flushLinks_of_nothing_buffered (h : ∀ e ∈ s.lnk, e.2.txBuf = []) : flushLinks s = s := by
  have hnone : s.lnk.filter (fun e => !e.2.txBuf.isEmpty) = [] :=
    List.filter_eq_nil_iff.mpr (fun e he => by simp [h e he])
  simp [flushLinks, hnone, each]

/-- The clocks of a tick in which no slot is armed and no record of the operation table is due. -/
theorem tickClocks_of_quiet (hdue : s.num.due = []) (harm : armedTemplates s = []) : tickClocks s =
    { s with time := tickTime s.time, num := { s.num with fresh := [], base := [], worst := none } } := by
  have hpaused : pausedSlots { s with num := { s.num with fresh := [], base := [], worst := none } } = [] := by
    have harm' : armedTemplates { s with num := { s.num with fresh := [], base := [], worst := none } } = [] := harm
    rw [pausedSlots, harm']
    rfl
  rw [tickClocks, closeClk_of_nothing_due s hdue, hpaused, pauseTimers_nil]

/-- Nothing is taken up in a tick for which nothing waits. -/
theorem tickWork_of_quiet (before : Nat) (hheld : s.col.held = []) (harm : armedTemplates s = []) (hmoves : s.mmu.moves = [])
    (hbuf : ∀ e ∈ s.lnk, e.2.txBuf = []) : tickWork before s = s := by
  rw [tickWork, noteBounds_of_none_armed s before harm, noteElig_of_none_armed s harm, beginSpills_of_no_moves s hmoves,
    flushLinks_of_nothing_buffered s hbuf]
  simp [hheld]

theorem ticked_of_quiet (hheld : s.col.held = []) (harm : armedTemplates s = []) (hmoves : s.mmu.moves = [])
    (hbuf : ∀ e ∈ s.lnk, e.2.txBuf = []) (hdue : s.num.due = []) : ticked s =
      { s with time := tickTime s.time, num := { s.num with fresh := [], base := [], worst := none } } := by
  rw [ticked, tickClocks_of_quiet s hdue harm]
  exact tickWork_of_quiet _ _ hheld harm hmoves hbuf

theorem exec_tideTick_of_not_checking (h : checking (ticked s) = false) : exec .tideTick s = .next (ticked s) :=
  congrArg Host.Outcome.next (if_neg (Bool.eq_false_iff.mp h))

/-! ### Writes of a run of places -/

/-- Where each step of a fold writes the value of its own place, from sources that no step changes, the fold leaves every place of
the list with its value. -/
theorem foldl_writes {σ α β : Type} {f : σ → α → σ} {shown value : σ → α → β} (hsame : ∀ s x, shown (f s x) x = value s x)
    (hvalue : ∀ s x y, value (f s x) y = value s y) (hother : ∀ s x y, y ≠ x → shown (f s x) y = shown s y) {l : List α} {x : α}
    (hx : x ∈ l) (s : σ) : shown (l.foldl f s) x = value s x := by
  have hout {l : List α} (hx : x ∉ l) (s : σ) : shown (l.foldl f s) x = shown s x := by
    induction l generalizing s with
    | nil => rfl
    | cons a l ih =>
      obtain ⟨ha, hl⟩ := List.ne_and_not_mem_of_not_mem_cons hx
      exact (ih hl _).trans (hother s a x ha)
  induction l generalizing s with
  | nil => cases hx
  | cons a l ih =>
    by_cases hl : x ∈ l
    · exact (ih hl _).trans (hvalue s a x)
    · obtain rfl : x = a := (List.mem_cons.mp hx).resolve_right hl
      exact (hout hl _).trans (hsame s x)

/-! ### Snapshots -/

/-- Nothing but registers changes. -/
def RegsOnly (s t : State) : Prop := ∃ r, t = { s with regs := r }

section RegsOnly
variable {s t : State}

theorem regsOnly_refl : RegsOnly s s := ⟨s.regs, rfl⟩

theorem regsOnly_put (h : RegsOnly s t) (f : Fld) (v i : Nat) : RegsOnly s (put t f v i) := by
  obtain ⟨r, rfl⟩ := h
  exact ⟨_, rfl⟩

theorem regsOnly_foldl {α : Type} {f : State → α → State} (hf : ∀ t x, RegsOnly s t → RegsOnly s (f t x)) (l : List α)
    (h : RegsOnly s t) : RegsOnly s (l.foldl f t) := by
  induction l generalizing t with
  | nil => exact h
  | cons x l ih => exact ih (hf t x h)

theorem regsOnly_time (h : RegsOnly s t) : t.time = s.time := by
  obtain ⟨r, rfl⟩ := h
  rfl

theorem regsOnly_mem (h : RegsOnly s t) : t.mem = s.mem := by
  obtain ⟨r, rfl⟩ := h
  rfl

theorem regsOnly_rest (h : RegsOnly s t) : { t with regs := s.regs } = s := by
  obtain ⟨r, rfl⟩ := h
  rfl

end RegsOnly

/-- The idle counters of a core, cause by cause, in its snapshot (R347). -/
def copyIdle (j : Nat) : State :=
  copyFld (copyFld s .coreIdleP_clk .coreIsnapP_clk j) .coreIdleF_clk .coreIsnapF_clk j

theorem get_copyIdle_fld {f : Fld} (hp : f ≠ .coreIsnapP_clk) (hf : f ≠ .coreIsnapF_clk) (j i : Nat) :
    get (copyIdle s j) f i = get s f i := by
  rw [copyIdle, copyFld, get_put_fld _ _ _ _ hf, copyFld, get_put_fld _ _ _ _ hp]

theorem get_copyIdle_ne {i j : Nat} (h : i ≠ j) (f : Fld) : get (copyIdle s j) f i = get s f i := by
  rw [copyIdle, copyFld, get_put_ne _ (fun e => h e.2), copyFld, get_put_ne _ (fun e => h e.2)]

theorem get_copyIdle_prim (j : Nat) :
    get (copyIdle s j) .coreIsnapP_clk j = get s .coreIdleP_clk j % 2 ^ Fld.coreIsnapP_clk.width := by
  rw [copyIdle, copyFld, get_put_fld _ _ _ _ (by decide), copyFld, get_put_same]

theorem get_copyIdle_fill (j : Nat) :
    get (copyIdle s j) .coreIsnapF_clk j = get s .coreIdleF_clk j % 2 ^ Fld.coreIsnapF_clk.width := by
  rw [copyIdle, copyFld, get_put_same, copyFld, get_put_fld _ _ _ _ (by decide)]

/-- The idle counters of core `c`, all thirteen. -/
def copyIdles (c : Nat) : State := (List.range 13).foldl (fun s i => copyIdle s (13 * c + i)) s

theorem get_copyIdles_fld {f : Fld} (hp : f ≠ .coreIsnapP_clk) (hf : f ≠ .coreIsnapF_clk) (c i : Nat) :
    get (copyIdles s c) f i = get s f i := by
  unfold copyIdles
  generalize List.range 13 = l
  induction l generalizing s with
  | nil => rfl
  | cons j l ih => exact (ih _).trans (get_copyIdle_fld s hp hf _ i)

theorem get_copyIdles_ne {c d i : Nat} (h : d ≠ c) (hi : i < 13) (f : Fld) :
    get (copyIdles s c) f (13 * d + i) = get s f (13 * d + i) := by
  have hall {l : List Nat} (hl : ∀ j ∈ l, j < 13) (s : State) :
      get (l.foldl (fun s i => copyIdle s (13 * c + i)) s) f (13 * d + i) = get s f (13 * d + i) := by
    induction l generalizing s with
    | nil => rfl
    | cons j l ih =>
      obtain ⟨hj, hl'⟩ := List.forall_mem_cons.mp hl
      exact (ih hl' _).trans (get_copyIdle_ne s (by omega) f)
  exact hall (fun j hj => List.mem_range.mp hj) s

theorem get_copyIdles_prim {i : Nat} (hi : i < 13) (c : Nat) : get (copyIdles s c) .coreIsnapP_clk (13 * c + i) =
    get s .coreIdleP_clk (13 * c + i) % 2 ^ Fld.coreIsnapP_clk.width :=
  foldl_writes (shown := fun s i => get s .coreIsnapP_clk (13 * c + i))
    (value := fun s i => get s .coreIdleP_clk (13 * c + i) % 2 ^ Fld.coreIsnapP_clk.width)
    (fun s i => get_copyIdle_prim s _)
    (fun s i j => by rw [get_copyIdle_fld s (by decide) (by decide)])
    (fun s i j h => get_copyIdle_ne s (by omega) _) (List.mem_range.mpr hi) s

theorem get_copyIdles_fill {i : Nat} (hi : i < 13) (c : Nat) : get (copyIdles s c) .coreIsnapF_clk (13 * c + i) =
    get s .coreIdleF_clk (13 * c + i) % 2 ^ Fld.coreIsnapF_clk.width :=
  foldl_writes (shown := fun s i => get s .coreIsnapF_clk (13 * c + i))
    (value := fun s i => get s .coreIdleF_clk (13 * c + i) % 2 ^ Fld.coreIsnapF_clk.width)
    (fun s i => get_copyIdle_fill s _)
    (fun s i j => by rw [get_copyIdle_fld s (by decide) (by decide)])
    (fun s i j h => get_copyIdle_ne s (by omega) _) (List.mem_range.mpr hi) s

/-- The issue and gating sums of a core, and the epoch, in its snapshot (R133). -/
def snapSums (epoch c : Nat) : State :=
  put (put (put (put s .coreSnapIssued_slots (sumEight s .coreArrIssued_slots c) c)
    .coreSnapGated_slots (sumEight s .coreArrGated_slots c) c) .coreSnapEpoch_epoch epoch c) .coreIsnapEpoch_epoch epoch c

/-- The idle clock and the jobs counted, in its snapshot (R347). -/
def snapJobs (c : Nat) : State :=
  let s4 := copyFld s .coreIdleClk_clk .coreIsnapClk_clk c
  put (put s4 .coreIsnapPj_both (get s4 .coreIdlePj_job c + 4096 * get s4 .coreIdlePj_valid c) c)
    .coreIsnapFj_both (get s4 .coreIdleFj_job c + 4096 * get s4 .coreIdleFj_valid c) c

theorem snapCore_eq (epoch c : Nat) : snapCore s epoch c = snapJobs (copyIdles (snapSums s epoch c) c) c := rfl

/-- The fields of a snapshot. -/
def snapFlds : List Fld :=
  [.coreSnapIssued_slots, .coreSnapGated_slots, .coreSnapEpoch_epoch, .coreIsnapEpoch_epoch, .coreIsnapP_clk, .coreIsnapF_clk,
    .coreIsnapClk_clk, .coreIsnapPj_both, .coreIsnapFj_both]

theorem keptRegs_snapSums (epoch c : Nat) : KeptRegs s (snapSums s epoch c)
    [.coreSnapIssued_slots, .coreSnapGated_slots, .coreSnapEpoch_epoch, .coreIsnapEpoch_epoch] :=
  keptRegs_put (keptRegs_put (keptRegs_put (keptRegs_put (fun _ _ _ => rfl) (by decide) _ c) (by decide) _ c) (by decide) _ c)
    (by decide) _ c

theorem keptRegs_snapJobs (c : Nat) :
    KeptRegs s (snapJobs s c) [.coreIsnapClk_clk, .coreIsnapPj_both, .coreIsnapFj_both] :=
  keptRegs_put (keptRegs_put (keptRegs_put (fun _ _ _ => rfl) (by decide) _ c) (by decide) _ c) (by decide) _ c

theorem get_snapSums_ne {c d : Nat} (h : d ≠ c) (epoch : Nat) (f : Fld) : get (snapSums s epoch c) f d = get s f d := by
  have hput (u : State) (g : Fld) (v : Nat) : get (put u g v c) f d = get u f d := get_put_ne u (fun e => h e.2)
  rw [snapSums, hput, hput, hput, hput]

theorem get_snapJobs_ne {c d : Nat} (h : d ≠ c) (f : Fld) : get (snapJobs s c) f d = get s f d := by
  have hput (u : State) (g : Fld) (v : Nat) : get (put u g v c) f d = get u f d := get_put_ne u (fun e => h e.2)
  rw [snapJobs, hput, hput, copyFld, hput]

theorem keptRegs_snapCore (epoch c : Nat) : KeptRegs s (snapCore s epoch c) snapFlds := by
  intro f i hf
  rw [snapCore_eq, keptRegs_snapJobs _ c f i (fun h => hf (List.mem_of_mem_drop (i := 6) h)),
    get_copyIdles_fld _ (fun e => hf (by simp [snapFlds, e])) (fun e => hf (by simp [snapFlds, e])),
    keptRegs_snapSums s epoch c f i (fun h => hf (List.mem_of_mem_take (i := 4) h))]

theorem regsOnly_copyIdle {t : State} (h : RegsOnly s t) (j : Nat) : RegsOnly s (copyIdle t j) :=
  regsOnly_put (regsOnly_put h _ _ j) _ _ j

theorem regsOnly_snapCore {t : State} (h : RegsOnly s t) (epoch c : Nat) : RegsOnly s (snapCore t epoch c) := by
  have hsums : RegsOnly s (snapSums t epoch c) :=
    regsOnly_put (regsOnly_put (regsOnly_put (regsOnly_put h _ _ c) _ _ c) _ _ c) _ _ c
  have hidle : RegsOnly s (copyIdles (snapSums t epoch c) c) :=
    regsOnly_foldl (fun t i ht => regsOnly_copyIdle s ht (13 * c + i)) _ hsums
  rw [snapCore_eq]
  exact regsOnly_put (regsOnly_put (regsOnly_put hidle _ _ c) _ _ c) _ _ c

/-- A boundary's snapshots are registers, and nothing else changes with them. -/
theorem regsOnly_takeSnapshots (epoch : Nat) : RegsOnly s (takeSnapshots s epoch) :=
  regsOnly_foldl (fun _ c ht => regsOnly_snapCore s ht epoch c) _ regsOnly_refl

/-- What the snapshot registers of a core show: the issue and gating sums, the epoch, and both slots' idle counters. -/
def coreSnap (c : Nat) : Nat × Nat × Nat × (Fin 13 → Nat) × (Fin 13 → Nat) :=
  (get s .coreSnapIssued_slots c, get s .coreSnapGated_slots c, get s .coreSnapEpoch_epoch c,
    fun i => get s .coreIsnapP_clk (13 * c + i), fun i => get s .coreIsnapF_clk (13 * c + i))

/-- What they are to show at the boundary of an epoch (R133, R347). -/
def coreCounts (epoch : Nat) (s : State) (c : Nat) : Nat × Nat × Nat × (Fin 13 → Nat) × (Fin 13 → Nat) :=
  (sumEight s .coreArrIssued_slots c % 2 ^ Fld.coreSnapIssued_slots.width,
    sumEight s .coreArrGated_slots c % 2 ^ Fld.coreSnapGated_slots.width, epoch % 2 ^ Fld.coreSnapEpoch_epoch.width,
    fun i => get s .coreIdleP_clk (13 * c + i) % 2 ^ Fld.coreIsnapP_clk.width,
    fun i => get s .coreIdleF_clk (13 * c + i) % 2 ^ Fld.coreIsnapF_clk.width)

theorem coreSnap_snapCore_same (epoch c : Nat) : coreSnap (snapCore s epoch c) c = coreCounts epoch s c := by
  have hprim (i : Fin 13) : get (snapCore s epoch c) .coreIsnapP_clk (13 * c + i) =
      get s .coreIdleP_clk (13 * c + i) % 2 ^ Fld.coreIsnapP_clk.width := by
    rw [snapCore_eq, keptRegs_snapJobs _ c _ _ (by decide), get_copyIdles_prim _ i.isLt, keptRegs_snapSums s epoch c _ _ (by decide)]
  have hfill (i : Fin 13) : get (snapCore s epoch c) .coreIsnapF_clk (13 * c + i) =
      get s .coreIdleF_clk (13 * c + i) % 2 ^ Fld.coreIsnapF_clk.width := by
    rw [snapCore_eq, keptRegs_snapJobs _ c _ _ (by decide), get_copyIdles_fill _ i.isLt, keptRegs_snapSums s epoch c _ _ (by decide)]
  have hsums {f : Fld} (hf : f ∈ [Fld.coreSnapIssued_slots, .coreSnapGated_slots, .coreSnapEpoch_epoch]) :
      get (snapCore s epoch c) f c = get (snapSums s epoch c) f c := by
    rw [snapCore_eq, keptRegs_snapJobs _ c _ _ (by revert f; decide), get_copyIdles_fld _ (by revert f; decide) (by revert f; decide)]
  simp only [coreSnap, coreCounts, hprim, hfill, hsums (f := .coreSnapIssued_slots) (by decide),
    hsums (f := .coreSnapGated_slots) (by decide), hsums (f := .coreSnapEpoch_epoch) (by decide)]
  simp [snapSums]

theorem coreCounts_snapCore (epoch d c : Nat) : coreCounts epoch (snapCore s epoch d) c = coreCounts epoch s c := by
  have hkept {f : Fld} (hf : f ∉ snapFlds) (i : Nat) := keptRegs_snapCore s epoch d f i hf
  simp only [coreCounts, sumEight, hkept (f := .coreArrIssued_slots) (by decide), hkept (f := .coreArrGated_slots) (by decide),
    hkept (f := .coreIdleP_clk) (by decide), hkept (f := .coreIdleF_clk) (by decide)]

theorem coreSnap_snapCore_ne {c d : Nat} (h : d ≠ c) (epoch : Nat) : coreSnap (snapCore s epoch c) d = coreSnap s d := by
  have hsums {f : Fld} (hp : f ≠ .coreIsnapP_clk) (hf : f ≠ .coreIsnapF_clk) : get (snapCore s epoch c) f d = get s f d := by
    rw [snapCore_eq, get_snapJobs_ne _ h, get_copyIdles_fld _ hp hf, get_snapSums_ne s h]
  have hidle {f : Fld} (hf : f ∈ [Fld.coreIsnapP_clk, .coreIsnapF_clk]) (i : Fin 13) :
      get (snapCore s epoch c) f (13 * d + i) = get s f (13 * d + i) := by
    rw [snapCore_eq, keptRegs_snapJobs _ c _ _ (by revert f; decide), get_copyIdles_ne _ h i.isLt,
      keptRegs_snapSums s epoch c _ _ (by revert f; decide)]
  simp only [coreSnap, hsums (f := .coreSnapIssued_slots) (by decide) (by decide),
    hsums (f := .coreSnapGated_slots) (by decide) (by decide), hsums (f := .coreSnapEpoch_epoch) (by decide) (by decide),
    hidle (f := .coreIsnapP_clk) (by decide), hidle (f := .coreIsnapF_clk) (by decide)]

/-- Every core of a die that is not in reset has the snapshot of its counters (R133, R347). -/
theorem coreSnap_takeSnapshots {c : Nat} (hc : c < 192) (hup : fnReady s (coreFn c) = true) (epoch : Nat) :
    coreSnap (takeSnapshots s epoch) c = coreCounts epoch s c :=
  foldl_writes (shown := coreSnap) (value := coreCounts epoch) (fun s c => coreSnap_snapCore_same s epoch c)
    (fun s d c => coreCounts_snapCore s epoch d c) (fun s _ _ h => coreSnap_snapCore_ne s h epoch)
    (List.mem_filter.mpr ⟨List.mem_range.mpr hc, hup⟩) s

/-! ### The order of the applies (R87) -/

/-- One scope's apply does not come after another's. -/
abbrev dueBefore (a b : Nat × Nat) : Prop := dueRank a ≤ dueRank b

theorem insertDue_eq_orderedInsert (p : Nat × Nat) (l : List (Nat × Nat)) :
    insertDue p l = l.orderedInsert dueBefore p := by
  induction l with
  | nil => rfl
  | cons x l ih =>
    by_cases h : dueBefore p x
    · rw [insertDue, if_pos h, List.orderedInsert_cons_of_le dueBefore l h]
    · rw [insertDue, if_neg h, List.orderedInsert_of_not_le dueBefore l h, ih]

/-- The scopes that are due at an epoch apply in the order of their ranks. -/
theorem exists_applyDue_order (epoch : Nat) : ∃ l : List (Nat × Nat), l.Perm (dueScopes s epoch) ∧
    l.Pairwise (fun a b => dueRank a ≤ dueRank b) ∧
    ∀ t : State, dueScopes t epoch = dueScopes s epoch → applyDue t epoch = l.foldl (fun z x => scopeAtEpoch z x.1) t := by
  have htotal : Std.Total dueBefore := ⟨fun a b => Nat.le_total _ _⟩
  have htrans : IsTrans (Nat × Nat) dueBefore := ⟨fun a b c => Nat.le_trans⟩
  refine ⟨(dueScopes s epoch).insertionSort dueBefore, List.perm_insertionSort .., List.pairwise_insertionSort .., fun t ht => ?_⟩
  have hsort : (dueScopes s epoch).foldr insertDue [] = (dueScopes s epoch).insertionSort dueBefore :=
    congrArg (fun f => (dueScopes s epoch).foldr f []) (funext fun p => funext fun l => insertDue_eq_orderedInsert p l)
  rw [applyDue, ht, hsort]
  rfl

/-! ### Boundaries -/

theorem wantLower_time : (wantLower s).time = s.time := by
  simp [wantLower, apply_ite State.time, logEvt_time]

theorem exec_epochBoundary_of_due (h : s.time.lastEpoch < effTide s / 65536) : exec .epochBoundary s = .next
    (if fn0Up s then epochBody s (s.time.lastEpoch + 1)
      else { s with time := { s.time with lastEpoch := s.time.lastEpoch + 1 } }) :=
  congrArg Host.Outcome.next (if_pos (decide_eq_true h))

/-- A boundary counts as taken. -/
def boundaryTaken (e : Nat) : State := { s with time := { s.time with lastEpoch := e } }

theorem boundaryTaken_named (e : Nat) : (boundaryTaken s e).time.named = s.time.named := rfl

/-- An epoch boundary: what closes the interval, the applies, and the power transition (R51, R447, R457). -/
theorem epochBody_eq (e : Nat) : epochBody s e =
    retryHeld (powerAtEpoch (applyDue (boundaryTaken (wantLower (takeSnapshots s e)) e) e) e) := rfl

/-- Which scopes are due does not change as the interval closes. -/
theorem dueScopes_boundaryTaken (e : Nat) :
    dueScopes (boundaryTaken (wantLower (takeSnapshots s e)) e) e = dueScopes s e := by
  rw [dueScopes, boundaryTaken_named, wantLower_time, regsOnly_time (regsOnly_takeSnapshots s e), dueScopes]

/-! ### Slot boundaries -/

/-- The boundary of a slot clock is seen, and counted (R46). -/
def slotSeen (k b : Nat) : State :=
  { s with time := { s.time with
      slotAt := mset 0 s.time.slotAt k (b + 1), slotN := mset 0 s.time.slotN k (mget 0 s.time.slotN k + 1) } }

/-- Granting fires changes the collective unit alone. -/
theorem exists_grantSlots_eq (n : Nat) (l : List ChainRec) (t : State) : ∃ c, each l (grantSlot n) t = { t with col := c } := by
  induction l generalizing t with
  | nil => exact ⟨t.col, rfl⟩
  | cons r l ih =>
    obtain ⟨c, hc⟩ := ih (grantSlot n t r)
    exact ⟨c, hc⟩

theorem exec_slotBoundary_of_due {k : Fin 8} {b : Nat} (hup : fn0Up s = true) (hb : slotDue s k.val = some b) :
    ∃ c, exec (.slotBoundary k) s = .next { slotSeen s k.val b with col := c } := by
  obtain ⟨c, hc⟩ := exists_grantSlots_eq (mget 0 s.time.slotN k.val + 1)
    ((armedTemplates (slotSeen s k.val b)).filter (fun r => tSlotEn r && tSclk r == k.val)) (slotSeen s k.val b)
  refine ⟨c, ?_⟩
  show execSlotBoundary k s = _
  simp only [execSlotBoundary, hb, onlyIf, hup, if_true]
  exact congrArg Host.Outcome.next hc

theorem slotDue_slotSeen {k b : Nat} (hb : slotDue s k = some b) (c : ColSt) : slotDue { slotSeen s k b with col := c } k = none := by
  have hlast : slotEn s k = true ∧ lastSlot s k (effTide s) = some b := by
    unfold slotDue at hb
    split at hb
    case isFalse => cases hb
    case isTrue hen =>
      split at hb
      case h_1 => cases hb
      case h_2 b' hl =>
        split at hb
        · exact ⟨hen, hl.trans hb⟩
        · cases hb
  obtain ⟨hen, hl⟩ := hlast
  have hen' : slotEn { slotSeen s k b with col := c } k = true := hen
  have hl' : lastSlot { slotSeen s k b with col := c } k (effTide { slotSeen s k b with col := c }) = some b := hl
  have hat : mget 0 (slotSeen s k b).time.slotAt k = b + 1 := by simp [slotSeen]
  simp [slotDue, hen', hl', hat]

theorem exec_slotBoundary_of_none {k : Fin 8} (h : slotDue s k.val = none) : exec (.slotBoundary k) s = .next s := by
  show execSlotBoundary k s = _
  simp only [execSlotBoundary, h]

end Sys2Proof.Machine

namespace Sys2Proof.Machine

/-- Settles O38: the counter's arithmetic, a tick that finds nothing to do, and each boundary from the parts it is made of. -/
theorem tideCountsAndBoundariesRun : Obligations.TideCountsAndBoundariesRun := by
  intro s
  refine ⟨fun htide hfrac hlo hhi => ?count, exec_tideTick_of_not_checking s,
    fun hheld harm hmoves hbuf hcheck hdue => ?quiet, fun hdue => ⟨fun hup => ?epoch, fun hup => ?alone⟩,
    fun hnot => ?passed, fun k b hup hb => ?slot, fun k hnone => ⟨s, exec_slotBoundary_of_none s hnone, rfl⟩⟩
  case count =>
    obtain ⟨hsum, hlt⟩ := tickTime_adds htide hfrac hlo hhi
    exact ⟨hsum, hlt, rfl, rfl⟩
  case quiet =>
    have htick := ticked_of_quiet s hheld harm hmoves hbuf hdue
    have hcheck' : checking (ticked s) = false := by
      rw [htick]
      exact hcheck
    exact ⟨_, exec_tideTick_of_not_checking s hcheck', htick⟩
  case epoch =>
    have hregs := regsOnly_takeSnapshots s (s.time.lastEpoch + 1)
    refine ⟨fun c hc hready => ?_, keptMem_of_mem_eq (regsOnly_mem hregs), regsOnly_rest hregs, ?_⟩
    · have hsnap := coreSnap_takeSnapshots s hc hready (s.time.lastEpoch + 1)
      simp only [coreSnap, coreCounts, Prod.mk.injEq] at hsnap
      obtain ⟨hissued, hgated, hepoch, hprim, hfill⟩ := hsnap
      exact ⟨hissued, hgated, hepoch, fun i hi => ⟨congrFun hprim ⟨i, hi⟩, congrFun hfill ⟨i, hi⟩⟩⟩
    · obtain ⟨l, hperm, hsorted, happly⟩ := exists_applyDue_order s (s.time.lastEpoch + 1)
      refine ⟨l, hperm, hsorted, ?_⟩
      rw [exec_epochBoundary_of_due s hdue, if_pos hup, epochBody_eq, happly _ (dueScopes_boundaryTaken s _)]
      rfl
  case alone =>
    refine ⟨_, exec_epochBoundary_of_due s hdue, ?_⟩
    rw [if_neg (by simp [hup])]
  case passed =>
    exact ⟨s, congrArg Host.Outcome.next (if_neg (by simpa using hnot)), rfl⟩
  case slot =>
    obtain ⟨c, hgo⟩ := exec_slotBoundary_of_due s hup hb
    exact ⟨_, hgo, by simp [slotSeen], by simp [slotSeen], slotDue_slotSeen s hb c, rfl⟩

end Sys2Proof.Machine
end

section
/-!
What an apply does besides the tide unit's own work leaves the tide unit alone: accesses to memory and translation, COMMIT and ROLLBACK
(R229, R390, R391), the dies' clocks, and images (R87 to R93). One lemma for each operation, in the order of the model.
-/
namespace Sys2Proof.Machine

/-! ### Runs of updates -/

theorem foldl_time {α : Type} {f : State → α → State} (hf : ∀ s x, (f s x).time = s.time) (l : List α) (s : State) :
    (l.foldl f s).time = s.time := by
  induction l generalizing s with
  | nil => rfl
  | cons x l ih => exact (ih _).trans (hf s x)

theorem each_time {α : Type} {f : State → α → State} (hf : ∀ s x, (f s x).time = s.time) (l : List α) (s : State) :
    (each l f s).time = s.time := foldl_time hf l s

theorem foldl_fst_time {α β : Type} {f : State × β → α → State × β} (hf : ∀ r x, (f r x).1.time = r.1.time) (l : List α)
    (r : State × β) : (l.foldl f r).1.time = r.1.time := by
  induction l generalizing r with
  | nil => rfl
  | cons x l ih => exact (ih _).trans (hf r x)

variable (s : State)

theorem wrBytes_time (a : Nat) (b : Bytes) : (wrBytes s a b).time = s.time := by
  induction b generalizing s a with
  | nil => rfl
  | cons x b ih => exact ih _ _

/-! ### Memory and translation -/

theorem correct_time (a n : Nat) : (correct s a n).time = s.time := by
  refine (foldl_time (fun s m => ?_) _ _).trans rfl
  split <;> rfl

theorem clearUnits_time (a n : Nat) : (clearUnits s a n).time = s.time := correct_time _ a n

theorem countHbm_time (f : Fld) (a n : Nat) : (countHbm s f a n).time = s.time := by
  unfold countHbm
  split <;> rfl

theorem readMem_time (a n : Nat) : (readMem s a n).1.time = s.time := by
  unfold readMem
  split
  · rfl
  · exact (countHbm_time ..).trans (correct_time ..)

theorem writeMem_time (a : Nat) (b : Bytes) : (writeMem s a b).1.time = s.time := by
  unfold writeMem
  split
  · rfl
  · exact (countHbm_time ..).trans ((wrBytes_time ..).trans (clearUnits_time ..))

theorem walkFix_time (va n table : Nat) : (walkFix va n table s).time = s.time := by
  induction n generalizing s table with
  | zero => rfl
  | succ n ih =>
    unfold walkFix
    dsimp only
    split
    · rfl
    · split
      · exact (ih ..).trans (correct_time ..)
      · exact correct_time ..

theorem fixWalk_time (core job va : Nat) (fetch : Bool) : (fixWalk s core job va fetch).time = s.time := by
  unfold fixWalk
  split
  · exact walkFix_time ..
  · rfl

theorem noteWalk_time (core job va : Nat) (fetch : Bool) : (noteWalk s core job va fetch).time = s.time := by
  unfold noteWalk
  dsimp only
  split
  · rfl
  · split
    · split <;> rfl
    · split
      · rfl
      · exact walkFix_time ..

theorem noteViewWrite_time (job va : Nat) : (noteViewWrite s job va).time = s.time := by
  unfold noteViewWrite
  dsimp only
  split
  · split
    · rfl
    · split <;> split <;> rfl
  · rfl

theorem noteUe_time (off job core : Nat) (scrub : Bool) : (noteUe s off job core scrub).time = s.time := by
  refine (logEvt_time ..).trans ?_
  dsimp only
  split <;> simp only [put_time, bump_time]

theorem noteUnit_time (u : EccUnit) (job core : Nat) : (noteUnit s u job core).time = s.time := by
  unfold noteUnit
  split
  · exact noteUe_time ..
  · rfl

theorem noteWalkUe_time (job core va reason : Nat) : (noteWalkUe s job core va reason).time = s.time := by
  unfold noteWalkUe
  split
  · split
    · exact noteUe_time ..
    · rfl
  · exact fixWalk_time ..

theorem noteFault_time (job core unit va reason code : Nat) : (noteFault s job core unit va reason code).time = s.time := by
  unfold noteFault
  dsimp only
  split <;> simp only [put_time, bump_time, noteWalkUe_time]

theorem noteReach_time (job core unit va reason code : Nat) : (noteReach s job core unit va reason code).time = s.time := by
  unfold noteReach
  split
  · rfl
  · exact noteFault_time ..

theorem noteAccess_time (core job va : Nat) (write : Bool) : (noteAccess s core job va write).time = s.time := by
  unfold noteAccess
  dsimp only
  split
  · exact (noteViewWrite_time ..).trans (noteWalk_time ..)
  · exact noteWalk_time ..

theorem readOff_time (job core o n : Nat) : (readOff s job core o n).1.time = s.time := by
  unfold readOff
  dsimp only
  split
  · rfl
  · split
    · rfl
    · split
      · exact (noteUnit_time ..).trans (readMem_time ..)
      · exact readMem_time ..

theorem writeOff_time (job core o : Nat) (b : Bytes) : (writeOff s job core o b).1.time = s.time := by
  unfold writeOff
  dsimp only
  split
  · rfl
  · split
    · rfl
    · split
      · exact (noteUnit_time ..).trans (writeMem_time ..)
      · exact writeMem_time ..

theorem readVa_time (job core unit va n : Nat) : (readVa s job core unit va n).1.time = s.time := by
  refine foldl_fst_time (fun r p => ?_) _ _
  split
  · rfl
  · split
    · exact (readOff_time ..).trans (noteAccess_time ..)
    · exact noteReach_time ..
    · exact noteReach_time ..

theorem writeVa_time (job core unit va : Nat) (b : Bytes) : (writeVa s job core unit va b).1.time = s.time := by
  refine foldl_fst_time (fun r p => ?_) _ _
  split
  · rfl
  · split
    · exact (writeOff_time ..).trans (noteAccess_time ..)
    · exact noteReach_time ..
    · exact noteReach_time ..

theorem scribble_time (a n : Nat) : (scribble s a n).time = s.time := by
  induction n generalizing s a with
  | zero => rfl
  | succ n ih => exact ih _ _

theorem scribbleVa_time (core job va n : Nat) : (scribbleVa core job s va n).time = s.time := by
  induction n generalizing s va with
  | zero => rfl
  | succ n ih =>
    unfold scribbleVa
    refine (ih _ _).trans ?_
    split
    · rfl
    · split
      · exact scribble_time ..
      · rfl

/-! ### Answers and trigger counters -/

theorem sendResp_time (r : Resp) : (sendResp s r).time = s.time := by
  unfold sendResp
  dsimp only
  split <;> rfl

theorem answer_time (h : CtlHdr) (op status code : Nat) (words : List Word) : (answer s h op status code words).time = s.time := by
  refine (each_time (fun s a => ?_) _ _).trans (sendResp_time ..)
  rfl

theorem tcAdd_time (c i n : Nat) : (tcAdd s c i n).time = s.time := by
  unfold tcAdd
  dsimp only
  split <;> rfl

/-! ### COMMIT and ROLLBACK -/

theorem endCommit_time (job : Nat) (c : CommitCmd) (status code : Nat) : (endCommit s job c status code).time = s.time :=
  answer_time ..

theorem copyVa_time (job n a b : Nat) : (copyVa job n s a b).time = s.time := by
  unfold copyVa
  dsimp only
  split
  · exact (writeVa_time ..).trans (readVa_time ..)
  · exact readVa_time ..

theorem keepExtent_time (job c : Nat) (x : Nat × Nat × Nat) : (keepExtent job c s x).time = s.time := by
  unfold keepExtent
  dsimp only
  split
  · exact copyVa_time ..
  · rfl

theorem commitShard_time (c : Nat) (x : Shard) : (commitShard c s x).time = s.time := by
  unfold commitShard
  dsimp only
  split
  · exact (logEvt_time ..).trans (foldl_time (fun s x => keepExtent_time s _ _ x) _ _)
  · rfl

theorem commitShards_time (job c step : Nat) : (commitShards s job c step).time = s.time :=
  foldl_time (fun s x => commitShard_time s c x) _ _

theorem commitApply_time (job j : Nat) (c : CommitCmd) : (commitApply s job j c).time = s.time := by
  have hdrop (t : State) (step : Nat) : (dropShards t job step).time = t.time := rfl
  have hcount (l : List Nat) (i : Nat) (t : State) : (each l (fun s k => tcAdd s k i 1) t).time = t.time :=
    foldl_time (fun s k => tcAdd_time s k i 1) l t
  unfold commitApply
  dsimp only
  split
  · rw [endCommit_time, bump_time]
    split <;> simp only [hcount, put_time, hdrop, commitShards_time]
  · split <;> simp only [endCommit_time, bump_time, backState, put_time]

theorem scribbleBanks_time (job cur : Nat) : (scribbleBanks s job cur).time = s.time := by
  unfold scribbleBanks
  generalize List.filter _ _ = regions
  exact each_time (fun s r => scribbleVa_time s 255 job _ _) regions s

theorem rollbackApply_time (job j : Nat) (c : CommitCmd) : (rollbackApply s job j c).time = s.time := by
  have hok (t : State) : (endCommit (bump (put t .grdJobb_state 0 j) .grdJobd_rollbacks 1 j) job c 0 0).time = t.time :=
    (endCommit_time ..).trans ((bump_time ..).trans (put_time ..))
  unfold rollbackApply
  dsimp only
  split
  · split
    · exact (hok _).trans ((put_time ..).trans (scribbleBanks_time ..))
    · exact hok _
  · split
    · exact (hok _).trans ((put_time ..).trans ((put_time ..).trans (put_time ..)))
    · exact (endCommit_time ..).trans ((bump_time ..).trans (put_time ..))

theorem commitAtEpoch_time (job : Nat) : (commitAtEpoch s job).time = s.time := by
  unfold commitAtEpoch
  split
  · rfl
  · split
    · exact endCommit_time ..
    · split
      · exact commitApply_time ..
      · exact rollbackApply_time ..

theorem retuneDies_time : (retuneDies s).time = s.time := by
  unfold retuneDies
  split
  · refine each_time (fun s d => ?_) _ _
    rfl
  · rfl

/-! ### Images -/

theorem newJob_time (c : Nat) (sl : Slot) : (newJob s c sl).time = s.time := by
  have hclear (l : List Nat) (t : State) : (each l (fun s i => put s (idleFld sl) 0 (13 * c + i)) t).time = t.time :=
    each_time (fun s i => put_time ..) l t
  exact (setCore_time ..).trans ((put_time ..).trans ((put_time ..).trans (hclear _ s)))

theorem reroute_time (c : Nat) (sl : Slot) : (reroute s c sl).time = s.time := setCore_time ..

theorem changeJobs_time (old : State) : (changeJobs old s).time = s.time := by
  unfold changeJobs
  generalize allCores = cores
  refine each_time (fun s c => each_time (fun s sl => ?_) _ _) _ _
  split
  · exact newJob_time ..
  · split
    · exact reroute_time ..
    · rfl

theorem layImage_time (p : PendImg) : (layImage s p).time = s.time :=
  (changeJobs_time ..).trans ((put_time ..).trans (put_time ..))

theorem clearStale_time (m : Nat) : (clearStale s m).time = s.time := put_time ..

theorem putDigest_time (f : Fld) (d : Nat) : (putDigest s f d).time = s.time := by
  simp only [putDigest, put_time]

theorem closeRestore_time : (closeRestore s).time = s.time := put_time s .shpStat_restore_open 0 0

theorem endRestore_time (m : Nat) : (endRestore s m).time = s.time := by
  unfold endRestore
  split
  · exact (closeRestore_time ..).trans (clearStale_time ..)
  · rfl

theorem measureFull_time (p : PendImg) (m : Nat) : (measureFull s p m).time = s.time := by
  unfold measureFull
  split
  · simp only [closeRestore_time, clearStale_time, putDigest_time]
  · exact putDigest_time ..

theorem measureNarrow_time (p : PendImg) (m : Nat) : (measureNarrow s p m).time = s.time := by
  unfold measureNarrow
  split
  · simp only [endRestore_time, putDigest_time, put_time]
  · split
    · simp only [endRestore_time, putDigest_time]
    · rfl

theorem applyImage_time (p : PendImg) : (applyImage s p).time = s.time := by
  simp only [applyImage]
  split
  · exact (measureFull_time ..).trans (layImage_time ..)
  · exact (measureNarrow_time ..).trans (layImage_time ..)

end Sys2Proof.Machine
end

section
/-!
Named epochs and eclipse (R48 to R56): what a write of `TIDE_APPLY` shows and names, how eclipse begins, and what an apply of a scope
leaves in the tide unit.
-/
namespace Sys2Proof.Machine

variable (s : State)

/-! ### Named epochs -/

theorem namedOf_setNamed_same (sc : Nat) (n : Option NamedEpoch) : namedOf (setNamed s sc n) sc = n := mget_mset_same sc n

theorem namedOf_setNamed_ne {sc x : Nat} (hx : x ≠ sc) (n : Option NamedEpoch) : namedOf (setNamed s sc n) x = namedOf s x :=
  mget_mset_ne n hx

theorem setNamed_shadows (sc : Nat) (n : Option NamedEpoch) : (setNamed s sc n).time.shadows = s.time.shadows := rfl

theorem get_setNamed (sc : Nat) (n : Option NamedEpoch) (f : Fld) (i : Nat) : get (setNamed s sc n) f i = get s f i := rfl

theorem setNamed_mem (sc : Nat) (n : Option NamedEpoch) : (setNamed s sc n).mem = s.mem := rfl

theorem held_of_mem_clearHeld {sc : Nat} {h : Shadow} (hh : h ∈ (clearHeld s sc).time.shadows) (hsc : h.scope = sc) :
    h.held = false := by
  obtain ⟨g, -, rfl⟩ := List.mem_map.1 hh
  by_cases hg : g.scope = sc
  · rw [if_pos hg]
  · rw [if_neg hg] at hsc
    exact absurd hsc hg

/-! ### Eclipse begins (R53) -/

theorem clearArm_time (sc : Nat) : (clearArm s sc).time = s.time := by
  unfold clearArm
  split <;> rfl

theorem clearArm_mem (sc : Nat) : (clearArm s sc).mem = s.mem := by
  unfold clearArm
  split <;> rfl

theorem clearArm_shp (sc : Nat) : (clearArm s sc).shp = s.shp := by
  unfold clearArm
  split <;> rfl

theorem keptRegs_clearArm (sc : Nat) : KeptRegs s (clearArm s sc) [.tideApply_arm] := by
  unfold clearArm
  split
  · exact keptRegs_put (fun _ _ _ => rfl) (List.mem_singleton_self _) 0 0
  · exact fun _ _ _ => rfl

theorem get_clearArm_arm {sc : Nat} (hsc : scopeId (get s .tideApply_job) (flag s .tideApply_scope) = sc) :
    get (clearArm s sc) .tideApply_arm = 0 := by
  rw [clearArm, if_pos hsc, get_put_same]
  exact Nat.zero_mod _

/-- A scope in eclipse, before the register of the epoch and the log show it. -/
def inEclipse (sc : Nat) : State :=
  put { s with time := { s.time with eclipse := (sc :: s.time.eclipse).eraseDups } } .tideEclipse_active 1

theorem beginEclipse_eq (sc epoch : Nat) : beginEclipse s sc epoch =
    logEvt (clearArm (inEclipse s sc) sc) 0x012 0 (scopeJob sc) 0 epoch (bit (decide (sc = modScope))) := rfl

theorem beginEclipse_time (sc epoch : Nat) :
    (beginEclipse s sc epoch).time = { s.time with eclipse := (sc :: s.time.eclipse).eraseDups } := by
  rw [beginEclipse_eq, logEvt_time, clearArm_time]
  rfl

theorem beginEclipse_mem (sc epoch : Nat) : (beginEclipse s sc epoch).mem = s.mem := by
  rw [beginEclipse_eq, logEvt_mem, clearArm_mem]
  rfl

theorem beginEclipse_shp (sc epoch : Nat) : (beginEclipse s sc epoch).shp = s.shp := by
  rw [beginEclipse_eq, logEvt_shp, clearArm_shp]
  rfl

theorem mem_beginEclipse_eclipse (sc epoch : Nat) : sc ∈ (beginEclipse s sc epoch).time.eclipse := by
  rw [beginEclipse_time]
  exact List.mem_eraseDups.2 List.mem_cons_self

theorem namedOf_beginEclipse (sc epoch x : Nat) : namedOf (beginEclipse s sc epoch) x = namedOf s x := by
  rw [namedOf, beginEclipse_time]
  rfl

theorem keptRegs_inEclipse (sc : Nat) : KeptRegs s (inEclipse s sc) [.tideEclipse_active] :=
  keptRegs_put (keptRegs_of_regs_eq rfl rfl _) (List.mem_singleton_self _) 1 0

theorem keptRegs_beginEclipse (sc epoch : Nat) :
    KeptRegs s (beginEclipse s sc epoch) (.tideEclipse_active :: .tideApply_arm :: eventFlds) := by
  rw [beginEclipse_eq]
  refine keptRegs_trans (keptRegs_trans (keptRegs_mono (keptRegs_inEclipse s sc) ?_) (keptRegs_mono (keptRegs_clearArm _ sc) ?_))
    (keptRegs_mono (keptRegs_logEvt _ _ _ _ _ _ _) ?_)
  · simp
  · simp
  · exact fun f hf => List.mem_cons_of_mem _ (List.mem_cons_of_mem _ hf)

theorem get_beginEclipse_active (sc epoch : Nat) : get (beginEclipse s sc epoch) .tideEclipse_active = 1 := by
  rw [beginEclipse_eq, get_logEvt_ne _ _ _ _ _ _ _ (by decide), keptRegs_clearArm _ sc _ 0 (by decide), inEclipse, get_put_same]
  rfl

theorem get_beginEclipse_arm {sc : Nat} (hsc : scopeId (get s .tideApply_job) (flag s .tideApply_scope) = sc) (epoch : Nat) :
    get (beginEclipse s sc epoch) .tideApply_arm = 0 := by
  rw [beginEclipse_eq, get_logEvt_ne _ _ _ _ _ _ _ (by decide)]
  refine get_clearArm_arm _ ?_
  rw [flag, keptRegs_inEclipse s sc _ 0 (by decide), keptRegs_inEclipse s sc _ 0 (by decide)]
  exact hsc

/-! ### A write of `TIDE_APPLY` (R48) -/

def applyFlds : List Fld := [.tideApply_epoch, .tideApply_job, .tideApply_scope, .tideApply_arm]

/-- The register as written. -/
def shownApply (epoch job : Nat) (m arm : Bool) : State :=
  put (put (put (put s .tideApply_epoch epoch) .tideApply_job job) .tideApply_scope (bit m)) .tideApply_arm (bit arm)

/-- `TIDE_APPLY` reads as written. -/
def ShowsApply (t : State) (epoch job : Nat) (m arm : Bool) : Prop :=
  get t .tideApply_epoch = epoch ∧ get t .tideApply_job = job ∧ get t .tideApply_scope = bit m ∧ get t .tideApply_arm = bit arm

theorem bit_mod_two (b : Bool) : bit b % 2 ^ 1 = bit b := by cases b <;> rfl

theorem showsApply_shownApply (epoch : BitVec 48) (job : BitVec 12) (m arm : Bool) :
    ShowsApply (shownApply s epoch.toNat job.toNat m arm) epoch.toNat job.toNat m arm := by
  have hepoch : epoch.toNat % 2 ^ Fld.tideApply_epoch.width = epoch.toNat := Nat.mod_eq_of_lt epoch.isLt
  have hjob : job.toNat % 2 ^ Fld.tideApply_job.width = job.toNat := Nat.mod_eq_of_lt job.isLt
  have hscope : bit m % 2 ^ Fld.tideApply_scope.width = bit m := bit_mod_two m
  have harm : bit arm % 2 ^ Fld.tideApply_arm.width = bit arm := bit_mod_two arm
  unfold ShowsApply shownApply
  refine ⟨?_, ?_, ?_, ?_⟩
  · rw [get_put_fld _ _ _ _ (by decide), get_put_fld _ _ _ _ (by decide), get_put_fld _ _ _ _ (by decide), get_put_same, hepoch]
  · rw [get_put_fld _ _ _ _ (by decide), get_put_fld _ _ _ _ (by decide), get_put_same, hjob]
  · rw [get_put_fld _ _ _ _ (by decide), get_put_same, hscope]
  · rw [get_put_same, harm]

theorem showsApply_of_keptRegs {t u : State} {l : List Fld} {epoch job : Nat} {m arm : Bool} (h : ShowsApply t epoch job m arm)
    (hk : KeptRegs t u l) (hl : ∀ f ∈ applyFlds, f ∉ l) : ShowsApply u epoch job m arm := by
  obtain ⟨hepoch, hjob, hscope, harm⟩ := h
  exact ⟨(hk _ 0 (hl _ (by decide))).trans hepoch, (hk _ 0 (hl _ (by decide))).trans hjob,
    (hk _ 0 (hl _ (by decide))).trans hscope, (hk _ 0 (hl _ (by decide))).trans harm⟩

theorem keptRegs_shownApply (epoch job : Nat) (m arm : Bool) : KeptRegs s (shownApply s epoch job m arm) applyFlds :=
  keptRegs_put (keptRegs_put (keptRegs_put (keptRegs_put (fun _ _ _ => rfl) (by decide) _ _) (by decide) _ _) (by decide) _ _)
    (by decide) _ _

theorem guardNs_shownApply (epoch job : Nat) (m arm : Bool) : guardNs (shownApply s epoch job m arm) = guardNs s := by
  rw [guardNs, keptRegs_shownApply s epoch job m arm _ 0 (by decide), guardNs]

theorem scopeId_of_showsApply {t : State} {epoch job : Nat} {m arm : Bool} (h : ShowsApply t epoch job m arm) :
    scopeId (get t .tideApply_job) (flag t .tideApply_scope) = scopeId job m := by
  obtain ⟨-, hjob, hscope, -⟩ := h
  rw [flag, hjob, hscope]
  cases m <;> rfl

theorem exec_tideApplyArm_of_up (epoch : BitVec 48) (job : BitVec 12) (m : Bool) (hup : fn0Up s = true) :
    exec (.tideApplyArm epoch job m) s =
      .next (nameEpoch (shownApply s epoch.toNat job.toNat m true) (scopeId job.toNat m) epoch.toNat) :=
  congrArg Host.Outcome.next (if_pos hup)

theorem exec_tideApplyCancel_of_up (epoch : BitVec 48) (job : BitVec 12) (m : Bool) (hup : fn0Up s = true) :
    exec (.tideApplyCancel epoch job m) s =
      .next (cancelEpoch (shownApply s epoch.toNat job.toNat m false) (scopeId job.toNat m)) :=
  congrArg Host.Outcome.next (if_pos hup)

/-! ### Naming an epoch (R48, R49, R53) -/

/-- A late naming, counted and shown, with nothing held. -/
def lateNamed (sc epoch : Nat) : State :=
  put (put (put (bump (clearHeld s sc) .tideCnt_late_apply) .tideEclipse_missed_epoch epoch) .tideEclipse_job (scopeJob sc))
    .tideEclipse_module_wide (bit (decide (sc = modScope)))

theorem nameEpoch_of_onTime {sc epoch : Nat} (h : s.time.tide + guardNs s ≤ 65536 * epoch) :
    nameEpoch s sc epoch = setNamed (clearHeld s sc) sc (some ⟨epoch, false⟩) := if_pos h

theorem nameEpoch_of_late {sc epoch : Nat} (hguard : 65536 * epoch < s.time.tide + guardNs s) (h : s.time.tide < 65536 * epoch) :
    nameEpoch s sc epoch = setNamed (lateNamed s sc epoch) sc (some ⟨epoch, true⟩) :=
  (if_neg (Nat.not_le.2 hguard)).trans (if_pos h)

theorem guardNs_pos : 0 < guardNs s := by
  unfold guardNs
  omega

theorem nameEpoch_of_passed {sc epoch : Nat} (h : 65536 * epoch ≤ s.time.tide) :
    nameEpoch s sc epoch = beginEclipse (setNamed (lateNamed s sc epoch) sc none) sc epoch :=
  have hpos := guardNs_pos s
  (if_neg (by omega)).trans (if_neg (Nat.not_lt.2 h))

def lateFlds : List Fld := [.tideCnt_late_apply, .tideEclipse_missed_epoch, .tideEclipse_job, .tideEclipse_module_wide]

theorem keptRegs_lateNamed (sc epoch : Nat) : KeptRegs s (lateNamed s sc epoch) lateFlds :=
  keptRegs_put (keptRegs_put (keptRegs_put (keptRegs_bump (keptRegs_of_regs_eq (t := clearHeld s sc) rfl rfl _) (by decide) _ _)
    (by decide) _ _) (by decide) _ _) (by decide) _ _

theorem counted_lateNamed (sc epoch : Nat) : Counted s (lateNamed s sc epoch) .tideCnt_late_apply 0 1 := by
  rw [Counted, lateNamed, get_put_fld _ _ _ _ (by decide), get_put_fld _ _ _ _ (by decide), get_put_fld _ _ _ _ (by decide)]
  exact counted_bump (clearHeld s sc) .tideCnt_late_apply 1 0

theorem get_lateNamed_epoch (sc : Nat) (epoch : BitVec 48) :
    get (lateNamed s sc epoch.toNat) .tideEclipse_missed_epoch = epoch.toNat := by
  rw [lateNamed, get_put_fld _ _ _ _ (by decide), get_put_fld _ _ _ _ (by decide), get_put_same]
  exact Nat.mod_eq_of_lt epoch.isLt

/-! ### What a write of `TIDE_APPLY` leaves (R48, R53) -/

theorem lateNamed_time (sc epoch : Nat) : (lateNamed s sc epoch).time = (clearHeld s sc).time :=
  (put_time ..).trans ((put_time ..).trans ((put_time ..).trans (bump_time ..)))

theorem lateNamed_mem (sc epoch : Nat) : (lateNamed s sc epoch).mem = s.mem :=
  (put_mem ..).trans ((put_mem ..).trans ((put_mem ..).trans (bump_mem ..)))

section
variable (epoch : BitVec 48) (job : BitVec 12) (m : Bool)

/-- The register as written, and nothing held for the scope that it names. -/
def Written (t : State) (arm : Bool) : Prop :=
  ShowsApply t epoch.toNat job.toNat m arm ∧ ∀ h ∈ t.time.shadows, h.scope = scopeId job.toNat m → h.held = false

/-- A late naming as `TIDE_APPLY` shows and counts it. -/
def LateShown (t : State) : Prop :=
  Counted s t .tideCnt_late_apply 0 1 ∧ get t .tideEclipse_missed_epoch = epoch.toNat ∧ KeptMem s t

/-- What a write of `TIDE_APPLY` in time leaves: it names an epoch, or none. -/
def namedInTime (arm : Bool) (n : Option NamedEpoch) : State :=
  setNamed (clearHeld (shownApply s epoch.toNat job.toNat m arm) (scopeId job.toNat m)) (scopeId job.toNat m) n

theorem keptRegs_namedInTime (arm : Bool) (n : Option NamedEpoch) : KeptRegs s (namedInTime s epoch job m arm n) applyFlds :=
  keptRegs_trans (keptRegs_shownApply s epoch.toNat job.toNat m arm) (keptRegs_of_regs_eq rfl rfl _)

theorem written_namedInTime (arm : Bool) (n : Option NamedEpoch) : Written epoch job m (namedInTime s epoch job m arm n) arm :=
  ⟨showsApply_of_keptRegs (showsApply_shownApply s epoch job m arm) (keptRegs_of_regs_eq rfl rfl []) (fun _ _ => List.not_mem_nil),
    fun _ hh => held_of_mem_clearHeld _ hh⟩

theorem namedOf_namedInTime_ne (arm : Bool) (n : Option NamedEpoch) {x : Nat} (hx : x ≠ scopeId job.toNat m) :
    namedOf (namedInTime s epoch job m arm n) x = namedOf s x := namedOf_setNamed_ne _ hx n

/-- What a late write of `TIDE_APPLY` leaves before eclipse begins: it names the late epoch, or none. -/
def namedLate (n : Option NamedEpoch) : State :=
  setNamed (lateNamed (shownApply s epoch.toNat job.toNat m true) (scopeId job.toNat m) epoch.toNat) (scopeId job.toNat m) n

theorem keptRegs_namedLate (n : Option NamedEpoch) :
    KeptRegs (shownApply s epoch.toNat job.toNat m true) (namedLate s epoch job m n) lateFlds :=
  keptRegs_trans (keptRegs_lateNamed _ (scopeId job.toNat m) epoch.toNat) (keptRegs_of_regs_eq rfl rfl _)

theorem namedLate_shadows (n : Option NamedEpoch) : (namedLate s epoch job m n).time.shadows =
    (clearHeld (shownApply s epoch.toNat job.toNat m true) (scopeId job.toNat m)).time.shadows := by
  rw [namedLate, setNamed_shadows, lateNamed_time]

theorem namedLate_mem (n : Option NamedEpoch) : (namedLate s epoch job m n).mem = s.mem := by
  rw [namedLate, setNamed_mem, lateNamed_mem, shownApply]
  simp only [put_mem]

theorem written_namedLate (n : Option NamedEpoch) : Written epoch job m (namedLate s epoch job m n) true := by
  refine ⟨showsApply_of_keptRegs (showsApply_shownApply s epoch job m true) (keptRegs_namedLate s epoch job m n) (by decide), ?_⟩
  rw [namedLate_shadows]
  exact fun _ hh => held_of_mem_clearHeld _ hh

theorem lateShown_namedLate (n : Option NamedEpoch) : LateShown s epoch (namedLate s epoch job m n) := by
  have hcount := counted_lateNamed (shownApply s epoch.toNat job.toNat m true) (scopeId job.toNat m) epoch.toNat
  rw [Counted, keptRegs_shownApply s epoch.toNat job.toNat m true _ 0 (by decide)] at hcount
  refine ⟨?_, ?_, keptMem_of_mem_eq (namedLate_mem ..)⟩
  · rw [Counted, namedLate, get_setNamed, hcount]
  · rw [namedLate, get_setNamed, get_lateNamed_epoch]

theorem exec_tideApplyArm_of_onTime (hup : fn0Up s = true) (h : s.time.tide + guardNs s ≤ 65536 * epoch.toNat) :
    exec (.tideApplyArm epoch job m) s = .next (namedInTime s epoch job m true (some ⟨epoch.toNat, false⟩)) := by
  rw [exec_tideApplyArm_of_up s epoch job m hup, nameEpoch_of_onTime]
  · rfl
  · rw [guardNs_shownApply]
    exact h

theorem exec_tideApplyArm_of_late (hup : fn0Up s = true) (hguard : 65536 * epoch.toNat < s.time.tide + guardNs s)
    (h : s.time.tide < 65536 * epoch.toNat) :
    exec (.tideApplyArm epoch job m) s = .next (namedLate s epoch job m (some ⟨epoch.toNat, true⟩)) := by
  rw [exec_tideApplyArm_of_up s epoch job m hup,
    nameEpoch_of_late (shownApply s epoch.toNat job.toNat m true) (sc := scopeId job.toNat m) ?_ h]
  · rfl
  · rw [guardNs_shownApply]
    exact hguard

theorem exec_tideApplyArm_of_passed (hup : fn0Up s = true) (h : 65536 * epoch.toNat ≤ s.time.tide) :
    exec (.tideApplyArm epoch job m) s =
      .next (beginEclipse (namedLate s epoch job m none) (scopeId job.toNat m) epoch.toNat) := by
  rw [exec_tideApplyArm_of_up s epoch job m hup, nameEpoch_of_passed (shownApply s epoch.toNat job.toNat m true) h]
  rfl

variable {s epoch job m}

theorem written_beginEclipse {t : State} (h : Written epoch job m t true) :
    Written epoch job m (beginEclipse t (scopeId job.toNat m) epoch.toNat) false := by
  obtain ⟨hshown, hheld⟩ := h
  have harm := get_beginEclipse_arm t (scopeId_of_showsApply hshown) epoch.toNat
  have hk := keptRegs_beginEclipse t (scopeId job.toNat m) epoch.toNat
  obtain ⟨hepoch, hjob, hscope, -⟩ := hshown
  refine ⟨⟨?_, ?_, ?_, harm⟩, ?_⟩
  · rw [hk _ 0 (by decide), hepoch]
  · rw [hk _ 0 (by decide), hjob]
  · rw [hk _ 0 (by decide), hscope]
  · rw [beginEclipse_time]
    exact hheld

theorem lateShown_beginEclipse {t : State} (h : LateShown s epoch t) (sc : Nat) :
    LateShown s epoch (beginEclipse t sc epoch.toNat) := by
  obtain ⟨hcount, hmissed, hmem⟩ := h
  have hk := keptRegs_beginEclipse t sc epoch.toNat
  refine ⟨?_, ?_, fun a => (keptMem_of_mem_eq (beginEclipse_mem ..) a).trans (hmem a)⟩
  · rw [Counted, hk _ 0 (by decide), hcount]
  · rw [hk _ 0 (by decide), hmissed]

end

end Sys2Proof.Machine
end

section
/-!
A scope at the epoch named for it (R51, R53, R56): late, it enters eclipse; in time, what is pending applies and eclipse ends.
-/
namespace Sys2Proof.Machine

variable (s : State)

/-! ### The apply of shadows leaves names and images, and eclipse where no layout is among them -/

theorem takeShadow_named (h : Shadow) : (takeShadow s h).time.named = s.time.named := by
  unfold takeShadow
  dsimp only
  split <;> split <;> rfl

theorem takeShadow_eclipse (h : Shadow) : (takeShadow s h).time.eclipse = s.time.eclipse := by
  unfold takeShadow
  dsimp only
  split <;> split <;> rfl

theorem takeShadow_shp (h : Shadow) : (takeShadow s h).shp = s.shp := by
  unfold takeShadow
  dsimp only
  split <;> split <;> rfl

theorem applyShadow_named (sc : Nat) (h : Shadow) : (applyShadow sc s h).time.named = s.time.named := by
  unfold applyShadow
  split
  · rfl
  · exact takeShadow_named ..

theorem applyShadow_shp (sc : Nat) (h : Shadow) : (applyShadow sc s h).shp = s.shp := by
  unfold applyShadow
  split
  · rfl
  · exact takeShadow_shp ..

theorem applyShadows_named (sc : Nat) : (applyShadows s sc).time.named = s.time.named := by
  rw [applyShadows_eq_foldl]
  induction dueShadows s sc generalizing s with
  | nil => rfl
  | cons h l ih => exact (ih _).trans (applyShadow_named ..)

theorem applyShadows_shp (sc : Nat) : (applyShadows s sc).shp = s.shp := by
  rw [applyShadows_eq_foldl]
  induction dueShadows s sc generalizing s with
  | nil => rfl
  | cons h l ih => exact (ih _).trans (applyShadow_shp ..)

theorem foldl_applyShadow_eclipse (sc : Nat) {l : List Shadow} (hl : ∀ h ∈ l, h.fld ≠ .grdJoba_layout) :
    (l.foldl (applyShadow sc) s).time.eclipse = s.time.eclipse := by
  induction l generalizing s with
  | nil => rfl
  | cons h l ih =>
    obtain ⟨hh, hl⟩ := List.forall_mem_cons.1 hl
    refine (ih _ hl).trans ?_
    rw [applyShadow_of_ne_layout s sc hh, takeShadow_eclipse]

theorem applyShadows_eclipse {sc : Nat} (hl : ∀ h ∈ s.time.shadows, h.scope = sc → h.fld ≠ .grdJoba_layout) :
    (applyShadows s sc).time.eclipse = s.time.eclipse := by
  rw [applyShadows_eq_foldl]
  refine foldl_applyShadow_eclipse s sc fun h hh => ?_
  obtain ⟨hmem, hdue⟩ := (mem_dueShadows s).1 hh
  exact hl h hmem (eq_of_beq (Bool.and_eq_true_iff.1 hdue).1)

/-! ### The image of a scope -/

theorem imageAtEpoch_of_find {sc : Nat} {p : PendImg} (hp : s.shp.pend.find? (fun p => p.scope == sc && !p.held) = some p) :
    imageAtEpoch s sc =
      if scopeQuiescent s sc then applyImage s p else put (eclipseQuiet s sc) .shpStat_not_quiescent 1 := by
  rw [imageAtEpoch, hp]

theorem imageAtEpoch_of_held {sc : Nat} (h : ∀ p ∈ s.shp.pend, p.scope = sc → p.held = true) : imageAtEpoch s sc = s := by
  have hnone : s.shp.pend.find? (fun p => p.scope == sc && !p.held) = none := by
    refine List.find?_eq_none.2 fun p hp => ?_
    by_cases hsc : p.scope = sc
    · simp [h p hp hsc]
    · simp [hsc]
  rw [imageAtEpoch, hnone]

theorem imageAtEpoch_named (sc : Nat) : (imageAtEpoch s sc).time.named = s.time.named := by
  unfold imageAtEpoch
  split
  · rfl
  · split
    · rw [applyImage_time]
    · rfl

/-! ### The apply of a scope -/

/-- A scope whose apply begins: no epoch is named for it any more, and it is out of eclipse. -/
def applyStart (sc : Nat) : State :=
  let s1 := clearArm (setNamed s sc none) sc
  { s1 with time := { s1.time with eclipse := s1.time.eclipse.filter (fun x => x != sc), missed := missedNow s1 } }

theorem applyScope_eq (sc : Nat) : applyScope s sc =
    clearHeld (if sc = modScope then retuneDies (imageAtEpoch (applyShadows (applyStart s sc) sc) sc)
      else commitAtEpoch (imageAtEpoch (applyShadows (applyStart s sc) sc) sc) sc) sc := rfl

theorem applyStart_named (sc : Nat) : (applyStart s sc).time.named = (setNamed s sc none).time.named := by
  rw [← clearArm_time (setNamed s sc none) sc]
  rfl

theorem applyStart_shadows (sc : Nat) : (applyStart s sc).time.shadows = s.time.shadows := by
  rw [← setNamed_shadows s sc none, ← clearArm_time (setNamed s sc none) sc]
  rfl

theorem applyStart_shp (sc : Nat) : (applyStart s sc).shp = s.shp := clearArm_shp (setNamed s sc none) sc

theorem not_mem_applyStart_eclipse (sc : Nat) : sc ∉ (applyStart s sc).time.eclipse := by
  simp [applyStart]

theorem applyEnd_time (sc : Nat) : (if sc = modScope then retuneDies s else commitAtEpoch s sc).time = s.time := by
  split
  · exact retuneDies_time s
  · exact commitAtEpoch_time s sc

theorem clearHeld_named (sc : Nat) : (clearHeld s sc).time.named = s.time.named := rfl

theorem clearHeld_eclipse (sc : Nat) : (clearHeld s sc).time.eclipse = s.time.eclipse := rfl

theorem applyScope_named (sc : Nat) : (applyScope s sc).time.named = (setNamed s sc none).time.named := by
  rw [applyScope_eq, clearHeld_named, applyEnd_time, imageAtEpoch_named, applyShadows_named, applyStart_named]

theorem not_mem_applyScope_eclipse {sc : Nat} (hpend : ∀ p ∈ s.shp.pend, p.scope = sc → p.held = true)
    (hshadow : ∀ h ∈ s.time.shadows, h.scope = sc → h.fld ≠ .grdJoba_layout) : sc ∉ (applyScope s sc).time.eclipse := by
  rw [applyScope_eq, clearHeld_eclipse, applyEnd_time, imageAtEpoch_of_held, applyShadows_eclipse]
  · exact not_mem_applyStart_eclipse s sc
  · rwa [applyStart_shadows]
  · rwa [applyShadows_shp, applyStart_shp]

/-! ### A scope at its epoch -/

variable {s} {sc : Nat} {n : NamedEpoch}

theorem scopeAtEpoch_of_none (h : namedOf s sc = none) : scopeAtEpoch s sc = s := by
  rw [scopeAtEpoch, h]

theorem scopeAtEpoch_of_late (h : namedOf s sc = some n) (hlate : n.late = true) :
    scopeAtEpoch s sc = beginEclipse (setNamed s sc none) sc n.epoch := by
  rw [scopeAtEpoch, h]
  exact if_pos hlate

theorem scopeAtEpoch_of_onTime (h : namedOf s sc = some n) (hlate : n.late = false) : scopeAtEpoch s sc = applyScope s sc := by
  rw [scopeAtEpoch, h]
  exact if_neg (Bool.eq_false_iff.1 hlate)

theorem lateScope_eclipses (h : namedOf s sc = some n) (hlate : n.late = true) :
    let t := scopeAtEpoch s sc
    namedOf t sc = none ∧ sc ∈ t.time.eclipse ∧ get t .tideEclipse_active 0 = 1 ∧ t.time.shadows = s.time.shadows ∧ t.shp = s.shp ∧
      (∀ x, x ≠ sc → namedOf t x = namedOf s x) ∧ KeptRegs s t (.tideEclipse_active :: .tideApply_arm :: eventFlds) ∧
      KeptMem s t := by
  rw [scopeAtEpoch_of_late h hlate]
  refine ⟨?_, mem_beginEclipse_eclipse .., get_beginEclipse_active .., ?_, beginEclipse_shp .., fun x hx => ?_,
    keptRegs_beginEclipse (setNamed s sc none) sc n.epoch, keptMem_of_mem_eq (beginEclipse_mem ..)⟩
  · rw [namedOf_beginEclipse, namedOf_setNamed_same]
  · rw [beginEclipse_time, setNamed_shadows]
  · rw [namedOf_beginEclipse, namedOf_setNamed_ne _ hx]

theorem timelyScope_applies (h : namedOf s sc = some n) (hlate : n.late = false) :
    let t := scopeAtEpoch s sc
    namedOf t sc = none ∧ (∀ x, x ≠ sc → namedOf t x = namedOf s x) ∧ (∀ h ∈ t.time.shadows, h.scope = sc → h.held = false) ∧
      ((∀ p ∈ s.shp.pend, p.scope = sc → p.held = true) → (∀ h ∈ s.time.shadows, h.scope = sc → h.fld ≠ .grdJoba_layout) →
        sc ∉ t.time.eclipse) := by
  rw [scopeAtEpoch_of_onTime h hlate]
  have hnamed (x : Nat) : namedOf (applyScope s sc) x = namedOf (setNamed s sc none) x := by
    rw [namedOf, applyScope_named, namedOf]
  refine ⟨(hnamed sc).trans (namedOf_setNamed_same ..), fun x hx => (hnamed x).trans (namedOf_setNamed_ne _ hx _), ?_,
    not_mem_applyScope_eclipse s⟩
  rw [applyScope_eq]
  exact fun _ hh => held_of_mem_clearHeld _ hh

end Sys2Proof.Machine
end

section
/-!
An image at its epoch (R89 to R93): the functions of its mask take its structure, the image is pending no more, and digest registers
show what was measured.
-/
namespace Sys2Proof.Machine

/-! ### Digests -/

theorem leNat_lt (b : Bytes) : leNat b < 256 ^ b.length := by
  induction b with
  | nil => exact Nat.one_pos
  | cons x b ih =>
    have hx : x.toNat < 256 := x.isLt
    have hcons : leNat (x :: b) = leNat b * 256 + x.toNat := rfl
    rw [hcons, List.length_cons, Nat.pow_succ]
    omega

theorem shaBlock_length_le (h : List W32) (b : Bytes) : (shaBlock h b).length ≤ h.length := by
  unfold shaBlock
  dsimp only
  rw [List.length_zipWith]
  exact Nat.min_le_left ..

theorem shaBlocks_length_le (k : Nat) (h : List W32) (b : Bytes) : (shaBlocks k h b).length ≤ h.length := by
  induction k generalizing h b with
  | zero => exact Nat.le_refl _
  | succ k ih => exact (ih ..).trans (shaBlock_length_le ..)

theorem toBe_length (n v : Nat) : (toBe n v).length = n := by
  rw [toBe, List.length_map, List.length_range]

theorem flatMap_toBe_length (l : List W32) : (l.flatMap (fun x => toBe 4 x.toNat)).length = 4 * l.length := by
  induction l with
  | nil => rfl
  | cons x l ih =>
    rw [List.flatMap_cons, List.length_append, toBe_length, ih, List.length_cons]
    omega

theorem sha256_length_le (m : Bytes) : (sha256 m).length ≤ 32 := by
  have h : (shaBlocks ((shaPad m).length / 64) shaInit (shaPad m)).length ≤ 8 := shaBlocks_length_le ..
  unfold sha256
  dsimp only
  rw [flatMap_toBe_length]
  omega

theorem digestNum_sha256_lt (m : Bytes) : digestNum (sha256 m) < 2 ^ 256 :=
  calc leNat (sha256 m) < 256 ^ (sha256 m).length := leNat_lt _
    _ ≤ 256 ^ 32 := Nat.pow_le_pow_right (by decide) (sha256_length_le m)
    _ = 2 ^ 256 := by decide

theorem digestOf_lt (m : BitVec 256) : digestOf m < 2 ^ 256 := digestNum_sha256_lt _

theorem chainOf_lt (d : Nat) (m : BitVec 256) : chainOf d m < 2 ^ 256 := digestNum_sha256_lt _

/-- Four words of a number below 2^256 give it back. -/
theorem words_of_digest {d : Nat} (hd : d < 2 ^ 256) : bitsOf d 63 0 + 2 ^ 64 * bitsOf d 127 64 + 2 ^ 128 * bitsOf d 191 128 +
    2 ^ 192 * bitsOf d 255 192 = d := by
  simp only [bitsOf]
  omega

section
variable {s t : State} {l : List Fld}

theorem getDigest_of_keptRegs (hk : KeptRegs s t l) {f : Fld} (hf : f ∉ l) : getDigest t f = getDigest s f := by
  simp only [getDigest, hk f _ hf]

theorem keptRegs_putDigest (hk : KeptRegs s t l) {f : Fld} (hf : f ∈ l) (d : Nat) : KeptRegs s (putDigest t f d) l :=
  keptRegs_put (keptRegs_put (keptRegs_put (keptRegs_put hk hf _ _) hf _ _) hf _ _) hf _ _

theorem get_put_idx (s : State) (f : Fld) (v : Nat) {i j : Nat} (h : j ≠ i) : get (put s f v i) f j = get s f j :=
  get_put_ne s (fun e => h e.2)

theorem getDigest_putDigest (s : State) {f : Fld} (hf : f.width = 64) {d : Nat} (hd : d < 2 ^ 256) :
    getDigest (putDigest s f d) f = d := by
  have hcut (hi lo : Nat) (h : hi + 1 - lo = 64) : bitsOf d hi lo % 2 ^ 64 = bitsOf d hi lo := by
    rw [bitsOf, h, Nat.mod_mod]
  have h3 : get (putDigest s f d) f 3 = bitsOf d 255 192 := by
    rw [putDigest, get_put_same, hf, hcut 255 192 rfl]
  have h2 : get (putDigest s f d) f 2 = bitsOf d 191 128 := by
    rw [putDigest, get_put_idx _ _ _ (by decide), get_put_same, hf, hcut 191 128 rfl]
  have h1 : get (putDigest s f d) f 1 = bitsOf d 127 64 := by
    rw [putDigest, get_put_idx _ _ _ (by decide), get_put_idx _ _ _ (by decide), get_put_same, hf, hcut 127 64 rfl]
  have h0 : get (putDigest s f d) f 0 = bitsOf d 63 0 := by
    rw [putDigest, get_put_idx _ _ _ (by decide), get_put_idx _ _ _ (by decide), get_put_idx _ _ _ (by decide), get_put_same, hf,
      hcut 63 0 rfl]
  rw [getDigest, h0, h1, h2, h3, words_of_digest hd]

theorem putDigest_shp (s : State) (f : Fld) (d : Nat) : (putDigest s f d).shp = s.shp := by
  simp only [putDigest, put_shp]

end

/-! ### The structure of an image -/

section
variable (p : PendImg) (m : SMap Structure)

theorem mget_layOn_same {n : Nat} (hn : n ≠ 0) :
    mget Structure.init (layOn p m n) n = partOf n (overlay (mget Structure.init m n) p.scope p.str) := by
  simp [layOn, hn]

theorem mget_layOn_ne {n k : Nat} (hk : k ≠ n) : mget Structure.init (layOn p m n) k = mget Structure.init m k := by
  unfold layOn
  dsimp only
  split
  · next h0 =>
    subst h0
    split
    · exact mget_mset_ne _ hk
    · rfl
  · exact mget_mset_ne _ hk

theorem mget_foldl_layOn_of_not_mem {l : List Nat} {k : Nat} (hk : k ∉ l) :
    mget Structure.init (l.foldl (layOn p) m) k = mget Structure.init m k := by
  induction l generalizing m with
  | nil => rfl
  | cons n l ih =>
    obtain ⟨hn, hl⟩ := List.ne_and_not_mem_of_not_mem_cons hk
    exact (ih _ hl).trans (mget_layOn_ne p m hn)

theorem mget_foldl_layOn {l : List Nat} (hl : l.Nodup) {n : Nat} (hn : n ∈ l) (h0 : n ≠ 0) :
    mget Structure.init (l.foldl (layOn p) m) n = partOf n (overlay (mget Structure.init m n) p.scope p.str) := by
  induction l generalizing m with
  | nil => cases hn
  | cons a l ih =>
    obtain ⟨ha, hl⟩ := List.nodup_cons.1 hl
    rcases List.mem_cons.1 hn with rfl | hn
    · exact (mget_foldl_layOn_of_not_mem p _ ha).trans (mget_layOn_same p m h0)
    · have hne : n ≠ a := fun e => ha (e ▸ hn)
      rw [List.foldl_cons, ih _ hl hn, mget_layOn_ne p m hne]

theorem takers_nodup (s : State) : (takers s p).Nodup := List.Nodup.filter _ List.nodup_range

theorem mem_takers (s : State) {n : Nat} : n ∈ takers s p ↔ n < 9 ∧ p.mask.getLsbD n = true ∧ inReset s n = false := by
  simp [takers]

end

/-! ### What an apply does to the structure of the jobs -/

variable (s : State)

/-- The fields of the job slots' counters, and of what awaits its epoch. -/
def jobFlds : List Fld :=
  [.coreIdleP_clk, .coreIdleF_clk, .coreIdlePj_job, .coreIdlePj_valid, .coreIdleFj_job, .coreIdleFj_valid, .shpStat_pending,
    .shpStat_jobs]

theorem idleFld_mem (sl : Slot) : idleFld sl ∈ jobFlds := by cases sl <;> decide

theorem idleJobFld_mem (sl : Slot) : idleJobFld sl ∈ jobFlds := by cases sl <;> decide

theorem idleValidFld_mem (sl : Slot) : idleValidFld sl ∈ jobFlds := by cases sl <;> decide

/-- The shape structure is as it was, and so are all register fields but `jobFlds`. -/
def ShapeKept (s t : State) : Prop := t.shp = s.shp ∧ KeptRegs s t jobFlds

theorem shapeKept_refl : ShapeKept s s := ⟨rfl, fun _ _ _ => rfl⟩

theorem shapeKept_trans {s t u : State} (hst : ShapeKept s t) (htu : ShapeKept t u) : ShapeKept s u :=
  ⟨htu.1.trans hst.1, keptRegs_trans hst.2 htu.2⟩

theorem shapeKept_put {f : Fld} (hf : f ∈ jobFlds) (v i : Nat) : ShapeKept s (put s f v i) :=
  ⟨rfl, keptRegs_put (fun _ _ _ => rfl) hf v i⟩

theorem shapeKept_setCore (c : Nat) (k : CoreSt) : ShapeKept s (setCore s c k) := ⟨rfl, fun _ _ _ => rfl⟩

theorem shapeKept_each {α : Type} {f : State → α → State} (hf : ∀ s x, ShapeKept s (f s x)) (l : List α) :
    ShapeKept s (each l f s) := by
  unfold each
  induction l generalizing s with
  | nil => exact shapeKept_refl s
  | cons x l ih => exact shapeKept_trans (hf s x) (ih _)

theorem shapeKept_newJob (c : Nat) (sl : Slot) : ShapeKept s (newJob s c sl) :=
  shapeKept_trans (shapeKept_each s (fun s _ => shapeKept_put s (idleFld_mem sl) _ _) _)
    (shapeKept_trans (shapeKept_put _ (idleJobFld_mem sl) _ _)
      (shapeKept_trans (shapeKept_put _ (idleValidFld_mem sl) _ _) (shapeKept_setCore _ _ _)))

theorem shapeKept_changeJobs (old : State) : ShapeKept s (changeJobs old s) := by
  unfold changeJobs
  generalize allCores = cores
  refine shapeKept_each s (fun s c => shapeKept_each s (fun s sl => ?_) _) _
  split
  · exact shapeKept_newJob ..
  · split
    · exact shapeKept_setCore ..
    · exact shapeKept_refl s

end Sys2Proof.Machine
end

section
/-!
An image whose jobs are quiescent applies, another waits in eclipse (R89 to R93); and O39.
-/
namespace Sys2Proof.Machine

variable {s t u : State} {p : PendImg}

/-! ### The structure as laid -/

/-- The functions' structures and the scopes of what is pending are as they were; an image is active if one was. -/
def SameShape (s t : State) : Prop :=
  t.shp.act = s.shp.act ∧ t.shp.anyActive = s.shp.anyActive ∧ t.shp.pend.map (·.scope) = s.shp.pend.map (·.scope)

theorem sameShape_of_shp_eq (h : t.shp = s.shp) : SameShape s t := by
  rw [SameShape, h]
  exact ⟨rfl, rfl, rfl⟩

theorem sameShape_trans (hst : SameShape s t) (htu : SameShape t u) : SameShape s u := by
  obtain ⟨hact, hany, hpend⟩ := hst
  obtain ⟨hact', hany', hpend'⟩ := htu
  exact ⟨hact'.trans hact, hany'.trans hany, hpend'.trans hpend⟩

theorem closeRestore_shp (s : State) : (closeRestore s).shp =
    { s.shp with restore := none, pend := s.shp.pend.map (fun p => { p with restore := false }) } := rfl

theorem sameShape_closeRestore (s : State) : SameShape s (closeRestore s) := by
  rw [SameShape, closeRestore_shp]
  exact ⟨rfl, rfl, List.map_map⟩

theorem clearStale_shp (s : State) (m : Nat) : (clearStale s m).shp = s.shp := put_shp ..

theorem sameShape_endRestore (s : State) (m : Nat) : SameShape s (endRestore s m) := by
  unfold endRestore
  split
  · exact sameShape_trans (sameShape_of_shp_eq (clearStale_shp s m)) (sameShape_closeRestore _)
  · exact sameShape_of_shp_eq rfl

theorem sameShape_measureFull (s : State) (p : PendImg) (m : Nat) : SameShape s (measureFull s p m) := by
  unfold measureFull
  split
  · refine sameShape_trans (sameShape_of_shp_eq ?_) (sameShape_closeRestore _)
    rw [clearStale_shp, putDigest_shp, putDigest_shp]
  · exact sameShape_of_shp_eq (putDigest_shp ..)

theorem sameShape_measureNarrow (s : State) (p : PendImg) (m : Nat) : SameShape s (measureNarrow s p m) := by
  unfold measureNarrow
  split
  · refine sameShape_trans ?_ (sameShape_endRestore _ m)
    rw [SameShape, putDigest_shp, put_shp]
    exact ⟨rfl, rfl, rfl⟩
  · split
    · exact sameShape_trans (sameShape_of_shp_eq (putDigest_shp ..)) (sameShape_endRestore _ m)
    · exact sameShape_of_shp_eq rfl

/-- The structure with an image laid in, before the job slots follow. -/
def laidShape (s : State) (p : PendImg) : ShapeSt :=
  let act := (takers s p).foldl (layOn p) s.shp.act
  { s.shp with
    act := act
    jobs := if p.full then jobsOf (mget Structure.init act 0) else s.shp.jobs
    anyActive := true
    pend := s.shp.pend.filter (fun q => q.scope != p.scope) }

theorem layImage_eq (s : State) (p : PendImg) : layImage s p =
    changeJobs s (put (showPending { s with shp := laidShape s p }) .shpStat_jobs (laidShape s p).jobs.length) := rfl

theorem layImage_shp (s : State) (p : PendImg) : (layImage s p).shp = laidShape s p := by
  rw [layImage_eq, (shapeKept_changeJobs _ s).1]
  rfl

theorem keptRegs_layImage (s : State) (p : PendImg) : KeptRegs s (layImage s p) jobFlds := by
  have hlaid : KeptRegs s { s with shp := laidShape s p } jobFlds := keptRegs_of_regs_eq rfl rfl _
  have hpending : KeptRegs s (showPending { s with shp := laidShape s p }) jobFlds :=
    keptRegs_put hlaid (f := .shpStat_pending) (by decide) _ _
  rw [layImage_eq]
  exact keptRegs_trans (keptRegs_put hpending (f := .shpStat_jobs) (by decide) _ _) (shapeKept_changeJobs _ s).2

theorem sameShape_applyImage (s : State) (p : PendImg) : SameShape (layImage s p) (applyImage s p) := by
  unfold applyImage
  dsimp only
  split
  · exact sameShape_measureFull ..
  · exact sameShape_measureNarrow ..

theorem applyImage_pend (s : State) (p : PendImg) : ∀ q ∈ (applyImage s p).shp.pend, q.scope ≠ p.scope := by
  obtain ⟨-, -, hpend⟩ := sameShape_applyImage s p
  rw [layImage_shp] at hpend
  intro q hq hsc
  have hmem : q.scope ∈ (laidShape s p).pend.map (·.scope) := hpend ▸ List.mem_map_of_mem hq
  obtain ⟨q', hq', hscope⟩ := List.mem_map.1 hmem
  have hne := (List.mem_filter.1 hq').2
  rw [hscope, hsc] at hne
  simp at hne

theorem applyImage_anyActive (s : State) (p : PendImg) : (applyImage s p).shp.anyActive = true := by
  obtain ⟨-, hany, -⟩ := sameShape_applyImage s p
  rw [hany, layImage_shp]
  rfl

theorem applyImage_act {n : Nat} (h9 : n < 9) (h0 : n ≠ 0) (hmask : p.mask.getLsbD n = true) (hreset : inReset s n = false) :
    mget Structure.init (applyImage s p).shp.act n = partOf n (overlay (mget Structure.init s.shp.act n) p.scope p.str) := by
  obtain ⟨hact, -, -⟩ := sameShape_applyImage s p
  rw [hact, layImage_shp]
  exact mget_foldl_layOn p _ (takers_nodup p s) ((mem_takers p s).2 ⟨h9, hmask, hreset⟩) h0

/-! ### Measurements (R90) -/

theorem applyImage_of_full (s : State) (hfull : p.full = true) :
    applyImage s p = measureFull (layImage s p) p (takerMask s p) := if_pos hfull

theorem keptRegs_closeRestore_clearStale (s : State) (m : Nat) :
    KeptRegs s (closeRestore (clearStale s m)) [.shpStat_stale_fn, .shpStat_restore_open] := by
  have hstale : KeptRegs s (clearStale s m) [.shpStat_stale_fn, .shpStat_restore_open] :=
    keptRegs_put (fun _ _ _ => rfl) (by decide) _ _
  refine keptRegs_trans (keptRegs_put hstale (f := .shpStat_restore_open) (by decide) 0 0) (keptRegs_of_regs_eq rfl rfl _)

theorem measureFull_of_mod (s : State) (m : Nat) (hsc : p.scope = modScope) : measureFull s p m =
    closeRestore (clearStale (putDigest (putDigest s .shpAmeas_digest p.meas.toNat) .shpChain_digest (digestOf p.meas)) m) :=
  if_pos hsc

theorem measureFull_of_job (s : State) (m : Nat) (hsc : p.scope ≠ modScope) : measureFull s p m =
    putDigest s .shpChain_digest (chainOf (getDigest s .shpChain_digest) p.meas) := if_neg hsc

theorem applyImage_measured_mod (s : State) (hfull : p.full = true) (hsc : p.scope = modScope) :
    getDigest (applyImage s p) .shpAmeas_digest = p.meas.toNat ∧ getDigest (applyImage s p) .shpChain_digest = digestOf p.meas := by
  have hk := keptRegs_closeRestore_clearStale (putDigest (putDigest (layImage s p) .shpAmeas_digest p.meas.toNat) .shpChain_digest
    (digestOf p.meas)) (takerMask s p)
  rw [applyImage_of_full s hfull, measureFull_of_mod _ _ hsc, getDigest_of_keptRegs hk (by decide),
    getDigest_of_keptRegs hk (by decide)]
  constructor
  · rw [getDigest_of_keptRegs (keptRegs_putDigest (l := [.shpChain_digest]) (fun _ _ _ => rfl) (by decide) _) (by decide),
      getDigest_putDigest _ rfl p.meas.isLt]
  · exact getDigest_putDigest _ rfl (digestOf_lt _)

theorem applyImage_measured_job (s : State) (hfull : p.full = true) (hsc : p.scope ≠ modScope) :
    getDigest (applyImage s p) .shpChain_digest = chainOf (getDigest s .shpChain_digest) p.meas := by
  rw [applyImage_of_full s hfull, measureFull_of_job _ _ hsc, getDigest_putDigest _ rfl (chainOf_lt ..),
    getDigest_of_keptRegs (keptRegs_layImage s p) (by decide)]

/-! ### An image that must wait (R89) -/

theorem onlyRegs_waits (s : State) (sc : Nat) :
    OnlyRegs s { put (eclipseQuiet s sc) .shpStat_not_quiescent 1 with time := s.time } [.shpStat_not_quiescent] :=
  ⟨rfl, fun _ j hg => get_put_fld (eclipseQuiet s sc) 1 0 j (List.ne_of_not_mem_cons hg)⟩

theorem get_waits (s : State) (sc : Nat) :
    get (put (eclipseQuiet s sc) .shpStat_not_quiescent 1) .shpStat_not_quiescent 0 = 1 := by
  rw [get_put_same]
  rfl

/-! ### The image of a scope at its epoch -/

theorem imageAtEpoch_applies {sc : Nat} (hp : s.shp.pend.find? (fun p => p.scope == sc && !p.held) = some p)
    (hq : scopeQuiescent s sc = true) :
    let t := imageAtEpoch s sc
    (∀ q ∈ t.shp.pend, q.scope ≠ sc) ∧ t.shp.anyActive = true ∧
      (∀ n < 9, n ≠ 0 → p.mask.getLsbD n = true → inReset s n = false →
        mget Structure.init t.shp.act n = partOf n (overlay (mget Structure.init s.shp.act n) sc p.str)) ∧
      (p.full = true → sc = modScope → getDigest t .shpAmeas_digest = p.meas.toNat ∧
        getDigest t .shpChain_digest = digestOf p.meas) ∧
      (p.full = true → sc ≠ modScope → getDigest t .shpChain_digest = chainOf (getDigest s .shpChain_digest) p.meas) := by
  have hdue := List.find?_some hp
  obtain rfl : p.scope = sc := eq_of_beq (Bool.and_eq_true_iff.1 hdue).1
  rw [imageAtEpoch_of_find s hp, if_pos hq]
  exact ⟨applyImage_pend s p, applyImage_anyActive s p, fun n h9 h0 hmask hreset => applyImage_act h9 h0 hmask hreset,
    applyImage_measured_mod s, applyImage_measured_job s⟩

theorem imageAtEpoch_waits {sc : Nat} (hp : s.shp.pend.find? (fun p => p.scope == sc && !p.held) = some p)
    (hq : scopeQuiescent s sc = false) :
    let t := imageAtEpoch s sc
    t.time.eclipse = (sc :: s.time.eclipse).eraseDups ∧ get t .shpStat_not_quiescent 0 = 1 ∧
      OnlyRegs s { t with time := s.time } [.shpStat_not_quiescent] := by
  rw [imageAtEpoch_of_find s hp, if_neg (Bool.eq_false_iff.1 hq)]
  exact ⟨rfl, get_waits s sc, onlyRegs_waits s sc⟩

end Sys2Proof.Machine

namespace Sys2Proof.Machine

/-- Settles O39: a write of `TIDE_APPLY` by where its epoch lies (in time, inside the guard, passed, or a cancel), a scope at its epoch
by what is named for it, and an image by whether its jobs are quiescent. -/
theorem epochsAreNamed : Obligations.EpochsAreNamed := by
  unfold Obligations.EpochsAreNamed
  refine ⟨fun s epoch job m hup => ⟨fun h => ?_, fun hguard h => ?_, fun h => ?_, ?_⟩,
    fun s sc => ⟨scopeAtEpoch_of_none, fun n => lateScope_eclipses, fun n => timelyScope_applies⟩,
    fun s sc p hp => ⟨imageAtEpoch_applies hp, imageAtEpoch_waits hp⟩⟩
  · obtain ⟨⟨hepoch, hjob, hscope, harm⟩, hheld⟩ := written_namedInTime s epoch job m true (some ⟨epoch.toNat, false⟩)
    exact ⟨_, exec_tideApplyArm_of_onTime s epoch job m hup h, ⟨hepoch, hjob, hscope, harm, hheld⟩, namedOf_setNamed_same ..,
      fun x hx => namedOf_namedInTime_ne s epoch job m true _ hx, keptRegs_namedInTime s epoch job m true _, keptMem_of_mem_eq rfl⟩
  · obtain ⟨⟨hepoch, hjob, hscope, harm⟩, hheld⟩ := written_namedLate s epoch job m (some ⟨epoch.toNat, true⟩)
    exact ⟨_, exec_tideApplyArm_of_late s epoch job m hup hguard h, ⟨hepoch, hjob, hscope, harm, hheld⟩, namedOf_setNamed_same ..,
      lateShown_namedLate s epoch job m _⟩
  · obtain ⟨⟨hepoch, hjob, hscope, harm⟩, hheld⟩ := written_beginEclipse (written_namedLate s epoch job m none)
    obtain ⟨hcount, hmissed, hmem⟩ := lateShown_beginEclipse (lateShown_namedLate s epoch job m none) (scopeId job.toNat m)
    exact ⟨_, exec_tideApplyArm_of_passed s epoch job m hup h, ⟨hepoch, hjob, hscope, harm, hheld⟩,
      (namedOf_beginEclipse ..).trans (namedOf_setNamed_same ..), mem_beginEclipse_eclipse .., hcount, hmissed,
      get_beginEclipse_active .., hmem⟩
  · obtain ⟨⟨hepoch, hjob, hscope, harm⟩, hheld⟩ := written_namedInTime s epoch job m false none
    exact ⟨_, exec_tideApplyCancel_of_up s epoch job m hup, ⟨hepoch, hjob, hscope, harm, hheld⟩, namedOf_setNamed_same ..,
      fun x hx => namedOf_namedInTime_ne s epoch job m false _ hx, keptMem_of_mem_eq rfl, keptRegs_namedInTime s epoch job m false _⟩

end Sys2Proof.Machine
end

section
/-!
Answers (R65 to R67): what the answer of a command that stands at the front of its port leaves, and what a command that starts now
comes to.
-/
namespace Sys2Proof.Machine

/-! ### A response leaves and is counted (R66) -/

/-- The counter of `CTL_CMD_CNT` that counts a response by its status. -/
def statusFld (status : Nat) : Fld := if status ≤ 1 then .ctlCmdCnt_executed else .ctlCmdCnt_refused

theorem sendResp_of_accepted (s : State) {r : Resp} (hr : r.status ≤ 1) :
    sendResp s r = bumpW (emit s (.resp r)) .ctlCmdCnt_executed := if_pos hr

theorem sendResp_of_refused (s : State) {r : Resp} (hr : 1 < r.status) :
    sendResp s r = bump (emit s (.resp r)) .ctlCmdCnt_refused := if_neg (Nat.not_le.mpr hr)

theorem regsOnly_sendResp (s : State) (r : Resp) : RegsOnly (emit s (.resp r)) (sendResp s r) := by
  unfold sendResp
  dsimp only
  split <;> exact regsOnly_put regsOnly_refl ..

theorem sendResp_cps (s : State) (r : Resp) : (sendResp s r).ctl.cps = s.ctl.cps := by
  obtain ⟨x, hx⟩ := regsOnly_sendResp s r
  rw [hx]
  rfl

theorem keptRegs_sendResp (s : State) (r : Resp) : KeptRegs s (sendResp s r) [statusFld r.status] := by
  have hemit (l : List Fld) : KeptRegs s (emit s (.resp r)) l := keptRegs_of_regs_eq rfl rfl l
  by_cases hr : r.status ≤ 1
  · rw [sendResp_of_accepted s hr, statusFld, if_pos hr]
    exact keptRegs_put (hemit _) (List.mem_singleton_self _) _ _
  · rw [sendResp_of_refused s (Nat.not_le.mp hr), statusFld, if_neg hr]
    exact keptRegs_bump (hemit _) (List.mem_singleton_self _) _ _

/-- The response of a command by its header (R62). -/
def respTo (h : CtlHdr) (op status code : Nat) (words : List Word) : Resp :=
  ⟨h.port, h.src, h.seq, op, h.job, status, code, words⟩

/-- A command that no port holds is refused: its response leaves and is counted, and that is all. -/
theorem refuse_leaves (s : State) (h : CtlHdr) (op : Nat) {status : Nat} (hst : 1 < status) :
    let t := refuse s h op status
    t.out = s.out ++ [.resp ⟨h.port, h.src, h.seq, op, h.job, status, 0, []⟩] ∧ Counted s t .ctlCmdCnt_refused 0 1 ∧
      { t with regs := s.regs, out := s.out } = s ∧ KeptRegs s t [.ctlCmdCnt_refused] := by
  have heq : refuse s h op status = bump (emit s (.resp (respTo h op status 0 []))) .ctlCmdCnt_refused :=
    sendResp_of_refused s (r := respTo h op status 0 []) hst
  rw [heq]
  exact ⟨rfl, counted_bump (emit s _) _ _ _, rfl, keptRegs_bump (keptRegs_of_regs_eq rfl rfl _) (List.mem_singleton_self _) _ _⟩

/-! ### A command at the front of its port -/

section Front
variable {s u : State} {h : CtlHdr} {i : Instr}

theorem cpOf_atFront_same : cpOf (atFront s h i) h.port =
    { cpOf s h.port with hist := (cpOf s h.port).hist ++ [⟨h.seq, none, []⟩], busy := some i, held := false } := by
  simp [atFront]

theorem cpOf_atFront_ne {p : Cp} (hp : p ≠ h.port) : cpOf (atFront s h i) p = cpOf s p := by
  rw [atFront, cpOf_setCp_ne _ _ hp, cpOf_setCp_ne _ _ hp]

theorem queue_atFront (p : Cp) : (cpOf (atFront s h i) p).queue = (cpOf s p).queue :=
  (queue_setCp (joinHistory s h) _ (by rfl) p).trans (queue_joinHistory p)

theorem cpOf_congr (hcps : u.ctl.cps = s.ctl.cps) (p : Cp) : cpOf u p = cpOf s p := by
  rw [cpOf, cpOf, hcps]

/-- The port of a command at its front once that is answered. -/
def answeredPort (s : State) (h : CtlHdr) (i : Instr) (r : Resp) : CpSt :=
  { cpOf (atFront s h i) h.port with hist := histAnswer (cpOf (atFront s h i) h.port) r, busy := none }

/-- A new command has no repeats that wait, so one response leaves; and since it holds its port, that is free then. What the command
has done before, to state other than the ports, stays. -/
theorem answer_of_front (hhdr : hdrOf i = some h) (hfresh : (cpOf s h.port).hist.all (fun x => x.seq != h.seq) = true)
    (hcps : u.ctl.cps = (atFront s h i).ctl.cps) (op status code : Nat) (words : List Word) :
    answer u h op status code words =
      setCp (sendResp u (respTo h op status code words)) h.port (answeredPort s h i (respTo h op status code words)) := by
  have hrep : repeatsOf (cpOf (atFront s h i) h.port).hist h.seq = [] := by
    rw [cpOf_atFront_same]
    exact repeatsOf_append_new hfresh
  have hbusy : (cpOf (atFront s h i) h.port).busy = some i := by rw [cpOf_atFront_same]
  simp [answer, cpOf_congr hcps, hrep, hbusy, hhdr, each, answeredPort, respTo]

/-- Being answered fills no queue. -/
theorem queue_answer_of_front (hhdr : hdrOf i = some h) (hfresh : (cpOf s h.port).hist.all (fun x => x.seq != h.seq) = true)
    (hcps : u.ctl.cps = (atFront s h i).ctl.cps) (op status code : Nat) (words : List Word) (p : Cp) :
    (cpOf (answer u h op status code words) p).queue = (cpOf s p).queue := by
  have hsent (q : Cp) : cpOf (sendResp u (respTo h op status code words)) q = cpOf (atFront s h i) q :=
    cpOf_congr ((sendResp_cps u _).trans hcps) q
  rw [answer_of_front hhdr hfresh hcps, queue_setCp _ _ (by rw [hsent]; rfl), hsent, queue_atFront]

/-- An accepted command stays in the history with its response (R67). -/
theorem histAnswer_atFront_of_accepted {r : Resp} (hfresh : (cpOf s h.port).hist.all (fun x => x.seq != h.seq) = true)
    (hseq : r.seq = h.seq) (hr : r.status ≤ 1) : histAnswer (cpOf (atFront s h i) h.port) r =
      keepLast (undecided (cpOf (atFront s h i) h.port)) ((cpOf s h.port).hist ++ [⟨h.seq, some r, []⟩]) := by
  have hold : (cpOf s h.port).hist.map
      (fun x => if x.seq = r.seq ∧ x.resp = none then { x with resp := some r, repeats := [] } else x) = (cpOf s h.port).hist := by
    refine (List.map_congr_left fun x hx => ?_).trans (List.map_id _)
    exact if_neg fun e => bne_iff_ne.mp (List.all_eq_true.mp hfresh x hx) (e.1.trans hseq)
  rw [histAnswer, if_pos hr]
  congr 1
  rw [cpOf_atFront_same, List.map_append, hold]
  simp [hseq]

/-- A refused command leaves the history as it was (R67). -/
theorem histAnswer_atFront_of_refused {r : Resp} (hfresh : (cpOf s h.port).hist.all (fun x => x.seq != h.seq) = true)
    (hseq : r.seq = h.seq) (hr : 1 < r.status) : histAnswer (cpOf (atFront s h i) h.port) r = (cpOf s h.port).hist := by
  have hold : (cpOf s h.port).hist.filter (fun x => !(decide (x.seq = r.seq) && x.resp.isNone)) = (cpOf s h.port).hist := by
    refine List.filter_eq_self.mpr fun x hx => ?_
    simp [hseq, bne_iff_ne.mp (List.all_eq_true.mp hfresh x hx)]
  rw [histAnswer, if_neg (Nat.not_le.mpr hr), cpOf_atFront_same, List.filter_append, hold]
  simp [hseq]

/-! ### A command that starts now -/

/-- What the answer of a command changes of the state `u` that the command left: what has left the module, the ports, and one
counter. -/
def Finished (u t : State) (status : Nat) : Prop :=
  { t with regs := u.regs, out := u.out, ctl := { t.ctl with cps := u.ctl.cps } } = u ∧ KeptRegs u t [statusFld status]

theorem finished_answer (hhdr : hdrOf i = some h) (hfresh : (cpOf s h.port).hist.all (fun x => x.seq != h.seq) = true)
    (hcps : u.ctl.cps = (atFront s h i).ctl.cps) (op status code : Nat) (words : List Word) :
    Answers u (answer u h op status code words) h op status code words ∧ Finished u (answer u h op status code words) status := by
  have hkept := keptRegs_sendResp u (respTo h op status code words)
  obtain ⟨x, hx⟩ := regsOnly_sendResp u (respTo h op status code words)
  rw [answer_of_front hhdr hfresh hcps]
  refine ⟨⟨?_, ?_⟩, ?_, keptRegs_trans hkept (keptRegs_of_regs_eq rfl rfl _)⟩
  · rw [hx]
    rfl
  · rw [cpOf_setCp_same]
    rfl
  · rw [hx]
    rfl

theorem keptMem_of_finished {s u t : State} {status : Nat} (hf : Finished u t status) (hmem : u.mem = s.mem) : KeptMem s t :=
  keptMem_of_mem_eq ((congrArg State.mem hf.1).trans hmem)

theorem fuses_of_finished {t : State} {status : Nat} (hf : Finished u t status) : t.fuses = u.fuses :=
  (congrArg State.fuses hf.1 :)

theorem free_of_finished {t : State} {status : Nat} (hf : Finished u t status) : t.free = u.free :=
  (congrArg State.free hf.1 :)

theorem load_of_finished {t : State} {status : Nat} (hf : Finished u t status) : t.ctl.load = u.ctl.load :=
  (congrArg (fun x => x.ctl.load) hf.1 :)

theorem nonces_of_finished {t : State} {status : Nat} (hf : Finished u t status) : t.ctl.nonces = u.ctl.nonces :=
  (congrArg (fun x => x.ctl.nonces) hf.1 :)

theorem keptRegs_of_finished {t : State} {status : Nat} {l : List Fld} (hf : Finished u t status) (hu : KeptRegs s u l)
    (hst : statusFld status ∈ l) : KeptRegs s t l :=
  keptRegs_trans hu (keptRegs_mono hf.2 (List.cons_subset.mpr ⟨hst, List.nil_subset _⟩))

theorem get_of_finished {t : State} {status : Nat} (hf : Finished u t status) {f : Fld} (hne : f ≠ statusFld status) (i : Nat) :
    get t f i = get u f i := hf.2 f i (List.not_mem_cons_of_ne_of_not_mem hne List.not_mem_nil)

theorem releaseTest_of_no_release (hrel : h.release = 0) : releaseTest s h.release.toNat = .onTime := by
  rw [hrel]
  rfl

/-- A new command without a release comes to the front of a free port, and runs there (R60, R65). -/
theorem exec_of_free (hnew : NewCommand s h i) (hbusy : (cpOf s h.port).busy = none) (hqueue : (cpOf s h.port).queue = [])
    (hrel : h.release = 0) (hmay : mayStart s h i = true) : exec i s = .next (pumpPorts (runCmd (atFront s h i) h i)) := by
  rw [exec_of_newCommand hnew hbusy hqueue (releaseTest_of_no_release hrel)]
  exact congrArg (fun t => Host.Outcome.next (pumpPorts t)) (startCmd_joinHistory_starts hmay)

theorem notAllowed_atFront : notAllowed (atFront s h i) i = notAllowed s i := rfl

theorem runCmd_atFront_of_allowed (hallowed : notAllowed s i = false) :
    runCmd (atFront s h i) h i = runBody (atFront s h i) i := by
  rw [runCmd, notAllowed_atFront, if_neg (Bool.eq_false_iff.mp hallowed)]

theorem runCmd_atFront_of_not_allowed (hnot : notAllowed s i = true) :
    runCmd (atFront s h i) h i = answer (atFront s h i) h (opOf i) 5 0 [] := by
  rw [runCmd, notAllowed_atFront, if_pos hnot]

/-- A command that starts now is carried out at the front of its port. -/
theorem exec_of_startsNow (hstart : StartsNow s h i) : exec i s = .next (pumpPorts (runBody (atFront s h i) i)) := by
  obtain ⟨hnew, hbusy, hqueues, hrel, hmay, hallowed⟩ := hstart
  rw [exec_of_free hnew hbusy (hqueues _) hrel hmay, runCmd_atFront_of_allowed hallowed]

theorem answers_congr {t : State} (hout : u.out = s.out) {op status code : Nat} {words : List Word}
    (hans : Answers u t h op status code words) : Answers s t h op status code words := by
  rwa [Answers, ← hout]

/-- A command that starts now and is answered at once, in the state `u` that it leaves, with nothing sent before. -/
theorem runs_answer (hstart : StartsNow s h i) {op status code : Nat} {words : List Word}
    (hbody : runBody (atFront s h i) i = answer u h op status code words) (hcps : u.ctl.cps = (atFront s h i).ctl.cps)
    (hout : u.out = s.out) : Runs i s (fun t => Answers s t h op status code words ∧ Finished u t status) := by
  have hexec := exec_of_startsNow hstart
  obtain ⟨⟨hhdr, -, -, hfresh⟩, -, hqueues, -⟩ := hstart
  obtain ⟨hans, hfin⟩ := finished_answer hhdr hfresh hcps op status code words
  refine ⟨_, hexec, ?_⟩
  rw [hbody, pumpPorts_of_queues_nil _ fun p => ?_]
  · exact ⟨answers_congr hout hans, hfin⟩
  · rw [queue_answer_of_front hhdr hfresh hcps, hqueues]

end Front
end Sys2Proof.Machine
end

section
/-!
What becomes of a control command that arrives (R60, R63, R65 to R67), by what its port holds and keeps; O22 and O20.
-/
namespace Sys2Proof.Machine

/-! ### The counters and the ports after an answer -/

theorem statusFld_mem (status : Nat) : statusFld status ∈ [Fld.ctlCmdCnt_executed, .ctlCmdCnt_refused] := by
  unfold statusFld
  split <;> decide

theorem get_executed_sendResp (s : State) {r : Resp} (hr : r.status ≤ 1) : get (sendResp s r) .ctlCmdCnt_executed 0 =
    (get s .ctlCmdCnt_executed 0 + 1) % 2 ^ Fld.ctlCmdCnt_executed.width := by
  rw [sendResp_of_accepted s hr, bumpW, get_put_same]
  rfl

theorem counted_refused_sendResp (s : State) {r : Resp} (hr : 1 < r.status) : Counted s (sendResp s r) .ctlCmdCnt_refused 0 1 := by
  rw [sendResp_of_refused s hr]
  exact counted_bump (emit s _) _ _ _

/-- Settles O22: `answer_of_front` says what is left, and `histAnswer_atFront_of_accepted` and `histAnswer_atFront_of_refused` what the
port keeps. -/
theorem answersLeaveAndFreeThePort : Obligations.AnswersLeaveAndFreeThePort := by
  intro s h i op status code words hfresh hhdr
  have heq := answer_of_front hhdr hfresh (u := atFront s h i) rfl op status code words
  obtain ⟨hans, hfin⟩ := finished_answer hhdr hfresh (u := atFront s h i) rfl op status code words
  refine ⟨hans, keptRegs_of_finished hfin (keptRegs_of_regs_eq rfl rfl _) (statusFld_mem status), keptMem_of_finished hfin rfl,
    fun p hp => ?_, fun hst => ?_, fun hst => ?_⟩
  · rw [heq, cpOf_setCp_ne _ _ hp, cpOf_congr (sendResp_cps _ _), cpOf_atFront_ne hp]
  · rw [heq, cpOf_setCp_same]
    exact ⟨get_executed_sendResp (atFront s h i) (r := respTo h op status code words) hst,
      histAnswer_atFront_of_accepted hfresh rfl hst⟩
  · rw [heq, cpOf_setCp_same]
    exact ⟨counted_refused_sendResp (atFront s h i) (r := respTo h op status code words) hst,
      histAnswer_atFront_of_refused hfresh rfl hst⟩

/-! ### A new command on a port that is held (R65) -/

section Arrives
variable {s : State} {h : CtlHdr} {i : Instr}

/-- The command joins the history and the queue of its port. -/
def joinQueue (s : State) (h : CtlHdr) (i : Instr) : State :=
  setCp (joinHistory s h) h.port
    { cpOf (joinHistory s h) h.port with queue := (cpOf s h.port).queue ++ [(i, false)] }

theorem exec_of_held (hnew : NewCommand s h i) (hbusy : (cpOf s h.port).busy ≠ none) (hrel : h.release = 0) :
    exec i s = .next (pumpPorts (joinQueue s h i)) := by
  obtain ⟨hhdr, hon, hwell, hfresh⟩ := hnew
  have hfind : (cpOf s h.port).hist.find? (fun x => x.seq == h.seq) = none := by
    simpa using hfresh
  rw [exec_of_hdrOf s hhdr, arrive]
  simp [hon, hwell, hfind, takeCmd, releaseTest_of_no_release hrel, countRelease, hbusy, joinQueue, joinHistory]

theorem cpOf_joinQueue_same : cpOf (joinQueue s h i) h.port = { cpOf s h.port with
    hist := (cpOf s h.port).hist ++ [⟨h.seq, none, []⟩], queue := (cpOf s h.port).queue ++ [(i, false)] } := by
  simp [joinQueue, joinHistory]

theorem cpOf_joinQueue_ne {p : Cp} (hp : p ≠ h.port) : cpOf (joinQueue s h i) p = cpOf s p := by
  rw [joinQueue, joinHistory, cpOf_setCp_ne _ _ hp, cpOf_setCp_ne _ _ hp]

theorem canPump_joinQueue (hbusy : (cpOf s h.port).busy ≠ none) (hqueues : ∀ p, p ≠ h.port → (cpOf s p).queue = []) (p : Cp) :
    canPump (joinQueue s h i) p = false := by
  by_cases hp : p = h.port
  · subst hp
    simp [canPump, cpOf_joinQueue_same, hbusy]
  · exact canPump_of_queue_nil _ (by rw [cpOf_joinQueue_ne hp, hqueues p hp])

/-! ### A command that the port keeps (R67) -/

theorem exec_of_repeat (hhdr : hdrOf i = some h) (hon : cpOn s h.port = true) (hwell : malformed i = false) {x : Hist}
    (hx : (cpOf s h.port).hist.find? (fun y => y.seq == h.seq) = some x) : exec i s = .next (repeatCmd s h.port h.src x) := by
  rw [exec_of_hdrOf s hhdr, arrive]
  simp [hon, hwell, hx]

theorem cpOf_bump (f : Fld) (n i : Nat) (p : Cp) : cpOf (bump s f n i) p = cpOf s p := rfl

theorem repeatCmd_of_answered (p : Cp) (src : NetAddr) {x : Hist} {r : Resp} (hr : x.resp = some r) :
    repeatCmd s p src x = emit (bump s .ctlCmdCnt_duplicate) (.resp { r with dst := src }) := by
  simp [repeatCmd, hr]

theorem repeatCmd_of_waiting (p : Cp) (src : NetAddr) {x : Hist} (hr : x.resp = none) :
    repeatCmd s p src x = setCp (bump s .ctlCmdCnt_duplicate) p { cpOf s p with
      hist := (cpOf s p).hist.map (fun y => if y = x then { y with repeats := y.repeats ++ [src] } else y) } := by
  simp only [repeatCmd, hr, cpOf_bump]

/-- A repeat is counted, and no register besides. -/
theorem duplicate_counted {t : State} (hregs : t.regs = (bump s .ctlCmdCnt_duplicate).regs) (hfuses : t.fuses = s.fuses) :
    Counted s t .ctlCmdCnt_duplicate 0 1 ∧ KeptRegs s t [.ctlCmdCnt_duplicate] := by
  have hkept := keptRegs_of_regs_eq (s := bump s .ctlCmdCnt_duplicate) hregs hfuses
  exact ⟨(hkept [] _ 0 List.not_mem_nil).trans (counted_bump s .ctlCmdCnt_duplicate 1 0),
    keptRegs_trans (keptRegs_bump (fun _ _ _ => rfl) (by decide) 1 0) (hkept _)⟩

/-! ### A command that is not taken (R60, R63) -/

theorem exec_of_malformed (hhdr : hdrOf i = some h) (hon : cpOn s h.port = true) (hbad : malformed i = true) :
    exec i s = .next (refuse s h (opOf i) 3) := by
  rw [exec_of_hdrOf s hhdr, arrive]
  simp [hon, hbad]

theorem exec_of_port_off (hhdr : hdrOf i = some h) (hoff : cpOn s h.port = false) : exec i s = .next s := by
  rw [exec_of_hdrOf s hhdr, arrive]
  simp [hoff]

end Arrives

/-- Settles O20: what the port holds and keeps, and whether the frame is well formed, says which of the rows above the command is. -/
theorem controlCommandsArrive : Obligations.ControlCommandsArrive := by
  intro i h s
  refine ⟨fun hnew hbusy hqueue hrel hmay => ?starts, fun hnew hbusy hqueues hrel => ?queued,
    fun hhdr hon hwell x r hx hr => ?answered, fun hhdr hon hwell x hx hr => ?waiting,
    fun hhdr hon hbad => ⟨_, exec_of_malformed hhdr hon hbad, refuse_leaves s h _ (by decide)⟩,
    fun hhdr hoff => ⟨_, exec_of_port_off hhdr hoff, rfl⟩⟩
  case starts =>
    rw [exec_of_free hnew hbusy hqueue hrel hmay]
    exact ⟨fun hallowed => by rw [runCmd_atFront_of_allowed hallowed], fun hnot => by rw [runCmd_atFront_of_not_allowed hnot]⟩
  case queued =>
    refine ⟨_, exec_of_held hnew hbusy hrel, ?_⟩
    rw [pumpPorts_of_idle _ (canPump_joinQueue hbusy hqueues)]
    exact ⟨cpOf_joinQueue_same, fun p hp => cpOf_joinQueue_ne hp, keptRegs_of_regs_eq rfl rfl _, keptMem_of_mem_eq rfl, rfl⟩
  case answered =>
    refine ⟨_, exec_of_repeat hhdr hon hwell hx, ?_⟩
    rw [repeatCmd_of_answered _ _ hr]
    obtain ⟨hcount, hkept⟩ := duplicate_counted (t := emit (bump s .ctlCmdCnt_duplicate) (.resp { r with dst := h.src })) rfl rfl
    exact ⟨rfl, hcount, rfl, hkept⟩
  case waiting =>
    refine ⟨_, exec_of_repeat hhdr hon hwell hx, ?_⟩
    rw [repeatCmd_of_waiting _ _ hr]
    obtain ⟨hcount, hkept⟩ := duplicate_counted (t := setCp (bump s .ctlCmdCnt_duplicate) h.port _) rfl rfl
    exact ⟨rfl, hcount, hkept, keptMem_of_mem_eq rfl, by rw [cpOf_setCp_same], fun p hp => cpOf_setCp_ne _ _ hp⟩

end Sys2Proof.Machine
end

section
/-!
Frames that are no command (R59, R63, R64, R66), and the write of `CTL_PORT` (R99).
-/
namespace Sys2Proof.Machine

/-! ### Frames that are refused -/

/-- The header of a refused frame names the port that it reached and its sender. -/
theorem header_of_refused {p : Cp} {src : NetAddr} {frame : Bytes} {h : CtlHdr} {op st : Nat}
    (hread : readFrame p src frame = .refused h op st) : h.port = p ∧ h.src = src := by
  unfold readFrame at hread
  dsimp only at hread
  split at hread
  · cases hread
  · split at hread
    · cases hread
      exact ⟨rfl, rfl⟩
    · split at hread
      · cases hread
        exact ⟨rfl, rfl⟩
      · split at hread
        · cases hread
          exact ⟨rfl, rfl⟩
        · cases hread

theorem frameRefused_of_refused {s : State} {p : Cp} {src : NetAddr} {frame : Bytes} {h : CtlHdr} {op st : Nat}
    (hon : cpOn s p = true) (hread : readFrame p src frame = .refused h op st) :
    frameRefused p ⟨src, frame⟩ st s = refuse s h op st := by
  simp [frameRefused, hread, hon]

/-- A frame that is refused with a status is answered with it, counted, and no more (R66). -/
theorem frameRefused_leaves {s : State} {p : Cp} {src : NetAddr} {frame : Bytes} {h : CtlHdr} {op st : Nat} (hst : 1 < st)
    (hon : cpOn s p = true) (hread : readFrame p src frame = .refused h op st) :
    let t := frameRefused p ⟨src, frame⟩ st s
    t.out = s.out ++ [.resp ⟨p, src, h.seq, op, h.job, st, 0, []⟩] ∧ Counted s t .ctlCmdCnt_refused 0 1 ∧
      { t with regs := s.regs, out := s.out } = s ∧ KeptRegs s t [.ctlCmdCnt_refused] := by
  obtain ⟨rfl, rfl⟩ := header_of_refused hread
  rw [frameRefused_of_refused hon hread]
  exact refuse_leaves s h op hst

/-! ### Frames that are only counted -/

/-- Where a row's condition holds and it counts in a register, that is all it does. -/
theorem onlyIf_bump_counts {s : State} {b : Bool} (hb : b = true) (f : Fld) :
    let t := onlyIf b (fun s => bump s f) s
    Counted s t f 0 1 ∧ OnlyRegs s t [f] := by
  rw [onlyIf, if_pos hb]
  exact ⟨counted_bump s f 1 0, onlyRegs_bump s f 1 0⟩

/-! ### The write of `CTL_PORT` -/

/-- `CTL_PORT` as written, before the rule of the last enable. -/
def portsWritten (s : State) (v : Nat) : State :=
  put (put (put s .ctlPort_udp_port (bitsOf v 15 0)) .ctlPort_cp0_en (bitsOf v 16 16)) .ctlPort_cp1_en (bitsOf v 17 17)

/-- The enable of a control port. -/
def enableFld (p : Cp) : Fld := if p.val = 0 then .ctlPort_cp0_en else .ctlPort_cp1_en

theorem udp_ne_enableFld (p : Cp) : Fld.ctlPort_udp_port ≠ enableFld p := by
  unfold enableFld
  split <;> decide

theorem enableFld_mem (p : Cp) : enableFld p ∈ [Fld.ctlPort_udp_port, .ctlPort_cp0_en, .ctlPort_cp1_en] := by
  unfold enableFld
  split <;> decide

theorem ctlPortWrite_of_some_on (s : State) (p : Cp) {v : Nat} (hon : tst v 16 = true ∨ tst v 17 = true) :
    ctlPortWrite s p v = portsWritten s v := if_pos ((Bool.or_eq_true ..).mpr hon)

theorem ctlPortWrite_of_all_off (s : State) (p : Cp) {v : Nat} (h0 : tst v 16 = false) (h1 : tst v 17 = false) :
    ctlPortWrite s p v = put (portsWritten s v) (enableFld p) 1 := by
  refine (if_neg (by simp [h0, h1])).trans ?_
  unfold enableFld
  split <;> rfl

theorem onlyRegs_ctlPortWrite (s : State) (p : Cp) (v : Nat) :
    OnlyRegs s (ctlPortWrite s p v) [.ctlPort_udp_port, .ctlPort_cp0_en, .ctlPort_cp1_en] := by
  have hwritten : KeptRegs s (portsWritten s v) [.ctlPort_udp_port, .ctlPort_cp0_en, .ctlPort_cp1_en] :=
    keptRegs_put (keptRegs_put (keptRegs_put (fun _ _ _ => rfl) (by decide) _ _) (by decide) _ _) (by decide) _ _
  have hregs : RegsOnly s (portsWritten s v) := regsOnly_put (regsOnly_put (regsOnly_put regsOnly_refl ..) ..) ..
  by_cases hon : tst v 16 = true ∨ tst v 17 = true
  · rw [ctlPortWrite_of_some_on s p hon]
    exact ⟨regsOnly_rest hregs, hwritten⟩
  · simp only [not_or, Bool.not_eq_true] at hon
    rw [ctlPortWrite_of_all_off s p hon.1 hon.2]
    exact ⟨regsOnly_rest (regsOnly_put hregs ..), keptRegs_put hwritten (enableFld_mem p) _ _⟩

/-- Bit `k` of a word, as a field of one bit holds it. -/
theorem bitsOf_single (v : BitVec 64) (k : Nat) : bitsOf v.toNat k k % 2 ^ 1 = bit (v.getLsbD k) := by
  have hk : k + 1 - k = 1 := by omega
  rw [bitsOf, hk, Nat.mod_mod, bit, BitVec.getLsbD, Nat.testBit_eq_decide_div_mod_eq]
  have := Nat.mod_two_eq_zero_or_one (v.toNat / 2 ^ k)
  simp only [decide_eq_true_eq]
  split <;> omega

section
variable (s : State) (v : BitVec 64)

theorem get_portsWritten_udp : get (portsWritten s v.toNat) .ctlPort_udp_port 0 = v.toNat % 65536 := by
  rw [portsWritten, get_put_fld _ _ _ _ (by decide), get_put_fld _ _ _ _ (by decide), get_put_same, bitsOf, Nat.pow_zero,
    Nat.div_one]
  exact Nat.mod_mod ..

theorem get_portsWritten_cp0 : get (portsWritten s v.toNat) .ctlPort_cp0_en 0 = bit (v.getLsbD 16) := by
  rw [portsWritten, get_put_fld _ _ _ _ (by decide), get_put_same]
  exact bitsOf_single v 16

theorem get_portsWritten_cp1 : get (portsWritten s v.toNat) .ctlPort_cp1_en 0 = bit (v.getLsbD 17) := by
  rw [portsWritten, get_put_same]
  exact bitsOf_single v 17

/-- With both enables off the one of the port that the write came by on is set again (R99). -/
theorem get_ctlPortWrite_of_all_off (p : Cp) (h0 : v.getLsbD 16 = false) (h1 : v.getLsbD 17 = false) :
    let t := ctlPortWrite s p v.toNat
    get t .ctlPort_udp_port 0 = v.toNat % 65536 ∧ get t .ctlPort_cp0_en 0 = bit (decide (p.val = 0)) ∧
      get t .ctlPort_cp1_en 0 = bit (decide (p.val = 1)) := by
  have hcp0 := get_portsWritten_cp0 s v
  have hcp1 := get_portsWritten_cp1 s v
  rw [h0] at hcp0
  rw [h1] at hcp1
  rw [ctlPortWrite_of_all_off s p h0 h1]
  have hudp := (get_put_fld (portsWritten s v.toNat) 1 0 0 (udp_ne_enableFld p)).trans (get_portsWritten_udp s v)
  match p with
  | 0 => exact ⟨hudp, get_put_same .., (get_put_fld _ _ _ _ (by decide)).trans hcp1⟩
  | 1 => exact ⟨hudp, (get_put_fld _ _ _ _ (by decide)).trans hcp0, get_put_same ..⟩

theorem get_ctlPortWrite_of_some_on (p : Cp) (hon : v.getLsbD 16 = true ∨ v.getLsbD 17 = true) :
    let t := ctlPortWrite s p v.toNat
    get t .ctlPort_udp_port 0 = v.toNat % 65536 ∧ get t .ctlPort_cp0_en 0 = bit (v.getLsbD 16) ∧
      get t .ctlPort_cp1_en 0 = bit (v.getLsbD 17) := by
  rw [ctlPortWrite_of_some_on s p hon]
  exact ⟨get_portsWritten_udp s v, get_portsWritten_cp0 s v, get_portsWritten_cp1 s v⟩

end

theorem exec_cpEnableWrite {s : State} (hup : fn0Up s = true) (p : Cp) (v : BitVec 64) :
    exec (.cpEnableWrite p v) s = .next (ctlPortWrite s p v.toNat) := congrArg Host.Outcome.next (if_pos hup)

/-- Settles O29: a refused frame is answered and counted, another is only counted, and a write of `CTL_PORT` goes by whether it leaves
an enable set. -/
theorem framesThatAreNoCommand : Obligations.FramesThatAreNoCommand := by
  intro s
  refine ⟨fun x hx p src frame h op hon hread => ?refused, fun p hon => ⟨_, rfl, onlyIf_bump_counts hon _⟩,
    fun x hx p hup => ?counted, fun p hup hready hpresent => ⟨_, rfl, onlyIf_bump_counts (by simp [hup, hready, hpresent]) _⟩,
    fun p hup v => ⟨_, exec_cpEnableWrite hup p v, ?_⟩⟩
  case refused =>
    simp only [List.mem_cons, List.not_mem_nil, or_false] at hx
    rcases hx with rfl | rfl
    · exact ⟨_, rfl, frameRefused_leaves (by decide) hon hread⟩
    · exact ⟨_, rfl, frameRefused_leaves (by decide) hon hread⟩
  case counted =>
    simp only [List.mem_cons, List.not_mem_nil, or_false] at hx
    rcases hx with rfl | rfl | rfl <;> exact ⟨_, rfl, onlyIf_bump_counts hup _⟩
  · refine ⟨?_, fun hon => (get_ctlPortWrite_of_some_on s v p hon).2, fun h0 h1 => (get_ctlPortWrite_of_all_off s v p h0 h1).2,
      onlyRegs_ctlPortWrite s p _⟩
    by_cases hon : v.getLsbD 16 = true ∨ v.getLsbD 17 = true
    · exact (get_ctlPortWrite_of_some_on s v p hon).1
    · simp only [not_or, Bool.not_eq_true] at hon
      exact (get_ctlPortWrite_of_all_off s v p hon.1 hon.2).1

end Sys2Proof.Machine
end

section
/-!
CSR commands (R69 to R71): what CSR_READ answers, and what the writes of one CSR_WRITE leave.
-/
namespace Sys2Proof.Machine

/-! ### Reads -/

/-- What an offset reads as is no matter of the control ports. -/
theorem csrRead1_setCp (s : State) (p : Cp) (x : CpSt) (off : Nat) : csrRead1 (setCp s p x) off = csrRead1 s off := rfl

theorem csrRead1_atFront (s : State) (h : CtlHdr) (i : Instr) (off : Nat) : csrRead1 (atFront s h i) off = csrRead1 s off := by
  rw [atFront, csrRead1_setCp, csrRead1_setCp]

theorem runs_csrRead {s : State} {h : CtlHdr} {offs : List (BitVec 26)} (hstart : StartsNow s h (.csrRead h offs)) :
    Runs (.csrRead h offs) s (fun t => Answers s t h 0x01 0 0 (offs.map (fun o => csrRead1 s o.toNat)) ∧
      KeptRegs s t [.ctlCmdCnt_executed] ∧ KeptMem s t) := by
  have hbody : runBody (atFront s h (.csrRead h offs)) (.csrRead h offs) =
      answer (atFront s h (.csrRead h offs)) h 0x01 0 0 (offs.map (fun o => csrRead1 s o.toNat)) := by
    simp only [runBody, runCsrRead, csrRead1_atFront]
  obtain ⟨t, hexec, hans, hfin⟩ := runs_answer hstart hbody rfl rfl
  exact ⟨t, hexec, hans, keptRegs_of_finished hfin (keptRegs_of_regs_eq rfl rfl _) (by decide), keptMem_of_finished hfin rfl⟩

/-! ### Writes in payload order -/

/-- The state of a CSR_WRITE under way is that of its writes one after another. -/
theorem foldl_csrNext_s (p : Cp) (l : List (BitVec 26 × BitVec 64)) (x : CsrRun) :
    (l.foldl (csrNext p) x).s = l.foldl (csrWrite1 p) x.s := by
  induction l generalizing x with
  | nil => rfl
  | cons w l ih => exact ih (csrNext p x w)

/-- The mark of a shadow after the last write of a CSR_WRITE, by whether the command has written it. -/
def sideOf (t : Nat) (s : State) (l : List (Fld × Nat)) (h : Shadow) : Shadow :=
  if l.contains (h.fld, h.idx) then { h with held := insideGuard { s with time := { s.time with tide := t } } h.scope } else h

section SameSide
variable (t : Nat) (s : State) (l : List (Fld × Nat))

theorem sideOf_fld (h : Shadow) : (sideOf t s l h).fld = h.fld := by
  unfold sideOf
  split <;> rfl

theorem sideOf_idx (h : Shadow) : (sideOf t s l h).idx = h.idx := by
  unfold sideOf
  split <;> rfl

theorem sideOf_val (h : Shadow) : (sideOf t s l h).val = h.val := by
  unfold sideOf
  split <;> rfl

/-- A shadow that the command has written is tested against the guard of its scope. -/
theorem held_sideOf {h : Shadow} (hmem : ((sideOf t s l h).fld, (sideOf t s l h).idx) ∈ l) : (sideOf t s l h).held =
    insideGuard { s with time := { s.time with tide := t } } (sideOf t s l h).scope := by
  rw [sideOf_fld, sideOf_idx] at hmem
  rw [sideOf, if_pos (List.contains_iff_mem.mpr hmem)]

theorem sameSide_shadows : (sameSide t s l).time.shadows = s.time.shadows.map (sideOf t s l) := rfl

/-- What a field reads back as is no matter of the marks. -/
theorem lastWritten_sameSide (f : Fld) (i : Nat) : lastWritten (sameSide t s l) f i = lastWritten s f i := by
  have hget : get (sameSide t s l) f i = get s f i := rfl
  have hfind : (sameSide t s l).time.shadows.find? (fun h => decide (h.fld = f) && h.idx == i) =
      (s.time.shadows.find? (fun h => decide (h.fld = f) && h.idx == i)).map (sideOf t s l) := by
    rw [sameSide_shadows, List.find?_map]
    simp only [Function.comp_def, sideOf_fld, sideOf_idx]
  rw [lastWritten, lastWritten, hfind, hget]
  cases s.time.shadows.find? (fun h => decide (h.fld = f) && h.idx == i) with
  | none => rfl
  | some h => exact sideOf_val t s l h

/-- Shadows of one scope that the command has written fall on one side of any apply (R70). -/
theorem held_sameSide {a b : Shadow} (ha : a ∈ (sameSide t s l).time.shadows) (hb : b ∈ (sameSide t s l).time.shadows)
    (hal : (a.fld, a.idx) ∈ l) (hbl : (b.fld, b.idx) ∈ l) (hscope : a.scope = b.scope) : a.held = b.held := by
  rw [sameSide_shadows] at ha hb
  obtain ⟨x, -, rfl⟩ := List.mem_map.mp ha
  obtain ⟨y, -, rfl⟩ := List.mem_map.mp hb
  rw [held_sideOf t s l hal, held_sideOf t s l hbl, hscope]

end SameSide

/-- A CSR_WRITE with no step of the tide among its writes leaves what they leave, but for the marks of its shadows. -/
theorem csrWrites_of_no_step {p : Cp} {l : List (BitVec 26 × BitVec 64)} {s : State}
    (hsteps : (l.foldl (csrNext p) ⟨s, [], []⟩).steps = []) :
    csrWrites p s l = sameSide s.time.tide (l.foldl (csrWrite1 p) s) (l.foldl (csrNext p) ⟨s, [], []⟩).rwe := by
  have hs : (l.foldl (csrNext p) ⟨s, [], []⟩).s = l.foldl (csrWrite1 p) s := foldl_csrNext_s p l ⟨s, [], []⟩
  rw [csrWrites, hsteps, hs]
  rfl

/-- Settles O23: a read changes nothing but the count of commands, the writes of a CSR_WRITE are a fold whose shadows `sameSide` marks
alike, and a register field holds the value written last. -/
theorem csrCommands : Obligations.CsrCommands := by
  refine ⟨fun h s => ⟨fun offs hstart => runs_csrRead hstart, fun l hstart => exec_of_startsNow hstart⟩, fun p l s => ?writes,
    fun s f g v i j => ?field⟩
  case writes =>
    intro x u t hsteps
    have ht : t = sameSide s.time.tide u x.rwe := csrWrites_of_no_step hsteps
    rw [ht]
    exact ⟨fun _ _ => rfl, fun _ => rfl, rfl, lastWritten_sameSide _ u _, fun a ha b hb => held_sameSide _ u _ ha hb⟩
  case field =>
    split
    case isTrue heq =>
      obtain ⟨rfl, rfl⟩ := heq
      exact get_put_same ..
    case isFalse hne => exact get_put_ne s hne

end Sys2Proof.Machine
end

section
/-!
Identity and owner keys (R94 to R98): what NONCE draws, what QUOTE and CERT_READ answer, and what the use of a nonce leaves of the
key store.
-/
namespace Sys2Proof.Machine

variable {s : State} {h : CtlHdr}

/-! ### NONCE (R94) -/

/-- A nonce is drawn, shown and valid. -/
def nonceDrawn (s : State) : State :=
  put (putDigest { s with ctl := { s.ctl with nonces := s.ctl.nonces + 1 } } .secNonce_nonce (Config.nonceDraw s.ctl.nonces).toNat)
    .secStat_nonce_valid 1

theorem keptRegs_nonceDrawn (s : State) : KeptRegs s (nonceDrawn s) [.secNonce_nonce, .secStat_nonce_valid] :=
  keptRegs_put (keptRegs_putDigest (keptRegs_of_regs_eq rfl rfl _) (by decide) _) (by decide) _ _

theorem nonceDrawn_cps (s : State) : (nonceDrawn s).ctl.cps = s.ctl.cps := rfl

theorem nonceDrawn_nonces (s : State) : (nonceDrawn s).ctl.nonces = s.ctl.nonces + 1 := rfl

theorem nonceDrawn_out (s : State) : (nonceDrawn s).out = s.out := rfl

theorem nonceDrawn_mem (s : State) : (nonceDrawn s).mem = s.mem := rfl

theorem getDigest_nonceDrawn (s : State) : getDigest (nonceDrawn s) .secNonce_nonce = (Config.nonceDraw s.ctl.nonces).toNat := by
  rw [nonceDrawn, getDigest_of_keptRegs (keptRegs_put (fun _ _ _ => rfl) (List.mem_singleton_self _) _ _) (by decide)]
  exact getDigest_putDigest _ rfl (BitVec.isLt _)

theorem runs_nonce (hstart : StartsNow s h (.nonce h)) : Runs (.nonce h) s (fun t =>
    getDigest t .secNonce_nonce = (Config.nonceDraw s.ctl.nonces).toNat ∧ get t .secStat_nonce_valid 0 = 1 ∧
    t.ctl.nonces = s.ctl.nonces + 1 ∧ Answers s t h 0x30 0 0 (padWords (toLe 32 (Config.nonceDraw s.ctl.nonces).toNat)) ∧
    KeptRegs s t [.secNonce_nonce, .secStat_nonce_valid, .ctlCmdCnt_executed] ∧ KeptMem s t) := by
  obtain ⟨t, hexec, hans, hfin⟩ := runs_answer (u := nonceDrawn (atFront s h (.nonce h))) hstart rfl
    (nonceDrawn_cps _) (nonceDrawn_out _)
  have hdrawn := keptRegs_trans (keptRegs_of_regs_eq (s := s) rfl rfl _) (keptRegs_nonceDrawn (atFront s h (.nonce h)))
  have hnonces := (nonces_of_finished hfin).trans (nonceDrawn_nonces _)
  refine ⟨t, hexec, ?_, ?_, hnonces, hans, keptRegs_of_finished hfin (keptRegs_mono hdrawn (by decide)) (by decide),
    keptMem_of_finished hfin (nonceDrawn_mem _)⟩
  · exact (getDigest_of_keptRegs hfin.2 (by decide)).trans (getDigest_nonceDrawn _)
  · exact (get_of_finished hfin (by decide) 0).trans (get_put_same ..)

/-! ### QUOTE and CERT_READ (R69, R95) -/

theorem quoteBody_atFront (s : State) (h : CtlHdr) (i : Instr) (n : BitVec 256) : quoteBody (atFront s h i) n = quoteBody s n := by
  simp only [quoteBody, csrRead1_atFront]
  rfl

theorem runs_quote {n : BitVec 256} (hstart : StartsNow s h (.quote h n)) : Runs (.quote h n) s (fun t => t.free = s.free + 1 ∧
    Answers s t h 0x31 0 0 (padWords (quoteBody s n) ++ padWords (toBe 384 (Config.identitySign (quoteBody s n) s.free).toNat)) ∧
    KeptRegs s t [.ctlCmdCnt_executed] ∧ KeptMem s t) := by
  have hbody : runBody (atFront s h (.quote h n)) (.quote h n) = answer (freeTick (atFront s h (.quote h n))) h 0x31 0 0
      (padWords (quoteBody s n) ++ padWords (toBe 384 (Config.identitySign (quoteBody s n) s.free).toNat)) := by
    rw [← quoteBody_atFront s h (.quote h n)]
    rfl
  obtain ⟨t, hexec, hans, hfin⟩ := runs_answer hstart hbody rfl rfl
  exact ⟨t, hexec, free_of_finished hfin, hans, keptRegs_of_finished hfin (keptRegs_of_regs_eq rfl rfl _) (by decide),
    keptMem_of_finished hfin rfl⟩

theorem certBytes_length (s : State) : 1 ≤ (certBytes s).length ∧ (certBytes s).length ≤ 8192 := by
  have htake := List.length_take_le 8192 (Config.certificate s.fuses.serial)
  unfold certBytes
  split
  · decide
  · next hcert =>
    rw [hcert] at htake
    exact ⟨Nat.succ_pos _, htake⟩

theorem runs_certRead (hstart : StartsNow s h (.certRead h)) : Runs (.certRead h) s (fun t =>
    Answers s t h 0x32 0 0 (BitVec.ofNat 64 (certBytes s).length :: padWords (certBytes s)) ∧ 1 ≤ (certBytes s).length ∧
    (certBytes s).length ≤ 8192 ∧ KeptRegs s t [.ctlCmdCnt_executed] ∧ KeptMem s t) := by
  obtain ⟨t, hexec, hans, hfin⟩ := runs_answer (u := atFront s h (.certRead h)) hstart rfl rfl rfl
  obtain ⟨hpos, hle⟩ := certBytes_length s
  exact ⟨t, hexec, hans, hpos, hle, keptRegs_of_finished hfin (keptRegs_of_regs_eq rfl rfl _) (by decide),
    keptMem_of_finished hfin rfl⟩

/-! ### The owner key (R94, R96 to R98) -/

/-- The nonce has been used. -/
def nonceUsed (s : State) : State := put s .secStat_nonce_valid 0

section Uses
variable {i : Instr} {op : Nat}

/-- A key operation whose signature verifies stores the owner and takes one write. -/
theorem runs_ownerStored {o : Option (BitVec 3072)} (hstart : StartsNow s h i)
    (hbody : runBody (atFront s h i) i = answer (storeOwner (nonceUsed (atFront s h i)) o) h op 0 0 []) : Runs i s (fun t =>
      t.fuses.owner = o ∧ t.fuses.writesLeft = s.fuses.writesLeft - 1 ∧ get t .secStat_nonce_valid 0 = 0 ∧
      Answers s t h op 0 0 [] ∧ KeptMem s t) := by
  obtain ⟨t, hexec, hans, hfin⟩ := runs_answer hstart hbody rfl rfl
  have hfuses := fuses_of_finished hfin
  refine ⟨t, hexec, congrArg Fuses.owner hfuses, congrArg Fuses.writesLeft hfuses, ?_, hans, keptMem_of_finished hfin rfl⟩
  exact (get_of_finished hfin (by decide) 0).trans (get_put_same (atFront s h i) .secStat_nonce_valid 0 0)

/-- One whose signature does not leaves the key store. -/
theorem runs_ownerKept (hstart : StartsNow s h i)
    (hbody : runBody (atFront s h i) i = answer (nonceUsed (atFront s h i)) h op 1 0x11 []) : Runs i s (fun t =>
      t.fuses = s.fuses ∧ get t .secStat_nonce_valid 0 = 0 ∧ Answers s t h op 1 0x11 [] ∧ KeptMem s t) := by
  obtain ⟨t, hexec, hans, hfin⟩ := runs_answer hstart hbody rfl rfl
  exact ⟨t, hexec, (fuses_of_finished hfin :), (get_of_finished hfin (by decide) 0).trans (get_put_same ..), hans,
    keptMem_of_finished hfin rfl⟩

end Uses

section Bodies
variable {n : BitVec 256} {b : Bool} {k : BitVec 2} {m g : BitVec 3072} (hwrites : s.fuses.writesLeft ≠ 0)
  (hnonce : nonceOk s n = true)
include hwrites hnonce

theorem runOwnerEnroll_of_nonceOk : runOwnerEnroll s h n m b g =
    if enrollSigOk s n m b g = true then answer (storeOwner (nonceUsed s) (some m)) h 0x33 0 0 []
    else answer (nonceUsed s) h 0x33 1 0x11 [] := by
  rw [runOwnerEnroll, if_neg hwrites, if_neg (by simp [hnonce])]
  rfl

theorem runOwnerClear_of_nonceOk : runOwnerClear s h n b k m g =
    if clearSigOk s n b k m g = true then answer (storeOwner (nonceUsed s) none) h 0x34 0 0 []
    else answer (nonceUsed s) h 0x34 1 0x11 [] := by
  rw [runOwnerClear, if_neg hwrites, if_neg (by simp [hnonce])]
  rfl

end Bodies

/-- Settles O26: each command by what its body answers, and the owner key by whether the signature verifies. -/
theorem identityAndOwnerCommands : Obligations.IdentityAndOwnerCommands := by
  refine fun h s => ⟨runs_nonce, fun n => runs_quote, runs_certRead, fun n m b g hstart hwrites hnonce => ?enroll,
    fun n b k m g hstart hwrites hnonce => ?clear⟩
  case enroll =>
    have hbody := runOwnerEnroll_of_nonceOk (s := atFront s h (.ownerEnroll h n m b g)) (h := h) (m := m) (b := b) (g := g)
      hwrites hnonce
    exact ⟨fun hsig => runs_ownerStored hstart (hbody.trans (if_pos hsig)),
      fun hsig => runs_ownerKept hstart (hbody.trans (if_neg (Bool.eq_false_iff.mp hsig)))⟩
  case clear =>
    have hbody := runOwnerClear_of_nonceOk (s := atFront s h (.ownerClear h n b k m g)) (h := h) (b := b) (k := k) (m := m)
      (g := g) hwrites hnonce
    exact ⟨fun hsig => runs_ownerStored hstart (hbody.trans (if_pos hsig)),
      fun hsig => runs_ownerKept hstart (hbody.trans (if_neg (Bool.eq_false_iff.mp hsig)))⟩

end Sys2Proof.Machine
end

section
/-!
Image loads (R73, R74, R83 to R85, R98): what opens, fills and ends the one load, and how the checks of an image end.
-/
namespace Sys2Proof.Machine

variable {s : State} {h : CtlHdr}

/-- Coming to the front of a port changes nothing of the load. -/
theorem load_atFront {i : Instr} {o : Option Load} (hload : s.ctl.load = o) : (atFront s h i).ctl.load = o := hload

/-! ### IMAGE_BEGIN (R83) -/

/-- The one load is open, of a length and for a mask of functions. -/
def loadBegun (s : State) (length : BitVec 32) (mask : BitVec 9) : State :=
  put (put (put { s with ctl := { s.ctl with load := some ⟨length.toNat, mask, [], 0, none, none⟩ } } .shpStat_load_state 1)
    .shpLoad_next_offset 0) .shpLoad_length length.toNat

section
variable (s) (length : BitVec 32) (mask : BitVec 9)

theorem loadBegun_load : (loadBegun s length mask).ctl.load = some ⟨length.toNat, mask, [], 0, none, none⟩ := rfl

theorem loadBegun_cps : (loadBegun s length mask).ctl.cps = s.ctl.cps := rfl

theorem loadBegun_out : (loadBegun s length mask).out = s.out := rfl

theorem loadBegun_mem : (loadBegun s length mask).mem = s.mem := rfl

theorem keptRegs_loadBegun :
    KeptRegs s (loadBegun s length mask) [.shpStat_load_state, .shpLoad_next_offset, .shpLoad_length] :=
  keptRegs_put (keptRegs_put (keptRegs_put (keptRegs_of_regs_eq rfl rfl _) (by decide) _ _) (by decide) _ _) (by decide) _ _

theorem get_loadBegun_state : get (loadBegun s length mask) .shpStat_load_state 0 = 1 := by
  rw [loadBegun, get_put_fld _ _ _ _ (by decide), get_put_fld _ _ _ _ (by decide), get_put_same]
  rfl

theorem get_loadBegun_next_offset : get (loadBegun s length mask) .shpLoad_next_offset 0 = 0 := by
  rw [loadBegun, get_put_fld _ _ _ _ (by decide), get_put_same, Nat.zero_mod]

theorem get_loadBegun_length : get (loadBegun s length mask) .shpLoad_length 0 = length.toNat := by
  rw [loadBegun, get_put_same]
  exact Nat.mod_eq_of_lt length.isLt

end

theorem runImageBegin_of_none (hload : s.ctl.load = none) (length : BitVec 32) (mask : BitVec 9) :
    runImageBegin s h length mask = answer (loadBegun s length mask) h 0x10 0 0 [] := if_neg (by simp [hload])

theorem runImageBegin_of_open (hload : s.ctl.load ≠ none) (length : BitVec 32) (mask : BitVec 9) :
    runImageBegin s h length mask = answer s h 0x10 4 0 [] := if_pos (Option.isSome_iff_ne_none.mpr hload)

theorem runs_imageBegin {length : BitVec 32} {mask : BitVec 9} (hstart : StartsNow s h (.imageBegin h length mask))
    (hload : s.ctl.load = none) : Runs (.imageBegin h length mask) s (fun t =>
      t.ctl.load = some ⟨length.toNat, mask, [], 0, none, none⟩ ∧ get t .shpStat_load_state 0 = 1 ∧
      get t .shpLoad_next_offset 0 = 0 ∧ get t .shpLoad_length 0 = length.toNat ∧ Answers s t h 0x10 0 0 [] ∧ KeptMem s t ∧
      KeptRegs s t [.shpStat_load_state, .shpLoad_next_offset, .shpLoad_length, .ctlCmdCnt_executed]) := by
  obtain ⟨t, hexec, hans, hfin⟩ := runs_answer hstart (runImageBegin_of_none (load_atFront hload) length mask) (loadBegun_cps ..)
    (loadBegun_out ..)
  have hbegun := keptRegs_trans (keptRegs_of_regs_eq (s := s) rfl rfl _)
    (keptRegs_loadBegun (atFront s h (.imageBegin h length mask)) length mask)
  exact ⟨t, hexec, (load_of_finished hfin).trans (loadBegun_load ..),
    (get_of_finished hfin (by decide) 0).trans (get_loadBegun_state ..),
    (get_of_finished hfin (by decide) 0).trans (get_loadBegun_next_offset ..),
    (get_of_finished hfin (by decide) 0).trans (get_loadBegun_length ..), hans, keptMem_of_finished hfin (loadBegun_mem ..),
    keptRegs_of_finished hfin (keptRegs_mono hbegun (by decide)) (by decide)⟩

/-! ### Commands that are refused -/

/-- A command that its body answers at once with a status that refuses it leaves the load, and counts in one register. -/
theorem runs_refused {i : Instr} (hstart : StartsNow s h i) {op status : Nat} {words : List Word}
    (hbody : runBody (atFront s h i) i = answer (atFront s h i) h op status 0 words) (hst : 1 < status) : Runs i s (fun t =>
      t.ctl.load = s.ctl.load ∧ Answers s t h op status 0 words ∧ KeptRegs s t [.ctlCmdCnt_refused]) := by
  obtain ⟨t, hexec, hans, hfin⟩ := runs_answer hstart hbody rfl rfl
  have hfld : statusFld status = .ctlCmdCnt_refused := if_neg (Nat.not_le.mpr hst)
  exact ⟨t, hexec, (load_of_finished hfin).trans (load_atFront rfl), hans,
    keptRegs_of_finished hfin (keptRegs_of_regs_eq rfl rfl _) (by simp [hfld])⟩

/-- The load and the answer alone. -/
theorem runs_refused_load {i : Instr} (hstart : StartsNow s h i) {op status : Nat} {words : List Word}
    (hbody : runBody (atFront s h i) i = answer (atFront s h i) h op status 0 words) (hst : 1 < status) :
    Runs i s (fun t => t.ctl.load = s.ctl.load ∧ Answers s t h op status 0 words) := by
  obtain ⟨t, hexec, hload, hans, -⟩ := runs_refused hstart hbody hst
  exact ⟨t, hexec, hload, hans⟩

/-! ### IMAGE_DATA (R84) -/

/-- The next words of a load have been taken, up to an offset. -/
def wordsTaken (s : State) (l : Load) (words : List Word) (stop : Nat) : State :=
  put { s with ctl := { s.ctl with load := some { l with words := l.words ++ words } } } .shpLoad_next_offset stop

section Data
variable {l : Load} {offset : BitVec 32} {words : List Word}

theorem runImageData_of_none (hload : s.ctl.load = none) : runImageData s h offset words = answer s h 0x11 5 0 [] := by
  rw [runImageData, hload]

theorem runImageData_of_checking (hload : s.ctl.load = some l) (hcheck : l.check ≠ none) :
    runImageData s h offset words = answer s h 0x11 4 0 [] := by
  rw [runImageData, hload]
  exact if_pos (Option.isSome_iff_ne_none.mpr hcheck)

variable (hload : s.ctl.load = some l) (hcheck : l.check = none)
include hload hcheck

/-- Bytes that are not the next ones are refused with the offset of those. -/
theorem runImageData_of_misplaced (hnext : offset.toNat ≠ 8 * l.words.length) :
    runImageData s h offset words = answer s h 0x11 6 0 [BitVec.ofNat 64 (8 * l.words.length)] := by
  simp [runImageData, hload, hcheck, hnext]

theorem runImageData_of_next (hnext : offset.toNat = 8 * l.words.length) : runImageData s h offset words =
    if l.length < offset.toNat + 8 * words.length ∨ (offset.toNat + 8 * words.length ≠ l.length ∧ 8 * words.length ≠ 8192)
    then answer s h 0x11 3 0 []
    else answer (wordsTaken s l words (offset.toNat + 8 * words.length)) h 0x11 0 0 [] := by
  simp [runImageData, hload, hcheck, hnext, wordsTaken]

theorem runImageData_of_fit (hnext : offset.toNat = 8 * l.words.length) (hle : offset.toNat + 8 * words.length ≤ l.length)
    (hsize : offset.toNat + 8 * words.length = l.length ∨ words.length = 1024) : runImageData s h offset words =
      answer (wordsTaken s l words (offset.toNat + 8 * words.length)) h 0x11 0 0 [] := by
  rw [runImageData_of_next hload hcheck hnext, if_neg (by omega)]

theorem runImageData_of_misfit (hnext : offset.toNat = 8 * l.words.length) (hbad : l.length < offset.toNat + 8 * words.length ∨
    (offset.toNat + 8 * words.length ≠ l.length ∧ words.length ≠ 1024)) :
    runImageData s h offset words = answer s h 0x11 3 0 [] := by
  rw [runImageData_of_next hload hcheck hnext, if_pos (by omega)]

end Data

theorem keptRegs_wordsTaken (s : State) (l : Load) (words : List Word) (stop : Nat) :
    KeptRegs s (wordsTaken s l words stop) [.shpLoad_next_offset] :=
  keptRegs_put (keptRegs_of_regs_eq rfl rfl _) (List.mem_singleton_self _) _ _

/-- A run of a body that takes words. -/
theorem runs_wordsTaken {i : Instr} (hstart : StartsNow s h i) {l : Load} {words : List Word} {stop : Nat}
    (hbody : runBody (atFront s h i) i = answer (wordsTaken (atFront s h i) l words stop) h 0x11 0 0 []) : Runs i s (fun t =>
      t.ctl.load = some { l with words := l.words ++ words } ∧
      get t .shpLoad_next_offset 0 = stop % 2 ^ Fld.shpLoad_next_offset.width ∧ Answers s t h 0x11 0 0 [] ∧ KeptMem s t ∧
      KeptRegs s t [.shpLoad_next_offset, .ctlCmdCnt_executed]) := by
  obtain ⟨t, hexec, hans, hfin⟩ := runs_answer hstart hbody rfl rfl
  have htaken := keptRegs_trans (keptRegs_of_regs_eq (s := s) rfl rfl _) (keptRegs_wordsTaken (atFront s h i) l words stop)
  exact ⟨t, hexec, load_of_finished hfin, (get_of_finished hfin (by decide) 0).trans (get_put_same ..), hans,
    keptMem_of_finished hfin rfl, keptRegs_of_finished hfin (keptRegs_mono htaken (by decide)) (by decide)⟩

/-! ### The end of a load (R83, R85) -/

theorem keptRegs_endLoad (s : State) : KeptRegs s (endLoad s) [.shpStat_load_state] :=
  keptRegs_put (keptRegs_of_regs_eq rfl rfl _) (List.mem_singleton_self _) _ _

/-- What IMAGE_ABORT leaves where no image is being checked. -/
def loadAborted (s : State) : State := if s.ctl.load.isSome then endLoad s else s

theorem runImageAbort_of_checking (hcheck : checking s = true) : runImageAbort s h = answer s h 0x13 4 0 [] := if_pos hcheck

theorem runImageAbort_of_not_checking (hcheck : checking s = false) : runImageAbort s h = answer (loadAborted s) h 0x13 0 0 [] :=
  if_neg (Bool.eq_false_iff.mp hcheck)

theorem loadAborted_leaves (s : State) : (loadAborted s).ctl.load = none ∧ (loadAborted s).ctl.cps = s.ctl.cps ∧
    (loadAborted s).out = s.out ∧ (loadAborted s).mem = s.mem ∧ KeptRegs s (loadAborted s) [.shpStat_load_state] := by
  unfold loadAborted
  split
  · exact ⟨rfl, rfl, rfl, rfl, keptRegs_endLoad s⟩
  · next hload => exact ⟨Option.not_isSome_iff_eq_none.mp hload, rfl, rfl, rfl, fun _ _ _ => rfl⟩

theorem runs_imageAbort (hstart : StartsNow s h (.imageAbort h)) (hcheck : checking s = false) : Runs (.imageAbort h) s (fun t =>
    t.ctl.load = none ∧ Answers s t h 0x13 0 0 [] ∧ KeptMem s t ∧ KeptRegs s t [.shpStat_load_state, .ctlCmdCnt_executed]) := by
  obtain ⟨hload, hcps, hout, hmem, hkept⟩ := loadAborted_leaves (atFront s h (.imageAbort h))
  obtain ⟨t, hexec, hans, hfin⟩ := runs_answer hstart (runImageAbort_of_not_checking (s := atFront s h _) hcheck) hcps hout
  have haborted := keptRegs_trans (keptRegs_of_regs_eq (s := s) rfl rfl _) hkept
  exact ⟨t, hexec, (load_of_finished hfin).trans hload, hans, keptMem_of_finished hfin hmem,
    keptRegs_of_finished hfin (keptRegs_mono haborted (by decide)) (by decide)⟩

/-! ### IMAGE_END (R83, R85, R98) -/

/-- The checks of an image have begun, under the owner key of now and with the functions that are in reset now. -/
def checksBegun (s : State) (h : CtlHdr) (ld : Load) : State :=
  put { s with ctl := { s.ctl with load := some { ld with
    check := some h, owner := s.fuses.owner, fnReset := ld.fnReset ||| BitVec.ofNat 9 (get s .rstStat_in_reset) } } }
    .shpStat_load_state 2

theorem runImageEnd_of_load {ld : Load} (hload : s.ctl.load = some ld) (hcheck : ld.check = none) :
    runImageEnd s h = acceptCmd (checksBegun s h ld) h.port := by
  simp [runImageEnd, hload, hcheck, checksBegun]

theorem runImageEnd_of_checking {ld : Load} (hload : s.ctl.load = some ld) (hcheck : ld.check ≠ none) :
    runImageEnd s h = answer s h 0x12 4 0 [] := by
  rw [runImageEnd, hload]
  exact if_pos (Option.isSome_iff_ne_none.mpr hcheck)

/-- A command at the front of its port that is answered later goes on holding the port. -/
theorem cpOf_acceptCmd_of_front {u : State} {i : Instr} (hcps : u.ctl.cps = (atFront s h i).ctl.cps) :
    (cpOf (acceptCmd u h.port) h.port).busy = some i ∧ ∀ p, (cpOf (acceptCmd u h.port) p).queue = (cpOf s p).queue := by
  constructor
  · rw [acceptCmd, cpOf_setCp_same]
    exact (congrArg CpSt.busy (cpOf_congr hcps h.port)).trans (by rw [cpOf_atFront_same])
  · intro p
    rw [acceptCmd, queue_setCp _ _ (by rfl), cpOf_congr hcps, queue_atFront]

theorem runs_imageEnd {ld : Load} (hstart : StartsNow s h (.imageEnd h)) (hload : s.ctl.load = some ld) (hcheck : ld.check = none) :
    Runs (.imageEnd h) s (fun t => t.ctl.load = some { ld with
        check := some h, owner := s.fuses.owner, fnReset := ld.fnReset ||| BitVec.ofNat 9 (get s .rstStat_in_reset) } ∧
      get t .shpStat_load_state 0 = 2 ∧ t.out = s.out ∧ (cpOf t h.port).busy = some (.imageEnd h) ∧
      KeptRegs s t [.shpStat_load_state] ∧ KeptMem s t) := by
  have hexec := exec_of_startsNow hstart
  obtain ⟨-, -, hqueues, -⟩ := hstart
  obtain ⟨hbusy, hsame⟩ := cpOf_acceptCmd_of_front (u := checksBegun (atFront s h (.imageEnd h)) h ld) rfl
  have hbody : runBody (atFront s h (.imageEnd h)) (.imageEnd h) =
      acceptCmd (checksBegun (atFront s h (.imageEnd h)) h ld) h.port := runImageEnd_of_load (load_atFront hload) hcheck
  rw [hbody, pumpPorts_of_queues_nil _ fun p => (hsame p).trans (hqueues p)] at hexec
  have hkept : KeptRegs s (checksBegun (atFront s h (.imageEnd h)) h ld) [.shpStat_load_state] :=
    keptRegs_put (keptRegs_of_regs_eq rfl rfl _) (List.mem_singleton_self _) _ _
  have hstate : get (checksBegun (atFront s h (.imageEnd h)) h ld) .shpStat_load_state 0 = 2 := get_put_same ..
  exact ⟨_, hexec, rfl, hstate, rfl, hbusy, keptRegs_trans hkept (keptRegs_of_regs_eq rfl rfl _), keptMem_of_mem_eq rfl⟩

/-! ### The checks end with the next tick (R73, R74, R85) -/

theorem exec_tideTick_of_checking {ld : Load} (hload : (ticked s).ctl.load = some ld) (hcheck : ld.check = some h) :
    exec .tideTick s = .next (pumpPorts
      (if hKind ld.words = 1 then endFound (endLoad (ticked s)) h ld else endShape (endLoad (ticked s)) h ld)) := by
  have hchecking : checking (ticked s) = true := by simp [checking, hload, hcheck]
  have hends : endChecks (ticked s) =
      if hKind ld.words = 1 then endFound (endLoad (ticked s)) h ld else endShape (endLoad (ticked s)) h ld := by
    simp [endChecks, hload, hcheck]
  rw [← hends]
  exact congrArg Host.Outcome.next (if_pos hchecking)

section
variable {ld : Load}

theorem endFound_of_some {f : Found} (hf : checkFoundation s ld = some f) :
    endFound s h ld = answer (takeFound s f) h 0x12 0 0 [] := by
  simp only [endFound, hf]

theorem endFound_of_none (hf : checkFoundation s ld = none) : endFound s h ld = answer s h 0x12 1 0x11 [] := by
  simp only [endFound, hf]

theorem endShape_of_none (hr : checkShape s ld = none) : endShape s h ld = answer (acceptShape s ld) h 0x12 0 0 [] := by
  simp only [endShape, hr]

theorem endShape_of_some {r : Reject} (hr : checkShape s ld = some r) :
    endShape s h ld = answer (recordReject s r) h 0x12 1 0x11 [] := by
  simp only [endShape, hr]

end

/-! ### The record of a rejection (R85) -/

theorem onlyRegs_recordReject (s : State) (r : Reject) : OnlyRegs s (recordReject s r)
    [.shpStat_reject_reason, .shpReject_reason, .shpReject_section, .shpReject_offset] :=
  ⟨regsOnly_rest (regsOnly_put (regsOnly_put (regsOnly_put (regsOnly_put regsOnly_refl ..) ..) ..) ..),
    keptRegs_put (keptRegs_put (keptRegs_put (keptRegs_put (fun _ _ _ => rfl) (by decide) _ _) (by decide) _ _) (by decide) _ _)
      (by decide) _ _⟩

theorem get_recordReject (s : State) (r : Reject) :
    get (recordReject s r) .shpReject_reason 0 = r.reason % 2 ^ Fld.shpReject_reason.width ∧
    get (recordReject s r) .shpReject_section 0 = r.sect % 2 ^ Fld.shpReject_section.width ∧
    get (recordReject s r) .shpReject_offset 0 = r.off % 2 ^ Fld.shpReject_offset.width := by
  unfold recordReject
  refine ⟨?_, ?_, get_put_same ..⟩
  · rw [get_put_fld _ _ _ _ (by decide), get_put_fld _ _ _ _ (by decide), get_put_same]
  · rw [get_put_fld _ _ _ _ (by decide), get_put_same]

/-- Settles O24: each command of a load by what is open and being checked, the tick that ends the checks by what they find, and what
the end of a load and a rejection leave. -/
theorem imagesLoadAndEnd : Obligations.ImagesLoadAndEnd := by
  refine ⟨fun h s => ⟨fun length mask hstart => ⟨runs_imageBegin hstart, fun hload => ?_⟩,
    fun offset words hstart => ?data, runs_imageAbort, fun hstart hcheck => ?_,
    fun ld hstart hload => ⟨runs_imageEnd hstart hload, fun hcheck => ?_⟩⟩, fun s ld h hload hcheck => ?checks,
    fun s r => ⟨rfl, rfl, rfl, rfl, ?_⟩⟩
  · exact runs_refused_load hstart (runImageBegin_of_open (s := atFront s h _) hload length mask) (by decide)
  case data =>
    refine ⟨fun l hload hcheck => runs_refused hstart (runImageData_of_checking (load_atFront hload) hcheck) (by decide),
      fun l hload hcheck => ⟨fun hnext => ?_, fun hnext hle hsize => ?_, fun hnext hbad => ?_⟩, fun hload => ?_⟩
    · exact runs_refused hstart (runImageData_of_misplaced (load_atFront hload) hcheck hnext) (by decide)
    · exact runs_wordsTaken hstart (runImageData_of_fit (load_atFront hload) hcheck hnext hle hsize)
    · exact runs_refused hstart (runImageData_of_misfit (load_atFront hload) hcheck hnext hbad) (by decide)
    · obtain ⟨t, hexec, -, hans⟩ := runs_refused_load hstart (runImageData_of_none (load_atFront hload)) (by decide)
      exact ⟨t, hexec, hans⟩
  · exact runs_refused_load hstart (runImageAbort_of_checking (s := atFront s h _) hcheck) (by decide)
  · exact runs_refused_load hstart (runImageEnd_of_checking (load_atFront hload) hcheck) (by decide)
  case checks =>
    rw [exec_tideTick_of_checking hload hcheck]
    refine ⟨fun hk f hf => ?_, fun hk hf => ?_, fun hk hr => ?_, fun hk r hr => ?_⟩
    · rw [if_pos hk, endFound_of_some hf]
    · rw [if_pos hk, endFound_of_none hf]
    · rw [if_neg hk, endShape_of_none hr]
    · rw [if_neg hk, endShape_of_some hr]
  · obtain ⟨hreason, hsect, hoff⟩ := get_recordReject s r
    exact ⟨hreason, hsect, hoff, onlyRegs_recordReject s r⟩

end Sys2Proof.Machine
end

section
/-!
One core of the module: what an update of one of its arrays or slots leaves, and what is kept where nothing but the core changed.
-/
namespace Sys2Proof.Machine

variable {s t u : State} {c : Nat}

/-! ### Nothing but one core -/

theorem onlyCore_refl (s : State) (c : Nat) : OnlyCore s s c := ⟨rfl, fun _ _ => rfl⟩

theorem onlyCore_setCore (h : OnlyCore s t c) (k : CoreSt) : OnlyCore s (setCore t c k) c :=
  ⟨h.1, fun _ hd => (coreOf_setCore_ne t k hd).trans (h.2 _ hd)⟩

theorem onlyCore_setArr (h : OnlyCore s t c) (a : Nat) (x : ArrSt) : OnlyCore s (setArr t c a x) c :=
  onlyCore_setCore h _

theorem keptRegs_of_onlyCore (h : OnlyCore s t c) : KeptRegs s t [] := fun f i _ => onlyCore_get h f i

theorem keptMem_of_onlyCore (h : OnlyCore s t c) : KeptMem s t := onlyCore_rdByte h

theorem onlyCore_setSlot (h : OnlyCore s t c) (sl : Slot) (x : SlotSt) : OnlyCore s (setSlot t c sl x) c :=
  onlyCore_setCore h _

theorem onlyCore_trans (hst : OnlyCore s t c) (htu : OnlyCore t u c) : OnlyCore s u c := by
  refine ⟨?_, fun d hd => (htu.2 d hd).trans (hst.2 d hd)⟩
  rw [← hst.1, ← htu.1]

/-! ### Arrays and slots of one core -/

@[simp] theorem arrOf_setArr_same (s : State) (c a : Nat) (x : ArrSt) : arrOf (setArr s c a x) c a = x := by
  simp [arrOf, setArr]

theorem arrOf_setArr_ne (s : State) (c : Nat) {a b : Nat} (x : ArrSt) (h : b ≠ a) : arrOf (setArr s c a x) c b = arrOf s c b := by
  simp only [arrOf, setArr, coreOf_setCore_same]
  exact mget_mset_ne x h

@[simp] theorem slotOf_setArr (s : State) (c a : Nat) (x : ArrSt) (sl : Slot) : slotOf (setArr s c a x) c sl = slotOf s c sl := by
  cases sl <;> simp [slotOf, setArr, CoreSt.slot]

@[simp] theorem arrOf_setSlot (s : State) (c b : Nat) (sl : Slot) (x : SlotSt) : arrOf (setSlot s c sl x) c b = arrOf s c b := by
  cases sl <;> simp [arrOf, CoreSt.setSlot]

@[simp] theorem arrOf_advance (s : State) (c b : Nat) (sl : Slot) : arrOf (advance s c sl) c b = arrOf s c b := arrOf_setSlot ..

theorem sregOf_lt (s : State) (c : Nat) (sl : Slot) (r : Nat) : sregOf s c sl r < 2 ^ 64 := by
  unfold sregOf
  split
  · decide
  · exact BitVec.isLt _

end Sys2Proof.Machine
end

section
/-!
The waits of a task (R139, R166, R167): what a wait instruction that issues comes to, by whether its condition holds, and what
ends a wait.
-/
namespace Sys2Proof.Machine

variable {s : State} {c : Core} {sl : Slot} {f : RegForm}

/-! ### A wait by its condition -/

theorem slotOf_updTask (g : Task → Task) :
    slotOf (updTask s c sl g) c sl = { slotOf s c sl with task := (taskOf s c sl).map g } :=
  slotOf_setSlot_same ..

theorem taskOf_updTask (g : Task → Task) : taskOf (updTask s c sl g) c sl = (taskOf s c sl).map g :=
  congrArg SlotSt.task (slotOf_updTask g)

theorem onlySlot_updTask (g : Task → Task) : OnlySlot s (updTask s c sl g) c sl :=
  onlySlot_setSlot _ (onlySlot_refl s c sl)

/-- A wait instruction that comes to `waitFor` goes on where its condition holds, and else holds its task. -/
theorem runs_waitFor {i : Instr} {k : Task} {w : WaitKind} {cause : Nat} {cond : Prop} (htask : taskOf s c sl = some k)
    (hexec : exec i s = .next (waitFor s c sl w cause)) (hcond : waitHolds s c sl w = true ↔ cond) :
    (cond → Runs i s (fun t => Moved s t c sl 1 ∧ OnlySlot s t c sl)) ∧
    (¬cond → Runs i s (fun t =>
      taskOf t c sl = some { k with wait := some ⟨w, cause, s.time.ticks⟩ } ∧ OnlySlot s t c sl)) := by
  constructor
  · intro h
    refine ⟨_, hexec, ?_⟩
    rw [waitFor, if_pos (hcond.mpr h)]
    exact ⟨moved_advance rfl, advance_onlySlot (onlySlot_refl s c sl)⟩
  · intro h
    refine ⟨_, hexec, ?_⟩
    rw [waitFor, if_neg (mt hcond.mp h)]
    exact ⟨(taskOf_updTask _).trans (by rw [htask]; rfl), onlySlot_updTask _⟩

/-! ### The conditions -/

theorem waitHolds_tc_iff (i v : Nat) : waitHolds s c sl (.tc i v) = true ↔ v ≤ tcSeen s c i := decide_eq_true_iff

theorem waitHolds_dma_iff (q n : Nat) : waitHolds s c sl (.dma q n) = true ↔ qHeld s c q ≤ n := decide_eq_true_iff

theorem arrQuiet_iff (a : Nat) : arrQuiet s c a = true ↔
    (arrOf s c a).queue = [] ∧ queuedOn s c [a] = [] ∧ ∀ r ∈ runsOn s c [a], r.cmd.kind ≠ .stream := by
  simp [arrQuiet, and_assoc, and_left_comm]

theorem waitHolds_arr_iff (m : Nat) : waitHolds s c sl (.arr m) = true ↔
    ∀ a < 8, tst m a = true → (arrOf s c a).queue = [] ∧ queuedOn s c [a] = [] ∧
      ∀ r ∈ runsOn s c [a], r.cmd.kind ≠ .stream := by
  simp only [waitHolds, List.all_eq_true, List.mem_range, Bool.or_eq_true, Bool.not_eq_true', arrQuiet_iff, or_iff_not_imp_left,
    Bool.not_eq_false]

theorem waitHolds_tide_iff (t : Nat) : waitHolds s c sl (.tide t) = true ↔ t ≤ effTide s := decide_eq_true_iff

theorem waitHolds_slot_iff (k since : Nat) : waitHolds s c sl (.slot k since) = true ↔
    ∃ b, lastSlot s k (effTide s) = some b ∧ since < b := by
  cases h : lastSlot s k (effTide s) <;> simp [waitHolds, h]

/-! ### The wait instructions -/

theorem exec_waittc_of_issues (hi : IssuesReg s c sl 0xC0 f) (hok : f.sub.getLsbD 0 = true ∨ f.ra.toNat < 32)
    (hown : tcOwner s c (f.imm.toNat % 256) = taskJob s c sl) :
    exec (.waittc c sl f) s =
      .next (waitFor s c sl (.tc (f.imm.toNat % 256) (tcOperand s c sl f)) (tcCause f.rc.toNat)) := by
  have howns : ownsTc s c sl (tcIdx f) = true := beq_iff_eq.mpr hown
  have hfields : (f.sub.getLsbD 0 || sOk f.ra) = true := by simpa [sOk] using hok
  refine congrArg Host.Outcome.next ?_
  rw [tcIns_issues hi hfields, if_pos howns]
  rfl

theorem exec_waitdma_of_issues (hi : IssuesReg s c sl 0xC1 f) (hq : f.imm.toNat % 16 < (dmaWindow s c sl).2) :
    exec (.waitdma c sl f) s = .next (waitFor s c sl
      (.dma ((dmaWindow s c sl).1 + f.imm.toNat % 16) (bitsOf f.imm.toNat 63 32)) (dmaCause f.rc.toNat)) := by
  refine congrArg Host.Outcome.next ?_
  rw [scalarIns_issues hi rfl]
  exact if_pos hq

theorem exec_waitarr_of_issues (hi : IssuesReg s c sl 0xC2 f) :
    exec (.waitarr c sl f) s = .next (waitFor s c sl (.arr (f.imm.toNat % 256)) 0) :=
  congrArg Host.Outcome.next (scalarIns_issues hi rfl _)

theorem exec_waittide_of_issues (hi : IssuesReg s c sl 0xC3 f) (hra : f.ra.toNat < 32) :
    exec (.waittide c sl f) s = .next (waitFor s c sl (.tide (sregOf s c sl f.ra.toNat)) 5) :=
  congrArg Host.Outcome.next (scalarIns_issues hi (decide_eq_true hra) _)

theorem exec_waitslot_of_issues (hi : IssuesReg s c sl 0xC4 f) (hen : slotEn s (f.imm.toNat % 8) = true) :
    exec (.waitslot c sl f) s = .next (waitFor s c sl (.slot (f.imm.toNat % 8) s.time.tide) 5) := by
  refine congrArg Host.Outcome.next ?_
  rw [scalarIns_issues hi rfl]
  exact if_pos hen

theorem tcCause_eq (rc : Nat) : tcCause rc = if rc ∈ [2, 3, 4, 12] then rc else 2 := by simp [tcCause]

theorem dmaCause_eq (rc : Nat) : dmaCause rc = if rc ∈ [6, 7, 9] then rc else 7 := by simp [dmaCause]

/-! ### The end of a wait -/

section
variable {k : Task} {w : WaitSt} (htask : taskOf s c sl = some k) (hwait : k.wait = some w)
include htask hwait

theorem exec_waitConditionMet_of_holds (hup : coreUp s c = true) (hturn : slotTurn s c sl = true) (hkind : w.kind ≠ .done)
    (hholds : waitHolds s c sl w.kind = true) :
    exec (.waitConditionMet c sl) s = .next (advance (updTask s c sl (fun t => { t with wait := none })) c sl) := by
  change execWaitConditionMet c sl s = _
  simp [execWaitConditionMet, onlyIf, htask, hwait, hup, hturn, hkind, hholds]

theorem runs_waitConditionMet (hup : coreUp s c = true) (hturn : slotTurn s c sl = true) (hkind : w.kind ≠ .done)
    (hholds : waitHolds s c sl w.kind = true) : Runs (.waitConditionMet c sl) s (fun t =>
      taskOf t c sl = some { k with wait := none, index := (k.index + 1) % idxMod } ∧ OnlySlot s t c sl) := by
  refine ⟨_, exec_waitConditionMet_of_holds htask hwait hup hturn hkind hholds, ?_, advance_onlySlot (onlySlot_updTask _)⟩
  rw [taskOf_advance, taskOf_updTask, htask]
  rfl

/-- The wait has lasted longer than the task allows it (R167). -/
theorem exec_waitLimitExpired :
    exec (.waitLimitExpired c sl) s =
      .next (if limited w.kind = true ∧ k.launch.waitLimit ≠ 0 ∧ 64000 * k.launch.waitLimit < s.time.ticks - w.start then
        abortTask s c sl 0x0F else s) := by
  change execWaitLimitExpired c sl s = _
  simp only [execWaitLimitExpired, onlyIf, htask, hwait, Bool.and_eq_true, decide_eq_true_eq, and_assoc, Nat.lt_sub_iff_add_lt']

end

/-- Settles O6: each wait instruction comes to `waitFor` of its own condition, and a wait that holds a task ends by that condition or by
its limit. -/
theorem waitsHoldAndEnd : Obligations.WaitsHoldAndEnd := by
  refine ⟨fun c sl f s k htask => ⟨fun hi hok hown => ?_, fun hi hq => ?_, fun hi => ?_, fun hi hra => ?_, fun hi hen => ?_⟩,
    fun c sl s k w htask hwait => ⟨runs_waitConditionMet htask hwait, fun hlim hne hlong => ?_, fun hnot => ?_⟩⟩
  · rw [← tcCause_eq]
    exact runs_waitFor htask (exec_waittc_of_issues hi hok hown) (waitHolds_tc_iff ..)
  · rw [← dmaCause_eq]
    exact runs_waitFor htask (exec_waitdma_of_issues hi hq) (waitHolds_dma_iff ..)
  · exact runs_waitFor htask (exec_waitarr_of_issues hi) (waitHolds_arr_iff _)
  · exact runs_waitFor htask (exec_waittide_of_issues hi hra) (waitHolds_tide_iff _)
  · exact runs_waitFor htask (exec_waitslot_of_issues hi hen) (waitHolds_slot_iff ..)
  · exact ⟨_, exec_waitLimitExpired htask hwait, if_pos ⟨hlim, hne, hlong⟩⟩
  · refine ⟨_, exec_waitLimitExpired htask hwait, if_neg fun ⟨hlim, hne, hlong⟩ => ?_⟩
    rcases hnot with hnot | hzero | hshort
    · simp [hlim] at hnot
    · exact hne hzero
    · omega

end Sys2Proof.Machine
end

section
/-!
A load from local SRAM that is not silent (R103, R265, R271). A read corrects every mark of a correctable unit that shares a byte with
its range, and counts each one of HBM; nothing in the state says that such a mark names a unit that HBM has. With one that names the
offsets of local SRAM, SLD counts a corrected unit of HBM.
-/
namespace Sys2Proof.Machine

/-- The fields of an SLD into S1 from the start of local SRAM. -/
def loadFirst : RegForm := { regFields 0 with rd := 1 }

/-- Stage group 0 of job 1 on core 0, with 4 KiB of local SRAM. -/
def oneSplit : Structure := { Structure.init with groups := [⟨0, 1, 0, 0, 1⟩], splits := [⟨0, [1]⟩] }

/-- The module in service. Core 0 holds the load in its primary slot, and a correctable HBM unit is marked at the first offset of the
core's local SRAM. -/
def strayMarked : State :=
  let s := { State.reset with
    pwr := { PwrSt.init with stage := 0 }
    shp := { ShapeSt.init with act := [(1, oneSplit)] }
    ecc := [⟨.hbm (sramBase 0 / 64), false, false⟩] }
  setCore (put (put s .rstStat_in_reset 0) .rstStat_ready 0x1FF) 0 { CoreSt.init with
    prim := { SlotSt.init with task := some ⟨⟨1, 0, 1, false, 0, 0, 0, 0, 0, 0, false⟩, 0, 1, 0, none, none⟩ }
    ibuf := [((1, 0), BitVec.ofNat 128 (regWord 0x2C loadFirst))] }

theorem issuesReg_strayMarked : IssuesReg strayMarked 0 .prim 0x2C loadFirst := by
  unfold IssuesReg Issues
  decide +kernel

/-- The address is a multiple of 8 in the slot's split, and no uncorrectable unit stops the read. -/
theorem address_strayMarked :
    let c : Core := 0
    let a := eaOf strayMarked c .prim loadFirst
    a % 8 = 0 ∧ inSplit strayMarked c .prim a 8 = true ∧ readFault strayMarked (sramBase c + a) 8 = none := by
  decide +kernel

/-- A register field in the state that an outcome goes on to. -/
def shownAfter (f : Fld) (i : Nat) : Host.Outcome State Fault Refusal → Option Nat
  | .next t => some (get t f i)
  | _ => none

/-- The stack to which the module's interleaving takes the marked offset counts one corrected unit more. -/
theorem sld_counts_strayMarked :
    get strayMarked .hbmStack_corrected (stackOf strayMarked (sramBase 0)) = 0 ∧
    shownAfter .hbmStack_corrected (stackOf strayMarked (sramBase 0)) (exec (.sld 0 .prim loadFirst) strayMarked) = some 1 := by
  decide +kernel

/-- Refutes O8: in `strayMarked` an aligned SLD within its split, whose read meets no uncorrectable unit, raises
`HBM_STACK.corrected`, while the statement keeps every register. -/
theorem not_localLoadsAndStores : ¬ Obligations.LocalLoadsAndStores := by
  intro h
  obtain ⟨hload, -⟩ := h 0 .prim loadFirst strayMarked (by decide) (by decide) (by decide)
  obtain ⟨haddr, hsplit, hread⟩ := address_strayMarked
  obtain ⟨hbefore, hafter⟩ := sld_counts_strayMarked
  obtain ⟨t, hexec, -, -, -, -, hkept, -⟩ := hload haddr hsplit hread issuesReg_strayMarked
  rw [hexec] at hafter
  have hsame := hkept .hbmStack_corrected (stackOf strayMarked (sramBase 0)) (List.not_mem_nil)
  rw [hbefore, Option.some.inj hafter] at hsame
  exact absurd hsame (by decide)

end Sys2Proof.Machine
end

section
/-!
The commands of an array: what one that starts or ends comes to (R101, R102, R105, R112 to R119).
-/
namespace Sys2Proof.Machine

/-! ### Commands that start (R101, R102, R105, R114) -/

variable {s : State} {c : Core} {a : ArrId}

theorem exec_arrayCommandStart {q : TCmd} (hnext : nextCmd (arrOf s c a) = some q) (hup : coreUp s c = true)
    (hstart : canStart s c (feederOf s c q.slot) q = true) : exec (.arrayCommandStart c a) s =
      .next (if q.kind = .stream then startStream s c a (feederOf s c q.slot) q else runCmdNow s c a q []) := by
  change execArrayCommandStart c a s = _
  simp only [execArrayCommandStart, hnext, onlyIf, hup, hstart, Bool.and_self, if_true]

/-- A command that starts moves from its array's queue to those that run, and nothing else changes. -/
theorem runCmdNow_leaves (s : State) (c : Core) (a : ArrId) (q : TCmd) (ws : List (Nat × Option Tile)) :
    let t := runCmdNow s c a q ws
    (arrOf t c a).run = (arrOf s c a).run ++ [⟨q, false, [], ws⟩] ∧
    (arrOf t c a).queue = (arrOf s c a).queue.filter (fun p => p.seq != q.seq) ∧
    (∀ b, b ≠ a.val → arrOf t c b = arrOf s c b) ∧ OnlyCore s t c :=
  ⟨congrArg ArrSt.run (arrOf_setArr_same ..), congrArg ArrSt.queue (arrOf_setArr_same ..),
    fun _ hb => arrOf_setArr_ne s c _ hb, onlyCore_setArr (onlyCore_refl s c) _ _⟩

/-- The shadow weights of a part become its active ones, and those of no other part change. -/
theorem copyWeights_leaves (s : State) (c a k : Nat) :
    let t := copyWeights c s (0, a, k)
    mget (some Tile.zero) (arrOf t c a).active k = mget (some Tile.zero) (arrOf s c a).shadow k ∧
    (arrOf t c a).shadow = (arrOf s c a).shadow ∧
    (∀ j, j ≠ k → mget (some Tile.zero) (arrOf t c a).active j = mget (some Tile.zero) (arrOf s c a).active j) ∧
    (∀ b, b ≠ a → arrOf t c b = arrOf s c b) ∧ OnlyCore s t c := by
  intro t
  have harr : arrOf t c a = _ := arrOf_setArr_same ..
  rw [harr]
  exact ⟨mget_mset_same .., rfl, fun j hj => mget_mset_ne _ hj, fun b hb => arrOf_setArr_ne s c _ hb,
    onlyCore_setArr (onlyCore_refl s c) _ _⟩

/-! ### Commands that end (R112, R113, R118, R119) -/

section
variable {r : RunCmd} (hup : coreUp s c = true)
include hup

theorem exec_tloadDone (hrun : firstRun s c a (fun r => decide (r.cmd.kind = .load)) = some r) :
    exec (.tloadDone c a) s =
      .next (endRun (each ((loadParts (isMoonlet (feederOf s c r.cmd.slot) a) r.cmd.form).mapIdx (fun j i => (i, j)))
        (loadTile c r.cmd (isMoonlet (feederOf s c r.cmd.slot) a)) s) c a r.cmd) := by
  change execTloadDone c a s = _
  simp only [execTloadDone, hrun, onlyIf, hup, if_true]

theorem exec_tstreamRowsRead (hrun : firstRun s c a (fun r => decide (r.cmd.kind = .stream) && !r.rowsRead) = some r) {t : State}
    {rows : List (Nat × Option RowData)}
    (hrows : gatherRows c r.cmd (feederOf s c r.cmd.slot) (isMoonlet (feederOf s c r.cmd.slot) a)
      (partsOf (feederOf s c r.cmd.slot) r.cmd) s [] = (t, some rows))
    (hmeets : rows.all (fun d => meets ((d.2.map (·.fmt)).getD r.cmd.form.fmt.toNat) (mget none r.weights d.1)) = true) :
    exec (.tstreamRowsRead c a) s = .next (rowsReadNow t c a r.cmd (feederOf s c r.cmd.slot) rows) := by
  change execTstreamRowsRead c a s = _
  simp only [execTstreamRowsRead, hrun, onlyIf, hup, hrows, hmeets, if_true]

theorem exec_tstreamPassDone (hrun : firstRun s c a (fun r => decide (r.cmd.kind = .stream)) = some r) (hread : r.rowsRead = true)
    (hturn : passTurn s c (runOf (feederOf s c r.cmd.slot) a) r.cmd = true) {t : State}
    (hcodes : arrayCodes s c (runOf (feederOf s c r.cmd.slot) a) true r.cmd.form.bank r.cmd.slot = (t, true)) :
    exec (.tstreamPassDone c a) s = .next (finishPass t c a r (feederOf s c r.cmd.slot)) := by
  change execTstreamPassDone c a s = _
  simp only [execTstreamPassDone, hrun, hup, hread, hturn, hcodes, Bool.and_self, if_true]

theorem exec_tdrainDone (hrun : firstRun s c a (fun r => decide (r.cmd.kind = .drain)) = some r)
    (hturn : drainTurn s c (runOf (feederOf s c r.cmd.slot) a) r.cmd = true) {t : State}
    (hcodes : arrayCodes s c (runOf (feederOf s c r.cmd.slot) a) false r.cmd.form.bank r.cmd.slot = (t, true)) :
    exec (.tdrainDone c a) s = .next (finishDrain t c a r.cmd (feederOf s c r.cmd.slot)) := by
  change execTdrainDone c a s = _
  simp only [execTdrainDone, hrun, hup, hturn, hcodes, Bool.and_self, if_true]

end

/-- Settles O15: a command that starts is moved by `runCmdNow`, a TSTREAM with weights that `copyWeights` has made active, and each end of
a command is its row's own meaning. -/
theorem arrayCommandsRun : Obligations.ArrayCommandsRun := by
  refine ⟨fun c a s q hnext hup hstart hkind => ?_, fun c a s r hup => ⟨fun q hnext hkind hstart => ?_, exec_tloadDone hup,
    fun hrun t rows => exec_tstreamRowsRead hup hrun, fun hrun hread hturn t => exec_tstreamPassDone hup hrun hread hturn,
    fun hrun hturn t => exec_tdrainDone hup hrun hturn⟩, fun c s a k _ => copyWeights_leaves s c a k⟩
  · obtain ⟨hrun, hqueue, hother, hcore⟩ := runCmdNow_leaves s c a q []
    exact ⟨_, (exec_arrayCommandStart hnext hup hstart).trans (congrArg _ (if_neg hkind)), hrun, hqueue, hother, hcore,
      keptRegs_of_onlyCore hcore, keptMem_of_onlyCore hcore⟩
  · exact (exec_arrayCommandStart hnext hup hstart).trans (congrArg _ (if_pos hkind))

end Sys2Proof.Machine
end

section
/-!
The 128-bit words of tensor instructions (R146, R149): fields laid end to end, the lowest first, from which each can be read again.
-/
namespace Sys2Proof.Machine

/-- Numbers laid end to end, the first lowest, each as wide as its list entry says. -/
def packed : List (Nat × Nat) → Nat
  | [] => 0
  | (w, v) :: l => v + 2 ^ w * packed l

/-- Every number fits its width. -/
def Fits (l : List (Nat × Nat)) : Prop := ∀ p ∈ l, p.2 < 2 ^ p.1

theorem packed_lt {l : List (Nat × Nat)} (h : Fits l) : packed l < 2 ^ (l.map (·.1)).sum := by
  induction l with
  | nil => exact Nat.one_pos
  | cons p l ih =>
    obtain ⟨hp, hl⟩ := List.forall_mem_cons.mp h
    rw [List.map_cons, List.sum_cons, pow_add]
    calc packed (p :: l) < 2 ^ p.1 * (packed l + 1) := by rw [packed, Nat.mul_add_one, add_comm]; exact Nat.add_lt_add_left hp _
      _ ≤ 2 ^ p.1 * 2 ^ (l.map (·.1)).sum := Nat.mul_le_mul_left _ (ih hl)

/-- Fields of the same widths are read again from what they are packed into. -/
theorem eq_of_packed_eq {l m : List (Nat × Nat)} (hl : Fits l) (hm : Fits m) (hw : l.map (·.1) = m.map (·.1))
    (h : packed l = packed m) : l = m := by
  induction l generalizing m with
  | nil => exact (List.map_eq_nil_iff.mp hw.symm).symm
  | cons p l ih =>
    cases m with
    | nil => cases hw
    | cons q m =>
      obtain ⟨w, v⟩ := p
      obtain ⟨w', v'⟩ := q
      obtain ⟨rfl, hws⟩ := List.cons.inj hw
      obtain ⟨hv, hl⟩ := List.forall_mem_cons.mp hl
      obtain ⟨hv', hm⟩ := List.forall_mem_cons.mp hm
      have hlow := congrArg (· % 2 ^ w) h
      have hhigh := congrArg (· / 2 ^ w) h
      simp only [packed, Nat.add_mul_mod_self_left, Nat.mod_eq_of_lt hv, Nat.mod_eq_of_lt hv',
        Nat.add_mul_div_left _ _ (Nat.two_pow_pos w), Nat.div_eq_of_lt hv, Nat.div_eq_of_lt hv', Nat.zero_add] at hlow hhigh
      rw [hlow, ih hl hm hws hhigh]

/-- The fields of a tensor word, in order, with their widths. -/
def tensorParts (op : Nat) (f : TensorForm) : List (Nat × Nat) :=
  [(8, op), (3, f.pred.toNat), (1, bit f.pneg), (4, f.rsv0.toNat), (3, f.array.toNat), (4, f.fmt.toNat), (2, f.smode.toNat),
    (2, f.rnd.toNat), (1, bit f.first), (1, bit f.bank), (1, bit f.tcEn), (8, f.tc.toNat), (12, f.moon.toNat), (5, f.sreg.toNat),
    (9, f.rsv1.toNat), (22, f.addr.toNat), (22, f.bsaddr.toNat), (9, f.rows.toNat), (9, f.stride.toNat), (2, f.rsv2.toNat)]

theorem tensorWord_eq_packed (op : Nat) (f : TensorForm) : tensorWord op f = packed (tensorParts op f) := by
  simp only [tensorWord, tensorParts, packed]
  ring

theorem bit_lt_two (b : Bool) : bit b < 2 ^ 1 := by cases b <;> decide

theorem bit_injective : Function.Injective bit := by decide

theorem fits_tensorParts {op : Nat} (h : op < 256) (f : TensorForm) : Fits (tensorParts op f) := by
  simp only [Fits, tensorParts, List.forall_mem_cons, List.not_mem_nil, false_implies, implies_true, and_true, bit_lt_two,
    BitVec.isLt]
  exact h

theorem tensorParts_injective {op b : Nat} {f g : TensorForm} (h : tensorParts op f = tensorParts b g) : op = b ∧ f = g := by
  obtain ⟨⟩ := f
  obtain ⟨⟩ := g
  simpa [tensorParts, bit_injective.eq_iff, BitVec.toNat_inj] using h

theorem tensorWord_lt {op : Nat} (h : op < 256) (f : TensorForm) : tensorWord op f < 2 ^ 128 := by
  have hwidth : ((tensorParts op f).map (·.1)).sum = 128 := by simp [tensorParts]
  rw [tensorWord_eq_packed, ← hwidth]
  exact packed_lt (fits_tensorParts h f)

theorem tensorWord_injective {op b : Nat} {f g : TensorForm} (ho : op < 256) (hb : b < 256)
    (h : tensorWord op f = tensorWord b g) : op = b ∧ f = g := by
  rw [tensorWord_eq_packed, tensorWord_eq_packed] at h
  exact tensorParts_injective (eq_of_packed_eq (fits_tensorParts ho f) (fits_tensorParts hb g) rfl h)

end Sys2Proof.Machine
end

section
/-!
Tensor instructions (R101, R147, R149, R203, R205): one that issues puts one command into the queue of its array, or is skipped.
-/
namespace Sys2Proof.Machine

variable {s t u : State} {c : Core} {sl : Slot} {f : TensorForm}

/-! ### What goes with a command's issue -/

/-- The commands that wait and run in a core's arrays, and a slot's registers and task, are as they were; no other core changed. -/
structure KeptCmds (s t : State) (c : Nat) (sl : Slot) : Prop where
  queue : ∀ b, (arrOf t c b).queue = (arrOf s c b).queue
  run : ∀ b, (arrOf t c b).run = (arrOf s c b).run
  sreg : ∀ r, sregOf t c sl r = sregOf s c sl r
  task : taskOf t c sl = taskOf s c sl
  core : OnlyCore s t c

section
variable {c : Nat}

theorem keptCmds_refl (s : State) (c : Nat) (sl : Slot) : KeptCmds s s c sl :=
  ⟨fun _ => rfl, fun _ => rfl, fun _ => rfl, rfl, onlyCore_refl s c⟩

theorem keptCmds_trans (hst : KeptCmds s t c sl) (htu : KeptCmds t u c sl) : KeptCmds s u c sl :=
  ⟨fun b => (htu.queue b).trans (hst.queue b), fun b => (htu.run b).trans (hst.run b), fun r => (htu.sreg r).trans (hst.sreg r),
    htu.task.trans hst.task, onlyCore_trans hst.core htu.core⟩

/-- A slot's update that keeps its registers and its task. -/
theorem keptCmds_setSlot {x : SlotSt} (hsreg : x.sreg = (slotOf s c sl).sreg) (htask : x.task = (slotOf s c sl).task) :
    KeptCmds s (setSlot s c sl x) c sl :=
  ⟨fun b => by rw [arrOf_setSlot], fun b => by rw [arrOf_setSlot], fun r => by rw [sregOf, sregOf, slotOf_setSlot_same, hsreg],
    (congrArg SlotSt.task (slotOf_setSlot_same ..)).trans htask, onlyCore_setSlot (onlyCore_refl s c) sl x⟩

theorem keptCmds_bumpSent (s : State) (c : Nat) (sl : Slot) (a : Nat) : KeptCmds s (bumpSent c sl s a) c sl := by
  have harr (b : Nat) : (arrOf (bumpSent c sl s a) c b).queue = (arrOf s c b).queue ∧
      (arrOf (bumpSent c sl s a) c b).run = (arrOf s c b).run := by
    unfold bumpSent
    by_cases hb : b = a
    · subst hb
      rw [arrOf_setArr_same]
      exact ⟨rfl, rfl⟩
    · rw [arrOf_setArr_ne _ _ _ hb]
      exact ⟨rfl, rfl⟩
  have hslot : slotOf (bumpSent c sl s a) c sl = slotOf s c sl := slotOf_setArr ..
  exact ⟨fun b => (harr b).1, fun b => (harr b).2, fun r => by rw [sregOf, sregOf, hslot], congrArg SlotSt.task hslot,
    onlyCore_setArr (onlyCore_refl s c) _ _⟩

theorem keptCmds_each_bumpSent (mem : List Nat) (h : KeptCmds s t c sl) : KeptCmds s (each mem (bumpSent c sl) t) c sl := by
  induction mem generalizing t with
  | nil => exact h
  | cons a mem ih => exact ih (keptCmds_trans h (keptCmds_bumpSent t c sl a))

end

/-! ### The command that issues -/

/-- The command that a tensor instruction puts into the queue, with all it carries from its issue (R205). -/
def issuedCmd (s : State) (c : Nat) (sl : Slot) (kind : TKind) (l : List (Nat × Bool × Bool)) (f : TensorForm) : TCmd :=
  { kind := kind, slot := sl, job := taskJob s c sl, form := f, tag := tagOf s c sl,
    scales := BitVec.ofNat 64 (sregOf s c sl f.sreg.toNat), key := (slotOf s c sl).key, next := (slotOf s c sl).next,
    seq := (coreOf s c).nextId, ords := (runOf l f.array.toNat).map (fun b => sentOf s c b sl),
    tile := sampleOf s c sl l f (mget 0 (slotOf s c sl).tiles f.array.toNat), torn := false }

/-- The command waits last in its array's queue, and the core's next one has the next place in issue order. -/
def cmdJoined (s : State) (c : Nat) (q : TCmd) : State :=
  let s1 := setCore s c { coreOf s c with nextId := (coreOf s c).nextId + 1 }
  setArr s1 c q.form.array.toNat { arrOf s1 c q.form.array.toNat with queue := (arrOf s1 c q.form.array.toNat).queue ++ [q] }

theorem arrOf_setCore_nextId (s : State) (c b n : Nat) : arrOf (setCore s c { coreOf s c with nextId := n }) c b = arrOf s c b := by
  rw [arrOf, coreOf_setCore_same, arrOf]

theorem slotOf_cmdJoined (s : State) (c : Nat) (q : TCmd) (sl : Slot) : slotOf (cmdJoined s c q) c sl = slotOf s c sl := by
  rw [cmdJoined, slotOf_setArr, slotOf, coreOf_setCore_same]
  cases sl <;> rfl

theorem arrOf_cmdJoined_same (s : State) (c : Nat) (q : TCmd) : arrOf (cmdJoined s c q) c q.form.array.toNat =
    { arrOf s c q.form.array.toNat with queue := (arrOf s c q.form.array.toNat).queue ++ [q] } := by
  rw [cmdJoined, arrOf_setArr_same, arrOf_setCore_nextId]

theorem arrOf_cmdJoined_ne (s : State) (c : Nat) (q : TCmd) {b : Nat} (hb : b ≠ q.form.array.toNat) :
    arrOf (cmdJoined s c q) c b = arrOf s c b := by
  rw [cmdJoined, arrOf_setArr_ne _ _ _ hb, arrOf_setCore_nextId]

theorem run_cmdJoined (s : State) (c : Nat) (q : TCmd) (b : Nat) : (arrOf (cmdJoined s c q) c b).run = (arrOf s c b).run := by
  by_cases hb : b = q.form.array.toNat
  · rw [hb, arrOf_cmdJoined_same]
  · rw [arrOf_cmdJoined_ne s c q hb]

/-- What an issue counts beside its command: the TSTREAMs of a run, the first chunks of an array, and the draws of a TDRAIN from the
generator (R123, R203, R223). -/
def issueCounted (t : State) (c : Nat) (sl : Slot) (kind : TKind) (l : List (Nat × Bool × Bool)) (f : TensorForm) (next : Word) :
    State :=
  let t1 := if kind = .stream then each (runOf l f.array.toNat) (bumpSent c sl) t else t
  let t2 := if f.first then bumpTiles t1 c sl f.array.toNat else t1
  if kind = .drain ∧ f.rnd = 2 then
    setSlot t2 c sl { slotOf t2 c sl with next := next + BitVec.ofNat 64 (32 * f.rows.toNat) }
  else t2

theorem keptCmds_issueCounted (t : State) (c : Nat) (sl : Slot) (kind : TKind) (l : List (Nat × Bool × Bool)) (f : TensorForm)
    (next : Word) : KeptCmds t (issueCounted t c sl kind l f next) c sl := by
  unfold issueCounted
  extract_lets t1 t2
  have hsent : KeptCmds t t1 c sl := by
    unfold t1
    split
    · exact keptCmds_each_bumpSent _ (keptCmds_refl t c sl)
    · exact keptCmds_refl t c sl
  have htiles : KeptCmds t t2 c sl := by
    unfold t2
    split
    · exact keptCmds_trans hsent (keptCmds_setSlot rfl rfl)
    · exact hsent
  split
  · exact keptCmds_trans htiles (keptCmds_setSlot rfl rfl)
  · exact htiles

theorem enqueue_eq_advance (s : State) (c : Nat) (sl : Slot) (kind : TKind) (l : List (Nat × Bool × Bool)) (f : TensorForm) :
    enqueue s c sl kind l f =
      advance (issueCounted (cmdJoined s c (issuedCmd s c sl kind l f)) c sl kind l f (slotOf s c sl).next) c sl := rfl

theorem onlyCore_cmdJoined (s : State) (c : Nat) (q : TCmd) : OnlyCore s (cmdJoined s c q) c :=
  onlyCore_setArr (onlyCore_setCore (onlyCore_refl s c) _) _ _

/-- What a tensor instruction leaves that puts a command into the queue of its array. -/
def CmdQueued (s : State) (c : Core) (sl : Slot) (kind : TKind) (f : TensorForm) (t : State) : Prop :=
  ∃ q : TCmd, (arrOf t c f.array.toNat).queue = (arrOf s c f.array.toNat).queue ++ [q] ∧ q.kind = kind ∧ q.slot = sl ∧
    q.job = taskJob s c sl ∧ q.form = f ∧ q.tag = tagOf s c sl ∧ q.key = (slotOf s c sl).key ∧
    q.next = (slotOf s c sl).next ∧ q.scales.toNat = sregOf s c sl f.sreg.toNat ∧
    (∀ b, b ≠ f.array.toNat → (arrOf t c b).queue = (arrOf s c b).queue) ∧ (∀ b, (arrOf t c b).run = (arrOf s c b).run) ∧
    (∀ r, sregOf t c sl r = sregOf s c sl r) ∧ Moved s t c sl 1 ∧ OnlyCore s t c ∧ KeptRegs s t [] ∧ KeptMem s t

theorem cmdQueued_enqueue (s : State) (c : Core) (sl : Slot) (kind : TKind) (l : List (Nat × Bool × Bool)) (f : TensorForm) :
    CmdQueued s c sl kind f (enqueue s c sl kind l f) := by
  let q := issuedCmd s c sl kind l f
  let u := issueCounted (cmdJoined s c q) c sl kind l f (slotOf s c sl).next
  have hkept : KeptCmds (cmdJoined s c q) u c sl := keptCmds_issueCounted ..
  have hslot : slotOf (cmdJoined s c q) c sl = slotOf s c sl := slotOf_cmdJoined s c q sl
  have hcore : OnlyCore s (advance u c sl) c := onlyCore_setSlot (onlyCore_trans (onlyCore_cmdJoined s c q) hkept.core) sl _
  rw [enqueue_eq_advance]
  refine ⟨q, ?_, rfl, rfl, rfl, rfl, rfl, rfl, rfl, ?_, fun b hb => ?_, fun b => ?_, fun r => ?_, ?_, hcore,
    keptRegs_of_onlyCore hcore, keptMem_of_onlyCore hcore⟩
  · rw [arrOf_advance, hkept.queue]
    exact congrArg ArrSt.queue (arrOf_cmdJoined_same s c q)
  · exact (BitVec.toNat_ofNat ..).trans (Nat.mod_eq_of_lt (sregOf_lt ..))
  · rw [arrOf_advance, hkept.queue, arrOf_cmdJoined_ne s c q hb]
  · rw [arrOf_advance, hkept.run, run_cmdJoined]
  · rw [sregOf_advance, hkept.sreg, sregOf, sregOf, hslot]
  · exact moved_advance (hkept.task.trans (congrArg SlotSt.task hslot))

/-! ### The tensor instructions -/

section
variable {op : Nat} {kind : TKind} {i : Instr} {ok : List (Nat × Bool × Bool) → Bool} {scales : State → Bool}
  (hexec : exec i s = .next (tensorIns op kind c sl f ok scales s)) (hi : Issues s c sl (tensorWord op f))
  (hok : ok (feederOf s c sl) = true) (hpol : polStrict s c sl = false)
include hexec hi hok hpol

theorem runs_tensorIns_queued (hon : enabled s c sl f.pred f.pneg = true) (hroom : (arrOf s c f.array.toNat).queue.length < 4)
    (hscales : scales s = true)
    (hsplit : (tensorRanges kind (feederOf s c sl) f).all (fun r => inSplit s c sl r.1 r.2) = true)
    (hown : f.tcEn = true → tcOwner s c f.tc.toNat = taskJob s c sl) : Runs i s (CmdQueued s c sl kind f) := by
  have howns : (!f.tcEn || ownsTc s c sl f.tc.toNat) = true := by
    cases htc : f.tcEn with
    | false => rfl
    | true => exact beq_iff_eq.mpr (hown htc)
  refine ⟨_, hexec, ?_⟩
  rw [tensorIns, sequence_issues hi]
  simp only [hok, hpol, hon, hscales, hsplit, howns, Nat.not_le.mpr hroom, Bool.not_false, Bool.not_true, Bool.and_self, if_true,
    if_false, Bool.false_eq_true]
  exact cmdQueued_enqueue ..

theorem runs_tensorIns_skipped (hoff : enabled s c sl f.pred f.pneg = false) : Runs i s (fun t =>
    (∀ b, arrOf t c b = arrOf s c b) ∧ (∀ r, sregOf t c sl r = sregOf s c sl r) ∧ Moved s t c sl 1 ∧ OnlySlot s t c sl ∧
    KeptRegs s t [] ∧ KeptMem s t) := by
  have honly : OnlySlot s (advance s c sl) c sl := advance_onlySlot (onlySlot_refl s c sl)
  refine ⟨_, hexec, ?_⟩
  rw [tensorIns, sequence_issues hi]
  simp only [hok, hpol, hoff, Bool.not_false, Bool.and_self, if_true, if_false, Bool.false_eq_true]
  exact ⟨fun b => arrOf_advance .., fun r => sregOf_advance .., moved_advance rfl, honly, keptRegs_of_onlyCore honly.1,
    keptMem_of_onlyCore honly.1⟩

end

/-- Settles O14: each tensor instruction is `tensorIns` with its own fields and scales, and its word is packed from its fields. -/
theorem tensorCommandsQueue : Obligations.TensorCommandsQueue := by
  refine fun c sl f s => ⟨fun hi hok hpol hon hroom hsplit hown => ?_, fun hi hok hpol hon hroom hsplit hown => ?_,
    fun hi hok hpol hon hroom hsplit hown => ?_, ?skipped,
    fun op b g ho hb => ⟨tensorWord_lt ho f, tensorWord_injective ho hb⟩⟩
  · exact runs_tensorIns_queued (ok := fun _ => tloadOk f) rfl hi hok hpol hon hroom rfl hsplit hown
  · exact runs_tensorIns_queued (ok := fun l => tstreamOk l f) rfl hi hok hpol hon hroom rfl hsplit hown
  · obtain ⟨hok, hscales⟩ := Bool.and_eq_true_iff.mp hok
    exact runs_tensorIns_queued (ok := fun _ => tdrainOk f) rfl hi hok hpol hon hroom hscales hsplit hown
  case skipped =>
    refine List.forall_mem_cons.mpr ⟨fun hi hok => ?_, List.forall_mem_cons.mpr ⟨fun hi hok => ?_,
      List.forall_mem_singleton.mpr fun hi hok => ?_⟩⟩
    · exact runs_tensorIns_skipped (ok := fun _ => tloadOk f) rfl hi hok
    · exact runs_tensorIns_skipped (ok := fun l => tstreamOk l f) rfl hi hok
    · exact runs_tensorIns_skipped (ok := fun _ => tdrainOk f) rfl hi hok

end Sys2Proof.Machine
end

section
/-!
The arrays' column sums (R106 to R108).
-/
namespace Sys2Proof.Machine

theorem colSum_append_singleton (start : Sum) (l : List (Num × Num)) (p : Num × Num) :
    colSum start (l ++ [p]) = colSum (colSum start l) [p] :=
  List.foldl_append

/-- A 48-bit addition holds at the bounds of its range, and tells whether it did (R108). -/
theorem arrAddInt_eq_clamp (x p : Int) : arrAddInt x p =
    (max (-2 ^ 47) (min (2 ^ 47 - 1) (x + p)), if x + p < -2 ^ 47 ∨ 2 ^ 47 - 1 < x + p then 1 else 0) := by
  unfold arrAddInt
  split
  · next hhigh => rw [if_pos (.inr hhigh), min_eq_left (le_of_lt hhigh)]; rfl
  · next hhigh =>
    split
    · next hlow => rw [if_pos (.inl hlow), min_eq_right (not_lt.mp hhigh), max_eq_left (le_of_lt hlow)]
    · next hlow => rw [if_neg (not_or.mpr ⟨hlow, hhigh⟩), min_eq_right (not_lt.mp hhigh), max_eq_right (not_lt.mp hlow)]

/-- Settles O16: one product more is one step more of the fold, by the kind of the entry that the sum has reached. -/
theorem columnSumsAscend : Obligations.ColumnSumsAscend := by
  intro start l x w
  rw [colSum_append_singleton]
  obtain ⟨entry, cnt, sat⟩ := colSum start l
  cases entry with
  | fp b => rfl
  | int v => simp [colSum, arrAddInt_eq_clamp]
  | undef => rfl

end Sys2Proof.Machine
end

section
/-!
The register form of an instruction word (R146): where its fields stand, and that a core instruction runs as its own word alone.
-/
namespace Sys2Proof.Machine

/-! ### Packed words, field by field -/

/-- A field of a packed word stands above those before it. -/
theorem packed_field {l : List (Nat × Nat)} (h : Fits l) {k w v : Nat} (hk : l[k]? = some (w, v)) :
    packed l / 2 ^ ((l.map (·.1)).take k).sum % 2 ^ w = v := by
  induction l generalizing k with
  | nil => cases hk
  | cons p l ih =>
    obtain ⟨hp, hl⟩ := List.forall_mem_cons.mp h
    cases k with
    | zero =>
      obtain rfl : p = (w, v) := Option.some.inj hk
      change (v + 2 ^ w * packed l) / 1 % 2 ^ w = v
      rw [Nat.div_one, Nat.add_mul_mod_self_left, Nat.mod_eq_of_lt hp]
    | succ k =>
      rw [List.map_cons, List.take_succ_cons, List.sum_cons, pow_add, ← Nat.div_div_eq_div_mul, packed,
        Nat.add_mul_div_left _ _ (Nat.two_pow_pos _), Nat.div_eq_of_lt hp, Nat.zero_add]
      exact ih hl hk

theorem bitsOf_packed {l : List (Nat × Nat)} (h : Fits l) {k hi lo v : Nat} (hk : l[k]? = some (hi + 1 - lo, v))
    (hlo : ((l.map (·.1)).take k).sum = lo) : bitsOf (packed l) hi lo = v := by
  rw [← hlo] at hk ⊢
  exact packed_field h hk

theorem tst_packed {l : List (Nat × Nat)} (h : Fits l) {k i : Nat} {b : Bool} (hk : l[k]? = some (1, bit b))
    (hi : ((l.map (·.1)).take k).sum = i) : tst (packed l) i = b := by
  have hfield := packed_field h hk
  rw [hi, pow_one] at hfield
  rw [tst, Nat.testBit_eq_decide_div_mod_eq, hfield]
  cases b <;> rfl

/-- A number cut into fields of the widths given, the lowest first. -/
def unpacked : List Nat → Nat → List (Nat × Nat)
  | [], _ => []
  | w :: ws, n => (w, n % 2 ^ w) :: unpacked ws (n / 2 ^ w)

theorem packed_unpacked (ws : List Nat) (n : Nat) : packed (unpacked ws n) = n % 2 ^ ws.sum := by
  induction ws generalizing n with
  | nil => exact (Nat.mod_one n).symm
  | cons w ws ih => rw [unpacked, packed, ih, List.sum_cons, pow_add, Nat.mod_mul]

theorem bit_tst (n i : Nat) : bit (tst n i) = n / 2 ^ i % 2 := by
  rw [tst, Nat.testBit_eq_decide_div_mod_eq]
  rcases Nat.mod_two_eq_zero_or_one (n / 2 ^ i) with h | h <;> simp [h, bit]

/-! ### The register form -/

/-- The widths of the fields of a register word, in order (R146). -/
def regWidths : List Nat := [8, 3, 1, 4, 6, 6, 6, 6, 4, 2, 2, 4, 12, 64]

/-- The fields of a register word, in order, with their widths. -/
def regParts (op : Nat) (f : RegForm) : List (Nat × Nat) :=
  regWidths.zip [op, f.pred.toNat, bit f.pneg, f.rsv0.toNat, f.rd.toNat, f.ra.toNat, f.rb.toNat, f.rc.toNat, f.fmt.toNat,
    f.smode.toNat, f.rnd.toNat, f.sub.toNat, f.rsv1.toNat, f.imm.toNat]

theorem regWord_eq_packed (op : Nat) (f : RegForm) : regWord op f = packed (regParts op f) := by
  simp only [regWord, regParts, regWidths, List.zip_cons_cons, List.zip_nil_right, packed]
  ring

theorem fits_regParts {op : Nat} (h : op < 256) (f : RegForm) : Fits (regParts op f) := by
  simp only [Fits, regParts, regWidths, List.zip_cons_cons, List.zip_nil_right, List.forall_mem_cons, List.not_mem_nil, false_implies,
    implies_true, and_true, bit_lt_two, BitVec.isLt]
  exact h

theorem regParts_injective {op b : Nat} {f g : RegForm} (h : regParts op f = regParts b g) : op = b ∧ f = g := by
  obtain ⟨⟩ := f
  obtain ⟨⟩ := g
  simpa [regParts, regWidths, bit_injective.eq_iff, BitVec.toNat_inj] using h

theorem regWord_lt {op : Nat} (h : op < 256) (f : RegForm) : regWord op f < 2 ^ 128 := by
  have hwidth : ((regParts op f).map (·.1)).sum = 128 := by simp [regParts, regWidths]
  rw [regWord_eq_packed, ← hwidth]
  exact packed_lt (fits_regParts h f)

theorem regWord_injective {op b : Nat} {f g : RegForm} (ho : op < 256) (hb : b < 256) (h : regWord op f = regWord b g) :
    op = b ∧ f = g := by
  rw [regWord_eq_packed, regWord_eq_packed] at h
  exact regParts_injective (eq_of_packed_eq (fits_regParts ho f) (fits_regParts hb g) rfl h)

theorem regParts_regFields (n : Nat) : regParts (n % 256) (regFields n) = unpacked regWidths n := by
  simp [regParts, regFields, regWidths, unpacked, bitsOf, bit_tst, Nat.div_div_eq_div_mul]

/-- Every 128-bit word is the word of its lowest byte and its fields. -/
theorem regWord_regFields {n : Nat} (h : n < 2 ^ 128) : regWord (n % 256) (regFields n) = n := by
  rw [regWord_eq_packed, regParts_regFields, packed_unpacked]
  exact Nat.mod_eq_of_lt h

theorem bitsOf_regParts {op : Nat} (ho : op < 256) {f : RegForm} {k hi lo v : Nat}
    (hk : (regParts op f)[k]? = some (hi + 1 - lo, v)) (hlo : (regWidths.take k).sum = lo) :
    bitsOf (packed (regParts op f)) hi lo = v := bitsOf_packed (fits_regParts ho f) hk hlo

/-- Where each field of a register word stands (R146). -/
theorem regWord_fields {op : Nat} (ho : op < 256) (f : RegForm) : let w := regWord op f
    w < 2 ^ 128 ∧ bitsOf w 7 0 = op ∧ bitsOf w 10 8 = f.pred.toNat ∧ tst w 11 = f.pneg ∧ bitsOf w 15 12 = f.rsv0.toNat ∧
    bitsOf w 21 16 = f.rd.toNat ∧ bitsOf w 27 22 = f.ra.toNat ∧ bitsOf w 33 28 = f.rb.toNat ∧ bitsOf w 39 34 = f.rc.toNat ∧
    bitsOf w 43 40 = f.fmt.toNat ∧ bitsOf w 45 44 = f.smode.toNat ∧ bitsOf w 47 46 = f.rnd.toNat ∧ bitsOf w 51 48 = f.sub.toNat ∧
    bitsOf w 63 52 = f.rsv1.toNat ∧ bitsOf w 127 64 = f.imm.toNat := by
  refine ⟨regWord_lt ho f, ?_⟩
  rw [regWord_eq_packed]
  exact ⟨bitsOf_regParts ho (k := 0) rfl rfl, bitsOf_regParts ho (k := 1) rfl (by decide),
    tst_packed (fits_regParts ho f) (k := 2) rfl rfl, bitsOf_regParts ho (k := 3) rfl (by decide),
    bitsOf_regParts ho (k := 4) rfl (by decide), bitsOf_regParts ho (k := 5) rfl (by decide),
    bitsOf_regParts ho (k := 6) rfl (by decide), bitsOf_regParts ho (k := 7) rfl (by decide),
    bitsOf_regParts ho (k := 8) rfl (by decide), bitsOf_regParts ho (k := 9) rfl (by decide),
    bitsOf_regParts ho (k := 10) rfl (by decide), bitsOf_regParts ho (k := 11) rfl (by decide),
    bitsOf_regParts ho (k := 12) rfl (by decide), bitsOf_regParts ho (k := 13) rfl (by decide)⟩

/-- Bits [15:0] of a tensor word stand as those of every instruction (R146). -/
theorem tensorWord_fields {op : Nat} (ho : op < 256) (f : TensorForm) : let w := tensorWord op f
    bitsOf w 7 0 = op ∧ bitsOf w 10 8 = f.pred.toNat ∧ tst w 11 = f.pneg ∧ bitsOf w 15 12 = f.rsv0.toNat := by
  have hfits := fits_tensorParts ho f
  rw [tensorWord_eq_packed]
  exact ⟨bitsOf_packed hfits (k := 0) rfl rfl, bitsOf_packed hfits (k := 1) rfl rfl, tst_packed hfits (k := 2) rfl rfl,
    bitsOf_packed hfits (k := 3) rfl rfl⟩

/-- The class of a word is the top three bits of its opcode. -/
theorem class_of_opcode {w op : Nat} (h : bitsOf w 7 0 = op) : bitsOf w 7 5 = op / 32 := by
  rw [← h]
  change w / 2 ^ 5 % 2 ^ 3 = w / 1 % 2 ^ 8 / 2 ^ 5
  omega

end Sys2Proof.Machine
end

section
/-!
The instructions of a core: each checks its fields where it issues (R148), and each runs as the word that its opcode and its fields
make, and as no other (R146).
-/
namespace Sys2Proof.Machine

variable {s : State} {c : Core} {sl : Slot}

/-! ### A word that is not the next one -/

/-- A line that the buffer holds without a parity error is not fetched. -/
theorem needLine_of_line {w : BitVec 128} (hline : lineOf s c sl = some w) (hgood : IbufGood s c = true) :
    needLine s c sl = s := by
  have hclean (job pc : Nat) : s.ecc.any (fun m => m.unit == EccUnit.ibuf c job pc) = false := by
    refine List.any_eq_false.mpr fun m hm hu => ?_
    have hbuf := List.all_eq_true.mp hgood m hm
    rw [beq_iff_eq.mp hu] at hbuf
    exact bne_iff_ne.mp hbuf rfl
  have hparity : ibufParity s c sl = s := by
    unfold ibufParity
    split
    · rfl
    · exact if_neg (by simp [hclean])
  rw [needLine, hparity, hline]
  rfl

/-- An instruction whose word is not that of the line at hand does nothing (log entry 70). -/
theorem sequence_of_other_word {w : BitVec 128} {v : Nat} (hv : v < 2 ^ 128) (hline : lineOf s c sl = some w)
    (hgood : IbufGood s c = true) (hne : w.toNat ≠ v) (body : State → State) : sequence s c sl v body = s := by
  have hother : issues s c sl v = false := by
    refine Bool.and_eq_false_imp.mpr fun _ => decide_eq_false fun he => hne ?_
    rw [hline] at he
    rw [Option.some.inj he, BitVec.toNat_ofNat, Nat.mod_eq_of_lt hv]
  simp only [sequence, needLine_of_line hline hgood, hother, Bool.false_eq_true, if_false, ite_self]

/-! ### The rows of the opcode table that take the register form -/

/-- An instruction of the register form with its opcode. -/
abbrev RegRowOf := (Core → Slot → RegForm → Instr) × Nat

def controlRows : List RegRowOf := [(.nop, 0x00), (.endInstr, 0x01), (.br, 0x02), (.loop, 0x03), (.event, 0x04)]

def aluRows : List RegRowOf :=
  [(.smovi, 0x20), (.sadd, 0x21), (.ssub, 0x22), (.smul, 0x23), (.sand, 0x24), (.sor, 0x25), (.sxor, 0x26), (.sshl, 0x27),
    (.sshr, 0x28), (.ssra, 0x29)]

def predRows : List RegRowOf := [(.scmp, 0x2A), (.plog, 0x2B)]

def localRows : List RegRowOf := [(.sld, 0x2C), (.sst, 0x2D)]

def infoRows : List RegRowOf := [(.sinfo, 0x2E)]

def vectorRows : List RegRowOf :=
  [(.vld, 0x60), (.vst, 0x61), (.vadd, 0x62), (.vsub, 0x63), (.vmul, 0x64), (.vfma, 0x65), (.vmax, 0x66), (.vmin, 0x67),
    (.vabs, 0x68), (.vneg, 0x69), (.vmov, 0x6A), (.vcmp, 0x6B), (.vbcast, 0x6C), (.vshuf, 0x6D), (.vred, 0x6E), (.vdiv, 0x6F),
    (.vsqrt, 0x70), (.vexp, 0x71), (.vlog, 0x72), (.vrcp, 0x73), (.vrsq, 0x74)]

def dmaRows : List RegRowOf := [(.dmaq, 0x80), (.dmaf, 0x81)]

def tcRows : List RegRowOf := [(.tcset, 0xA0), (.tcadd, 0xA1), (.tcrd, 0xA2)]

def waitRows : List RegRowOf := [(.waittc, 0xC0), (.waitdma, 0xC1), (.waitarr, 0xC2), (.waittide, 0xC3), (.waitslot, 0xC4)]

def convertRows : List RegRowOf := [(.vcvt, 0xE0)]

def seedRows : List RegRowOf := [(.vseed, 0xE1)]

def drawRows : List RegRowOf := [(.vrng, 0xE2)]

def tagRows : List RegRowOf := [(.ntag, 0xE3), (.nmaxr, 0xE4)]

/-! ### What they check (R148) -/

/-- The instruction checks its fields where it issues, and aborts its task where they do not hold (R148). -/
def ChecksFields (x : RegRowOf) : Prop :=
  ∀ (c : Core) (sl : Slot) (f : RegForm) (s : State), ∃ (stoch ok : State → Bool) (body : State → State),
    exec (x.1 c sl f) s = .next (sequence s c sl (regWord x.2 f) (fun u =>
      if regOk f (stoch u) && ok u then body u else abortTask u c sl 0x0B))

/-- The instruction is skipped as a whole where its predicate is false, and what it checks of its own fields holds where they all
name scalar registers. -/
def ScalarForm (x : RegRowOf) : Prop :=
  ∀ (c : Core) (sl : Slot) (f : RegForm) (s : State), ∃ (ok : State → Bool) (body : State → State),
    exec (x.1 c sl f) s = .next (scalarIns x.2 c sl f ok body s) ∧
    (f.rd.toNat < 32 → f.ra.toNat < 32 → f.rb.toNat < 32 → f.rc.toNat < 32 → ok s = true)

/-- The instruction writes one scalar register, and what it checks of its other fields holds where they name scalar registers. -/
def ScalarOutForm (x : RegRowOf) : Prop :=
  ∀ (c : Core) (sl : Slot) (f : RegForm) (s : State), ∃ (ok : State → Bool) (v : State → Nat),
    exec (x.1 c sl f) s = .next (scalarOut x.2 c sl f ok v s) ∧ (f.ra.toNat < 32 → f.rb.toNat < 32 → ok s = true)

/-- The instruction is one of the vector class or a conversion. -/
def VectorForm (x : RegRowOf) : Prop :=
  ∀ (c : Core) (sl : Slot) (f : RegForm) (s : State), ∃ (stoch ok : State → Bool) (srcs dsts : List (BitVec 6)) (inPart : Bool)
    (body : State → State), exec (x.1 c sl f) s = .next (vecIns x.2 c sl f stoch ok srcs dsts inPart body s)

theorem scalarForm_of_out {x : RegRowOf} (h : ScalarOutForm x) : ScalarForm x := fun c sl f s =>
  let ⟨_, _, hexec, hok⟩ := h c sl f s
  ⟨_, _, hexec, fun hd ha hb _ => by simp [sOk, hd, hok ha hb]⟩

theorem checksFields_of_scalarForm {rows : List RegRowOf} (h : ∀ x ∈ rows, ScalarForm x) : ∀ x ∈ rows, ChecksFields x :=
  fun x hx c sl f s =>
    let ⟨ok, _, hexec, _⟩ := h x hx c sl f s
    ⟨fun _ => false, ok, _, hexec⟩

theorem checksFields_of_vectorForm {rows : List RegRowOf} (h : ∀ x ∈ rows, VectorForm x) : ∀ x ∈ rows, ChecksFields x :=
  fun x hx c sl f s =>
    let ⟨stoch, ok, _, _, _, _, hexec⟩ := h x hx c sl f s
    ⟨stoch, ok, _, hexec⟩

theorem scalarForm_controlRows : ∀ x ∈ controlRows, ScalarForm x := by
  simp only [controlRows, List.mem_cons, List.not_mem_nil, or_false]
  rintro x (rfl | rfl | rfl | rfl | rfl) <;> exact fun _ _ _ _ => ⟨_, _, rfl, fun _ ha _ _ => by simp [sOk, ha]⟩

theorem scalarForm_aluRows : ∀ x ∈ aluRows, ScalarForm x := by
  intro x hx
  refine scalarForm_of_out ?_
  simp only [aluRows, List.mem_cons, List.not_mem_nil, or_false] at hx
  rcases hx with rfl | rfl | rfl | rfl | rfl | rfl | rfl | rfl | rfl | rfl <;>
    exact fun _ _ _ _ => ⟨_, _, rfl, fun ha hb => by simp [sOk, ha, hb]⟩

theorem scalarForm_localRows : ∀ x ∈ localRows, ScalarForm x := by
  simp only [localRows, List.mem_cons, List.not_mem_nil, or_false]
  rintro x (rfl | rfl) <;> exact fun _ _ _ _ => ⟨_, _, rfl, fun hd ha hb _ => by simp [sOk, hd, ha, hb]⟩

theorem scalarForm_dmaRows : ∀ x ∈ dmaRows, ScalarForm x := by
  simp only [dmaRows, List.mem_cons, List.not_mem_nil, or_false]
  rintro x (rfl | rfl) <;> exact fun _ _ _ _ => ⟨_, _, rfl, fun _ ha _ _ => by simp [sOk, ha]⟩

theorem scalarForm_tcRows : ∀ x ∈ tcRows, ScalarForm x := by
  simp only [tcRows, List.mem_cons, List.not_mem_nil, or_false]
  rintro x (rfl | rfl | rfl) <;> exact fun _ _ _ _ => ⟨_, _, rfl, fun hd ha _ _ => by simp [sOk, hd, ha]⟩

theorem scalarForm_waitRows : ∀ x ∈ waitRows, ScalarForm x := by
  simp only [waitRows, List.mem_cons, List.not_mem_nil, or_false]
  rintro x (rfl | rfl | rfl | rfl | rfl) <;> exact fun _ _ _ _ => ⟨_, _, rfl, fun _ ha _ _ => by simp [sOk, ha]⟩

theorem scalarForm_seedRows : ∀ x ∈ seedRows, ScalarForm x :=
  List.forall_mem_singleton.mpr fun _ _ _ _ => ⟨_, _, rfl, fun _ ha hb hc => by simp [sOk, ha, hb, hc]⟩

theorem scalarForm_tagRows : ∀ x ∈ tagRows, ScalarForm x := by
  simp only [tagRows, List.mem_cons, List.not_mem_nil, or_false]
  rintro x (rfl | rfl) <;> exact fun _ _ _ _ => ⟨_, _, rfl, fun hd ha _ _ => by simp [sOk, hd, ha]⟩

theorem checksFields_predRows : ∀ x ∈ predRows, ChecksFields x := by
  simp only [predRows, List.mem_cons, List.not_mem_nil, or_false]
  rintro x (rfl | rfl) <;> exact fun _ _ _ _ => ⟨_, _, _, rfl⟩

theorem checksFields_infoRows : ∀ x ∈ infoRows, ChecksFields x :=
  List.forall_mem_singleton.mpr fun _ _ _ _ => ⟨fun _ => false, _, _, congrArg Host.Outcome.next (by unfold scalarOut scalarIns; rfl)⟩

theorem checksFields_drawRows : ∀ x ∈ drawRows, ChecksFields x :=
  List.forall_mem_singleton.mpr fun _ _ _ _ => ⟨_, _, _, rfl⟩

theorem vectorForm_vectorRows : ∀ x ∈ vectorRows, VectorForm x := by
  simp only [vectorRows, List.mem_cons, List.not_mem_nil, or_false]
  rintro x (rfl | rfl | rfl | rfl | rfl | rfl | rfl | rfl | rfl | rfl | rfl | rfl | rfl | rfl | rfl | rfl | rfl | rfl | rfl | rfl |
    rfl) <;> exact fun _ _ _ _ => ⟨_, _, _, _, _, _, rfl⟩

theorem vectorForm_convertRows : ∀ x ∈ convertRows, VectorForm x :=
  List.forall_mem_singleton.mpr fun _ _ _ _ => ⟨_, _, _, _, _, _, rfl⟩

end Sys2Proof.Machine
end

section
/-!
What does not run (R147, R148, R164), and one word for one instruction (R146).
-/
namespace Sys2Proof.Machine

variable {s : State} {c : Core} {sl : Slot} {f : RegForm} {x : RegRowOf}

/-! ### One word, one instruction (R146) -/

theorem runs_other_word (hform : ChecksFields x) (hop : x.2 < 256) {w : BitVec 128} (hline : lineOf s c sl = some w)
    (hgood : IbufGood s c = true) (hne : w.toNat ≠ regWord x.2 f) : Runs (x.1 c sl f) s (fun t => t = s) := by
  obtain ⟨_, _, _, hexec⟩ := hform c sl f s
  exact ⟨_, hexec, sequence_of_other_word (regWord_lt hop f) hline hgood hne _⟩

/-- The rows of a class: its number stands in the words of each, and each runs as its own word alone. -/
theorem rows_of_class {rows : List RegRowOf} {cls : Nat} (hops : ∀ n ∈ rows.map (·.2), n < 256 ∧ n / 32 = cls)
    (hform : ∀ y ∈ rows, ChecksFields y) : ∀ y ∈ rows, ∀ (c : Core) (sl : Slot) (f : RegForm) (s : State) (w : BitVec 128),
      bitsOf (regWord y.2 f) 7 5 = cls ∧
      (lineOf s c sl = some w → IbufGood s c = true → w.toNat ≠ regWord y.2 f → Runs (y.1 c sl f) s (fun t => t = s)) := by
  intro y hy c sl f s w
  obtain ⟨hop, hcls⟩ := hops y.2 (List.mem_map_of_mem hy)
  obtain ⟨-, hbits, -⟩ := regWord_fields hop f
  exact ⟨(class_of_opcode hbits).trans hcls, runs_other_word (hform y hy) hop⟩

theorem runs_other_tensorWord {i : Instr} {op : Nat} {kind : TKind} {f : TensorForm} {ok : List (Nat × Bool × Bool) → Bool}
    {scales : State → Bool} (hexec : exec i s = .next (tensorIns op kind c sl f ok scales s)) (hop : op < 256) {w : BitVec 128}
    (hline : lineOf s c sl = some w) (hgood : IbufGood s c = true) (hne : w.toNat ≠ tensorWord op f) :
    Runs i s (fun t => t = s) :=
  ⟨_, hexec, sequence_of_other_word (tensorWord_lt hop f) hline hgood hne _⟩

theorem class_of_tensorWord {op : Nat} (hop : op < 256) (hcls : op / 32 = 2) (f : TensorForm) :
    bitsOf (tensorWord op f) 7 5 = 2 := by
  obtain ⟨hbits, -⟩ := tensorWord_fields hop f
  exact (class_of_opcode hbits).trans hcls

theorem checksFields_aluClass : ∀ x ∈ aluRows ++ predRows ++ localRows ++ infoRows, ChecksFields x := by
  simp only [List.forall_mem_append]
  exact ⟨⟨⟨checksFields_of_scalarForm scalarForm_aluRows, checksFields_predRows⟩, checksFields_of_scalarForm scalarForm_localRows⟩,
    checksFields_infoRows⟩

theorem checksFields_numericClass : ∀ x ∈ convertRows ++ seedRows ++ drawRows ++ tagRows, ChecksFields x := by
  simp only [List.forall_mem_append]
  exact ⟨⟨⟨checksFields_of_vectorForm vectorForm_convertRows, checksFields_of_scalarForm scalarForm_seedRows⟩,
    checksFields_drawRows⟩, checksFields_of_scalarForm scalarForm_tagRows⟩

theorem regOk_of_malformed (h : f.rsv0 ≠ 0 ∨ f.rsv1 ≠ 0 ∨ f.fmt = 15 ∨ f.rnd = 3) (b : Bool) : regOk f b = false := by
  simp only [regOk, Bool.and_eq_false_iff, decide_eq_false_iff_not, not_not]
  tauto

/-- Settles O60: a word is packed from its fields and can be cut into them again, and an instruction whose word is not the one at
hand does nothing. -/
theorem instructionWordsTellEveryField : Obligations.InstructionWordsTellEveryField := by
  refine ⟨fun op f ho => regWord_fields ho f, fun w => ?word, fun op f ho => tensorWord_fields ho f,
    fun f hbad => regOk_of_malformed (hbad.imp_right .inl), ?classes, ?tensor⟩
  case word =>
    have hlow : w.toNat % 256 < 256 := Nat.mod_lt _ (by decide)
    have hword := regWord_regFields w.isLt
    exact ⟨_, _, hlow, hword, fun b g hb hg => regWord_injective hb hlow (hg.trans hword.symm)⟩
  case classes =>
    change ∀ x ∈ [(controlRows, 0), (aluRows ++ predRows ++ localRows ++ infoRows, 1), (vectorRows, 3), (dmaRows, 4), (tcRows, 5),
      (waitRows, 6), (convertRows ++ seedRows ++ drawRows ++ tagRows, 7)], _
    simp only [List.forall_mem_cons, List.not_mem_nil, false_implies, implies_true, and_true]
    exact ⟨rows_of_class (by decide) (checksFields_of_scalarForm scalarForm_controlRows),
      rows_of_class (by decide) checksFields_aluClass,
      rows_of_class (by decide) (checksFields_of_vectorForm vectorForm_vectorRows),
      rows_of_class (by decide) (checksFields_of_scalarForm scalarForm_dmaRows),
      rows_of_class (by decide) (checksFields_of_scalarForm scalarForm_tcRows),
      rows_of_class (by decide) (checksFields_of_scalarForm scalarForm_waitRows),
      rows_of_class (by decide) checksFields_numericClass⟩
  case tensor =>
    simp only [List.forall_mem_cons, List.not_mem_nil, false_implies, implies_true, and_true]
    exact ⟨fun c sl f s w => ⟨class_of_tensorWord (by decide) rfl f, runs_other_tensorWord rfl (by decide)⟩,
      fun c sl f s w => ⟨class_of_tensorWord (by decide) rfl f, runs_other_tensorWord rfl (by decide)⟩,
      fun c sl f s w => ⟨class_of_tensorWord (by decide) rfl f, runs_other_tensorWord rfl (by decide)⟩⟩

/-! ### What an instruction leaves that only goes on -/

/-- The next instruction follows a change of one slot. -/
theorem goesOn_advance {u : State} (honly : OnlySlot s u c sl) (htask : taskOf u c sl = taskOf s c sl) :
    Moved s (advance u c sl) c sl 1 ∧ OnlySlot s (advance u c sl) c sl ∧ KeptRegs s (advance u c sl) [] ∧
      KeptMem s (advance u c sl) :=
  have h := advance_onlySlot honly
  ⟨moved_advance htask, h, keptRegs_of_onlyCore h.1, keptMem_of_onlyCore h.1⟩

/-- An instruction whose predicate is false goes on alone (R147). -/
theorem runs_skipped (hform : ScalarForm x) (hi : Issues s c sl (regWord x.2 f)) (hok : regOk f false = true)
    (hd : f.rd.toNat < 32) (ha : f.ra.toNat < 32) (hb : f.rb.toNat < 32) (hc : f.rc.toNat < 32)
    (hoff : enabled s c sl f.pred f.pneg = false) : Runs (x.1 c sl f) s (fun t =>
      (∀ r, sregOf t c sl r = sregOf s c sl r) ∧ (∀ r, pregOf t c sl r = pregOf s c sl r) ∧
      Moved s t c sl 1 ∧ OnlySlot s t c sl ∧ KeptRegs s t [] ∧ KeptMem s t) := by
  obtain ⟨ok, body, hexec, hfields⟩ := hform c sl f s
  refine ⟨_, hexec, ?_⟩
  rw [scalarIns_skips hi hok hoff (hfields hd ha hb hc)]
  exact ⟨sregOf_advance s c sl, pregOf_advance s c sl, goesOn_advance (onlySlot_refl s c sl) rfl⟩

/-- Malformed fields abort the task, whatever the predicate (R148; log entry 147). -/
theorem runs_malformed (hform : ChecksFields x) (hi : Issues s c sl (regWord x.2 f))
    (hbad : f.rsv0 ≠ 0 ∨ f.rsv1 ≠ 0 ∨ f.fmt = 15 ∨ f.rnd = 3) : Runs (x.1 c sl f) s (fun t => t = abortTask s c sl 0x0B) := by
  obtain ⟨stoch, ok, body, hexec⟩ := hform c sl f s
  refine ⟨_, hexec, ?_⟩
  rw [sequence_issues hi, regOk_of_malformed hbad, Bool.false_and, if_neg Bool.false_ne_true]

/-- A counter of another job aborts the task (R164). -/
theorem runs_foreign_counter {i : Instr} {op : Nat} {ok : Bool} {body : State → State}
    (hexec : exec i s = .next (tcIns op c sl f ok body s)) (hi : IssuesReg s c sl op f) (hok : ok = true)
    (hne : tcOwner s c (f.imm.toNat % 256) ≠ taskJob s c sl) : Runs i s (fun t => t = abortTask s c sl 0x01) := by
  have hforeign : ownsTc s c sl (tcIdx f) = false := beq_eq_false_iff_ne.mpr hne
  refine ⟨_, hexec, ?_⟩
  rw [tcIns_issues hi hok, hforeign, if_neg Bool.false_ne_true]

theorem scalarForm_of_skipped :
    ∀ x ∈ controlRows ++ aluRows ++ localRows ++ dmaRows ++ tcRows ++ waitRows ++ seedRows ++ tagRows, ScalarForm x := by
  simp only [List.forall_mem_append]
  exact ⟨⟨⟨⟨⟨⟨⟨scalarForm_controlRows, scalarForm_aluRows⟩, scalarForm_localRows⟩, scalarForm_dmaRows⟩, scalarForm_tcRows⟩,
    scalarForm_waitRows⟩, scalarForm_seedRows⟩, scalarForm_tagRows⟩

theorem checksFields_of_any : ∀ x ∈ controlRows ++ (aluRows ++ predRows ++ localRows ++ infoRows) ++ tcRows ++ waitRows ++ dmaRows ++
    (seedRows ++ drawRows ++ tagRows) ++ vectorRows ++ convertRows, ChecksFields x := by
  have halu := checksFields_aluClass
  have hnumeric := checksFields_numericClass
  simp only [List.forall_mem_append] at halu hnumeric ⊢
  obtain ⟨⟨⟨hconvert, hseed⟩, hdraw⟩, htag⟩ := hnumeric
  exact ⟨⟨⟨⟨⟨⟨⟨checksFields_of_scalarForm scalarForm_controlRows, halu⟩, checksFields_of_scalarForm scalarForm_tcRows⟩,
    checksFields_of_scalarForm scalarForm_waitRows⟩, checksFields_of_scalarForm scalarForm_dmaRows⟩, ⟨hseed, hdraw⟩, htag⟩,
    checksFields_of_vectorForm vectorForm_vectorRows⟩, hconvert⟩

/-- Settles O4: the rows of each form share one argument, and the four on counters that of `tcIns`. -/
theorem instructionsThatDoNotRun : Obligations.InstructionsThatDoNotRun := by
  refine ⟨fun x hx c sl f s hi hok => runs_skipped (scalarForm_of_skipped x hx) hi hok, ?foreign,
    fun x hx c sl f s => runs_malformed (checksFields_of_any x hx)⟩
  case foreign =>
    simp only [List.forall_mem_cons, List.not_mem_nil, false_implies, implies_true, and_true]
    exact ⟨fun c sl f s hi ha _ hne => runs_foreign_counter rfl hi (by simp [sOk, ha]) hne,
      fun c sl f s hi ha _ hne => runs_foreign_counter rfl hi (by simp [sOk, ha]) hne,
      fun c sl f s hi _ hd hne => runs_foreign_counter rfl hi (by simp [sOk, hd]) hne,
      fun c sl f s hi ha _ hne => runs_foreign_counter rfl hi (by simp [sOk, ha]) hne⟩

end Sys2Proof.Machine
end

section
/-!
Registers (R143) and the scalar instructions of the opcode table (05).
-/
namespace Sys2Proof.Machine

/-! ### Registers (R143, R144) -/

section
variable (s : State) (c d : Nat) (sl sk : Slot)

theorem slot_setSlot_ne {sl sk : Slot} (k : CoreSt) (x : SlotSt) (h : sk ≠ sl) : (k.setSlot sl x).slot sk = k.slot sk :=
  match sl, sk with
  | .prim, .prim | .fill, .fill => absurd rfl h
  | .prim, .fill | .fill, .prim => rfl

/-- A slot's update is read in that slot alone. -/
theorem slotOf_setSlot_ne {d c : Nat} {sk sl : Slot} (x : SlotSt) (h : ¬(d = c ∧ sk = sl)) :
    slotOf (setSlot s c sl x) d sk = slotOf s d sk := by
  by_cases hd : d = c
  · subst hd
    rw [slotOf, coreOf_setSlot_same, slot_setSlot_ne _ _ fun hk => h ⟨rfl, hk⟩, slotOf]
  · rw [slotOf, setSlot, coreOf_setCore_ne _ _ hd, slotOf]

theorem pregOf_zero : pregOf s c sl 0 = BitVec.allOnes 512 := rfl

theorem sregOf_zero : sregOf s c sl 0 = 0 := rfl

/-- The bound of a word of any width, in the spelling of these statements. -/
theorem toNat_lt_pow {n : Nat} (x : BitVec n) : x.toNat < 2 ^ n := x.isLt

theorem toNat_ofNat_mod_pow (n v : Nat) : (BitVec.ofNat n v).toNat = v % 2 ^ n := BitVec.toNat_ofNat v n

theorem vregOf_lt (r : BitVec 6) : vregOf s c sl r < 2 ^ (512 * 32) :=
  toNat_lt_pow (n := 512 * 32) _

/-- A scalar register of any slot after a write of one (R143). -/
theorem sregOf_setSreg_any (r q v : Nat) : sregOf (setSreg s c sl r v) d sk q =
    if d = c ∧ sk = sl ∧ q = r ∧ r ≠ 0 then v % 2 ^ 64 else sregOf s d sk q := by
  by_cases h : d = c ∧ sk = sl
  · obtain ⟨rfl, rfl⟩ := h
    simpa using sregOf_setSreg s d sk r v q
  · rw [if_neg fun hq => h ⟨hq.1, hq.2.1⟩]
    unfold setSreg
    split
    · rfl
    · rw [sregOf, slotOf_setSlot_ne s _ h, sregOf]

/-- A predicate register of any slot after a write of one (R143). -/
theorem pregOf_setPreg_any (r q : Nat) (v : BitVec 512) : pregOf (setPreg s c sl r v) d sk q =
    if d = c ∧ sk = sl ∧ q = r ∧ r ≠ 0 then v else pregOf s d sk q := by
  by_cases h : d = c ∧ sk = sl
  · obtain ⟨rfl, rfl⟩ := h
    simpa using pregOf_setPreg s d sk r q v
  · rw [if_neg fun hq => h ⟨hq.1, hq.2.1⟩]
    unfold setPreg
    split
    · rfl
    · rw [pregOf, slotOf_setSlot_ne s _ h, pregOf]

/-- A vector register of any slot after a write of one: slots name registers of one set (R143, R144). -/
theorem vregOf_setVreg (c : Core) (r q : BitVec 6) (v : Nat) : vregOf (setVreg s c sl r v) d sk q =
    if d = c ∧ vPhys s c sk q = vPhys s c sl r then v % 2 ^ (512 * 32) else vregOf s d sk q := by
  have hphys : vPhys (setVreg s c sl r v) d sk q = vPhys s d sk q := rfl
  rw [vregOf, hphys]
  by_cases hd : d = c
  · subst hd
    rw [setVreg, coreOf_setCore_same, mget_mset]
    by_cases hq : vPhys s c sk q = vPhys s c sl r
    · rw [if_pos hq, if_pos ⟨rfl, hq⟩]
      exact toNat_ofNat_mod_pow (512 * 32) v
    · rw [if_neg hq, if_neg fun h => hq h.2, vregOf]
  · rw [setVreg, coreOf_setCore_ne _ _ hd, if_neg fun h => hd h.1]
    rfl

end

/-! ### One register written -/

variable {s : State} {c : Core} {sl : Slot} {f : RegForm} {i : Instr} {op : Nat}

/-- An instruction writes one scalar register of its slot and goes on. -/
def WritesSreg (s : State) (c : Core) (sl : Slot) (rd v : Nat) (t : State) : Prop :=
  (∀ r, sregOf t c sl r = if r = rd ∧ r ≠ 0 then v else sregOf s c sl r) ∧ (∀ r, pregOf t c sl r = pregOf s c sl r) ∧
  Moved s t c sl 1 ∧ OnlySlot s t c sl ∧ KeptRegs s t [] ∧ KeptMem s t

theorem writesSreg_setSreg (s : State) (c : Core) (sl : Slot) (rd v : Nat) :
    WritesSreg s c sl rd (v % 2 ^ 64) (advance (setSreg s c sl rd v) c sl) := by
  refine ⟨fun r => ?_, fun r => by rw [pregOf_advance, pregOf_setSreg],
    goesOn_advance (setSreg_onlySlot rd v (onlySlot_refl s c sl)) (taskOf_setSreg ..)⟩
  rw [sregOf_advance, sregOf_setSreg]
  by_cases hr : r = rd
  · rw [hr]
  · simp [hr]

theorem runs_scalarOut {ok : State → Bool} {v : State → Nat} {w : Nat} (hexec : exec i s = .next (scalarOut op c sl f ok v s))
    (hi : IssuesReg s c sl op f) (hd : f.rd.toNat < 32) (hok : ok s = true) (hv : v s % 2 ^ 64 = w) :
    Runs i s (WritesSreg s c sl f.rd.toNat w) := by
  refine ⟨_, hexec, ?_⟩
  rw [scalarOut_issues hi (decide_eq_true hd) hok, ← hv]
  exact writesSreg_setSreg ..

/-- What the instruction writes, without the predicate registers it keeps. -/
theorem runs_of_writesSreg {rd v : Nat} (h : Runs i s (WritesSreg s c sl rd v)) : Runs i s (fun t =>
    (∀ r, sregOf t c sl r = if r = rd ∧ r ≠ 0 then v else sregOf s c sl r) ∧
    Moved s t c sl 1 ∧ OnlySlot s t c sl ∧ KeptRegs s t [] ∧ KeptMem s t) :=
  let ⟨t, hexec, hsreg, _, hrest⟩ := h
  ⟨t, hexec, hsreg, hrest⟩

/-- An instruction writes one predicate register of its slot and goes on. -/
theorem runs_setPreg {ok : State → Bool} {v : State → BitVec 512} {w : BitVec 512}
    (hexec : exec i s = .next (scalarIns op c sl f ok (fun u => advance (setPreg u c sl f.rd.toNat (v u)) c sl) s))
    (hi : IssuesReg s c sl op f) (hok : ok s = true) (hv : v s = w) : Runs i s (fun t =>
      (∀ r, pregOf t c sl r = if r = f.rd.toNat ∧ r ≠ 0 then w else pregOf s c sl r) ∧
      (∀ r, sregOf t c sl r = sregOf s c sl r) ∧ Moved s t c sl 1 ∧ OnlySlot s t c sl ∧ KeptRegs s t [] ∧ KeptMem s t) := by
  refine ⟨_, hexec, ?_⟩
  rw [scalarIns_issues hi hok, hv]
  refine ⟨fun r => ?_, fun r => by rw [sregOf_advance, sregOf_setPreg],
    goesOn_advance (setPreg_onlySlot _ _ (onlySlot_refl s c sl)) (taskOf_setPreg ..)⟩
  rw [pregOf_advance, pregOf_setPreg]
  by_cases hr : r = f.rd.toNat
  · rw [hr]
  · simp [hr]

/-! ### 64-bit arithmetic as the module counts it -/

/-- The model's arithmetic on numbers below 2^64 is that of 64-bit words. -/
def Computes (g : Nat → Nat → Nat) (h : BitVec 64 → BitVec 64 → BitVec 64) : Prop :=
  ∀ a b : BitVec 64, g a.toNat b.toNat % 2 ^ 64 = (h a b).toNat

theorem sgn64_toNat (a : BitVec 64) : sgn64 a.toNat = a.toInt := by
  rw [sgn64, BitVec.toInt_eq_toNat_cond]
  by_cases h : a.toNat < 2 ^ 63
  · rw [if_pos h, if_pos (by omega)]
  · rw [if_neg h, if_neg (by omega)]

theorem computes_add : Computes (fun a b => a + b) (fun a b => a + b) := fun a b => (BitVec.toNat_add a b).symm

theorem computes_sub : Computes (fun a b => a + (2 ^ 64 - b)) (fun a b => a - b) := fun a b => by
  rw [BitVec.toNat_sub, Nat.add_comm]

theorem computes_mul : Computes (fun a b => a * b) (fun a b => a * b) := fun a b => (BitVec.toNat_mul a b).symm

theorem computes_and : Computes (fun a b => a &&& b) (fun a b => a &&& b) := fun a b =>
  Nat.mod_eq_of_lt (a &&& b).isLt

theorem computes_or : Computes (fun a b => a ||| b) (fun a b => a ||| b) := fun a b =>
  Nat.mod_eq_of_lt (a ||| b).isLt

theorem computes_xor : Computes (fun a b => a ^^^ b) (fun a b => a ^^^ b) := fun a b =>
  Nat.mod_eq_of_lt (a ^^^ b).isLt

theorem computes_shl : Computes (fun a b => a * 2 ^ (b % 64)) (fun a b => a <<< (b.toNat % 64)) := fun a b => by
  rw [BitVec.toNat_shiftLeft, Nat.shiftLeft_eq]

theorem computes_shr : Computes (fun a b => a / 2 ^ (b % 64)) (fun a b => a >>> (b.toNat % 64)) := fun a b => by
  have hword : a.toNat / 2 ^ (b.toNat % 64) = (a >>> (b.toNat % 64)).toNat := by
    rw [BitVec.toNat_ushiftRight, Nat.shiftRight_eq_div_pow]
  exact (congrArg (· % 2 ^ 64) hword).trans (Nat.mod_eq_of_lt (BitVec.isLt _))

theorem computes_sra : Computes (fun a b => sraNat a (b % 64)) (fun a b => a.sshiftRight (b.toNat % 64)) := fun a b => by
  have hword : sraNat a.toNat (b.toNat % 64) = (a.sshiftRight (b.toNat % 64)).toNat := by
    rw [BitVec.sshiftRight_eq, BitVec.toNat_ofInt, Int.shiftRight_eq_div_pow, sraNat, sgn64_toNat]
  exact (congrArg (· % 2 ^ 64) hword).trans (Nat.mod_eq_of_lt (BitVec.isLt _))

/-- The second operand as a word: S[rb], or imm where sub[0] is 1. -/
def wordB (s : State) (c : Core) (sl : Slot) (f : RegForm) : BitVec 64 :=
  if f.sub.getLsbD 0 then f.imm else BitVec.ofNat 64 (sregOf s c sl f.rb.toNat)

theorem toNat_ofNat_sregOf (s : State) (c : Nat) (sl : Slot) (r : Nat) :
    (BitVec.ofNat 64 (sregOf s c sl r)).toNat = sregOf s c sl r := by
  rw [BitVec.toNat_ofNat, Nat.mod_eq_of_lt (sregOf_lt ..)]

theorem toNat_wordB (s : State) (c : Core) (sl : Slot) (f : RegForm) : (wordB s c sl f).toNat = selB s c sl f := by
  unfold wordB selB
  split
  · rfl
  · exact toNat_ofNat_sregOf ..

/-- An arithmetic instruction writes the result of its operands. -/
theorem runs_aluIns {g : Nat → Nat → Nat} {h : BitVec 64 → BitVec 64 → BitVec 64} (hexec : exec i s = .next (aluIns op c sl f g s))
    (hcomp : Computes g h) (hi : IssuesReg s c sl op f) (hd : f.rd.toNat < 32) (ha : f.ra.toNat < 32)
    (hb : f.sub.getLsbD 0 = true ∨ f.rb.toNat < 32) : Runs i s (WritesSreg s c sl f.rd.toNat
      (h (BitVec.ofNat 64 (sregOf s c sl f.ra.toNat)) (wordB s c sl f)).toNat) := by
  refine runs_scalarOut hexec hi hd (by simpa [sOk, ha] using hb) ?_
  rw [← hcomp, toNat_ofNat_sregOf, toNat_wordB]

/-- An arithmetic row: the instruction computes the row's function of words. -/
def AluRow (x : (Core → Slot → RegForm → Instr) × Nat × (BitVec 64 → BitVec 64 → BitVec 64)) : Prop :=
  ∃ g, Computes g x.2.2 ∧ ∀ (c : Core) (sl : Slot) (f : RegForm) (s : State), exec (x.1 c sl f) s = .next (aluIns x.2.1 c sl f g s)

/-- Settles O1: registers read what was written to them last, and each arithmetic instruction computes its row's function of its two
operands. -/
theorem scalarArithmeticResults : Obligations.ScalarArithmeticResults := by
  refine ⟨fun s c sl => ⟨⟨sregOf_zero s c sl, sregOf_lt s c sl, pregOf_zero s c sl, vregOf_lt s c sl, fun r => decide_eq_true_iff,
    fun r => decide_eq_true_iff⟩, fun d sk => sregOf_setSreg_any s c d sl sk, fun d sk => pregOf_setPreg_any s c d sl sk,
    fun d sk => vregOf_setVreg s d sl sk c⟩, fun x hx c sl f s hi hd ha hb => ?_⟩
  have hrow : AluRow x := by
    simp only [List.mem_cons, List.not_mem_nil, or_false] at hx
    rcases hx with rfl | rfl | rfl | rfl | rfl | rfl | rfl | rfl | rfl
    · exact ⟨_, computes_add, fun _ _ _ _ => rfl⟩
    · exact ⟨_, computes_sub, fun _ _ _ _ => rfl⟩
    · exact ⟨_, computes_mul, fun _ _ _ _ => rfl⟩
    · exact ⟨_, computes_and, fun _ _ _ _ => rfl⟩
    · exact ⟨_, computes_or, fun _ _ _ _ => rfl⟩
    · exact ⟨_, computes_xor, fun _ _ _ _ => rfl⟩
    · exact ⟨_, computes_shl, fun _ _ _ _ => rfl⟩
    · exact ⟨_, computes_shr, fun _ _ _ _ => rfl⟩
    · exact ⟨_, computes_sra, fun _ _ _ _ => rfl⟩
  obtain ⟨g, hcomp, hexec⟩ := hrow
  exact runs_aluIns (hexec c sl f s) hcomp hi hd ha hb

/-! ### Moves, reads, compares and predicate logic -/

theorem sinfoVal_eq_getD {k : Task} (hk : taskOf s c sl = some k) {n : Nat} (hn : n < 7) : sinfoVal s c sl n =
    [c.val, k.launch.job, k.launch.group, k.rank, k.count, slotIdx sl, s.time.tide].getD n 0 := by
  rw [sinfoVal, hk]
  interval_cases n <;> rfl

theorem scmpHolds_eq_getD (a b : BitVec 64) {n : Nat} (hn : n < 6) : scmpHolds n a.toNat b.toNat =
    [a == b, a != b, a.slt b, a.sle b, a.ult b, a.ule b].getD n false := by
  have heq : a.toNat = b.toNat ↔ a = b := BitVec.toNat_inj
  interval_cases n
  · exact Bool.eq_iff_iff.mpr (by simp [scmpHolds, heq])
  · exact Bool.eq_iff_iff.mpr (by simp [scmpHolds, heq])
  · simp [scmpHolds, sgn64_toNat, BitVec.slt]
  · simp [scmpHolds, sgn64_toNat, BitVec.sle]
  · simp [scmpHolds, BitVec.ult]
  · simp [scmpHolds, BitVec.ule]

theorem plogOp_eq_getD (a b : BitVec 512) {n : Nat} (hn : n < 4) :
    plogOp n a b = [a &&& b, a ||| b, a ^^^ b, a &&& ~~~b].getD n 0 := by
  interval_cases n <;> rfl

theorem exec_tcrd_of_issues (hi : IssuesReg s c sl 0xA2 f) (hd : f.rd.toNat < 32)
    (hown : tcOwner s c (f.imm.toNat % 256) = taskJob s c sl) :
    exec (.tcrd c sl f) s = .next (advance (setSreg s c sl f.rd.toNat (tcVal s c (f.imm.toNat % 256))) c sl) := by
  have howns : ownsTc s c sl (tcIdx f) = true := beq_iff_eq.mpr hown
  have hfield : sOk f.rd = true := decide_eq_true hd
  refine congrArg Host.Outcome.next ?_
  rw [tcIns_issues hi hfield, if_pos howns]
  rfl

/-- Settles O2: each instruction writes one register, scalar or predicate, with the value of its row. -/
theorem scalarMovesReadsAndPredicates : Obligations.ScalarMovesReadsAndPredicates := by
  refine ⟨fun c sl f s hd => ⟨fun hi => ?_, fun hi hsub k hk => ?_, fun hi hown => ?_⟩,
    fun c sl f s hd => ⟨fun hi ha hb hsub => ?_, fun hi ha hb hsub => ?_⟩⟩
  · exact runs_of_writesSreg (runs_scalarOut rfl hi hd rfl (Nat.mod_eq_of_lt f.imm.isLt))
  · refine runs_of_writesSreg (runs_scalarOut rfl hi hd (decide_eq_true hsub) ?_)
    rw [sinfoVal_eq_getD hk hsub]
  · exact runs_of_writesSreg ⟨_, exec_tcrd_of_issues hi hd hown, writesSreg_setSreg ..⟩
  · refine runs_setPreg (v := fun u => allLanes (scmpHolds (f.sub.toNat / 2) (sregOf u c sl f.ra.toNat) (selB u c sl f))) rfl hi
      (by simpa [pOk, sOk, hd, ha, hsub] using hb) ?_
    have hholds := scmpHolds_eq_getD (BitVec.ofNat 64 (sregOf s c sl f.ra.toNat)) (wordB s c sl f) hsub
    rw [toNat_ofNat_sregOf, toNat_wordB] at hholds
    exact congrArg allLanes hholds
  · refine runs_setPreg (v := fun u => plogOp f.sub.toNat (pregOf u c sl f.ra.toNat) (pregOf u c sl f.rb.toNat)) rfl hi
      (by simp [pOk, hd, ha, hb, hsub]) (plogOp_eq_getD _ _ hsub)

end Sys2Proof.Machine
end

section
/-!
Trigger counters (R162, R163, R306): what a set and an increment of one leave.
-/
namespace Sys2Proof.Machine

/-- What a change of one trigger counter leaves: the other counters, what WAITTC and the transport engines see, and the slots. -/
structure TcLeft (s t : State) (c i : Nat) : Prop where
  value : ∀ j, j ≠ 256 * c + i → get t .tc_value j = get s .tc_value j
  overflow : ∀ j, j ≠ 256 * c + i → get t .tc_overflow j = get s .tc_overflow j
  seen : ∀ k, tcSeen t c k = tcSeen s c k
  slots : ∀ p, slotOf t c p = slotOf s c p
  cores : ∀ d, d ≠ c → coreOf t d = coreOf s d
  regs : KeptRegs s t [.tc_value, .tc_overflow]
  rest : { t with cores := s.cores, regs := s.regs } = s

section
variable {s t : State} {c i : Nat}

theorem keptMem_of_tcLeft (h : TcLeft s t c i) : KeptMem s t := keptMem_of_mem_eq (congrArg State.mem h.rest :)

theorem tcSeen_eq (s : State) (c k : Nat) :
    tcSeen s c k = ((mget none (coreOf s c).tcClk k).map (·.seen)).getD (tcVal s c k) := by
  unfold tcSeen tcClkOf
  cases mget none (coreOf s c).tcClk k <;> rfl

theorem tcLeft_refl (s : State) (c i : Nat) : TcLeft s s c i :=
  ⟨fun _ _ => rfl, fun _ _ => rfl, fun _ => rfl, fun _ => rfl, fun _ _ => rfl, fun _ _ _ => rfl, rfl⟩

/-- A counter that holds a value for the rest of the clk is seen as before where its record says so (R163). -/
theorem tcLeft_tcKeep {x : TcClk} (hx : x.seen = tcSeen s c i) (v : Nat) : TcLeft s (tcKeep s c i v x) c i where
  value j hj := get_put_ne s fun h => hj h.2
  overflow _ _ := get_put_fld s _ _ _ (by decide)
  seen k := by
    rw [tcSeen_eq, tcSeen_eq, tcKeep, coreOf_setCore_same, mget_mset]
    by_cases hk : k = i
    · rw [if_pos hk, hk, ← tcSeen_eq, ← hx]
      rfl
    · rw [if_neg hk]
      congr 1
      exact get_put_ne s fun h => hk (by omega)
  slots p := by
    rw [slotOf, tcKeep, coreOf_setCore_same]
    cases p <;> rfl
  cores d hd := coreOf_setCore_ne _ _ hd
  regs _ _ hf := get_put_fld s _ _ _ (List.ne_of_not_mem_cons hf)
  rest := rfl

theorem tcLeft_put_overflow (h : TcLeft s t c i) (v : Nat) : TcLeft s (put t .tc_overflow v (256 * c + i)) c i where
  value j hj := (get_put_fld t _ _ _ (by decide)).trans (h.value j hj)
  overflow j hj := (get_put_ne t fun e => hj e.2).trans (h.overflow j hj)
  seen k := by
    have hval : tcVal (put t .tc_overflow v (256 * c + i)) c k = tcVal t c k := get_put_fld t _ _ _ (by decide)
    rw [← h.seen, tcSeen_eq, tcSeen_eq, hval]
    rfl
  slots := h.slots
  cores := h.cores
  regs := keptRegs_put h.regs (by decide) _ _
  rest := h.rest

end

variable (s : State) (c i v : Nat)

theorem tcLeft_tcSet : TcLeft s (tcSet s c i v) c i := by
  have hkeep : TcLeft s (tcKeep s c i (min (v + (tcClkOf s c i).adds) (maxOf 32)) { tcClkOf s c i with base := v }) c i :=
    tcLeft_tcKeep (x := { tcClkOf s c i with base := v }) rfl _
  unfold tcSet
  dsimp only
  split
  · exact tcLeft_put_overflow hkeep 1
  · split
    · exact tcLeft_put_overflow hkeep _
    · exact hkeep

theorem tcLeft_tcAdd : TcLeft s (tcAdd s c i v) c i := by
  have hkeep : TcLeft s (tcKeep s c i (min (tcVal s c i + v) (maxOf 32))
      { tcClkOf s c i with adds := (tcClkOf s c i).adds + v }) c i :=
    tcLeft_tcKeep (x := { tcClkOf s c i with adds := (tcClkOf s c i).adds + v }) rfl _
  unfold tcAdd
  dsimp only
  split
  · exact tcLeft_put_overflow hkeep 1
  · exact hkeep

theorem get_value_tcKeep {n : Nat} (x : TcClk) : get (tcKeep s c i (min n (maxOf 32)) x) .tc_value (256 * c + i) = min n (2 ^ 32 - 1) := by
  have hfits : min n (2 ^ 32 - 1) < 2 ^ 32 := by omega
  exact (get_put_same s .tc_value _ _).trans (Nat.mod_eq_of_lt hfits)

/-- A set comes before the increments of its clk, which are added to it (R163). -/
theorem get_value_tcSet : get (tcSet s c i v) .tc_value (256 * c + i) = min (v + (tcClkOf s c i).adds) (2 ^ 32 - 1) := by
  unfold tcSet
  dsimp only
  split
  · exact (get_put_fld _ _ _ _ (by decide)).trans (get_value_tcKeep ..)
  · split
    · exact (get_put_fld _ _ _ _ (by decide)).trans (get_value_tcKeep ..)
    · exact get_value_tcKeep ..

/-- An increment holds at 2^32 - 1 (R162). -/
theorem get_value_tcAdd : get (tcAdd s c i v) .tc_value (256 * c + i) = min (get s .tc_value (256 * c + i) + v) (2 ^ 32 - 1) := by
  unfold tcAdd
  dsimp only
  split
  · exact (get_put_fld _ _ _ _ (by decide)).trans (get_value_tcKeep ..)
  · exact get_value_tcKeep ..

/-- An increment that does not fit sets overflow (R162). -/
theorem get_overflow_tcAdd : get (tcAdd s c i v) .tc_overflow (256 * c + i) =
    if get s .tc_value (256 * c + i) + v < 2 ^ 32 then get s .tc_overflow (256 * c + i) else 1 := by
  have hmax : maxOf 32 + 1 = 2 ^ 32 := rfl
  have hkept (n : Nat) (x : TcClk) :
      get (tcKeep s c i n x) .tc_overflow (256 * c + i) = get s .tc_overflow (256 * c + i) :=
    get_put_fld s _ _ _ (by decide)
  unfold tcAdd
  dsimp only
  change get (if maxOf 32 < get s .tc_value (256 * c + i) + v then _ else _) _ _ = _
  by_cases hover : maxOf 32 < get s .tc_value (256 * c + i) + v
  · rw [if_pos hover, if_neg (by omega), get_put_same]
    rfl
  · rw [if_neg hover, if_pos (by omega), hkept]

end Sys2Proof.Machine
end

section
/-!
TCSET, TCADD and a register write of a trigger counter.
-/
namespace Sys2Proof.Machine

variable {s t : State} {c : Core} {sl : Slot} {f : RegForm} {i : Nat}

theorem tcSeen_advance (s : State) (c : Nat) (sl : Slot) (k : Nat) : tcSeen (advance s c sl) c k = tcSeen s c k := by
  have hclk : (coreOf (advance s c sl) c).tcClk = (coreOf s c).tcClk := by
    rw [advance, coreOf_setSlot_same]
    cases sl <;> rfl
  rw [tcSeen_eq, tcSeen_eq, hclk]
  rfl

/-- An instruction that changes a counter goes on. -/
theorem goesOn_of_tcLeft (h : TcLeft s t c i) : (∀ k, tcSeen (advance t c sl) c k = tcSeen s c k) ∧
    KeptRegs s (advance t c sl) [.tc_value, .tc_overflow] ∧ KeptMem s (advance t c sl) ∧ Moved s (advance t c sl) c sl 1 ∧
    (∀ r, sregOf (advance t c sl) c sl r = sregOf s c sl r) :=
  ⟨fun k => (tcSeen_advance ..).trans (h.seen k), h.regs, fun a => keptMem_of_tcLeft h a, moved_advance (congrArg SlotSt.task (h.slots sl)),
    fun r => by rw [sregOf_advance, sregOf, sregOf, h.slots]⟩

section
variable (hi : (f.sub.getLsbD 0 = true ∨ f.ra.toNat < 32)) (hown : tcOwner s c (f.imm.toNat % 256) = taskJob s c sl)
include hi hown

theorem exec_tcset_of_issues (hiss : IssuesReg s c sl 0xA0 f) :
    let u := advance (tcSet s c (f.imm.toNat % 256) (tcOperand s c sl f % 2 ^ 32)) c sl
    exec (.tcset c sl f) s = .next (if creditBroken u c sl then abortTask u c sl 0x0C else u) := by
  have howns : ownsTc s c sl (tcIdx f) = true := beq_iff_eq.mpr hown
  refine congrArg Host.Outcome.next ?_
  rw [tcIns_issues hiss (by simpa [sOk] using hi), if_pos howns]
  rfl

theorem exec_tcadd_of_issues (hiss : IssuesReg s c sl 0xA1 f) : exec (.tcadd c sl f) s =
    .next (advance (tcAdd s c (f.imm.toNat % 256) (tcOperand s c sl f % 2 ^ 32)) c sl) := by
  have howns : ownsTc s c sl (tcIdx f) = true := beq_iff_eq.mpr hown
  refine congrArg Host.Outcome.next ?_
  rw [tcIns_issues hiss (by simpa [sOk] using hi), if_pos howns]
  rfl

end

/-- A register write breaks no credit counter, and sets its own (R162, R306). -/
theorem exec_tcValueWrite_of_kept {tc : BitVec 8} {w : BitVec 32} (hup : fn0Up s = true) (hready : fnReady s (coreFn c) = true)
    (hprim : creditBroken (tcSet s c tc.toNat w.toNat) c .prim = false)
    (hfill : creditBroken (tcSet s c tc.toNat w.toNat) c .fill = false) :
    exec (.tcValueWrite c tc w) s = .next (tcSet s c tc.toNat w.toNat) := by
  change execTcValueWrite c tc w s = _
  simp [execTcValueWrite, onlyIf, hup, hready, tcRegWrite, each, hprim, hfill]

/-- Settles O7: each change of a counter is `tcSet` or `tcAdd`, and what these leave is `TcLeft`. -/
theorem countersSetAndAdd : Obligations.CountersSetAndAdd := by
  intro c sl f s i v before hok hown u
  have hset := tcLeft_tcSet s c (f.imm.toNat % 256) v
  have hadd := tcLeft_tcAdd s c (f.imm.toNat % 256) v
  refine ⟨fun hiss hbroken => ⟨_, exec_tcset_of_issues hok hown hiss, if_pos hbroken⟩, fun hiss hkept => ?_, fun hiss _ => ?_,
    fun tc w hup hready hprim hfill => ?_⟩
  · have hnot : ¬creditBroken u c sl = true := Bool.eq_false_iff.mp hkept
    obtain ⟨hseen, hregs, hmem, hmoved, hsreg⟩ := goesOn_of_tcLeft (sl := sl) hset
    refine ⟨u, (exec_tcset_of_issues hok hown hiss).trans (congrArg _ (if_neg hnot)), rfl, get_value_tcSet .., hset.value, hseen,
      hregs, hmem, hmoved, hsreg⟩
  · obtain ⟨hseen, hregs, hmem, hmoved, hsreg⟩ := goesOn_of_tcLeft (sl := sl) hadd
    exact ⟨_, exec_tcadd_of_issues hok hown hiss, get_value_tcAdd .., get_overflow_tcAdd ..,
      fun j hj => ⟨hadd.value j hj, hadd.overflow j hj⟩, hseen, hregs, hmem, hmoved, hsreg⟩
  · have hleft := tcLeft_tcSet s c tc.toNat w.toNat
    exact ⟨_, exec_tcValueWrite_of_kept hup hready hprim hfill, get_value_tcSet .., hleft.value, hleft.seen, hleft.regs,
      keptMem_of_tcLeft hleft, hleft.slots, hleft.cores⟩

end Sys2Proof.Machine
end

section
/-!
The start and the end of a task (R137 to R139).
-/
namespace Sys2Proof.Machine

/-! ### The start (R138) -/

theorem rankIn_le (m : BitVec 192) (c : Nat) : rankIn m c ≤ c :=
  (List.length_filter_le ..).trans (List.length_range ..).le

theorem zeroStarted_eq (k : CoreSt) (qs : List Nat) : ∃ x, zeroStarted k qs = { k with dmaq := x } := by
  induction qs generalizing k with
  | nil => exact ⟨_, rfl⟩
  | cons q qs ih => exact ih (k.setQ q _)

section
variable (s : State) (c : Core) (sl : Slot) (l : Launch) (rest : List Launch)

/-- The core at the start of a task: the window's vector registers are emptied, the slot is new. -/
theorem coreOf_startTask : ∃ x, coreOf (startTask s c sl l rest) c =
    ({ coreOf s c with
        vreg := (coreOf s c).vreg.filter (fun p =>
          !(decide ((vecWindow s c sl).1 ≤ p.1) && decide (p.1 < (vecWindow s c sl).1 + (vecWindow s c sl).2)))
        ibuf := [], dmaq := x } : CoreSt).setSlot sl { freshSlot (slotOf s c sl) l c with queue := rest } := by
  unfold startTask
  dsimp only
  rw [coreOf_setCore_same]
  obtain ⟨x, hx⟩ := zeroStarted_eq _ _
  rw [hx]
  cases sl <;> exact ⟨x, rfl⟩

theorem slotOf_startTask :
    slotOf (startTask s c sl l rest) c sl = { freshSlot (slotOf s c sl) l c with queue := rest } := by
  obtain ⟨x, hx⟩ := coreOf_startTask s c sl l rest
  rw [slotOf, hx, slot_setSlot_same]

theorem sregOf_startTask (r : Nat) : sregOf (startTask s c sl l rest) c sl r =
    if r = 1 then l.arg0.toNat else if r = 2 then l.arg1.toNat else if r = 3 then rankIn l.cores c else 0 := by
  have hrank : rankIn l.cores c < 2 ^ 64 := by
    have := rankIn_le l.cores c
    have := c.isLt
    omega
  have hread : (mget (0 : Word) (slotOf (startTask s c sl l rest) c sl).sreg r).toNat =
      if r = 1 then l.arg0.toNat else if r = 2 then l.arg1.toNat else if r = 3 then rankIn l.cores c else 0 := by
    rw [slotOf_startTask]
    dsimp only [freshSlot]
    rw [mget_mset, mget_mset, mget_mset]
    split
    · subst r
      exact BitVec.toNat_ofNat _ _ |>.trans (Nat.mod_eq_of_lt hrank)
    · split
      · subst r
        rfl
      · split
        · rfl
        · simp [mget]
  unfold sregOf
  split
  · subst r
    rfl
  · exact hread

theorem pregOf_startTask {r : Nat} (hr : 1 ≤ r) : pregOf (startTask s c sl l rest) c sl r = 0 := by
  rw [pregOf, slotOf_startTask, if_neg (by omega)]
  rfl

theorem vregOf_startTask {r : BitVec 6} (hr : vOk s c sl r = true) : vregOf (startTask s c sl l rest) c sl r = 0 := by
  obtain ⟨x, hx⟩ := coreOf_startTask s c sl l rest
  have hr := of_decide_eq_true hr
  have hphys : vPhys (startTask s c sl l rest) c sl r = vPhys s c sl r := rfl
  have hvreg (k : CoreSt) (y : SlotSt) : (k.setSlot sl y).vreg = k.vreg := by cases sl <;> rfl
  rw [vregOf, hphys, hx, hvreg]
  dsimp only
  rw [mget_filter_key (p := fun p =>
      !(decide ((vecWindow s c sl).1 ≤ p) && decide (p < (vecWindow s c sl).1 + (vecWindow s c sl).2))), if_neg]
  · exact BitVec.toNat_zero
  · simp [vPhys, hr]

theorem ibuf_startTask : (coreOf (startTask s c sl l rest) c).ibuf = [] := by
  obtain ⟨x, hx⟩ := coreOf_startTask s c sl l rest
  rw [hx]
  cases sl <;> rfl

theorem mem_ecc_startTask {m : EccMark} (hm : m ∈ (startTask s c sl l rest).ecc) :
    m ∈ s.ecc ∧ ∀ r : BitVec 6, vOk s c sl r = true → m.unit ≠ .vreg c (vPhys s c sl r) := by
  obtain ⟨hold, hfresh⟩ := List.mem_filter.mp hm
  refine ⟨hold, fun r hr hunit => ?_⟩
  have hr := of_decide_eq_true hr
  simp [hunit, freshUnit, vPhys, hr] at hfresh

theorem exec_launchStart_of_due {s : State} {c : Core} {sl : Slot} {l : Launch} {rest : List Launch}
    (hqueue : (slotOf s c sl).queue = l :: rest) (hdue : launchDue s c sl l = true) : exec (.launchStart c sl) s =
      .next (if l.failed then abortTask (startTask s c sl l rest) c sl 0x0A else startTask s c sl l rest) := by
  change execLaunchStart c sl s = _
  simp only [execLaunchStart, hqueue, hdue, if_true]

end

/-! ### The end (R139) -/

/-- What the end of a task leaves: done_tc has risen by 1 where done_en is 1. -/
def TaskEnded (s : State) (c : Core) (sl : Slot) (k : Task) (t : State) : Prop :=
  let i := 256 * c.val + k.launch.doneTc
  taskOf t c sl = none ∧
  get t .tc_value i = (if k.launch.doneEn then min (get s .tc_value i + 1) (2 ^ 32 - 1) else get s .tc_value i) ∧
  (∀ j, j ≠ i → get t .tc_value j = get s .tc_value j) ∧ KeptRegs s t [.tc_value, .tc_overflow] ∧ KeptMem s t ∧
  { t with cores := s.cores, regs := s.regs } = s ∧ (∀ d, d ≠ c.val → coreOf t d = coreOf s d)

variable {s : State} {c : Core} {sl : Slot} {k : Task}

theorem taskEnded_finishTask (htask : taskOf s c sl = some k) : TaskEnded s c sl k (finishTask s c sl) := by
  have hleft : TcLeft s (if k.launch.doneEn then tcAdd s c k.launch.doneTc 1 else s) c k.launch.doneTc := by
    split
    · exact tcLeft_tcAdd ..
    · exact tcLeft_refl ..
  have hvalue : get (if k.launch.doneEn then tcAdd s c k.launch.doneTc 1 else s) .tc_value (256 * c.val + k.launch.doneTc) =
      if k.launch.doneEn then min (get s .tc_value (256 * c.val + k.launch.doneTc) + 1) (2 ^ 32 - 1)
        else get s .tc_value (256 * c.val + k.launch.doneTc) := by
    split
    · exact get_value_tcAdd ..
    · rfl
  unfold finishTask
  rw [htask]
  exact ⟨congrArg SlotSt.task (slotOf_setSlot_same ..), hvalue, hleft.value, hleft.regs, fun a => keptMem_of_tcLeft hleft a,
    hleft.rest, fun d hd => (coreOf_setCore_ne _ _ hd).trans (hleft.cores d hd)⟩

theorem exec_endInstr_of_issues {f : RegForm} (hi : IssuesReg s c sl 0x01 f) : exec (.endInstr c sl f) s =
    .next (if taskIdle s c sl then finishTask s c sl else holdTask s c sl .done 9) :=
  congrArg Host.Outcome.next (scalarIns_issues hi rfl _)

theorem exec_taskEnd_of_held {w : WaitSt} (htask : taskOf s c sl = some k) (hwait : k.wait = some w) (hkind : w.kind = .done)
    (hup : coreUp s c = true) (hidle : taskIdle s c sl = true) (hturn : slotTurn s c sl = true) :
    exec (.taskEnd c sl) s = .next (finishTask s c sl) := by
  change execTaskEnd c sl s = _
  simp [execTaskEnd, htask, hwait, onlyIf, hkind, hup, hidle, hturn]

/-- Settles O5: what a start leaves is read off register by register; a task ends by `finishTask`, after END or after its wait. -/
theorem tasksStartAndEnd : Obligations.TasksStartAndEnd := by
  refine ⟨fun c sl s l rest hqueue hdue hgood => ?_, fun c sl s l rest hqueue hdue hfailed => ?_, ?_⟩
  · refine ⟨startTask s c sl l rest, (exec_launchStart_of_due hqueue hdue).trans (by simp [hgood]), ?_⟩
    have hslot := slotOf_startTask s c sl l rest
    exact ⟨congrArg SlotSt.task hslot, congrArg SlotSt.queue hslot, sregOf_startTask .., sregOf_startTask .., sregOf_startTask ..,
      fun r hr => by rw [sregOf_startTask, if_neg, if_neg, if_neg] <;> omega, fun r hr => pregOf_startTask _ _ _ _ _ hr,
      fun r hr => vregOf_startTask _ _ _ _ _ hr, ibuf_startTask .., fun m hm => mem_ecc_startTask _ _ _ _ _ hm, rfl,
      fun d hd => coreOf_setCore_ne _ _ hd, fun _ _ _ => rfl, fun _ => rfl⟩
  · exact ⟨_, (exec_launchStart_of_due hqueue hdue).trans (by simp [hfailed]), rfl⟩
  · intro c sl f s k htask i done _
    have hended : done (finishTask s c sl) := taskEnded_finishTask htask
    refine ⟨fun hi hidle => ?_, fun hi hbusy => ?_, fun w hwait hkind hup hidle hturn => ?_⟩
    · exact ⟨_, (exec_endInstr_of_issues hi).trans (by rw [if_pos hidle]), hended⟩
    · refine ⟨holdTask s c sl .done 9, (exec_endInstr_of_issues hi).trans (by rw [if_neg (Bool.eq_false_iff.mp hbusy)]), ?_, onlySlot_updTask _⟩
      rw [holdTask, taskOf_updTask, htask]
      rfl
    · exact ⟨_, exec_taskEnd_of_held htask hwait hkind hup hidle hturn, hended⟩

end Sys2Proof.Machine
end

section
/-!
Elements laid end to end in a register, and what vector instructions share (R143 to R147, R161).
-/
namespace Sys2Proof.Machine

/-! ### Elements laid end to end -/

/-- Digits of `w` bits laid end to end. -/
def laid (w : Nat) (d : Nat → Nat) (n : Nat) : Nat := ∑ i ∈ Finset.range n, d i % 2 ^ w * 2 ^ (w * i)

theorem laid_succ (w : Nat) (d : Nat → Nat) (n : Nat) : laid w d (n + 1) = laid w d n + d n % 2 ^ w * 2 ^ (w * n) :=
  Finset.sum_range_succ ..

theorem laid_lt (w : Nat) (d : Nat → Nat) (n : Nat) : laid w d n < 2 ^ (w * n) := by
  induction n with
  | zero => exact Nat.one_pos
  | succ n ih =>
    have hd : d n % 2 ^ w + 1 ≤ 2 ^ w := Nat.mod_lt _ (Nat.two_pow_pos w)
    calc laid w d (n + 1) < 2 ^ (w * n) + d n % 2 ^ w * 2 ^ (w * n) := by rw [laid_succ]; exact Nat.add_lt_add_right ih _
      _ = (d n % 2 ^ w + 1) * 2 ^ (w * n) := by ring
      _ ≤ 2 ^ w * 2 ^ (w * n) := Nat.mul_le_mul_right _ hd
      _ = 2 ^ (w * (n + 1)) := by ring

theorem elemAt_laid {w i n : Nat} (d : Nat → Nat) (h : i < n) : elemAt (laid w d n) w i = d i % 2 ^ w := by
  induction n with
  | zero => omega
  | succ n ih =>
    rw [laid_succ]
    rcases Nat.lt_succ_iff_lt_or_eq.mp h with hi | rfl
    · obtain ⟨k, rfl⟩ := Nat.exists_eq_add_of_lt hi
      have hpow : d (i + k + 1) % 2 ^ w * 2 ^ (w * (i + k + 1)) = 2 ^ (w * i) * (2 ^ w * (d (i + k + 1) % 2 ^ w * 2 ^ (w * k))) := by
        ring
      rw [elemAt, hpow, Nat.add_mul_div_left _ _ (Nat.two_pow_pos _), Nat.add_mul_mod_self_left]
      exact ih hi
    · rw [elemAt, Nat.add_mul_div_right _ _ (Nat.two_pow_pos _), Nat.div_eq_of_lt (laid_lt w d i), Nat.zero_add, Nat.mod_mod]

theorem foldl_eq_laid {w : Nat} {d : Nat → Nat} (hd : ∀ i, d i < 2 ^ w) (n : Nat) :
    (List.range n).foldl (fun a i => a + d i * 2 ^ (w * i)) 0 = laid w d n := by
  induction n with
  | zero => rfl
  | succ n ih => rw [List.range_succ, List.foldl_append, ih, laid_succ, Nat.mod_eq_of_lt (hd n)]; rfl

theorem mapElems_eq_laid (w n : Nat) (on : Nat → Bool) (old : Nat) (op : Nat → Nat × Counts) :
    (mapElems w n on old op).1 = laid w (fun i => if on i then (op i).1 else elemAt old w i) n := by
  induction n with
  | zero => rfl
  | succ n ih =>
    have hstep : (mapElems w (n + 1) on old op).1 = (mapElems w n on old op).1 +
        (if on n then op n else (elemAt old w n, Counts.zero)).1 % 2 ^ w * 2 ^ (w * n) := by
      simp only [mapElems, List.range_succ, List.foldl_append, List.foldl_cons, List.foldl_nil]
    rw [hstep, ih, laid_succ]
    split <;> rfl

theorem laid_mod_pow {w n b : Nat} (d : Nat → Nat) (h : w * n ≤ b) : laid w d n % 2 ^ b = laid w d n :=
  Nat.mod_eq_of_lt ((laid_lt ..).trans_le (Nat.pow_le_pow_right Nat.two_pos h))

/-- A register of 16,384 bits holds the elements of its format. -/
theorem fmtWidth_mul_elemsIn_le (fmt : Nat) : fmtWidth fmt * elemsIn fmt ≤ 512 * 32 := Nat.mul_div_le ..

theorem elemAt_mapElems {fmt i : Nat} (on : Nat → Bool) (old : Nat) (op : Nat → Nat × Counts) (h : i < elemsIn fmt) :
    elemAt ((mapElems (fmtWidth fmt) (elemsIn fmt) on old op).1 % 2 ^ (512 * 32)) (fmtWidth fmt) i =
      if on i then (op i).1 % 2 ^ fmtWidth fmt else elemAt old (fmtWidth fmt) i := by
  rw [mapElems_eq_laid, laid_mod_pow _ (fmtWidth_mul_elemsIn_le fmt), elemAt_laid _ h]
  split
  · rfl
  · exact Nat.mod_mod ..

/-! ### The state in which a vector instruction takes effect -/

theorem vregOf_setSlot (s : State) (c : Nat) (sl : Slot) (x : SlotSt) (r : BitVec 6) :
    vregOf (setSlot s c sl x) c sl r = vregOf s c sl r := by
  have hphys : vPhys (setSlot s c sl x) c sl r = vPhys s c sl r := rfl
  rw [vregOf, hphys, coreOf_setSlot_same, vregOf]
  cases sl <;> rfl

/-- The registers read without an error, and a pipe is occupied. -/
def pipeTaken (s : State) (c : Core) (sl : Slot) (v : Nat) (p : SMap Nat) : State :=
  setSlot (put s .vecErr_vreg_corrected v c) c sl { slotOf s c sl with pipes := p }

section
variable (s : State) (c : Core) (sl : Slot) (v : Nat) (p : SMap Nat)

@[simp] theorem slotOf_pipeTaken : slotOf (pipeTaken s c sl v p) c sl = { slotOf s c sl with pipes := p } :=
  slotOf_setSlot_same ..

@[simp] theorem sregOf_pipeTaken (r : Nat) : sregOf (pipeTaken s c sl v p) c sl r = sregOf s c sl r := by
  rw [sregOf, slotOf_pipeTaken, sregOf]

@[simp] theorem pregOf_pipeTaken (r : Nat) : pregOf (pipeTaken s c sl v p) c sl r = pregOf s c sl r := by
  rw [pregOf, slotOf_pipeTaken, pregOf]

@[simp] theorem predOf_pipeTaken (r : BitVec 3) (neg : Bool) : predOf (pipeTaken s c sl v p) c sl r neg = predOf s c sl r neg := by
  rw [predOf, pregOf_pipeTaken, predOf]

@[simp] theorem taskOf_pipeTaken : taskOf (pipeTaken s c sl v p) c sl = taskOf s c sl := by
  rw [taskOf, slotOf_pipeTaken, taskOf]

@[simp] theorem vregOf_pipeTaken (r : BitVec 6) : vregOf (pipeTaken s c sl v p) c sl r = vregOf s c sl r :=
  vregOf_setSlot ..

theorem coreOf_pipeTaken_ne {d : Nat} (hd : d ≠ c) : coreOf (pipeTaken s c sl v p) d = coreOf s d :=
  coreOf_setCore_ne _ _ hd

theorem keptRegs_pipeTaken : KeptRegs s (pipeTaken s c sl v p) [.vecErr_vreg_corrected] :=
  fun _ _ hf => get_put_fld s _ _ _ (List.ne_of_not_mem_cons hf)

end

section
variable {s : State} {c : Core} {sl : Slot} {f : RegForm} {op : Nat} {stoch ok : State → Bool} {srcs dsts : List (BitVec 6)}

theorem readVregs_of_good (hgood : VregsGood s c = true) (rs : List (BitVec 6)) :
    ∃ v, readVregs s c sl rs = (put s .vecErr_vreg_corrected v c, true) := by
  have hhit : s.ecc.filter (fun m => rs.any (fun r => m.unit == .vreg c (vPhys s c sl r))) = [] := by
    refine List.filter_eq_nil_iff.mpr fun m hm hany => ?_
    obtain ⟨r, -, hr⟩ := List.any_eq_true.mp hany
    have hcore := List.all_eq_true.mp hgood m hm
    rw [beq_iff_eq.mp hr] at hcore
    exact bne_iff_ne.mp hcore rfl
  have hecc : s.ecc.filter (fun m => !([] : List EccMark).contains m) = s.ecc := List.filter_eq_self.mpr fun _ _ => rfl
  unfold readVregs
  rw [hhit]
  dsimp only
  rw [hecc]
  exact ⟨_, rfl⟩

/-- A vector instruction whose fields hold and whose registers lie in the window takes effect. -/
theorem vecIns_issues (hi : Issues s c sl (regWord op f)) (hreg : regOk f (stoch s) = true) (hok : ok s = true)
    (hwin : (srcs ++ dsts).all (vOk s c sl) = true) (hgood : VregsGood s c = true) (inPart : Bool) (body : State → State) :
    ∃ v p, vecIns op c sl f stoch ok srcs dsts inPart body s = body (pipeTaken s c sl v p) := by
  obtain ⟨v, hv⟩ := readVregs_of_good (sl := sl) hgood
    (srcs ++ if decide (predOf s c sl f.pred f.pneg = BitVec.allOnes 512) && !inPart then [] else dsts)
  have hbody : vecIns op c sl f stoch ok srcs dsts inPart body s = body (occupy (put s .vecErr_vreg_corrected v c) c sl
      (pipeClk (polStrict s c sl) op f).1 (pipeClk (polStrict s c sl) op f).2) := by
    rw [vecIns, sequence_issues hi]
    dsimp only
    rw [hreg, hok, hwin, hv, Bool.and_self, if_pos rfl, if_pos rfl, if_pos rfl]
  exact ⟨v, _, hbody⟩

end

/-! ### Counts and records -/

/-- Only counters and the records of the numeric module differ. -/
def Tallied (u x : State) (l : List Fld) : Prop := { x with regs := u.regs, num := u.num } = u ∧ KeptRegs u x l

section
variable {u x : State} {l : List Fld}

theorem tallied_refl (u : State) : Tallied u u [] := ⟨rfl, fun _ _ _ => rfl⟩

theorem tallied_sendRec (h : Tallied u x l) (r : NumRec) : Tallied u (sendRec x r) l := by
  unfold sendRec
  split
  · exact h
  · exact h

theorem tallied_fileCounts (h : Tallied u x l) (c : Nat) (sl : Slot) (k : Counts) : Tallied u (fileCounts x c sl k) l :=
  tallied_sendRec h _

theorem tallied_bumpW (h : Tallied u x l) {g : Fld} (hg : g ∈ l) (n i : Nat) : Tallied u (bumpW x g n i) l :=
  ⟨h.1, keptRegs_put h.2 hg _ _⟩

theorem tallied_mono (h : Tallied u x []) (l : List Fld) : Tallied u x l := ⟨h.1, fun g i _ => h.2 g i List.not_mem_nil⟩

theorem cores_of_tallied (h : Tallied u x l) : x.cores = u.cores := (congrArg State.cores h.1 :)

theorem coreOf_of_tallied (h : Tallied u x l) (c : Nat) : coreOf x c = coreOf u c := by
  rw [coreOf, cores_of_tallied h, coreOf]

theorem slotOf_of_tallied (h : Tallied u x l) (c : Nat) (sl : Slot) : slotOf x c sl = slotOf u c sl := by
  rw [slotOf, coreOf_of_tallied h, slotOf]

end

/-! ### What a vector instruction leaves -/

/-- What is as it was while an instruction of a slot takes effect; vector and predicate registers are told apart. -/
structure Working (s u : State) (c : Core) (sl : Slot) (l : List Fld) : Prop where
  task : taskOf u c sl = taskOf s c sl
  sreg : ∀ r, sregOf u c sl r = sregOf s c sl r
  regs : KeptRegs s u l
  mem : u.mem = s.mem
  shp : u.shp = s.shp
  cores : ∀ d, d ≠ c.val → coreOf u d = coreOf s d

section
variable {s u x : State} {c : Core} {sl : Slot} {l l' : List Fld}

theorem slotOf_setVreg (s : State) (c : Core) (sl sk : Slot) (r : BitVec 6) (n : Nat) :
    slotOf (setVreg s c sl r n) c sk = slotOf s c sk := by
  rw [slotOf, setVreg, coreOf_setCore_same]
  cases sk <;> rfl

theorem pregOf_setVreg (s : State) (c : Core) (sl : Slot) (r : BitVec 6) (n q : Nat) :
    pregOf (setVreg s c sl r n) c sl q = pregOf s c sl q := by
  rw [pregOf, slotOf_setVreg, pregOf]

theorem vPhys_injective (s : State) (c : Nat) (sl : Slot) : Function.Injective (vPhys s c sl) :=
  fun _ _ h => BitVec.eq_of_toNat_eq (Nat.add_left_cancel h)

/-- A vector register of the same window after a write of one. -/
theorem vregOf_setVreg_same (s : State) (c : Core) (sl : Slot) (r q : BitVec 6) (n : Nat) :
    vregOf (setVreg s c sl r n) c sl q = if q = r then n % 2 ^ (512 * 32) else vregOf s c sl q := by
  rw [vregOf_setVreg]
  by_cases hq : q = r
  · rw [if_pos ⟨rfl, congrArg _ hq⟩, if_pos hq]
  · rw [if_neg fun h => hq (vPhys_injective s c sl h.2), if_neg hq]

theorem vregOf_advance (s : State) (c : Nat) (sl : Slot) (r : BitVec 6) : vregOf (advance s c sl) c sl r = vregOf s c sl r :=
  vregOf_setSlot ..

theorem vregOf_setPreg (s : State) (c : Nat) (sl : Slot) (r : Nat) (n : BitVec 512) (q : BitVec 6) :
    vregOf (setPreg s c sl r n) c sl q = vregOf s c sl q := by
  unfold setPreg
  split
  · rfl
  · exact vregOf_setSlot ..

theorem vregOf_of_tallied (h : Tallied u x l) (c : Nat) (sl : Slot) (r : BitVec 6) : vregOf x c sl r = vregOf u c sl r := by
  have hshp : x.shp = u.shp := (congrArg State.shp h.1 :)
  have hphys : vPhys x c sl r = vPhys u c sl r := congrArg (fun y => vPhys { u with shp := y } c sl r) hshp
  rw [vregOf, coreOf_of_tallied h, hphys, vregOf]

theorem pregOf_of_tallied (h : Tallied u x l) (c : Nat) (sl : Slot) (r : Nat) : pregOf x c sl r = pregOf u c sl r := by
  rw [pregOf, slotOf_of_tallied h, pregOf]

theorem working_pipeTaken (s : State) (c : Core) (sl : Slot) (v : Nat) (p : SMap Nat) :
    Working s (pipeTaken s c sl v p) c sl [.vecErr_vreg_corrected] where
  task := taskOf_pipeTaken ..
  sreg _ := sregOf_pipeTaken ..
  regs _ _ hg := keptRegs_pipeTaken _ _ _ _ _ _ _ hg
  mem := rfl
  shp := rfl
  cores _ hd := coreOf_pipeTaken_ne _ _ _ _ _ hd

theorem working_setVreg (h : Working s u c sl l) (r : BitVec 6) (n : Nat) : Working s (setVreg u c sl r n) c sl l where
  task := (congrArg SlotSt.task (slotOf_setVreg ..)).trans h.task
  sreg q := by rw [← h.sreg, sregOf, slotOf_setVreg, sregOf]
  regs := h.regs
  mem := h.mem
  shp := h.shp
  cores d hd := (coreOf_setCore_ne _ _ hd).trans (h.cores d hd)

theorem working_tallied (h : Working s u c sl l) (hx : Tallied u x l') (hl : l' ⊆ l) : Working s x c sl l where
  task := (congrArg SlotSt.task (slotOf_of_tallied hx ..)).trans h.task
  sreg q := by rw [← h.sreg, sregOf, slotOf_of_tallied hx, sregOf]
  regs g i hg := (hx.2 g i fun hm => hg (hl hm)).trans (h.regs g i hg)
  mem := (congrArg State.mem hx.1 :).trans h.mem
  shp := (congrArg State.shp hx.1 :).trans h.shp
  cores d hd := (coreOf_of_tallied hx d).trans (h.cores d hd)

theorem working_setPreg (h : Working s u c sl l) (r : Nat) (n : BitVec 512) : Working s (setPreg u c sl r n) c sl l := by
  unfold setPreg
  split
  · exact h
  · exact {
      task := (congrArg SlotSt.task (slotOf_setSlot_same ..)).trans h.task
      sreg := fun q => by rw [← h.sreg, sregOf, slotOf_setSlot_same, sregOf]
      regs := h.regs
      mem := h.mem
      shp := h.shp
      cores := fun d hd => (coreOf_setCore_ne _ _ hd).trans (h.cores d hd) }

theorem working_mono (h : Working s u c sl l) (hl : l ⊆ l') : Working s u c sl l' :=
  { h with regs := fun g i hg => h.regs g i fun hm => hg (hl hm) }

/-- The instruction goes on. -/
theorem goesOn_of_working (h : Working s u c sl l) : (∀ r, sregOf (advance u c sl) c sl r = sregOf s c sl r) ∧
    Moved s (advance u c sl) c sl 1 ∧ KeptRegs s (advance u c sl) l ∧ KeptMem s (advance u c sl) ∧
    (∀ d, d ≠ c.val → coreOf (advance u c sl) d = coreOf s d) :=
  ⟨fun r => (sregOf_advance ..).trans (h.sreg r), moved_advance h.task, h.regs, keptMem_of_mem_eq (t := advance u c sl) h.mem,
    fun d hd => (coreOf_setCore_ne _ _ hd).trans (h.cores d hd)⟩

end

/-! ### Element-wise results -/

section
variable {s x : State} {c : Core} {sl : Slot} {v : Nat} {p : SMap Nat} {rd : BitVec 6} {l : List Fld}

/-- A vector register written and counted, then the next instruction. -/
theorem vectorOut_advance {r w n : Nat} {new : Nat → Nat} (hx : Tallied (setVreg (pipeTaken s c sl v p) c sl rd r) x l)
    (hl : l ⊆ [.vecErr_vreg_corrected, .vecFma_lanes, .vecExp_elements])
    (hnew : ∀ i < n, elemAt (r % 2 ^ (512 * 32)) w i = new i) : VectorOut s (advance x c sl) c sl rd w n new := by
  have hwork := working_tallied (working_mono (working_setVreg (working_pipeTaken s c sl v p) rd r) (by decide)) hx hl
  obtain ⟨hsreg, hmoved, hregs, hmem, hcores⟩ := goesOn_of_working hwork
  have hvreg (q : BitVec 6) : vregOf (advance x c sl) c sl q = if q = rd then r % 2 ^ (512 * 32) else vregOf s c sl q := by
    rw [vregOf_advance, vregOf_of_tallied hx, vregOf_setVreg_same, vregOf_pipeTaken]
  refine ⟨fun i hi => ?_, fun q _ hq => ?_, hsreg, fun q => ?_, hmoved, hregs, hmem, hcores⟩
  · rw [hvreg, if_pos rfl]
    exact hnew i hi
  · rw [hvreg, if_neg hq]
  · rw [pregOf_advance, pregOf_of_tallied hx, pregOf_setVreg, pregOf_pipeTaken]

theorem vectorOut_vecWrite {f : RegForm} {fmt : Nat} {ctr : Fld} (hctr : ctr ∈ [Fld.vecFma_lanes, Fld.vecExp_elements]) (n : Nat)
    (op : Nat → Nat × Counts) : VectorOut s (vecWrite (pipeTaken s c sl v p) c sl f fmt ctr n op) c sl f.rd (fmtWidth fmt)
      (elemsIn fmt) (fun i => if elemOn (predOf s c sl f.pred f.pneg) fmt i then (op i).1 % 2 ^ fmtWidth fmt
        else elemAt (vregOf s c sl f.rd) (fmtWidth fmt) i) := by
  unfold vecWrite
  dsimp only
  refine vectorOut_advance (l := [.vecFma_lanes, .vecExp_elements])
    (tallied_bumpW (tallied_fileCounts (tallied_mono (tallied_refl _) _) ..) hctr ..) (by decide) fun i hi => ?_
  rw [elemAt_mapElems _ _ _ hi, predOf_pipeTaken, vregOf_pipeTaken]

end

end Sys2Proof.Machine
end

section
/-!
The instructions of the FMA and transcendental pipes (R145, R157, R159, R160).
-/
namespace Sys2Proof.Machine

variable {s : State} {c : Core} {sl : Slot} {f : RegForm} {i : Instr} {op : Nat} {srcs : List (BitVec 6)}

/-- What the vector instructions write that compute element by element. -/
def ElementWise (s : State) (c : Core) (sl : Slot) (f : RegForm) (g : Nat → Nat × Counts) (t : State) : Prop :=
  VectorOut s t c sl f.rd (fmtWidth f.fmt.toNat) (elemsIn f.fmt.toNat) (fun i =>
    if elemOn (predOf s c sl f.pred f.pneg) f.fmt.toNat i then (g i).1 % 2 ^ fmtWidth f.fmt.toNat
    else elemAt (vregOf s c sl f.rd) (fmtWidth f.fmt.toNat) i)

theorem runs_fmaIns {okF : Nat → Bool} {lanes : Nat → Nat} {g : Bool → Nat → List Nat → Nat × Counts}
    (hexec : exec i s = .next (fmaIns op c sl f okF srcs lanes g s)) (hi : Issues s c sl (regWord op f))
    (hreg : regOk f false = true) (hfmt : okF f.fmt.toNat = true) (hwin : (srcs ++ [f.rd]).all (vOk s c sl) = true)
    (hgood : VregsGood s c = true) : Runs i s (ElementWise s c sl f (fun i =>
      g (polStrict s c sl) f.fmt.toNat (srcs.map (fun r => elemAt (vregOf s c sl r) (fmtWidth f.fmt.toNat) i)))) := by
  obtain ⟨v, p, hbody⟩ := vecIns_issues (stoch := fun _ => false) (ok := fun _ => okF f.fmt.toNat) hi hreg hfmt hwin hgood false _
  refine ⟨_, hexec.trans (congrArg _ hbody), ?_⟩
  have hstrict : polStrict (pipeTaken s c sl v p) c sl = polStrict s c sl := rfl
  simp only [List.map_map, Function.comp_def, vregOf_pipeTaken, hstrict]
  exact vectorOut_vecWrite (by decide) ..

theorem runs_transIns {ok : Bool} {g : Bool → Nat → List Num → Nat × Counts}
    (hexec : exec i s = .next (transIns op c sl f ok srcs g s)) (hi : Issues s c sl (regWord op f))
    (hreg : regOk f false = true) (hfmt : transFmt f.fmt.toNat = true) (hok : ok = true)
    (hwin : (srcs ++ [f.rd]).all (vOk s c sl) = true) (hgood : VregsGood s c = true) :
    Runs i s (ElementWise s c sl f (fun i => g (polStrict s c sl) f.fmt.toNat
      (srcs.map (fun r => decodeNum f.fmt.toNat (elemAt (vregOf s c sl r) (fmtWidth f.fmt.toNat) i))))) := by
  obtain ⟨v, p, hbody⟩ := vecIns_issues (stoch := fun _ => false) (ok := fun _ => transFmt f.fmt.toNat && ok) hi hreg
    (by rw [hfmt, hok]; rfl) hwin hgood false _
  refine ⟨_, hexec.trans (congrArg _ hbody), ?_⟩
  have hstrict : polStrict (pipeTaken s c sl v p) c sl = polStrict s c sl := rfl
  simp only [List.map_map, Function.comp_def, vregOf_pipeTaken, hstrict]
  exact vectorOut_vecWrite (by decide) ..

/-- Settles O9: the rows of the FMA pipe are all `fmaIns`, and those of the transcendental pipe `transIns`. -/
theorem vectorAndTranscendentalResults : Obligations.VectorAndTranscendentalResults := by
  refine ⟨fun x hx c sl f s => ?fma, fun x hx c sl f s => ?trans⟩
  case fma =>
    have hexec : ∃ lanes, exec (x.1 c sl f) s = .next (fmaIns x.2.1 c sl f x.2.2.2.1 (x.2.2.1 f) lanes (x.2.2.2.2 f) s) := by
      simp only [List.mem_cons, List.not_mem_nil, or_false] at hx
      rcases hx with rfl | rfl | rfl | rfl | rfl | rfl | rfl | rfl | rfl | rfl | rfl <;> exact ⟨_, rfl⟩
    obtain ⟨lanes, hexec⟩ := hexec
    exact runs_fmaIns hexec
  case trans =>
    have hexec : exec (x.1 c sl f) s = .next (transIns x.2.1 c sl f (x.2.2.2.1 f) (x.2.2.1 f) (x.2.2.2.2 f) s) := by
      simp only [List.mem_cons, List.not_mem_nil, or_false] at hx
      rcases hx with rfl | rfl | rfl | rfl <;> rfl
    exact runs_transIns hexec

end Sys2Proof.Machine
end

section
/-!
VCMP, VBCAST, VSHUF and VRED (R147, R158).
-/
namespace Sys2Proof.Machine

variable {s : State} {c : Core} {sl : Slot} {f : RegForm}

/-! ### VCMP -/

/-- The bit that VCMP gives a lane. -/
def cmpBit (s : State) (c : Core) (sl : Slot) (f : RegForm) (b : Nat) : Bool :=
  if elemOn (predOf s c sl f.pred f.pneg) f.fmt.toNat (cmpElem f.fmt.toNat b) then
    numCmp f.sub.toNat (decodeNum f.fmt.toNat (elemAt (vregOf s c sl f.ra) (fmtWidth f.fmt.toNat) (cmpElem f.fmt.toNat b)))
      (decodeNum f.fmt.toNat (elemAt (vregOf s c sl f.rb) (fmtWidth f.fmt.toNat) (cmpElem f.fmt.toNat b)))
  else (pregOf s c sl f.rd.toNat).getLsbD b

theorem getLsbD_laid {b n : Nat} (x : Nat → Bool) (hb : b < n) : (BitVec.ofNat n (laid 1 (fun i => bit (x i)) n)).getLsbD b = x b := by
  have helem : laid 1 (fun i => bit (x i)) n / 2 ^ b % 2 = bit (x b) % 2 := by
    simpa [elemAt] using elemAt_laid (w := 1) (fun i => bit (x i)) hb
  rw [BitVec.getLsbD_ofNat, decide_eq_true hb, Bool.true_and, Nat.testBit_eq_decide_div_mod_eq, helem]
  cases x b <;> rfl

theorem exec_vcmp_of_issues (hi : Issues s c sl (regWord 0x6B f)) (hreg : regOk f false = true)
    (hfmt : arithFmt f.fmt.toNat = true) (hd : f.rd.toNat < 8) (hsub : f.sub.toNat < 5)
    (hwin : [f.ra, f.rb].all (vOk s c sl) = true) (hgood : VregsGood s c = true) :
    ∃ v p, exec (.vcmp c sl f) s = .next (advance (bumpW (setPreg (pipeTaken s c sl v p) c sl f.rd.toNat
      (BitVec.ofNat 512 (laid 1 (fun b => bit (cmpBit s c sl f b)) 512))) .vecFma_lanes (fmaLanes f.fmt.toNat) c) c sl) := by
  obtain ⟨v, p, hbody⟩ := vecIns_issues (stoch := fun _ => false) (srcs := [f.ra, f.rb]) (dsts := [])
    (ok := fun _ => arithFmt f.fmt.toNat && pOk f.rd && decide (f.sub.toNat < 5)) hi hreg (by simp [hfmt, pOk, hd, hsub]) hwin hgood
    false _
  have hbit (b : Bool) : bit b < 2 ^ 1 := by cases b <;> decide
  refine ⟨v, p, (congrArg Host.Outcome.next hbody).trans ?_⟩
  rw [← foldl_eq_laid fun i => hbit _]
  simp only [vregOf_pipeTaken, predOf_pipeTaken, pregOf_pipeTaken, Nat.one_mul]
  rfl

/-! ### VRED -/

theorem runs_vred {n : Nat} (hi : Issues s c sl (regWord 0x6E f)) (hreg : regOk f false = true)
    (hfmt : arithFmt f.fmt.toNat = true) (hsub : f.sub.toNat < 4) (hwin : [f.ra, f.rd].all (vOk s c sl) = true)
    (hgood : VregsGood s c = true)
    (hn : n = if 1 ≤ f.imm.toNat % 16 ∧ f.imm.toNat % 16 ≤ redMax f.fmt.toNat then f.imm.toNat % 16 else redMax f.fmt.toNat) :
    Runs (.vred c sl f) s (fun t => VectorOut s t c sl f.rd (fmtWidth f.fmt.toNat) (elemsIn f.fmt.toNat) (fun g =>
      if g < elemsIn f.fmt.toNat / 2 ^ n ∧ elemOn (predOf s c sl f.pred f.pneg) f.fmt.toNat g = true then
        let xs := (List.range (2 ^ n)).map (fun i =>
          decodeNum f.fmt.toNat (elemAt (vregOf s c sl f.ra) (fmtWidth f.fmt.toNat) (g * 2 ^ n + i)))
        encExact f.fmt.toNat (redTree (redOp f.sub.toNat f.fmt.toNat f.rnd.toNat (polStrict s c sl)) n
          (if f.sub.toNat = 3 then xs.map (redAbs f.fmt.toNat) else xs)).1 % 2 ^ fmtWidth f.fmt.toNat
      else elemAt (vregOf s c sl f.rd) (fmtWidth f.fmt.toNat) g)) := by
  obtain ⟨v, p, hbody⟩ := vecIns_issues (stoch := fun _ => false) (srcs := [f.ra]) (dsts := [f.rd])
    (ok := fun _ => arithFmt f.fmt.toNat && decide (f.sub.toNat < 4)) hi hreg (by simp [hfmt, hsub]) hwin hgood true _
  refine ⟨_, congrArg Host.Outcome.next hbody, ?_⟩
  have hstrict : polStrict (pipeTaken s c sl v p) c sl = polStrict s c sl := rfl
  dsimp only
  rw [← hn]
  refine vectorOut_advance (tallied_fileCounts (tallied_refl _) ..) (List.nil_subset _) fun g hg => ?_
  rw [elemAt_mapElems _ _ _ hg]
  simp only [vregOf_pipeTaken, predOf_pipeTaken, hstrict, Bool.and_eq_true, decide_eq_true_eq]

/-! ### VBCAST and VSHUF -/

/-- The element that VBCAST gives element `i`. -/
def bcastElem (s : State) (c : Core) (sl : Slot) (f : RegForm) (i : Nat) : Nat :=
  match f.sub.toNat with
  | 0 => sregOf s c sl f.ra.toNat % 2 ^ fmtWidth f.fmt.toNat
  | 1 => elemAt (vregOf s c sl f.ra) (fmtWidth f.fmt.toNat) (i / 2 ^ (f.imm.toNat % 16))
  | _ => elemAt (vregOf s c sl f.ra) (fmtWidth f.fmt.toNat) (f.imm.toNat % 1024 % elemsIn f.fmt.toNat)

theorem bcastElem_mod (s : State) (c : Core) (sl : Slot) (f : RegForm) (i : Nat) :
    bcastElem s c sl f i % 2 ^ fmtWidth f.fmt.toNat = bcastElem s c sl f i := by
  unfold bcastElem
  split <;> exact Nat.mod_mod ..

theorem runs_vbcast (hi : Issues s c sl (regWord 0x6C f)) (hreg : regOk f false = true) (hfmt : arithFmt f.fmt.toNat = true)
    (hsub : f.sub.toNat < 3) (hra : f.sub.toNat = 0 → f.ra.toNat < 32)
    (hwin : ((if f.sub.toNat = 0 then [] else [f.ra]) ++ [f.rd]).all (vOk s c sl) = true) (hgood : VregsGood s c = true) :
    Runs (.vbcast c sl f) s (ElementWise s c sl f (fun i => (bcastElem s c sl f i, Counts.zero))) := by
  have hscalar : (decide (f.sub.toNat ≠ 0) || sOk f.ra) = true := by
    simpa [sOk] using Decidable.not_or_of_imp hra
  obtain ⟨v, q, hbody⟩ := vecIns_issues (stoch := fun _ => false)
    (ok := fun _ => arithFmt f.fmt.toNat && decide (f.sub.toNat < 3) && (decide (f.sub.toNat ≠ 0) || sOk f.ra)) hi hreg
    (by simp only [hfmt, hsub, hscalar, decide_true, Bool.and_self]) hwin hgood false _
  refine ⟨_, congrArg Host.Outcome.next hbody, ?_⟩
  simp only [vregOf_pipeTaken, sregOf_pipeTaken]
  exact vectorOut_vecWrite (by decide) ..

theorem runs_vshuf (hi : Issues s c sl (regWord 0x6D f)) (hreg : regOk f false = true) (hfmt : arithFmt f.fmt.toNat = true)
    (hwin : [f.ra, f.rb, f.rd].all (vOk s c sl) = true) (hgood : VregsGood s c = true) :
    Runs (.vshuf c sl f) s (ElementWise s c sl f (fun i => (elemAt (vregOf s c sl f.ra) (fmtWidth f.fmt.toNat)
      (elemAt (vregOf s c sl f.rb) (fmtWidth f.fmt.toNat) i % elemsIn f.fmt.toNat), Counts.zero))) := by
  obtain ⟨v, q, hbody⟩ := vecIns_issues (stoch := fun _ => false) (ok := fun _ => arithFmt f.fmt.toNat) (srcs := [f.ra, f.rb])
    (dsts := [f.rd]) hi hreg hfmt hwin hgood false _
  refine ⟨_, congrArg Host.Outcome.next hbody, ?_⟩
  simp only [vregOf_pipeTaken]
  exact vectorOut_vecWrite (by decide) ..

theorem elementWise_congr {g : Nat → Nat × Counts} {new : Nat → Nat} {t : State} (h : ElementWise s c sl f g t)
    (hnew : ∀ i, (g i).1 % 2 ^ fmtWidth f.fmt.toNat = new i) :
    VectorOut s t c sl f.rd (fmtWidth f.fmt.toNat) (elemsIn f.fmt.toNat) (fun i =>
      if elemOn (predOf s c sl f.pred f.pneg) f.fmt.toNat i then new i
      else elemAt (vregOf s c sl f.rd) (fmtWidth f.fmt.toNat) i) := by
  simpa only [ElementWise, hnew] using h

/-- VBCAST of one sub. -/
theorem runs_vbcast_of_sub {n : Nat} {new : Nat → Nat} (hi : Issues s c sl (regWord 0x6C f)) (hreg : regOk f false = true)
    (hfmt : arithFmt f.fmt.toNat = true) (hgood : VregsGood s c = true) (hsub : f.sub.toNat = n) (hn : n < 3)
    (hra : n = 0 → f.ra.toNat < 32) (hwin : ((if n = 0 then [] else [f.ra]) ++ [f.rd]).all (vOk s c sl) = true)
    (hnew : ∀ i, bcastElem s c sl f i = new i) :
    Runs (.vbcast c sl f) s (fun t => VectorOut s t c sl f.rd (fmtWidth f.fmt.toNat) (elemsIn f.fmt.toNat) (fun i =>
      if elemOn (predOf s c sl f.pred f.pneg) f.fmt.toNat i then new i
      else elemAt (vregOf s c sl f.rd) (fmtWidth f.fmt.toNat) i)) := by
  subst n
  obtain ⟨t, hexec, hout⟩ := runs_vbcast hi hreg hfmt hn hra hwin hgood
  exact ⟨t, hexec, elementWise_congr hout fun i => (bcastElem_mod ..).trans (hnew i)⟩

theorem runs_vcmp (hi : Issues s c sl (regWord 0x6B f)) (hreg : regOk f false = true) (hfmt : arithFmt f.fmt.toNat = true)
    (hd : f.rd.toNat < 8) (hsub : f.sub.toNat < 5) (hwin : [f.ra, f.rb].all (vOk s c sl) = true) (hgood : VregsGood s c = true) :
    Runs (.vcmp c sl f) s (fun t =>
      (f.rd.toNat ≠ 0 → ∀ b < 512, (pregOf t c sl f.rd.toNat).getLsbD b = cmpBit s c sl f b) ∧
      (∀ r, r ≠ f.rd.toNat → pregOf t c sl r = pregOf s c sl r) ∧ (∀ r, vregOf t c sl r = vregOf s c sl r) ∧
      (∀ r, sregOf t c sl r = sregOf s c sl r) ∧ Moved s t c sl 1 ∧
      KeptRegs s t [.vecErr_vreg_corrected, .vecFma_lanes] ∧ KeptMem s t) := by
  obtain ⟨v, p, hexec⟩ := exec_vcmp_of_issues hi hreg hfmt hd hsub hwin hgood
  have htally (u : State) : Tallied u (bumpW u .vecFma_lanes (fmaLanes f.fmt.toNat) c) [.vecFma_lanes] :=
    tallied_bumpW (tallied_mono (tallied_refl u) _) (by decide) ..
  have hwork := working_tallied (working_mono (working_setPreg (working_pipeTaken s c sl v p) f.rd.toNat
    (BitVec.ofNat 512 (laid 1 (fun b => bit (cmpBit s c sl f b)) 512))) (by decide)) (htally _)
    (l := [.vecErr_vreg_corrected, .vecFma_lanes]) (by decide)
  obtain ⟨hsreg, hmoved, hregs, hmem, -⟩ := goesOn_of_working hwork
  refine ⟨_, hexec, fun hne b hb => ?_, fun r hr => ?_, fun r => ?_, hsreg, hmoved, hregs, hmem⟩
  · rw [pregOf_advance, pregOf_of_tallied (htally _), pregOf_setPreg, if_pos ⟨rfl, hne⟩, getLsbD_laid _ hb]
  · rw [pregOf_advance, pregOf_of_tallied (htally _), pregOf_setPreg, if_neg fun h => hr h.1, pregOf_pipeTaken]
  · rw [vregOf_advance, vregOf_of_tallied (htally _), vregOf_setPreg, vregOf_pipeTaken]

/-- Settles O10: a comparison writes one predicate register bit by bit; the others write elements as the FMA pipe does. -/
theorem vectorCompareMoveReduce : Obligations.VectorCompareMoveReduce := by
  intro c sl f s hreg hfmt hgood fmt w p el out
  refine ⟨fun hi hd hsub hwin => runs_vcmp hi hreg hfmt hd hsub hwin hgood, fun hi hsub hra hwin => ?_, fun hi hsub hwin => ?_,
    fun hi hsub hwin => ?_, fun hi hwin => ?_, fun hi hsub hwin n hn => runs_vred hi hreg hfmt hsub hwin hgood hn⟩
  · exact runs_vbcast_of_sub hi hreg hfmt hgood hsub (by decide) (fun _ => hra) (by simpa using hwin) fun i => by
      simp only [bcastElem, hsub]; rfl
  · exact runs_vbcast_of_sub hi hreg hfmt hgood hsub (by decide) (by simp) hwin fun i => by simp only [bcastElem, hsub]; rfl
  · exact runs_vbcast_of_sub hi hreg hfmt hgood hsub (by decide) (by simp) hwin fun i => by simp only [bcastElem, hsub]; rfl
  · obtain ⟨t, hexec, hout⟩ := runs_vshuf hi hreg hfmt hwin hgood
    exact ⟨t, hexec, elementWise_congr hout fun i => Nat.mod_mod ..⟩

end Sys2Proof.Machine
end

section
/-!
A vector load that is not silent (R103, R265, R271). VLD reads local SRAM as SLD does, so the stray mark of `strayMarked` is counted
here too, whether or not a lane takes what was read.
-/
namespace Sys2Proof.Machine

/-- The fields of a VLD of FP64 elements into V0 from the start of local SRAM, all lanes off. -/
def vectorLoadFirst : RegForm := { regFields 0 with pneg := true }

/-- `strayMarked` with the vector load as the next instruction. -/
def strayMarkedVector : State :=
  setCore strayMarked 0 { coreOf strayMarked 0 with ibuf := [((1, 0), BitVec.ofNat 128 (regWord 0x60 vectorLoadFirst))] }

theorem issues_strayMarkedVector : Issues strayMarkedVector 0 .prim (regWord 0x60 vectorLoadFirst) := by
  unfold Issues
  decide +kernel

/-- The registers hold no latent error, V0 lies in the window, the range in the slot's split, and no uncorrectable unit stops the
read. -/
theorem operands_strayMarkedVector :
    let c : Core := 0
    let a := eaOf strayMarkedVector c .prim vectorLoadFirst
    let n := vldBytes vectorLoadFirst.fmt.toNat
    VregsGood strayMarkedVector c = true ∧ vOk strayMarkedVector c .prim vectorLoadFirst.rd = true ∧
      inSplit strayMarkedVector c .prim a n = true ∧ readFault strayMarkedVector (sramBase c + a) n = none := by
  decide +kernel

/-- The stack to which the module's interleaving takes the marked offset counts one corrected unit more. -/
theorem vld_counts_strayMarkedVector :
    get strayMarkedVector .hbmStack_corrected (stackOf strayMarkedVector (sramBase 0)) = 0 ∧
    shownAfter .hbmStack_corrected (stackOf strayMarkedVector (sramBase 0))
      (exec (.vld 0 .prim vectorLoadFirst) strayMarkedVector) = some 1 := by
  decide +kernel

/-- Refutes O11: in `strayMarkedVector` a VLD within its split, whose read meets no uncorrectable unit, raises
`HBM_STACK.corrected`, while the statement keeps every register but `VEC_ERR.vreg_corrected`. -/
theorem not_vectorLoadsAndStores : ¬ Obligations.VectorLoadsAndStores := by
  intro h
  obtain ⟨hvregs, hwin, hsplit, hread⟩ := operands_strayMarkedVector
  obtain ⟨hload, -⟩ := h 0 .prim vectorLoadFirst strayMarkedVector (by decide) (by decide) hvregs
  obtain ⟨hbefore, hafter⟩ := vld_counts_strayMarkedVector
  obtain ⟨t, hexec, -, -, -, -, -, hkept, -⟩ := hload issues_strayMarkedVector hwin hsplit hread
  rw [hexec] at hafter
  have hsame := hkept .hbmStack_corrected (stackOf strayMarkedVector (sramBase 0)) (by decide)
  rw [hbefore, Option.some.inj hafter] at hsame
  exact absurd hsame (by decide)

end Sys2Proof.Machine
end

section
/-!
Fields placed in a register one after another, as VCVT places its elements and the scales of its blocks (R169, R182).
-/
namespace Sys2Proof.Machine

/-- The bits of a number below, in and above a field. -/
theorem eq_below_field_above (v off w : Nat) :
    v = 2 ^ off * (2 ^ w * (v / 2 ^ off / 2 ^ w) + v / 2 ^ off % 2 ^ w) + v % 2 ^ off := by
  rw [Nat.div_add_mod, Nat.div_add_mod]

theorem setBits_eq (v off w x : Nat) :
    setBits v off w x = 2 ^ off * (2 ^ w * (v / 2 ^ off / 2 ^ w) + x % 2 ^ w) + v % 2 ^ off := by
  have h := eq_below_field_above v off w
  rw [setBits]
  generalize v / 2 ^ off / 2 ^ w = hi, v / 2 ^ off % 2 ^ w = mid, v % 2 ^ off = lo at h ⊢
  have hv : v = 2 ^ off * (2 ^ w * hi) + lo + mid * 2 ^ off := by rw [h]; ring
  rw [hv, Nat.add_sub_cancel]
  ring

/-- A replaced field holds the new bits, and every other bit is as it was. -/
theorem testBit_setBits (v off w x b : Nat) : (setBits v off w x).testBit b =
    if off ≤ b ∧ b < off + w then x.testBit (b - off) else v.testBit b := by
  rw [setBits_eq, Nat.testBit_two_pow_mul_add _ (Nat.mod_lt _ (Nat.two_pow_pos _)),
    Nat.testBit_two_pow_mul_add _ (Nat.mod_lt _ (Nat.two_pow_pos _))]
  by_cases hlow : b < off
  · rw [if_pos hlow, if_neg (by omega), Nat.testBit_mod_two_pow, decide_eq_true hlow, Bool.true_and]
  · rw [if_neg hlow]
    by_cases hin : b - off < w
    · rw [if_pos hin, if_pos (by omega), Nat.testBit_mod_two_pow, decide_eq_true hin, Bool.true_and]
    · rw [if_neg hin, if_neg (by omega), Nat.testBit_div_two_pow, Nat.testBit_div_two_pow]
      congr 1
      omega

/-- One element of a conversion is placed, or its place is left as it is; the next follows it. -/
def placeElem (w : Nat) (a : Nat × Nat) (o : Option Nat) : Nat × Nat :=
  match o with
  | none => (a.1, a.2 + w)
  | some y => (setBits a.1 a.2 w y, a.2 + w)

theorem placeElem_snd (w : Nat) (a : Nat × Nat) (o : Option Nat) : (placeElem w a o).2 = a.2 + w := by cases o <;> rfl

theorem testBit_placeElem_out {w v off b : Nat} (o : Option Nat) (hb : b < off ∨ off + w ≤ b) :
    (placeElem w (v, off) o).1.testBit b = v.testBit b := by
  cases o with
  | none => rfl
  | some y => exact (testBit_setBits ..).trans (if_neg (by omega))

theorem testBit_placeElem_at {w v off j : Nat} (o : Option Nat) (hj : j < w) :
    (placeElem w (v, off) o).1.testBit (off + j) = (o.map (fun y => y.testBit j)).getD (v.testBit (off + j)) := by
  cases o with
  | none => rfl
  | some y =>
    refine (testBit_setBits ..).trans ((if_pos (by omega)).trans ?_)
    rw [Nat.add_sub_cancel_left]
    rfl

theorem foldl_placeElem_cons (w v off : Nat) (o : Option Nat) (l : List (Option Nat)) :
    (o :: l).foldl (placeElem w) (v, off) = l.foldl (placeElem w) ((placeElem w (v, off) o).1, off + w) := by
  rw [List.foldl_cons, ← placeElem_snd w (v, off) o]

/-- Bits outside the places of the elements are kept. -/
theorem testBit_placed_out {w b : Nat} {l : List (Option Nat)} {v off : Nat} (hb : b < off ∨ off + l.length * w ≤ b) :
    (l.foldl (placeElem w) (v, off)).1.testBit b = v.testBit b := by
  induction l generalizing v off with
  | nil => rfl
  | cons o l ih =>
    rw [List.length_cons, Nat.succ_mul] at hb
    rw [foldl_placeElem_cons, ih (by omega), testBit_placeElem_out o (by omega)]

/-- Each element that is given takes its place, and the place of one that is not keeps its bits. -/
theorem testBit_placed_at {w i j : Nat} {l : List (Option Nat)} {v off : Nat} (hi : i < l.length) (hj : j < w) :
    (l.foldl (placeElem w) (v, off)).1.testBit (off + i * w + j) =
      (l[i].map (fun y => y.testBit j)).getD (v.testBit (off + i * w + j)) := by
  induction l generalizing v off i with
  | nil => exact absurd hi (Nat.not_lt_zero i)
  | cons o l ih =>
    rw [foldl_placeElem_cons]
    cases i with
    | zero =>
      rw [Nat.zero_mul, Nat.add_zero, testBit_placed_out (.inl (by omega)), testBit_placeElem_at o hj]
      rfl
    | succ i =>
      have hb : off + (i + 1) * w + j = off + w + i * w + j := by ring
      rw [hb, ih (Nat.lt_of_succ_lt_succ hi), testBit_placeElem_out o (by omega)]
      rfl

/-- The number in which a list of elements has taken its place from a bit on. -/
def laidFrom (w off v : Nat) (l : List (Option Nat)) : Nat := (l.foldl (placeElem w) (v, off)).1

section
variable {w off v n : Nat} {l : List (Option Nat)}

theorem testBit_laidFrom_out (hv : v < 2 ^ n) {b : Nat} (hb : b < off ∨ off + l.length * w ≤ b) :
    (laidFrom w off v l % 2 ^ n).testBit b = v.testBit b := by
  rw [Nat.testBit_mod_two_pow, laidFrom, testBit_placed_out hb]
  by_cases hbn : b < n
  · rw [decide_eq_true hbn, Bool.true_and]
  · rw [decide_eq_false hbn, Bool.false_and, Nat.testBit_lt_two_pow (hv.trans_le (Nat.pow_le_pow_right Nat.two_pos (not_lt.mp hbn)))]

/-- The field of an element holds it, or what it held where there is none. -/
theorem laidFrom_at (hfit : off + l.length * w ≤ n) {i : Nat} (hi : i < l.length) :
    laidFrom w off v l % 2 ^ n / 2 ^ (off + i * w) % 2 ^ w = (l[i].map (· % 2 ^ w)).getD (v / 2 ^ (off + i * w) % 2 ^ w) := by
  refine Nat.eq_of_testBit_eq fun j => ?_
  rw [Nat.testBit_mod_two_pow, Nat.testBit_div_two_pow, Nat.add_comm j]
  by_cases hj : j < w
  · have hend : (i + 1) * w ≤ l.length * w := Nat.mul_le_mul_right w hi
    have hbit : off + i * w + j < n := by
      rw [Nat.succ_mul] at hend
      omega
    rw [Nat.testBit_mod_two_pow, decide_eq_true hbit, decide_eq_true hj, Bool.true_and, Bool.true_and, laidFrom,
      testBit_placed_at hi hj]
    cases l[i] <;> simp [Nat.testBit_mod_two_pow, Nat.testBit_div_two_pow, hj, Nat.add_comm]
  · have hout : ∀ x : Nat, (x % 2 ^ w).testBit j = false := fun x => by simp [Nat.testBit_mod_two_pow, hj]
    cases l[i] <;> simp [hj, hout]

end

end Sys2Proof.Machine
end

section
/-!
VCVT (R169, R182 to R186, R194 to R198).
-/
namespace Sys2Proof.Machine

/-! ### Where it writes (R169) -/

theorem elemsIn_of_arithFmt {src : Nat} (h : arithFmt src = true) : elemsIn src = 256 ∨ elemsIn src = 512 ∨ elemsIn src = 1024 := by
  simp only [arithFmt, Bool.or_eq_true, beq_iff_eq] at h
  rcases h with ((rfl | rfl) | rfl) | rfl <;> decide

/-- The elements converted lie in the destination. -/
theorem cvtPlace_fits {src dst pos : Nat} (hsrc : arithFmt src = true) (hpos : pos < (cvtPlace src dst pos).1) :
    (cvtPlace src dst pos).2.2.2 + (cvtPlace src dst pos).2.2.1 * fmtWidth dst ≤ 512 * 32 := by
  obtain ⟨m, hm⟩ : ∃ m, elemsIn src = 8 * m := by
    rcases elemsIn_of_arithFmt hsrc with h | h | h <;> rw [h]
    exacts [⟨32, rfl⟩, ⟨64, rfl⟩, ⟨128, rfl⟩]
  unfold cvtPlace at hpos ⊢
  rw [hm] at hpos ⊢
  dsimp only at hpos ⊢
  generalize fmtWidth dst = w at hpos ⊢
  have hregister : 16384 / w * w ≤ 512 * 32 := Nat.div_mul_le_self ..
  split_ifs at hpos ⊢
  · rwa [Nat.zero_add]
  · have hpart : (pos + 1) * (8 * m) ≤ 16384 / w := (Nat.mul_le_mul_right _ hpos).trans (Nat.div_mul_le_self ..)
    calc pos * (8 * m) * w + 8 * m * w = (pos + 1) * (8 * m) * w := by ring
      _ ≤ 16384 / w * w := Nat.mul_le_mul_right w hpart
      _ ≤ 512 * 32 := hregister
  · have hbytes : 8 * m * w / 8 = m * w := by rw [Nat.mul_assoc, Nat.mul_div_cancel_left _ (by decide)]
    rw [hbytes] at hpos
    have hpart : (pos + 1) * (m * w) ≤ 2048 := (Nat.mul_le_mul_right _ hpos).trans (Nat.div_mul_le_self ..)
    calc pos * (8 * m) * w + 8 * m * w = 8 * ((pos + 1) * (m * w)) := by ring
      _ ≤ 8 * 2048 := Nat.mul_le_mul_left 8 hpart

/-- A conversion into a format that takes block scales converts every element of its source. -/
theorem cvtPlace_count_of_block {src dst pos : Nat} (h : isBlockFmt dst = true) : (cvtPlace src dst pos).2.2.1 = elemsIn src := by
  have hnarrow : ¬16 ≤ fmtWidth dst := by
    simp only [isBlockFmt, decide_eq_true_eq] at h
    obtain ⟨hlow, hhigh⟩ := h
    interval_cases dst <;> decide
  rw [cvtPlace]
  dsimp only
  rw [if_neg hnarrow]

/-! ### What it writes -/

section
variable (s : State) (c : Core) (sl : Slot) (f : RegForm)

/-- Where a VCVT reads and writes. -/
def cvtSpan : Nat × Nat × Nat × Nat := cvtPlace (f.imm.toNat % 16) f.fmt.toNat (bitsOf f.imm.toNat 11 8)

/-- The sources of a VCVT: each with whether it is enabled and the generator's bits. -/
def cvtSources : List (Num × Bool × Nat) :=
  (List.range (cvtSpan f).2.2.1).map (fun i =>
    (decodeNum (f.imm.toNat % 16) (elemAt (vregOf s c sl f.ra) (fmtWidth (f.imm.toNat % 16)) ((cvtSpan f).2.1 + i)),
      elemOn (predOf s c sl f.pred f.pneg) (f.imm.toNat % 16) ((cvtSpan f).2.1 + i),
      genBits (slotOf s c sl).key.toNat ((slotOf s c sl).next.toNat + ((cvtSpan f).2.1 + i))))

/-- The blocks of a VCVT in scale mode 2 or 3. -/
def cvtBlocksOf : List (List (Option Nat) × Nat × Counts) :=
  cvtBlocks f.smode.toNat f.fmt.toNat f.rnd.toNat (cvtSources s c sl f)

/-- What a VCVT without blocks makes of a source. -/
def cvtElem (y : Num × Bool × Nat) : Nat :=
  (convertOne (f.imm.toNat % 16) f.fmt.toNat f.rnd.toNat (cvtSat (polSat s c sl) (polStrict s c sl) f.fmt.toNat)
    (!polStrict s c sl) y.2.2
    (if f.smode.toNat = 1 then some (decodeNum fp32 (sregOf s c sl f.rb.toNat % 2 ^ 32)) else none) y.1).1

/-- The codes that a VCVT writes, where it writes one. -/
def cvtCodes : List (Option Nat) :=
  if 2 ≤ f.smode.toNat then (cvtBlocksOf s c sl f).flatMap (·.1)
  else (cvtSources s c sl f).map (fun y => if y.2.1 then some (cvtElem s c sl f y) else none)

/-- The scales of the blocks are written first (log entry 36). -/
def cvtScaled (u : State) : State :=
  if 2 ≤ f.smode.toNat then
    setVreg u c sl f.rc
      (((cvtBlocksOf s c sl f).foldl (fun a b => (setBits a.1 (8 * a.2) 8 b.2.1, a.2 + 1)) (vregOf u c sl f.rc, 0)).1)
  else u

/-- The elements are written over what the scales left. -/
def cvtWritten (u : State) : State :=
  setVreg (cvtScaled s c sl f u) c sl f.rd
    (laidFrom (fmtWidth f.fmt.toNat) (cvtSpan f).2.2.2 (vregOf (cvtScaled s c sl f u) c sl f.rd) (cvtCodes s c sl f))

/-- A stochastic conversion moves the generator's counter on (R202). -/
def cvtDrawn (u : State) : State :=
  if f.rnd.toNat = 2 then
    setSlot u c sl { slotOf u c sl with next := (slotOf u c sl).next + BitVec.ofNat 64 (elemsIn (f.imm.toNat % 16)) }
  else u

end

section
variable {s : State} {c : Core} {sl : Slot} {f : RegForm}

theorem exists_cvtBody_eq (u : State) : ∃ k, cvtBody c sl f u = advance (bumpW (cvtDrawn c sl f (fileCounts
    (cvtWritten u c sl f u) c sl k)) .vecFma_lanes (fmaLanes (f.imm.toNat % 16)) c) c sl := ⟨_, rfl⟩

theorem cvtSources_pipeTaken (v : Nat) (p : SMap Nat) : cvtSources (pipeTaken s c sl v p) c sl f = cvtSources s c sl f := by
  simp only [cvtSources, vregOf_pipeTaken, predOf_pipeTaken, slotOf_pipeTaken]

theorem cvtWritten_pipeTaken (v : Nat) (p : SMap Nat) :
    cvtWritten (pipeTaken s c sl v p) c sl f (pipeTaken s c sl v p) = cvtWritten s c sl f (pipeTaken s c sl v p) := by
  have hblocks : cvtBlocksOf (pipeTaken s c sl v p) c sl f = cvtBlocksOf s c sl f := by
    rw [cvtBlocksOf, cvtSources_pipeTaken, cvtBlocksOf]
  have helem : cvtElem (pipeTaken s c sl v p) c sl f = cvtElem s c sl f := by
    funext y
    rw [cvtElem, sregOf_pipeTaken]
    rfl
  have hcodes : cvtCodes (pipeTaken s c sl v p) c sl f = cvtCodes s c sl f := by
    rw [cvtCodes, hblocks, cvtSources_pipeTaken, helem, cvtCodes]
  have hscaled (u : State) : cvtScaled (pipeTaken s c sl v p) c sl f u = cvtScaled s c sl f u := by
    rw [cvtScaled, hblocks, cvtScaled]
  rw [cvtWritten, hscaled, hcodes, cvtWritten]

theorem exec_vcvt_of_issues (hi : Issues s c sl (regWord 0xE0 f)) (hreg : regOk f (!polStrict s c sl) = true)
    (hok : cvtOk s c sl f = true) (hgood : VregsGood s c = true)
    (hwin : (f.ra :: (if 2 ≤ f.smode.toNat then [f.rd, f.rc] else [f.rd])).all (vOk s c sl) = true) :
    ∃ v p k, exec (.vcvt c sl f) s = .next (advance (bumpW (cvtDrawn c sl f (fileCounts
      (cvtWritten s c sl f (pipeTaken s c sl v p)) c sl k)) .vecFma_lanes (fmaLanes (f.imm.toNat % 16)) c) c sl) := by
  obtain ⟨v, p, hbody⟩ := vecIns_issues (stoch := fun s => !polStrict s c sl) (ok := fun s => cvtOk s c sl f) (srcs := [f.ra]) hi
    hreg hok hwin hgood true (cvtBody c sl f)
  obtain ⟨k, hk⟩ := exists_cvtBody_eq (c := c) (sl := sl) (f := f) (pipeTaken s c sl v p)
  rw [cvtWritten_pipeTaken] at hk
  exact ⟨v, p, k, congrArg Host.Outcome.next (hbody.trans hk)⟩

/-! ### What is written -/

theorem foldl_scales (v n : Nat) (bs : List (List (Option Nat) × Nat × Counts)) :
    (bs.foldl (fun a b => (setBits a.1 (8 * a.2) 8 b.2.1, a.2 + 1)) (v, n)).1 =
      laidFrom 8 (8 * n) v (bs.map (fun b => some b.2.1)) := by
  induction bs generalizing v n with
  | nil => rfl
  | cons b bs ih => exact ih _ (n + 1)

theorem vregOf_cvtScaled (u : State) (q : BitVec 6) : vregOf (cvtScaled s c sl f u) c sl q =
    if 2 ≤ f.smode.toNat ∧ q = f.rc then
      laidFrom 8 0 (vregOf u c sl f.rc) ((cvtBlocksOf s c sl f).map (fun b => some b.2.1)) % 2 ^ (512 * 32)
    else vregOf u c sl q := by
  unfold cvtScaled
  by_cases hmode : 2 ≤ f.smode.toNat
  · rw [if_pos hmode, vregOf_setVreg_same, foldl_scales, Nat.mul_zero]
    by_cases hq : q = f.rc
    · rw [if_pos hq, if_pos ⟨hmode, hq⟩]
    · rw [if_neg hq, if_neg fun h => hq h.2]
  · rw [if_neg hmode, if_neg fun h => hmode h.1]

theorem vregOf_cvtWritten (u : State) (q : BitVec 6) : vregOf (cvtWritten s c sl f u) c sl q =
    if q = f.rd then laidFrom (fmtWidth f.fmt.toNat) (cvtSpan f).2.2.2 (vregOf (cvtScaled s c sl f u) c sl f.rd)
      (cvtCodes s c sl f) % 2 ^ (512 * 32)
    else vregOf (cvtScaled s c sl f u) c sl q :=
  vregOf_setVreg_same ..

theorem length_cvtSources : (cvtSources s c sl f).length = (cvtSpan f).2.2.1 :=
  (List.length_map ..).trans List.length_range

/-- A block holds a code for each source that is in use. -/
theorem map_isSome_convertBlock {mode dst code : Nat} {i : FmtInfo} (hfmt : fmtInfo dst = some i) (xs : List (Num × Bool × Nat)) :
    (convertBlock mode dst code xs).1.map Option.isSome = xs.map (·.2.1) := by
  have hif {α : Type} (g : Num × Bool × Nat → α) :
      (xs.map (fun x => if x.2.1 then some (g x) else none)).map Option.isSome = xs.map (·.2.1) := by
    rw [List.map_map]
    refine List.map_congr_left fun x _ => ?_
    cases hx : x.2.1 <;> simp [hx]
  unfold convertBlock
  rw [hfmt]
  dsimp only
  split
  · exact hif _
  · split
    · exact hif _
    · rw [List.map_map]
      have hmap : Option.isSome ∘ (fun o : Option (Nat × Counts) => o.map (·.1)) = Option.isSome :=
        funext fun o => Option.isSome_map ..
      rw [hmap]
      exact hif _

/-- Pieces of one length make up the list that they were cut from. -/
theorem flatMap_pieces {α : Type} (xs : List α) (k m : Nat) :
    (List.range m).flatMap (fun b => (xs.drop (b * k)).take k) = xs.take (m * k) := by
  induction m with
  | zero => simp
  | succ m ih => rw [List.range_succ, List.flatMap_append, ih, List.flatMap_singleton, Nat.succ_mul, List.take_add]

theorem map_isSome_cvtBlocks {mode dst code : Nat} {i : FmtInfo} (hfmt : fmtInfo dst = some i) {xs : List (Num × Bool × Nat)}
    (hlen : xs.length / (if mode = 2 then 32 else 16) * (if mode = 2 then 32 else 16) = xs.length) :
    ((cvtBlocks mode dst code xs).flatMap (·.1)).map Option.isSome = xs.map (·.2.1) := by
  unfold cvtBlocks
  dsimp only
  rw [List.flatMap_map, List.map_flatMap]
  simp only [map_isSome_convertBlock hfmt]
  rw [← List.map_flatMap, flatMap_pieces, hlen, List.take_length]

/-- Fields that hold for a conversion with block scales. -/
theorem blocks_of_cvtOk (hok : cvtOk s c sl f = true) (hmode : 2 ≤ f.smode.toNat) :
    isBlockFmt f.fmt.toNat = true ∧ arithFmt (f.imm.toNat % 16) = true := by
  simp only [cvtOk, Bool.and_eq_true] at hok
  obtain ⟨⟨⟨⟨hsrc, hscale⟩, -⟩, -⟩, -⟩ := hok
  refine ⟨?_, hsrc⟩
  rwa [scaleModeOk, if_neg (by omega), if_neg (by omega)] at hscale

theorem map_isSome_cvtCodes (hok : cvtOk s c sl f = true) :
    (cvtCodes s c sl f).map Option.isSome = (cvtSources s c sl f).map (·.2.1) := by
  unfold cvtCodes
  split
  case isTrue hmode =>
    obtain ⟨hblock, hsrc⟩ := blocks_of_cvtOk hok hmode
    obtain ⟨i, hi⟩ : ∃ i, fmtInfo f.fmt.toNat = some i := by
      simp only [isBlockFmt, decide_eq_true_eq] at hblock
      obtain ⟨hlow, hhigh⟩ := hblock
      generalize f.fmt.toNat = dst at hlow hhigh
      interval_cases dst <;> exact ⟨_, rfl⟩
    refine map_isSome_cvtBlocks hi ?_
    rw [length_cvtSources, cvtSpan, cvtPlace_count_of_block hblock]
    rcases elemsIn_of_arithFmt hsrc with h | h | h <;> rw [h] <;> split <;> rfl
  case isFalse =>
    rw [List.map_map]
    refine List.map_congr_left fun y _ => ?_
    cases hy : y.2.1 <;> simp [hy]

end
end Sys2Proof.Machine
end

section
/-!
What a VCVT leaves (R147, R169, R182, R194, R202).
-/
namespace Sys2Proof.Machine

variable {s : State} {c : Core} {sl : Slot} {f : RegForm} {u : State} {l : List Fld}

/-! ### The element of a place -/

/-- Element `i` of a conversion is enabled. -/
def cvtOn (s : State) (c : Core) (sl : Slot) (f : RegForm) (i : Nat) : Bool :=
  elemOn (predOf s c sl f.pred f.pneg) (f.imm.toNat % 16) ((cvtSpan f).2.1 + i)

/-- The bits of element `i` in the destination. -/
def cvtAt (u : State) (c : Core) (sl : Slot) (f : RegForm) (i : Nat) : Nat :=
  vregOf u c sl f.rd / 2 ^ ((cvtSpan f).2.2.2 + i * fmtWidth f.fmt.toNat) % 2 ^ fmtWidth f.fmt.toNat

theorem getElem?_cvtSources {i : Nat} (hi : i < (cvtSpan f).2.2.1) : (cvtSources s c sl f)[i]? = some
    (decodeNum (f.imm.toNat % 16) (elemAt (vregOf s c sl f.ra) (fmtWidth (f.imm.toNat % 16)) ((cvtSpan f).2.1 + i)),
      cvtOn s c sl f i, genBits (slotOf s c sl).key.toNat ((slotOf s c sl).next.toNat + ((cvtSpan f).2.1 + i))) := by
  rw [cvtSources, List.getElem?_map, List.getElem?_range hi]
  rfl

theorem isSome_cvtCodes (hok : cvtOk s c sl f = true) {i : Nat} (hi : i < (cvtSpan f).2.2.1) :
    (cvtCodes s c sl f)[i]?.map Option.isSome = some (cvtOn s c sl f i) := by
  rw [← List.getElem?_map, map_isSome_cvtCodes hok, List.getElem?_map, getElem?_cvtSources hi]
  rfl

theorem cvtCodes_of_off (hok : cvtOk s c sl f = true) {i : Nat} (hi : i < (cvtSpan f).2.2.1) (hon : cvtOn s c sl f i = false) :
    (cvtCodes s c sl f)[i]? = some none := by
  have h := isSome_cvtCodes hok hi
  rw [hon] at h
  obtain ⟨o, ho, hnone⟩ := Option.map_eq_some_iff.mp h
  rw [ho, Option.isSome_eq_false_iff.mp hnone |> Option.isNone_iff_eq_none.mp]

theorem cvtCodes_of_on (hok : cvtOk s c sl f = true) {i : Nat} (hi : i < (cvtSpan f).2.2.1) (hon : cvtOn s c sl f i = true) :
    ∃ y, (cvtCodes s c sl f)[i]? = some (some y) := by
  have h := isSome_cvtCodes hok hi
  rw [hon] at h
  obtain ⟨o, ho, hsome⟩ := Option.map_eq_some_iff.mp h
  obtain ⟨y, rfl⟩ := Option.isSome_iff_exists.mp hsome
  exact ⟨y, ho⟩

theorem length_cvtCodes (hok : cvtOk s c sl f = true) : (cvtCodes s c sl f).length = (cvtSpan f).2.2.1 := by
  have h := congrArg List.length (map_isSome_cvtCodes hok)
  rwa [List.length_map, List.length_map, length_cvtSources] at h

/-- The elements lie in the register. -/
theorem cvtCodes_fit (hok : cvtOk s c sl f = true) :
    (cvtSpan f).2.2.2 + (cvtCodes s c sl f).length * fmtWidth f.fmt.toNat ≤ 512 * 32 := by
  rw [length_cvtCodes hok]
  simp only [cvtOk, Bool.and_eq_true, decide_eq_true_eq] at hok
  obtain ⟨⟨⟨⟨hsrc, -⟩, -⟩, -⟩, hpos⟩ := hok
  exact cvtPlace_fits hsrc hpos

theorem cvtAt_cvtWritten (hok : cvtOk s c sl f = true) {i : Nat} {o : Option Nat} (ho : (cvtCodes s c sl f)[i]? = some o) :
    cvtAt (cvtWritten s c sl f u) c sl f i =
      (o.map (· % 2 ^ fmtWidth f.fmt.toNat)).getD (cvtAt (cvtScaled s c sl f u) c sl f i) := by
  obtain ⟨hi, rfl⟩ := List.getElem?_eq_some_iff.mp ho
  rw [cvtAt, vregOf_cvtWritten, if_pos rfl]
  exact laidFrom_at (cvtCodes_fit hok) hi

theorem testBit_cvtWritten (hok : cvtOk s c sl f = true) {b : Nat}
    (hb : b < (cvtSpan f).2.2.2 ∨ (cvtSpan f).2.2.2 + (cvtSpan f).2.2.1 * fmtWidth f.fmt.toNat ≤ b) :
    (vregOf (cvtWritten s c sl f u) c sl f.rd).testBit b = (vregOf (cvtScaled s c sl f u) c sl f.rd).testBit b := by
  rw [vregOf_cvtWritten, if_pos rfl]
  rw [← length_cvtCodes hok] at hb
  exact testBit_laidFrom_out (vregOf_lt ..) hb

/-! ### The scales of the blocks -/

theorem length_cvtBlocksOf_le (hok : cvtOk s c sl f = true) (hmode : 2 ≤ f.smode.toNat) :
    0 + ((cvtBlocksOf s c sl f).map (fun b => some b.2.1)).length * 8 ≤ 512 * 32 := by
  obtain ⟨hblock, hsrc⟩ := blocks_of_cvtOk hok hmode
  have hcount : (cvtSources s c sl f).length ≤ 1024 := by
    rw [length_cvtSources, cvtSpan, cvtPlace_count_of_block hblock]
    rcases elemsIn_of_arithFmt hsrc with h | h | h <;> rw [h] <;> decide
  have hlen : (cvtBlocksOf s c sl f).length ≤ (cvtSources s c sl f).length := by
    rw [cvtBlocksOf, cvtBlocks, List.length_map, List.length_range]
    exact Nat.div_le_self ..
  rw [List.length_map]
  omega

/-- The scales stand in the first bytes of their register. -/
theorem elemAt_cvtScaled (hok : cvtOk s c sl f = true) (hmode : 2 ≤ f.smode.toNat) {b : Nat} {k : List (Option Nat) × Nat × Counts}
    (hb : (cvtBlocksOf s c sl f)[b]? = some k) : elemAt (vregOf (cvtScaled s c sl f u) c sl f.rc) 8 b = k.2.1 % 256 := by
  obtain ⟨hlt, rfl⟩ := List.getElem?_eq_some_iff.mp hb
  have h := laidFrom_at (v := vregOf u c sl f.rc) (length_cvtBlocksOf_le hok hmode) (i := b) (by rwa [List.length_map])
  rw [List.getElem_map, Nat.zero_add] at h
  rw [vregOf_cvtScaled, if_pos ⟨hmode, rfl⟩, elemAt, Nat.mul_comm 8]
  exact h

theorem testBit_cvtScaled (hmode : 2 ≤ f.smode.toNat) {b : Nat} (hb : 8 * (cvtBlocksOf s c sl f).length ≤ b) :
    (vregOf (cvtScaled s c sl f u) c sl f.rc).testBit b = (vregOf u c sl f.rc).testBit b := by
  rw [vregOf_cvtScaled, if_pos ⟨hmode, rfl⟩]
  refine testBit_laidFrom_out (vregOf_lt ..) (.inr ?_)
  rw [List.length_map]
  omega

/-! ### The rest of the state -/

theorem working_refl (s : State) (c : Core) (sl : Slot) (l : List Fld) : Working s s c sl l :=
  ⟨rfl, fun _ => rfl, fun _ _ _ => rfl, rfl, rfl, fun _ _ => rfl⟩

theorem working_cvtScaled (h : Working s u c sl l) : Working s (cvtScaled s c sl f u) c sl l := by
  unfold cvtScaled
  split
  · exact working_setVreg h _ _
  · exact h

theorem slotOf_cvtWritten (u : State) : slotOf (cvtWritten s c sl f u) c sl = slotOf u c sl := by
  rw [cvtWritten, slotOf_setVreg, cvtScaled]
  split
  · exact slotOf_setVreg ..
  · rfl

theorem working_setSlot (h : Working s u c sl l) (x : SlotSt) (htask : x.task = (slotOf u c sl).task)
    (hsreg : x.sreg = (slotOf u c sl).sreg) : Working s (setSlot u c sl x) c sl l where
  task := (congrArg SlotSt.task (slotOf_setSlot_same ..)).trans (htask.trans h.task)
  sreg q := by rw [← h.sreg, sregOf, slotOf_setSlot_same, hsreg, sregOf]
  regs := h.regs
  mem := h.mem
  shp := h.shp
  cores d hd := (coreOf_setCore_ne _ _ hd).trans (h.cores d hd)

theorem working_cvtDrawn (h : Working s u c sl l) : Working s (cvtDrawn c sl f u) c sl l := by
  unfold cvtDrawn
  split
  · exact working_setSlot h _ rfl rfl
  · exact h

theorem vregOf_cvtDrawn (u : State) (q : BitVec 6) : vregOf (cvtDrawn c sl f u) c sl q = vregOf u c sl q := by
  unfold cvtDrawn
  split
  · exact vregOf_setSlot ..
  · rfl

/-- The generator's counter moves on where the conversion is stochastic, and nothing else of the slot changes. -/
theorem slotOf_cvtDrawn (u : State) : slotOf (cvtDrawn c sl f u) c sl = { slotOf u c sl with
    next := (slotOf u c sl).next + (if f.rnd.toNat = 2 then BitVec.ofNat 64 (elemsIn (f.imm.toNat % 16)) else 0) } := by
  unfold cvtDrawn
  split
  · exact slotOf_setSlot_same ..
  · rw [BitVec.ofNat_eq_ofNat, BitVec.add_zero]

/-- What a VCVT leaves beside the registers it writes. -/
theorem vcvt_leaves (s : State) (c : Core) (sl : Slot) (f : RegForm) (v : Nat) (p : SMap Nat) (k : Counts) (n : Nat) :
    let w := cvtWritten s c sl f (pipeTaken s c sl v p)
    let t := advance (bumpW (cvtDrawn c sl f (fileCounts w c sl k)) .vecFma_lanes n c) c sl
    (∀ q, vregOf t c sl q = vregOf w c sl q) ∧ (∀ r, sregOf t c sl r = sregOf s c sl r) ∧
    (∀ r, pregOf t c sl r = pregOf s c sl r) ∧
    (slotOf t c sl).next = (slotOf s c sl).next +
      (if f.rnd.toNat = 2 then BitVec.ofNat 64 (elemsIn (f.imm.toNat % 16)) else 0) ∧
    Moved s t c sl 1 ∧ KeptRegs s t [.vecErr_vreg_corrected, .vecFma_lanes] ∧ KeptMem s t ∧
    (∀ d, d ≠ c.val → coreOf t d = coreOf s d) := by
  intro w t
  have hfiled : Tallied w (fileCounts w c sl k) [] := tallied_fileCounts (tallied_refl w) ..
  have hcounted (y : State) : Tallied y (bumpW y .vecFma_lanes n c) [.vecFma_lanes] :=
    tallied_bumpW (tallied_mono (tallied_refl y) _) (by decide) ..
  have hwritten : Working s w c sl [.vecErr_vreg_corrected, .vecFma_lanes] :=
    working_setVreg (working_cvtScaled (working_mono (working_pipeTaken s c sl v p) (by decide))) _ _
  have hwork := working_tallied (working_cvtDrawn (f := f) (working_tallied hwritten hfiled (by decide))) (hcounted _) (by decide)
  obtain ⟨hsreg, hmoved, hregs, hmem, hcores⟩ := goesOn_of_working hwork
  have hslot : slotOf (bumpW (cvtDrawn c sl f (fileCounts w c sl k)) .vecFma_lanes n c) c sl =
      { slotOf (pipeTaken s c sl v p) c sl with next := (slotOf s c sl).next +
        (if f.rnd.toNat = 2 then BitVec.ofNat 64 (elemsIn (f.imm.toNat % 16)) else 0) } := by
    rw [slotOf_of_tallied (hcounted _), slotOf_cvtDrawn, slotOf_of_tallied hfiled, slotOf_cvtWritten, slotOf_pipeTaken]
  refine ⟨fun q => ?_, hsreg, fun r => ?_, ?_, hmoved, hregs, hmem, hcores⟩
  · rw [vregOf_advance, vregOf_of_tallied (hcounted _), vregOf_cvtDrawn, vregOf_of_tallied hfiled]
  · rw [pregOf_advance, pregOf, hslot, slotOf_pipeTaken, pregOf]
  · exact (congrArg SlotSt.next (slotOf_setSlot_same ..)).trans (congrArg SlotSt.next hslot)

/-! ### Old contents -/

/-- Where the scales do not go to the destination, its elements are written over what it held. -/
theorem vregOf_cvtScaled_of_ne {v : Nat} {p : SMap Nat} {q : BitVec 6} (hne : 2 ≤ f.smode.toNat → q ≠ f.rc) :
    vregOf (cvtScaled s c sl f (pipeTaken s c sl v p)) c sl q = vregOf s c sl q := by
  rw [vregOf_cvtScaled, if_neg fun h => hne h.1 h.2, vregOf_pipeTaken]

theorem vregOf_cvtWritten_of_ne {q : BitVec 6} (hq : q ≠ f.rd) :
    vregOf (cvtWritten s c sl f u) c sl q = vregOf (cvtScaled s c sl f u) c sl q := by
  rw [vregOf_cvtWritten, if_neg hq]

/-- A conversion without blocks writes what it makes of each enabled source. -/
theorem cvtCodes_of_plain (hmode : f.smode.toNat < 2) {i : Nat} (hi : i < (cvtSpan f).2.2.1) (hon : cvtOn s c sl f i = true) :
    (cvtCodes s c sl f)[i]? = some (some (cvtElem s c sl f
      (decodeNum (f.imm.toNat % 16) (elemAt (vregOf s c sl f.ra) (fmtWidth (f.imm.toNat % 16)) ((cvtSpan f).2.1 + i)), true,
        genBits (slotOf s c sl).key.toNat ((slotOf s c sl).next.toNat + ((cvtSpan f).2.1 + i))))) := by
  rw [cvtCodes, if_neg (by omega), List.getElem?_map, getElem?_cvtSources hi, hon]
  rfl

/-- One with blocks writes the codes of its blocks. -/
theorem getElem?_cvtCodes_of_blocks (hmode : 2 ≤ f.smode.toNat) (i : Nat) :
    (cvtCodes s c sl f)[i]? = ((cvtBlocksOf s c sl f).flatMap (·.1))[i]? := by
  rw [cvtCodes, if_pos hmode]

end Sys2Proof.Machine
end

section
/-!
The generator, tags and captured maxima (R201 to R204, R210), and what the numeric instructions leave.
-/
namespace Sys2Proof.Machine

variable {s : State} {c : Core} {sl : Slot} {f : RegForm}

/-! ### VCVT -/

/-- What a VCVT leaves, part by part of its destination. -/
def Converted (s : State) (c : Core) (sl : Slot) (f : RegForm) (t : State) : Prop :=
  Moved s t c sl 1 ∧ (∀ r, sregOf t c sl r = sregOf s c sl r) ∧ (∀ r, pregOf t c sl r = pregOf s c sl r) ∧
  (∀ r, vOk s c sl r = true → r ≠ f.rd → (2 ≤ f.smode.toNat → r ≠ f.rc) → vregOf t c sl r = vregOf s c sl r) ∧
  (slotOf t c sl).next = (slotOf s c sl).next +
    (if f.rnd.toNat = 2 then BitVec.ofNat 64 (elemsIn (f.imm.toNat % 16)) else 0) ∧
  (f.smode.toNat < 2 ∨ f.rd ≠ f.rc →
    (∀ i < (cvtSpan f).2.2.1, cvtOn s c sl f i = false → cvtAt t c sl f i = cvtAt s c sl f i) ∧
    (∀ b, b < (cvtSpan f).2.2.2 ∨ (cvtSpan f).2.2.2 + (cvtSpan f).2.2.1 * fmtWidth f.fmt.toNat ≤ b →
      (vregOf t c sl f.rd).testBit b = (vregOf s c sl f.rd).testBit b)) ∧
  (f.smode.toNat < 2 → ∀ i < (cvtSpan f).2.2.1, cvtOn s c sl f i = true → cvtAt t c sl f i =
    cvtElem s c sl f
      (decodeNum (f.imm.toNat % 16) (elemAt (vregOf s c sl f.ra) (fmtWidth (f.imm.toNat % 16)) ((cvtSpan f).2.1 + i)), true,
        genBits (slotOf s c sl).key.toNat ((slotOf s c sl).next.toNat + ((cvtSpan f).2.1 + i))) % 2 ^ fmtWidth f.fmt.toNat) ∧
  (2 ≤ f.smode.toNat → ∀ i < (cvtSpan f).2.2.1, cvtOn s c sl f i = true →
    (((cvtBlocksOf s c sl f).flatMap (·.1)).getD i none).map (· % 2 ^ fmtWidth f.fmt.toNat) = some (cvtAt t c sl f i)) ∧
  (2 ≤ f.smode.toNat → f.rd ≠ f.rc →
    (∀ b k, (cvtBlocksOf s c sl f)[b]? = some k → elemAt (vregOf t c sl f.rc) 8 b = k.2.1 % 256) ∧
    (∀ b, 8 * (cvtBlocksOf s c sl f).length ≤ b → (vregOf t c sl f.rc).testBit b = (vregOf s c sl f.rc).testBit b)) ∧
  KeptRegs s t [.vecErr_vreg_corrected, .vecFma_lanes] ∧ KeptMem s t ∧ (∀ d, d ≠ c.val → coreOf t d = coreOf s d)

theorem runs_vcvt (hi : Issues s c sl (regWord 0xE0 f)) (hreg : regOk f (!polStrict s c sl) = true)
    (hok : cvtOk s c sl f = true) (hgood : VregsGood s c = true)
    (hwin : (f.ra :: (if 2 ≤ f.smode.toNat then [f.rd, f.rc] else [f.rd])).all (vOk s c sl) = true) :
    Runs (.vcvt c sl f) s (Converted s c sl f) := by
  obtain ⟨v, p, k, hexec⟩ := exec_vcvt_of_issues hi hreg hok hgood hwin
  obtain ⟨hvreg, hsreg, hpreg, hnext, hmoved, hregs, hmem, hcores⟩ :=
    vcvt_leaves s c sl f v p k (fmaLanes (f.imm.toNat % 16))
  refine ⟨_, hexec, ?_⟩
  generalize advance (bumpW (cvtDrawn c sl f (fileCounts (cvtWritten s c sl f (pipeTaken s c sl v p)) c sl k)) .vecFma_lanes
    (fmaLanes (f.imm.toNat % 16)) c) c sl = t at hvreg hsreg hpreg hnext hmoved hregs hmem hcores ⊢
  have hat (i : Nat) : cvtAt t c sl f i = cvtAt (cvtWritten s c sl f (pipeTaken s c sl v p)) c sl f i := by
    rw [cvtAt, hvreg, cvtAt]
  refine ⟨hmoved, hsreg, hpreg, fun r _ hrd hrc => ?_, hnext, fun hold => ⟨fun i hi hoff => ?_, fun b hb => ?_⟩,
    fun hmode i hi hon => ?_, fun hmode i hi hon => ?_, fun hmode hne => ⟨fun b k hb => ?_, fun b hb => ?_⟩, hregs, hmem, hcores⟩
  · rw [hvreg, vregOf_cvtWritten_of_ne hrd, vregOf_cvtScaled_of_ne hrc]
  · rw [hat, cvtAt_cvtWritten hok (cvtCodes_of_off hok hi hoff), cvtAt, vregOf_cvtScaled_of_ne fun h => hold.resolve_left (by omega)]
    rfl
  · rw [hvreg, testBit_cvtWritten hok hb, vregOf_cvtScaled_of_ne fun h => hold.resolve_left (by omega)]
  · rw [hat, cvtAt_cvtWritten hok (cvtCodes_of_plain hmode hi hon)]
    rfl
  · obtain ⟨y, hy⟩ := cvtCodes_of_on hok hi hon
    rw [hat, cvtAt_cvtWritten hok hy, List.getD_eq_getElem?_getD, ← getElem?_cvtCodes_of_blocks hmode, hy]
    rfl
  · rw [hvreg, vregOf_cvtWritten_of_ne hne.symm, elemAt_cvtScaled hok hmode hb]
  · rw [hvreg, vregOf_cvtWritten_of_ne hne.symm, testBit_cvtScaled hmode hb, vregOf_pipeTaken]

/-! ### VSEED and VRNG (R201, R202) -/

theorem genMix_lt (z : Nat) : genMix z < 2 ^ 64 := by
  have hz (x : Nat) : x % m64 < 2 ^ 64 := Nat.mod_lt _ (by decide)
  exact Nat.xor_lt_two_pow (hz _) ((Nat.div_le_self ..).trans_lt (hz _))

theorem genBits_lt (key i : Nat) : genBits key i < 2 ^ 32 := by
  have h := genMix_lt ((key + i % m64 * 0xA24BAED4963EE407) % m64)
  rw [genBits]
  omega

theorem runs_vseed (hi : IssuesReg s c sl 0xE1 f) (ha : f.ra.toNat < 32) (hb : f.rb.toNat < 32) (hc : f.rc.toNat < 32) :
    Runs (.vseed c sl f) s (fun t =>
      (slotOf t c sl).key = BitVec.ofNat 64 (genKey (sregOf s c sl f.ra.toNat) (sregOf s c sl f.rb.toNat)) ∧
      (slotOf t c sl).next.toNat = sregOf s c sl f.rc.toNat ∧ (∀ r, sregOf t c sl r = sregOf s c sl r) ∧
      (∀ r, pregOf t c sl r = pregOf s c sl r) ∧ Moved s t c sl 1 ∧ OnlySlot s t c sl ∧ KeptRegs s t [] ∧ KeptMem s t) := by
  refine ⟨_, congrArg Host.Outcome.next (scalarIns_issues hi (by simp [sOk, ha, hb, hc]) _), ?_⟩
  dsimp only
  set x : SlotSt := { slotOf s c sl with
    key := BitVec.ofNat 64 (genKey (sregOf s c sl f.ra.toNat) (sregOf s c sl f.rb.toNat))
    next := BitVec.ofNat 64 (sregOf s c sl f.rc.toNat) }
  have hslot : slotOf (setSlot s c sl x) c sl = x := slotOf_setSlot_same ..
  refine ⟨?_, ?_, fun r => ?_, fun r => ?_,
    goesOn_advance (onlySlot_setSlot x (onlySlot_refl s c sl)) (congrArg SlotSt.task hslot :)⟩
  · rw [advance, slotOf_setSlot_same, hslot]
  · rw [advance, slotOf_setSlot_same, hslot]
    exact (toNat_ofNat_mod_pow 64 _).trans (Nat.mod_eq_of_lt (sregOf_lt ..))
  · rw [sregOf_advance, sregOf, hslot, sregOf]
  · rw [pregOf_advance, pregOf, hslot, pregOf]

/-- The register that VRNG writes. -/
def drawnLanes (x : SlotSt) : Nat :=
  (List.range 512).foldl (fun a i => a + genBits x.key.toNat (x.next.toNat + i) * 2 ^ (32 * i)) 0

theorem elemAt_drawnLanes (x : SlotSt) {i : Nat} (hi : i < 512) :
    elemAt (drawnLanes x % 2 ^ (512 * 32)) 32 i = genBits x.key.toNat (x.next.toNat + i) % 2 ^ 32 := by
  rw [drawnLanes, foldl_eq_laid fun i => genBits_lt x.key.toNat (x.next.toNat + i), laid_mod_pow _ (by decide), elemAt_laid _ hi]

/-- The register is written and the counter has moved on. -/
def drawn (s : State) (c : Core) (sl : Slot) (f : RegForm) : State :=
  let s1 := setVreg s c sl f.rd (drawnLanes (slotOf s c sl))
  setSlot s1 c sl { slotOf s1 c sl with next := (slotOf s c sl).next + 512 }

theorem slotOf_drawn : slotOf (drawn s c sl f) c sl = { slotOf s c sl with next := (slotOf s c sl).next + 512 } := by
  rw [drawn, slotOf_setSlot_same, slotOf_setVreg]

theorem vregOf_drawn (r : BitVec 6) : vregOf (drawn s c sl f) c sl r =
    if r = f.rd then drawnLanes (slotOf s c sl) % 2 ^ (512 * 32) else vregOf s c sl r := by
  rw [drawn, vregOf_setSlot, vregOf_setVreg_same]

theorem working_drawn : Working s (drawn s c sl f) c sl [.vecFma_lanes] :=
  working_setSlot (working_setVreg (working_refl s c sl _) ..) _ rfl rfl

theorem working_occupy {u : State} {l : List Fld} (h : Working s u c sl l) (pipe clk : Nat) :
    Working s (occupy u c sl pipe clk) c sl l :=
  working_setSlot h _ rfl rfl

theorem runs_vrng (hi : IssuesReg s c sl 0xE2 f) (hwin : vOk s c sl f.rd = true) : Runs (.vrng c sl f) s (fun t =>
    (∀ i < 512, elemAt (vregOf t c sl f.rd) 32 i = genBits (slotOf s c sl).key.toNat ((slotOf s c sl).next.toNat + i) % 2 ^ 32) ∧
    (∀ r, vOk s c sl r = true → r ≠ f.rd → vregOf t c sl r = vregOf s c sl r) ∧
    (slotOf t c sl).next = (slotOf s c sl).next + 512 ∧ (∀ r, sregOf t c sl r = sregOf s c sl r) ∧
    (∀ r, pregOf t c sl r = pregOf s c sl r) ∧ Moved s t c sl 1 ∧ KeptRegs s t [.vecFma_lanes] ∧ KeptMem s t ∧
    (∀ d, d ≠ c.val → coreOf t d = coreOf s d)) := by
  have hexec : exec (.vrng c sl f) s = .next (advance (bumpW (occupy (drawn s c sl f) c sl 0 1) .vecFma_lanes 512 c) c sl) :=
    congrArg Host.Outcome.next ((scalarIns_issues hi rfl _).trans (if_pos hwin))
  have hcounted : Tallied (occupy (drawn s c sl f) c sl 0 1) (bumpW (occupy (drawn s c sl f) c sl 0 1) .vecFma_lanes 512 c)
      [.vecFma_lanes] := tallied_bumpW (tallied_mono (tallied_refl _) _) (by decide) ..
  obtain ⟨q, hslot⟩ : ∃ q, slotOf (occupy (drawn s c sl f) c sl 0 1) c sl =
      { slotOf s c sl with next := (slotOf s c sl).next + 512, pipes := q } := by
    rw [occupy, slotOf_setSlot_same, slotOf_drawn]
    exact ⟨_, rfl⟩
  obtain ⟨hsreg, hmoved, hregs, hmem, hcores⟩ :=
    goesOn_of_working (working_tallied (working_occupy working_drawn 0 1) hcounted (by decide))
  have hvreg (r : BitVec 6) : vregOf (advance (bumpW (occupy (drawn s c sl f) c sl 0 1) .vecFma_lanes 512 c) c sl) c sl r =
      if r = f.rd then drawnLanes (slotOf s c sl) % 2 ^ (512 * 32) else vregOf s c sl r := by
    rw [vregOf_advance, vregOf_of_tallied hcounted, occupy, vregOf_setSlot, vregOf_drawn]
  refine ⟨_, hexec, fun i hlt => ?_, fun r _ hr => ?_, ?_, hsreg, fun r => ?_, hmoved, hregs, hmem, hcores⟩
  · rw [hvreg, if_pos rfl, elemAt_drawnLanes _ hlt]
  · rw [hvreg, if_neg hr]
  · rw [advance, slotOf_setSlot_same, slotOf_of_tallied hcounted, hslot]
  · rw [pregOf_advance, pregOf_of_tallied hcounted, pregOf, hslot, pregOf]

/-! ### NTAG (R204) -/

theorem runs_ntag {k : Task} {v : Nat} (hi : IssuesReg s c sl 0xE3 f) (ha : f.ra.toNat < 32) (htask : taskOf s c sl = some k)
    (hv : v = sregOf s c sl f.ra.toNat) (hcount : v % 4096 < polCount s c sl) (hrange : polBase s c sl + v % 4096 ≤ 4095)
    (hstep : bitsOf v 63 44 = 0) : Runs (.ntag c sl f) s (fun t =>
      taskOf t c sl = some { k with tag := some (polBase s c sl + v % 4096, bitsOf v 43 12), index := (k.index + 1) % idxMod } ∧
      OnlySlot s t c sl) := by
  subst v
  refine ⟨_, congrArg Host.Outcome.next ((scalarIns_issues hi (by simp [sOk, ha]) _).trans
    (if_pos ⟨hcount, hrange, hstep⟩)), ?_, advance_onlySlot (onlySlot_updTask _)⟩
  rw [taskOf_advance, taskOf_updTask, htask]
  rfl

/-! ### NMAXR (R210) -/

/-- Only registers, the numeric module, the event log and what is sent differ. -/
def Aside (s t : State) : Prop := { t with regs := s.regs, num := s.num, evt := s.evt, out := s.out } = s

theorem aside_ite {b : Prop} [Decidable b] {x y : State} (hx : Aside s x) (hy : Aside s y) : Aside s (if b then x else y) := by
  split
  · exact hx
  · exact hy

theorem aside_refl (s : State) : Aside s s := rfl

theorem aside_put {t : State} (h : Aside s t) (g : Fld) (v i : Nat) : Aside s (put t g v i) := h

theorem aside_bump {t : State} (h : Aside s t) (g : Fld) (n i : Nat) : Aside s (bump t g n i) := h

theorem aside_raise {t : State} (h : Aside s t) (x : SilEvt) : Aside s (raise t x) := h

theorem aside_evalSet (s : State) (e i job : Nat) (p : PolicyRec) : Aside s (evalSet s e i job p) := by
  have hrun := aside_put (aside_refl s) .numSil_run (min (get s .numSil_run e + 1) 4095) e
  have hcleared := aside_put (aside_put (aside_put (aside_refl s) .numSil_run 0 e) .numSil_evented 0 e) .numSil_alarmed 0 e
  unfold evalSet
  dsimp only
  refine aside_ite (aside_ite hrun ?_) (aside_ite (aside_bump (aside_put hcleared ..) ..) hcleared)
  have hevented := aside_ite (b := flag (put s .numSil_run (min (get s .numSil_run e + 1) 4095) e) .numSil_evented e = true) hrun
    (aside_raise (aside_bump (aside_put hrun .numSil_evented 1 e) .numSilcnt_events 1 0)
      ⟨0x021, job, get s .numOp_step i, e, min (get s .numSil_run e + 1) 4095⟩)
  exact aside_ite (aside_ite (aside_bump (aside_put hevented ..) ..)
    (aside_ite (aside_raise (aside_bump (aside_put hevented ..) ..) _) hevented)) hevented

theorem aside_evalOnce (s : State) (e i job : Nat) : Aside s (evalOnce s e i job) := by
  have heval (j : Nat) : Aside s (evaluate s e j job) := by
    unfold evaluate
    split
    · rfl
    · exact aside_evalSet ..
  exact aside_ite (aside_ite rfl (heval e)) (aside_ite rfl (heval i))

/-- Silence events and alarms are logged one after another (R219). -/
def logAll (l : List SilEvt) (s : State) : State :=
  each l (fun s x => logEvt s x.code 0 x.job x.step x.entry x.data) s

theorem aside_logAll {t : State} (h : Aside s t) (l : List SilEvt) : Aside s (logAll l t) := by
  induction l generalizing t with
  | nil => exact h
  | cons x l ih =>
    obtain ⟨r, e, o, hlog⟩ := exists_logEvt_eq t x.code 0 x.job x.step x.entry x.data
    have hnext : Aside s (logEvt t x.code 0 x.job x.step x.entry x.data) := by
      rw [hlog]
      exact h
    exact ih hnext

theorem get_logAll {g : Fld} (hg : g ∉ eventFlds) (l : List SilEvt) (s : State) (i : Nat) : get (logAll l s) g i = get s g i := by
  induction l generalizing s with
  | nil => rfl
  | cons x l ih => exact (ih _).trans (get_logEvt_ne s x.code 0 x.job x.step x.entry x.data hg i)

theorem aside_settleEnt {t : State} (h : Aside s t) (e : Nat) : Aside s (settleEnt t e) :=
  aside_logAll (t := { t with num := { t.num with due := t.num.due.filter (fun x => !(x.entry == e)) } }) h
    (t.num.due.filter (fun x => x.entry == e))

theorem get_settleEnt {g : Fld} (hg : g ∉ eventFlds) (s : State) (e i : Nat) : get (settleEnt s e) g i = get s g i :=
  get_logAll hg (s.num.due.filter (fun x => x.entry == e))
    { s with num := { s.num with due := s.num.due.filter (fun x => !(x.entry == e)) } } i

theorem maxWord_settleEnt (s : State) (e i : Nat) : maxWord (settleEnt s e) e i = maxWord s e i := by
  rw [maxWord, flag, get_settleEnt (by decide), get_settleEnt (by decide), get_settleEnt (by decide), maxWord, flag]

theorem slotOf_of_aside {t : State} (h : Aside s t) : slotOf t c sl = slotOf s c sl := by
  have hcores : t.cores = s.cores := (congrArg State.cores h :)
  rw [slotOf, coreOf, hcores, slotOf, coreOf]

/-- A scalar register written after something aside. -/
theorem writes_of_aside {u : State} (h : Aside s u) (rd v : Nat) :
    let t := advance (setSreg u c sl rd v) c sl
    (∀ r, sregOf t c sl r = if r = rd ∧ r ≠ 0 then v % 2 ^ 64 else sregOf s c sl r) ∧ Moved s t c sl 1 ∧ KeptMem s t := by
  obtain ⟨hsreg, -, -, -, -, hmem⟩ := writesSreg_setSreg u c sl rd v
  have htask : taskOf (setSreg u c sl rd v) c sl = taskOf s c sl :=
    (taskOf_setSreg ..).trans (congrArg SlotSt.task (slotOf_of_aside h))
  have hkept : KeptMem s u := keptMem_of_mem_eq (congrArg State.mem h :)
  refine ⟨fun r => ?_, moved_advance htask, fun a => (hmem a).trans (hkept a)⟩
  rw [hsreg, sregOf, slotOf_of_aside h, sregOf]

theorem runs_nmaxr_none (hi : IssuesReg s c sl 0xE4 f) (hd : f.rd.toNat < 32)
    (hnone : tagOf s c sl = none ∨ ∃ e step, tagOf s c sl = some (e, step) ∧ maxSet s e step = none) :
    Runs (.nmaxr c sl f) s (fun t => (∀ r, sregOf t c sl r = if r = f.rd.toNat then 0 else sregOf s c sl r) ∧
      Moved s t c sl 1 ∧ OnlySlot s t c sl ∧ KeptRegs s t [] ∧ KeptMem s t) := by
  have hexec : exec (.nmaxr c sl f) s = .next (advance (setSreg s c sl f.rd.toNat 0) c sl) := by
    refine congrArg Host.Outcome.next ((scalarIns_issues hi (decide_eq_true hd) _).trans ?_)
    rcases hnone with htag | ⟨e, step, htag, hset⟩
    · rw [htag]
    · simp only [htag, hset]
  obtain ⟨hsreg, -, hrest⟩ := writesSreg_setSreg s c sl f.rd.toNat 0
  refine ⟨_, hexec, fun r => ?_, hrest⟩
  rw [hsreg]
  by_cases hr : r = f.rd.toNat
  · by_cases hz : r = 0
    · rw [if_pos hr, hz, if_neg fun h => h.2 rfl, sregOf_zero]
    · rw [if_pos hr, if_pos ⟨hr, hz⟩, Nat.zero_mod]
  · rw [if_neg hr, if_neg fun h => hr h.1]

theorem runs_nmaxr_set {e step i : Nat} (hi : IssuesReg s c sl 0xE4 f) (hd : f.rd.toNat < 32)
    (htag : tagOf s c sl = some (e, step)) (hset : maxSet s e step = some i) :
    Runs (.nmaxr c sl f) s (fun t => ∃ s1, s1 = evalOnce s e i (taskJob s c sl) ∧
      (∀ r, sregOf t c sl r = if r = f.rd.toNat ∧ r ≠ 0 then maxWord s1 e i % 2 ^ 64 else sregOf s c sl r) ∧
      Moved s t c sl 1 ∧ KeptMem s t) := by
  have hexec : exec (.nmaxr c sl f) s = .next (advance (setSreg (settleEnt (evalOnce s e i (taskJob s c sl)) e) c sl f.rd.toNat
      (maxWord (evalOnce s e i (taskJob s c sl)) e i)) c sl) := by
    refine congrArg Host.Outcome.next ((scalarIns_issues hi (decide_eq_true hd) _).trans ?_)
    simp only [htag, hset, maxWord_settleEnt]
  exact ⟨_, hexec, _, rfl, writes_of_aside (aside_settleEnt (aside_evalOnce ..) e) ..⟩

/-- Settles O12: VCVT by what it places and where, the others by the slot that each leaves. -/
theorem numericInstructions : Obligations.NumericInstructions := by
  intro c sl f s
  refine ⟨fun hi hreg hok hgood hwin => runs_vcvt hi hreg hok hgood hwin, fun hi ha hb hc => runs_vseed hi ha hb hc,
    fun hi hwin => runs_vrng hi hwin, fun hi ha k v htask hv => runs_ntag hi ha htask hv,
    fun hi hd hnone => runs_nmaxr_none hi hd hnone, fun hi hd e step i htag hset => runs_nmaxr_set hi hd htag hset⟩

end Sys2Proof.Machine
end

section
/-!
DOORBELL, COMMIT and ROLLBACK (R134 to R137, R386, R388, R389).
-/
namespace Sys2Proof.Machine

/-! ### What leaves the module is kept in its order -/

section
variable (s : State)

theorem out_prefix_setAlert : s.out <+: (setAlert s).out := by
  unfold setAlert
  split
  · exact List.prefix_refl _
  · exact List.prefix_append ..

theorem out_prefix_setAlert_put (f : Fld) (v i : Nat) : s.out <+: (setAlert (put s f v i)).out :=
  out_prefix_setAlert (put s f v i)

theorem out_prefix_logEvt (code fn job step d0 d1 : Nat) : s.out <+: (logEvt s code fn job step d0 d1).out := by
  have halert (b : Bool) {u : State} (hu : u.out = s.out) : s.out <+: (if b then setAlert u else u).out := by
    rw [← hu]
    cases b
    · exact List.prefix_refl _
    · exact out_prefix_setAlert u
  unfold logEvt
  split
  · simp only [put_out, bump_out, List.prefix_refl]
  · dsimp only
    split
    · exact (halert _ (by simp only [put_out, bumpW_out])).trans (out_prefix_setAlert_put ..)
    · exact halert _ (by simp only [put_out, bumpW_out])

/-- Copies of a response leave one after another. -/
theorem each_emit {α : Type} (g : α → Out) (l : List α) : each l (fun s a => emit s (g a)) s = { s with out := s.out ++ l.map g } := by
  induction l generalizing s with
  | nil => simp [each]
  | cons a l ih =>
    have hstep : each (a :: l) (fun s a => emit s (g a)) s = each l (fun s a => emit s (g a)) (emit s (g a)) := rfl
    rw [hstep, ih, emit, List.map_cons, List.append_assoc]
    rfl

/-- An answer to any command: its response is the first thing that leaves, and of the rest only registers and the port differ. -/
theorem exists_answer_eq (h : CtlHdr) (op status code : Nat) (words : List Word) : ∃ r o x,
    answer s h op status code words =
      setCp { s with regs := r, out := s.out ++ .resp (respTo h op status code words) :: o } h.port x ∧
    x.queue = (cpOf s h.port).queue := by
  obtain ⟨r, hr⟩ := regsOnly_sendResp s (respTo h op status code words)
  obtain ⟨x, hx, hqueue⟩ : ∃ x, answer s h op status code words = setCp (each (repeatsOf (cpOf s h.port).hist h.seq)
      (fun s a => emit s (.resp { respTo h op status code words with dst := a })) (sendResp s (respTo h op status code words)))
      h.port x ∧ x.queue = (cpOf s h.port).queue := ⟨_, rfl, rfl⟩
  rw [each_emit, hr] at hx
  refine ⟨r, (repeatsOf (cpOf s h.port).hist h.seq).map (fun a => .resp { respTo h op status code words with dst := a }), x,
    hx.trans ?_, hqueue⟩
  rw [List.append_cons]
  rfl

end

/-! ### An epoch is named (R48, R53) -/

/-- What naming an epoch leaves of a command that waits for it. -/
structure KeepsCommit (s t : State) : Prop where
  ctl : t.ctl = s.ctl
  mem : t.mem = s.mem
  out : s.out <+: t.out
  state : ∀ j, get t .grdJobb_state j = get s .grdJobb_state j

theorem keepsCommit_clearArm {s t : State} (h : KeepsCommit s t) (sc : Nat) : KeepsCommit s (clearArm t sc) := by
  unfold clearArm
  split
  · exact { h with state := fun j => (get_put_fld _ _ _ _ (by decide)).trans (h.state j) }
  · exact h

theorem keepsCommit_logEvt {s t : State} (h : KeepsCommit s t) (code fn job step d0 d1 : Nat) :
    KeepsCommit s (logEvt t code fn job step d0 d1) where
  ctl := by
    obtain ⟨r, e, o, hlog⟩ := exists_logEvt_eq t code fn job step d0 d1
    rw [hlog]
    exact h.ctl
  mem := (logEvt_mem ..).trans h.mem
  out := h.out.trans (out_prefix_logEvt ..)
  state j := (get_logEvt_ne _ _ _ _ _ _ _ (by decide) j).trans (h.state j)

theorem keepsCommit_beginEclipse {s t : State} (h : KeepsCommit s t) (sc epoch : Nat) : KeepsCommit s (beginEclipse t sc epoch) := by
  have hin : KeepsCommit s (inEclipse t sc) :=
    { h with state := fun j => (keptRegs_inEclipse t sc _ j (by decide)).trans (h.state j) }
  rw [beginEclipse_eq]
  exact keepsCommit_logEvt (keepsCommit_clearArm hin sc) ..

theorem keepsCommit_lateNamed (s : State) (sc epoch : Nat) : KeepsCommit s (lateNamed s sc epoch) where
  ctl := rfl
  mem := rfl
  out := List.prefix_refl _
  state j := keptRegs_lateNamed s sc epoch _ j (by decide)

theorem keepsCommit_setNamed {s t : State} (h : KeepsCommit s t) (sc : Nat) (n : Option NamedEpoch) :
    KeepsCommit s (setNamed t sc n) := ⟨h.ctl, h.mem, h.out, h.state⟩

theorem keepsCommit_nameEpoch (s : State) (sc epoch : Nat) : KeepsCommit s (nameEpoch s sc epoch) := by
  by_cases htime : s.time.tide + guardNs s ≤ 65536 * epoch
  · rw [nameEpoch_of_onTime s htime]
    exact ⟨rfl, rfl, List.prefix_refl _, fun _ => rfl⟩
  · have hlate := keepsCommit_lateNamed s sc epoch
    by_cases hahead : s.time.tide < 65536 * epoch
    · rw [nameEpoch_of_late s (Nat.not_le.mp htime) hahead]
      exact keepsCommit_setNamed hlate ..
    · rw [nameEpoch_of_passed s (Nat.not_lt.mp hahead)]
      exact keepsCommit_beginEclipse (keepsCommit_setNamed hlate ..) ..

/-! ### A command that waits for its epoch (R389) -/

section
variable {s u : State} {h : CtlHdr} {i : Instr}

theorem cpOf_freePort_busy (s : State) (p : Cp) : (cpOf (freePort s p) p).busy = none := by
  rw [freePort, cpOf_setCp_same]

theorem queue_acceptCmd (s : State) (p q : Cp) : (cpOf (acceptCmd s p) q).queue = (cpOf s q).queue :=
  queue_setCp s _ (by rfl) q

theorem queue_freePort (s : State) (p q : Cp) : (cpOf (freePort s p) q).queue = (cpOf s q).queue :=
  (queue_setCp (acceptCmd s p) _ (by rfl) q).trans (queue_acceptCmd s p q)

/-- The command waits, its port is free, and its job's state shows it. -/
theorem acceptCommit_leaves {c : CommitCmd} {j : Nat} (hentry : jobEntry u c.hdr.job.toNat = some j) :
    let r := replaceCommit u c.hdr.job.toNat
    let t := acceptCommit u c
    mget none t.ctl.commits c.hdr.job.toNat = some c ∧
    (∀ k, k ≠ c.hdr.job.toNat → mget none t.ctl.commits k = mget none r.ctl.commits k) ∧
    get t .grdJobb_state j = (if c.isCommit then 2 else 3) ∧ (cpOf t c.hdr.port).busy = none ∧ t.mem = r.mem ∧
    r.out <+: t.out ∧ (∀ p, (cpOf t p).queue = (cpOf r p).queue) := by
  intro r t
  let s1 := freePort r c.hdr.port
  let s2 := put { s1 with ctl := { s1.ctl with commits := mset none s1.ctl.commits c.hdr.job.toNat (some c) } } .grdJobb_state
    (if c.isCommit then 2 else 3) j
  have ht : t = nameEpoch s2 c.hdr.job.toNat c.epoch.toNat := by
    change acceptCommit u c = _
    rw [acceptCommit]
    dsimp only
    rw [hentry]
  obtain ⟨hctl, hmem, hout, hstate⟩ := keepsCommit_nameEpoch s2 c.hdr.job.toNat c.epoch.toNat
  rw [← ht] at hctl hmem hout hstate
  have hcommits : t.ctl.commits = mset none r.ctl.commits c.hdr.job.toNat (some c) := congrArg (·.commits) hctl
  have hcp (p : Cp) : cpOf t p = cpOf s1 p := cpOf_congr (s := s1) (congrArg (·.cps) hctl) p
  refine ⟨?_, fun k hk => ?_, ?_, ?_, hmem, hout, fun p => ?_⟩
  · rw [hcommits, mget_mset_same]
  · rw [hcommits, mget_mset_ne _ hk]
  · rw [hstate, get_put_same]
    split <;> rfl
  · rw [hcp, cpOf_freePort_busy]
  · rw [hcp, queue_freePort]

/-- A command that is replaced is answered with status 5. -/
theorem replaceCommit_leaves {job : Nat} {c : CommitCmd} (hc : mget none u.ctl.commits job = some c) :
    let r := replaceCommit u job
    (∀ k, k ≠ job → mget none r.ctl.commits k = mget none u.ctl.commits k) ∧ r.mem = u.mem ∧
    (∃ l, r.out = u.out ++
      .resp ⟨c.hdr.port, c.hdr.src, c.hdr.seq, if c.isCommit then 0x60 else 0x61, c.hdr.job, 5, 0, []⟩ :: l) ∧
    (∀ p, (cpOf r p).queue = (cpOf u p).queue) := by
  obtain ⟨r, o, x, hanswer, hqueue⟩ := exists_answer_eq
    { u with ctl := { u.ctl with commits := mset none u.ctl.commits job none } } c.hdr (if c.isCommit then 0x60 else 0x61) 5 0 []
  have hr : replaceCommit u job = endCommit u job c 5 0 := by rw [replaceCommit, hc]
  rw [hr, endCommit, hanswer]
  have hothers (k : Nat) (hk : k ≠ job) : mget none (mset none u.ctl.commits job none) k = mget none u.ctl.commits k :=
    mget_mset_ne none hk
  exact ⟨hothers, rfl, ⟨o, rfl⟩, fun p => queue_setCp _ x hqueue p⟩

/-- The command of a job without an entry is refused. -/
theorem runs_commit_refused {c : CommitCmd} (hstart : StartsNow s h i)
    (hbody : runBody (atFront s h i) i = acceptCommit (atFront s h i) c) (hh : c.hdr = h)
    (hentry : jobEntry s h.job.toNat = none) : Runs i s (fun t => t.ctl.commits = s.ctl.commits ∧
      Answers s t h (if c.isCommit then 0x60 else 0x61) 5 0 [] ∧ KeptMem s t) := by
  subst hh
  have hanswer : acceptCommit (atFront s c.hdr i) c = answer (atFront s c.hdr i) c.hdr (if c.isCommit then 0x60 else 0x61) 5 0 [] := by
    have hentry' : jobEntry (atFront s c.hdr i) c.hdr.job.toNat = none := hentry
    rw [acceptCommit]
    dsimp only
    rw [hentry']
  obtain ⟨t, hexec, hans, hfin⟩ := runs_answer hstart (hbody.trans hanswer) rfl rfl
  exact ⟨t, hexec, (congrArg (fun x => x.ctl.commits) hfin.1 :), hans, keptMem_of_finished hfin rfl⟩

/-- The command of a job with an entry waits; what it replaces is answered before anything else leaves. -/
theorem runs_commit_waits {c : CommitCmd} {j : Nat} (hstart : StartsNow s h i)
    (hbody : runBody (atFront s h i) i = acceptCommit (atFront s h i) c) (hh : c.hdr = h)
    (hentry : jobEntry s h.job.toNat = some j) {r : State} (hr : r = replaceCommit (atFront s h i) h.job.toNat)
    (hqueues : ∀ p, (cpOf r p).queue = (cpOf (atFront s h i) p).queue) : Runs i s (fun t =>
      mget none t.ctl.commits h.job.toNat = some c ∧ get t .grdJobb_state j = (if c.isCommit then 2 else 3) ∧
      (cpOf t h.port).busy = none ∧ t.mem = r.mem ∧ r.out <+: t.out ∧
      (∀ k, k ≠ h.job.toNat → mget none t.ctl.commits k = mget none r.ctl.commits k)) := by
  subst hh hr
  obtain ⟨hcommit, hothers, hstate, hbusy, hmem, hout, hqueue⟩ := acceptCommit_leaves (u := atFront s c.hdr i) hentry
  have hidle (p : Cp) : (cpOf (acceptCommit (atFront s c.hdr i) c) p).queue = [] := by
    obtain ⟨-, -, hnil, -⟩ := hstart
    rw [hqueue, hqueues, queue_atFront, hnil]
  have hexec := exec_of_startsNow hstart
  rw [hbody, pumpPorts_of_queues_nil _ hidle] at hexec
  exact ⟨_, hexec, hcommit, hstate, hbusy, hmem, hout, hothers⟩

/-- What a COMMIT or ROLLBACK that starts now comes to. -/
theorem commit_cases {c : CommitCmd} (hstart : StartsNow s h i)
    (hbody : runBody (atFront s h i) i = acceptCommit (atFront s h i) c) (hh : c.hdr = h) :
    (jobEntry s h.job.toNat = none → Runs i s (fun t => t.ctl.commits = s.ctl.commits ∧
      Answers s t h (if c.isCommit then 0x60 else 0x61) 5 0 [] ∧ KeptMem s t)) ∧
    (∀ j, jobEntry s h.job.toNat = some j → mget none s.ctl.commits h.job.toNat = none → Runs i s (fun t =>
      mget none t.ctl.commits h.job.toNat = some c ∧
      get t .grdJobb_state j = (if c.isCommit then 2 else 3) ∧ (cpOf t h.port).busy = none ∧ KeptMem s t ∧
      (∀ k, k ≠ h.job.toNat → mget none t.ctl.commits k = mget none s.ctl.commits k))) ∧
    (∀ j d, jobEntry s h.job.toNat = some j → mget none s.ctl.commits h.job.toNat = some d → Runs i s (fun t =>
      mget none t.ctl.commits h.job.toNat = some c ∧
      get t .grdJobb_state j = (if c.isCommit then 2 else 3) ∧ (cpOf t h.port).busy = none ∧ KeptMem s t ∧
      (∃ l, t.out = s.out ++
        Out.resp ⟨d.hdr.port, d.hdr.src, d.hdr.seq, if d.isCommit then 0x60 else 0x61, d.hdr.job, 5, 0, []⟩ :: l) ∧
      (∀ k, k ≠ h.job.toNat → mget none t.ctl.commits k = mget none s.ctl.commits k))) := by
  refine ⟨runs_commit_refused hstart hbody hh, fun j hentry hnone => ?_, fun j d hentry hsome => ?_⟩
  · have hkept : atFront s h i = replaceCommit (atFront s h i) h.job.toNat := by
      have hnone' : mget none (atFront s h i).ctl.commits h.job.toNat = none := hnone
      rw [replaceCommit, hnone']
    obtain ⟨t, hexec, hcommit, hstate, hbusy, hmem, -, hothers⟩ := runs_commit_waits hstart hbody hh hentry hkept fun _ => rfl
    exact ⟨t, hexec, hcommit, hstate, hbusy, keptMem_of_mem_eq hmem, hothers⟩
  · obtain ⟨hkeeps, hrmem, ⟨l, hl⟩, hqueues⟩ := replaceCommit_leaves (u := atFront s h i) hsome
    obtain ⟨t, hexec, hcommit, hstate, hbusy, hmem, ⟨m, hm⟩, hothers⟩ := runs_commit_waits hstart hbody hh hentry rfl hqueues
    refine ⟨t, hexec, hcommit, hstate, hbusy, keptMem_of_mem_eq (hmem.trans hrmem), ⟨l ++ m, ?_⟩,
      fun k hk => (hothers k hk).trans (hkeeps k hk)⟩
    rw [← hm, hl, List.append_assoc]
    rfl

end

/-! ### DOORBELL (R134, R135, R137) -/

theorem runDoorbell_of_read {s : State} {h : CtlHdr} {a : BitVec 46} {n : BitVec 9}
    (hrange : a.toNat + 64 * n.toNat ≤ variantHbmBytes s.fuses.variant) (hready : fnReady s 7 = true)
    (hread : (readMem s a.toNat (64 * n.toNat)).2.1 = none) :
    let r := readMem s a.toNat (64 * n.toNat)
    let recs := (List.range n.toNat).map (fun i => padWords ((r.2.2.drop (64 * i)).take 64))
    runDoorbell s h a n = if recsRefuse r.1 recs ≠ 0 then answer r.1 h 0x50 (recsRefuse r.1 recs) 0 []
      else answer (recs.foldl queueRecord r.1) h 0x50 0 0 [] := by
  intro r recs
  rw [runDoorbell]
  dsimp only
  rw [if_neg (Nat.not_lt.mpr hrange), hready, Bool.not_true, if_neg Bool.false_ne_true, hread]
  rfl

/-- Settles O28: a DOORBELL whose read succeeds goes by `recsRefuse`; a COMMIT or ROLLBACK by the job's entry and what it replaces. -/
theorem doorbellsAndCommitsQueue : Obligations.DoorbellsAndCommitsQueue := by
  refine ⟨?doorbell, ?commit⟩
  case doorbell =>
    intro h a n s hstart hrange hready i r recs hread
    have hbody : runBody (atFront s h i) i = _ := runDoorbell_of_read (s := atFront s h i) (h := h) hrange hready hread
    have hexec := exec_of_startsNow hstart
    rw [hbody] at hexec
    exact ⟨fun hclean => by rw [hexec, if_neg (not_not.mpr hclean)], fun hrefused => by rw [hexec, if_pos hrefused]⟩
  case commit =>
    simp only [List.forall_mem_cons, List.not_mem_nil, false_implies, implies_true, and_true]
    exact ⟨fun h step ctc en epoch s hstart => commit_cases (c := ⟨true, step, ctc, en, epoch, h⟩) hstart rfl rfl,
      fun h step ctc en epoch s hstart => commit_cases (c := ⟨false, step, ctc, en, epoch, h⟩) hstart rfl rfl⟩

end Sys2Proof.Machine
end

section
/-!
The operation table (R206 to R211, R235, R236): writes to a run of fields, the order of the records of a clk, what a record leaves, and
that an entry is taken back as it was before them.
-/
namespace Sys2Proof.Machine

/-! ### Writes to a run of fields -/

/-- Fields, each with its index, take the values that `v` names for them. -/
def putAll (l : List (Fld × Nat)) (v : Fld × Nat → Nat) (s : State) : State := l.foldl (fun t x => put t x.1 (v x) x.2) s

section
variable {l : List (Fld × Nat)} (v : Fld × Nat → Nat) (s : State)

theorem get_putAll {x : Fld × Nat} (hx : x ∈ l) : get (putAll l v s) x.1 x.2 = v x % 2 ^ x.1.width :=
  foldl_writes (shown := fun t y => get t y.1 y.2) (value := fun _ y => v y % 2 ^ y.1.width) (fun t y => get_put_same t y.1 _ y.2)
    (fun _ _ _ => rfl) (fun t _ _ hne => get_put_ne t fun h => hne (Prod.ext h.1 h.2)) hx s

theorem get_putAll_of_not_mem {g : Fld} {j : Nat} (h : (g, j) ∉ l) : get (putAll l v s) g j = get s g j := by
  induction l generalizing s with
  | nil => rfl
  | cons x l ih =>
    obtain ⟨hx, hl⟩ := List.ne_and_not_mem_of_not_mem_cons h
    exact (ih _ hl).trans (get_put_ne s fun h => hx (Prod.ext h.1 h.2))

theorem regsOnly_trans {t u : State} (hst : RegsOnly s t) (htu : RegsOnly t u) : RegsOnly s u := by
  obtain ⟨r, rfl⟩ := hst
  obtain ⟨r', rfl⟩ := htu
  exact ⟨r', rfl⟩

theorem regsOnly_putAll : RegsOnly s (putAll l v s) :=
  regsOnly_foldl (fun _ x ht => regsOnly_put ht x.1 (v x) x.2) l regsOnly_refl

end

/-- The counters of a list less what is noted for each, in turn. -/
def lowerAll (l : List Fld) (xs : List Nat) (s : State) : State :=
  (l.zip xs).foldl (fun t x => put t x.1 (get t x.1 - x.2)) s

section
variable {l : List Fld} (xs : List Nat) (s : State)

theorem get_lowerAll_of_not_mem {g : Fld} (h : g ∉ l) (j : Nat) : get (lowerAll l xs s) g j = get s g j := by
  induction l generalizing xs s with
  | nil => rfl
  | cons f l ih =>
    obtain ⟨hf, hl⟩ := List.ne_and_not_mem_of_not_mem_cons h
    cases xs with
    | nil => rfl
    | cons x xs => exact (ih xs _ hl).trans (get_put_fld s _ _ _ hf)

theorem get_lowerAll (hnd : l.Nodup) {i : Nat} {f : Fld} (hf : l[i]? = some f) (hfit : get s f < 2 ^ f.width) :
    get (lowerAll l xs s) f = get s f - xs.getD i 0 := by
  induction l generalizing xs s i with
  | nil => cases hf
  | cons g l ih =>
    obtain ⟨hg, hnd⟩ := List.nodup_cons.mp hnd
    cases xs with
    | nil => rfl
    | cons x xs => cases i with
      | zero =>
        obtain rfl : g = f := Option.some.inj hf
        refine (get_lowerAll_of_not_mem xs _ hg 0).trans ?_
        rw [get_put_same, Nat.mod_eq_of_lt ((Nat.sub_le ..).trans_lt hfit)]
        rfl
      | succ i =>
        have hf' : l[i]? = some f := hf
        have hkept : get (put s g (get s g - x)) f = get s f :=
          get_put_fld s _ _ _ (ne_of_mem_of_not_mem (List.mem_of_getElem? hf') hg)
        exact (ih xs _ hnd hf' (hkept ▸ hfit)).trans (congrArg (· - xs.getD i 0) hkept)

theorem regsOnly_lowerAll : RegsOnly s (lowerAll l xs s) :=
  regsOnly_foldl (fun t x ht => regsOnly_put ht x.1 (get t x.1 - x.2) 0) (l.zip xs) regsOnly_refl

end

/-! ### Sets and counters -/

/-- What a field reads as is what the map lists, or its reset value. -/
theorem get_eq_listed_or_reset (s : State) (f : Fld) (i : Nat) :
    get s f i = mget 0 s.regs (rkey f i) ∨ get s f i = fldReset s.fuses f i := by
  unfold get
  induction s.regs with
  | nil => exact .inr rfl
  | cons p m ih =>
    obtain ⟨k, v⟩ := p
    simp only [mget]
    split
    · exact .inl rfl
    · exact ih

theorem get_lt {s : State} (hfit : regsFit s.regs) {f : Fld} (hreset : ∀ i, fldReset s.fuses f i < 2 ^ f.width) (i : Nat) :
    get s f i < 2 ^ f.width := by
  rcases get_eq_listed_or_reset s f i with h | h
  · rw [h]
    exact hfit.2 f i
  · rw [h]
    exact hreset i

theorem clearSet_eq_putAll (s : State) (i : Nat) : clearSet s i = putAll (setFlds.map (fun f => (f, i))) (fun _ => 0) s := by
  rw [putAll, List.foldl_map, clearSet, each]

theorem get_clearSet_same {g : Fld} (hg : g ∈ setFlds) (s : State) (i : Nat) : get (clearSet s i) g i = 0 := by
  rw [clearSet_eq_putAll]
  exact (get_putAll _ s (List.mem_map_of_mem (f := fun f => (f, i)) hg)).trans (Nat.zero_mod _)

theorem get_clearSet_ne {g : Fld} {i j : Nat} (s : State) (h : g ∉ setFlds ∨ j ≠ i) : get (clearSet s i) g j = get s g j := by
  rw [clearSet_eq_putAll]
  refine get_putAll_of_not_mem _ s fun hmem => ?_
  obtain ⟨f, hf, heq⟩ := List.mem_map.mp hmem
  obtain ⟨rfl, rfl⟩ := Prod.mk.inj heq
  exact h.elim (fun hg => hg hf) fun hj => hj rfl

theorem regsOnly_clearSet (s : State) (i : Nat) : RegsOnly s (clearSet s i) := by
  rw [clearSet_eq_putAll]
  exact regsOnly_putAll ..


/-! ### What a record adds to a set (R206) -/

/-- The counters of a set that a record adds to, and by how much. -/
def countsOf (r : NumRec) : List (Fld × Nat) :=
  [(.numOp_elements, r.elements), (.numOp_zeros, r.zeros), (.numOp_flushed, r.flushed), (.numOp_saturated, r.saturated),
    (.numOp_nan, r.nan), (.numOp_inf, r.inf)]

/-- Those counters. -/
def countFlds : List Fld := [.numOp_elements, .numOp_zeros, .numOp_flushed, .numOp_saturated, .numOp_nan, .numOp_inf]

theorem fst_mem_countFlds {r : NumRec} {x : Fld × Nat} (hx : x ∈ countsOf r) : x.1 ∈ countFlds :=
  List.mem_map_of_mem (f := Prod.fst) hx

/-- Counters of one index count more, one after another. -/
def bumpAll (i : Nat) (l : List (Fld × Nat)) (s : State) : State := l.foldl (fun t x => bump t x.1 x.2 i) s

theorem get_bumpAll_ne {l : List (Fld × Nat)} {i j : Nat} {g : Fld} (s : State) (h : g ∉ l.map Prod.fst ∨ j ≠ i) :
    get (bumpAll i l s) g j = get s g j := by
  induction l generalizing s with
  | nil => rfl
  | cons x l ih =>
    refine (ih _ (h.imp_left fun hg => (List.ne_and_not_mem_of_not_mem_cons hg).2)).trans (get_put_ne s fun heq => ?_)
    exact h.elim (fun hg => (List.ne_and_not_mem_of_not_mem_cons hg).1 heq.1) fun hj => hj heq.2

theorem counted_bumpAll {l : List (Fld × Nat)} (hnd : (l.map Prod.fst).Nodup) {x : Fld × Nat} (hx : x ∈ l) (s : State) (i : Nat) :
    Counted s (bumpAll i l s) x.1 i x.2 := by
  induction l generalizing s with
  | nil => cases hx
  | cons y l ih =>
    obtain ⟨hy, hnd⟩ := List.nodup_cons.mp hnd
    rcases List.mem_cons.mp hx with rfl | hx
    · exact (get_bumpAll_ne _ (.inl hy)).trans (counted_bump s x.1 x.2 i)
    · have hne : x.1 ≠ y.1 := ne_of_mem_of_not_mem (List.mem_map_of_mem hx) hy
      exact (ih hnd hx _).trans (congrArg (satAdd _ · _) (get_bump_fld s _ _ _ hne))

/-- The maximum of a set aside, a record counts. -/
theorem get_addRec (s : State) (i : Nat) (r : NumRec) {g : Fld} (hmax : g ≠ .numOp_max) (hseen : g ≠ .numOp_seen) (j : Nat) :
    get (addRec s i r) g j = get (bumpAll i (countsOf r) s) g j := by
  unfold addRec
  split
  · rfl
  · exact (get_put_fld _ _ _ _ hseen).trans (get_put_fld _ _ _ _ hmax)

theorem counted_addRec {r : NumRec} {x : Fld × Nat} (hx : x ∈ countsOf r) (s : State) (i : Nat) :
    Counted s (addRec s i r) x.1 i x.2 := by
  have hne : ∀ f ∈ countFlds, f ≠ .numOp_max ∧ f ≠ .numOp_seen := by decide
  obtain ⟨hmax, hseen⟩ := hne _ (fst_mem_countFlds hx)
  have hnd : countFlds.Nodup := by decide
  exact (get_addRec s i r hmax hseen i).trans (counted_bumpAll (l := countsOf r) hnd hx s i)

/-! ### What a record leaves of the rest (R206 to R208) -/

/-- A record's work in the table: registers, what is evaluated and what is raised change, and no counter of the module that fits its
width falls or leaves it. -/
structure Recording (s t : State) : Prop where
  rest : { t with regs := s.regs,
                  num := { t.num with evald := s.num.evald, evaldCur := s.num.evaldCur, due := s.num.due } } = s
  rises : ∀ f ∈ recCounts, get s f < 2 ^ f.width → get s f ≤ get t f ∧ get t f < 2 ^ f.width

section
variable {s t u : State}

theorem recording_refl (s : State) : Recording s s := ⟨rfl, fun _ _ hlt => ⟨Nat.le_refl _, hlt⟩⟩

theorem recording_ite {b : Prop} [Decidable b] (ht : Recording s t) (hu : Recording s u) : Recording s (if b then t else u) := by
  split
  · exact ht
  · exact hu

theorem recording_put (h : Recording s t) {g : Fld} (hg : g ∉ recCounts) (v i : Nat) : Recording s (put t g v i) :=
  ⟨h.rest, fun f hf hlt => by
    rw [get_put_fld t v i 0 (ne_of_mem_of_not_mem hf hg)]
    exact h.rises f hf hlt⟩

theorem le_satAdd {w a : Nat} (h : a < 2 ^ w) (n : Nat) : a ≤ satAdd w a n :=
  Nat.le_min.mpr ⟨Nat.le_add_right a n, Nat.le_sub_one_of_lt h⟩

theorem recording_bump (h : Recording s t) (g : Fld) (n : Nat) : Recording s (bump t g n) :=
  ⟨h.rest, fun f hf hlt => by
    obtain ⟨hle, hfit⟩ := h.rises f hf hlt
    by_cases hfg : f = g
    · subst hfg
      rw [counted_bump t f n 0]
      exact ⟨hle.trans (le_satAdd hfit n), satAdd_lt ..⟩
    · rw [get_bump_fld t n 0 0 hfg]
      exact ⟨hle, hfit⟩⟩

theorem recording_bumpSet (h : Recording s t) {g : Fld} (hg : g ∉ recCounts) (n i : Nat) : Recording s (bump t g n i) :=
  recording_put h hg _ i

theorem recording_raise (h : Recording s t) (x : SilEvt) : Recording s (raise t x) := ⟨h.rest, h.rises⟩

theorem recording_setEvald (h : Recording s t) (e : Nat) (cur prev : Bool) : Recording s (setEvald t e cur prev) :=
  ⟨h.rest, h.rises⟩

theorem setFlds_not_mem_recCounts : ∀ g ∈ setFlds, g ∉ recCounts := by decide

theorem recording_putSet (h : Recording s t) {l : List Fld} (hl : l ⊆ setFlds) (v : State → Fld → Nat) (i : Nat) :
    Recording s (each l (fun t g => put t g (v t g) i) t) := by
  induction l generalizing t with
  | nil => exact h
  | cons g l ih =>
    obtain ⟨hg, hl⟩ := List.cons_subset.mp hl
    exact ih (recording_put h (setFlds_not_mem_recCounts g hg) (v t g) i) hl

theorem recording_clearSet (h : Recording s t) (i : Nat) : Recording s (clearSet t i) :=
  recording_putSet h (List.Subset.refl _) (fun _ _ => 0) i

theorem recording_copySet (h : Recording s t) (i j : Nat) : Recording s (copySet t i j) :=
  recording_putSet h (List.Subset.refl _) (fun t g => get t g i) j

theorem recording_addRec (h : Recording s t) (i : Nat) (r : NumRec) : Recording s (addRec t i r) := by
  have hall {l : List (Fld × Nat)} (hl : ∀ x ∈ l, x.1 ∉ recCounts) {u : State} (hu : Recording s u) :
      Recording s (bumpAll i l u) := by
    induction l generalizing u with
    | nil => exact hu
    | cons x l ih =>
      obtain ⟨hx, hl⟩ := List.forall_mem_cons.mp hl
      exact ih hl (recording_bumpSet hu hx x.2 i)
  have hne : ∀ f ∈ countFlds, f ∉ recCounts := by decide
  have hcounts : Recording s (bumpAll i (countsOf r) t) := hall (fun x hx => hne _ (fst_mem_countFlds hx)) h
  unfold addRec
  split
  · exact hcounts
  · exact recording_put (recording_put hcounts (by decide) _ i) (by decide) _ i

theorem recording_takeStep (h : Recording s t) (e : Nat) (r : NumRec) : Recording s (takeStep t e r) :=
  recording_addRec (recording_put (recording_put (recording_clearSet h e) (by decide) r.step e) (by decide) 1 e) e r

theorem recording_jumpWatch (h : Recording s t) (e : Nat) : Recording s (jumpWatch t e) :=
  recording_ite (recording_put (recording_put (recording_put h (by decide) 0 e) (by decide) 0 e) (by decide) 0 e) h

theorem recording_evalSet (h : Recording s t) (e i job : Nat) (p : PolicyRec) : Recording s (evalSet t e i job p) := by
  have hrun := recording_put h (g := .numSil_run) (by decide) (min (get t .numSil_run e + 1) 4095) e
  have hheard := recording_put (recording_put (recording_put h (g := .numSil_run) (by decide) 0 e) (g := .numSil_evented)
    (by decide) 0 e) (g := .numSil_alarmed) (by decide) 0 e
  unfold evalSet
  dsimp only
  refine recording_ite (recording_ite hrun ?_) (recording_ite (recording_bump (recording_put hheard (by decide) ..) ..) hheard)
  have hevented := recording_ite (b := flag (put t .numSil_run (min (get t .numSil_run e + 1) 4095) e) .numSil_evented e = true) hrun
    (recording_raise (recording_bump (recording_put hrun (g := .numSil_evented) (by decide) 1 e) .numSilcnt_events 1)
      ⟨0x021, job, get t .numOp_step i, e, min (get t .numSil_run e + 1) 4095⟩)
  exact recording_ite (recording_ite (recording_bump (recording_put hevented (by decide) ..) ..)
    (recording_ite (recording_raise (recording_bump (recording_put hevented (by decide) ..) ..) _) hevented)) hevented

theorem recording_evaluate (h : Recording s t) (e i job : Nat) : Recording s (evaluate t e i job) := by
  unfold evaluate
  split
  · exact h
  · exact recording_evalSet h ..

/-- By the rows of R208. -/
theorem recording_recordInto (s : State) (e : Nat) (r : NumRec) : Recording s (recordInto s e r) := by
  have h := recording_refl s
  unfold recordInto
  dsimp only
  refine recording_ite ?notValid (recording_ite ?same (recording_ite ?next (recording_ite ?late ?jump)))
  case notValid => exact recording_setEvald (recording_takeStep h e r) ..
  case same => exact recording_addRec h e r
  case next =>
    exact recording_setEvald (recording_takeStep (recording_copySet (recording_ite h (recording_evaluate h ..)) ..) e r) ..
  case late => exact recording_bump h ..
  case jump =>
    exact recording_setEvald (recording_takeStep (recording_clearSet (recording_jumpWatch (recording_bump h ..) e) _) e r) ..

end

/-! ### An entry before its records, and after some of them (log entry 189) -/

/-- What is kept of an entry as it was, with what its records have added to the counters. -/
def entBase (s : State) (e : Nat) (added : List Nat) : EntBase :=
  ⟨e, (entFlds e).map (fun f => get s f.1 f.2), mget false s.num.evaldCur e, mget false s.num.evald e, added⟩

/-- Some records have acted on an entry that was as in `s`, of which none was kept: it is kept now, and the counters of the module
have grown by what is noted. -/
structure Recorded (s : State) (e : Nat) (added : List Nat) (u : State) : Prop where
  mem : u.mem = s.mem
  fresh : u.num.fresh = s.num.fresh
  base : u.num.base = s.num.base ++ [entBase s e added]
  grown : ∀ i f, recCounts[i]? = some f → get s f < 2 ^ f.width → get u f = get s f + added.getD i 0 ∧ get u f < 2 ^ f.width

section
variable {s u : State} {e : Nat}

theorem noteBase_of_new (h : s.num.base.all (fun b => b.entry != e) = true) :
    noteBase s e = { s with num := { s.num with base := s.num.base ++ [entBase s e []] } } := by
  refine if_neg fun hany => ?_
  obtain ⟨b, hb, heq⟩ := List.any_eq_true.mp hany
  exact bne_iff_ne.mp (List.all_eq_true.mp h b hb) (beq_iff_eq.mp heq)

theorem get_noteBase (s : State) (e : Nat) (f : Fld) (i : Nat) : get (noteBase s e) f i = get s f i := by
  unfold noteBase
  split <;> rfl

theorem recorded_noteBase (h : s.num.base.all (fun b => b.entry != e) = true) : Recorded s e [] (noteBase s e) := by
  rw [noteBase_of_new h]
  exact ⟨rfl, rfl, rfl, fun _ _ _ hlt => ⟨rfl, hlt⟩⟩

/-- What the records of an entry have added to the counters, after one more. -/
def addedMore (u t : State) (added : List Nat) : List Nat :=
  recCounts.mapIdx (fun i f => added.getD i 0 + (get t f - get u f))

theorem getD_addedMore (u t : State) (added : List Nat) {i : Nat} {f : Fld} (hf : recCounts[i]? = some f) :
    (addedMore u t added).getD i 0 = added.getD i 0 + (get t f - get u f) := by
  rw [addedMore, List.getD_eq_getElem?_getD, List.getElem?_mapIdx, hf]
  rfl

theorem recorded_applyRec {added : List Nat} (hbase : s.num.base.all (fun b => b.entry != e) = true) (h : Recorded s e added u)
    (r : NumRec) : Recorded s e (addedMore u (recordInto u e r) added) (applyRec e u r) := by
  obtain ⟨hrest, hrises⟩ := recording_recordInto u e r
  have hkept : (recordInto u e r).num.base = u.num.base := (congrArg (·.num.base) hrest :)
  refine ⟨(congrArg State.mem hrest :).trans h.mem, (congrArg (·.num.fresh) hrest :).trans h.fresh, ?_, fun i f hf hlt => ?_⟩
  · have hother : s.num.base.map (fun b => if b.entry = e then { b with added := addedMore u (recordInto u e r) b.added } else b) =
        s.num.base :=
      (List.map_congr_left fun b hb => if_neg (bne_iff_ne.mp (List.all_eq_true.mp hbase b hb))).trans (List.map_id _)
    refine (congrArg (List.map _) (hkept.trans h.base)).trans ?_
    rw [List.map_append]
    exact congrArg₂ (· ++ ·) hother (congrArg (fun b => [b]) (if_pos rfl))
  · obtain ⟨hgrown, hfit⟩ := h.grown i f hf hlt
    obtain ⟨hle, hnew⟩ := hrises f (List.mem_of_getElem? hf) hfit
    refine ⟨?_, hnew⟩
    rw [getD_addedMore _ _ _ hf]
    change get (recordInto u e r) f = _
    omega

theorem recorded_each (hbase : s.num.base.all (fun b => b.entry != e) = true) (l : List NumRec) :
    ∃ added, Recorded s e added (each l (applyRec e) (noteBase s e)) := by
  have hall {u : State} {added : List Nat} (h : Recorded s e added u) : ∃ more, Recorded s e more (each l (applyRec e) u) := by
    induction l generalizing u added with
    | nil => exact ⟨added, h⟩
    | cons r l ih => exact ih (recorded_applyRec hbase h r)
  exact hall (recorded_noteBase hbase)

/-! ### An entry taken back -/

/-- The fields of an entry take values in turn. -/
def restored (s : State) (e : Nat) (vals : List Nat) : State :=
  ((entFlds e).zip vals).foldl (fun t x => put t x.1.1 x.2 x.1.2) s

/-- The sets, the watch and the counters as `b` keeps them. -/
def takenBack (s : State) (e : Nat) (b : EntBase) : State := lowerAll recCounts b.added (restored s e b.vals)

theorem regsOnly_takenBack (s : State) (e : Nat) (b : EntBase) : RegsOnly s (takenBack s e b) :=
  regsOnly_trans s (regsOnly_foldl (fun _ (x : (Fld × Nat) × Nat) ht => regsOnly_put ht x.1.1 x.2 x.1.2) ((entFlds e).zip b.vals)
    regsOnly_refl) (regsOnly_lowerAll b.added _)

theorem unrecord_of_none (h : s.num.base.find? (fun b => b.entry == e) = none) : unrecord s e = s := by
  rw [unrecord, h]

theorem unrecord_of_some {b : EntBase} (h : s.num.base.find? (fun b => b.entry == e) = some b) :
    unrecord s e = setEvald { takenBack s e b with num := { (takenBack s e b).num with
      base := (takenBack s e b).num.base.filter (fun x => x.entry != e)
      due := (takenBack s e b).num.due.filter (fun x => x.entry != e) } } e b.cur b.prev := by
  rw [unrecord, h]
  rfl

theorem unrecord_leaves (s : State) (e : Nat) : (unrecord s e).mem = s.mem ∧ (unrecord s e).num.fresh = s.num.fresh := by
  cases h : s.num.base.find? (fun b => b.entry == e) with
  | none => rw [unrecord_of_none h]; exact ⟨rfl, rfl⟩
  | some b =>
    obtain ⟨r, hr⟩ := regsOnly_takenBack s e b
    rw [unrecord_of_some h, hr]
    exact ⟨rfl, rfl⟩

/-- The fields of an entry that its records change. -/
def entIds : List Fld := setFlds ++ setFlds ++ [.numSil_run, .numSil_boost, .numSil_evented, .numSil_alarmed]

theorem fst_mem_entIds {x : Fld × Nat} (hx : x ∈ entFlds e) : x.1 ∈ entIds := List.mem_map_of_mem (f := Prod.fst) hx

theorem restored_entBase (u s : State) (e : Nat) (added : List Nat) :
    restored u e (entBase s e added).vals = putAll (entFlds e) (fun x => get s x.1 x.2) u := by
  have hzip : (entFlds e).zip ((entFlds e).map fun x => get s x.1 x.2) = (entFlds e).map fun x => (x, get s x.1 x.2) := by
    simpa using List.zip_map' (f := id) (g := fun x => get s x.1 x.2) (l := entFlds e)
  rw [restored, entBase, hzip, List.foldl_map, putAll]

theorem entIds_not_mem_recCounts : ∀ f ∈ entIds, f ∉ recCounts := by decide

theorem get_takenBack_entFlds {added : List Nat} {x : Fld × Nat} (hx : x ∈ entFlds e) (hfit : get s x.1 x.2 < 2 ^ x.1.width) :
    get (takenBack u e (entBase s e added)) x.1 x.2 = get s x.1 x.2 := by
  rw [takenBack, get_lowerAll_of_not_mem _ _ (entIds_not_mem_recCounts _ (fst_mem_entIds hx)), restored_entBase, get_putAll _ _ hx,
    Nat.mod_eq_of_lt hfit]

theorem get_restored_recCounts {added : List Nat} {f : Fld} (hf : f ∈ recCounts) :
    get (restored u e (entBase s e added).vals) f = get u f := by
  rw [restored_entBase]
  exact get_putAll_of_not_mem _ _ fun hmem => entIds_not_mem_recCounts _ (fst_mem_entIds hmem) hf

theorem get_takenBack_recCounts {added : List Nat} (h : Recorded s e added u) {f : Fld} (hf : f ∈ recCounts)
    (hfit : get s f < 2 ^ f.width) : get (takenBack u e (entBase s e added)) f = get s f := by
  obtain ⟨i, hi⟩ := List.mem_iff_getElem?.mp hf
  obtain ⟨hgrown, hnew⟩ := h.grown i f hi hfit
  have hnd : recCounts.Nodup := by decide
  have hkept : get (restored u e (entBase s e added).vals) f = get u f := get_restored_recCounts hf
  have hlow := get_lowerAll (entBase s e added).added _ hnd hi (hkept.trans_lt hnew)
  rw [takenBack, hlow, hkept, hgrown, entBase, Nat.add_sub_cancel]

theorem find?_base {added : List Nat} (hbase : s.num.base.all (fun b => b.entry != e) = true) (h : Recorded s e added u) :
    u.num.base.find? (fun b => b.entry == e) = some (entBase s e added) := by
  have hnone : s.num.base.find? (fun b => b.entry == e) = none := List.find?_eq_none.mpr fun b hb heq =>
    bne_iff_ne.mp (List.all_eq_true.mp hbase b hb) (beq_iff_eq.mp heq)
  rw [h.base, List.find?_append, hnone, Option.none_or]
  exact List.find?_cons_of_pos (beq_self_eq_true e)

/-- Fields of the table and of its counters are zero at reset. -/
theorem fldReset_table (z : Fuses) (i : Nat) : ∀ f ∈ entIds ++ recCounts, fldReset z f i = 0 := by
  simp only [entIds, setFlds, recCounts, List.cons_append, List.nil_append, List.forall_mem_cons, List.not_mem_nil, false_implies,
    implies_true, and_true]
  and_intros <;> rfl

theorem get_table_lt (hfit : regsFit s.regs) {f : Fld} (hf : f ∈ entIds ++ recCounts) (i : Nat) : get s f i < 2 ^ f.width :=
  get_lt hfit (fun j => by rw [fldReset_table _ j f hf]; exact Nat.two_pow_pos _) i

/-- Taking back what records have made of an entry leaves it and the counters as they were (log entry 189). -/
theorem unrecord_recorded {added : List Nat} (hbase : s.num.base.all (fun b => b.entry != e) = true) (h : Recorded s e added u) :
    (regsFit s.regs → (∀ x ∈ entFlds e, get (unrecord u e) x.1 x.2 = get s x.1 x.2) ∧
      (∀ f ∈ recCounts, get (unrecord u e) f = get s f)) ∧
    mget false (unrecord u e).num.evaldCur e = mget false s.num.evaldCur e ∧
    mget false (unrecord u e).num.evald e = mget false s.num.evald e ∧
    (unrecord u e).num.fresh = s.num.fresh ∧ KeptMem s (unrecord u e) := by
  obtain ⟨hmem, hfresh⟩ := unrecord_leaves u e
  have hget (f : Fld) (i : Nat) : get (unrecord u e) f i = get (takenBack u e (entBase s e added)) f i := by
    rw [unrecord_of_some (find?_base hbase h)]
    rfl
  refine ⟨fun hfit => ⟨fun x hx => ?_, fun f hf => ?_⟩, ?_, ?_, hfresh.trans h.fresh, keptMem_of_mem_eq (hmem.trans h.mem)⟩
  · rw [hget, get_takenBack_entFlds hx (get_table_lt hfit (List.mem_append_left _ (fst_mem_entIds hx)) _)]
  · rw [hget, get_takenBack_recCounts h hf (get_table_lt hfit (List.mem_append_right _ hf) _)]
  · rw [unrecord_of_some (find?_base hbase h)]
    exact mget_mset_same ..
  · rw [unrecord_of_some (find?_base hbase h)]
    exact mget_mset_same ..

end

/-! ### The order of the records of a clk (R208) -/

/-- Records in ascending core number. -/
def CoresAscend (l : List NumRec) : Prop := l.Pairwise (fun x y => x.core ≤ y.core)

theorem insertRec_perm (r : NumRec) (l : List NumRec) : (insertRec r l).Perm (r :: l) := by
  induction l with
  | nil => exact .refl _
  | cons x l ih =>
    unfold insertRec
    split
    · exact .refl _
    · exact (ih.cons x).trans (.swap r x l)

theorem coresAscend_insertRec (r : NumRec) {l : List NumRec} (h : CoresAscend l) : CoresAscend (insertRec r l) := by
  induction l with
  | nil => exact List.pairwise_singleton ..
  | cons x l ih =>
    obtain ⟨hx, hl⟩ := List.pairwise_cons.mp h
    unfold insertRec
    split
    next hlt =>
      exact List.pairwise_cons.mpr ⟨List.forall_mem_cons.mpr ⟨hlt.le, fun y hy => hlt.le.trans (hx y hy)⟩, h⟩
    next hge =>
      refine List.pairwise_cons.mpr ⟨fun y hy => ?_, ih hl⟩
      rcases List.mem_cons.mp ((insertRec_perm r l).mem_iff.mp hy) with rfl | hy
      · exact Nat.le_of_not_lt hge
      · exact hx y hy

/-- A record comes after those of its own core. -/
theorem filter_insertRec (r : NumRec) {l : List NumRec} (h : CoresAscend l) (c : Nat) :
    (insertRec r l).filter (fun x => x.core == c) = (l ++ [r]).filter (fun x => x.core == c) := by
  induction l with
  | nil => rfl
  | cons x l ih =>
    obtain ⟨hx, hl⟩ := List.pairwise_cons.mp h
    unfold insertRec
    split
    next hlt =>
      by_cases hc : r.core = c
      · have hnone : (x :: l).filter (fun y => y.core == c) = [] := List.filter_eq_nil_iff.mpr fun y hy heq => by
          have hle : x.core ≤ y.core := by
            rcases List.mem_cons.mp hy with rfl | hy
            · exact Nat.le_refl _
            · exact hx y hy
          have := beq_iff_eq.mp heq
          omega
        rw [List.filter_append, List.filter_cons, hnone, if_pos (beq_iff_eq.mpr hc)]
        simp [hc]
      · rw [List.filter_append, List.filter_cons]
        simp [hc]
    next => rw [List.cons_append, List.filter_cons, List.filter_cons, ih hl]

theorem byCore_sorted_stable (l : List NumRec) :
    CoresAscend (byCore l) ∧ ∀ c, (byCore l).filter (fun x => x.core == c) = l.filter (fun x => x.core == c) := by
  have hall (l : List NumRec) {a : List NumRec} (h : CoresAscend a) : CoresAscend (l.foldl (fun a r => insertRec r a) a) ∧
      ∀ c, (l.foldl (fun a r => insertRec r a) a).filter (fun x => x.core == c) = (a ++ l).filter (fun x => x.core == c) := by
    induction l generalizing a with
    | nil => exact ⟨h, fun c => by rw [List.append_nil]; rfl⟩
    | cons r l ih =>
      obtain ⟨hsorted, hstable⟩ := ih (coresAscend_insertRec r h)
      refine ⟨hsorted, fun c => (hstable c).trans ?_⟩
      rw [List.filter_append, filter_insertRec r h, ← List.filter_append, List.append_assoc]
      rfl
  exact hall l .nil

theorem replay_of_none {s : State} {e : Nat} (h : freshOf s e = []) : replay s e = s := by
  rw [replay, h]
  rfl

theorem replay_of_some {s : State} {e : Nat} (h : freshOf s e ≠ []) :
    replay s e = (byCore (freshOf s e)).foldl (applyRec e) (noteBase s e) := by
  rw [replay, if_neg (by simpa using h), each]

/-! ### A record reaches the table (R206, R208) -/

/-- The totals of the module. -/
def totFlds : List Fld :=
  [.numTotElem_count, .numTotZero_count, .numTotFlush_count, .numTotSat_count, .numTotNan_count, .numTotInf_count]

/-- A record is no longer on its way. -/
def recTaken (s : State) (i : Nat) : State := { s with num := { s.num with recs := s.num.recs.eraseIdx i } }

/-- A record has come in: the totals have it, and it is one of this clk. -/
def recArrived (s : State) (i : Nat) (r : NumRec) : State :=
  { addTotals (recTaken s i) r with num := { (recTaken s i).num with fresh := s.num.fresh ++ [r] } }

theorem keptRegs_addTotals (s : State) (r : NumRec) : KeptRegs s (addTotals s r) totFlds := by
  intro f i hf
  simp only [totFlds, List.mem_cons, List.not_mem_nil, or_false, not_or] at hf
  simp only [addTotals, get_bumpW_fld, hf, ne_eq, not_false_eq_true]

theorem get_addTotals_zeros (s : State) (r : NumRec) :
    get (addTotals s r) .numTotZero_count = (get s .numTotZero_count + r.zeros) % 2 ^ Fld.numTotZero_count.width := by
  rw [addTotals, get_bumpW_fld _ _ _ _ (by decide), get_bumpW_fld _ _ _ _ (by decide), get_bumpW_fld _ _ _ _ (by decide),
    get_bumpW_fld _ _ _ _ (by decide), bumpW, get_put_same, get_bumpW_fld _ _ _ _ (by decide)]

section
variable {s : State} {i e : Nat} {r : NumRec}

theorem keptRegs_recArrived : KeptRegs s (recArrived s i r) totFlds := keptRegs_addTotals (recTaken s i) r

theorem freshOf_recArrived (he : r.entry = some e) : freshOf (recArrived s i r) e = freshOf s e ++ [r] := by
  have hone : [r].filter (fun x => x.entry == some e) = [r] := List.filter_cons_of_pos (beq_iff_eq.mpr he)
  rw [freshOf, recArrived, List.filter_append, hone, freshOf]

theorem exec_numEventRecord (hr : s.num.recs[i]? = some r) :
    exec (.numEventRecord i) s = .next (takeRecord (recTaken s i) r) := by
  change execNumEventRecord i s = _
  rw [execNumEventRecord, hr]
  rfl

theorem exec_numEventRecord_of_off (hr : s.num.recs[i]? = some r) (hoff : flag s .numCtl_count_en = false) :
    exec (.numEventRecord i) s = .next (recTaken s i) := by
  have hflag : flag (recTaken s i) .numCtl_count_en = false := hoff
  rw [exec_numEventRecord hr, takeRecord, hflag]
  rfl

theorem exec_numEventRecord_of_entry (hr : s.num.recs[i]? = some r) (hon : flag s .numCtl_count_en = true)
    (he : r.entry = some e) : exec (.numEventRecord i) s = .next
      (if (freshOf s e).all (fun x => decide (x.core ≤ r.core)) then applyRec e (noteBase (recArrived s i r) e) r
        else replay (unrecord (recArrived s i r) e) e) := by
  have hflag : flag (recTaken s i) .numCtl_count_en = true := hon
  rw [exec_numEventRecord hr, takeRecord, hflag, he]
  rfl

/-- A record of the current step adds to the current set (R208). -/
theorem recordInto_of_current (hvalid : flag s .numOp_valid e = true) (hstep : get s .numOp_step e = r.step) :
    recordInto s e r = addRec s e r := by
  rw [recordInto, hvalid, hstep]
  exact if_pos rfl

theorem get_applyRec_recArrived (hvalid : flag s .numOp_valid e = true) (hstep : get s .numOp_step e = r.step) (f : Fld) (j : Nat) :
    get (applyRec e (noteBase (recArrived s i r) e) r) f j = get (addRec (noteBase (recArrived s i r) e) e r) f j := by
  have hkept (f : Fld) (hf : f ∉ totFlds) : get (noteBase (recArrived s i r) e) f e = get s f e :=
    (get_noteBase ..).trans (keptRegs_recArrived f e hf)
  have hvalid' : flag (noteBase (recArrived s i r) e) .numOp_valid e = true := by
    rw [flag, hkept _ (by decide)]
    exact hvalid
  rw [← recordInto_of_current hvalid' ((hkept _ (by decide)).trans hstep)]
  rfl

theorem runs_numEventRecord_of_off (hr : s.num.recs[i]? = some r) (hoff : flag s .numCtl_count_en = false) :
    Runs (.numEventRecord i) s (fun t => t = { s with num := { s.num with recs := s.num.recs.eraseIdx i } }) :=
  ⟨_, exec_numEventRecord_of_off hr hoff, rfl⟩

/-- What stays of the state but the records where one acts on an entry as they are. -/
theorem applyRec_recArrived_leaves (s : State) (i e : Nat) (r : NumRec) :
    let t := applyRec e (noteBase (recArrived s i r) e) r
    t.num.recs = s.num.recs.eraseIdx i ∧ t.num.fresh = s.num.fresh ++ [r] ∧ t.mem = s.mem := by
  have hnote : (noteBase (recArrived s i r) e).num.recs = s.num.recs.eraseIdx i ∧
      (noteBase (recArrived s i r) e).num.fresh = s.num.fresh ++ [r] ∧ (noteBase (recArrived s i r) e).mem = s.mem := by
    unfold noteBase
    split <;> exact ⟨rfl, rfl, rfl⟩
  obtain ⟨hrest, -⟩ := recording_recordInto (noteBase (recArrived s i r) e) e r
  exact ⟨(congrArg (·.num.recs) hrest :).trans hnote.1, (congrArg (·.num.fresh) hrest :).trans hnote.2.1,
    (congrArg State.mem hrest :).trans hnote.2.2⟩

theorem runs_numEventRecord_of_current (hr : s.num.recs[i]? = some r) (hon : flag s .numCtl_count_en = true)
    (he : r.entry = some e) (hturn : ∀ x ∈ freshOf s e, x.core ≤ r.core) (hvalid : flag s .numOp_valid e = true)
    (hstep : get s .numOp_step e = r.step) : Runs (.numEventRecord i) s (fun t =>
      (∀ x ∈ countsOf r, get t x.1 e = satAdd x.1.width (get s x.1 e) x.2) ∧
      get t .numTotZero_count = (get s .numTotZero_count + r.zeros) % 2 ^ Fld.numTotZero_count.width ∧
      get t .numOp_step e = r.step ∧ t.num.recs = s.num.recs.eraseIdx i ∧ t.num.fresh = s.num.fresh ++ [r] ∧
      (∀ d, d ≠ e → get t .numOp_elements d = get s .numOp_elements d) ∧ KeptMem s t) := by
  have hexec := exec_numEventRecord_of_entry hr hon he
  rw [if_pos (List.all_eq_true.mpr fun x hx => decide_eq_true (hturn x hx))] at hexec
  have hget := get_applyRec_recArrived (i := i) hvalid hstep
  have hkept {f : Fld} (hf : f ∉ totFlds) (j : Nat) : get (noteBase (recArrived s i r) e) f j = get s f j :=
    (get_noteBase ..).trans (keptRegs_recArrived f j hf)
  have hout {f : Fld} (hf : f ∉ countFlds) (hmax : f ≠ .numOp_max) (hseen : f ≠ .numOp_seen) (j : Nat) :
      get (addRec (noteBase (recArrived s i r) e) e r) f j = get (noteBase (recArrived s i r) e) f j :=
    (get_addRec _ _ _ hmax hseen j).trans (get_bumpAll_ne (l := countsOf r) _ (.inl hf))
  obtain ⟨hrecs, hfresh, hmem⟩ := applyRec_recArrived_leaves s i e r
  refine ⟨_, hexec, fun x hx => ?_, ?_, ?_, hrecs, hfresh, fun d hd => ?_, keptMem_of_mem_eq hmem⟩
  · have htot : ∀ f ∈ countFlds, f ∉ totFlds := by decide
    rw [hget, counted_addRec hx _ e, hkept (htot _ (fst_mem_countFlds hx))]
  · rw [hget, hout (by decide) (by decide) (by decide), get_noteBase]
    exact get_addTotals_zeros (recTaken s i) r
  · rw [hget, hout (by decide) (by decide) (by decide), hkept (by decide), hstep]
  · rw [hget, get_addRec _ _ _ (by decide) (by decide), get_bumpAll_ne _ (.inr hd), hkept (by decide)]

/-- One that comes after a record of a higher core has the records of its clk act again (R208, log entry 189). -/
theorem exec_numEventRecord_of_late (hr : s.num.recs[i]? = some r) (hon : flag s .numCtl_count_en = true)
    (he : r.entry = some e) {x : NumRec} (hx : x ∈ freshOf s e) (hlt : r.core < x.core) :
    exec (.numEventRecord i) s = .next (replay (unrecord (recArrived s i r) e) e) := by
  rw [exec_numEventRecord_of_entry hr hon he, if_neg fun hall => ?_]
  have := of_decide_eq_true (List.all_eq_true.mp hall x hx)
  omega

end

/-! ### Writes between two clks (R211, R235, R236) -/

section
variable (s : State) (e : Nat)

theorem exec_numOpclrEntry (hup : fn0Up s = true) (entry : BitVec 12) :
    exec (.numOpclrEntry entry) s = .next (replay (clearSets (unrecord s entry.toNat) entry.toNat) entry.toNat) :=
  congrArg Host.Outcome.next (if_pos hup)

theorem exec_numOpclrAll (hup : fn0Up s = true) :
    exec .numOpclrAll s = .next ((freshEnts s).foldl replay (clearTable ((freshEnts s).foldl unrecord s))) :=
  congrArg Host.Outcome.next (if_pos hup)

theorem exec_numSilWrite (hup : fn0Up s = true) (v : BitVec 64) : exec (.numSilWrite v) s =
    .next (replay (setWatch (unrecord s (get s .numOpsel_entry)) (get s .numOpsel_entry) v.toNat) (get s .numOpsel_entry)) :=
  congrArg Host.Outcome.next (if_pos hup)

theorem exec_numOpseedWrite (hup : fn0Up s = true) (mx step : BitVec 32) : exec (.numOpseedWrite mx step) s =
    .next (replay (seedSets (unrecord s (get s .numOpsel_entry)) (get s .numOpsel_entry) mx.toNat step.toNat)
      (get s .numOpsel_entry)) :=
  congrArg Host.Outcome.next (if_pos hup)

theorem get_setEvald (cur prev : Bool) (f : Fld) (i : Nat) : get (setEvald s e cur prev) f i = get s f i := rfl

theorem get_clearSets_same {g : Fld} (hg : g ∈ setFlds) : get (clearSets s e) g e = 0 ∧ get (clearSets s e) g (e + 4096) = 0 := by
  rw [clearSets, get_setEvald, get_setEvald, prevIdx, get_clearSet_same hg, get_clearSet_ne _ (.inr (by omega)),
    get_clearSet_same hg]
  exact ⟨rfl, rfl⟩

theorem get_clearSets_ne {g : Fld} {j : Nat} (h : g ∉ setFlds ∨ j ≠ e ∧ j ≠ e + 4096) : get (clearSets s e) g j = get s g j := by
  rw [clearSets, get_setEvald, prevIdx, get_clearSet_ne _ (h.imp_right And.right), get_clearSet_ne _ (h.imp_right And.left)]

theorem clearSets_rest : { clearSets s e with regs := s.regs, num := s.num } = s ∧ (clearSets s e).num.recs = s.num.recs ∧
    (clearSets s e).num.fresh = s.num.fresh := by
  obtain ⟨r, hr⟩ := regsOnly_trans s (regsOnly_clearSet s e) (regsOnly_clearSet (clearSet s e) (prevIdx e))
  rw [clearSets, hr]
  exact ⟨rfl, rfl, rfl⟩

/-- The key of a field is one of a set's just where the field is. -/
theorem any_setFlds (f : Fld) (i : Nat) : setFlds.any (fun g => g.ctorIdx == rkey f i % 1024) = decide (f ∈ setFlds) := by
  rw [rkey_mod, List.any_eq, decide_eq_decide]
  exact ⟨fun ⟨g, hg, heq⟩ => Fld.ctorIdx_inj (beq_iff_eq.mp heq) ▸ hg, fun hf => ⟨f, hf, beq_self_eq_true _⟩⟩

theorem get_clearTable (f : Fld) (i : Nat) :
    get (clearTable s) f i = if f ∈ setFlds then fldReset s.fuses f i else get s f i := by
  have hfilter := mget_filter_key (d := fldReset s.fuses f i) s.regs (fun k => !setFlds.any (fun g => g.ctorIdx == k % 1024)) (rkey f i)
  rw [any_setFlds] at hfilter
  refine hfilter.trans ?_
  by_cases hf : f ∈ setFlds
  · simp [hf]
  · simp [hf, get]

theorem clearTable_leaves : (∀ g ∈ setFlds, ∀ i, get (clearTable s) g i = 0) ∧ KeptRegs s (clearTable s) setFlds := by
  refine ⟨fun g hg i => ?_, fun f i hf => ?_⟩
  · rw [get_clearTable, if_pos hg, fldReset_table _ _ g (List.mem_append_left _ (List.mem_append_left _ (List.mem_append_left _ hg)))]
  · rw [get_clearTable, if_neg hf]

theorem setWatch_leaves (v : Nat) : get (setWatch s e v) .numSil_watch e = v % 2 ∧
    get (setWatch s e v) .numSil_run e = bitsOf v 12 1 ∧ get (setWatch s e v) .numSil_boost e = bitsOf v 15 13 ∧
    get (setWatch s e v) .numSil_evented e = 0 ∧ get (setWatch s e v) .numSil_alarmed e = 0 ∧
    OnlyRegs s (setWatch s e v) [.numSil_watch, .numSil_run, .numSil_boost, .numSil_evented, .numSil_alarmed] := by
  have hwatch : bitsOf v 0 0 % 2 ^ Fld.numSil_watch.width = v % 2 := by
    change bitsOf v 0 0 % 2 ^ 1 = v % 2
    simp [bitsOf]
  have hrun : bitsOf v 12 1 % 2 ^ Fld.numSil_run.width = bitsOf v 12 1 := Nat.mod_eq_of_lt (bitsOf_lt v 12 1)
  have hboost : bitsOf v 15 13 % 2 ^ Fld.numSil_boost.width = bitsOf v 15 13 := Nat.mod_eq_of_lt (bitsOf_lt v 15 13)
  refine ⟨?_, ?_, ?_, ?_, ?_, rfl, fun f i hf => ?_⟩
  · simp [setWatch, hwatch]
  · simp [setWatch, hrun]
  · simp [setWatch, hboost]
  · simp [setWatch]
  · simp [setWatch]
  · simp only [List.mem_cons, List.not_mem_nil, or_false, not_or] at hf
    simp [setWatch, hf]

theorem get_seedSets (mx step : Nat) (f : Fld) (i : Nat) : get (seedSets s e mx step) f i =
    get (put (put (put (put (put (clearSet s (e + 4096)) .numOp_valid 1 (e + 4096)) .numOp_step step (e + 4096))
      .numOp_max mx (e + 4096)) .numOp_seen 1 (e + 4096)) .numOp_valid 0 e) f i := by
  rw [seedSets, get_setEvald, prevIdx]

theorem seedSets_leaves (mx step : BitVec 32) :
    let u := seedSets s e mx.toNat step.toNat
    get u .numOp_valid e = 0 ∧ get u .numOp_valid (e + 4096) = 1 ∧ get u .numOp_step (e + 4096) = step.toNat ∧
    get u .numOp_max (e + 4096) = mx.toNat ∧ get u .numOp_seen (e + 4096) = 1 ∧ get u .numOp_elements (e + 4096) = 0 ∧
    KeptRegs s u setFlds ∧ u.mem = s.mem ∧ u.num.fresh = s.num.fresh := by
  dsimp only
  have hidx (t : State) : get (put t .numOp_valid 0 e) .numOp_valid (e + 4096) = get t .numOp_valid (e + 4096) :=
    get_put_idx t _ _ (by omega)
  have hvalid : 1 % 2 ^ Fld.numOp_valid.width = 1 := rfl
  have hseen : 1 % 2 ^ Fld.numOp_seen.width = 1 := rfl
  have hstep : step.toNat % 2 ^ Fld.numOp_step.width = step.toNat := Nat.mod_eq_of_lt step.isLt
  have hmax : mx.toNat % 2 ^ Fld.numOp_max.width = mx.toNat := Nat.mod_eq_of_lt mx.isLt
  refine ⟨?_, ?_, ?_, ?_, ?_, ?_, fun f i hf => ?_, ?_⟩
  · simp [get_seedSets]
  · simp [get_seedSets, hidx, hvalid]
  · simp [get_seedSets, hstep]
  · simp [get_seedSets, hmax]
  · simp [get_seedSets, hseen]
  · simp [get_seedSets, get_clearSet_same (g := .numOp_elements) (by decide)]
  · have hne {g : Fld} (hg : g ∈ setFlds) : f ≠ g := (ne_of_mem_of_not_mem hg hf).symm
    rw [get_seedSets, get_put_fld _ _ _ _ (hne (by decide)), get_put_fld _ _ _ _ (hne (by decide)),
      get_put_fld _ _ _ _ (hne (by decide)), get_put_fld _ _ _ _ (hne (by decide)), get_put_fld _ _ _ _ (hne (by decide)),
      get_clearSet_ne _ (.inl hf)]
  · obtain ⟨r, hr⟩ := regsOnly_clearSet s (prevIdx e)
    rw [seedSets, hr]
    exact ⟨rfl, rfl⟩

end

/-- Settles O13: a record by its place among those of its clk, an entry taken back by what was kept of it, and each write by what it
leaves of the entry before the records of its clk act again. -/
theorem operationTableCountsAndClears : Obligations.OperationTableCountsAndClears := by
  refine ⟨?records, ?clk, ?writes⟩
  case records =>
    intro i s r hr
    refine ⟨runs_numEventRecord_of_off hr, fun hon e he => ⟨runs_numEventRecord_of_current hr hon he, fun x hx hlt => ?_⟩⟩
    exact ⟨recArrived s i r, keptRegs_recArrived, freshOf_recArrived he, rfl, rfl, exec_numEventRecord_of_late hr hon he hx hlt⟩
  case clk =>
    intro s e
    obtain ⟨hsorted, hstable⟩ := byCore_sorted_stable (freshOf s e)
    refine ⟨fun l hbase => ?_, hsorted, hstable, replay_of_none, replay_of_some⟩
    obtain ⟨added, hrecorded⟩ := recorded_each hbase l
    exact unrecord_recorded hbase hrecorded
  case writes =>
    intro s hup
    refine ⟨fun entry => ?_, ?_, fun v => ?_, fun mx step => ?_⟩
    · obtain ⟨hrest, hrecs, hfresh⟩ := clearSets_rest (unrecord s entry.toNat) entry.toNat
      refine ⟨_, fun g hg => ?_, fun g j hg => get_clearSets_ne _ _ (.inl hg), hrest, hrecs, hfresh, exec_numOpclrEntry s hup entry⟩
      obtain ⟨hcur, hprev⟩ := get_clearSets_same (unrecord s entry.toNat) entry.toNat hg
      exact ⟨hcur, hprev, fun j he hp => get_clearSets_ne _ _ (.inr ⟨he, hp⟩)⟩
    · obtain ⟨hsets, hregs⟩ := clearTable_leaves ((freshEnts s).foldl unrecord s)
      exact ⟨_, hsets, hregs, rfl, rfl, rfl, exec_numOpclrAll s hup⟩
    · obtain ⟨hwatch, hrun, hboost, hevented, halarmed, honly⟩ :=
        setWatch_leaves (unrecord s (get s .numOpsel_entry)) (get s .numOpsel_entry) v.toNat
      exact ⟨_, hwatch, hrun, hboost, hevented, halarmed, honly, exec_numSilWrite s hup v⟩
    · obtain ⟨hcur, hvalid, hstep, hmax, hseen, helems, hregs, hmem, hfresh⟩ :=
        seedSets_leaves (unrecord s (get s .numOpsel_entry)) (get s .numOpsel_entry) mx step
      obtain ⟨hmem', hfresh'⟩ := unrecord_leaves s (get s .numOpsel_entry)
      exact ⟨_, hcur, hvalid, hstep, hmax, hseen, helems, hregs, keptMem_of_mem_eq (hmem.trans hmem'), hfresh.trans hfresh',
        exec_numOpseedWrite s hup mx step⟩

end Sys2Proof.Machine
end

section
/-!
KV reads and KV page operations (R241 to R248, R285, R290): what a read comes to once the checks of its next page pass, what a page
operation comes to, and what counting a page leaves.
-/
namespace Sys2Proof.Machine

/-- The page that a KV descriptor handles next. -/
abbrev kvNext (d : Desc) : Nat := d.w 0 48 27 + kvDone d

/-! ### The next page of a KV read (R242 to R248) -/

/-- The page descriptor under which the next page is read, as it was first read (R241): the state after, the code, the bytes. -/
def kvFound (s : State) (c : Nat) (d : Desc) : State × Nat × Bytes :=
  match d.raw with
  | some b => (noteWin s (kvWindow d), 0, b)
  | none => readOff (noteWin s (kvWindow d)) d.job c (pdAddr (winWords s (kvWindow d)) (kvNext d)) 64

/-- The page descriptor is kept, and the page and those of the read that follow it within read_ahead are asked for (R248). -/
def kvAsked (s : State) (c : Nat) (d : Desc) : State :=
  each (kvNext d :: ((List.range (min 8 (max 1 (get s .attCtl_read_ahead c)))).map (fun i => kvNext d + i + 1)).filter
    (fun q => decide (q < d.w 0 48 27 + d.w 0 53 49))) (askPage c d)
    (updDesc (kvFound s c d).1 c d.id (fun e => { e with raw := some (kvFound s c d).2.2 }))

/-- The next page of the read, widened in the state that has asked for it (R244 to R247). -/
def kvWidened (s : State) (c : Nat) (d : Desc) : State :=
  widenPage (kvAsked s c d) c d (parsePage (kvFound s c d).2.2) (kvFound s c d).2.2 (kvNext d)
    (pageVa (winWords s (kvWindow d)) (kvNext d))

/-- The next page of the read is mapped, but not in HBM or on the move (R248). -/
def kvAway (s : State) (c : Nat) (d : Desc) : Bool :=
  wSpill (winWords s (kvWindow d)) && pteValid (l3Of (kvAsked s c d) (winWords s (kvWindow d)) (kvNext d)) &&
    !pageHere (kvAsked s c d) (kvWindow d) (kvNext d)

section
variable {s : State} {c : Nat} {d : Desc}

theorem kvAway_of_not_spill (h : wSpill (winWords s (kvWindow d)) = false) : kvAway s c d = false := by simp [kvAway, h]

theorem kvAway_of_pageHere (h : pageHere (kvAsked s c d) (kvWindow d) (kvNext d) = true) : kvAway s c d = false := by
  simp [kvAway, h]

theorem kvAway_of_not_pageHere (hspill : wSpill (winWords s (kvWindow d)) = true)
    (hmapped : pteValid (l3Of (kvAsked s c d) (winWords s (kvWindow d)) (kvNext d)) = true)
    (h : pageHere (kvAsked s c d) (kvWindow d) (kvNext d) = false) : kvAway s c d = true := by
  simp [kvAway, hspill, hmapped, h]

end

/-- A page is left, and all that is checked before it is asked for passes (R242, R243, R285). -/
structure KvClean (s : State) (c : Core) (d : Desc) : Prop where
  more : kvDone d < d.w 0 53 49
  coreUp : fnReady s (coreFn c) = true
  kvUp : fnReady s 7 = true
  window : winBad s (kvWindow d) = 0
  allowed : winRefused s d.job (kvWindow d) (kvNext d) = false
  inside : inHbm s (pdAddr (winWords s (kvWindow d)) (kvNext d)) = true
  read : (kvFound s c d).2.1 = 0
  valid : pageReason (parsePage (kvFound s c d).2.2) (kvWindow d) = 0

section
variable {s : State} {c : Core} {id : Nat} {d : Desc}

/-- Past its checks a read asks for pages, and widens its page where the descriptor is still in flight and the page is in HBM. -/
theorem exec_kvRead_of_clean (hd : flightOf s c id = some d) (hk : d.kind = 4) (h : KvClean s c d) :
    exec (.kvRead c id) s = if (flightOf (kvAsked s c d) c id).isNone then .next (kvAsked s c d)
      else if kvAway s c d then .next (kvAsked s c d) else .next (kvWidened s c d) := by
  have hrun : ¬(d.kind ≠ 4 ∨ d.w 0 53 49 ≤ kvDone d ∨ fnReady s (coreFn c) = false) := by simp [hk, h.more, h.coreUp]
  have hup : ¬(!fnReady s 7) = true := by simp [h.kvUp]
  have hwin : winBad s (kvWindow d) ≠ 0x02 := by simp [h.window]
  have hallowed : ¬(decide (winBad s (kvWindow d) ≠ 0) || winRefused s d.job (kvWindow d) (kvNext d)) = true := by
    simp [h.window, h.allowed]
  have hinside : ¬(!inHbm s (pdAddr (winWords s (kvWindow d)) (kvNext d))) = true := by simp [h.inside]
  change execKvRead c id s = _
  rw [execKvRead, hd]
  exact (if_neg hrun).trans <| (if_neg hup).trans <| (if_neg hwin).trans <| (if_neg hallowed).trans <| (if_neg hinside).trans <|
    (if_neg (not_not_intro h.read)).trans (if_neg (not_not_intro h.valid))

theorem exec_kvRead_of_gone (hd : flightOf s c id = some d) (hk : d.kind = 4) (h : KvClean s c d)
    (hgone : flightOf (kvAsked s c d) c id = none) : exec (.kvRead c id) s = .next (kvAsked s c d) :=
  (exec_kvRead_of_clean hd hk h).trans (if_pos (Option.isNone_iff_eq_none.2 hgone))

theorem exec_kvRead_of_away (hd : flightOf s c id = some d) (hk : d.kind = 4) (h : KvClean s c d)
    (haway : kvAway s c d = true) : exec (.kvRead c id) s = .next (kvAsked s c d) :=
  (exec_kvRead_of_clean hd hk h).trans (by rw [if_pos haway, ite_self])

theorem exec_kvRead_of_here (hd : flightOf s c id = some d) (hk : d.kind = 4) (h : KvClean s c d)
    (hflies : (flightOf (kvAsked s c d) c id).isSome = true) (hhere : kvAway s c d = false) :
    exec (.kvRead c id) s = .next (kvWidened s c d) :=
  (exec_kvRead_of_clean hd hk h).trans <| (if_neg (by simp [Option.isSome_iff_ne_none.1 hflies])).trans (if_neg (by simp [hhere]))

/-! ### The next page of a KV page operation (R285, R290) -/

/-- A page is left, and all that is checked before an operation on it passes (R285, R289). -/
structure KvOpClean (s : State) (d : Desc) : Prop where
  more : kvDone d < d.w 0 53 49
  kvUp : fnReady s 7 = true
  window : winBad s (kvWindow d) = 0
  allowed : winRefused s d.job (kvWindow d) (kvNext d) = false
  descriptor : pdBad s (winWords s (kvWindow d)) (kvNext d) = 0
  entry : ∃ o, l3Find s (wJob (winWords s (kvWindow d))) (pageVa (winWords s (kvWindow d)) (kvNext d)) = .at_ o

/-- Past its checks a page operation of the descriptor's op does its own thing to the next page. -/
theorem pageOp_of_clean {op : Nat} (body : State → Nat → Desc → List Word → Nat → Nat → State)
    (hd : flightOf s c id = some d) (hk : d.kind = 5) (h : KvOpClean s d) (hop : d.w 0 56 54 = op) :
    pageOp op c id body s = body (fixPage (noteWin s (kvWindow d)) (winWords s (kvWindow d)) (kvNext d)) c d
      (winWords s (kvWindow d)) (kvWindow d) (kvNext d) := by
  obtain ⟨hmore, hup, hwin, hallowed, hpd, o, hl3⟩ := h
  simp [pageOp, hd, hk, hop, hmore.not_ge, hup, hwin, hallowed, hpd, hl3]

/-! ### A page is counted (R247, R290) -/

/-- The descriptors in flight once one more page of `d` is counted: the page no longer waits to be, and the last one completes `d`. -/
def flightCounted (d : Desc) (l : List Desc) : List Desc :=
  if d.pages + 1 = d.w 0 53 49 then l.filter (fun e => e.id != d.id)
  else l.map (fun e => if e.id = d.id then { e with pages := e.pages + 1, ready := e.ready.drop 1 } else e)

/-- Where no counter rises, counting a page changes the descriptors in flight and nothing else. -/
theorem countKvPage_eq_setCore (htc : d.tcEn = false) :
    countKvPage s c d = setCore s c { coreOf s c with flight := flightCounted d (coreOf s c).flight } := by
  by_cases hlast : d.pages + 1 = d.w 0 53 49
  · simp [countKvPage, htc, hlast, flightCounted, dropFlight]
  · simp [countKvPage, htc, hlast, flightCounted, updDesc]

/-- One more page of the descriptor is counted in one core, and all else is kept. -/
def PageCounted (s t : State) (c : Nat) (d : Desc) : Prop :=
  (coreOf t c).flight = flightCounted d (coreOf s c).flight ∧ OnlyCore s t c ∧ KeptRegs s t [] ∧ KeptMem s t

theorem pageCounted_countKvPage (htc : d.tcEn = false) : PageCounted s (countKvPage s c d) c d := by
  have honly : OnlyCore s (countKvPage s c d) c := countKvPage_eq_setCore htc ▸ onlyCore_setCore (onlyCore_refl s c) _
  exact ⟨by simp [countKvPage_eq_setCore htc], honly, keptRegs_of_onlyCore honly, keptMem_of_onlyCore honly⟩

theorem exec_kvReadPageDone_of_ready (hd : flightOf s c id = some d) (hk : d.kind = 4) (hready : d.ready ≠ []) :
    exec (.kvReadPageDone c id) s = .next (countKvPage s c d) := by
  change execKvReadPageDone c id s = _
  simp [execKvReadPageDone, hd, hk, hready, onlyIf]

theorem exec_kvPageOpPageDone_of_ready (hd : flightOf s c id = some d) (hk : d.kind = 5) (hready : d.ready ≠ []) :
    exec (.kvPageOpPageDone c id) s = .next (countKvPage s c d) := by
  change execKvPageOpPageDone c id s = _
  simp [execKvPageOpPageDone, hd, hk, hready, onlyIf]

end

/-- Settles O19: a read by what it comes to past its checks, a page operation by `pageOp_of_clean`, and a page that is ready by what
counting it leaves. -/
theorem kvPagesAreReadAndHandled : Obligations.KvPagesAreReadAndHandled := by
  refine ⟨fun c id s d hd hk => ?reads, fun c id s d hd hk => ⟨?ops, fun hready htc => ?opDone⟩⟩
  case reads =>
    intro w page r x s1 clean
    have hclean : clean → KvClean s c d := fun ⟨more, coreUp, kvUp, window, allowed, inside, read, valid⟩ =>
      ⟨more, coreUp, kvUp, window, allowed, inside, read, valid⟩
    refine ⟨fun h hgone => ?gone, fun h hflies hspill => ?kept, fun h hspill hmapped haway => ?away, fun h hflies hhere => ?here,
      fun hready htc => ?done⟩
    case gone => exact exec_kvRead_of_gone hd hk (hclean h) hgone
    case kept => exact exec_kvRead_of_here hd hk (hclean h) hflies (kvAway_of_not_spill hspill)
    case away => exact exec_kvRead_of_away hd hk (hclean h) (kvAway_of_not_pageHere hspill hmapped haway)
    case here => exact exec_kvRead_of_here hd hk (hclean h) hflies (kvAway_of_pageHere hhere)
    case done => exact ⟨_, exec_kvReadPageDone_of_ready hd hk hready, pageCounted_countKvPage htc⟩
  case ops =>
    intro hmore hup hwin hallowed hpd hl3
    have h : KvOpClean s d := ⟨hmore, hup, hwin, hallowed, hpd, hl3⟩
    exact ⟨fun hop => congrArg Host.Outcome.next (pageOp_of_clean openPage hd hk h hop),
      fun hop => congrArg Host.Outcome.next (pageOp_of_clean sealPage hd hk h hop),
      fun hop => congrArg Host.Outcome.next (pageOp_of_clean hintPage hd hk h hop),
      fun hop => congrArg Host.Outcome.next (pageOp_of_clean closePage hd hk h hop)⟩
  case opDone => exact ⟨_, exec_kvPageOpPageDone_of_ready hd hk hready, pageCounted_countKvPage htc⟩

end Sys2Proof.Machine
end

section
/-!
Translations, moves and pools (R268, R280, R281, R286, R287, R291 to R297): what a write that invalidates or enables a pool leaves, what
the start and the end of a move come to, and what the patrol scrub does to a unit.
-/
namespace Sys2Proof.Machine

variable {s : State}

/-! ### Writes of the registers of FN7 -/

theorem fn7Write_of_up (h0 : fn0Up s = true) (h7 : fnReady s 7 = true) (f : State → State) : fn7Write s f = f s :=
  if_pos (by simp [h0, h7])

theorem invalValue_eq_packed (kind job count : Nat) :
    invalValue kind job count = packed [(2, kind), (12, job), (1, 1), (1, 0), (32, count)] := by
  simp only [invalValue, packed]
  omega

/-- What `MMU_INVAL` shows after a write of it with go set (R281). -/
theorem invalValue_fields {kind job count : Nat} (hk : kind < 4) (hj : job < 2 ^ 12) (hc : count < 2 ^ 32) :
    let v := invalValue kind job count
    bitsOf v 1 0 = kind ∧ bitsOf v 13 2 = job ∧ tst v 14 = true ∧ bitsOf v 47 16 = count := by
  have hfits : Fits [(2, kind), (12, job), (1, 1), (1, 0), (32, count)] := by
    simpa [Fits] using ⟨hk, hj, hc⟩
  rw [invalValue_eq_packed]
  exact ⟨bitsOf_packed hfits (k := 0) rfl rfl, bitsOf_packed hfits (k := 1) rfl rfl, tst_packed hfits (k := 2) (b := true) rfl rfl,
    bitsOf_packed hfits (k := 4) rfl rfl⟩

/-- Where the fields of `MMU_POOLpA` stand in a write of it with en 1 (R287). -/
theorem poolAValue_fields {base job : Nat} (hb : base < 2 ^ 46) (hj : job < 2 ^ 12) :
    let v := base + 2 ^ 46 + 2 ^ 47 * job
    bitsOf v 45 0 = base ∧ tst v 46 = true ∧ bitsOf v 58 47 = job := by
  have hfits : Fits [(46, base), (1, 1), (12, job)] := by simpa [Fits] using ⟨hb, hj⟩
  have hpacked : base + 2 ^ 46 + 2 ^ 47 * job = packed [(46, base), (1, 1), (12, job)] := by
    simp only [packed]
    omega
  rw [hpacked]
  exact ⟨bitsOf_packed hfits (k := 0) rfl rfl, tst_packed hfits (k := 1) (b := true) rfl rfl, bitsOf_packed hfits (k := 2) rfl rfl⟩

/-! ### Invalidation (R280, R281, R286) -/

section Invalidation
variable (s) (kind job va count : Nat)

/-- The TLBs lose the scope's translations and no others; kind 3 has none in its scope. -/
theorem mem_tlb_emptyScope (e : TlbEnt) : e ∈ (emptyScope s kind job va count).mmu.tlb ↔
    e ∈ s.mmu.tlb ∧ (kind = 3 ∨ inInval kind job va count e = false) := by
  unfold emptyScope
  split
  case isTrue h => simp [h]
  case isFalse h => simp [h]

/-- The window records go with kind 3 alone. -/
theorem wins_emptyScope : (emptyScope s kind job va count).mmu.wins = if kind = 3 then [] else s.mmu.wins := by
  unfold emptyScope
  split <;> rfl

/-- Emptying a scope touches nothing but what the MMU caches. -/
theorem emptyScope_rest : { emptyScope s kind job va count with mmu := s.mmu } = s := by
  unfold emptyScope
  split <;> rfl

theorem emptyScope_regs : (emptyScope s kind job va count).regs = s.regs :=
  (congrArg State.regs (emptyScope_rest s kind job va count) :)

theorem emptyScope_fuses : (emptyScope s kind job va count).fuses = s.fuses :=
  (congrArg State.fuses (emptyScope_rest s kind job va count) :)

theorem emptyScope_mem : (emptyScope s kind job va count).mem = s.mem :=
  (congrArg State.mem (emptyScope_rest s kind job va count) :)

end Invalidation

/-- The caches hold what they held but for the scope of an invalidation, and no register outside a list nor any byte changed. -/
structure ScopeGone (s t : State) (kind job va count : Nat) (l : List Fld) : Prop where
  tlb : ∀ e, e ∈ t.mmu.tlb ↔ e ∈ s.mmu.tlb ∧ (kind = 3 ∨ inInval kind job va count e = false)
  wins : t.mmu.wins = if kind = 3 then [] else s.mmu.wins
  regs : KeptRegs s t l
  mem : KeptMem s t

section ScopeGone
variable {t : State} {kind job va count : Nat} {l : List Fld} {f : Fld}

theorem scopeGone_emptyScope (s : State) (kind job va count : Nat) (l : List Fld) :
    ScopeGone s (emptyScope s kind job va count) kind job va count l :=
  ⟨mem_tlb_emptyScope s kind job va count, wins_emptyScope s kind job va count,
    keptRegs_of_regs_eq (emptyScope_regs ..) (emptyScope_fuses ..) l, keptMem_of_mem_eq (emptyScope_mem ..)⟩

/-- A listed register may be written afterwards. -/
theorem scopeGone_put (h : ScopeGone s t kind job va count l) (hf : f ∈ l) (v i : Nat) :
    ScopeGone s (put t f v i) kind job va count l := ⟨h.tlb, h.wins, keptRegs_put h.regs hf v i, h.mem⟩

/-- A listed register may have been written before. -/
theorem scopeGone_of_put {v i : Nat} (h : ScopeGone (put s f v i) t kind job va count l) (hf : f ∈ l) :
    ScopeGone s t kind job va count l :=
  ⟨h.tlb, h.wins, keptRegs_trans (keptRegs_put (fun _ _ _ => rfl) hf v i) h.regs, h.mem⟩

end ScopeGone

/-- The fields that an invalidation writes. -/
def invalFlds : List Fld := [.mmuInvalVa_va, .mmuInval_kind, .mmuInval_job, .mmuInval_count, .mmuInval_done]

/-- An invalidation of the scope has started: it is not done, and the caches hold nothing of the scope. -/
def InvalStarted (s t : State) (kind job va count : Nat) : Prop :=
  get t .mmuInval_done 0 = 0 ∧ ScopeGone s t kind job va count invalFlds

section Started
variable {kind job va count : Nat}

theorem invalStarted_startInval (s : State) (kind job va count : Nat) :
    InvalStarted s (startInval s kind job va count) kind job va count := by
  obtain ⟨htlb, hwins, hregs, hmem⟩ := scopeGone_emptyScope s kind job va count invalFlds
  have hnoted : ScopeGone s { emptyScope s kind job va count with
      mmu := { (emptyScope s kind job va count).mmu with invalVa := va } } kind job va count invalFlds := ⟨htlb, hwins, hregs, hmem⟩
  exact ⟨get_put_same .., scopeGone_put hnoted (by decide) 0 0⟩

/-- A write of `MMU_INVAL` with go set starts an invalidation where the last one is done (R281). -/
theorem invalStarted_invalWrite (hdone : get s .mmuInval_done 0 ≠ 0) (hk : kind < 4) (hj : job < 2 ^ 12) (hc : count < 2 ^ 32) :
    InvalStarted s (invalWrite s (invalValue kind job count)) kind job (65536 * get s .mmuInvalVa_va) count := by
  obtain ⟨hkind, hjob, hgo, hcount⟩ := invalValue_fields hk hj hc
  have hflag : ¬(!flag s .mmuInval_done) = true := by simp [flag, hdone]
  rw [invalWrite, if_neg hflag]
  dsimp only
  rw [if_pos hgo, hkind, hjob, hcount]
  obtain ⟨hzero, hgone⟩ := invalStarted_startInval (put (put (put s .mmuInval_kind kind) .mmuInval_job job) .mmuInval_count count)
    kind job (65536 * get s .mmuInvalVa_va) count
  exact ⟨hzero, scopeGone_of_put (scopeGone_of_put (scopeGone_of_put hgone (by decide)) (by decide)) (by decide)⟩

/-- So it does where the range's address has just been written. -/
theorem invalStarted_invalWrite_va (hdone : get s .mmuInval_done 0 ≠ 0) (va : BitVec 39) (hj : job < 2 ^ 12) (hc : count < 2 ^ 32) :
    InvalStarted s (invalWrite (put s .mmuInvalVa_va va.toNat) (invalValue 0 job count)) 0 job (65536 * va.toNat) count := by
  have hva : get (put s .mmuInvalVa_va va.toNat) .mmuInvalVa_va = va.toNat :=
    (get_put_same ..).trans (Nat.mod_eq_of_lt va.isLt)
  have hkept : get (put s .mmuInvalVa_va va.toNat) .mmuInval_done 0 ≠ 0 := by
    rwa [get_put_fld _ _ _ _ (by decide)]
  obtain ⟨hzero, hgone⟩ := invalStarted_invalWrite hkept (by decide : 0 < 4) hj hc
  rw [hva] at hgone
  exact ⟨hzero, scopeGone_of_put hgone (by decide)⟩

/-- Arguments that the kind does not look at may be any. -/
theorem invalStarted_congr {t : State} {j v n : Nat} (h : InvalStarted s t kind j v n)
    (hscope : ∀ e, inInval kind j v n e = inInval kind job va count e) : InvalStarted s t kind job va count := by
  obtain ⟨hzero, htlb, hwins, hregs, hmem⟩ := h
  exact ⟨hzero, fun e => hscope e ▸ htlb e, hwins, hregs, hmem⟩

/-- Each of the four commands starts the invalidation of its kind (R281, R286). -/
theorem runs_mmuInval (h0 : fn0Up s = true) (h7 : fnReady s 7 = true) (hdone : get s .mmuInval_done 0 ≠ 0) (job : BitVec 12)
    (va : BitVec 39) (count : BitVec 32) :
    let started (kind : Nat) (t : State) : Prop := InvalStarted s t kind job.toNat (65536 * va.toNat) count.toNat
    Runs (.mmuInvalPages job va count) s (started 0) ∧ Runs (.mmuInvalJob job) s (started 1) ∧ Runs .mmuInvalAll s (started 2) ∧
      Runs .mmuInvalWindows s (started 3) := by
  have hwrite (f : State → State) : Host.Outcome.next (fn7Write s f) = (.next (f s) : Host.Outcome State Fault Refusal) :=
    congrArg Host.Outcome.next (fn7Write_of_up h0 h7 f)
  refine ⟨⟨_, hwrite _, invalStarted_invalWrite_va hdone va job.isLt count.isLt⟩, ⟨_, hwrite _, ?_⟩, ⟨_, hwrite _, ?_⟩,
    ⟨_, hwrite _, ?_⟩⟩
  · exact invalStarted_congr (invalStarted_invalWrite hdone (by decide) job.isLt (by decide)) (fun _ => rfl)
  · exact invalStarted_congr (invalStarted_invalWrite hdone (by decide) (by decide) (by decide)) (fun _ => rfl)
  · exact invalStarted_congr (invalStarted_invalWrite hdone (by decide) (by decide) (by decide)) (fun _ => rfl)

end Started

theorem exec_mmuInvalDone_of_idle (h7 : fnReady s 7 = true) (hdone : get s .mmuInval_done 0 = 0) (hbusy : invalBusy s = false) :
    exec .mmuInvalDone s = .next (put (emptyScope s (get s .mmuInval_kind) (get s .mmuInval_job) s.mmu.invalVa
      (get s .mmuInval_count)) .mmuInval_done 1) :=
  congrArg Host.Outcome.next (if_pos (by simp [h7, flag, hdone, hbusy]))

theorem exec_mmuInvalDone_of_busy (hbusy : invalBusy s = true) : exec .mmuInvalDone s = .next s :=
  congrArg Host.Outcome.next (if_neg (by simp [hbusy]))

/-! ### Pools (R287, R297) -/

/-- With its marks in order a pool that is off takes its ring and its job, and starts at the ring's first entry (R287). -/
theorem poolAWrite_of_marks {p base job : Nat} (hb : base < 2 ^ 46) (hj : job < 2 ^ 12) (hoff : get s .mmuPoola_en p = 0)
    (hlow : get s .mmuPoolc_lwm p ≤ get s .mmuPoolc_hwm p) (hhigh : get s .mmuPoolc_hwm p ≤ get s .mmuPoolb_size p) :
    poolAWrite s p (base + 2 ^ 46 + 2 ^ 47 * job) = put { put (put s .mmuPoola_list_base base p) .mmuPoola_job job p with
      mmu := { s.mmu with ring := mset 0 s.mmu.ring p 0, spilling := mset 0 s.mmu.spilling p 0 } } .mmuPoola_en 1 p := by
  obtain ⟨hbase, hen, hjob⟩ := poolAValue_fields hb hj
  have hon : ¬flag s .mmuPoola_en p = true := by simp [flag, hoff]
  have hmarks : ¬(get s .mmuPoolb_size p < get s .mmuPoolc_hwm p ∨ get s .mmuPoolc_hwm p < get s .mmuPoolc_lwm p) := by omega
  have hset : ¬(!tst (base + 2 ^ 46 + 2 ^ 47 * job) 46) = true := by rw [hen]; decide
  rw [poolAWrite, if_neg hset, if_neg hon, if_neg hmarks, hbase, hjob]
  rfl

/-- What enabling a pool leaves (R287). -/
theorem poolAWrite_leaves {p base job : Nat} (hb : base < 2 ^ 46) (hj : job < 2 ^ 12) (hoff : get s .mmuPoola_en p = 0)
    (hlow : get s .mmuPoolc_lwm p ≤ get s .mmuPoolc_hwm p) (hhigh : get s .mmuPoolc_hwm p ≤ get s .mmuPoolb_size p) :
    let t := poolAWrite s p (base + 2 ^ 46 + 2 ^ 47 * job)
    get t .mmuPoola_en p = 1 ∧ get t .mmuPoola_list_base p = base ∧ get t .mmuPoola_job p = job ∧ mget 0 t.mmu.ring p = 0 ∧
      KeptMem s t ∧ KeptRegs s t [.mmuPoola_en, .mmuPoola_list_base, .mmuPoola_job] := by
  rw [poolAWrite_of_marks hb hj hoff hlow hhigh]
  have hbase : get (put (put s .mmuPoola_list_base base p) .mmuPoola_job job p) .mmuPoola_list_base p = base := by
    rw [get_put_fld _ _ _ _ (by decide), get_put_same]
    exact Nat.mod_eq_of_lt hb
  have hjob : get (put (put s .mmuPoola_list_base base p) .mmuPoola_job job p) .mmuPoola_job p = job :=
    (get_put_same ..).trans (Nat.mod_eq_of_lt hj)
  have hkept : KeptRegs s (put (put s .mmuPoola_list_base base p) .mmuPoola_job job p)
      [.mmuPoola_en, .mmuPoola_list_base, .mmuPoola_job] :=
    keptRegs_put (keptRegs_put (fun _ _ _ => rfl) (by decide) _ _) (by decide) _ _
  exact ⟨get_put_same .., (get_put_fld _ _ _ _ (by decide)).trans hbase, (get_put_fld _ _ _ _ (by decide)).trans hjob,
    mget_mset_same (m := s.mmu.ring) p 0, fun _ => rfl, keptRegs_put (fun f i hf => hkept f i hf) (by decide) _ _⟩

theorem onlyRegs_put (s : State) (f : Fld) (v i : Nat) : OnlyRegs s (put s f v i) [f] :=
  ⟨rfl, keptRegs_put (fun _ _ _ => rfl) (List.mem_singleton_self f) v i⟩

/-! ### Starts of moves (R291 to R294) -/

section Starts
variable {p : Fin 64}

/-- The spill of a page of the pool, from the state in which the unit has looked through the pool's pages (R291, R292). -/
def spillBegun (s : State) (p w page : Nat) : State :=
  endSpilling (startSpill { s with mmu := { s.mmu with spilling := mset 0 s.mmu.spilling p 1 } } p w page) p

theorem exec_kvSpillStart_of_due (hrun : unitRuns s p.val = true) (hdemand : demandDue s p.val = false)
    (hdue : spillDue s p.val = true) {x : Nat × Nat × Nat} (hold : oldestPage s p.val = some x) :
    exec (.kvSpillStart p) s = .next (spillBegun (lookPages s p.val) p.val x.2.1 x.2.2) := by
  change execKvSpillStart p s = _
  rw [execKvSpillStart, if_pos (by simp [hrun, hdemand, hdue]), hold]
  rfl

theorem exec_kvSpillStart_of_not_due (h : demandDue s p.val = true ∨ spillDue s p.val = false) :
    exec (.kvSpillStart p) s = .next s := if_neg (by rcases h with h | h <;> simp [h])

theorem lookFirst_of_demandDue {p : Nat} (h : demandDue s p = true) : lookFirst s p = s := by
  have hqueued : s.mmu.reqs.any (fun q => q.pool == p && q.demand) = true := ((Bool.and_eq_true ..).mp h).1
  exact if_neg (by simp [hqueued])

theorem exec_kvReturnStart_of_frame (hrun : unitRuns s p.val = true) {q : KvReq}
    (hnext : nextReturn (lookFirst s p.val) p.val = some q) (hfree : get (lookFirst s p.val) .mmuPoolb_free p.val ≠ 0) :
    exec (.kvReturnStart p) s = .next (startReturn (lookFirst s p.val) q) := by
  change execKvReturnStart p s = _
  rw [execKvReturnStart, if_pos hrun]
  dsimp only
  rw [hnext]
  exact if_neg hfree

theorem exec_kvReturnStart_of_waiting (hrun : unitRuns s p.val = true) {q : KvReq}
    (hnext : nextReturn (lookFirst s p.val) p.val = some q) (hnone : get (lookFirst s p.val) .mmuPoolb_free p.val = 0)
    (hwaits : q.waits = true) : exec (.kvReturnStart p) s = .next (lookFirst s p.val) := by
  change execKvReturnStart p s = _
  rw [execKvReturnStart, if_pos hrun]
  dsimp only
  rw [hnext]
  exact (if_pos hnone).trans (if_pos hwaits)

end Starts

/-! ### Ends of moves (R292, R293, R297) -/

/-- The end of a spill whose page's descriptor or tables, or whose pool's ring, the unit cannot write any more (log entry 153). -/
def spillLost (s : State) (m : KvMove) : State :=
  bump (tailFault (setPd (dropMove (noteSpillUe s m) m) (winWords s m.window) m.page 3 0) m.pool 0x02) .mmuKvcnt1_spill_failed

/-- The page of a spill is in the tail and its frame is back on the ring (R292). -/
def spilled (s : State) (m : KvMove) : State :=
  let r := winWords s m.window
  let t := pageTail r m.page
  bumpW (pushFrame (setPd (setPd (setL3 (dropMove (fixPage s r m.page) m) r m.page (l3Entry 2 t)) r m.page 4 t) r m.page 3 2)
    m.pool m.frame) .mmuKvcnt0_spills

/-- The page of a return is resident in its frame, and its stamp is the tide (R293). -/
def returned (s : State) (m : KvMove) : State :=
  let r := winWords s m.window
  let t := setL3 (dropMove (seenPage (fixPage s r m.page) m.window m.page) m) r m.page (l3Entry 0 m.frame)
  bumpW (setPd (setPd t r m.page 3 0) r m.page 5 t.time.tide) .mmuKvcnt0_returns

section Ends
variable {w : BitVec 14} {page : BitVec 22} {m : KvMove}

theorem exec_kvSpillDone_of_moved (h7 : fnReady s 7 = true) (hm : moveOf s w.toNat page.toNat = some m) (hfail : m.fail = none)
    (hleft : m.left = 0) (hspill : m.ret = false) (hbegun : m.begun = true) : exec (.kvSpillDone w page) s =
      .next (if moveLost s m || decide (pushBad s m.pool ≠ 0) then spillLost s m else spilled s m) := by
  change execKvSpillDone w page s = _
  rw [execKvSpillDone, hm]
  dsimp only
  rw [if_neg (by simp [hspill, h7]), hfail]
  dsimp only
  rw [if_neg (by simp [hleft, hbegun])]
  exact (apply_ite Host.Outcome.next _ _ _).symm

theorem exec_kvReturnDone_of_moved (h7 : fnReady s 7 = true) (hm : moveOf s w.toNat page.toNat = some m) (hfail : m.fail = none)
    (hleft : m.left = 0) (hret : m.ret = true) : exec (.kvReturnDone w page) s =
      .next (if moveLost s m then returnFails (noteMoveUe s m) m 0x02 else returned s m) := by
  change execKvReturnDone w page s = _
  rw [execKvReturnDone, hm]
  dsimp only
  rw [if_neg (by simp [hret, h7]), hfail]
  dsimp only
  rw [if_neg (not_not_intro hleft)]
  exact (apply_ite Host.Outcome.next _ _ _).symm

end Ends

/-! ### The patrol scrub (R265, R268) -/

section Scrub
variable {u : BitVec 40}

theorem exec_hbmPatrolScrub_of_dozing (h : dozing s = true) : exec (.hbmPatrolScrub u) s = .next s :=
  congrArg Host.Outcome.next (if_neg (by simp [h]))

section Awake
variable (h7 : fnReady s 7 = true) (hawake : dozing s = false) (hon : get s .hbmCtl_scrub_hours 0 ≠ 0)
  (hin : inHbm s (64 * u.toNat) = true)
include h7 hawake hon hin

theorem exec_hbmPatrolScrub_of_bad {e : EccUnit} (hbad : readFault s (64 * u.toNat) 64 = some e) :
    exec (.hbmPatrolScrub u) s = .next (noteUe s (64 * u.toNat) 0 255 true) := by
  refine congrArg Host.Outcome.next ((if_pos (by simp [h7, hawake, hon, hin])).trans ?_)
  dsimp only
  rw [hbad]

theorem exec_hbmPatrolScrub_of_good (hgood : readFault s (64 * u.toNat) 64 = none) :
    exec (.hbmPatrolScrub u) s = .next (correct s (64 * u.toNat) 64) := by
  refine congrArg Host.Outcome.next ((if_pos (by simp [h7, hawake, hon, hin])).trans ?_)
  dsimp only
  rw [hgood]

end Awake

end Scrub

/-- What an invalidation that has started leaves, in the words of R281 and R286. -/
theorem invalStarted_leaves {t : State} {kind job va count : Nat} (h : InvalStarted s t kind job va count) :
    get t .mmuInval_done 0 = 0 ∧ (∀ e, e ∈ t.mmu.tlb ↔ e ∈ s.mmu.tlb ∧ inInval kind job va count e = false) ∧
      (kind = 3 → t.mmu.wins = []) ∧ (kind ≠ 3 → t.mmu.wins = s.mmu.wins) ∧ KeptMem s t ∧ KeptRegs s t invalFlds := by
  obtain ⟨hzero, htlb, hwins, hregs, hmem⟩ := h
  have hnone (e : TlbEnt) (h : kind = 3) : inInval kind job va count e = false := by
    subst h
    rfl
  refine ⟨hzero, fun e => (htlb e).trans (and_congr_right' (or_iff_right_of_imp (hnone e))), fun h => ?_, fun h => ?_, hmem, hregs⟩
  · rw [hwins, if_pos h]
  · rw [hwins, if_neg h]

/-- Settles O53: an invalidation by what emptying its scope leaves, a pool by what a write of its register leaves, and a move and a
scrubbed unit by what their commands come to in each case. -/
theorem translationsMovesAndPools : Obligations.TranslationsMovesAndPools := by
  intro s h7
  refine ⟨fun x hx job va count h0 hdone => ?starts, fun hdone => ⟨fun hbusy => ?done, fun hbusy => ?busy⟩,
    fun p base job h0 hoff hlow hhigh => ?enable, fun p h0 => ?clear, fun p hrun => ⟨?spill, ?notDue, ?returns, lookFirst_of_demandDue⟩,
    fun w page m hm hfail hleft => ?ends,
    fun u hdoze => ⟨s, exec_hbmPatrolScrub_of_dozing hdoze, rfl⟩, fun u hawake hon hin =>
      ⟨fun e hbad => exec_hbmPatrolScrub_of_bad h7 hawake hon hin hbad, exec_hbmPatrolScrub_of_good h7 hawake hon hin⟩⟩
  case starts =>
    obtain ⟨⟨t0, hp, hpages⟩, ⟨t1, hj, hjob⟩, ⟨t2, ha, hall⟩, ⟨t3, hw, hwins⟩⟩ := runs_mmuInval h0 h7 hdone job va count
    simp only [List.mem_cons, List.not_mem_nil, or_false] at hx
    rcases hx with rfl | rfl | rfl | rfl
    · exact ⟨t0, hp, invalStarted_leaves hpages⟩
    · exact ⟨t1, hj, invalStarted_leaves hjob⟩
    · exact ⟨t2, ha, invalStarted_leaves hall⟩
    · exact ⟨t3, hw, invalStarted_leaves hwins⟩
  case done =>
    obtain ⟨htlb, hwins, hregs, hmem⟩ := scopeGone_put (scopeGone_emptyScope s (get s .mmuInval_kind) (get s .mmuInval_job)
      s.mmu.invalVa (get s .mmuInval_count) [.mmuInval_done]) (List.mem_singleton_self _) 1 0
    exact ⟨_, exec_mmuInvalDone_of_idle h7 hdone hbusy, get_put_same .., htlb, fun h => hwins.trans (if_pos h), hregs, hmem⟩
  case busy => exact ⟨s, exec_mmuInvalDone_of_busy hbusy, rfl⟩
  case enable => exact ⟨_, congrArg Host.Outcome.next (fn7Write_of_up h0 h7 _), poolAWrite_leaves base.isLt job.isLt hoff hlow hhigh⟩
  case clear => exact ⟨_, congrArg Host.Outcome.next (fn7Write_of_up h0 h7 _), get_put_same .., onlyRegs_put ..⟩
  case spill => exact fun hdemand hdue x hold => exec_kvSpillStart_of_due hrun hdemand hdue hold
  case notDue => exact fun h => ⟨s, exec_kvSpillStart_of_not_due h, rfl⟩
  case returns =>
    exact fun q hnext => ⟨exec_kvReturnStart_of_frame hrun hnext, exec_kvReturnStart_of_waiting hrun hnext⟩
  case ends =>
    refine ⟨fun hspill hbegun hgone => ?_, fun hspill hbegun hgone => ?_, fun hret hlost => ?_, fun hret hlost => ?_⟩
    · exact (exec_kvSpillDone_of_moved h7 hm hfail hleft hspill hbegun).trans (congrArg _ (if_pos hgone))
    · exact (exec_kvSpillDone_of_moved h7 hm hfail hleft hspill hbegun).trans (congrArg _ (if_neg (hgone ▸ Bool.false_ne_true)))
    · exact (exec_kvReturnDone_of_moved h7 hm hfail hleft hret).trans (congrArg _ (if_pos hlost))
    · exact (exec_kvReturnDone_of_moved h7 hm hfail hleft hret).trans (congrArg _ (if_neg (hlost ▸ Bool.false_ne_true)))

end Sys2Proof.Machine
end

section
/-!
A DMAQ that is not silent (R103, R265, R303). The read of its descriptor corrects and counts a correctable HBM unit marked where local
SRAM lies, as an SLD of `strayMarked` does, while nothing in the state says that such a mark names a unit that HBM has.
-/
namespace Sys2Proof.Machine

/-- The fields of a DMAQ into queue 0 of the window, from the start of local SRAM. -/
def queueFirst : RegForm := regFields 0

/-- `strayMarked` with queue 0 of core 0 one entry deep, and the DMAQ next in the primary slot. -/
def strayMarkedQueue : State :=
  setCore (put strayMarked .dmaQ_depth 1 (qIdx 0 0)) 0
    { coreOf strayMarked 0 with ibuf := [((1, 0), BitVec.ofNat 128 (regWord 0x80 queueFirst))] }

theorem issuesReg_strayMarkedQueue : IssuesReg strayMarkedQueue 0 .prim 0x80 queueFirst := by
  unfold IssuesReg Issues
  decide +kernel

/-- The queue lies in the slot's window and has room, the address lies in its split, and no uncorrectable unit stops the read. -/
theorem room_strayMarkedQueue :
    let c : Core := 0
    let q := (dmaWindow strayMarkedQueue c .prim).1 + queueFirst.sub.toNat
    let a := eaOf strayMarkedQueue c .prim queueFirst
    queueFirst.sub.toNat < (dmaWindow strayMarkedQueue c .prim).2 ∧ qHeld strayMarkedQueue c q < qDepth strayMarkedQueue c q ∧
      inSplit strayMarkedQueue c .prim a 32 = true ∧ readFault strayMarkedQueue (sramBase c + a) 32 = none := by
  decide +kernel

/-- The stack to which the module's interleaving takes the marked offset counts one corrected unit more. -/
theorem dmaq_counts_strayMarkedQueue :
    get strayMarkedQueue .hbmStack_corrected (stackOf strayMarkedQueue (sramBase 0)) = 0 ∧
    shownAfter .hbmStack_corrected (stackOf strayMarkedQueue (sramBase 0)) (exec (.dmaq 0 .prim queueFirst) strayMarkedQueue) =
      some 1 := by
  decide +kernel

/-- Refutes O17: in `strayMarkedQueue` a DMAQ into a queue with room, from within its split, whose read meets no uncorrectable unit,
raises `HBM_STACK.corrected`, while the statement keeps every register. -/
theorem not_dmaInstructionsQueue : ¬ Obligations.DmaInstructionsQueue := by
  intro h
  obtain ⟨hwindow, hroom, hsplit, hread⟩ := room_strayMarkedQueue
  obtain ⟨hqueue, -⟩ := h 0 .prim queueFirst strayMarkedQueue (by decide) hwindow
  obtain ⟨hbefore, hafter⟩ := dmaq_counts_strayMarkedQueue
  obtain ⟨t, hexec, -, -, -, -, -, -, -, -, -, -, -, -, -, -, hkept, -⟩ := hqueue issuesReg_strayMarkedQueue hroom hsplit hread
  rw [hexec] at hafter
  have hsame := hkept .hbmStack_corrected (stackOf strayMarkedQueue (sramBase 0)) List.not_mem_nil
  rw [hbefore, Option.some.inj hafter] at hsame
  exact absurd hsame (by decide)

end Sys2Proof.Machine
end

section
/-!
The descriptors of the DMA queues (R305, R306, R309 to R313, R315 to R317): what a head that starts leaves of its queue, what each
command on a descriptor comes to, and what a completion and a fence that passes leave.
-/
namespace Sys2Proof.Machine

variable {s : State} {c : Core} {d : Desc} {rest : List Desc}

/-! ### Queues -/

@[simp] theorem length_headNow (t : Nat) (l : List Desc) : (headNow t l).length = l.length := by
  cases l <;> rfl

@[simp] theorem dmaqOf_setQ_same (k : CoreSt) (q : Nat) (x : DmaQ) : dmaqOf (k.setQ q x) q = x := mget_mset_same ..

theorem dmaqOf_setQ_ne (k : CoreSt) {p q : Nat} (x : DmaQ) (h : p ≠ q) : dmaqOf (k.setQ q x) p = dmaqOf k p := mget_mset_ne _ h

/-- A core whose queue `q` has lost its head entry. -/
def headGone (s : State) (c q : Nat) : CoreSt :=
  (coreOf s c).setQ q
    { dmaqOf (coreOf s c) q with entries := headNow s.time.ticks ((dmaqOf (coreOf s c) q).entries.drop 1) }

theorem popEntry_eq_setCore (s : State) (c q : Nat) : popEntry s c q = setCore s c (headGone s c q) := rfl

theorem length_entries_headGone {q : Nat} (he : (dmaqOf (coreOf s c) q).entries = d :: rest) :
    (dmaqOf (headGone s c q) q).entries.length = rest.length := by
  simp [headGone, he]

theorem started_headGone (s : State) (c q : Nat) : (dmaqOf (headGone s c q) q).started = (dmaqOf (coreOf s c) q).started := by
  simp [headGone]

theorem dmaqOf_headGone_ne (s : State) (c : Nat) {p q : Nat} (h : p ≠ q) : dmaqOf (headGone s c q) p = dmaqOf (coreOf s c) p :=
  dmaqOf_setQ_ne _ _ h

/-- A core whose queue `q` has started its head entry `d`: the entry has left the queue, is counted, and is in flight (R305). -/
def headStarted (s : State) (c q : Nat) (d : Desc) : CoreSt :=
  { (headGone s c q).setQ q { dmaqOf (headGone s c q) q with started := (dmaqOf (headGone s c q) q).started + 1 } with
    flight := (coreOf s c).flight ++ [d] }

theorem startDesc_eq_setCore (s : State) (c q : Nat) (d : Desc) :
    startDesc s c q d = setCore (popEntry s c q) c (headStarted s c q d) := by
  rw [startDesc, popEntry_eq_setCore, coreOf_setCore_same]
  rfl

theorem dmaqOf_headStarted_same (s : State) (c q : Nat) (d : Desc) : dmaqOf (headStarted s c q d) q =
    { dmaqOf (headGone s c q) q with started := (dmaqOf (headGone s c q) q).started + 1 } :=
  dmaqOf_setQ_same (headGone s c q) q _

theorem dmaqOf_headStarted_ne (s : State) (c : Nat) {p q : Nat} (d : Desc) (h : p ≠ q) :
    dmaqOf (headStarted s c q d) p = dmaqOf (coreOf s c) p :=
  (dmaqOf_setQ_ne (headGone s c q) _ h).trans (dmaqOf_headGone_ne s c h)

/-! ### The head of a queue (R305, R306, R312) -/

section Head
variable {q : Fin 16} (he : (dmaqOf (coreOf s c) q).entries = d :: rest) (hd : d.fence = none)
  (hup : fnReady s (coreFn c) = true)
include he hd hup

theorem exec_dmaDescriptorStart_of_clear (hgood : (descBad s c d).1 = 0) (hroom : qRoom s c q d = true)
    (hcredit : creditGate s c q d = 0) : exec (.dmaDescriptorStart c q) s = .next (startDesc s c q d) := by
  change execDmaDescriptorStart c q s = _
  simp [execDmaDescriptorStart, he, hd, hup, hgood, hroom, hcredit]

theorem exec_dmaDescriptorStart_of_full (hgood : (descBad s c d).1 = 0) (hroom : qRoom s c q d = false) :
    exec (.dmaDescriptorStart c q) s = .next s := by
  change execDmaDescriptorStart c q s = _
  simp [execDmaDescriptorStart, he, hd, hup, hgood, hroom]

theorem exec_dmaDescriptorStart_of_bad (hbad : (descBad s c d).1 ≠ 0) (hkind : d.kind ≠ 4) :
    exec (.dmaDescriptorStart c q) s = .next (failDesc s c d (descBad s c d).1 (descBad s c d).2) := by
  change execDmaDescriptorStart c q s = _
  simp [execDmaDescriptorStart, he, hd, hup, hbad, hkind]

theorem runs_dmaDescriptorStart (hgood : (descBad s c d).1 = 0) (hroom : qRoom s c q d = true) (hcredit : creditGate s c q d = 0) :
    Runs (.dmaDescriptorStart c q) s (fun t =>
      (coreOf t c).flight = (coreOf s c).flight ++ [d] ∧ (dmaqOf (coreOf t c) q).entries.length = rest.length ∧
      (dmaqOf (coreOf t c) q).started = (dmaqOf (coreOf s c) q).started + 1 ∧
      (∀ p, p ≠ q.val → dmaqOf (coreOf t c) p = dmaqOf (coreOf s c) p) ∧ OnlyCore s t c ∧ KeptRegs s t [] ∧ KeptMem s t) := by
  have honly : OnlyCore s (startDesc s c q d) c := onlyCore_setCore (onlyCore_setCore (onlyCore_refl s c) (headGone s c q)) _
  have hcore : coreOf (startDesc s c q d) c = headStarted s c q d := by rw [startDesc_eq_setCore, coreOf_setCore_same]
  refine ⟨_, exec_dmaDescriptorStart_of_clear he hd hup hgood hroom hcredit, ?_⟩
  simp only [hcore, dmaqOf_headStarted_same, started_headGone, length_entries_headGone he]
  exact ⟨rfl, trivial, trivial, fun p hp => dmaqOf_headStarted_ne s c d hp, honly, keptRegs_of_onlyCore honly,
    keptMem_of_onlyCore honly⟩

end Head

/-! ### A descriptor in flight (R309 to R311, R313, R318) -/

theorem runKind_of_ready {kind id : Nat} (hd : flightOf s c id = some d) (hup : fnReady s (coreFn c) = true) (hkind : d.kind = kind)
    (hnew : d.moved = false) (hstill : descMoving s d = false) (hturn : waitsTurn s c d = false) :
    runKind kind c id s = runDesc s c d := by
  simp [runKind, hd, hup, hkind, hnew, hstill, hturn]

/-- A descriptor out of flight, with its bytes counted. -/
def bytesCounted (s : State) (c : Nat) (d : Desc) (id : Nat) : State := bumpW (dropFlight s c id) .dmaBytes_bytes d.bytes c

theorem exec_dmaDescriptorComplete_of_done {id : Nat} (hd : flightOf s c id = some d) (hmoved : d.moved = true) (hleft : d.left = 0)
    (hkind : d.kind ∉ [4, 5]) : exec (.dmaDescriptorComplete c id) s =
      .next (if d.tcEn then tcAdd (bytesCounted s c d id) c d.tc 1 else bytesCounted s c d id) := by
  have h4 : d.kind ≠ 4 := fun h => hkind (by simp [h])
  have h5 : d.kind ≠ 5 := fun h => hkind (by simp [h])
  change execDmaDescriptorComplete c id s = _
  simp [execDmaDescriptorComplete, hd, hmoved, hleft, h4, h5, onlyIf, bytesCounted]

theorem coreOf_bytesCounted (s : State) (c : Nat) (d : Desc) (id : Nat) : coreOf (bytesCounted s c d id) c =
    { coreOf s c with flight := (coreOf s c).flight.filter (fun e => e.id != id) } := coreOf_setCore_same ..

theorem flight_tcAdd (s : State) (c i v : Nat) : (coreOf (tcAdd s c i v) c).flight = (coreOf s c).flight := by
  have hkeep (x : TcClk) (w : Nat) : (coreOf (tcKeep s c i w x) c).flight = (coreOf s c).flight := by
    rw [tcKeep, coreOf_setCore_same]
  unfold tcAdd
  dsimp only
  split
  · exact hkeep _ _
  · exact hkeep _ _

/-- The fields that a completion may write. -/
def completeFlds : List Fld := [.dmaBytes_bytes, .tc_value, .tc_overflow]

/-- A descriptor has completed: it is out of flight, and its bytes are counted. -/
def Completed (s t : State) (c : Nat) (d : Desc) (id : Nat) : Prop :=
  (coreOf t c).flight = (coreOf s c).flight.filter (fun e => e.id != id) ∧
  get t .dmaBytes_bytes c = (get s .dmaBytes_bytes c + d.bytes) % 2 ^ Fld.dmaBytes_bytes.width ∧
  KeptRegs s t completeFlds ∧ KeptMem s t ∧ ∀ b, b ≠ c → coreOf t b = coreOf s b

theorem completed_bytesCounted (s : State) (c : Nat) (d : Desc) (id : Nat) : Completed s (bytesCounted s c d id) c d id :=
  ⟨congrArg CoreSt.flight (coreOf_bytesCounted ..), get_put_same ..,
    keptRegs_put (keptRegs_of_regs_eq rfl rfl _) (by decide) _ _, keptMem_of_mem_eq rfl, fun _ hb => coreOf_setCore_ne _ _ hb⟩

/-- The counter of a descriptor rises beside its completion. -/
theorem completed_tcAdd {t : State} {c id : Nat} (h : Completed s t c d id) (i v : Nat) : Completed s (tcAdd t c i v) c d id := by
  obtain ⟨hflight, hbytes, hregs, hmem, hcores⟩ := h
  have hadd := tcLeft_tcAdd t c i v
  exact ⟨(flight_tcAdd ..).trans hflight, (hadd.regs _ _ (by decide)).trans hbytes,
    keptRegs_trans hregs (keptRegs_mono hadd.regs (by decide)), fun a => (keptMem_of_tcLeft hadd a).trans (hmem a),
    fun b hb => (hadd.cores b hb).trans (hcores b hb)⟩

theorem get_tc_value_bytesCounted (s : State) (c : Nat) (d : Desc) (id i : Nat) :
    get (bytesCounted s c d id) .tc_value i = get s .tc_value i := get_put_fld _ _ _ _ (by decide)

theorem runs_dmaDescriptorComplete {id : Nat} (hd : flightOf s c id = some d) (hmoved : d.moved = true) (hleft : d.left = 0)
    (hkind : d.kind ∉ [4, 5]) : Runs (.dmaDescriptorComplete c id) s (fun t => Completed s t c d id ∧
      get t .tc_value (256 * c.val + d.tc) = if d.tcEn then min (get s .tc_value (256 * c.val + d.tc) + 1) (2 ^ 32 - 1)
        else get s .tc_value (256 * c.val + d.tc)) := by
  have hdone := completed_bytesCounted s c d id
  refine ⟨_, exec_dmaDescriptorComplete_of_done hd hmoved hleft hkind, ?_⟩
  cases d.tcEn with
  | true => exact ⟨completed_tcAdd hdone _ _, (get_value_tcAdd ..).trans (by rw [get_tc_value_bytesCounted]; rfl)⟩
  | false => exact ⟨hdone, get_tc_value_bytesCounted ..⟩

/-! ### Fences (R315 to R317) -/

section Fence
variable {q : Fin 16} {k : Nat} (he : (dmaqOf (coreOf s c) q).entries = d :: rest) (hd : d.fence = some k)
include he hd

theorem exec_fenceRelease_of_fence :
    exec (.fenceRelease c q) s = .next (if fenceHolds s c q d k = true then popEntry s c q else s) := by
  change execFenceRelease c q s = _
  simp [execFenceRelease, he, hd, onlyIf]

theorem exec_fenceTimeout_of_late (hheld : fenceHolds s c q d k = false) (hlimit : get s .dmaCtl_fence_limit c ≠ 0)
    (hlate : 16000 * get s .dmaCtl_fence_limit c < s.time.ticks - d.since) :
    exec (.fenceTimeout c q) s = .next (failDesc s c d 0x0F 0) := by
  have hpast : d.since + 16000 * get s .dmaCtl_fence_limit c < s.time.ticks := by omega
  change execFenceTimeout c q s = _
  simp [execFenceTimeout, he, hd, onlyIf, hheld, hlimit, hpast]

theorem runs_fenceRelease (hholds : fenceHolds s c q d k = true) : Runs (.fenceRelease c q) s (fun t =>
    (dmaqOf (coreOf t c) q).entries.length = rest.length ∧ (coreOf t c).flight = (coreOf s c).flight ∧
    OnlyCore s t c ∧ KeptRegs s t [] ∧ KeptMem s t) := by
  have honly : OnlyCore s (popEntry s c q) c := onlyCore_setCore (onlyCore_refl s c) (headGone s c q)
  have hcore : coreOf (popEntry s c q) c = headGone s c q := coreOf_setCore_same ..
  refine ⟨_, (exec_fenceRelease_of_fence he hd).trans (congrArg _ (if_pos hholds)), ?_⟩
  beta_reduce
  rw [hcore]
  exact ⟨length_entries_headGone he, rfl, honly, keptRegs_of_onlyCore honly, keptMem_of_onlyCore honly⟩

end Fence

/-- Settles O18: the head of a queue by what its checks, its queue's limits and its credit say, a descriptor in flight by `runKind` and
by what its completion leaves, and a fence by whether its condition holds. -/
theorem descriptorsRun : Obligations.DescriptorsRun := by
  refine ⟨fun c q s d rest he hd hup => ⟨runs_dmaDescriptorStart he hd hup, fun hgood hroom => ?full, fun hbad hkind => ?bad⟩,
    fun x hx c id s d hd hup hkind hnew hstill hturn => ?moves,
    fun c s => ⟨fun id d hd hmoved hleft hkind _ => ?completes, fun q d rest k he hd => ⟨runs_fenceRelease he hd, fun hheld => ?held,
      fun hheld hlimit hlate => ⟨_, exec_fenceTimeout_of_late he hd hheld hlimit hlate, rfl⟩⟩⟩⟩
  case full => exact ⟨s, exec_dmaDescriptorStart_of_full he hd hup hgood hroom, rfl⟩
  case bad => exact ⟨_, exec_dmaDescriptorStart_of_bad he hd hup hbad hkind, rfl⟩
  case moves =>
    have hruns := runKind_of_ready hd hup hkind hnew hstill hturn
    simp only [List.mem_cons, List.not_mem_nil, or_false] at hx
    rcases hx with rfl | rfl | rfl | rfl <;> exact ⟨_, congrArg Host.Outcome.next hruns, rfl⟩
  case completes =>
    obtain ⟨t, hexec, ⟨hflight, hbytes, hregs, hmem, hcores⟩, hvalue⟩ := runs_dmaDescriptorComplete hd hmoved hleft hkind
    exact ⟨t, hexec, hflight, hbytes, hvalue, hregs, hmem, hcores⟩
  case held => exact ⟨s, (exec_fenceRelease_of_fence he hd).trans (congrArg _ (if_neg (Bool.eq_false_iff.mp hheld))), rfl⟩

end Sys2Proof.Machine
end

section
/-!
Regions (R325, R326, R329): what registering leaves, under which generation, and what stops and ends an access.
-/
namespace Sys2Proof.Machine

variable {s : State} {h : CtlHdr} {r : RegionRec}

/-! ### Generations (R325, R326) -/

/-- A region's generation rises by one and goes from 65,535 to 1. -/
theorem regionGen_raiseGen_same (s : State) (n : Nat) : regionGen (raiseGen s n) n = regionGen s n % 65535 + 1 := by
  simp only [regionGen, raiseGen, mget_mset_same, Nat.mod_add_mod, Nat.add_assoc]

theorem regionGen_raiseGen_ne (s : State) {n k : Nat} (hk : k ≠ n) : regionGen (raiseGen s n) k = regionGen s k := by
  simp only [regionGen, raiseGen, mget_mset_ne _ hk]

theorem regionGen_congr {t u : State} (hxpt : t.xpt = u.xpt) (k : Nat) : regionGen t k = regionGen u k := by
  rw [regionGen, regionGen, hxpt]

/-! ### REGION_REG -/

/-- The fields of the region table that registering writes. -/
def regionFlds : List Fld :=
  [.xptReg0_word0, .xptReg0_valid, .xptReg1_word, .xptReg2_word, .xptReg3_word, .xptRegcnt_registered]

/-- The words of a region record are written under its next generation. -/
def regionRecorded (s : State) (r : RegionRec) : State :=
  put (put (put (put (raiseGen s r.region.toNat) .xptReg0_word0 (regionWord0 r) r.region.toNat) .xptReg1_word r.base.toNat
    r.region.toNat) .xptReg2_word r.length.toNat r.region.toNat) .xptReg3_word (regionWord3 r) r.region.toNat

section Added
variable (s r)

theorem regionAdd_fst : (regionAdd s r).1 = put (put (regionRecorded s r) .xptReg0_valid 1 r.region.toNat) .xptRegcnt_registered
    (get (regionRecorded s r) .xptRegcnt_registered + 1) := rfl

theorem regionAdd_ctl : (regionAdd s r).1.ctl = s.ctl := by simp [regionAdd_fst, regionRecorded, raiseGen]

theorem regionAdd_out : (regionAdd s r).1.out = s.out := by simp [regionAdd_fst, regionRecorded, raiseGen]

theorem regionAdd_mem : (regionAdd s r).1.mem = s.mem := by simp [regionAdd_fst, regionRecorded, raiseGen]

theorem regionGen_regionAdd (k : Nat) : regionGen (regionAdd s r).1 k = regionGen (raiseGen s r.region.toNat) k :=
  regionGen_congr (by simp [regionAdd_fst, regionRecorded]) k

theorem regionAdd_word : (regionAdd s r).2 = BitVec.ofNat 64 (regionGen s r.region.toNat % 65535 + 1 +
    2 ^ 32 * ((regionGen s r.region.toNat % 65535 + 1) * 65536 + r.region.toNat)) := by
  rw [← regionGen_raiseGen_same, ← regionGen_regionAdd]
  rfl

theorem keptRegs_regionRecorded : KeptRegs s (regionRecorded s r) regionFlds := by
  have hraised : KeptRegs s (raiseGen s r.region.toNat) regionFlds := keptRegs_of_regs_eq rfl rfl _
  rw [regionRecorded]
  exact keptRegs_put (keptRegs_put (keptRegs_put (keptRegs_put hraised (by decide) _ _) (by decide) _ _) (by decide) _ _)
    (by decide) _ _

theorem keptRegs_regionAdd : KeptRegs s (regionAdd s r).1 regionFlds := by
  rw [regionAdd_fst]
  exact keptRegs_put (keptRegs_put (keptRegs_regionRecorded s r) (by decide) _ _) (by decide) _ _

theorem get_regionAdd_valid_same : get (regionAdd s r).1 .xptReg0_valid r.region.toNat = 1 := by
  rw [regionAdd_fst, get_put_fld _ _ _ _ (by decide), get_put_same]
  rfl

theorem get_regionAdd_valid_ne {k : Nat} (hk : k ≠ r.region.toNat) :
    get (regionAdd s r).1 .xptReg0_valid k = get s .xptReg0_valid k := by
  rw [regionAdd_fst, get_put_fld _ _ _ _ (by decide), get_put_idx _ _ _ hk]
  simp [regionRecorded]
  rfl

theorem get_regionAdd_word0 : get (regionAdd s r).1 .xptReg0_word0 r.region.toNat =
    regionWord0 r % 2 ^ Fld.xptReg0_word0.width := by
  simp [regionAdd_fst, regionRecorded]

theorem get_regionAdd_base : get (regionAdd s r).1 .xptReg1_word r.region.toNat = r.base.toNat := by
  have hfit : r.base.toNat < 2 ^ Fld.xptReg1_word.width := r.base.isLt.trans (by decide)
  simp [regionAdd_fst, regionRecorded, Nat.mod_eq_of_lt hfit]

theorem get_regionAdd_length : get (regionAdd s r).1 .xptReg2_word r.region.toNat = r.length.toNat := by
  have hfit : r.length.toNat < 2 ^ Fld.xptReg2_word.width := r.length.isLt.trans (by decide)
  simp [regionAdd_fst, regionRecorded, Nat.mod_eq_of_lt hfit]

end Added

theorem runRegionReg_of_good (hgood : regionRefuse s r = 0) :
    runRegionReg s h r = answer (regionAdd s r).1 h 0x40 0 0 [(regionAdd s r).2] := if_neg (not_not.mpr hgood)

theorem xpt_of_finished {u t : State} {status : Nat} (hf : Finished u t status) : t.xpt = u.xpt := (congrArg State.xpt hf.1 :)

theorem regValid_congr {t u : State} {k : Nat} (hget : get t .xptReg0_valid k = get u .xptReg0_valid k) :
    regValid t k = regValid u k := by
  rw [regValid, regValid, flag, flag, hget]

/-! ### REGION_DEREG -/

/-- A region takes no new access, and its deregistration waits. -/
def deregBegun (s : State) (n : Nat) (h : CtlHdr) : State :=
  regionStop { s with xpt := { s.xpt with deregs := s.xpt.deregs ++ [(n, h)] } } n

theorem runRegionDereg_of_valid {region : BitVec 14} {job : BitVec 12} (hup : fnReady s 5 = true)
    (hvalid : regValid s region.toNat = true) (hjob : regJob s region.toNat = job.toNat) :
    runRegionDereg s h region job = acceptCmd (deregBegun s region.toNat h) h.port := by
  unfold regJob at hjob
  simp [runRegionDereg, hup, hvalid, hjob]
  rfl

theorem keptRegs_deregBegun (s : State) (n : Nat) (h : CtlHdr) :
    KeptRegs s (deregBegun s n h) [.xptReg0_valid, .xptRegcnt_registered] :=
  keptRegs_put (keptRegs_put (keptRegs_of_regs_eq rfl rfl _) (by decide) _ _) (by decide) _ _

theorem get_deregBegun_valid (s : State) (n : Nat) (h : CtlHdr) : get (deregBegun s n h) .xptReg0_valid n = 0 :=
  (get_put_fld _ _ _ _ (by decide)).trans (get_put_same ..)

/-- A command that starts now and is answered later leaves the state `u` that it comes to, with its port held. -/
theorem exec_of_accepted {i : Instr} {u : State} (hstart : StartsNow s h i) (hbody : runBody (atFront s h i) i = acceptCmd u h.port)
    (hcps : u.ctl.cps = (atFront s h i).ctl.cps) : exec i s = .next (acceptCmd u h.port) := by
  have hexec := exec_of_startsNow hstart
  obtain ⟨-, -, hqueues, -⟩ := hstart
  obtain ⟨-, hsame⟩ := cpOf_acceptCmd_of_front hcps
  rwa [hbody, pumpPorts_of_queues_nil _ fun p => (hsame p).trans (hqueues p)] at hexec

/-- Settles O27: REGION_REG by what `regionAdd` leaves, REGION_DEREG by `deregBegun`, and REGION_DEREG_COMPLETE by the entry that it
takes off. -/
theorem regionCommands : Obligations.RegionCommands := by
  intro h s
  refine ⟨fun r hstart hgood => ?registers, fun region job hstart hup hvalid hjob => ?stops, fun region x hx => ?completes⟩
  case registers =>
    have hbody := runRegionReg_of_good (s := atFront s h (.regionReg h r)) (h := h) hgood
    obtain ⟨t, hexec, hans, hfin⟩ := runs_answer hstart hbody (congrArg CtlSt.cps (regionAdd_ctl ..)) (regionAdd_out ..)
    have hkept := keptRegs_trans (keptRegs_of_regs_eq (s := s) rfl rfl _) (keptRegs_regionAdd (atFront s h (.regionReg h r)) r)
    have hget (f : Fld) (hf : f ≠ .ctlCmdCnt_executed) (i : Nat) := get_of_finished hfin hf i
    have hgen (k : Nat) : regionGen t k = regionGen (raiseGen s r.region.toNat) k := by
      rw [regionGen_congr (xpt_of_finished hfin), regionGen_regionAdd]
      exact regionGen_congr rfl k
    rw [regionAdd_word] at hans
    refine ⟨t, hexec, ?_, ?_, ?_, ?_, ?_, hans, keptMem_of_finished hfin (regionAdd_mem ..), fun k hk => ⟨?_, ?_⟩,
      keptRegs_of_finished hfin (keptRegs_mono hkept (by decide)) (by decide)⟩
    · rw [regValid, flag, hget _ (by decide), get_regionAdd_valid_same]
      rfl
    · exact (hgen _).trans (regionGen_raiseGen_same ..)
    · rw [hget _ (by decide), get_regionAdd_base]
    · rw [hget _ (by decide), get_regionAdd_length]
    · rw [hget _ (by decide), get_regionAdd_word0]
    · exact regValid_congr ((hget _ (by decide) k).trans (get_regionAdd_valid_ne _ r hk))
    · exact (hgen k).trans (regionGen_raiseGen_ne _ hk)
  case stops =>
    have hbody := runRegionDereg_of_valid (s := atFront s h (.regionDereg h region job)) (h := h) hup hvalid hjob
    have hkept := keptRegs_deregBegun (atFront s h (.regionDereg h region job)) region.toNat h
    have hzero := get_deregBegun_valid (atFront s h (.regionDereg h region job)) region.toNat h
    refine ⟨_, exec_of_accepted hstart hbody rfl, ?_, rfl, rfl, keptMem_of_mem_eq rfl, hkept⟩
    exact decide_eq_false (not_not.mpr hzero)
  case completes =>
    intro s1
    change execRegionDeregComplete region s = _
    rw [execRegionDeregComplete, hx]

end Sys2Proof.Machine
end

section
/-!
Transport contexts (R323, R333): what a context leaves that becomes ready or idle, whom the end of what is in flight on one fails, and
the rise of its rate.
-/
namespace Sys2Proof.Machine

variable {s : State} {x : Nat}

@[simp] theorem ctxOf_setCtx_same (s : State) (x : Nat) (k : CtxSt) : ctxOf (setCtx s x k) x = k := mget_mset_same ..

theorem ctxOf_setCtx_ne (s : State) {x y : Nat} (k : CtxSt) (h : y ≠ x) : ctxOf (setCtx s x k) y = ctxOf s y := mget_mset_ne _ h

theorem fn5Write_of_up (h0 : fn0Up s = true) (h5 : fnReady s 5 = true) (f : State → State) : fn5Write s f = f s :=
  if_pos (by simp [h0, h5])

/-! ### A context becomes ready or idle (R333) -/

/-- A context with nothing in flight and no message refused; `v` is its valid bit, and its state with it: 1 ready, 0 idle. -/
def ctxCleared (s : State) (x v : Nat) : State :=
  put (put (setCtx (dropMark s x) x CtxSt.init) .xptCtx0_valid v x) .xptCtx0_state v x

theorem ctxValidate_of_idle (h : get s .xptCtx0_valid x = 0) : ctxValidate s x = ctxCleared s x 1 := by
  simp [ctxValidate, flag, h, ctxCleared]

theorem ctxValidate_of_valid (h : get s .xptCtx0_valid x ≠ 0) : ctxValidate s x = s := by
  simp [ctxValidate, flag, h]

theorem ctxInvalidate_of_idle (h : get s .xptCtx0_valid x = 0) : ctxInvalidate s x = s := by
  simp [ctxInvalidate, flag, h]

/-- All that is in flight on the context ends with code 0x05 before it is idle. -/
theorem ctxInvalidate_of_valid (h : get s .xptCtx0_valid x ≠ 0) :
    ctxInvalidate s x = ctxCleared (failAll (failBound s x) s x 0x05) x 0 := by
  simp [ctxInvalidate, flag, h, ctxCleared]

section Cleared
variable (s x) {v : Nat}

theorem get_ctxCleared_valid (hv : v < 2) : get (ctxCleared s x v) .xptCtx0_valid x = v := by
  rw [ctxCleared, get_put_fld _ _ _ _ (by decide), get_put_same]
  exact Nat.mod_eq_of_lt hv

theorem get_ctxCleared_state (hv : v < 2) : get (ctxCleared s x v) .xptCtx0_state x = v := by
  rw [ctxCleared, get_put_same]
  exact Nat.mod_eq_of_lt (hv.trans (by decide))

theorem get_ctxCleared_valid_ne {k : Nat} (hk : k ≠ x) : get (ctxCleared s x v) .xptCtx0_valid k = get s .xptCtx0_valid k := by
  rw [ctxCleared, get_put_fld _ _ _ _ (by decide), get_put_idx _ _ _ hk]
  rfl

theorem ctxOf_ctxCleared_same : ctxOf (ctxCleared s x v) x = CtxSt.init := ctxOf_setCtx_same (dropMark s x) x CtxSt.init

theorem ctxOf_ctxCleared_ne {k : Nat} (hk : k ≠ x) : ctxOf (ctxCleared s x v) k = ctxOf s k :=
  ctxOf_setCtx_ne (dropMark s x) CtxSt.init hk

theorem ctxCleared_rest : { ctxCleared s x v with regs := s.regs, xpt := s.xpt } = s := rfl

theorem keptRegs_ctxCleared : KeptRegs s (ctxCleared s x v) [.xptCtx0_valid, .xptCtx0_state] :=
  keptRegs_put (keptRegs_put (keptRegs_of_regs_eq rfl rfl _) (by decide) _ _) (by decide) _ _

end Cleared

/-! ### The end of what is in flight (R330, R333) -/

/-- A descriptor on the context ends before any other owner of a packet. -/
theorem failAll_succ_of_desc {c : Nat} {d : Desc} (hd : ctxDesc s x = some (c, d)) (n code : Nat) :
    failAll (n + 1) s x code = failAll n (failDesc s c d code (descAddr d)) x code := by
  rw [failAll, hd]

theorem failAll_succ_of_owner {u : Unacked} (hd : ctxDesc s x = none)
    (hu : ((ctxOf s x).unacked ++ (ctxOf s x).queue).find? ownedPacket = some u) (n code : Nat) :
    failAll (n + 1) s x code = failAll n (orphan (failOwner s u.owner code) (fun o => decide (o = u.owner))) x code := by
  rw [failAll, hd]
  dsimp only
  rw [hu]

theorem failAll_of_none (hd : ctxDesc s x = none)
    (hu : ∀ u ∈ (ctxOf s x).unacked ++ (ctxOf s x).queue, u.owner = .none) (n code : Nat) : failAll n s x code = s := by
  have hfind : ((ctxOf s x).unacked ++ (ctxOf s x).queue).find? ownedPacket = none :=
    List.find?_eq_none.mpr fun u hmem => by simp [ownedPacket, hu u hmem]
  cases n with
  | zero => rfl
  | succ n =>
    rw [failAll, hd]
    dsimp only
    rw [hfind]

/-! ### Rates (R323) -/

theorem exec_roceRateIncrease_of_due {c : BitVec 16} {n : Nat} (hat : (ctxOf s c.toNat).rateAt = some n)
    (hdue : n + 50000 ≤ s.time.ticks) (h5 : fnReady s 5 = true) (hrate : (ctxOf s c.toNat).rate < 65536) :
    exec (.roceRateIncrease c) s = .next (setCtx s c.toNat { ctxOf s c.toNat with
      rate := min 65536 ((ctxOf s c.toNat).rate + 4096), rateAt := some s.time.ticks }) := by
  change execRoceRateIncrease c s = _
  simp [execRoceRateIncrease, hat, hdue, h5, hrate, onlyIf]

/-- Settles O50: both writes of valid by `ctxCleared`, the end of what is in flight by the first owner that it finds, and the rise of a
rate by its row. -/
theorem contextsAndRates : Obligations.ContextsAndRates := by
  intro c s
  have hvalidate (h0 : fn0Up s = true) (h5 : fnReady s 5 = true) :
      exec (.xptCtxValidate c) s = .next (ctxValidate s c.toNat) := congrArg Host.Outcome.next (fn5Write_of_up h0 h5 _)
  have hinvalidate (h0 : fn0Up s = true) (h5 : fnReady s 5 = true) :
      exec (.xptCtxInvalidate c) s = .next (ctxInvalidate s c.toNat) := congrArg Host.Outcome.next (fn5Write_of_up h0 h5 _)
  refine ⟨fun h0 h5 hidle => ?ready, fun h0 h5 hvalid => ⟨?again, ?idle, ?ended⟩, fun n k d hd => failAll_succ_of_desc hd n 0x05,
    fun n u hd hu => failAll_succ_of_owner hd hu n 0x05, fun n hd hu => failAll_of_none hd hu n 0x05, fun h0 h5 hidle => ?stays,
    fun n hat hdue h5 hrate => ⟨_, exec_roceRateIncrease_of_due hat hdue h5 hrate, ?rate⟩⟩
  case ready =>
    refine ⟨_, (hvalidate h0 h5).trans (congrArg _ (ctxValidate_of_idle hidle)), ?_⟩
    exact ⟨get_ctxCleared_valid s _ (by decide), get_ctxCleared_state s _ (by decide), ctxOf_ctxCleared_same ..,
      fun k hk => ⟨ctxOf_ctxCleared_ne s _ hk, get_ctxCleared_valid_ne s _ hk⟩, keptRegs_ctxCleared _ _, keptMem_of_mem_eq rfl⟩
  case again => exact ⟨s, (hvalidate h0 h5).trans (congrArg _ (ctxValidate_of_valid hvalid)), rfl⟩
  case idle =>
    refine ⟨_, (hinvalidate h0 h5).trans (congrArg _ (ctxInvalidate_of_valid hvalid)), ?_⟩
    exact ⟨get_ctxCleared_valid _ _ (by decide), get_ctxCleared_state _ _ (by decide), ctxOf_ctxCleared_same ..⟩
  case ended =>
    refine ⟨_, (hinvalidate h0 h5).trans (congrArg _ (ctxInvalidate_of_valid hvalid)), ?_⟩
    exact ⟨ctxCleared_rest .., keptRegs_ctxCleared _ _, fun k hk => ctxOf_ctxCleared_ne _ _ hk⟩
  case stays => exact ⟨s, (hinvalidate h0 h5).trans (congrArg _ (ctxInvalidate_of_idle hidle)), rfl⟩
  case rate =>
    beta_reduce
    rw [ctxOf_setCtx_same]
    exact ⟨rfl, rfl, rfl⟩

end Sys2Proof.Machine
end

section
/-!
Acknowledgements, NAKs and responses for what the module sent (R313, R324, R330, R332, R418, R449): where one lands, its own rules act
on the context that it names; what an acknowledgement of all that a context has sent leaves; and the timeout of one that none reaches.
-/
namespace Sys2Proof.Machine

variable {s : State} {p : Port} {h : MolHdr}

/-! ### An answer lands (R449) -/

theorem arriveAnswer_of_landsAwake {op : Nat} (hl : LandsAwake s p op h) (data : Bytes) (self : Instr) (body : State → State) :
    arriveAnswer s p.val op h data self body = body s := by
  obtain ⟨hlands, hawake⟩ := hl
  obtain ⟨-, -, -, -, -, -, h5⟩ := id hlands
  rw [arriveAnswer, arriveMol_of_lands hlands, onlyIf, if_pos h5, if_neg (Bool.eq_false_iff.mp hawake)]

/-- Doze holds an answer back, whatever its own rules are. -/
theorem arriveAnswer_of_dozing {op : Nat} (hl : Lands s p op h) (hdoze : dozing s = true) (data : Bytes) (self : Instr)
    (body : State → State) : arriveAnswer s p.val op h data self body = holdBack s self := by
  obtain ⟨-, -, -, -, -, -, h5⟩ := id hl
  rw [arriveAnswer, arriveMol_of_lands hl, onlyIf, if_pos h5, if_pos hdoze]

/-! ### The rows of answers -/

theorem exec_molindAckRx_of_lands (hl : LandsAwake (takePkt s p.val 0xC h []) p 0xC h) : exec (.molindAckRx p h) s =
    .next (ackWhere (takePkt s p.val 0xC h []) (ctxNum h.srcCtx) (ackedBy p.val h.psn.toNat)) :=
  congrArg Host.Outcome.next (arriveAnswer_of_landsAwake hl ..)

/-- The abort code of a NAK: 0 is taken as 0x06 (log entry 206). -/
def nakCode (code : BitVec 8) : Nat := if code = 0 then 0x06 else code.toNat

theorem exec_molindNakRemoteRx_of_none {code : BitVec 8} (hl : LandsAwake (takePkt s p.val 0xD h [code]) p 0xD h)
    (hu : (ctxOf (takePkt s p.val 0xD h [code]) (ctxNum h.srcCtx)).unacked.find? (sentAs p.val h.psn.toNat) = none) :
    exec (.molindNakRemoteRx p h code) s = .next (takePkt s p.val 0xD h [code]) := by
  refine (congrArg Host.Outcome.next (arriveAnswer_of_landsAwake hl ..)).trans ?_
  dsimp only
  rw [hu]

theorem exec_molindNakRemoteRx_of_some {code : BitVec 8} (hl : LandsAwake (takePkt s p.val 0xD h [code]) p 0xD h) {u : Unacked}
    (hu : (ctxOf (takePkt s p.val 0xD h [code]) (ctxNum h.srcCtx)).unacked.find? (sentAs p.val h.psn.toNat) = some u) :
    let x := ctxNum h.srcCtx
    let t := failOwner (forget (takePkt s p.val 0xD h [code]) x (sentAs p.val h.psn.toNat)) u.owner (nakCode code)
    exec (.molindNakRemoteRx p h code) s = .next (if nakCode code = 0x06 ∧ x < noCtx ∧ u.owner ≠ .none then failCtx t x 0x06
      else pullQueue x (ctxOf t x).queue.length t) := by
  refine (congrArg Host.Outcome.next (arriveAnswer_of_landsAwake hl ..)).trans ?_
  dsimp only
  rw [hu]
  rfl

theorem exec_molindNakSequenceRx_of_lands (hl : LandsAwake (takePkt s p.val 0xE h []) p 0xE h) :
    exec (.molindNakSequenceRx p h) s = .next (resend (bump (takePkt s p.val 0xE h []) .xptRetx_seq_nak) (ctxNum h.srcCtx)
      (fun u => u.pkt.port == p.val)) :=
  congrArg Host.Outcome.next (arriveAnswer_of_landsAwake hl ..)

/-- The packet lies among the 64 after `psn` and the bitmap says that it has arrived (R418). -/
def inBitmap (p psn : Nat) (b : BitVec 64) (u : Unacked) : Bool :=
  u.pkt.port == p && !isRequest u &&
    (decide (1 ≤ (u.psn + 2 ^ 24 - psn) % 2 ^ 24 ∧ (u.psn + 2 ^ 24 - psn) % 2 ^ 24 ≤ 64) &&
      b.getLsbD ((u.psn + 2 ^ 24 - psn) % 2 ^ 24 - 1))

section Selective
variable {b : BitVec 64} (hl : LandsAwake (takePkt s p.val 0xF h (toLe 8 b.toNat)) p 0xF h)
include hl

theorem exec_molindSelectiveAckRx_of_old (hv : h.version.toNat ≠ 2) :
    exec (.molindSelectiveAckRx p h b) s = .next (bump (takePkt s p.val 0xF h (toLe 8 b.toNat)) .lnkDrop_version) :=
  congrArg Host.Outcome.next ((arriveAnswer_of_landsAwake hl ..).trans (if_pos hv))

theorem exec_molindSelectiveAckRx_of_new (hv : h.version.toNat = 2) : exec (.molindSelectiveAckRx p h b) s =
    .next (resend (ackWhere (takePkt s p.val 0xF h (toLe 8 b.toNat)) (ctxNum h.srcCtx)
      (fun u => ackedBy p.val h.psn.toNat u || inBitmap p.val h.psn.toNat b u)) (ctxNum h.srcCtx)
      (fun u => u.pkt.port == p.val && missingFrom h.psn.toNat b u)) :=
  congrArg Host.Outcome.next ((arriveAnswer_of_landsAwake hl ..).trans (if_neg (not_not.mpr hv)))

end Selective

theorem exec_molindGetResponseRx_of_lands {last : Bool} {d : Bytes} (hl : LandsAwake (takePkt s p.val 0x3 h d) p 0x3 h) :
    exec (.molindGetResponseRx p h last d) s = .next (answerRequest (takePkt s p.val 0x3 h d) (ctxNum h.srcCtx) 0x2 h.addr.toNat d
      (.molindGetResponseRx p h last d)) :=
  congrArg Host.Outcome.next (arriveAnswer_of_landsAwake hl ..)

theorem exec_boardReadResponseRx_of_lands {d : Bytes} (hl : LandsAwake (takePkt s p.val 0xA h d) p 0xA h) :
    exec (.boardReadResponseRx p h d) s =
      .next (answerRequest (takePkt s p.val 0xA h d) noCtx 0x9 h.addr.toNat d (.boardReadResponseRx p h d)) :=
  congrArg Host.Outcome.next (arriveAnswer_of_landsAwake hl ..)

/-! ### All that a context has sent is acknowledged (R313, R418) -/

theorem ownerStep_xpt (s : State) (o : Owner) : (ownerStep s o).xpt = s.xpt := by
  cases o <;> rfl

theorem foldl_ownerStep_xpt (l : List Unacked) (s : State) : (l.foldl (fun s u => ownerStep s u.owner) s).xpt = s.xpt := by
  induction l generalizing s with
  | nil => rfl
  | cons u l ih => exact (ih _).trans (ownerStep_xpt ..)

theorem ctxOf_congr {t u : State} (hxpt : t.xpt = u.xpt) (x : Nat) : ctxOf t x = ctxOf u x := by
  rw [ctxOf, ctxOf, hxpt]

/-- A context with nothing sent or waiting, whose retries begin anew. -/
def allAcked (s : State) (y : Nat) : CtxSt :=
  { ctxOf s y with unacked := [], queue := [], retries := 0, since := s.time.ticks }

theorem ctxOf_ackWhere_of_all {y : Nat} {f : Unacked → Bool} (hall : ∀ u ∈ (ctxOf s y).unacked, f u = true)
    (hqueue : (ctxOf s y).queue = []) (hsent : (ctxOf s y).unacked ≠ []) : ctxOf (ackWhere s y f) y = allAcked s y := by
  have hhit : (ctxOf s y).unacked.filter f = (ctxOf s y).unacked := List.filter_eq_self.mpr hall
  have hleft : (ctxOf s y).unacked.filter (fun u => !f u) = [] := List.filter_eq_nil_iff.mpr fun u hu => by simp [hall u hu]
  rw [ackWhere]
  dsimp only
  rw [hhit, hleft, hqueue, if_neg (by simpa using hsent)]
  exact (ctxOf_congr (foldl_ownerStep_xpt ..) y).trans (ctxOf_setCtx_same s y (allAcked s y))

/-! ### No acknowledgement comes (R323, R332) -/

section Timeout
variable {c : BitVec 16}

theorem exec_transportAckTimeout_of_due (h5 : fnReady s 5 = true) (hsent : (ctxOf s (ctxNum c)).unacked ≠ [])
    (hdue : (ctxOf s (ctxNum c)).since + ctxTimeout s (ctxNum c) ≤ s.time.ticks) :
    exec (.transportAckTimeout c) s = .next (retryCtx (bump s .xptRetx_timeouts) (ctxNum c)) :=
  congrArg Host.Outcome.next (if_pos (by simp [h5, hsent, hdue]))

theorem exec_transportAckTimeout_of_early (hearly : s.time.ticks < (ctxOf s (ctxNum c)).since + ctxTimeout s (ctxNum c)) :
    exec (.transportAckTimeout c) s = .next s :=
  congrArg Host.Outcome.next (if_neg (by simp [Nat.not_le.mpr hearly]))

end Timeout

/-- Settles O48: an answer that lands goes by its row outside Doze and is held back in it; an acknowledgement of everything by
`ctxOf_ackWhere_of_all`, and a timeout by whether it is due. -/
theorem acknowledgementsAndNaks : Obligations.AcknowledgementsAndNaks := by
  intro p h s x
  refine ⟨exec_molindAckRx_of_lands, fun code => ?nak, exec_molindNakSequenceRx_of_lands, fun b hl hv => ?old,
    fun b hl hv => exec_molindSelectiveAckRx_of_new hl hv, fun last d => exec_molindGetResponseRx_of_lands,
    fun d => exec_boardReadResponseRx_of_lands, fun code b last d x hx => ?dozes, fun y f hall hqueue hsent => ?all,
    fun c h5 hsent => ⟨exec_transportAckTimeout_of_due h5 hsent,
      fun hearly => ⟨s, exec_transportAckTimeout_of_early hearly, rfl⟩⟩⟩
  case nak =>
    intro s1 c hl
    exact ⟨exec_molindNakRemoteRx_of_none hl, fun u hu => exec_molindNakRemoteRx_of_some hl hu⟩
  case old =>
    have hget := get_takePkt s p.val 0xF h (toLe 8 b.toNat)
    refine ⟨_, exec_molindSelectiveAckRx_of_old hl hv, ?_, ?_⟩
    · rw [Counted, ← hget]
      exact counted_bump ..
    · exact keptRegs_bump (fun f i _ => hget f i) (List.mem_singleton_self _) _ _
  case dozes =>
    intro s1 hl hdoze
    simp only [List.mem_cons, List.not_mem_nil, or_false] at hx
    rcases hx with rfl | rfl | rfl | rfl | rfl | rfl <;> exact congrArg Host.Outcome.next (arriveAnswer_of_dozing hl hdoze ..)
  case all =>
    rw [ctxOf_ackWhere_of_all hall hqueue hsent]
    exact ⟨rfl, rfl⟩

end Sys2Proof.Machine
end

section
/-!
RoCEv2 packets (R323, R324, R327, R328, R449): where one lands, what its number makes of a request, and what each row then comes to.
-/
namespace Sys2Proof.Machine

variable {s : State} {p : Port} {h : RoceHdr} {x : Nat}

/-! ### A packet lands, and its number is judged -/

theorem arriveRoce_of_lands (hl : RoceLands s p h x) (asks : Bool) (body : Nat → State → State) :
    arriveRoce s p.val h asks body = body x s := by
  obtain ⟨hfront, hservice, h5, hicrc, hqpn, hce⟩ := hl
  simp [arriveRoce, hfront, hservice, h5, hicrc, hqpn, hce]

/-- A packet without a congestion mark waits as it came. -/
theorem unmarked_eq (hce : h.ce = false) : { h with ce := false } = h := by
  rw [← hce]

section Judge
variable {n : Nat} {self : Instr} {body : State → State × Arrive} {repeated : State → State}

theorem judge_of_expected (he : RoceExpected s h x) (p : Nat) :
    judge s p x h n self body repeated = roceDone p x h n self (body s) := by
  obtain ⟨hawake, hfree, hnumber⟩ := he
  rw [judge, if_neg (Bool.eq_false_iff.mp hawake), if_neg (Bool.eq_false_iff.mp hfree), if_pos hnumber]

/-- A request ahead of the number expected gets a sequence NAK for that number (log entry 115). -/
theorem judge_of_ahead (hawake : dozing s = false) (hfree : waitsForJob s (get s .xptCtx0_job x) = false)
    (hpos : 0 < (h.psn.toNat + 2 ^ 24 - get s .xptCtx0_epsn x) % 2 ^ 24)
    (hnear : (h.psn.toNat + 2 ^ 24 - get s .xptCtx0_epsn x) % 2 ^ 24 < 2 ^ 23) (p : Nat) :
    judge s p x h n self body repeated = roceOut s p opNakSeq x (get s .xptCtx0_epsn x) := by
  rw [judge, if_neg (Bool.eq_false_iff.mp hawake), if_neg (Bool.eq_false_iff.mp hfree), if_neg hpos.ne', if_pos hnear]

end Judge

/-! ### What a request has come to -/

section Done
variable {r : State × Arrive} (n : Nat) (self : Instr) (p x : Nat) (h : RoceHdr)

theorem roceDone_of_taken (hr : r.2 = .taken) : roceDone p x h n self r =
    put (roceOut r.1 p opAck x h.psn.toNat) .xptCtx0_epsn (h.psn.toNat + n) x := by rw [roceDone, hr]

theorem roceDone_of_served (hr : r.2 = .served) : roceDone p x h n self r =
    put r.1 .xptCtx0_epsn (h.psn.toNat + n) x := by rw [roceDone, hr]

theorem roceDone_of_refused {c : Nat} (hr : r.2 = .refused c) : roceDone p x h n self r =
    roceOut r.1 p opNakAccess x h.psn.toNat := by rw [roceDone, hr]

theorem roceDone_of_held (hr : r.2 = .held) : roceDone p x h n self r = holdBack r.1 self := by rw [roceDone, hr]

end Done

/-! ### RDMA WRITE (R327, R328) -/

/-- The first packet of a message forgets what was refused of the one before it. -/
def writeBegun (s : State) (x : Nat) (first : Bool) : State := if first then dropMark s x else s

/-- The access is the same before and after, since it is read from registers alone. -/
theorem roceAccess_writeBegun (s : State) (x : Nat) (first : Bool) (p n : Nat) (h : RoceHdr) (w : Bool) :
    roceAccess (writeBegun s x first) p x h n w = roceAccess s p x h n w := by
  cases first <;> rfl

/-- What placing a packet of an RDMA WRITE comes to. -/
def writePlaced (p : Port) (h : RoceHdr) (x : Nat) (e : WriteEnds) (d : Bytes) (s : State) : State × Arrive :=
  placeWrite (writeBegun s x e.first) (roceAccess (writeBegun s x e.first) p.val x h d.length true) [3, x]
    (if e.last then some 0 else none) h.va.toNat d

section Write
variable (hl : RoceLands s p h x) (imm : Bool) {e : WriteEnds} {d : Bytes}
include hl

/-- One within the path MTU is judged by its number, and a repeat is acknowledged again. -/
theorem exec_roceRdmaWriteRx_of_fit (hd : d.length ≤ roceMtu) : exec (.roceRdmaWriteRx p h imm e d) s =
    .next (judge s p.val x h 1 (.roceRdmaWriteRx p h imm e d) (writePlaced p h x e d)
      (fun s => roceOut s p.val opAck x h.psn.toNat)) := by
  obtain ⟨-, -, -, -, -, hce⟩ := id hl
  have hself := congrArg (Instr.roceRdmaWriteRx p · imm e d) (unmarked_eq hce)
  refine congrArg Host.Outcome.next ((arriveRoce_of_lands hl ..).trans ?_)
  rw [if_neg (Nat.not_lt.mpr hd), hself]
  congr 1
  funext t
  rw [writePlaced, roceAccess_writeBegun]
  rfl

/-- One above the path MTU is no request that the module serves (log entry 171). -/
theorem exec_roceRdmaWriteRx_of_long (hd : roceMtu < d.length) :
    exec (.roceRdmaWriteRx p h imm e d) s = .next (roceOut s p.val opNakInvalid x h.psn.toNat) :=
  congrArg Host.Outcome.next ((arriveRoce_of_lands hl ..).trans (if_pos hd))

end Write

/-! ### RDMA READ (R327) -/

/-- The responses to an RDMA READ leave (log entry 41). -/
def readAnswered (s : State) (p : Port) (h : RoceHdr) (x : Nat) (b : Bytes) : State :=
  ((cuts 4096 b).zipIdx).foldl (fun s c =>
    sendFrame s p.val (roceFrame s x opReadResp ((h.psn.toNat + c.2) % 2 ^ 24) (h.va.toNat + c.1.1) 0 c.1.2.length
      (decide (h.len.toNat ≤ c.1.1 + c.1.2.length)) c.1.2)) s

/-- What reading for an RDMA READ comes to. -/
def readPlaced (s : State) (p : Port) (h : RoceHdr) (x : Nat) : State × Arrive × Bytes :=
  placeRead s (roceAccess s p.val x h h.len.toNat false) h.va.toNat

theorem roceServe_of_served (hr : (readPlaced s p h x).2.1 = .served) :
    roceServe p.val x h s = (readAnswered (readPlaced s p h x).1 p h x (readPlaced s p h x).2.2, .served) := by
  unfold readPlaced at hr ⊢
  rw [roceServe, hr]
  rfl

theorem roceServe_of_not_served (hr : (readPlaced s p h x).2.1 ≠ .served) :
    roceServe p.val x h s = ((readPlaced s p h x).1, (readPlaced s p h x).2.1) := by
  unfold readPlaced at hr ⊢
  rw [roceServe]
  split
  · contradiction
  · rfl

/-- A repeat of an RDMA READ is served again. -/
def readAgain (p : Port) (h : RoceHdr) (x : Nat) (s : State) : State :=
  match (roceServe p.val x h s).2 with
  | .refused _ => roceOut (roceServe p.val x h s).1 p.val opNakAccess x h.psn.toNat
  | .held => holdBack (roceServe p.val x h s).1 (.roceRdmaReadRx p h)
  | _ => (roceServe p.val x h s).1

theorem exec_roceRdmaReadRx_of_lands (hl : RoceLands s p h x) : exec (.roceRdmaReadRx p h) s =
    .next (judge s p.val x h (packetsOf h.len.toNat) (.roceRdmaReadRx p h) (roceServe p.val x h) (readAgain p h x)) := by
  obtain ⟨-, -, -, -, -, hce⟩ := id hl
  have hself := congrArg (Instr.roceRdmaReadRx p ·) (unmarked_eq hce)
  refine congrArg Host.Outcome.next ((arriveRoce_of_lands hl ..).trans ?_)
  rw [hself]
  rfl

/-! ### Responses to what the module asked for (R313) -/

/-- The request `u` of a context is answered and no longer waited for. -/
def requestEnded (s : State) (x : Nat) (u : Unacked) : State :=
  setCtx s x { ctxOf s x with
    unacked := (ctxOf s x).unacked.filter (fun v => decide (v ≠ u)), retries := 0, since := s.time.ticks }

section Response
variable {last : Bool} {d : Bytes} (hl : RoceLands s p h x) (hfree : waitsForRead s h = false)
include hl hfree

theorem exec_roceReadResponseRx_of_none
    (hu : (ctxOf s x).unacked.find? (fun u => u.pkt.op == opRead && u.psn == h.psn.toNat) = none) :
    exec (.roceReadResponseRx p h last d) s = .next s := by
  refine congrArg Host.Outcome.next ((arriveRoce_of_lands hl ..).trans ?_)
  rw [if_neg (Bool.eq_false_iff.mp hfree), hu]

theorem exec_roceReadResponseRx_of_whole {u : Unacked}
    (hu : (ctxOf s x).unacked.find? (fun u => u.pkt.op == opRead && u.psn == h.psn.toNat) = some u) (hone : asked u ≤ 4096)
    (hsome : asked u ≠ 0) (hd : d.length = asked u) (hstill : bytesMoving s u d.length = false) :
    let t := giveBytes (requestEnded s x u) u d true
    exec (.roceReadResponseRx p h last d) s = .next (if last then pullQueue x (ctxOf t x).queue.length t else t) := by
  refine congrArg Host.Outcome.next ((arriveRoce_of_lands hl ..).trans ?_)
  have hwhole : ¬(d.length ≠ min 4096 (asked u) ∨ d.length = 0) := by omega
  rw [if_neg (Bool.eq_false_iff.mp hfree), hu]
  dsimp only
  rw [if_neg hwhole, if_neg (Bool.eq_false_iff.mp hstill), if_pos hd.ge]
  rfl

end Response

/-! ### CNPs (R323) -/

/-- No CNP has halved the rate of the context for 50 µs. -/
def cnpDue (s : State) (x : Nat) : Bool :=
  match (ctxOf s x).lastCnp with
  | none => true
  | some n => decide (n + 50000 ≤ s.time.ticks)

/-- A context that a CNP reaches. -/
def cnpTaken (s : State) (x : Nat) : CtxSt :=
  let k := { ctxOf s x with rateAt := some s.time.ticks }
  if cnpDue s x then { k with rate := k.rate / 2, lastCnp := some s.time.ticks } else k

theorem exec_roceCnpRx_of_lands (hl : RoceLands s p h x) :
    exec (.roceCnpRx p h) s = .next (setCtx (bump s .xptRetx_cnp) x (cnpTaken s x)) :=
  congrArg Host.Outcome.next (arriveRoce_of_lands hl ..)

theorem rateAt_cnpTaken (s : State) (x : Nat) : (cnpTaken s x).rateAt = some s.time.ticks := by
  unfold cnpTaken
  cases cnpDue s x <;> rfl

theorem rate_cnpTaken (s : State) (x : Nat) :
    (cnpTaken s x).rate = if cnpDue s x then (ctxOf s x).rate / 2 else (ctxOf s x).rate := by
  unfold cnpTaken
  cases cnpDue s x <;> rfl

/-- Settles O49: a request by the number it carries and what its region lets it do, and every other packet by its row. -/
theorem rocePacketsAreServed : Obligations.RocePacketsAreServed := by
  intro p h x s hl
  have hread := exec_roceRdmaReadRx_of_lands hl
  refine ⟨fun imm first last d he hd => ?writes, fun imm first last d hd => exec_roceRdmaWriteRx_of_long hl imm hd,
    fun he => ?reads, fun imm first last b hb i hi hawake hfree => ?ahead, fun what hwhat => ?unsupported, ?otherService,
    fun last d hfree => ⟨fun hu => ⟨s, exec_roceReadResponseRx_of_none hl hfree hu, rfl⟩,
      fun u hu hone hsome hd hstill => exec_roceReadResponseRx_of_whole hl hfree hu hone hsome hd hstill⟩,
    congrArg Host.Outcome.next (arriveRoce_of_lands hl ..), ?naks, ?cnp⟩
  case writes =>
    intro w
    have hexec := exec_roceRdmaWriteRx_of_fit hl imm (e := ⟨first, last⟩) hd
    rw [judge_of_expected he] at hexec
    exact ⟨fun hw => hexec.trans (congrArg _ (roceDone_of_taken _ _ _ _ _ hw)),
      fun c hw => hexec.trans (congrArg _ (roceDone_of_refused _ _ _ _ _ hw)),
      fun hw => hexec.trans (congrArg _ (roceDone_of_held _ _ _ _ _ hw))⟩
  case reads =>
    intro w
    rw [judge_of_expected he] at hread
    refine ⟨fun c hw => ?_, fun hw => ?_, fun hw => ?_⟩
    · rw [hread, roceServe_of_not_served fun hserved => nomatch hw.symm.trans hserved]
      exact congrArg _ (roceDone_of_refused _ _ _ _ _ hw)
    · rw [hread, roceServe_of_not_served fun hserved => nomatch hw.symm.trans hserved]
      exact congrArg _ (roceDone_of_held _ _ _ _ _ hw)
    · rw [hread, roceServe_of_served hw]
      exact congrArg _ (roceDone_of_served _ _ _ _ _ rfl)
  case ahead =>
    intro n hpos hnear
    simp only [List.mem_cons, List.not_mem_nil, or_false] at hi
    rcases hi with rfl | rfl
    · exact (exec_roceRdmaWriteRx_of_fit hl imm hb).trans (congrArg _ (judge_of_ahead hawake hfree hpos hnear _))
    · exact hread.trans (congrArg _ (judge_of_ahead hawake hfree hpos hnear _))
  case unsupported =>
    cases what with
    | send => exact congrArg Host.Outcome.next (arriveRoce_of_lands hl ..)
    | atomic => exact congrArg Host.Outcome.next (arriveRoce_of_lands hl ..)
    | otherService => exact absurd rfl hwhat
  case otherService =>
    obtain ⟨hfront, hservice, h5, -⟩ := hl
    exact ⟨bump s .xptDrop_service, congrArg Host.Outcome.next (if_pos (by simp [hfront, hservice, h5])), counted_bump ..,
      onlyRegs_bump ..⟩
  case naks =>
    intro before
    exact ⟨congrArg Host.Outcome.next (arriveRoce_of_lands hl ..), congrArg Host.Outcome.next (arriveRoce_of_lands hl ..),
      congrArg Host.Outcome.next (arriveRoce_of_lands hl ..), congrArg Host.Outcome.next (arriveRoce_of_lands hl ..)⟩
  case cnp =>
    have hcount : KeptRegs s (bump s .xptRetx_cnp) [.xptRetx_cnp] := (onlyRegs_bump ..).2
    refine ⟨_, exec_roceCnpRx_of_lands hl, counted_bump s .xptRetx_cnp 1 0, ?_, ?_,
      keptRegs_trans hcount (keptRegs_of_regs_eq (setCtx_regs ..) (setCtx_fuses ..) _), keptMem_of_mem_eq rfl⟩
    · rw [ctxOf_setCtx_same, rateAt_cnpTaken]
    · rw [ctxOf_setCtx_same, rate_cnpTaken, cnpDue]
      cases (ctxOf s x).lastCnp <;> simp

end Sys2Proof.Machine
end

section
/-!
One clk of the arithmetic clock (R339 to R341, R345): the cause that each job slot counts, the filler's gate for the next clk, and the
end of the operation table's clk before it.
-/
namespace Sys2Proof.Machine

/-! ### The end of the operation table's clk -/

section Closed
variable (s : State)

theorem logAll_num (l : List SilEvt) : (logAll l s).num = s.num := by
  induction l generalizing s with
  | nil => rfl
  | cons x l ih =>
    obtain ⟨r, e, o, hlog⟩ := exists_logEvt_eq s x.code 0 x.job x.step x.entry x.data
    exact (ih _).trans (congrArg State.num hlog :)

/-- Everything raised is logged with none of it left due, and the records stand. -/
theorem closeClk_eq : closeClk s =
    { logAll s.num.due { s with num := { s.num with due := [] } } with
      num := { s.num with fresh := [], base := [], worst := none, due := [] } } := by
  have hnum := logAll_num { s with num := { s.num with due := [] } } s.num.due
  simp only [closeClk, logDue, List.filter_true, Bool.not_true, List.filter_false]
  rw [← logAll, hnum]

theorem aside_closeClk : Aside s (closeClk s) := by
  rw [closeClk_eq]
  exact aside_logAll (s := s) (t := { s with num := { s.num with due := [] } }) rfl s.num.due

theorem keptRegs_closeClk : KeptRegs s (closeClk s) eventFlds := fun _ i hf => by
  rw [closeClk_eq]
  exact get_logAll hf s.num.due { s with num := { s.num with due := [] } } i

theorem closeClk_num : (closeClk s).num = { s.num with fresh := [], base := [], worst := none, due := [] } := by
  rw [closeClk_eq]

end Closed

/-! ### The cause of a slot (R345) -/

section Cause
variable {s : State} {c : Nat} {sl : Slot}

theorem gateShut_fill_iff : gateShut s c .fill = true ↔ slotGroup s c .prim ≠ none ∧ (coreOf s c).gate = false := by
  simp [gateShut, Option.isSome_iff_ne_none, and_comm]

/-- A slot's cause says that the gate holds it only as cause 1, with the gate shut (row 11 of R345). -/
def GateHeld (s : State) (c : Nat) (sl : Slot) (k : Nat × Bool) : Prop := k.2 = true → k.1 = 1 ∧ gateShut s c sl = true

theorem gateHeld_of_not (n : Nat) : GateHeld s c sl (n, false) := nofun

theorem gateHeld_readyCause : GateHeld s c sl (readyCause s c sl) := by
  unfold readyCause
  split
  case isTrue h => exact fun _ => ⟨rfl, h⟩
  case isFalse => exact gateHeld_of_not 0

theorem gateHeld_taskCause (t : Task) : GateHeld s c sl (taskCause s c sl t) := by
  unfold taskCause
  repeat' split
  all_goals simp only [gateHeld_of_not, gateHeld_readyCause]

theorem gateHeld_idleCause : GateHeld s c sl (idleCause s c sl) := by
  unfold idleCause
  split
  · exact gateHeld_of_not 1
  split
  · exact gateHeld_of_not 5
  · exact gateHeld_readyCause

theorem gateHeld_slotCause : GateHeld s c sl (slotCause s c sl) := by
  unfold slotCause
  dsimp only
  split
  · exact gateHeld_of_not 0
  split
  · exact gateHeld_of_not 10
  split
  · exact gateHeld_of_not 11
  split
  · exact gateHeld_taskCause _
  · exact gateHeld_idleCause

theorem slotCause_prim_snd : (slotCause s c .prim).2 = false :=
  Bool.eq_false_iff.mpr fun h => Bool.false_ne_true (gateHeld_slotCause h).2

/-- With a launch ready and nothing else in the way, only the gate can hold a slot. -/
theorem slotCause_of_ready {l : Launch} {rest : List Launch} (hqueue : (slotOf s c sl).queue = l :: rest)
    (htask : (slotOf s c sl).task = none) (hissued : (slotOf s c sl).issued = false) (hfree : throttled s = false)
    (hlit : eclipsed s (jobIn s c sl) = false) (hready : l.failed = true ∨ released s l.release = true) :
    slotCause s c sl = readyCause s c sl := by
  have hwait : (!l.failed && !released s l.release) = false := by
    rcases hready with h | h <;> simp [h]
  simp [slotCause, idleCause, hqueue, htask, hissued, hfree, hlit, hwait]

end Cause

/-! ### Counters that count once (R340, R341) -/

section Counters

/-- A wrapping counter counts one where a condition holds. -/
def countIf (s : State) (f : Fld) (b : Bool) (i : Nat) : State := if b then bumpW s f 1 i else s

/-- Counters count one each where their conditions hold: each field with its condition and its index. -/
def countAll (l : List (Fld × Bool × Nat)) (s : State) : State := each l (fun s x => countIf s x.1 x.2.1 x.2.2) s

variable (s : State)

theorem countIf_eq (f : Fld) (b : Bool) (i : Nat) : ∃ r, countIf s f b i = { s with regs := r } := by
  cases b
  · exact ⟨s.regs, rfl⟩
  · exact ⟨_, rfl⟩

theorem get_countIf_fld {f g : Fld} (b : Bool) (i j : Nat) (h : g ≠ f) : get (countIf s f b i) g j = get s g j := by
  cases b
  · rfl
  · exact get_bumpW_fld s 1 i j h

theorem get_countIf_same (f : Fld) (b : Bool) (i j : Nat) :
    get (countIf s f b i) f j = if b = true ∧ j = i then (get s f j + 1) % 2 ^ f.width else get s f j := by
  cases b with
  | false => rw [if_neg (fun h => Bool.false_ne_true h.1)]; rfl
  | true =>
    by_cases hji : j = i
    · subst hji
      rw [if_pos ⟨rfl, rfl⟩]
      exact get_put_same ..
    · rw [if_neg (fun h => hji h.2)]
      exact get_put_idx s f _ hji

variable (l : List (Fld × Bool × Nat))

theorem exists_countAll_eq : ∃ r, countAll l s = { s with regs := r } := by
  induction l generalizing s with
  | nil => exact ⟨s.regs, rfl⟩
  | cons x l ih =>
    obtain ⟨r, hx⟩ := countIf_eq s x.1 x.2.1 x.2.2
    obtain ⟨r', hl⟩ := ih (countIf s x.1 x.2.1 x.2.2)
    exact ⟨r', hl.trans (by rw [hx])⟩

theorem keptRegs_countAll : KeptRegs s (countAll l s) (l.map (·.1)) := by
  induction l generalizing s with
  | nil => exact fun _ _ _ => rfl
  | cons x l ih =>
    intro f j hf
    have hl : f ∉ l.map (·.1) := List.not_mem_of_not_mem_cons hf
    exact (ih _ f j hl).trans (get_countIf_fld s x.2.1 x.2.2 j (List.ne_of_not_mem_cons hf))

variable {l}

/-- Where no field stands twice, each counts by its own condition. -/
theorem get_countAll (hnd : (l.map (·.1)).Nodup) {f : Fld} {b : Bool} {i : Nat} (hx : (f, b, i) ∈ l) (j : Nat) :
    get (countAll l s) f j = if b = true ∧ j = i then (get s f j + 1) % 2 ^ f.width else get s f j := by
  induction l generalizing s with
  | nil => exact absurd hx List.not_mem_nil
  | cons y l ih =>
    obtain ⟨hy, hnd⟩ := List.nodup_cons.mp hnd
    rcases List.mem_cons.mp hx with rfl | hx
    · exact (keptRegs_countAll _ l f j hy).trans (get_countIf_same s f b i j)
    · have hne : f ≠ y.1 := ne_of_mem_of_not_mem (List.mem_map_of_mem hx) hy
      rw [← get_countIf_fld s y.2.1 y.2.2 j hne]
      exact ih _ hnd hx

end Counters

/-! ### The clk of a core (R339 to R341) -/

section Clk
variable (s : State) (c : Nat)

/-- The slot holds a job, and the gate holds the slot. -/
def gateCounts (sl : Slot) : Bool := (slotGroup s c sl).isSome && (slotCause s c sl).2

theorem gateCounts_prim : gateCounts s c .prim = false := by
  rw [gateCounts, slotCause_prim_snd, Bool.and_false]

theorem gateCounts_fill_of_no_job (h : slotGroup s c .prim = none ∨ slotGroup s c .fill = none) : gateCounts s c .fill = false := by
  rcases h with hprim | hfill
  · have hopen : (slotCause s c .fill).2 = false :=
      Bool.eq_false_iff.mpr fun hheld => (gateShut_fill_iff.mp (gateHeld_slotCause hheld).2).1 hprim
    rw [gateCounts, hopen, Bool.and_false]
  · rw [gateCounts, hfill]
    rfl

theorem countSlot_eq (u : State) (sl : Slot) : countSlot c s u sl =
    countIf (countIf u (idleFld sl) (slotGroup s c sl).isSome (13 * c + (slotCause s c sl).1))
      .coreFillGated_clk (gateCounts s c sl) c := by
  unfold countSlot gateCounts
  cases (slotGroup s c sl).isSome <;> rfl

/-- The counters of a clk: each with its condition and the index that counts. -/
def clkCounts : List (Fld × Bool × Nat) :=
  [(.coreIdleP_clk, (slotGroup s c .prim).isSome, 13 * c + (slotCause s c .prim).1),
   (.coreIdleF_clk, (slotGroup s c .fill).isSome, 13 * c + (slotCause s c .fill).1),
   (.coreFillGated_clk, gateCounts s c .fill, c), (.coreIdleClk_clk, true, c), (.coreFillYield_clk, yields s c, c),
   (.attWait_clk, (coreOf s c).flight.any (readerWaits s c), c)]

/-- The core of a clk as it goes into the next. -/
def clkClosed : CoreSt :=
  { coreOf s c with
    prim := closeSlot (coreOf s c).prim (shownCause s c .prim), fill := closeSlot (coreOf s c).fill (shownCause s c .fill)
    gate := gateBit s c (shownCause s c .prim), tcClk := [] }

theorem clockTick_eq : clockTick s c = setCore (countAll (clkCounts s c) s) c (clkClosed s c) := by
  have hslots : each bothSlots (countSlot c s) s = countSlot c s (countSlot c s s .prim) .fill := rfl
  have hcore : coreOf (countAll (clkCounts s c) s) c = coreOf s c := by
    obtain ⟨r, h⟩ := exists_countAll_eq s (clkCounts s c)
    rw [h]
    rfl
  have hcounts : countAll (clkCounts s c) s = countIf (countIf (bumpW (each bothSlots (countSlot c s) s) .coreIdleClk_clk 1 c)
      .coreFillYield_clk (yields s c) c) .attWait_clk ((coreOf s c).flight.any (readerWaits s c)) c := by
    rw [hslots, countSlot_eq, countSlot_eq, gateCounts_prim]
    rfl
  rw [clkClosed, ← hcore, hcounts]
  rfl

theorem get_clockTick (f : Fld) (i : Nat) : get (clockTick s c) f i = get (countAll (clkCounts s c) s) f i := by
  rw [clockTick_eq]
  rfl

theorem get_clockTick_of_mem {f : Fld} {b : Bool} {i : Nat} (h : (f, b, i) ∈ clkCounts s c) (j : Nat) :
    get (clockTick s c) f j = if b = true ∧ j = i then (get s f j + 1) % 2 ^ f.width else get s f j := by
  have hnd : ((clkCounts s c).map (·.1)).Nodup := by
    simp only [clkCounts, List.map_cons, List.map_nil]
    decide
  exact (get_clockTick ..).trans (get_countAll s hnd h j)

theorem get_clockTick_core {f : Fld} {b : Bool} (h : (f, b, c) ∈ clkCounts s c) :
    get (clockTick s c) f c = if b = true then (get s f c + 1) % 2 ^ f.width else get s f c := by
  simpa using get_clockTick_of_mem s c h c

theorem get_idleFld_clockTick (sl : Slot) (i : Nat) : get (clockTick s c) (idleFld sl) i =
    if (slotGroup s c sl).isSome = true ∧ i = 13 * c + (slotCause s c sl).1
      then (get s (idleFld sl) i + 1) % 2 ^ (idleFld sl).width else get s (idleFld sl) i := by
  refine get_clockTick_of_mem s c (b := (slotGroup s c sl).isSome) ?_ i
  cases sl <;> simp [clkCounts, idleFld]

theorem keptRegs_clockTick : KeptRegs s (clockTick s c) ((clkCounts s c).map (·.1)) := fun f i hf =>
  (get_clockTick ..).trans (keptRegs_countAll s _ f i hf)

theorem keptMem_clockTick : KeptMem s (clockTick s c) := by
  obtain ⟨r, h⟩ := exists_countAll_eq s (clkCounts s c)
  rw [clockTick_eq, h]
  exact fun _ => rfl

theorem coreOf_clockTick_ne {d : Nat} (hd : d ≠ c) : coreOf (clockTick s c) d = coreOf s d := by
  obtain ⟨r, h⟩ := exists_countAll_eq s (clkCounts s c)
  rw [clockTick_eq, coreOf_setCore_ne _ _ hd, h]
  rfl

theorem coreOf_clockTick : coreOf (clockTick s c) c = clkClosed s c := by
  rw [clockTick_eq, coreOf_setCore_same]

theorem slotOf_clockTick (sl : Slot) : slotOf (clockTick s c) c sl = closeSlot (slotOf s c sl) (shownCause s c sl) := by
  rw [slotOf, coreOf_clockTick]
  cases sl <;> rfl

theorem shownCause_of_job {sl : Slot} (h : slotGroup s c sl ≠ none) : shownCause s c sl = (slotCause s c sl).1 :=
  if_pos (Option.isSome_iff_ne_none.mpr h)

theorem shownCause_of_no_job {sl : Slot} (h : slotGroup s c sl = none) : shownCause s c sl = 1 :=
  if_neg (by simp [h])

/-- What a clk leaves of a slot, and what its causes count. -/
theorem slot_clockTick (sl : Slot) : let t := clockTick s c
    (slotGroup s c sl ≠ none → (slotOf t c sl).cause = (slotCause s c sl).1 ∧ ∀ i, get t (idleFld sl) i =
      if i = 13 * c + (slotCause s c sl).1 then (get s (idleFld sl) i + 1) % 2 ^ (idleFld sl).width else get s (idleFld sl) i) ∧
    (slotGroup s c sl = none → (slotOf t c sl).cause = 1 ∧ ∀ i, get t (idleFld sl) i = get s (idleFld sl) i) ∧
    (slotOf t c sl).issued = false ∧ taskOf t c sl = taskOf s c sl ∧ ∀ r, sregOf t c sl r = sregOf s c sl r := by
  dsimp only
  have hcause : (slotOf (clockTick s c) c sl).cause = shownCause s c sl := by rw [slotOf_clockTick, closeSlot]
  refine ⟨fun h => ⟨hcause.trans (shownCause_of_job s c h), fun i => ?_⟩,
    fun h => ⟨hcause.trans (shownCause_of_no_job s c h), fun i => ?_⟩, ?_, ?_, fun r => ?_⟩
  · simp only [get_idleFld_clockTick, Option.isSome_iff_ne_none.mpr h, true_and]
  · rw [get_idleFld_clockTick, if_neg (fun hheld => by simp [h] at hheld)]
  · rw [slotOf_clockTick, closeSlot]
  · rw [taskOf, slotOf_clockTick, closeSlot, taskOf]
  · rw [sregOf, slotOf_clockTick, closeSlot, sregOf]

theorem gate_clockTick : (coreOf (clockTick s c) c).gate = gateBit s c (slotOf (clockTick s c) c .prim).cause := by
  rw [coreOf_clockTick, slotOf_clockTick]
  rfl

end Clk

theorem exec_arithmeticClockTick_of_up {c : Core} {s : State} (h : coreUp s c = true) :
    exec (.arithmeticClockTick c) s = .next (clockTick (closeClk s) c) := congrArg Host.Outcome.next (if_pos h)

theorem exec_arithmeticClockTick_of_down {c : Core} {s : State} (h : coreUp s c = false) :
    exec (.arithmeticClockTick c) s = .next s := congrArg Host.Outcome.next (if_neg (Bool.eq_false_iff.mp h))

/-- Settles O55: the operation table's clk ends, the tick counts in the state that this leaves, and only `readyCause` asks the gate. -/
theorem clockTicksCountOneCause : Obligations.ClockTicksCountOneCause := by
  intro c s
  refine ⟨⟨aside_closeClk s, keptRegs_closeClk s, closeClk_num s, fun h => ?kept⟩,
    fun hup => ⟨_, exec_arithmeticClockTick_of_up hup, closeClk s, rfl, ?clk, ?slots, ?gated, ?ungated, ?gate, ?yield, ?wait,
      fun d hd => coreOf_clockTick_ne _ _ hd, keptMem_clockTick _ _, keptRegs_mono (keptRegs_clockTick _ _) ?counters⟩,
    fun h => ?held, fun l rest hqueue htask hissued hfree hlit hready => ?ready,
    fun hdown => ⟨s, exec_arithmeticClockTick_of_down hdown, rfl⟩⟩
  case kept => rw [closeClk_of_nothing_due s h]
  case clk => exact get_clockTick_core (closeClk s) c (b := true) (by simp [clkCounts])
  case slots =>
    intro x hx
    simp only [List.mem_cons, List.not_mem_nil, or_false] at hx
    obtain ⟨hjob, hnone, hrest⟩ := slot_clockTick (closeClk s) c x.1
    rcases hx with rfl | rfl
    · exact ⟨hjob, hnone, hrest⟩
    · exact ⟨hjob, hnone, hrest⟩
  case gated =>
    intro _ hfill
    have hcounts : gateCounts (closeClk s) c .fill = (slotCause (closeClk s) c .fill).2 := by
      rw [gateCounts, Option.isSome_iff_ne_none.mpr hfill, Bool.true_and]
    rw [← hcounts]
    exact get_clockTick_core (closeClk s) c (by simp [clkCounts])
  case ungated =>
    intro hno
    exact get_clockTick_core (closeClk s) c (b := false) (by simp [clkCounts, gateCounts_fill_of_no_job _ _ hno])
  case gate => exact gate_clockTick ..
  case yield => exact get_clockTick_core (closeClk s) c (by simp [clkCounts])
  case wait => exact get_clockTick_core (closeClk s) c (by simp [clkCounts])
  case counters => simp [clkCounts]
  case held =>
    obtain ⟨hone, hshut⟩ := gateHeld_slotCause h
    exact ⟨hone, gateShut_fill_iff.mp hshut⟩
  case ready =>
    rw [slotCause_of_ready hqueue htask hissued hfree hlit hready, readyCause]
    simp only [gateShut_fill_iff]

end Sys2Proof.Machine
end

section
/-!
The control instructions (05): NOP, BR and LOOP; O3.
-/
namespace Sys2Proof.Machine

variable {s : State} {c : Core} {sl : Slot} {f : RegForm}

theorem jumpTo_onlySlot {t : State} (off : Int) (h : OnlySlot s t c sl) : OnlySlot s (jumpTo t c sl off) c sl :=
  onlySlot_setSlot _ h

@[simp] theorem sregOf_jumpTo (s : State) (c : Nat) (sl : Slot) (off : Int) (r : Nat) :
    sregOf (jumpTo s c sl off) c sl r = sregOf s c sl r := by
  simp [sregOf, jumpTo]

/-- A branch follows a change of one slot. -/
theorem goesOn_jumpTo {u : State} (off : Int) (honly : OnlySlot s u c sl) (htask : taskOf u c sl = taskOf s c sl) :
    Moved s (jumpTo u c sl off) c sl off ∧ OnlySlot s (jumpTo u c sl off) c sl ∧ KeptRegs s (jumpTo u c sl off) [] ∧
      KeptMem s (jumpTo u c sl off) :=
  have h := jumpTo_onlySlot off honly
  ⟨moved_jumpTo off htask, h, keptRegs_of_onlyCore h.1, keptMem_of_onlyCore h.1⟩

theorem runs_nop (hi : IssuesReg s c sl 0x00 f) : Runs (.nop c sl f) s (fun t =>
    (∀ r, sregOf t c sl r = sregOf s c sl r) ∧ Moved s t c sl 1 ∧ OnlySlot s t c sl ∧ KeptRegs s t [] ∧ KeptMem s t) := by
  refine ⟨_, rfl, ?_⟩
  rw [scalarIns_issues hi rfl]
  exact ⟨sregOf_advance s c sl, goesOn_advance (onlySlot_refl s c sl) rfl⟩

theorem runs_br (hi : IssuesReg s c sl 0x02 f) : Runs (.br c sl f) s (fun t =>
    (∀ r, sregOf t c sl r = sregOf s c sl r) ∧ Moved s t c sl f.imm.toInt ∧ OnlySlot s t c sl ∧ KeptRegs s t [] ∧ KeptMem s t) := by
  refine ⟨_, rfl, ?_⟩
  rw [scalarIns_issues hi rfl, sgn64_toNat]
  exact ⟨sregOf_jumpTo s c sl _, goesOn_jumpTo _ (onlySlot_refl s c sl) rfl⟩

/-- What LOOP leaves in S[ra]: one less, as a 64-bit word. -/
def loopCount (s : State) (c : Core) (sl : Slot) (f : RegForm) : Nat := (BitVec.ofNat 64 (sregOf s c sl f.ra.toNat) - 1).toNat

theorem loopCount_eq : (sregOf s c sl f.ra.toNat + (2 ^ 64 - 1)) % 2 ^ 64 = loopCount s c sl f := by
  rw [loopCount, ← computes_sub, toNat_ofNat_sregOf]
  rfl

theorem sregOf_counted (r : Nat) : sregOf (setSreg s c sl f.ra.toNat (loopCount s c sl f)) c sl r =
    if r = f.ra.toNat ∧ r ≠ 0 then loopCount s c sl f else sregOf s c sl r := by
  have hlt : loopCount s c sl f < 2 ^ 64 := toNat_lt_pow _
  rw [sregOf_setSreg, Nat.mod_eq_of_lt hlt]
  by_cases hr : r = f.ra.toNat
  · rw [hr]
  · simp [hr]

/-- LOOP counts, and branches unless it has counted to 0. -/
theorem runs_loop (hi : IssuesReg s c sl 0x03 f) (ha : f.ra.toNat < 32) : Runs (.loop c sl f) s (fun t =>
    (∀ r, sregOf t c sl r = if r = f.ra.toNat ∧ r ≠ 0 then loopCount s c sl f else sregOf s c sl r) ∧
    Moved s t c sl (if loopCount s c sl f = 0 then 1 else f.imm.toInt) ∧ OnlySlot s t c sl ∧ KeptRegs s t [] ∧ KeptMem s t) := by
  have honly : OnlySlot s (setSreg s c sl f.ra.toNat (loopCount s c sl f)) c sl := setSreg_onlySlot _ _ (onlySlot_refl s c sl)
  refine ⟨_, rfl, ?_⟩
  rw [scalarIns_issues hi (decide_eq_true ha)]
  simp only [loopCount_eq, sgn64_toNat]
  split
  · exact ⟨fun r => by rw [sregOf_advance, sregOf_counted], goesOn_advance honly (taskOf_setSreg ..)⟩
  · exact ⟨fun r => by rw [sregOf_jumpTo, sregOf_counted], goesOn_jumpTo _ honly (taskOf_setSreg ..)⟩

/-- Settles O3: each of the three goes on or branches from where it stands. -/
theorem controlFlow : Obligations.ControlFlow := fun _ _ _ _ => ⟨runs_nop, runs_br, runs_loop⟩

end Sys2Proof.Machine
end

section
/-!
The step (log entry 10), what reset leaves (R464, R465), and the SMBus target (R488 to R490); O56, O57 and O37.
-/
namespace Sys2Proof.Machine

/-- Settles O56: the two cases of `step`. -/
theorem stepRunsTheFrontCommand : Obligations.StepRunsTheFrontCommand :=
  ⟨fun _ _ _ => rfl, fun s h => by rw [step, h]⟩

/-! ### What reset leaves -/

theorem get_of_no_regs {s : State} (h : s.regs = []) (f : Fld) (i : Nat) : get s f i = fldReset s.fuses f i := by
  rw [get, h]
  rfl

theorem rdByte_of_no_mem {s : State} (h : s.mem = []) (a : Nat) : rdByte s a = 0 := by
  rw [rdByte, h]
  rfl

/-- Settles O57: reset lists no register and no byte, so each reads as its default. -/
theorem resetIsClean : Obligations.ResetIsClean := by
  refine ⟨rdByte_of_no_mem rfl, get_of_no_regs rfl, by decide, by decide, rfl, fun _ sl => ?slot, by decide, rfl, ?width⟩
  case slot => cases sl <;> rfl
  case width => exact fun f i => Nat.two_pow_pos _

/-! ### The SMBus target -/

section Smb
variable {s : State}

theorem toLe_length (n v : Nat) : (toLe n v).length = n := by
  simp [toLe]

theorem runs_smbRead {i : Instr} {cmd : Nat} {b : Bytes} (hexec : exec i s = .next (smbRead s cmd)) (hrails : s.pwr.rails = true)
    (hb : smbAnswer s cmd = some b) : Runs i s (fun t =>
      t = { s with out := s.out ++ [.smb (0x58 + s.pwr.straps.toNat) cmd (b.map (·.toNat)) (smbPec s cmd (decide (2 < b.length)) b)] }) := by
  refine ⟨_, hexec, ?_⟩
  rw [smbRead, if_pos hrails, hb]
  rfl

/-- The commands of R489 with the lengths of their answers. -/
theorem smbAnswer_length {x : Nat × Nat} (hx : x ∈ [(0x00, 1), (0x01, 2), (0x02, 2), (0x03, 2), (0x04, 8), (0x10, 8), (0x20, 32)]) :
    ∃ b : Bytes, smbAnswer s x.1 = some b ∧ b.length = x.2 := by
  simp only [List.mem_cons, List.not_mem_nil, or_false] at hx
  rcases hx with rfl | rfl | rfl | rfl | rfl | rfl | rfl <;> exact ⟨_, rfl, by simp [toLe_length]⟩

end Smb

/-- Settles O37: `smbAnswer` knows the commands of R489 and no other. -/
theorem smbusTargetAnswers : Obligations.SmbusTargetAnswers := by
  intro s hrails
  refine ⟨?reads, fun cmd len hno => ⟨_, rfl, if_pos (by simp [hrails, hno])⟩, fun cmd => ⟨_, rfl, if_pos hrails⟩⟩
  case reads =>
    have hread {i : Instr} {cmd n : Nat} (hexec : exec i s = .next (smbRead s cmd))
        (hx : (cmd, n) ∈ [(0x00, 1), (0x01, 2), (0x02, 2), (0x03, 2), (0x04, 8), (0x10, 8), (0x20, 32)]) :
        ∃ b : Bytes, smbAnswer s cmd = some b ∧ b.length = n ∧ Runs i s (fun t => t = { s with
          out := s.out ++ [.smb (0x58 + s.pwr.straps.toNat) cmd (b.map (·.toNat)) (smbPec s cmd (decide (2 < n)) b)] }) := by
      obtain ⟨b, hb, rfl⟩ := smbAnswer_length (s := s) hx
      exact ⟨b, hb, rfl, runs_smbRead hexec hrails hb⟩
    simp only [List.forall_mem_cons, List.not_mem_nil, false_implies, implies_true, and_true]
    exact ⟨hread rfl (by decide), hread rfl (by decide), hread rfl (by decide), hread rfl (by decide), hread rfl (by decide),
      hread rfl (by decide), hread rfl (by decide)⟩

end Sys2Proof.Machine
end

section
/-!
Functions in reset and ready (R464), as the masks of `RST_STAT` show them, and the links that train (R405).
-/
namespace Sys2Proof.Machine

/-! ### Masks of functions -/

/-- The mask of the functions below `n` for which a test holds. -/
def maskBelow (p : Nat → Bool) (n : Nat) : Nat := (List.range n).foldl (fun a k => if p k then a + 2 ^ k else a) 0

theorem maskBelow_succ (p : Nat → Bool) (n : Nat) :
    maskBelow p (n + 1) = if p n then maskBelow p n + 2 ^ n else maskBelow p n := by
  simp [maskBelow, List.range_succ]

theorem maskBelow_lt (p : Nat → Bool) (n : Nat) : maskBelow p n < 2 ^ n := by
  induction n with
  | zero => exact Nat.one_pos
  | succ n ih =>
    rw [maskBelow_succ]
    split <;> omega

theorem testBit_maskBelow (p : Nat → Bool) {n k : Nat} (hk : k < n) : (maskBelow p n).testBit k = p k := by
  induction n with
  | zero => exact absurd hk (Nat.not_lt_zero k)
  | succ n ih =>
    have htop : (maskBelow p n).testBit n = false := Nat.testBit_lt_two_pow (maskBelow_lt p n)
    rw [maskBelow_succ]
    rcases Nat.lt_succ_iff_lt_or_eq.mp hk with hlt | rfl
    · split
      · rw [Nat.add_comm, Nat.testBit_two_pow_add_gt hlt, ih hlt]
      · exact ih hlt
    · split
      case isTrue hp => rw [Nat.add_comm, Nat.testBit_two_pow_add_eq, htop, hp, Bool.not_false]
      case isFalse hp => rw [htop, Bool.eq_false_iff.mpr hp]

/-- A mask of all nine functions fits a field of nine bits. -/
theorem tst_maskBelow_mod (p : Nat → Bool) {f : Fld} (hf : f.width = 9) {n : Nat} (hn : n < 9) :
    tst (maskBelow p 9 % 2 ^ f.width) n = p n := by
  rw [hf, Nat.mod_eq_of_lt (maskBelow_lt ..), tst, testBit_maskBelow p hn]

/-! ### Leaving reset -/

variable (s : State)

theorem keptRegs_refl (l : List Fld) : KeptRegs s s l := fun _ _ _ => rfl

theorem leaveReset_eq (fns : List Nat) :
    leaveReset s fns = put s .rstStat_in_reset (maskBelow (fun n => inReset s n && !fns.contains n) 9) := rfl

theorem makeReady_eq (fns : List Nat) :
    makeReady s fns = put s .rstStat_ready (maskBelow (fun n => fnReady s n || fns.contains n) 9) := rfl

theorem inReset_leaveReset (fns : List Nat) {n : Nat} (hn : n < 9) :
    inReset (leaveReset s fns) n = (inReset s n && !fns.contains n) := by
  rw [inReset, leaveReset_eq, get_put_same, tst_maskBelow_mod _ rfl hn]

theorem fnReady_makeReady (fns : List Nat) {n : Nat} (hn : n < 9) :
    fnReady (makeReady s fns) n = (fnReady s n || fns.contains n) := by
  rw [fnReady, makeReady_eq, get_put_same, tst_maskBelow_mod _ rfl hn]

theorem fnReady_leaveReset (fns : List Nat) (n : Nat) : fnReady (leaveReset s fns) n = fnReady s n := by
  rw [fnReady, leaveReset_eq, get_put_fld _ _ _ _ (by decide)]
  rfl

theorem inReset_makeReady (fns : List Nat) (n : Nat) : inReset (makeReady s fns) n = inReset s n := by
  rw [inReset, makeReady_eq, get_put_fld _ _ _ _ (by decide)]
  rfl

theorem keptRegs_makeReady (fns : List Nat) : KeptRegs s (makeReady s fns) [.rstStat_ready] :=
  keptRegs_put (keptRegs_refl _ _) (List.mem_singleton_self _) _ _

/-- Some functions leave reset and are ready, others among them. -/
def fnsReleased (out ready : List Nat) : State := makeReady (leaveReset s out) ready

theorem inReset_fnsReleased (out ready : List Nat) {n : Nat} (hn : n < 9) :
    inReset (fnsReleased s out ready) n = (inReset s n && !out.contains n) := by
  rw [fnsReleased, inReset_makeReady, inReset_leaveReset s out hn]

theorem fnReady_fnsReleased (out ready : List Nat) {n : Nat} (hn : n < 9) :
    fnReady (fnsReleased s out ready) n = (fnReady s n || ready.contains n) := by
  rw [fnsReleased, fnReady_makeReady _ ready hn, fnReady_leaveReset]

theorem regsOnly_fnsReleased (out ready : List Nat) : RegsOnly s (fnsReleased s out ready) :=
  regsOnly_put (regsOnly_put regsOnly_refl ..) ..

theorem keptRegs_fnsReleased (out ready : List Nat) : KeptRegs s (fnsReleased s out ready) [.rstStat_ready, .rstStat_in_reset] :=
  keptRegs_put (keptRegs_put (keptRegs_refl _ _) (by decide) _ _) (by decide) _ _

/-! ### Links that train -/

theorem keptRegs_each {α : Type} {l : List Fld} {f : State → α → State} (hf : ∀ s x, KeptRegs s (f s x) l) (xs : List α) :
    KeptRegs s (each xs f s) l := by
  induction xs generalizing s with
  | nil => exact keptRegs_refl _ _
  | cons x xs ih => exact keptRegs_trans (hf s x) (ih (f s x))

theorem regsOnly_trainAll : RegsOnly s (trainAll s) := by
  refine regsOnly_foldl (fun t p h => ?_) _ regsOnly_refl
  split
  · exact regsOnly_put h ..
  · exact h

theorem keptRegs_trainAll : KeptRegs s (trainAll s) [.lnkPstat_state] := by
  refine keptRegs_each s (fun t p => ?_) _
  split
  · exact keptRegs_put (keptRegs_refl _ _) (List.mem_singleton_self _) _ _
  · exact keptRegs_refl _ _

theorem inReset_trainAll (n : Nat) : inReset (trainAll s) n = inReset s n := by
  rw [inReset, keptRegs_trainAll s _ _ (by decide)]
  rfl

theorem fnReady_trainAll (n : Nat) : fnReady (trainAll s) n = fnReady s n := by
  rw [fnReady, keptRegs_trainAll s _ _ (by decide)]
  rfl

end Sys2Proof.Machine
end

section
/-!
Power-on and the causes of a module reset (R460 to R464, R479, R480, R486): what the start of the sequence leaves, and what a module
reset leaves; O30 and O32.
-/
namespace Sys2Proof.Machine

/-! ### The start of the sequence -/

section Start
variable (s : State)

/-- The registers that show the foundation image (R74). -/
def foundFlds : List Fld :=
  [.secStat_found_active, .secStat_found_slot, .secStat_found_svn, .secStat_found_staged, .secFmeas_digest]

/-- The image that is active once a staged one has become so (R74). -/
def foundNow : Option Found :=
  match s.ctl.staged with
  | some f => some f
  | none => s.ctl.found

def foundTaken : State := { s with ctl := { s.ctl with found := foundNow s, staged := none } }

theorem foundTaken_of_none (h : s.ctl.staged = none) : foundTaken s = s := by
  rw [foundTaken, foundNow, h]
  dsimp only
  rw [← h]

theorem regsOnly_putDigest {s t : State} (h : RegsOnly s t) (f : Fld) (d : Nat) : RegsOnly s (putDigest t f d) :=
  regsOnly_put (regsOnly_put (regsOnly_put (regsOnly_put h ..) ..) ..) ..

theorem regsOnly_showFound {s t : State} (h : RegsOnly s t) (f : Found) : RegsOnly s (showFound t f) :=
  regsOnly_putDigest (regsOnly_put (regsOnly_put (regsOnly_put h ..) ..) ..) ..

theorem regsOnly_activateStaged : RegsOnly (foundTaken s) (activateStaged s) := by
  unfold activateStaged
  split
  case h_1 h =>
    rw [foundTaken_of_none s h]
    exact regsOnly_refl
  case h_2 f h =>
    have hnow : foundNow s = some f := by rw [foundNow, h]
    rw [foundTaken, hnow]
    exact regsOnly_showFound (regsOnly_put regsOnly_refl ..) f

theorem keptRegs_showFound {s t : State} (h : KeptRegs s t foundFlds) (f : Found) : KeptRegs s (showFound t f) foundFlds :=
  keptRegs_putDigest (keptRegs_put (keptRegs_put (keptRegs_put h (by decide) _ _) (by decide) _ _) (by decide) _ _) (by decide) _

theorem keptRegs_activateStaged : KeptRegs s (activateStaged s) foundFlds := by
  unfold activateStaged
  split
  case h_1 => exact keptRegs_refl _ _
  case h_2 f _ =>
    have htaken : KeptRegs s { s with ctl := { s.ctl with found := some f, staged := none } } foundFlds := keptRegs_of_regs_eq rfl rfl _
    exact keptRegs_showFound (keptRegs_put htaken (by decide) 0 0) f

/-- The registers that the start of the sequence writes. -/
def startFlds : List Fld := .rstStat_cause :: .rstCnt_module_resets :: .rstCnt_thermal_trips :: foundFlds

/-- Row 0 of the sequence, with the image that is active then. -/
def begun : State := { foundTaken s with pwr := { s.pwr with stage := 5 } }

/-- The counts of a cause (R464). -/
def resetsCounted (cause : Nat) : State := if cause = 0 then s else bump s .rstCnt_module_resets

def tripsCounted (cause : Nat) : State := if cause = 3 then bump s .rstCnt_thermal_trips else s

/-- The sequence's registers at its start. -/
def causeShown (cause : Nat) : State := tripsCounted (resetsCounted (activateStaged (put s .rstStat_cause cause)) cause) cause

theorem startSequence_eq (cause : Nat) :
    startSequence s cause = { causeShown s cause with pwr := { (causeShown s cause).pwr with stage := 5 } } := rfl

theorem regsOnly_causeShown (cause : Nat) : RegsOnly (foundTaken s) (causeShown s cause) := by
  have hstaged : RegsOnly (foundTaken s) (activateStaged (put s .rstStat_cause cause)) := by
    obtain ⟨r, hr⟩ := regsOnly_activateStaged (put s .rstStat_cause cause)
    exact ⟨r, hr⟩
  refine regsOnly_trans _ hstaged ?_
  unfold causeShown tripsCounted resetsCounted
  split <;> split
  · exact regsOnly_put regsOnly_refl ..
  · exact regsOnly_put (regsOnly_put regsOnly_refl ..) ..
  · exact regsOnly_refl
  · exact regsOnly_put regsOnly_refl ..

theorem regsOnly_startSequence (cause : Nat) : RegsOnly (begun s) (startSequence s cause) := by
  obtain ⟨r, hr⟩ := regsOnly_causeShown s cause
  rw [startSequence_eq, hr]
  exact ⟨r, rfl⟩

theorem get_startSequence_eq (cause : Nat) (f : Fld) (i : Nat) : get (startSequence s cause) f i = get (causeShown s cause) f i := rfl

theorem get_resetsCounted (cause : Nat) {f : Fld} (hf : f ≠ .rstCnt_module_resets) (i : Nat) :
    get (resetsCounted s cause) f i = get s f i := by
  unfold resetsCounted
  split
  · rfl
  · exact get_bump_fld _ _ _ _ hf

theorem get_tripsCounted (cause : Nat) {f : Fld} (hf : f ≠ .rstCnt_thermal_trips) (i : Nat) :
    get (tripsCounted s cause) f i = get s f i := by
  unfold tripsCounted
  split
  · exact get_bump_fld _ _ _ _ hf
  · rfl

theorem get_startSequence (cause : Nat) {f : Fld} (hmod : f ≠ .rstCnt_module_resets) (htrip : f ≠ .rstCnt_thermal_trips)
    (hfound : f ∉ foundFlds) (i : Nat) : get (startSequence s cause) f i = get (put s .rstStat_cause cause) f i := by
  rw [get_startSequence_eq, causeShown, get_tripsCounted _ _ htrip, get_resetsCounted _ _ hmod, keptRegs_activateStaged _ _ _ hfound]

theorem get_startSequence_cause {cause : Nat} (h : cause < 8) : get (startSequence s cause) .rstStat_cause 0 = cause := by
  rw [get_startSequence s cause (by decide) (by decide) (by decide), get_put_same]
  exact Nat.mod_eq_of_lt h

theorem get_startSequence_fld (cause : Nat) {f : Fld} (hf : f ∉ startFlds) (i : Nat) :
    get (startSequence s cause) f i = get s f i := by
  simp only [startFlds, List.mem_cons, not_or] at hf
  obtain ⟨hcause, hmod, htrip, hfound⟩ := hf
  rw [get_startSequence s cause hmod htrip hfound, get_put_fld _ _ _ _ hcause]

theorem counted_startSequence {cause : Nat} (h0 : cause ≠ 0) : Counted s (startSequence s cause) .rstCnt_module_resets 0 1 := by
  have hkept : get (activateStaged (put s .rstStat_cause cause)) .rstCnt_module_resets 0 = get s .rstCnt_module_resets 0 := by
    rw [keptRegs_activateStaged _ _ _ (by decide), get_put_fld _ _ _ _ (by decide)]
  rw [Counted, get_startSequence_eq, causeShown, get_tripsCounted _ _ (by decide), resetsCounted, if_neg h0, counted_bump, hkept]

theorem startSequence_mem (cause : Nat) : (startSequence s cause).mem = s.mem :=
  (regsOnly_mem (regsOnly_startSequence s cause)).trans rfl

end Start

/-! ### What a module reset leaves -/

section Causes
variable {s t u : State} {cause : Nat}

/-- Parts that a module reset keeps, and the parts it clears (R464, R465). -/
theorem enterModuleReset_leaves (s : State) : let t := enterModuleReset s
    t.mem = [] ∧ t.fuses = s.fuses ∧ t.time.tide = s.time.tide ∧ t.shp = ShapeSt.init ∧ t.cores = [] ∧ t.mmu = MmuSt.init ∧
    t.col = ColSt.init ∧ t.lnk = [] ∧ t.med = [] ∧ t.num = NumSt.init ∧ t.ctl.cps = [] ∧ t.ctl.load = none ∧ t.pwr.stage = 5 ∧
    t.pwr.holds = s.pwr.holds := by
  unfold enterModuleReset onlyIf
  dsimp only
  split <;> exact ⟨rfl, rfl, rfl, rfl, rfl, rfl, rfl, rfl, rfl, rfl, rfl, rfl, rfl, rfl⟩

theorem get_enterModuleReset_in_reset (s : State) : get (enterModuleReset s) .rstStat_in_reset 0 = 0x1FE := by
  rw [get_enterModuleReset, get_put_fld _ _ _ _ (by decide), get_put_same]
  rfl

theorem get_enterModuleReset_ready (s : State) : get (enterModuleReset s) .rstStat_ready 0 = 0 := by
  rw [get_enterModuleReset, get_put_same]
  rfl

theorem wasReset_moduleReset (s : State) (h : cause < 8) : WasReset s (moduleReset s cause) cause := by
  obtain ⟨r, hr⟩ := regsOnly_startSequence (enterModuleReset s) cause
  obtain ⟨hmem, hfuses, htide, hshp, hcores, hmmu, hcol, hlnk, hmed, hnum, hcps, hload, -, -⟩ := enterModuleReset_leaves s
  have hin : get (moduleReset s cause) .rstStat_in_reset 0 = 0x1FE :=
    (get_startSequence_fld _ cause (by decide) 0).trans (get_enterModuleReset_in_reset s)
  have hready : get (moduleReset s cause) .rstStat_ready 0 = 0 :=
    (get_startSequence_fld _ cause (by decide) 0).trans (get_enterModuleReset_ready s)
  refine ⟨hin, hready, get_startSequence_cause _ h, rdByte_of_no_mem ((startSequence_mem _ cause).trans hmem), ?_⟩
  rw [moduleReset, hr]
  exact ⟨hshp, hcores, hmmu, hcol, hlnk, hmed, hnum, hcps, hload, rfl, hfuses, htide⟩

theorem moduleReset_holds (s : State) (cause : Nat) : (moduleReset s cause).pwr.holds = s.pwr.holds := by
  obtain ⟨r, hr⟩ := regsOnly_startSequence (enterModuleReset s) cause
  obtain ⟨-, -, -, -, -, -, -, -, -, -, -, -, -, hholds⟩ := enterModuleReset_leaves s
  rw [moduleReset, hr]
  exact hholds

/-- Only the fuses and the tide of the state before count. -/
theorem wasReset_congr {s' : State} (hfuses : s'.fuses = s.fuses) (htide : s'.time.tide = s.time.tide) (h : WasReset s' t cause) :
    WasReset s t cause := by
  rwa [WasReset, ← hfuses, ← htide]

/-- Registers other than `RST_STAT` may change after. -/
theorem wasReset_of_regsOnly {l : List Fld} (h : WasReset s t cause) (hregs : RegsOnly t u) (hkept : KeptRegs t u l)
    (hl : ∀ f ∈ [Fld.rstStat_in_reset, .rstStat_ready, .rstStat_cause], f ∉ l) : WasReset s u cause := by
  obtain ⟨hin, hready, hcause, hrest⟩ := h
  simp only [List.forall_mem_cons, List.not_mem_nil, false_implies, implies_true, and_true] at hl
  refine ⟨(hkept _ _ hl.1).trans hin, (hkept _ _ hl.2.1).trans hready, (hkept _ _ hl.2.2).trans hcause, ?_⟩
  obtain ⟨r, rfl⟩ := hregs
  exact hrest

theorem wasReset_setHolds (h : WasReset s t cause) (x : Holds) : WasReset s (setHolds t x) cause := h

/-! ### Function resets that are taken over, and temperatures -/

/-- Nothing but registers, the control ports and what has left the module changes. -/
def SentOnly (s t : State) : Prop := ∃ r c o, t = { s with regs := r, ctl := c, out := o }

theorem sentOnly_answer (h : SentOnly s t) (x : CtlHdr) (op status code : Nat) (words : List Word) :
    SentOnly s (answer t x op status code words) := by
  obtain ⟨r, c, o, rfl⟩ := h
  obtain ⟨r', o', y, hy, -⟩ := exists_answer_eq { s with regs := r, ctl := c, out := o } x op status code words
  rw [hy]
  exact ⟨_, _, _, rfl⟩

theorem sentOnly_each {α : Type} {f : State → α → State} (hf : ∀ t x, SentOnly s t → SentOnly s (f t x)) (xs : List α)
    (h : SentOnly s t) : SentOnly s (each xs f t) := by
  induction xs generalizing t with
  | nil => exact h
  | cons x xs ih => exact ih (hf t x h)

theorem takeOverRst_keeps (s : State) : SentOnly { s with pwr := { s.pwr with rstWait := [] } } (takeOverRst s) :=
  sentOnly_each (fun _ x h => sentOnly_answer h x.1 0x21 5 0 []) _ ⟨s.regs, s.ctl, s.out, rfl⟩

theorem takeOverRst_holds (s : State) : (takeOverRst s).pwr.holds = s.pwr.holds := by
  obtain ⟨r, c, o, h⟩ := takeOverRst_keeps s
  rw [h]

theorem wasReset_takeOverRst (h : cause < 8) : WasReset s (moduleReset (takeOverRst s) cause) cause := by
  obtain ⟨r, c, o, hsent⟩ := takeOverRst_keeps s
  exact wasReset_congr (by rw [hsent]) (by rw [hsent]) (wasReset_moduleReset _ h)

theorem noteTemp_leaves (s : State) (x : Sensor) (n : Nat) :
    RegsOnly s (noteTemp s x n) ∧ KeptRegs s (noteTemp s x n) [.pwrTemp_die, .pwrTemp_hbm, .pwrTemp_io] := by
  cases x <;> exact ⟨regsOnly_put regsOnly_refl .., keptRegs_put (keptRegs_refl _ _) (by decide) _ _⟩

theorem regsOnly_pwr (h : RegsOnly s t) : t.pwr = s.pwr := by
  obtain ⟨r, rfl⟩ := h
  rfl

theorem regsOnly_fuses (h : RegsOnly s t) : t.fuses = s.fuses := by
  obtain ⟨r, rfl⟩ := h
  rfl

theorem get_setHolds (s : State) (x : Holds) (f : Fld) (i : Nat) : get (setHolds s x) f i = get s f i := rfl

theorem get_noteTemp_io (s : State) (temp : BitVec 8) : get (noteTemp s .io temp.toNat) .pwrTemp_io 0 = temp.toNat := by
  rw [noteTemp, get_put_same]
  exact Nat.mod_eq_of_lt temp.isLt

/-! ### The causes -/

theorem runs_holdNAssert (hpin : s.pwr.holds.pin = false) (hpow : powered s = true) : Runs .holdNAssert s (fun t =>
    t.pwr.holds = { s.pwr.holds with pin := true } ∧ get t .rstStat_in_reset 0 = 0x1FE ∧ get t .rstStat_ready 0 = 0 ∧
    (∀ a, rdByte t a = 0) ∧ t.pwr.stage = 5) := by
  obtain ⟨hmem, -, -, -, -, -, -, -, -, -, -, -, hstage, hholds⟩ := enterModuleReset_leaves (takeOverRst s)
  have hexec : exec .holdNAssert s = .next (setHolds (enterModuleReset (takeOverRst s))
      { (enterModuleReset (takeOverRst s)).pwr.holds with pin := true }) := by
    simp [exec, execHoldNAssert, hpin, hpow]
  refine ⟨_, hexec, ?_, get_enterModuleReset_in_reset _, get_enterModuleReset_ready _, rdByte_of_no_mem hmem, hstage⟩
  rw [hholds, takeOverRst_holds]
  rfl

theorem runs_holdNRelease (hpin : s.pwr.holds.pin = true) (hpow : powered s = true) : Runs .holdNRelease s (fun t =>
    t.pwr.holds = { s.pwr.holds with pin := false } ∧ t.pwr.stage = 5 ∧ get t .rstStat_cause 0 = 1 ∧
    Counted s t .rstCnt_module_resets 0 1 ∧ KeptMem s t) := by
  have hexec : exec .holdNRelease s = .next (startSequence (setHolds s { s.pwr.holds with pin := false }) 1) := by
    have hpow' : powered (setHolds s { s.pwr.holds with pin := false }) = true := hpow
    simp [exec, execHoldNRelease, hpin, hpow']
  have hpwr := regsOnly_pwr (regsOnly_startSequence (setHolds s { s.pwr.holds with pin := false }) 1)
  refine ⟨_, hexec, ?_, ?_, get_startSequence_cause _ (by decide), counted_startSequence (setHolds s _) (by decide),
    keptMem_of_mem_eq (startSequence_mem (setHolds s _) 1)⟩
  · rw [hpwr]
    rfl
  · rw [hpwr]
    rfl

theorem runs_modReset_due {n : Nat} (hat : s.pwr.resetAt = some n) (hdue : n ≤ s.time.ticks) :
    Runs .modResetTakesEffect s (fun t => WasReset s t 2 ∧ t.pwr.holds = s.pwr.holds) := by
  have hexec : exec .modResetTakesEffect s = .next (moduleReset (takeOverRst s) 2) := by
    simp [exec, execModResetTakesEffect, hat, onlyIf, hdue]
  refine ⟨_, hexec, wasReset_takeOverRst (by decide), ?_⟩
  rw [moduleReset_holds, takeOverRst_holds]

theorem runs_modReset_early {n : Nat} (hat : s.pwr.resetAt = some n) (hearly : s.time.ticks < n) :
    Runs .modResetTakesEffect s (fun t => t = s) := by
  refine ⟨s, ?_, rfl⟩
  simp [exec, execModResetTakesEffect, hat, onlyIf, Nat.not_le.mpr hearly]

theorem runs_thermalTrip {x : Sensor} {temp : BitVec 8} (hhot : tripAt x ≤ temp.toNat) (hpow : powered s = true)
    (hfree : s.pwr.holds.thermal = false) : Runs (.thermalTrip x temp) s (fun t => WasReset s t 3 ∧
      t.pwr.holds = { s.pwr.holds with thermal := true } ∧ (x = .io → get t .pwrTemp_io 0 = temp.toNat)) := by
  obtain ⟨hbefore, -⟩ := noteTemp_leaves s x temp.toNat
  obtain ⟨hregs, hkept⟩ := noteTemp_leaves (moduleReset (noteTemp s x temp.toNat) 3) x temp.toNat
  have hreset : WasReset s (moduleReset (noteTemp s x temp.toNat) 3) 3 :=
    wasReset_congr (regsOnly_fuses hbefore) (congrArg TimeSt.tide (regsOnly_time hbefore)) (wasReset_moduleReset _ (by decide))
  refine ⟨_, if_pos (by simp [hhot, hpow, hfree]), wasReset_setHolds (wasReset_of_regsOnly hreset hregs hkept (by decide)) _, ?_, ?_⟩
  · rw [regsOnly_pwr hregs, moduleReset_holds, regsOnly_pwr hbefore]
    rfl
  · rintro rfl
    rw [get_setHolds, get_noteTemp_io]

/-- An input fault or a loss of REFCLK: a module reset once power is on. -/
def faulted (s : State) : State := if powered s then moduleReset s 4 else s

theorem faulted_of_powered (h : powered s = true) : WasReset s (faulted s) 4 ∧ (faulted s).pwr.holds = s.pwr.holds := by
  rw [faulted, if_pos h]
  exact ⟨wasReset_moduleReset s (by decide), moduleReset_holds s 4⟩

theorem faulted_of_off (h : powered s = false) : faulted s = s := if_neg (Bool.eq_false_iff.mp h)

theorem exec_inputFault {v : BitVec 13} (hv : v.toNat < 4400 ∨ 5700 < v.toNat) (hfree : s.pwr.holds.input = false) :
    exec (.inputFault v) s = .next (setHolds (faulted s) { (faulted s).pwr.holds with input := true }) :=
  if_pos (by simpa [hfree] using hv)

theorem exec_refclkLoss (hfree : s.pwr.holds.refclk = false) :
    exec .refclkLoss s = .next (setHolds (faulted s) { (faulted s).pwr.holds with refclk := true }) :=
  if_neg (by simp [hfree])

end Causes

/-- Settles O32: each cause is a module reset, or the hold alone before power-on. -/
theorem causesResetTheModule : Obligations.CausesResetTheModule := by
  intro s
  refine ⟨runs_holdNAssert, runs_holdNRelease, fun n hat => ⟨runs_modReset_due hat, runs_modReset_early hat⟩,
    fun x temp => runs_thermalTrip, ?cleared, ?input, ?inputEarly, ?refclkEarly, ?refclk, ⟨_, rfl, rfl⟩⟩
  case cleared =>
    have honly := onlyRegs_put s .pwrTemp_io 0 0
    exact ⟨_, rfl, rfl, get_put_same s .pwrTemp_io 0 0, rfl, honly.2⟩
  case input =>
    intro v hv hpow hfree
    obtain ⟨hreset, hholds⟩ := faulted_of_powered hpow
    exact ⟨_, exec_inputFault hv hfree, wasReset_setHolds hreset _, by rw [hholds]; rfl⟩
  case inputEarly => exact fun hoff hfree v hv => ⟨_, exec_inputFault hv hfree, by rw [faulted_of_off hoff]; rfl⟩
  case refclkEarly => exact fun hoff hfree => ⟨_, exec_refclkLoss hfree, by rw [faulted_of_off hoff]; rfl⟩
  case refclk =>
    intro hfree hpow
    obtain ⟨hreset, hholds⟩ := faulted_of_powered hpow
    exact ⟨_, exec_refclkLoss hfree, wasReset_setHolds hreset _, by rw [hholds]; rfl⟩

end Sys2Proof.Machine
end

section
/-!
Power-on (R461, R479, R484, R488, R493) and the rows of the reset sequence (R464, R72); O30 and O31.
-/
namespace Sys2Proof.Machine

section
variable {s : State}

/-! ### Power at J3 -/

/-- The register map of power-on lists FN0's ready bits alone, as 0. -/
theorem get_of_none_ready {t : State} (h : t.regs = [(rkey .rstStat_ready 0, 0)]) {f : Fld} (hf : f ≠ .rstStat_ready) (i : Nat) :
    get t f i = fldReset t.fuses f i := by
  have hne : rkey f i ≠ rkey .rstStat_ready 0 := fun e => hf (rkey_inj e).1
  rw [get, h, mget, if_neg hne]
  rfl

theorem get_ready_of_none_ready {t : State} (h : t.regs = [(rkey .rstStat_ready 0, 0)]) : get t .rstStat_ready 0 = 0 := by
  rw [get, h, mget, if_pos rfl]

theorem getLsbD_straps (a1 a0 : Bool) : (BitVec.ofNat 2 (2 * bit a1 + bit a0)).getLsbD 0 = a0 ∧
    (BitVec.ofNat 2 (2 * bit a1 + bit a0)).getLsbD 1 = a1 := by
  cases a1 <;> cases a0 <;> decide

/-! ### POWER_ON -/

theorem exec_powerOn_of_good (hstage : s.pwr.stage = 6) (hrails : s.pwr.rails = true) (hclk : s.pwr.holds.refclk = false)
    (hpin : s.pwr.holds.pin = false) : exec .powerOn s = .next (startSequence (holdSample s) 0) := by
  simp [exec, execPowerOn, onlyIf, hstage, hrails, hclk, hpin]

theorem keptRegs_startSequence_zero (s : State) : KeptRegs s (startSequence s 0) (.rstStat_cause :: foundFlds) := by
  intro f i hf
  obtain ⟨hcause, hfound⟩ := List.ne_and_not_mem_of_not_mem_cons hf
  have hcounts : causeShown s 0 = activateStaged (put s .rstStat_cause 0) := rfl
  rw [get_startSequence_eq, hcounts, keptRegs_activateStaged _ _ _ hfound, get_put_fld _ _ _ _ hcause]

theorem runs_powerOn (hstage : s.pwr.stage = 6) (hrails : s.pwr.rails = true) (hclk : s.pwr.holds.refclk = false)
    (hpin : s.pwr.holds.pin = false) : Runs .powerOn s (fun t =>
      t.pwr.stage = 5 ∧ get t .rstStat_cause 0 = 0 ∧ KeptMem s t ∧ t.ctl.staged = none ∧ t.ctl.found = foundNow s ∧
      KeptRegs s t (.rstStat_cause :: foundFlds)) := by
  have hcause := get_startSequence_cause (holdSample s) (cause := 0) (by decide)
  have hkept := keptRegs_startSequence_zero (holdSample s)
  have hmem := startSequence_mem (holdSample s) 0
  obtain ⟨r, hr⟩ := regsOnly_startSequence (holdSample s) 0
  refine ⟨_, exec_powerOn_of_good hstage hrails hclk hpin, ?_⟩
  refine ⟨by rw [hr]; rfl, hcause, keptMem_of_mem_eq hmem, by rw [hr]; rfl, by rw [hr]; rfl, hkept⟩

/-! ### The rows of the reset sequence -/

theorem exec_resetSequenceStage : exec .resetSequenceStage s = .next (nextStage s) := rfl

theorem nextStage_five (h : s.pwr.stage = 5) (hpin : s.pwr.holds.pin = false) : nextStage s = fn0Ready s := by
  simp [nextStage, h, hpin]

theorem nextStage_four (h : s.pwr.stage = 4) :
    nextStage s = if s.ctl.found.isSome && noHolds s then leave78 s else s := by
  rw [nextStage, h]
  rfl

theorem nextStage_three (h : s.pwr.stage = 3) :
    nextStage s = if noHolds s then setStage (fnsReleased s [1, 2, 3, 4] [7, 1, 2, 3, 4]) 2 else s := by
  rw [nextStage, h]
  rfl

theorem nextStage_two (h : s.pwr.stage = 2) : nextStage s = if noHolds s then setStage (fnsReleased s [5] [5]) 1 else s := by
  rw [nextStage, h]
  rfl

/-- The last row, whose end is logged but on leaving Park (R452, R464). -/
def lastRow (s : State) : State :=
  let s1 := setStage (fnsReleased s [6] [6]) 0
  if powerOf s1 = 3 then s1 else logEvt s1 0x001 0 0 0 (get s1 .rstStat_cause) (get s1 .secStat_found_svn)

theorem nextStage_one (h : s.pwr.stage = 1) : nextStage s = if noHolds s then lastRow s else s := by
  rw [nextStage, h]
  rfl

theorem nextStage_of_held (hlo : 1 ≤ s.pwr.stage) (hhi : s.pwr.stage ≤ 4) (hheld : noHolds s = false) : nextStage s = s := by
  obtain h | h | h | h : s.pwr.stage = 1 ∨ s.pwr.stage = 2 ∨ s.pwr.stage = 3 ∨ s.pwr.stage = 4 := by omega
  · rw [nextStage_one h, hheld, if_neg Bool.false_ne_true]
  · rw [nextStage_two h, hheld, if_neg Bool.false_ne_true]
  · rw [nextStage_three h, hheld, if_neg Bool.false_ne_true]
  · rw [nextStage_four h, hheld, Bool.and_false, if_neg Bool.false_ne_true]

theorem fnReady_setStage (u : State) (n k : Nat) : fnReady (setStage u k) n = fnReady u n := rfl

theorem inReset_setStage (u : State) (n k : Nat) : inReset (setStage u k) n = inReset u n := rfl

theorem keptRegs_setStage (u : State) (k : Nat) (l : List Fld) : KeptRegs u (setStage u k) l := keptRegs_of_regs_eq rfl rfl l

theorem fn0Ready_leaves (s : State) : let t := fn0Ready s
    t.pwr.stage = 4 ∧ fnReady t 0 = true ∧ (∀ n < 9, n ≠ 0 → fnReady t n = fnReady s n) ∧
    t.out = s.out ++ (if s.pwr.waking then [.pin 1 false] else []) ∧ t.pwr.waking = false ∧
    OnlyRegs s { t with pwr := s.pwr, out := s.out } [.rstStat_ready] := by
  have hready (n : Nat) (hn : n < 9) : fnReady (makeReady s [0]) n = (fnReady s n || [0].contains n) := fnReady_makeReady s [0] hn
  have hself : fnReady (makeReady s [0]) 0 = true := by rw [hready 0 (by decide)]; simp
  have hother (n : Nat) (hn : n < 9) (h0 : n ≠ 0) : fnReady (makeReady s [0]) n = fnReady s n := by rw [hready n hn]; simp [h0]
  have hkept := keptRegs_makeReady s [0]
  unfold fn0Ready onlyIf
  dsimp only
  cases hwaking : s.pwr.waking with
  | true => exact ⟨rfl, hself, hother, rfl, rfl, rfl, hkept⟩
  | false => exact ⟨rfl, hself, hother, (List.append_nil _).symm, hwaking, rfl, hkept⟩

theorem leave78_eq (s : State) : leave78 s = setStage (trainAll (fnsReleased s [7, 8] [8])) 3 := rfl

theorem leave78_leaves (s : State) : let t := leave78 s
    t.pwr.stage = 3 ∧ fnReady t 8 = true ∧ inReset t 7 = false ∧ inReset t 8 = false ∧ (∀ n < 7, inReset t n = inReset s n) ∧
    KeptRegs s t [.rstStat_ready, .rstStat_in_reset, .lnkPstat_state] ∧ KeptMem s t := by
  have hin (n : Nat) (hn : n < 9) : inReset (leave78 s) n = (inReset s n && !([7, 8].contains n)) := by
    rw [leave78_eq, inReset_setStage, inReset_trainAll, inReset_fnsReleased _ _ _ hn]
  have hkept : KeptRegs s (leave78 s) [.rstStat_ready, .rstStat_in_reset, .lnkPstat_state] := by
    rw [leave78_eq]
    exact keptRegs_trans (keptRegs_mono (keptRegs_fnsReleased s [7, 8] [8]) (by decide))
      (keptRegs_trans (keptRegs_mono (keptRegs_trainAll _) (by decide)) (keptRegs_setStage _ 3 _))
  have hmem : (leave78 s).mem = s.mem := by
    rw [leave78_eq, setStage_mem, regsOnly_mem (regsOnly_trainAll _), regsOnly_mem (regsOnly_fnsReleased ..)]
  refine ⟨rfl, ?_, by rw [hin 7 (by decide)]; simp, by rw [hin 8 (by decide)]; simp, fun n hn => ?_, hkept, keptMem_of_mem_eq hmem⟩
  · rw [leave78_eq, fnReady_setStage, fnReady_trainAll, fnReady_fnsReleased _ _ _ (by decide)]
    simp
  · rw [hin n (by omega)]
    simp [show n ≠ 7 by omega, show n ≠ 8 by omega]

/-- A row that only lets functions out of reset. -/
theorem fnsReleased_leaves (s : State) (out ready : List Nat) (k : Nat) : let t := setStage (fnsReleased s out ready) k
    t.pwr.stage = k ∧ (∀ n ∈ ready, n < 9 → fnReady t n = true) ∧ (∀ n ∈ out, n < 9 → inReset t n = false) ∧
    OnlyRegs s { t with pwr := s.pwr } [.rstStat_ready, .rstStat_in_reset] := by
  refine ⟨rfl, fun n hn h9 => ?_, fun n hn h9 => ?_, ?_, keptRegs_fnsReleased s out ready⟩
  · rw [fnReady_setStage, fnReady_fnsReleased s out ready h9]
    simp [hn]
  · rw [inReset_setStage, inReset_fnsReleased s out ready h9]
    simp [hn]
  · exact regsOnly_rest (regsOnly_fnsReleased s out ready)

/-- The event of the last row leaves the masks. -/
theorem lastRow_leaves (s : State) : let t := lastRow s
    t.pwr.stage = 0 ∧ fnReady t 6 = true ∧ inReset t 6 = false ∧ KeptRegs s t (.rstStat_ready :: .rstStat_in_reset :: eventFlds) ∧
    KeptMem s t := by
  obtain ⟨hstage, hready, hin, hregs, hkept⟩ := fnsReleased_leaves s [6] [6] 0
  have hmem : (setStage (fnsReleased s [6] [6]) 0).mem = s.mem := (congrArg State.mem hregs :)
  have hkept' : KeptRegs s (setStage (fnsReleased s [6] [6]) 0) (.rstStat_ready :: .rstStat_in_reset :: eventFlds) :=
    keptRegs_mono hkept (by decide)
  unfold lastRow
  dsimp only
  split
  · exact ⟨rfl, hready 6 (by decide) (by decide), hin 6 (by decide) (by decide), hkept', keptMem_of_mem_eq hmem⟩
  · have hlog := keptRegs_logEvt (setStage (fnsReleased s [6] [6]) 0) 0x001 0 0 0
      (get (setStage (fnsReleased s [6] [6]) 0) .rstStat_cause) (get (setStage (fnsReleased s [6] [6]) 0) .secStat_found_svn)
    obtain ⟨r, e, o, h⟩ := exists_logEvt_eq (setStage (fnsReleased s [6] [6]) 0) 0x001 0 0 0
      (get (setStage (fnsReleased s [6] [6]) 0) .rstStat_cause) (get (setStage (fnsReleased s [6] [6]) 0) .secStat_found_svn)
    refine ⟨by rw [h]; rfl, ?_, ?_, keptRegs_trans hkept' (keptRegs_mono hlog (by decide)),
      keptMem_of_mem_eq ((logEvt_mem ..).trans hmem)⟩
    · exact (congrArg (tst · 6) (hlog .rstStat_ready 0 (by decide))).trans (hready 6 (by decide) (by decide))
    · exact (congrArg (tst · 6) (hlog .rstStat_in_reset 0 (by decide))).trans (hin 6 (by decide) (by decide))

end

/-- Settles O30: power-on starts from reset, and the sequence from row 0. -/
theorem powerOnStartsClean : Obligations.PowerOnStartsClean := by
  intro s
  refine ⟨fun v a1 a0 hv => ?applied, fun v a1 a0 hv => ⟨s, if_pos hv, rfl⟩, fun hin hrails => ⟨_, rfl, if_pos (by simp [hin, hrails])⟩,
    runs_powerOn, fun hstage => ⟨s, ?_, rfl⟩⟩
  case applied =>
    obtain ⟨h0, h1⟩ := getLsbD_straps a1 a0
    refine ⟨_, if_neg (Nat.not_lt.mpr hv), rfl, rfl, rdByte_of_no_mem rfl, get_ready_of_none_ready rfl,
      fun f i hf => get_of_none_ready rfl hf i, rfl, rfl, rfl, rfl, rfl, rfl, rfl, rfl, rfl, rfl, rfl, rfl, rfl, rfl, rfl, rfl, h0, h1⟩
  · simp [exec, execPowerOn, onlyIf, hstage]

/-- Settles O31: row by row. -/
theorem resetSequenceRows : Obligations.ResetSequenceRows := by
  intro s
  refine ⟨fun h hpin => ?five, fun h hfound hfree => ?four, fun h hnone => ?noImage, fun h hfree => ?three, fun h hfree => ?two,
    fun h hfree => ?one, fun hlo hhi hheld => ⟨s, ?held, rfl⟩⟩
  case five =>
    refine ⟨_, exec_resetSequenceStage, ?_⟩
    rw [nextStage_five h hpin]
    exact fn0Ready_leaves s
  case four =>
    refine ⟨_, exec_resetSequenceStage, ?_⟩
    rw [nextStage_four h, hfree, Option.isSome_iff_ne_none.mpr hfound]
    exact leave78_leaves s
  case noImage =>
    refine ⟨_, exec_resetSequenceStage, ?_⟩
    rw [nextStage_four h, hnone]
    rfl
  case three =>
    refine ⟨_, exec_resetSequenceStage, ?_⟩
    rw [nextStage_three h, if_pos hfree]
    obtain ⟨hstage, hready, hin, honly⟩ := fnsReleased_leaves s [1, 2, 3, 4] [7, 1, 2, 3, 4] 2
    exact ⟨hstage, fun n hn => hready n (by revert n; decide) (by revert n; decide),
      fun n hn => hin n hn (by revert n; decide), honly⟩
  case two =>
    refine ⟨_, exec_resetSequenceStage, ?_⟩
    rw [nextStage_two h, if_pos hfree]
    obtain ⟨hstage, hready, hin, honly⟩ := fnsReleased_leaves s [5] [5] 1
    exact ⟨hstage, hready 5 (by decide) (by decide), hin 5 (by decide) (by decide), honly⟩
  case one =>
    refine ⟨_, exec_resetSequenceStage, ?_⟩
    rw [nextStage_one h, if_pos hfree]
    exact lastRow_leaves s
  case held => rw [exec_resetSequenceStage, nextStage_of_held hlo hhi hheld]

end Sys2Proof.Machine
end

section
/-!
MOD_RESET, RST_FN and POWER_STATE (R447, R448, R462, R466), and the ends of function resets and power transitions (R448 to R452, R466,
R468); O25 and O34.
-/
namespace Sys2Proof.Machine

/-! ### Answers to any command -/

section
variable {s u : State} {h : CtlHdr} {i : Instr}

/-- An answer changes the registers that its response counts in, and no others. -/
theorem get_answer (s : State) (h : CtlHdr) (op status code : Nat) (words : List Word) (f : Fld) (k : Nat) :
    get (answer s h op status code words) f k = get (sendResp s (respTo h op status code words)) f k := by
  unfold answer
  dsimp only
  rw [each_emit]
  rfl

theorem keptRegs_answer (s : State) (h : CtlHdr) (op status code : Nat) (words : List Word) :
    KeptRegs s (answer s h op status code words) [statusFld status] := fun f k hf => by
  rw [get_answer]
  exact keptRegs_sendResp s (respTo h op status code words) f k hf

theorem counted_refused_answer (s : State) (h : CtlHdr) (op : Nat) {status : Nat} (code : Nat) (words : List Word) (hr : 1 < status) :
    Counted s (answer s h op status code words) .ctlCmdCnt_refused 0 1 := by
  rw [Counted, get_answer]
  exact counted_refused_sendResp s (r := respTo h op status code words) hr

theorem runs_mono {P Q : State → Prop} (h : Runs i s P) (hPQ : ∀ t, P t → Q t) : Runs i s Q :=
  let ⟨t, hexec, ht⟩ := h
  ⟨t, hexec, hPQ t ht⟩

/-! ### MOD_RESET -/

/-- The reset that MOD_RESET brings is set for 10 µs later, unless one is set already. -/
def resetSet (s : State) : State :=
  { s with pwr := { s.pwr with resetAt := some (s.pwr.resetAt.getD (s.time.ticks + 10000)) } }

theorem takeOverRst_of_none (hw : s.pwr.rstWait = []) : takeOverRst s = s := by
  rw [takeOverRst, hw]
  have hself : { s with pwr := { s.pwr with rstWait := s.pwr.rstWait } } = s := rfl
  rw [hw] at hself
  exact hself

theorem runModReset_of_front (hstart : StartsNow s h (.modReset h)) (hw : s.pwr.rstWait = []) :
    runModReset (atFront s h (.modReset h)) h = answer (resetSet (atFront s h (.modReset h))) h 0x20 0 0 [] := by
  obtain ⟨⟨hhdr, -, -, hfresh⟩, -⟩ := hstart
  rw [runModReset, takeOverRst_of_none (s := atFront s h (.modReset h)) hw, answer_of_front hhdr hfresh rfl,
    answer_of_front (u := resetSet (atFront s h (.modReset h))) hhdr hfresh rfl]
  rfl

theorem pwr_of_finished {t : State} {status : Nat} (hf : Finished u t status) : t.pwr = u.pwr := (congrArg State.pwr hf.1 :)

theorem runs_modReset (hstart : StartsNow s h (.modReset h)) (hw : s.pwr.rstWait = []) : Runs (.modReset h) s (fun t =>
    t.pwr.resetAt = some (s.pwr.resetAt.getD (s.time.ticks + 10000)) ∧ Answers s t h 0x20 0 0 [] ∧
    KeptRegs s t [.ctlCmdCnt_executed] ∧ KeptMem s t) := by
  refine runs_mono (runs_answer hstart (runModReset_of_front hstart hw) rfl rfl) fun t ⟨hans, hfin⟩ => ?_
  exact ⟨by rw [pwr_of_finished hfin]; rfl, hans, hfin.2, keptMem_of_finished hfin rfl⟩

/-! ### RST_FN -/

/-- A command that starts now and only answers. -/
theorem runs_answered (hstart : StartsNow s h i) {op status code : Nat} {words : List Word}
    (hbody : runBody (atFront s h i) i = answer (atFront s h i) h op status code words) :
    Runs i s (fun t => t.pwr = s.pwr ∧ Answers s t h op status code words ∧ KeptMem s t) := by
  refine runs_mono (runs_answer hstart hbody rfl rfl) fun t ⟨hans, hfin⟩ => ?_
  exact ⟨(pwr_of_finished hfin).trans rfl, hans, keptMem_of_finished hfin rfl⟩

section RstFn
variable {mask : BitVec 9}

theorem runRstFn_of_barred (hbar : powerOf u = 3 ∨ resetInProgress u = true) : runRstFn u h mask = answer u h 0x21 5 0 [] :=
  if_pos hbar

theorem runRstFn_of_none_new (hpow : powerOf u ≠ 3) (hfree : resetInProgress u = false) (hnone : newlyReset u mask = 0) :
    runRstFn u h mask = answer u h 0x21 0 0 [] := by
  simp [runRstFn, hpow, hfree, hnone]

/-- The functions enter reset, and the command waits for them. -/
theorem runRstFn_of_new (hpow : powerOf u ≠ 3) (hfree : resetInProgress u = false) (hnew : newlyReset u mask ≠ 0) :
    let m := newlyReset u mask
    let s1 := bumpW (logEvt (enterFnReset u m.toNat) 0x002 0 0 0 m.toNat 0) .rstCnt_fn_resets (maskCount m)
    runRstFn u h mask = acceptCmd { s1 with pwr := { s1.pwr with rstWait := s1.pwr.rstWait ++ [(h, m)] } } h.port := by
  intro m s1
  rw [runRstFn, if_neg (by simp [hpow, hfree])]
  exact if_neg hnew

theorem exec_rstFn_of_new (hstart : StartsNow s h (.rstFn h mask)) (hpow : powerOf s ≠ 3) (hfree : resetInProgress s = false)
    (hnew : newlyReset s mask ≠ 0) :
    let m := newlyReset s mask
    let s1 := bumpW (logEvt (enterFnReset (atFront s h (.rstFn h mask)) m.toNat) 0x002 0 0 0 m.toNat 0) .rstCnt_fn_resets (maskCount m)
    exec (.rstFn h mask) s =
      .next (pumpPorts (acceptCmd { s1 with pwr := { s1.pwr with rstWait := s1.pwr.rstWait ++ [(h, m)] } } h.port)) := by
  intro m s1
  rw [exec_of_startsNow hstart]
  exact congrArg (fun t => Host.Outcome.next (pumpPorts t)) (runRstFn_of_new (u := atFront s h (.rstFn h mask)) hpow hfree hnew)

end RstFn

/-! ### POWER_STATE -/

section PowerState
variable {target : BitVec 2} {epoch : BitVec 48}

theorem runPowerState_of_barred (hbar : powerOf u = 3 ∨ transOk u (powerOf u) target.toNat = false) :
    runPowerState u h target epoch = answer u h 0x22 5 0 [] := if_pos hbar

theorem runPowerState_of_late (hpow : powerOf u ≠ 3) (hok : transOk u (powerOf u) target.toNat = true)
    (hlate : epoch.toNat * 65536 < u.time.tide + guardNs u) : runPowerState u h target epoch = answer u h 0x22 1 0x0A [] := by
  rw [runPowerState, if_neg (by simp [hpow, hok]), if_pos hlate]

/-- The transition waits for its epoch. -/
def transPending (u : State) (h : CtlHdr) (target : BitVec 2) (epoch : BitVec 48) : State :=
  { u with pwr := { u.pwr with pend := some ⟨target.toNat, epoch.toNat, h⟩ } }

theorem runPowerState_of_onTime (hpow : powerOf u ≠ 3) (hok : transOk u (powerOf u) target.toNat = true)
    (htime : u.time.tide + guardNs u ≤ epoch.toNat * 65536) :
    runPowerState u h target epoch = transPending (freePort (replacePower u) h.port) h target epoch := by
  rw [runPowerState, if_neg (by simp [hpow, hok]), if_neg (Nat.not_lt.mpr htime)]
  rfl

theorem exec_powerState_of_onTime (hstart : StartsNow s h (.powerState h target epoch)) (hpow : powerOf s ≠ 3)
    (hok : transOk s (powerOf s) target.toNat = true) (htime : s.time.tide + guardNs s ≤ epoch.toNat * 65536)
    (hqueue : ∀ p, (cpOf (replacePower (atFront s h (.powerState h target epoch))) p).queue = (cpOf s p).queue) :
    exec (.powerState h target epoch) s = .next
      (transPending (freePort (replacePower (atFront s h (.powerState h target epoch))) h.port) h target epoch) := by
  have hexec := exec_of_startsNow hstart
  have hbody : runBody (atFront s h (.powerState h target epoch)) (.powerState h target epoch) =
      transPending (freePort (replacePower (atFront s h (.powerState h target epoch))) h.port) h target epoch :=
    runPowerState_of_onTime (u := atFront s h (.powerState h target epoch)) hpow hok htime
  obtain ⟨-, -, hqueues, -⟩ := hstart
  have hidle (p : Cp) : (cpOf (transPending (freePort (replacePower (atFront s h (.powerState h target epoch))) h.port) h target epoch)
      p).queue = [] := ((queue_freePort _ h.port p).trans (hqueue p)).trans (hqueues p)
  rwa [hbody, pumpPorts_of_queues_nil _ hidle] at hexec

/-- What the port and the transition that waits leave of the state before. -/
theorem transPending_freePort_leaves (u : State) : let t := transPending (freePort u h.port) h target epoch
    t.pwr = { u.pwr with pend := some ⟨target.toNat, epoch.toNat, h⟩ } ∧ (cpOf t h.port).busy = none ∧ t.out = u.out ∧
    KeptRegs u t [] ∧ KeptMem u t :=
  ⟨rfl, cpOf_freePort_busy u h.port, rfl, keptRegs_of_regs_eq rfl rfl _, keptMem_of_mem_eq rfl⟩

theorem replacePower_of_none (h : u.pwr.pend = none) : replacePower u = u := by
  rw [replacePower, h]

def transCleared (u : State) : State := { u with pwr := { u.pwr with pend := none } }

theorem replacePower_leaves {x : PowerTrans} (hx : u.pwr.pend = some x) : let r := replacePower u
    r.pwr = { u.pwr with pend := none } ∧ (∃ l, r.out = u.out ++ .resp (respTo x.hdr 0x22 5 0 []) :: l) ∧ r.mem = u.mem ∧
    (∀ p, (cpOf r p).queue = (cpOf u p).queue) ∧ Counted u r .ctlCmdCnt_refused 0 1 ∧ KeptRegs u r [.ctlCmdCnt_refused] := by
  have hr : replacePower u = answer (transCleared u) x.hdr 0x22 5 0 [] := by rw [replacePower, hx, transCleared]
  have hcounted := counted_refused_answer (transCleared u) x.hdr 0x22 (status := 5) 0 [] (by decide)
  have hkept := keptRegs_answer (transCleared u) x.hdr 0x22 5 0 []
  obtain ⟨r, o, y, hanswer, hqueue⟩ := exists_answer_eq (transCleared u) x.hdr 0x22 5 0 []
  rw [hr]
  refine ⟨?_, ⟨o, ?_⟩, ?_, fun p => ?_, hcounted, hkept⟩
  · rw [hanswer]
    rfl
  · rw [hanswer]
    rfl
  · rw [hanswer]
    rfl
  · rw [hanswer]
    exact queue_setCp _ y hqueue p

theorem runs_powerState_waits (hstart : StartsNow s h (.powerState h target epoch)) (hpow : powerOf s ≠ 3)
    (hok : transOk s (powerOf s) target.toNat = true) (htime : s.time.tide + guardNs s ≤ epoch.toNat * 65536)
    (hnone : s.pwr.pend = none) : Runs (.powerState h target epoch) s (fun t =>
      t.pwr = { s.pwr with pend := some ⟨target.toNat, epoch.toNat, h⟩ } ∧ (cpOf t h.port).busy = none ∧ t.out = s.out ∧
      KeptRegs s t [] ∧ KeptMem s t) := by
  have hsame : replacePower (atFront s h (.powerState h target epoch)) = atFront s h (.powerState h target epoch) :=
    replacePower_of_none hnone
  refine ⟨_, exec_powerState_of_onTime hstart hpow hok htime fun p => by rw [hsame, queue_atFront], ?_⟩
  rw [hsame]
  exact transPending_freePort_leaves (atFront s h (.powerState h target epoch))

theorem runs_powerState_replaces (hstart : StartsNow s h (.powerState h target epoch)) (hpow : powerOf s ≠ 3)
    (hok : transOk s (powerOf s) target.toNat = true) (htime : s.time.tide + guardNs s ≤ epoch.toNat * 65536)
    {x : PowerTrans} (hsome : s.pwr.pend = some x) : Runs (.powerState h target epoch) s (fun t =>
      t.pwr = { s.pwr with pend := some ⟨target.toNat, epoch.toNat, h⟩ } ∧ (cpOf t h.port).busy = none ∧
      (∃ l, t.out = s.out ++ Out.resp ⟨x.hdr.port, x.hdr.src, x.hdr.seq, 0x22, x.hdr.job, 5, 0, []⟩ :: l) ∧
      Counted s t .ctlCmdCnt_refused 0 1 ∧ KeptRegs s t [.ctlCmdCnt_refused] ∧ KeptMem s t) := by
  obtain ⟨hrpwr, ⟨l, hl⟩, hrmem, hqueues, hcounted, hkept⟩ := replacePower_leaves (u := atFront s h (.powerState h target epoch)) hsome
  obtain ⟨hpwr, hbusy, hout, hregs, hmem⟩ := transPending_freePort_leaves (h := h) (target := target) (epoch := epoch)
    (replacePower (atFront s h (.powerState h target epoch)))
  refine ⟨_, exec_powerState_of_onTime hstart hpow hok htime fun p => (hqueues p).trans (queue_atFront p), ?_, hbusy,
    ⟨l, hout.trans hl⟩, ?_, keptRegs_trans hkept (keptRegs_mono hregs (List.nil_subset _)),
    fun a => (hmem a).trans (keptMem_of_mem_eq hrmem a)⟩
  · rw [hpwr, hrpwr]
    rfl
  · rw [Counted, hregs _ _ List.not_mem_nil]
    exact hcounted

end PowerState
end

/-- Settles O25: each command by what bars it, and by what it replaces or resets. -/
theorem resetAndPowerCommands : Obligations.ResetAndPowerCommands := by
  intro h s
  refine ⟨runs_modReset, fun mask hstart => ⟨fun hbar => ?_, fun hpow hfree hnone => ?_, exec_rstFn_of_new hstart⟩,
    fun target epoch hstart => ⟨fun hbar => ?_, fun hpow hok hlate => ?_, runs_powerState_waits hstart,
      fun hpow hok htime x => runs_powerState_replaces hstart hpow hok htime⟩⟩
  · exact runs_mono (runs_answered hstart (runRstFn_of_barred (u := atFront s h _) hbar)) fun t ⟨_, hrest⟩ => hrest
  · exact runs_mono (runs_answered hstart (runRstFn_of_none_new (u := atFront s h _) hpow hfree hnone)) fun t ⟨_, hrest⟩ => hrest
  · exact runs_mono (runs_answered hstart (runPowerState_of_barred (u := atFront s h _) hbar)) fun t ⟨hpwr, hans, _⟩ => ⟨hpwr, hans⟩
  · exact runs_mono (runs_answered hstart (runPowerState_of_late (u := atFront s h _) hpow hok hlate)) fun t ⟨hpwr, hans, _⟩ => ⟨hpwr, hans⟩

end Sys2Proof.Machine
end

section
/-!
The ends of function resets and of power transitions (R448 to R452, R466, R468); O34.
-/
namespace Sys2Proof.Machine

variable {s : State}

/-! ### A function leaves reset -/

/-- The links of FN8 train as it leaves reset. -/
def linksTrained (s : State) (n : Nat) : State := if n = 8 then trainAll s else s

/-- While a shape image is active the function lacks its structure (R92). -/
def staleNoted (s : State) (n : Nat) : State :=
  if s.shp.anyActive then put s .shpStat_stale_fn (get s .shpStat_stale_fn ||| 2 ^ n) else s

/-- The masks of `RST_STAT` are those of the functions released. -/
theorem masks_staleNoted (s : State) (n k : Nat) : inReset (staleNoted (linksTrained s n) n) k = inReset s k ∧
    fnReady (staleNoted (linksTrained s n) n) k = fnReady s k := by
  have htrained : inReset (linksTrained s n) k = inReset s k ∧ fnReady (linksTrained s n) k = fnReady s k := by
    unfold linksTrained
    split
    · exact ⟨inReset_trainAll s k, fnReady_trainAll s k⟩
    · exact ⟨rfl, rfl⟩
  have hstale (u : State) : inReset (staleNoted u n) k = inReset u k ∧ fnReady (staleNoted u n) k = fnReady u k := by
    unfold staleNoted
    split
    · rw [inReset, get_put_fld _ _ _ _ (by decide), fnReady, get_put_fld _ _ _ _ (by decide)]
      exact ⟨rfl, rfl⟩
    · exact ⟨rfl, rfl⟩
  exact ⟨(hstale _).1.trans htrained.1, (hstale _).2.trans htrained.2⟩

/-- One function leaves reset and is ready, and the others stay as they are. -/
theorem fnsReleased_one (s : State) {n : Nat} (hn : n < 9) : let t := staleNoted (linksTrained (fnsReleased s [n] [n]) n) n
    inReset t n = false ∧ fnReady t n = true ∧ (∀ k < 9, k ≠ n → inReset t k = inReset s k ∧ fnReady t k = fnReady s k) := by
  have hmasks := masks_staleNoted (fnsReleased s [n] [n]) n
  refine ⟨?_, ?_, fun k hk hne => ⟨?_, ?_⟩⟩
  · rw [(hmasks n).1, inReset_fnsReleased s _ _ hn]
    simp
  · rw [(hmasks n).2, fnReady_fnsReleased s _ _ hn]
    simp
  · rw [(hmasks k).1, inReset_fnsReleased s _ _ hk]
    simp [hne]
  · rw [(hmasks k).2, fnReady_fnsReleased s _ _ hk]
    simp [hne]

theorem exec_functionResetComplete_of_waiting {fn : Fn} (hin : inReset s fn.val = true)
    (hwait : s.pwr.rstWait.any (fun x => x.2.getLsbD fn.val) = true) : exec (.functionResetComplete fn) s =
      .next (answerRsts (staleNoted (linksTrained (fnsReleased s [fn.val] [fn.val]) fn.val) fn.val)) := by
  have hcond : (inReset s fn.val && s.pwr.rstWait.any (fun x => x.2.getLsbD fn.val)) = true := by rw [hin, hwait, Bool.and_self]
  exact congrArg Host.Outcome.next (if_pos hcond)

theorem exec_functionResetComplete_of_idle {fn : Fn}
    (hidle : inReset s fn.val = false ∨ s.pwr.rstWait.all (fun x => !x.2.getLsbD fn.val) = true) :
    exec (.functionResetComplete fn) s = .next s := by
  refine congrArg Host.Outcome.next (if_neg ?_)
  rw [Bool.and_eq_true, not_and_or]
  refine hidle.imp Bool.eq_false_iff.mp fun hall => Bool.eq_false_iff.mp (List.any_eq_false.mpr fun x hx => ?_)
  simpa using List.all_eq_true.mp hall x hx

/-! ### A power transition ends -/

/-- What a power state's entry leaves of the power manager and the fuses. -/
def PowerKept (s t : State) : Prop := t.pwr = s.pwr ∧ t.fuses = s.fuses

theorem powerKept_logEvt (s : State) (code fn job step d0 d1 : Nat) : PowerKept s (logEvt s code fn job step d0 d1) := by
  obtain ⟨r, e, o, h⟩ := exists_logEvt_eq s code fn job step d0 d1
  rw [h]
  exact ⟨rfl, rfl⟩

theorem powerKept_trans {t u : State} (hst : PowerKept s t) (htu : PowerKept t u) : PowerKept s u :=
  ⟨htu.1.trans hst.1, htu.2.trans hst.2⟩

theorem powerKept_answer (s : State) (h : CtlHdr) (op status code : Nat) (words : List Word) :
    PowerKept s (answer s h op status code words) := by
  obtain ⟨r, o, x, hx, -⟩ := exists_answer_eq s h op status code words
  rw [hx]
  exact ⟨rfl, rfl⟩

theorem powerKept_loseParent (s : State) : PowerKept s (loseParent s) := by
  unfold loseParent loseSync
  split
  · split
    · exact powerKept_trans ⟨rfl, rfl⟩ (powerKept_logEvt (enterHoldover s) 0x010 0 0 0 _ _)
    · exact ⟨rfl, rfl⟩
  · exact ⟨rfl, rfl⟩

theorem powerKept_enterState (s : State) (prev target : Nat) : PowerKept s (enterState s prev target) := by
  unfold enterState
  split
  · exact powerKept_trans (powerKept_loseParent s) ⟨rfl, rfl⟩
  · dsimp only
    split <;> split <;> exact ⟨rfl, rfl⟩

/-- The transition's end: the target state is entered, shown, logged and answered. -/
def transitionEnded (s : State) (p : PowerTrans) : State :=
  answer (logEvt (put (enterState { s with pwr := { s.pwr with active := none } } s.pwr.prev p.target) .pwrStat_state p.target)
    0x003 0 0 0 p.target s.pwr.prev) p.hdr 0x22 0 0 []

theorem exec_powerTransitionDone_of_active {p : PowerTrans} (hp : s.pwr.active = some p) (hdone : s.pwr.prev = 2 → s.pwr.stage = 0) :
    exec .powerTransitionDone s = .next (transitionEnded s p) := by
  have hgo : ¬(s.pwr.prev = 2 ∧ s.pwr.stage ≠ 0) := fun h => h.2 (hdone h.1)
  rw [exec, execPowerTransitionDone, hp]
  exact if_neg hgo

theorem exec_powerTransitionDone_of_leaving {p : PowerTrans} (hp : s.pwr.active = some p) (hprev : s.pwr.prev = 2)
    (hstage : s.pwr.stage ≠ 0) : exec .powerTransitionDone s = .next s := by
  rw [exec, execPowerTransitionDone, hp]
  exact if_pos ⟨hprev, hstage⟩

theorem exec_powerTransitionDone_of_none (hp : s.pwr.active = none) : exec .powerTransitionDone s = .next s := by
  rw [exec, execPowerTransitionDone, hp]

theorem transitionEnded_leaves (s : State) (p : PowerTrans) : let t := transitionEnded s p
    get t .pwrStat_state 0 = p.target % 4 ∧ t.pwr.active = none ∧ t.fuses = s.fuses := by
  obtain ⟨hpwr, hfuses⟩ := powerKept_trans
    (powerKept_enterState { s with pwr := { s.pwr with active := none } } s.pwr.prev p.target)
    (powerKept_trans ⟨rfl, rfl⟩ (powerKept_trans (powerKept_logEvt (put _ .pwrStat_state p.target) 0x003 0 0 0 p.target s.pwr.prev)
      (powerKept_answer _ p.hdr 0x22 0 0 [])))
  refine ⟨?_, congrArg PwrSt.active hpwr, hfuses⟩
  rw [transitionEnded, keptRegs_answer _ _ _ _ _ _ _ _ (by decide), get_logEvt_ne _ _ _ _ _ _ _ (by decide), get_put_same]
  rfl

/-- Settles O34: a reset's end by the masks it leaves, a transition's by what its target's entry leaves. -/
theorem resetsAndTransitionsEnd : Obligations.ResetsAndTransitionsEnd := by
  intro s
  refine ⟨fun fn hin hwait => ⟨_, exec_functionResetComplete_of_waiting hin hwait, rfl, fnsReleased_one s fn.isLt⟩,
    fun fn hidle => ⟨s, exec_functionResetComplete_of_idle hidle, rfl⟩,
    fun p hp hdone => ⟨_, exec_powerTransitionDone_of_active hp hdone, rfl, transitionEnded_leaves s p⟩,
    fun hp => ⟨s, exec_powerTransitionDone_of_none hp, rfl⟩,
    fun p hp hprev hstage => ⟨s, exec_powerTransitionDone_of_leaving hp hprev hstage, rfl⟩⟩

end Sys2Proof.Machine
end

section
/-!
The event log (R471 to R474, R484): where an event stands, what it counts in, and what gives entries back; O36.
-/
namespace Sys2Proof.Machine

/-! ### An event in a log with room -/

section Log
variable (s : State) (w : List Word)

/-- The entry stands in its place, and is counted as unread. -/
def logged : State :=
  put (bumpW (put { s with evt := placeEvt (get s .evtStat_unread) s.evt (get s .evtHead_head) w } .evtHead_head
    (get s .evtHead_head + 1)) .evtHead_total) .evtStat_unread (get s .evtStat_unread + 1)

/-- ALERT_N follows an event that raises it. -/
def alerted (b : Bool) (s : State) : State := if b then setAlert s else s

theorem logEvt_of_room {code fn job step d0 d1 : Nat} (h : get s .evtStat_unread < 1024) :
    logEvt s code fn job step d0 d1 =
      let t := alerted (alertCode s code) (logged s (evtWords s code fn job step d0 d1))
      if get s .evtStat_unread + 1 ≥ 1024 then alerted true (put t .evtStat_full 1) else t := by
  rw [logEvt, if_neg (Nat.not_le.mpr h)]
  rfl

theorem logEvt_of_full {code fn job step d0 d1 : Nat} (h : 1024 ≤ get s .evtStat_unread) :
    logEvt s code fn job step d0 d1 = put (bump s .evtStat_lost) .evtStat_full 1 := if_pos h

theorem alerted_evt (b : Bool) : (alerted b s).evt = s.evt := by
  unfold alerted setAlert
  cases b
  · rfl
  · simp only [if_true]
    split <;> rfl

theorem get_alerted_ne (b : Bool) {f : Fld} (hf : f ≠ .evtStat_alert) (i : Nat) : get (alerted b s) f i = get s f i := by
  cases b
  · rfl
  · exact get_setAlert_ne s hf i

theorem get_setAlert_alert : get (setAlert s) .evtStat_alert ≠ 0 := by
  unfold setAlert
  split
  case isTrue h => exact of_decide_eq_true h
  case isFalse =>
    have hone : get (put s .evtStat_alert 1) .evtStat_alert = 1 := get_put_same s .evtStat_alert 1 0
    rw [show get (emit (put s .evtStat_alert 1) (.pin 0 false)) .evtStat_alert = 1 from hone]
    exact one_ne_zero

variable {s} {code fn job step d0 d1 : Nat}

/-- The ring after an event is that in which it found its place. -/
theorem logEvt_evt (h : get s .evtStat_unread < 1024) : (logEvt s code fn job step d0 d1).evt =
    placeEvt (get s .evtStat_unread) s.evt (get s .evtHead_head) (evtWords s code fn job step d0 d1) := by
  rw [logEvt_of_room s h]
  dsimp only
  split
  · rw [alerted_evt, put_evt, alerted_evt]
    rfl
  · rw [alerted_evt]
    rfl

theorem get_logEvt_of_room (h : get s .evtStat_unread < 1024) {f : Fld} (halert : f ≠ .evtStat_alert) (hfull : f ≠ .evtStat_full)
    (i : Nat) : get (logEvt s code fn job step d0 d1) f i = get (logged s (evtWords s code fn job step d0 d1)) f i := by
  rw [logEvt_of_room s h]
  dsimp only
  split
  · rw [get_alerted_ne _ _ halert, get_put_fld _ _ _ _ hfull, get_alerted_ne _ _ halert]
  · rw [get_alerted_ne _ _ halert]

theorem get_logEvt_unread (h : get s .evtStat_unread < 1024) :
    get (logEvt s code fn job step d0 d1) .evtStat_unread = get s .evtStat_unread + 1 := by
  rw [get_logEvt_of_room h (by decide) (by decide), logged, get_put_same]
  exact Nat.mod_eq_of_lt (by show _ < 2048; omega)

theorem get_logEvt_head (h : get s .evtStat_unread < 1024) :
    get (logEvt s code fn job step d0 d1) .evtHead_head = (get s .evtHead_head + 1) % 1024 := by
  rw [get_logEvt_of_room h (by decide) (by decide), logged, get_put_fld _ _ _ _ (by decide), get_bumpW_fld _ _ _ _ (by decide),
    get_put_same]
  rfl

theorem get_logEvt_alert (h : get s .evtStat_unread < 1024) (hcode : alertCode s code = true) :
    get (logEvt s code fn job step d0 d1) .evtStat_alert ≠ 0 := by
  rw [logEvt_of_room s h, hcode]
  dsimp only
  split
  · exact get_setAlert_alert _
  · exact get_setAlert_alert _

/-! ### Its place (R472) -/

variable (e : SMap (List Word)) (h : Nat)

/-- An entry that precedes none of the unread ones stands at the head. -/
theorem placeEvt_last (n : Nat) (hlast : n = 0 ∨ evtBefore w (mget [0, 0, 0, 0] e ((h + 1023) % 1024)) = false) :
    placeEvt n e h w = mset [0, 0, 0, 0] e h w := by
  cases n with
  | zero => rfl
  | succ n =>
    have hno := hlast.resolve_left n.succ_ne_zero
    rw [placeEvt]
    exact if_neg (Bool.eq_false_iff.mp hno)

/-- An entry that precedes the one unread changes places with it. -/
theorem placeEvt_one (hbefore : evtBefore w (mget [0, 0, 0, 0] e ((h + 1023) % 1024)) = true) :
    placeEvt 1 e h w = mset [0, 0, 0, 0] (mset [0, 0, 0, 0] e h (mget [0, 0, 0, 0] e ((h + 1023) % 1024))) ((h + 1023) % 1024) w :=
  if_pos hbefore

variable {w}

theorem ring_of_loggedLast (hroom : get s .evtStat_unread < 1024) (hlast : LoggedLast s (evtWords s code fn job step d0 d1)) :
    mget [0, 0, 0, 0] (logEvt s code fn job step d0 d1).evt (get s .evtHead_head) = evtWords s code fn job step d0 d1 ∧
    ∀ i, i ≠ get s .evtHead_head →
      mget [0, 0, 0, 0] (logEvt s code fn job step d0 d1).evt i = mget [0, 0, 0, 0] s.evt i := by
  rw [logEvt_evt hroom, placeEvt_last _ _ _ _ hlast]
  exact ⟨mget_mset_same .., fun i hi => mget_mset_ne _ hi⟩

theorem ring_of_exchanged (hroom : get s .evtStat_unread < 1024) (_ : get s .evtHead_head < 1024)
    (hone : get s .evtStat_unread = 1)
    (hbefore : evtBefore (evtWords s code fn job step d0 d1) (mget [0, 0, 0, 0] s.evt ((get s .evtHead_head + 1023) % 1024)) = true) :
    mget [0, 0, 0, 0] (logEvt s code fn job step d0 d1).evt (get s .evtHead_head) =
      mget [0, 0, 0, 0] s.evt ((get s .evtHead_head + 1023) % 1024) ∧
    mget [0, 0, 0, 0] (logEvt s code fn job step d0 d1).evt ((get s .evtHead_head + 1023) % 1024) =
      evtWords s code fn job step d0 d1 := by
  rw [logEvt_evt hroom, hone, placeEvt_one _ _ _ hbefore]
  refine ⟨?_, mget_mset_same ..⟩
  rw [mget_mset_ne _ (by omega), mget_mset_same]

end Log

/-! ### EVENT -/

theorem logEvt_cores (s : State) (code fn job step d0 d1 : Nat) : (logEvt s code fn job step d0 d1).cores = s.cores := by
  obtain ⟨r, e, o, h⟩ := exists_logEvt_eq s code fn job step d0 d1
  rw [h]

theorem slotOf_congr {s t : State} (h : t.cores = s.cores) (c : Nat) (sl : Slot) : slotOf t c sl = slotOf s c sl := by
  rw [slotOf, slotOf, coreOf, coreOf, h]

/-- What EVENT logs of its task (05, R471). -/
def programEvt (s : State) (c : Core) (k : Task) (f : RegForm) : State :=
  logEvt s 0x020 (coreFn c) k.launch.job ((k.tag.map (·.2)).getD 0) (f.imm.toNat % 2 ^ 32) c

theorem exec_event_of_issues {s : State} {c : Core} {sl : Slot} {f : RegForm} {k : Task} (htask : taskOf s c sl = some k)
    (hi : IssuesReg s c sl 0x04 f) : exec (.event c sl f) s = .next (advance (programEvt s c k f) c sl) := by
  refine congrArg Host.Outcome.next ?_
  rw [scalarIns_issues hi rfl, taskJob, tagOf, htask]
  rfl

theorem runs_event {s : State} {c : Core} {sl : Slot} {f : RegForm} {k : Task} (htask : taskOf s c sl = some k)
    (hi : IssuesReg s c sl 0x04 f) (hroom : get s .evtStat_unread < 1024) :
    let w := evtWords s 0x020 (coreFn c) k.launch.job ((k.tag.map (·.2)).getD 0) (f.imm.toNat % 2 ^ 32) c
    Runs (.event c sl f) s (fun t =>
      (LoggedLast s w → mget [0, 0, 0, 0] t.evt (get s .evtHead_head) = w ∧
        ∀ i, i ≠ get s .evtHead_head → mget [0, 0, 0, 0] t.evt i = mget [0, 0, 0, 0] s.evt i) ∧
      get t .evtHead_head = (get s .evtHead_head + 1) % 1024 ∧ get t .evtStat_unread = get s .evtStat_unread + 1 ∧
      Moved s t c sl 1 ∧ (∀ r, sregOf t c sl r = sregOf s c sl r) ∧ KeptMem s t) := by
  have hslot : slotOf (programEvt s c k f) c sl = slotOf s c sl := slotOf_congr (logEvt_cores ..) c sl
  have hmoved : Moved s (advance (programEvt s c k f) c sl) c sl 1 := moved_advance (by rw [taskOf, hslot, taskOf])
  have hsreg (r : Nat) : sregOf (advance (programEvt s c k f) c sl) c sl r = sregOf s c sl r := by
    rw [sregOf_advance, sregOf, hslot, sregOf]
  exact ⟨_, exec_event_of_issues htask hi, ring_of_loggedLast hroom, get_logEvt_head hroom, get_logEvt_unread hroom, hmoved, hsreg,
    keptMem_of_mem_eq (logEvt_mem ..)⟩

/-! ### EVT_TAIL and ALERT_N -/

section Tail
variable {s : State} {tail : BitVec 10}

/-- The entries that a write of `EVT_TAIL` gives back (R474). -/
def givenBack (s : State) (tail : BitVec 10) : Nat := (tail.toNat + 1024 - get s .evtTail_tail 0) % 1024

theorem exec_evtTailWrite (hup : fn0Up s = true) : exec (.evtTailWrite tail) s =
    .next (if givenBack s tail = 0 ∨ get s .evtStat_unread < givenBack s tail then s else
      put (put (put s .evtTail_tail tail.toNat) .evtStat_unread (get s .evtStat_unread - givenBack s tail)) .evtStat_full 0) := by
  have htail : tail.toNat % 1024 = tail.toNat := Nat.mod_eq_of_lt tail.isLt
  refine congrArg Host.Outcome.next ((if_pos hup).trans ?_)
  unfold evtTail
  rw [htail]
  rfl

theorem runs_evtTailWrite (hup : fn0Up s = true) (hsome : givenBack s tail ≠ 0) (hle : givenBack s tail ≤ get s .evtStat_unread 0) :
    Runs (.evtTailWrite tail) s (fun t => get t .evtTail_tail 0 = tail.toNat ∧
      get t .evtStat_unread 0 = (get s .evtStat_unread 0 - givenBack s tail) % 2048 ∧ get t .evtStat_full 0 = 0 ∧
      OnlyRegs s t [.evtTail_tail, .evtStat_unread, .evtStat_full]) := by
  refine ⟨_, exec_evtTailWrite hup, ?_⟩
  rw [if_neg (not_or.mpr ⟨hsome, Nat.not_lt.mpr hle⟩)]
  refine ⟨?_, ?_, get_put_same .., rfl,
    keptRegs_put (keptRegs_put (keptRegs_put (keptRegs_refl s _) (by decide) _ _) (by decide) _ _) (by decide) _ _⟩
  · rw [get_put_fld _ _ _ _ (by decide), get_put_fld _ _ _ _ (by decide), get_put_same]
    exact Nat.mod_eq_of_lt tail.isLt
  · rw [get_put_fld _ _ _ _ (by decide), get_put_same]
    rfl

theorem runs_evtTailWrite_not (hup : fn0Up s = true) (hnot : givenBack s tail = 0 ∨ get s .evtStat_unread 0 < givenBack s tail) :
    Runs (.evtTailWrite tail) s (fun t => t = s) :=
  ⟨_, exec_evtTailWrite hup, if_pos hnot⟩

theorem runs_evtAlertClear (hup : fn0Up s = true) (halert : get s .evtStat_alert 0 ≠ 0) : Runs .evtAlertClear s (fun t =>
    get t .evtStat_alert 0 = 0 ∧ t.out = s.out ++ [.pin 0 true] ∧ { t with regs := s.regs, out := s.out } = s ∧
    KeptRegs s t [.evtStat_alert]) := by
  have hexec : exec .evtAlertClear s = .next (emit (put s .evtStat_alert 0) (.pin 0 true)) :=
    congrArg Host.Outcome.next ((if_pos hup).trans (if_pos (decide_eq_true halert)))
  have honly := onlyRegs_put s .evtStat_alert 0 0
  exact ⟨_, hexec, get_put_same s .evtStat_alert 0 0, rfl, rfl, honly.2⟩

end Tail

/-- Settles O36: an event by its place in the ring or its loss, and each command by what it writes. -/
theorem eventsAreLogged : Obligations.EventsAreLogged := by
  refine ⟨fun c sl f s k => runs_event, fun s => ⟨fun code fn job step d0 d1 hroom => ?room, fun code fn job step d0 d1 hfull => ?full,
    fun tail hup => ⟨runs_evtTailWrite hup, runs_evtTailWrite_not hup⟩, runs_evtAlertClear⟩⟩
  case room =>
    exact ⟨ring_of_loggedLast hroom, ring_of_exchanged hroom, get_logEvt_unread hroom, get_logEvt_head hroom,
      get_logEvt_alert hroom, keptRegs_logEvt _ _ _ _ _ _ _, keptMem_of_mem_eq (logEvt_mem ..)⟩
  case full =>
    have hlost : Counted s (put (bump s .evtStat_lost) .evtStat_full 1) .evtStat_lost 0 1 := by
      rw [Counted, get_put_fld _ _ _ _ (by decide), counted_bump]
    have hkept := keptRegs_put (keptRegs_bump (f := .evtStat_lost) (keptRegs_refl s [.evtStat_lost, .evtStat_full]) (by decide) 1 0)
      (f := .evtStat_full) (by decide) 1 0
    dsimp only
    rw [logEvt_of_full s hfull]
    exact ⟨rfl, hlost, get_put_same .., rfl, hkept⟩

end Sys2Proof.Machine
end


section
/-!
The power manager (R453 to R459, R269): its samples, the clocks that it gives the dies, and its limits; O35.
-/
namespace Sys2Proof.Machine
open Host

/-! ### The clocks of the dies -/

/-- A 24-bit number with its part `d` of six bits replaced shows the new part there and its other parts elsewhere:
in each of the four places the quotients are linear in the number. -/
theorem sixBits_replaced {x d e : Nat} (v : Nat) (hx : x < 2 ^ 24) (hd : d < 4) (he : e < 4) :
    bitsOf ((x - bitsOf x (6 * d + 5) (6 * d) * 2 ^ (6 * d) + v % 64 * 2 ^ (6 * d)) % 2 ^ 24) (6 * e + 5) (6 * e) =
      if e = d then v % 64 else bitsOf x (6 * e + 5) (6 * e) := by
  unfold bitsOf
  interval_cases d <;> interval_cases e <;> norm_num <;> omega

section Clocks
variable {s : State} {d : Nat} (v : Nat)

theorem dieClk_setDieClk {e : Nat} (hx : get s .pwrStat_die_clk < 2 ^ 24) (hd : d < 4) (he : e < 4) :
    dieClk (setDieClk s d v) e = if e = d then v % 64 else dieClk s e := by
  rw [dieClk, setDieClk, get_put_same]
  exact sixBits_replaced v hx hd he

theorem die_clk_setDieClk_lt : get (setDieClk s d v) .pwrStat_die_clk < 2 ^ 24 := by
  rw [setDieClk, get_put_same]
  exact Nat.mod_lt _ (Nat.two_pow_pos _)

theorem dieClk_lt (e : Nat) : dieClk s e < 64 := by
  have h := bitsOf_lt (get s .pwrStat_die_clk) (6 * e + 5) (6 * e)
  rwa [show 6 * e + 5 + 1 - 6 * e = 6 by omega] at h

theorem onlyRegs_setDieClk : OnlyRegs s (setDieClk s d v) [.pwrStat_die_clk] := onlyRegs_put s _ _ 0

/-- What the loop and the limits of R459 give a die. -/
def settledClk (s : State) (d : Nat) : Nat :=
  if s.pwr.hotDie.getLsbD d || overNow s d then min (dieClk s d) (loopClk s) else loopClk s

theorem settleDie_eq : settleDie s d = setDieClk s d (settledClk s d) := rfl

theorem settledClk_of_free (hhot : s.pwr.hotDie.getLsbD d = false) (hover : overNow s d = false) : settledClk s d = loopClk s := by
  rw [settledClk, hhot, hover]
  rfl

theorem onlyRegs_settleDie (s : State) (d : Nat) : OnlyRegs s (settleDie s d) [.pwrStat_die_clk] := onlyRegs_setDieClk _

theorem loopClk_settleDie (s : State) (e : Nat) : loopClk (settleDie s e) = loopClk s := by
  obtain ⟨-, hkept⟩ := onlyRegs_settleDie s e
  have hset (f : Fld) (hf : f ∉ [Fld.pwrStat_die_clk]) : get (settleDie s e) f = get s f := hkept f 0 hf
  unfold loopClk flag clkSet clkMax
  rw [hset _ (by decide), hset _ (by decide), hset _ (by decide), hset _ (by decide)]

/-- A die that no limit holds runs at the loop's clock once it has settled, whatever other dies settle with it. -/
theorem dieClk_each_settleDie (hd : d < 4) {l : List Nat} (hl : ∀ e ∈ l, e < 4) {s : State} (hx : get s .pwrStat_die_clk < 2 ^ 24)
    (hhot : s.pwr.hotDie.getLsbD d = false) (hover : overNow s d = false) :
    dieClk (each l settleDie s) d = if d ∈ l then loopClk s % 64 else dieClk s d := by
  induction l generalizing s with
  | nil => rfl
  | cons e l ih =>
    have hrest := ih (fun x hx => hl x (List.mem_cons_of_mem _ hx)) (s := settleDie s e) (die_clk_setDieClk_lt _) hhot hover
    rw [each, List.foldl_cons, ← each, hrest, loopClk_settleDie, settleDie_eq, dieClk_setDieClk _ hx (hl e List.mem_cons_self) hd]
    by_cases he : d = e
    · subst he
      simp [settledClk_of_free hhot hover]
    · simp [he]

theorem keptRegs_settleDies (s : State) : KeptRegs s (settleDies s) [.pwrStat_die_clk] :=
  keptRegs_each s (fun s d => (onlyRegs_settleDie s d).2) _

theorem regsOnly_settleDies (s : State) : RegsOnly s (settleDies s) :=
  regsOnly_foldl (fun _ _ h => regsOnly_put h ..) _ regsOnly_refl

theorem dieClk_settleDies (hd : d < 4) {s : State} (hx : get s .pwrStat_die_clk < 2 ^ 24)
    (hhot : s.pwr.hotDie.getLsbD d = false) (hover : overNow s d = false) : dieClk (settleDies s) d = loopClk s % 64 := by
  rw [settleDies, dieClk_each_settleDie hd (fun e he => List.mem_range.mp he) hx hhot hover]
  exact if_pos (List.mem_range.mpr hd)

theorem clkSet_lt (s : State) : clkSet s < 64 := by
  unfold clkSet
  omega

end Clocks

/-! ### PWR_SAMPLE (R453, R456) -/

section Sample
variable (s : State) (w v : BitVec 13)

/-- The sample is kept in the window and the sums. -/
def sampleKept : State :=
  { s with pwr := { s.pwr with
    samples := (w.toNat :: s.pwr.samples).take 10, total := s.pwr.total + w.toNat, count := s.pwr.count + 1,
    volts := v.toNat, uj := (s.pwr.uj + w.toNat) % 1000 } }

/-- The sample is shown, and its energy added. -/
def sampleShown : State :=
  bumpW (put (sampleKept s w v) .pwrMeas_volts v.toNat) .pwrEnergy_mj ((s.pwr.uj + w.toNat) / 1000)

theorem keptRegs_sampleShown : KeptRegs s (sampleShown s w v) [.pwrMeas_volts, .pwrEnergy_mj, .pwrThr_guard_holds] :=
  keptRegs_put (keptRegs_put (t := sampleKept s w v) (keptRegs_of_regs_eq rfl rfl _) (by decide) _ _) (by decide) _ _

theorem capOf_sampleShown : capOf (sampleShown s w v) = capOf s := by
  rw [capOf, keptRegs_sampleShown s w v .pwrCap_cap 0 (by decide)]
  rfl

theorem volts_sampleShown : get (sampleShown s w v) .pwrMeas_volts = v.toNat := by
  rw [sampleShown, get_bumpW_fld _ _ _ _ (by decide), get_put_same]
  exact Nat.mod_eq_of_lt v.isLt

theorem energy_sampleShown : get (sampleShown s w v) .pwrEnergy_mj =
    (get s .pwrEnergy_mj + (s.pwr.uj + w.toNat) / 1000) % 2 ^ Fld.pwrEnergy_mj.width := by
  rw [sampleShown, bumpW, get_put_same, get_put_fld _ _ _ _ (by decide)]
  rfl

theorem exec_pwrSample (hup : fn0Up s = true) : exec (.pwrSample w v) s =
    .next (if 11 * capOf s < 10 * w.toNat then bump (holdIssue (sampleShown s w v) 1000) .pwrThr_guard_holds
      else sampleShown s w v) := by
  refine congrArg Outcome.next ((if_pos hup).trans ?_)
  rw [← capOf_sampleShown s w v]
  rfl

variable {s w v}

theorem runs_pwrSample (hup : fn0Up s = true) : Runs (.pwrSample w v) s (fun t =>
    t.pwr.samples = (w.toNat :: s.pwr.samples).take 10 ∧ t.pwr.total = s.pwr.total + w.toNat ∧
    get t .pwrMeas_volts 0 = v.toNat ∧ t.pwr.uj = (s.pwr.uj + w.toNat) % 1000 ∧
    get t .pwrEnergy_mj 0 = (get s .pwrEnergy_mj 0 + (s.pwr.uj + w.toNat) / 1000) % 2 ^ Fld.pwrEnergy_mj.width ∧
    (11 * capOf s < 10 * w.toNat → s.time.ticks + 1000 ≤ t.pwr.holdEnd ∧ Counted s t .pwrThr_guard_holds 0 1) ∧
    (10 * w.toNat ≤ 11 * capOf s → t.pwr.holdEnd = s.pwr.holdEnd) ∧
    KeptRegs s t [.pwrMeas_volts, .pwrEnergy_mj, .pwrThr_guard_holds] ∧ KeptMem s t) := by
  refine ⟨_, exec_pwrSample s w v hup, ?_⟩
  by_cases habove : 11 * capOf s < 10 * w.toNat
  · let held := holdIssue (sampleShown s w v) 1000
    have hheld (f : Fld) : get held f = get (sampleShown s w v) f := rfl
    have hshown (f : Fld) (hf : f ≠ .pwrThr_guard_holds) : get (bump held .pwrThr_guard_holds) f = get (sampleShown s w v) f :=
      get_bump_fld held 1 0 0 hf
    have hcount : Counted s (bump held .pwrThr_guard_holds) .pwrThr_guard_holds 0 1 := by
      rw [Counted, counted_bump, hheld, sampleShown, get_bumpW_fld _ _ _ _ (by decide), get_put_fld _ _ _ _ (by decide)]
      rfl
    have hkept : KeptRegs s (bump held .pwrThr_guard_holds) [.pwrMeas_volts, .pwrEnergy_mj, .pwrThr_guard_holds] :=
      keptRegs_bump (t := held) (keptRegs_sampleShown s w v) (by decide) 1 0
    rw [if_pos habove]
    exact ⟨rfl, rfl, (hshown _ (by decide)).trans (volts_sampleShown s w v), rfl,
      (hshown _ (by decide)).trans (energy_sampleShown s w v), fun _ => ⟨le_max_right _ _, hcount⟩,
      fun hbelow => absurd habove (Nat.not_lt.mpr hbelow), hkept, fun _ => rfl⟩
  · rw [if_neg habove]
    exact ⟨rfl, rfl, volts_sampleShown s w v, rfl, energy_sampleShown s w v, fun h => absurd h habove, fun _ => rfl,
      keptRegs_sampleShown s w v, fun _ => rfl⟩

end Sample

/-! ### PWR_COMPARE (R453 to R455, R458) -/

section Compare
variable {s : State}

/-- The mean of the last samples is shown. -/
def meanShown (s : State) : State := put s .pwrMeas_power (s.pwr.samples.sum / s.pwr.samples.length)

/-- The mean is above the cap, or below 97 % of it. -/
def meanAbove (s : State) : Bool := decide (s.pwr.samples.length * capOf s < s.pwr.samples.sum)
def meanBelow (s : State) : Bool := decide (100 * s.pwr.samples.sum < 97 * s.pwr.samples.length * capOf s)

theorem not_above_of_below (h : meanBelow s = true) : meanAbove s = false := by
  have hlt : 100 * s.pwr.samples.sum < 97 * s.pwr.samples.length * capOf s := of_decide_eq_true h
  refine decide_eq_false (Nat.not_lt.mpr ?_)
  rw [Nat.mul_assoc] at hlt
  omega

/-- The hold level that mode 1 sets (R455). -/
def levelSet (s : State) : Nat :=
  if meanAbove s then min 15 (get s .pwrStat_hold + 1) else if meanBelow s then get s .pwrStat_hold - 1 else get s .pwrStat_hold

/-- What mode 0 makes of the target clock (R454). -/
def targetSet (s : State) : State :=
  if meanAbove s then
    if get s .pwrStat_target = 0 then meanShown s
    else bump (put (meanShown s) .pwrStat_target (get s .pwrStat_target - 1)) .pwrThr_cap_steps
  else if meanBelow s && decide (get s .pwrStat_target < clkMax s) then put (meanShown s) .pwrStat_target (get s .pwrStat_target + 1)
  else meanShown s

/-- What mode 1 makes of the hold level (R455). -/
def levelHeld (s : State) : State := holdIssue (put (meanShown s) .pwrStat_hold (levelSet s)) (625 * levelSet s)

theorem exec_pwrCompare (hup : fn0Up s = true) (hsome : s.pwr.samples ≠ []) : exec .pwrCompare s =
    .next (settleDies (if flag s .pwrCtl_mode then levelHeld s else targetSet s)) := by
  have hgoes : (pwrUp s && !s.pwr.samples.isEmpty) = true := by simp [pwrUp, hup, hsome]
  refine congrArg Outcome.next ((if_pos hgoes).trans ?_)
  dsimp only
  unfold targetSet meanAbove meanBelow
  split
  · rfl
  · (repeat' split) <;> rfl

def compareFlds : List Fld := [.pwrMeas_power, .pwrStat_target, .pwrStat_hold, .pwrStat_die_clk, .pwrThr_cap_steps]

theorem keptRegs_meanShown : KeptRegs s (meanShown s) compareFlds := keptRegs_put (keptRegs_refl s _) (by decide) _ _

theorem keptRegs_targetSet : KeptRegs s (targetSet s) compareFlds := by
  unfold targetSet
  split
  · split
    · exact keptRegs_meanShown
    · exact keptRegs_bump (f := .pwrThr_cap_steps) (keptRegs_put (f := .pwrStat_target) keptRegs_meanShown (by decide) _ _)
        (by decide) _ _
  · split
    · exact keptRegs_put (f := .pwrStat_target) keptRegs_meanShown (by decide) _ _
    · exact keptRegs_meanShown

theorem regsOnly_targetSet : RegsOnly s (targetSet s) := by
  have hshown : RegsOnly s (meanShown s) := regsOnly_put regsOnly_refl ..
  unfold targetSet
  split
  · split
    · exact hshown
    · exact regsOnly_put (regsOnly_put hshown ..) ..
  · split
    · exact regsOnly_put hshown ..
    · exact hshown

theorem keptRegs_levelHeld : KeptRegs s (levelHeld s) compareFlds := by
  have hput := keptRegs_put (f := .pwrStat_hold) (keptRegs_meanShown (s := s)) (by decide) (levelSet s) 0
  exact hput

theorem get_settleDies (f : Fld) (hf : f ≠ .pwrStat_die_clk) (i : Nat) : get (settleDies s) f i = get s f i :=
  keptRegs_settleDies s f i (by simpa using hf)

theorem power_meanShown : get (meanShown s) .pwrMeas_power = s.pwr.samples.sum / s.pwr.samples.length % 2 ^ Fld.pwrMeas_power.width :=
  get_put_same ..

theorem power_targetSet : get (targetSet s) .pwrMeas_power = get (meanShown s) .pwrMeas_power := by
  unfold targetSet
  split
  · split
    · rfl
    · rw [get_bump_fld _ _ _ _ (by decide), get_put_fld _ _ _ _ (by decide)]
  · split
    · rw [get_put_fld _ _ _ _ (by decide)]
    · rfl

theorem power_levelHeld : get (levelHeld s) .pwrMeas_power = get (meanShown s) .pwrMeas_power :=
  get_put_fld (meanShown s) (levelSet s) 0 0 (by decide)

theorem target_of_above (habove : meanAbove s = true) :
    get (targetSet s) .pwrStat_target = (get s .pwrStat_target - 1) % 64 ∨ get s .pwrStat_target = 0 := by
  refine or_iff_not_imp_right.mpr fun hsome => ?_
  rw [targetSet, if_pos habove, if_neg hsome, get_bump_fld _ _ _ _ (by decide), get_put_same]
  rfl

theorem target_of_below (hbelow : meanBelow s = true) (hroom : get s .pwrStat_target < clkMax s) :
    get (targetSet s) .pwrStat_target = get s .pwrStat_target + 1 := by
  have hgoes : (meanBelow s && decide (get s .pwrStat_target < clkMax s)) = true := by simp [hbelow, hroom]
  have hmax : clkMax s ≤ 60 := min_le_right _ _
  rw [targetSet, not_above_of_below hbelow, if_neg Bool.false_ne_true, if_pos hgoes, get_put_same]
  exact Nat.mod_eq_of_lt (show _ < 64 by omega)

theorem levelSet_le (h : get s .pwrStat_hold ≤ 15) : levelSet s ≤ 15 := by
  unfold levelSet
  split
  · exact min_le_left _ _
  · split <;> omega

theorem hold_levelHeld (h : get s .pwrStat_hold ≤ 15) : get (levelHeld s) .pwrStat_hold = levelSet s :=
  (get_put_same (meanShown s) .pwrStat_hold (levelSet s) 0).trans (Nat.mod_eq_of_lt (Nat.lt_succ_of_le (levelSet_le h)))

theorem loopClk_levelHeld (hmode : flag s .pwrCtl_mode = true) : loopClk (levelHeld s) = clkSet s := by
  have hset (f : Fld) (hf : f ∉ compareFlds) : get (levelHeld s) f = get s f := keptRegs_levelHeld f 0 hf
  unfold loopClk clkSet clkMax
  rw [flag, hset _ (by decide), hset _ (by decide), hset _ (by decide), ← flag, if_pos hmode]

theorem dieClk_levelHeld {d : Nat} (hmode : flag s .pwrCtl_mode = true) (hx : get s .pwrStat_die_clk < 2 ^ 24) (hd : d < 4)
    (hhot : s.pwr.hotDie.getLsbD d = false) (hover : overNow s d = false) : dieClk (settleDies (levelHeld s)) d = clkSet s := by
  have hclk : get (levelHeld s) .pwrStat_die_clk = get s .pwrStat_die_clk :=
    (get_put_fld (meanShown s) (levelSet s) 0 0 (by decide)).trans (get_put_fld s _ 0 0 (by decide))
  rw [dieClk_settleDies (s := levelHeld s) hd (hclk ▸ hx) hhot hover, loopClk_levelHeld hmode]
  exact Nat.mod_eq_of_lt (clkSet_lt s)

theorem runs_pwrCompare (hup : fn0Up s = true) (hsome : s.pwr.samples ≠ []) :
    let n := s.pwr.samples.length
    let sum := s.pwr.samples.sum
    Runs .pwrCompare s (fun t =>
      get t .pwrMeas_power 0 = sum / n % 2 ^ Fld.pwrMeas_power.width ∧
      (get s .pwrCtl_mode 0 = 0 → n * capOf s < sum → get t .pwrStat_target 0 = (get s .pwrStat_target 0 - 1) % 64 ∨
        get s .pwrStat_target 0 = 0) ∧
      (get s .pwrCtl_mode 0 = 0 → 100 * sum < 97 * n * capOf s → get s .pwrStat_target 0 < clkMax s →
        get t .pwrStat_target 0 = get s .pwrStat_target 0 + 1) ∧
      (get s .pwrCtl_mode 0 ≠ 0 → get s .pwrStat_hold 0 ≤ 15 → get t .pwrStat_target 0 = get s .pwrStat_target 0 ∧
        get t .pwrStat_hold 0 = (if n * capOf s < sum then min 15 (get s .pwrStat_hold 0 + 1)
          else if 100 * sum < 97 * n * capOf s then get s .pwrStat_hold 0 - 1 else get s .pwrStat_hold 0) ∧
        t.pwr.holdEnd = max s.pwr.holdEnd (s.time.ticks + 625 * get t .pwrStat_hold 0) ∧
        (get s .pwrStat_die_clk 0 < 2 ^ 24 → ∀ d < 4, s.pwr.hotDie.getLsbD d = false → overNow s d = false →
          dieClk t d = min (min (get s .pwrClk_set 0) 60) (clkMax s))) ∧
      KeptRegs s t [.pwrMeas_power, .pwrStat_target, .pwrStat_hold, .pwrStat_die_clk, .pwrThr_cap_steps] ∧ KeptMem s t) := by
  intro n sum
  refine ⟨_, exec_pwrCompare hup hsome, ?_⟩
  have hsettled (u : State) (h : KeptRegs s u compareFlds) : KeptRegs s (settleDies u) compareFlds :=
    keptRegs_trans h (keptRegs_mono (keptRegs_settleDies u) (by decide))
  cases hmode : flag s .pwrCtl_mode
  case false =>
    have hzero : get s .pwrCtl_mode 0 = 0 := not_not.mp (of_decide_eq_false hmode)
    have hmem : KeptMem s (settleDies (targetSet s)) := by
      obtain ⟨r, hr⟩ := regsOnly_settleDies (targetSet s)
      obtain ⟨r', hr'⟩ := regsOnly_targetSet (s := s)
      exact keptMem_of_mem_eq (by rw [hr, hr'])
    rw [if_neg Bool.false_ne_true]
    refine ⟨?_, fun _ habove => ?_, fun _ hbelow hroom => ?_, fun hne => absurd hzero hne, hsettled _ keptRegs_targetSet, hmem⟩
    · rw [get_settleDies _ (by decide), power_targetSet, power_meanShown]
    · rw [get_settleDies _ (by decide)]
      exact target_of_above (decide_eq_true habove)
    · rw [get_settleDies _ (by decide)]
      exact target_of_below (decide_eq_true hbelow) hroom
  case true =>
    have hne : get s .pwrCtl_mode 0 ≠ 0 := of_decide_eq_true hmode
    have hrest : ∃ r, settleDies (levelHeld s) = { levelHeld s with regs := r } := regsOnly_settleDies _
    obtain ⟨r, hr⟩ := hrest
    rw [if_pos rfl]
    refine ⟨?_, fun hzero => absurd hzero hne, fun hzero => absurd hzero hne, fun _ hle => ?_, hsettled _ keptRegs_levelHeld,
      keptMem_of_mem_eq (by rw [hr]; rfl)⟩
    · rw [get_settleDies _ (by decide), power_levelHeld, power_meanShown]
    · have htarget : get (levelHeld s) .pwrStat_target = get s .pwrStat_target :=
        (get_put_fld (meanShown s) (levelSet s) 0 0 (by decide)).trans (get_put_fld s _ 0 0 (by decide))
      have hlevel : get (settleDies (levelHeld s)) .pwrStat_hold = levelSet s := by
        rw [get_settleDies _ (by decide), hold_levelHeld hle]
      refine ⟨by rw [get_settleDies _ (by decide), htarget], ?_, ?_, fun hx d hd hhot hover => dieClk_levelHeld hmode hx hd hhot hover⟩
      · rw [hlevel]
        simp only [levelSet, meanAbove, meanBelow, decide_eq_true_eq]
        rfl
      · rw [hlevel, hr]
        rfl

end Compare

end Sys2Proof.Machine
end


section
/-!
The limits of the power manager (R269, R457, R459): what it wants lowered, and what the dies and the stacks show; O35.
-/
namespace Sys2Proof.Machine
open Host

/-! ### The interval's end (R457) -/

section Want
variable (s : State)

/-- How long issue was held in the interval. -/
def heldFor (s : State) : Nat := s.pwr.heldNs - (s.pwr.holdEnd - s.time.ticks)

/-- Issue was held in more than want_frac sixteenths of the interval. -/
def wants (s : State) : Bool := decide (65536 * get s .pwrCtl_want_frac < 16 * heldFor s)

/-- The interval's mean is shown. -/
def intervalShown (s : State) : State :=
  if s.pwr.count = 0 then s else put s .pwrMeas_interval (s.pwr.total / s.pwr.count)

/-- The interval's sums begin anew. -/
def sumsCleared (s : State) : State :=
  { intervalShown s with pwr := { (intervalShown s).pwr with
    total := 0, count := 0, heldNs := (intervalShown s).pwr.heldNs - heldFor s } }

/-- What the interval says of want_lower is shown. -/
def wantShown (s : State) : State := put (sumsCleared s) .pwrStat_want_lower (bit (wants s))

theorem wantLower_eq : wantLower s = if wants s && !flag s .pwrStat_want_lower then
    logEvt (bump (wantShown s) .pwrThr_want_events) 0x006 0 0 0 (16 * heldFor s / 65536) (loopClk (wantShown s))
    else wantShown s := by
  unfold wantShown sumsCleared wants
  rw [Nat.mul_comm 65536]
  rfl

theorem onlyRegs_intervalShown : OnlyRegs s (intervalShown s) [.pwrMeas_interval, .pwrStat_want_lower] := by
  unfold intervalShown
  split
  · exact ⟨rfl, keptRegs_refl s _⟩
  · exact ⟨rfl, keptRegs_put (keptRegs_refl s _) (by decide) _ _⟩

theorem intervalShown_pwr : (intervalShown s).pwr = s.pwr := (congrArg State.pwr (onlyRegs_intervalShown s).1 :)

theorem intervalShown_mem : (intervalShown s).mem = s.mem := (congrArg State.mem (onlyRegs_intervalShown s).1 :)

theorem keptRegs_wantShown : KeptRegs s (wantShown s) [.pwrMeas_interval, .pwrStat_want_lower] :=
  keptRegs_put (t := sumsCleared s) (onlyRegs_intervalShown s).2 (by decide) _ _

theorem want_lower_wantShown : get (wantShown s) .pwrStat_want_lower = if wants s then 1 else 0 := by
  rw [wantShown, get_put_same]
  cases wants s <;> rfl

theorem onlyRegs_wantShown : OnlyRegs s { wantShown s with pwr := s.pwr } [.pwrMeas_interval, .pwrStat_want_lower] :=
  ⟨(congrArg (fun p => { intervalShown s with pwr := p, regs := s.regs }) (intervalShown_pwr s).symm).trans
    (onlyRegs_intervalShown s).1, keptRegs_wantShown s⟩

/-- The rise of want_lower is counted. -/
def riseCounted (s : State) : State := bump (wantShown s) .pwrThr_want_events

def wantFlds : List Fld := .pwrMeas_interval :: .pwrStat_want_lower :: .pwrThr_want_events :: eventFlds

theorem keptRegs_riseCounted : KeptRegs s (riseCounted s) wantFlds :=
  keptRegs_bump (t := wantShown s) (keptRegs_mono (keptRegs_wantShown s) (by decide)) (by decide) _ _

theorem counted_riseCounted : Counted s (riseCounted s) .pwrThr_want_events 0 1 := by
  rw [Counted, riseCounted, counted_bump, keptRegs_wantShown s _ _ (by decide)]

theorem wantLower_leaves :
    let held := s.pwr.heldNs - (s.pwr.holdEnd - s.time.ticks)
    let want : Bool := decide (65536 * get s .pwrCtl_want_frac 0 < 16 * held)
    let t := wantLower s
    get t .pwrStat_want_lower 0 = (if want then 1 else 0) ∧ t.pwr.heldNs = s.pwr.heldNs - held ∧
      (want = false ∨ get s .pwrStat_want_lower 0 ≠ 0 → OnlyRegs s { t with pwr := s.pwr } [.pwrMeas_interval, .pwrStat_want_lower]) ∧
      (want = true → get s .pwrStat_want_lower 0 = 0 → Counted s t .pwrThr_want_events 0 1 ∧
        (get s .evtStat_unread 0 < 1024 → get t .evtStat_unread 0 = get s .evtStat_unread 0 + 1) ∧
        KeptRegs s t (.pwrMeas_interval :: .pwrStat_want_lower :: .pwrThr_want_events :: eventFlds) ∧ KeptMem s t) := by
  intro held want t
  have hheld : (wantShown s).pwr.heldNs = s.pwr.heldNs - held :=
    congrArg (fun p : PwrSt => p.heldNs - heldFor s) (intervalShown_pwr s)
  by_cases hrise : (wants s && !flag s .pwrStat_want_lower) = true
  · obtain ⟨hwant, hlow⟩ := Bool.and_eq_true_iff.mp hrise
    have hzero : get s .pwrStat_want_lower = 0 := by simpa [flag] using hlow
    have ht : t = logEvt (riseCounted s) 0x006 0 0 0 (16 * heldFor s / 65536) (loopClk (wantShown s)) :=
      (wantLower_eq s).trans (if_pos hrise)
    have hget (f : Fld) (hf : f ∉ eventFlds) : get t f = get (riseCounted s) f := by rw [ht, get_logEvt_ne _ _ _ _ _ _ _ hf]
    obtain ⟨r, e, o, hlog⟩ := exists_logEvt_eq (riseCounted s) 0x006 0 0 0 (16 * heldFor s / 65536) (loopClk (wantShown s))
    refine ⟨?_, by rw [ht, hlog]; exact hheld, fun h => absurd hzero (h.resolve_left (by rw [show want = true from hwant]; decide)), fun _ _ =>
      ⟨?_, fun hroom => ?_, ?_, keptMem_of_mem_eq (by rw [ht, hlog]; exact intervalShown_mem s)⟩⟩
    · rw [hget _ (by decide), riseCounted, get_bump_fld _ _ _ _ (by decide), want_lower_wantShown]
      rfl
    · rw [Counted, hget _ (by decide), counted_riseCounted]
    · have hunread : get (riseCounted s) .evtStat_unread = get s .evtStat_unread := by
        rw [riseCounted, get_bump_fld _ _ _ _ (by decide), keptRegs_wantShown s _ _ (by decide)]
      rw [ht, get_logEvt_unread (by rw [hunread]; exact hroom), hunread]
    · rw [ht]
      exact keptRegs_trans (keptRegs_riseCounted s) (keptRegs_mono (keptRegs_logEvt _ _ _ _ _ _ _) (by decide))
  · have ht : t = wantShown s := (wantLower_eq s).trans (if_neg hrise)
    rw [ht]
    refine ⟨want_lower_wantShown s, hheld, fun _ => onlyRegs_wantShown s, fun hwant hzero => absurd ?_ hrise⟩
    rw [show wants s = true from hwant, flag, hzero]
    rfl

end Want

/-! ### A die's step down (R459) -/

section StepDown
variable (s : State) (d : Nat)

/-- Die `d` runs one clock code lower, which is counted, unless it is at the lowest. -/
def steppedDown : State := if dieClk s d = 0 then s else bump (setDieClk s d (dieClk s d - 1)) .pwrThr_thermal_steps

theorem keptRegs_steppedDown : KeptRegs s (steppedDown s d) [.pwrStat_die_clk, .pwrThr_thermal_steps] := by
  unfold steppedDown
  split
  · exact keptRegs_refl s _
  · exact keptRegs_bump (f := .pwrThr_thermal_steps) (keptRegs_mono (onlyRegs_setDieClk _).2 (by decide)) (by decide) _ _

theorem regsOnly_steppedDown : RegsOnly s (steppedDown s d) := by
  unfold steppedDown
  split
  · exact regsOnly_refl
  · exact regsOnly_put (regsOnly_put regsOnly_refl ..) ..

variable {s d}

theorem counted_steppedDown (h : dieClk s d ≠ 0) : Counted s (steppedDown s d) .pwrThr_thermal_steps 0 1 := by
  rw [steppedDown, if_neg h, Counted, counted_bump, (onlyRegs_setDieClk _).2 _ _ (by decide)]

theorem dieClk_of_get_eq {t : State} (h : get t .pwrStat_die_clk = get s .pwrStat_die_clk) (e : Nat) : dieClk t e = dieClk s e := by
  rw [dieClk, h, dieClk]

theorem dieClk_steppedDown (hx : get s .pwrStat_die_clk < 2 ^ 24) (hd : d < 4) : dieClk (steppedDown s d) d = dieClk s d - 1 := by
  have hlt := dieClk_lt (s := s) d
  unfold steppedDown
  split
  case isTrue h => rw [h]
  case isFalse =>
    rw [dieClk_of_get_eq (get_bump_fld _ _ _ _ (by decide)), dieClk_setDieClk _ hx hd hd, if_pos rfl]
    exact Nat.mod_eq_of_lt (by omega)

/-- A step down counts as from a state that shows the same clocks and the same count. -/
theorem steppedDown_since {u : State} (hclk : get u .pwrStat_die_clk = get s .pwrStat_die_clk)
    (hcount : get u .pwrThr_thermal_steps = get s .pwrThr_thermal_steps) (hd : d < 4) :
    (dieClk s d ≠ 0 → Counted s (steppedDown u d) .pwrThr_thermal_steps 0 1) ∧
    (get s .pwrStat_die_clk < 2 ^ 24 → dieClk (steppedDown u d) d = dieClk s d - 1) := by
  constructor
  · intro hne
    rw [Counted, ← hcount]
    exact counted_steppedDown (by rwa [dieClk_of_get_eq hclk])
  · intro hx
    rw [dieClk_steppedDown (by rwa [hclk]) hd, dieClk_of_get_eq hclk]

end StepDown

theorem getLsbD_or_single (h : BitVec 4) (d : Die) : (h ||| (1#4 <<< d.val)).getLsbD d.val = true := by
  have hd : d.val < 4 := d.isLt
  simp [hd]

/-! ### THERMAL_STEP_DOWN -/

section Thermal
variable (s : State) (d : Die) (temp : BitVec 8)

/-- The first reading of an excursion is logged. -/
def excursionLogged : State :=
  if s.pwr.hotDie.getLsbD d.val then setDieTemp s d.val temp.toNat
  else logEvt (setDieTemp s d.val temp.toNat) 0x004 (d.val + 1) 0 0 d.val temp.toNat

/-- Die `d` is marked in its thermal excursion. -/
def hotMarked : State :=
  put { excursionLogged s d temp with pwr := { (excursionLogged s d temp).pwr with
    hotDie := (excursionLogged s d temp).pwr.hotDie ||| (1#4 <<< d.val) } } .pwrStat_thermal 1

theorem exec_thermalStepDown (hup : fn0Up s = true) (hot : 95 ≤ temp.toNat) :
    exec (.thermalStepDown d temp) s = .next (steppedDown (hotMarked s d temp) d.val) :=
  congrArg Outcome.next ((if_pos hup).trans (if_pos (Or.inl hot)))

theorem keptRegs_excursionLogged : KeptRegs s (excursionLogged s d temp) (.pwrTemp_die :: eventFlds) := by
  have hread : KeptRegs s (setDieTemp s d.val temp.toNat) (.pwrTemp_die :: eventFlds) :=
    keptRegs_put (f := .pwrTemp_die) (keptRegs_refl s _) (by decide) _ _
  unfold excursionLogged
  split
  · exact hread
  · exact keptRegs_trans hread (keptRegs_mono (keptRegs_logEvt _ _ _ _ _ _ _) (by decide))

theorem excursionLogged_mem : (excursionLogged s d temp).mem = s.mem := by
  unfold excursionLogged
  split
  · rfl
  · rw [logEvt_mem]
    rfl

theorem keptRegs_hotMarked : KeptRegs s (hotMarked s d temp) (.pwrTemp_die :: .pwrStat_thermal :: eventFlds) :=
  keptRegs_put (t := { excursionLogged s d temp with pwr := _ }) (keptRegs_mono (keptRegs_excursionLogged s d temp) (by decide))
    (by decide) _ _

variable {s d temp}

theorem runs_thermalStepDown (hup : fn0Up s = true) (hot : 95 ≤ temp.toNat) : Runs (.thermalStepDown d temp) s (fun t =>
    t.pwr.hotDie.getLsbD d.val = true ∧ get t .pwrStat_thermal 0 = 1 ∧
    (dieClk s d.val ≠ 0 → Counted s t .pwrThr_thermal_steps 0 1) ∧
    (get s .pwrStat_die_clk 0 < 2 ^ 24 → dieClk t d.val = dieClk s d.val - 1) ∧ KeptMem s t ∧
    KeptRegs s t (.pwrTemp_die :: .pwrStat_thermal :: .pwrStat_die_clk :: .pwrThr_thermal_steps :: eventFlds)) := by
  have hmarked := keptRegs_hotMarked s d temp
  obtain ⟨hcounted, hclk⟩ := steppedDown_since (hmarked .pwrStat_die_clk 0 (by decide))
    (hmarked .pwrThr_thermal_steps 0 (by decide)) d.isLt
  obtain ⟨r, hr⟩ := regsOnly_steppedDown (hotMarked s d temp) d.val
  refine ⟨_, exec_thermalStepDown s d temp hup hot, ?_, ?_, hcounted, hclk, keptMem_of_mem_eq ?_, ?_⟩
  · rw [hr]
    exact getLsbD_or_single _ d
  · rw [keptRegs_steppedDown _ _ _ _ (by decide)]
    exact get_put_same ..
  · rw [hr]
    exact excursionLogged_mem s d temp
  · exact keptRegs_trans (keptRegs_mono hmarked (by decide)) (keptRegs_mono (keptRegs_steppedDown _ _) (by decide))

end Thermal

/-! ### CURRENT_STEP_DOWN -/

section Current
variable (s : State) (d : Die)

/-- Die `d` is marked in its supply current excursion, and steps down. -/
def overMarked : State :=
  { steppedDown s d.val with pwr := { (steppedDown s d.val).pwr with
    overDie := (steppedDown s d.val).pwr.overDie ||| (1#4 <<< d.val),
    overAt := mset 0 (steppedDown s d.val).pwr.overAt d.val (steppedDown s d.val).time.ticks } }

theorem exec_currentStepDown (hup : fn0Up s = true) : exec (.currentStepDown d) s = .next (if overNow s d.val then overMarked s d
    else logEvt (overMarked s d) 0x005 (d.val + 1) 0 0 d.val (dieClk (overMarked s d) d.val)) :=
  congrArg Outcome.next (if_pos hup)

theorem keptRegs_overMarked : KeptRegs s (overMarked s d) [.pwrStat_die_clk, .pwrThr_thermal_steps] := keptRegs_steppedDown s d.val

theorem overMarked_mem : (overMarked s d).mem = s.mem := by
  obtain ⟨r, hr⟩ := regsOnly_steppedDown s d.val
  rw [overMarked, hr]

variable {s d}

theorem overMarked_leaves : (overMarked s d).pwr.overDie.getLsbD d.val = true ∧
    (dieClk s d.val ≠ 0 → Counted s (overMarked s d) .pwrThr_thermal_steps 0 1) ∧
    (get s .pwrStat_die_clk 0 < 2 ^ 24 → dieClk (overMarked s d) d.val = dieClk s d.val - 1) ∧ KeptMem s (overMarked s d) ∧
    KeptRegs s (overMarked s d) (.pwrStat_die_clk :: .pwrThr_thermal_steps :: eventFlds) := by
  obtain ⟨hcounted, hclk⟩ := steppedDown_since (s := s) (u := s) rfl rfl d.isLt
  exact ⟨getLsbD_or_single _ d, hcounted, hclk, keptMem_of_mem_eq (overMarked_mem s d), keptRegs_mono (keptRegs_overMarked s d) (by decide)⟩

theorem runs_currentStepDown (hup : fn0Up s = true) : Runs (.currentStepDown d) s (fun t =>
    t.pwr.overDie.getLsbD d.val = true ∧ (dieClk s d.val ≠ 0 → Counted s t .pwrThr_thermal_steps 0 1) ∧
    (get s .pwrStat_die_clk 0 < 2 ^ 24 → dieClk t d.val = dieClk s d.val - 1) ∧ KeptMem s t ∧
    KeptRegs s t (.pwrStat_die_clk :: .pwrThr_thermal_steps :: eventFlds)) := by
  refine ⟨_, exec_currentStepDown s d hup, ?_⟩
  obtain ⟨hover, hcounted, hclk, hmem, hkept⟩ := overMarked_leaves (s := s) (d := d)
  split
  · exact ⟨hover, hcounted, hclk, hmem, hkept⟩
  · obtain ⟨r, e, o, hlog⟩ := exists_logEvt_eq (overMarked s d) 0x005 (d.val + 1) 0 0 d.val (dieClk (overMarked s d) d.val)
    have hget := keptRegs_logEvt (overMarked s d) 0x005 (d.val + 1) 0 0 d.val (dieClk (overMarked s d) d.val)
    refine ⟨by rw [hlog]; exact hover, fun hne => ?_, fun hx => ?_, keptMem_of_mem_eq ?_, ?_⟩
    · rw [Counted, hget _ _ (by decide), hcounted hne]
    · rw [dieClk_of_get_eq (hget _ _ (by decide)), hclk hx]
    · rw [logEvt_mem, overMarked_mem]
    · exact keptRegs_trans hkept (keptRegs_mono hget (by decide))

end Current

/-! ### HBM_TEMP_THRESHOLD (R269) -/

section Stack
variable (s : State) (k : Fin 20) (temp : BitVec 8)

/-- The stack's temperature is shown, and that of the hottest. -/
def stackShown : State :=
  let s1 := put (put s .hbmStack_temp temp.toNat k.val) .hbmStack_hot (bit (decide (85 < temp.toNat))) k.val
  put s1 .pwrTemp_hbm ((List.range 20).foldl (fun m i => max m (get s1 .hbmStack_temp i)) 0)

/-- A stack that comes to 95 °C is logged. -/
def stackLogged : State :=
  if 95 ≤ temp.toNat ∧ get s .hbmStack_temp k.val < 95 then logEvt (stackShown s k temp) 0x004 7 0 0 4 temp.toNat
  else stackShown s k temp

theorem exec_hbmTempThreshold (hup : fnReady s 7 = true) (hk : k.val < variantStacks s.fuses.variant) :
    exec (.hbmTempThreshold k temp) s = .next (stackLogged s k temp) := by
  have hgoes : (fnReady s 7 && decide (k.val < variantStacks s.fuses.variant)) = true := by simp [hup, hk]
  exact congrArg Outcome.next (if_pos hgoes)

theorem keptRegs_stackLogged : KeptRegs (stackShown s k temp) (stackLogged s k temp) eventFlds := by
  unfold stackLogged
  split
  · exact keptRegs_logEvt _ _ _ _ _ _ _
  · exact keptRegs_refl _ _

theorem stackLogged_mem : (stackLogged s k temp).mem = s.mem := by
  have hshown : RegsOnly s (stackShown s k temp) := regsOnly_put (regsOnly_put (regsOnly_put regsOnly_refl ..) ..) ..
  obtain ⟨r, hr⟩ := hshown
  unfold stackLogged
  rw [hr]
  split
  · rw [logEvt_mem]
  · rfl

theorem temp_stackShown (i : Nat) : get (stackShown s k temp) .hbmStack_temp i =
    get (put s .hbmStack_temp temp.toNat k.val) .hbmStack_temp i := by
  rw [stackShown, get_put_fld _ _ _ _ (by decide), get_put_fld _ _ _ _ (by decide)]

theorem hot_stackShown (i : Nat) : get (stackShown s k temp) .hbmStack_hot i =
    get (put s .hbmStack_hot (bit (decide (85 < temp.toNat))) k.val) .hbmStack_hot i := by
  rw [stackShown, get_put_fld _ _ _ _ (by decide)]
  by_cases hi : i = k.val
  · rw [hi, get_put_same, get_put_same]
  · rw [get_put_idx _ _ _ hi, get_put_idx _ _ _ hi, get_put_fld _ _ _ _ (by decide)]

def stackFlds : List Fld := .hbmStack_temp :: .hbmStack_hot :: .pwrTemp_hbm :: eventFlds

theorem keptRegs_stackShown : KeptRegs s (stackShown s k temp) stackFlds :=
  keptRegs_put (keptRegs_put (f := .hbmStack_hot) (keptRegs_put (f := .hbmStack_temp) (keptRegs_refl s _) (by decide) _ _)
    (by decide) _ _) (by decide) _ _

variable {s k temp}

theorem runs_hbmTempThreshold (hup : fnReady s 7 = true) (hk : k.val < variantStacks s.fuses.variant) :
    Runs (.hbmTempThreshold k temp) s (fun t => get t .hbmStack_temp k.val = temp.toNat ∧
      get t .hbmStack_hot k.val = (if 85 < temp.toNat then 1 else 0) ∧ KeptMem s t ∧
      (∀ j, j ≠ k.val → get t .hbmStack_temp j = get s .hbmStack_temp j ∧ get t .hbmStack_hot j = get s .hbmStack_hot j) ∧
      KeptRegs s t (.hbmStack_temp :: .hbmStack_hot :: .pwrTemp_hbm :: eventFlds)) := by
  refine ⟨_, exec_hbmTempThreshold s k temp hup hk, ?_⟩
  have hlogged := keptRegs_stackLogged s k temp
  refine ⟨?_, ?_, keptMem_of_mem_eq (stackLogged_mem s k temp), fun j hj => ⟨?_, ?_⟩,
    keptRegs_trans (keptRegs_stackShown s k temp) (keptRegs_mono hlogged (by decide))⟩
  · rw [hlogged .hbmStack_temp _ (by decide), temp_stackShown, get_put_same]
    exact Nat.mod_eq_of_lt temp.isLt
  · have hwidth : Fld.hbmStack_hot.width = 1 := rfl
    rw [hlogged .hbmStack_hot _ (by decide), hot_stackShown, get_put_same, hwidth]
    by_cases h : 85 < temp.toNat <;> simp [h, bit]
  · rw [hlogged .hbmStack_temp _ (by decide), temp_stackShown, get_put_idx _ _ _ hj]
  · rw [hlogged .hbmStack_hot _ (by decide), hot_stackShown, get_put_idx _ _ _ hj]

end Stack

/-- Settles O35: each command of the power manager by what it writes. -/
theorem powerFollowsCapAndTemperature : Obligations.PowerFollowsCapAndTemperature :=
  ⟨fun _ hup => ⟨fun _ _ => runs_pwrSample hup, runs_pwrCompare hup⟩, wantLower_leaves,
    fun _ => ⟨fun _ _ => runs_thermalStepDown, fun _ => runs_currentStepDown, fun _ _ => runs_hbmTempThreshold⟩⟩

end Sys2Proof.Machine
end


section
/-!
What an access to memory, and the commit of the shards that a ledger has flagged, write of the registers (R229, R230).
-/
namespace Sys2Proof.Machine
open Host

/-- What an access may write: its faults, its counts, and the state of a job's banks. -/
def accessFlds : List Fld :=
  .grdJobb_state :: .grdJobb_alt_written :: .grdJobb_undo_ok :: .hbmStack_ondie :: .hbmStack_corrected :: .hbmStack_uncorrected ::
    .hbmUe0_offset :: .hbmUe0_stack :: .hbmUe0_valid :: .hbmUe0_by_scrub :: .hbmUe1_job :: .hbmUe1_core :: .mmuTlbcnt_faults ::
    .mmuTlbcnt_walks :: .mmuFault0_va :: .mmuFault0_reason :: .mmuFault1_job :: .mmuFault1_core :: .mmuFault1_unit ::
    .mmuFault1_code :: .mmuFault1_valid :: .hbmRd_bytes :: .hbmWr_bytes :: .numNancnt_skipped :: .numNancnt_applied :: eventFlds

/-- Of the registers, only those that an access may write differ. -/
structure AccessRegs (s t : State) : Prop where
  kept : KeptRegs s t accessFlds

namespace AccessRegs
variable {s t u : State}

theorem refl : AccessRegs s s := ⟨keptRegs_refl s _⟩

theorem trans (hst : AccessRegs s t) (htu : AccessRegs t u) : AccessRegs s u := ⟨keptRegs_trans hst.kept htu.kept⟩

theorem of_regs (hr : t.regs = s.regs) (hf : t.fuses = s.fuses) : AccessRegs s t := ⟨keptRegs_of_regs_eq hr hf _⟩

theorem put (h : AccessRegs s t) (f : Fld) (v i : Nat) (hf : f ∈ accessFlds := by decide) : AccessRegs s (put t f v i) :=
  ⟨keptRegs_put h.kept hf v i⟩

theorem bump (h : AccessRegs s t) (f : Fld) (n i : Nat) (hf : f ∈ accessFlds := by decide) : AccessRegs s (bump t f n i) :=
  h.put f _ i hf

theorem ite {b : Prop} [Decidable b] (ht : AccessRegs s t) (hu : AccessRegs s u) : AccessRegs s (if b then t else u) := by
  split
  · exact ht
  · exact hu

theorem logEvt (h : AccessRegs s t) (code fn job step d0 d1 : Nat) : AccessRegs s (logEvt t code fn job step d0 d1) :=
  ⟨keptRegs_trans h.kept (keptRegs_mono (keptRegs_logEvt t code fn job step d0 d1) (by decide))⟩

theorem each {α : Type} {f : State → α → State} (hf : ∀ t x, AccessRegs t (f t x)) (l : List α) (s : State) :
    AccessRegs s (each l f s) := ⟨keptRegs_each s (fun t x => (hf t x).kept) l⟩

theorem foldl_fst {α β : Type} {f : State × β → α → State × β} (hf : ∀ r x, AccessRegs r.1 (f r x).1) (xs : List α)
    (r : State × β) : AccessRegs r.1 (xs.foldl f r).1 := by
  induction xs generalizing r with
  | nil => exact refl
  | cons x xs ih => exact (hf r x).trans (ih _)

end AccessRegs

/-! ### Memory and translation -/

section Access
variable (s : State)

theorem accessRegs_ecc (e : List EccMark) : AccessRegs s { s with ecc := e } := .of_regs rfl rfl

theorem accessRegs_correct (a n : Nat) : AccessRegs s (correct s a n) := by
  unfold correct
  dsimp only
  refine (accessRegs_ecc s _).trans (.each (fun t m => ?_) _ _)
  split
  · exact AccessRegs.refl.bump _ _ _ (by split <;> decide)
  · exact .refl

theorem accessRegs_wrBytes (a : Nat) (b : Bytes) : AccessRegs s (wrBytes s a b) := by
  induction b generalizing s a with
  | nil => exact .refl
  | cons x b ih =>
    have hbyte : AccessRegs s (wrByte s a x) := .of_regs rfl rfl
    exact hbyte.trans (ih _ (a + 1))

theorem accessRegs_countHbm {f : Fld} (hf : f ∈ accessFlds) (a n : Nat) : AccessRegs s (countHbm s f a n) :=
  .ite (AccessRegs.refl.put f _ 0 hf) .refl

theorem accessRegs_readMem (a n : Nat) : AccessRegs s (readMem s a n).1 := by
  unfold readMem
  split
  · exact .refl
  · exact (accessRegs_correct ..).trans (accessRegs_countHbm _ (by decide) ..)

theorem accessRegs_clearUnits (a n : Nat) : AccessRegs s (clearUnits s a n) :=
  (accessRegs_ecc s _).trans (accessRegs_correct _ a n)

theorem accessRegs_writeMem (a : Nat) (b : Bytes) : AccessRegs s (writeMem s a b).1 := by
  unfold writeMem
  split
  · exact .refl
  · exact ((accessRegs_clearUnits ..).trans (accessRegs_wrBytes ..)).trans (accessRegs_countHbm _ (by decide) ..)

theorem accessRegs_walkFix (va n table : Nat) : AccessRegs s (walkFix va n table s) := by
  induction n generalizing s table with
  | zero => exact .refl
  | succ n ih => exact .ite .refl (.ite ((accessRegs_correct ..).trans (ih ..)) (accessRegs_correct ..))

theorem accessRegs_fixWalk (core job va : Nat) (fetch : Bool) : AccessRegs s (fixWalk s core job va fetch) := by
  unfold fixWalk
  split
  · exact accessRegs_walkFix ..
  · exact .refl

theorem accessRegs_fillTlb (l : List TlbEnt) : AccessRegs s (fillTlb s l) := .of_regs rfl rfl

theorem accessRegs_noteWalk (core job va : Nat) (fetch : Bool) : AccessRegs s (noteWalk s core job va fetch) := by
  unfold noteWalk
  split
  · exact .refl
  · split
    · exact .ite (accessRegs_fillTlb ..) .refl
    · dsimp only
      split
      · exact .refl
      · exact ((accessRegs_walkFix ..).trans (accessRegs_fillTlb ..)).put .mmuTlbcnt_walks _ _

theorem accessRegs_noteViewWrite (job va : Nat) : AccessRegs s (noteViewWrite s job va) := by
  have hstate (j : Nat) : AccessRegs s (if get s .grdJobb_state j = 0 then put s .grdJobb_state 1 j else s) :=
    .ite (AccessRegs.refl.put ..) .refl
  refine .ite ?_ .refl
  split
  · exact .refl
  · exact .ite (hstate _) (((hstate _).put .grdJobb_alt_written ..).put .grdJobb_undo_ok ..)

theorem accessRegs_noteUe (off job core : Nat) (scrub : Bool) : AccessRegs s (noteUe s off job core scrub) := by
  have hcounted : AccessRegs s (bump s .hbmStack_uncorrected 1 (stackOf s off)) := AccessRegs.refl.bump ..
  exact (AccessRegs.ite hcounted ((((((hcounted.put .hbmUe0_offset ..).put .hbmUe0_stack ..).put .hbmUe0_valid ..).put
    .hbmUe0_by_scrub ..).put .hbmUe1_job ..).put .hbmUe1_core ..)).logEvt ..

theorem accessRegs_noteUnit (u : EccUnit) (job core : Nat) : AccessRegs s (noteUnit s u job core) := by
  unfold noteUnit
  split
  · exact accessRegs_noteUe ..
  · exact .refl

theorem accessRegs_noteWalkUe (job core va reason : Nat) : AccessRegs s (noteWalkUe s job core va reason) := by
  refine .ite ?_ (accessRegs_fixWalk ..)
  split
  · exact accessRegs_noteUe ..
  · exact .refl

theorem accessRegs_noteFault (job core unit va reason code : Nat) : AccessRegs s (noteFault s job core unit va reason code) := by
  have hcounted := (accessRegs_noteWalkUe s job core va reason).bump .mmuTlbcnt_faults 1 0
  exact .ite hcounted (((((((hcounted.put .mmuFault0_va ..).put .mmuFault0_reason ..).put .mmuFault1_job ..).put
    .mmuFault1_core ..).put .mmuFault1_unit ..).put .mmuFault1_code ..).put .mmuFault1_valid ..)

theorem accessRegs_noteReach (job core unit va reason code : Nat) : AccessRegs s (noteReach s job core unit va reason code) :=
  .ite .refl (accessRegs_noteFault ..)

theorem accessRegs_noteAccess (core job va : Nat) (write : Bool) : AccessRegs s (noteAccess s core job va write) :=
  .ite ((accessRegs_noteWalk ..).trans (accessRegs_noteViewWrite ..)) (accessRegs_noteWalk ..)

theorem accessRegs_readOff (job core o n : Nat) : AccessRegs s (readOff s job core o n).1 := by
  unfold readOff
  dsimp only
  split
  · exact .refl
  · split
    · exact .refl
    · split
      · exact (accessRegs_readMem ..).trans (accessRegs_noteUnit ..)
      · exact accessRegs_readMem ..

theorem accessRegs_writeOff (job core o : Nat) (b : Bytes) : AccessRegs s (writeOff s job core o b).1 := by
  unfold writeOff
  dsimp only
  split
  · exact .refl
  · split
    · exact .refl
    · split
      · exact (accessRegs_writeMem ..).trans (accessRegs_noteUnit ..)
      · exact accessRegs_writeMem ..

theorem accessRegs_readVa (job core unit va n : Nat) : AccessRegs s (readVa s job core unit va n).1 := by
  refine AccessRegs.foldl_fst (fun r p => ?_) _ (s, 0, [])
  split
  · exact .refl
  · split
    · exact (accessRegs_noteAccess ..).trans (accessRegs_readOff ..)
    · exact accessRegs_noteReach ..
    · exact accessRegs_noteReach r.1 job core unit p.2.1 12 1

theorem accessRegs_writeVa (job core unit va : Nat) (b : Bytes) : AccessRegs s (writeVa s job core unit va b).1 := by
  refine AccessRegs.foldl_fst (fun r p => ?_) _ (s, 0)
  split
  · exact .refl
  · split
    · exact (accessRegs_noteAccess ..).trans (accessRegs_writeOff ..)
    · exact accessRegs_noteReach ..
    · exact accessRegs_noteReach r.1 job core unit p.2.1 12 1

/-! ### Flagged shards at the commit of their step -/

theorem accessRegs_copyVa (job n a b : Nat) : AccessRegs s (copyVa job n s a b) :=
  .ite ((accessRegs_readVa ..).trans (accessRegs_writeVa ..)) (accessRegs_readVa ..)

theorem accessRegs_keepExtent (job c : Nat) (x : Nat × Nat × Nat) : AccessRegs s (keepExtent job c s x) :=
  .ite (accessRegs_copyVa ..) .refl

theorem accessRegs_commitShard (c : Nat) (x : Shard) : AccessRegs s (commitShard c s x) :=
  .ite (((AccessRegs.each (fun t => accessRegs_keepExtent t x.job c) _ s).bump .numNancnt_skipped ..).logEvt ..)
    (AccessRegs.refl.bump .numNancnt_applied ..)

theorem accessRegs_commitShards (job c step : Nat) : AccessRegs s (commitShards s job c step) :=
  .each (fun t => accessRegs_commitShard t c) _ s

end Access

end Sys2Proof.Machine
end


section
/-!
COMMIT and ROLLBACK at their epoch (R386, R390, R391, R398): the end that each row has in common, and what each row writes; O43.
-/
namespace Sys2Proof.Machine
open Host

theorem flag_iff {s : State} {f : Fld} {i : Nat} : flag s f i = true ↔ get s f i ≠ 0 := decide_eq_true_iff

/-! ### The end of a command -/

/-- The response to a COMMIT or ROLLBACK. -/
def commitReply (c : CommitCmd) (status code : Nat) : Out :=
  .resp ⟨c.hdr.port, c.hdr.src, c.hdr.seq, if c.isCommit then 0x60 else 0x61, c.hdr.job, status, code, []⟩

/-- What the end of a command leaves: its response is the first thing that leaves, and its job has no pending command. -/
structure Ended (u t : State) (job : Nat) (c : CommitCmd) (status code : Nat) : Prop where
  out : ∃ o, t.out = u.out ++ commitReply c status code :: o
  commits : mget none t.ctl.commits job = none
  kept : KeptRegs u t [.ctlCmdCnt_executed]
  mem : t.mem = u.mem

section Ends
variable {s u t : State} {job : Nat} {c : CommitCmd} {status code : Nat}

theorem ended_endCommit (u : State) (job : Nat) (c : CommitCmd) {status : Nat} (hst : status ≤ 1) (code : Nat) :
    Ended u (endCommit u job c status code) job c status code := by
  let u1 : State := { u with ctl := { u.ctl with commits := mset none u.ctl.commits job none } }
  let op := if c.isCommit then 0x60 else 0x61
  obtain ⟨r, o, x, hanswer, -⟩ := exists_answer_eq u1 c.hdr op status code []
  have hkept := keptRegs_answer u1 c.hdr op status code []
  rw [statusFld, if_pos hst] at hkept
  have hregs : KeptRegs u u1 [.ctlCmdCnt_executed] := keptRegs_of_regs_eq rfl rfl _
  have hend : endCommit u job c status code = answer u1 c.hdr op status code [] := rfl
  refine ⟨⟨o, ?_⟩, ?_, ?_, ?_⟩
  · rw [hend, hanswer]
    rfl
  · rw [hend, hanswer]
    exact mget_mset_same (m := u.ctl.commits) job none
  · rw [hend]
    exact keptRegs_trans hregs hkept
  · rw [hend, hanswer]
    rfl

theorem get_ended (h : Ended u t job c status code) (f : Fld) (i : Nat) (hf : f ∉ [Fld.ctlCmdCnt_executed]) :
    get t f i = get u f i := h.kept f i hf

theorem ends_of_ended (h : Ended u t job c status code) (hout : u.out = s.out) {l : List Fld}
    (hkept : KeptRegs s u (.ctlCmdCnt_executed :: l)) :
    (∃ o, t.out = s.out ++ commitReply c status code :: o) ∧ mget none t.ctl.commits job = none ∧
      KeptRegs s t (.ctlCmdCnt_executed :: l) :=
  ⟨hout ▸ h.out, h.commits, keptRegs_trans hkept (keptRegs_mono h.kept (by simp))⟩

theorem keptMem_of_ended (h : Ended u t job c status code) (hmem : u.mem = s.mem) : KeptMem s t :=
  keptMem_of_mem_eq (h.mem.trans hmem)

end Ends

/-! ### Nothing committed, abandoned or undone -/

section Back
variable {s : State} {job j : Nat} {c : CommitCmd}

theorem state_backState (s : State) (j : Nat) (h : get s .grdJobb_alt_written j < 2) :
    get (backState s j) .grdJobb_state j = get s .grdJobb_alt_written j :=
  (get_put_same s .grdJobb_state _ j).trans (Nat.mod_eq_of_lt (show _ < 2 ^ 2 by omega))

/-- The state follows alt_written, and nothing else but the end of the command shows. -/
theorem end_backState (h : get s .grdJobb_alt_written j < 2) :
    let t := endCommit (backState s j) job c 0 0
    get t .grdJobb_state j = get s .grdJobb_alt_written j ∧
    ((∃ o, t.out = s.out ++ commitReply c 0 0 :: o) ∧ mget none t.ctl.commits job = none ∧
      KeptRegs s t (.ctlCmdCnt_executed :: .grdJobb_state :: [])) ∧ KeptMem s t := by
  intro t
  have hend : Ended (backState s j) t job c 0 0 := ended_endCommit _ job c (Nat.zero_le 1) 0
  have hkept : KeptRegs s (backState s j) [.ctlCmdCnt_executed, .grdJobb_state] :=
    keptRegs_put (keptRegs_refl s _) (by decide) _ _
  exact ⟨(get_ended hend _ _ (by decide)).trans (state_backState s j h), ends_of_ended (s := s) hend rfl hkept,
    keptMem_of_ended (s := s) hend rfl⟩

/-- A command that fails is counted and answered with status 1 and code 0x09. -/
theorem end_failed (h : get s .grdJobb_alt_written j < 2) :
    let t := endCommit (bump (backState s j) .grdJobd_failed 1 j) job c 1 0x09
    get t .grdJobb_state j = get s .grdJobb_alt_written j ∧ Counted s t .grdJobd_failed j 1 ∧
    ((∃ o, t.out = s.out ++ commitReply c 1 0x09 :: o) ∧ mget none t.ctl.commits job = none ∧
      KeptRegs s t (.ctlCmdCnt_executed :: .grdJobb_state :: [.grdJobd_failed])) ∧ KeptMem s t := by
  intro t
  let u := bump (backState s j) .grdJobd_failed 1 j
  have hend : Ended u t job c 1 0x09 := ended_endCommit u job c (Nat.le_refl 1) 0x09
  have hback : KeptRegs s (backState s j) [.ctlCmdCnt_executed, .grdJobb_state, .grdJobd_failed] :=
    keptRegs_put (keptRegs_refl s _) (by decide) _ _
  have hkept : KeptRegs s u [.ctlCmdCnt_executed, .grdJobb_state, .grdJobd_failed] := keptRegs_bump hback (by decide) 1 j
  have hstate : get u .grdJobb_state j = get (backState s j) .grdJobb_state j := get_bump_fld _ 1 j j (by decide)
  have hcount : Counted s u .grdJobd_failed j 1 := by
    rw [Counted, counted_bump, backState, get_put_fld _ _ _ _ (by decide)]
  refine ⟨?_, ?_, ends_of_ended (s := s) hend rfl hkept, keptMem_of_ended (s := s) hend rfl⟩
  · rw [get_ended hend _ _ (by decide), hstate, state_backState s j h]
  · rw [Counted, get_ended hend _ _ (by decide), hcount]

end Back

/-! ### A step is committed (R390) -/

section Advance
variable (s : State) (j step : Nat)

/-- The step is committed, and can be undone. -/
def stepCommitted : State :=
  put (put (put (put s .grdJobb_committed step j) .grdJobb_undo_ok 1 j) .grdJobb_alt_written 0 j) .grdJobb_state 0 j

def stepFlds : List Fld := [.grdJobb_committed, .grdJobb_undo_ok, .grdJobb_alt_written, .grdJobb_state]

theorem keptRegs_stepCommitted : KeptRegs s (stepCommitted s j step) stepFlds :=
  keptRegs_put (keptRegs_put (keptRegs_put (keptRegs_put (keptRegs_refl s _) (by decide) _ _) (by decide) _ _) (by decide) _ _)
    (by decide) _ _

theorem stepCommitted_leaves (h : step < 2 ^ 32) : get (stepCommitted s j step) .grdJobb_committed j = step ∧
    get (stepCommitted s j step) .grdJobb_undo_ok j = 1 ∧ get (stepCommitted s j step) .grdJobb_alt_written j = 0 ∧
    get (stepCommitted s j step) .grdJobb_state j = 0 := by
  have hwidth : step % 2 ^ Fld.grdJobb_committed.width = step := Nat.mod_eq_of_lt h
  refine ⟨?_, ?_, ?_, ?_⟩
  · rw [stepCommitted, get_put_fld _ _ _ _ (by decide), get_put_fld _ _ _ _ (by decide), get_put_fld _ _ _ _ (by decide),
      get_put_same, hwidth]
  · rw [stepCommitted, get_put_fld _ _ _ _ (by decide), get_put_fld _ _ _ _ (by decide), get_put_same]
    rfl
  · rw [stepCommitted, get_put_fld _ _ _ _ (by decide), get_put_same]
    rfl
  · rw [stepCommitted, get_put_same]
    rfl

/-- A trigger counter of each core of a list is raised. -/
def ctcRaised (l : List Nat) (i : Nat) (s : State) : State := each l (fun s k => tcAdd s k i 1) s

end Advance

section Raise
variable {s : State} {i : Nat}

theorem ctcRaised_leaves (s : State) (l : List Nat) (i : Nat) :
    KeptRegs s (ctcRaised l i s) [.tc_value, .tc_overflow] ∧ { ctcRaised l i s with cores := s.cores, regs := s.regs } = s := by
  induction l generalizing s with
  | nil => exact ⟨keptRegs_refl _ _, rfl⟩
  | cons k l ih =>
    have hfirst := tcLeft_tcAdd s k i 1
    obtain ⟨hkept, hrest⟩ := ih (tcAdd s k i 1)
    refine ⟨keptRegs_trans hfirst.regs hkept, ?_⟩
    have hsame := congrArg (fun u : State => { u with cores := s.cores, regs := s.regs }) hrest
    exact hsame.trans hfirst.rest

/-- The counter of a core outside the list stays; that of one in it, which stands there once, is raised by one. -/
theorem value_ctcRaised {l : List Nat} (hl : l.Nodup) (k : Nat) : get (ctcRaised l i s) .tc_value (256 * k + i) =
    if k ∈ l then min (get s .tc_value (256 * k + i) + 1) (2 ^ 32 - 1) else get s .tc_value (256 * k + i) := by
  induction l generalizing s with
  | nil => rfl
  | cons x l ih =>
    obtain ⟨hx, hnodup⟩ := List.nodup_cons.mp hl
    have hstep : ctcRaised (x :: l) i s = ctcRaised l i (tcAdd s x i 1) := rfl
    rw [hstep, ih hnodup]
    by_cases hk : k = x
    · subst hk
      rw [if_neg hx, if_pos List.mem_cons_self, get_value_tcAdd]
    · have hother : get (tcAdd s x i 1) .tc_value (256 * k + i) = get s .tc_value (256 * k + i) :=
        (tcLeft_tcAdd s x i 1).value _ (by omega)
      simp [hother, hk]

end Raise

section Commit
variable {s : State} {job j : Nat} {c : CommitCmd}

/-- The state in which the step of a COMMIT has been committed, before its cores hear of it. -/
def commitStepped (s : State) (job j : Nat) (c : CommitCmd) : State :=
  stepCommitted (dropShards (commitShards s job (get s .grdJobb_committed j) c.step.toNat) job c.step.toNat) j c.step.toNat

/-- The cores that hear of a commit. -/
def ctcCores (s : State) (job : Nat) (c : CommitCmd) : List Nat :=
  if c.ctcEn then allCores.filter (fun k => tcOwner s k c.ctc.toNat == job) else []

/-- All that a COMMIT of the next step does, before it is answered. -/
def commitDone (s : State) (job j : Nat) (c : CommitCmd) : State :=
  bump (ctcRaised (ctcCores s job c) c.ctc.toNat (commitStepped s job j c)) .grdJobd_commits 1 j

theorem commitApply_next (hstep : c.step.toNat = (get s .grdJobb_committed j + 1) % 2 ^ 32) (halt : get s .grdJobb_alt_written j = 1) :
    commitApply s job j c = endCommit (commitDone s job j c) job c 0 0 := by
  have hflag : flag s .grdJobb_alt_written j = true := by simp [flag, halt]
  refine (if_pos ⟨hstep, hflag⟩).trans ?_
  unfold commitDone ctcCores
  cases c.ctcEn <;> rfl

theorem mem_ctcCores {k : Nat} (hk : k < 192) : k ∈ ctcCores s job c ↔ c.ctcEn = true ∧ tcOwner s k c.ctc.toNat = job := by
  unfold ctcCores
  cases c.ctcEn
  · simp
  · simp [allCores, hk]

theorem nodup_ctcCores : (ctcCores s job c).Nodup := by
  unfold ctcCores
  split
  · exact List.nodup_range.filter _
  · exact List.nodup_nil

/-- What the shards write, no row of the tables shows but the state of the job's banks, which the commit writes anew. -/
theorem get_commitStepped {f : Fld} (i : Nat) (hf : f ∉ accessFlds) (hf' : f ∉ stepFlds) :
    get (commitStepped s job j c) f i = get s f i :=
  (keptRegs_stepCommitted _ j c.step.toNat f i hf').trans ((accessRegs_commitShards s job _ _).kept f i hf)

theorem keptRegs_commitDone :
    KeptRegs (commitStepped s job j c) (commitDone s job j c) [.tc_value, .tc_overflow, .grdJobd_commits] :=
  keptRegs_bump (keptRegs_mono (ctcRaised_leaves _ _ _).1 (by decide)) (by decide) _ _

theorem value_commitDone {k : Nat} (hk : k < 192) : get (commitDone s job j c) .tc_value (256 * k + c.ctc.toNat) =
    if c.ctcEn = true ∧ tcOwner s k c.ctc.toNat = job then min (get s .tc_value (256 * k + c.ctc.toNat) + 1) (2 ^ 32 - 1) % 2 ^ 32
    else get s .tc_value (256 * k + c.ctc.toNat) := by
  have hfits (n : Nat) : min n (2 ^ 32 - 1) % 2 ^ 32 = min n (2 ^ 32 - 1) := Nat.mod_eq_of_lt (by omega)
  rw [commitDone, get_bump_fld _ _ _ _ (by decide), value_ctcRaised nodup_ctcCores, get_commitStepped _ (by decide) (by decide), hfits]
  simp only [mem_ctcCores hk]

theorem counted_commitDone : Counted s (commitDone s job j c) .grdJobd_commits j 1 := by
  rw [Counted, commitDone, counted_bump, (ctcRaised_leaves _ _ _).1 _ _ (by decide), get_commitStepped _ (by decide) (by decide)]

/-- A step without flagged shards commits with no access to memory. -/
theorem commitShards_of_none {cur step : Nat} (hnone : ∀ x ∈ s.col.shards, ¬(x.job = job ∧ x.step = step)) :
    commitShards s job cur step = s := by
  have hnil : s.col.shards.filter (fun x => x.job == job && x.step == step) = [] := by
    rw [List.filter_eq_nil_iff]
    intro x hx
    simpa using hnone x hx
  rw [commitShards, hnil]
  rfl

/-- Without flagged shards the commit writes registers and cores only. -/
theorem commitDone_of_none (hnone : ∀ x ∈ s.col.shards, ¬(x.job = job ∧ x.step = c.step.toNat)) :
    (commitDone s job j c).mem = s.mem ∧ (commitDone s job j c).out = s.out ∧ KeptRegs s (commitDone s job j c)
      (.ctlCmdCnt_executed :: .grdJobb_state :: [.grdJobb_committed, .grdJobb_undo_ok, .grdJobb_alt_written, .grdJobd_commits, .tc_value,
        .tc_overflow]) := by
  have hdrop : commitStepped s job j c = stepCommitted (dropShards s job c.step.toNat) j c.step.toNat := by
    rw [commitStepped, commitShards_of_none hnone]
  have hraised := (ctcRaised_leaves (commitStepped s job j c) (ctcCores s job c) c.ctc.toNat).2
  have hmem : (ctcRaised (ctcCores s job c) c.ctc.toNat (commitStepped s job j c)).mem = s.mem :=
    (congrArg State.mem hraised :).trans (by rw [hdrop]; rfl)
  have hout : (ctcRaised (ctcCores s job c) c.ctc.toNat (commitStepped s job j c)).out = s.out :=
    (congrArg State.out hraised :).trans (by rw [hdrop]; rfl)
  have hstepped : KeptRegs s (commitStepped s job j c) stepFlds := by
    rw [hdrop]
    exact keptRegs_stepCommitted (dropShards s job c.step.toNat) j c.step.toNat
  exact ⟨hmem, hout, keptRegs_trans (keptRegs_mono hstepped (by decide)) (keptRegs_mono keptRegs_commitDone (by decide))⟩

theorem end_committed (hstep : c.step.toNat = (get s .grdJobb_committed j + 1) % 2 ^ 32) (halt : get s .grdJobb_alt_written j = 1) :
    let t := commitApply s job j c
    get t .grdJobb_committed j = c.step.toNat ∧ get t .grdJobb_undo_ok j = 1 ∧ get t .grdJobb_alt_written j = 0 ∧
    get t .grdJobb_state j = 0 ∧ Counted s t .grdJobd_commits j 1 ∧ mget none t.ctl.commits job = none ∧ commitReply c 0 0 ∈ t.out ∧
    (∀ k < 192, let i := 256 * k + c.ctc.toNat
      get t .tc_value i = if c.ctcEn = true ∧ tcOwner s k c.ctc.toNat = job then min (get s .tc_value i + 1) (2 ^ 32 - 1) % 2 ^ 32
        else get s .tc_value i) ∧
    ((∀ x ∈ s.col.shards, ¬(x.job = job ∧ x.step = c.step.toNat)) → KeptMem s t ∧
      ((∃ o, t.out = s.out ++ commitReply c 0 0 :: o) ∧ mget none t.ctl.commits job = none ∧
        KeptRegs s t (.ctlCmdCnt_executed :: .grdJobb_state :: [.grdJobb_committed, .grdJobb_undo_ok, .grdJobb_alt_written,
          .grdJobd_commits, .tc_value, .tc_overflow]))) := by
  intro t
  have hend : Ended (commitDone s job j c) t job c 0 0 := by
    have h := ended_endCommit (commitDone s job j c) job c (Nat.zero_le 1) 0
    rwa [← commitApply_next hstep halt] at h
  have hget (f : Fld) (hf : f ∉ [Fld.ctlCmdCnt_executed]) (hf' : f ∉ [Fld.tc_value, .tc_overflow, .grdJobd_commits]) :
      get t f j = get (commitStepped s job j c) f j := (get_ended hend f j hf).trans (keptRegs_commitDone f j hf')
  obtain ⟨hcommitted, hundo, hwritten, hstate⟩ := stepCommitted_leaves
    (dropShards (commitShards s job (get s .grdJobb_committed j) c.step.toNat) job c.step.toNat) j c.step.toNat c.step.isLt
  refine ⟨?_, ?_, ?_, ?_, ?_, hend.commits, ?_, fun k hk => ?_, fun hnone => ?_⟩
  · rw [hget _ (by decide) (by decide), commitStepped, hcommitted]
  · rw [hget _ (by decide) (by decide), commitStepped, hundo]
  · rw [hget _ (by decide) (by decide), commitStepped, hwritten]
  · rw [hget _ (by decide) (by decide), commitStepped, hstate]
  · rw [Counted, get_ended hend _ _ (by decide), counted_commitDone]
  · obtain ⟨o, ho⟩ := hend.out
    simp [ho]
  · exact (get_ended hend _ _ (by decide)).trans (value_commitDone hk)
  · obtain ⟨hmem, hout, hkept⟩ := commitDone_of_none hnone
    exact ⟨keptMem_of_ended hend hmem, ends_of_ended hend hout hkept⟩

theorem commitApply_else (hnot : ¬(c.step.toNat = (get s .grdJobb_committed j + 1) % 2 ^ 32 ∧ flag s .grdJobb_alt_written j = true)) :
    commitApply s job j c = if c.step.toNat = get s .grdJobb_committed j then endCommit (backState s j) job c 0 0
      else endCommit (bump (backState s j) .grdJobd_failed 1 j) job c 1 0x09 := if_neg hnot

end Commit

/-! ### A step is abandoned or taken back (R391) -/

section Rollback
variable {s u : State} {job j : Nat} {c : CommitCmd}

/-- The contents of a bank are undefined: what leaves the module, its registers and its commands stay. -/
def MemFree (s t : State) : Prop := ∃ m n, t = { s with mem := m, free := n }

theorem memFree_refl : MemFree s s := ⟨s.mem, s.free, rfl⟩

theorem memFree_trans {t : State} (hst : MemFree s t) (htu : MemFree t u) : MemFree s u := by
  obtain ⟨m, n, rfl⟩ := hst
  obtain ⟨m', n', rfl⟩ := htu
  exact ⟨m', n', rfl⟩

theorem memFree_scribble (s : State) (a n : Nat) : MemFree s (scribble s a n) := by
  induction n generalizing s a with
  | zero => exact memFree_refl
  | succ n ih =>
    have hbyte : MemFree s (freeTick (wrByte s a (BitVec.ofNat 8 (freeNow s)))) := ⟨_, _, rfl⟩
    exact memFree_trans hbyte (ih _ (a + 1))

theorem memFree_scribbleVa (s : State) (core job va n : Nat) : MemFree s (scribbleVa core job s va n) := by
  induction n generalizing s va with
  | zero => exact memFree_refl
  | succ n ih =>
    refine memFree_trans ?_ (ih _ (va + 1))
    split
    · exact memFree_refl
    · split
      · exact memFree_scribble ..
      · exact memFree_refl

theorem memFree_each {α : Type} {f : State → α → State} (hf : ∀ s x, MemFree s (f s x)) (l : List α) (s : State) :
    MemFree s (each l f s) := by
  induction l generalizing s with
  | nil => exact memFree_refl
  | cons x l ih => exact memFree_trans (hf s x) (ih (f s x))

theorem memFree_scribbleBanks (s : State) (job cur : Nat) : MemFree s (scribbleBanks s job cur) :=
  memFree_each (fun t _ => memFree_scribbleVa t 255 job _ _) _ s

theorem keptRegs_of_memFree (h : MemFree s u) (l : List Fld) : KeptRegs s u l := by
  obtain ⟨m, n, rfl⟩ := h
  exact keptRegs_of_regs_eq rfl rfl l

/-- A ROLLBACK that succeeds puts its job in state 0 and is counted. -/
def rolledBack (u : State) (j : Nat) : State := bump (put u .grdJobb_state 0 j) .grdJobd_rollbacks 1 j

/-- What the end of a ROLLBACK that succeeds shows of the state before it. -/
theorem end_rolledBack {l : List Fld} (hl : .grdJobd_rollbacks ∈ l) (hcount : get u .grdJobd_rollbacks j = get s .grdJobd_rollbacks j)
    (hout : u.out = s.out) (hkept : KeptRegs s u (.ctlCmdCnt_executed :: .grdJobb_state :: l)) :
    let t := endCommit (rolledBack u j) job c 0 0
    (∀ f, f ∉ [Fld.ctlCmdCnt_executed, .grdJobb_state, .grdJobd_rollbacks] → get t f j = get u f j) ∧ get t .grdJobb_state j = 0 ∧
    Counted s t .grdJobd_rollbacks j 1 ∧ t.mem = u.mem ∧
    ((∃ o, t.out = s.out ++ commitReply c 0 0 :: o) ∧ mget none t.ctl.commits job = none ∧
      KeptRegs s t (.ctlCmdCnt_executed :: .grdJobb_state :: l)) := by
  intro t
  have hend : Ended (rolledBack u j) t job c 0 0 := ended_endCommit _ job c (Nat.zero_le 1) 0
  have hrolled : KeptRegs u (rolledBack u j) [.ctlCmdCnt_executed, .grdJobb_state, .grdJobd_rollbacks] :=
    keptRegs_bump (f := .grdJobd_rollbacks) (keptRegs_put (f := .grdJobb_state) (keptRegs_refl u _) (by decide) _ _) (by decide) _ _
  have hsub : [Fld.ctlCmdCnt_executed, .grdJobb_state, .grdJobd_rollbacks] ⊆ .ctlCmdCnt_executed :: .grdJobb_state :: l := by
    intro f hf
    simp only [List.mem_cons, List.not_mem_nil, or_false] at hf ⊢
    exact hf.imp_right (Or.imp_right fun h => by rwa [h])
  refine ⟨fun f hf => ?_, ?_, ?_, hend.mem, ends_of_ended hend hout (keptRegs_trans hkept (keptRegs_mono hrolled hsub))⟩
  · rw [get_ended hend f j fun h => hf (List.mem_singleton.mp h ▸ List.mem_cons_self), hrolled f j hf]
  · rw [get_ended hend _ _ (by decide), rolledBack, get_bump_fld _ _ _ _ (by decide), get_put_same]
    rfl
  · rw [Counted, get_ended hend _ _ (by decide), rolledBack, counted_bump, get_put_fld _ _ _ _ (by decide), hcount]

/-- What a ROLLBACK of the next step leaves of the step: its banks hold undefined contents where one is written. -/
def stepAbandoned (s : State) (job j : Nat) (c : CommitCmd) : State :=
  if flag s .grdJobb_alt_written j then
    put (scribbleBanks (dropShards s job c.step.toNat) job (get s .grdJobb_committed j)) .grdJobb_alt_written 0 j
  else dropShards s job c.step.toNat

theorem rollbackApply_next (hstep : c.step.toNat = (get s .grdJobb_committed j + 1) % 2 ^ 32) :
    rollbackApply s job j c = endCommit (rolledBack (stepAbandoned s job j c) j) job c 0 0 := by
  refine (if_pos hstep).trans ?_
  have hflag : flag (dropShards s job c.step.toNat) .grdJobb_alt_written j = flag s .grdJobb_alt_written j := rfl
  unfold stepAbandoned
  dsimp only
  rw [hflag]
  cases flag s .grdJobb_alt_written j <;> rfl

theorem stepAbandoned_leaves (s : State) (job j : Nat) (c : CommitCmd) :
    get (stepAbandoned s job j c) .grdJobb_alt_written j = 0 ∧ (stepAbandoned s job j c).out = s.out ∧
    KeptRegs s (stepAbandoned s job j c) [.grdJobb_alt_written] ∧
    (get s .grdJobb_alt_written j = 0 → (stepAbandoned s job j c).mem = s.mem) := by
  unfold stepAbandoned
  have hdrop : KeptRegs s (dropShards s job c.step.toNat) [.grdJobb_alt_written] := keptRegs_of_regs_eq rfl rfl _
  cases hflag : flag s .grdJobb_alt_written j
  case false =>
    have hzero : get s .grdJobb_alt_written j = 0 := not_not.mp (of_decide_eq_false hflag)
    rw [if_neg Bool.false_ne_true]
    exact ⟨hzero, rfl, hdrop, fun _ => rfl⟩
  case true =>
    have hsome : get s .grdJobb_alt_written j ≠ 0 := of_decide_eq_true hflag
    have hfree := memFree_scribbleBanks (dropShards s job c.step.toNat) job (get s .grdJobb_committed j)
    have hout : (scribbleBanks (dropShards s job c.step.toNat) job (get s .grdJobb_committed j)).out = s.out := by
      obtain ⟨m, n, h⟩ := hfree
      rw [h]
      rfl
    rw [if_pos rfl]
    exact ⟨get_put_same .., hout, keptRegs_put (keptRegs_trans hdrop (keptRegs_of_memFree hfree _)) (by decide) _ _,
      fun hzero => absurd hzero hsome⟩

/-- What a ROLLBACK of the step committed last leaves of it. -/
def stepUndone (s : State) (j : Nat) : State :=
  put (put (put s .grdJobb_committed ((get s .grdJobb_committed j + (2 ^ 32 - 1)) % 2 ^ 32) j) .grdJobb_undo_ok 0 j)
    .grdJobb_alt_written 0 j

theorem rollbackApply_undo (hnext : c.step.toNat ≠ (get s .grdJobb_committed j + 1) % 2 ^ 32)
    (hcur : c.step.toNat = get s .grdJobb_committed j) (hundo : get s .grdJobb_undo_ok j ≠ 0) :
    rollbackApply s job j c = endCommit (rolledBack (stepUndone s j) j) job c 0 0 :=
  (if_neg hnext).trans (if_pos ⟨hcur, decide_eq_true hundo⟩)

theorem rollbackApply_failed (hnext : c.step.toNat ≠ (get s .grdJobb_committed j + 1) % 2 ^ 32)
    (hcur : c.step.toNat ≠ get s .grdJobb_committed j ∨ get s .grdJobb_undo_ok j = 0) :
    rollbackApply s job j c = endCommit (bump (backState s j) .grdJobd_failed 1 j) job c 1 0x09 := by
  refine (if_neg hnext).trans (if_neg fun h => ?_)
  exact hcur.elim (fun hne => hne h.1) (flag_iff.mp h.2)

theorem stepUndone_out (s : State) (j : Nat) : (stepUndone s j).out = s.out := by
  rw [stepUndone, put_out, put_out, put_out]

theorem stepUndone_mem (s : State) (j : Nat) : (stepUndone s j).mem = s.mem := by
  rw [stepUndone, put_mem, put_mem, put_mem]

theorem stepUndone_leaves (s : State) (j : Nat) :
    get (stepUndone s j) .grdJobb_committed j = (get s .grdJobb_committed j + (2 ^ 32 - 1)) % 2 ^ 32 ∧
    get (stepUndone s j) .grdJobb_undo_ok j = 0 ∧ get (stepUndone s j) .grdJobb_alt_written j = 0 ∧
    KeptRegs s (stepUndone s j) [.grdJobb_committed, .grdJobb_undo_ok, .grdJobb_alt_written] := by
  refine ⟨?_, ?_, get_put_same .., keptRegs_put (keptRegs_put (keptRegs_put (keptRegs_refl s _) (by decide) _ _) (by decide) _ _)
    (by decide) _ _⟩
  · rw [stepUndone, get_put_fld _ _ _ _ (by decide), get_put_fld _ _ _ _ (by decide), get_put_same]
    exact Nat.mod_mod_of_dvd _ (dvd_refl _)
  · rw [stepUndone, get_put_fld _ _ _ _ (by decide), get_put_same]
    rfl

end Rollback

/-! ### Software's write of the committed step (R398) -/

theorem exec_grdCommittedWrite {s : State} (hup : fn0Up s = true) (j : Fin 64) (v : BitVec 32) :
    exec (.grdCommittedWrite j v) s = .next (if get s .grdJobb_state j = 0 then
      put (put s .grdJobb_committed v.toNat j) .grdJobb_undo_ok 0 j else s) :=
  congrArg Outcome.next (if_pos hup)

theorem runs_grdCommittedWrite {s : State} (hup : fn0Up s = true) (j : Fin 64) (v : BitVec 32) (hstate : get s .grdJobb_state j = 0) :
    Runs (.grdCommittedWrite j v) s (fun t => get t .grdJobb_committed j = v.toNat ∧ get t .grdJobb_undo_ok j = 0 ∧
      (∀ k, k ≠ j.val → get t .grdJobb_committed k = get s .grdJobb_committed k) ∧
      OnlyRegs s t [.grdJobb_committed, .grdJobb_undo_ok]) := by
  refine ⟨_, exec_grdCommittedWrite hup j v, ?_⟩
  rw [if_pos hstate]
  refine ⟨?_, get_put_same .., fun k hk => ?_, rfl, keptRegs_put (keptRegs_put (keptRegs_refl s _) (by decide) _ _) (by decide) _ _⟩
  · rw [get_put_fld _ _ _ _ (by decide), get_put_same]
    exact Nat.mod_eq_of_lt v.isLt
  · rw [get_put_fld _ _ _ _ (by decide), get_put_idx _ _ _ hk]

/-- Settles O43: each row of the two tables by what it writes and how it ends. -/
theorem committedStepMoves : Obligations.CommittedStepMoves := by
  intro s
  refine ⟨fun job j c halt => ⟨⟨end_committed, fun hcur => ?again, fun hcur hnot => ?failed⟩, fun hnext => ?abandoned,
    fun hcur hnext hundo => ?undone, fun hnext hcur => ?refused⟩, fun job j c hwait hentry => ?atEpoch, fun j v hup =>
    ⟨runs_grdCommittedWrite hup j v, fun hstate => ⟨_, exec_grdCommittedWrite hup j v, if_neg hstate⟩⟩⟩
  case again =>
    have hlt := c.step.isLt
    rw [commitApply_else fun h => by omega, if_pos hcur]
    exact end_backState halt
  case failed =>
    have hnot' : ¬(c.step.toNat = (get s .grdJobb_committed j + 1) % 2 ^ 32 ∧ flag s .grdJobb_alt_written j = true) :=
      fun h =>
      hnot.elim (fun hne => hne h.1) (flag_iff.mp h.2)
    rw [commitApply_else hnot', if_neg hcur]
    exact end_failed halt
  case abandoned =>
    obtain ⟨hwritten, hout, hkept, hmem⟩ := stepAbandoned_leaves s job j c
    obtain ⟨hget, hstate, hcount, hsame, hends⟩ := end_rolledBack (job := job) (c := c) (l := [.grdJobb_alt_written, .grdJobd_rollbacks])
      (by decide) (hkept _ _ (by decide)) hout (keptRegs_mono hkept (by decide))
    rw [rollbackApply_next hnext]
    exact ⟨(hget _ (by decide)).trans hwritten, hstate, hcount, hends, fun hzero => keptMem_of_mem_eq (hsame.trans (hmem hzero))⟩
  case undone =>
    obtain ⟨hcommitted, hundone, hwritten, hkept⟩ := stepUndone_leaves s j
    obtain ⟨hget, hstate, hcount, hsame, hends⟩ := end_rolledBack (job := job) (c := c) (s := s) (u := stepUndone s j)
      (l := [.grdJobb_committed, .grdJobb_undo_ok, .grdJobb_alt_written, .grdJobd_rollbacks]) (by decide) (hkept _ _ (by decide))
      (stepUndone_out s j) (keptRegs_mono hkept (by decide))
    rw [rollbackApply_undo hnext hcur hundo]
    exact ⟨(hget _ (by decide)).trans hcommitted, (hget _ (by decide)).trans hundone, (hget _ (by decide)).trans hwritten, hstate,
      hcount, hends, keptMem_of_mem_eq (hsame.trans (stepUndone_mem s j))⟩
  case refused =>
    rw [rollbackApply_failed hnext hcur]
    exact end_failed halt
  case atEpoch =>
    unfold commitAtEpoch
    rw [hwait]
    dsimp only
    rw [hentry]

end Sys2Proof.Machine
end


section
/-!
Arming of slots and the issue of their fires (R350, R354 to R356, R366, R393); O44.
-/
namespace Sys2Proof.Machine
open Host

/-! ### Arming (R354, R355) -/

section Arm
variable {s : State} {job step tb gb slot : Nat} {r : ChainRec}

theorem exec_colArm (hup : fn0Up s = true) (h5 : fnReady s 5 = true) (slot count : BitVec 16) :
    let s1 := put (put s .colArm0_slot slot.toNat) .colArm0_count count.toNat
    exec (.colArm slot count) s = .next (armSlots s1 (get s1 .colArm1_job) (get s1 .colArm1_step) (get s1 .colArm2_tbias)
      (get s1 .colArm2_gbias) slot.toNat (max 1 count.toNat)) := by
  intro s1
  have hkept : KeptRegs s s1 [.colArm0_slot, .colArm0_count] :=
    keptRegs_put (keptRegs_put (keptRegs_refl s _) (by decide) _ _) (by decide) _ _
  have hboth : (fn0Up s && fnReady s 5) = true := by rw [hup, h5]; rfl
  rw [hkept _ _ (by decide), hkept _ _ (by decide), hkept _ _ (by decide), hkept _ _ (by decide)]
  exact congrArg Outcome.next (if_pos hboth)

/-- The registers of a slot that is armed. -/
def armedRegs (s : State) (step tb gb slot : Nat) : State :=
  put (put (put (put (put (put s .colTlive0_state 1 slot) .colTlive0_issued 0 slot) .colTlive0_done 0 slot) .colTlive1_step step slot)
    .colTlive2_tbias tb slot) .colTlive2_gbias gb slot

/-- What the module notes of a slot that is armed. -/
def armedCol (s : State) (slot : Nat) : ColSt :=
  { s.col with
    armAt := mset 0 s.col.armAt slot s.time.ticks, grant := mset 0 s.col.grant slot 0, lastAt := mset 0 s.col.lastAt slot 0,
    doneK := mset [] s.col.doneK slot [], bound := mset 0 s.col.bound slot 0, elig := mset 0 s.col.elig slot 0 }

theorem armSlot_of_arms (ht : template s slot = some r) (hidle : isArmed s slot = false) (haction : tAction r ≠ 3)
    (hjob : tJob r = job) : armSlot s job step tb gb slot = { armedRegs s step tb gb slot with col := armedCol s slot } := by
  have hgoes : (isArmed s slot || tAction r == 3 || tJob r != job) = false := by simp [hidle, haction, hjob]
  unfold armSlot
  rw [ht]
  dsimp only
  rw [hgoes]
  rfl

theorem armSlot_of_refused (h : template s slot = none ∨ isArmed s slot = true ∨
    (∃ r, template s slot = some r ∧ (tJob r ≠ job ∨ tAction r = 3))) :
    armSlot s job step tb gb slot = bump s .colStat_arm_refused := by
  unfold armSlot
  cases ht : template s slot with
  | none => rfl
  | some r =>
    refine if_pos ?_
    obtain hnone | harmed | ⟨q, hq, hwrong⟩ := h
    · simp [ht] at hnone
    · simp [harmed]
    · obtain rfl : r = q := Option.some.inj (ht.symm.trans hq)
      rcases hwrong with hjob | haction
      · simp [hjob]
      · simp [haction]

def armFlds : List Fld :=
  [.colTlive0_state, .colTlive0_issued, .colTlive0_done, .colTlive1_step, .colTlive2_tbias, .colTlive2_gbias]

theorem keptRegs_armedRegs : KeptRegs s (armedRegs s step tb gb slot) armFlds :=
  keptRegs_put (keptRegs_put (keptRegs_put (keptRegs_put (keptRegs_put (keptRegs_put (keptRegs_refl s _) (by decide) _ _)
    (by decide) _ _) (by decide) _ _) (by decide) _ _) (by decide) _ _) (by decide) _ _

theorem armedRegs_leaves (s : State) (step tb gb slot : Nat) :
    let t := armedRegs s step tb gb slot
    get t .colTlive0_state slot = 1 ∧ get t .colTlive0_issued slot = 0 ∧ get t .colTlive0_done slot = 0 ∧
    get t .colTlive1_step slot = step % 2 ^ Fld.colTlive1_step.width ∧
    get t .colTlive2_tbias slot = tb % 2 ^ Fld.colTlive2_tbias.width ∧
    get t .colTlive2_gbias slot = gb % 2 ^ Fld.colTlive2_gbias.width := by
  simp [armedRegs]
  decide

theorem armSlot_leaves (ht : template s slot = some r) (hidle : isArmed s slot = false) (haction : tAction r ≠ 3) (hjob : tJob r = job) :
    let t := armSlot s job step tb gb slot
    get t .colTlive0_state slot = 1 ∧ get t .colTlive0_issued slot = 0 ∧ get t .colTlive0_done slot = 0 ∧
    get t .colTlive1_step slot = step % 2 ^ Fld.colTlive1_step.width ∧
    get t .colTlive2_tbias slot = tb % 2 ^ Fld.colTlive2_tbias.width ∧
    get t .colTlive2_gbias slot = gb % 2 ^ Fld.colTlive2_gbias.width ∧ mget 0 t.col.armAt slot = s.time.ticks ∧ KeptMem s t ∧
    KeptRegs s t [.colTlive0_state, .colTlive0_issued, .colTlive0_done, .colTlive1_step, .colTlive2_tbias, .colTlive2_gbias] := by
  intro t
  have harm : t = { armedRegs s step tb gb slot with col := armedCol s slot } := armSlot_of_arms ht hidle haction hjob
  have hget (f : Fld) (i : Nat) : get t f i = get (armedRegs s step tb gb slot) f i := by rw [harm]; rfl
  obtain ⟨hstate, hissued, hdone, hstep, htb, hgb⟩ := armedRegs_leaves s step tb gb slot
  refine ⟨(hget _ _).trans hstate, (hget _ _).trans hissued, (hget _ _).trans hdone, (hget _ _).trans hstep, (hget _ _).trans htb,
    (hget _ _).trans hgb, ?_, keptMem_of_mem_eq (by rw [harm]; rfl), fun f i hf => (hget f i).trans (keptRegs_armedRegs f i hf)⟩
  rw [harm]
  exact mget_mset_same ..

end Arm

/-! ### Issue (R356, R366, R393) -/

section Issue
variable {s : State} {slot : BitVec 16} {r : ChainRec}

/-- An armed slot's next fire issues, waits or fails by what R393 says of it, where it is ready and no lower slot goes first. -/
theorem exec_armedFireIssue (ht : template s slot.toNat = some r) (h5 : fnReady s 5 = true) (harmed : isArmed s r.slot = true)
    (heclipse : eclipsed s (tJob r) = false) : exec (.armedFireIssue slot) s =
    if fireReady s r (tIssued s r.slot) = false ∨ lowerFirst s r = true then .next s
    else match gatherGate s (tJob r) (tColl r) (tStep s r.slot) with
      | 0 => .next (issueFire s r (tIssued s r.slot))
      | 1 => .next s
      | _ => .next (fireFail s r (tStep s r.slot) 0x09) := by
  change execArmedFireIssue slot s = _
  unfold execArmedFireIssue
  rw [ht]
  dsimp only
  rw [h5, harmed, heclipse]
  cases fireReady s r (tIssued s r.slot) <;> cases lowerFirst s r <;> rfl

/-- The registers of a slot whose fire issues. -/
def issuedRegs (s : State) (r : ChainRec) (k : Nat) : State :=
  let s1 := bumpW (put s .colTlive0_issued (k + 1) r.slot) .colFires_fires
  if tSlotEn r && decide (1 ≤ k) && decide (mget 0 s.col.lastAt r.slot + 1 < mget 0 s.col.grant r.slot) then bump s1 .colStat_slips
  else s1

theorem issuedRegs_leaves (s : State) (r : ChainRec) (k : Nat) :
    get (issuedRegs s r k) .colTlive0_issued r.slot = (k + 1) % 2 ^ Fld.colTlive0_issued.width ∧
    RegsOnly s (issuedRegs s r k) ∧ KeptRegs s (issuedRegs s r k) [.colTlive0_issued, .colFires_fires, .colStat_slips] := by
  have hregs : RegsOnly s (bumpW (put s .colTlive0_issued (k + 1) r.slot) .colFires_fires) :=
    regsOnly_put (regsOnly_put regsOnly_refl ..) ..
  have hissued : get (bumpW (put s .colTlive0_issued (k + 1) r.slot) .colFires_fires) .colTlive0_issued r.slot =
      (k + 1) % 2 ^ Fld.colTlive0_issued.width := by
    rw [get_bumpW_fld _ _ _ _ (by decide), get_put_same]
  have hkept : KeptRegs s (bumpW (put s .colTlive0_issued (k + 1) r.slot) .colFires_fires)
      [.colTlive0_issued, .colFires_fires, .colStat_slips] :=
    keptRegs_put (keptRegs_put (keptRegs_refl s _) (by decide) _ _) (by decide) _ _
  unfold issuedRegs
  split
  · exact ⟨(get_bump_fld _ _ _ _ (by decide)).trans hissued, regsOnly_put hregs .., keptRegs_bump (f := .colStat_slips) hkept (by decide) 1 0⟩
  · exact ⟨hissued, hregs, hkept⟩

/-- The fire that issues. -/
def nextFire (s : State) (r : ChainRec) (k : Nat) : Fire :=
  ⟨s.col.nextId, r.slot, k, tStep s r.slot, layoutOf s (tJob r), s.time.ticks, false, false, false, 0⟩

theorem issueFire_leaves (s : State) (r : ChainRec) (k : Nat) :
    (issueFire s r k).col.fires = s.col.fires ++ [nextFire s r k] ∧
    get (issueFire s r k) .colTlive0_issued r.slot = (k + 1) % 2 ^ Fld.colTlive0_issued.width ∧ KeptMem s (issueFire s r k) ∧
    KeptRegs s (issueFire s r k) [.colTlive0_issued, .colFires_fires, .colStat_slips] := by
  obtain ⟨hissued, ⟨regs, hrest⟩, hkept⟩ := issuedRegs_leaves s r k
  have hcol : (issuedRegs s r k).col = s.col := by rw [hrest]
  have hmem : (issuedRegs s r k).mem = s.mem := by rw [hrest]
  have hfires : (issueFire s r k).col.fires = (issuedRegs s r k).col.fires ++ [nextFire s r k] := rfl
  exact ⟨by rw [hfires, hcol], hissued, keptMem_of_mem_eq hmem, hkept⟩

end Issue

/-- Settles O44: arming by the slot's template and state, and issue by `exec_armedFireIssue`. -/
theorem slotsArmAndIssue : Obligations.SlotsArmAndIssue := by
  intro s
  refine ⟨fun slot count hup h5 => exec_colArm hup h5 slot count, fun job step tb gb slot => ⟨fun r => armSlot_leaves, fun h => ?refused⟩,
    fun slot r ht h5 harmed heclipse => ?issue⟩
  case refused =>
    rw [armSlot_of_refused h]
    exact ⟨counted_bump .., onlyRegs_bump ..⟩
  case issue =>
    have hexec := exec_armedFireIssue ht h5 harmed heclipse
    intro k
    have hgoes (hready : fireReady s r k = true) (hlower : lowerFirst s r = false) :
        ¬(fireReady s r k = false ∨ lowerFirst s r = true) := by simp [hready, hlower]
    refine ⟨fun hready hlower hgate => ?_, fun hgate => ⟨s, ?_, rfl⟩, fun hready hlower hgate => ?_,
      fun hnot => ⟨s, hexec.trans (if_pos hnot), rfl⟩⟩
    · rw [if_neg (hgoes hready hlower), hgate] at hexec
      obtain ⟨hfires, hissued, hmem, hkept⟩ := issueFire_leaves s r k
      exact ⟨_, hexec, nextFire s r k, hfires, rfl, rfl, rfl, rfl, rfl, hissued, hmem, hkept⟩
    · rw [hexec, hgate]
      exact ite_self _
    · obtain ⟨n, hn⟩ := Nat.exists_eq_add_of_le' hgate
      rw [hexec, if_neg (hgoes hready hlower), hn]
      rfl

end Sys2Proof.Machine
end


section
/-!
Fires run and end, and collectives end (R354, R357 to R360, R368, R369); O45.
-/
namespace Sys2Proof.Machine
open Host

/-! ### A fire runs (R357, R359) -/

section Run
variable {s : State} {slot : BitVec 16} {r : ChainRec} {f : Fire} {action : Nat} {body : ChainRec → Fire → State → State}

/-- A fire of the action runs, or fails where its context does not do; one of another action does not run. -/
theorem fireRun_eq (ht : template s slot.toNat = some r) (h5 : fnReady s 5 = true) (hf : fireOf s r.slot (fun f => !f.sent) = some f) :
    fireRun action slot s body = if tAction r ≠ action then s
      else if fireCtxBad s r ≠ 0 then fireFail s r f.step (fireCtxBad s r) else body r f s := by
  unfold fireRun
  rw [ht]
  dsimp only
  rw [hf]
  dsimp only
  rw [h5]
  simp only [Bool.true_eq_false, or_false]

theorem fireRun_fails (ht : template s slot.toNat = some r) (h5 : fnReady s 5 = true) (hf : fireOf s r.slot (fun f => !f.sent) = some f)
    (haction : tAction r = action) (hbad : fireCtxBad s r ≠ 0) :
    fireRun action slot s body = fireFail s r f.step (fireCtxBad s r) := by
  rw [fireRun_eq ht h5 hf, if_neg (not_not.mpr haction), if_pos hbad]

theorem fireRun_other (ht : template s slot.toNat = some r) (h5 : fnReady s 5 = true) (hf : fireOf s r.slot (fun f => !f.sent) = some f)
    (haction : tAction r ≠ action) : fireRun action slot s body = s := by
  rw [fireRun_eq ht h5 hf, if_pos haction]

theorem fireRun_runs (ht : template s slot.toNat = some r) (h5 : fnReady s 5 = true) (hf : fireOf s r.slot (fun f => !f.sent) = some f)
    (haction : tAction r = action) (hctx : fireCtxBad s r = 0) : fireRun action slot s body = body r f s := by
  rw [fireRun_eq ht h5 hf, if_neg (not_not.mpr haction), if_neg (not_not.mpr hctx)]

/-- An instruction that runs the fires of an action fails one whose context does not do, and leaves those of another action. -/
theorem action_cases {i : Instr} (ht : template s slot.toNat = some r) (h5 : fnReady s 5 = true)
    (hf : fireOf s r.slot (fun f => !f.sent) = some f) (hexec : exec i s = .next (fireRun action slot s body)) :
    (tAction r = action → fireCtxBad s r ≠ 0 → exec i s = .next (fireFail s r f.step (fireCtxBad s r))) ∧
    (tAction r ≠ action → Runs i s (fun t => t = s)) :=
  ⟨fun haction hbad => by rw [hexec, fireRun_fails ht h5 hf haction hbad],
    fun haction => ⟨s, by rw [hexec, fireRun_other ht h5 hf haction], rfl⟩⟩

/-- What the fire of a message that no move holds comes to: it fails where its source or its ledger does, else its message goes over its
context or is placed here. -/
theorem exec_fireSend (ht : template s slot.toNat = some r) (h5 : fnReady s 5 = true) (hf : fireOf s r.slot (fun f => !f.sent) = some f)
    (haction : tAction r = 0) (hctx : fireCtxBad s r = 0) : exec (.fireSend slot) s = .next (if fireHeld s r f.k then s else
      let m := fireMessage s r f.k
      let x := checkLedger m.1 r f.step m.2.2
      if m.2.1 ≠ 0 then fireFail m.1 r f.step m.2.1
      else if !x.2 then fireFail x.1 r f.step 0x07
      else if tCtx r = 0xFFFF then
        fireLocal s (if tLedger r then noteShard x.1 r f.k f.step (m.2.2.length - 32) (msgLedger m.2.2) else x.1) r f 1 m.2.2
      else fireRemote x.1 r f 1 m.2.2) :=
  congrArg Outcome.next (fireRun_runs ht h5 hf haction hctx)

theorem fireSend_cases (ht : template s slot.toNat = some r) (h5 : fnReady s 5 = true) (hf : fireOf s r.slot (fun f => !f.sent) = some f)
    (haction : tAction r = 0) (hctx : fireCtxBad s r = 0) (hheld : fireHeld s r f.k = false) :
    let m := fireMessage s r f.k
    let x := checkLedger m.1 r f.step m.2.2
    (m.2.1 ≠ 0 → exec (.fireSend slot) s = .next (fireFail m.1 r f.step m.2.1)) ∧
    (m.2.1 = 0 → x.2 = false → exec (.fireSend slot) s = .next (fireFail x.1 r f.step 0x07)) ∧
    (m.2.1 = 0 → x.2 = true → tCtx r ≠ 0xFFFF → exec (.fireSend slot) s = .next (fireRemote x.1 r f 1 m.2.2)) ∧
    (m.2.1 = 0 → x.2 = true → tCtx r = 0xFFFF → exec (.fireSend slot) s = .next (fireLocal s (if tLedger r
      then noteShard x.1 r f.k f.step (m.2.2.length - 32) (msgLedger m.2.2) else x.1) r f 1 m.2.2)) := by
  intro m x
  have hexec := exec_fireSend ht h5 hf haction hctx
  rw [if_neg (Bool.eq_false_iff.mp hheld)] at hexec
  refine ⟨fun hbad => hexec.trans ?_, fun hread hledger => hexec.trans ?_, fun hread hledger hfar => hexec.trans ?_,
    fun hread hledger hhere => hexec.trans ?_⟩
  · exact congrArg Outcome.next (if_pos hbad)
  · have hno : (!x.2) = true := by rw [hledger]; rfl
    exact congrArg Outcome.next ((if_neg (not_not.mpr hread)).trans (if_pos hno))
  · have hok : ¬(!x.2) = true := by rw [hledger]; decide
    exact congrArg Outcome.next ((if_neg (not_not.mpr hread)).trans ((if_neg hok).trans (if_neg hfar)))
  · have hok : ¬(!x.2) = true := by rw [hledger]; decide
    exact congrArg Outcome.next ((if_neg (not_not.mpr hread)).trans ((if_neg hok).trans (if_pos hhere)))

end Run

/-! ### A fire is done (R358) -/

section Done
variable {s : State} {slot : BitVec 16} {r : ChainRec} {f : Fire}

/-- The next fire of a slot that is done. -/
def doneFire (s : State) (r : ChainRec) : Option Fire :=
  fireOf s r.slot (fun f => fireIsDone r f && f.k == get s .colTlive0_done r.slot)

/-- The fire is noted as done, and leaves the list once nothing of it is left. -/
def fireNoted (s : State) (r : ChainRec) (f : Fire) : State :=
  let s1 := updFire s f.id (fun x => { x with done := true })
  { s1 with col := { s1.col with
    fires := s1.col.fires.filter (fun x => !(x.done && x.left == 0))
    doneK := mset [] s1.col.doneK r.slot (mget [] s1.col.doneK r.slot ++ [f.k]) } }

/-- done_tc rises where done_en is 1. -/
def doneRaised (s : State) (r : ChainRec) : State := if tDoneEn r then tcAdd s (tTcore r) (tDoneTc r) 1 else s

/-- The fire is counted. -/
def fireCounted (s : State) (r : ChainRec) (f : Fire) : State :=
  put (doneRaised (fireNoted s r f) r) .colTlive0_done (get (doneRaised (fireNoted s r f) r) .colTlive0_done r.slot + 1) r.slot

theorem doneRaised_leaves (s : State) (r : ChainRec) : KeptRegs s (doneRaised s r) [.tc_value, .tc_overflow] ∧
    { doneRaised s r with cores := s.cores, regs := s.regs } = s ∧
    (∀ j, j ≠ 256 * tTcore r + tDoneTc r → get (doneRaised s r) .tc_value j = get s .tc_value j) ∧
    (tDoneEn r = false → doneRaised s r = s) ∧
    get (doneRaised s r) .tc_value (256 * tTcore r + tDoneTc r) = if tDoneEn r
      then min (get s .tc_value (256 * tTcore r + tDoneTc r) + 1) (2 ^ 32 - 1) else get s .tc_value (256 * tTcore r + tDoneTc r) := by
  unfold doneRaised
  cases tDoneEn r
  case false => exact ⟨keptRegs_refl s _, rfl, fun _ _ => rfl, fun _ => rfl, rfl⟩
  case true =>
    have hleft := tcLeft_tcAdd s (tTcore r) (tDoneTc r) 1
    exact ⟨hleft.regs, hleft.rest, hleft.value, fun h => absurd h (by decide), get_value_tcAdd ..⟩

/-- What a fire that is done leaves. -/
structure FireCounted (s u : State) (r : ChainRec) (f : Fire) : Prop where
  done : get u .colTlive0_done r.slot = (get s .colTlive0_done r.slot + 1) % 2 ^ Fld.colTlive0_done.width
  others : ∀ j, j ≠ r.slot → get u .colTlive0_done j = get s .colTlive0_done j
  doneK : mget [] u.col.doneK r.slot = mget [] s.col.doneK r.slot ++ [f.k]
  raised : get u .tc_value (256 * tTcore r + tDoneTc r) = if tDoneEn r
    then min (get s .tc_value (256 * tTcore r + tDoneTc r) + 1) (2 ^ 32 - 1) else get s .tc_value (256 * tTcore r + tDoneTc r)
  values : ∀ j, j ≠ 256 * tTcore r + tDoneTc r → get u .tc_value j = get s .tc_value j
  unraised : tDoneEn r = false → KeptRegs s u [.colTlive0_done]
  kept : KeptRegs s u [.colTlive0_done, .tc_value, .tc_overflow]
  mem : KeptMem s u

theorem fireCounted_leaves (s : State) (r : ChainRec) (f : Fire) : FireCounted s (fireCounted s r f) r f := by
  obtain ⟨hkept, hrest, hvalues, hsame, hraised⟩ := doneRaised_leaves (fireNoted s r f) r
  have hdone (j : Nat) : get (doneRaised (fireNoted s r f) r) .colTlive0_done j = get s .colTlive0_done j := hkept _ j (by decide)
  have hvalue (j : Nat) : get (fireCounted s r f) .tc_value j = get (doneRaised (fireNoted s r f) r) .tc_value j :=
    get_put_fld _ _ _ _ (by decide)
  have hcol : (doneRaised (fireNoted s r f) r).col = (fireNoted s r f).col := (congrArg State.col hrest :)
  have hmem : (doneRaised (fireNoted s r f) r).mem = s.mem := (congrArg State.mem hrest :)
  have hnoted (l : List Fld) : KeptRegs s (fireNoted s r f) l := keptRegs_of_regs_eq rfl rfl l
  constructor
  case done => rw [fireCounted, get_put_same, hdone]
  case others =>
    intro j hj
    rw [fireCounted, get_put_idx _ _ _ hj, hdone]
  case doneK =>
    rw [fireCounted, put_col, hcol]
    exact mget_mset_same ..
  case raised => exact (hvalue _).trans hraised
  case values => exact fun j hj => (hvalue j).trans (hvalues j hj)
  case unraised =>
    intro hen
    rw [fireCounted, hsame hen]
    exact keptRegs_put (hnoted _) (by decide) _ _
  case kept => exact keptRegs_put (keptRegs_trans (hnoted _) (keptRegs_mono hkept (by decide))) (by decide) _ _
  case mem => exact keptMem_of_mem_eq hmem

theorem exec_fireDone (ht : template s slot.toNat = some r) (hf : doneFire s r = some f) (harmed : isArmed s r.slot = true)
    (hstep : tStep s r.slot = f.step) : exec (.fireDone slot) s =
    .next (if tFires r ≤ get s .colTlive0_done r.slot + 1 then slotComplete (fireCounted s r f) r else fireCounted s r f) := by
  have hn : get (doneRaised (fireNoted s r f) r) .colTlive0_done r.slot = get s .colTlive0_done r.slot :=
    (doneRaised_leaves (fireNoted s r f) r).1 _ _ (by decide)
  change execFireDone slot s = _
  rw [doneFire] at hf
  unfold execFireDone
  rw [ht]
  dsimp only
  rw [hf, harmed, hstep, ← hn]
  dsimp only
  rw [Bool.not_true, Bool.false_or, bne_self_eq_false, if_neg Bool.false_ne_true]
  rfl

theorem exec_fireDone_none (ht : template s slot.toNat = some r) (hf : doneFire s r = none) : exec (.fireDone slot) s = .next s := by
  change execFireDone slot s = _
  rw [doneFire] at hf
  unfold execFireDone
  rw [ht]
  dsimp only
  rw [hf]

theorem exec_fireDone_not (ht : template s slot.toNat = some r) (hf : doneFire s r = some f)
    (hnot : isArmed s r.slot = false ∨ tStep s r.slot ≠ f.step) : exec (.fireDone slot) s = .next s := by
  change execFireDone slot s = _
  rw [doneFire] at hf
  unfold execFireDone
  rw [ht]
  dsimp only
  rw [hf]
  refine if_pos ?_
  simpa using hnot

end Done

/-! ### The watchdog (R368) -/

theorem exec_colWatchdogExpiry {s : State} {slot : BitVec 16} {r : ChainRec} (ht : template s slot.toNat = some r)
    (h5 : fnReady s 5 = true) (harmed : isArmed s r.slot = true) (heclipse : eclipsed s (tJob r) = false) :
    exec (.colWatchdogExpiry slot) s = .next (if wdOver s r then endCollective (bump s .colStat_expiries) r.slot (tJob r) (tColl r)
      (tStep s r.slot) 0x0D 0 else s) := by
  change execColWatchdogExpiry slot s = _
  unfold execColWatchdogExpiry onlyIf
  rw [ht]
  dsimp only
  rw [h5, harmed, heclipse]
  rfl

/-- Settles O45: fires by `fireRun_eq`, their end by `fireCounted_leaves`, and the two that end collectives. -/
theorem firesRunAndEnd : Obligations.FiresRunAndEnd := by
  intro s slot r ht h5
  refine ⟨fun f hf => ⟨?actions, fun haction hctx hheld => ⟨s, ?_, rfl⟩, fun haction hctx hheld => fireSend_cases ht h5 hf haction hctx hheld,
    fun haction hctx => congrArg Outcome.next (fireRun_runs ht h5 hf haction hctx),
    fun haction hctx => congrArg Outcome.next (fireRun_runs ht h5 hf haction hctx)⟩, fun f hf harmed hstep => ?done,
    fun g hg hnot => ⟨s, exec_fireDone_not ht hg hnot, rfl⟩, fun hnone => ⟨s, exec_fireDone_none ht hnone, rfl⟩,
    fun harmed heclipse => ?watchdog, fun hup job coll => ?aborts⟩
  case actions =>
    simp only [List.forall_mem_cons, List.not_mem_nil, false_implies, implies_true, and_true]
    exact ⟨action_cases ht h5 hf rfl, action_cases ht h5 hf rfl, action_cases ht h5 hf rfl⟩
  · rw [exec_fireSend ht h5 hf haction hctx, if_pos hheld]
  case done =>
    have hexec := exec_fireDone ht hf harmed hstep
    obtain ⟨hdone, hothers, hK, hraised, hvalues, hunraised, hkept, hmem⟩ := fireCounted_leaves s r f
    intro n i done
    have hall : done (fireCounted s r f) := ⟨hdone, hothers, hK, fun _ => hraised, hvalues, hunraised, hkept, hmem⟩
    refine ⟨fun hmore => ⟨_, hexec.trans ?_, hall⟩, fun hlast => ⟨_, hall, hexec.trans ?_⟩⟩
    · rw [if_neg (Nat.not_le.mpr hmore)]
    · rw [if_pos hlast]
      rfl
  case watchdog =>
    have hexec := exec_colWatchdogExpiry ht h5 harmed heclipse
    exact ⟨fun hover => by rw [hexec, if_pos hover], fun hover => ⟨s, by rw [hexec, hover, if_neg Bool.false_ne_true], rfl⟩⟩
  case aborts =>
    have hboth : (fn0Up s && fnReady s 5) = true := by rw [hup, h5]; rfl
    exact ⟨congrArg Outcome.next (if_pos hboth), congrArg Outcome.next (if_pos hboth)⟩

end Sys2Proof.Machine
end


section
/-!
Collective packets that arrive (R361 to R364, R394, R396); O46.
-/
namespace Sys2Proof.Machine
open Host

/-! ### What a packet comes to -/

section Place
variable {s : State} {ch : ColHdr} {d : Bytes}

/-- How far a packet's layout stands before the job's, modulo 256. -/
def layoutGap (s : State) (ch : ColHdr) : Nat := (ch.layout.toNat + 256 - layoutOf s ch.job.toNat) % 256

theorem colJudge_of_kind (hkind : ch.kind = 1 ∨ ch.kind = 2) : colJudge s ch d =
    if dropListed s ch then (bump s .colDrop_listed, .taken)
    else if !resident s ch.job.toNat then (bump s .colDrop_unresident, .refused 0x06)
    else if layoutGap s ch = 0 then colStep s ch d
    else if layoutGap s ch ≤ 127 then (s, .held)
    else (colSuperseded s ch, .refused 0x08) :=
  if_neg fun h => hkind.elim h.1 h.2

/-- A packet that is not refused comes to what it is judged. -/
theorem colPlace_of_judged {t : State} {a : Arrive} (hj : colJudge s ch d = (t, a)) (ha : ∀ code, a ≠ .refused code) :
    colPlace s ch d = (t, a) := by
  unfold colPlace
  dsimp only
  rw [hj]
  split
  case h_1 code h => exact absurd h (ha code)
  case h_2 => rfl

/-- Of a packet that is refused, the message is noted as refused. -/
theorem colPlace_of_refused {t : State} {code : Nat} (hj : colJudge s ch d = (t, .refused code)) :
    colPlace s ch d = ((notePart t (colKey ch) (some ch.mlen.toNat) d.length true).1, .refused code) := by
  unfold colPlace
  dsimp only
  rw [hj]

theorem colPlace_listed (hkind : ch.kind = 1 ∨ ch.kind = 2) (hlisted : dropListed s ch = true) :
    colPlace s ch d = (bump s .colDrop_listed, .taken) :=
  colPlace_of_judged ((colJudge_of_kind hkind).trans (if_pos hlisted)) fun _ => by simp

theorem colJudge_unlisted (hkind : ch.kind = 1 ∨ ch.kind = 2) (hlisted : dropListed s ch = false) : colJudge s ch d =
    if !resident s ch.job.toNat then (bump s .colDrop_unresident, .refused 0x06)
    else if layoutGap s ch = 0 then colStep s ch d
    else if layoutGap s ch ≤ 127 then (s, .held)
    else (colSuperseded s ch, .refused 0x08) :=
  (colJudge_of_kind hkind).trans (if_neg (Bool.eq_false_iff.mp hlisted))

theorem colJudge_unresident (hkind : ch.kind = 1 ∨ ch.kind = 2) (hlisted : dropListed s ch = false)
    (hres : resident s ch.job.toNat = false) : colJudge s ch d = (bump s .colDrop_unresident, .refused 0x06) := by
  rw [colJudge_unlisted hkind hlisted, hres]
  rfl

theorem colJudge_layout (hkind : ch.kind = 1 ∨ ch.kind = 2) (hlisted : dropListed s ch = false)
    (hres : resident s ch.job.toNat = true) (hgap : 1 ≤ layoutGap s ch) :
    colJudge s ch d = if layoutGap s ch ≤ 127 then (s, .held) else (colSuperseded s ch, .refused 0x08) := by
  have hno : ¬layoutGap s ch = 0 := Nat.one_le_iff_ne_zero.mp hgap
  rw [colJudge_unlisted hkind hlisted, hres, Bool.not_true, if_neg Bool.false_ne_true, if_neg hno]

/-- The first packet of a layout that is past is recorded. -/
def supersededRecorded (s : State) (ch : ColHdr) : State :=
  let s1 := bump s .colDrop_epoch
  if flag s1 .grdEpoch0_valid then s1
  else
    let t := put (put (put (put (put s1 .grdEpoch0_job ch.job.toNat) .grdEpoch0_presented ch.layout.toNat)
      .grdEpoch0_current (layoutOf s ch.job.toNat)) .grdEpoch0_src_module ch.srcMod.toNat) .grdEpoch0_valid 1
    put (put t .grdEpoch1_step ch.step.toNat) .grdEpoch1_coll ch.coll.toNat

theorem supersededRecorded_leaves (s : State) (ch : ColHdr) :
    Counted s (supersededRecorded s ch) .colDrop_epoch 0 1 ∧ (supersededRecorded s ch).mem = s.mem := by
  have hcount := counted_bump (s := s) .colDrop_epoch 1 0
  unfold supersededRecorded
  dsimp only
  split
  · exact ⟨hcount, rfl⟩
  · refine ⟨?_, rfl⟩
    simp only [Counted]
    repeat rw [get_put_fld _ _ _ _ (by decide)]
    exact hcount

theorem colSuperseded_leaves (s : State) (ch : ColHdr) :
    Counted s (colSuperseded s ch) .colDrop_epoch 0 1 ∧ (colSuperseded s ch).mem = s.mem := by
  have hlog : colSuperseded s ch =
    logEvt (supersededRecorded s ch) 0x033 5 ch.job.toNat ch.step.toNat ch.coll.toNat ch.srcMod.toNat := rfl
  obtain ⟨hcount, hmem⟩ := supersededRecorded_leaves s ch
  rw [hlog]
  exact ⟨(get_logEvt_ne _ _ _ _ _ _ _ (by decide) 0).trans hcount, (logEvt_mem ..).trans hmem⟩

theorem colPlace_cases (s : State) (ch : ColHdr) (d : Bytes) (hkind : ch.kind = 1 ∨ ch.kind = 2) :
    let o := colPlace s ch d
    let gap := (ch.layout.toNat + 256 - layoutOf s ch.job.toNat) % 256
    (dropListed s ch = true → o.2 = .taken ∧ Counted s o.1 .colDrop_listed 0 1 ∧ OnlyRegs s o.1 [.colDrop_listed]) ∧
    (dropListed s ch = false → resident s ch.job.toNat = false → o.2 = .refused 0x06 ∧
      Counted s o.1 .colDrop_unresident 0 1 ∧ KeptRegs s o.1 [.colDrop_unresident] ∧ KeptMem s o.1) ∧
    (dropListed s ch = false → resident s ch.job.toNat = true → 1 ≤ gap → gap ≤ 127 → o = (s, .held)) ∧
    (dropListed s ch = false → resident s ch.job.toNat = true → 127 < gap → o.2 = .refused 0x08 ∧ KeptMem s o.1 ∧
      Counted s o.1 .colDrop_epoch 0 1) := by
  intro o gap
  refine ⟨fun hlisted => ?_, fun hlisted hres => ?_, fun hlisted hres hsome hle => ?_, fun hlisted hres hover => ?_⟩
  · rw [show o = (bump s .colDrop_listed, .taken) from colPlace_listed hkind hlisted]
    exact ⟨rfl, counted_bump .., onlyRegs_bump ..⟩
  · have ho := colPlace_of_refused (colJudge_unresident (d := d) hkind hlisted hres)
    have hcounted : OnlyRegs s (bump s .colDrop_unresident) [.colDrop_unresident] := onlyRegs_bump ..
    rw [show o = _ from ho]
    have hcount : Counted s (bump s .colDrop_unresident) .colDrop_unresident 0 1 := counted_bump ..
    exact ⟨rfl, hcount, hcounted.2, fun _ => rfl⟩
  · exact colPlace_of_judged ((colJudge_layout hkind hlisted hres hsome).trans (if_pos hle)) fun _ => by simp
  · have hj := (colJudge_layout (d := d) hkind hlisted hres (Nat.le_trans (by decide) hover.le)).trans (if_neg (Nat.not_le.mpr hover))
    obtain ⟨hcount, hmem⟩ := colSuperseded_leaves s ch
    rw [show o = _ from colPlace_of_refused hj]
    exact ⟨rfl, keptMem_of_mem_eq hmem, hcount⟩

end Place

/-! ### What becomes of it -/

section Arrive
variable {s : State} {p : Port} {h : MolHdr} {ch : ColHdr}

theorem exec_collectiveSendRx_of_asks {d : Bytes} (ha : Asks (takePkt s p.val 0x5 h (colHdrBytes ch ++ d)) p 0x5 h) :
    exec (.collectiveSendRx p h ch d) s = .next (flowDone p.val h (.collectiveSendRx p h ch d)
      (colPlace (takePkt s p.val 0x5 h (colHdrBytes ch ++ d)) ch d)) :=
  congrArg Outcome.next (arriveAsk_of_asks ha ..)

theorem exec_collectiveCounterAddRx_of_asks (ha : Asks (takePkt s p.val 0x5 h (colHdrBytes ch ++ [])) p 0x5 h) :
    exec (.collectiveCounterAddRx p h ch) s = .next (flowDone p.val h (.collectiveCounterAddRx p h ch)
      (colPlace (takePkt s p.val 0x5 h (colHdrBytes ch ++ [])) ch [])) := by
  rw [List.append_nil] at ha ⊢
  exact congrArg Outcome.next (arriveAsk_of_asks ha ..)

/-- A packet that asks is answered as what it comes to says. -/
theorem flowDone_cases {i j : Instr} {o : State × Arrive} (hexec : exec i s = .next (flowDone p.val h j o)) :
    (o.2 = .taken → exec i s = .next (flowNext (ack o.1 p.val h) p.val h none)) ∧
    (∀ code, o.2 = .refused code → exec i s = .next (flowNext (nakRemote o.1 p.val h code) p.val h (some code))) ∧
    (o.2 = .held → exec i s = .next (holdBack o.1 j)) ∧
    (o.2 = .dropped → exec i s = .next (flowNext o.1 p.val h (some 0))) := by
  obtain ⟨t, a⟩ := o
  rw [hexec]
  refine ⟨?_, ?_, ?_, ?_⟩
  · rintro rfl
    rfl
  · rintro code rfl
    rfl
  · rintro rfl
    rfl
  · rintro rfl
    rfl

end Arrive

/-- Settles O46: the answer by `flowDone_cases`, what the packet comes to by `colPlace_cases`. -/
theorem collectivePacketsArrive : Obligations.CollectivePacketsArrive := by
  intro p h ch s
  refine ⟨?_, fun d hkind => colPlace_cases s ch d hkind⟩
  simp only [List.forall_mem_cons, List.not_mem_nil, false_implies, implies_true, and_true]
  exact ⟨fun d ha => flowDone_cases (exec_collectiveSendRx_of_asks ha),
    fun _ ha => flowDone_cases (exec_collectiveCounterAddRx_of_asks ha)⟩

end Sys2Proof.Machine
end


section
/-!
Flits of a link, their retries, and lanes that leave it (R401 to R404, R408, R409, R414); O51.
-/
namespace Sys2Proof.Machine
open Host

/-! ### A flit arrives (R401, R402) -/

section Flits
variable {s : State} {p type : Nat} {f : BitVec 2048} {body : State → State}

/-- A flit with a wrong check value is counted and discarded. -/
theorem rxFlit_of_bad (hbad : flitOk f = false) : rxFlit s p f type body = bump s .lnkPerr_crc 1 p :=
  if_pos (by simp [hbad])

/-- A good flit of the row's type brings its acknowledgement number to a link in service. -/
theorem rxFlit_of_good (hok : flitOk f = true) (htype : flitType f = type) (hle : type ≤ 4) :
    rxFlit s p f type body = body (if inService s p then ackFlits s p (flitAck f) else s) := by
  have hkind : ¬(!flitOk f || decide (4 < flitType f)) = true := by simp [hok, htype, hle]
  exact (if_neg hkind).trans (if_neg (not_not.mpr htype))

theorem inService_of_molLink (h : molLink s p = true) : inService s p = true := by
  simp only [molLink, Bool.and_eq_true] at h
  exact h.1.2

/-- Where the link works, the acknowledgement number is taken. -/
theorem rxFlit_of_molLink (hlink : molLink s p = true) (hok : flitOk f = true) (htype : flitType f = type) (hle : type ≤ 4) :
    rxFlit s p f type body = body (ackFlits s p (flitAck f)) := by
  rw [rxFlit_of_good hok htype hle, if_pos (inService_of_molLink hlink)]

end Flits

section Rows
variable {s : State} {p : Port} {f : BitVec 2048}

theorem exec_linkDataFlitRx (hlink : molLink s p.val = true) : exec (.linkDataFlitRx p f) s =
    .next (let s1 := rxFlit s p.val f flitData (fun s =>
        if flitSeq f = (linkOf s p.val).rxNext then acceptFlit s p.val f else discardFlit s p.val)
      if flitOk f then s1 else discardFlit s1 p.val) :=
  congrArg Outcome.next (if_pos hlink)

/-- A good data flit is accepted where its number is the one expected, and discarded where not. -/
theorem exec_linkDataFlitRx_of_good (hlink : molLink s p.val = true) (hok : flitOk f = true) (htype : flitType f = 1) :
    exec (.linkDataFlitRx p f) s =
      .next (if flitSeq f = (linkOf (ackFlits s p.val (flitAck f)) p.val).rxNext then acceptFlit (ackFlits s p.val (flitAck f)) p.val f
        else discardFlit (ackFlits s p.val (flitAck f)) p.val) := by
  rw [exec_linkDataFlitRx hlink, rxFlit_of_molLink (type := flitData) hlink hok htype (by decide)]
  exact congrArg Outcome.next (if_pos hok)

theorem exec_linkDataFlitRx_of_bad (hlink : molLink s p.val = true) (hbad : flitOk f = false) :
    exec (.linkDataFlitRx p f) s = .next (discardFlit (bump s .lnkPerr_crc 1 p.val) p.val) := by
  rw [exec_linkDataFlitRx hlink, rxFlit_of_bad hbad]
  exact congrArg Outcome.next (if_neg (Bool.eq_false_iff.mp hbad))

theorem exec_linkIdleFlitRx (hlink : molLink s p.val = true) :
    exec (.linkIdleFlitRx p f) s = .next (rxFlit s p.val f flitIdle id) := congrArg Outcome.next (if_pos hlink)

theorem exec_linkRetryRequestRx (hlink : molLink s p.val = true) (head : BitVec 32) (rest : BitVec 2016) :
    exec (.linkRetryRequestRx p head rest) s = .next (rxFlit s p.val (joinFlit head rest) flitRetry (fun s =>
      pumpFlits (rewind s p.val (flitWord (joinFlit head rest) 0 % 2 ^ 12)) p.val)) := congrArg Outcome.next (if_pos hlink)

/-- The check value of a discarded flit is counted, and nothing else. -/
theorem crcCounted_leaves (s : State) (p : Nat) :
    Counted s (bump s .lnkPerr_crc 1 p) .lnkPerr_crc p 1 ∧ OnlyRegs s (bump s .lnkPerr_crc 1 p) [.lnkPerr_crc] :=
  ⟨counted_bump .., onlyRegs_bump ..⟩

end Rows

/-! ### Retry requests (R403, R404) -/

section Retry
variable {s : State} {p : Nat}

theorem beginEpisode_of_some {n : Nat} (h : (linkOf s p).episode = some n) : beginEpisode s p = s := by
  rw [beginEpisode, h]

theorem beginEpisode_of_none (h : (linkOf s p).episode = none) : beginEpisode s p =
    setLink (bump s .lnkPerr_retries 1 p) p { linkOf s p with episode := some s.time.ticks } := by
  rw [beginEpisode, h]

/-- What an episode does to its link hangs on the link and the ticks alone. -/
theorem linkOf_beginEpisode_congr {t : State} (hl : linkOf t p = linkOf s p) (ht : t.time = s.time) :
    linkOf (beginEpisode t p) p = linkOf (beginEpisode s p) p := by
  cases h : (linkOf s p).episode with
  | none => rw [beginEpisode_of_none h, beginEpisode_of_none (hl ▸ h), linkOf_setLink_same, linkOf_setLink_same, hl, ht]
  | some n => rw [beginEpisode_of_some h, beginEpisode_of_some (hl ▸ h), hl]

theorem beginEpisode_leaves (s : State) (p : Nat) : KeptRegs s (beginEpisode s p) [.lnkPerr_retries] ∧
    (beginEpisode s p).mem = s.mem ∧ ((linkOf s p).episode = none → Counted s (beginEpisode s p) .lnkPerr_retries p 1) := by
  cases h : (linkOf s p).episode with
  | none =>
    have hcounted := counted_bump (s := s) .lnkPerr_retries 1 p
    have hkept := (onlyRegs_bump (s := s) .lnkPerr_retries 1 p).2
    rw [beginEpisode_of_none h]
    exact ⟨hkept, rfl, fun _ => hcounted⟩
  | some n =>
    rw [beginEpisode_of_some h]
    exact ⟨keptRegs_refl s _, rfl, fun hnone => by simp at hnone⟩

/-- A retry request is counted as its episode is, and writes nothing else. -/
theorem requestRetry_leaves (s : State) (p : Nat) : KeptRegs s (requestRetry s p) [.lnkPerr_retries] ∧
    (requestRetry s p).mem = s.mem ∧ ((linkOf s p).episode = none → Counted s (requestRetry s p) .lnkPerr_retries p 1) := by
  let u := setLink (beginEpisode s p) p { linkOf (beginEpisode s p) p with discard := true }
  obtain ⟨o, ho⟩ : ∃ o, requestRetry s p = { u with out := u.out ++ o } := exists_emitFlit_eq ..
  obtain ⟨hkept, hmem, hcount⟩ := beginEpisode_leaves s p
  have hget (g : Fld) (i : Nat) : get (requestRetry s p) g i = get (beginEpisode s p) g i := by rw [ho]; rfl
  refine ⟨fun g i hg => (hget g i).trans (hkept g i hg), by rw [ho]; exact hmem, fun hnone => ?_⟩
  rw [Counted, hget, hcount hnone]

theorem runs_linkDataFlitRx_of_bad {s : State} {p : Port} {f : BitVec 2048} (hlink : molLink s p.val = true) (hbad : flitOk f = false)
    (hfirst : (linkOf s p.val).discard = false) : Runs (.linkDataFlitRx p f) s (fun t =>
      t = sendFlit (setLink (beginEpisode (bump s .lnkPerr_crc 1 p.val) p.val) p.val { linkOf (beginEpisode s p.val) p.val with
        discard := true }) p.val flitRetry (linkOf s p.val).rxNext ∧ Counted s t .lnkPerr_crc p.val 1 ∧
      ((linkOf s p.val).episode = none → Counted s t .lnkPerr_retries p.val 1) ∧
      KeptRegs s t [.lnkPerr_crc, .lnkPerr_retries] ∧ KeptMem s t) := by
  have hcrc := crcCounted_leaves s p.val
  have hexec := exec_linkDataFlitRx_of_bad hlink hbad
  generalize hu : bump s .lnkPerr_crc 1 p.val = u at hcrc hexec ⊢
  have hsame : linkOf u p.val = linkOf s p.val := by rw [← hu]; rfl
  have htime : u.time = s.time := by rw [← hu]; rfl
  have hmem : u.mem = s.mem := by rw [← hu]; rfl
  obtain ⟨hcounted, -, hcrcKept⟩ := hcrc
  obtain ⟨hkept, hretryMem, hretries⟩ := requestRetry_leaves u p.val
  have hdiscard : discardFlit u p.val = requestRetry u p.val := if_neg (by rw [hsame, hfirst]; decide)
  refine ⟨_, hexec.trans (congrArg Outcome.next hdiscard), ?_, ?_, fun hnone => ?_, ?_, keptMem_of_mem_eq (hretryMem.trans hmem)⟩
  · rw [requestRetry, linkOf_beginEpisode_congr hsame htime, hsame]
  · rw [Counted, hkept _ _ (by decide), hcounted]
  · rw [Counted, hretries (hsame ▸ hnone), hcrcKept _ _ (by decide)]
  · exact keptRegs_trans (keptRegs_mono hcrcKept (by decide)) (keptRegs_mono hkept (by decide))

theorem exec_linkRetryTimeout {s : State} {p : Port} {n : Nat} (hepisode : (linkOf s p.val).episode = some n)
    (hport : isModulePort p.val = true) (h8 : fnReady s 8 = true) : exec (.linkRetryTimeout p) s =
    .next (if n + 1000 * max 10 (get s .lnkCtl_retry_us) < s.time.ticks then leaveService
      (logEvt (bump s .lnkPerr_trainings 1 p.val) 0x051 8 0 0 p.val ((s.time.ticks - n) / 1000)) p.val 1 else s) := by
  change execLinkRetryTimeout p s = _
  unfold execLinkRetryTimeout onlyIf
  rw [hepisode]
  dsimp only
  rw [hport, h8]
  simp only [Bool.true_and, decide_eq_true_eq]

end Retry

/-! ### Lanes that leave (R408, R409, R414) -/

section Lanes
variable {s : State} {p : Port}

theorem exec_linkLaneDropRx {f : BitVec 2048} (hmolind : isMolind p.val = true) (hlink : molLink s p.val = true)
    (hok : flitOk f = true) (htype : flitType f = 3) (hkind : ctlKind f = 2) :
    let s1 := ackFlits s p.val (flitAck f)
    let d := liveLanes s1 p.val (ctlLanes f)
    exec (.linkLaneDropRx p f) s = .next (if d = 0 then s1 else dropLanes s1 p.val d) := by
  intro s1 d
  have hboth : (isMolind p.val && molLink s p.val) = true := by rw [hmolind, hlink]; rfl
  refine congrArg Outcome.next ((if_pos hboth).trans ?_)
  dsimp only
  rw [rxFlit_of_molLink (type := flitControl) hlink hok htype (by decide)]
  have hdrop : (ctlKind f == ctlDrop) = true := beq_iff_eq.mpr hkind
  change (if (ctlKind f == ctlDrop && d != 0) = true then dropLanes s1 p.val d else s1) = _
  rw [hdrop, Bool.true_and]
  by_cases hd : d = 0 <;> simp [hd]

/-- Lane `i` has failed in a window by what the report says of it. -/
def laneFailed (s : State) (r : LaneReport) (i : Nat) : Bool :=
  r.lost.getLsbD i || decide (2 ^ get s .lnkCtl_ser_log2 < (r.symbols.getD i 0).toNat) ||
    decide (max 1 (get s .lnkCtl_fec_ue) ≤ (r.codewords.getD i 0).toNat)

/-- The sum of the lanes that have failed is their mask. -/
theorem sum_laneFailed (s : State) (r : LaneReport) (n : Nat) : ((List.range n).map (fun i =>
    if r.lost.getLsbD i ∨ 2 ^ get s .lnkCtl_ser_log2 < (r.symbols.getD i 0).toNat ∨
      max 1 (get s .lnkCtl_fec_ue) ≤ (r.codewords.getD i 0).toNat then 2 ^ i else 0)).sum = maskBelow (laneFailed s r) n := by
  induction n with
  | zero => rfl
  | succ n ih =>
    rw [List.range_succ, List.map_append, List.sum_append, ih, maskBelow_succ]
    simp only [laneFailed, Bool.or_eq_true, decide_eq_true_eq, or_assoc, List.map_cons, List.map_nil, List.sum_singleton]
    split <;> rfl

theorem getLsbD_failedLanes (s : State) (r : LaneReport) {i : Nat} (hi : i < 8) :
    (failedLanes s r).getLsbD i = laneFailed s r i := by
  rw [failedLanes, sum_laneFailed, BitVec.getLsbD_ofNat, testBit_maskBelow _ hi]
  simp [hi]

theorem exec_laneFailureDetected (hup : inService s p.val = true) (h8 : fnReady s 8 = true) (r : LaneReport) :
    let s1 := bump s .lnkPerr_fec_uncorr ((r.codewords.take 8).map BitVec.toNat).sum p.val
    let d := liveLanes s1 p.val (failedLanes s1 r)
    exec (.laneFailureDetected p r) s = .next (if d = 0 then s1 else lanesFailed s1 p.val d) := by
  intro s1 d
  have hboth : (inService s p.val && fnReady s 8) = true := by rw [hup, h8]; rfl
  refine congrArg Outcome.next ((if_pos hboth).trans ?_)
  change (if (d != 0) = true then lanesFailed s1 p.val d else s1) = _
  by_cases hd : d = 0 <;> simp [hd]

theorem laneFailureDetected_cases (hup : inService s p.val = true) (h8 : fnReady s 8 = true) (r : LaneReport) :
    let s1 := bump s .lnkPerr_fec_uncorr ((r.codewords.take 8).map BitVec.toNat).sum p.val
    let d := liveLanes s1 p.val (failedLanes s1 r)
    (∀ i : Fin 8, (failedLanes s1 r).getLsbD i.val = (r.lost.getLsbD i.val ||
      decide (2 ^ get s .lnkCtl_ser_log2 0 < (r.symbols.getD i.val 0).toNat) ||
      decide (max 1 (get s .lnkCtl_fec_ue 0) ≤ (r.codewords.getD i.val 0).toNat))) ∧
    (d = 0 → exec (.laneFailureDetected p r) s = .next s1) ∧
    (d ≠ 0 → exec (.laneFailureDetected p r) s =
      .next (if isMolind p.val then dropLanes (requestRetry (sendFlit s1 p.val flitControl (dropPayload d)) p.val) p.val d
        else renegotiate s1 p.val d)) := by
  intro s1 d
  have hexec := exec_laneFailureDetected hup h8 r
  have hkept : KeptRegs s s1 [.lnkPerr_fec_uncorr] := (onlyRegs_bump ..).2
  refine ⟨fun i => ?_, fun hd => hexec.trans (congrArg Outcome.next (if_pos hd)), fun hd => hexec.trans (congrArg Outcome.next (if_neg hd))⟩
  rw [getLsbD_failedLanes s1 r i.isLt, laneFailed, hkept _ _ (by decide), hkept _ _ (by decide)]

theorem laneCount_le (b : BitVec 8) : laneCount b ≤ 8 :=
  (List.length_filter_le _ _).trans (List.length_range).le

/-- The lanes that a link keeps. -/
def lanesKept (s : State) (p : Nat) (lanes : BitVec 8) : BitVec 8 := BitVec.ofNat 8 (get s .lnkPstat_lanes_ok p) &&& ~~~lanes

/-- A link is narrower by some lanes, before that is logged. -/
def narrowed (s : State) (p : Nat) (lanes : BitVec 8) : State :=
  let s1 := setLink (bump s .lnkPerr_degrades 1 p) p { linkOf s p with failed := (linkOf s p).failed ||| lanes }
  let s2 := put (put s1 .lnkPstat_lanes_ok (lanesKept s p lanes).toNat p) .lnkPstat_width (laneCount (lanesKept s p lanes)) p
  { s2 with time := { s2.time with exch := mset none s2.time.exch p none } }

/-- A hitless link that keeps a lane is narrower at once. -/
theorem dropLanes_of_hitless {q : Nat} {lanes : BitVec 8} (hhitless : (linkOf s q).hitless = true) (hkeeps : lanesKept s q lanes ≠ 0) :
    dropLanes s q lanes = logEvt (narrowed s q lanes) 0x050 8 0 0 q (laneCount (lanesKept s q lanes)) :=
  (if_neg hkeeps).trans (if_pos hhitless)

def degradeFlds : List Fld := [.lnkPerr_degrades, .lnkPstat_lanes_ok, .lnkPstat_width]

theorem narrowed_leaves (s : State) (q : Nat) (lanes : BitVec 8) :
    get (narrowed s q lanes) .lnkPstat_lanes_ok q = (lanesKept s q lanes).toNat ∧
    get (narrowed s q lanes) .lnkPstat_width q = laneCount (lanesKept s q lanes) ∧ (narrowed s q lanes).mem = s.mem ∧
    KeptRegs s (narrowed s q lanes) degradeFlds := by
  let s1 := setLink (bump s .lnkPerr_degrades 1 q) q { linkOf s q with failed := (linkOf s q).failed ||| lanes }
  have hcounted : KeptRegs s s1 degradeFlds := keptRegs_mono (onlyRegs_bump (s := s) .lnkPerr_degrades 1 q).2 (by decide)
  let s2 := put (put s1 .lnkPstat_lanes_ok (lanesKept s q lanes).toNat q) .lnkPstat_width (laneCount (lanesKept s q lanes)) q
  have hget (f : Fld) (i : Nat) : get (narrowed s q lanes) f i = get s2 f i := rfl
  have hlanes : get s2 .lnkPstat_lanes_ok q = (lanesKept s q lanes).toNat := by
    rw [get_put_fld _ _ _ _ (by decide), get_put_same]
    exact Nat.mod_eq_of_lt (lanesKept s q lanes).isLt
  have hwidth : get s2 .lnkPstat_width q = laneCount (lanesKept s q lanes) := by
    have hlt := laneCount_le (lanesKept s q lanes)
    rw [get_put_same]
    exact Nat.mod_eq_of_lt (show _ < 2 ^ 4 by omega)
  have hkept : KeptRegs s s2 degradeFlds := keptRegs_put (keptRegs_put hcounted (by decide) _ _) (by decide) _ _
  exact ⟨(hget _ _).trans hlanes, (hget _ _).trans hwidth, rfl, fun f i hf => (hget f i).trans (hkept f i hf)⟩

theorem dropLanes_leaves {q : Nat} {lanes : BitVec 8} (hhitless : (linkOf s q).hitless = true) (hkeeps : lanesKept s q lanes ≠ 0) :
    let t := dropLanes s q lanes
    get t .lnkPstat_lanes_ok q = (lanesKept s q lanes).toNat ∧ get t .lnkPstat_width q = laneCount (lanesKept s q lanes) ∧
    lnkState t q = lnkState s q ∧ KeptMem s t ∧
    KeptRegs s t (.lnkPerr_degrades :: .lnkPstat_lanes_ok :: .lnkPstat_width :: eventFlds) := by
  intro t
  have ht : t = _ := dropLanes_of_hitless hhitless hkeeps
  obtain ⟨hlanes, hwidth, hmem, hkept⟩ := narrowed_leaves s q lanes
  have hlogged : KeptRegs (narrowed s q lanes) t eventFlds := by
    rw [ht]
    exact keptRegs_logEvt _ _ _ _ _ _ _
  have hall : KeptRegs s t (.lnkPerr_degrades :: .lnkPstat_lanes_ok :: .lnkPstat_width :: eventFlds) :=
    keptRegs_trans (keptRegs_mono hkept (by decide)) (keptRegs_mono hlogged (by decide))
  refine ⟨(hlogged _ _ (by decide)).trans hlanes, (hlogged _ _ (by decide)).trans hwidth, hall _ _ (by decide), ?_, hall⟩
  rw [ht]
  exact keptMem_of_mem_eq ((logEvt_mem ..).trans hmem)

end Lanes

/-- Settles O51: each flit by its check value, type and number, and lanes by what is left of the link. -/
theorem linkFlitsAndLanes : Obligations.LinkFlitsAndLanes := by
  intro p s
  refine ⟨fun hlink f => ⟨fun hok htype => ⟨fun hseq => ?taken, fun hseq => ?discarded⟩, fun hok htype => ?idle,
    runs_linkDataFlitRx_of_bad hlink, fun hbad => ?badIdle, fun hbad hdiscard => ?badAgain⟩, fun hlink head rest =>
    ⟨fun hbad => ?badRetry, fun hok htype => ?retry⟩, fun n hepisode hport h8 => ⟨fun hover => ?late, fun hnot => ?inTime⟩,
    fun f hmolind hlink hok htype hkind => exec_linkLaneDropRx hmolind hlink hok htype hkind,
    fun r hup h8 => laneFailureDetected_cases hup h8 r, fun lanes => dropLanes_leaves⟩
  case taken => exact (exec_linkDataFlitRx_of_good hlink hok htype).trans (congrArg Outcome.next (if_pos hseq))
  case discarded => exact (exec_linkDataFlitRx_of_good hlink hok htype).trans (congrArg Outcome.next (if_neg hseq))
  case idle =>
    rw [exec_linkIdleFlitRx hlink, rxFlit_of_molLink (type := flitIdle) hlink hok htype (by decide)]
    rfl
  case badIdle => exact ⟨_, (exec_linkIdleFlitRx hlink).trans (congrArg Outcome.next (rxFlit_of_bad hbad)), crcCounted_leaves s p.val⟩
  case badAgain =>
    have hagain : discardFlit (bump s .lnkPerr_crc 1 p.val) p.val = bump s .lnkPerr_crc 1 p.val := if_pos hdiscard
    exact ⟨_, (exec_linkDataFlitRx_of_bad hlink hbad).trans (congrArg Outcome.next hagain), crcCounted_leaves s p.val⟩
  case badRetry =>
    exact ⟨_, (exec_linkRetryRequestRx hlink head rest).trans (congrArg Outcome.next (rxFlit_of_bad hbad)), crcCounted_leaves s p.val⟩
  case retry => rw [exec_linkRetryRequestRx hlink, rxFlit_of_molLink (type := flitRetry) hlink hok htype (by decide)]
  case late => rw [exec_linkRetryTimeout hepisode hport h8, if_pos hover]
  case inTime => exact ⟨s, by rw [exec_linkRetryTimeout hepisode hport h8, if_neg (Nat.not_lt.mpr hnot)], rfl⟩

end Sys2Proof.Machine
end


section
/-!
Media tasks start and end (R387, R427 to R430, R433, R445, R446); O54.
-/
namespace Sys2Proof.Machine
open Host

section Media
variable {s : State} {e : Nat}

/-- Where the record at the head of a ring lies, and its words as they are read. -/
def headAt (s : State) (e : Nat) : Nat := ringBase s e + 64 * (get s .medHead_head e % ringSize s e)
def headRecord (s : State) (e : Nat) : List Word := medWords (readOff s 0 255 (headAt s e) 64).2.2

/-- A ring that may start its record, where the record is read, starts it or not by its operation and what may hold it. -/
theorem startMedia_of_read {mine : Nat → Bool} (h6 : fnReady s 6 = true) (hrun : running s = true) (hbusy : ringBusy s e = true)
    (hidle : (medOf s e).task = none) (hin : inHbm s (headAt s e) = true) (hread : (readOff s 0 255 (headAt s e) 64).2.1 = 0) :
    let r := headRecord s e
    startMedia s e mine = if !mine (mOp r) then s
      else if resident s (mJob r) && eclipsed s (mJob r) then put s .medHead_state 2 e
      else if resident s (mJob r) && medMoving s r then s
      else setMed (put (runTask (readOff s 0 255 (headAt s e) 64).1 r).1 .medHead_state 1 e) e
        ⟨some (runTask (readOff s 0 255 (headAt s e) 64).1 r).2⟩ := by
  intro r
  have hgoes : ¬(!(fnReady s 6 && running s && ringBusy s e && (medOf s e).task.isNone)) = true := by simp [h6, hrun, hbusy, hidle]
  have hok : ¬(!inHbm s (headAt s e) || decide ((readOff s 0 255 (headAt s e) 64).2.1 ≠ 0)) = true := by simp [hin, hread]
  exact (if_neg hgoes).trans (if_neg hok)

/-- A record of the engine's own operation, which neither eclipse nor a move holds, starts. -/
theorem startMedia_of_starts {mine : Nat → Bool} (h6 : fnReady s 6 = true) (hrun : running s = true) (hbusy : ringBusy s e = true)
    (hidle : (medOf s e).task = none) (hin : inHbm s (headAt s e) = true) (hread : (readOff s 0 255 (headAt s e) 64).2.1 = 0)
    (hfree : resident s (mJob (headRecord s e)) = true →
      eclipsed s (mJob (headRecord s e)) = false ∧ medMoving s (headRecord s e) = false) (hmine : mine (mOp (headRecord s e)) = true) :
    startMedia s e mine =
      setMed (put (runTask (readOff s 0 255 (headAt s e) 64).1 (headRecord s e)).1 .medHead_state 1 e) e
        ⟨some (runTask (readOff s 0 255 (headAt s e) 64).1 (headRecord s e)).2⟩ := by
  have hown : ¬(!mine (mOp (headRecord s e))) = true := by simp [hmine]
  have heclipse : ¬(resident s (mJob (headRecord s e)) && eclipsed s (mJob (headRecord s e))) = true := by
    cases hres : resident s (mJob (headRecord s e))
    · exact Bool.false_ne_true
    · simp [(hfree hres).1]
  have hmove : ¬(resident s (mJob (headRecord s e)) && medMoving s (headRecord s e)) = true := by
    cases hres : resident s (mJob (headRecord s e))
    · exact Bool.false_ne_true
    · simp [(hfree hres).2]
  exact (startMedia_of_read h6 hrun hbusy hidle hin hread).trans ((if_neg hown).trans ((if_neg heclipse).trans (if_neg hmove)))

/-- A record of another operation does not start. -/
theorem startMedia_of_other {mine : Nat → Bool} (h6 : fnReady s 6 = true) (hrun : running s = true) (hbusy : ringBusy s e = true)
    (hidle : (medOf s e).task = none) (hin : inHbm s (headAt s e) = true) (hread : (readOff s 0 255 (headAt s e) 64).2.1 = 0)
    (hmine : mine (mOp (headRecord s e)) = false) : startMedia s e mine = s :=
  (startMedia_of_read h6 hrun hbusy hidle hin hread).trans (if_pos (by rw [hmine]; rfl))

theorem nextRecord_leaves (u : State) (e : Nat) :
    let t := nextRecord u e
    medOf t e = MedSt.init ∧ get t .medHead_state e = 0 ∧
    get t .medHead_head e = (get u .medHead_head e + 1) % ringSize u e % 2 ^ Fld.medHead_head.width ∧
    KeptRegs u t [.medHead_head, .medHead_state] ∧ KeptMem u t := by
  intro t
  let v := put (put u .medHead_head ((get u .medHead_head e + 1) % ringSize u e) e) .medHead_state 0 e
  have hget (f : Fld) (i : Nat) : get t f i = get v f i := rfl
  have hkept : KeptRegs u v [.medHead_head, .medHead_state] := keptRegs_put (keptRegs_put (keptRegs_refl u _) (by decide) _ _)
    (by decide) _ _
  have hmed : medOf t e = MedSt.init := mget_mset_same (d := MedSt.init) (m := v.med) e MedSt.init
  refine ⟨hmed, ?_, ?_, fun f i hf => (hget f i).trans (hkept f i hf), fun _ => rfl⟩
  · rw [hget, get_put_same]
    rfl
  · rw [hget, get_put_fld _ _ _ _ (by decide), get_put_same]

end Media

section Rows
variable {s : State} {e : Fin 2} {k : MedTask}

theorem exec_mediaTailWrite (hup : fn0Up s = true) (h6 : fnReady s 6 = true) (tail : BitVec 16) :
    exec (.mediaTailWrite e tail) s = .next (put s .medTail_tail tail.toNat e.val) := by
  have hboth : (fn0Up s && fnReady s 6) = true := by rw [hup, h6]; rfl
  exact congrArg Outcome.next (if_pos hboth)

/-- A task that has run ends, or aborts with what its record holds against it. -/
theorem exec_mediaTaskComplete (h6 : fnReady s 6 = true) (hrun : running s = true) (hk : (medOf s e.val).task = some k) :
    exec (.mediaTaskComplete e) s = .next (match k.err with
      | none => taskDone s e.val k
      | some b => taskAborted s e.val k b.1 b.2.1 b.2.2.1 b.2.2.2) := by
  have hboth : (fnReady s 6 && running s) = true := by rw [h6, hrun]; rfl
  change execMediaTaskComplete e s = _
  unfold execMediaTaskComplete
  rw [hk]
  exact congrArg Outcome.next (if_pos hboth)

theorem taskDone_of_open (h : closedAt s (mJob k.rec_) (lastWrites k) = none) : taskDone s e.val k = taskEnded s e.val k := by
  rw [taskDone, h]

theorem taskDone_of_closed (h : closedAt s (mJob k.rec_) (lastWrites k) ≠ none) : taskDone s e.val k =
    taskAborted (noteClosed s (mJob k.rec_) (lastWrites k)) e.val { k with undef := k.ranges } 0x01 8 0 0 := by
  obtain ⟨a, ha⟩ := Option.ne_none_iff_exists'.mp h
  rw [taskDone, ha]

end Rows

/-- Settles O54: a record starts by `startMedia_of_starts`, and a task ends by what its record and its views hold against it. -/
theorem mediaTasksRun : Obligations.MediaTasksRun := by
  intro e s h6
  refine ⟨fun tail hup => ⟨_, exec_mediaTailWrite hup h6 tail, ?tail⟩, fun hrun hbusy hidle hin hread hfree => ?starts,
    fun hrun k hk => ?ends, fun u => nextRecord_leaves u e.val⟩
  case tail =>
    exact ⟨(get_put_same ..).trans (Nat.mod_eq_of_lt tail.isLt), onlyRegs_put ..⟩
  case starts =>
    have hruns {mine : Nat → Bool} (hmine : mine (mOp (headRecord s e.val)) = true) :=
      startMedia_of_starts h6 hrun hbusy hidle hin hread hfree hmine
    have hother {mine : Nat → Bool} (hmine : mine (mOp (headRecord s e.val)) = false) :=
      startMedia_of_other h6 hrun hbusy hidle hin hread hmine
    simp only [List.forall_mem_cons, List.not_mem_nil, false_implies, implies_true, and_true, Bool.true_eq_false, iff_false, iff_true]
    exact ⟨⟨fun hop => congrArg Outcome.next (hruns (bne_iff_ne.mpr hop)),
        fun hop => ⟨s, congrArg Outcome.next (hother (bne_eq_false_iff_eq.mpr (not_not.mp hop))), rfl⟩⟩,
      ⟨fun hop => congrArg Outcome.next (hruns (beq_iff_eq.mpr hop)),
        fun hop => ⟨s, congrArg Outcome.next (hother (beq_eq_false_iff_ne.mpr hop)), rfl⟩⟩⟩
  case ends =>
    have hexec := exec_mediaTaskComplete h6 hrun hk
    refine ⟨fun hnone hopen => ?_, fun hnone hclosed => ?_, fun b hb => ?_⟩
    · rw [hexec, hnone]
      exact congrArg Outcome.next (taskDone_of_open hopen)
    · rw [hexec, hnone]
      exact congrArg Outcome.next (taskDone_of_closed hclosed)
    · rw [hexec, hb]

end Sys2Proof.Machine
end


section
/-!
What leaves on a link and what a link that goes out of service leaves (R403, R405, R410, R412, R413): what sending changes, and the states
that training, idling and writes of `LNK_PpCTL` bring; O52.
-/
namespace Sys2Proof.Machine
open Host

/-! ### What sending changes -/

/-- Nothing differs but contexts, links and what has left. -/
def NetOnly (s t : State) : Prop := ∃ x l o, t = { s with xpt := x, lnk := l, out := o }

section Net
variable {s t : State}

theorem netOnly_refl : NetOnly s s := ⟨s.xpt, s.lnk, s.out, rfl⟩

theorem netOnly_trans {u : State} (hst : NetOnly s t) (htu : NetOnly t u) : NetOnly s u := by
  obtain ⟨x, l, o, rfl⟩ := hst
  obtain ⟨x', l', o', rfl⟩ := htu
  exact ⟨x', l', o', rfl⟩

theorem netOnly_each {α : Type} {f : State → α → State} (hf : ∀ s a, NetOnly s (f s a)) (l : List α) (s : State) :
    NetOnly s (each l f s) := by
  induction l generalizing s with
  | nil => exact netOnly_refl
  | cons a l ih => exact netOnly_trans (hf s a) (ih (f s a))

theorem keptRegs_of_netOnly (h : NetOnly s t) (l : List Fld) : KeptRegs s t l := by
  obtain ⟨x, k, o, rfl⟩ := h
  exact keptRegs_of_regs_eq rfl rfl l

theorem mem_of_netOnly (h : NetOnly s t) : t.mem = s.mem := by
  obtain ⟨x, k, o, rfl⟩ := h
  rfl

theorem lnkState_of_netOnly (h : NetOnly s t) (p : Nat) : lnkState t p = lnkState s p :=
  keptRegs_of_netOnly h [] _ p (List.not_mem_nil)

theorem netOnly_setLink (s : State) (p : Nat) (x : LinkSt) : NetOnly s (setLink s p x) := ⟨s.xpt, _, s.out, rfl⟩

theorem netOnly_setCtx (s : State) (x : Nat) (k : CtxSt) : NetOnly s (setCtx s x k) := ⟨_, s.lnk, s.out, rfl⟩

theorem netOnly_emit (s : State) (o : Out) : NetOnly s (emit s o) := ⟨s.xpt, s.lnk, _, rfl⟩

theorem netOnly_pumpFlits (s : State) (p : Nat) : NetOnly s (pumpFlits s p) := by
  obtain ⟨l, o, h⟩ := exists_pumpFlits_eq s p
  exact ⟨s.xpt, l, o, h⟩

theorem netOnly_ackFlits (s : State) (p a : Nat) : NetOnly s (ackFlits s p a) := by
  obtain ⟨l, o, h⟩ := exists_ackFlits_eq s p a
  exact ⟨s.xpt, l, o, h⟩

theorem netOnly_queueFlit (s : State) (p : Nat) (b : Bytes) : NetOnly s (queueFlit s p b) :=
  netOnly_trans (netOnly_setLink ..) (netOnly_pumpFlits ..)

theorem netOnly_sendPacket (s : State) (k : Packet) : NetOnly s (sendPacket s k) := by
  unfold sendPacket onlyIf
  split
  · exact netOnly_trans (netOnly_emit ..) (netOnly_trans (netOnly_setLink ..) (netOnly_each (fun s x => netOnly_queueFlit s k.port x) ..))
  · exact netOnly_refl

theorem netOnly_sendFrame (s : State) (p : Nat) (f : RoceOut) : NetOnly s (sendFrame s p f) := by
  unfold sendFrame
  split
  · exact netOnly_refl
  · dsimp only
    split
    · exact netOnly_refl
    · split
      · exact netOnly_emit ..
      · split
        · exact netOnly_emit ..
        · exact netOnly_trans (netOnly_emit ..) (netOnly_setLink ..)

theorem netOnly_sendUnacked (s : State) (x : Nat) (u : Unacked) : NetOnly s (sendUnacked s x u) := by
  unfold sendUnacked
  split
  · exact netOnly_sendPacket ..
  · exact netOnly_sendFrame ..

theorem netOnly_pullQueue (x n : Nat) (s : State) : NetOnly s (pullQueue x n s) := by
  induction n generalizing s with
  | zero => exact netOnly_refl
  | succ n ih =>
    unfold pullQueue
    split
    · exact netOnly_refl
    · split
      · exact netOnly_trans (netOnly_trans (netOnly_setCtx ..) (netOnly_trans (netOnly_setCtx ..) (netOnly_sendUnacked ..))) (ih _)
      · exact netOnly_refl

theorem netOnly_pullAll (s : State) : NetOnly s (pullAll s) := netOnly_each (fun s (k : Nat × CtxSt) => netOnly_pullQueue k.1 k.2.queue.length s) _ s

theorem netOnly_forgetPort (s : State) (p : Nat) : NetOnly s (forgetPort s p) :=
  netOnly_trans (netOnly_each (fun s _ => netOnly_setCtx s _ _) _ s) (netOnly_trans ⟨_, _, _, rfl⟩ (netOnly_pullAll _))

end Net

/-! ### A follower loses sync (R38) -/

def syncFlds : List Fld := .tideStat_state :: .tideCnt_sync_lost :: eventFlds

theorem loseSync_leaves (s : State) : KeptRegs s (loseSync s) syncFlds ∧ (loseSync s).mem = s.mem := by
  have hholds : KeptRegs s (enterHoldover s) syncFlds :=
    keptRegs_bump (f := .tideCnt_sync_lost) (keptRegs_put (f := .tideStat_state) (keptRegs_refl s _) (by decide) 3 0) (by decide) 1 0
  unfold loseSync
  split
  · exact ⟨keptRegs_trans hholds (keptRegs_mono (keptRegs_logEvt _ _ _ _ _ _ _) (by decide)), logEvt_mem ..⟩
  · exact ⟨keptRegs_refl s _, rfl⟩

theorem keptRegs_loseSync_if (s : State) (b : Bool) : KeptRegs s (if b then loseSync s else s) syncFlds := by
  cases b
  · exact keptRegs_refl s _
  · exact (loseSync_leaves s).1

/-! ### A link out of service, and in training (R27, R404, R410) -/

section Service
variable (s : State) (p : Nat)

/-- A link that goes out of service is in the state given. -/
theorem lnkState_leaveService {n : Nat} (hn : n < 8) : lnkState (leaveService s p n) p = n := by
  let s1 := failPort (unackedCount s + 1) s p
  let s2 := setLink s1 p { LinkSt.init with downAt := s1.time.ticks, stampId := (linkOf s1 p).stampId, pkts := (linkOf s1 p).pkts }
  let s3 := { s2 with time := { s2.time with exch := mset none s2.time.exch p none } }
  let s4 := put (put (put s3 .lnkPstat_state n p) .lnkPstat_width 0 p) .lnkPstat_lanes_ok 0 p
  let s5 := put (put (put s4 .lnkPstat_rate 0 p) .lnkPstat_link_version 0 p) .lnkPstat_eth_mode 0 p
  have hleave : leaveService s p n = forgetPort (if isParent s5 p then loseSync s5 else s5) p := rfl
  have hstate : lnkState s5 p = n := by
    simp only [lnkState, s5, s4]
    repeat rw [get_put_fld _ _ _ _ (by decide)]
    exact (get_put_same ..).trans (Nat.mod_eq_of_lt hn)
  rw [hleave, lnkState_of_netOnly (netOnly_forgetPort _ p), lnkState, keptRegs_loseSync_if s5 _ _ _ (by decide)]
  exact hstate

/-- A full training begins in state 1, with no lane in service. -/
theorem startTraining_leaves : lnkState (startTraining s p) p = 1 ∧ get (startTraining s p) .lnkPstat_width p = 0 := by
  unfold startTraining
  dsimp only
  constructor
  · rw [lnkState, get_put_fld _ _ _ _ (by decide), get_put_fld _ _ _ _ (by decide), get_put_same]
    rfl
  · rw [get_put_fld _ _ _ _ (by decide), get_put_same]
    rfl

/-- The fields of a write of `LNK_PpCTL`. -/
def lnkCtlFields (v : Nat) : State :=
  let s1 := put (put (put s .lnkPctl_en (bitsOf v 0 0) p) .lnkPctl_allow_half (bitsOf v 1 1) p) .lnkPctl_eth_modes (bitsOf v 5 3) p
  let s2 := put (put s1 .lnkPctl_tx_swing (bitsOf v 7 6) p) .lnkPctl_lpi_dis (bitsOf v 8 8) p
  put (put s2 .lnkPctl_adapt_hold (bitsOf v 9 9) p) .lnkPctl_prbs (bitsOf v 10 10) p

theorem lnkCtlWrite_eq (v : Nat) : lnkCtlWrite s p v =
    if !(tst v 0 && !tst v 10) then
      (if flag s .lnkPctl_en p && !flag s .lnkPctl_prbs p then leaveService (lnkCtlFields s p v) p 0 else lnkCtlFields s p v)
    else if !(flag s .lnkPctl_en p && !flag s .lnkPctl_prbs p) || tst v 2 then startTraining (lnkCtlFields s p v) p
    else if tst v 8 && decide (lnkState (lnkCtlFields s p v) p = 4) then resume (lnkCtlFields s p v) p
    else lnkCtlFields s p v := rfl

variable {s p}

theorem lnkCtlWrite_of_retrain {v : Nat} (hen : tst v 0 = true) (hprbs : tst v 10 = false) (hretrain : tst v 2 = true) :
    lnkCtlWrite s p v = startTraining (lnkCtlFields s p v) p := by
  rw [lnkCtlWrite_eq, hen, hprbs, hretrain, Bool.or_true]
  rfl

theorem lnkCtlWrite_of_off {v : Nat} (hoff : tst v 0 = false ∨ tst v 10 = true) (hen : get s .lnkPctl_en p ≠ 0)
    (hprbs : get s .lnkPctl_prbs p = 0) : lnkCtlWrite s p v = leaveService (lnkCtlFields s p v) p 0 := by
  have hnot : (!(tst v 0 && !tst v 10)) = true := by
    rcases hoff with h | h
    · simp [h]
    · simp [h]
  have hwas : (flag s .lnkPctl_en p && !flag s .lnkPctl_prbs p) = true := by simp [flag, hen, hprbs]
  rw [lnkCtlWrite_eq, if_pos hnot, if_pos hwas]

end Service

end Sys2Proof.Machine
end


section
/-!
Capability flits, idle links, resolved addresses and the module's place (R13, R14, R405, R407, R412, R413, R416); O52.
-/
namespace Sys2Proof.Machine
open Host

/-! ### The link itself -/

section Link
variable (s : State) (p : Nat)

theorem lnk_each_emitFlit {α : Type} (g : α → BitVec 2048) (l : List α) : (each l (fun s x => emitFlit s p (g x)) s).lnk = s.lnk := by
  induction l generalizing s with
  | nil => rfl
  | cons x l ih =>
    obtain ⟨o, ho⟩ := exists_emitFlit_eq s p (g x)
    have hfirst : (emitFlit s p (g x)).lnk = s.lnk := by rw [ho]
    exact (ih _).trans hfirst

/-- What is sent of a port's flits changes how many wait and when the last one left. -/
theorem linkOf_pumpFlits : ∃ n d, linkOf (pumpFlits s p) p = { linkOf s p with unsent := n, lastData := d } := by
  unfold pumpFlits
  dsimp only
  rw [linkOf, lnk_each_emitFlit]
  exact ⟨_, _, mget_mset_same ..⟩

theorem linkOf_sendFlit (type payload : Nat) : linkOf (sendFlit s p type payload) p = linkOf s p := by
  obtain ⟨o, ho⟩ := exists_emitFlit_eq s p (mkFlit type (nextSeq (linkOf s p)) (lastSeq (linkOf s p)) payload)
  rw [sendFlit, ho]
  rfl

/-- A link keeps the peer that it knows. -/
def KeepsPeer (s t : State) (p : Nat) : Prop :=
  (linkOf t p).peer = (linkOf s p).peer ∧ (linkOf t p).peerPlaced = (linkOf s p).peerPlaced

theorem keepsPeer_pumpFlits : KeepsPeer s (pumpFlits s p) p := by
  obtain ⟨n, d, h⟩ := linkOf_pumpFlits s p
  rw [KeepsPeer, h]
  exact ⟨rfl, rfl⟩

variable {s p}

theorem keepsPeer_trans {t u : State} (hst : KeepsPeer s t p) (htu : KeepsPeer t u p) : KeepsPeer s u p :=
  ⟨htu.1.trans hst.1, htu.2.trans hst.2⟩

end Link

/-! ### A peer's capability (R405 to R407, R14) -/

section Cap
variable (s : State) (p : Nat) (f : CapFlit)

/-- What a capability flit reports is shown. -/
def capRegs : State :=
  let s1 := put (put (put s .lnkPpeer_slot f.slot.toNat p) .lnkPpeer_tray f.tray.toNat p) .lnkPpeer_group f.group.toNat p
  put (put s1 .lnkPpeer_transport f.transportVersions.toNat p) .lnkPpeer_numeric_gen f.numericGen.toNat p

/-- The capability flit is kept, and acknowledged. -/
def capNoted : State :=
  sendCapAck (setLink (capRegs s p f) p { linkOf (capRegs s p f) p with peer := some f, peerPlaced := f.placed }) p

/-- The peer is placed as it was. -/
def samePlace : Bool :=
  f.placed && decide (get s .lnkPpeer_slot p = f.slot.toNat) && decide (get s .lnkPpeer_tray p = f.tray.toNat) &&
    decide (get s .lnkPpeer_group p = f.group.toNat)

/-- A hold ends with another peer. -/
def capShown : State := if samePlace s p f then capNoted s p f else put (capNoted s p f) .lnkPpeer_mismatch 0 p

theorem capArrived_eq : capArrived s p f = if lnkState (capShown s p f) p = 1 then settleLink (capShown s p f) p
    else if lnkState (capShown s p f) p = 2 then
      (if flag (capShown s p f) .lnkPpeer_mismatch p then capShown s p f else enterService (capShown s p f) p f)
    else pumpFlits (checkPlace (capShown s p f) p) p := rfl

def peerFlds : List Fld := [.lnkPpeer_slot, .lnkPpeer_tray, .lnkPpeer_group, .lnkPpeer_transport, .lnkPpeer_numeric_gen,
  .lnkPpeer_mismatch, .lnkPstat_state]

theorem keptRegs_capRegs : KeptRegs s (capRegs s p f) [.lnkPpeer_slot, .lnkPpeer_tray, .lnkPpeer_group, .lnkPpeer_transport,
    .lnkPpeer_numeric_gen] :=
  keptRegs_put (keptRegs_put (keptRegs_put (keptRegs_put (keptRegs_put (keptRegs_refl s _) (by decide) _ _) (by decide) _ _)
    (by decide) _ _) (by decide) _ _) (by decide) _ _

theorem capRegs_leaves : get (capRegs s p f) .lnkPpeer_slot p = f.slot.toNat ∧ get (capRegs s p f) .lnkPpeer_tray p = f.tray.toNat ∧
    get (capRegs s p f) .lnkPpeer_group p = f.group.toNat := by
  unfold capRegs
  dsimp only
  refine ⟨?_, ?_, ?_⟩
  · repeat rw [get_put_fld _ _ _ _ (by decide)]
    exact (get_put_same ..).trans (Nat.mod_eq_of_lt f.slot.isLt)
  · repeat rw [get_put_fld _ _ _ _ (by decide)]
    exact (get_put_same ..).trans (Nat.mod_eq_of_lt f.tray.isLt)
  · repeat rw [get_put_fld _ _ _ _ (by decide)]
    exact (get_put_same ..).trans (Nat.mod_eq_of_lt f.group.isLt)

/-- What a state knows of a port's peer, beside what its link state and its hold come to. -/
structure KnowsPeer (s t : State) (p : Nat) (f : CapFlit) : Prop where
  peer : (linkOf t p).peer = some f
  placed : (linkOf t p).peerPlaced = f.placed
  slot : get t .lnkPpeer_slot p = f.slot.toNat
  tray : get t .lnkPpeer_tray p = f.tray.toNat
  group : get t .lnkPpeer_group p = f.group.toNat
  mem : t.mem = s.mem
  kept : KeptRegs s t peerFlds

variable {s p f}

theorem KnowsPeer.mono {t u : State} (h : KnowsPeer s t p f) (hpeer : KeepsPeer t u p) (hmem : u.mem = t.mem)
    (hkept : KeptRegs t u [.lnkPpeer_mismatch, .lnkPstat_state]) : KnowsPeer s u p f where
  peer := hpeer.1.trans h.peer
  placed := hpeer.2.trans h.placed
  slot := (hkept _ _ (by decide)).trans h.slot
  tray := (hkept _ _ (by decide)).trans h.tray
  group := (hkept _ _ (by decide)).trans h.group
  mem := hmem.trans h.mem
  kept := keptRegs_trans h.kept (keptRegs_mono hkept (by decide))

theorem knowsPeer_capNoted (s : State) (p : Nat) (f : CapFlit) : KnowsPeer s (capNoted s p f) p f := by
  let u := setLink (capRegs s p f) p { linkOf (capRegs s p f) p with peer := some f, peerPlaced := f.placed }
  have hlink : linkOf (capNoted s p f) p = { linkOf (capRegs s p f) p with peer := some f, peerPlaced := f.placed } :=
    (linkOf_sendFlit (freeTick u) p _ _).trans (linkOf_setLink_same ..)
  obtain ⟨o, ho⟩ : ∃ o, capNoted s p f = { freeTick u with out := (freeTick u).out ++ o } := exists_emitFlit_eq ..
  have hget (g : Fld) (i : Nat) : get (capNoted s p f) g i = get (capRegs s p f) g i := by rw [ho]; rfl
  have hkept := keptRegs_mono (keptRegs_capRegs s p f) (show _ ⊆ peerFlds by decide)
  obtain ⟨hslot, htray, hgroup⟩ := capRegs_leaves s p f
  exact ⟨by rw [hlink], by rw [hlink], (hget _ _).trans hslot, (hget _ _).trans htray, (hget _ _).trans hgroup, by rw [ho]; rfl,
    fun g i hg => (hget g i).trans (hkept g i hg)⟩

theorem knowsPeer_capShown (s : State) (p : Nat) (f : CapFlit) : KnowsPeer s (capShown s p f) p f := by
  unfold capShown
  split
  · exact knowsPeer_capNoted s p f
  · exact (knowsPeer_capNoted s p f).mono ⟨rfl, rfl⟩ rfl (keptRegs_put (keptRegs_refl _ _) (by decide) _ _)

theorem lnkState_capShown : lnkState (capShown s p f) p = lnkState s p := by
  have hnoted : lnkState (capNoted s p f) p = lnkState s p := by
    obtain ⟨o, ho⟩ := exists_emitFlit_eq (freeTick (setLink (capRegs s p f) p
      { linkOf (capRegs s p f) p with peer := some f, peerPlaced := f.placed })) p _
    refine Eq.trans ?_ (keptRegs_capRegs s p f .lnkPstat_state p (by decide))
    rw [capNoted, sendCapAck, sendFlit, ho]
    rfl
  unfold capShown
  split
  · exact hnoted
  · exact (get_put_fld _ _ _ _ (by decide)).trans hnoted

theorem placed_capShown (h : placed s = false) : placed (capShown s p f) = false := by
  have hkept := (knowsPeer_capShown s p f).kept .ctlPlace_placed 0 (by decide)
  rw [placed, flag] at h ⊢
  rwa [hkept]

theorem resume_leaves (s : State) (p : Nat) : KeepsPeer s (resume s p) p ∧ (resume s p).mem = s.mem ∧
    KeptRegs s (resume s p) [.lnkPpeer_mismatch, .lnkPstat_state] := by
  let l : LinkSt := { linkOf s p with
    episode := if !(linkOf s p).discard && (linkOf s p).replay.isEmpty then none else (linkOf s p).episode }
  let u := put (setLink s p l) .lnkPstat_state 3 p
  have hnet := netOnly_pumpFlits u p
  have hlink : linkOf u p = l := linkOf_setLink_same s p l
  have hfirst : KeepsPeer s u p := by
    rw [KeepsPeer, hlink]
    exact ⟨rfl, rfl⟩
  have hkept : KeptRegs s u [.lnkPpeer_mismatch, .lnkPstat_state] :=
    keptRegs_put (t := setLink s p l) (keptRegs_of_regs_eq rfl rfl _) (by decide) _ _
  exact ⟨keepsPeer_trans hfirst (keepsPeer_pumpFlits u p), (mem_of_netOnly hnet).trans rfl,
    keptRegs_trans hkept (keptRegs_of_netOnly hnet _)⟩

/-- On a module that is not placed, a peer's place is not wrong (R14). -/
theorem placeWrong_of_unplaced (h : placed s = false) : placeWrong s p f = false := by
  rw [placeWrong, h]
  rfl

theorem checkPlace_of_unplaced (h : placed s = false) : checkPlace s p = s := by
  unfold checkPlace
  split
  · rfl
  · rw [placeWrong_of_unplaced h, Bool.and_false, if_neg Bool.false_ne_true]

/-- A module that is not placed shows a peer's capability, whether its link settled before or not. -/
theorem knowsPeer_capArrived (htrained : lnkState s p ≠ 1) (hplaced : placed s = false) : KnowsPeer s (capArrived s p f) p f := by
  have hshown := knowsPeer_capShown s p f
  have hunplaced : placed (capShown s p f) = false := placed_capShown hplaced
  rw [capArrived_eq, lnkState_capShown, if_neg htrained]
  split
  · cases hmis : flag (capShown s p f) .lnkPpeer_mismatch p
    case true => exact hshown
    case false =>
      have henter : enterService (capShown s p f) p f = resume (capShown s p f) p := by
        rw [enterService, hmis, if_neg Bool.false_ne_true, placeWrong_of_unplaced hunplaced, if_neg Bool.false_ne_true]
      obtain ⟨hpeer, hmem, hkept⟩ := resume_leaves (capShown s p f) p
      rw [if_neg Bool.false_ne_true, henter]
      exact hshown.mono hpeer hmem hkept
  · have hnet := netOnly_pumpFlits (capShown s p f) p
    rw [checkPlace_of_unplaced hunplaced]
    exact hshown.mono (keepsPeer_pumpFlits ..) (mem_of_netOnly hnet) (keptRegs_of_netOnly hnet _)

end Cap

end Sys2Proof.Machine
end


section
/-!
Resolved addresses, the module's place and the rows of links (R13, R405 to R407, R410, R412, R413, R416); O52.
-/
namespace Sys2Proof.Machine
open Host

/-! ### An address is resolved (R416) -/

section Learn
variable (s : State) (p : Nat) (d : BitVec 128) (mac : BitVec 48)

/-- What leaves of a frame that waited for `d`: nothing where the port has no address of its kind. -/
def waitOut (f : RoceOut) : Option Out :=
  (ethSrc s (p - 40) d.toNat).map (fun a => .roce p { f with
    src := BitVec.ofNat 128 a
    mac := if onLink s (p - 40) d.toNat then mac else BitVec.ofNat 48 (get s .lnkEgw_gw_mac (p - 40)) })

/-- What leaves of the frames that waited for `d`. -/
def waitOuts (l : List RoceOut) : List Out := if lnkState s p = 3 then l.filterMap (waitOut s p d mac) else []

variable {s p d mac}

/-- A frame to a resolved destination leaves, and changes nothing else. -/
theorem sendFrame_of_resolved (hn : neighbour (linkOf s p) d = some mac) {f : RoceOut} (hf : f.dst = d) :
    sendFrame s p f = { s with out := s.out ++ waitOuts s p d mac [f] } := by
  subst hf
  have hnone (h : waitOuts s p f.dst mac [f] = []) : s = { s with out := s.out ++ waitOuts s p f.dst mac [f] } := by
    rw [h, List.append_nil]
  unfold sendFrame
  cases hsrc : ethSrc s (p - 40) f.dst.toNat with
  | none =>
    refine hnone ?_
    simp [waitOuts, waitOut, hsrc]
  | some a =>
    dsimp only
    by_cases hstate : lnkState s p = 3
    · rw [if_neg (not_not.mpr hstate)]
      cases hon : onLink s (p - 40) f.dst.toNat
      · simp [waitOuts, waitOut, hsrc, hstate, hon, emit]
      · simp [waitOuts, waitOut, hsrc, hstate, hon, emit, hn]
    · rw [if_pos hstate]
      exact hnone (if_neg hstate)

theorem waitOuts_cons (f : RoceOut) (l : List RoceOut) :
    waitOuts s p d mac (f :: l) = waitOuts s p d mac [f] ++ waitOuts s p d mac l := by
  unfold waitOuts
  split
  · rw [← List.filterMap_append]
    rfl
  · rfl

theorem each_sendFrame_of_resolved {l : List RoceOut} (hl : ∀ f ∈ l, f.dst = d) {s : State} (hn : neighbour (linkOf s p) d = some mac) :
    each l (fun s f => sendFrame s p f) s = { s with out := s.out ++ waitOuts s p d mac l } := by
  induction l generalizing s with
  | nil =>
    have hnil : waitOuts s p d mac [] = [] := by simp [waitOuts]
    rw [hnil, List.append_nil]
    rfl
  | cons f l ih =>
    have hstep : each (f :: l) (fun s f => sendFrame s p f) s = each l (fun s f => sendFrame s p f) (sendFrame s p f) := rfl
    have hrest := ih (fun g hg => hl g (List.mem_cons_of_mem _ hg)) (s := { s with out := s.out ++ waitOuts s p d mac [f] }) hn
    rw [hstep, sendFrame_of_resolved hn (hl f List.mem_cons_self), hrest, waitOuts_cons f l, ← List.append_assoc]
    rfl

/-- The link of a port that has learnt where `d` is. -/
def learnt (l : LinkSt) (d : BitVec 128) (mac : BitVec 48) : LinkSt :=
  { l with neigh := l.neigh.filter (fun n => n.1 != d) ++ [(d, mac)], resolve := l.resolve.filter (fun f => f.dst != d) }

theorem neighbour_learnt (l : LinkSt) (d : BitVec 128) (mac : BitVec 48) : neighbour (learnt l d mac) d = some mac := by
  have hnone : (l.neigh.filter (fun n => n.1 != d)).find? (fun n => n.1 == d) = none := by
    rw [List.find?_eq_none]
    intro n hn
    simpa using (List.mem_filter.mp hn).2
  simp [neighbour, learnt, List.find?_append, hnone]

theorem learn_eq (s : State) (p : Nat) (d : BitVec 128) (mac : BitVec 48) :
    learn s p d mac = { setLink s p (learnt (linkOf s p) d mac) with
      out := s.out ++ waitOuts s p d mac ((linkOf s p).resolve.filter (fun f => f.dst == d)) } := by
  have hl : ∀ f ∈ (linkOf s p).resolve.filter (fun f => f.dst == d), f.dst = d := fun f hf => by
    simpa using (List.mem_filter.mp hf).2
  exact each_sendFrame_of_resolved hl (s := setLink s p (learnt (linkOf s p) d mac)) (by
    rw [linkOf_setLink_same]
    exact neighbour_learnt ..)

theorem learn_leaves (s : State) (e : Fin 7) (d : BitVec 128) (mac : BitVec 48) :
    let t := learn s (40 + e.val) d mac
    neighbour (linkOf t (40 + e.val)) d = some mac ∧ (∀ f ∈ (linkOf t (40 + e.val)).resolve, f.dst ≠ d) ∧
    t.out = s.out ++ (if lnkState s (40 + e.val) = 3 then
      ((linkOf s (40 + e.val)).resolve.filter (fun f => f.dst == d)).filterMap (fun f =>
        (ethSrc s e.val d.toNat).map (fun a => .roce (40 + e.val) { f with
          src := BitVec.ofNat 128 a
          mac := if onLink s e.val d.toNat then mac else BitVec.ofNat 48 (get s .lnkEgw_gw_mac e.val) })) else []) ∧
    KeptRegs s t [] ∧ KeptMem s t := by
  intro t
  have ht : t = _ := learn_eq s (40 + e.val) d mac
  have hlink : linkOf t (40 + e.val) = learnt (linkOf s (40 + e.val)) d mac := by
    rw [ht]
    exact mget_mset_same ..
  have hport : 40 + e.val - 40 = e.val := Nat.add_sub_cancel_left ..
  rw [hlink]
  refine ⟨neighbour_learnt .., fun f hf => ?_, ?_, ?_, ?_⟩
  · simpa using (List.mem_filter.mp hf).2
  · rw [ht]
    unfold waitOuts waitOut
    rw [hport]
  · rw [ht]
    exact keptRegs_of_regs_eq rfl rfl _
  · rw [ht]
    exact fun _ => rfl

end Learn

/-! ### The module's place (R13, R14) -/

/-- What a check of a link's peer may write. -/
def placeFlds : List Fld := .lnkPstat_state :: .lnkPpeer_mismatch :: syncFlds

/-- Memory stays, and of the registers only those that a check of a peer may write differ. -/
structure Checked (s t : State) : Prop where
  kept : KeptRegs s t placeFlds
  mem : t.mem = s.mem

namespace Checked
variable {s t u : State}

theorem refl : Checked s s := ⟨keptRegs_refl s _, rfl⟩

theorem trans (hst : Checked s t) (htu : Checked t u) : Checked s u := ⟨keptRegs_trans hst.kept htu.kept, htu.mem.trans hst.mem⟩

theorem of_netOnly (h : NetOnly s t) : Checked s t := ⟨keptRegs_of_netOnly h _, mem_of_netOnly h⟩

theorem each {α : Type} {f : State → α → State} (hf : ∀ s a, Checked s (f s a)) (l : List α) (s : State) : Checked s (each l f s) := by
  induction l generalizing s with
  | nil => exact refl
  | cons a l ih => exact (hf s a).trans (ih (f s a))

end Checked

section Place
variable (s : State) (p : Nat)

theorem checked_loseSync : Checked s (loseSync s) :=
  ⟨keptRegs_mono (loseSync_leaves s).1 (by decide), (loseSync_leaves s).2⟩

theorem checked_holdLink : Checked s (holdLink s p) := by
  let s1 := setLink (put (put s .lnkPstat_state 2 p) .lnkPpeer_mismatch 1 p) p { linkOf s p with episode := none }
  let s2 := { s1 with time := { s1.time with exch := mset none s1.time.exch p none } }
  have hkept : KeptRegs s (put (put s .lnkPstat_state 2 p) .lnkPpeer_mismatch 1 p) placeFlds :=
    keptRegs_put (keptRegs_put (keptRegs_refl s _) (by decide) _ _) (by decide) _ _
  have hheld : Checked s s2 := ⟨hkept, rfl⟩
  have hhold : holdLink s p = if isParent s2 p then loseSync s2 else s2 := rfl
  rw [hhold]
  split
  · exact hheld.trans (checked_loseSync s2)
  · exact hheld

theorem checked_refusePlace (f : CapFlit) : Checked s (refusePlace s p f) :=
  Checked.trans ⟨keptRegs_mono (keptRegs_logEvt _ _ _ _ _ _ _) (by decide), logEvt_mem ..⟩ (checked_holdLink _ p)

theorem checked_checkPlace : Checked s (checkPlace s p) := by
  unfold checkPlace
  split
  · exact .refl
  · split
    · exact checked_refusePlace ..
    · exact .refl

theorem netOnly_sendFlit (type payload : Nat) : NetOnly s (sendFlit s p type payload) := by
  obtain ⟨o, ho⟩ := exists_emitFlit_eq s p (mkFlit type (nextSeq (linkOf s p)) (lastSeq (linkOf s p)) payload)
  exact ⟨s.xpt, s.lnk, _, ho⟩

theorem netOnly_sendCap : NetOnly s (sendCap s p) := netOnly_trans (netOnly_setLink ..) (netOnly_sendFlit ..)

/-- The fields of a write of `CTL_PLACE`. -/
def placeSet (v : Nat) : State :=
  let s1 := put (put (put s .ctlPlace_slot (bitsOf v 1 0)) .ctlPlace_tray (bitsOf v 4 2)) .ctlPlace_group (bitsOf v 11 5)
  put (put s1 .ctlPlace_groups_m1 (bitsOf v 18 12)) .ctlPlace_placed (bitsOf v 19 19)

theorem placeSet_leaves (v : Nat) : get (placeSet s v) .ctlPlace_slot = bitsOf v 1 0 ∧ get (placeSet s v) .ctlPlace_tray = bitsOf v 4 2 ∧
    get (placeSet s v) .ctlPlace_group = bitsOf v 11 5 ∧ get (placeSet s v) .ctlPlace_groups_m1 = bitsOf v 18 12 ∧
    get (placeSet s v) .ctlPlace_placed = bitsOf v 19 19 := by
  unfold placeSet
  dsimp only
  refine ⟨?_, ?_, ?_, ?_, ?_⟩
  · repeat rw [get_put_fld _ _ _ _ (by decide)]
    exact (get_put_same ..).trans (Nat.mod_eq_of_lt (bitsOf_lt v 1 0))
  · repeat rw [get_put_fld _ _ _ _ (by decide)]
    exact (get_put_same ..).trans (Nat.mod_eq_of_lt (bitsOf_lt v 4 2))
  · repeat rw [get_put_fld _ _ _ _ (by decide)]
    exact (get_put_same ..).trans (Nat.mod_eq_of_lt (bitsOf_lt v 11 5))
  · rw [get_put_fld _ _ _ _ (by decide)]
    exact (get_put_same ..).trans (Nat.mod_eq_of_lt (bitsOf_lt v 18 12))
  · exact (get_put_same ..).trans (Nat.mod_eq_of_lt (bitsOf_lt v 19 19))

theorem checked_ctlPlace (v : Nat) (h : placed s = false) : Checked (placeSet s v) (ctlPlace s v) := by
  have hset : ctlPlace s v = if tst v 19 then each (List.range 48) (fun s p =>
      if isModulePort p && portPresent s p && linkTrained s p then pumpFlits (checkPlace (sendCap s p) p) p else s) (placeSet s v)
    else placeSet s v := if_neg (Bool.eq_false_iff.mp h)
  rw [hset]
  split
  · refine Checked.each (fun u q => ?_) _ _
    split
    · exact ((Checked.of_netOnly (netOnly_sendCap u q)).trans (checked_checkPlace _ q)).trans (.of_netOnly (netOnly_pumpFlits _ q))
    · exact .refl
  · exact .refl

variable {s}

theorem runs_ctlPlaceWrite (hup : fn0Up s = true) (hplaced : placed s = false) (v : BitVec 64) : Runs (.ctlPlaceWrite v) s (fun t =>
    get t .ctlPlace_slot 0 = bitsOf v.toNat 1 0 ∧ get t .ctlPlace_tray 0 = bitsOf v.toNat 4 2 ∧
    get t .ctlPlace_group 0 = bitsOf v.toNat 11 5 ∧ get t .ctlPlace_groups_m1 0 = bitsOf v.toNat 18 12 ∧
    get t .ctlPlace_placed 0 = bitsOf v.toNat 19 19 ∧ KeptMem s t) := by
  have hexec : exec (.ctlPlaceWrite v) s = .next (ctlPlace s v.toNat) := congrArg Outcome.next (if_pos hup)
  obtain ⟨hkept, hmem⟩ := checked_ctlPlace s v.toNat hplaced
  obtain ⟨hslot, htray, hgroup, hgroups, hset⟩ := placeSet_leaves s v.toNat
  exact ⟨_, hexec, (hkept _ _ (by decide)).trans hslot, (hkept _ _ (by decide)).trans htray, (hkept _ _ (by decide)).trans hgroup,
    (hkept _ _ (by decide)).trans hgroups, (hkept _ _ (by decide)).trans hset, keptMem_of_mem_eq hmem⟩

theorem runs_ctlPlaceWrite_placed (hup : fn0Up s = true) (hplaced : placed s = true) (v : BitVec 64) :
    Runs (.ctlPlaceWrite v) s (fun t => t = s) :=
  ⟨_, congrArg Outcome.next (if_pos hup), if_pos hplaced⟩

end Place

/-! ### The rows of a port -/

section Rows
variable {s : State} {p : Port}

theorem exec_linkTrained (hport : portPresent s p.val = true) (h8 : fnReady s 8 = true) (lanes : BitVec 8) (half : Bool)
    (mac : BitVec 48) (hen : get s .lnkPctl_en p.val ≠ 0) (hprbs : get s .lnkPctl_prbs p.val = 0)
    (hstate : lnkState s p.val = 1 ∨ lnkState s p.val = 5 ∧ isMolind p.val = true) :
    exec (.linkTrained p lanes ⟨half, mac⟩) s = .next (trained s p.val lanes half mac) := by
  refine congrArg Outcome.next (if_pos ?_)
  rcases hstate with h | ⟨h, hmolind⟩
  · simp [hport, h8, flag, hen, hprbs, h]
  · simp [hport, h8, flag, hen, hprbs, h, hmolind]

section Capability
variable {f : BitVec 2048} (hport : portPresent s p.val = true) (h8 : fnReady s 8 = true) (hmodule : isModulePort p.val = true)
  (hok : flitOk f = true) (htype : flitType f = 3)
include hport h8 hmodule hok htype

theorem exec_linkCapabilityRx (hstate : lnkState s p.val ≠ 0) (hkind : ctlKind f = 1) : exec (.linkCapabilityRx p f) s =
    .next (capArrived (if inService s p.val then ackFlits s p.val (flitAck f) else s) p.val (capFields f)) := by
  have hgoes : (portPresent s p.val && isModulePort p.val && fnReady s 8 && decide (lnkState s p.val ≠ 0)) = true := by
    simp [hport, hmodule, h8, hstate]
  refine congrArg Outcome.next ((if_pos hgoes).trans ?_)
  dsimp only
  rw [rxFlit_of_good (type := flitControl) hok htype (by decide)]
  exact if_pos (beq_iff_eq.mpr hkind)

theorem exec_linkCapabilityAckRx (hkind : ctlKind f = 3) :
    let s1 := if inService s p.val then ackFlits s p.val (flitAck f) else s
    exec (.linkCapabilityAckRx ⟨p, f⟩) s = .next (setLink s1 p.val { linkOf s1 p.val with capAcked := true }) := by
  intro s1
  have hgoes : (portPresent s p.val && isModulePort p.val && fnReady s 8) = true := by simp [hport, hmodule, h8]
  refine congrArg Outcome.next ((if_pos hgoes).trans ?_)
  dsimp only
  rw [rxFlit_of_good (type := flitControl) hok htype (by decide)]
  exact if_pos (beq_iff_eq.mpr hkind)

theorem runs_linkCapabilityRx (hstate : lnkState s p.val ≠ 0) (htrained : lnkState s p.val ≠ 1) (hkind : ctlKind f = 1)
    (hplaced : placed s = false) : Runs (.linkCapabilityRx p f) s (fun t => (linkOf t p.val).peer = some (capFields f) ∧
      (linkOf t p.val).peerPlaced = (capFields f).placed ∧ get t .lnkPpeer_slot p.val = (capFields f).slot.toNat ∧
      get t .lnkPpeer_tray p.val = (capFields f).tray.toNat ∧ get t .lnkPpeer_group p.val = (capFields f).group.toNat ∧ KeptMem s t ∧
      KeptRegs s t [.lnkPpeer_slot, .lnkPpeer_tray, .lnkPpeer_group, .lnkPpeer_transport, .lnkPpeer_numeric_gen, .lnkPpeer_mismatch,
        .lnkPstat_state]) := by
  have hexec := exec_linkCapabilityRx hport h8 hmodule hok htype hstate hkind
  have hnet : NetOnly s (if inService s p.val then ackFlits s p.val (flitAck f) else s) := by
    split
    · exact netOnly_ackFlits ..
    · exact netOnly_refl
  generalize (if inService s p.val then ackFlits s p.val (flitAck f) else s) = s1 at hexec hnet
  have hstate1 : lnkState s1 p.val = lnkState s p.val := lnkState_of_netOnly hnet p.val
  have hplaced1 : placed s1 = false := by
    rw [placed, flag] at hplaced ⊢
    rwa [keptRegs_of_netOnly hnet [] _ _ List.not_mem_nil]
  have hknows := knowsPeer_capArrived (f := capFields f) (hstate1 ▸ htrained) hplaced1
  exact ⟨_, hexec, hknows.peer, hknows.placed, hknows.slot, hknows.tray, hknows.group,
    keptMem_of_mem_eq (hknows.mem.trans (mem_of_netOnly hnet)), keptRegs_trans (keptRegs_of_netOnly hnet _) hknows.kept⟩

end Capability

theorem runs_capabilityResend (hport : portPresent s p.val = true) (h8 : fnReady s 8 = true) (hmodule : isModulePort p.val = true)
    (hacked : (linkOf s p.val).capAcked = false) (hown : (linkOf s p.val).own ≠ 0)
    (hdue : (linkOf s p.val).capAt + 10000 ≤ s.time.ticks) : Runs (.capabilityResend p) s (fun t =>
      t = sendFlit (setLink s p.val { linkOf s p.val with capAcked := false, capAt := s.time.ticks }) p.val flitControl
        (capPayload (capFlit s p.val)) ∧ (linkOf t p.val).capAt = s.time.ticks ∧ (linkOf t p.val).capAcked = false ∧
      { t with lnk := s.lnk, out := s.out } = s) := by
  have hgoes : (portPresent s p.val && isModulePort p.val && fnReady s 8 && !(linkOf s p.val).capAcked &&
      decide ((linkOf s p.val).own ≠ 0) && decide ((linkOf s p.val).capAt + 10000 ≤ s.time.ticks)) = true := by
    rw [hport, hmodule, h8, hacked, decide_eq_true hown, decide_eq_true hdue]
    rfl
  have hexec : exec (.capabilityResend p) s = .next (sendCap s p.val) := congrArg Outcome.next (if_pos hgoes)
  have hlink : linkOf (sendCap s p.val) p.val = { linkOf s p.val with capAcked := false, capAt := s.time.ticks } := by
    rw [sendCap, linkOf_sendFlit, linkOf_setLink_same]
  obtain ⟨o, ho⟩ : ∃ o, sendCap s p.val = { setLink s p.val { linkOf s p.val with capAcked := false, capAt := s.time.ticks } with
    out := s.out ++ o } := exists_emitFlit_eq ..
  exact ⟨_, hexec, rfl, by rw [hlink], by rw [hlink], by rw [ho]; rfl⟩

/-- A write of a link's state is all that these rows do. -/
theorem stateSet_leaves (s : State) (p : Nat) {n : Nat} (hn : n < 8) : lnkState (put s .lnkPstat_state n p) p = n ∧
    OnlyRegs s (put s .lnkPstat_state n p) [.lnkPstat_state] :=
  ⟨(get_put_same ..).trans (Nat.mod_eq_of_lt hn), onlyRegs_put ..⟩

theorem linkTrainRetry_cases (hport : portPresent s p.val = true) (h8 : fnReady s 8 = true) (hen : get s .lnkPctl_en p.val ≠ 0)
    (hprbs : get s .lnkPctl_prbs p.val = 0) (hstate : lnkState s p.val = 0) :
    ((linkOf s p.val).downAt + 100000000 ≤ s.time.ticks → Runs (.linkTrainRetry p) s (fun t => lnkState t p.val = 1 ∧
      OnlyRegs s t [.lnkPstat_state])) ∧
    (s.time.ticks < (linkOf s p.val).downAt + 100000000 → Runs (.linkTrainRetry p) s (fun t => t = s)) := by
  have hexec : exec (.linkTrainRetry p) s =
      .next (if (linkOf s p.val).downAt + 100000000 ≤ s.time.ticks then put s .lnkPstat_state 1 p.val else s) := by
    refine congrArg Outcome.next ?_
    simp only [onlyIf, hport, h8, flag, hen, hprbs, hstate, ne_eq, not_true_eq_false, not_false_eq_true, decide_true, decide_false,
      Bool.not_false, Bool.and_true, Bool.true_and, decide_eq_true_eq]
  refine ⟨fun hdue => ⟨_, hexec, ?_⟩, fun hnot => ⟨_, hexec, if_neg (Nat.not_le.mpr hnot)⟩⟩
  rw [if_pos hdue]
  exact stateSet_leaves s p.val (by decide)

theorem runs_linkLpiEnter (hport : portPresent s p.val = true) (h8 : fnReady s 8 = true) (hmolind : isMolind p.val = true)
    (hstate : lnkState s p.val = 3) (hdis : get s .lnkPctl_lpi_dis p.val = 0) (hidle : idleLong s p.val = true) :
    Runs (.linkLpiEnter p) s (fun t => lnkState t p.val = 4 ∧ OnlyRegs s t [.lnkPstat_state]) :=
  ⟨_, congrArg Outcome.next (if_pos (by simp [hmolind, hport, h8, hstate, flag, hdis, hidle])), stateSet_leaves s p.val (by decide)⟩

theorem runs_linkLpiWake (hport : portPresent s p.val = true) (h8 : fnReady s 8 = true) (hmolind : isMolind p.val = true)
    (hstate : lnkState s p.val = 4) (hwaits : (linkOf s p.val).unsent ≠ 0) : Runs (.linkLpiWake p) s (fun t =>
      t = pumpFlits (put s .lnkPstat_state 3 p.val) p.val ∧ lnkState t p.val = 3 ∧ KeptRegs s t [.lnkPstat_state] ∧ KeptMem s t) := by
  have hexec : exec (.linkLpiWake p) s = .next (pumpFlits (put s .lnkPstat_state 3 p.val) p.val) :=
    congrArg Outcome.next (if_pos (by simp [hmolind, hport, h8, hstate, hwaits]))
  have hnet := netOnly_pumpFlits (put s .lnkPstat_state 3 p.val) p.val
  obtain ⟨hset, -, hkept⟩ := stateSet_leaves s p.val (n := 3) (by decide)
  exact ⟨_, hexec, rfl, (lnkState_of_netOnly hnet _).trans hset, keptRegs_trans hkept (keptRegs_of_netOnly hnet _),
    keptMem_of_mem_eq ((mem_of_netOnly hnet).trans (put_mem ..))⟩

theorem topMode_lt (m : BitVec 3) : topMode m < 4 := by
  unfold topMode
  split
  · decide
  · split
    · decide
    · split <;> decide

theorem runs_ethNegotiationDone (hport : portPresent s p.val = true) (h8 : fnReady s 8 = true)
    (heth : isGlobal p.val = true ∨ isFront p.val = true) (hen : get s .lnkPctl_en p.val ≠ 0) (hstate : lnkState s p.val = 1)
    (peer : BitVec 3) (hmode : topMode (ownModes s p.val &&& peer) ≠ 0) : Runs (.ethNegotiationDone p peer) s (fun t =>
      get t .lnkPstat_eth_mode p.val = topMode (ownModes s p.val &&& peer) ∧ OnlyRegs s t [.lnkPstat_eth_mode]) := by
  have hports : (isGlobal p.val || isFront p.val) = true := by simpa using heth
  have hgoes : ((isGlobal p.val || isFront p.val) && portPresent s p.val && fnReady s 8 && flag s .lnkPctl_en p.val &&
      (decide (lnkState s p.val = 1) || decide (lnkState s p.val = 5))) = true := by
    rw [hports]
    simp [hport, h8, flag, hen, hstate]
  refine ⟨_, congrArg Outcome.next ((if_pos hgoes).trans ((if_neg hmode).trans (if_pos hstate))), ?_, onlyRegs_put ..⟩
  exact (get_put_same ..).trans (Nat.mod_eq_of_lt (topMode_lt _))

/-- The rows that write `LNK_PpCTL`, on a port that is present. -/
theorem exec_portWrites (hport : portPresent s p.val = true) (h8 : fnReady s 8 = true) (hup : fn0Up s = true) :
    exec (.linkRetrain p) s = .next (lnkCtlWrite s p.val (lnkCtlWord s p.val + 4)) ∧
    exec (.linkPrbs p) s = .next (lnkCtlWrite s p.val (lnkCtlWord s p.val % 1024 + 1024)) := by
  have hall : (fn0Up s && fnReady s 8 && portPresent s p.val) = true := by rw [hup, h8, hport]; rfl
  exact ⟨congrArg Outcome.next (if_pos hall), congrArg Outcome.next (if_pos hall)⟩

/-- A message of a front port's neighbours, where the port works. -/
theorem exec_ethArpNdRx {e : Fin 7} (hup : inService s (40 + e.val) = true) (h8 : fnReady s 8 = true) (v6 reply : Bool)
    (a : BitVec 128) (mac : BitVec 48) : exec (.ethArpNdRx e v6 ⟨reply, a, mac⟩) s =
      .next (if reply then learn s (40 + e.val) (if v6 then a else BitVec.ofNat 128 (0xFFFF * 2 ^ 32 + a.toNat % 2 ^ 32)) mac
        else if ethOwn s e.val v6 a.toNat then emit s (.arp (40 + e.val) v6 true a) else s) := by
  have hboth : (inService s (40 + e.val) && fnReady s 8) = true := by rw [hup, h8]; rfl
  exact congrArg Outcome.next (if_pos hboth)

end Rows

/-- Settles O52: each row of a port by what it leaves of the link, and the place by what the checks of it write. -/
theorem linksTrainAndIdle : Obligations.LinksTrainAndIdle := by
  intro p s
  refine ⟨fun hport h8 => ⟨exec_linkTrained hport h8, fun hmodule f hok htype => ?capability, runs_capabilityResend hport h8,
    linkTrainRetry_cases hport h8, runs_linkLpiEnter hport h8, runs_linkLpiWake hport h8, runs_ethNegotiationDone hport h8,
    exec_portWrites hport h8⟩, fun v => ⟨fun hen hprbs hretrain => ?training, fun hoff hen hprbs => ?off⟩,
    fun e v6 a mac hup h8 => ?neighbours, fun v hup => ⟨fun h => runs_ctlPlaceWrite_placed hup h v, fun h => runs_ctlPlaceWrite hup h v⟩⟩
  case capability =>
    exact ⟨exec_linkCapabilityRx hport h8 hmodule hok htype, runs_linkCapabilityRx hport h8 hmodule hok htype,
      exec_linkCapabilityAckRx hport h8 hmodule hok htype⟩
  case training =>
    rw [lnkCtlWrite_of_retrain hen hprbs hretrain]
    exact startTraining_leaves ..
  case off =>
    rw [lnkCtlWrite_of_off hoff hen hprbs]
    exact lnkState_leaveService _ _ (by decide)
  case neighbours =>
    have hexec := exec_ethArpNdRx hup h8 v6
    exact ⟨fun hown => ⟨_, (hexec false a mac).trans (congrArg Outcome.next (if_pos hown)), rfl⟩,
      fun hown => ⟨_, (hexec false a mac).trans (congrArg Outcome.next (if_neg (Bool.eq_false_iff.mp hown))), rfl⟩,
      ⟨_, hexec true a mac, learn_leaves s e _ mac⟩⟩

end Sys2Proof.Machine
end
